-- ==== Sys2Proof/Word.lean ====
section
/-! DEFINITION. The word types of the UL8512 and the plainest bit arithmetic on natural numbers. -/

namespace Sys2Proof

/-- One byte of the device address space. -/
abbrev Byte := BitVec 8

/-- One register: every register is 32 bits wide (R570). -/
abbrev Word := BitVec 32

/-- One general or floating-point register of a Prajo core (R126). -/
abbrev DWord := BitVec 64

/-- The `w` bits of `x` from bit `lo` upwards. -/
def bitsAt (x lo w : Nat) : Nat := (x / 2 ^ lo) % 2 ^ w

/-- Bit `i` of `x`. -/
def bitAt (x i : Nat) : Bool := (x / 2 ^ i) % 2 == 1

/-- A truth value as one bit. -/
def bit (b : Bool) : Nat := if b then 1 else 0

/-- `x` with bit `i` made 1. -/
def setBitAt (x i : Nat) : Nat := if bitAt x i then x else x + 2 ^ i

/-- `x` with bit `i` made 0. -/
def clearBitAt (x i : Nat) : Nat := if bitAt x i then x - 2 ^ i else x

/-- `x` with bit `i` made `b`. -/
def putBitAt (x i : Nat) (b : Bool) : Nat := if b then setBitAt x i else clearBitAt x i

/-- The low `w` bits of `x` read as a two's complement number. -/
def signedAt (x w : Nat) : Int :=
  let v := x % 2 ^ w
  if v < 2 ^ (w - 1) then (v : Int) else (v : Int) - (2 ^ w : Nat)

/-- An integer narrowed to `w` bits of two's complement. -/
def narrow (x : Int) (w : Nat) : Nat := (x % ((2 ^ w : Nat) : Int)).toNat

/-- `x + n`, held at the top of `w` bits. -/
def satAdd (x n w : Nat) : Nat := min (x + n) (2 ^ w - 1)

end Sys2Proof
end

