-- ==== Sys2Proof/Syntax.lean ====
section
/-! DEFINITION. The commands of the UL8512 as data: one constructor for each row of spec/opcode_table.json, with the
operands that its rule gives it. Outcomes of physical work that the device only observes (a training result, a
measurement, a comparator level, data on a link) are operands too. -/

namespace Sys2Proof

/-- A channel die CD0 to CD3. -/
abbrev Die := Fin 4

/-- A site S00 to S63. -/
abbrev SiteId := Fin 64

/-- A sequencer core by global number Q00 to Q63 (R9). -/
abbrev CoreId := Fin 64

/-- A Prajo controller: 0 to 63 the sequencer cores, 64 the hub controller. -/
abbrev CtlId := Fin 65

/-- A g or f register number of a Prajo controller (R127). -/
abbrev Reg := Fin 32

/-- A channel CH000 to CH511. -/
abbrev Chan := Fin 512

/-- A schedule table: 0 HD, 1 BD, 2 to 5 CD0 to CD3 (R109). -/
abbrev TblId := Fin 6

/-- Who makes a register or memory access (R104, R116, R572). -/
inductive Master where
  /-- The hub controller. -/
  | hubc
  /-- The PCIe physical function. -/
  | pf
  /-- PCIe virtual function 0. -/
  | vf0
  /-- PCIe virtual function 1. -/
  | vf1
  /-- The CFGP port. -/
  | cfgp
  /-- The debug master. -/
  | dbg
  /-- A sequencer core's control pipeline. -/
  | core (q : CoreId)
  /-- The guest die, behind the firewall. -/
  | guest
  deriving DecidableEq, Repr

/-- The outputs of an Instant Fabric image (R71, R80). -/
structure ImgOut where
  safeRel : BitVec 16 := 0
  trip : Bool := false
  tripCode : BitVec 8 := 0
  sysReq : Bool := false
  safePoint : Bool := false
  evt : BitVec 8 := 0
  pinOut : BitVec 64 := 0
  pinOe : BitVec 64 := 0
  deriving DecidableEq, Repr

/-- The fields an emitting vector instruction carries (R198, format VE). -/
structure Emit where
  ts : BitVec 6
  xs : BitVec 2
  ys : BitVec 2
  ds : BitVec 2
  scr : Bool
  aop : BitVec 4
  wid : BitVec 5
  chk : Bool
  alast : Bool
  deriving DecidableEq, Repr

/-- What the comparators of a die show in one tester cycle (R239 to R242), one bit per die channel: the levels at the
strobe, those with both lanes at 1 somewhere in a window, those whose window held a contrary state of 30 ps or more;
and, for each recovered-strobe unit, the time of the first edge in its window, in tu. -/
structure PinObs where
  qh : BitVec 128
  ql : BitVec 128
  both : BitVec 128
  contrary : BitVec 128
  rsu : List (Option Nat)
  deriving DecidableEq, Repr


/-- How the search of one DUT ended (R297, R298): completed within the budget; stopped by it with the best assignment so
far, as (region, column spare, line); or stopped by it with none. -/
inductive SolveFin where
  | complete
  | best (lines : List (Nat × Bool × Nat))
  | cut
  deriving DecidableEq, Repr

/-- The search of one DUT: how it ended and the steps it used. What a search step is, is the solver's own (R297). -/
structure SolveEnd where
  fin : SolveFin
  steps : Nat
  deriving DecidableEq, Repr

/-- One direction of a die link (R356): of a flit group of a port of a wide link, of the hub link, of a guest leg. `up`
is toward the base die, for a guest leg toward the hub. -/
inductive FlitChan where
  | wide (d : Die) (port : Fin 8) (grp : Fin 2) (up : Bool)
  | hub (up : Bool)
  | legA (up : Bool)
  | legB (up : Bool)
  deriving DecidableEq, Repr

/-- A telemetry frame (R460): power drawn, junction temperatures, the rails' voltages (mV) and currents (10 mA); from the
base die also the temperature of each stack and the power of the guest die. Power is in 0.1 W. -/
structure Frame where
  power : BitVec 12
  temps : List (BitVec 8)
  rails : List (Fin 13 × BitVec 14 × BitVec 18)
  hbm0 : BitVec 8
  hbm1 : BitVec 8
  guest : BitVec 12
  deriving DecidableEq, Repr

/-- A TIME frame of a String link, its TTI corrected for the hop (R485, R486): the TTI of its tick, the second mark that it
announces with the seconds that follow it, the sender's position, and in holdover the deadline. -/
structure TimeFrame where
  tti : BitVec 64
  mark : Option (BitVec 64 × BitVec 40)
  pos : BitVec 4
  hold : Option (BitVec 64)
  deriving DecidableEq, Repr

/-- Who makes a flash service call: a master through FLC_CALL, or the Instant Fabric port with its sector index or flash
offset and, for PROGRAM, one line (R431). -/
inductive FlashBy where
  | reg (m : Master)
  | fabric (arg : BitVec 24) (line : List Byte)
  deriving DecidableEq, Repr

/-- What a PCIe configuration request asks of a function (R497, R501). -/
inductive CfgReq where
  /-- A read, or a write without effect on the device's behaviour. -/
  | plain
  /-- NumVFs with VF Enable, to the PF: the VFs enabled. -/
  | vfEnable (mask : BitVec 2)
  /-- MSI-X Enable and Function Mask. -/
  | msix (enable fmask : Bool)
  /-- The Mask bit of a device vector's table entry. -/
  | vector (v : BitVec 6) (masked : Bool)
  deriving DecidableEq, Repr

/-- A DMA descriptor as read from the ring: its four 64-bit words (R502). -/
structure DmaDesc where
  src : BitVec 64
  dst : BitVec 64
  ctl : BitVec 64
  rest : BitVec 64
  deriving DecidableEq, Repr

/-- The commands: one constructor per row of spec/opcode_table.json. -/
inductive Instr where
  /-- HUB_SUPPLIES_VALID (R35, 02_staged_start_and_modes.md): The last of VCC_AON, VCC_HUB and VCCIO_HUB enters its operating range; PE_SAFE_N stays asserted, other dies are held in reset and hub POR proceeds. -/
  | hubSuppliesValid
  /-- POR (R586, 25_electrical_package_and_thermal.md): A hub rail falls below its POR threshold; the hub asserts power-on reset and every channel parks through the pad defaults and die resets. -/
  | por
  /-- HUB_POR_RELEASE (R38, 02_staged_start_and_modes.md): Hub power-on reset is released with the oscillators running, and stage IF_LOAD begins with its watchdog. -/
  | hubPorRelease
  /-- HUB_SELF_CHECK (R42, 02_staged_start_and_modes.md): The hub ROM checksum and SRAM BIST complete; on failure the device enters Safe with HUB_SELFTEST and ignores start requests until POR or DRST. -/
  | hubSelfCheck (pass : Bool)
  /-- IF_LOAD_COMPLETE (R86, 03_sentry_and_instant_fabric.md): The selected Instant Fabric slot, the other slot or the ROM default image finishes loading with its CRC passed, ending stage IF_LOAD. -/
  | ifLoadComplete
  /-- IMAGE_START (R68, 03_sentry_and_instant_fabric.md): The loaded Instant Fabric image starts from its initial values, Sentry is in force and the device enters SENTRY_WAIT. -/
  | imageStart (out : ImgOut)
  /-- START_REQUEST (R37, 02_staged_start_and_modes.md): A write of one to DEV_START_CTRL.START is accepted in SENTRY_WAIT or after a failure, samples CD_MASK and begins PWR_CHECK. -/
  | startRequest (m : Master)
  /-- PWR_CHECK_COMPLETE (R36, 02_staged_start_and_modes.md): The power-good checks of the base-die, HBM and active channel-die rails pass, and BD_INIT begins with the release of the base die. -/
  | pwrCheckComplete
  /-- PWR_TIMEOUT (R46, 02_staged_start_and_modes.md): A supply is not good within 5 ms of the start request, and the start fails with FAIL_CODE 0x10. -/
  | pwrTimeout (rail : Fin 13)
  /-- BD_BIST_DONE (R46, 02_staged_start_and_modes.md): The base-die start-up BIST completes, including the identity check; a failure fails the start with BD_BIST. -/
  | bdBistDone (pass idOk : Bool)
  /-- HBM_PHY_TRAINING_DONE (R332, 12_memory_placement_and_translation.md): HBM4 PHY training completes in BD_INIT; a failure fails the start with HBM_TRAIN. -/
  | hbmPhyTrainingDone (pass : Bool)
  /-- HUB_LINK_TRAINING_DONE (R363, 13_die_links_and_package_network.md): Training of the hub-base link completes with spares mapped; needing more than two spare lanes fails the start with HUB_LINK. -/
  | hubLinkTrainingDone (tx rx : BitVec 4)
  /-- CD_RELEASE (R36, 02_staged_start_and_modes.md): The hub releases the next channel die of the active die set 100 µs after the previous one, and it begins its BIST and link training. -/
  | cdRelease
  /-- CD_BIST_DONE (R366, 13_die_links_and_package_network.md): A channel-die start-up BIST completes, including the fused position check; a failure fails the start with CD_BIST. -/
  | cdBistDone (d : Die) (pass idOk : Bool)
  /-- D2D_LINK_TRAINING_DONE (R362, 13_die_links_and_package_network.md): Training of a wide link completes with spare wires mapped; needing more than 16 spares on a port fails the start with CD_LINK. -/
  | d2dLinkTrainingDone (d : Die) (spares : List (Nat × Nat))
  /-- STAGE_TIMEOUT (R38, 02_staged_start_and_modes.md): A start stage's watchdog expires, and the stage fails with STAGE_TIMEOUT naming the die whose work is incomplete. -/
  | stageTimeout
  /-- STREAM_CHECK_COMPLETE (R402, 14_fabric_and_configuration_streams.md): Fabric start-up after an accepted stream finishes, with initial values loaded and column signatures computed, and PLL_LOCK begins. -/
  | streamCheckComplete 
  /-- PLL_LOCK_COMPLETE (R450, 17_clocks_and_synthesis.md): The channel-die PLLs lock with their band entries, channel dies leave the bypass clock and CAL_LOAD begins. -/
  | pllLockComplete (d : Die)
  /-- PLL_NO_LOCK (R450, 17_clocks_and_synthesis.md): A PLL does not lock within 150 µs or finds no band entry, and the start fails with FAIL_CODE 0x40. -/
  | pllNoLock (d : Die)
  /-- CAL_LOAD_COMPLETE (R65, 02_staged_start_and_modes.md): Factory calibration is loaded into the timing generators, or found missing and failed with CAL_MISSING unless NOCAL applies, and DESKEW begins. -/
  | calLoadComplete (d : Die)
  /-- DESKEW_MEASUREMENT_DONE (R244, 08_timing_generation_and_pe_ports.md): A 312.5 µs measurement of one timing group ends; accepted results update CAL, DSK_COUNT and STALE, and outliers are rejected. -/
  | deskewMeasurementDone (d : Die) (vals : List (List Int))
  /-- OVER_TEMPERATURE_TRIP (R463, 18_power_management.md): A die or stack temperature trip reaches the hub as a P1 safety trip, latches PWR_TRIP_CAUSE and raises HARD_TRIP. -/
  | overTemperatureTrip (code : Fin 8)
  /-- SUPPLY_TRIP (R463, 18_power_management.md): A rail outside its trip window or above its trip current for 1 µs reaches the hub as a P1 safety trip. -/
  | supplyTrip (code : Fin 6) (rail : Fin 13)
  /-- SENTRY_LOGIC_TRIP (R72, 03_sentry_and_instant_fabric.md): The image's TRIP output is sampled rising; a P1 safety trip with SAFE_CAUSE 0x03 and TRIP_CODE latched. -/
  | sentryLogicTrip (code : BitVec 8)
  /-- PE_SAFE_REQUEST (R72, 03_sentry_and_instant_fabric.md): The image's SYS_REQ output is sampled rising; a P1 safety trip with SAFE_CAUSE 0x04. -/
  | peSafeRequest
  /-- UNRECOVERABLE_SAFE_ENTRY (R52, 02_staged_start_and_modes.md): After an unrecoverable fault, once no site is Running or Curtaining or the largest stop bound plus 1 µs has passed, the device enters Safe. -/
  | unrecoverableSafeEntry
  /-- ENTER_LOAD (R53, 02_staged_start_and_modes.md): A write of ENTER_LOAD from Ready or Safe returns to Load, resampling the active die set and DIE-resetting its channel dies from Safe; otherwise REQ_REFUSED is set. -/
  | enterLoad (m : Master)
  /-- DEV_RST_N_LOW (R59, 02_staged_start_and_modes.md): DEV_RST_N has been sampled low for 80 ticks, and DRST takes effect in that tick with PE_SAFE_N returning to its asserted defaults. -/
  | devRstNLow
  /-- DEV_RST_N_HIGH (R59, 02_staged_start_and_modes.md): DEV_RST_N returns high after a DRST and the hub restarts its boot, with Sentry in force again within 1.2 ms. -/
  | devRstNHigh
  /-- DRST (R60, 02_staged_start_and_modes.md): A keyed host device-reset command sends stop requests to Running sites and waits for every channel to park. -/
  | drst (m : Master)
  /-- HOST_RESET_TAKES_EFFECT (R60, 02_staged_start_and_modes.md): Once every channel is parked after a host device reset, the DRST is applied to the whole device. -/
  | hostResetTakesEffect
  /-- CD_RST (R61, 02_staged_start_and_modes.md): A keyed DIE reset of a channel die is judged; if accepted the die is reset, released again and retrained, and the mode becomes Load. -/
  | cdRst (m : Master) (d : Die)
  /-- BD_RST (R61, 02_staged_start_and_modes.md): A keyed DIE reset of the base die is judged; if accepted every channel die is held in reset and the device returns to SENTRY_WAIT. -/
  | bdRst (m : Master)
  /-- CORE_RST (R62, 02_staged_start_and_modes.md): A keyed CORE reset of the selected core is applied if its site permits, clearing its architectural state, VIQ and pending counters. -/
  | coreRst (m : Master) (q : CoreId)
  /-- SAFE_REL_CHANGE (R73, 03_sentry_and_instant_fabric.md): The image changes SAFE_REL, and the PE_SAFE_N lines follow the Sentry policy within 2 ticks. -/
  | safeRelChange (rel : BitVec 16)
  /-- SNT_GROUP_FORCE_WRITE (R75, 03_sentry_and_instant_fabric.md): Host software writes SNT_GROUP_FORCE, adding or removing host assertion of PE_SAFE_N groups. -/
  | sntGroupForceWrite (m : Master) (v : BitVec 16)
  /-- SNT_POLICY_WRITE (R73, 03_sentry_and_instant_fabric.md): Host software writes RELEASE_EN of SNT_POLICY, unless locked, changing which groups the host permits to release. -/
  | sntPolicyWrite (m : Master) (v : BitVec 16)
  /-- EVT_TRIGGER (R71, 03_sentry_and_instant_fabric.md): An Instant Fabric EVT line is sampled rising, giving one P7 trigger and arrivals at routed event inputs. -/
  | evtTrigger (line : Fin 8)
  /-- TRIG_F_TRIGGER (R384, 14_fabric_and_configuration_streams.md): A main-fabric trigger line TRIG_F rises, giving one P7 trigger and arrivals at routed event inputs. -/
  | trigFTrigger (d : Die) (line : Fin 8)
  /-- MBOX_FROM (R71, 03_sentry_and_instant_fabric.md): The image strobes a word on MBOX_FROM, which host software reads from SNT_MBOX_FROM, and MBOX_FULL is set. -/
  | mboxFrom (w : Word)
  /-- MBOX_FROM_READ (R93, 03_sentry_and_instant_fabric.md): A read of SNT_MBOX_FROM returns the image's last word and clears MBOX_FULL. -/
  | mboxFromRead (m : Master)
  /-- MBOX_TO_WRITE (R93, 03_sentry_and_instant_fabric.md): A write to SNT_MBOX_TO presents the word to the image and pulses MBOX_TO_STB. -/
  | mboxToWrite (m : Master) (w : Word)
  /-- SWAP_REQUEST (R88, 03_sentry_and_instant_fabric.md): A keyed write of SNT_SWAP_CTRL.REQ is accepted if the lock, mode, inactive slot and flash lease permit, otherwise SWAP_REFUSED is set. -/
  | swapRequest (m : Master) (key : BitVec 8)
  /-- SWAP_CANCEL (R89, 03_sentry_and_instant_fabric.md): A keyed write of CANCEL withdraws a pending swap request that is not yet active. -/
  | swapCancel (m : Master) (key : BitVec 8)
  /-- SWAP_BEGIN (R89, 03_sentry_and_instant_fabric.md): SAFE_POINT is sampled at one for a pending swap, the swap becomes active and the target slot CRC re-check starts. -/
  | swapBegin
  /-- SWAP_TIMEOUT (R89, 03_sentry_and_instant_fabric.md): SAFE_POINT does not rise within SNT_SWAP_TMO; the request is cancelled, SWAP_REFUSED is set and the lease released. -/
  | swapTimeout
  /-- SWAP_CRC_CHECK (R89, 03_sentry_and_instant_fabric.md): The target slot CRC re-check ends; on failure the swap ends with the old image running, otherwise every group is asserted and the old image stops. -/
  | swapCrcCheck
  /-- SWAP_LOAD_DONE (R90, 03_sentry_and_instant_fabric.md): The new image finishes loading; it starts with its header's ownership, or a CRC failure reloads the previous slot. -/
  | swapLoadDone (out : ImgOut)
  /-- SWAP_RELOAD_DONE (R90, 03_sentry_and_instant_fabric.md): The reload of the previous slot after a failed swap ends, or fails and the ROM default image loads, with a class A record. -/
  | swapReloadDone (out : ImgOut)
  /-- ACQUIRE (R98, 04_tester_time_and_events.md): A write of TIM_CTRL.ACQUIRE begins an acquisition of the selected source if no site is active, otherwise ACQ_REFUSED is set. -/
  | acquire (m : Master)
  /-- ACQUISITION_COMPLETE (R98, 04_tester_time_and_events.md): An acquisition completes at a reference edge: TTI loads, LOCKED sets, TIME_UNSURE clears and the reference moves to the acquired source. -/
  | acquisitionComplete (tti : BitVec 64) (sec : BitVec 40) (tick : BitVec 30)
  /-- REF_LOST (R444, 17_clocks_and_synthesis.md): REFCLK100 shows no edge for 40 ns or drifts from OSC100 by over 5%; OSC100 is substituted and time becomes unsure. -/
  | refLost
  /-- SECOND_MARK (R102, 04_tester_time_and_events.md): A second mark ends a second: TIM_TICK becomes 0 and TIM_SEC counts on or takes a staged value. -/
  | secondMark
  /-- GO (R106, 04_tester_time_and_events.md): A write of TIM_SET_GO.GO stages the time-of-day value for the next mark, or is refused with SET_REFUSED. -/
  | go (m : Master)
  /-- TIM_TTI_LO_READ (R104, 04_tester_time_and_events.md): A read of TIM_TTI_LO returns the live low word and latches the high word into the master's snapshot. -/
  | timTtiLoRead (m : Master)
  /-- TIM_TICK_READ (R105, 04_tester_time_and_events.md): A read of TIM_TICK returns the live tick and opens the tick-first order, or returns the snapshot and closes the seconds-first order. -/
  | timTickRead (m : Master)
  /-- TIM_SEC_LO_READ (R105, 04_tester_time_and_events.md): A read of TIM_SEC_LO returns the snapshot in the tick-first order, or returns live seconds and opens the seconds-first order. -/
  | timSecLoRead (m : Master)
  /-- TIM_SEC_HI_READ (R105, 04_tester_time_and_events.md): A read of TIM_SEC_HI returns snapshot bits [39:32] and closes an open tick-first order. -/
  | timSecHiRead (m : Master)
  /-- SNAPSHOT_LO_READ (R274, 09_compare_and_fail_capture.md): A read of the LO word of a wide counter or value returns its current value and latches the HI word into the master's snapshot. -/
  | snapshotLoRead (m : Master) (addr : BitVec 24)
  /-- ARM (R111, 04_tester_time_and_events.md): A write of ARM to a schedule entry is judged for lead, target and power wake, and the entry becomes ARMED, MISSED or REFUSED. -/
  | arm (m : Master) (t : TblId) (e : Fin 256) (w : Word)
  /-- DISARM (R110, 04_tester_time_and_events.md): A write of DISARM makes an ARMED schedule entry CANCELLED. -/
  | disarm (m : Master) (t : TblId) (e : Fin 256) (w : Word)
  /-- LINKED_COPY_PLACEMENT (R113, 04_tester_time_and_events.md): Within 1 µs of a SITE_START ARM the hub places LINKED copies on the site's dies, or removes them on TABLE_FULL or a wake that cannot be met. -/
  | linkedCopyPlacement (e : Fin 256)
  /-- SITE_START_HIT (R114, 04_tester_time_and_events.md): An armed SITE_START reaches its TTI; the site enters Running at cycle 0 or the start is refused and the entry becomes REFUSED. -/
  | siteStartHit (e : Fin 256)
  /-- SITE_STOP_HIT (R112, 04_tester_time_and_events.md): An armed SITE_STOP reaches its TTI and raises a stop request with cause SCHED_STOP. -/
  | siteStopHit (e : Fin 256)
  /-- EVENT_HIT (R112, 04_tester_time_and_events.md): An armed EVENT entry reaches its TTI and adds one arrival to the named event input. -/
  | eventHit (d : Die) (e : Fin 256)
  /-- PD_START_HIT (R230, 08_timing_generation_and_pe_ports.md): An armed PD_START reaches its TTI and starts the period domain, or is refused with PD_BUSY. -/
  | pdStartHit (d : Die) (e : Fin 256)
  /-- TRIG_OUT_HIT (R112, 04_tester_time_and_events.md): An armed TRIG_OUT reaches its TTI and pulses the HGPIO pin or trigger line for ARG ticks, or writes TRIG_DROPPED. -/
  | trigOutHit (t : TblId) (e : Fin 256)
  /-- PWR_STATE_HIT (R473, 18_power_management.md): An armed PWR_STATE entry reaches its TTI and sets the channel die's DECL_MAX. -/
  | pwrStateHit (t : TblId) (e : Fin 256)
  /-- EVENT_ARRIVAL (R121, 04_tester_time_and_events.md): Arrivals reach an event input's sampler and are added to the pending counter, saturating at 255, before a pending WAITE consumes one. -/
  | eventArrival (x : CtlId) (inp : Fin 16) (n : Nat)
  /-- EVI_CNT_LOAD (R121, 04_tester_time_and_events.md): A host write to SEQ_EVI_CNT loads the pending counter before the tick's arrivals are added. -/
  | eviCntLoad (m : Master) (q : CoreId) (inp : Fin 16) (v : BitVec 8)
  /-- ILLEGAL_OPCODE (R157, 06_prajo_control_instructions.md): A fetched instruction with a reserved opcode, field value or non-zero unused bit, or of the wrong profile, faults without effect. -/
  | illegalOpcode (x : CtlId) (vec : Bool)
  /-- NOP (R169, 06_prajo_control_instructions.md): The SYS instruction NOP does nothing for 1 cycle. -/
  | nop (x : CtlId)
  /-- BRK (R182, 06_prajo_control_instructions.md): BRK halts the core for an attached debugger, or raises BREAK_UNHANDLED or the hub exception. -/
  | brk (x : CtlId) (tag : BitVec 16)
  /-- FENCE (R169, 06_prajo_control_instructions.md): FENCE issues and waits until every earlier load and store of its pipeline is visible to every master. -/
  | fence (x : CtlId)
  /-- FENCE_COMPLETE (R169, 06_prajo_control_instructions.md): The earlier accesses of a FENCE have drained, and the next instruction may issue. -/
  | fenceComplete (x : CtlId)
  /-- IFLUSH (R169, 06_prajo_control_instructions.md): IFLUSH invalidates the pipeline's instruction cache in 64 cycles. -/
  | iflush (x : CtlId)
  /-- CEND (R183, 06_prajo_control_instructions.md): CEND stops the control pipeline without a fault until readmission or reset, leaving the vector pipeline running. -/
  | cend (x : CtlId)
  /-- ERET (R183, 06_prajo_control_instructions.md): ERET on the hub controller returns to HUBC_EPC and clears IN_HANDLER. -/
  | eret (x : CtlId)
  /-- ADD (R162, 06_prajo_control_instructions.md): ADD writes a + b modulo 2^64. -/
  | add (x : CtlId) (rd rs1 rs2 : Reg)
  /-- SUB (R162, 06_prajo_control_instructions.md): SUB writes a − b modulo 2^64. -/
  | sub (x : CtlId) (rd rs1 rs2 : Reg)
  /-- AND (R162, 06_prajo_control_instructions.md): AND writes a and b. -/
  | andR (x : CtlId) (rd rs1 rs2 : Reg)
  /-- OR (R162, 06_prajo_control_instructions.md): OR writes a or b. -/
  | orR (x : CtlId) (rd rs1 rs2 : Reg)
  /-- XOR (R162, 06_prajo_control_instructions.md): XOR writes a xor b. -/
  | xor (x : CtlId) (rd rs1 rs2 : Reg)
  /-- ANDN (R162, 06_prajo_control_instructions.md): ANDN writes a and not b. -/
  | andn (x : CtlId) (rd rs1 rs2 : Reg)
  /-- SHL (R162, 06_prajo_control_instructions.md): SHL writes a shifted left by b[5:0]. -/
  | shl (x : CtlId) (rd rs1 rs2 : Reg)
  /-- SHR (R162, 06_prajo_control_instructions.md): SHR writes a shifted right with zero fill. -/
  | shr (x : CtlId) (rd rs1 rs2 : Reg)
  /-- SAR (R162, 06_prajo_control_instructions.md): SAR writes a shifted right with sign fill. -/
  | sar (x : CtlId) (rd rs1 rs2 : Reg)
  /-- ROR (R162, 06_prajo_control_instructions.md): ROR writes a rotated right by b[5:0]. -/
  | ror (x : CtlId) (rd rs1 rs2 : Reg)
  /-- CLT (R162, 06_prajo_control_instructions.md): CLT writes 1 if a < b signed, else 0. -/
  | clt (x : CtlId) (rd rs1 rs2 : Reg)
  /-- CLTU (R162, 06_prajo_control_instructions.md): CLTU writes 1 if a < b unsigned, else 0. -/
  | cltu (x : CtlId) (rd rs1 rs2 : Reg)
  /-- CEQ (R162, 06_prajo_control_instructions.md): CEQ writes 1 if a = b, else 0. -/
  | ceq (x : CtlId) (rd rs1 rs2 : Reg)
  /-- MIN (R162, 06_prajo_control_instructions.md): MIN writes the signed minimum of a and b. -/
  | min (x : CtlId) (rd rs1 rs2 : Reg)
  /-- MAX (R162, 06_prajo_control_instructions.md): MAX writes the signed maximum of a and b. -/
  | max (x : CtlId) (rd rs1 rs2 : Reg)
  /-- MINU (R162, 06_prajo_control_instructions.md): MINU writes the unsigned minimum of a and b. -/
  | minu (x : CtlId) (rd rs1 rs2 : Reg)
  /-- MAXU (R162, 06_prajo_control_instructions.md): MAXU writes the unsigned maximum of a and b. -/
  | maxu (x : CtlId) (rd rs1 rs2 : Reg)
  /-- CLZ (R162, 06_prajo_control_instructions.md): CLZ writes the leading zero count of a, 64 for zero. -/
  | clz (x : CtlId) (rd rs1 : Reg)
  /-- CTZ (R162, 06_prajo_control_instructions.md): CTZ writes the trailing zero count of a, 64 for zero. -/
  | ctz (x : CtlId) (rd rs1 : Reg)
  /-- POPC (R162, 06_prajo_control_instructions.md): POPC writes the number of ones in a. -/
  | popc (x : CtlId) (rd rs1 : Reg)
  /-- SXB (R162, 06_prajo_control_instructions.md): SXB writes a[7:0] sign-extended. -/
  | sxb (x : CtlId) (rd rs1 : Reg)
  /-- SXH (R162, 06_prajo_control_instructions.md): SXH writes a[15:0] sign-extended. -/
  | sxh (x : CtlId) (rd rs1 : Reg)
  /-- SXW (R162, 06_prajo_control_instructions.md): SXW writes a[31:0] sign-extended. -/
  | sxw (x : CtlId) (rd rs1 : Reg)
  /-- ZXW (R162, 06_prajo_control_instructions.md): ZXW writes a[31:0] zero-extended. -/
  | zxw (x : CtlId) (rd rs1 : Reg)
  /-- MUL (R163, 06_prajo_control_instructions.md): MUL writes the low 64 bits of a × b in 3 cycles. -/
  | mul (x : CtlId) (rd rs1 rs2 : Reg)
  /-- MULH (R163, 06_prajo_control_instructions.md): MULH writes the high 64 bits of the signed product. -/
  | mulh (x : CtlId) (rd rs1 rs2 : Reg)
  /-- MULHU (R163, 06_prajo_control_instructions.md): MULHU writes the high 64 bits of the unsigned product. -/
  | mulhu (x : CtlId) (rd rs1 rs2 : Reg)
  /-- DIV (R163, 06_prajo_control_instructions.md): DIV writes the signed quotient toward zero in 36 cycles, with defined results for zero and overflow. -/
  | div (x : CtlId) (rd rs1 rs2 : Reg)
  /-- DIVU (R163, 06_prajo_control_instructions.md): DIVU writes the unsigned quotient, all ones on division by zero. -/
  | divu (x : CtlId) (rd rs1 rs2 : Reg)
  /-- REM (R163, 06_prajo_control_instructions.md): REM writes the signed remainder with the dividend's sign. -/
  | rem (x : CtlId) (rd rs1 rs2 : Reg)
  /-- REMU (R163, 06_prajo_control_instructions.md): REMU writes the unsigned remainder, a on division by zero. -/
  | remu (x : CtlId) (rd rs1 rs2 : Reg)
  /-- ADDI (R164, 06_prajo_control_instructions.md): ADDI writes a + imm. -/
  | addi (x : CtlId) (rd rs1 : Reg) (imm : BitVec 43)
  /-- ANDI (R164, 06_prajo_control_instructions.md): ANDI writes a and imm. -/
  | andi (x : CtlId) (rd rs1 : Reg) (imm : BitVec 43)
  /-- ORI (R164, 06_prajo_control_instructions.md): ORI writes a or imm. -/
  | ori (x : CtlId) (rd rs1 : Reg) (imm : BitVec 43)
  /-- XORI (R164, 06_prajo_control_instructions.md): XORI writes a xor imm. -/
  | xori (x : CtlId) (rd rs1 : Reg) (imm : BitVec 43)
  /-- SHI (R164, 06_prajo_control_instructions.md): SHI shifts or rotates a by an immediate amount of the selected kind. -/
  | shi (x : CtlId) (rd rs1 : Reg) (kind : BitVec 2) (amt : BitVec 6)
  /-- CLTI (R164, 06_prajo_control_instructions.md): CLTI writes 1 if a < imm signed. -/
  | clti (x : CtlId) (rd rs1 : Reg) (imm : BitVec 43)
  /-- CLTUI (R164, 06_prajo_control_instructions.md): CLTUI writes 1 if a < imm unsigned. -/
  | cltui (x : CtlId) (rd rs1 : Reg) (imm : BitVec 43)
  /-- LI (R164, 06_prajo_control_instructions.md): LI writes the immediate. -/
  | li (x : CtlId) (rd : Reg) (imm : BitVec 43)
  /-- ADDPC (R164, 06_prajo_control_instructions.md): ADDPC writes PC + imm. -/
  | addpc (x : CtlId) (rd : Reg) (imm : BitVec 43)
  /-- PFX (R159, 06_prajo_control_instructions.md): PFX supplies the upper 21 bits of the next instruction's immediate, the pair acting as one instruction. -/
  | pfx (x : CtlId) (hi : BitVec 21)
  /-- BEQ (R165, 06_prajo_control_instructions.md): BEQ branches if a = b. -/
  | beq (x : CtlId) (rs1 rs2 : Reg) (off : BitVec 43)
  /-- BNE (R165, 06_prajo_control_instructions.md): BNE branches if a ≠ b. -/
  | bne (x : CtlId) (rs1 rs2 : Reg) (off : BitVec 43)
  /-- BLT (R165, 06_prajo_control_instructions.md): BLT branches if a < b signed. -/
  | blt (x : CtlId) (rs1 rs2 : Reg) (off : BitVec 43)
  /-- BGE (R165, 06_prajo_control_instructions.md): BGE branches if a ≥ b signed. -/
  | bge (x : CtlId) (rs1 rs2 : Reg) (off : BitVec 43)
  /-- BLTU (R165, 06_prajo_control_instructions.md): BLTU branches if a < b unsigned. -/
  | bltu (x : CtlId) (rs1 rs2 : Reg) (off : BitVec 43)
  /-- BGEU (R165, 06_prajo_control_instructions.md): BGEU branches if a ≥ b unsigned. -/
  | bgeu (x : CtlId) (rs1 rs2 : Reg) (off : BitVec 43)
  /-- BL (R165, 06_prajo_control_instructions.md): BL writes the link and jumps PC-relative. -/
  | bl (x : CtlId) (rd : Reg) (off : BitVec 43)
  /-- JLR (R166, 06_prajo_control_instructions.md): JLR jumps to a + imm and writes the link, or raises MISALIGNED for a misaligned target. -/
  | jlr (x : CtlId) (rd rs1 : Reg) (imm : BitVec 43)
  /-- LD (R167, 06_prajo_control_instructions.md): LD issues a naturally aligned load of 8 to 64 bits into a g or f register, faulting on misalignment, bus error or execute-only data. -/
  | ld (x : CtlId) (rd rs1 : Reg) (sz : BitVec 2) (u f : Bool) (off : BitVec 39)
  /-- LOAD_DATA_ARRIVAL (R167, 06_prajo_control_instructions.md): Load data arrive and are written to rd, releasing any reader stalled on it. -/
  | loadDataArrival (x : CtlId) (k : Nat) (ue : Bool)
  /-- ST (R167, 06_prajo_control_instructions.md): ST places an aligned store into the store buffer, faulting on misalignment or bus error. -/
  | st (x : CtlId) (rs1 rs2 : Reg) (sz : BitVec 2) (f : Bool) (off : BitVec 39)
  /-- WAITE (R170, 06_prajo_control_instructions.md): WAITE waits on an event input of its core, completing when it consumes a count, or at its deadline with DL = 1. -/
  | waite (x : CtlId) (rd : Reg) (inp : Fin 16) (dl : Option Reg)
  /-- WAITE_DEADLINE (R171, 06_prajo_control_instructions.md): The deadline TTI of a WAITE with DL = 1 is reached with the counter still zero, and it completes with rd := 0. -/
  | waiteDeadline (x : CtlId)
  /-- WAITT (R172, 06_prajo_control_instructions.md): WAITT declares a TTI target and waits for it. -/
  | waitt (x : CtlId) (rd rs1 : Reg) (imm : BitVec 43)
  /-- WAITT_TARGET (R172, 06_prajo_control_instructions.md): The TTI target of a pending WAITT is reached, and it completes with rd := lateness. -/
  | waittTarget (x : CtlId)
  /-- SIG (R175, 06_prajo_control_instructions.md): SIG in the control pipeline, after earlier stores are visible, adds one arrival to an event input of a core or the hub controller, or raises UNIT_ABSENT. -/
  | sig (x : CtlId) (tgt : BitVec 7) (inp : Fin 16) (reg : Option Reg)
  /-- SIG_VECTOR (R199, 07_prajo_vector_instructions.md): SIG in the vector pipeline sends an arrival at execution, or with PIN = 1 when the next emitted cycle reaches the pins. -/
  | sigVector (q : CoreId) (tgt : BitVec 7) (inp : Fin 16) (pin : Bool)
  /-- PUSHV (R176, 06_prajo_control_instructions.md): PUSHV appends a word to the VPQ, stalling while it holds 16 words. -/
  | pushv (x : CtlId) (rs1 : Reg)
  /-- PUSHV_SPACE (R129, 05_prajo_programming_model.md): A VPOP frees VPQ room and a stalled PUSHV completes its append. -/
  | pushvSpace (q : CoreId)
  /-- RDV (R177, 06_prajo_control_instructions.md): RDV reads a vector loop, APG address or data register into rd. -/
  | rdv (x : CtlId) (rd : Reg) (idx : BitVec 5)
  /-- CAPQ (R178, 06_prajo_control_instructions.md): CAPQ returns capability registers, unit presence or the controller identity without faulting. -/
  | capq (x : CtlId) (rd rs1 : Reg) (sel : BitVec 8)
  /-- STIM (R181, 06_prajo_control_instructions.md): STIM writes a value to a stimulus port, emitting one class C trace packet or dropping it on a full buffer. -/
  | stim (x : CtlId) (rs1 : Reg) (port : BitVec 5)
  /-- RDT (R180, 06_prajo_control_instructions.md): RDT returns the current TTI or the site cycle count. -/
  | rdt (x : CtlId) (rd : Reg) (sel : BitVec 2)
  /-- RDCS (R184, 06_prajo_control_instructions.md): RDCS reads FPSTAT or a hub exception control state. -/
  | rdcs (x : CtlId) (rd : Reg) (sel : BitVec 4)
  /-- WRCS (R184, 06_prajo_control_instructions.md): WRCS writes FPSTAT or a hub exception control state, effective for the next instruction. -/
  | wrcs (x : CtlId) (rs1 : Reg) (sel : BitVec 4)
  /-- FADD (R192, 06_prajo_control_instructions.md): FADD adds two floating-point values under the rounding mode. -/
  | fadd (x : CtlId) (p : Bool) (rm : BitVec 3) (rd rs1 rs2 : Reg)
  /-- FSUB (R192, 06_prajo_control_instructions.md): FSUB subtracts two floating-point values. -/
  | fsub (x : CtlId) (p : Bool) (rm : BitVec 3) (rd rs1 rs2 : Reg)
  /-- FMUL (R192, 06_prajo_control_instructions.md): FMUL multiplies two floating-point values. -/
  | fmul (x : CtlId) (p : Bool) (rm : BitVec 3) (rd rs1 rs2 : Reg)
  /-- FDIV (R192, 06_prajo_control_instructions.md): FDIV divides two floating-point values. -/
  | fdiv (x : CtlId) (p : Bool) (rm : BitVec 3) (rd rs1 rs2 : Reg)
  /-- FSQRT (R192, 06_prajo_control_instructions.md): FSQRT takes the square root. -/
  | fsqrt (x : CtlId) (p : Bool) (rm : BitVec 3) (rd rs1 : Reg)
  /-- FMIN (R193, 06_prajo_control_instructions.md): FMIN returns minimumNumber of its operands. -/
  | fmin (x : CtlId) (p : Bool) (rm : BitVec 3) (rd rs1 rs2 : Reg)
  /-- FMAX (R193, 06_prajo_control_instructions.md): FMAX returns maximumNumber of its operands. -/
  | fmax (x : CtlId) (p : Bool) (rm : BitVec 3) (rd rs1 rs2 : Reg)
  /-- FMINM (R193, 06_prajo_control_instructions.md): FMINM returns minimum, NaN if either operand is NaN. -/
  | fminm (x : CtlId) (p : Bool) (rm : BitVec 3) (rd rs1 rs2 : Reg)
  /-- FMAXM (R193, 06_prajo_control_instructions.md): FMAXM returns maximum, NaN if either operand is NaN. -/
  | fmaxm (x : CtlId) (p : Bool) (rm : BitVec 3) (rd rs1 rs2 : Reg)
  /-- FEQ (R192, 06_prajo_control_instructions.md): FEQ writes the quiet equality comparison to a g register. -/
  | feq (x : CtlId) (p : Bool) (rm : BitVec 3) (rd rs1 rs2 : Reg)
  /-- FLT (R192, 06_prajo_control_instructions.md): FLT writes the signalling less-than comparison. -/
  | flt (x : CtlId) (p : Bool) (rm : BitVec 3) (rd rs1 rs2 : Reg)
  /-- FLE (R192, 06_prajo_control_instructions.md): FLE writes the signalling less-or-equal comparison. -/
  | fle (x : CtlId) (p : Bool) (rm : BitVec 3) (rd rs1 rs2 : Reg)
  /-- FLTQ (R192, 06_prajo_control_instructions.md): FLTQ writes the quiet less-than comparison. -/
  | fltq (x : CtlId) (p : Bool) (rm : BitVec 3) (rd rs1 rs2 : Reg)
  /-- FLEQ (R192, 06_prajo_control_instructions.md): FLEQ writes the quiet less-or-equal comparison. -/
  | fleq (x : CtlId) (p : Bool) (rm : BitVec 3) (rd rs1 rs2 : Reg)
  /-- FUN (R192, 06_prajo_control_instructions.md): FUN writes whether the operands are unordered. -/
  | fun (x : CtlId) (p : Bool) (rm : BitVec 3) (rd rs1 rs2 : Reg)
  /-- FCLASS (R193, 06_prajo_control_instructions.md): FCLASS writes the class mask of its operand. -/
  | fclass (x : CtlId) (p : Bool) (rm : BitVec 3) (rd rs1 : Reg)
  /-- FSGNJ (R192, 06_prajo_control_instructions.md): FSGNJ copies the magnitude of x with the sign of y. -/
  | fsgnj (x : CtlId) (p : Bool) (rm : BitVec 3) (rd rs1 rs2 : Reg)
  /-- FSGNJN (R192, 06_prajo_control_instructions.md): FSGNJN copies x with the inverted sign of y. -/
  | fsgnjn (x : CtlId) (p : Bool) (rm : BitVec 3) (rd rs1 rs2 : Reg)
  /-- FSGNJX (R192, 06_prajo_control_instructions.md): FSGNJX copies x with the xor of both signs. -/
  | fsgnjx (x : CtlId) (p : Bool) (rm : BitVec 3) (rd rs1 rs2 : Reg)
  /-- FCVT_F_F (R192, 06_prajo_control_instructions.md): FCVT.F.F converts between binary32 and binary64. -/
  | fcvtFF (x : CtlId) (p : Bool) (rm : BitVec 3) (rd rs1 : Reg)
  /-- FCVT_W (R194, 06_prajo_control_instructions.md): FCVT.W converts to a signed 32-bit integer, saturating with NV. -/
  | fcvtW (x : CtlId) (p : Bool) (rm : BitVec 3) (rd rs1 : Reg)
  /-- FCVT_WU (R194, 06_prajo_control_instructions.md): FCVT.WU converts to an unsigned 32-bit integer. -/
  | fcvtWu (x : CtlId) (p : Bool) (rm : BitVec 3) (rd rs1 : Reg)
  /-- FCVT_L (R194, 06_prajo_control_instructions.md): FCVT.L converts to a signed 64-bit integer. -/
  | fcvtL (x : CtlId) (p : Bool) (rm : BitVec 3) (rd rs1 : Reg)
  /-- FCVT_LU (R194, 06_prajo_control_instructions.md): FCVT.LU converts to an unsigned 64-bit integer. -/
  | fcvtLu (x : CtlId) (p : Bool) (rm : BitVec 3) (rd rs1 : Reg)
  /-- FCVT_F_W (R192, 06_prajo_control_instructions.md): FCVT.F.W converts a signed 32-bit integer to floating point. -/
  | fcvtFW (x : CtlId) (p : Bool) (rm : BitVec 3) (rd rs1 : Reg)
  /-- FCVT_F_WU (R192, 06_prajo_control_instructions.md): FCVT.F.WU converts an unsigned 32-bit integer to floating point. -/
  | fcvtFWu (x : CtlId) (p : Bool) (rm : BitVec 3) (rd rs1 : Reg)
  /-- FCVT_F_L (R192, 06_prajo_control_instructions.md): FCVT.F.L converts a signed 64-bit integer to floating point. -/
  | fcvtFL (x : CtlId) (p : Bool) (rm : BitVec 3) (rd rs1 : Reg)
  /-- FCVT_F_LU (R192, 06_prajo_control_instructions.md): FCVT.F.LU converts an unsigned 64-bit integer to floating point. -/
  | fcvtFLu (x : CtlId) (p : Bool) (rm : BitVec 3) (rd rs1 : Reg)
  /-- FMV_G_F (R192, 06_prajo_control_instructions.md): FMV.G.F copies the bits of an f register to a g register. -/
  | fmvGF (x : CtlId) (p : Bool) (rm : BitVec 3) (rd rs1 : Reg)
  /-- FMV_F_G (R192, 06_prajo_control_instructions.md): FMV.F.G copies the bits of a g register to an f register. -/
  | fmvFG (x : CtlId) (p : Bool) (rm : BitVec 3) (rd rs1 : Reg)
  /-- FRINTX (R192, 06_prajo_control_instructions.md): FRINTX rounds to an integral value in its format. -/
  | frintx (x : CtlId) (p : Bool) (rm : BitVec 3) (rd rs1 : Reg)
  /-- FMADD (R192, 06_prajo_control_instructions.md): FMADD computes x × y + z with one rounding. -/
  | fmadd (x : CtlId) (p : Bool) (rm : BitVec 3) (rd rs1 rs2 rs3 : Reg)
  /-- FMSUB (R192, 06_prajo_control_instructions.md): FMSUB computes x × y − z with one rounding. -/
  | fmsub (x : CtlId) (p : Bool) (rm : BitVec 3) (rd rs1 rs2 rs3 : Reg)
  /-- FNMADD (R192, 06_prajo_control_instructions.md): FNMADD computes −(x × y + z). -/
  | fnmadd (x : CtlId) (p : Bool) (rm : BitVec 3) (rd rs1 rs2 rs3 : Reg)
  /-- FNMSUB (R192, 06_prajo_control_instructions.md): FNMSUB computes −(x × y) + z. -/
  | fnmsub (x : CtlId) (p : Bool) (rm : BitVec 3) (rd rs1 rs2 rs3 : Reg)
  /-- VDECL (R221, 07_prajo_vector_instructions.md): A VDECL reached by execution raises ILLEGAL_OPCODE; declarations are only read at admission. -/
  | vdecl (q : CoreId)
  /-- ROWS (R201, 07_prajo_vector_instructions.md): ROWS emits k inline rows into the VIQ with their timing-set selections and APG operations. -/
  | rows (q : CoreId) (em : Emit) (prt : Bool) (rows : List (BitVec 512 × BitVec 6))
  /-- RPT (R201, 07_prajo_vector_instructions.md): RPT emits one inline row n times. -/
  | rpt (q : CoreId) (em : Emit) (row : BitVec 512) (n : BitVec 17)
  /-- IDLE (R201, 07_prajo_vector_instructions.md): IDLE emits n cycles with every pin at K. -/
  | idle (q : CoreId) (em : Emit) (n : BitVec 17)
  /-- VSET (R207, 07_prajo_vector_instructions.md): VSET writes an immediate to a loop counter, APG register or scramble entry. -/
  | vset (q : CoreId) (rsel : BitVec 5) (part : BitVec 2) (entry : BitVec 6) (imm : Word)
  /-- VPOP (R207, 07_prajo_vector_instructions.md): VPOP takes the oldest VPQ word into a vector register, or raises VPQ_EMPTY. -/
  | vpop (q : CoreId) (rsel : BitVec 5)
  /-- AOPX (R207, 07_prajo_vector_instructions.md): AOPX applies one APG operation without emitting a cycle. -/
  | aopx (q : CoreId) (xs ys ds : BitVec 2) (aop : BitVec 4) (wid : BitVec 5)
  /-- LOOP (R208, 07_prajo_vector_instructions.md): LOOP sets a loop counter. -/
  | loop (q : CoreId) (n : Fin 8) (count : Word)
  /-- ENDL (R208, 07_prajo_vector_instructions.md): ENDL decrements the counter and branches back, or falls through at one or zero. -/
  | endl (q : CoreId) (n : Fin 8) (off : BitVec 32)
  /-- VJMP (R209, 07_prajo_vector_instructions.md): VJMP sets VPC to its target. -/
  | vjmp (q : CoreId) (off : BitVec 43)
  /-- VCALL (R209, 07_prajo_vector_instructions.md): VCALL saves the return in a loop counter and jumps. -/
  | vcall (q : CoreId) (n : Fin 8) (off : BitVec 43)
  /-- VRET (R209, 07_prajo_vector_instructions.md): VRET returns to the address held in the loop counter. -/
  | vret (q : CoreId) (n : Fin 8)
  /-- MLOOP (R210, 07_prajo_vector_instructions.md): MLOOP opens a match-loop with its pass limit, condition and timeout settings, pausing while an earlier match-loop is unfinished. -/
  | mloop (q : CoreId) (n : Fin 8) (cond comb : Bool) (tmo : BitVec 2) (segit : Bool) (mev : Fin 16) (mevon : BitVec 2) (bidx : BitVec 20)
  /-- MEND (R210, 07_prajo_vector_instructions.md): MEND closes the match-loop block held in the match buffer. -/
  | mend (q : CoreId)
  /-- SEGB (R218, 07_prajo_vector_instructions.md): SEGB marks a stop-safe boundary, records a snapshot, requests segment admission and may mark END. -/
  | segb (q : CoreId) (last : Bool) (bidx : BitVec 20)
  /-- MATCH_LOOP_PASS_END (R214, 07_prajo_vector_instructions.md): A match-loop pass ends at the pins, its condition is combined for the site and the loop ends or replays. -/
  | matchLoopPassEnd (s : SiteId)
  /-- MATCH_LOOP_OUTCOME (R215, 07_prajo_vector_instructions.md): The MATCH or TIMEOUT outcome becomes known, incrementing MEV inputs and taking the TMO action. -/
  | matchLoopOutcome (s : SiteId)
  /-- SEG_OVERRUN (R220, 07_prajo_vector_instructions.md): The segment length counter reaches SEQ_SEGMAX without a boundary, raising SEG_OVERRUN. -/
  | segOverrun (q : CoreId)
  /-- VIQ_UNDERRUN (R135, 05_prajo_programming_model.md): The entry for cycle c is absent 64 ticks before it is due; the segment ends at c − 1 and every core of the site starts its Curtain at c. -/
  | viqUnderrun (q : CoreId)
  /-- STOP_APPLY (R142, 05_prajo_programming_model.md): A stop request reaches every core of the site two ticks after sampling, fixing the next common boundary and stopping both pipelines. -/
  | stopApply (s : SiteId)
  /-- STOP_BOUNDARY (R142, 05_prajo_programming_model.md): The chosen stop boundary reaches the pins; later VIQ entries are discarded, the snapshot restored and the Curtain begins. -/
  | stopBoundary (s : SiteId)
  /-- END_BOUNDARY (R217, 07_prajo_vector_instructions.md): The END boundary reaches the pins and every core of the site enters its Curtain with stop cause END. -/
  | endBoundary (s : SiteId)
  /-- SEGMENT_BOUNDARY (R218, 07_prajo_vector_instructions.md): A segment boundary passes the pins, releasing its snapshot and applying pending compare-mask changes. -/
  | segmentBoundary (s : SiteId)
  /-- CURTAIN_END (R309, 11_sites_reservations_and_curtains.md): The last Curtain cycle ends; the site enters Rocking, or parks or aborts if pending, and cores write END fail records. -/
  | curtainEnd (s : SiteId)
  /-- ROCKER_PASS_END (R224, 07_prajo_vector_instructions.md): A Rocker pass ends; a pending park, abort or ready resume takes effect, otherwise the Rocker repeats. -/
  | rockerPassEnd (s : SiteId)
  /-- SEGMENT_ADMISSION_END (R347, 12_memory_placement_and_translation.md): The PTU finishes admitting a segment, pinning its page translations or raising TRANSLATION_FAULT or WALK_IO at the boundary. -/
  | segmentAdmissionEnd (q : CoreId) (ecc : Option (Fin 3 × Nat))
  /-- VECTOR_READ_COMPLETE (R351, 12_memory_placement_and_translation.md): A vector-pipeline read of a pinned page returns, retrying up to three times on uncorrectable errors before DATA_ECC. -/
  | vectorReadComplete (q : CoreId) (va : BitVec 48) (errors : Fin 5)
  /-- PIN_CYCLE (R235, 08_timing_generation_and_pe_ports.md): A tester cycle begins at the pins; the formatter places its edges under the selected timing set. -/
  | pinCycle (q : CoreId) (obs : PinObs)
  /-- PD_CFG_START (R230, 08_timing_generation_and_pe_ports.md): A write of TGN_PD_CFG.START starts the period domain at the next tick, or is refused for a running domain. -/
  | pdCfgStart (m : Master) (d : Die) (pd : Fin 16)
  /-- PD_CFG_STOP (R230, 08_timing_generation_and_pe_ports.md): A write of TGN_PD_CFG.STOP stops the period domain, or is refused while BUSY. -/
  | pdCfgStop (m : Master) (d : Die) (pd : Fin 16)
  /-- PLL_STEP_ARM (R451, 17_clocks_and_synthesis.md): A write of PLL_STEP_CTRL.ARM judges a frequency step and makes it ARMED, MISSED or REFUSED. -/
  | pllStepArm (m : Master) (d : Die) (p : Fin 2)
  /-- PLL_STEP_DISARM (R452, 17_clocks_and_synthesis.md): A write of DISARM cancels an armed frequency step before its tick. -/
  | pllStepDisarm (m : Master) (d : Die) (p : Fin 2)
  /-- PLL_STEP (R232, 08_timing_generation_and_pe_ports.md): An armed frequency step reaches its TTI; OFS takes the new value and the tu scales from the next cycle. -/
  | pllStep (d : Die) (p : Fin 2)
  /-- DESKEW_SWEEP_DUE (R246, 08_timing_generation_and_pe_ports.md): With AUTO set, a cold or INTERVAL-due idle group requests a timing-group lease for a background deskew sweep. -/
  | deskewSweepDue (d : Die) (grp : Fin 4)
  /-- SWEEP (R246, 08_timing_generation_and_pe_ports.md): A write of TGN_DSK_CTRL.SWEEP requests a deskew sweep of GROUP, setting BUSY and HOLDER on refusal. -/
  | sweep (m : Master) (d : Die)
  /-- RSU_CLR (R255, 08_timing_generation_and_pe_ports.md): A write of TGN_RSU_STAT.CLR resets MIN, MAX and the missed-edge count of a recovered-strobe unit. -/
  | rsuClr (m : Master) (d : Die) (r : Fin 16)
  /-- CMP_MASK_WRITE (R260, 09_compare_and_fail_capture.md): A write to CMP_MASK takes effect next tick, or at the site's next boundary while the channel's site is active. -/
  | cmpMaskWrite (m : Master) (d : Die) (i : Fin 4) (v : Word)
  /-- RECORD_GENERATOR_TAKE (R265, 09_compare_and_fail_capture.md): The die's record generator takes up to four records per VCLK round-robin from core FIFOs into fail staging. -/
  | recordGeneratorTake (d : Die)
  /-- STAGING_DRAIN (R266, 09_compare_and_fail_capture.md): A site's drain slot moves a record from staging to its fail-memory region and, with TO_RPS, to the repair solver intake. -/
  | stagingDrain (d : Die) (s : SiteId)
  /-- RD_PTR_WRITE (R268, 09_compare_and_fail_capture.md): A write of RD_PTR in RING mode frees record slots, or is ignored with WR_REFUSED if it breaks the level bounds. -/
  | rdPtrWrite (m : Master) (d : Die) (s : SiteId) (v : Word)
  /-- WM_HIT_CLEAR (R275, 09_compare_and_fail_capture.md): A write of one to a watermark's WM_HIT clears it and resets WM_PEAK to the current level, setting it again if still above MARK. -/
  | wmHitClear (m : Master) (addr : BitVec 24)
  /-- COUNTER_LO_WRITE (R274, 09_compare_and_fail_capture.md): A write to a 48-bit counter's LO word loads the count zero-extended before the tick's increments. -/
  | counterLoWrite (m : Master) (addr : BitVec 24) (v : Word)
  /-- RPS_MAPPING (R285, 10_repair_solver.md): The solver's mapping stage takes a record from a die's intake, mapping failing bits to cells and handling LOST, END and MATCH_TIMEOUT records. -/
  | rpsMapping (n : Die)
  /-- CELL_OPERATION (R290, 10_repair_solver.md): The cell engine stores a cell and applies must-repair to closure, assigning forced spares. -/
  | cellOperation (n : Die)
  /-- SOLVE_ENGINE_TAKE (R296, 10_repair_solver.md): A free solve engine takes the head of the solve queue and the context becomes SOLVING. -/
  | solveEngineTake
  /-- SOLUTION_WRITTEN (R303, 10_repair_solver.md): The last word of a solution becomes visible; the context becomes SOLVED and the event, record and interrupt are raised. -/
  | solutionWritten (s : SiteId) (res : List SolveEnd)
  /-- SOLVE (R304, 10_repair_solver.md): RPS command SOLVE queues a final solve once R296 holds, if the context and site states permit. -/
  | solve (m : Master) (s : SiteId)
  /-- CANCEL (R304, 10_repair_solver.md): RPS command CANCEL cancels a queued or running solve. -/
  | cancel (m : Master) (s : SiteId)
  /-- CLEAR (R304, 10_repair_solver.md): RPS command CLEAR resets the site's solver context as admission does, keeping the reservation. -/
  | clear (m : Master) (s : SiteId)
  /-- RPS_NOP (R304, 10_repair_solver.md): RPS command NOP does nothing. -/
  | rpsNop (m : Master) (s : SiteId)
  /-- RPS_BAD_OP (R304, 10_repair_solver.md): A reserved RPS command code returns BAD_OP. -/
  | rpsBadOp (m : Master) (op : BitVec 4) (s : SiteId)
  /-- SITE_NOP (R310, 11_sites_reservations_and_curtains.md): Site command NOP does nothing. -/
  | siteNop (m : Master) (s : SiteId)
  /-- ADMIT (R312, 11_sites_reservations_and_curtains.md): Site command ADMIT starts an admission of an Idle site, waking its dies, or returns BUSY. -/
  | admitSite (m : Master) (s : SiteId)
  /-- ADMISSION_END (R313, 11_sites_reservations_and_curtains.md): An admission ends; the site is Admitted with its stores and reservations loaded, or refused with the first failing check. -/
  | admissionEnd (i : SiteId)
  /-- START (R314, 11_sites_reservations_and_curtains.md): Site command START arms a SITE_START at TTI + 3,200, or is refused for TIME_UNSURE or TABLE_FULL. -/
  | start (m : Master) (s : SiteId)
  /-- STOP (R315, 11_sites_reservations_and_curtains.md): Site command STOP makes a P3 stop request, cancelling armed starts of an Admitted site. -/
  | stop (m : Master) (s : SiteId)
  /-- PARK (R317, 11_sites_reservations_and_curtains.md): Site command PARK makes a stop request with a park pending. -/
  | park (m : Master) (s : SiteId)
  /-- ABORT (R317, 11_sites_reservations_and_curtains.md): Site command ABORT makes a stop request with an abort pending, immediate for a Parked site. -/
  | abort (m : Master) (s : SiteId)
  /-- RESUME (R320, 11_sites_reservations_and_curtains.md): Site command RESUME on a Rocking site sets RESUME_PEND if its conditions hold, otherwise REFUSED_COND. -/
  | resume (m : Master) (s : SiteId)
  /-- RESTART (R321, 11_sites_reservations_and_curtains.md): Site command RESTART returns a Parked site to Admitted from its stop boundary snapshot. -/
  | restart (m : Master) (s : SiteId)
  /-- RELEASE (R322, 11_sites_reservations_and_curtains.md): Site command RELEASE returns the site to Idle, freeing reservations and ending its solver context. -/
  | release (m : Master) (s : SiteId)
  /-- SITE_BAD_OP (R310, 11_sites_reservations_and_curtains.md): A reserved site command code returns BAD_OP. -/
  | siteBadOp (m : Master) (op : BitVec 4) (s : SiteId)
  /-- GENERAL_BW_BREACH (R323, 11_sites_reservations_and_curtains.md): Over a 10 µs window a stack serves Running sites' GBW reservations below their rate, and a yielding site is chosen. -/
  | generalBwBreach (stack : Fin 2)
  /-- BREACH_WAIT_END (R325, 11_sites_reservations_and_curtains.md): The stop bound after a yield elapses; if the breach persists another site yields. -/
  | breachWaitEnd (res : Fin 3) (persists : Bool)
  /-- PTU_INVALIDATE (R352, 12_memory_placement_and_translation.md): A write of PTU_INV.GO invalidates the selected TLB entries, or sets INV_REFUSED while busy. -/
  | ptuInvalidate (m : Master) (w : Word)
  /-- INVALIDATION_DONE (R352, 12_memory_placement_and_translation.md): Every unpinned matching TLB entry has been dropped and DONE is set. -/
  | invalidationDone
  /-- PTU_ROOT_WRITE (R353, 12_memory_placement_and_translation.md): A write to PTU_ROOT drops every TLB entry of that root, or is ignored while the core's site is active. -/
  | ptuRootWrite (m : Master) (q : CoreId) (hi : Bool) (v : Word)
  /-- PATROL_READ (R334, 12_memory_placement_and_translation.md): A scheduled HBM patrol scrub read of a region runs under an HBM-region lease. -/
  | patrolRead (stack : Fin 2) (block : Fin 768) (err : Option (BitVec 26 × Bool))
  /-- HOST_MEMORY_READ (R336, 12_memory_placement_and_translation.md): A host, hub or debug memory read is judged against partitions and mapping and returns data or an error response. -/
  | hostMemoryRead (m : Master) (addr : BitVec 48) (len : BitVec 16) (ue : Bool)
  /-- HOST_MEMORY_WRITE (R336, 12_memory_placement_and_translation.md): A host, hub or debug memory write is made or refused as a whole under the partition rules. -/
  | hostMemoryWrite (m : Master) (addr : BitVec 48) (bytes : List Byte)
  /-- DATA_FLIT (R359, 13_die_links_and_package_network.md): A data flit arrives; it is accepted in order, or a CRC or SEQ error discards it and requests a replay. -/
  | dataFlit (c : FlitChan) (payload : BitVec 256) (ok : Bool)
  /-- IDLE_FLIT (R357, 13_die_links_and_package_network.md): An idle control flit arrives, carrying acknowledgements that release the sender's replay buffer. -/
  | idleFlit (c : FlitChan) (ok : Bool)
  /-- REPLAY_REQUEST (R359, 13_die_links_and_package_network.md): A replay request control flit arrives and the sender resends in order from the named flit. -/
  | replayRequest (c : FlitChan) (ok : Bool)
  /-- REPLAY_LIMIT (R361, 13_die_links_and_package_network.md): Eight consecutive replays of one flit fail and the link is declared DOWN. -/
  | replayLimit (c : FlitChan)
  /-- LINK_SILENCE (R361, 13_die_links_and_package_network.md): No valid flit arrives for 1 µs and the link is declared DOWN. -/
  | linkSilence (c : FlitChan)
  /-- LINK_LOSS (R369, 13_die_links_and_package_network.md): The hub samples a link DOWN and sends LINK_LOSS stop requests to every site on an affected die, cancelling their starts. -/
  | linkLoss (l : Fin 5)
  /-- RECOVERY_START (R370, 13_die_links_and_package_network.md): After the affected sites stop or the wait limit passes, recovery requests the link's D2D lease to retrain. -/
  | recoveryStart (l : Fin 5)
  /-- TRAINING_ATTEMPT_END (R370, 13_die_links_and_package_network.md): A retraining attempt ends; success brings the link UP, and a third failure enters Safe as UNRECOVERABLE. -/
  | trainingAttemptEnd (l : Fin 5) (ok : Bool) (spares : List (Nat × Nat))
  /-- HUB_RECOVER (R370, 13_die_links_and_package_network.md): A write of NOP_CTRL.HUB_RECOVER begins recovery of the hub link. -/
  | hubRecover (m : Master)
  /-- CD_RECOVER (R370, 13_die_links_and_package_network.md): A write of NOP_CTRL.CD_RECOVER begins recovery of a channel die's wide link. -/
  | cdRecover (m : Master) (d : Die)
  /-- RECOVER (R379, 13_die_links_and_package_network.md): A write of D2D_CTRL.RECOVER at the hub end begins recovery of a DOWN link. -/
  | recover (m : Master) (d : Die)
  /-- GUEST_REQUEST (R373, 13_die_links_and_package_network.md): A guest-die request is judged by the firewall against deny ranges and windows, passed or refused with a violation record. -/
  | guestRequest (write : Bool) (addr : BitVec 48) (len : BitVec 16) (data : List Byte)
  /-- ISOLATE (R377, 13_die_links_and_package_network.md): A write of FWL_CTRL.ISOLATE isolates the guest, or clearing it releases the guest and retrains both legs. -/
  | isolate (m : Master) (v : Bool)
  /-- VIOL_CLEAR (R382, 13_die_links_and_package_network.md): A write of one to FWL_STATUS.VIOL clears the latch and FWL_VIOL_CNT. -/
  | violClear (m : Master)
  /-- CFG_PORT_WRITE (R398, 14_fabric_and_configuration_streams.md): A write to CFG_PORT appends stream bytes from the hub controller or PCIe PF, claiming the loader, or is dropped for other sources. -/
  | cfgPortWrite (m : Master) (bytes : List Byte)
  /-- STREAM (R399, 14_fabric_and_configuration_streams.md): CFGP command STREAM delivers stream bytes to the loader until CFGP_CS_N rises. -/
  | stream (bytes : List Byte)
  /-- REGW (R399, 14_fabric_and_configuration_streams.md): CFGP command REGW makes a 32-bit register write at P6. -/
  | regw (addr : BitVec 24) (data : Word)
  /-- REGR (R399, 14_fabric_and_configuration_streams.md): CFGP command REGR reads a 32-bit register and drives it if CFGP_RD_EN is set. -/
  | regr (addr : BitVec 24)
  /-- STAT (R399, 14_fabric_and_configuration_streams.md): CFGP command STAT drives four bytes of CFG_STATUS. -/
  | stat
  /-- CFGP_UNKNOWN (R399, 14_fabric_and_configuration_streams.md): An unknown CFGP command byte is ignored until CFGP_CS_N rises. -/
  | cfgpUnknown (cmd : Byte)
  /-- STREAM_HEADER (R390, 14_fabric_and_configuration_streams.md): The loader takes a stream header, checking SYNC, FORMAT and NBLK. -/
  | streamHeader 
  /-- BLOCK_HEADER (R391, 14_fabric_and_configuration_streams.md): The loader takes a block header, deciding acceptance by TMASK and judging the key policy. -/
  | blockHeader 
  /-- PAD (R392, 14_fabric_and_configuration_streams.md): A PAD packet has no effect. -/
  | pad 
  /-- SET_DEVID (R393, 14_fabric_and_configuration_streams.md): A SET of DEVID compares the value with DEV_IDCODE, refusing the stream on mismatch. -/
  | setDevid 
  /-- SET_CTLMASK (R392, 14_fabric_and_configuration_streams.md): A SET of CTLMASK sets which DIECTL bits later SETs of the block may change. -/
  | setCtlmask 
  /-- SET_DIECTL (R392, 14_fabric_and_configuration_streams.md): A SET of DIECTL updates the die's HOLD, CFGI_EN and SCRUB_EN under CTLMASK. -/
  | setDiectl 
  /-- SET_DIEPWR (R394, 14_fabric_and_configuration_streams.md): A SET of DIEPWR declares the die's fabric power, refused above 1,375. -/
  | setDiepwr 
  /-- FRAMES (R392, 14_fabric_and_configuration_streams.md): A FRAMES packet writes NFR frames from its FADDR, advancing the address. -/
  | frames 
  /-- REPEAT (R392, 14_fabric_and_configuration_streams.md): A REPEAT packet writes one frame of data to NFR consecutive frames. -/
  | repeatPacket 
  /-- CLEAR_PACKET (R392, 14_fabric_and_configuration_streams.md): A CLEAR packet writes the blank pattern to NFR consecutive frames. -/
  | clearPacket 
  /-- RESERVED_PACKET (R392, 14_fabric_and_configuration_streams.md): A packet of a reserved kind refuses the stream with BAD_FORMAT. -/
  | reservedPacket 
  /-- BLOCK_TAG (R395, 14_fabric_and_configuration_streams.md): The GCM tag of an encrypted block is checked at block end, refusing the stream with TAG_MISMATCH on failure. -/
  | blockTag 
  /-- STREAM_END (R401, 14_fabric_and_configuration_streams.md): The END word is taken, checked against NBLK and LEN. -/
  | streamEnd 
  /-- STREAM_CRC (R400, 14_fabric_and_configuration_streams.md): The stream CRC word arrives; a match accepts the stream and, if every die is COMPLETE, enters STREAM_CHECK. -/
  | streamCrc 
  /-- CFG_TIMEOUT (R401, 14_fabric_and_configuration_streams.md): No stream byte arrives for CFG_TIMEOUT during a stream, refusing it with TIMEOUT. -/
  | cfgTimeout 
  /-- HOST_ABORT (R401, 14_fabric_and_configuration_streams.md): A write of CFG_CTRL.ABORT refuses the active stream with HOST_ABORT. -/
  | hostAbort (m : Master)
  /-- REVERT_DONE (R401, 14_fabric_and_configuration_streams.md): The revert of a refused stream's frames finishes and REVERTING clears. -/
  | revertDone 
  /-- CLAIM_RELEASE (R401, 14_fabric_and_configuration_streams.md): After a refusal the claiming source stays silent 10 µs, or CFGP_CS_N rises, and the loader claim is released. -/
  | claimRelease 
  /-- INTERFACE_RELEASE (R402, 14_fabric_and_configuration_streams.md): A write of CFG_DIE_STATUS.RELEASE releases a held fabric interface in Ready, Run or Hold. -/
  | interfaceRelease (m : Master) (d : Die)
  /-- KEYB_PROGRAM (R397, 14_fabric_and_configuration_streams.md): A keyed PROGRAM loads KEY_B from the data words, sets VALID and KCV, or is refused. -/
  | keybProgram (m : Master) (key : Byte)
  /-- ZEROIZE (R397, 14_fabric_and_configuration_streams.md): A keyed ZEROIZE erases KEY_B and sets ERASED with cause 3. -/
  | zeroize (m : Master) (key : Byte)
  /-- VBAT_RETENTION_LOSS (R397, 14_fabric_and_configuration_streams.md): VBAT falls below its retention limit with the device off, and KEY_B is erased. -/
  | vbatRetentionLoss 
  /-- KEY_STORE_TEMPERATURE (R397, 14_fabric_and_configuration_streams.md): The key store's sensor leaves −40 °C to 125 °C and KEY_B is erased. -/
  | keyStoreTemperature 
  /-- CFGI_OPEN (R410, 15_partial_reconfiguration_and_scrubbing.md): CFGI OPEN starts a transaction for a region, requesting its fabric column lease. -/
  | cfgiOpen (d : Die) (data : Word)
  /-- CFGI_DATA (R412, 15_partial_reconfiguration_and_scrubbing.md): A CFGI DATA word carries packets that write the region's frames, failing on bad addresses, SETs or format. -/
  | cfgiData (d : Die) (w : Word)
  /-- CFGI_CLOSE (R413, 15_partial_reconfiguration_and_scrubbing.md): CFGI CLOSE checks the CRC and completeness and begins the region's reload, or fails the transaction. -/
  | cfgiClose (d : Die) (crc : Word)
  /-- CFGI_ABORT (R414, 15_partial_reconfiguration_and_scrubbing.md): CFGI ABORT fails the open transaction, blanking the region. -/
  | cfgiAbort (d : Die)
  /-- PR_ABORT (R414, 15_partial_reconfiguration_and_scrubbing.md): A write of FAB_PR_CTRL.ABORT fails an open transaction of the region. -/
  | prAbort (m : Master) (d : Die) (r : Fin 8)
  /-- PR_RELOAD_DONE (R413, 15_partial_reconfiguration_and_scrubbing.md): The region's initial values reload and clocks run; the border releases next tick, the lease is released and PR_DONE written. -/
  | prReloadDone (d : Die)
  /-- PR_BLANK_DONE (R414, 15_partial_reconfiguration_and_scrubbing.md): A failed region's frames are blanked, the region is FAILED and its lease released with PR_FAIL. -/
  | prBlankDone (d : Die)
  /-- SCRUB_PASS_START (R418, 15_partial_reconfiguration_and_scrubbing.md): PERIOD after the previous pass began, a new scrub pass of the die starts. -/
  | scrubPassStart (d : Die)
  /-- SCRUB_COLUMN_DONE (R419, 15_partial_reconfiguration_and_scrubbing.md): A column's frames are read and its signature checked; upsets are corrected, classified and the stop policy applied. -/
  | scrubColumnDone (d : Die) (flips : List (BitVec 10 × BitVec 13)) (mapFail : Bool)
  /-- ERASE (R433, 16_hub_flash.md): Flash function ERASE erases one sector under the flash lease after the call checks. -/
  | erase (by' : FlashBy) (queue : Bool)
  /-- PROGRAM (R434, 16_hub_flash.md): Flash function PROGRAM programs erased lines from a source, refused if any line is not erased. -/
  | program (by' : FlashBy) (queue : Bool) (srcErr : Option (BitVec 13))
  /-- VERIFY (R433, 16_hub_flash.md): Flash function VERIFY compares flash with a source, reporting the first difference. -/
  | verify (by' : FlashBy) (queue : Bool) (srcErr : Option (BitVec 19))
  /-- BLANK_CHECK (R433, 16_hub_flash.md): Flash function BLANK_CHECK reports the first non-erased line of a sector. -/
  | blankCheck (by' : FlashBy) (queue : Bool)
  /-- CRC (R433, 16_hub_flash.md): Flash function CRC returns the CRC-32C of a range. -/
  | crc (by' : FlashBy) (queue : Bool)
  /-- STORE_WRITE (R439, 16_hub_flash.md): Flash function STORE_WRITE erases, programs, stamps and verifies one copy of a store. -/
  | storeWrite (by' : FlashBy) (queue : Bool) (srcErr : Option (BitVec 13))
  /-- STORE_SELECT (R438, 16_hub_flash.md): Flash function STORE_SELECT reports the valid copy that a reader would select. -/
  | storeSelect (by' : FlashBy) (queue : Bool)
  /-- FLASH_BAD_FUNC (R434, 16_hub_flash.md): A flash call with a reserved FUNC returns BAD_FUNC. -/
  | flashBadFunc (by' : FlashBy) (func : Byte) (queue : Bool)
  /-- FLASH_OPERATION_END (R435, 16_hub_flash.md): A program or erase operation ends, reads resume and the call proceeds or completes. -/
  | flashOperationEnd 
  /-- OP_TIMEOUT (R436, 16_hub_flash.md): A flash operation exceeds twice its maximum time; the sector is undefined and FLASH_TIMEOUT written. -/
  | opTimeout 
  /-- IF_FLASH_READ (R69, 03_sentry_and_instant_fabric.md): The Instant Fabric port reads 32 bits of its user partition, or receives BUSY during an operation. -/
  | ifFlashRead (off : BitVec 24) (ecc : Fin 3)
  /-- PLL_LOSS_OF_LOCK (R454, 17_clocks_and_synthesis.md): A PLL loses lock; the die switches to the bypass clock and makes CLOCK stop requests to its sites. -/
  | pllLossOfLock (d : Die) (p : Fin 2)
  /-- RELOCK (R455, 17_clocks_and_synthesis.md): A write of PLL_CTRL.RELOCK relocks both PLLs of an idle die under the PLL lease, or is refused. -/
  | relock (m : Master) (d : Die)
  /-- RELOCK_DONE (R455, 17_clocks_and_synthesis.md): A relock ends; success clears BYPASS and sets STALE, failure sets LOCK_FAIL. -/
  | relockDone (d : Die) (a b : Bool)
  /-- TELEMETRY_FRAME (R460, 18_power_management.md): A die's telemetry frame arrives at the power manager with rail, temperature and state readings. -/
  | telemetryFrame (src : Fin 5) (f : Frame)
  /-- TELEMETRY_TIMEOUT (R461, 18_power_management.md): No telemetry frame arrives from a die for 4 µs and TELEM_STALE is set. -/
  | telemetryTimeout (src : Fin 5)
  /-- POWER_UPDATE (R477, 18_power_management.md): The 1 µs package power update forms the 10 µs average and declares a power breach above PWR_BREACH_LIM. -/
  | powerUpdate (f : Frame)
  /-- DIE_STATE_ENTRY (R466, 18_power_management.md): A channel die's power controller moves into the deepest permitted state for its time to the next known event. -/
  | dieStateEntry (n : Die)
  /-- WAKE_START (R469, 18_power_management.md): A die begins its wake early enough to be Active PWR_GUARD before its next known event. -/
  | wakeStart (n : Die)
  /-- WAKE_END (R470, 18_power_management.md): A die returns to Active and the wake time is measured into PWR_WAKE. -/
  | wakeEnd (n : Die) (ns : BitVec 23)
  /-- TRIP_CLEAR (R463, 18_power_management.md): A write of one to PWR_TRIP_CAUSE.TRIP clears it and HARD_TRIP once the cause is gone. -/
  | tripClear (m : Master)
  /-- CAP_WRITE (R476, 18_power_management.md): A write to PWR_CAP or PWR_MARGIN is ignored if it would bring PWR_SITE_AVAIL below the reserved sum. -/
  | capWrite (m : Master) (margin : Bool) (v : BitVec 12)
  /-- ROLE_WRITE (R482, 19_cascading_devices.md): A write of CAS_CTRL.ROLE confirms the role if it matches the strap, otherwise ROLE_REFUSED is set. -/
  | roleWrite (m : Master) (v : Word)
  /-- PORT_UP (R486, 19_cascading_devices.md): A String port reaches UP and a follower's acquisition measures the hop delay. -/
  | portUp (port : Fin 2) (hop : BitVec 20)
  /-- TIME_FRAME (R485, 19_cascading_devices.md): A TIME frame arrives with TTI, mark, seconds, position and holdover, and is checked, adopted and forwarded. -/
  | timeFrame (port : Fin 2) (f : TimeFrame)
  /-- STRING_NOP (R489, 19_cascading_devices.md): String command NOP is originated and has no effect. -/
  | stringNop (m : Master)
  /-- STRING_STOP (R489, 19_cascading_devices.md): String command STOP is originated with an execution TTI for the named positions and sites. -/
  | stringStop (m : Master)
  /-- STRING_PARK (R489, 19_cascading_devices.md): String command PARK is originated with an execution TTI for the named positions and sites. -/
  | stringPark (m : Master)
  /-- STRING_BAD_OP (R489, 19_cascading_devices.md): A reserved String command code is refused at the originator with BAD_OP. -/
  | stringBadOp (m : Master) (op : BitVec 3)
  /-- STRING_COMMAND_ARRIVAL (R489, 19_cascading_devices.md): A String command arrives at a device and is forwarded within 150 ns. -/
  | stringCommandArrival (port : Fin 2) (op : BitVec 3) (pos : BitVec 16) (sites exec : BitVec 64)
  /-- STRING_COMMAND_EXEC (R489, 19_cascading_devices.md): At EXEC_TTI or on late arrival a String command makes STRING_CMD stop requests to the named sites at P2. -/
  | stringCommandExec
  /-- STATUS_SLOT (R490, 19_cascading_devices.md): Every 1 µs a device inserts its status slot into the upstream frame. -/
  | statusSlot
  /-- UPSTREAM_FRAME (R490, 19_cascading_devices.md): The lead receives an upstream frame and records each position's status slot. -/
  | upstreamFrame (slots : List (Fin 16 × BitVec 4))
  /-- FOLLOWER_ABSENT (R490, 19_cascading_devices.md): A position's slot is missing from 3 consecutive frames; it is marked absent with a class A record. -/
  | followerAbsent (p : Fin 16)
  /-- BLOCK_LOCK_LOSS (R491, 19_cascading_devices.md): A lane of the follower's upstream port loses block lock and holdover begins. -/
  | blockLockLoss (port : Fin 2)
  /-- TIME_FRAME_SILENCE (R491, 19_cascading_devices.md): No TIME frame arrives for 1.5 µs and the follower enters holdover. -/
  | timeFrameSilence
  /-- HOLDOVER_DEADLINE (R491, 19_cascading_devices.md): CAS_HOLD_LIM after holdover began, TIME_UNSURE is set and Admitted or Running sites receive TIME stop requests. -/
  | holdoverDeadline
  /-- CONFIG_REQUEST (R497, 20_host_interface_and_general_pins.md): A PCIe configuration request is served in any mode once the endpoint is up. -/
  | configRequest (f : Fin 3) (r : CfgReq)
  /-- PCIE_LINK_DOWN (R497, 20_host_interface_and_general_pins.md): The PCIe link goes down; the HST block resets, DMA halts and HOST_LINK_RESET is recorded without touching sites. -/
  | pcieLinkDown 
  /-- HOT_RESET (R497, 20_host_interface_and_general_pins.md): A PCIe hot reset resets the HST block and all three functions' configuration. -/
  | hotReset 
  /-- PF_FLR (R497, 20_host_interface_and_general_pins.md): A Function Level Reset of the PF resets the HST block and functions. -/
  | pfFlr 
  /-- VF_FLR (R497, 20_host_interface_and_general_pins.md): An FLR of a VF halts its DMA channels and clears its time snapshots. -/
  | vfFlr (v : Fin 2)
  /-- FLASH_BAR_READ (R498, 20_host_interface_and_general_pins.md): A PF read through BAR4 reads the flash window, returning all ones during an operation. -/
  | flashBarRead (off : BitVec 24) (n : BitVec 4) (ecc : Fin 3)
  /-- MSIX_UNMASK (R501, 20_host_interface_and_general_pins.md): A vector becomes able to send while a source bit is pending and enabled, and one message is sent. -/
  | msixUnmask (v : BitVec 6)
  /-- IRQ_MAP_ENABLE (R501, 20_host_interface_and_general_pins.md): A write setting HST_IRQ_MAP.EN while the source is pending sends one message. -/
  | irqMapEnable (m : Master) (i : Fin 32) (vec : BitVec 6)
  /-- DMA_TAIL_WRITE (R502, 20_host_interface_and_general_pins.md): A write of HST_DMA_TAIL posts descriptors for the channel to execute from HEAD. -/
  | dmaTailWrite (m : Master) (c : Fin 16) (v : BitVec 16)
  /-- DESCRIPTOR_COMPLETE (R503, 20_host_interface_and_general_pins.md): A DMA descriptor's last write is visible; HEAD advances, or a failure halts the channel. -/
  | descriptorComplete (c : Fin 16) (w : Option DmaDesc) (data : List Byte) (err : Fin 3)
  /-- DMA_RESUME (R504, 20_host_interface_and_general_pins.md): A write of one to HALTED resumes a halted DMA channel at HEAD. -/
  | dmaResume (m : Master) (c : Fin 16)
  /-- DMA_ABORT (R504, 20_host_interface_and_general_pins.md): A write of ABORT stops the channel after its current write with ERR ABORTED. -/
  | dmaAbort (m : Master) (c : Fin 16)
  /-- GPI_OUT_WRITE (R506, 20_host_interface_and_general_pins.md): A masked write to GPI_OUT sets levels of owned pins, ignoring unowned ones with OWN_REFUSED. -/
  | gpiOutWrite (m : Master) (k : Fin 4) (v : Word)
  /-- GPI_OE_WRITE (R506, 20_host_interface_and_general_pins.md): A masked write to GPI_OE sets output enables of owned pins. -/
  | gpiOeWrite (m : Master) (k : Fin 4) (v : Word)
  /-- PATTERN_MATCH (R508, 20_host_interface_and_general_pins.md): A pattern-match condition holds for DEBOUNCE + 1 ticks; HIT and COUNT update, the line pulses and the interrupt rises. -/
  | patternMatch (u : Fin 8) (pins : BitVec 64)
  /-- PM_CONFIG_WRITE (R508, 20_host_interface_and_general_pins.md): A write to a pattern-match unit's MASK, VALUE or CFG restarts its debounce count. -/
  | pmConfigWrite (m : Master) (u : Fin 8) (r : Fin 5) (v : Word)
  /-- TXDATA_WRITE (R510, 20_host_interface_and_general_pins.md): A write to GPI_SP_TXDATA queues a byte or I²C action, or is dropped with OVR when full. -/
  | txdataWrite (m : Master) (p : Fin 4) (v : BitVec 11)
  /-- RXDATA_READ (R510, 20_host_interface_and_general_pins.md): A read of GPI_SP_RXDATA returns and removes the oldest received byte. -/
  | rxdataRead (m : Master) (p : Fin 4)
  /-- SERIAL_BYTE_RECEIVED (R510, 20_host_interface_and_general_pins.md): A serial port receives a byte into its FIFO, or drops it with OVR, raising its source at threshold. -/
  | serialByteReceived (p : Fin 4) (b : Byte)
  /-- SERIAL_TRANSFER_END (R510, 20_host_interface_and_general_pins.md): A serial transfer ends, possibly with NACK, and the port's source rises as its rules state. -/
  | serialTransferEnd (p : Fin 4) (sent : BitVec 7) (nack : Bool)
  /-- HALT (R516, 21_debug_and_run_control.md): Debug command HALT halts a core by its site state, making a DEBUG stop request where required. -/
  | halt (m : Master) (t : BitVec 7)
  /-- DEBUG_RESUME (R519, 21_debug_and_run_control.md): Debug command RESUME restarts the clocks that a halt stopped. -/
  | debugResume (m : Master) (t : BitVec 7)
  /-- STEP (R520, 21_debug_and_run_control.md): Debug command STEP executes one control instruction of a halted core and halts again. -/
  | step (m : Master) (t : BitVec 7)
  /-- DBG_NOP (R529, 21_debug_and_run_control.md): Debug command NOP does nothing. -/
  | dbgNop (m : Master) (op : BitVec 3) (t : BitVec 7)
  /-- DEBUG_REQUEST (R514, 21_debug_and_run_control.md): A comparator HALT or attached BRK reaches the hub sampler and is applied at P5 as a halt. -/
  | debugRequest (x : CtlId)
  /-- STATE_ACCESS (R522, 21_debug_and_run_control.md): A write of DBG_ACC_SEL reads or writes architectural state of a halted controller, or sets ACC_ERR. -/
  | stateAccess (m : Master) (t : BitVec 7) (write : Bool) (reg : Byte)
  /-- EXTEST (R526, 21_debug_and_run_control.md): JTAG instruction EXTEST selects boundary scan, only in Sentry. -/
  | extest 
  /-- IDCODE (R526, 21_debug_and_run_control.md): JTAG instruction IDCODE selects the 32-bit DEV_IDCODE register. -/
  | idcode 
  /-- SAMPLE_PRELOAD (R526, 21_debug_and_run_control.md): JTAG instruction SAMPLE/PRELOAD selects boundary scan. -/
  | samplePreload 
  /-- DBGACC (R526, 21_debug_and_run_control.md): JTAG instruction DBGACC makes a 32-bit debug-master access and returns the previous result. -/
  | dbgacc (op : BitVec 2) (addr : BitVec 48) (data : Word)
  /-- DBGSTAT (R526, 21_debug_and_run_control.md): JTAG instruction DBGSTAT selects DBG_STATUS. -/
  | dbgstat 
  /-- BYPASS (R526, 21_debug_and_run_control.md): JTAG instruction BYPASS, or any other code, selects the 1-bit bypass register. -/
  | bypass (code : Byte)
  /-- TRST_N (R526, 21_debug_and_run_control.md): TRST_N resets the TAP and loads IDCODE. -/
  | trstN 
  /-- LEASE_REQUEST (R533, 22_self_test_injection_and_maintenance.md): A maintenance lease request is granted, answered BUSY, or queued. -/
  | leaseRequest (unit : Fin 8) (cls : Fin 6) (holder : BitVec 8) (arg : BitVec 16) (queue : Bool)
  /-- LEASE_RELEASE (R534, 22_self_test_injection_and_maintenance.md): A holder releases a lease and the head of its queue receives it in that tick. -/
  | leaseRelease (unit : Fin 8) (cls : Fin 6) (holder : BitVec 8)
  /-- LEASE_WITHDRAW (R533, 22_self_test_injection_and_maintenance.md): A requester withdraws a queued lease request. -/
  | leaseWithdraw (unit : Fin 8) (cls : Fin 6) (holder : BitVec 8)
  /-- BIST_GO (R539, 22_self_test_injection_and_maintenance.md): A write of BST_CMD.GO runs or queues the entry's BIST slice, or returns BUSY. -/
  | bistGo (m : Master) (e : Fin 16) (queue : Bool)
  /-- BIST_CANCEL (R539, 22_self_test_injection_and_maintenance.md): A write of BST_CMD.CANCEL withdraws a queued GO. -/
  | bistCancel (m : Master) (e : Fin 16)
  /-- BIST_PERIOD_DUE (R539, 22_self_test_injection_and_maintenance.md): An enabled schedule entry's PERIOD passes and it attempts its slice without QUEUE. -/
  | bistPeriodDue (e : Fin 16)
  /-- BIST_STEP_DONE (R537, 22_self_test_injection_and_maintenance.md): A BIST slice finishes a test step; it continues, or re-initialises, releases its leases and writes its outcome. -/
  | bistStepDone (fail : Option (BitVec 48 × BitVec 9)) (last stop : Bool) (spares : List (Nat × Nat))
  /-- INJ_ARM (R544, 22_self_test_injection_and_maintenance.md): A write of INJ_SLOT_CTRL.ARM arms an injection slot if permitted, otherwise REFUSED is set. -/
  | injArm (m : Master) (i : Fin 4)
  /-- INJ_DISARM (R545, 22_self_test_injection_and_maintenance.md): A write of DISARM returns an injection slot to IDLE. -/
  | injDisarm (m : Master) (i : Fin 4)
  /-- RECORD_STORE (R560, 23_event_log_and_alarms.md): The buffer controller stores or merges one event record, applying coalescing, quota, SPILL and GAP rules. -/
  | recordStore (die : BitVec 3) (unit : BitVec 8)
  /-- EVL_RD_WRITE (R558, 23_event_log_and_alarms.md): A write of an event-log RD index acknowledges records, or is ignored with WR_REFUSED. -/
  | evlRdWrite (m : Master) (cls : Fin 3) (v : Word)
  /-- ICACHE_INV (R148, 05_prajo_programming_model.md): A write of SEQ_CTRL.ICACHE_INV invalidates the core's instruction cache. -/
  | icacheInv (m : Master) (q : CoreId)
  /-- REGISTER_WRITE (R570, 24_register_interface.md): A 32-bit write to a register without its own row applies its fields under access codes, locks and refusal rules. -/
  | registerWrite (m : Master) (addr : BitVec 24) (v : Word)
  /-- RGP_OPEN (R578, 24_register_interface.md): A write of RGP_CTRL.OPEN opens a commit window and stops comparison. -/
  | rgpOpen (m : Master)
  /-- RGP_COMMIT (R578, 24_register_interface.md): A keyed write of RGP_COMMIT requests that the next pass result become RGP_REF. -/
  | rgpCommit (m : Master) (key : BitVec 8)
  /-- RGP_PASS_END (R577, 24_register_interface.md): A register CRC pass ends; it completes a pending commit or compares with RGP_REF and acts on a mismatch. -/
  | rgpPassEnd
  /-- LIFECYCLE_REQUEST (R581, 24_register_interface.md): A keyed write of DEV_LC_CTRL requests a permitted lifecycle transition, or sets LC_REFUSED. -/
  | lifecycleRequest (m : Master) (target : BitVec 3) (key : BitVec 8)
  /-- LIFECYCLE_FUSES_PROGRAMMED (R581, 24_register_interface.md): The lifecycle fuses finish programming, setting TARGET and PENDING. -/
  | lifecycleFusesProgrammed
  /-- REFERENCE_BACK (R457, 17_clocks_and_synthesis.md): REFCLK100 becomes present again after a loss; REF_OK sets and a pending or later acquisition can complete on it. -/
  | referenceBack
  /-- TRIP_SYS_REQ_FALL (R56, 02_staged_start_and_modes.md): The image drops TRIP or SYS_REQ to 0, so the Sentry cause of Safe is no longer present and CAUSE_ACTIVE may clear, permitting ENTER_LOAD. -/
  | tripSysReqFall (trip sys : Bool)
  /-- TRIP_CAUSE_GONE (R463, 18_power_management.md): An over-temperature or supply cause disappears and DSB_TRIP or the hub monitor deasserts, so CAUSE_ACTIVE follows and TRIP_CLEAR can clear HARD_TRIP. -/
  | tripCauseGone (code : Fin 8) (rail : Option (Fin 13))
  /-- PCIE_LINK_UP (R497, 20_host_interface_and_general_pins.md): The PCIe endpoint trains its link and the data link layer becomes active, setting HST_STATUS.LINK_UP and accepting configuration requests. -/
  | pcieLinkUp (speed : Fin 5) (width : Fin 5)
  /-- STORE_COMPLETE (R160, 06_prajo_control_instructions.md): A buffered control-pipeline store becomes visible to every master, freeing a store-buffer entry and releasing a stalled ST or SIG. -/
  | storeComplete (x : CtlId) (k : Nat)
  /-- TRIG_OUT_PULSE_END (R507, 20_host_interface_and_general_pins.md): ARG ticks after a TRIG_OUT hit the pulse ends and the pin or trigger line returns to its GPI_OUT and GPI_OE values or to 0. -/
  | trigOutPulseEnd (t : TblId) (kind : Fin 2) (line : Fin 64)
  /-- OSC40K_EDGE (R571, 24_register_interface.md): An edge of OSC40K refreshes the copies of slow-domain registers and applies writes to them, such as KEY_B PROGRAM or ZEROIZE, in their domain. -/
  | osc40kEdge
  /-- GUEST_LEG_TRAINING_DONE (R377, 13_die_links_and_package_network.md): Training of the guest legs ends, at start-up or after ISOLATE is cleared, setting GD_UP or isolating the guest with GD_LINK when more than one spare lane is needed. -/
  | guestLegTrainingDone (a b : BitVec 4)
  /-- DOWNSTREAM_PORT_DOWN (R495, 19_cascading_devices.md): A device's downstream String port loses its link and DN_OK clears. -/
  | downstreamPortDown
  deriving DecidableEq, Repr

end Sys2Proof
end

