-- ==== Sys2Proof/Decode.lean ====
section
/-! DEFINITION. Commands spelt by a word. No row of spec/opcode_table.json gives a command any bits: commands reach the
block as register writes, protocol events and observations, and Prajo instructions as rows with their operands. -/

namespace Sys2Proof

/-- The command that a word of `nbits` bits spells by the table's bits: none, since no row gives any (assumption log
entry 72). -/
def decodeTableWord (_nbits _w : Nat) : Option Instr := none

end Sys2Proof
end

