-- ==== Sys2Proof/Config.lean ====
section
/-! DEFINITION. What one implementation of the UL8512 fixes, the variants of R1, and the free values: constants with
no body, of which nothing can be proved, standing for every value the spec leaves open. -/

namespace Sys2Proof

/-- The four parts of the family (R1, Table 1 of 00_scope.md). -/
inductive Variant where
  | ul8512 | ul8512g | ul8384 | ul8256
  deriving DecidableEq, Repr

/-- Channel dies present: one bit per die CD0 to CD3 (R1, R580). -/
def Variant.cdMask : Variant → Nat
  | .ul8512 => 0xF
  | .ul8512g => 0xF
  | .ul8384 => 0x7
  | .ul8256 => 0x3

/-- The number of channel dies present (R1). -/
def Variant.cdCount : Variant → Nat
  | .ul8512 => 4
  | .ul8512g => 4
  | .ul8384 => 3
  | .ul8256 => 2

/-- HBM4 stacks present: one bit per stack (R1, R580). -/
def Variant.hbmMask : Variant → Nat
  | .ul8256 => 0b01
  | _ => 0b11

/-- The repair solver is present (R1). -/
def Variant.hasRps : Variant → Bool
  | .ul8256 => false
  | _ => true

/-- The guest die site is present (R1). -/
def Variant.hasGuest : Variant → Bool
  | .ul8512g => true
  | _ => false

/-- DEV_IDCODE.PART (R580). -/
def Variant.part : Variant → Nat
  | .ul8512 => 0x8512
  | .ul8512g => 0x8513
  | .ul8384 => 0x8384
  | .ul8256 => 0x8256

/-- The free values: what a use of a value that the spec leaves open yields, for the `n`-th such use, at an address or
operand `a`. It has no body: a statement about it holds for every value (assumption log entry 1). -/
opaque Config.free : Nat → Nat → Nat

/-- What a byte of HBM reads as that nothing has written since the base die last left reset: undefined (R58), so a free
value of the number of base die resets and the address (assumption log entry 2). -/
opaque Config.hbmByte : Nat → Nat → Byte

/-- What a byte of a flash sector reads as whose erase or program was interrupted: undefined, and it may differ on each
read (R58, R86, R436), so a free value of the use and the address (assumption log entry 3). -/
opaque Config.flashByte : Nat → Nat → Byte

/-- The address of the ROM's exception handler, the reset value of HUBC_EVEC (R184): the spec names it and gives no
number (assumption log entry 4). -/
opaque Config.romHandler : BitVec 48

/-- Region `r` that a die's interface-column frames define: FAB_PR_REGION[r]. The meaning of their bits lies outside the
spec (R386), so it is free (assumption log entry 49). -/
opaque Config.ifcRegion : List (Nat × Nat) → Nat → Nat

/-- FAB_DYNm that a die's interface-column frames give (R386, R417; log 49). -/
opaque Config.ifcDyn : List (Nat × Nat) → Nat → Nat

/-- Word `w` of the settings of PLL `p` that a die's interface-column frames hold: 0 PLL_CFG, 1 PLL_SEED, 2 PLL_OUT
(R386, R450; log 49). -/
opaque Config.ifcPll : List (Nat × Nat) → Nat → Nat → Nat

/-- Entry `e` of the ROM default band table of PLL `p` on CD `n`, 64 bits: the spec names the table and gives none of its
values (R65, R447; log 58). -/
opaque Config.romBand : Nat → Nat → Nat → Nat

/-- The factory calibration of lane `i` of channel `c`, in tu, that the body of flash store 3 holds: the layout of that
body is outside the spec (R243, R245, R438; log 59). -/
opaque Config.factoryLane : List Byte → Nat → Nat → Int

/-- What a register beyond a link contributes to a pass of the register CRC before any pass has reached it (R576; log 66). -/
opaque Config.unread : Nat → Nat

/-- Bank M of the hub pins runs at 3.3 V; else at 1.8 V: the board decides, and the hub detects it at hub POR release
(R584; log 70). -/
opaque Config.bankM33 : Bool

end Sys2Proof
end

