-- ==== Sys2Proof/Machine/RegKeys.lean ====
section
/-! DEFINITION. The name of every register field of the register space: its place, its width and the value its
reset restores, as the field tables of spec/ give them (R14, R16, R567, R568). A field of a register that exists
once per instance takes the instance numbers as arguments, outermost first. -/

namespace Sys2Proof.Machine

/-- A register field: the bit address of its lowest bit in the register space (8 × byte address + bit), its width in
bits and its reset value. -/
structure Fld where
  key : Nat
  width : Nat
  rst : Nat
  deriving DecidableEq, Repr

/-- The field `n` bits above `f`, one bit wide: one bit of a mask register. -/
def fldBit (f : Fld) (n : Nat) : Fld := ⟨f.key + n, 1, (f.rst / 2 ^ n) % 2⟩

end Sys2Proof.Machine

namespace Sys2Proof.Machine.K

/-- DEV_IDCODE.ONE [0:0] RO, reset 1 NONE (R580, 24_register_interface.md). -/
def DEV_IDCODE_ONE : Fld := ⟨0, 1, 1⟩
/-- DEV_IDCODE.VENDOR [11:1] RO, reset 1191 NONE (R580, 24_register_interface.md). -/
def DEV_IDCODE_VENDOR : Fld := ⟨1, 11, 1191⟩
/-- DEV_IDCODE.PART [27:12] RO, reset fuse POR (R580, 24_register_interface.md). -/
def DEV_IDCODE_PART : Fld := ⟨12, 16, 0⟩
/-- DEV_IDCODE.VERSION [31:28] RO, reset fuse POR (R580, 24_register_interface.md). -/
def DEV_IDCODE_VERSION : Fld := ⟨28, 4, 0⟩
/-- DEV_CAP0.CD_PRESENT [3:0] RO, reset fuse POR (R580, 24_register_interface.md). -/
def DEV_CAP0_CD_PRESENT : Fld := ⟨32, 4, 0⟩
/-- DEV_CAP0.CHANNELS [13:4] RO, reset fuse POR (R580, 24_register_interface.md). -/
def DEV_CAP0_CHANNELS : Fld := ⟨36, 10, 0⟩
/-- DEV_CAP0.CORES [19:14] RO, reset fuse POR (R580, 24_register_interface.md). -/
def DEV_CAP0_CORES : Fld := ⟨46, 6, 0⟩
/-- DEV_CAP1.HBM_PRESENT [1:0] RO, reset fuse POR (R580, 24_register_interface.md). -/
def DEV_CAP1_HBM_PRESENT : Fld := ⟨64, 2, 0⟩
/-- DEV_CAP1.CAP0_GIB [15:8] RO, reset fuse POR (R580, 24_register_interface.md). -/
def DEV_CAP1_CAP0_GIB : Fld := ⟨72, 8, 0⟩
/-- DEV_CAP1.CAP1_GIB [23:16] RO, reset fuse POR (R580, 24_register_interface.md). -/
def DEV_CAP1_CAP1_GIB : Fld := ⟨80, 8, 0⟩
/-- DEV_CAP2.RPS [0:0] RO, reset fuse POR (R580, 24_register_interface.md). -/
def DEV_CAP2_RPS : Fld := ⟨96, 1, 0⟩
/-- DEV_CAP2.CELLS [23:4] RO, reset fuse POR (R580, 24_register_interface.md). -/
def DEV_CAP2_CELLS : Fld := ⟨100, 20, 0⟩
/-- DEV_CAP2.BRAM_8 [31:24] RO, reset fuse POR (R580, 24_register_interface.md). -/
def DEV_CAP2_BRAM_8 : Fld := ⟨120, 8, 0⟩
/-- DEV_CAP3.GD_SITE [0:0] RO, reset fuse POR (R580, 24_register_interface.md). -/
def DEV_CAP3_GD_SITE : Fld := ⟨128, 1, 0⟩
/-- DEV_CAP3.FWL_WIN [8:4] RO, reset fuse POR (R580, 24_register_interface.md). -/
def DEV_CAP3_FWL_WIN : Fld := ⟨132, 5, 0⟩
/-- DEV_LIFECYCLE.STATE [2:0] RO, reset fuse POR (R580, 24_register_interface.md). -/
def DEV_LIFECYCLE_STATE : Fld := ⟨160, 3, 0⟩
/-- DEV_LIFECYCLE.TARGET [5:3] RO, reset fuse POR (R580, 24_register_interface.md). -/
def DEV_LIFECYCLE_TARGET : Fld := ⟨163, 3, 0⟩
/-- DEV_LIFECYCLE.PENDING [6:6] RO, reset fuse POR (R580, 24_register_interface.md). -/
def DEV_LIFECYCLE_PENDING : Fld := ⟨166, 1, 0⟩
/-- DEV_LIFECYCLE.LC_REFUSED [7:7] W1C, reset 0 DRST (R580, 24_register_interface.md). -/
def DEV_LIFECYCLE_LC_REFUSED : Fld := ⟨167, 1, 0⟩
/-- DEV_LIFECYCLE.LC_LOCK [31:31] LCK, reset 0 DRST (R580, 24_register_interface.md). -/
def DEV_LIFECYCLE_LC_LOCK : Fld := ⟨191, 1, 0⟩
/-- DEV_LC_CTRL.TARGET [2:0] WO, reset 0 DRST (R580, 24_register_interface.md). -/
def DEV_LC_CTRL_TARGET : Fld := ⟨192, 3, 0⟩
/-- DEV_LC_CTRL.KEY [31:24] WO, reset 0 DRST (R580, 24_register_interface.md). -/
def DEV_LC_CTRL_KEY : Fld := ⟨216, 8, 0⟩
/-- DEV_SERIAL_LO [31:0] RO, reset fuse POR (R580, 24_register_interface.md). -/
def DEV_SERIAL_LO : Fld := ⟨256, 32, 0⟩
/-- DEV_SERIAL_HI [31:0] RO, reset fuse POR (R580, 24_register_interface.md). -/
def DEV_SERIAL_HI : Fld := ⟨288, 32, 0⟩
/-- DEV_START_CTRL.START [0:0] W1S, reset 0 DRST (R47, 02_staged_start_and_modes.md). -/
def DEV_START_CTRL_START : Fld := ⟨512, 1, 0⟩
/-- DEV_START_CTRL.CD_MASK [7:4] RWL, reset present DRST (R47, 02_staged_start_and_modes.md). -/
def DEV_START_CTRL_CD_MASK : Fld := ⟨516, 4, 0⟩
/-- DEV_START_CTRL.NOCAL [8:8] RWL, reset 0 DRST (R47, 02_staged_start_and_modes.md). -/
def DEV_START_CTRL_NOCAL : Fld := ⟨520, 1, 0⟩
/-- DEV_START_CTRL.CFG_LOCK [31:31] LCK, reset 0 DRST (R47, 02_staged_start_and_modes.md). -/
def DEV_START_CTRL_CFG_LOCK : Fld := ⟨543, 1, 0⟩
/-- DEV_START_STATUS.STAGE [3:0] RO, reset 0 DRST (R48, 02_staged_start_and_modes.md). -/
def DEV_START_STATUS_STAGE : Fld := ⟨544, 4, 0⟩
/-- DEV_START_STATUS.FAIL [4:4] RO, reset 0 DRST (R48, 02_staged_start_and_modes.md). -/
def DEV_START_STATUS_FAIL : Fld := ⟨548, 1, 0⟩
/-- DEV_START_STATUS.IF_DEFAULT [5:5] RO, reset 0 DRST (R48, 02_staged_start_and_modes.md). -/
def DEV_START_STATUS_IF_DEFAULT : Fld := ⟨549, 1, 0⟩
/-- DEV_START_STATUS.START_DONE [6:6] RO, reset 0 DRST (R48, 02_staged_start_and_modes.md). -/
def DEV_START_STATUS_START_DONE : Fld := ⟨550, 1, 0⟩
/-- DEV_START_STATUS.NOCAL_USED [7:7] RO, reset 0 DRST (R48, 02_staged_start_and_modes.md). -/
def DEV_START_STATUS_NOCAL_USED : Fld := ⟨551, 1, 0⟩
/-- DEV_START_STATUS.FAIL_CODE [15:8] RO, reset 0 DRST (R48, 02_staged_start_and_modes.md). -/
def DEV_START_STATUS_FAIL_CODE : Fld := ⟨552, 8, 0⟩
/-- DEV_START_STATUS.CD_UP [19:16] RO, reset 0 DRST (R48, 02_staged_start_and_modes.md). -/
def DEV_START_STATUS_CD_UP : Fld := ⟨560, 4, 0⟩
/-- DEV_START_STATUS.BD_UP [20:20] RO, reset 0 DRST (R48, 02_staged_start_and_modes.md). -/
def DEV_START_STATUS_BD_UP : Fld := ⟨564, 1, 0⟩
/-- DEV_START_STATUS.FAIL_DIE [23:21] RO, reset 7 DRST (R48, 02_staged_start_and_modes.md). -/
def DEV_START_STATUS_FAIL_DIE : Fld := ⟨565, 3, 7⟩
/-- DEV_START_STATUS.LAST_REJECT [27:24] RO, reset 0 DRST (R48, 02_staged_start_and_modes.md). -/
def DEV_START_STATUS_LAST_REJECT : Fld := ⟨568, 4, 0⟩
/-- DEV_MODE.MODE [2:0] RO, reset 0 DRST (R56, 02_staged_start_and_modes.md). -/
def DEV_MODE_MODE : Fld := ⟨576, 3, 0⟩
/-- DEV_MODE.SAFE_CAUSE [15:8] RO, reset 0 DRST (R56, 02_staged_start_and_modes.md). -/
def DEV_MODE_SAFE_CAUSE : Fld := ⟨584, 8, 0⟩
/-- DEV_MODE.CAUSE_ACTIVE [16:16] RO, reset 0 DRST (R56, 02_staged_start_and_modes.md). -/
def DEV_MODE_CAUSE_ACTIVE : Fld := ⟨592, 1, 0⟩
/-- DEV_MODE.REQ_REFUSED [17:17] W1C, reset 0 DRST (R56, 02_staged_start_and_modes.md). -/
def DEV_MODE_REQ_REFUSED : Fld := ⟨593, 1, 0⟩
/-- DEV_MODE_CTRL.ENTER_LOAD [0:0] WO, reset 0 DRST (R57, 02_staged_start_and_modes.md). -/
def DEV_MODE_CTRL_ENTER_LOAD : Fld := ⟨608, 1, 0⟩
/-- DEV_RESET_CTRL.DRST [0:0] WO, reset 0 DRST (R63, 02_staged_start_and_modes.md). -/
def DEV_RESET_CTRL_DRST : Fld := ⟨640, 1, 0⟩
/-- DEV_RESET_CTRL.CD_RST [4:1] WO, reset 0 DRST (R63, 02_staged_start_and_modes.md). -/
def DEV_RESET_CTRL_CD_RST : Fld := ⟨641, 4, 0⟩
/-- DEV_RESET_CTRL.BD_RST [5:5] WO, reset 0 DRST (R63, 02_staged_start_and_modes.md). -/
def DEV_RESET_CTRL_BD_RST : Fld := ⟨645, 1, 0⟩
/-- DEV_RESET_CTRL.CORE_RST [6:6] WO, reset 0 DRST (R63, 02_staged_start_and_modes.md). -/
def DEV_RESET_CTRL_CORE_RST : Fld := ⟨646, 1, 0⟩
/-- DEV_RESET_CTRL.CORE_SEL [13:8] WO, reset 0 DRST (R63, 02_staged_start_and_modes.md). -/
def DEV_RESET_CTRL_CORE_SEL : Fld := ⟨648, 6, 0⟩
/-- DEV_RESET_CTRL.KEY [31:24] WO, reset 0 DRST (R63, 02_staged_start_and_modes.md). -/
def DEV_RESET_CTRL_KEY : Fld := ⟨664, 8, 0⟩
/-- DEV_RESET_CAUSE.POR [0:0] W1C, reset 1 POR (R64, 02_staged_start_and_modes.md). -/
def DEV_RESET_CAUSE_POR : Fld := ⟨672, 1, 1⟩
/-- DEV_RESET_CAUSE.PIN [1:1] W1C, reset 0 POR (R64, 02_staged_start_and_modes.md). -/
def DEV_RESET_CAUSE_PIN : Fld := ⟨673, 1, 0⟩
/-- DEV_RESET_CAUSE.HOST [2:2] W1C, reset 0 POR (R64, 02_staged_start_and_modes.md). -/
def DEV_RESET_CAUSE_HOST : Fld := ⟨674, 1, 0⟩
/-- DEV_RESET_CAUSE.CD_DIE [7:4] W1C, reset 0 POR (R64, 02_staged_start_and_modes.md). -/
def DEV_RESET_CAUSE_CD_DIE : Fld := ⟨676, 4, 0⟩
/-- DEV_RESET_CAUSE.BD_DIE [8:8] W1C, reset 0 POR (R64, 02_staged_start_and_modes.md). -/
def DEV_RESET_CAUSE_BD_DIE : Fld := ⟨680, 1, 0⟩
/-- DEV_REG_STATUS.LOCKED_WR [0:0] W1C, reset 0 DRST (R580, 24_register_interface.md). -/
def DEV_REG_STATUS_LOCKED_WR : Fld := ⟨704, 1, 0⟩
/-- DEV_REG_STATUS.UNMAPPED [1:1] W1C, reset 0 DRST (R580, 24_register_interface.md). -/
def DEV_REG_STATUS_UNMAPPED : Fld := ⟨705, 1, 0⟩
/-- DEV_SITE_STATUS.WR_REFUSED [0:0] W1C, reset 0 DRST (R328, 11_sites_reservations_and_curtains.md). -/
def DEV_SITE_STATUS_WR_REFUSED : Fld := ⟨2048, 1, 0⟩
/-- DEV_SITE_STATUS.ADM_BUSY [1:1] RO, reset 0 DRST (R328, 11_sites_reservations_and_curtains.md). -/
def DEV_SITE_STATUS_ADM_BUSY : Fld := ⟨2049, 1, 0⟩
/-- DEV_SITE_STATUS.ADM_SITE [7:2] RO, reset 0 DRST (R328, 11_sites_reservations_and_curtains.md). -/
def DEV_SITE_STATUS_ADM_SITE : Fld := ⟨2050, 6, 0⟩
/-- DEV_SITE_CMD.OP [3:0] WO, reset 0 DRST (R328, 11_sites_reservations_and_curtains.md). -/
def DEV_SITE_CMD_OP : Fld := ⟨2080, 4, 0⟩
/-- DEV_SITE_CMD.SITE [9:4] WO, reset 0 DRST (R328, 11_sites_reservations_and_curtains.md). -/
def DEV_SITE_CMD_SITE : Fld := ⟨2084, 6, 0⟩
/-- DEV_SITE_RUN_LO [31:0] RO, reset 0 DRST (R328, 11_sites_reservations_and_curtains.md). -/
def DEV_SITE_RUN_LO : Fld := ⟨2112, 32, 0⟩
/-- DEV_SITE_RUN_HI [31:0] RO, reset 0 DRST (R328, 11_sites_reservations_and_curtains.md). -/
def DEV_SITE_RUN_HI : Fld := ⟨2144, 32, 0⟩
/-- DEV_SITE_ROCK_LO [31:0] RO, reset 0 DRST (R328, 11_sites_reservations_and_curtains.md). -/
def DEV_SITE_ROCK_LO : Fld := ⟨2176, 32, 0⟩
/-- DEV_SITE_ROCK_HI [31:0] RO, reset 0 DRST (R328, 11_sites_reservations_and_curtains.md). -/
def DEV_SITE_ROCK_HI : Fld := ⟨2208, 32, 0⟩
/-- DEV_SITE_TOT_PWR [12:0] RO, reset 0 DRST (R328, 11_sites_reservations_and_curtains.md). -/
def DEV_SITE_TOT_PWR : Fld := ⟨2240, 13, 0⟩
/-- DEV_SITE_TOT_VDEM.S0 [15:0] RO, reset 0 DRST (R328, 11_sites_reservations_and_curtains.md). -/
def DEV_SITE_TOT_VDEM_S0 : Fld := ⟨2272, 16, 0⟩
/-- DEV_SITE_TOT_VDEM.S1 [31:16] RO, reset 0 DRST (R328, 11_sites_reservations_and_curtains.md). -/
def DEV_SITE_TOT_VDEM_S1 : Fld := ⟨2288, 16, 0⟩
/-- DEV_SITE_TOT_GBW.S0 [15:0] RO, reset 0 DRST (R328, 11_sites_reservations_and_curtains.md). -/
def DEV_SITE_TOT_GBW_S0 : Fld := ⟨2304, 16, 0⟩
/-- DEV_SITE_TOT_GBW.S1 [31:16] RO, reset 0 DRST (R328, 11_sites_reservations_and_curtains.md). -/
def DEV_SITE_TOT_GBW_S1 : Fld := ⟨2320, 16, 0⟩
/-- DEV_SITE_TOT_EVQ [11:0] RO, reset 0 DRST (R328, 11_sites_reservations_and_curtains.md). -/
def DEV_SITE_TOT_EVQ : Fld := ⟨2336, 12, 0⟩
/-- DEV_SITE_BREACH.YIELD [5:0] RO, reset 0 DRST (R328, 11_sites_reservations_and_curtains.md). -/
def DEV_SITE_BREACH_YIELD : Fld := ⟨2368, 6, 0⟩
/-- DEV_SITE_BREACH.YIELD_NONE [6:6] RO, reset 0 DRST (R328, 11_sites_reservations_and_curtains.md). -/
def DEV_SITE_BREACH_YIELD_NONE : Fld := ⟨2374, 1, 0⟩
/-- DEV_SITE_BREACH.PROT [13:8] RO, reset 0 DRST (R328, 11_sites_reservations_and_curtains.md). -/
def DEV_SITE_BREACH_PROT : Fld := ⟨2376, 6, 0⟩
/-- DEV_SITE_BREACH.PROT_NONE [14:14] RO, reset 0 DRST (R328, 11_sites_reservations_and_curtains.md). -/
def DEV_SITE_BREACH_PROT_NONE : Fld := ⟨2382, 1, 0⟩
/-- DEV_SITE_BREACH.RES [17:16] RO, reset 0 DRST (R328, 11_sites_reservations_and_curtains.md). -/
def DEV_SITE_BREACH_RES : Fld := ⟨2384, 2, 0⟩
/-- DEV_SITE_BREACH.BREACH [31:31] W1C, reset 0 DRST (R328, 11_sites_reservations_and_curtains.md). -/
def DEV_SITE_BREACH_BREACH : Fld := ⟨2399, 1, 0⟩
/-- SITE word 0.CORES_LO [31:0] RW, reset 0 DRST (R328, 11_sites_reservations_and_curtains.md). -/
def SITE_CORES_LO (i : Nat) : Fld := ⟨32768 + 512 * i, 32, 0⟩
/-- SITE word 1.CORES_HI [31:0] RW, reset 0 DRST (R328, 11_sites_reservations_and_curtains.md). -/
def SITE_CORES_HI (i : Nat) : Fld := ⟨32800 + 512 * i, 32, 0⟩
/-- SITE word 2.RANK [5:0] RW, reset 0 DRST (R328, 11_sites_reservations_and_curtains.md). -/
def SITE_RANK (i : Nat) : Fld := ⟨32832 + 512 * i, 6, 0⟩
/-- SITE word 3.POWER [11:0] RW, reset 0 DRST (R328, 11_sites_reservations_and_curtains.md). -/
def SITE_POWER (i : Nat) : Fld := ⟨32864 + 512 * i, 12, 0⟩
/-- SITE word 4.VDEM0 [15:0] RW, reset 0 DRST (R328, 11_sites_reservations_and_curtains.md). -/
def SITE_VDEM0 (i : Nat) : Fld := ⟨32896 + 512 * i, 16, 0⟩
/-- SITE word 4.VDEM1 [31:16] RW, reset 0 DRST (R328, 11_sites_reservations_and_curtains.md). -/
def SITE_VDEM1 (i : Nat) : Fld := ⟨32912 + 512 * i, 16, 0⟩
/-- SITE word 5.GBW0 [15:0] RW, reset 0 DRST (R328, 11_sites_reservations_and_curtains.md). -/
def SITE_GBW0 (i : Nat) : Fld := ⟨32928 + 512 * i, 16, 0⟩
/-- SITE word 5.GBW1 [31:16] RW, reset 0 DRST (R328, 11_sites_reservations_and_curtains.md). -/
def SITE_GBW1 (i : Nat) : Fld := ⟨32944 + 512 * i, 16, 0⟩
/-- SITE word 6.EVQ [11:0] RW, reset 0 DRST (R328, 11_sites_reservations_and_curtains.md). -/
def SITE_EVQ (i : Nat) : Fld := ⟨32960 + 512 * i, 12, 0⟩
/-- SITE word 7.SITE_STATE [2:0] RO, reset 0 DRST (R328, 11_sites_reservations_and_curtains.md). -/
def SITE_SITE_STATE (i : Nat) : Fld := ⟨32992 + 512 * i, 3, 0⟩
/-- SITE word 7.ADM_BUSY [3:3] RO, reset 0 DRST (R328, 11_sites_reservations_and_curtains.md). -/
def SITE_ADM_BUSY (i : Nat) : Fld := ⟨32995 + 512 * i, 1, 0⟩
/-- SITE word 7.PARK_PEND [4:4] RO, reset 0 DRST (R328, 11_sites_reservations_and_curtains.md). -/
def SITE_PARK_PEND (i : Nat) : Fld := ⟨32996 + 512 * i, 1, 0⟩
/-- SITE word 7.ABORT_PEND [5:5] RO, reset 0 DRST (R328, 11_sites_reservations_and_curtains.md). -/
def SITE_ABORT_PEND (i : Nat) : Fld := ⟨32997 + 512 * i, 1, 0⟩
/-- SITE word 7.RESUME_PEND [6:6] RO, reset 0 DRST (R328, 11_sites_reservations_and_curtains.md). -/
def SITE_RESUME_PEND (i : Nat) : Fld := ⟨32998 + 512 * i, 1, 0⟩
/-- SITE word 7.CAUSE [15:8] RO, reset 0 DRST (R328, 11_sites_reservations_and_curtains.md). -/
def SITE_CAUSE (i : Nat) : Fld := ⟨33000 + 512 * i, 8, 0⟩
/-- SITE word 8.REFUSE [7:0] RO, reset 0 DRST (R328, 11_sites_reservations_and_curtains.md). -/
def SITE_REFUSE (i : Nat) : Fld := ⟨33024 + 512 * i, 8, 0⟩
/-- SITE word 8.LAST_OP [11:8] RO, reset 0 DRST (R328, 11_sites_reservations_and_curtains.md). -/
def SITE_LAST_OP (i : Nat) : Fld := ⟨33032 + 512 * i, 4, 0⟩
/-- SITE word 8.LAST_RESULT [14:12] RO, reset 0 DRST (R328, 11_sites_reservations_and_curtains.md). -/
def SITE_LAST_RESULT (i : Nat) : Fld := ⟨33036 + 512 * i, 3, 0⟩
/-- SITE word 9.STOP_TTI_LO [31:0] RO, reset 0 DRST (R328, 11_sites_reservations_and_curtains.md). -/
def SITE_STOP_TTI_LO (i : Nat) : Fld := ⟨33056 + 512 * i, 32, 0⟩
/-- SITE word 10.STOP_TTI_HI [31:0] RS, reset 0 DRST (R328, 11_sites_reservations_and_curtains.md). -/
def SITE_STOP_TTI_HI (i : Nat) : Fld := ⟨33088 + 512 * i, 32, 0⟩
/-- SITE word 11.STOPS [15:0] RO, reset 0 DRST (R328, 11_sites_reservations_and_curtains.md). -/
def SITE_STOPS (i : Nat) : Fld := ⟨33120 + 512 * i, 16, 0⟩
/-- SITE word 12.ADM_SEQ [31:0] RO, reset 0 DRST (R328, 11_sites_reservations_and_curtains.md). -/
def SITE_ADM_SEQ (i : Nat) : Fld := ⟨33152 + 512 * i, 32, 0⟩
/-- SITE word 13.EVQ_USED [11:0] RO, reset 0 DRST (R328, 11_sites_reservations_and_curtains.md). -/
def SITE_EVQ_USED (i : Nat) : Fld := ⟨33184 + 512 * i, 12, 0⟩
/-- SNT_STATUS.ACTIVE_SLOT [0:0] RO, reset 0 DRST (R93, 03_sentry_and_instant_fabric.md). -/
def SNT_STATUS_ACTIVE_SLOT : Fld := ⟨524288, 1, 0⟩
/-- SNT_STATUS.SLOT_A_VALID [1:1] RO, reset 0 DRST (R93, 03_sentry_and_instant_fabric.md). -/
def SNT_STATUS_SLOT_A_VALID : Fld := ⟨524289, 1, 0⟩
/-- SNT_STATUS.SLOT_B_VALID [2:2] RO, reset 0 DRST (R93, 03_sentry_and_instant_fabric.md). -/
def SNT_STATUS_SLOT_B_VALID : Fld := ⟨524290, 1, 0⟩
/-- SNT_STATUS.SEQ_CONFLICT [3:3] W1C, reset 0 DRST (R93, 03_sentry_and_instant_fabric.md). -/
def SNT_STATUS_SEQ_CONFLICT : Fld := ⟨524291, 1, 0⟩
/-- SNT_STATUS.SWAP_PENDING [4:4] RO, reset 0 DRST (R93, 03_sentry_and_instant_fabric.md). -/
def SNT_STATUS_SWAP_PENDING : Fld := ⟨524292, 1, 0⟩
/-- SNT_STATUS.SWAP_ACTIVE [5:5] RO, reset 0 DRST (R93, 03_sentry_and_instant_fabric.md). -/
def SNT_STATUS_SWAP_ACTIVE : Fld := ⟨524293, 1, 0⟩
/-- SNT_STATUS.SWAP_REFUSED [6:6] W1C, reset 0 DRST (R93, 03_sentry_and_instant_fabric.md). -/
def SNT_STATUS_SWAP_REFUSED : Fld := ⟨524294, 1, 0⟩
/-- SNT_STATUS.SWAP_FAIL [7:7] W1C, reset 0 DRST (R93, 03_sentry_and_instant_fabric.md). -/
def SNT_STATUS_SWAP_FAIL : Fld := ⟨524295, 1, 0⟩
/-- SNT_STATUS.SAFE_POINT [8:8] RO, reset 0 DRST (R93, 03_sentry_and_instant_fabric.md). -/
def SNT_STATUS_SAFE_POINT : Fld := ⟨524296, 1, 0⟩
/-- SNT_STATUS.MBOX_FULL [9:9] RO, reset 0 DRST (R93, 03_sentry_and_instant_fabric.md). -/
def SNT_STATUS_MBOX_FULL : Fld := ⟨524297, 1, 0⟩
/-- SNT_ACTIVE_SEQ [31:0] RO, reset 0 DRST (R93, 03_sentry_and_instant_fabric.md). -/
def SNT_ACTIVE_SEQ : Fld := ⟨524320, 32, 0⟩
/-- SNT_OTHER_SEQ [31:0] RO, reset 0 DRST (R93, 03_sentry_and_instant_fabric.md). -/
def SNT_OTHER_SEQ : Fld := ⟨524352, 32, 0⟩
/-- SNT_SWAP_CTRL.REQ [0:0] W1S, reset 0 DRST (R93, 03_sentry_and_instant_fabric.md). -/
def SNT_SWAP_CTRL_REQ : Fld := ⟨524384, 1, 0⟩
/-- SNT_SWAP_CTRL.CANCEL [1:1] WO, reset 0 DRST (R93, 03_sentry_and_instant_fabric.md). -/
def SNT_SWAP_CTRL_CANCEL : Fld := ⟨524385, 1, 0⟩
/-- SNT_SWAP_CTRL.KEY [31:24] WO, reset 0 DRST (R93, 03_sentry_and_instant_fabric.md). -/
def SNT_SWAP_CTRL_KEY : Fld := ⟨524408, 8, 0⟩
/-- SNT_SWAP_TMO [15:0] RW, reset 1000 DRST (R93, 03_sentry_and_instant_fabric.md). -/
def SNT_SWAP_TMO : Fld := ⟨524416, 16, 1000⟩
/-- SNT_GROUP_STATE.ASSERTED [15:0] RO, reset 65535 DRST (R93, 03_sentry_and_instant_fabric.md). -/
def SNT_GROUP_STATE_ASSERTED : Fld := ⟨524448, 16, 65535⟩
/-- SNT_GROUP_STATE.SAFE_REL [31:16] RO, reset 0 DRST (R93, 03_sentry_and_instant_fabric.md). -/
def SNT_GROUP_STATE_SAFE_REL : Fld := ⟨524464, 16, 0⟩
/-- SNT_GROUP_FORCE.FORCE [15:0] RW, reset 0 DRST (R93, 03_sentry_and_instant_fabric.md). -/
def SNT_GROUP_FORCE_FORCE : Fld := ⟨524480, 16, 0⟩
/-- SNT_POLICY.RELEASE_EN [15:0] RWL, reset 0 DRST (R93, 03_sentry_and_instant_fabric.md). -/
def SNT_POLICY_RELEASE_EN : Fld := ⟨524512, 16, 0⟩
/-- SNT_PIN_OWN_LO [31:0] RO, reset 0 DRST (R93, 03_sentry_and_instant_fabric.md). -/
def SNT_PIN_OWN_LO : Fld := ⟨524544, 32, 0⟩
/-- SNT_PIN_OWN_HI [31:0] RO, reset 0 DRST (R93, 03_sentry_and_instant_fabric.md). -/
def SNT_PIN_OWN_HI : Fld := ⟨524576, 32, 0⟩
/-- SNT_PORT_OWN [3:0] RO, reset 0 DRST (R93, 03_sentry_and_instant_fabric.md). -/
def SNT_PORT_OWN : Fld := ⟨524608, 4, 0⟩
/-- SNT_MBOX_TO [31:0] WO, reset 0 DRST (R93, 03_sentry_and_instant_fabric.md). -/
def SNT_MBOX_TO : Fld := ⟨524672, 32, 0⟩
/-- SNT_MBOX_FROM [31:0] RO, reset 0 DRST (R93, 03_sentry_and_instant_fabric.md). -/
def SNT_MBOX_FROM : Fld := ⟨524704, 32, 0⟩
/-- SNT_TRIP_CAUSE.CODE [7:0] RO, reset 0 DRST (R93, 03_sentry_and_instant_fabric.md). -/
def SNT_TRIP_CAUSE_CODE : Fld := ⟨524736, 8, 0⟩
/-- SNT_TRIP_CAUSE.TRIP [8:8] W1C, reset 0 DRST (R93, 03_sentry_and_instant_fabric.md). -/
def SNT_TRIP_CAUSE_TRIP : Fld := ⟨524744, 1, 0⟩
/-- SNT_TRIP_CAUSE.SYS [9:9] W1C, reset 0 DRST (R93, 03_sentry_and_instant_fabric.md). -/
def SNT_TRIP_CAUSE_SYS : Fld := ⟨524745, 1, 0⟩
/-- SNT_TRIP_CAUSE.BUSY_WD [10:10] W1C, reset 0 DRST (R93, 03_sentry_and_instant_fabric.md). -/
def SNT_TRIP_CAUSE_BUSY_WD : Fld := ⟨524746, 1, 0⟩
/-- SNT_LOCK.POLICY_LOCK [0:0] LCK, reset 0 DRST (R93, 03_sentry_and_instant_fabric.md). -/
def SNT_LOCK_POLICY_LOCK : Fld := ⟨524768, 1, 0⟩
/-- SNT_LOCK.SAFECODE_LOCK [1:1] LCK, reset 0 DRST (R93, 03_sentry_and_instant_fabric.md). -/
def SNT_LOCK_SAFECODE_LOCK : Fld := ⟨524769, 1, 0⟩
/-- SNT_LOCK.SWAP_LOCK [2:2] LCK, reset 0 DRST (R93, 03_sentry_and_instant_fabric.md). -/
def SNT_LOCK_SWAP_LOCK : Fld := ⟨524770, 1, 0⟩
/-- SNT_SAFECODE.CLAMP0 [1:0] RWL, reset 0 DRST (R79, 03_sentry_and_instant_fabric.md). -/
def SNT_SAFECODE_CLAMP0 (i : Nat) : Fld := ⟨526336 + 32 * i, 2, 0⟩
/-- SNT_SAFECODE.LOAD_OFF0 [2:2] RWL, reset 0 DRST (R79, 03_sentry_and_instant_fabric.md). -/
def SNT_SAFECODE_LOAD_OFF0 (i : Nat) : Fld := ⟨526338 + 32 * i, 1, 0⟩
/-- SNT_SAFECODE.CLAMP1 [9:8] RWL, reset 0 DRST (R79, 03_sentry_and_instant_fabric.md). -/
def SNT_SAFECODE_CLAMP1 (i : Nat) : Fld := ⟨526344 + 32 * i, 2, 0⟩
/-- SNT_SAFECODE.LOAD_OFF1 [10:10] RWL, reset 0 DRST (R79, 03_sentry_and_instant_fabric.md). -/
def SNT_SAFECODE_LOAD_OFF1 (i : Nat) : Fld := ⟨526346 + 32 * i, 1, 0⟩
/-- SNT_SAFECODE.CLAMP2 [17:16] RWL, reset 0 DRST (R79, 03_sentry_and_instant_fabric.md). -/
def SNT_SAFECODE_CLAMP2 (i : Nat) : Fld := ⟨526352 + 32 * i, 2, 0⟩
/-- SNT_SAFECODE.LOAD_OFF2 [18:18] RWL, reset 0 DRST (R79, 03_sentry_and_instant_fabric.md). -/
def SNT_SAFECODE_LOAD_OFF2 (i : Nat) : Fld := ⟨526354 + 32 * i, 1, 0⟩
/-- SNT_SAFECODE.CLAMP3 [25:24] RWL, reset 0 DRST (R79, 03_sentry_and_instant_fabric.md). -/
def SNT_SAFECODE_CLAMP3 (i : Nat) : Fld := ⟨526360 + 32 * i, 2, 0⟩
/-- SNT_SAFECODE.LOAD_OFF3 [26:26] RWL, reset 0 DRST (R79, 03_sentry_and_instant_fabric.md). -/
def SNT_SAFECODE_LOAD_OFF3 (i : Nat) : Fld := ⟨526362 + 32 * i, 1, 0⟩
/-- FLC_STATUS.OP_ACTIVE [0:0] RO, reset 0 DRST (R441, 16_hub_flash.md). -/
def FLC_STATUS_OP_ACTIVE : Fld := ⟨1048576, 1, 0⟩
/-- FLC_STATUS.CALL_ACTIVE [1:1] RO, reset 0 DRST (R441, 16_hub_flash.md). -/
def FLC_STATUS_CALL_ACTIVE : Fld := ⟨1048577, 1, 0⟩
/-- FLC_STATUS.SECTOR [9:2] RO, reset 0 DRST (R441, 16_hub_flash.md). -/
def FLC_STATUS_SECTOR : Fld := ⟨1048578, 8, 0⟩
/-- FLC_STATUS.XO_VIOL [10:10] W1C, reset 0 DRST (R441, 16_hub_flash.md). -/
def FLC_STATUS_XO_VIOL : Fld := ⟨1048586, 1, 0⟩
/-- FLC_STATUS.RD_REFUSED [11:11] W1C, reset 0 DRST (R441, 16_hub_flash.md). -/
def FLC_STATUS_RD_REFUSED : Fld := ⟨1048587, 1, 0⟩
/-- FLC_STATUS.CALL_REFUSED [12:12] W1C, reset 0 DRST (R441, 16_hub_flash.md). -/
def FLC_STATUS_CALL_REFUSED : Fld := ⟨1048588, 1, 0⟩
/-- FLC_STATUS.CE_ANY [13:13] W1C, reset 0 DRST (R441, 16_hub_flash.md). -/
def FLC_STATUS_CE_ANY : Fld := ⟨1048589, 1, 0⟩
/-- FLC_STATUS.UE_ANY [14:14] W1C, reset 0 DRST (R441, 16_hub_flash.md). -/
def FLC_STATUS_UE_ANY : Fld := ⟨1048590, 1, 0⟩
/-- FLC_STATUS.OP_TIMEOUT [15:15] W1C, reset 0 DRST (R441, 16_hub_flash.md). -/
def FLC_STATUS_OP_TIMEOUT : Fld := ⟨1048591, 1, 0⟩
/-- FLC_CALL.FUNC [7:0] WO, reset 0 DRST (R441, 16_hub_flash.md). -/
def FLC_CALL_FUNC : Fld := ⟨1048608, 8, 0⟩
/-- FLC_CALL.QUEUE [8:8] WO, reset 0 DRST (R441, 16_hub_flash.md). -/
def FLC_CALL_QUEUE : Fld := ⟨1048616, 1, 0⟩
/-- FLC_CALL.KEY [31:24] WO, reset 0 DRST (R441, 16_hub_flash.md). -/
def FLC_CALL_KEY : Fld := ⟨1048632, 8, 0⟩
/-- FLC_ARG [31:0] RW, reset 0 DRST (R441, 16_hub_flash.md). -/
def FLC_ARG (i : Nat) : Fld := ⟨1048640 + 32 * i, 32, 0⟩
/-- FLC_RESULT.STATUS [7:0] RO, reset 0 DRST (R441, 16_hub_flash.md). -/
def FLC_RESULT_STATUS : Fld := ⟨1048768, 8, 0⟩
/-- FLC_RESULT.DONE [8:8] RO, reset 0 DRST (R441, 16_hub_flash.md). -/
def FLC_RESULT_DONE : Fld := ⟨1048776, 1, 0⟩
/-- FLC_RESULT.CALLER [11:9] RO, reset 0 DRST (R441, 16_hub_flash.md). -/
def FLC_RESULT_CALLER : Fld := ⟨1048777, 3, 0⟩
/-- FLC_RESULT.HOLDER [23:16] RO, reset 0 DRST (R441, 16_hub_flash.md). -/
def FLC_RESULT_HOLDER : Fld := ⟨1048784, 8, 0⟩
/-- FLC_OUT [31:0] RO, reset 0 DRST (R441, 16_hub_flash.md). -/
def FLC_OUT : Fld := ⟨1048800, 32, 0⟩
/-- FLC_OUT2 [31:0] RO, reset 0 DRST (R441, 16_hub_flash.md). -/
def FLC_OUT2 : Fld := ⟨1048832, 32, 0⟩
/-- FLC_PROGRESS [15:0] RO, reset 0 DRST (R441, 16_hub_flash.md). -/
def FLC_PROGRESS : Fld := ⟨1048864, 16, 0⟩
/-- FLC_WP_P [7:0] RWL, reset 0 DRST (R441, 16_hub_flash.md). -/
def FLC_WP_P : Fld := ⟨1048896, 8, 0⟩
/-- FLC_WP_M [31:0] RWL, reset 0 DRST (R441, 16_hub_flash.md). -/
def FLC_WP_M (i : Nat) : Fld := ⟨1048928 + 32 * i, 32, 0⟩
/-- FLC_XO.FIRST [7:0] RWL, reset 0 DRST (R441, 16_hub_flash.md). -/
def FLC_XO_FIRST (i : Nat) : Fld := ⟨1049088 + 32 * i, 8, 0⟩
/-- FLC_XO.COUNT [15:8] RWL, reset 0 DRST (R441, 16_hub_flash.md). -/
def FLC_XO_COUNT (i : Nat) : Fld := ⟨1049096 + 32 * i, 8, 0⟩
/-- FLC_XO.EN [31:31] RWL, reset 0 DRST (R441, 16_hub_flash.md). -/
def FLC_XO_EN (i : Nat) : Fld := ⟨1049119 + 32 * i, 1, 0⟩
/-- FLC_LOCK.WP_LOCK [0:0] LCK, reset 0 DRST (R441, 16_hub_flash.md). -/
def FLC_LOCK_WP_LOCK : Fld := ⟨1049216, 1, 0⟩
/-- FLC_LOCK.XO_LOCK [1:1] LCK, reset 0 DRST (R441, 16_hub_flash.md). -/
def FLC_LOCK_XO_LOCK : Fld := ⟨1049217, 1, 0⟩
/-- FLC_CE_LO.COUNT_LO [31:0] RW, reset 0 DRST (R441, 16_hub_flash.md). -/
def FLC_CE_LO_COUNT_LO : Fld := ⟨1049280, 32, 0⟩
/-- FLC_CE_HI.COUNT_HI [15:0] RS, reset 0 DRST (R441, 16_hub_flash.md). -/
def FLC_CE_HI_COUNT_HI : Fld := ⟨1049312, 16, 0⟩
/-- FLC_CE_HI.OVF [16:16] W1C, reset 0 DRST (R441, 16_hub_flash.md). -/
def FLC_CE_HI_OVF : Fld := ⟨1049328, 1, 0⟩
/-- FLC_UE_ADDR [23:0] RO, reset 0 DRST (R441, 16_hub_flash.md). -/
def FLC_UE_ADDR : Fld := ⟨1049344, 24, 0⟩
/-- CFG_STATUS.ACTIVE [0:0] RO, reset 0 DRST (R406, 14_fabric_and_configuration_streams.md). -/
def CFG_STATUS_ACTIVE : Fld := ⟨1572864, 1, 0⟩
/-- CFG_STATUS.SOURCE [2:1] RO, reset 0 DRST (R406, 14_fabric_and_configuration_streams.md). -/
def CFG_STATUS_SOURCE : Fld := ⟨1572865, 2, 0⟩
/-- CFG_STATUS.REVERTING [3:3] RO, reset 0 DRST (R406, 14_fabric_and_configuration_streams.md). -/
def CFG_STATUS_REVERTING : Fld := ⟨1572867, 1, 0⟩
/-- CFG_STATUS.NOT_LOAD [4:4] W1C, reset 0 DRST (R406, 14_fabric_and_configuration_streams.md). -/
def CFG_STATUS_NOT_LOAD : Fld := ⟨1572868, 1, 0⟩
/-- CFG_STATUS.PORT_CONFLICT [5:5] W1C, reset 0 DRST (R406, 14_fabric_and_configuration_streams.md). -/
def CFG_STATUS_PORT_CONFLICT : Fld := ⟨1572869, 1, 0⟩
/-- CFG_STATUS.VF_REFUSED [6:6] W1C, reset 0 DRST (R406, 14_fabric_and_configuration_streams.md). -/
def CFG_STATUS_VF_REFUSED : Fld := ⟨1572870, 1, 0⟩
/-- CFG_STATUS.ALL_COMPLETE [7:7] RO, reset 0 DRST (R406, 14_fabric_and_configuration_streams.md). -/
def CFG_STATUS_ALL_COMPLETE : Fld := ⟨1572871, 1, 0⟩
/-- CFG_STATUS.CHECK [8:8] RO, reset 0 DRST (R406, 14_fabric_and_configuration_streams.md). -/
def CFG_STATUS_CHECK : Fld := ⟨1572872, 1, 0⟩
/-- CFG_STATUS.ACCEPTED [31:16] RO, reset 0 DRST (R406, 14_fabric_and_configuration_streams.md). -/
def CFG_STATUS_ACCEPTED : Fld := ⟨1572880, 16, 0⟩
/-- CFG_CTRL.ABORT [0:0] WO, reset 0 DRST (R406, 14_fabric_and_configuration_streams.md). -/
def CFG_CTRL_ABORT : Fld := ⟨1572896, 1, 0⟩
/-- CFG_CTRL.CFGP_RD_EN [1:1] RW, reset leadsel DRST (R406, 14_fabric_and_configuration_streams.md). -/
def CFG_CTRL_CFGP_RD_EN : Fld := ⟨1572897, 1, 0⟩
/-- CFG_TIMEOUT [15:0] RW, reset 100 DRST (R406, 14_fabric_and_configuration_streams.md). -/
def CFG_TIMEOUT : Fld := ⟨1572928, 16, 100⟩
/-- CFG_REJECT.DETAIL [7:0] RO, reset 0 DRST (R406, 14_fabric_and_configuration_streams.md). -/
def CFG_REJECT_DETAIL : Fld := ⟨1572960, 8, 0⟩
/-- CFG_REJECT.CLASS [11:8] RO, reset 0 DRST (R406, 14_fabric_and_configuration_streams.md). -/
def CFG_REJECT_CLASS : Fld := ⟨1572968, 4, 0⟩
/-- CFG_REJECT.BLOCK [31:16] RO, reset 0 DRST (R406, 14_fabric_and_configuration_streams.md). -/
def CFG_REJECT_BLOCK : Fld := ⟨1572976, 16, 0⟩
/-- CFG_RX_LO.COUNT_LO [31:0] RW, reset 0 DRST (R406, 14_fabric_and_configuration_streams.md). -/
def CFG_RX_LO_COUNT_LO : Fld := ⟨1572992, 32, 0⟩
/-- CFG_RX_HI.COUNT_HI [15:0] RS, reset 0 DRST (R406, 14_fabric_and_configuration_streams.md). -/
def CFG_RX_HI_COUNT_HI : Fld := ⟨1573024, 16, 0⟩
/-- CFG_RX_HI.OVF [16:16] W1C, reset 0 DRST (R406, 14_fabric_and_configuration_streams.md). -/
def CFG_RX_HI_OVF : Fld := ⟨1573040, 1, 0⟩
/-- CFG_KEY_POLICY.ALLOW [1:0] RWL, reset 0 DRST (R406, 14_fabric_and_configuration_streams.md). -/
def CFG_KEY_POLICY_ALLOW : Fld := ⟨1573056, 2, 0⟩
/-- CFG_KEY_POLICY.KEY_LOCK [31:31] LCK, reset 0 DRST (R406, 14_fabric_and_configuration_streams.md). -/
def CFG_KEY_POLICY_KEY_LOCK : Fld := ⟨1573087, 1, 0⟩
/-- CFG_KEYB_CTRL.PROGRAM [0:0] WO, reset 0 DRST (R406, 14_fabric_and_configuration_streams.md). -/
def CFG_KEYB_CTRL_PROGRAM : Fld := ⟨1573088, 1, 0⟩
/-- CFG_KEYB_CTRL.ZEROIZE [1:1] WO, reset 0 DRST (R406, 14_fabric_and_configuration_streams.md). -/
def CFG_KEYB_CTRL_ZEROIZE : Fld := ⟨1573089, 1, 0⟩
/-- CFG_KEYB_CTRL.KEY [31:24] WO, reset 0 DRST (R406, 14_fabric_and_configuration_streams.md). -/
def CFG_KEYB_CTRL_KEY : Fld := ⟨1573112, 8, 0⟩
/-- CFG_KEYB_STATUS.VALID [0:0] RO, reset 0 VBAT (R406, 14_fabric_and_configuration_streams.md). -/
def CFG_KEYB_STATUS_VALID : Fld := ⟨1573120, 1, 0⟩
/-- CFG_KEYB_STATUS.ERASED [1:1] W1C, reset 0 VBAT (R406, 14_fabric_and_configuration_streams.md). -/
def CFG_KEYB_STATUS_ERASED : Fld := ⟨1573121, 1, 0⟩
/-- CFG_KEYB_STATUS.CAUSE [3:2] RO, reset 0 VBAT (R406, 14_fabric_and_configuration_streams.md). -/
def CFG_KEYB_STATUS_CAUSE : Fld := ⟨1573122, 2, 0⟩
/-- CFG_KEYB_STATUS.PROG_REFUSED [4:4] W1C, reset 0 DRST (R406, 14_fabric_and_configuration_streams.md). -/
def CFG_KEYB_STATUS_PROG_REFUSED : Fld := ⟨1573124, 1, 0⟩
/-- CFG_KEYB_KCV [31:0] RO, reset 0 VBAT (R406, 14_fabric_and_configuration_streams.md). -/
def CFG_KEYB_KCV : Fld := ⟨1573152, 32, 0⟩
/-- CFG_KEYB_DATA [31:0] WO, reset 0 VBAT (R406, 14_fabric_and_configuration_streams.md). -/
def CFG_KEYB_DATA (i : Nat) : Fld := ⟨1573376 + 32 * i, 32, 0⟩
/-- CFG_DIE_STATUS.COMPLETE [0:0] RO, reset 0 DIE (R406, 14_fabric_and_configuration_streams.md). -/
def CFG_DIE_STATUS_COMPLETE (i : Nat) : Fld := ⟨1573888 + 32 * i, 1, 0⟩
/-- CFG_DIE_STATUS.STARTED [1:1] RO, reset 0 DIE (R406, 14_fabric_and_configuration_streams.md). -/
def CFG_DIE_STATUS_STARTED (i : Nat) : Fld := ⟨1573889 + 32 * i, 1, 0⟩
/-- CFG_DIE_STATUS.HELD [2:2] RO, reset 1 DIE (R406, 14_fabric_and_configuration_streams.md). -/
def CFG_DIE_STATUS_HELD (i : Nat) : Fld := ⟨1573890 + 32 * i, 1, 1⟩
/-- CFG_DIE_STATUS.HOLD [3:3] RO, reset 0 DIE (R406, 14_fabric_and_configuration_streams.md). -/
def CFG_DIE_STATUS_HOLD (i : Nat) : Fld := ⟨1573891 + 32 * i, 1, 0⟩
/-- CFG_DIE_STATUS.CFGI_EN [4:4] RO, reset 0 DIE (R406, 14_fabric_and_configuration_streams.md). -/
def CFG_DIE_STATUS_CFGI_EN (i : Nat) : Fld := ⟨1573892 + 32 * i, 1, 0⟩
/-- CFG_DIE_STATUS.SCRUB_EN [5:5] RO, reset 0 DIE (R406, 14_fabric_and_configuration_streams.md). -/
def CFG_DIE_STATUS_SCRUB_EN (i : Nat) : Fld := ⟨1573893 + 32 * i, 1, 0⟩
/-- CFG_DIE_STATUS.RELEASE [6:6] WO, reset 0 DIE (R406, 14_fabric_and_configuration_streams.md). -/
def CFG_DIE_STATUS_RELEASE (i : Nat) : Fld := ⟨1573894 + 32 * i, 1, 0⟩
/-- CFG_DIE_STATUS.FRAMES [30:16] RO, reset 0 DIE (R406, 14_fabric_and_configuration_streams.md). -/
def CFG_DIE_STATUS_FRAMES (i : Nat) : Fld := ⟨1573904 + 32 * i, 15, 0⟩
/-- CFG_FAB_PWR [10:0] RO, reset 0 DIE (R406, 14_fabric_and_configuration_streams.md). -/
def CFG_FAB_PWR (i : Nat) : Fld := ⟨1574016 + 32 * i, 11, 0⟩
/-- TIM_STATUS.LOCKED [0:0] RO, reset 0 DRST (R123, 04_tester_time_and_events.md). -/
def TIM_STATUS_LOCKED : Fld := ⟨2097152, 1, 0⟩
/-- TIM_STATUS.TIME_UNSURE [1:1] RO, reset 1 DRST (R123, 04_tester_time_and_events.md). -/
def TIM_STATUS_TIME_UNSURE : Fld := ⟨2097153, 1, 1⟩
/-- TIM_STATUS.HOLDOVER [2:2] RO, reset 0 DRST (R123, 04_tester_time_and_events.md). -/
def TIM_STATUS_HOLDOVER : Fld := ⟨2097154, 1, 0⟩
/-- TIM_STATUS.SET_PENDING [3:3] RO, reset 0 DRST (R123, 04_tester_time_and_events.md). -/
def TIM_STATUS_SET_PENDING : Fld := ⟨2097155, 1, 0⟩
/-- TIM_STATUS.SET_LATE [4:4] W1C, reset 0 DRST (R123, 04_tester_time_and_events.md). -/
def TIM_STATUS_SET_LATE : Fld := ⟨2097156, 1, 0⟩
/-- TIM_STATUS.SET_REFUSED [5:5] W1C, reset 0 DRST (R123, 04_tester_time_and_events.md). -/
def TIM_STATUS_SET_REFUSED : Fld := ⟨2097157, 1, 0⟩
/-- TIM_STATUS.MARK_SLIP [6:6] W1C, reset 0 DRST (R123, 04_tester_time_and_events.md). -/
def TIM_STATUS_MARK_SLIP : Fld := ⟨2097158, 1, 0⟩
/-- TIM_STATUS.TTI_MISMATCH [7:7] W1C, reset 0 DRST (R123, 04_tester_time_and_events.md). -/
def TIM_STATUS_TTI_MISMATCH : Fld := ⟨2097159, 1, 0⟩
/-- TIM_STATUS.SRC_LOST [8:8] W1C, reset 0 DRST (R123, 04_tester_time_and_events.md). -/
def TIM_STATUS_SRC_LOST : Fld := ⟨2097160, 1, 0⟩
/-- TIM_STATUS.SRC_ACTIVE [10:9] RO, reset 0 DRST (R123, 04_tester_time_and_events.md). -/
def TIM_STATUS_SRC_ACTIVE : Fld := ⟨2097161, 2, 0⟩
/-- TIM_STATUS.ACQ_REFUSED [11:11] W1C, reset 0 DRST (R123, 04_tester_time_and_events.md). -/
def TIM_STATUS_ACQ_REFUSED : Fld := ⟨2097163, 1, 0⟩
/-- TIM_CTRL.SRC [1:0] RWL, reset 0 DRST (R123, 04_tester_time_and_events.md). -/
def TIM_CTRL_SRC : Fld := ⟨2097184, 2, 0⟩
/-- TIM_CTRL.ACQUIRE [2:2] WO, reset 0 DRST (R123, 04_tester_time_and_events.md). -/
def TIM_CTRL_ACQUIRE : Fld := ⟨2097186, 1, 0⟩
/-- TIM_CTRL.TIME_LOCK [31:31] LCK, reset 0 DRST (R123, 04_tester_time_and_events.md). -/
def TIM_CTRL_TIME_LOCK : Fld := ⟨2097215, 1, 0⟩
/-- TIM_TTI_LO [31:0] RO, reset 0 DRST (R123, 04_tester_time_and_events.md). -/
def TIM_TTI_LO : Fld := ⟨2097216, 32, 0⟩
/-- TIM_TTI_HI [31:0] RS, reset 0 DRST (R123, 04_tester_time_and_events.md). -/
def TIM_TTI_HI : Fld := ⟨2097248, 32, 0⟩
/-- TIM_TICK [29:0] RO, reset 0 DRST (R123, 04_tester_time_and_events.md). -/
def TIM_TICK : Fld := ⟨2097280, 30, 0⟩
/-- TIM_SEC_LO [31:0] RO, reset 0 DRST (R123, 04_tester_time_and_events.md). -/
def TIM_SEC_LO : Fld := ⟨2097312, 32, 0⟩
/-- TIM_SEC_HI [7:0] RS, reset 0 DRST (R123, 04_tester_time_and_events.md). -/
def TIM_SEC_HI : Fld := ⟨2097344, 8, 0⟩
/-- TIM_SET_SEC_LO [31:0] RW, reset 0 DRST (R123, 04_tester_time_and_events.md). -/
def TIM_SET_SEC_LO : Fld := ⟨2097376, 32, 0⟩
/-- TIM_SET_SEC_HI [7:0] RW, reset 0 DRST (R123, 04_tester_time_and_events.md). -/
def TIM_SET_SEC_HI : Fld := ⟨2097408, 8, 0⟩
/-- TIM_SET_GO.GO [0:0] WO, reset 0 DRST (R123, 04_tester_time_and_events.md). -/
def TIM_SET_GO_GO : Fld := ⟨2097440, 1, 0⟩
/-- TIM_MARK_TTI_LO [31:0] RO, reset 0 DRST (R123, 04_tester_time_and_events.md). -/
def TIM_MARK_TTI_LO : Fld := ⟨2097472, 32, 0⟩
/-- TIM_MARK_TTI_HI [31:0] RS, reset 0 DRST (R123, 04_tester_time_and_events.md). -/
def TIM_MARK_TTI_HI : Fld := ⟨2097504, 32, 0⟩
/-- TIM_SCHED_FREE.HD [8:0] RO, reset 0 DRST (R123, 04_tester_time_and_events.md). -/
def TIM_SCHED_FREE_HD : Fld := ⟨2097536, 9, 0⟩
/-- TIM_SCHED_FREE.BD [24:16] RO, reset 0 DRST (R123, 04_tester_time_and_events.md). -/
def TIM_SCHED_FREE_BD : Fld := ⟨2097552, 9, 0⟩
/-- SCHED word 0.TTI_LO [31:0] RW, reset 0 DIE (R110, 04_tester_time_and_events.md). -/
def SCHED_TTI_LO (i j : Nat) : Fld := ⟨2129920 + 32768 * i + 128 * j, 32, 0⟩
/-- SCHED word 1.TTI_HI [31:0] RW, reset 0 DIE (R110, 04_tester_time_and_events.md). -/
def SCHED_TTI_HI (i j : Nat) : Fld := ⟨2129952 + 32768 * i + 128 * j, 32, 0⟩
/-- SCHED word 2.ACTION [7:0] RW, reset 0 DIE (R110, 04_tester_time_and_events.md). -/
def SCHED_ACTION (i j : Nat) : Fld := ⟨2129984 + 32768 * i + 128 * j, 8, 0⟩
/-- SCHED word 2.TARGET [15:8] RW, reset 0 DIE (R110, 04_tester_time_and_events.md). -/
def SCHED_TARGET (i j : Nat) : Fld := ⟨2129992 + 32768 * i + 128 * j, 8, 0⟩
/-- SCHED word 2.SUB [19:16] RW, reset 0 DIE (R110, 04_tester_time_and_events.md). -/
def SCHED_SUB (i j : Nat) : Fld := ⟨2130000 + 32768 * i + 128 * j, 4, 0⟩
/-- SCHED word 2.STATE [26:24] RO, reset 0 DIE (R110, 04_tester_time_and_events.md). -/
def SCHED_STATE (i j : Nat) : Fld := ⟨2130008 + 32768 * i + 128 * j, 3, 0⟩
/-- SCHED word 2.ARM [27:27] W1S, reset 0 DIE (R110, 04_tester_time_and_events.md). -/
def SCHED_ARM (i j : Nat) : Fld := ⟨2130011 + 32768 * i + 128 * j, 1, 0⟩
/-- SCHED word 2.DISARM [28:28] WO, reset 0 DIE (R110, 04_tester_time_and_events.md). -/
def SCHED_DISARM (i j : Nat) : Fld := ⟨2130012 + 32768 * i + 128 * j, 1, 0⟩
/-- SCHED word 2.RESULT [31:29] RO, reset 0 DIE (R110, 04_tester_time_and_events.md). -/
def SCHED_RESULT (i j : Nat) : Fld := ⟨2130013 + 32768 * i + 128 * j, 3, 0⟩
/-- SCHED word 3.ARG [31:0] RW, reset 0 DIE (R110, 04_tester_time_and_events.md). -/
def SCHED_ARG (i j : Nat) : Fld := ⟨2130016 + 32768 * i + 128 * j, 32, 0⟩
/-- CAS_STATUS.ROLE_OK [0:0] RO, reset 0 DRST (R495, 19_cascading_devices.md). -/
def CAS_STATUS_ROLE_OK : Fld := ⟨2621440, 1, 0⟩
/-- CAS_STATUS.STRAP_LEAD [1:1] RO, reset leadsel DRST (R495, 19_cascading_devices.md). -/
def CAS_STATUS_STRAP_LEAD : Fld := ⟨2621441, 1, 0⟩
/-- CAS_STATUS.POSITION [5:2] RO, reset 0 DRST (R495, 19_cascading_devices.md). -/
def CAS_STATUS_POSITION : Fld := ⟨2621442, 4, 0⟩
/-- CAS_STATUS.POS_VALID [6:6] RO, reset 0 DRST (R495, 19_cascading_devices.md). -/
def CAS_STATUS_POS_VALID : Fld := ⟨2621446, 1, 0⟩
/-- CAS_STATUS.UP_OK [7:7] RO, reset 0 DRST (R495, 19_cascading_devices.md). -/
def CAS_STATUS_UP_OK : Fld := ⟨2621447, 1, 0⟩
/-- CAS_STATUS.DN_OK [8:8] RO, reset 0 DRST (R495, 19_cascading_devices.md). -/
def CAS_STATUS_DN_OK : Fld := ⟨2621448, 1, 0⟩
/-- CAS_STATUS.RING_OK [9:9] RO, reset 0 DRST (R495, 19_cascading_devices.md). -/
def CAS_STATUS_RING_OK : Fld := ⟨2621449, 1, 0⟩
/-- CAS_STATUS.ALARM_ANY [10:10] RO, reset 0 DRST (R495, 19_cascading_devices.md). -/
def CAS_STATUS_ALARM_ANY : Fld := ⟨2621450, 1, 0⟩
/-- CAS_STATUS.ROLE_REFUSED [11:11] W1C, reset 0 DRST (R495, 19_cascading_devices.md). -/
def CAS_STATUS_ROLE_REFUSED : Fld := ⟨2621451, 1, 0⟩
/-- CAS_STATUS.DUAL_LEAD [12:12] W1C, reset 0 DRST (R495, 19_cascading_devices.md). -/
def CAS_STATUS_DUAL_LEAD : Fld := ⟨2621452, 1, 0⟩
/-- CAS_STATUS.OVERFLOW [13:13] W1C, reset 0 DRST (R495, 19_cascading_devices.md). -/
def CAS_STATUS_OVERFLOW : Fld := ⟨2621453, 1, 0⟩
/-- CAS_STATUS.UPSTREAM_LOST [14:14] W1C, reset 0 DRST (R495, 19_cascading_devices.md). -/
def CAS_STATUS_UPSTREAM_LOST : Fld := ⟨2621454, 1, 0⟩
/-- CAS_CTRL.ROLE [1:0] RWL, reset 0 DRST (R495, 19_cascading_devices.md). -/
def CAS_CTRL_ROLE : Fld := ⟨2621472, 2, 0⟩
/-- CAS_CTRL.UP_PORT [2:2] RWL, reset 0 DRST (R495, 19_cascading_devices.md). -/
def CAS_CTRL_UP_PORT : Fld := ⟨2621474, 1, 0⟩
/-- CAS_CTRL.DN_EN [3:3] RWL, reset 0 DRST (R495, 19_cascading_devices.md). -/
def CAS_CTRL_DN_EN : Fld := ⟨2621475, 1, 0⟩
/-- CAS_CTRL.RING [4:4] RWL, reset 0 DRST (R495, 19_cascading_devices.md). -/
def CAS_CTRL_RING : Fld := ⟨2621476, 1, 0⟩
/-- CAS_CTRL.CAS_LOCK [31:31] LCK, reset 0 DRST (R495, 19_cascading_devices.md). -/
def CAS_CTRL_CAS_LOCK : Fld := ⟨2621503, 1, 0⟩
/-- CAS_POLICY.STOP_ALL [0:0] RWL, reset 0 DRST (R495, 19_cascading_devices.md). -/
def CAS_POLICY_STOP_ALL : Fld := ⟨2621504, 1, 0⟩
/-- CAS_POLICY.STOP_ALL_FIRED [1:1] W1C, reset 0 DRST (R495, 19_cascading_devices.md). -/
def CAS_POLICY_STOP_ALL_FIRED : Fld := ⟨2621505, 1, 0⟩
/-- CAS_HOLD_LIM [7:0] RWL, reset 200 DRST (R495, 19_cascading_devices.md). -/
def CAS_HOLD_LIM : Fld := ⟨2621536, 8, 200⟩
/-- CAS_HOP [19:0] RO, reset 0 DRST (R495, 19_cascading_devices.md). -/
def CAS_HOP : Fld := ⟨2621568, 20, 0⟩
/-- CAS_ASYM [15:0] RW, reset 0 DRST (R495, 19_cascading_devices.md). -/
def CAS_ASYM : Fld := ⟨2621600, 16, 0⟩
/-- CAS_PRESENT.PRESENT [15:0] RO, reset 0 DRST (R495, 19_cascading_devices.md). -/
def CAS_PRESENT_PRESENT : Fld := ⟨2621632, 16, 0⟩
/-- CAS_PRESENT.ABSENT_SEEN [31:16] W1C, reset 0 DRST (R495, 19_cascading_devices.md). -/
def CAS_PRESENT_ABSENT_SEEN : Fld := ⟨2621648, 16, 0⟩
/-- CAS_CMD.OP [2:0] WO, reset 0 DRST (R495, 19_cascading_devices.md). -/
def CAS_CMD_OP : Fld := ⟨2621696, 3, 0⟩
/-- CAS_CMD.KEY [31:24] WO, reset 0 DRST (R495, 19_cascading_devices.md). -/
def CAS_CMD_KEY : Fld := ⟨2621720, 8, 0⟩
/-- CAS_CMD_POS [15:0] RW, reset 0 DRST (R495, 19_cascading_devices.md). -/
def CAS_CMD_POS : Fld := ⟨2621728, 16, 0⟩
/-- CAS_CMD_SITES_LO [31:0] RW, reset 0 DRST (R495, 19_cascading_devices.md). -/
def CAS_CMD_SITES_LO : Fld := ⟨2621760, 32, 0⟩
/-- CAS_CMD_SITES_HI [31:0] RW, reset 0 DRST (R495, 19_cascading_devices.md). -/
def CAS_CMD_SITES_HI : Fld := ⟨2621792, 32, 0⟩
/-- CAS_CMD_LEAD [15:0] RW, reset 2000 DRST (R495, 19_cascading_devices.md). -/
def CAS_CMD_LEAD : Fld := ⟨2621824, 16, 2000⟩
/-- CAS_CMD_RESULT [2:0] RO, reset 0 DRST (R495, 19_cascading_devices.md). -/
def CAS_CMD_RESULT : Fld := ⟨2621856, 3, 0⟩
/-- CAS_POS_STATUS.ALARM [0:0] RO, reset 0 DRST (R495, 19_cascading_devices.md). -/
def CAS_POS_STATUS_ALARM (i : Nat) : Fld := ⟨2621952 + 32 * i, 1, 0⟩
/-- CAS_POS_STATUS.SAFE [1:1] RO, reset 0 DRST (R495, 19_cascading_devices.md). -/
def CAS_POS_STATUS_SAFE (i : Nat) : Fld := ⟨2621953 + 32 * i, 1, 0⟩
/-- CAS_POS_STATUS.TIME_UNSURE [2:2] RO, reset 0 DRST (R495, 19_cascading_devices.md). -/
def CAS_POS_STATUS_TIME_UNSURE (i : Nat) : Fld := ⟨2621954 + 32 * i, 1, 0⟩
/-- CAS_POS_STATUS.HOLDOVER [3:3] RO, reset 0 DRST (R495, 19_cascading_devices.md). -/
def CAS_POS_STATUS_HOLDOVER (i : Nat) : Fld := ⟨2621955 + 32 * i, 1, 0⟩
/-- PWR_STATUS.HARD_TRIP [0:0] RO, reset 0 DRST (R480, 18_power_management.md). -/
def PWR_STATUS_HARD_TRIP : Fld := ⟨3145728, 1, 0⟩
/-- PWR_STATUS.TEMP_WARN [1:1] RO, reset 0 DRST (R480, 18_power_management.md). -/
def PWR_STATUS_TEMP_WARN : Fld := ⟨3145729, 1, 0⟩
/-- PWR_STATUS.BREACH [2:2] RO, reset 0 DRST (R480, 18_power_management.md). -/
def PWR_STATUS_BREACH : Fld := ⟨3145730, 1, 0⟩
/-- PWR_STATUS.BREACH_SEEN [3:3] W1C, reset 0 DRST (R480, 18_power_management.md). -/
def PWR_STATUS_BREACH_SEEN : Fld := ⟨3145731, 1, 0⟩
/-- PWR_STATUS.OVERCOMMIT [4:4] RO, reset 0 DRST (R480, 18_power_management.md). -/
def PWR_STATUS_OVERCOMMIT : Fld := ⟨3145732, 1, 0⟩
/-- PWR_STATUS.TELEM_STALE [11:5] RO, reset 0 DRST (R480, 18_power_management.md). -/
def PWR_STATUS_TELEM_STALE : Fld := ⟨3145733, 7, 0⟩
/-- PWR_STATUS.WR_REFUSED [12:12] W1C, reset 0 DRST (R480, 18_power_management.md). -/
def PWR_STATUS_WR_REFUSED : Fld := ⟨3145740, 1, 0⟩
/-- PWR_CTRL.DEFAULT_STATE [2:0] RWL, reset 1 DRST (R480, 18_power_management.md). -/
def PWR_CTRL_DEFAULT_STATE : Fld := ⟨3145760, 3, 1⟩
/-- PWR_GUARD [16:0] RWL, reset 1000 DRST (R480, 18_power_management.md). -/
def PWR_GUARD : Fld := ⟨3145792, 17, 1000⟩
/-- PWR_CAP [11:0] RWL, reset 3600 DRST (R480, 18_power_management.md). -/
def PWR_CAP : Fld := ⟨3145824, 12, 3600⟩
/-- PWR_MARGIN [11:0] RWL, reset 200 DRST (R480, 18_power_management.md). -/
def PWR_MARGIN : Fld := ⟨3145856, 12, 200⟩
/-- PWR_BREACH_LIM [11:0] RWL, reset 3500 DRST (R480, 18_power_management.md). -/
def PWR_BREACH_LIM : Fld := ⟨3145888, 12, 3500⟩
/-- PWR_SITE_AVAIL [11:0] RO, reset 0 DRST (R480, 18_power_management.md). -/
def PWR_SITE_AVAIL : Fld := ⟨3145920, 12, 0⟩
/-- PWR_FIXED.P_FIXED [11:0] RO, reset 0 DRST (R480, 18_power_management.md). -/
def PWR_FIXED_P_FIXED : Fld := ⟨3145952, 12, 0⟩
/-- PWR_FIXED.P_FAB [27:16] RO, reset 0 DRST (R480, 18_power_management.md). -/
def PWR_FIXED_P_FAB : Fld := ⟨3145968, 12, 0⟩
/-- PWR_TEMP_LIM.WARN [7:0] RWL, reset 100 DRST (R480, 18_power_management.md). -/
def PWR_TEMP_LIM_WARN : Fld := ⟨3145984, 8, 100⟩
/-- PWR_TEMP_LIM.TRIP [15:8] RWL, reset 110 DRST (R480, 18_power_management.md). -/
def PWR_TEMP_LIM_TRIP : Fld := ⟨3145992, 8, 110⟩
/-- PWR_LOCK.CAP_LOCK [0:0] LCK, reset 0 DRST (R480, 18_power_management.md). -/
def PWR_LOCK_CAP_LOCK : Fld := ⟨3146016, 1, 0⟩
/-- PWR_PKG [11:0] RO, reset 0 DRST (R480, 18_power_management.md). -/
def PWR_PKG : Fld := ⟨3146048, 12, 0⟩
/-- PWR_PKG_WM.MARK [11:0] RW, reset 0 DRST (R480, 18_power_management.md). -/
def PWR_PKG_WM_MARK : Fld := ⟨3146080, 12, 0⟩
/-- PWR_PKG_WM.WM_PEAK [27:16] RO, reset 0 DRST (R480, 18_power_management.md). -/
def PWR_PKG_WM_WM_PEAK : Fld := ⟨3146096, 12, 0⟩
/-- PWR_PKG_WM.WM_HIT [31:31] W1C, reset 0 DRST (R480, 18_power_management.md). -/
def PWR_PKG_WM_WM_HIT : Fld := ⟨3146111, 1, 0⟩
/-- PWR_TRIP_CAUSE.KIND [1:0] RO, reset 0 DRST (R480, 18_power_management.md). -/
def PWR_TRIP_CAUSE_KIND : Fld := ⟨3146112, 2, 0⟩
/-- PWR_TRIP_CAUSE.DIE [4:2] RO, reset 0 DRST (R480, 18_power_management.md). -/
def PWR_TRIP_CAUSE_DIE : Fld := ⟨3146114, 3, 0⟩
/-- PWR_TRIP_CAUSE.RAIL [8:5] RO, reset 0 DRST (R480, 18_power_management.md). -/
def PWR_TRIP_CAUSE_RAIL : Fld := ⟨3146117, 4, 0⟩
/-- PWR_TRIP_CAUSE.TRIP [9:9] W1C, reset 0 DRST (R480, 18_power_management.md). -/
def PWR_TRIP_CAUSE_TRIP : Fld := ⟨3146121, 1, 0⟩
/-- PWR_HBM_TEMP.S0 [7:0] RO, reset 0 DRST (R480, 18_power_management.md). -/
def PWR_HBM_TEMP_S0 : Fld := ⟨3146144, 8, 0⟩
/-- PWR_HBM_TEMP.S1 [15:8] RO, reset 0 DRST (R480, 18_power_management.md). -/
def PWR_HBM_TEMP_S1 : Fld := ⟨3146152, 8, 0⟩
/-- PWR_DIE_STATE.STATE [2:0] RO, reset 0 DIE (R480, 18_power_management.md). -/
def PWR_DIE_STATE_STATE (i : Nat) : Fld := ⟨3146240 + 32 * i, 3, 0⟩
/-- PWR_DIE_STATE.TARGET [5:3] RO, reset 0 DIE (R480, 18_power_management.md). -/
def PWR_DIE_STATE_TARGET (i : Nat) : Fld := ⟨3146243 + 32 * i, 3, 0⟩
/-- PWR_DIE_STATE.MAX_STATE [8:6] RWL, reset 3 DIE (R480, 18_power_management.md). -/
def PWR_DIE_STATE_MAX_STATE (i : Nat) : Fld := ⟨3146246 + 32 * i, 3, 3⟩
/-- PWR_DIE_STATE.DECL_MAX [11:9] RO, reset 4 DIE (R480, 18_power_management.md). -/
def PWR_DIE_STATE_DECL_MAX (i : Nat) : Fld := ⟨3146249 + 32 * i, 3, 4⟩
/-- PWR_DIE_STATE.UNKNOWN [12:12] RO, reset 0 DIE (R480, 18_power_management.md). -/
def PWR_DIE_STATE_UNKNOWN (i : Nat) : Fld := ⟨3146252 + 32 * i, 1, 0⟩
/-- PWR_DIE_STATE.WAKING [13:13] RO, reset 0 DIE (R480, 18_power_management.md). -/
def PWR_DIE_STATE_WAKING (i : Nat) : Fld := ⟨3146253 + 32 * i, 1, 0⟩
/-- PWR_DIE_TELEM.POWER [11:0] RO, reset 0 DRST (R480, 18_power_management.md). -/
def PWR_DIE_TELEM_POWER (i : Nat) : Fld := ⟨3146496 + 32 * i, 12, 0⟩
/-- PWR_DIE_TELEM.TEMP [19:12] RO, reset 0 DRST (R480, 18_power_management.md). -/
def PWR_DIE_TELEM_TEMP (i : Nat) : Fld := ⟨3146508 + 32 * i, 8, 0⟩
/-- PWR_RAIL.MV [13:0] RO, reset 0 DRST (R480, 18_power_management.md). -/
def PWR_RAIL_MV (i : Nat) : Fld := ⟨3146752 + 32 * i, 14, 0⟩
/-- PWR_RAIL.CUR [31:14] RO, reset 0 DRST (R480, 18_power_management.md). -/
def PWR_RAIL_CUR (i : Nat) : Fld := ⟨3146766 + 32 * i, 18, 0⟩
/-- PWR_WAKE.LEARN_NS [22:0] RO, reset 0 DIE (R480, 18_power_management.md). -/
def PWR_WAKE_LEARN_NS (i j : Nat) : Fld := ⟨3147776 + 128 * i + 32 * j, 23, 0⟩
/-- PWR_WAKE.COUNT [27:23] RO, reset 0 DIE (R480, 18_power_management.md). -/
def PWR_WAKE_COUNT (i j : Nat) : Fld := ⟨3147799 + 128 * i + 32 * j, 5, 0⟩
/-- CLK_STATUS.REF_OK [0:0] RO, reset 0 DRST (R458, 17_clocks_and_synthesis.md). -/
def CLK_STATUS_REF_OK : Fld := ⟨3670016, 1, 0⟩
/-- CLK_STATUS.REF_SRC [2:1] RO, reset 0 DRST (R458, 17_clocks_and_synthesis.md). -/
def CLK_STATUS_REF_SRC : Fld := ⟨3670017, 2, 0⟩
/-- CLK_STATUS.REF_LOST [3:3] W1C, reset 0 DRST (R458, 17_clocks_and_synthesis.md). -/
def CLK_STATUS_REF_LOST : Fld := ⟨3670019, 1, 0⟩
/-- CLK_STATUS.OSC100_OK [4:4] RO, reset 1 DRST (R458, 17_clocks_and_synthesis.md). -/
def CLK_STATUS_OSC100_OK : Fld := ⟨3670020, 1, 1⟩
/-- CLK_STATUS.OSC40K_OK [5:5] RO, reset 1 DRST (R458, 17_clocks_and_synthesis.md). -/
def CLK_STATUS_OSC40K_OK : Fld := ⟨3670021, 1, 1⟩
/-- CLK_OSC.OSC100_PPM [15:0] RO, reset 0 DRST (R458, 17_clocks_and_synthesis.md). -/
def CLK_OSC_OSC100_PPM : Fld := ⟨3670048, 16, 0⟩
/-- GPI_STATUS.OWN_REFUSED [0:0] W1C, reset 0 DRST (R513, 20_host_interface_and_general_pins.md). -/
def GPI_STATUS_OWN_REFUSED : Fld := ⟨4194304, 1, 0⟩
/-- GPI_IN_LO [31:0] RO, reset 0 DRST (R513, 20_host_interface_and_general_pins.md). -/
def GPI_IN_LO : Fld := ⟨4194336, 32, 0⟩
/-- GPI_IN_HI [31:0] RS, reset 0 DRST (R513, 20_host_interface_and_general_pins.md). -/
def GPI_IN_HI : Fld := ⟨4194368, 32, 0⟩
/-- GPI_OUT [15:0] RW, reset 0 DRST (R506, 20_host_interface_and_general_pins.md). -/
def GPI_OUT (i : Nat) : Fld := ⟨4194432 + 32 * i, 16, 0⟩
/-- GPI_OUT.MASK [31:16] WO, reset 0 DRST (R506, 20_host_interface_and_general_pins.md). -/
def GPI_OUT_MASK (i : Nat) : Fld := ⟨4194448 + 32 * i, 16, 0⟩
/-- GPI_OE [15:0] RW, reset 0 DRST (R506, 20_host_interface_and_general_pins.md). -/
def GPI_OE (i : Nat) : Fld := ⟨4194560 + 32 * i, 16, 0⟩
/-- GPI_OE.MASK [31:16] WO, reset 0 DRST (R506, 20_host_interface_and_general_pins.md). -/
def GPI_OE_MASK (i : Nat) : Fld := ⟨4194576 + 32 * i, 16, 0⟩
/-- GPI_FUNC [31:0] RW, reset 0 DRST (R513, 20_host_interface_and_general_pins.md). -/
def GPI_FUNC (i : Nat) : Fld := ⟨4194688 + 32 * i, 32, 0⟩
/-- GPI_OWN_LO [31:0] RO, reset 0 DRST (R513, 20_host_interface_and_general_pins.md). -/
def GPI_OWN_LO : Fld := ⟨4194816, 32, 0⟩
/-- GPI_OWN_HI [31:0] RO, reset 0 DRST (R513, 20_host_interface_and_general_pins.md). -/
def GPI_OWN_HI : Fld := ⟨4194848, 32, 0⟩
/-- GPI_PM_MASK_LO [31:0] RW, reset 0 DRST (R513, 20_host_interface_and_general_pins.md). -/
def GPI_PM_MASK_LO (i : Nat) : Fld := ⟨4195328 + 256 * i, 32, 0⟩
/-- GPI_PM_MASK_HI [31:0] RW, reset 0 DRST (R513, 20_host_interface_and_general_pins.md). -/
def GPI_PM_MASK_HI (i : Nat) : Fld := ⟨4195360 + 256 * i, 32, 0⟩
/-- GPI_PM_VAL_LO [31:0] RW, reset 0 DRST (R513, 20_host_interface_and_general_pins.md). -/
def GPI_PM_VAL_LO (i : Nat) : Fld := ⟨4195392 + 256 * i, 32, 0⟩
/-- GPI_PM_VAL_HI [31:0] RW, reset 0 DRST (R513, 20_host_interface_and_general_pins.md). -/
def GPI_PM_VAL_HI (i : Nat) : Fld := ⟨4195424 + 256 * i, 32, 0⟩
/-- GPI_PM_CFG.MODE [1:0] RW, reset 0 DRST (R513, 20_host_interface_and_general_pins.md). -/
def GPI_PM_CFG_MODE (i : Nat) : Fld := ⟨4195456 + 256 * i, 2, 0⟩
/-- GPI_PM_CFG.DEBOUNCE [9:2] RW, reset 0 DRST (R513, 20_host_interface_and_general_pins.md). -/
def GPI_PM_CFG_DEBOUNCE (i : Nat) : Fld := ⟨4195458 + 256 * i, 8, 0⟩
/-- GPI_PM_CFG.HIT [10:10] W1C, reset 0 DRST (R513, 20_host_interface_and_general_pins.md). -/
def GPI_PM_CFG_HIT (i : Nat) : Fld := ⟨4195466 + 256 * i, 1, 0⟩
/-- GPI_PM_CFG.COUNT [31:16] RO, reset 0 DRST (R513, 20_host_interface_and_general_pins.md). -/
def GPI_PM_CFG_COUNT (i : Nat) : Fld := ⟨4195472 + 256 * i, 16, 0⟩
/-- GPI_SP_CFG.MODE [2:0] RW, reset 0 DRST (R513, 20_host_interface_and_general_pins.md). -/
def GPI_SP_CFG_MODE (i : Nat) : Fld := ⟨4197376 + 256 * i, 3, 0⟩
/-- GPI_SP_CFG.CPOL [3:3] RW, reset 0 DRST (R513, 20_host_interface_and_general_pins.md). -/
def GPI_SP_CFG_CPOL (i : Nat) : Fld := ⟨4197379 + 256 * i, 1, 0⟩
/-- GPI_SP_CFG.CPHA [4:4] RW, reset 0 DRST (R513, 20_host_interface_and_general_pins.md). -/
def GPI_SP_CFG_CPHA (i : Nat) : Fld := ⟨4197380 + 256 * i, 1, 0⟩
/-- GPI_SP_CFG.DIV [15:8] RW, reset 0 DRST (R513, 20_host_interface_and_general_pins.md). -/
def GPI_SP_CFG_DIV (i : Nat) : Fld := ⟨4197384 + 256 * i, 8, 0⟩
/-- GPI_SP_CFG.ADDR [22:16] RW, reset 0 DRST (R513, 20_host_interface_and_general_pins.md). -/
def GPI_SP_CFG_ADDR (i : Nat) : Fld := ⟨4197392 + 256 * i, 7, 0⟩
/-- GPI_SP_CFG.RX_TH [27:24] RW, reset 1 DRST (R513, 20_host_interface_and_general_pins.md). -/
def GPI_SP_CFG_RX_TH (i : Nat) : Fld := ⟨4197400 + 256 * i, 4, 1⟩
/-- GPI_SP_CFG.TX_TH [31:28] RW, reset 0 DRST (R513, 20_host_interface_and_general_pins.md). -/
def GPI_SP_CFG_TX_TH (i : Nat) : Fld := ⟨4197404 + 256 * i, 4, 0⟩
/-- GPI_SP_STATUS.RX_LVL [6:0] RO, reset 0 DRST (R513, 20_host_interface_and_general_pins.md). -/
def GPI_SP_STATUS_RX_LVL (i : Nat) : Fld := ⟨4197408 + 256 * i, 7, 0⟩
/-- GPI_SP_STATUS.TX_LVL [14:8] RO, reset 0 DRST (R513, 20_host_interface_and_general_pins.md). -/
def GPI_SP_STATUS_TX_LVL (i : Nat) : Fld := ⟨4197416 + 256 * i, 7, 0⟩
/-- GPI_SP_STATUS.BUSY [15:15] RO, reset 0 DRST (R513, 20_host_interface_and_general_pins.md). -/
def GPI_SP_STATUS_BUSY (i : Nat) : Fld := ⟨4197423 + 256 * i, 1, 0⟩
/-- GPI_SP_STATUS.OVR [16:16] W1C, reset 0 DRST (R513, 20_host_interface_and_general_pins.md). -/
def GPI_SP_STATUS_OVR (i : Nat) : Fld := ⟨4197424 + 256 * i, 1, 0⟩
/-- GPI_SP_STATUS.NACK [17:17] W1C, reset 0 DRST (R513, 20_host_interface_and_general_pins.md). -/
def GPI_SP_STATUS_NACK (i : Nat) : Fld := ⟨4197425 + 256 * i, 1, 0⟩
/-- GPI_SP_STATUS.OWNED [18:18] RO, reset 0 DRST (R513, 20_host_interface_and_general_pins.md). -/
def GPI_SP_STATUS_OWNED (i : Nat) : Fld := ⟨4197426 + 256 * i, 1, 0⟩
/-- GPI_SP_TXDATA.BYTE [7:0] WO, reset 0 DRST (R513, 20_host_interface_and_general_pins.md). -/
def GPI_SP_TXDATA_BYTE (i : Nat) : Fld := ⟨4197440 + 256 * i, 8, 0⟩
/-- GPI_SP_TXDATA.START [8:8] WO, reset 0 DRST (R513, 20_host_interface_and_general_pins.md). -/
def GPI_SP_TXDATA_START (i : Nat) : Fld := ⟨4197448 + 256 * i, 1, 0⟩
/-- GPI_SP_TXDATA.STOP [9:9] WO, reset 0 DRST (R513, 20_host_interface_and_general_pins.md). -/
def GPI_SP_TXDATA_STOP (i : Nat) : Fld := ⟨4197449 + 256 * i, 1, 0⟩
/-- GPI_SP_TXDATA.READ [10:10] WO, reset 0 DRST (R513, 20_host_interface_and_general_pins.md). -/
def GPI_SP_TXDATA_READ (i : Nat) : Fld := ⟨4197450 + 256 * i, 1, 0⟩
/-- GPI_SP_RXDATA.BYTE [7:0] RO, reset 0 DRST (R513, 20_host_interface_and_general_pins.md). -/
def GPI_SP_RXDATA_BYTE (i : Nat) : Fld := ⟨4197472 + 256 * i, 8, 0⟩
/-- GPI_SP_RXDATA.EMPTY [8:8] RO, reset 1 DRST (R513, 20_host_interface_and_general_pins.md). -/
def GPI_SP_RXDATA_EMPTY (i : Nat) : Fld := ⟨4197480 + 256 * i, 1, 1⟩
/-- HST_STATUS.LINK_UP [0:0] RO, reset 0 DRST (R512, 20_host_interface_and_general_pins.md). -/
def HST_STATUS_LINK_UP : Fld := ⟨4718592, 1, 0⟩
/-- HST_STATUS.SPEED [3:1] RO, reset 0 DRST (R512, 20_host_interface_and_general_pins.md). -/
def HST_STATUS_SPEED : Fld := ⟨4718593, 3, 0⟩
/-- HST_STATUS.WIDTH [8:4] RO, reset 0 DRST (R512, 20_host_interface_and_general_pins.md). -/
def HST_STATUS_WIDTH : Fld := ⟨4718596, 5, 0⟩
/-- HST_STATUS.VF_EN [10:9] RO, reset 0 DRST (R512, 20_host_interface_and_general_pins.md). -/
def HST_STATUS_VF_EN : Fld := ⟨4718601, 2, 0⟩
/-- HST_STATUS.VF_REFUSED [11:11] W1C, reset 0 DRST (R512, 20_host_interface_and_general_pins.md). -/
def HST_STATUS_VF_REFUSED : Fld := ⟨4718603, 1, 0⟩
/-- HST_VF_BLK [31:0] RW, reset 0 DRST (R512, 20_host_interface_and_general_pins.md). -/
def HST_VF_BLK (i : Nat) : Fld := ⟨4718720 + 32 * i, 32, 0⟩
/-- HST_VF_MEM_BASE_LO [31:16] RW, reset 0 DRST (R512, 20_host_interface_and_general_pins.md). -/
def HST_VF_MEM_BASE_LO (i : Nat) : Fld := ⟨4718864 + 128 * i, 16, 0⟩
/-- HST_VF_MEM_BASE_HI [15:0] RW, reset 0 DRST (R512, 20_host_interface_and_general_pins.md). -/
def HST_VF_MEM_BASE_HI (i : Nat) : Fld := ⟨4718880 + 128 * i, 16, 0⟩
/-- HST_VF_MEM_SIZE [19:0] RW, reset 0 DRST (R512, 20_host_interface_and_general_pins.md). -/
def HST_VF_MEM_SIZE (i : Nat) : Fld := ⟨4718912 + 128 * i, 20, 0⟩
/-- HST_VF_SITES_LO [31:0] RW, reset 0 DRST (R512, 20_host_interface_and_general_pins.md). -/
def HST_VF_SITES_LO (i : Nat) : Fld := ⟨4719104 + 64 * i, 32, 0⟩
/-- HST_VF_SITES_HI [31:0] RW, reset 0 DRST (R512, 20_host_interface_and_general_pins.md). -/
def HST_VF_SITES_HI (i : Nat) : Fld := ⟨4719136 + 64 * i, 32, 0⟩
/-- HST_IRQ_MAP.VEC [5:0] RW, reset 0 DRST (R512, 20_host_interface_and_general_pins.md). -/
def HST_IRQ_MAP_VEC (i : Nat) : Fld := ⟨4719616 + 32 * i, 6, 0⟩
/-- HST_IRQ_MAP.EN [6:6] RW, reset 0 DRST (R512, 20_host_interface_and_general_pins.md). -/
def HST_IRQ_MAP_EN (i : Nat) : Fld := ⟨4719622 + 32 * i, 1, 0⟩
/-- HST_IRQ_PEND [31:0] W1C, reset 0 DRST (R512, 20_host_interface_and_general_pins.md). -/
def HST_IRQ_PEND : Fld := ⟨4720640, 32, 0⟩
/-- HST_DMA_RING_LO [31:5] RW, reset 0 DRST (R512, 20_host_interface_and_general_pins.md). -/
def HST_DMA_RING_LO (i : Nat) : Fld := ⟨4751365 + 512 * i, 27, 0⟩
/-- HST_DMA_RING_HI [31:0] RW, reset 0 DRST (R512, 20_host_interface_and_general_pins.md). -/
def HST_DMA_RING_HI (i : Nat) : Fld := ⟨4751392 + 512 * i, 32, 0⟩
/-- HST_DMA_SIZE [4:0] RW, reset 4 DRST (R512, 20_host_interface_and_general_pins.md). -/
def HST_DMA_SIZE (i : Nat) : Fld := ⟨4751424 + 512 * i, 5, 4⟩
/-- HST_DMA_TAIL [15:0] RW, reset 0 DRST (R512, 20_host_interface_and_general_pins.md). -/
def HST_DMA_TAIL (i : Nat) : Fld := ⟨4751456 + 512 * i, 16, 0⟩
/-- HST_DMA_HEAD [15:0] RO, reset 0 DRST (R512, 20_host_interface_and_general_pins.md). -/
def HST_DMA_HEAD (i : Nat) : Fld := ⟨4751488 + 512 * i, 16, 0⟩
/-- HST_DMA_CTRL.EN [0:0] RW, reset 0 DRST (R512, 20_host_interface_and_general_pins.md). -/
def HST_DMA_CTRL_EN (i : Nat) : Fld := ⟨4751520 + 512 * i, 1, 0⟩
/-- HST_DMA_CTRL.OWNER [2:1] RW, reset 0 DRST (R512, 20_host_interface_and_general_pins.md). -/
def HST_DMA_CTRL_OWNER (i : Nat) : Fld := ⟨4751521 + 512 * i, 2, 0⟩
/-- HST_DMA_CTRL.ABORT [3:3] WO, reset 0 DRST (R512, 20_host_interface_and_general_pins.md). -/
def HST_DMA_CTRL_ABORT (i : Nat) : Fld := ⟨4751523 + 512 * i, 1, 0⟩
/-- HST_DMA_STATUS.IDLE [0:0] RO, reset 1 DRST (R512, 20_host_interface_and_general_pins.md). -/
def HST_DMA_STATUS_IDLE (i : Nat) : Fld := ⟨4751552 + 512 * i, 1, 1⟩
/-- HST_DMA_STATUS.HALTED [1:1] W1C, reset 0 DRST (R512, 20_host_interface_and_general_pins.md). -/
def HST_DMA_STATUS_HALTED (i : Nat) : Fld := ⟨4751553 + 512 * i, 1, 0⟩
/-- HST_DMA_STATUS.ERR [4:2] RO, reset 0 DRST (R512, 20_host_interface_and_general_pins.md). -/
def HST_DMA_STATUS_ERR (i : Nat) : Fld := ⟨4751554 + 512 * i, 3, 0⟩
/-- DBG_STATUS.HUB_HALTED [0:0] RO, reset 0 POR (R529, 21_debug_and_run_control.md). -/
def DBG_STATUS_HUB_HALTED : Fld := ⟨5242880, 1, 0⟩
/-- DBG_STATUS.ACC_ERR [1:1] W1C, reset 0 POR (R529, 21_debug_and_run_control.md). -/
def DBG_STATUS_ACC_ERR : Fld := ⟨5242881, 1, 0⟩
/-- DBG_STATUS.STEP_WAIT [2:2] W1C, reset 0 POR (R529, 21_debug_and_run_control.md). -/
def DBG_STATUS_STEP_WAIT : Fld := ⟨5242882, 1, 0⟩
/-- DBG_STATUS.PERMIT [3:3] RO, reset 0 POR (R529, 21_debug_and_run_control.md). -/
def DBG_STATUS_PERMIT : Fld := ⟨5242883, 1, 0⟩
/-- DBG_STATUS.HCMP_HIT [5:4] W1C, reset 0 POR (R529, 21_debug_and_run_control.md). -/
def DBG_STATUS_HCMP_HIT : Fld := ⟨5242884, 2, 0⟩
/-- DBG_CTRL.DBG_EN [0:0] RWL, reset 0 POR (R529, 21_debug_and_run_control.md). -/
def DBG_CTRL_DBG_EN : Fld := ⟨5242912, 1, 0⟩
/-- DBG_CTRL.SITE_HALT [1:1] RWL, reset 0 POR (R529, 21_debug_and_run_control.md). -/
def DBG_CTRL_SITE_HALT : Fld := ⟨5242913, 1, 0⟩
/-- DBG_CTRL.DBG_LOCK [31:31] LCK, reset 0 DRST (R529, 21_debug_and_run_control.md). -/
def DBG_CTRL_DBG_LOCK : Fld := ⟨5242943, 1, 0⟩
/-- DBG_CMD.OP [2:0] WO, reset 0 POR (R529, 21_debug_and_run_control.md). -/
def DBG_CMD_OP : Fld := ⟨5242944, 3, 0⟩
/-- DBG_CMD.TARGET [9:3] WO, reset 0 POR (R529, 21_debug_and_run_control.md). -/
def DBG_CMD_TARGET : Fld := ⟨5242947, 7, 0⟩
/-- DBG_CMD_RESULT.RESULT [2:0] RO, reset 0 POR (R529, 21_debug_and_run_control.md). -/
def DBG_CMD_RESULT_RESULT : Fld := ⟨5242976, 3, 0⟩
/-- DBG_CMD_RESULT.TARGET [9:3] RO, reset 0 POR (R529, 21_debug_and_run_control.md). -/
def DBG_CMD_RESULT_TARGET : Fld := ⟨5242979, 7, 0⟩
/-- DBG_HALTED_LO [31:0] RO, reset 0 POR (R529, 21_debug_and_run_control.md). -/
def DBG_HALTED_LO : Fld := ⟨5243008, 32, 0⟩
/-- DBG_HALTED_HI [31:0] RO, reset 0 POR (R529, 21_debug_and_run_control.md). -/
def DBG_HALTED_HI : Fld := ⟨5243040, 32, 0⟩
/-- DBG_ATTACH_LO [31:0] RW, reset 0 POR (R529, 21_debug_and_run_control.md). -/
def DBG_ATTACH_LO : Fld := ⟨5243136, 32, 0⟩
/-- DBG_ATTACH_HI [31:0] RW, reset 0 POR (R529, 21_debug_and_run_control.md). -/
def DBG_ATTACH_HI : Fld := ⟨5243168, 32, 0⟩
/-- DBG_ACC_SEL.TARGET [6:0] WO, reset 0 POR (R529, 21_debug_and_run_control.md). -/
def DBG_ACC_SEL_TARGET : Fld := ⟨5243264, 7, 0⟩
/-- DBG_ACC_SEL.WRITE [7:7] WO, reset 0 POR (R529, 21_debug_and_run_control.md). -/
def DBG_ACC_SEL_WRITE : Fld := ⟨5243271, 1, 0⟩
/-- DBG_ACC_SEL.REG [15:8] WO, reset 0 POR (R529, 21_debug_and_run_control.md). -/
def DBG_ACC_SEL_REG : Fld := ⟨5243272, 8, 0⟩
/-- DBG_ACC_DATA_LO [31:0] RW, reset 0 POR (R529, 21_debug_and_run_control.md). -/
def DBG_ACC_DATA_LO : Fld := ⟨5243296, 32, 0⟩
/-- DBG_ACC_DATA_HI [31:0] RW, reset 0 POR (R529, 21_debug_and_run_control.md). -/
def DBG_ACC_DATA_HI : Fld := ⟨5243328, 32, 0⟩
/-- DBG_HCMP_CTRL.MODE [1:0] RW, reset 0 POR (R529, 21_debug_and_run_control.md). -/
def DBG_HCMP_CTRL_MODE (i : Nat) : Fld := ⟨5243904 + 256 * i, 2, 0⟩
/-- DBG_HCMP_CTRL.KIND [3:2] RW, reset 0 POR (R529, 21_debug_and_run_control.md). -/
def DBG_HCMP_CTRL_KIND (i : Nat) : Fld := ⟨5243906 + 256 * i, 2, 0⟩
/-- DBG_HCMP_CTRL.ACTION [5:4] RW, reset 0 POR (R529, 21_debug_and_run_control.md). -/
def DBG_HCMP_CTRL_ACTION (i : Nat) : Fld := ⟨5243908 + 256 * i, 2, 0⟩
/-- DBG_HCMP_VAL_LO [31:0] RW, reset 0 POR (R529, 21_debug_and_run_control.md). -/
def DBG_HCMP_VAL_LO (i : Nat) : Fld := ⟨5243936 + 256 * i, 32, 0⟩
/-- DBG_HCMP_VAL_HI [31:0] RW, reset 0 POR (R529, 21_debug_and_run_control.md). -/
def DBG_HCMP_VAL_HI (i : Nat) : Fld := ⟨5243968 + 256 * i, 32, 0⟩
/-- DBG_HCMP_LIM_LO [31:0] RW, reset 0 POR (R529, 21_debug_and_run_control.md). -/
def DBG_HCMP_LIM_LO (i : Nat) : Fld := ⟨5244000 + 256 * i, 32, 0⟩
/-- DBG_HCMP_LIM_HI [31:0] RW, reset 0 POR (R529, 21_debug_and_run_control.md). -/
def DBG_HCMP_LIM_HI (i : Nat) : Fld := ⟨5244032 + 256 * i, 32, 0⟩
/-- DBG_STIM_EN [31:0] RW, reset 0 POR (R529, 21_debug_and_run_control.md). -/
def DBG_STIM_EN (i : Nat) : Fld := ⟨5244928 + 32 * i, 32, 0⟩
/-- BST_STATUS.ACTIVE [0:0] RO, reset 0 DRST (R548, 22_self_test_injection_and_maintenance.md). -/
def BST_STATUS_ACTIVE : Fld := ⟨5767168, 1, 0⟩
/-- BST_STATUS.ENTRY [4:1] RO, reset 0 DRST (R548, 22_self_test_injection_and_maintenance.md). -/
def BST_STATUS_ENTRY : Fld := ⟨5767169, 4, 0⟩
/-- BST_STATUS.DIE_FAIL [8:5] RO, reset 0 DRST (R548, 22_self_test_injection_and_maintenance.md). -/
def BST_STATUS_DIE_FAIL : Fld := ⟨5767173, 4, 0⟩
/-- BST_STATUS.BD_FAIL [9:9] RO, reset 0 DRST (R548, 22_self_test_injection_and_maintenance.md). -/
def BST_STATUS_BD_FAIL : Fld := ⟨5767177, 1, 0⟩
/-- BST_STATUS.FAIL_SEEN [10:10] W1C, reset 0 DRST (R548, 22_self_test_injection_and_maintenance.md). -/
def BST_STATUS_FAIL_SEEN : Fld := ⟨5767178, 1, 0⟩
/-- BST_CTRL.PERIODIC_EN [0:0] RWL, reset 1 DRST (R548, 22_self_test_injection_and_maintenance.md). -/
def BST_CTRL_PERIODIC_EN : Fld := ⟨5767200, 1, 1⟩
/-- BST_CTRL.BUDGET_DEF [26:16] RWL, reset 200 DRST (R548, 22_self_test_injection_and_maintenance.md). -/
def BST_CTRL_BUDGET_DEF : Fld := ⟨5767216, 11, 200⟩
/-- BST_CTRL.BST_LOCK [31:31] LCK, reset 0 DRST (R548, 22_self_test_injection_and_maintenance.md). -/
def BST_CTRL_BST_LOCK : Fld := ⟨5767231, 1, 0⟩
/-- BST_CMD.ENTRY [3:0] WO, reset 0 DRST (R548, 22_self_test_injection_and_maintenance.md). -/
def BST_CMD_ENTRY : Fld := ⟨5767232, 4, 0⟩
/-- BST_CMD.QUEUE [4:4] WO, reset 0 DRST (R548, 22_self_test_injection_and_maintenance.md). -/
def BST_CMD_QUEUE : Fld := ⟨5767236, 1, 0⟩
/-- BST_CMD.GO [5:5] WO, reset 0 DRST (R548, 22_self_test_injection_and_maintenance.md). -/
def BST_CMD_GO : Fld := ⟨5767237, 1, 0⟩
/-- BST_CMD.CANCEL [6:6] WO, reset 0 DRST (R548, 22_self_test_injection_and_maintenance.md). -/
def BST_CMD_CANCEL : Fld := ⟨5767238, 1, 0⟩
/-- BST_CMD_RESULT.RESULT [2:0] RO, reset 0 DRST (R548, 22_self_test_injection_and_maintenance.md). -/
def BST_CMD_RESULT_RESULT : Fld := ⟨5767264, 3, 0⟩
/-- BST_CMD_RESULT.QFULL [3:3] RO, reset 0 DRST (R548, 22_self_test_injection_and_maintenance.md). -/
def BST_CMD_RESULT_QFULL : Fld := ⟨5767267, 1, 0⟩
/-- BST_CMD_RESULT.HOLDER [11:4] RO, reset 0 DRST (R548, 22_self_test_injection_and_maintenance.md). -/
def BST_CMD_RESULT_HOLDER : Fld := ⟨5767268, 8, 0⟩
/-- BST_SCHED_CFG.TYPE [4:0] RWL, reset 0 DRST (R548, 22_self_test_injection_and_maintenance.md). -/
def BST_SCHED_CFG_TYPE (i : Nat) : Fld := ⟨5769216 + 128 * i, 5, 0⟩
/-- BST_SCHED_CFG.UNIT [7:5] RWL, reset 0 DRST (R548, 22_self_test_injection_and_maintenance.md). -/
def BST_SCHED_CFG_UNIT (i : Nat) : Fld := ⟨5769221 + 128 * i, 3, 0⟩
/-- BST_SCHED_CFG.EN [8:8] RWL, reset 0 DRST (R548, 22_self_test_injection_and_maintenance.md). -/
def BST_SCHED_CFG_EN (i : Nat) : Fld := ⟨5769224 + 128 * i, 1, 0⟩
/-- BST_SCHED_CFG.BUDGET [31:16] RWL, reset 0 DRST (R548, 22_self_test_injection_and_maintenance.md). -/
def BST_SCHED_CFG_BUDGET (i : Nat) : Fld := ⟨5769232 + 128 * i, 16, 0⟩
/-- BST_SCHED_ARG [31:0] RWL, reset 0 DRST (R548, 22_self_test_injection_and_maintenance.md). -/
def BST_SCHED_ARG (i : Nat) : Fld := ⟨5769248 + 128 * i, 32, 0⟩
/-- BST_SCHED_PERIOD [23:0] RWL, reset 0 DRST (R548, 22_self_test_injection_and_maintenance.md). -/
def BST_SCHED_PERIOD (i : Nat) : Fld := ⟨5769280 + 128 * i, 24, 0⟩
/-- BST_SCHED_RES.OUTCOME [3:0] RO, reset 0 DRST (R548, 22_self_test_injection_and_maintenance.md). -/
def BST_SCHED_RES_OUTCOME (i : Nat) : Fld := ⟨5769312 + 128 * i, 4, 0⟩
/-- BST_SCHED_RES.DONE [4:4] RO, reset 0 DRST (R548, 22_self_test_injection_and_maintenance.md). -/
def BST_SCHED_RES_DONE (i : Nat) : Fld := ⟨5769316 + 128 * i, 1, 0⟩
/-- BST_SCHED_RES.CURSOR [23:8] RO, reset 0 DRST (R548, 22_self_test_injection_and_maintenance.md). -/
def BST_SCHED_RES_CURSOR (i : Nat) : Fld := ⟨5769320 + 128 * i, 16, 0⟩
/-- BST_SCHED_RES.REPAIRS [31:24] RO, reset 0 DRST (R548, 22_self_test_injection_and_maintenance.md). -/
def BST_SCHED_RES_REPAIRS (i : Nat) : Fld := ⟨5769336 + 128 * i, 8, 0⟩
/-- BST_FAIL_ADDR_LO [31:0] RO, reset 0 DRST (R548, 22_self_test_injection_and_maintenance.md). -/
def BST_FAIL_ADDR_LO : Fld := ⟨5771264, 32, 0⟩
/-- BST_FAIL_ADDR_HI [15:0] RO, reset 0 DRST (R548, 22_self_test_injection_and_maintenance.md). -/
def BST_FAIL_ADDR_HI : Fld := ⟨5771296, 16, 0⟩
/-- BST_FAIL_INFO.ENTRY [3:0] RO, reset 0 DRST (R548, 22_self_test_injection_and_maintenance.md). -/
def BST_FAIL_INFO_ENTRY : Fld := ⟨5771328, 4, 0⟩
/-- BST_FAIL_INFO.TYPE [8:4] RO, reset 0 DRST (R548, 22_self_test_injection_and_maintenance.md). -/
def BST_FAIL_INFO_TYPE : Fld := ⟨5771332, 5, 0⟩
/-- BST_FAIL_INFO.BIT [24:16] RO, reset 0 DRST (R548, 22_self_test_injection_and_maintenance.md). -/
def BST_FAIL_INFO_BIT : Fld := ⟨5771344, 9, 0⟩
/-- BST_FAIL_INFO.REPAIRED [25:25] RO, reset 0 DRST (R548, 22_self_test_injection_and_maintenance.md). -/
def BST_FAIL_INFO_REPAIRED : Fld := ⟨5771353, 1, 0⟩
/-- BST_FAIL_INFO.VALID [26:26] W1C, reset 0 DRST (R548, 22_self_test_injection_and_maintenance.md). -/
def BST_FAIL_INFO_VALID : Fld := ⟨5771354, 1, 0⟩
/-- BST_LEASE.HOLDER [7:0] RO, reset 0 DRST (R548, 22_self_test_injection_and_maintenance.md). -/
def BST_LEASE_HOLDER (i j : Nat) : Fld := ⟨5775360 + 256 * i + 32 * j, 8, 0⟩
/-- BST_LEASE.QUEUED [11:8] RO, reset 0 DRST (R548, 22_self_test_injection_and_maintenance.md). -/
def BST_LEASE_QUEUED (i j : Nat) : Fld := ⟨5775368 + 256 * i + 32 * j, 4, 0⟩
/-- BST_LEASE.ARG [31:16] RO, reset 0 DRST (R548, 22_self_test_injection_and_maintenance.md). -/
def BST_LEASE_ARG (i j : Nat) : Fld := ⟨5775376 + 256 * i + 32 * j, 16, 0⟩
/-- INJ_CTRL.ENABLE [0:0] RWL, reset 0 DRST (R549, 22_self_test_injection_and_maintenance.md). -/
def INJ_CTRL_ENABLE : Fld := ⟨6291456, 1, 0⟩
/-- INJ_CTRL.LIVE_SAFETY [1:1] RWL, reset 0 DRST (R549, 22_self_test_injection_and_maintenance.md). -/
def INJ_CTRL_LIVE_SAFETY : Fld := ⟨6291457, 1, 0⟩
/-- INJ_CTRL.INJ_LOCK [31:31] LCK, reset 0 DRST (R549, 22_self_test_injection_and_maintenance.md). -/
def INJ_CTRL_INJ_LOCK : Fld := ⟨6291487, 1, 0⟩
/-- INJ_STATUS.PERMIT [0:0] RO, reset 0 DRST (R549, 22_self_test_injection_and_maintenance.md). -/
def INJ_STATUS_PERMIT : Fld := ⟨6291488, 1, 0⟩
/-- INJ_STATUS.REFUSED [1:1] W1C, reset 0 DRST (R549, 22_self_test_injection_and_maintenance.md). -/
def INJ_STATUS_REFUSED : Fld := ⟨6291489, 1, 0⟩
/-- INJ_SEL.ID [7:0] RW, reset 0 DRST (R549, 22_self_test_injection_and_maintenance.md). -/
def INJ_SEL_ID (i : Nat) : Fld := ⟨6293504 + 256 * i, 8, 0⟩
/-- INJ_SEL.UNIT [14:8] RW, reset 0 DRST (R549, 22_self_test_injection_and_maintenance.md). -/
def INJ_SEL_UNIT (i : Nat) : Fld := ⟨6293512 + 256 * i, 7, 0⟩
/-- INJ_ARG_LO.ARG_LO [31:0] RW, reset 0 DRST (R549, 22_self_test_injection_and_maintenance.md). -/
def INJ_ARG_LO_ARG_LO (i : Nat) : Fld := ⟨6293536 + 256 * i, 32, 0⟩
/-- INJ_ARG_HI.ARG_HI [31:0] RW, reset 0 DRST (R549, 22_self_test_injection_and_maintenance.md). -/
def INJ_ARG_HI_ARG_HI (i : Nat) : Fld := ⟨6293568 + 256 * i, 32, 0⟩
/-- INJ_CNT.COUNT [15:0] RW, reset 1 DRST (R549, 22_self_test_injection_and_maintenance.md). -/
def INJ_CNT_COUNT (i : Nat) : Fld := ⟨6293600 + 256 * i, 16, 1⟩
/-- INJ_SLOT_CTRL.ARM [0:0] W1S, reset 0 DRST (R549, 22_self_test_injection_and_maintenance.md). -/
def INJ_SLOT_CTRL_ARM (i : Nat) : Fld := ⟨6293632 + 256 * i, 1, 0⟩
/-- INJ_SLOT_CTRL.DISARM [1:1] WO, reset 0 DRST (R549, 22_self_test_injection_and_maintenance.md). -/
def INJ_SLOT_CTRL_DISARM (i : Nat) : Fld := ⟨6293633 + 256 * i, 1, 0⟩
/-- INJ_SLOT_CTRL.STATE [3:2] RO, reset 0 DRST (R549, 22_self_test_injection_and_maintenance.md). -/
def INJ_SLOT_CTRL_STATE (i : Nat) : Fld := ⟨6293634 + 256 * i, 2, 0⟩
/-- INJ_SLOT_CTRL.FIRED [31:16] RO, reset 0 DRST (R549, 22_self_test_injection_and_maintenance.md). -/
def INJ_SLOT_CTRL_FIRED (i : Nat) : Fld := ⟨6293648 + 256 * i, 16, 0⟩
/-- EVL_STATUS.ALARM [0:0] RO, reset 0 DRST (R565, 23_event_log_and_alarms.md). -/
def EVL_STATUS_ALARM : Fld := ⟨6815744, 1, 0⟩
/-- EVL_STATUS.HOLDING [1:1] RO, reset 0 DRST (R565, 23_event_log_and_alarms.md). -/
def EVL_STATUS_HOLDING : Fld := ⟨6815745, 1, 0⟩
/-- EVL_STATUS.SPILL [2:2] RO, reset 0 DRST (R565, 23_event_log_and_alarms.md). -/
def EVL_STATUS_SPILL : Fld := ⟨6815746, 1, 0⟩
/-- EVL_STATUS.WR_REFUSED [3:3] W1C, reset 0 DRST (R565, 23_event_log_and_alarms.md). -/
def EVL_STATUS_WR_REFUSED : Fld := ⟨6815747, 1, 0⟩
/-- EVL_STATUS.NOTICE [4:4] W1C, reset 0 DRST (R565, 23_event_log_and_alarms.md). -/
def EVL_STATUS_NOTICE : Fld := ⟨6815748, 1, 0⟩
/-- EVL_CTRL.C_EN [0:0] RW, reset 1 DRST (R565, 23_event_log_and_alarms.md). -/
def EVL_CTRL_C_EN : Fld := ⟨6815776, 1, 1⟩
/-- EVL_CTRL.NOTICE_EN [1:1] RW, reset 1 DRST (R565, 23_event_log_and_alarms.md). -/
def EVL_CTRL_NOTICE_EN : Fld := ⟨6815777, 1, 1⟩
/-- EVL_A_WR [31:0] RO, reset 0 DRST (R565, 23_event_log_and_alarms.md). -/
def EVL_A_WR : Fld := ⟨6815808, 32, 0⟩
/-- EVL_A_RD [31:0] RW, reset 0 DRST (R565, 23_event_log_and_alarms.md). -/
def EVL_A_RD : Fld := ⟨6815840, 32, 0⟩
/-- EVL_B_WR [31:0] RO, reset 0 DRST (R565, 23_event_log_and_alarms.md). -/
def EVL_B_WR : Fld := ⟨6815872, 32, 0⟩
/-- EVL_B_RD [31:0] RW, reset 0 DRST (R565, 23_event_log_and_alarms.md). -/
def EVL_B_RD : Fld := ⟨6815904, 32, 0⟩
/-- EVL_C_WR [31:0] RO, reset 0 DRST (R565, 23_event_log_and_alarms.md). -/
def EVL_C_WR : Fld := ⟨6815936, 32, 0⟩
/-- EVL_C_RD [31:0] RW, reset 0 DRST (R565, 23_event_log_and_alarms.md). -/
def EVL_C_RD : Fld := ⟨6815968, 32, 0⟩
/-- EVL_SEQ [31:0] RO, reset 0 DRST (R565, 23_event_log_and_alarms.md). -/
def EVL_SEQ : Fld := ⟨6816000, 32, 0⟩
/-- EVL_B_WM.MARK [16:0] RW, reset 0 DRST (R565, 23_event_log_and_alarms.md). -/
def EVL_B_WM_MARK : Fld := ⟨6816032, 17, 0⟩
/-- EVL_B_PEAK.WM_PEAK [16:0] RO, reset 0 DRST (R565, 23_event_log_and_alarms.md). -/
def EVL_B_PEAK_WM_PEAK : Fld := ⟨6816064, 17, 0⟩
/-- EVL_B_PEAK.WM_HIT [31:31] W1C, reset 0 DRST (R565, 23_event_log_and_alarms.md). -/
def EVL_B_PEAK_WM_HIT : Fld := ⟨6816095, 1, 0⟩
/-- EVL_C_WM.MARK [16:0] RW, reset 0 DRST (R565, 23_event_log_and_alarms.md). -/
def EVL_C_WM_MARK : Fld := ⟨6816096, 17, 0⟩
/-- EVL_C_PEAK.WM_PEAK [16:0] RO, reset 0 DRST (R565, 23_event_log_and_alarms.md). -/
def EVL_C_PEAK_WM_PEAK : Fld := ⟨6816128, 17, 0⟩
/-- EVL_C_PEAK.WM_HIT [31:31] W1C, reset 0 DRST (R565, 23_event_log_and_alarms.md). -/
def EVL_C_PEAK_WM_HIT : Fld := ⟨6816159, 1, 0⟩
/-- EVL_B_LOST_LO.COUNT_LO [31:0] RW, reset 0 DRST (R565, 23_event_log_and_alarms.md). -/
def EVL_B_LOST_LO_COUNT_LO : Fld := ⟨6816192, 32, 0⟩
/-- EVL_B_LOST_HI.COUNT_HI [15:0] RS, reset 0 DRST (R565, 23_event_log_and_alarms.md). -/
def EVL_B_LOST_HI_COUNT_HI : Fld := ⟨6816224, 16, 0⟩
/-- EVL_B_LOST_HI.OVF [16:16] W1C, reset 0 DRST (R565, 23_event_log_and_alarms.md). -/
def EVL_B_LOST_HI_OVF : Fld := ⟨6816240, 1, 0⟩
/-- EVL_C_LOST_LO.COUNT_LO [31:0] RW, reset 0 DRST (R565, 23_event_log_and_alarms.md). -/
def EVL_C_LOST_LO_COUNT_LO : Fld := ⟨6816256, 32, 0⟩
/-- EVL_C_LOST_HI.COUNT_HI [15:0] RS, reset 0 DRST (R565, 23_event_log_and_alarms.md). -/
def EVL_C_LOST_HI_COUNT_HI : Fld := ⟨6816288, 16, 0⟩
/-- EVL_C_LOST_HI.OVF [16:16] W1C, reset 0 DRST (R565, 23_event_log_and_alarms.md). -/
def EVL_C_LOST_HI_OVF : Fld := ⟨6816304, 1, 0⟩
/-- EVL_HOLD [8:0] RO, reset 0 DRST (R565, 23_event_log_and_alarms.md). -/
def EVL_HOLD : Fld := ⟨6816320, 9, 0⟩
/-- RGP_STATUS.COMMITTED [0:0] RO, reset 0 DRST (R583, 24_register_interface.md). -/
def RGP_STATUS_COMMITTED : Fld := ⟨7340032, 1, 0⟩
/-- RGP_STATUS.OPEN [1:1] RO, reset 0 DRST (R583, 24_register_interface.md). -/
def RGP_STATUS_OPEN : Fld := ⟨7340033, 1, 0⟩
/-- RGP_STATUS.MISMATCH [2:2] W1C, reset 0 DRST (R583, 24_register_interface.md). -/
def RGP_STATUS_MISMATCH : Fld := ⟨7340034, 1, 0⟩
/-- RGP_STATUS.MATCH_FAIL_NOW [3:3] RO, reset 0 DRST (R583, 24_register_interface.md). -/
def RGP_STATUS_MATCH_FAIL_NOW : Fld := ⟨7340035, 1, 0⟩
/-- RGP_STATUS.STALE_REF [4:4] W1C, reset 0 DRST (R583, 24_register_interface.md). -/
def RGP_STATUS_STALE_REF : Fld := ⟨7340036, 1, 0⟩
/-- RGP_STATUS.COMMIT_BUSY [5:5] RO, reset 0 DRST (R583, 24_register_interface.md). -/
def RGP_STATUS_COMMIT_BUSY : Fld := ⟨7340037, 1, 0⟩
/-- RGP_CTRL.OPEN [0:0] W1S, reset 0 DRST (R583, 24_register_interface.md). -/
def RGP_CTRL_OPEN : Fld := ⟨7340064, 1, 0⟩
/-- RGP_CTRL.SAFE_EN [1:1] RWL, reset 0 DRST (R583, 24_register_interface.md). -/
def RGP_CTRL_SAFE_EN : Fld := ⟨7340065, 1, 0⟩
/-- RGP_CTRL.RGP_LOCK [31:31] LCK, reset 0 DRST (R583, 24_register_interface.md). -/
def RGP_CTRL_RGP_LOCK : Fld := ⟨7340095, 1, 0⟩
/-- RGP_COMMIT.GO [0:0] WO, reset 0 DRST (R583, 24_register_interface.md). -/
def RGP_COMMIT_GO : Fld := ⟨7340096, 1, 0⟩
/-- RGP_COMMIT.KEY [31:24] WO, reset 0 DRST (R583, 24_register_interface.md). -/
def RGP_COMMIT_KEY : Fld := ⟨7340120, 8, 0⟩
/-- RGP_REF.REF [31:0] RO, reset 0 DRST (R583, 24_register_interface.md). -/
def RGP_REF_REF : Fld := ⟨7340128, 32, 0⟩
/-- RGP_CUR.CUR [31:0] RO, reset 0 DRST (R583, 24_register_interface.md). -/
def RGP_CUR_CUR : Fld := ⟨7340160, 32, 0⟩
/-- RGP_PASS.PASSES [31:0] RO, reset 0 DRST (R583, 24_register_interface.md). -/
def RGP_PASS_PASSES : Fld := ⟨7340192, 32, 0⟩
/-- FWL_STATUS.ISOLATED [0:0] RO, reset 1 DRST (R382, 13_die_links_and_package_network.md). -/
def FWL_STATUS_ISOLATED : Fld := ⟨7864320, 1, 1⟩
/-- FWL_STATUS.VIOL [1:1] W1C, reset 0 DRST (R382, 13_die_links_and_package_network.md). -/
def FWL_STATUS_VIOL : Fld := ⟨7864321, 1, 0⟩
/-- FWL_STATUS.LINK_FAULT [2:2] W1C, reset 0 DRST (R382, 13_die_links_and_package_network.md). -/
def FWL_STATUS_LINK_FAULT : Fld := ⟨7864322, 1, 0⟩
/-- FWL_CTRL.ISOLATE [0:0] RW, reset 1 DRST (R382, 13_die_links_and_package_network.md). -/
def FWL_CTRL_ISOLATE : Fld := ⟨7864352, 1, 1⟩
/-- FWL_CTRL.AUTO_ISO [1:1] RWL, reset 1 DRST (R382, 13_die_links_and_package_network.md). -/
def FWL_CTRL_AUTO_ISO : Fld := ⟨7864353, 1, 1⟩
/-- FWL_CTRL.ISO_COUNT [15:8] RWL, reset 0 DRST (R382, 13_die_links_and_package_network.md). -/
def FWL_CTRL_ISO_COUNT : Fld := ⟨7864360, 8, 0⟩
/-- FWL_CTRL.RATE_CAP [24:16] RWL, reset 0 DRST (R382, 13_die_links_and_package_network.md). -/
def FWL_CTRL_RATE_CAP : Fld := ⟨7864368, 9, 0⟩
/-- FWL_CTRL.WIN_LOCK [31:31] LCK, reset 0 DRST (R382, 13_die_links_and_package_network.md). -/
def FWL_CTRL_WIN_LOCK : Fld := ⟨7864383, 1, 0⟩
/-- FWL_VIOL_ADDR_LO [31:0] RO, reset 0 DRST (R382, 13_die_links_and_package_network.md). -/
def FWL_VIOL_ADDR_LO : Fld := ⟨7864384, 32, 0⟩
/-- FWL_VIOL_ADDR_HI [15:0] RO, reset 0 DRST (R382, 13_die_links_and_package_network.md). -/
def FWL_VIOL_ADDR_HI : Fld := ⟨7864416, 16, 0⟩
/-- FWL_VIOL_INFO.WRITE [0:0] RO, reset 0 DRST (R382, 13_die_links_and_package_network.md). -/
def FWL_VIOL_INFO_WRITE : Fld := ⟨7864448, 1, 0⟩
/-- FWL_VIOL_INFO.DENY [1:1] RO, reset 0 DRST (R382, 13_die_links_and_package_network.md). -/
def FWL_VIOL_INFO_DENY : Fld := ⟨7864449, 1, 0⟩
/-- FWL_VIOL_INFO.WIN [5:2] RO, reset 0 DRST (R382, 13_die_links_and_package_network.md). -/
def FWL_VIOL_INFO_WIN : Fld := ⟨7864450, 4, 0⟩
/-- FWL_VIOL_INFO.NO_WIN [6:6] RO, reset 0 DRST (R382, 13_die_links_and_package_network.md). -/
def FWL_VIOL_INFO_NO_WIN : Fld := ⟨7864454, 1, 0⟩
/-- FWL_VIOL_CNT [31:0] RO, reset 0 DRST (R382, 13_die_links_and_package_network.md). -/
def FWL_VIOL_CNT : Fld := ⟨7864480, 32, 0⟩
/-- FWL_WIN_BASE_LO [31:12] RWL, reset 0 DRST (R382, 13_die_links_and_package_network.md). -/
def FWL_WIN_BASE_LO (i : Nat) : Fld := ⟨7866380 + 128 * i, 20, 0⟩
/-- FWL_WIN_BASE_HI [15:0] RWL, reset 0 DRST (R382, 13_die_links_and_package_network.md). -/
def FWL_WIN_BASE_HI (i : Nat) : Fld := ⟨7866400 + 128 * i, 16, 0⟩
/-- FWL_WIN_SIZE [23:0] RWL, reset 0 DRST (R382, 13_die_links_and_package_network.md). -/
def FWL_WIN_SIZE (i : Nat) : Fld := ⟨7866432 + 128 * i, 24, 0⟩
/-- FWL_WIN_ATTR.EN [0:0] RWL, reset 0 DRST (R382, 13_die_links_and_package_network.md). -/
def FWL_WIN_ATTR_EN (i : Nat) : Fld := ⟨7866464 + 128 * i, 1, 0⟩
/-- FWL_WIN_ATTR.R [1:1] RWL, reset 0 DRST (R382, 13_die_links_and_package_network.md). -/
def FWL_WIN_ATTR_R (i : Nat) : Fld := ⟨7866465 + 128 * i, 1, 0⟩
/-- FWL_WIN_ATTR.W [2:2] RWL, reset 0 DRST (R382, 13_die_links_and_package_network.md). -/
def FWL_WIN_ATTR_W (i : Nat) : Fld := ⟨7866466 + 128 * i, 1, 0⟩
/-- BAS_MEM_STATUS.HBM0_UP [0:0] RO, reset 0 DIE (R355, 12_memory_placement_and_translation.md). -/
def BAS_MEM_STATUS_HBM0_UP : Fld := ⟨8388608, 1, 0⟩
/-- BAS_MEM_STATUS.HBM1_UP [1:1] RO, reset 0 DIE (R355, 12_memory_placement_and_translation.md). -/
def BAS_MEM_STATUS_HBM1_UP : Fld := ⟨8388609, 1, 0⟩
/-- BAS_MEM_STATUS.SRAM_UP [2:2] RO, reset 0 DIE (R355, 12_memory_placement_and_translation.md). -/
def BAS_MEM_STATUS_SRAM_UP : Fld := ⟨8388610, 1, 0⟩
/-- BAS_MEM_STATUS.CE_ANY [3:3] W1C, reset 0 DIE (R355, 12_memory_placement_and_translation.md). -/
def BAS_MEM_STATUS_CE_ANY : Fld := ⟨8388611, 1, 0⟩
/-- BAS_MEM_STATUS.UE_ANY [4:4] W1C, reset 0 DIE (R355, 12_memory_placement_and_translation.md). -/
def BAS_MEM_STATUS_UE_ANY : Fld := ⟨8388612, 1, 0⟩
/-- BAS_MEM_STATUS.PART_REFUSED [5:5] W1C, reset 0 DIE (R355, 12_memory_placement_and_translation.md). -/
def BAS_MEM_STATUS_PART_REFUSED : Fld := ⟨8388613, 1, 0⟩
/-- BAS_MEM_CTRL.PATROL_EN [0:0] RWL, reset 1 DIE (R355, 12_memory_placement_and_translation.md). -/
def BAS_MEM_CTRL_PATROL_EN : Fld := ⟨8388640, 1, 1⟩
/-- BAS_MEM_CTRL.PATROL_H [15:8] RWL, reset 24 DIE (R355, 12_memory_placement_and_translation.md). -/
def BAS_MEM_CTRL_PATROL_H : Fld := ⟨8388648, 8, 24⟩
/-- BAS_MEM_CTRL.MEM_LOCK [31:31] LCK, reset 0 DIE (R355, 12_memory_placement_and_translation.md). -/
def BAS_MEM_CTRL_MEM_LOCK : Fld := ⟨8388671, 1, 0⟩
/-- BAS_CE_LO.COUNT_LO [31:0] RW, reset 0 DIE (R355, 12_memory_placement_and_translation.md). -/
def BAS_CE_LO_COUNT_LO : Fld := ⟨8388736, 32, 0⟩
/-- BAS_CE_HI.COUNT_HI [15:0] RS, reset 0 DIE (R355, 12_memory_placement_and_translation.md). -/
def BAS_CE_HI_COUNT_HI : Fld := ⟨8388768, 16, 0⟩
/-- BAS_CE_HI.OVF [16:16] W1C, reset 0 DIE (R355, 12_memory_placement_and_translation.md). -/
def BAS_CE_HI_OVF : Fld := ⟨8388784, 1, 0⟩
/-- BAS_UE_LO.COUNT_LO [31:0] RW, reset 0 DIE (R355, 12_memory_placement_and_translation.md). -/
def BAS_UE_LO_COUNT_LO : Fld := ⟨8388800, 32, 0⟩
/-- BAS_UE_HI.COUNT_HI [15:0] RS, reset 0 DIE (R355, 12_memory_placement_and_translation.md). -/
def BAS_UE_HI_COUNT_HI : Fld := ⟨8388832, 16, 0⟩
/-- BAS_UE_HI.OVF [16:16] W1C, reset 0 DIE (R355, 12_memory_placement_and_translation.md). -/
def BAS_UE_HI_OVF : Fld := ⟨8388848, 1, 0⟩
/-- BAS_UE_ADDR_LO [31:0] RO, reset 0 DIE (R355, 12_memory_placement_and_translation.md). -/
def BAS_UE_ADDR_LO : Fld := ⟨8388864, 32, 0⟩
/-- BAS_UE_ADDR_HI [15:0] RO, reset 0 DIE (R355, 12_memory_placement_and_translation.md). -/
def BAS_UE_ADDR_HI : Fld := ⟨8388896, 16, 0⟩
/-- BAS_BW.GEN [15:0] RO, reset 0 DIE (R355, 12_memory_placement_and_translation.md). -/
def BAS_BW_GEN (i : Nat) : Fld := ⟨8388992 + 32 * i, 16, 0⟩
/-- BAS_BW.VEC [31:16] RO, reset 0 DIE (R355, 12_memory_placement_and_translation.md). -/
def BAS_BW_VEC (i : Nat) : Fld := ⟨8389008 + 32 * i, 16, 0⟩
/-- PTU_STATUS.INV_BUSY [0:0] RO, reset 0 DIE (R355, 12_memory_placement_and_translation.md). -/
def PTU_STATUS_INV_BUSY : Fld := ⟨8421376, 1, 0⟩
/-- PTU_STATUS.INV_REFUSED [1:1] W1C, reset 0 DIE (R355, 12_memory_placement_and_translation.md). -/
def PTU_STATUS_INV_REFUSED : Fld := ⟨8421377, 1, 0⟩
/-- PTU_STATUS.WR_REFUSED [2:2] W1C, reset 0 DIE (R355, 12_memory_placement_and_translation.md). -/
def PTU_STATUS_WR_REFUSED : Fld := ⟨8421378, 1, 0⟩
/-- PTU_STATUS.FLT_ANY [3:3] W1C, reset 0 DIE (R355, 12_memory_placement_and_translation.md). -/
def PTU_STATUS_FLT_ANY : Fld := ⟨8421379, 1, 0⟩
/-- PTU_INV.GO [0:0] WO, reset 0 DIE (R355, 12_memory_placement_and_translation.md). -/
def PTU_INV_GO : Fld := ⟨8421408, 1, 0⟩
/-- PTU_INV.SCOPE [2:1] RW, reset 0 DIE (R355, 12_memory_placement_and_translation.md). -/
def PTU_INV_SCOPE : Fld := ⟨8421409, 2, 0⟩
/-- PTU_INV.ROOT [13:8] RW, reset 0 DIE (R355, 12_memory_placement_and_translation.md). -/
def PTU_INV_ROOT : Fld := ⟨8421416, 6, 0⟩
/-- PTU_INV_VA_LO [31:16] RW, reset 0 DIE (R355, 12_memory_placement_and_translation.md). -/
def PTU_INV_VA_LO : Fld := ⟨8421520, 16, 0⟩
/-- PTU_INV_VA_HI [7:0] RW, reset 0 DIE (R355, 12_memory_placement_and_translation.md). -/
def PTU_INV_VA_HI : Fld := ⟨8421536, 8, 0⟩
/-- PTU_INV_PAGES [23:0] RW, reset 0 DIE (R355, 12_memory_placement_and_translation.md). -/
def PTU_INV_PAGES : Fld := ⟨8421568, 24, 0⟩
/-- PTU_INV_RESULT.DEFERRED [15:0] RO, reset 0 DIE (R355, 12_memory_placement_and_translation.md). -/
def PTU_INV_RESULT_DEFERRED : Fld := ⟨8421600, 16, 0⟩
/-- PTU_INV_RESULT.DONE [31:31] RO, reset 0 DIE (R355, 12_memory_placement_and_translation.md). -/
def PTU_INV_RESULT_DONE : Fld := ⟨8421631, 1, 0⟩
/-- PTU_ROOT_LO.EN [0:0] RW, reset 0 DIE (R355, 12_memory_placement_and_translation.md). -/
def PTU_ROOT_LO_EN (i : Nat) : Fld := ⟨8423424 + 64 * i, 1, 0⟩
/-- PTU_ROOT_LO.ROOT [31:13] RW, reset 0 DIE (R355, 12_memory_placement_and_translation.md). -/
def PTU_ROOT_LO_ROOT (i : Nat) : Fld := ⟨8423437 + 64 * i, 19, 0⟩
/-- PTU_ROOT_HI [15:0] RW, reset 0 DIE (R355, 12_memory_placement_and_translation.md). -/
def PTU_ROOT_HI (i : Nat) : Fld := ⟨8423456 + 64 * i, 16, 0⟩
/-- PTU_FLT.REASON [2:0] RO, reset 0 DIE (R355, 12_memory_placement_and_translation.md). -/
def PTU_FLT_REASON (i : Nat) : Fld := ⟨8427520 + 32 * i, 3, 0⟩
/-- PTU_FLT.LEVEL [4:3] RO, reset 0 DIE (R355, 12_memory_placement_and_translation.md). -/
def PTU_FLT_LEVEL (i : Nat) : Fld := ⟨8427523 + 32 * i, 2, 0⟩
/-- PTU_FLT.CTRL [5:5] RO, reset 0 DIE (R355, 12_memory_placement_and_translation.md). -/
def PTU_FLT_CTRL (i : Nat) : Fld := ⟨8427525 + 32 * i, 1, 0⟩
/-- PTU_TLB.VALID [8:0] RO, reset 0 DIE (R355, 12_memory_placement_and_translation.md). -/
def PTU_TLB_VALID (i : Nat) : Fld := ⟨8429568 + 32 * i, 9, 0⟩
/-- PTU_TLB.PINNED [24:16] RO, reset 0 DIE (R355, 12_memory_placement_and_translation.md). -/
def PTU_TLB_PINNED (i : Nat) : Fld := ⟨8429584 + 32 * i, 9, 0⟩
/-- PTU_WALK_LO.COUNT_LO [31:0] RW, reset 0 DIE (R355, 12_memory_placement_and_translation.md). -/
def PTU_WALK_LO_COUNT_LO : Fld := ⟨8430080, 32, 0⟩
/-- PTU_WALK_HI.COUNT_HI [15:0] RS, reset 0 DIE (R355, 12_memory_placement_and_translation.md). -/
def PTU_WALK_HI_COUNT_HI : Fld := ⟨8430112, 16, 0⟩
/-- PTU_WALK_HI.OVF [16:16] W1C, reset 0 DIE (R355, 12_memory_placement_and_translation.md). -/
def PTU_WALK_HI_OVF : Fld := ⟨8430128, 1, 0⟩
/-- NOP_STATUS.CD_UP [3:0] RO, reset 0 DRST (R381, 13_die_links_and_package_network.md). -/
def NOP_STATUS_CD_UP : Fld := ⟨8454144, 4, 0⟩
/-- NOP_STATUS.BD_UP [4:4] RO, reset 0 DRST (R381, 13_die_links_and_package_network.md). -/
def NOP_STATUS_BD_UP : Fld := ⟨8454148, 1, 0⟩
/-- NOP_STATUS.GD_UP [5:5] RO, reset 0 DRST (R381, 13_die_links_and_package_network.md). -/
def NOP_STATUS_GD_UP : Fld := ⟨8454149, 1, 0⟩
/-- NOP_STATUS.CD_RECOVERING [9:6] RO, reset 0 DRST (R381, 13_die_links_and_package_network.md). -/
def NOP_STATUS_CD_RECOVERING : Fld := ⟨8454150, 4, 0⟩
/-- NOP_STATUS.HUB_RECOVERING [10:10] RO, reset 0 DRST (R381, 13_die_links_and_package_network.md). -/
def NOP_STATUS_HUB_RECOVERING : Fld := ⟨8454154, 1, 0⟩
/-- NOP_STATUS.HUB_ATTEMPTS [12:11] RO, reset 0 DRST (R381, 13_die_links_and_package_network.md). -/
def NOP_STATUS_HUB_ATTEMPTS : Fld := ⟨8454155, 2, 0⟩
/-- NOP_STATUS.HUB_CAUSE [14:13] RO, reset 0 DRST (R381, 13_die_links_and_package_network.md). -/
def NOP_STATUS_HUB_CAUSE : Fld := ⟨8454157, 2, 0⟩
/-- NOP_STATUS.ACC_REFUSED [15:15] W1C, reset 0 DRST (R381, 13_die_links_and_package_network.md). -/
def NOP_STATUS_ACC_REFUSED : Fld := ⟨8454159, 1, 0⟩
/-- NOP_STATUS.BD_ID_MISMATCH [16:16] RO, reset 0 DRST (R381, 13_die_links_and_package_network.md). -/
def NOP_STATUS_BD_ID_MISMATCH : Fld := ⟨8454160, 1, 0⟩
/-- NOP_CTRL.HUB_AUTO_RECOVER [0:0] RWL, reset 1 DRST (R381, 13_die_links_and_package_network.md). -/
def NOP_CTRL_HUB_AUTO_RECOVER : Fld := ⟨8454176, 1, 1⟩
/-- NOP_CTRL.HUB_RECOVER [1:1] WO, reset 0 DRST (R381, 13_die_links_and_package_network.md). -/
def NOP_CTRL_HUB_RECOVER : Fld := ⟨8454177, 1, 0⟩
/-- NOP_CTRL.CD_RECOVER [5:2] WO, reset 0 DRST (R381, 13_die_links_and_package_network.md). -/
def NOP_CTRL_CD_RECOVER : Fld := ⟨8454178, 4, 0⟩
/-- NOP_CTRL.NOP_LOCK [31:31] LCK, reset 0 DRST (R381, 13_die_links_and_package_network.md). -/
def NOP_CTRL_NOP_LOCK : Fld := ⟨8454207, 1, 0⟩
/-- NOP_HUB_LANES.TX_SPARES [1:0] RO, reset 0 DRST (R381, 13_die_links_and_package_network.md). -/
def NOP_HUB_LANES_TX_SPARES : Fld := ⟨8454208, 2, 0⟩
/-- NOP_HUB_LANES.RX_SPARES [9:8] RO, reset 0 DRST (R381, 13_die_links_and_package_network.md). -/
def NOP_HUB_LANES_RX_SPARES : Fld := ⟨8454216, 2, 0⟩
/-- NOP_GD_LANES.LEG_A [0:0] RO, reset 0 DRST (R381, 13_die_links_and_package_network.md). -/
def NOP_GD_LANES_LEG_A : Fld := ⟨8454240, 1, 0⟩
/-- NOP_GD_LANES.LEG_B [1:1] RO, reset 0 DRST (R381, 13_die_links_and_package_network.md). -/
def NOP_GD_LANES_LEG_B : Fld := ⟨8454241, 1, 0⟩
/-- NOP_HUB_CRC_LO.COUNT_LO [31:0] RW, reset 0 DRST (R381, 13_die_links_and_package_network.md). -/
def NOP_HUB_CRC_LO_COUNT_LO : Fld := ⟨8454272, 32, 0⟩
/-- NOP_HUB_CRC_HI.COUNT_HI [15:0] RS, reset 0 DRST (R381, 13_die_links_and_package_network.md). -/
def NOP_HUB_CRC_HI_COUNT_HI : Fld := ⟨8454304, 16, 0⟩
/-- NOP_HUB_CRC_HI.OVF [16:16] W1C, reset 0 DRST (R381, 13_die_links_and_package_network.md). -/
def NOP_HUB_CRC_HI_OVF : Fld := ⟨8454320, 1, 0⟩
/-- NOP_HUB_REPLAY_LO.COUNT_LO [31:0] RW, reset 0 DRST (R381, 13_die_links_and_package_network.md). -/
def NOP_HUB_REPLAY_LO_COUNT_LO : Fld := ⟨8454336, 32, 0⟩
/-- NOP_HUB_REPLAY_HI.COUNT_HI [15:0] RS, reset 0 DRST (R381, 13_die_links_and_package_network.md). -/
def NOP_HUB_REPLAY_HI_COUNT_HI : Fld := ⟨8454368, 16, 0⟩
/-- NOP_HUB_REPLAY_HI.OVF [16:16] W1C, reset 0 DRST (R381, 13_die_links_and_package_network.md). -/
def NOP_HUB_REPLAY_HI_OVF : Fld := ⟨8454384, 1, 0⟩
/-- NOP_BD_ID0.TYPE [7:0] RO, reset fuse POR (R380, 13_die_links_and_package_network.md). -/
def NOP_BD_ID0_TYPE : Fld := ⟨8454400, 8, 0⟩
/-- NOP_BD_ID0.POSITION [11:8] RO, reset fuse POR (R380, 13_die_links_and_package_network.md). -/
def NOP_BD_ID0_POSITION : Fld := ⟨8454408, 4, 0⟩
/-- NOP_BD_ID0.REV [15:12] RO, reset fuse POR (R380, 13_die_links_and_package_network.md). -/
def NOP_BD_ID0_REV : Fld := ⟨8454412, 4, 0⟩
/-- NOP_BD_ID0.LOT [31:16] RO, reset fuse POR (R380, 13_die_links_and_package_network.md). -/
def NOP_BD_ID0_LOT : Fld := ⟨8454416, 16, 0⟩
/-- NOP_BD_ID1.WAFER [7:0] RO, reset fuse POR (R380, 13_die_links_and_package_network.md). -/
def NOP_BD_ID1_WAFER : Fld := ⟨8454432, 8, 0⟩
/-- NOP_BD_ID1.DIE_X [15:8] RO, reset fuse POR (R380, 13_die_links_and_package_network.md). -/
def NOP_BD_ID1_DIE_X : Fld := ⟨8454440, 8, 0⟩
/-- NOP_BD_ID1.DIE_Y [23:16] RO, reset fuse POR (R380, 13_die_links_and_package_network.md). -/
def NOP_BD_ID1_DIE_Y : Fld := ⟨8454448, 8, 0⟩
/-- RPS_STATUS.PRESENT [0:0] RO, reset 1 DIE (R306, 10_repair_solver.md). -/
def RPS_STATUS_PRESENT : Fld := ⟨12582912, 1, 1⟩
/-- RPS_STATUS.WR_REFUSED [1:1] W1C, reset 0 DIE (R306, 10_repair_solver.md). -/
def RPS_STATUS_WR_REFUSED : Fld := ⟨12582913, 1, 0⟩
/-- RPS_STATUS.DROP_ANY [2:2] W1C, reset 0 DIE (R306, 10_repair_solver.md). -/
def RPS_STATUS_DROP_ANY : Fld := ⟨12582914, 1, 0⟩
/-- RPS_STATUS.ECC_ERR [3:3] W1C, reset 0 DIE (R306, 10_repair_solver.md). -/
def RPS_STATUS_ECC_ERR : Fld := ⟨12582915, 1, 0⟩
/-- RPS_CMD.OP [3:0] WO, reset 0 DIE (R306, 10_repair_solver.md). -/
def RPS_CMD_OP : Fld := ⟨12582944, 4, 0⟩
/-- RPS_CMD.SITE [9:4] WO, reset 0 DIE (R306, 10_repair_solver.md). -/
def RPS_CMD_SITE : Fld := ⟨12582948, 6, 0⟩
/-- RPS_CMD_RESULT.RESULT [2:0] RO, reset 0 DIE (R306, 10_repair_solver.md). -/
def RPS_CMD_RESULT_RESULT : Fld := ⟨12582976, 3, 0⟩
/-- RPS_CMD_RESULT.SITE [9:4] RO, reset 0 DIE (R306, 10_repair_solver.md). -/
def RPS_CMD_RESULT_SITE : Fld := ⟨12582980, 6, 0⟩
/-- RPS_POOL.FREE [12:0] RO, reset 4096 DIE (R306, 10_repair_solver.md). -/
def RPS_POOL_FREE : Fld := ⟨12583008, 13, 4096⟩
/-- RPS_SOLVE_Q.QUEUED [6:0] RO, reset 0 DIE (R306, 10_repair_solver.md). -/
def RPS_SOLVE_Q_QUEUED : Fld := ⟨12583040, 7, 0⟩
/-- RPS_SOLVE_Q.BUSY [11:8] RO, reset 0 DIE (R306, 10_repair_solver.md). -/
def RPS_SOLVE_Q_BUSY : Fld := ⟨12583048, 4, 0⟩
/-- RPS_INTAKE_LVL [15:0] RO, reset 0 DIE (R306, 10_repair_solver.md). -/
def RPS_INTAKE_LVL (i : Nat) : Fld := ⟨12583168 + 32 * i, 16, 0⟩
/-- RPS_INTAKE_WM.MARK [15:0] RW, reset 0 DIE (R306, 10_repair_solver.md). -/
def RPS_INTAKE_WM_MARK (i : Nat) : Fld := ⟨12583296 + 32 * i, 16, 0⟩
/-- RPS_INTAKE_PEAK.WM_PEAK [15:0] RO, reset 0 DIE (R306, 10_repair_solver.md). -/
def RPS_INTAKE_PEAK_WM_PEAK (i : Nat) : Fld := ⟨12583424 + 32 * i, 16, 0⟩
/-- RPS_INTAKE_PEAK.WM_HIT [31:31] W1C, reset 0 DIE (R306, 10_repair_solver.md). -/
def RPS_INTAKE_PEAK_WM_HIT (i : Nat) : Fld := ⟨12583455 + 32 * i, 1, 0⟩
/-- RPS_DROP_LO.COUNT_LO [31:0] RW, reset 0 DIE (R306, 10_repair_solver.md). -/
def RPS_DROP_LO_COUNT_LO : Fld := ⟨12583552, 32, 0⟩
/-- RPS_DROP_HI.COUNT_HI [15:0] RS, reset 0 DIE (R306, 10_repair_solver.md). -/
def RPS_DROP_HI_COUNT_HI : Fld := ⟨12583584, 16, 0⟩
/-- RPS_DROP_HI.OVF [16:16] W1C, reset 0 DIE (R306, 10_repair_solver.md). -/
def RPS_DROP_HI_OVF : Fld := ⟨12583600, 1, 0⟩
/-- RPSE word 0.STOP_POL [1:0] RW, reset 0 DIE (R306, 10_repair_solver.md). -/
def RPSE_STOP_POL (i : Nat) : Fld := ⟨12615680 + 512 * i, 2, 0⟩
/-- RPSE word 0.MASK_UNREP [2:2] RW, reset 0 DIE (R306, 10_repair_solver.md). -/
def RPSE_MASK_UNREP (i : Nat) : Fld := ⟨12615682 + 512 * i, 1, 0⟩
/-- RPSE word 0.AUTO_SOLVE [3:3] RW, reset 1 DIE (R306, 10_repair_solver.md). -/
def RPSE_AUTO_SOLVE (i : Nat) : Fld := ⟨12615683 + 512 * i, 1, 1⟩
/-- RPSE word 0.EVT_CORE [9:4] RW, reset 0 DIE (R306, 10_repair_solver.md). -/
def RPSE_EVT_CORE (i : Nat) : Fld := ⟨12615684 + 512 * i, 6, 0⟩
/-- RPSE word 0.EVT_IN [13:10] RW, reset 0 DIE (R306, 10_repair_solver.md). -/
def RPSE_EVT_IN (i : Nat) : Fld := ⟨12615690 + 512 * i, 4, 0⟩
/-- RPSE word 0.EVT_EN [14:14] RW, reset 0 DIE (R306, 10_repair_solver.md). -/
def RPSE_EVT_EN (i : Nat) : Fld := ⟨12615694 + 512 * i, 1, 0⟩
/-- RPSE word 0.IRQ_EN [15:15] RW, reset 0 DIE (R306, 10_repair_solver.md). -/
def RPSE_IRQ_EN (i : Nat) : Fld := ⟨12615695 + 512 * i, 1, 0⟩
/-- RPSE word 0.SOLVE_US [31:16] RW, reset 100 DIE (R306, 10_repair_solver.md). -/
def RPSE_SOLVE_US (i : Nat) : Fld := ⟨12615696 + 512 * i, 16, 100⟩
/-- RPSE word 1.MAP_LO [31:0] RW, reset 0 DIE (R306, 10_repair_solver.md). -/
def RPSE_MAP_LO (i : Nat) : Fld := ⟨12615712 + 512 * i, 32, 0⟩
/-- RPSE word 2.MAP_HI [15:0] RW, reset 0 DIE (R306, 10_repair_solver.md). -/
def RPSE_MAP_HI (i : Nat) : Fld := ⟨12615744 + 512 * i, 16, 0⟩
/-- RPSE word 3.SOL_LO [31:0] RW, reset 0 DIE (R306, 10_repair_solver.md). -/
def RPSE_SOL_LO (i : Nat) : Fld := ⟨12615776 + 512 * i, 32, 0⟩
/-- RPSE word 4.SOL_HI [15:0] RW, reset 0 DIE (R306, 10_repair_solver.md). -/
def RPSE_SOL_HI (i : Nat) : Fld := ⟨12615808 + 512 * i, 16, 0⟩
/-- RPSE word 5.SOL_SIZE [23:0] RW, reset 0 DIE (R306, 10_repair_solver.md). -/
def RPSE_SOL_SIZE (i : Nat) : Fld := ⟨12615840 + 512 * i, 24, 0⟩
/-- RPSE word 6.CELLS [12:0] RW, reset 0 DIE (R306, 10_repair_solver.md). -/
def RPSE_CELLS (i : Nat) : Fld := ⟨12615872 + 512 * i, 13, 0⟩
/-- RPSE word 7.STATE [2:0] RO, reset 0 DIE (R306, 10_repair_solver.md). -/
def RPSE_STATE (i : Nat) : Fld := ⟨12615904 + 512 * i, 3, 0⟩
/-- RPSE word 7.SOL_READY [3:3] W1C, reset 0 DIE (R306, 10_repair_solver.md). -/
def RPSE_SOL_READY (i : Nat) : Fld := ⟨12615907 + 512 * i, 1, 0⟩
/-- RPSE word 7.ABORTED [4:4] RO, reset 0 DIE (R306, 10_repair_solver.md). -/
def RPSE_ABORTED (i : Nat) : Fld := ⟨12615908 + 512 * i, 1, 0⟩
/-- RPSE word 7.LOST_ANY [5:5] RO, reset 0 DIE (R306, 10_repair_solver.md). -/
def RPSE_LOST_ANY (i : Nat) : Fld := ⟨12615909 + 512 * i, 1, 0⟩
/-- RPSE word 7.DROP_ANY [6:6] RO, reset 0 DIE (R306, 10_repair_solver.md). -/
def RPSE_DROP_ANY (i : Nat) : Fld := ⟨12615910 + 512 * i, 1, 0⟩
/-- RPSE word 7.OVERFLOW_ANY [7:7] RO, reset 0 DIE (R306, 10_repair_solver.md). -/
def RPSE_OVERFLOW_ANY (i : Nat) : Fld := ⟨12615911 + 512 * i, 1, 0⟩
/-- RPSE word 7.SEQ [15:8] RO, reset 0 DIE (R306, 10_repair_solver.md). -/
def RPSE_SEQ (i : Nat) : Fld := ⟨12615912 + 512 * i, 8, 0⟩
/-- RPSE word 8.UNREP [15:0] RO, reset 0 DIE (R306, 10_repair_solver.md). -/
def RPSE_UNREP (i : Nat) : Fld := ⟨12615936 + 512 * i, 16, 0⟩
/-- RPSE word 8.MAPPED [31:16] RO, reset 0 DIE (R306, 10_repair_solver.md). -/
def RPSE_MAPPED (i : Nat) : Fld := ⟨12615952 + 512 * i, 16, 0⟩
/-- RPSE word 9.CELLS_USED [22:0] RO, reset 0 DIE (R306, 10_repair_solver.md). -/
def RPSE_CELLS_USED (i : Nat) : Fld := ⟨12615968 + 512 * i, 23, 0⟩
/-- RPSE word 10.WM_PEAK [22:0] RO, reset 0 DIE (R306, 10_repair_solver.md). -/
def RPSE_WM_PEAK (i : Nat) : Fld := ⟨12616000 + 512 * i, 23, 0⟩
/-- RPSE word 10.WM_HIT [31:31] W1C, reset 0 DIE (R306, 10_repair_solver.md). -/
def RPSE_WM_HIT (i : Nat) : Fld := ⟨12616031 + 512 * i, 1, 0⟩
/-- RPSE word 11.MARK [22:0] RW, reset 0 DIE (R306, 10_repair_solver.md). -/
def RPSE_MARK (i : Nat) : Fld := ⟨12616032 + 512 * i, 23, 0⟩
/-- RPSE word 12.MUST_LINES [15:0] RO, reset 0 DIE (R306, 10_repair_solver.md). -/
def RPSE_MUST_LINES (i : Nat) : Fld := ⟨12616064 + 512 * i, 16, 0⟩
/-- RPSE word 12.UNMAPPED [31:16] RO, reset 0 DIE (R306, 10_repair_solver.md). -/
def RPSE_UNMAPPED (i : Nat) : Fld := ⟨12616080 + 512 * i, 16, 0⟩
/-- RPSE word 13.RDROP [31:0] RO, reset 0 DIE (R306, 10_repair_solver.md). -/
def RPSE_RDROP (i : Nat) : Fld := ⟨12616096 + 512 * i, 32, 0⟩
/-- RPSE word 14.IGNORED [31:0] RO, reset 0 DIE (R306, 10_repair_solver.md). -/
def RPSE_IGNORED (i : Nat) : Fld := ⟨12616128 + 512 * i, 32, 0⟩
/-- SEQ_STATUS.STATE [3:0] RO, reset 0 CORE (R154, 05_prajo_programming_model.md). -/
def SEQ_STATUS_STATE (i j : Nat) : Fld := ⟨33554432 + 8388608 * i + 32768 * j, 4, 0⟩
/-- SEQ_STATUS.SITE [9:4] RO, reset 0 CORE (R154, 05_prajo_programming_model.md). -/
def SEQ_STATUS_SITE (i j : Nat) : Fld := ⟨33554436 + 8388608 * i + 32768 * j, 6, 0⟩
/-- SEQ_STATUS.IN_SITE [10:10] RO, reset 0 CORE (R154, 05_prajo_programming_model.md). -/
def SEQ_STATUS_IN_SITE (i j : Nat) : Fld := ⟨33554442 + 8388608 * i + 32768 * j, 1, 0⟩
/-- SEQ_STATUS.WR_REFUSED [11:11] W1C, reset 0 CORE (R154, 05_prajo_programming_model.md). -/
def SEQ_STATUS_WR_REFUSED (i j : Nat) : Fld := ⟨33554443 + 8388608 * i + 32768 * j, 1, 0⟩
/-- SEQ_STATUS.CRS_LOADED [12:12] RO, reset 0 CORE (R154, 05_prajo_programming_model.md). -/
def SEQ_STATUS_CRS_LOADED (i j : Nat) : Fld := ⟨33554444 + 8388608 * i + 32768 * j, 1, 0⟩
/-- SEQ_CTRL.PROG_VALID [0:0] RW, reset 0 CORE (R154, 05_prajo_programming_model.md). -/
def SEQ_CTRL_PROG_VALID (i j : Nat) : Fld := ⟨33554464 + 8388608 * i + 32768 * j, 1, 0⟩
/-- SEQ_CTRL.ICACHE_INV [1:1] WO, reset 0 CORE (R154, 05_prajo_programming_model.md). -/
def SEQ_CTRL_ICACHE_INV (i j : Nat) : Fld := ⟨33554465 + 8388608 * i + 32768 * j, 1, 0⟩
/-- SEQ_CTRL.CFG_LOCK [31:31] LCK, reset 0 DIE (R154, 05_prajo_programming_model.md). -/
def SEQ_CTRL_CFG_LOCK (i j : Nat) : Fld := ⟨33554495 + 8388608 * i + 32768 * j, 1, 0⟩
/-- SEQ_PC_LO [31:0] RW, reset 0 CORE (R154, 05_prajo_programming_model.md). -/
def SEQ_PC_LO (i j : Nat) : Fld := ⟨33554496 + 8388608 * i + 32768 * j, 32, 0⟩
/-- SEQ_PC_HI [15:0] RW, reset 0 CORE (R154, 05_prajo_programming_model.md). -/
def SEQ_PC_HI (i j : Nat) : Fld := ⟨33554528 + 8388608 * i + 32768 * j, 16, 0⟩
/-- SEQ_VPC_LO [31:0] RW, reset 0 CORE (R154, 05_prajo_programming_model.md). -/
def SEQ_VPC_LO (i j : Nat) : Fld := ⟨33554560 + 8388608 * i + 32768 * j, 32, 0⟩
/-- SEQ_VPC_HI [15:0] RW, reset 0 CORE (R154, 05_prajo_programming_model.md). -/
def SEQ_VPC_HI (i j : Nat) : Fld := ⟨33554592 + 8388608 * i + 32768 * j, 16, 0⟩
/-- SEQ_PD.PD [3:0] RWL, reset 0 DIE (R154, 05_prajo_programming_model.md). -/
def SEQ_PD_PD (i j : Nat) : Fld := ⟨33554624 + 8388608 * i + 32768 * j, 4, 0⟩
/-- SEQ_LEAD_CFG.LEAD_TARGET [13:0] RWL, reset 8192 DIE (R154, 05_prajo_programming_model.md). -/
def SEQ_LEAD_CFG_LEAD_TARGET (i j : Nat) : Fld := ⟨33554656 + 8388608 * i + 32768 * j, 14, 8192⟩
/-- SEQ_LEAD.LEAD [13:0] RO, reset 0 CORE (R154, 05_prajo_programming_model.md). -/
def SEQ_LEAD_LEAD (i j : Nat) : Fld := ⟨33554688 + 8388608 * i + 32768 * j, 14, 0⟩
/-- SEQ_LEAD.ENTRIES [27:16] RO, reset 0 CORE (R154, 05_prajo_programming_model.md). -/
def SEQ_LEAD_ENTRIES (i j : Nat) : Fld := ⟨33554704 + 8388608 * i + 32768 * j, 12, 0⟩
/-- SEQ_LEAD_WM.MARK [13:0] RW, reset 0 CORE (R154, 05_prajo_programming_model.md). -/
def SEQ_LEAD_WM_MARK (i j : Nat) : Fld := ⟨33554720 + 8388608 * i + 32768 * j, 14, 0⟩
/-- SEQ_LEAD_WM.WM_PEAK [29:16] RO, reset 0 CORE (R154, 05_prajo_programming_model.md). -/
def SEQ_LEAD_WM_WM_PEAK (i j : Nat) : Fld := ⟨33554736 + 8388608 * i + 32768 * j, 14, 0⟩
/-- SEQ_LEAD_WM.WM_HIT [30:30] W1C, reset 0 CORE (R154, 05_prajo_programming_model.md). -/
def SEQ_LEAD_WM_WM_HIT (i j : Nat) : Fld := ⟨33554750 + 8388608 * i + 32768 * j, 1, 0⟩
/-- SEQ_SEGMAX.CYCLES [16:0] RW, reset 0 CORE (R154, 05_prajo_programming_model.md). -/
def SEQ_SEGMAX_CYCLES (i j : Nat) : Fld := ⟨33554752 + 8388608 * i + 32768 * j, 17, 0⟩
/-- SEQ_CURTAIN_LEN.CYCLES [12:0] RW, reset 0 CORE (R154, 05_prajo_programming_model.md). -/
def SEQ_CURTAIN_LEN_CYCLES (i j : Nat) : Fld := ⟨33554784 + 8388608 * i + 32768 * j, 13, 0⟩
/-- SEQ_STOPBOUND.TICKS [31:0] RO, reset 0 CORE (R154, 05_prajo_programming_model.md). -/
def SEQ_STOPBOUND_TICKS (i j : Nat) : Fld := ⟨33554816 + 8388608 * i + 32768 * j, 32, 0⟩
/-- SEQ_SEG [31:0] RO, reset 0 CORE (R154, 05_prajo_programming_model.md). -/
def SEQ_SEG (i j : Nat) : Fld := ⟨33554848 + 8388608 * i + 32768 * j, 32, 0⟩
/-- SEQ_FAULT.CODE [7:0] RO, reset 0 CORE (R154, 05_prajo_programming_model.md). -/
def SEQ_FAULT_CODE (i j : Nat) : Fld := ⟨33554880 + 8388608 * i + 32768 * j, 8, 0⟩
/-- SEQ_FAULT.MULTI [8:8] W1C, reset 0 CORE (R154, 05_prajo_programming_model.md). -/
def SEQ_FAULT_MULTI (i j : Nat) : Fld := ⟨33554888 + 8388608 * i + 32768 * j, 1, 0⟩
/-- SEQ_FAULT.STOP_REQ [9:9] RO, reset 0 CORE (R154, 05_prajo_programming_model.md). -/
def SEQ_FAULT_STOP_REQ (i j : Nat) : Fld := ⟨33554889 + 8388608 * i + 32768 * j, 1, 0⟩
/-- SEQ_FAULT_PC_LO [31:0] RO, reset 0 CORE (R154, 05_prajo_programming_model.md). -/
def SEQ_FAULT_PC_LO (i j : Nat) : Fld := ⟨33554912 + 8388608 * i + 32768 * j, 32, 0⟩
/-- SEQ_FAULT_PC_HI [15:0] RO, reset 0 CORE (R154, 05_prajo_programming_model.md). -/
def SEQ_FAULT_PC_HI (i j : Nat) : Fld := ⟨33554944 + 8388608 * i + 32768 * j, 16, 0⟩
/-- SEQ_FAULT_ADDR_LO [31:0] RO, reset 0 CORE (R154, 05_prajo_programming_model.md). -/
def SEQ_FAULT_ADDR_LO (i j : Nat) : Fld := ⟨33554976 + 8388608 * i + 32768 * j, 32, 0⟩
/-- SEQ_FAULT_ADDR_HI [15:0] RO, reset 0 CORE (R154, 05_prajo_programming_model.md). -/
def SEQ_FAULT_ADDR_HI (i j : Nat) : Fld := ⟨33555008 + 8388608 * i + 32768 * j, 16, 0⟩
/-- SEQ_STOP_CYCLE_LO [31:0] RO, reset 0 CORE (R154, 05_prajo_programming_model.md). -/
def SEQ_STOP_CYCLE_LO (i j : Nat) : Fld := ⟨33555040 + 8388608 * i + 32768 * j, 32, 0⟩
/-- SEQ_STOP_CYCLE_HI [15:0] RO, reset 0 CORE (R154, 05_prajo_programming_model.md). -/
def SEQ_STOP_CYCLE_HI (i j : Nat) : Fld := ⟨33555072 + 8388608 * i + 32768 * j, 16, 0⟩
/-- SEQ_CYCLE_LO.COUNT_LO [31:0] RW, reset 0 CORE (R154, 05_prajo_programming_model.md). -/
def SEQ_CYCLE_LO_COUNT_LO (i j : Nat) : Fld := ⟨33555104 + 8388608 * i + 32768 * j, 32, 0⟩
/-- SEQ_CYCLE_HI.COUNT_HI [15:0] RS, reset 0 CORE (R154, 05_prajo_programming_model.md). -/
def SEQ_CYCLE_HI_COUNT_HI (i j : Nat) : Fld := ⟨33555136 + 8388608 * i + 32768 * j, 16, 0⟩
/-- SEQ_CYCLE_HI.OVF [16:16] W1C, reset 0 CORE (R154, 05_prajo_programming_model.md). -/
def SEQ_CYCLE_HI_OVF (i j : Nat) : Fld := ⟨33555152 + 8388608 * i + 32768 * j, 1, 0⟩
/-- SEQ_PINMAP [31:0] RWL, reset 0 DIE (R154, 05_prajo_programming_model.md). -/
def SEQ_PINMAP (i j k : Nat) : Fld := ⟨33555200 + 8388608 * i + 32768 * j + 32 * k, 32, 0⟩
/-- SEQ_EVI_STATUS.EVI_OVF [15:0] W1C, reset 0 CORE (R154, 05_prajo_programming_model.md). -/
def SEQ_EVI_STATUS_EVI_OVF (i j : Nat) : Fld := ⟨33555328 + 8388608 * i + 32768 * j, 16, 0⟩
/-- SEQ_EVI_STATUS.NONZERO [31:16] RO, reset 0 CORE (R154, 05_prajo_programming_model.md). -/
def SEQ_EVI_STATUS_NONZERO (i j : Nat) : Fld := ⟨33555344 + 8388608 * i + 32768 * j, 16, 0⟩
/-- SEQ_EVI_CNT.CNT [7:0] RW, reset 0 CORE (R154, 05_prajo_programming_model.md). -/
def SEQ_EVI_CNT_CNT (i j k : Nat) : Fld := ⟨33555456 + 8388608 * i + 32768 * j + 32 * k, 8, 0⟩
/-- SEQ_EVI_ROUTE.SRC [2:0] RWL, reset 0 DIE (R154, 05_prajo_programming_model.md). -/
def SEQ_EVI_ROUTE_SRC (i j k : Nat) : Fld := ⟨33555968 + 8388608 * i + 32768 * j + 32 * k, 3, 0⟩
/-- SEQ_EVI_ROUTE.SEL [7:3] RWL, reset 0 DIE (R154, 05_prajo_programming_model.md). -/
def SEQ_EVI_ROUTE_SEL (i j k : Nat) : Fld := ⟨33555971 + 8388608 * i + 32768 * j + 32 * k, 5, 0⟩
/-- SEQ_VPQ_STATUS.HELD [4:0] RO, reset 0 CORE (R154, 05_prajo_programming_model.md). -/
def SEQ_VPQ_STATUS_HELD (i j : Nat) : Fld := ⟨33556480 + 8388608 * i + 32768 * j, 5, 0⟩
/-- TGN_STATUS.WR_REFUSED [0:0] W1C, reset 0 DIE (R255, 08_timing_generation_and_pe_ports.md). -/
def TGN_STATUS_WR_REFUSED (i : Nat) : Fld := ⟨34603008 + 8388608 * i, 1, 0⟩
/-- TGN_STATUS.TS_WR_REFUSED [1:1] W1C, reset 0 DIE (R255, 08_timing_generation_and_pe_ports.md). -/
def TGN_STATUS_TS_WR_REFUSED (i : Nat) : Fld := ⟨34603009 + 8388608 * i, 1, 0⟩
/-- TGN_STATUS.DSK_ACTIVE [2:2] RO, reset 0 DIE (R255, 08_timing_generation_and_pe_ports.md). -/
def TGN_STATUS_DSK_ACTIVE (i : Nat) : Fld := ⟨34603010 + 8388608 * i, 1, 0⟩
/-- TGN_STATUS.DSK_GROUP [4:3] RO, reset 0 DIE (R255, 08_timing_generation_and_pe_ports.md). -/
def TGN_STATUS_DSK_GROUP (i : Nat) : Fld := ⟨34603011 + 8388608 * i, 2, 0⟩
/-- TGN_STATUS.BYPASS [5:5] RO, reset 0 DIE (R255, 08_timing_generation_and_pe_ports.md). -/
def TGN_STATUS_BYPASS (i : Nat) : Fld := ⟨34603013 + 8388608 * i, 1, 0⟩
/-- TGN_DSK_CTRL.AUTO [0:0] RW, reset 1 DIE (R255, 08_timing_generation_and_pe_ports.md). -/
def TGN_DSK_CTRL_AUTO (i : Nat) : Fld := ⟨34603040 + 8388608 * i, 1, 1⟩
/-- TGN_DSK_CTRL.SWEEP [1:1] WO, reset 0 DIE (R255, 08_timing_generation_and_pe_ports.md). -/
def TGN_DSK_CTRL_SWEEP (i : Nat) : Fld := ⟨34603041 + 8388608 * i, 1, 0⟩
/-- TGN_DSK_CTRL.GROUP [3:2] RW, reset 0 DIE (R255, 08_timing_generation_and_pe_ports.md). -/
def TGN_DSK_CTRL_GROUP (i : Nat) : Fld := ⟨34603042 + 8388608 * i, 2, 0⟩
/-- TGN_DSK_CTRL.QUEUE [4:4] RW, reset 0 DIE (R255, 08_timing_generation_and_pe_ports.md). -/
def TGN_DSK_CTRL_QUEUE (i : Nat) : Fld := ⟨34603044 + 8388608 * i, 1, 0⟩
/-- TGN_DSK_CTRL.INTERVAL [23:8] RW, reset 250 DIE (R255, 08_timing_generation_and_pe_ports.md). -/
def TGN_DSK_CTRL_INTERVAL (i : Nat) : Fld := ⟨34603048 + 8388608 * i, 16, 250⟩
/-- TGN_DSK_STATUS.COLD [3:0] RO, reset 15 DIE (R255, 08_timing_generation_and_pe_ports.md). -/
def TGN_DSK_STATUS_COLD (i : Nat) : Fld := ⟨34603072 + 8388608 * i, 4, 15⟩
/-- TGN_DSK_STATUS.STALE [7:4] RO, reset 0 DIE (R255, 08_timing_generation_and_pe_ports.md). -/
def TGN_DSK_STATUS_STALE (i : Nat) : Fld := ⟨34603076 + 8388608 * i, 4, 0⟩
/-- TGN_DSK_STATUS.BAD [11:8] RO, reset 0 DIE (R255, 08_timing_generation_and_pe_ports.md). -/
def TGN_DSK_STATUS_BAD (i : Nat) : Fld := ⟨34603080 + 8388608 * i, 4, 0⟩
/-- TGN_DSK_STATUS.BUSY [12:12] W1C, reset 0 DIE (R255, 08_timing_generation_and_pe_ports.md). -/
def TGN_DSK_STATUS_BUSY (i : Nat) : Fld := ⟨34603084 + 8388608 * i, 1, 0⟩
/-- TGN_DSK_STATUS.HOLDER [23:16] RO, reset 0 DIE (R255, 08_timing_generation_and_pe_ports.md). -/
def TGN_DSK_STATUS_HOLDER (i : Nat) : Fld := ⟨34603088 + 8388608 * i, 8, 0⟩
/-- TGN_DSK_STATUS.ABANDON [31:24] RO, reset 0 DIE (R255, 08_timing_generation_and_pe_ports.md). -/
def TGN_DSK_STATUS_ABANDON (i : Nat) : Fld := ⟨34603096 + 8388608 * i, 8, 0⟩
/-- TGN_CROWD [31:0] W1C, reset 0 DIE (R255, 08_timing_generation_and_pe_ports.md). -/
def TGN_CROWD (i j : Nat) : Fld := ⟨34603136 + 8388608 * i + 32 * j, 32, 0⟩
/-- TGN_PD_CFG.PLL [0:0] RW, reset 0 DIE (R255, 08_timing_generation_and_pe_ports.md). -/
def TGN_PD_CFG_PLL (i j : Nat) : Fld := ⟨34605056 + 8388608 * i + 64 * j, 1, 0⟩
/-- TGN_PD_CFG.RUN [1:1] RO, reset 0 DIE (R255, 08_timing_generation_and_pe_ports.md). -/
def TGN_PD_CFG_RUN (i j : Nat) : Fld := ⟨34605057 + 8388608 * i + 64 * j, 1, 0⟩
/-- TGN_PD_CFG.START [2:2] WO, reset 0 DIE (R255, 08_timing_generation_and_pe_ports.md). -/
def TGN_PD_CFG_START (i j : Nat) : Fld := ⟨34605058 + 8388608 * i + 64 * j, 1, 0⟩
/-- TGN_PD_CFG.STOP [3:3] WO, reset 0 DIE (R255, 08_timing_generation_and_pe_ports.md). -/
def TGN_PD_CFG_STOP (i j : Nat) : Fld := ⟨34605059 + 8388608 * i + 64 * j, 1, 0⟩
/-- TGN_PD_CFG.BUSY [4:4] RO, reset 0 DIE (R255, 08_timing_generation_and_pe_ports.md). -/
def TGN_PD_CFG_BUSY (i j : Nat) : Fld := ⟨34605060 + 8388608 * i + 64 * j, 1, 0⟩
/-- TGN_PD_CFG.REFUSED [5:5] W1C, reset 0 DIE (R255, 08_timing_generation_and_pe_ports.md). -/
def TGN_PD_CFG_REFUSED (i j : Nat) : Fld := ⟨34605061 + 8388608 * i + 64 * j, 1, 0⟩
/-- TGN_PD_PERIOD.PERIOD [31:0] RW, reset 20000 DIE (R255, 08_timing_generation_and_pe_ports.md). -/
def TGN_PD_PERIOD_PERIOD (i j : Nat) : Fld := ⟨34605088 + 8388608 * i + 64 * j, 32, 20000⟩
/-- TGN_RSU_CFG.SRC [6:0] RW, reset 0 DIE (R255, 08_timing_generation_and_pe_ports.md). -/
def TGN_RSU_CFG_SRC (i j : Nat) : Fld := ⟨34607104 + 8388608 * i + 128 * j, 7, 0⟩
/-- TGN_RSU_CFG.EDGE [9:8] RW, reset 0 DIE (R255, 08_timing_generation_and_pe_ports.md). -/
def TGN_RSU_CFG_EDGE (i j : Nat) : Fld := ⟨34607112 + 8388608 * i + 128 * j, 2, 0⟩
/-- TGN_RSU_CFG.EN [31:31] RW, reset 0 DIE (R255, 08_timing_generation_and_pe_ports.md). -/
def TGN_RSU_CFG_EN (i j : Nat) : Fld := ⟨34607135 + 8388608 * i + 128 * j, 1, 0⟩
/-- TGN_RSU_WIN.OPEN [15:0] RW, reset 0 DIE (R255, 08_timing_generation_and_pe_ports.md). -/
def TGN_RSU_WIN_OPEN (i j : Nat) : Fld := ⟨34607136 + 8388608 * i + 128 * j, 16, 0⟩
/-- TGN_RSU_WIN.CLOSE [31:16] RW, reset 0 DIE (R255, 08_timing_generation_and_pe_ports.md). -/
def TGN_RSU_WIN_CLOSE (i j : Nat) : Fld := ⟨34607152 + 8388608 * i + 128 * j, 16, 0⟩
/-- TGN_RSU_STAT.MIN [15:0] RO, reset 65535 DIE (R255, 08_timing_generation_and_pe_ports.md). -/
def TGN_RSU_STAT_MIN (i j : Nat) : Fld := ⟨34607168 + 8388608 * i + 128 * j, 16, 65535⟩
/-- TGN_RSU_STAT.MAX [30:16] RO, reset 0 DIE (R255, 08_timing_generation_and_pe_ports.md). -/
def TGN_RSU_STAT_MAX (i j : Nat) : Fld := ⟨34607184 + 8388608 * i + 128 * j, 15, 0⟩
/-- TGN_RSU_STAT.CLR [31:31] WO, reset 0 DIE (R255, 08_timing_generation_and_pe_ports.md). -/
def TGN_RSU_STAT_CLR (i j : Nat) : Fld := ⟨34607199 + 8388608 * i + 128 * j, 1, 0⟩
/-- TGN_RSU_MISS [31:0] RO, reset 0 DIE (R255, 08_timing_generation_and_pe_ports.md). -/
def TGN_RSU_MISS (i j : Nat) : Fld := ⟨34607200 + 8388608 * i + 128 * j, 32, 0⟩
/-- PED_STATUS.PARK_ANY [0:0] RO, reset 1 DIE (R256, 08_timing_generation_and_pe_ports.md). -/
def PED_STATUS_PARK_ANY (i : Nat) : Fld := ⟨35127296 + 8388608 * i, 1, 1⟩
/-- PED_STATUS.CONFLICT_ANY [1:1] RO, reset 0 DIE (R256, 08_timing_generation_and_pe_ports.md). -/
def PED_STATUS_CONFLICT_ANY (i : Nat) : Fld := ⟨35127297 + 8388608 * i, 1, 0⟩
/-- PED_TX_CFG.SWING [1:0] RWL, reset 1 DIE (R256, 08_timing_generation_and_pe_ports.md). -/
def PED_TX_CFG_SWING (i : Nat) : Fld := ⟨35127328 + 8388608 * i, 2, 1⟩
/-- PED_TX_CFG.DEEMPH [3:2] RWL, reset 0 DIE (R256, 08_timing_generation_and_pe_ports.md). -/
def PED_TX_CFG_DEEMPH (i : Nat) : Fld := ⟨35127330 + 8388608 * i, 2, 0⟩
/-- PED_LOCK.TX_LOCK [0:0] LCK, reset 0 DIE (R256, 08_timing_generation_and_pe_ports.md). -/
def PED_LOCK_TX_LOCK (i : Nat) : Fld := ⟨35127360 + 8388608 * i, 1, 0⟩
/-- PED_PARKED [31:0] RO, reset 4294967295 DIE (R256, 08_timing_generation_and_pe_ports.md). -/
def PED_PARKED (i j : Nat) : Fld := ⟨35127424 + 8388608 * i + 32 * j, 32, 4294967295⟩
/-- PED_CONFLICT [31:0] W1C, reset 0 DIE (R256, 08_timing_generation_and_pe_ports.md). -/
def PED_CONFLICT (i j : Nat) : Fld := ⟨35127552 + 8388608 * i + 32 * j, 32, 0⟩
/-- PED_QH [31:0] RO, reset 0 DIE (R256, 08_timing_generation_and_pe_ports.md). -/
def PED_QH (i j : Nat) : Fld := ⟨35127680 + 8388608 * i + 32 * j, 32, 0⟩
/-- PED_QL [31:0] RO, reset 0 DIE (R256, 08_timing_generation_and_pe_ports.md). -/
def PED_QL (i j : Nat) : Fld := ⟨35127808 + 8388608 * i + 32 * j, 32, 0⟩
/-- PED_INV.INV [31:0] RWL, reset 0 DIE (R256, 08_timing_generation_and_pe_ports.md). -/
def PED_INV_INV (i j : Nat) : Fld := ⟨35129344 + 8388608 * i + 32 * j, 32, 0⟩
/-- CMP_STATUS.MASK_PEND [0:0] RO, reset 0 DIE (R281, 09_compare_and_fail_capture.md). -/
def CMP_STATUS_MASK_PEND (i : Nat) : Fld := ⟨35651584 + 8388608 * i, 1, 0⟩
/-- CMP_STATUS.RAW_ANY [1:1] RO, reset 0 DIE (R281, 09_compare_and_fail_capture.md). -/
def CMP_STATUS_RAW_ANY (i : Nat) : Fld := ⟨35651585 + 8388608 * i, 1, 0⟩
/-- CMP_MASK [31:0] RW, reset 0 DIE (R281, 09_compare_and_fail_capture.md). -/
def CMP_MASK (i j : Nat) : Fld := ⟨35651712 + 8388608 * i + 32 * j, 32, 0⟩
/-- CMP_MASK_ACT [31:0] RO, reset 0 DIE (R281, 09_compare_and_fail_capture.md). -/
def CMP_MASK_ACT (i j : Nat) : Fld := ⟨35651840 + 8388608 * i + 32 * j, 32, 0⟩
/-- CMP_RAW [31:0] W1C, reset 0 DIE (R281, 09_compare_and_fail_capture.md). -/
def CMP_RAW (i j : Nat) : Fld := ⟨35651968 + 8388608 * i + 32 * j, 32, 0⟩
/-- FLG_STATUS.WR_REFUSED [0:0] W1C, reset 0 DIE (R281, 09_compare_and_fail_capture.md). -/
def FLG_STATUS_WR_REFUSED (i : Nat) : Fld := ⟨35653632 + 8388608 * i, 1, 0⟩
/-- FLG_STATUS.LOST_ANY [1:1] W1C, reset 0 DIE (R281, 09_compare_and_fail_capture.md). -/
def FLG_STATUS_LOST_ANY (i : Nat) : Fld := ⟨35653633 + 8388608 * i, 1, 0⟩
/-- FLG_STATUS.STAGE_BUSY [2:2] RO, reset 0 DIE (R281, 09_compare_and_fail_capture.md). -/
def FLG_STATUS_STAGE_BUSY (i : Nat) : Fld := ⟨35653634 + 8388608 * i, 1, 0⟩
/-- FLG_STAGE_LVL [17:0] RO, reset 0 DIE (R281, 09_compare_and_fail_capture.md). -/
def FLG_STAGE_LVL (i : Nat) : Fld := ⟨35653664 + 8388608 * i, 18, 0⟩
/-- FLG_STAGE_WM.MARK [17:0] RW, reset 0 DIE (R281, 09_compare_and_fail_capture.md). -/
def FLG_STAGE_WM_MARK (i : Nat) : Fld := ⟨35653696 + 8388608 * i, 18, 0⟩
/-- FLG_STAGE_PEAK.WM_PEAK [17:0] RO, reset 0 DIE (R281, 09_compare_and_fail_capture.md). -/
def FLG_STAGE_PEAK_WM_PEAK (i : Nat) : Fld := ⟨35653728 + 8388608 * i, 18, 0⟩
/-- FLG_STAGE_PEAK.WM_HIT [31:31] W1C, reset 0 DIE (R281, 09_compare_and_fail_capture.md). -/
def FLG_STAGE_PEAK_WM_HIT (i : Nat) : Fld := ⟨35653759 + 8388608 * i, 1, 0⟩
/-- FLG_REC_LO.COUNT_LO [31:0] RW, reset 0 DIE (R281, 09_compare_and_fail_capture.md). -/
def FLG_REC_LO_COUNT_LO (i : Nat) : Fld := ⟨35653760 + 8388608 * i, 32, 0⟩
/-- FLG_REC_HI.COUNT_HI [15:0] RS, reset 0 DIE (R281, 09_compare_and_fail_capture.md). -/
def FLG_REC_HI_COUNT_HI (i : Nat) : Fld := ⟨35653792 + 8388608 * i, 16, 0⟩
/-- FLG_REC_HI.OVF [16:16] W1C, reset 0 DIE (R281, 09_compare_and_fail_capture.md). -/
def FLG_REC_HI_OVF (i : Nat) : Fld := ⟨35653808 + 8388608 * i, 1, 0⟩
/-- FLG_LOST_LO.COUNT_LO [31:0] RW, reset 0 DIE (R281, 09_compare_and_fail_capture.md). -/
def FLG_LOST_LO_COUNT_LO (i : Nat) : Fld := ⟨35653824 + 8388608 * i, 32, 0⟩
/-- FLG_LOST_HI.COUNT_HI [15:0] RS, reset 0 DIE (R281, 09_compare_and_fail_capture.md). -/
def FLG_LOST_HI_COUNT_HI (i : Nat) : Fld := ⟨35653856 + 8388608 * i, 16, 0⟩
/-- FLG_LOST_HI.OVF [16:16] W1C, reset 0 DIE (R281, 09_compare_and_fail_capture.md). -/
def FLG_LOST_HI_OVF (i : Nat) : Fld := ⟨35653872 + 8388608 * i, 1, 0⟩
/-- FLG_SITE_FAIL_LO [31:0] RO, reset 0 DIE (R281, 09_compare_and_fail_capture.md). -/
def FLG_SITE_FAIL_LO (i : Nat) : Fld := ⟨35653888 + 8388608 * i, 32, 0⟩
/-- FLG_SITE_FAIL_HI [31:0] RO, reset 0 DIE (R281, 09_compare_and_fail_capture.md). -/
def FLG_SITE_FAIL_HI (i : Nat) : Fld := ⟨35653920 + 8388608 * i, 32, 0⟩
/-- FLG_RES_SUM.RATE_SUM [11:0] RO, reset 0 DIE (R281, 09_compare_and_fail_capture.md). -/
def FLG_RES_SUM_RATE_SUM (i : Nat) : Fld := ⟨35653952 + 8388608 * i, 12, 0⟩
/-- FLG_RES_SUM.STAGE_SUM [23:16] RO, reset 0 DIE (R281, 09_compare_and_fail_capture.md). -/
def FLG_RES_SUM_STAGE_SUM (i : Nat) : Fld := ⟨35653968 + 8388608 * i, 8, 0⟩
/-- PLL_STATUS.LOCKED_A [0:0] RO, reset 0 DIE (R459, 17_clocks_and_synthesis.md). -/
def PLL_STATUS_LOCKED_A (i : Nat) : Fld := ⟨36175872 + 8388608 * i, 1, 0⟩
/-- PLL_STATUS.LOCKED_B [1:1] RO, reset 0 DIE (R459, 17_clocks_and_synthesis.md). -/
def PLL_STATUS_LOCKED_B (i : Nat) : Fld := ⟨36175873 + 8388608 * i, 1, 0⟩
/-- PLL_STATUS.LOST [2:2] W1C, reset 0 DIE (R459, 17_clocks_and_synthesis.md). -/
def PLL_STATUS_LOST (i : Nat) : Fld := ⟨36175874 + 8388608 * i, 1, 0⟩
/-- PLL_STATUS.LOCK_FAIL [3:3] W1C, reset 0 DIE (R459, 17_clocks_and_synthesis.md). -/
def PLL_STATUS_LOCK_FAIL (i : Nat) : Fld := ⟨36175875 + 8388608 * i, 1, 0⟩
/-- PLL_STATUS.RELOCK_REFUSED [4:4] W1C, reset 0 DIE (R459, 17_clocks_and_synthesis.md). -/
def PLL_STATUS_RELOCK_REFUSED (i : Nat) : Fld := ⟨36175876 + 8388608 * i, 1, 0⟩
/-- PLL_STATUS.BAND_SRC [6:5] RO, reset 0 DIE (R459, 17_clocks_and_synthesis.md). -/
def PLL_STATUS_BAND_SRC (i : Nat) : Fld := ⟨36175877 + 8388608 * i, 2, 0⟩
/-- PLL_STATUS.BAND_A [12:8] RO, reset 0 DIE (R459, 17_clocks_and_synthesis.md). -/
def PLL_STATUS_BAND_A (i : Nat) : Fld := ⟨36175880 + 8388608 * i, 5, 0⟩
/-- PLL_STATUS.BAND_B [17:13] RO, reset 0 DIE (R459, 17_clocks_and_synthesis.md). -/
def PLL_STATUS_BAND_B (i : Nat) : Fld := ⟨36175885 + 8388608 * i, 5, 0⟩
/-- PLL_CTRL.RELOCK [0:0] WO, reset 0 DIE (R459, 17_clocks_and_synthesis.md). -/
def PLL_CTRL_RELOCK (i : Nat) : Fld := ⟨36175904 + 8388608 * i, 1, 0⟩
/-- PLL_CTRL.QUEUE [1:1] RW, reset 0 DIE (R459, 17_clocks_and_synthesis.md). -/
def PLL_CTRL_QUEUE (i : Nat) : Fld := ⟨36175905 + 8388608 * i, 1, 0⟩
/-- PLL_CTRL.LSEL [3:2] RW, reset 2 DIE (R459, 17_clocks_and_synthesis.md). -/
def PLL_CTRL_LSEL (i : Nat) : Fld := ⟨36175906 + 8388608 * i, 2, 2⟩
/-- PLL_CTRL.LOCK_TH [11:4] RWL, reset 20 DIE (R459, 17_clocks_and_synthesis.md). -/
def PLL_CTRL_LOCK_TH (i : Nat) : Fld := ⟨36175908 + 8388608 * i, 8, 20⟩
/-- PLL_CTRL.PLL_LOCK [31:31] LCK, reset 0 DIE (R459, 17_clocks_and_synthesis.md). -/
def PLL_CTRL_PLL_LOCK (i : Nat) : Fld := ⟨36175935 + 8388608 * i, 1, 0⟩
/-- PLL_CFG.TB [13:0] RWL, reset 8000 DIE (R459, 17_clocks_and_synthesis.md). -/
def PLL_CFG_TB (i j : Nat) : Fld := ⟨36177920 + 8388608 * i + 512 * j, 14, 8000⟩
/-- PLL_CFG.DITHER_EN [14:14] RWL, reset 1 DIE (R459, 17_clocks_and_synthesis.md). -/
def PLL_CFG_DITHER_EN (i j : Nat) : Fld := ⟨36177934 + 8388608 * i + 512 * j, 1, 1⟩
/-- PLL_SEED.SEED [31:0] RW, reset 1 DIE (R459, 17_clocks_and_synthesis.md). -/
def PLL_SEED_SEED (i j : Nat) : Fld := ⟨36177952 + 8388608 * i + 512 * j, 32, 1⟩
/-- PLL_OUT.DIV1 [5:0] RW, reset 0 DIE (R459, 17_clocks_and_synthesis.md). -/
def PLL_OUT_DIV1 (i j : Nat) : Fld := ⟨36177984 + 8388608 * i + 512 * j, 6, 0⟩
/-- PLL_OUT.FMT1 [7:6] RW, reset 0 DIE (R459, 17_clocks_and_synthesis.md). -/
def PLL_OUT_FMT1 (i j : Nat) : Fld := ⟨36177990 + 8388608 * i + 512 * j, 2, 0⟩
/-- PLL_OUT.LEVEL1 [9:8] RW, reset 1 DIE (R459, 17_clocks_and_synthesis.md). -/
def PLL_OUT_LEVEL1 (i j : Nat) : Fld := ⟨36177992 + 8388608 * i + 512 * j, 2, 1⟩
/-- PLL_OUT.DIV2 [15:10] RW, reset 0 DIE (R459, 17_clocks_and_synthesis.md). -/
def PLL_OUT_DIV2 (i j : Nat) : Fld := ⟨36177994 + 8388608 * i + 512 * j, 6, 0⟩
/-- PLL_OUT.FMT2 [17:16] RW, reset 0 DIE (R459, 17_clocks_and_synthesis.md). -/
def PLL_OUT_FMT2 (i j : Nat) : Fld := ⟨36178000 + 8388608 * i + 512 * j, 2, 0⟩
/-- PLL_OUT.LEVEL2 [19:18] RW, reset 1 DIE (R459, 17_clocks_and_synthesis.md). -/
def PLL_OUT_LEVEL2 (i j : Nat) : Fld := ⟨36178002 + 8388608 * i + 512 * j, 2, 1⟩
/-- PLL_OUT.DIV3 [25:20] RW, reset 0 DIE (R459, 17_clocks_and_synthesis.md). -/
def PLL_OUT_DIV3 (i j : Nat) : Fld := ⟨36178004 + 8388608 * i + 512 * j, 6, 0⟩
/-- PLL_OUT.FMT3 [27:26] RW, reset 0 DIE (R459, 17_clocks_and_synthesis.md). -/
def PLL_OUT_FMT3 (i j : Nat) : Fld := ⟨36178010 + 8388608 * i + 512 * j, 2, 0⟩
/-- PLL_OUT.LEVEL3 [29:28] RW, reset 1 DIE (R459, 17_clocks_and_synthesis.md). -/
def PLL_OUT_LEVEL3 (i j : Nat) : Fld := ⟨36178012 + 8388608 * i + 512 * j, 2, 1⟩
/-- PLL_OFS.OFS [31:0] RO, reset 0 DIE (R459, 17_clocks_and_synthesis.md). -/
def PLL_OFS_OFS (i j : Nat) : Fld := ⟨36178016 + 8388608 * i + 512 * j, 32, 0⟩
/-- PLL_STEP_OFS.NEW [31:0] RW, reset 0 DIE (R459, 17_clocks_and_synthesis.md). -/
def PLL_STEP_OFS_NEW (i j : Nat) : Fld := ⟨36178048 + 8388608 * i + 512 * j, 32, 0⟩
/-- PLL_STEP_TTI_LO.TTI_LO [31:0] RW, reset 0 DIE (R459, 17_clocks_and_synthesis.md). -/
def PLL_STEP_TTI_LO_TTI_LO (i j : Nat) : Fld := ⟨36178080 + 8388608 * i + 512 * j, 32, 0⟩
/-- PLL_STEP_TTI_HI.TTI_HI [31:0] RW, reset 0 DIE (R459, 17_clocks_and_synthesis.md). -/
def PLL_STEP_TTI_HI_TTI_HI (i j : Nat) : Fld := ⟨36178112 + 8388608 * i + 512 * j, 32, 0⟩
/-- PLL_STEP_CTRL.ARM [0:0] W1S, reset 0 DIE (R459, 17_clocks_and_synthesis.md). -/
def PLL_STEP_CTRL_ARM (i j : Nat) : Fld := ⟨36178144 + 8388608 * i + 512 * j, 1, 0⟩
/-- PLL_STEP_CTRL.DISARM [1:1] WO, reset 0 DIE (R459, 17_clocks_and_synthesis.md). -/
def PLL_STEP_CTRL_DISARM (i j : Nat) : Fld := ⟨36178145 + 8388608 * i + 512 * j, 1, 0⟩
/-- PLL_STEP_CTRL.STATE [4:2] RO, reset 0 DIE (R459, 17_clocks_and_synthesis.md). -/
def PLL_STEP_CTRL_STATE (i j : Nat) : Fld := ⟨36178146 + 8388608 * i + 512 * j, 3, 0⟩
/-- PLL_STEP_CTRL.RESULT [7:5] RO, reset 0 DIE (R459, 17_clocks_and_synthesis.md). -/
def PLL_STEP_CTRL_RESULT (i j : Nat) : Fld := ⟨36178149 + 8388608 * i + 512 * j, 3, 0⟩
/-- BAND word 0.F_LO [15:0] RW, reset 0 DIE (R446, 17_clocks_and_synthesis.md). -/
def BAND_F_LO (i j k : Nat) : Fld := ⟨36179968 + 8388608 * i + 2048 * j + 64 * k, 16, 0⟩
/-- BAND word 0.F_HI [31:16] RW, reset 0 DIE (R446, 17_clocks_and_synthesis.md). -/
def BAND_F_HI (i j k : Nat) : Fld := ⟨36179984 + 8388608 * i + 2048 * j + 64 * k, 16, 0⟩
/-- BAND word 1.CAP [7:0] RW, reset 0 DIE (R446, 17_clocks_and_synthesis.md). -/
def BAND_CAP (i j k : Nat) : Fld := ⟨36180000 + 8388608 * i + 2048 * j + 64 * k, 8, 0⟩
/-- BAND word 1.KV [13:8] RW, reset 0 DIE (R446, 17_clocks_and_synthesis.md). -/
def BAND_KV (i j k : Nat) : Fld := ⟨36180008 + 8388608 * i + 2048 * j + 64 * k, 6, 0⟩
/-- BAND word 1.ICP [17:14] RW, reset 0 DIE (R446, 17_clocks_and_synthesis.md). -/
def BAND_ICP (i j k : Nat) : Fld := ⟨36180014 + 8388608 * i + 2048 * j + 64 * k, 4, 0⟩
/-- BAND word 1.VALID [31:31] RW, reset 0 DIE (R446, 17_clocks_and_synthesis.md). -/
def BAND_VALID (i j k : Nat) : Fld := ⟨36180031 + 8388608 * i + 2048 * j + 64 * k, 1, 0⟩
/-- D2D_STATUS.UP [0:0] RO, reset 0 DIE (R379, 13_die_links_and_package_network.md). -/
def D2D_STATUS_UP (i : Nat) : Fld := ⟨36700160 + 8388608 * i, 1, 0⟩
/-- D2D_STATUS.CAUSE [2:1] RO, reset 0 DIE (R379, 13_die_links_and_package_network.md). -/
def D2D_STATUS_CAUSE (i : Nat) : Fld := ⟨36700161 + 8388608 * i, 2, 0⟩
/-- D2D_STATUS.PORT [5:3] RO, reset 0 DIE (R379, 13_die_links_and_package_network.md). -/
def D2D_STATUS_PORT (i : Nat) : Fld := ⟨36700163 + 8388608 * i, 3, 0⟩
/-- D2D_STATUS.ID_MISMATCH [6:6] RO, reset 0 DIE (R379, 13_die_links_and_package_network.md). -/
def D2D_STATUS_ID_MISMATCH (i : Nat) : Fld := ⟨36700166 + 8388608 * i, 1, 0⟩
/-- D2D_STATUS.DOWN_SEEN [7:7] W1C, reset 0 DIE (R379, 13_die_links_and_package_network.md). -/
def D2D_STATUS_DOWN_SEEN (i : Nat) : Fld := ⟨36700167 + 8388608 * i, 1, 0⟩
/-- D2D_CTRL.AUTO_RECOVER [0:0] RWL, reset 1 DIE (R379, 13_die_links_and_package_network.md). -/
def D2D_CTRL_AUTO_RECOVER (i : Nat) : Fld := ⟨36700192 + 8388608 * i, 1, 1⟩
/-- D2D_CTRL.RECOVER [1:1] WO, reset 0 DIE (R379, 13_die_links_and_package_network.md). -/
def D2D_CTRL_RECOVER (i : Nat) : Fld := ⟨36700193 + 8388608 * i, 1, 0⟩
/-- D2D_CTRL.LINK_LOCK [31:31] LCK, reset 0 DIE (R379, 13_die_links_and_package_network.md). -/
def D2D_CTRL_LINK_LOCK (i : Nat) : Fld := ⟨36700223 + 8388608 * i, 1, 0⟩
/-- D2D_ID0.TYPE [7:0] RO, reset fuse POR (R380, 13_die_links_and_package_network.md). -/
def D2D_ID0_TYPE (i : Nat) : Fld := ⟨36700224 + 8388608 * i, 8, 0⟩
/-- D2D_ID0.POSITION [11:8] RO, reset fuse POR (R380, 13_die_links_and_package_network.md). -/
def D2D_ID0_POSITION (i : Nat) : Fld := ⟨36700232 + 8388608 * i, 4, 0⟩
/-- D2D_ID0.REV [15:12] RO, reset fuse POR (R380, 13_die_links_and_package_network.md). -/
def D2D_ID0_REV (i : Nat) : Fld := ⟨36700236 + 8388608 * i, 4, 0⟩
/-- D2D_ID0.LOT [31:16] RO, reset fuse POR (R380, 13_die_links_and_package_network.md). -/
def D2D_ID0_LOT (i : Nat) : Fld := ⟨36700240 + 8388608 * i, 16, 0⟩
/-- D2D_ID1.WAFER [7:0] RO, reset fuse POR (R380, 13_die_links_and_package_network.md). -/
def D2D_ID1_WAFER (i : Nat) : Fld := ⟨36700256 + 8388608 * i, 8, 0⟩
/-- D2D_ID1.DIE_X [15:8] RO, reset fuse POR (R380, 13_die_links_and_package_network.md). -/
def D2D_ID1_DIE_X (i : Nat) : Fld := ⟨36700264 + 8388608 * i, 8, 0⟩
/-- D2D_ID1.DIE_Y [23:16] RO, reset fuse POR (R380, 13_die_links_and_package_network.md). -/
def D2D_ID1_DIE_Y (i : Nat) : Fld := ⟨36700272 + 8388608 * i, 8, 0⟩
/-- D2D_PORT.TX_SPARES [4:0] RO, reset 0 DIE (R379, 13_die_links_and_package_network.md). -/
def D2D_PORT_TX_SPARES (i j : Nat) : Fld := ⟨36700288 + 8388608 * i + 32 * j, 5, 0⟩
/-- D2D_PORT.RX_SPARES [12:8] RO, reset 0 DIE (R379, 13_die_links_and_package_network.md). -/
def D2D_PORT_RX_SPARES (i j : Nat) : Fld := ⟨36700296 + 8388608 * i + 32 * j, 5, 0⟩
/-- D2D_PORT.UP [16:16] RO, reset 0 DIE (R379, 13_die_links_and_package_network.md). -/
def D2D_PORT_UP (i j : Nat) : Fld := ⟨36700304 + 8388608 * i + 32 * j, 1, 0⟩
/-- D2D_CRC_LO.COUNT_LO [31:0] RW, reset 0 DIE (R379, 13_die_links_and_package_network.md). -/
def D2D_CRC_LO_COUNT_LO (i : Nat) : Fld := ⟨36700672 + 8388608 * i, 32, 0⟩
/-- D2D_CRC_HI.COUNT_HI [15:0] RS, reset 0 DIE (R379, 13_die_links_and_package_network.md). -/
def D2D_CRC_HI_COUNT_HI (i : Nat) : Fld := ⟨36700704 + 8388608 * i, 16, 0⟩
/-- D2D_CRC_HI.OVF [16:16] W1C, reset 0 DIE (R379, 13_die_links_and_package_network.md). -/
def D2D_CRC_HI_OVF (i : Nat) : Fld := ⟨36700720 + 8388608 * i, 1, 0⟩
/-- D2D_REPLAY_LO.COUNT_LO [31:0] RW, reset 0 DIE (R379, 13_die_links_and_package_network.md). -/
def D2D_REPLAY_LO_COUNT_LO (i : Nat) : Fld := ⟨36700736 + 8388608 * i, 32, 0⟩
/-- D2D_REPLAY_HI.COUNT_HI [15:0] RS, reset 0 DIE (R379, 13_die_links_and_package_network.md). -/
def D2D_REPLAY_HI_COUNT_HI (i : Nat) : Fld := ⟨36700768 + 8388608 * i, 16, 0⟩
/-- D2D_REPLAY_HI.OVF [16:16] W1C, reset 0 DIE (R379, 13_die_links_and_package_network.md). -/
def D2D_REPLAY_HI_OVF (i : Nat) : Fld := ⟨36700784 + 8388608 * i, 1, 0⟩
/-- FAB_SCRUB_CTRL.EN [0:0] RW, reset 1 DIE (R423, 15_partial_reconfiguration_and_scrubbing.md). -/
def FAB_SCRUB_CTRL_EN (i : Nat) : Fld := ⟨37224448 + 8388608 * i, 1, 1⟩
/-- FAB_SCRUB_CTRL.PERIOD [31:16] RW, reset 10 DIE (R423, 15_partial_reconfiguration_and_scrubbing.md). -/
def FAB_SCRUB_CTRL_PERIOD (i : Nat) : Fld := ⟨37224464 + 8388608 * i, 16, 10⟩
/-- FAB_SCRUB_STATUS.ACTIVE [0:0] RO, reset 0 DIE (R423, 15_partial_reconfiguration_and_scrubbing.md). -/
def FAB_SCRUB_STATUS_ACTIVE (i : Nat) : Fld := ⟨37224480 + 8388608 * i, 1, 0⟩
/-- FAB_SCRUB_STATUS.BAD_COL [1:1] RO, reset 0 DIE (R423, 15_partial_reconfiguration_and_scrubbing.md). -/
def FAB_SCRUB_STATUS_BAD_COL (i : Nat) : Fld := ⟨37224481 + 8388608 * i, 1, 0⟩
/-- FAB_SCRUB_STATUS.CRIT_SEEN [2:2] W1C, reset 0 DIE (R423, 15_partial_reconfiguration_and_scrubbing.md). -/
def FAB_SCRUB_STATUS_CRIT_SEEN (i : Nat) : Fld := ⟨37224482 + 8388608 * i, 1, 0⟩
/-- FAB_SCRUB_STATUS.SKIPPED [15:8] RO, reset 0 DIE (R423, 15_partial_reconfiguration_and_scrubbing.md). -/
def FAB_SCRUB_STATUS_SKIPPED (i : Nat) : Fld := ⟨37224488 + 8388608 * i, 8, 0⟩
/-- FAB_SCRUB_STATUS.PASSES [31:16] RO, reset 0 DIE (R423, 15_partial_reconfiguration_and_scrubbing.md). -/
def FAB_SCRUB_STATUS_PASSES (i : Nat) : Fld := ⟨37224496 + 8388608 * i, 16, 0⟩
/-- FAB_CRIT_BASE_LO.CRIT_EN [0:0] RW, reset 0 DIE (R423, 15_partial_reconfiguration_and_scrubbing.md). -/
def FAB_CRIT_BASE_LO_CRIT_EN (i : Nat) : Fld := ⟨37224512 + 8388608 * i, 1, 0⟩
/-- FAB_CRIT_BASE_LO [31:12] RW, reset 0 DIE (R423, 15_partial_reconfiguration_and_scrubbing.md). -/
def FAB_CRIT_BASE_LO (i : Nat) : Fld := ⟨37224524 + 8388608 * i, 20, 0⟩
/-- FAB_CRIT_BASE_HI [15:0] RW, reset 0 DIE (R423, 15_partial_reconfiguration_and_scrubbing.md). -/
def FAB_CRIT_BASE_HI (i : Nat) : Fld := ⟨37224544 + 8388608 * i, 16, 0⟩
/-- FAB_SCRUB_POL.ACTION [1:0] RWL, reset 0 DIE (R423, 15_partial_reconfiguration_and_scrubbing.md). -/
def FAB_SCRUB_POL_ACTION (i : Nat) : Fld := ⟨37224576 + 8388608 * i, 2, 0⟩
/-- FAB_SCRUB_POL.POL_LOCK [31:31] LCK, reset 0 DIE (R423, 15_partial_reconfiguration_and_scrubbing.md). -/
def FAB_SCRUB_POL_POL_LOCK (i : Nat) : Fld := ⟨37224607 + 8388608 * i, 1, 0⟩
/-- FAB_SCRUB_SITES_LO [31:0] RWL, reset 0 DIE (R423, 15_partial_reconfiguration_and_scrubbing.md). -/
def FAB_SCRUB_SITES_LO (i : Nat) : Fld := ⟨37224608 + 8388608 * i, 32, 0⟩
/-- FAB_SCRUB_SITES_HI [31:0] RWL, reset 0 DIE (R423, 15_partial_reconfiguration_and_scrubbing.md). -/
def FAB_SCRUB_SITES_HI (i : Nat) : Fld := ⟨37224640 + 8388608 * i, 32, 0⟩
/-- FAB_UPSET_LAST.FADDR [21:0] RO, reset 0 DIE (R423, 15_partial_reconfiguration_and_scrubbing.md). -/
def FAB_UPSET_LAST_FADDR (i : Nat) : Fld := ⟨37224672 + 8388608 * i, 22, 0⟩
/-- FAB_UPSET_LAST.CLASS [23:22] RO, reset 0 DIE (R423, 15_partial_reconfiguration_and_scrubbing.md). -/
def FAB_UPSET_LAST_CLASS (i : Nat) : Fld := ⟨37224694 + 8388608 * i, 2, 0⟩
/-- FAB_UPSET_LO.COUNT_LO [31:0] RW, reset 0 DIE (R423, 15_partial_reconfiguration_and_scrubbing.md). -/
def FAB_UPSET_LO_COUNT_LO (i : Nat) : Fld := ⟨37224704 + 8388608 * i, 32, 0⟩
/-- FAB_UPSET_HI.COUNT_HI [15:0] RS, reset 0 DIE (R423, 15_partial_reconfiguration_and_scrubbing.md). -/
def FAB_UPSET_HI_COUNT_HI (i : Nat) : Fld := ⟨37224736 + 8388608 * i, 16, 0⟩
/-- FAB_UPSET_HI.OVF [16:16] W1C, reset 0 DIE (R423, 15_partial_reconfiguration_and_scrubbing.md). -/
def FAB_UPSET_HI_OVF (i : Nat) : Fld := ⟨37224752 + 8388608 * i, 1, 0⟩
/-- FAB_PR_REGION.COL_FIRST [7:0] RO, reset 0 DIE (R423, 15_partial_reconfiguration_and_scrubbing.md). -/
def FAB_PR_REGION_COL_FIRST (i j : Nat) : Fld := ⟨37224960 + 8388608 * i + 32 * j, 8, 0⟩
/-- FAB_PR_REGION.COL_LAST [15:8] RO, reset 0 DIE (R423, 15_partial_reconfiguration_and_scrubbing.md). -/
def FAB_PR_REGION_COL_LAST (i j : Nat) : Fld := ⟨37224968 + 8388608 * i + 32 * j, 8, 0⟩
/-- FAB_PR_REGION.DEFINED [31:31] RO, reset 0 DIE (R423, 15_partial_reconfiguration_and_scrubbing.md). -/
def FAB_PR_REGION_DEFINED (i j : Nat) : Fld := ⟨37224991 + 8388608 * i + 32 * j, 1, 0⟩
/-- FAB_PR_STATE.STATE [2:0] RO, reset 0 DIE (R423, 15_partial_reconfiguration_and_scrubbing.md). -/
def FAB_PR_STATE_STATE (i j : Nat) : Fld := ⟨37225216 + 8388608 * i + 32 * j, 3, 0⟩
/-- FAB_PR_STATE.ERR [7:4] RO, reset 0 DIE (R423, 15_partial_reconfiguration_and_scrubbing.md). -/
def FAB_PR_STATE_ERR (i j : Nat) : Fld := ⟨37225220 + 8388608 * i + 32 * j, 4, 0⟩
/-- FAB_PR_STATE.HOLDER [15:8] RO, reset 0 DIE (R423, 15_partial_reconfiguration_and_scrubbing.md). -/
def FAB_PR_STATE_HOLDER (i j : Nat) : Fld := ⟨37225224 + 8388608 * i + 32 * j, 8, 0⟩
/-- FAB_PR_STATE.DONE [31:16] RO, reset 0 DIE (R423, 15_partial_reconfiguration_and_scrubbing.md). -/
def FAB_PR_STATE_DONE (i j : Nat) : Fld := ⟨37225232 + 8388608 * i + 32 * j, 16, 0⟩
/-- FAB_PR_CTRL.ABORT [7:0] WO, reset 0 DIE (R423, 15_partial_reconfiguration_and_scrubbing.md). -/
def FAB_PR_CTRL_ABORT (i : Nat) : Fld := ⟨37225472 + 8388608 * i, 8, 0⟩
/-- FAB_DYN [31:0] RO, reset 0 DIE (R423, 15_partial_reconfiguration_and_scrubbing.md). -/
def FAB_DYN (i j : Nat) : Fld := ⟨37225600 + 8388608 * i + 32 * j, 32, 0⟩
/-- DDB_STATUS.HIT [7:0] W1C, reset 0 DIE (R530, 21_debug_and_run_control.md). -/
def DDB_STATUS_HIT (i : Nat) : Fld := ⟨37748736 + 8388608 * i, 8, 0⟩
/-- DDB_CMP_CTRL.MODE [1:0] RW, reset 0 DIE (R530, 21_debug_and_run_control.md). -/
def DDB_CMP_CTRL_MODE (i j : Nat) : Fld := ⟨37750784 + 8388608 * i + 256 * j, 2, 0⟩
/-- DDB_CMP_CTRL.KIND [3:2] RW, reset 0 DIE (R530, 21_debug_and_run_control.md). -/
def DDB_CMP_CTRL_KIND (i j : Nat) : Fld := ⟨37750786 + 8388608 * i + 256 * j, 2, 0⟩
/-- DDB_CMP_CTRL.ACTION [5:4] RW, reset 0 DIE (R530, 21_debug_and_run_control.md). -/
def DDB_CMP_CTRL_ACTION (i j : Nat) : Fld := ⟨37750788 + 8388608 * i + 256 * j, 2, 0⟩
/-- DDB_CMP_CTRL.CORE [9:6] RW, reset 0 DIE (R530, 21_debug_and_run_control.md). -/
def DDB_CMP_CTRL_CORE (i j : Nat) : Fld := ⟨37750790 + 8388608 * i + 256 * j, 4, 0⟩
/-- DDB_CMP_CTRL.ANY [10:10] RW, reset 0 DIE (R530, 21_debug_and_run_control.md). -/
def DDB_CMP_CTRL_ANY (i j : Nat) : Fld := ⟨37750794 + 8388608 * i + 256 * j, 1, 0⟩
/-- DDB_CMP_VAL_LO.VAL_LO [31:0] RW, reset 0 DIE (R530, 21_debug_and_run_control.md). -/
def DDB_CMP_VAL_LO_VAL_LO (i j : Nat) : Fld := ⟨37750816 + 8388608 * i + 256 * j, 32, 0⟩
/-- DDB_CMP_VAL_HI.VAL_HI [31:0] RW, reset 0 DIE (R530, 21_debug_and_run_control.md). -/
def DDB_CMP_VAL_HI_VAL_HI (i j : Nat) : Fld := ⟨37750848 + 8388608 * i + 256 * j, 32, 0⟩
/-- DDB_CMP_LIM_LO.LIM_LO [31:0] RW, reset 0 DIE (R530, 21_debug_and_run_control.md). -/
def DDB_CMP_LIM_LO_LIM_LO (i j : Nat) : Fld := ⟨37750880 + 8388608 * i + 256 * j, 32, 0⟩
/-- DDB_CMP_LIM_HI.LIM_HI [31:0] RW, reset 0 DIE (R530, 21_debug_and_run_control.md). -/
def DDB_CMP_LIM_HI_LIM_HI (i j : Nat) : Fld := ⟨37750912 + 8388608 * i + 256 * j, 32, 0⟩
/-- DDB_CMP_CNT.CNT [31:0] RW, reset 0 DIE (R530, 21_debug_and_run_control.md). -/
def DDB_CMP_CNT_CNT (i j : Nat) : Fld := ⟨37750944 + 8388608 * i + 256 * j, 32, 0⟩
/-- CHAN word 0.PD [3:0] RW, reset 0 DIE (R253, 08_timing_generation_and_pe_ports.md). -/
def CHAN_PD (i j : Nat) : Fld := ⟨38273024 + 8388608 * i + 256 * j, 4, 0⟩
/-- CHAN word 0.DESKEW_COLD [8:8] RO, reset 1 DIE (R253, 08_timing_generation_and_pe_ports.md). -/
def CHAN_DESKEW_COLD (i j : Nat) : Fld := ⟨38273032 + 8388608 * i + 256 * j, 1, 1⟩
/-- CHAN word 0.DSK_BAD [9:9] RO, reset 0 DIE (R253, 08_timing_generation_and_pe_ports.md). -/
def CHAN_DSK_BAD (i j : Nat) : Fld := ⟨38273033 + 8388608 * i + 256 * j, 1, 0⟩
/-- CHAN word 0.DSK_COUNT [22:16] RO, reset 0 DIE (R253, 08_timing_generation_and_pe_ports.md). -/
def CHAN_DSK_COUNT (i j : Nat) : Fld := ⟨38273040 + 8388608 * i + 256 * j, 7, 0⟩
/-- CHAN word 0.DSK_REJ [25:24] RO, reset 0 DIE (R253, 08_timing_generation_and_pe_ports.md). -/
def CHAN_DSK_REJ (i j : Nat) : Fld := ⟨38273048 + 8388608 * i + 256 * j, 2, 0⟩
/-- CHAN word 1.SYS_D [15:0] RW, reset 0 DIE (R253, 08_timing_generation_and_pe_ports.md). -/
def CHAN_SYS_D (i j : Nat) : Fld := ⟨38273056 + 8388608 * i + 256 * j, 16, 0⟩
/-- CHAN word 1.SYS_E [31:16] RW, reset 0 DIE (R253, 08_timing_generation_and_pe_ports.md). -/
def CHAN_SYS_E (i j : Nat) : Fld := ⟨38273072 + 8388608 * i + 256 * j, 16, 0⟩
/-- CHAN word 2.SYS_QH [15:0] RW, reset 0 DIE (R253, 08_timing_generation_and_pe_ports.md). -/
def CHAN_SYS_QH (i j : Nat) : Fld := ⟨38273088 + 8388608 * i + 256 * j, 16, 0⟩
/-- CHAN word 2.SYS_QL [31:16] RW, reset 0 DIE (R253, 08_timing_generation_and_pe_ports.md). -/
def CHAN_SYS_QL (i j : Nat) : Fld := ⟨38273104 + 8388608 * i + 256 * j, 16, 0⟩
/-- CHAN word 3.CAL_D [15:0] RO, reset 0 DIE (R253, 08_timing_generation_and_pe_ports.md). -/
def CHAN_CAL_D (i j : Nat) : Fld := ⟨38273120 + 8388608 * i + 256 * j, 16, 0⟩
/-- CHAN word 3.CAL_E [31:16] RO, reset 0 DIE (R253, 08_timing_generation_and_pe_ports.md). -/
def CHAN_CAL_E (i j : Nat) : Fld := ⟨38273136 + 8388608 * i + 256 * j, 16, 0⟩
/-- CHAN word 4.CAL_QH [15:0] RO, reset 0 DIE (R253, 08_timing_generation_and_pe_ports.md). -/
def CHAN_CAL_QH (i j : Nat) : Fld := ⟨38273152 + 8388608 * i + 256 * j, 16, 0⟩
/-- CHAN word 4.CAL_QL [31:16] RO, reset 0 DIE (R253, 08_timing_generation_and_pe_ports.md). -/
def CHAN_CAL_QL (i j : Nat) : Fld := ⟨38273168 + 8388608 * i + 256 * j, 16, 0⟩
/-- TS_PER [31:0] RW, reset 0 DIE (R234, 08_timing_generation_and_pe_ports.md). -/
def TS_PER (i j k : Nat) : Fld := ⟨38797312 + 8388608 * i + 16384 * j + 256 * k, 32, 0⟩
/-- TS_FMT.DFMT [2:0] RW, reset 0 DIE (R234, 08_timing_generation_and_pe_ports.md). -/
def TS_FMT_DFMT (i j k : Nat) : Fld := ⟨38797344 + 8388608 * i + 16384 * j + 256 * k, 3, 0⟩
/-- TS_FMT.EFMT [3:3] RW, reset 0 DIE (R234, 08_timing_generation_and_pe_ports.md). -/
def TS_FMT_EFMT (i j k : Nat) : Fld := ⟨38797347 + 8388608 * i + 16384 * j + 256 * k, 1, 0⟩
/-- TS_FMT.CKF [4:4] RW, reset 0 DIE (R234, 08_timing_generation_and_pe_ports.md). -/
def TS_FMT_CKF (i j k : Nat) : Fld := ⟨38797348 + 8388608 * i + 16384 * j + 256 * k, 1, 0⟩
/-- TS_FMT.CFMT [6:5] RW, reset 0 DIE (R234, 08_timing_generation_and_pe_ports.md). -/
def TS_FMT_CFMT (i j k : Nat) : Fld := ⟨38797349 + 8388608 * i + 16384 * j + 256 * k, 2, 0⟩
/-- TS_FMT.RSU [11:8] RW, reset 0 DIE (R234, 08_timing_generation_and_pe_ports.md). -/
def TS_FMT_RSU (i j k : Nat) : Fld := ⟨38797352 + 8388608 * i + 16384 * j + 256 * k, 4, 0⟩
/-- TS_FMT.VALID [31:31] RO, reset 0 DIE (R234, 08_timing_generation_and_pe_ports.md). -/
def TS_FMT_VALID (i j k : Nat) : Fld := ⟨38797375 + 8388608 * i + 16384 * j + 256 * k, 1, 0⟩
/-- TS_T [23:0] RW, reset 0 DIE (R234, 08_timing_generation_and_pe_ports.md). -/
def TS_T (i j k l : Nat) : Fld := ⟨38797376 + 8388608 * i + 16384 * j + 256 * k + 32 * l, 24, 0⟩
/-- CHFC word 0.CNT_LO [31:0] RW, reset 0 DIE (R279, 09_compare_and_fail_capture.md). -/
def CHFC_CNT_LO (i j : Nat) : Fld := ⟨40894464 + 8388608 * i + 128 * j, 32, 0⟩
/-- CHFC word 1.CNT_HI [15:0] RS, reset 0 DIE (R279, 09_compare_and_fail_capture.md). -/
def CHFC_CNT_HI (i j : Nat) : Fld := ⟨40894496 + 8388608 * i + 128 * j, 16, 0⟩
/-- CHFC word 1.OVF [16:16] W1C, reset 0 DIE (R279, 09_compare_and_fail_capture.md). -/
def CHFC_OVF (i j : Nat) : Fld := ⟨40894512 + 8388608 * i + 128 * j, 1, 0⟩
/-- CHFC word 2.FIRST_LO [31:0] RO, reset 0 DIE (R279, 09_compare_and_fail_capture.md). -/
def CHFC_FIRST_LO (i j : Nat) : Fld := ⟨40894528 + 8388608 * i + 128 * j, 32, 0⟩
/-- CHFC word 3.FIRST_HI [15:0] RS, reset 0 DIE (R279, 09_compare_and_fail_capture.md). -/
def CHFC_FIRST_HI (i j : Nat) : Fld := ⟨40894560 + 8388608 * i + 128 * j, 16, 0⟩
/-- CHFC word 3.FIRST_VALID [31:31] RO, reset 0 DIE (R279, 09_compare_and_fail_capture.md). -/
def CHFC_FIRST_VALID (i j : Nat) : Fld := ⟨40894591 + 8388608 * i + 128 * j, 1, 0⟩
/-- SFT word 0.MODE [1:0] RW, reset 0 DIE (R276, 09_compare_and_fail_capture.md). -/
def SFT_MODE (i j : Nat) : Fld := ⟨40927232 + 8388608 * i + 512 * j, 2, 0⟩
/-- SFT word 0.TO_RPS [2:2] RW, reset 0 DIE (R276, 09_compare_and_fail_capture.md). -/
def SFT_TO_RPS (i j : Nat) : Fld := ⟨40927234 + 8388608 * i + 512 * j, 1, 0⟩
/-- SFT word 0.CRK_REC [3:3] RW, reset 0 DIE (R276, 09_compare_and_fail_capture.md). -/
def SFT_CRK_REC (i j : Nat) : Fld := ⟨40927235 + 8388608 * i + 512 * j, 1, 0⟩
/-- SFT word 0.FULL_STOP [4:4] RW, reset 0 DIE (R276, 09_compare_and_fail_capture.md). -/
def SFT_FULL_STOP (i j : Nat) : Fld := ⟨40927236 + 8388608 * i + 512 * j, 1, 0⟩
/-- SFT word 0.LOSS_STOP [5:5] RW, reset 0 DIE (R276, 09_compare_and_fail_capture.md). -/
def SFT_LOSS_STOP (i j : Nat) : Fld := ⟨40927237 + 8388608 * i + 512 * j, 1, 0⟩
/-- SFT word 0.XW [12:8] RW, reset 0 DIE (R276, 09_compare_and_fail_capture.md). -/
def SFT_XW (i j : Nat) : Fld := ⟨40927240 + 8388608 * i + 512 * j, 5, 0⟩
/-- SFT word 0.YW [17:13] RW, reset 0 DIE (R276, 09_compare_and_fail_capture.md). -/
def SFT_YW (i j : Nat) : Fld := ⟨40927245 + 8388608 * i + 512 * j, 5, 0⟩
/-- SFT word 1.BASE_LO [31:0] RW, reset 0 DIE (R276, 09_compare_and_fail_capture.md). -/
def SFT_BASE_LO (i j : Nat) : Fld := ⟨40927264 + 8388608 * i + 512 * j, 32, 0⟩
/-- SFT word 2.BASE_HI [15:0] RW, reset 0 DIE (R276, 09_compare_and_fail_capture.md). -/
def SFT_BASE_HI (i j : Nat) : Fld := ⟨40927296 + 8388608 * i + 512 * j, 16, 0⟩
/-- SFT word 3.SIZE [23:0] RW, reset 0 DIE (R276, 09_compare_and_fail_capture.md). -/
def SFT_SIZE (i j : Nat) : Fld := ⟨40927328 + 8388608 * i + 512 * j, 24, 0⟩
/-- SFT word 4.RATE [15:0] RW, reset 0 DIE (R276, 09_compare_and_fail_capture.md). -/
def SFT_RATE (i j : Nat) : Fld := ⟨40927360 + 8388608 * i + 512 * j, 16, 0⟩
/-- SFT word 4.STAGE [23:16] RW, reset 0 DIE (R276, 09_compare_and_fail_capture.md). -/
def SFT_STAGE (i j : Nat) : Fld := ⟨40927376 + 8388608 * i + 512 * j, 8, 0⟩
/-- SFT word 5.FAIL_LIMIT [31:0] RW, reset 0 DIE (R276, 09_compare_and_fail_capture.md). -/
def SFT_FAIL_LIMIT (i j : Nat) : Fld := ⟨40927392 + 8388608 * i + 512 * j, 32, 0⟩
/-- SFT word 6.RD_PTR [31:0] RW, reset 0 DIE (R276, 09_compare_and_fail_capture.md). -/
def SFT_RD_PTR (i j : Nat) : Fld := ⟨40927424 + 8388608 * i + 512 * j, 32, 0⟩
/-- SFT word 7.WR_PTR [31:0] RO, reset 0 DIE (R276, 09_compare_and_fail_capture.md). -/
def SFT_WR_PTR (i j : Nat) : Fld := ⟨40927456 + 8388608 * i + 512 * j, 32, 0⟩
/-- SFT word 8.WM_MARK [31:0] RW, reset 0 DIE (R276, 09_compare_and_fail_capture.md). -/
def SFT_WM_MARK (i j : Nat) : Fld := ⟨40927488 + 8388608 * i + 512 * j, 32, 0⟩
/-- SFT word 9.WM_PEAK [30:0] RO, reset 0 DIE (R276, 09_compare_and_fail_capture.md). -/
def SFT_WM_PEAK (i j : Nat) : Fld := ⟨40927520 + 8388608 * i + 512 * j, 31, 0⟩
/-- SFT word 9.WM_HIT [31:31] W1C, reset 0 DIE (R276, 09_compare_and_fail_capture.md). -/
def SFT_WM_HIT (i j : Nat) : Fld := ⟨40927551 + 8388608 * i + 512 * j, 1, 0⟩
/-- SFT word 10.FCNT_LO [31:0] RW, reset 0 DIE (R276, 09_compare_and_fail_capture.md). -/
def SFT_FCNT_LO (i j : Nat) : Fld := ⟨40927552 + 8388608 * i + 512 * j, 32, 0⟩
/-- SFT word 11.FCNT_HI [15:0] RS, reset 0 DIE (R276, 09_compare_and_fail_capture.md). -/
def SFT_FCNT_HI (i j : Nat) : Fld := ⟨40927584 + 8388608 * i + 512 * j, 16, 0⟩
/-- SFT word 11.OVF [16:16] W1C, reset 0 DIE (R276, 09_compare_and_fail_capture.md). -/
def SFT_OVF (i j : Nat) : Fld := ⟨40927600 + 8388608 * i + 512 * j, 1, 0⟩
/-- SFT word 12.FIRST_LO [31:0] RO, reset 0 DIE (R276, 09_compare_and_fail_capture.md). -/
def SFT_FIRST_LO (i j : Nat) : Fld := ⟨40927616 + 8388608 * i + 512 * j, 32, 0⟩
/-- SFT word 13.FIRST_HI [15:0] RS, reset 0 DIE (R276, 09_compare_and_fail_capture.md). -/
def SFT_FIRST_HI (i j : Nat) : Fld := ⟨40927648 + 8388608 * i + 512 * j, 16, 0⟩
/-- SFT word 14.LOST [31:0] RO, reset 0 DIE (R276, 09_compare_and_fail_capture.md). -/
def SFT_LOST (i j : Nat) : Fld := ⟨40927680 + 8388608 * i + 512 * j, 32, 0⟩
/-- SFT word 15.ANY_FAIL [0:0] RO, reset 0 DIE (R276, 09_compare_and_fail_capture.md). -/
def SFT_ANY_FAIL (i j : Nat) : Fld := ⟨40927712 + 8388608 * i + 512 * j, 1, 0⟩
/-- SFT word 15.LOST_F [1:1] RO, reset 0 DIE (R276, 09_compare_and_fail_capture.md). -/
def SFT_LOST_F (i j : Nat) : Fld := ⟨40927713 + 8388608 * i + 512 * j, 1, 0⟩
/-- SFT word 15.FULL [2:2] RO, reset 0 DIE (R276, 09_compare_and_fail_capture.md). -/
def SFT_FULL (i j : Nat) : Fld := ⟨40927714 + 8388608 * i + 512 * j, 1, 0⟩
/-- SFT word 15.LIMIT [3:3] RO, reset 0 DIE (R276, 09_compare_and_fail_capture.md). -/
def SFT_LIMIT (i j : Nat) : Fld := ⟨40927715 + 8388608 * i + 512 * j, 1, 0⟩
/-- SFT word 15.CRK_FAIL [4:4] RO, reset 0 DIE (R276, 09_compare_and_fail_capture.md). -/
def SFT_CRK_FAIL (i j : Nat) : Fld := ⟨40927716 + 8388608 * i + 512 * j, 1, 0⟩
/-- SFT word 15.SMISS [5:5] RO, reset 0 DIE (R276, 09_compare_and_fail_capture.md). -/
def SFT_SMISS (i j : Nat) : Fld := ⟨40927717 + 8388608 * i + 512 * j, 1, 0⟩
/-- SFT word 15.CNFL [6:6] RO, reset 0 DIE (R276, 09_compare_and_fail_capture.md). -/
def SFT_CNFL (i j : Nat) : Fld := ⟨40927718 + 8388608 * i + 512 * j, 1, 0⟩
/-- SFT word 15.TIMEOUT [7:7] RO, reset 0 DIE (R276, 09_compare_and_fail_capture.md). -/
def SFT_TIMEOUT (i j : Nat) : Fld := ⟨40927719 + 8388608 * i + 512 * j, 1, 0⟩
/-- SFT word 15.CLOSED [8:8] RO, reset 0 DIE (R276, 09_compare_and_fail_capture.md). -/
def SFT_CLOSED (i j : Nat) : Fld := ⟨40927720 + 8388608 * i + 512 * j, 1, 0⟩
/-- SFT word 15.ABORT [9:9] RO, reset 0 DIE (R276, 09_compare_and_fail_capture.md). -/
def SFT_ABORT (i j : Nat) : Fld := ⟨40927721 + 8388608 * i + 512 * j, 1, 0⟩

end Sys2Proof.Machine.K
end

