-- ==== Sys2Proof/Machine/Tbl.lean ====
section
/-! DEFINITION. A table: pairs of a number and a datum, the numbers strictly rising. It is how the model holds
everything the spec indexes (registers, site entries, buffers), so that equal contents are equal data. -/

namespace Sys2Proof.Machine

/-- A table keyed by natural numbers. -/
abbrev Tbl (α : Type) := List (Nat × α)

/-- The datum held at `k`. -/
def tblFind {α : Type} : Tbl α → Nat → Option α
  | [], _ => none
  | (j, a) :: t, k => if j == k then some a else tblFind t k

/-- The datum held at `k`, or `dflt` where none is held. -/
def tblGet {α : Type} (dflt : α) (t : Tbl α) (k : Nat) : α :=
  match tblFind t k with
  | some a => a
  | none => dflt

/-- The table with `a` at `k`. -/
def tblPut {α : Type} : Tbl α → Nat → α → Tbl α
  | [], k, a => [(k, a)]
  | (j, b) :: t, k, a =>
    if j == k then (k, a) :: t
    else if k < j then (k, a) :: (j, b) :: t
    else (j, b) :: tblPut t k a

/-- The table with nothing at `k`. -/
def tblErase {α : Type} : Tbl α → Nat → Tbl α
  | [], _ => []
  | (j, b) :: t, k =>
    if j == k then tblErase t k else (j, b) :: tblErase t k

/-- The table with the entry at `k`, `dflt` where none is held, replaced by its image under `f`. -/
def tblMod {α : Type} (dflt : α) (t : Tbl α) (k : Nat) (f : α → α) : Tbl α :=
  tblPut t k (f (tblGet dflt t k))

/-- The entries whose key satisfies `p`. -/
def tblKeep {α : Type} (t : Tbl α) (p : Nat → Bool) : Tbl α := t.filter (fun e => p e.1)

/-- Keys strictly rising, and all above `b` when one is given: the canonical form. -/
def tblSorted {α : Type} : Option Nat → Tbl α → Bool
  | _, [] => true
  | none, (j, _) :: t => tblSorted (some j) t
  | some b, (j, _) :: t => decide (b < j) && tblSorted (some j) t

/-- The canonical form of a table. -/
def tblWf {α : Type} (t : Tbl α) : Bool := tblSorted none t

end Sys2Proof.Machine
end

