-- ==== Sys2Proof/Machine/State.lean ====
section
/-! DEFINITION. The state of the UL8512: plain data holding every register field, memory, queue, counter, mode and pin
that spec/ gives the device, the free-value counter and the queue of waiting commands. Each field's docstring names the
rule, and every field's initial value is its value after reset (`State.reset`). -/

namespace Sys2Proof.Machine

/-- The ways a step can stop with a fault: none. The spec gives every command of the table an effect, a refusal with its
status or no effect, and each of them is a next state. -/
inductive Fault where
  deriving DecidableEq, Repr

/-- The ways a step can be refused. -/
inductive Refusal where
  /-- The command has no meaning in the model: the answer of an arm of `exec` that has none, of which there is none left.
  Safe: nothing is claimed. -/
  | notModelled (mnemonic : String)
  deriving DecidableEq, Repr

/-! ## Records of the event log -/

/-- A record of the event log (R551), before its store sequence number is given. -/
structure Rec where
  /-- Tick of the first occurrence (R551). -/
  tti : Nat
  /-- CLASS: 1 A, 2 B, 3 C (R551). -/
  cls : Nat
  /-- The event was injected (R551, R545). -/
  inj : Bool
  /-- Occurrences were merged beyond the 1 µs rule (R551, R560). -/
  press : Bool
  /-- TYPE (R552). -/
  ty : Nat
  /-- SRC_DIE: 0 to 3 CDn, 4 BD, 5 HD, 6 GD (R551). -/
  die : Nat
  /-- SRC_UNIT (R551). -/
  unit : Nat
  /-- SITE, where SITE_VALID (R551). -/
  site : Option Nat
  /-- ARG, class C only (R551). -/
  arg : Nat
  /-- COUNT (R551). -/
  count : Nat
  /-- LAST_DT (R551). -/
  lastDt : Nat
  /-- DATA (R552). -/
  data : Nat
  deriving DecidableEq, Repr

/-- A stored record: the record with its SEQ (R551, R559). -/
structure Stored where
  /-- The record. -/
  body : Rec
  /-- SEQ (R551). -/
  seq : Nat
  deriving DecidableEq, Repr

/-- The event log's own state beyond the EVL registers (R553 to R562). -/
structure Evl where
  /-- [R553, 23] Outbound queue of class B and C records of each unit, keyed 256 × die + unit, at most 8 each. Reset
  empty. -/
  queues : Tbl (List Rec) := []
  /-- [R553, 23] Pending class A slot of each unit and type, keyed (256 × die + unit) × 4,096 + type. Reset empty. -/
  slots : Tbl Rec := []
  /-- [R554, 23] Hub hold queue of class B and C records while the hub link is DOWN, at most 480. Reset empty. -/
  hold : List Rec := []
  /-- [R554, 23] Class A hold slots by type while the hub link is DOWN. Reset empty. -/
  holdSlots : Tbl Rec := []
  /-- [R557, 23] Class A alarm region, keyed by index mod 4,096. Reset empty. -/
  regionA : Tbl Stored := []
  /-- [R557, 23] Class B ring, keyed by index mod 131,072. Reset empty. -/
  regionB : Tbl Stored := []
  /-- [R557, 23] Class C ring, keyed by index mod 126,976. Reset empty. -/
  regionC : Tbl Stored := []
  /-- [R561, 23] Class B records lost since the last GAP_B: count, TTI of the first and of the last loss. Reset none. -/
  gapB : Option (Nat × Nat × Nat) := none
  /-- [R561, 23] Class C records lost since the last GAP_C, as gapB. Reset none. -/
  gapC : Option (Nat × Nat × Nat) := none
  /-- [R554, 23] A class A report waits for the hub link. Reset false. -/
  reports : Bool := false
  deriving DecidableEq, Repr

/-! ## Fuses and start-up -/

/-- The fuse block (R580, R581, R1, R366). -/
structure Fuses where
  /-- [R1, 00; R580, 24] The part. Reset DESIGN CHOICE UL8512 (log 5). -/
  variant : Variant := .ul8512
  /-- [R580, 24] DEV_IDCODE.VERSION, 4 bits. Reset DESIGN CHOICE 1 (log 5). -/
  version : Nat := 1
  /-- [R580, 24] DEV_LIFECYCLE.STATE as last re-read, 3 bits. Reset DESIGN CHOICE 0 BLANK (log 5). -/
  lifecycle : Nat := 0
  /-- [R581, 24] DEV_LIFECYCLE.TARGET: the fuses' own state, applied when re-read. Reset DESIGN CHOICE 0 (log 5). -/
  target : Nat := 0
  /-- [R581, 24] Target of an accepted request whose fuses are being programmed. Reset none. -/
  programming : Option Nat := none
  /-- [R580, 24] 64-bit serial number. Reset DESIGN CHOICE 0 (log 5). -/
  serial : Nat := 0
  /-- [R366, 13] Die identity words ID0 of CD0 to CD3 and BD, keyed 0 to 4. Reset DESIGN CHOICE: TYPE and POSITION
  correct, the rest 0 (log 5). -/
  id0 : Tbl Nat := []
  /-- [R366, 13] Die identity words ID1, as id0. Reset DESIGN CHOICE 0 (log 5). -/
  id1 : Tbl Nat := []
  /-- [R482, 19] The LEAD_SEL strap pin. Reset DESIGN CHOICE low (log 5). -/
  leadSel : Bool := false
  /-- [R396, 14] The 256-bit fuse key KEY_F, absent when not programmed. Reset DESIGN CHOICE absent (log 5). -/
  keyF : Option Nat := none
  deriving DecidableEq, Repr

/-- An unrecoverable fault that waits for its sites to stop before Safe is entered (R52). -/
structure SafeWait where
  /-- SAFE_CAUSE to record (R52, R56). -/
  cause : Nat
  /-- Clock at the stop requests. -/
  since : Nat
  /-- The largest SEQ_STOPBOUND among the stopped sites plus 1 µs, in ticks. -/
  bound : Nat
  deriving DecidableEq, Repr

/-- Start-up and reset state beyond the DEV registers (R35 to R64). -/
structure Start where
  /-- [R35, 02] The hub supplies are valid. Reset false: POR has just been asserted. -/
  suppliesValid : Bool := false
  /-- [R38, 02] The hub is held in power-on reset. Reset true. -/
  inPor : Bool := true
  /-- [R59, 02] DEV_RST_N is held low after an accepted DRST. Reset false. -/
  rstLow : Bool := false
  /-- [R47, 02] The active die set, 4 bits. Reset 0: no start request yet. -/
  active : Nat := 0
  /-- [R36, 02] The base die is released. Reset false. -/
  bdReleased : Bool := false
  /-- [R36, 02] Channel dies released, 4 bits. Reset 0. -/
  cdReleased : Nat := 0
  /-- [R46, 02] The base die's start-up BIST has passed. Reset false. -/
  bdBist : Bool := false
  /-- [R332, 12] HBM4 PHY training has passed. Reset false. -/
  hbmTrained : Bool := false
  /-- [R363, 13] The hub–base link is trained. Reset false. -/
  hubTrained : Bool := false
  /-- [R366, 13] Channel dies whose start-up BIST has passed, 4 bits. Reset 0. -/
  cdBist : Nat := 0
  /-- [R362, 13] Channel dies whose wide link is trained, 4 bits. Reset 0. -/
  cdTrained : Nat := 0
  /-- [R450, 17] Channel dies whose PLLs have locked in PLL_LOCK, 4 bits. Reset 0. -/
  pllDone : Nat := 0
  /-- [R65, 02] Channel dies whose calibration is loaded, 4 bits. Reset 0. -/
  calDone : Nat := 0
  /-- [R245, 08] Start-up deskew measurements done on each die, 0 to 64 (16 rounds of 4 groups). Reset 0. -/
  dskDone : Tbl Nat := []
  /-- [R42, 02] The hub self-check has failed; start requests are ignored until POR or DRST. Reset false. -/
  selfTestFail : Bool := false
  /-- [R60, 02] A host device reset waits for every channel to park. Reset false. -/
  hostRst : Bool := false
  /-- [R52, 02] An unrecoverable fault's pending entry into Safe. Reset none. -/
  safeWait : Option SafeWait := none
  /-- [R56, 02] Causes of Safe that were recorded at the entry or sampled in Safe. Reset none. -/
  causes : List Nat := []
  deriving DecidableEq, Repr

/-! ## Sentry and the Instant Fabric -/

/-- The image that runs, or is being loaded (R85, R86). -/
inductive ImgSrc where
  | none | romDefault | slotA | slotB
  deriving DecidableEq, Repr

/-- Sentry and the Instant Fabric (R67 to R93). -/
structure Snt where
  /-- [R72, 03] The image that runs. Reset none. -/
  running : ImgSrc := .none
  /-- [R86, 03] The image loaded or to be started next. Reset none. -/
  loaded : ImgSrc := .none
  /-- [R71, 03] The running image's outputs. Reset all 0. -/
  out : ImgOut := {}
  /-- [R71, 03] Word last presented on MBOX_TO, 32 bits. Reset 0. -/
  mboxTo : Nat := 0
  /-- [R71, 03] MBOX_TO_STB pulses given since reset. Reset 0. -/
  mboxToStb : Nat := 0
  /-- [R80, 03] PIN_CLAIM of the running image, 64 bits. Reset 0. -/
  pinClaim : Nat := 0
  /-- [R80, 03] HOLD_MASK of the running image, 64 bits. Reset 0. -/
  holdMask : Nat := 0
  /-- [R80, 03] PORT_CLAIM of the running image, 4 bits. Reset 0. -/
  portClaim : Nat := 0
  /-- [R81, R89, 03] Pins held at their last value during a swap: mask, levels and enables. Reset 0. -/
  held : Nat := 0
  /-- [R89, 03] Levels of the held pins. Reset 0. -/
  heldOut : Nat := 0
  /-- [R89, 03] Output enables of the held pins. Reset 0. -/
  heldOe : Nat := 0
  /-- [R89, 03] The swap has passed its CRC re-check and the new image is being loaded. Reset false. -/
  swapLoading : Bool := false
  /-- [R90, 03] The new image failed to load and the previous slot is being reloaded. Reset false. -/
  swapReload : Bool := false
  /-- [R90, 03] The slot that ran when the swap began. Reset none. -/
  swapOld : ImgSrc := .none
  /-- [R73, 03] PE_SAFE_N lines driven low, one bit per group. Reset 0xFFFF. -/
  asserted : Nat := 0xFFFF
  deriving DecidableEq, Repr

/-! ## Time -/

/-- The time-of-day snapshot of one master (R105). -/
structure Tod where
  /-- The open order: 0 none, 1 tick first, 2 seconds first (R105). -/
  armed : Nat := 0
  /-- Latched tick (R105). -/
  tick : Nat := 0
  /-- Latched seconds (R105). -/
  sec : Nat := 0
  deriving DecidableEq, Repr

/-- The time unit beyond the TIM registers (R94 to R108). -/
structure TimeU where
  /-- [R94, 04] TTI, 64 bits. Reset 0. -/
  tti : Nat := 0
  /-- The model's own field: ticks since reset, by which waits are measured across a new TTI (R98). Reset DESIGN CHOICE 0
  (log 41). -/
  clock : Nat := 0
  /-- [R102, 04] TIM_SEC, 40 bits. Reset 0. -/
  sec : Nat := 0
  /-- [R102, 04] TIM_TICK, 30 bits. Reset 0. -/
  tick : Nat := 0
  /-- [R102, 04] A second mark that belongs to the present tick has not been applied yet. Reset false. -/
  markDue : Bool := false
  /-- [R107, 04] The present tick is the tick of a second mark. Reset false. -/
  markTick : Bool := false
  /-- [R107, 04] A value is being staged since the last GO. Reset false. -/
  staging : Bool := false
  /-- [R107, 04] A second mark has fallen since the first staging write. Reset false. -/
  stagingMark : Bool := false
  /-- [R106, 04] The value that waits for its mark, 40 bits. Reset 0. -/
  staged : Nat := 0
  /-- [R106, 04] GO was sampled in this very tick, so a mark of this tick does not apply the value. Reset false. -/
  goNow : Bool := false
  /-- [R98, 04] An acquisition is pending. Reset true: one begins after hub POR. -/
  acqPending : Bool := true
  /-- [R98, 04] The source being acquired, 2 bits. Reset 0. -/
  acqSrc : Nat := 0
  /-- [R99, 04] Sources present: bit 0 REFCLK100, bit 1 STR0, bit 2 STR1. Reset DESIGN CHOICE 1 (log 6). -/
  present : Nat := 1
  /-- [R100, 04] The ticks run from OSC100. Reset true. -/
  osc : Bool := true
  /-- [R103, R485, 04] The next mark that the link has named: its tick, and the seconds that follow it. Reset none. -/
  linkMark : Option (Nat × Nat) := none
  /-- [R105, 04] Time-of-day snapshots by master. Reset none. -/
  tod : Tbl Tod := []
  deriving DecidableEq, Repr

/-- An active output pulse of a TRIG_OUT (R112, R507). -/
structure Pulse where
  /-- Die of the table: 0 HD, 2 to 5 CD0 to CD3. -/
  die : Nat
  /-- 0 an HGPIO pin, 1 a trigger line. -/
  kind : Nat
  /-- Pin or line. -/
  line : Nat
  /-- Clock of the first tick after the pulse. -/
  until' : Nat
  deriving DecidableEq, Repr

/-- The schedule tables beyond their entries' words (R109 to R115). Tables are numbered HD 0, BD 1, CD0 to CD3 2 to 5. -/
structure SchedU where
  /-- [R113, 04] Linked copies: 256 × table + entry of the copy, to its hub entry. Reset none. -/
  links : Tbl Nat := []
  /-- [R113, 04] Hub entries whose copies are not yet placed. Reset none. -/
  placing : List Nat := []
  /-- [R507, 20] Active TRIG_OUT pulses. Reset none. -/
  pulses : List Pulse := []
  deriving DecidableEq, Repr

/-! ## Prajo cores -/

/-- What a control pipeline does (R160, R161, R170 to R172, R183). -/
inductive Ctl where
  /-- Not started: no program of an admitted site, or the hub controller not started. -/
  | off
  /-- Issues instructions. -/
  | run
  /-- In WAITE on an input, with its deadline if any, to write rd (R170, R171). -/
  | waitE (inp : Nat) (dl : Option Nat) (rd : Nat) (len : Nat)
  /-- In WAITT for a target TTI, to write rd (R172). -/
  | waitT (target rd : Nat) (len : Nat)
  /-- PUSHV stalled on a full VPQ, holding the word (R129, R176). -/
  | pushV (w : DWord)
  /-- FENCE waiting for earlier accesses (R169). -/
  | fence
  /-- Stopped by CEND (R183). -/
  | ended
  /-- Stopped by a stop request, a fault, a park or a reset (R142, R151). -/
  | stopped
  deriving DecidableEq, Repr

/-- What a vector pipeline does (R137, R142, R211, R218, R347). -/
inductive Vec where
  | off
  | run
  /-- Waits for the admission of the segment at the boundary entry (R347). -/
  | admitting (bidx : Nat)
  /-- Stopped by a stop request, a fault, END or a park. -/
  | stopped
  deriving DecidableEq, Repr

/-- A load issued and not yet complete (R160, R167). -/
structure Load where
  /-- Order of issue among the pipeline's accesses (R146). -/
  seq : Nat
  /-- Physical device address. -/
  addr : Nat
  /-- Bytes: 1, 2, 4 or 8. -/
  size : Nat
  /-- Zero-extend (R167). -/
  uns : Bool
  /-- Destination is an f register (R167). -/
  isF : Bool
  /-- Destination number. -/
  rd : Nat
  /-- Address of the LD, for a late fault. -/
  pc : Nat
  /-- Virtual address as the program gave it. -/
  va : Nat
  deriving DecidableEq, Repr

/-- A store in the store buffer (R160, R167). -/
structure StoreB where
  /-- Order of issue among the pipeline's accesses (R146). -/
  seq : Nat
  /-- Physical device address. -/
  addr : Nat
  /-- Bytes: 1, 2, 4 or 8. -/
  size : Nat
  /-- The value stored. -/
  data : Nat
  /-- Address of the ST, for a late fault. -/
  pc : Nat
  /-- Virtual address as the program gave it. -/
  va : Nat
  deriving DecidableEq, Repr

/-- One tester cycle in the VIQ, APG symbols resolved (R132, R203, R263). -/
structure VCyc where
  /-- Symbols of the pin group, 4 bits per position (R197). -/
  syms : Nat
  /-- Timing-set selection (R202). -/
  ts : Nat
  /-- ax[XS] the cycle used (R263). -/
  x : Nat
  /-- ay[YS] the cycle used (R263). -/
  y : Nat
  deriving DecidableEq, Repr

/-- A segment boundary marker (R217, R218). -/
structure Bnd where
  /-- Boundary table entry. -/
  bidx : Nat
  /-- The END boundary. -/
  isEnd : Bool
  deriving DecidableEq, Repr

/-- One VIQ entry (R132). -/
structure VEnt where
  /-- One to eight cycles; none for the place of a match-loop's block (R211). -/
  cyc : List VCyc
  /-- The boundary before its first cycle. -/
  bnd : Option Bnd
  /-- SIG PIN arrivals sent when its first cycle begins: (target, input) (R199). -/
  sigs : List (Nat × Nat)
  /-- The place of the match-loop's block (R211). -/
  blk : Bool
  deriving DecidableEq, Repr

/-- A snapshot of vector state at a boundary (R218). -/
structure Snap where
  /-- The boundary. -/
  bnd : Bnd
  /-- The vector pipeline's own resume address. -/
  vpc : Nat
  /-- lc0 to lc7. -/
  lc : Tbl Nat
  /-- ax0 to ax3. -/
  ax : Tbl Nat
  /-- ay0 to ay3. -/
  ay : Tbl Nat
  /-- d0 to d3. -/
  dg : Tbl DWord
  deriving DecidableEq, Repr

/-- A match-loop: its settings, its block and its progress at the pins (R210 to R216). -/
structure MLoop where
  /-- lc index. -/
  lci : Nat
  /-- COND. -/
  cond : Bool
  /-- COMB. -/
  comb : Bool
  /-- TMO. -/
  tmo : Nat
  /-- SEGIT. -/
  segit : Bool
  /-- MEV. -/
  mev : Nat
  /-- MEVON. -/
  mevon : Nat
  /-- BIDX. -/
  bidx : Nat
  /-- Address of the MLOOP. -/
  vpc : Nat
  /-- Pass-count limit N (R210). -/
  n : Nat
  /-- MEND has closed the block. -/
  closed : Bool
  /-- The block's entries. -/
  block : List VEnt
  /-- Passes completed at the pins. -/
  passes : Nat
  /-- Entries of the present pass still to play. -/
  left : List VEnt
  /-- A compare was judged in the present pass. -/
  seen : Bool
  /-- A compare failed in the present pass. -/
  failed : Bool
  deriving DecidableEq, Repr

/-- An emitting instruction in progress: its fields, the rows still to emit with their timing sets, and how often the
first of them still repeats (R132, R201). -/
structure Job where
  /-- The instruction's fields. -/
  em : Emit
  /-- Rows, symbols by position and timing set; the first is the next. -/
  rows : List (Nat × Nat)
  /-- Repeats of the first row still to emit, at least 1. -/
  rep : Nat
  /-- VPC after the instruction. -/
  next : Nat
  deriving DecidableEq, Repr

/-- A record of the Curtain store (R136, R222). -/
structure CRec where
  /-- The rows, symbols by position. -/
  rows : List Nat
  /-- Timing set. -/
  ts : Nat
  /-- Repeats. -/
  rep : Nat
  deriving DecidableEq, Repr

/-- A fail record (R261, R262). -/
structure FRec where
  /-- TYPE. -/
  ty : Nat
  /-- PHASE. -/
  phase : Nat
  /-- HALF. -/
  half : Nat
  /-- SMISS. -/
  smiss : Bool
  /-- CNFL. -/
  cnfl : Bool
  /-- ABORT. -/
  abort : Bool
  /-- SITE. -/
  site : Nat
  /-- CORE within the die. -/
  core : Nat
  /-- DIE. -/
  die : Nat
  /-- REP. -/
  rep : Nat
  /-- BIDX. -/
  bidx : Nat
  /-- CYCLE. -/
  cycle : Nat
  /-- TS. -/
  ts : Nat
  /-- Word 2. -/
  w2 : Nat
  /-- Word 3. -/
  w3 : Nat
  deriving DecidableEq, Repr

/-- The part of a sequencer core's capture path that belongs to the core (R264, R265, R267). -/
structure Cap where
  /-- [R264, 09] FAIL records still open to merging, at most one per HALF. Reset none. -/
  opened : List FRec := []
  /-- [R265, 09] Core fail FIFO, at most 512 records. Reset empty. -/
  fifo : List FRec := []
  /-- [R267, 09] Records lost since the last LOST record: count, cycle and boundary entry of the first. Reset none. -/
  lost : Option (Nat × Nat × Nat) := none
  /-- [R262, 09] Records of the core stored since admission, END excluded. Reset 0. -/
  stored : Nat := 0
  /-- [R262, 09] Records of the core lost since admission. Reset 0. -/
  lostAll : Nat := 0
  /-- [R273, 09] The core has written its END record since it last ran. Reset false. -/
  ended : Bool := false
  /-- [R546, 22] Further records for which an injection makes the FIFO act as full. Reset 0. -/
  stuffed : Nat := 0
  deriving DecidableEq, Repr

/-- The vector half of a sequencer core (R127, R132, R136, R206 to R219). -/
structure VCore where
  /-- [R127, 05] VPC, 48 bits. Reset 0 CORE. -/
  vpc : Nat := 0
  /-- [R127, 05] lc0 to lc7, 32 bits. Reset 0 CORE. -/
  lc : Tbl Nat := []
  /-- [R127, 05] ax0 to ax3, 32 bits. Reset 0 CORE. -/
  ax : Tbl Nat := []
  /-- [R127, 05] ay0 to ay3, 32 bits. Reset 0 CORE. -/
  ay : Tbl Nat := []
  /-- [R127, 05] d0 to d3, 64 bits. Reset 0 CORE. -/
  dg : Tbl DWord := []
  /-- [R127, R204, 05] Scramble table, 64 entries of 32 bits. Reset 0 CORE. -/
  scr : Tbl Nat := []
  /-- [R127, 05] Vector parameter queue, at most 16 words, oldest first. Reset empty CORE. -/
  vpq : List DWord := []
  /-- [R137, 05] The vector pipeline's state. Reset off CORE. -/
  vec : Vec := .off
  /-- [R132, 05] The VIQ, at most 2,048 entries, oldest first. Reset empty CORE. -/
  viq : List VEnt := []
  /-- [R217, 07] Boundary marked and not yet carried by a cycle. Reset none CORE. -/
  mark : Option Bnd := none
  /-- [R199, 07] SIG PIN arrivals that wait for the next emitted cycle. Reset none CORE. -/
  pinSigs : List (Nat × Nat) := []
  /-- [R218, 07] Snapshots held, at most 16, oldest first. Reset none CORE. -/
  snaps : List Snap := []
  /-- [R211, 07] The match buffer. Reset empty CORE. -/
  mloop : Option MLoop := none
  /-- [R220, 07] Segment length counter, in cycles. Reset 0 CORE. -/
  segLen : Nat := 0
  /-- [R136, 05] Curtain records of the Curtain store. Reset empty CORE. -/
  curtain : List CRec := []
  /-- [R136, 05] Rocker records of the Curtain store. Reset empty CORE. -/
  rocker : List CRec := []
  /-- [R222, 07] Next row to play of the Curtain or Rocker: (record, repeat, row). Reset 0 CORE. -/
  pos : Nat × Nat × Nat := (0, 0, 0)
  /-- [R206, 07] Pin source table by die channel, 16 bits. Reset 0 CORE. -/
  psrc : Tbl Nat := []
  /-- [R221, 07] Boundary table: virtual address and entries, from the BTAB declaration. Reset (0, 0) CORE. -/
  btab : Nat × Nat := (0, 0)
  /-- [R142, 05] The snapshot of the boundary the last stop took. Reset none CORE. -/
  stopSnap : Option Snap := none
  /-- [R261, 09] Boundary entry that opened the segment at the pins. Reset 0 CORE. -/
  segBidx : Nat := 0
  /-- [R258, 09] Phase at the pins: 0 pattern, 1 Curtain, 2 Rocker, 3 nothing. Reset 3 CORE. -/
  phase : Nat := 3
  /-- [R132, R201, 05] The emitting instruction whose rows are not all written yet. Reset none CORE. -/
  job : Option Job := none
  /-- [R231, 08] Site cycle number of the next cycle at the pins. Reset 0 CORE. -/
  cyc : Nat := 0
  /-- [R218, 07] Snapshot of the boundary that opened the segment at the pins. Reset none CORE. -/
  openSnap : Option Snap := none
  /-- [R225, 07] The vector pipeline has stopped at a fault or an underrun. Reset false CORE. -/
  faulted : Bool := false
  /-- [R347, 12] Virtual pages pinned for the segment being executed. Reset none CORE. -/
  pins : List (Nat × Nat) := []
  deriving DecidableEq, Repr

/-- One Prajo controller: a sequencer core (numbers 0 to 63) or the hub controller (64) (R127, R128). -/
structure Core where
  /-- [R127, 05] g1 to g31, 64 bits; g0 is not stored. Reset 0 CORE. -/
  g : Tbl DWord := []
  /-- [R127, 05] f0 to f31, 64 bits. Reset +0.0 CORE. -/
  f : Tbl DWord := []
  /-- [R191, 06] FPSTAT, 18 bits. Reset 0 CORE. -/
  fpstat : Nat := 0
  /-- [R127, R128, 05] SEQ_PC or HUBC_PC, 48 bits. Reset 0 CORE. -/
  pc : Nat := 0
  /-- [R160, 06] The control pipeline's state. Reset off CORE. -/
  ctl : Ctl := .off
  /-- [R516, 21] Halted for debug. Reset false CORE. -/
  halted : Bool := false
  /-- [R519, 21] STATE before the halt, restored at the resume. Reset 0 CORE. -/
  haltState : Nat := 0
  /-- [R520, 21] A debug step is in progress. Reset false CORE. -/
  stepping : Bool := false
  /-- [R182, 06] TAG of the BRK that halted the core. Reset 0 CORE. -/
  tag : Nat := 0
  /-- [R182, 06] The core is halted at a BRK, so a resume continues at PC + 8. Reset false CORE. -/
  atBrk : Bool := false
  /-- [R514, R523, 21] A debug request is on its way to the hub sampler. Reset false CORE. -/
  dbgReq : Bool := false
  /-- [R519, 21] Resumed from a debug halt and not yet at LEAD_TARGET. Reset false CORE. -/
  refilling : Bool := false
  /-- [R523, 21] Words of the present instruction that the comparators have judged, 0 to 2. Reset 0 CORE. -/
  fetched : Nat := 0
  /-- [R159, 06] HI21 of a prefix whose instruction has not executed. Reset none CORE. -/
  pfx : Option Nat := none
  /-- [R160, 06] Loads issued and not complete. Reset none CORE. -/
  loads : List Load := []
  /-- [R160, 06] Store buffer, at most 8. Reset empty CORE. -/
  stores : List StoreB := []
  /-- [R146, 05] Accesses issued so far, for their order. Reset 0 CORE. -/
  accSeq : Nat := 0
  /-- [R148, 05] The instruction cache may hold lines. Reset false CORE. -/
  icache : Bool := false
  /-- [R181, 06] Trace packets waiting, at most 8. Reset none CORE. -/
  trace : List Rec := []
  /-- [R119, 04] The hub controller's pending counters e0 to e15 (a core's are in SEQ_EVI_CNT). Reset 0. -/
  evi : Tbl Nat := []
  /-- [R184, 06] HUBC_EPC, 48 bits, hub only. Reset 0 DRST. -/
  epc : Nat := 0
  /-- [R184, 06] HUBC_ECAUSE, 10 bits, hub only. Reset 0 DRST. -/
  ecause : Nat := 0
  /-- [R184, 06] HUBC_EVEC written by software, hub only; none reads the ROM handler's address. Reset none DRST. -/
  evec : Option Nat := none
  /-- [R127, 05] The vector half. Reset as its fields CORE. -/
  v : VCore := {}
  /-- [R265, 09] The core's capture path. Reset as its fields CORE. -/
  cap : Cap := {}
  deriving DecidableEq, Repr

/-! ## Sites -/

/-- What a site's controller holds beyond the site entry's words (R307 to R326). -/
structure SiteRt where
  /-- [R315, 11] A stop request sampled and not yet applied: cause, clock at its sampling. Reset none. -/
  req : Option (Nat × Nat) := none
  /-- [R142, 05] A stop has been applied and its boundary not yet reached. Reset false. -/
  applied : Bool := false
  /-- [R135, R225, 05] Site cycle at which an underrun, or a stop beyond the last row held, ends the segment. Reset
  none. -/
  stopCyc : Option Nat := none
  /-- [R277, 09] Stop causes fail capture has already requested since admission. Reset none. -/
  once : List Nat := []
  /-- [R215, 07] Match-loop outcomes that are not yet known: MATCH, MEV, MEVON, TMO, N and the loop's last cycle. Reset
  none. -/
  outcomes : List (Bool × Nat × Nat × Nat × Nat × Nat) := []
  /-- [R214, 07] The site's match-loop at the pins: first pass whose condition held. Reset none. -/
  held : Option Nat := none
  /-- [R320, 11] A core has faulted since the Rocker began. Reset false. -/
  prefillFault : Bool := false
  /-- [R231, R321, 08] Site cycle number of the first cycle after the next start or resume (0, or a boundary's). Reset
  0. -/
  startCyc : Nat := 0
  /-- [R217, 07] Site cycle number of the boundary that opened the segment at the pins. Reset 0. -/
  segCyc : Nat := 0
  deriving DecidableEq, Repr

/-- A wait after a yield, by resource (R325). -/
structure BreachWait where
  /-- Resource (R323). -/
  res : Nat
  /-- Clock at which the wait ends. -/
  until' : Nat
  deriving DecidableEq, Repr

/-! ## Timing generation and ports -/

/-- The lane levels of one channel (R235, R250). -/
structure Lane where
  /-- PE_D level at the end of the last cycle, before inversion. -/
  d : Bool := false
  /-- PE_E level at the end of the last cycle. -/
  e : Bool := false
  /-- The last cycle drove (R235). -/
  drove : Bool := false
  /-- Time of the last PE_D edge, in tu before the end of the last cycle, if within 500. -/
  lastD : Option Nat := none
  /-- Time of the last PE_E edge, as lastD. -/
  lastE : Option Nat := none
  deriving DecidableEq, Repr

/-- Timing generators, deskew and ports beyond their registers (R229 to R251). -/
structure Tgn where
  /-- [R229, 08] Clock at which each running period domain started, keyed 16 × die + domain. Reset none. -/
  pdStart : Tbl Nat := []
  /-- [R250, 08] Lane levels by channel. Reset off. -/
  lanes : Tbl Lane := []
  /-- [R79, 03] Safe code each parked channel was parked with, 3 bits by channel. Reset 0. -/
  parkCode : Tbl Nat := []
  /-- [R244, 08] Accepted measurements of each channel, newest first, at most 64: the four lane values. Reset none. -/
  avg : Tbl (List (List Int)) := []
  /-- [R244, 08] Factory calibration of each channel, four lanes in tu. Reset none. -/
  factory : Tbl (List Int) := []
  /-- [R246, 08] Group under measurement of each die outside start-up. Reset none. -/
  sweep : Tbl Nat := []
  /-- [R246, 08] Clock at each group's last requested sweep, keyed 4 × die + group. Reset none. -/
  sweepAt : Tbl Nat := []
  /-- [R249, 08] Die temperature at each group's last accepted measurement, keyed 4 × die + group. Reset none. -/
  tempAt : Tbl Int := []
  /-- [R265, 09] Fail staging, keyed 64 × die + site, oldest first. Reset empty. -/
  staging : Tbl (List FRec) := []
  /-- [R265, 09] Core of each die that the record generator serves next. Reset 0. -/
  turn : Tbl Nat := []
  /-- [R276, 09] Site cycle last counted in FCNT, keyed 64 × die + site. Reset none. -/
  fcLast : Tbl Nat := []
  /-- [R278, 09] Clock of the last arrival sent for a fail condition, keyed 8 × core + SEL. Reset none. -/
  evtAt : Tbl Nat := []
  deriving DecidableEq, Repr

/-! ## The pattern translation unit -/

/-- One TLB entry (R345). -/
structure Tlb where
  /-- Root number. -/
  root : Nat
  /-- Virtual page address (page base). -/
  va : Nat
  /-- Page of 2 MiB, else 64 KiB. -/
  big : Bool
  /-- The second-level entry word. -/
  pte : Nat
  /-- Cores that hold the entry pinned. -/
  pins : List Nat
  /-- The core whose 48 reserved entries hold it, or 64 for the control-pipeline share. -/
  own : Nat
  /-- A pinned entry that an invalidation has matched: it stays for its segment alone, and is dropped at its release
  (R352). -/
  stale : Bool := false
  deriving DecidableEq, Repr

/-- The PTU beyond its registers (R340 to R353). -/
structure Ptu where
  /-- [R345, 12] TLB of each group of four cores, most recently used first. Reset empty. -/
  tlb : Tbl (List Tlb) := []
  /-- [R347, 12] Admissions in progress by core: boundary entry. Reset none. -/
  adm : Tbl Nat := []
  /-- [R352, 12] The invalidation in progress: scope, root, first page, pages. Reset none. -/
  inv : Option (Nat × Nat × Nat × Nat) := none
  deriving DecidableEq, Repr

/-! ## Host interface: interrupts -/

/-- MSI-X state (R501). -/
structure Msix where
  /-- [R501, 20] MSI-X Enable of PF, VF0 and VF1, 3 bits. Reset 0. -/
  enable : Nat := 0
  /-- [R501, 20] Function Mask of PF, VF0 and VF1, 3 bits. Reset 0. -/
  fmask : Nat := 0
  /-- [R501, 20] Per-vector Mask bits, 64 bits. Reset all ones (PRESUMED, PCIe; log 9). -/
  vmask : Nat := 2 ^ 64 - 1
  /-- [R501, 20] MSI-X Pending Bits, 64 bits. Reset 0. -/
  pba : Nat := 0
  /-- [R501, 20] Vectors of the messages sent since reset, newest first. Reset none. -/
  sent : List Nat := []
  deriving DecidableEq, Repr

/-! ## The repair solver -/

/-- A repair map as loaded at admission (R284). -/
structure RMap where
  /-- Number of DUTs. -/
  ndut : Nat
  /-- ROWMASK. -/
  rowmask : Nat
  /-- COLMASK. -/
  colmask : Nat
  /-- REGMASK. -/
  regmask : Nat
  /-- Regions per DUT. -/
  nreg : Nat
  /-- PREF. -/
  pref : Bool
  /-- Pin table entries with VALID = 1, by index. -/
  pins : Tbl Nat
  /-- Region table entries. -/
  regions : List Nat
  /-- Row pool sizes. -/
  rpool : List Nat
  /-- Column pool sizes. -/
  cpool : List Nat
  deriving DecidableEq, Repr

/-- A spare assigned to a line (R282, R290). -/
structure RLine where
  /-- Region. -/
  region : Nat
  /-- 0 a row, 1 a column. -/
  kind : Nat
  /-- Row or column. -/
  line : Nat
  /-- From the share group's pool. -/
  shared : Bool
  deriving DecidableEq, Repr

/-- One device under test in a context (R282 to R293). -/
structure Dut where
  /-- Stored cells: region, row, column. -/
  cells : List (Nat × Nat × Nat) := []
  /-- Lines assigned in line, oldest first. -/
  lines : List RLine := []
  /-- UNREPAIRABLE. -/
  unrep : Bool := false
  /-- UREASON. -/
  reason : Nat := 0
  /-- UREG. -/
  ureg : Nat := 0
  /-- UNREPAIRABLE was decided before the final solve. -/
  early : Bool := false
  /-- OVERFLOW. -/
  overflow : Bool := false
  /-- LOST. -/
  lost : Bool := false
  /-- DROP. -/
  drop : Bool := false
  deriving DecidableEq, Repr

/-- A site's solver context (R287, R288). -/
structure RCtx where
  /-- The map. -/
  map : RMap
  /-- The site's cores. -/
  cores : List Nat
  /-- The DUTs in ascending number. -/
  duts : List Dut
  /-- Cores ended for the current stop (R292). -/
  ended : List Nat := []
  /-- Counts of the last END record of each core: stored and lost (R292). -/
  ends : Tbl (Nat × Nat) := []
  /-- A SOLVE has been accepted for the current stop (R296). -/
  solveReq : Bool := false
  /-- The stop request of R294 has been made since admission. -/
  stopAsked : Bool := false
  /-- TRIGGER of the queued solve (Table 3). -/
  trigger : Nat := 0
  /-- Solves since admission (Table 3). -/
  seq : Nat := 0
  deriving DecidableEq, Repr

/-- A cell operation that waits for the cell engine (R289). -/
structure CellOp where
  /-- Site. -/
  site : Nat
  /-- DUT. -/
  dut : Nat
  /-- Region, row, column. -/
  cell : Nat × Nat × Nat
  deriving DecidableEq, Repr

/-- The repair solver beyond its registers (R282 to R306). -/
structure Rps where
  /-- [R287, 10] Contexts by site. Reset none DIE of the base die. -/
  ctx : Tbl RCtx := []
  /-- [R289, 10] Intake buffer of each channel die, at most 32,768 records, oldest first. Reset empty DIE. -/
  intake : Tbl (List FRec) := []
  /-- [R289, 10] Cell operations of each die that wait for its cell engine, oldest first. Reset none DIE. -/
  ops : Tbl (List CellOp) := []
  /-- [R296, 10] Solve queue, oldest first: the tick of queueing and the site. Reset empty DIE. -/
  queue : List (Nat × Nat) := []
  /-- [R296, 10] Sites that a solve engine has taken, at most 8. Reset none DIE. -/
  busy : List Nat := []
  /-- [R546, 22] Further records for which an injection makes a die's intake act as full, by die. Reset none. -/
  stuffed : Tbl Nat := []
  deriving DecidableEq, Repr

/-! ## Maintenance: leases, BIST and injection -/

/-- The maintenance arbiter beyond BST_LEASE (R531 to R536). Leases are numbered 8 × unit code + class. -/
structure Lease where
  /-- [R533, 22] Queue of each lease, oldest first, at most 8: HOLDER and ARG. Reset empty. -/
  queue : Tbl (List (Nat × Nat)) := []
  /-- [R534, 22] Leases granted from a queue whose activities have not gone on yet: lease and HOLDER. Reset none. -/
  granted : List (Nat × Nat) := []
  deriving DecidableEq, Repr

/-! ## Die links -/

/-- One direction of a wide-link group, the hub link or a guest leg (R356 to R361). -/
structure FlitDir where
  /-- [R359, 13] Data flits held for replay, oldest first: SEQ and PAYLOAD. Reset none. -/
  held : List (Nat × BitVec 256) := []
  /-- [R359, 13] SEQ of the next new data flit, modulo 256. Reset DESIGN CHOICE 0 (log 25). -/
  top : Nat := 0
  /-- [R359, 13] SEQ of the next data flit to be sent or resent. Reset DESIGN CHOICE 0 (log 25). -/
  cursor : Nat := 0
  /-- [R359, 13] SEQ after the last data flit received in order. Reset DESIGN CHOICE 0 (log 25). -/
  want : Nat := 0
  /-- [R359, 13] The receiver discards data flits and its replay request is on its way. Reset false. -/
  asked : Bool := false
  /-- [R361, 13] Consecutive replays of the flit `want` that have been requested. Reset 0. -/
  tries : Nat := 0
  deriving DecidableEq, Repr

/-- A die link beyond its registers: 0 to 3 the wide links, 4 the hub link (R361, R369 to R371). -/
structure LinkRt where
  /-- [R361, 13] An end has declared the link DOWN and the hub has not sampled it: CAUSE and PORT. Reset none. -/
  down : Option (Nat × Nat) := none
  /-- [R369, 13] Clock at the LINK_LOSS tick while the link is DOWN in service. Reset none. -/
  since : Option Nat := none
  /-- [R370, 13] Wait limit of the recovery: largest SEQ_STOPBOUND plus 1 µs, in ticks. Reset 0. -/
  bound : Nat := 0
  /-- [R370, 13] Recovery has been requested, by AUTO_RECOVER or RECOVER. Reset false. -/
  wanted : Bool := false
  /-- [R370, 13] The D2D lease has been requested. Reset false. -/
  asked : Bool := false
  /-- [R370, 13] Training attempts begun by the recovery in progress. Reset 0. -/
  attempts : Nat := 0
  /-- [R545, 22] The loss comes of an injected silence, so its record carries INJ. Reset false. -/
  inj : Bool := false
  deriving DecidableEq, Repr

/-- The package network beyond its registers. -/
structure Links where
  /-- [R356, 13] Flit directions by number: 128 of the wide links, 2 of the hub link, 4 of the guest legs. Reset as
  FlitDir. -/
  dirs : Tbl FlitDir := []
  /-- [R361, 13] Links by number. Reset as LinkRt. -/
  links : Tbl LinkRt := []
  /-- [R377, 13] Guest legs being retrained after ISOLATE was cleared. Reset false. -/
  gdTraining : Bool := false
  /-- [R377, 13] The guest die's reset is held asserted. Reset true: it starts isolated. -/
  gdReset : Bool := true
  /-- [R546, 22] Clock until which an injection discards the flits received on a link, by link. Reset none. -/
  silent : Tbl Nat := []
  deriving DecidableEq, Repr

/-! ## Power -/

/-- The power manager beyond its registers (R460 to R478). -/
structure PowerU where
  /-- [R460, 18] Package power of the last updates, newest first, at most 10, in 0.1 W. Reset none. -/
  pkg : List Nat := []
  /-- [R478, 18] Guest power of the last updates, newest first, at most 10, in 0.1 W. Reset none. -/
  guest : List Nat := []
  /-- [R461, 18] Clock at the last telemetry frame by source: 0 to 3 CDn, 4 BD. Reset none. -/
  lastFrame : Tbl Nat := []
  /-- [R462, 18] Sensors at or above their warning, keyed 16 × source + sensor. Reset none. -/
  warm : List Nat := []
  /-- [R462, 18] Clock at the last TEMP_WARN record by source. Reset none. -/
  lastWarn : Tbl Nat := []
  /-- [R470, 18] Last measured wakes, newest first, at most 16, keyed 8 × die + state, in ns. Reset none. -/
  wakes : Tbl (List Nat) := []
  /-- [R470, 18] State that a wake in progress left, by die. Reset none. -/
  wakeFrom : Tbl Nat := []
  /-- [R463, 18] Over-temperature causes present, by DIE code. Reset none. -/
  hot : List Nat := []
  /-- [R463, 18] Supply causes present: 16 × DIE code + rail. Reset none. -/
  badRail : List Nat := []
  /-- [R546, 22] Clock until which an injection withholds the frames of a source, by source. Reset none. -/
  withheld : Tbl Nat := []
  deriving DecidableEq, Repr

/-! ## The fabric -/

/-- A block of a stream that the loader is in (R391 to R395). -/
structure LBlk where
  /-- Index in the stream. -/
  idx : Nat
  /-- TMASK selects this device. -/
  taken : Bool
  /-- KEYSEL of an encrypted block: false KEY_F, true KEY_B; none for plaintext. -/
  key : Option Bool
  /-- The 32-byte header. -/
  hdr : List Byte
  /-- Body bytes taken. -/
  pos : Nat
  /-- Body bytes left. -/
  left : Nat
  /-- GCM authentication register. -/
  auth : Nat
  /-- Ciphertext bytes not yet in a whole 16-byte block. -/
  part : List Byte
  /-- DEVID has been set and matched. -/
  devid : Bool
  /-- CTLMASK. -/
  ctlmask : Nat
  /-- Dies whose DIEPWR the block has set. -/
  pwr : Nat
  /-- A FRAMES packet in progress: next frame address and frames left. -/
  frames : Option (Nat × Nat)
  deriving DecidableEq, Repr

/-- The stream loader beyond its registers (R390 to R404). -/
structure Ldr where
  /-- [R398, 14] Bytes received and not yet parsed, oldest first. Reset empty. -/
  buf : List Byte := []
  /-- [R401, 14] Clock at the last byte of the claiming source. Reset 0. -/
  lastByte : Nat := 0
  /-- [R390, 14] LEN and NBLK, once the header is taken. Reset none. -/
  hdr : Option (Nat × Nat) := none
  /-- [R390, 14] Bytes parsed. Reset 0. -/
  pos : Nat := 0
  /-- [R390, 14] CRC-32C register. Reset as before the first byte. -/
  crc : Nat := 0xFFFFFFFF
  /-- [R391, 14] Index of the next block. Reset 0. -/
  nextBlk : Nat := 0
  /-- [R391, 14] The block in progress. Reset none. -/
  blk : Option LBlk := none
  /-- [R390, 14] The END word has been taken. Reset false. -/
  ended : Bool := false
  /-- [R401, 14] Frames this stream has written. Reset none. -/
  wrote : List Nat := []
  /-- [R392, R394, 14] DIECTL, CFG_FAB_PWR and the declarations as they were when the stream began. Reset none. -/
  saved : List Nat := []
  /-- [R401, 14] The stream is refused; its source's bytes are discarded. Reset false. -/
  refused : Bool := false
  deriving DecidableEq, Repr

/-- A transaction of the internal configuration port (R410 to R414). -/
structure Cfgi where
  /-- Region. -/
  reg : Nat
  /-- CRC-32C register of the DATA words. -/
  crc : Nat
  /-- Header of the packet in progress: kind and NFR. -/
  pkt : Option (Nat × Nat)
  /-- Frame address of the packet in progress. -/
  addr : Option Nat
  /-- Data words of the frame in progress, oldest first. -/
  words : List Nat
  /-- Frames written. -/
  wrote : List Nat
  /-- ERR of a failed transaction whose region is being blanked. -/
  err : Option Nat
  deriving DecidableEq, Repr

/-- The channel dies' fabric, its loader, reconfiguration and scrubbing beyond their registers (R380 to R423). -/
structure Fab where
  /-- [R418, 15] Clock at which the last scrub pass of each die began. Reset none. -/
  scrubAt : Tbl Nat := []
  /-- [R398, 14] The loader. Reset as Ldr DRST. -/
  ldr : Ldr := {}
  /-- [R386, R400, 14] Frames written since the die was last blank, keyed by FADDR, 8,192 bits each; a frame not listed
  is blank. Reset none DIE. -/
  frames : Tbl Nat := []
  /-- [R394, R400, 14] Dies that hold a DIEPWR declaration, 4 bits. Reset 0 DIE. -/
  declared : Nat := 0
  /-- [R397, 14] KEY_B, 256 bits. Kept by every reset. Reset none. -/
  keyB : Option Nat := none
  /-- [R417, 15] Golden signatures by column: die, type and column of a FADDR. Reset none DIE. -/
  golden : Tbl Nat := []
  /-- [R389, R419, 15] Bits of each frame that differ from what was written, which the frame's code shows, keyed by FADDR.
  Reset none DIE. -/
  upsets : Tbl (List Nat) := []
  /-- [R420, 15] Columns that are UNCORRECTABLE or UNLOCATED. Reset none DIE. -/
  bad : List Nat := []
  /-- [R418, 15] Column under the scrubber by die, 0 to 204 in ascending type and column. Reset none. -/
  scrub : Tbl Nat := []
  /-- [R418, 15] Columns skipped so far in the pass in progress, by die. Reset none. -/
  skipped : Tbl Nat := []
  /-- [R410, 15] Open transactions by die. Reset none DIE. -/
  cfgi : Tbl Cfgi := []
  /-- [R409, 15] Region of the last transaction, by die. Reset none DIE. -/
  lastReg : Tbl Nat := []
  /-- [R411, R414, 15] Regions whose border is engaged, 8 bits by die. Reset none DIE. -/
  border : Tbl Nat := []
  deriving DecidableEq, Repr

/-! ## Self-test -/

/-- A BIST slice that the engine runs (R537). -/
structure Slice where
  /-- Schedule entry. -/
  entry : Nat
  /-- It may queue for its leases: a GO with QUEUE (R539). -/
  queue : Bool
  /-- Lease classes still to request, ascending (R535). -/
  more : List Nat
  /-- Lease classes requested so far, the last perhaps still queued. -/
  held : List Nat
  /-- The idle condition holds and the resource is isolated (R537). -/
  testing : Bool
  /-- A spare has been assigned in this slice (R541). -/
  repaired : Bool
  deriving DecidableEq, Repr

/-- The BIST engine and the injection slots beyond their registers (R537 to R546). -/
structure Bist where
  /-- [R537, 22] The slice the engine runs. Reset none. -/
  run : Option Slice := none
  /-- [R539, 22] Attempts that wait for the engine, oldest first: the entry, and whether it is a GO with QUEUE. Reset
  none. -/
  waiting : List (Nat × Bool) := []
  /-- [R539, 22] Clock at which each entry's last attempt began. Reset none. -/
  last : Tbl Nat := []
  /-- [R541, 22] Spare rows in use, by bank. Reset none. -/
  spares : Tbl Nat := []
  deriving DecidableEq, Repr

/-! ## Clocks and the cascade -/

/-- The settings a PLL locked with (R448 to R450). -/
structure PllUse where
  /-- TB. -/
  tb : Nat
  /-- DITHER_EN. -/
  dither : Bool
  /-- The LFSR's seed. -/
  seed : Nat
  /-- PLL_OUT. -/
  out : Nat
  deriving DecidableEq, Repr

/-- PLLs beyond their registers (R445 to R456). PLLs are numbered 2 × die + PLL. -/
structure Clk where
  /-- [R450, 17] Settings in force, by PLL. Reset none: not locked since the die's reset. -/
  use : Tbl PllUse := []
  /-- [R451, 17] TTI at which the last step took effect, by PLL. Reset none. -/
  lastStep : Tbl Nat := []
  /-- [R455, 17] Dies whose relock has been accepted and has not ended. Reset none. -/
  relocking : List Nat := []
  /-- [R451, 17] Armed steps, by PLL: the new offset and the TTI. Reset none. -/
  armed : Tbl (Int × Nat) := []
  /-- [R447, 17] PLLs whose band table host software has written since the die's DIE reset. Reset none. -/
  hostBands : List Nat := []
  deriving DecidableEq, Repr

/-- A String command that waits for its tick (R489). -/
structure StrCmd where
  /-- Port it came by; 2 from the device itself. -/
  port : Nat
  /-- OP. -/
  op : Nat
  /-- Site mask. -/
  sites : Nat
  /-- EXEC_TTI. -/
  exec : Nat
  /-- It arrived after EXEC_TTI. -/
  late : Bool
  deriving DecidableEq, Repr

/-- The String endpoints beyond the CAS registers (R481 to R495). -/
structure Cas where
  /-- [R486, 19] Ports UP, 2 bits. Reset 0. -/
  ports : Nat := 0
  /-- [R491, 19] Clock at the last TIME frame of the upstream port. Reset none. -/
  lastFrame : Option Nat := none
  /-- [R491, 19] TTI of the holdover deadline. Reset none. -/
  deadline : Option Nat := none
  /-- [R489, 19] String commands that wait, oldest first. Reset none. -/
  cmds : List StrCmd := []
  /-- [R489, 19] EXEC_TTI of the command in flight that this device originated. Reset none. -/
  flight : Option Nat := none
  /-- [R489, 19] LATE of the last String command applied. Reset false. -/
  late : Bool := false
  /-- [R490, 19] The status slot last inserted. Reset none. -/
  slot : Option Nat := none
  /-- [R490, 19] Consecutive frames without the slot of each position. Reset 0. -/
  missing : Tbl Nat := []
  deriving DecidableEq, Repr
/-- One operation of a flash call (R433, R439). -/
inductive FOp where
  /-- Erase a sector. -/
  | erase (sector : Nat)
  /-- Program the line at an offset from a device address. -/
  | line (off src : Nat)
  /-- Program the line at an offset with bytes at hand. -/
  | data (off : Nat) (bytes : List Byte)
  /-- Program the last line of a copy: its offset and length, and STAMP. -/
  | trailer (base len stamp : Nat)
  deriving DecidableEq, Repr

/-- A service call in progress (R431 to R439). -/
structure FCall where
  /-- FUNC. -/
  func : Nat
  /-- CALLER. -/
  caller : Nat
  /-- ARG0, ARG1 with ARG2, and ARG3, as the call found them. -/
  arg0 : Nat
  /-- The source address. -/
  src : Nat
  /-- ARG3. -/
  arg3 : Nat
  /-- The line that the Instant Fabric port gives. -/
  given : List Byte
  /-- The copy that STORE_WRITE writes, and its STAMP. -/
  copy : Nat × Nat
  /-- Source line whose read fails. -/
  srcErr : Option Nat
  /-- It waits for the flash lease. -/
  waits : Bool
  /-- Operations still to do; the first is in progress. -/
  todo : List FOp
  /-- The bytes of the line being programmed. -/
  now : List Byte
  deriving DecidableEq, Repr

/-- The hub flash and its service engine beyond the FLC registers (R424 to R441). -/
structure Flc where
  /-- [R431, 16] The call that runs. Reset none. -/
  call : Option FCall := none
  /-- [R436, 16] Clock at which the operation in progress began. Reset 0. -/
  opAt : Nat := 0
  /-- [R436, 16] Sectors whose contents are undefined. Kept by every reset. Reset none. -/
  unsure : List Nat := []
  deriving DecidableEq, Repr
/-- The general pins beyond the GPI registers (R505 to R510). -/
structure Gpi where
  /-- [R508, 20] Clock at which each pattern-match unit's debounce count last restarted. Reset none. -/
  pmFrom : Tbl Nat := []
  /-- [R510, 20] Receive FIFO of each serial port, oldest first, at most 64. Reset empty. -/
  rx : Tbl (List Byte) := []
  /-- [R510, 20] Transmit FIFO of each serial port, oldest first, at most 64: bytes with the I²C actions of TXDATA. Reset
  empty. -/
  tx : Tbl (List Nat) := []
  deriving DecidableEq, Repr
/-- The TAP (R526). -/
structure Jtag where
  /-- [R526, 21] Instruction register, 8 bits. Reset 0x01 IDCODE, by TRST_N and POR. -/
  ir : Nat := 1
  /-- [R526, 21] What Capture-DR of DBGACC returns: DONE, ERR and the read data of the previous access. Reset 0. -/
  dr : Nat := 0
  deriving DecidableEq, Repr
/-- The register CRC engine beyond the RGP registers (R575 to R579). -/
structure Rgp where
  /-- [R576, 24] The masked values last read of the registers that a pass could not reach since, by address. Reset none. -/
  last : Tbl Nat := []
  /-- [R578, 24] A commit waits for the first pass that begins after it: 1 that pass has not begun, 2 it is in progress;
  0 none. Reset 0. -/
  commit : Nat := 0
  deriving DecidableEq, Repr

/-- The device: every unit. -/
structure Dev where
  /-- [R14 to R16, 00; R567, 24] Every register field that is not held elsewhere, keyed by bit address; a field not
  listed holds its reset value. Reset: nothing listed but DEV_START_CTRL.CD_MASK. -/
  regs : Tbl Nat := []
  /-- [R104, R274, R572] Snapshots of RS registers, keyed 2^24 × master + address. Reset none. -/
  snaps : Tbl Nat := []
  /-- [R571, 24] Writes to slow-domain registers that await the next OSC40K edge, oldest first. Reset none. -/
  slowWr : List (Nat × Nat) := []
  /-- [R571, 24] Copies of slow-domain registers as of the last OSC40K edge, by address. Reset none. -/
  slowCp : Tbl Nat := []
  /-- [R329, 12] Base SRAM and HBM, one byte per placed device address. Reset nothing listed. -/
  mem : List Host.Cell := []
  /-- [R58, 02] Times the HBM contents became undefined. Reset 0. -/
  hbmEpoch : Nat := 0
  /-- [R538, 22] Blocks of 64 MiB of HBM (768 × stack + block) that a BIST slice has zeroed since the contents last became
  undefined: their bytes not listed in `mem` are 0. Reset none. -/
  zeroed : List Nat := []
  /-- [R424, 16] Hub flash, one byte per flash offset; an unlisted byte is erased, 0xFF. Reset DESIGN CHOICE erased
  (log 7). -/
  flash : List Host.Cell := []
  /-- [R580, 24] Fuses. -/
  fuses : Fuses := {}
  /-- [R35, 02] Start-up. -/
  start : Start := {}
  /-- [R67, 03] Sentry. -/
  snt : Snt := {}
  /-- [R94, 04] Time. -/
  time : TimeU := {}
  /-- [R109, 04] Schedule tables. -/
  sched : SchedU := {}
  /-- [R127, R128, 05] The cores, 0 to 63, and the hub controller, 64. -/
  cores : Tbl Core := []
  /-- [R307, 11] Sites. -/
  sites : Tbl SiteRt := []
  /-- [R325, 11] Breach waits. Reset none. -/
  breach : List BreachWait := []
  /-- [R229, 08] Timing and ports. -/
  tgn : Tgn := {}
  /-- [R345, 12] The PTU. -/
  ptu : Ptu := {}
  /-- [R550, 23] The event log. -/
  evl : Evl := {}
  /-- [R501, 20] MSI-X. -/
  msix : Msix := {}
  /-- [R545, 22] The command being applied is an injected condition; its records carry INJ. Reset false. -/
  injNow : Bool := false
  /-- [R130, R131, 05] Arrivals sent and not yet at their sampler, keyed 16 × controller + input. Reset none. -/
  flight : Tbl Nat := []
  /-- The model's own field: how many free values have been used. Reset DESIGN CHOICE 0 (log 1). -/
  freeUsed : Nat := 0
  /-- [R282, 10] The repair solver. -/
  rps : Rps := {}
  /-- [R531, 22] The maintenance arbiter. -/
  lease : Lease := {}
  /-- [R356, 13] Die links. -/
  links : Links := {}
  /-- [R460, 18] The power manager. -/
  power : PowerU := {}
  /-- [R380, 14] The fabric. -/
  fab : Fab := {}
  /-- [R537, 22] Self-test and injection. -/
  bist : Bist := {}
  /-- [R442, 17] PLLs. -/
  clk : Clk := {}
  /-- [R481, 19] The String endpoints. -/
  cas : Cas := {}
  /-- [R424, 16] The hub flash's engine. -/
  flc : Flc := {}
  /-- [R505, 20] The general pins. -/
  gpi : Gpi := {}
  /-- [R526, 21] The TAP. -/
  jtag : Jtag := {}
  /-- [R575, 24] The register CRC engine. -/
  rgp : Rgp := {}
  /-- [R333, R546, 12] Stored words with bits that an injection has flipped, which the code shows at a read: by placed
  address, a multiple of 4, the number of flipped bits. Reset none. -/
  memErr : Tbl Nat := []
  deriving DecidableEq, Repr

/-- A sampled event of a tick: its precedence class P1 to P7, its OP or ACTION, and its site, entry or core, as a
SUPERSEDED record names them (R116, R552). -/
abbrev Evt := Nat × Nat × Nat

/-- The whole state. -/
structure State where
  /-- The device. -/
  dev : Dev
  /-- [R118, 04] The device at the start of the present tick. Reset the device as it is. -/
  tickStart : Dev
  /-- [R118, 04] The sampled events applied in the present tick, oldest first, each with the device it left. Reset
  none. -/
  applied : List (Evt × Dev)
  /-- The answer of the last read command: a register, memory, JTAG or CFGP read. Reset DESIGN CHOICE none (log 8). -/
  answer : Option Nat
  /-- The commands that are waiting, first in, first out. Reset empty. -/
  pending : List Instr
  deriving DecidableEq, Repr

/-- The device as its hub supplies come up: every field at its value after reset, the straps' and the fuses' values read
(R16, R47, R399; log 5). -/
def Dev.initial : Dev := { regs := [(K.DEV_START_CTRL_CD_MASK.key, 15), (K.CFG_CTRL_CFGP_RD_EN.key, 0)] }

/-- The state right after reset: power-on reset is asserted, the hub supplies are not valid, and no command waits. -/
def State.reset : State :=
  { dev := Dev.initial, tickStart := Dev.initial, applied := [], answer := none, pending := [] }

/-- What `exec` and `step` answer. -/
abbrev Out := Host.Outcome State Fault Refusal

end Sys2Proof.Machine
end

