-- ==== Sys2Proof/Machine/Ops.lean ====
section
/-! DEFINITION. The operations every unit is built on: register fields, the units of a variant, the event log's
outbound queues, interrupts, 48-bit counters and watermarks, memory bytes. -/

namespace Sys2Proof.Machine

/-! ## Register fields -/

/-- The value of a register field (R16: its reset value until it is written). -/
def Dev.get (d : Dev) (f : Fld) : Nat := tblGet f.rst d.regs f.key

/-- The field as a truth value. -/
def Dev.on (d : Dev) (f : Fld) : Bool := d.get f != 0

/-- The device with the field set to `v`, cut to the field's width. -/
def Dev.set (d : Dev) (f : Fld) (v : Nat) : Dev := { d with regs := tblPut d.regs f.key (v % 2 ^ f.width) }

/-- The device with a one-bit field set to `b`. -/
def Dev.put (d : Dev) (f : Fld) (b : Bool) : Dev := d.set f (bit b)

/-- A field raised by `n`, held at its top: the saturating counters of the register map. -/
def Dev.bump (d : Dev) (f : Fld) (n : Nat := 1) : Dev := d.set f (satAdd (d.get f) n f.width)

/-- A field raised by `n`, modulo its width: the free-running indices of the register map. -/
def Dev.adv (d : Dev) (f : Fld) (n : Nat := 1) : Dev := d.set f (d.get f + n)

/-- A value held in a LO and a HI field. -/
def Dev.get2 (d : Dev) (lo hi : Fld) : Nat := d.get lo + 2 ^ 32 * d.get hi

/-- A LO and HI pair set to `v`. -/
def Dev.set2 (d : Dev) (lo hi : Fld) (v : Nat) : Dev := (d.set lo (v % 2 ^ 32)).set hi (v / 2 ^ 32)

/-- Bit `n` of a mask register. -/
def Dev.bitOf (d : Dev) (f : Fld) (n : Nat) : Bool := bitAt (d.get f) n

/-- Bit `n` of a mask register set to `b`. -/
def Dev.putBit (d : Dev) (f : Fld) (n : Nat) (b : Bool) : Dev := d.set f (putBitAt (d.get f) n b)

/-- `f` applied for each number of a list, in order. -/
def Dev.each {α : Type} (d : Dev) (l : List α) (f : Dev → α → Dev) : Dev := l.foldl f d

/-- `g` applied when `c` holds. -/
def Dev.when (d : Dev) (c : Bool) (g : Dev → Dev) : Dev := if c then g d else d

/-- A value the spec leaves open, for the operand `a`: free, and another one at each use (log 1). -/
def Dev.freeVal (d : Dev) (a : Nat) : Nat × Dev := (Config.free d.freeUsed a, { d with freeUsed := d.freeUsed + 1 })

/-! ## The units of a variant (R1, R2, R7) -/

/-- The part's variant. -/
def Dev.variant (d : Dev) : Variant := d.fuses.variant

/-- Channel die `n` is present. -/
def Dev.cdPresent (d : Dev) (n : Nat) : Bool := bitAt d.variant.cdMask n

/-- The present channel dies in ascending number. -/
def Dev.dies (d : Dev) : List Nat := (List.range 4).filter d.cdPresent

/-- Core `q` is present: core k of CD n is global core 16n + k (R9). -/
def Dev.corePresent (d : Dev) (q : Nat) : Bool := d.cdPresent (q / 16)

/-- Channel `c` is present: CD n holds CH(128n) to CH(128n + 127) (R9). -/
def Dev.chanPresent (d : Dev) (c : Nat) : Bool := d.cdPresent (c / 128)

/-- PE_SAFE_N group `g` covers a present channel: group g covers CH(32g) to CH(32g + 31) (R4, R9). -/
def Dev.groupPresent (d : Dev) (g : Nat) : Bool := d.cdPresent (g / 4)

/-- DEV_CAP0 to DEV_CAP3 (R580, Table 8). -/
def Dev.capWord (d : Dev) (i : Nat) : Nat :=
  let v := d.variant
  match i with
  | 0 => v.cdMask + 2 ^ 4 * (128 * v.cdCount) + 2 ^ 14 * (16 * v.cdCount - 1)
  | 1 => v.hbmMask + 2 ^ 8 * 48 + 2 ^ 16 * (if bitAt v.hbmMask 1 then 48 else 0)
  | 2 => bit v.hasRps + 2 ^ 4 * 393216 + 2 ^ 24 * 192
  | _ => bit v.hasGuest + 2 ^ 4 * (if v.hasGuest then 16 else 0)

/-- A unit class and index of Table 10 of 06 names a present unit (R178). -/
def Dev.unitPresent (d : Dev) (cls i : Nat) : Bool :=
  match cls with
  | 0 => decide (i < 4) && d.cdPresent i
  | 1 => decide (i < 64) && d.corePresent i
  | 2 => decide (i < 512) && d.chanPresent i
  | 3 => decide (i < 64) && d.cdPresent (i / 16)
  | 4 => decide (i < 8) && d.cdPresent (i / 2)
  | 5 => decide (i < 1) && d.variant.hasRps
  | 6 => decide (i < 16) && d.variant.hasGuest
  | 7 => decide (i < 2) && bitAt d.variant.hbmMask i
  | _ => false

/-- The near stack of CD n: stack 0 for CD0 and CD1, stack 1 for CD2 and CD3; on the UL8256 stack 0 (R9, R270). -/
def nearStack (n : Nat) : Nat := n / 2

/-- HBM stack `k` is present. -/
def Dev.hbmPresent (d : Dev) (k : Nat) : Bool := bitAt d.variant.hbmMask k

/-- The present tester time (R94). -/
def Dev.tti (d : Dev) : Nat := d.time.tti

/-- Ticks since reset (log 41). -/
def Dev.clock (d : Dev) : Nat := d.time.clock

/-! ## Interrupts (R501) -/

/-- The function (0 PF, 1 VF0, 2 VF1) whose table holds device vector `v` (R501). -/
def vecFunction (v : Nat) : Nat := if v < 48 then 0 else if v < 56 then 1 else 2

/-- Vector `v` can send (R501). -/
def Dev.canSend (d : Dev) (v : Nat) : Bool :=
  bitAt d.msix.enable (vecFunction v) && !bitAt d.msix.vmask v && !bitAt d.msix.fmask (vecFunction v)

/-- The vector of an interrupt source: source 0 is always on vector 0 (R501, Table 3). -/
def Dev.srcVec (d : Dev) (src : Nat) : Nat := if src = 0 then 0 else d.get (K.HST_IRQ_MAP_VEC src)

/-- The source is enabled in HST_IRQ_MAP; source 0 always is (R501, Table 3). -/
def Dev.srcEn (d : Dev) (src : Nat) : Bool := src == 0 || d.on (K.HST_IRQ_MAP_EN src)

/-- One message on vector `v`, or its Pending Bit while it cannot send (R501). -/
def Dev.message (d : Dev) (v : Nat) : Dev :=
  if d.canSend v then { d with msix := { d.msix with sent := v :: d.msix.sent } }
  else { d with msix := { d.msix with pba := setBitAt d.msix.pba v } }

/-- An interrupt source's condition rises: its bit in HST_IRQ_PEND is set, and when the bit rises while EN = 1 a
message is sent (R501). -/
def Dev.irq (d : Dev) (src : Nat) : Dev :=
  if d.bitOf K.HST_IRQ_PEND src then d
  else
    let d := d.putBit K.HST_IRQ_PEND src true
    if d.srcEn src then d.message (d.srcVec src) else d

/-! ## The event log's outbound side (R551 to R553, R561) -/

/-- SRC_UNIT of a unit of the hub or base die: its block number (R551). -/
def blkDEV : Nat := 0x00
def blkSNT : Nat := 0x01
def blkFLC : Nat := 0x02
def blkCFG : Nat := 0x03
def blkTIM : Nat := 0x04
def blkCAS : Nat := 0x05
def blkPWR : Nat := 0x06
def blkGPI : Nat := 0x08
def blkHST : Nat := 0x09
def blkBST : Nat := 0x0B
def blkEVL : Nat := 0x0D
def blkRGP : Nat := 0x0E
def blkFWL : Nat := 0x0F
def blkBAS : Nat := 0x10
def blkRPS : Nat := 0x18
/-- SRC_UNIT of the hub controller (R551). -/
def blkHUBC : Nat := 0xFF
/-- SRC_UNIT of a channel-die block: its offset in the die window divided by 0x1000 (R551). -/
def cblkTGN : Nat := 0x20
def cblkFLG : Nat := 0x40
def cblkPLL : Nat := 0x50
def cblkD2D : Nat := 0x60
def cblkFAB : Nat := 0x70

/-- SRC_DIE of the hub and of the base die (R551). -/
def dieHD : Nat := 5
def dieBD : Nat := 4

/-- A 48-bit counter in LO, HI and OVF raised by `n` (R274). -/
def Dev.count48 (d : Dev) (lo hi ovf : Fld) (n : Nat := 1) : Dev :=
  let v := d.get2 lo hi + n
  let d := d.set2 lo hi (v % 2 ^ 48)
  if v < 2 ^ 48 then d else d.put ovf true

/-- The record of an event that happens now. -/
def Dev.rec' (d : Dev) (cls ty die unit : Nat) (site : Option Nat) (data : Nat) : Rec :=
  { tti := d.tti, cls := cls, inj := d.injNow, press := false, ty := ty, die := die, unit := unit, site := site,
    arg := 0, count := 1, lastDt := 0, data := data }

/-- Merge an occurrence at `t` into a held record (R553, R555): COUNT rises by one and LAST_DT is updated. -/
def Rec.absorb (r : Rec) (t : Nat) : Rec :=
  { r with count := min (r.count + 1) 65535, lastDt := min (t - r.tti) (2 ^ 32 - 1) }

/-- A class A record meets its type's occupied slot (R553): the merge sets PRESS when the occurrence differs in SITE or
INJ or lies more than 799 ticks later; SITE_VALID becomes 0 when the sites differ; INJ stays only when both have it. -/
def Rec.absorbSlot (r n : Rec) : Rec :=
  let differ := r.site != n.site || r.inj != n.inj || decide (799 < n.tti - r.tti)
  { r.absorb n.tti with
    press := r.press || differ
    site := if r.site = n.site then r.site else none
    inj := r.inj && n.inj }

/-- One more lost record: count, first and last TTI (R561). -/
def gapAdd (g : Option (Nat × Nat × Nat)) (t : Nat) : Option (Nat × Nat × Nat) :=
  match g with
  | none => some (1, t, t)
  | some (n, a, _) => some (n + 1, a, t)

/-- A class B or C record is lost: it is counted in EVL_B_LOST or EVL_C_LOST and toward the next GAP (R561). -/
def Dev.lose (d : Dev) (cls t : Nat) : Dev :=
  if cls = 2 then
    let d := d.count48 K.EVL_B_LOST_LO_COUNT_LO K.EVL_B_LOST_HI_COUNT_HI K.EVL_B_LOST_HI_OVF
    { d with evl := { d.evl with gapB := gapAdd d.evl.gapB t } }
  else
    let d := d.count48 K.EVL_C_LOST_LO_COUNT_LO K.EVL_C_LOST_HI_COUNT_HI K.EVL_C_LOST_HI_OVF
    { d with evl := { d.evl with gapC := gapAdd d.evl.gapC t } }

/-- The table key of a unit. -/
def unitKey (die unit : Nat) : Nat := 256 * die + unit

/-- A unit makes a record (R553): class A into the slot of its type, class B and C into the unit's queue of 8, lost when
the queue is full. Class C records are discarded without loss counting while EVL_CTRL.C_EN = 0 (R565). No unit ever
waits for the log (R550). -/
def Dev.post (d : Dev) (r : Rec) : Dev :=
  let u := unitKey r.die r.unit
  if r.cls = 1 then
    let k := u * 4096 + r.ty
    let r' := match tblFind d.evl.slots k with
      | some h => h.absorbSlot r
      | none => r
    { d with evl := { d.evl with slots := tblPut d.evl.slots k r' } }
  else if r.cls = 3 && !d.on K.EVL_CTRL_C_EN then d
  else
    let q := tblGet [] d.evl.queues u
    if q.length < 8 then { d with evl := { d.evl with queues := tblPut d.evl.queues u (q ++ [r]) } }
    else d.lose r.cls r.tti

/-- A class A record of a hub-die unit. -/
def Dev.logA (d : Dev) (ty unit : Nat) (data : Nat) (site : Option Nat := none) : Dev :=
  d.post (d.rec' 1 ty dieHD unit site data)

/-- A class B record of a hub-die unit. -/
def Dev.logB (d : Dev) (ty unit : Nat) (data : Nat) (site : Option Nat := none) : Dev :=
  d.post (d.rec' 2 ty dieHD unit site data)

/-- A class A record of a unit of another die. -/
def Dev.logAOn (d : Dev) (die ty unit : Nat) (data : Nat) (site : Option Nat := none) : Dev :=
  d.post (d.rec' 1 ty die unit site data)

/-- A class B record of a unit of another die. -/
def Dev.logBOn (d : Dev) (die ty unit : Nat) (data : Nat) (site : Option Nat := none) : Dev :=
  d.post (d.rec' 2 ty die unit site data)

/-! ## Watermarks (R275) -/

/-- A level seen by a watermark: WM_PEAK takes the larger value, and WM_HIT is set when the level is at or above a
non-zero MARK. Answers the device and whether WM_HIT rose. -/
def Dev.levelSeen (d : Dev) (level : Nat) (mark peak hit : Fld) : Dev × Bool :=
  let d := d.set peak (max (d.get peak) level)
  if d.get mark ≠ 0 ∧ d.get mark ≤ level then (d.put hit true, !d.on hit) else (d, false)

/-- A write of one to WM_HIT at level `level` (R275): WM_PEAK becomes the level, and WM_HIT reads 1 still when the level
is at or above MARK. -/
def Dev.levelClear (d : Dev) (level : Nat) (mark peak hit : Fld) : Dev :=
  let d := d.set peak level
  d.put hit (decide (d.get mark ≠ 0) && decide (d.get mark ≤ level))

/-! ## Memory bytes (R329 to R331) -/

/-- First address of the base SRAM (R329). -/
def sramBase : Nat := 0x008000000000
/-- Size of the base SRAM, 256 MiB (R329). -/
def sramSize : Nat := 0x10000000
/-- First address of a stack's placed aperture (R330). -/
def hbmBase (k : Nat) : Nat := 0x010000000000 + k * 0x001000000000
/-- Size of a stack, 48 GiB (R329). -/
def hbmSize : Nat := 48 * 2 ^ 30
/-- First address of the interleaved aperture (R329). -/
def interBase : Nat := 0x020000000000

/-- `a` lies in the base SRAM. -/
def inSram (a : Nat) : Bool := decide (sramBase ≤ a) && decide (a < sramBase + sramSize)

/-- `a` lies in the placed aperture of stack `k`. -/
def inPlaced (k a : Nat) : Bool := decide (hbmBase k ≤ a) && decide (a < hbmBase k + hbmSize)

/-- `a` lies in the interleaved aperture, 96 GiB. -/
def inInter (a : Nat) : Bool := decide (interBase ≤ a) && decide (a < interBase + 2 * hbmSize)

/-- The 64 MiB block that holds a placed HBM address: 768 × stack + block (R538). -/
def hbmBlock (a : Nat) : Nat :=
  if inPlaced 1 a then 768 + (a - hbmBase 1) / 0x4000000 else (a - hbmBase 0) / 0x4000000

/-- What an unlisted byte of memory reads as: base SRAM is zeroed in BD_INIT (R58); HBM contents are undefined until
written (R58), a free value of the address and of the times they became undefined (log 2), but for blocks that BIST has
zeroed (R538). -/
def Dev.blankByte (d : Dev) (a : Nat) : Byte :=
  if inSram a || d.zeroed.contains (hbmBlock a) then 0 else Config.hbmByte d.hbmEpoch a

/-- The byte stored at a placed address. -/
def Dev.memGet (d : Dev) (a : Nat) : Byte := tblGet (d.blankByte a) d.mem a

/-- One byte stored at a placed address, in canonical form. -/
def Dev.memPut (d : Dev) (a : Nat) (b : Byte) : Dev :=
  if b = d.blankByte a then { d with mem := tblErase d.mem a } else { d with mem := tblPut d.mem a b }

/-- `n` bytes from `a`, little-endian, as a number. -/
def Dev.memNum (d : Dev) (a : Nat) : Nat → Nat
  | 0 => 0
  | n + 1 => (d.memGet a).toNat + 256 * Dev.memNum d (a + 1) n

/-- `n` bytes of `v`, little-endian, stored from `a`. -/
def Dev.memSet (d : Dev) (a : Nat) : Nat → Nat → Dev
  | 0, _ => d
  | n + 1, v => Dev.memSet (d.memPut a (BitVec.ofNat 8 v)) (a + 1) n (v / 256)

/-- The placed address that an interleaved offset names (R330; R331 on the UL8256, where offsets of stack 1 stay in the
absent stack's aperture). -/
def Dev.placeOf (d : Dev) (a : Nat) : Nat :=
  if inInter a then
    let o := a - interBase
    if d.variant = .ul8256 then
      if o < hbmSize then hbmBase 0 + o else hbmBase 1 + (o - hbmSize)
    else
      let p := o / 4096
      hbmBase (p % 2) + (p / 2) * 4096 + o % 4096
  else a

/-! ## Sites and cores -/

/-- The state of a core. -/
def Dev.core (d : Dev) (x : Nat) : Core := tblGet {} d.cores x

/-- A core replaced. -/
def Dev.setCore (d : Dev) (x : Nat) (c : Core) : Dev := { d with cores := tblPut d.cores x c }

/-- A core changed by `f`. -/
def Dev.modCore (d : Dev) (x : Nat) (f : Core → Core) : Dev := d.setCore x (f (d.core x))

/-- A core's vector half changed by `f`. -/
def Dev.modV (d : Dev) (x : Nat) (f : VCore → VCore) : Dev := d.modCore x fun c => { c with v := f c.v }

/-- What the site controller holds of a site. -/
def Dev.site (d : Dev) (s : Nat) : SiteRt := tblGet {} d.sites s

/-- A site's controller state changed by `f`. -/
def Dev.modSite (d : Dev) (s : Nat) (f : SiteRt → SiteRt) : Dev :=
  { d with sites := tblPut d.sites s (f (d.site s)) }

/-- Site states (R308, Table 1). -/
def stIdle : Nat := 0
def stAdmitted : Nat := 1
def stRunning : Nat := 2
def stCurtaining : Nat := 3
def stRocking : Nat := 4
def stParked : Nat := 5
def stAborted : Nat := 6

/-- SITE_STATE of site `s` (R308). -/
def Dev.siteState (d : Dev) (s : Nat) : Nat := d.get (K.SITE_SITE_STATE s)

/-- Site `s` is in one of the states. -/
def Dev.siteIn (d : Dev) (s : Nat) (l : List Nat) : Bool := l.contains (d.siteState s)

/-- The states in which a site is active: Admitted, Running, Curtaining, Rocking (R98, R276, R353 and others). -/
def stActive : List Nat := [stAdmitted, stRunning, stCurtaining, stRocking]

/-- All sites in ascending number. -/
def allSites : List Nat := List.range 64

/-- Some site is active. -/
def Dev.anyActive (d : Dev) : Bool := allSites.any fun s => d.siteIn s stActive

/-- The cores a site entry names, ascending (R307, Table 12). -/
def Dev.siteCores (d : Dev) (s : Nat) : List Nat :=
  (List.range 64).filter fun q =>
    if q < 32 then bitAt (d.get (K.SITE_CORES_LO s)) q else bitAt (d.get (K.SITE_CORES_HI s)) (q - 32)

/-- The channel dies that hold a core of the site, ascending. -/
def Dev.siteDies (d : Dev) (s : Nat) : List Nat :=
  (List.range 4).filter fun n => (d.siteCores s).any fun q => q / 16 == n

/-- The die channels of a core's pin group, ascending (R138). -/
def Dev.pinGroup (d : Dev) (q : Nat) : List Nat :=
  (List.range 128).filter fun j => bitAt (d.get (K.SEQ_PINMAP (q / 16) (q % 16) (j / 32))) (j % 32)

/-- The channels of a site: those of its cores' pin groups (R307). -/
def Dev.siteChans (d : Dev) (s : Nat) : List Nat :=
  (d.siteCores s).flatMap fun q => (d.pinGroup q).map fun j => 128 * (q / 16) + j

/-- SEQ_STATUS.STATE codes (R154, Table 6). -/
def csIDLE : Nat := 0
def csPREFILL : Nat := 1
def csRUN : Nat := 2
def csSTOPPING : Nat := 3
def csCURTAIN : Nat := 4
def csROCKER : Nat := 5
def csPARKED : Nat := 6
def csHALTED : Nat := 7
def csFAULTED : Nat := 8

/-- SEQ_STATUS.STATE of core `q`; while the core is halted it reads HALTED. -/
def Dev.coreState (d : Dev) (q : Nat) : Nat := d.get (K.SEQ_STATUS_STATE (q / 16) (q % 16))

/-- SEQ_STATUS.STATE set. -/
def Dev.setCoreState (d : Dev) (q st : Nat) : Dev := d.set (K.SEQ_STATUS_STATE (q / 16) (q % 16)) st

/-- The site a core belongs to, if any (R154). -/
def Dev.coreSite (d : Dev) (q : Nat) : Option Nat :=
  if d.on (K.SEQ_STATUS_IN_SITE (q / 16) (q % 16)) then some (d.get (K.SEQ_STATUS_SITE (q / 16) (q % 16))) else none

/-- The period domain of a core (R138). -/
def Dev.corePd (d : Dev) (q : Nat) : Nat := d.get (K.SEQ_PD_PD (q / 16) (q % 16))

end Sys2Proof.Machine
end

