-- ==== Sys2Proof/Machine/Inject.lean ====
section
/-! DEFINITION. The injection slots as the detectors see them (R545, R546). -/

namespace Sys2Proof.Machine

/-- ARG of injection slot `i`. -/
def Dev.injArg (d : Dev) (i : Nat) : Nat := d.get2 (K.INJ_ARG_LO_ARG_LO i) (K.INJ_ARG_HI_ARG_HI i)

/-- The first armed slot of a detector whose UNIT and ARG satisfy `p`. -/
def Dev.injSlot (d : Dev) (id : Nat) (p : Nat → Nat → Bool) : Option Nat :=
  (List.range 4).find? fun i => d.get (K.INJ_SLOT_CTRL_STATE i) == 1 && d.get (K.INJ_SEL_ID i) == id
    && p (d.get (K.INJ_SEL_UNIT i)) (d.injArg i)

/-- Slot `i` fires: once more of COUNT, after which it is SPENT; with COUNT 0 it stays armed (R545). -/
def Dev.injFired (d : Dev) (i : Nat) : Dev :=
  let d := d.bump (K.INJ_SLOT_CTRL_FIRED i)
  let n := d.get (K.INJ_CNT_COUNT i)
  if n ≠ 0 ∧ n ≤ d.get (K.INJ_SLOT_CTRL_FIRED i) then d.set (K.INJ_SLOT_CTRL_STATE i) 2 else d

/-- The detector `id` meets an opportunity: its armed slot, if one matches, fires and gives its ARG. -/
def Dev.inject (d : Dev) (id : Nat) (p : Nat → Nat → Bool) : Option (Nat × Dev) :=
  (d.injSlot id p).map fun i => (d.injArg i, d.injFired i)

/-- An effect that an injected condition has: its records carry INJ (R545). -/
def Dev.asInjected (d : Dev) (f : Dev → Dev) : Dev :=
  let r := f { d with injNow := true }
  { r with injNow := d.injNow }

/-- The slots that `p` selects by detector and unit are disarmed (R545). -/
def Dev.injDisarm (d : Dev) (p : Nat → Nat → Bool) : Dev :=
  d.each (List.range 4) fun d i =>
    if d.get (K.INJ_SLOT_CTRL_STATE i) = 1 ∧ p (d.get (K.INJ_SEL_ID i)) (d.get (K.INJ_SEL_UNIT i)) then
      d.set (K.INJ_SLOT_CTRL_STATE i) 0
    else d

end Sys2Proof.Machine
end

