-- ==== Sys2Proof/Machine/SiteOps.lean ====
section
/-! DEFINITION. The operations the site controller, the cores and the pins share: the schedule entries' states, parking,
the PE_SAFE_N lines, the mode, stop requests, core faults and hub controller exceptions, event arrivals. -/

namespace Sys2Proof.Machine

/-! ## Schedule entries (R109 to R115) -/

/-- Entry states (Table 4 of 04). -/
def seEMPTY : Nat := 0
def seARMED : Nat := 1
def seFIRED : Nat := 2
def seMISSED : Nat := 3
def seCANCELLED : Nat := 4
def seREFUSED : Nat := 5
def seSUPERSEDED : Nat := 6
def seLINKED : Nat := 7

/-- STATE of entry `e` of table `t`. -/
def Dev.schedState (d : Dev) (t e : Nat) : Nat := d.get (K.SCHED_STATE t e)

/-- An entry is free when it is neither ARMED nor LINKED (R110). -/
def Dev.schedFree (d : Dev) (t e : Nat) : Bool :=
  d.schedState t e != seARMED && d.schedState t e != seLINKED

/-- The TTI an entry names. -/
def Dev.schedTti (d : Dev) (t e : Nat) : Nat := d.get2 (K.SCHED_TTI_LO t e) (K.SCHED_TTI_HI t e)

/-- STATE and RESULT of an entry set. -/
def Dev.schedMark (d : Dev) (t e st res : Nat) : Dev := (d.set (K.SCHED_STATE t e) st).set (K.SCHED_RESULT t e) res

/-- The linked copies of hub entry `e`, as table and entry. -/
def Dev.copiesOf (d : Dev) (e : Nat) : List (Nat × Nat) :=
  (d.sched.links.filter fun p => p.2 == e).map fun p => (p.1 / 256, p.1 % 256)

/-- A hub entry leaves ARMED: its STATE and RESULT, those of its linked copies, which follow it, and the links end
(R113, R115). For an entry of another table, the entry alone. -/
def Dev.schedEnd (d : Dev) (t e st res : Nat) : Dev :=
  let d' := d.schedMark t e st res
  if t = 0 then
    let d' := d'.each (d.copiesOf e) fun d p => d.schedMark p.1 p.2 st res
    { d' with sched := { d'.sched with
        links := d'.sched.links.filter (fun p => p.2 != e)
        placing := d'.sched.placing.filter (fun x => x != e) } }
  else d'

/-- ACTION codes (R112, Table 5). -/
def acSITE_START : Nat := 1
def acSITE_STOP : Nat := 2
def acEVENT : Nat := 3
def acPD_START : Nat := 4
def acTRIG_OUT : Nat := 5
def acPWR_STATE : Nat := 6

/-- The hub entries that hold an armed SITE_START of site `s`. -/
def Dev.armedStarts (d : Dev) (s : Nat) : List Nat :=
  (List.range 256).filter fun e =>
    d.schedState 0 e == seARMED && d.get (K.SCHED_ACTION 0 e) == acSITE_START && d.get (K.SCHED_TARGET 0 e) == s

/-- Every armed SITE_START of the site becomes CANCELLED (R318, R322). -/
def Dev.cancelStarts (d : Dev) (s : Nat) : Dev :=
  d.each (d.armedStarts s) fun d e => d.schedEnd 0 e seCANCELLED 0

/-! ## Parking (R78, R79, R250, R251) -/

/-- Channel `c` is parked. -/
def Dev.parked (d : Dev) (c : Nat) : Bool := d.bitOf (K.PED_PARKED (c / 128) ((c % 128) / 32)) (c % 32)

/-- The safe code of channel `c`: LOAD_OFF above CLAMP (R79, Table 3). -/
def Dev.safeCode (d : Dev) (c : Nat) : Nat :=
  let w := c / 4
  match c % 4 with
  | 0 => d.get (K.SNT_SAFECODE_CLAMP0 w) + 4 * d.get (K.SNT_SAFECODE_LOAD_OFF0 w)
  | 1 => d.get (K.SNT_SAFECODE_CLAMP1 w) + 4 * d.get (K.SNT_SAFECODE_LOAD_OFF1 w)
  | 2 => d.get (K.SNT_SAFECODE_CLAMP2 w) + 4 * d.get (K.SNT_SAFECODE_LOAD_OFF2 w)
  | _ => d.get (K.SNT_SAFECODE_CLAMP3 w) + 4 * d.get (K.SNT_SAFECODE_LOAD_OFF3 w)

/-- Channel `c` parks with its present safe code: drive off, compare disabled, the code's static state on the lanes; a
channel already parked keeps the code it was parked with (R78, R79). -/
def Dev.park (d : Dev) (c : Nat) : Dev :=
  if d.parked c then d
  else
    let code := d.safeCode c
    let d := d.putBit (K.PED_PARKED (c / 128) ((c % 128) / 32)) (c % 32) true
    { d with tgn := { d.tgn with parkCode := tblPut d.tgn.parkCode c code, lanes := tblErase d.tgn.lanes c } }

/-- Channel `c` is unparked: its lanes show differential 0 until their first edges (R251; log 10). -/
def Dev.unpark (d : Dev) (c : Nat) : Dev :=
  let d := d.putBit (K.PED_PARKED (c / 128) ((c % 128) / 32)) (c % 32) false
  { d with tgn := { d.tgn with parkCode := tblErase d.tgn.parkCode c, lanes := tblErase d.tgn.lanes c } }

/-- Every channel of the site parks. -/
def Dev.parkSite (d : Dev) (s : Nat) : Dev := d.each (d.siteChans s) Dev.park

/-- Every present channel parks. -/
def Dev.parkAll (d : Dev) : Dev := d.each ((List.range 512).filter d.chanPresent) Dev.park

/-! ## PE_SAFE_N (R4, R41, R73, R75) -/

/-- Group `g` has a channel in a site that is Running, Curtaining or Rocking: GROUP_BUSY (R71). -/
def Dev.groupBusy (d : Dev) (g : Nat) : Bool :=
  allSites.any fun s => d.siteIn s [stRunning, stCurtaining, stRocking] && (d.siteChans s).any fun c => c / 32 == g

/-- The Sentry policy permits the release of group `g` (R73). -/
def Dev.policyRelease (d : Dev) (g : Nat) : Bool :=
  d.snt.out.safeRel.getLsbD g && d.bitOf K.SNT_POLICY_RELEASE_EN g && !d.bitOf K.SNT_GROUP_FORCE_FORCE g

/-- A condition of R41 or R4 holds group `g` asserted. -/
def Dev.groupHeld (d : Dev) (g : Nat) : Bool :=
  !d.on K.DEV_START_STATUS_START_DONE || !d.groupPresent g || !bitAt d.start.cdReleased (g / 4)

/-- The PE_SAFE_N lines as R73 puts them. -/
def Dev.linesWanted (d : Dev) : Nat :=
  (List.range 16).foldl (fun m g => if d.policyRelease g && !d.groupHeld g then m else m + 2 ^ g) 0

/-- The lines follow policy and conditions (R73, R77). -/
def Dev.refreshLines (d : Dev) : Dev := { d with snt := { d.snt with asserted := d.linesWanted } }

/-- The groups that hold a channel of the site, ascending. -/
def Dev.siteGroups (d : Dev) (s : Nat) : List Nat :=
  (List.range 16).filter fun g => (d.siteChans s).any fun c => c / 32 == g

/-- The groups of the site whose line is asserted, as a mask (R76). -/
def Dev.siteGroupsAsserted (d : Dev) (s : Nat) : Nat :=
  (d.siteGroups s).foldl (fun m g => if bitAt d.snt.asserted g then m + 2 ^ g else m) 0

/-! ## Mode (R49 to R51) -/

/-- Device modes (R49, Table 7). -/
def mdSentry : Nat := 0
def mdLoad : Nat := 1
def mdReady : Nat := 2
def mdRun : Nat := 3
def mdHold : Nat := 4
def mdSafe : Nat := 5

/-- DEV_MODE.MODE. -/
def Dev.mode (d : Dev) : Nat := d.get K.DEV_MODE_MODE

/-- The mode is one of the list. -/
def Dev.modeIn (d : Dev) (l : List Nat) : Bool := l.contains d.mode

/-- The mode the site states give in Ready, Run and Hold (R50). -/
def Dev.derivedMode (d : Dev) : Nat :=
  if allSites.any fun s => d.siteIn s [stRunning, stCurtaining] then mdRun
  else if allSites.any fun s => d.siteIn s [stRocking] then mdHold
  else mdReady

/-- In Ready, Run and Hold the mode follows the site states (R50). -/
def Dev.refreshMode (d : Dev) : Dev :=
  if d.modeIn [mdReady, mdRun, mdHold] then d.set K.DEV_MODE_MODE d.derivedMode else d

/-- The site takes a state; interrupt source 3 rises when it enters Rocking, Parked or Aborted; the mode follows
(R309, R501, R50). -/
def Dev.setSiteState (d : Dev) (s st : Nat) : Dev :=
  let old := d.siteState s
  let d := d.set (K.SITE_SITE_STATE s) st
  let d := if old ≠ st ∧ (st = stRocking ∨ st = stParked ∨ st = stAborted) then d.irq 3 else d
  d.refreshMode

/-! ## Cores of a site -/

/-- A PTU pin of core `q` is released on every page it holds (R347). -/
def Dev.unpinAll (d : Dev) (q : Nat) : Dev :=
  let g := q / 4
  let l := (tblGet [] d.ptu.tlb g).map fun t => { t with pins := t.pins.filter (· != q) }
  let l := l.filter fun t => !(t.stale && t.pins == [])
  let d := { d with ptu := { d.ptu with tlb := tblPut d.ptu.tlb g l, adm := tblErase d.ptu.adm q } }
  d.modV q fun v => { v with pins := [] }

/-- SEQ_FAULT.CODE of core `q`. -/
def Dev.faultCode (d : Dev) (q : Nat) : Nat := d.get (K.SEQ_FAULT_CODE (q / 16) (q % 16))

/-- Both pipelines of core `q` stop, what is stalled is abandoned without effect, and its pins are released (R161). -/
def Dev.stopPipes (d : Dev) (q : Nat) : Dev :=
  let d := d.modCore q fun c =>
    { c with ctl := (if c.ctl = .ended then .ended else .stopped), pfx := none
             v := { c.v with vec := .stopped } }
  d.unpinAll q

/-- A core of a site that parks or aborts: its pipelines stop, its VIQ is discarded, and it reads PARKED, or FAULTED
when it has faulted (R308). -/
def Dev.coreParked (d : Dev) (q : Nat) : Dev :=
  let d := d.stopPipes q
  let d := d.modV q fun v => { v with viq := [], phase := 3, mark := none, pinSigs := [], mloop := none, job := none }
  d.setCoreState q (if d.faultCode q = 0 then csPARKED else csFAULTED)

/-- Every core of the site as `coreParked`. -/
def Dev.coresParked (d : Dev) (s : Nat) : Dev := d.each (d.siteCores s) Dev.coreParked

/-- A site becomes Aborted: its cores stop and its channels are parked (R309). -/
def Dev.abortSite (d : Dev) (s : Nat) : Dev :=
  let d := (d.coresParked s).parkSite s
  let d := ((d.put (K.SITE_PARK_PEND s) false).put (K.SITE_ABORT_PEND s) false).put (K.SITE_RESUME_PEND s) false
  let d := d.modSite s fun r => { r with req := none, applied := false, stopCyc := none }
  d.setSiteState s stAborted

/-! ## Stop requests (R142, R144, R315 to R318) -/

/-- A stop has been requested of the site or applied, and its Curtain has not ended. -/
def Dev.stopGiven (d : Dev) (s : Nat) : Bool :=
  (d.site s).req.isSome || (d.site s).applied || d.siteIn s [stCurtaining]

/-- STOP_MULTI on one core: SEQ_FAULT.MULTI and the record of R144, one for each core concerned (log 11). -/
def Dev.multiOn (d : Dev) (s cause code q : Nat) : Dev :=
  let d := d.put (K.SEQ_FAULT_MULTI (q / 16) (q % 16)) true
  d.logBOn (q / 16) 0x122 (q % 16)
    (cause + 2 ^ 8 * code + 2 ^ 16 * d.get (K.SITE_CAUSE s) + 2 ^ 24 * (q % 16)) (some s)

/-- A further stop request after a stop: recorded on every core of the site, nothing else changes (R144, R316). -/
def Dev.stopMulti (d : Dev) (s cause : Nat) : Dev := d.each (d.siteCores s) fun d q => d.multiOn s cause 0 q

/-- CAUSE, STOP_TTI, STOPS and the class B record SITE_STOP; GUARANTEE_BREACH writes its own class A record instead
(R315, R326). -/
def Dev.stopNoted (d : Dev) (s cause : Nat) : Dev :=
  let d := d.set (K.SITE_CAUSE s) cause
  let d := d.set2 (K.SITE_STOP_TTI_LO s) (K.SITE_STOP_TTI_HI s) d.tti
  let d := d.bump (K.SITE_STOPS s)
  if cause = 0x0C then d else d.logB 0x10A blkDEV cause (some s)

/-- A stop request to a site with a cause of Table 6 (R315): to a Running site it is sampled now and applied by
STOP_APPLY; to an Admitted site it cancels its armed starts (R318); after a stop it is only recorded (R144, R316); to an
Idle, Parked or Aborted site it is nothing. -/
def Dev.stopReq (d : Dev) (s cause : Nat) : Dev :=
  if d.siteIn s [stAdmitted] then (d.stopNoted s cause).cancelStarts s
  else if d.siteIn s [stRunning] then
    if d.stopGiven s then d.stopMulti s cause
    else (d.stopNoted s cause).modSite s fun r => { r with req := some (cause, d.clock) }
  else if d.siteIn s [stCurtaining, stRocking] then d.stopMulti s cause
  else d

/-- A stop request to each site of a list. -/
def Dev.stopReqs (d : Dev) (l : List Nat) (cause : Nat) : Dev := d.each l fun d s => d.stopReq s cause

/-- The sites in one of the states that hold a core on die `n`, ascending. -/
def Dev.sitesOnDie (d : Dev) (n : Nat) (sts : List Nat) : List Nat :=
  allSites.filter fun s => d.siteIn s sts && (d.siteDies s).contains n

/-! ## Die links (R361, R371) -/

/-- What the package network holds of link `l`: 0 to 3 the wide links, 4 the hub link. -/
def Dev.link (d : Dev) (l : Nat) : LinkRt := tblGet {} d.links.links l

/-- A link's state changed by `f`. -/
def Dev.modLink (d : Dev) (l : Nat) (f : LinkRt → LinkRt) : Dev :=
  { d with links := { d.links with links := tblPut d.links.links l (f (d.link l)) } }

/-- The hub cannot reach CD `n`: its wide link or the hub link is DOWN in service (R369, R371). -/
def Dev.dieDown (d : Dev) (n : Nat) : Bool := (d.link n).since.isSome || (d.link 4).since.isSome

/-- A core of the site lies on a die that the hub cannot reach (R371). -/
def Dev.siteDown (d : Dev) (s : Nat) : Bool := (d.siteDies s).any d.dieDown

/-! ## Core faults (R151 to R153) and hub controller exceptions (R128, R183) -/

/-- SEQ_FAULT.CODE, SEQ_FAULT_PC and SEQ_FAULT_ADDR of the first fault since the core last left IDLE, and the class B
record CORE_FAULT (R153). -/
def Dev.faultNoted (d : Dev) (q code pc addr : Nat) : Dev :=
  let n := q / 16
  let k := q % 16
  let d :=
    if d.get (K.SEQ_FAULT_CODE n k) = 0 then
      let d := d.set (K.SEQ_FAULT_CODE n k) code
      let d := d.set2 (K.SEQ_FAULT_PC_LO n k) (K.SEQ_FAULT_PC_HI n k) pc
      d.set2 (K.SEQ_FAULT_ADDR_LO n k) (K.SEQ_FAULT_ADDR_HI n k) addr
    else d
  d.logBOn n 0x106 k (code + 2 ^ 8 * 0 + 2 ^ 16 * pc) (d.coreSite q)

/-- The pipeline in which a fault arises stops at the faulting instruction. -/
def Dev.stopPipe (d : Dev) (q : Nat) (vec : Bool) : Dev :=
  if vec then d.modV q fun v => { v with vec := .stopped, faulted := true, job := none }
  else d.modCore q fun c => { c with ctl := .stopped, pfx := none }

/-- A core fault with a code of Table 4 at `pc` with argument `addr`, raised by the vector (`vec`) or control pipeline:
in a Running site a stop request of cause CORE_FAULT, or after a stop a STOP_MULTI; in an Admitted site the site is
Aborted; while Curtaining or Rocking it is recorded under R144 and stops its pipeline; in no site, or an Idle, Parked or
Aborted one, both pipelines stop and STATE is FAULTED (R151, R152, R318). -/
def Dev.coreFault (d : Dev) (q code pc addr : Nat) (vec : Bool) : Dev :=
  let d := (d.faultNoted q code pc addr).stopPipe q vec
  let plain := (d.stopPipes q).setCoreState q csFAULTED
  match d.coreSite q with
  | none => plain
  | some s =>
    if d.siteIn s [stAdmitted] then
      let d := d.put (K.SEQ_FAULT_STOP_REQ (q / 16) (q % 16)) true
      ((d.stopNoted s 0x06).cancelStarts s).abortSite s
    else if d.siteIn s [stRunning] then
      if d.stopGiven s then d.multiOn s 0 code q
      else (d.put (K.SEQ_FAULT_STOP_REQ (q / 16) (q % 16)) true).stopReq s 0x06
    else if d.siteIn s [stCurtaining, stRocking] then
      (d.multiOn s 0 code q).modSite s fun r => { r with prefillFault := true }
    else plain

/-- The hub controller's exception entry point: HUBC_EVEC, its bits [2:0] zero (R184). -/
def Core.evecOf (c : Core) : Nat := (c.evec.getD Config.romHandler.toNat) / 8 * 8

/-- The hub controller takes a fault as an exception (R183): HUBC_EPC, CODE, IN_HANDLER, NESTED if it was set, HUBC_PC
at HUBC_EVEC; a class B record HUBC_FAULT (R128). -/
def Dev.hubFault (d : Dev) (code pc : Nat) : Dev :=
  let d := d.modCore 64 fun c =>
    let nested := bitAt c.ecause 8 || bitAt c.ecause 9
    { c with epc := pc, ecause := code % 256 + 256 + (if nested then 512 else 0), pc := c.evecOf, pfx := none
             ctl := .run }
  d.logB 0x107 blkHUBC (code + 2 ^ 16 * pc)

/-- A fault of controller `x`'s control pipeline at its present instruction. -/
def Dev.ctlFault (d : Dev) (x code addr : Nat) : Dev :=
  let pc := (d.core x).pc
  if x = 64 then d.hubFault code pc else d.coreFault x code pc addr false

/-- A control-pipeline fault for which Table 4 of 05 names no address or argument: SEQ_FAULT_ADDR takes a free value
(log 1). -/
def Dev.ctlFaultPlain (d : Dev) (x code : Nat) : Dev :=
  let (v, d) := d.freeVal code
  d.ctlFault x code v

/-- A fault of core `q`'s vector pipeline at its present instruction. -/
def Dev.vecFault (d : Dev) (q code addr : Nat) : Dev := d.coreFault q code (d.core q).v.vpc addr true

/-- A vector-pipeline fault without an address or argument. -/
def Dev.vecFaultPlain (d : Dev) (q code : Nat) : Dev :=
  let (v, d) := d.freeVal code
  d.vecFault q code v

/-- Fault codes (R153, Table 4). -/
def fcILLEGAL : Nat := 0x01
def fcABSENT : Nat := 0x02
def fcMISALIGNED : Nat := 0x03
def fcBUS : Nat := 0x04
def fcXO : Nat := 0x05
def fcFP : Nat := 0x06
def fcVPQ : Nat := 0x07
def fcUNDERRUN : Nat := 0x08
def fcTRANS : Nat := 0x09
def fcWALKIO : Nat := 0x0A
def fcECC : Nat := 0x0B
def fcSEGOVR : Nat := 0x0C
def fcBREAK : Nat := 0x0D

/-! ## Event inputs (R119 to R121, R130, R131) -/

/-- The pending counter of input `i` of controller `x`. -/
def Dev.evi (d : Dev) (x i : Nat) : Nat :=
  if x = 64 then tblGet 0 (d.core 64).evi i else d.get (K.SEQ_EVI_CNT_CNT (x / 16) (x % 16) i)

/-- The pending counter set. -/
def Dev.setEvi (d : Dev) (x i v : Nat) : Dev :=
  if x = 64 then d.modCore 64 fun c => { c with evi := tblPut c.evi i (v % 256) }
  else d.set (K.SEQ_EVI_CNT_CNT (x / 16) (x % 16) i) v

/-- An arrival is sent toward input `i` of controller `x`; it counts when it reaches the sampler (R130). -/
def Dev.send (d : Dev) (x i : Nat) (n : Nat := 1) : Dev :=
  { d with flight := tblMod 0 d.flight (16 * x + i) (· + n) }

/-- Arrivals at every input of the cores in `qs` whose SEQ_EVI_ROUTE selects source `src` and line `sel` (R131). -/
def Dev.route (d : Dev) (qs : List Nat) (src sel : Nat) : Dev :=
  d.each qs fun d q => d.each (List.range 16) fun d i =>
    let f := K.SEQ_EVI_ROUTE_SRC (q / 16) (q % 16) i
    if d.get f = src ∧ d.get (K.SEQ_EVI_ROUTE_SEL (q / 16) (q % 16) i) = sel then d.send q i else d

/-- The present cores of die `n`. -/
def Dev.dieCores (d : Dev) (n : Nat) : List Nat :=
  if d.cdPresent n then (List.range 16).map (16 * n + ·) else []

/-- The present cores. -/
def Dev.allCores (d : Dev) : List Nat := (List.range 64).filter d.corePresent

/-! ## Periods (R143, R214, R226, R445) -/

/-- A 32-bit two's complement field as an integer. -/
def Dev.getInt (d : Dev) (f : Fld) : Int := signedAt (d.get f) 32

/-- The PLL of period domain `pd` of die `n`. -/
def Dev.pdPll (d : Dev) (n pd : Nat) : Nat := d.get (K.TGN_PD_CFG_PLL n pd)

/-- The duration of `cycles` cycles of `per` tu on a PLL whose OFS is `ofs` ppb, in units of `unit` × 0.125 ps, rounded
up: one tu is 0.125 ps ÷ (1 + OFS × 10^-9) (R226, R445). -/
def spanUp (cycles per unit : Nat) (ofs : Int) : Nat :=
  let den := unit * (1000000000 + ofs).toNat
  (cycles * per * 1000000000 + den - 1) / den

/-- The offset in force for core `q`'s period domain. -/
def Dev.coreOfs (d : Dev) (q : Nat) : Int := d.getInt (K.PLL_OFS_OFS (q / 16) (d.pdPll (q / 16) (d.corePd q)))

/-- The period of core `q`'s domain in tu (R229). -/
def Dev.corePeriod (d : Dev) (q : Nat) : Nat := d.get (K.TGN_PD_PERIOD_PERIOD (q / 16) (d.corePd q))

/-- SEQ_STOPBOUND: ceil((SEQ_SEGMAX + SEQ_CURTAIN_LEN) × period ÷ 1.25 ns) + 2 (R143). -/
def Dev.stopBound (d : Dev) (q : Nat) : Nat :=
  spanUp (d.get (K.SEQ_SEGMAX_CYCLES (q / 16) (q % 16)) + d.get (K.SEQ_CURTAIN_LEN_CYCLES (q / 16) (q % 16)))
    (d.corePeriod q) 10000 (d.coreOfs q) + 2

/-- SEG_MAX: the smaller of 65,536 cycles and the whole cycles in 50 µs (400,000,000 × 0.125 ps) (R143). -/
def Dev.segMax (d : Dev) (q : Nat) : Nat :=
  min 65536 ((400000000 * (1000000000 + d.coreOfs q).toNat) / (d.corePeriod q * 1000000000))

/-- The largest SEQ_STOPBOUND register of a site's cores. -/
def Dev.siteBound (d : Dev) (s : Nat) : Nat :=
  (d.siteCores s).foldl (fun m q => max m (d.get (K.SEQ_STOPBOUND_TICKS (q / 16) (q % 16)))) 0

/-- SEQ_STOPBOUND of each core of the site is computed (R143, R232). -/
def Dev.setBounds (d : Dev) (s : Nat) : Dev :=
  d.each (d.siteCores s) fun d q => d.set (K.SEQ_STOPBOUND_TICKS (q / 16) (q % 16)) (d.stopBound q)

/-! ## Waking a die (R469 to R474) -/

/-- CD `n` begins its wake, if it is not Active (R469, R471, R472, R474). -/
def Dev.wakeDie (d : Dev) (n : Nat) : Dev :=
  let st := d.get (K.PWR_DIE_STATE_STATE n)
  if st = 0 ∨ d.on (K.PWR_DIE_STATE_WAKING n) then d
  else
    let d := d.put (K.PWR_DIE_STATE_WAKING n) true
    { d with power := { d.power with wakeFrom := tblPut d.power.wakeFrom n st } }

/-- CD `n` is Active (R464). -/
def Dev.dieActive (d : Dev) (n : Nat) : Bool :=
  d.get (K.PWR_DIE_STATE_STATE n) == 0 && !d.on (K.PWR_DIE_STATE_WAKING n)

/-! ## Entry into Safe for an unrecoverable fault (R52) -/

/-- A fault that is not recoverable: a stop request with cause `stop` to every site that is not yet stopped, and the
entry into Safe with SAFE_CAUSE `cause` once none is Running or Curtaining, or once the largest SEQ_STOPBOUND plus 1 µs
has passed (R52). -/
def Dev.unrecoverable (d : Dev) (cause stop : Nat) : Dev :=
  let l := allSites.filter fun s => d.siteIn s [stAdmitted, stRunning]
  let w := allSites.filter fun s => d.siteIn s [stRunning, stCurtaining]
  let b := w.foldl (fun m s => max m (d.siteBound s)) 0 + 800
  let d := d.stopReqs l stop
  if d.start.safeWait.isSome then d
  else { d with start := { d.start with safeWait := some ⟨cause, d.clock, b⟩ } }

end Sys2Proof.Machine
end

