-- ==== Sys2Proof/Machine/DebugOps.lean ====
section
/-! DEFINITION. Debug: the permission of R515, the trace buffer, the comparators of R523 and the halt, resume and step
of R516 to R521. -/

namespace Sys2Proof.Machine

/-- The lifecycle permits debug requests, state writes and debug-master writes: BLANK, FACTORY, PROVISIONED, RMA, or
DEPLOYED with DBG_EN (R515). -/
def Dev.dbgPermit (d : Dev) : Bool :=
  match d.fuses.lifecycle with
  | 0 => true
  | 1 => true
  | 2 => true
  | 3 => d.on K.DBG_CTRL_DBG_EN
  | 4 => true
  | _ => false

/-- SRC_DIE and SRC_UNIT of a controller (R551). -/
def ctlUnit (x : Nat) : Nat × Nat := if x = 64 then (dieHD, blkHUBC) else (x / 16, x % 16)

/-- A class C packet of controller `x` enters its 8-entry trace buffer, or is dropped and counted; it is discarded while
C_EN = 0 (R181, R561, R565). Detector 0x1C drops it (R546). -/
def Dev.traceOut (d : Dev) (x ty arg count lastDt data : Nat) : Dev :=
  let (die, unit) := ctlUnit x
  let site := if x = 64 then none else d.coreSite x
  let r : Rec := { d.rec' 3 ty die unit site data with arg := arg, count := count, lastDt := lastDt }
  if !d.on K.EVL_CTRL_C_EN then d
  else match d.inject 0x1C fun u _ => u == x with
  | some (_, d) => d.lose 3 d.tti
  | none => if (d.core x).trace.length < 8 then d.modCore x fun c => { c with trace := c.trace ++ [r] }
  else d.lose 3 d.tti

/-- The address `a` meets MODE, VAL and LIM: 1 EQ, 2 RANGE (R523, R530). -/
def cmpMeets (mode val lim a : Nat) : Bool :=
  if mode = 1 then a == val else if mode = 2 then decide (val ≤ a) && decide (a ≤ lim) else false

/-- One die comparator judges an address: CNT, HIT and its ACTION. Answers whether it asks for a halt. -/
def Dev.compareOne (d : Dev) (q kind a cyc i : Nat) : Dev × Bool :=
  let n := q / 16
  let on := d.get (K.DDB_CMP_CTRL_KIND n i) == kind &&
    (d.on (K.DDB_CMP_CTRL_ANY n i) || d.get (K.DDB_CMP_CTRL_CORE n i) == q % 16) &&
    cmpMeets (d.get (K.DDB_CMP_CTRL_MODE n i)) (d.get2 (K.DDB_CMP_VAL_LO_VAL_LO n i) (K.DDB_CMP_VAL_HI_VAL_HI n i))
      (d.get2 (K.DDB_CMP_LIM_LO_LIM_LO n i) (K.DDB_CMP_LIM_HI_LIM_HI n i)) a
  if !on then (d, false)
  else
    let d := d.bump (K.DDB_CMP_CNT_CNT n i)
    let d := d.putBit (K.DDB_STATUS_HIT n) i true
    let act := d.get (K.DDB_CMP_CTRL_ACTION n i)
    let d := d.when (act != 0) fun d => d.traceOut q 0x202 i (cyc / 2 ^ 32) (cyc % 2 ^ 32) a
    (d, act == 0 || act == 2)

/-- One hub comparator, KIND 0 alone. -/
def Dev.compareHub (d : Dev) (a i : Nat) : Dev × Bool :=
  let on := d.get (K.DBG_HCMP_CTRL_KIND i) == 0 &&
    cmpMeets (d.get (K.DBG_HCMP_CTRL_MODE i)) (d.get2 (K.DBG_HCMP_VAL_LO i) (K.DBG_HCMP_VAL_HI i))
      (d.get2 (K.DBG_HCMP_LIM_LO i) (K.DBG_HCMP_LIM_HI i)) a
  if !on then (d, false)
  else
    let d := d.putBit K.DBG_STATUS_HCMP_HIT i true
    let act := d.get (K.DBG_HCMP_CTRL_ACTION i)
    let d := d.when (act != 0) fun d => d.traceOut 64 0x202 i 0 0 a
    (d, act == 0 || act == 2)

/-- Every comparator that watches controller `x` for addresses of a kind judges `a`, which belongs to site cycle `cyc`
(R523). Answers whether a halt is asked for. -/
def Dev.compare (d : Dev) (x kind a cyc : Nat) : Dev × Bool :=
  if x = 64 then
    (List.range 2).foldl (fun p i => let r := p.1.compareHub a i; (r.1, p.2 || r.2)) (d, false)
  else
    (List.range 8).foldl (fun p i => let r := p.1.compareOne x kind a cyc i; (r.1, p.2 || r.2)) (d, false)

/-- A comparator of KIND 1 or 2: a match that asks for a halt sends a debug request, and the instruction executes
(R514, R523). -/
def Dev.compareVec (d : Dev) (q kind a cyc : Nat) : Dev :=
  let (d, halt) := d.compare q kind a cyc
  if halt && d.dbgPermit then d.modCore q fun c => { c with dbgReq := true } else d

/-- DBG_HALTED of a core, or HUB_HALTED (R529). -/
def Dev.putHalted (d : Dev) (x : Nat) (b : Bool) : Dev :=
  if x = 64 then d.put K.DBG_STATUS_HUB_HALTED b
  else if x < 32 then d.putBit K.DBG_HALTED_LO x b
  else d.putBit K.DBG_HALTED_HI (x - 32) b

/-- Core `q` halts (R516, Table 1): its control clock stops; outside Running, Curtaining and Rocking STATE is HALTED. A
prefix that has not been followed by its instruction is fetched again. -/
def Dev.haltCore (d : Dev) (q : Nat) : Dev :=
  let moving := match d.coreSite q with
    | some s => d.siteIn s [stRunning, stCurtaining, stRocking]
    | none => false
  let st := d.coreState q
  let d := d.modCore q fun c =>
    { c with halted := true, stepping := false, dbgReq := false, pfx := none
             haltState := if moving || st = csHALTED then c.haltState else st }
  let d := d.putHalted q true
  if moving then d else d.setCoreState q csHALTED

/-- A halt of controller `x` applied at P5 (R516, R517, R521): every core of the site with SITE_HALT; one stop request
of cause DEBUG from the cores of an Admitted, Running or Curtaining site. -/
def Dev.halt (d : Dev) (x : Nat) : Dev :=
  if x = 64 then
    (d.modCore 64 fun c => { c with halted := true, stepping := false, dbgReq := false, pfx := none }).putHalted 64 true
  else
    match d.coreSite x with
    | none => d.haltCore x
    | some s =>
      let qs := if d.on K.DBG_CTRL_SITE_HALT then d.siteCores s else [x]
      let d := d.each qs Dev.haltCore
      if d.siteIn s [stAdmitted, stRunning, stCurtaining] then d.stopReq s 0x13 else d

/-- A BRK at which the core halted retires: execution continues at PC + 8 (R182). -/
def Core.passBrk (c : Core) : Core :=
  if c.atBrk then { c with pc := (c.pc + 8) % 2 ^ 48, atBrk := false, fetched := 0 } else c

/-- A resume (R519, R521): the clocks restart; in a Rocking site the vector pipeline refills the VIQ. A hub controller
that was waiting in ROM starts at HUBC_PC. -/
def Dev.resume (d : Dev) (x : Nat) : Dev :=
  let d := d.modCore x fun c => { c.passBrk with halted := false, stepping := false }
  let d := d.putHalted x false
  if x = 64 then d.modCore 64 fun c => { c with ctl := if c.ctl = .off then .run else c.ctl }
  else
    let d := if d.coreState x = csHALTED then d.setCoreState x (d.core x).haltState else d
    d.modCore x fun c => { c with refilling := true }

/-- A step (R520): the control pipeline may execute one instruction. -/
def Dev.step (d : Dev) (x : Nat) : Dev :=
  d.modCore x fun c => { c.passBrk with halted := false, stepping := true }

end Sys2Proof.Machine
end

