-- ==== Sys2Proof/Machine/MemOps.lean ====
section
/-! DEFINITION. The device address map, the partitions of the base SRAM and storage by device address (R329 to R336,
R566). -/

namespace Sys2Proof.Machine

/-- What lies at a device address (R566, R329, R335). -/
inductive Rgn where
  | reg | flash | vcache (n : Nat) | stage (n : Nat) | solver | evlog | general | placed (k : Nat) | inter
  | user (n : Nat) | unmapped
  deriving DecidableEq, Repr

/-- The partition of a base SRAM offset (R335, Table 2). -/
def partOf (o : Nat) : Rgn :=
  if o < 0x8000000 then .vcache (o / 0x2000000)
  else if o < 0x9000000 then .stage ((o - 0x8000000) / 0x400000)
  else if o < 0xB200000 then .solver
  else if o < 0xBA00000 then .evlog
  else .general

/-- First address of the fabric user window of CD n, 64 GiB long (R566). -/
def userBase (n : Nat) : Nat := 0x030000000000 + n * 0x001000000000

/-- The region of a device address (R566). -/
def regionOf (a : Nat) : Rgn :=
  if a < 0x1000000 then .reg
  else if 0x40000000 ≤ a ∧ a < 0x41000000 then .flash
  else if inSram a then partOf (a - sramBase)
  else if inPlaced 0 a then .placed 0
  else if inPlaced 1 a then .placed 1
  else if inInter a then .inter
  else
    match (List.range 4).find? fun n => decide (userBase n ≤ a) && decide (a < userBase n + 64 * 2 ^ 30) with
    | some n => .user n
    | none => .unmapped

/-- Who makes a memory access (R336, Table 3). -/
inductive Requester where
  | host | ctl | vec (q : Nat) | guest
  deriving DecidableEq, Repr

/-- Table 3 of 12 refuses the partition to the requester, for a read or a write (R336). -/
def partRefuses (r : Requester) (write : Bool) : Rgn → Bool
  | .stage _ => true
  | .solver => true
  | .evlog => (match r with
    | .host => write
    | _ => true)
  | .vcache n => (match r with
    | .vec q => write || q / 16 != n
    | _ => false)
  | .general => (match r with
    | .vec _ => write
    | _ => false)
  | _ => false

/-- The storage at a device address is absent on the part: the vector cache of an absent die, or stack 1 where there is
none, reached through either aperture (R7, R8, R331, R335). -/
def Dev.storeAbsent (d : Dev) (a : Nat) : Bool :=
  match regionOf a with
  | .vcache n => !d.cdPresent n
  | .placed k => !d.hbmPresent k
  | .inter => inPlaced 1 (d.placeOf a) && !d.hbmPresent 1
  | _ => false

/-- A byte of base SRAM or HBM by device address; absent storage reads zero (R7, R331). -/
def Dev.peek (d : Dev) (a : Nat) : Byte := if d.storeAbsent a then 0 else d.memGet (d.placeOf a)

/-- A byte stored by device address; absent storage ignores it. -/
def Dev.poke (d : Dev) (a : Nat) (b : Byte) : Dev := if d.storeAbsent a then d else d.memPut (d.placeOf a) b

/-- `n` bytes from `a`, little-endian, as a number. -/
def Dev.peekNum (d : Dev) (a : Nat) : Nat → Nat
  | 0 => 0
  | n + 1 => (d.peek a).toNat + 256 * Dev.peekNum d (a + 1) n

/-- `n` bytes of `v`, little-endian, stored from `a`. -/
def Dev.pokeNum (d : Dev) (a : Nat) : Nat → Nat → Dev
  | 0, _ => d
  | n + 1, v => Dev.pokeNum (d.poke a (BitVec.ofNat 8 v)) (a + 1) n (v / 256)

/-- A list of bytes stored from `a`. -/
def Dev.pokeBytes (d : Dev) (a : Nat) : List Byte → Dev
  | [] => d
  | b :: l => Dev.pokeBytes (d.poke a b) (a + 1) l

/-- `n` bytes from `a`. -/
def Dev.peekBytes (d : Dev) (a n : Nat) : List Byte := (List.range n).map fun i => d.peek (a + i)

/-- An uncorrectable error at a device address: counted, its address latched, a class B record MEM_UE (R333, R354). -/
def Dev.memUE (d : Dev) (a : Nat) : Dev :=
  let d := d.count48 K.BAS_UE_LO_COUNT_LO K.BAS_UE_HI_COUNT_HI K.BAS_UE_HI_OVF
  let d := (d.set2 K.BAS_UE_ADDR_LO K.BAS_UE_ADDR_HI a).put K.BAS_MEM_STATUS_UE_ANY true
  d.logBOn dieBD 0x11B blkBAS a

/-- A corrected error: counted (R333). -/
def Dev.memCE (d : Dev) : Dev :=
  (d.count48 K.BAS_CE_LO_COUNT_LO K.BAS_CE_HI_COUNT_HI K.BAS_CE_HI_OVF).put K.BAS_MEM_STATUS_CE_ANY true

end Sys2Proof.Machine
end

