-- ==== Sys2Proof/Machine/PtuOps.lean ====
section
/-! DEFINITION. The pattern translation unit: walks, the TLBs and their pins, translations of the control pipeline and
of vector segments (R340 to R353). -/

namespace Sys2Proof.Machine

/-- Why a translation fails (PTU_FLT.REASON, R355). -/
def prINVALID : Nat := 1
def prECC : Nat := 2
def prPERM : Nat := 3
def prFAR : Nat := 4
def prLONG : Nat := 5
def prUNLISTED : Nat := 6
def prIO : Nat := 7

/-- A failed translation: REASON, LEVEL and the address it concerns. -/
structure TFail where
  reason : Nat
  level : Nat
  addr : Nat
  deriving DecidableEq, Repr

/-- A table, a page list or a root may be read: general partition or an HBM aperture (R343). -/
def walkable (a : Nat) : Bool :=
  match regionOf a with
  | .general => true
  | .placed _ => true
  | .inter => true
  | _ => false

/-- A first-level entry is valid under Table 6 (R341). -/
def pte1Valid (e : Nat) : Bool :=
  bitAt e 0 && bitsAt e 2 10 == 0 && bitsAt e 48 16 == 0 && (bitAt e 1 || bitsAt e 12 5 == 0)

/-- A second-level entry is valid under Table 7 for its page size (R342). -/
def pte2Valid (big : Bool) (e : Nat) : Bool :=
  bitAt e 0 && bitsAt e 4 12 == 0 && bitsAt e 48 16 == 0 && (!big || bitsAt e 16 5 == 0)

/-- The root of core `q`: its first-level table's address (R341, R355). -/
def Dev.rootOf (d : Dev) (q : Nat) : Nat := d.get (K.PTU_ROOT_LO_ROOT q) * 2 ^ 13 + d.get (K.PTU_ROOT_HI q) * 2 ^ 32

/-- A walk (R343): the page size and the second-level entry, or the failure. `ecc` names the level whose read meets an
uncorrectable error. -/
def Dev.walk (d : Dev) (q va : Nat) (ecc : Option Nat) : Except TFail (Bool × Nat) :=
  if !d.on (K.PTU_ROOT_LO_EN q) then .error ⟨prINVALID, 1, va⟩
  else if bitsAt va 40 8 ≠ 0 then .error ⟨prINVALID, 1, va⟩
  else if !walkable (d.rootOf q) then .error ⟨prIO, 1, d.rootOf q⟩
  else if ecc = some 1 then .error ⟨prECC, 1, va⟩
  else
    let e1 := d.peekNum (d.rootOf q + 8 * bitsAt va 30 10) 8
    if !pte1Valid e1 then .error ⟨prINVALID, 1, va⟩
    else
      let big := bitAt e1 1
      let next := bitsAt e1 12 36 * 4096
      let a := next + 8 * (if big then bitsAt va 21 9 else bitsAt va 16 14)
      if !walkable a then .error ⟨prIO, 2, a⟩
      else if ecc = some 2 then .error ⟨prECC, 2, va⟩
      else
        let e2 := d.peekNum a 8
        if !pte2Valid big e2 then .error ⟨prINVALID, 2, va⟩ else .ok (big, e2)

/-- Bytes of a page. -/
def pageBytes (big : Bool) : Nat := if big then 2 ^ 21 else 2 ^ 16

/-- The physical address of `va` under a second-level entry (R342). -/
def pteAddr (big : Bool) (e va : Nat) : Nat := bitsAt e 16 32 * 2 ^ 16 + va % pageBytes big

/-- The TLB of core `q`'s group of four (R345). -/
def Dev.tlbOf (d : Dev) (q : Nat) : List Tlb := tblGet [] d.ptu.tlb (q / 4)

/-- The TLB of core `q`'s group replaced. -/
def Dev.setTlb (d : Dev) (q : Nat) (l : List Tlb) : Dev := { d with ptu := { d.ptu with tlb := tblPut d.ptu.tlb (q / 4) l } }

/-- The entry serves `va` under root `q`. -/
def Tlb.serves (t : Tlb) (q va : Nat) : Bool := t.root == q && va / pageBytes t.big * pageBytes t.big == t.va

/-- The last element of a list that satisfies `p`, removed. -/
def dropLastWhere {α : Type} (p : α → Bool) (l : List α) : List α :=
  match l.reverse.span (fun a => !p a) with
  | (_, []) => l
  | (a, _ :: b) => (a ++ b).reverse

/-- An entry becomes the most recently used one; when its share (64 for control, 48 for a core's vector translations) is
full, the least recently used unpinned entry of that share is replaced (R345). -/
def tlbInsert (t : Tlb) (l : List Tlb) : List Tlb :=
  let cap := if t.own = 64 then 64 else 48
  let full := decide (cap ≤ (l.filter fun e => e.own == t.own && (t.own != 64 || e.pins == [])).length)
  t :: (if full then dropLastWhere (fun e => e.own == t.own && e.pins == []) l else l)

/-- A translation of `va` under root `q`, from the TLB or by a walk whose entry is then held (R343, R345); a walk counts
in PTU_WALK. -/
def Dev.translate (d : Dev) (q va own : Nat) (ecc : Option Nat) : Dev × Except TFail Tlb :=
  let l := d.tlbOf q
  match l.find? fun t => t.serves q va && !t.stale with
  | some t => (d.setTlb q (t :: l.erase t), .ok t)
  | none =>
    let d := d.count48 K.PTU_WALK_LO_COUNT_LO K.PTU_WALK_HI_COUNT_HI K.PTU_WALK_HI_OVF
    match d.walk q va ecc with
    | .error e => (d, .error e)
    | .ok (big, pte) =>
      let t : Tlb := { root := q, va := va / pageBytes big * pageBytes big, big := big, pte := pte, pins := [], own := own }
      (d.setTlb q (tlbInsert t l), .ok t)

/-- PTU_FLT[q] holds the first translation fault since the core last left IDLE (R355). -/
def Dev.ptuFault (d : Dev) (q : Nat) (f : TFail) (ctrl : Bool) : Dev :=
  let d := d.put K.PTU_STATUS_FLT_ANY true
  if d.get (K.PTU_FLT_REASON q) ≠ 0 then d
  else ((d.set (K.PTU_FLT_REASON q) f.reason).set (K.PTU_FLT_LEVEL q) f.level).put (K.PTU_FLT_CTRL q) ctrl

/-- What a control-pipeline access needs of its page. -/
inductive CtlUse where
  | fetch | load | store
  deriving DecidableEq, Repr

/-- The page's entry permits the use: a fetch needs X, a store W, a load V alone (R342, R344). -/
def CtlUse.permits (u : CtlUse) (pte : Nat) : Bool :=
  match u with
  | .fetch => bitAt pte 1
  | .store => bitAt pte 2
  | .load => true

/-- A control-pipeline translation: the physical address, or `none` with PTU_FLT recorded (R350). -/
def Dev.ctlTranslate (d : Dev) (q va : Nat) (u : CtlUse) : Dev × Option Nat :=
  match d.translate q va 64 none with
  | (d, .error e) => (d.ptuFault q e true, none)
  | (d, .ok t) =>
    if u.permits t.pte then (d, some (pteAddr t.big t.pte va)) else (d.ptuFault q ⟨prPERM, 3, va⟩ true, none)

/-- A read of `n` bytes at a virtual address of core `q` by the device itself (boundary tables, declarations, page
lists): V alone is needed (R339, R346). -/
def Dev.virtRead (d : Dev) (q va n : Nat) : Dev × Except TFail Nat :=
  match d.translate q va 64 none with
  | (d, .error e) => (d, .error e)
  | (d, .ok t) => (d, .ok (d.peekNum (pteAddr t.big t.pte va) n))

/-! ## Segment admission (R346 to R349) -/

/-- A vector-pipeline page (R343, R344): memory that Table 3 admits to it, VEC = 1, in the near stack's placed aperture
or the die's vector cache. -/
def Dev.vecPageFail (d : Dev) (q va pa pte : Nat) : Option TFail :=
  let r := regionOf pa
  let near := if d.variant = .ul8256 then 0 else nearStack (q / 16)
  let mem := match r with
    | .vcache _ => true
    | .stage _ => true
    | .solver => true
    | .evlog => true
    | .general => true
    | .placed _ => true
    | .inter => true
    | _ => false
  if !mem ∨ partRefuses (.vec q) false r then some ⟨prIO, 3, pa⟩
  else if !bitAt pte 3 then some ⟨prPERM, 3, va⟩
  else if r = .placed near ∨ r = .vcache (q / 16) then none
  else some ⟨prFAR, 3, va⟩

/-- The boundary-table entry of BIDX as its four words (R219), read through the core's root. -/
def Dev.btabEntry (d : Dev) (q bidx : Nat) : Dev × Except TFail Nat :=
  let a := (d.core q).v.btab.1 + 32 * bidx
  d.virtRead q a 32

/-- One page of the list: translated, checked and pinned (R347). -/
def Dev.admitPage (d : Dev) (q : Nat) (entry : Nat) (ecc : Option Nat) : Dev × Except TFail (Nat × Nat) :=
  let va := bitsAt entry 16 32 * 2 ^ 16
  match d.translate q va q ecc with
  | (d, .error e) => (d, .error e)
  | (d, .ok t) =>
    match d.vecPageFail q va (pteAddr t.big t.pte va) t.pte with
    | some e => (d, .error e)
    | none =>
      let l := (d.tlbOf q).map fun e => if e.serves q va && !e.stale && !e.pins.contains q then { e with pins := q :: e.pins } else e
      (d.setTlb q l, .ok (t.va, pageBytes t.big))

/-- The pages of a list in order, to the first failure. `ecc` names the level and the position of a read that meets an
uncorrectable error. -/
def Dev.admitPages (d : Dev) (q : Nat) (ecc : Option (Nat × Nat)) : Nat → List Nat → List (Nat × Nat) →
    Dev × Except TFail (List (Nat × Nat))
  | _, [], acc => (d, .ok acc.reverse)
  | i, e :: l, acc =>
    let bad := match ecc with
      | some (lv, j) => if j = i ∧ lv ≠ 0 then some lv else none
      | none => none
    match d.admitPage q e bad with
    | (d, .error f) => (d, .error f)
    | (d, .ok p) => Dev.admitPages d q ecc (i + 1) l (p :: acc)

/-- Pins of core `q` kept on the pages of a list alone (R347). -/
def Dev.keepPins (d : Dev) (q : Nat) (pages : List (Nat × Nat)) : Dev :=
  let l := (d.tlbOf q).map fun t =>
    if t.root == q && !t.stale && pages.any (fun p => p.1 == t.va) then t else { t with pins := t.pins.filter (· != q) }
  let l := l.filter fun t => !(t.stale && t.pins == [])
  (d.setTlb q l).modV q fun v => { v with pins := pages }

/-- The admission of the segment at boundary entry `bidx` (R347): the page list read and its pages translated, checked
and pinned, or the failure. -/
def Dev.admitSegment (d : Dev) (q bidx : Nat) (ecc : Option (Nat × Nat)) : Dev × Option TFail :=
  match d.btabEntry q bidx with
  | (d, .error e) => (d, some e)
  | (d, .ok w) =>
    let pages := bitsAt w (128 + 32) 16
    let plist := bitsAt w 192 48
    if pages = 0 ∨ 24 < pages then (d, some ⟨prLONG, 0, plist⟩)
    else
      match d.translate q plist 64 none with
      | (d, .error e) => (d, some { e with level := 0 })
      | (d, .ok t) =>
        let pa := pteAddr t.big t.pte plist
        if !walkable pa then (d, some ⟨prIO, 0, pa⟩)
        else if ecc.map Prod.fst = some 0 then (d, some ⟨prECC, 0, plist⟩)
        else
          let l := (List.range pages).map fun i => d.peekNum (pa + 8 * i) 8
          match d.admitPages q ecc 0 l [] with
          | (d, .error e) => (d, some e)
          | (d, .ok ps) => (d.keepPins q ps, none)

/-- The virtual address lies on a page of the admitted list (R349). -/
def VCore.listed (v : VCore) (va : Nat) : Bool := v.pins.any fun p => decide (p.1 ≤ va) && decide (va < p.1 + p.2)

/-! ## Invalidation and roots (R352, R353) -/

/-- Every TLB changed by `f`. -/
def Dev.eachTlb (d : Dev) (f : List Tlb → List Tlb) : Dev :=
  { d with ptu := { d.ptu with tlb := d.ptu.tlb.map fun (e : Nat × List Tlb) => (e.1, f e.2) } }

/-- An invalidation selects a TLB entry: all; its root; or its root and an overlap with `n` pages of 64 KiB from page `p`
(R352, Table 12). -/
def Tlb.selected (t : Tlb) (scope root p n : Nat) : Bool :=
  match scope with
  | 1 => t.root == root
  | 2 => t.root == root && decide (t.va < (p + n) * 65536) && decide (p * 65536 < t.va + pageBytes t.big)
  | _ => true

/-- A write of PTU_INV: SCOPE and ROOT, and with GO the invalidation begins (R352). Matching unpinned entries go at once,
which R352 allows (log 46); matching pinned ones stay for their segments. -/
def Dev.invWrite (d : Dev) (w : Nat) : Dev :=
  let d := (d.set K.PTU_INV_SCOPE (bitsAt w 1 2)).set K.PTU_INV_ROOT (bitsAt w 8 6)
  if !bitAt w 0 then d
  else if d.on K.PTU_STATUS_INV_BUSY then d.put K.PTU_STATUS_INV_REFUSED true
  else
    let sc := d.get K.PTU_INV_SCOPE
    let root := d.get K.PTU_INV_ROOT
    let p := d.get K.PTU_INV_VA_LO + 2 ^ 16 * d.get K.PTU_INV_VA_HI
    let n := d.get K.PTU_INV_PAGES
    let d := (d.put K.PTU_STATUS_INV_BUSY true).put K.PTU_INV_RESULT_DONE false
    let d := { d with ptu := { d.ptu with inv := some (sc, root, p, n) } }
    d.eachTlb fun l => (l.filter fun t => !(t.selected sc root p n && t.pins == [])).map fun t =>
      if t.selected sc root p n then { t with stale := true } else t

/-- INVALIDATION_DONE: no unpinned match is left; the pinned ones still in use are counted (R352). -/
def Dev.invDone (d : Dev) : Dev :=
  match d.ptu.inv with
  | none => d
  | some (sc, root, p, k) =>
    let n := (d.ptu.tlb.map fun e => (e.2.filter fun t => t.stale && t.selected sc root p k).length).sum
    let d := { d with ptu := { d.ptu with inv := none } }
    ((d.put K.PTU_STATUS_INV_BUSY false).put K.PTU_INV_RESULT_DONE true).set K.PTU_INV_RESULT_DEFERRED n

/-- A write of PTU_ROOT_LO[q] or PTU_ROOT_HI[q] (R353): ignored while the core's site is active, else the TLB entries of
the root go. -/
def Dev.rootWrite (d : Dev) (q : Nat) (hi : Bool) (w : Nat) : Dev :=
  let active := match d.coreSite q with
    | some s => d.siteIn s stActive
    | none => false
  if active then d.put K.PTU_STATUS_WR_REFUSED true
  else
    let d := if hi then d.set (K.PTU_ROOT_HI q) (bitsAt w 0 16)
      else (d.put (K.PTU_ROOT_LO_EN q) (bitAt w 0)).set (K.PTU_ROOT_LO_ROOT q) (bitsAt w 13 19)
    d.eachTlb fun l => l.filter fun t => t.root != q

end Sys2Proof.Machine
end

