-- ==== Sys2Proof/Machine/Operands.lean ====
section
/-! DEFINITION. How a Prajo control instruction reads its operands, issues, retires and faults: the g and f registers,
immediates and the prefix, the program counter (R127, R155 to R161). -/

namespace Sys2Proof.Machine

/-- g[r]: g0 reads zero (R127). -/
def Core.gGet (c : Core) (r : Nat) : DWord := if r = 0 then 0 else tblGet 0 c.g r

/-- A load that was to write a register which a later instruction has written since: its data are discarded, as those of
a load to g0 are (log 12). -/
def Load.orphan (l : Load) (isF : Bool) (r : Nat) : Load :=
  if l.isF = isF ∧ l.rd = r then { l with isF := false, rd := 0 } else l

/-- g[r] := v; a write of g0 is ignored (R127). -/
def Core.gSet (c : Core) (r : Nat) (v : DWord) : Core :=
  if r = 0 then c else { c with g := tblPut c.g r v, loads := c.loads.map (Load.orphan · false r) }

/-- f[r] (R127). -/
def Core.fGet (c : Core) (r : Nat) : DWord := tblGet 0 c.f r

/-- f[r] := v. -/
def Core.fSet (c : Core) (r : Nat) (v : DWord) : Core :=
  { c with f := tblPut c.f r v, loads := c.loads.map (Load.orphan · true r) }

/-- Program-counter arithmetic: modulo 2^48, bits [2:0] zero (R155). -/
def pcWrap (a : Int) : Nat := narrow a 48 / 8 * 8

/-- The address after the instruction: 16 beyond a prefix, else 8 (R159). -/
def Core.nextPc (c : Core) : Nat := pcWrap (c.pc + (if c.pfx.isSome then 16 else 8) : Nat)

/-- The instruction retires to `pc'`: the prefix is used up. -/
def Core.retireTo (c : Core) (pc' : Nat) : Core := { c with pc := pc', pfx := none, fetched := 0 }

/-- The instruction retires to the next address. -/
def Core.retire (c : Core) : Core := c.retireTo c.nextPc

/-- The immediate of a format I instruction: imm43 sign-extended, or HI21 × 2^43 + imm43 after a prefix (R156, R159). -/
def Core.imm (c : Core) (i : BitVec 43) : DWord :=
  match c.pfx with
  | none => i.signExtend 64
  | some hi => BitVec.ofNat 64 (hi * 2 ^ 43 + i.toNat)

/-- A branch target: PC + 8 × off43 modulo 2^48 (R165). -/
def Core.target (c : Core) (off : BitVec 43) : Nat := pcWrap ((c.pc : Int) + 8 * off.toInt)

/-- Controller `x` exists: a present core, or the hub controller. -/
def Dev.ctlExists (d : Dev) (x : Nat) : Bool := x == 64 || d.corePresent x

/-- The control pipeline of `x` is at an instruction boundary and may issue (R160): running, not halted. -/
def Dev.ctlReady (d : Dev) (x : Nat) : Bool :=
  d.ctlExists x && (d.core x).ctl == .run && !(d.core x).halted

/-- A register that the instruction reads awaits its load's data (R160). -/
def Core.awaits (c : Core) (gs fs : List Nat) : Bool :=
  c.loads.any fun l => if l.isF then fs.contains l.rd else l.rd != 0 && gs.contains l.rd

/-- The control pipeline waits in a WAITE or WAITT. -/
def Ctl.isWait : Ctl → Bool
  | .waitE .. => true
  | .waitT .. => true
  | _ => false

/-- After an instruction a debug step halts the core again; a WAITE or WAITT that cannot complete is left waiting and
STEP_WAIT is set (R520). -/
def Dev.afterInstr (d : Dev) (x : Nat) : Dev :=
  if (d.core x).stepping then
    let d := d.when (d.core x).ctl.isWait fun d => d.put K.DBG_STATUS_STEP_WAIT true
    let d := d.modCore x fun c => { c with stepping := false, halted := true }
    if x = 64 then d else d.setCoreState x csHALTED
  else d

/-- The comparators of KIND 0 judge the address of the present instruction word once; a match whose action is HALT halts
the pipeline before the instruction, or before its prefix, executes (R523; log 14). Answers whether execution goes on. -/
def Dev.fetchMatch (d : Dev) (x : Nat) : Dev × Bool :=
  let c := d.core x
  let w := if c.pfx.isSome then 1 else 0
  if w < c.fetched then (d, true)
  else
    let (d, halt) := d.compare x 0 (pcWrap (c.pc + 8 * w : Nat)) 0
    let d := d.modCore x fun c => { c with fetched := w + 1 }
    if halt && d.dbgPermit then
      (d.modCore x fun c => { c with halted := true, stepping := false, dbgReq := true, pfx := none }, false)
    else (d, true)

/-- The fetch of the present instruction word: the comparators; then, in a core, the translation of its address, whose
failure raises BUS_ERROR (R168, R350). It may leave a line in the instruction cache (R148). Answers whether the
instruction may execute. -/
def Dev.fetch (d : Dev) (x : Nat) : Dev × Bool :=
  match d.fetchMatch x with
  | (d, false) => (d, false)
  | (d, true) =>
    let d := d.modCore x fun c => { c with icache := true }
    if x = 64 then (d, true)
    else
      let va := pcWrap ((d.core x).pc + (if (d.core x).pfx.isSome then 8 else 0) : Nat)
      match d.ctlTranslate x va .fetch with
      | (d, some _) => (d, true)
      | (d, none) => ((d.ctlFault x fcBUS va).afterInstr x, false)

/-- A control instruction that reads g registers `gs` and f registers `fs`. It does not issue while the pipeline is not
ready or a source awaits a load: the command then has no effect. After a prefix, an instruction that is not prefixable
raises ILLEGAL_OPCODE at the prefix (R159, R160). -/
def Dev.issue (d : Dev) (x : Nat) (gs fs : List Nat) (prefixable : Bool) (body : Dev → Dev) : Dev :=
  if !d.ctlReady x || (d.core x).awaits gs fs then d
  else
    let (d, go) := d.fetch x
    if !go then d
    else if (d.core x).pfx.isSome && !prefixable then (d.ctlFaultPlain x fcILLEGAL).afterInstr x
    else (body d).afterInstr x

/-- An instruction that writes g[rd] with a value of the core's state and retires. -/
def Dev.gInstr (d : Dev) (x rd : Nat) (gs fs : List Nat) (prefixable : Bool) (f : Core → DWord) : Dev :=
  d.issue x gs fs prefixable fun d => d.modCore x fun c => (c.gSet rd (f c)).retire

/-- A three-register integer instruction: g[rd] := f a b (R156, format T). -/
def Dev.tInstr (d : Dev) (x rd rs1 rs2 : Nat) (f : DWord → DWord → DWord) : Dev :=
  d.gInstr x rd [rs1, rs2] [] false fun c => f (c.gGet rs1) (c.gGet rs2)

/-- A unary integer instruction: g[rd] := f a. -/
def Dev.uInstr (d : Dev) (x rd rs1 : Nat) (f : DWord → DWord) : Dev :=
  d.gInstr x rd [rs1] [] false fun c => f (c.gGet rs1)

/-- An immediate instruction, prefixable: g[rd] := f a imm (R156, R164, format I). -/
def Dev.iInstr (d : Dev) (x rd rs1 : Nat) (imm : BitVec 43) (f : DWord → DWord → DWord) : Dev :=
  d.gInstr x rd [rs1] [] true fun c => f (c.gGet rs1) (c.imm imm)

/-- A conditional branch (R165, format B). -/
def Dev.bInstr (d : Dev) (x rs1 rs2 : Nat) (off : BitVec 43) (p : DWord → DWord → Bool) : Dev :=
  d.issue x [rs1, rs2] [] false fun d => d.modCore x fun c =>
    c.retireTo (if p (c.gGet rs1) (c.gGet rs2) then c.target off else c.nextPc)

/-- An instruction whose encoding is reserved or not available on its controller (R157): it issues and raises
ILLEGAL_OPCODE without effect. -/
def Dev.illegal (d : Dev) (x : Nat) : Dev :=
  d.issue x [] [] true fun d => d.ctlFaultPlain x fcILLEGAL

/-- The state after an effect on the device. -/
def State.onDev (s : State) (f : Dev → Dev) : State := { s with dev := f s.dev }

/-- The state after the effect of a sampled event, which is kept among the events of the tick (R118). -/
def State.onDevAs (s : State) (e : Evt) (f : Dev → Dev) : State :=
  let d := f s.dev
  { s with dev := d, applied := s.applied ++ [(e, d)] }

/-- A command whose effect is `f` on the device and that is no sampled event of R116. -/
def State.does (s : State) (f : Dev → Dev) : Out := .next (s.onDev f)

/-- A sampled event whose effect is `f` on the device. -/
def State.doesAs (s : State) (e : Evt) (f : Dev → Dev) : Out := .next (s.onDevAs e f)

end Sys2Proof.Machine
end

