-- ==== Sys2Proof/Machine/LeaseOps.lean ====
section
/-! DEFINITION. The maintenance arbiter: requesting, releasing and withdrawing leases (R531 to R536). -/

namespace Sys2Proof.Machine

/-- The lease classes (R531, Table 1). -/
def lcTGRP : Nat := 0
def lcFCOL : Nat := 1
def lcHBM : Nat := 2
def lcFLASH : Nat := 3
def lcD2D : Nat := 4
def lcPLL : Nat := 5

/-- The class exists on the unit, and the unit is present (R531, Table 1; R7). -/
def Dev.leaseExists (d : Dev) (unit cls : Nat) : Bool :=
  if unit < 4 then d.cdPresent unit && [0, 1, 4, 5].contains cls
  else if unit = 4 then cls == 4
  else if unit = 5 then cls == 3
  else if unit < 8 then d.hbmPresent (unit - 6) && cls == 2
  else false

/-- HOLDER of the lease; 0 none (R532). -/
def Dev.holder (d : Dev) (unit cls : Nat) : Nat := d.get (K.BST_LEASE_HOLDER unit cls)

/-- The queue of a lease, oldest first. -/
def Dev.leaseQueue (d : Dev) (unit cls : Nat) : List (Nat × Nat) := tblGet [] d.lease.queue (8 * unit + cls)

/-- The queue of a lease and its QUEUED count set. -/
def Dev.setLeaseQueue (d : Dev) (unit cls : Nat) (l : List (Nat × Nat)) : Dev :=
  let d := d.set (K.BST_LEASE_QUEUED unit cls) l.length
  let k := 8 * unit + cls
  let q := if l = [] then tblErase d.lease.queue k else tblPut d.lease.queue k l
  { d with lease := { d.lease with queue := q } }

/-- How the arbiter answers a request (R533). -/
inductive LAns where
  /-- Granted in this tick. -/
  | granted
  /-- Held, and the request did not ask to queue. -/
  | busy (holder : Nat)
  /-- Held, and the queue is full. -/
  | qfull (holder : Nat)
  /-- In the queue. -/
  | queued
  deriving DecidableEq, Repr

/-- A request for a lease by `holder` with an argument (R533). -/
def Dev.leaseReq (d : Dev) (unit cls holder arg : Nat) (queue : Bool) : Dev × LAns :=
  let h := d.holder unit cls
  if h = 0 then
    ((d.set (K.BST_LEASE_HOLDER unit cls) holder).set (K.BST_LEASE_ARG unit cls) arg, .granted)
  else if !queue then (d, .busy h)
  else if 8 ≤ (d.leaseQueue unit cls).length then (d, .qfull h)
  else (d.setLeaseQueue unit cls (d.leaseQueue unit cls ++ [(holder, arg)]), .queued)

/-- The holder releases a lease: the head of its queue receives it in this tick, or it is free (R534). -/
def Dev.leaseFree (d : Dev) (unit cls : Nat) : Dev :=
  match d.leaseQueue unit cls with
  | [] => (d.set (K.BST_LEASE_HOLDER unit cls) 0).set (K.BST_LEASE_ARG unit cls) 0
  | (h, a) :: l =>
    let d := ((d.set (K.BST_LEASE_HOLDER unit cls) h).set (K.BST_LEASE_ARG unit cls) a).setLeaseQueue unit cls l
    { d with lease := { d.lease with granted := d.lease.granted ++ [(8 * unit + cls, h)] } }

/-- `holder` releases the lease, if it holds it. -/
def Dev.leaseRelease (d : Dev) (unit cls holder : Nat) : Dev :=
  if d.holder unit cls = holder ∧ holder ≠ 0 then
    { d with lease := { d.lease with granted := d.lease.granted.filter (fun p => p != (8 * unit + cls, holder)) } }.leaseFree
      unit cls
  else d

/-- `holder` withdraws its queued requests for a lease (R533). -/
def Dev.leaseWithdraw (d : Dev) (unit cls holder : Nat) : Dev :=
  d.setLeaseQueue unit cls ((d.leaseQueue unit cls).filter fun p => p.1 != holder)

/-- `holder` gives up every lease of the unit and class: held or queued. -/
def Dev.leaseDrop (d : Dev) (unit cls holder : Nat) : Dev := (d.leaseWithdraw unit cls holder).leaseRelease unit cls holder

/-- Every lease as (unit, class). -/
def allLeases : List (Nat × Nat) := (List.range 8).flatMap fun u => (List.range 6).map fun c => (u, c)

/-- A lease is cleared with its queue (R536). -/
def Dev.leaseClear (d : Dev) (unit cls : Nat) : Dev :=
  let d := d.setLeaseQueue unit cls []
  let d := (d.set (K.BST_LEASE_HOLDER unit cls) 0).set (K.BST_LEASE_ARG unit cls) 0
  { d with lease := { d.lease with granted := d.lease.granted.filter fun p => p.1 != 8 * unit + cls } }

/-- The leases of the units on a die are cleared: 0 to 3 a channel die, 4 the base die with the stacks (R536). -/
def Dev.leaseDieReset (d : Dev) (die : Nat) : Dev :=
  d.each (allLeases.filter fun p => p.1 == die || (die == 4 && (p.1 == 6 || p.1 == 7))) fun d p => d.leaseClear p.1 p.2

/-- On entry into Safe every queued request is withdrawn (R536). -/
def Dev.leaseSafe (d : Dev) : Dev := d.each allLeases fun d p => d.setLeaseQueue p.1 p.2 []

/-- A lease of a die is held: it keeps the die Active (R468). -/
def Dev.dieLeased (d : Dev) (n : Nat) : Bool := (List.range 6).any fun c => d.holder n c != 0

/-- LEASE_REQUEST: an activity requests a lease (R533). -/
def execLeaseRequest (unit : Fin 8) (cls : Fin 6) (holder : BitVec 8) (arg : BitVec 16) (queue : Bool) (s : State) : Out :=
  s.does fun d =>
    if d.leaseExists unit cls && holder != 0 then (d.leaseReq unit cls holder.toNat arg.toNat queue).1 else d

/-- LEASE_RELEASE: the holder releases a lease (R534). -/
def execLeaseRelease (unit : Fin 8) (cls : Fin 6) (holder : BitVec 8) (s : State) : Out :=
  s.does fun d => d.leaseRelease unit cls holder.toNat

/-- LEASE_WITHDRAW: a requester withdraws its queued request (R533). -/
def execLeaseWithdraw (unit : Fin 8) (cls : Fin 6) (holder : BitVec 8) (s : State) : Out :=
  s.does fun d => d.leaseWithdraw unit cls holder.toNat

end Sys2Proof.Machine
end

