-- ==== Sys2Proof/Machine/Links.lean ====
section
/-! DEFINITION. The die links: flits and replay, a link that goes DOWN and its recovery, the guest firewall's windows
and isolation (R356 to R382). -/

namespace Sys2Proof.Machine

/-! ## Flits and replay (R356 to R361) -/

end Sys2Proof.Machine

namespace Sys2Proof

/-- The number of a flit direction. -/
def FlitChan.num : FlitChan → Nat
  | .wide d p g up => d * 32 + p * 4 + g * 2 + bit up
  | .hub up => 128 + bit up
  | .legA up => 130 + bit up
  | .legB up => 132 + bit up

/-- The other direction of the same group, link or leg. -/
def FlitChan.back : FlitChan → FlitChan
  | .wide d p g up => .wide d p g (!up)
  | .hub up => .hub (!up)
  | .legA up => .legA (!up)
  | .legB up => .legB (!up)

/-- Data flits its sender holds at most: 64 on a wide-link group, 128 on a serial link (R359). -/
def FlitChan.limit : FlitChan → Nat
  | .wide .. => 64
  | _ => 128

end Sys2Proof

namespace Sys2Proof.Machine

/-- A flit direction's state. -/
def Dev.dir (d : Dev) (c : FlitChan) : FlitDir := tblGet {} d.links.dirs c.num

/-- A flit direction's state changed by `f`. -/
def Dev.modDir (d : Dev) (c : FlitChan) (f : FlitDir → FlitDir) : Dev :=
  { d with links := { d.links with dirs := tblPut d.links.dirs c.num (f (d.dir c)) } }

/-- Both ends of a flit direction are in service: the wide link of a present die, the hub link, or a guest leg, UP. -/
def Dev.chanUp (d : Dev) : FlitChan → Bool
  | .wide n .. => d.cdPresent n && d.on (K.D2D_STATUS_UP n)
  | .hub _ => d.on K.NOP_STATUS_BD_UP
  | _ => d.variant.hasGuest && d.on K.NOP_STATUS_GD_UP

/-- A CRC error is counted: at a channel die's receivers, and at either end of the hub link (R359, R379, R381; log
26). -/
def Dev.crcError (d : Dev) : FlitChan → Dev
  | .wide n _ _ false => d.count48 (K.D2D_CRC_LO_COUNT_LO n) (K.D2D_CRC_HI_COUNT_HI n) (K.D2D_CRC_HI_OVF n)
  | .wide _ _ _ true => d
  | .hub _ => d.count48 K.NOP_HUB_CRC_LO_COUNT_LO K.NOP_HUB_CRC_HI_COUNT_HI K.NOP_HUB_CRC_HI_OVF
  | _ => d

/-- A replay is counted: one sent by a channel die, or by either end of the hub link (R359, R379, R381; log 26). -/
def Dev.replayCount (d : Dev) : FlitChan → Dev
  | .wide n _ _ true => d.count48 (K.D2D_REPLAY_LO_COUNT_LO n) (K.D2D_REPLAY_HI_COUNT_HI n) (K.D2D_REPLAY_HI_OVF n)
  | .wide _ _ _ false => d
  | .hub _ => d.count48 K.NOP_HUB_REPLAY_LO_COUNT_LO K.NOP_HUB_REPLAY_HI_COUNT_HI K.NOP_HUB_REPLAY_HI_OVF
  | _ => d

/-- The flits before SEQ `w` are acknowledged: they leave the replay buffer (R359). -/
def FlitDir.release (f : FlitDir) (w : Nat) : FlitDir :=
  { f with held := f.held.dropWhile fun p => p.1 != w }

/-- The acknowledgement that a flit of direction `c` carries: its sender has received everything before the other
direction's `want`, and its receiver, which sends that other direction, releases those flits. -/
def Dev.acked (d : Dev) (c : FlitChan) : Dev := d.modDir c.back fun f => f.release f.want

/-- The receiver discards a data flit and, unless it has asked already, sends a replay request (R359). -/
def FlitDir.discard (f : FlitDir) : FlitDir := { f with asked := true }

/-- The next data flit of a direction leaves its sender: a resent one, or a new one when fewer than the limit are held;
answers its SEQ (R359). -/
def FlitDir.sendOne (f : FlitDir) (limit : Nat) (payload : BitVec 256) : Option (Nat × FlitDir) :=
  let nxt := (f.cursor + 1) % 256
  if f.cursor ≠ f.top then some (f.cursor, { f with cursor := nxt })
  else if f.held.length < limit then
    some (f.cursor, { f with cursor := nxt, top := nxt, held := f.held ++ [(f.cursor, payload)] })
  else none

/-- The link that a direction belongs to: 0 to 3 a wide link, 4 the hub link, 5 a guest leg. -/
def chanLink : FlitChan → Nat
  | .wide n .. => n
  | .hub _ => 4
  | _ => 5

/-- An injection discards the flits received on the link (R546, detector 0x0B). -/
def Dev.linkSilent (d : Dev) (c : FlitChan) : Bool := decide (d.clock < tblGet 0 d.links.silent (chanLink c))

/-- Detector 0x0A flips a bit of the next received flit, whose CRC is then bad (R546). -/
def Dev.flitOk (d : Dev) (c : FlitChan) (ok : Bool) : Dev × Bool :=
  match d.inject 0x0A fun u _ => u == chanLink c with
  | some (_, d) => (d, false)
  | none => (d, ok)

/-- DATA_FLIT: the next data flit of a direction arrives, its CRC good (`ok`) or not. In order and good, it is accepted
and its ACK releases flits; else it is discarded with every later one until the replayed flit arrives (R357, R359). A
payload whose low byte is 0 is no data flit (R358). -/
def execDataFlit (c : FlitChan) (payload : BitVec 256) (ok : Bool) (s : State) : Out :=
  s.does fun d =>
    let resend := (d.dir c).cursor != (d.dir c).top
    if !d.chanUp c || (!resend && payload.toNat % 256 == 0) then d
    else match (d.dir c).sendOne c.limit payload with
      | none => d
      | some (q, f) =>
        let silent := d.linkSilent c
        let (d, ok) := (d.modDir c fun _ => f).flitOk c ok
        if silent then d
        else if !ok then (d.crcError c).modDir c FlitDir.discard
        else if q ≠ f.want then d.modDir c FlitDir.discard
        else (d.modDir c fun f => { f with want := (f.want + 1) % 256, asked := false, tries := 0 }).acked c

/-- IDLE_FLIT: an idle control flit arrives and acknowledges, or is discarded for its CRC (R357, R358). -/
def execIdleFlit (c : FlitChan) (ok : Bool) (s : State) : Out :=
  s.does fun d =>
    if !d.chanUp c || d.linkSilent c then d
    else match d.flitOk c ok with
      | (d, true) => d.acked c
      | (d, false) => d.crcError c

/-- REPLAY_REQUEST: the replay request for direction `c` arrives at its sender, which resends from the flit after the last
received in order; with a bad CRC it is discarded (R358, R359). -/
def execReplayRequest (c : FlitChan) (ok : Bool) (s : State) : Out :=
  s.does fun d =>
    if !d.chanUp c || !(d.dir c).asked || d.linkSilent c then d
    else if !ok then d.crcError c.back
    else
      let d := (d.modDir c fun f => { (f.release f.want) with cursor := f.want, asked := false, tries := f.tries + 1 })
      (d.replayCount c).acked c.back

/-! ## A link goes DOWN (R361, R369) -/

/-- The flit directions of a link: 0 to 3 a wide link, 4 the hub link, 5 the guest legs. -/
def linkDirs (l : Nat) : List Nat :=
  if l < 4 then (List.range 32).map (32 * l + ·) else if l = 4 then [128, 129] else [130, 131, 132, 133]

/-- A link that has been trained starts its flits anew. -/
def Dev.freshDirs (d : Dev) (l : Nat) : Dev :=
  { d with links := { d.links with dirs := (linkDirs l).foldl (fun t k => tblErase t k) d.links.dirs } }

/-- Isolation of the guest die (R377): CODE of the record GD_ISOLATED. -/
def Dev.isolate (d : Dev) (code : Nat) : Dev :=
  if !d.variant.hasGuest || d.on K.FWL_STATUS_ISOLATED then d
  else
    let d := d.put K.FWL_STATUS_ISOLATED true
    let d := { d with links := { d.links with gdReset := true, gdTraining := false } }
    d.logA 0x011 blkFWL code

/-- An end declares the link of a direction DOWN with a CAUSE (R361). A guest leg that goes DOWN isolates the guest
(R377). -/
def Dev.declareDown (d : Dev) (c : FlitChan) (cause : Nat) : Dev :=
  match c with
  | .wide n p _ _ =>
    let d := ((d.put (K.D2D_STATUS_UP n) false).set (K.D2D_STATUS_CAUSE n) cause).set (K.D2D_STATUS_PORT n) p
    let d := d.put (K.D2D_STATUS_DOWN_SEEN n) true
    let d := d.each (List.range 8) fun d p => d.put (K.D2D_PORT_UP n p) false
    d.modLink n fun l => { l with down := some (cause, p) }
  | .hub _ => d.modLink 4 fun l => { l with down := some (cause, 0) }
  | _ => ((d.put K.NOP_STATUS_GD_UP false).put K.FWL_STATUS_LINK_FAULT true).isolate 2

/-- REPLAY_LIMIT: the eighth consecutive replay of one flit has failed (R361). -/
def execReplayLimit (c : FlitChan) (s : State) : Out :=
  s.does fun d =>
    if d.chanUp c && decide (8 ≤ (d.dir c).tries) && (d.dir c).asked then d.declareDown c 1 else d

/-- LINK_SILENCE: no valid flit arrives for 1 µs (R361). -/
def execLinkSilence (c : FlitChan) (s : State) : Out :=
  s.does fun d =>
    if !d.chanUp c then d
    else
      let inj := d.linkSilent c
      let d := d.declareDown c 2
      if inj && decide (chanLink c < 5) then d.modLink (chanLink c) fun l => { l with inj := true } else d

/-- The channel dies that a link's loss affects (R369). -/
def Dev.linkDies (d : Dev) (l : Nat) : List Nat := if l < 4 then [l] else d.dies

/-- The sites that hold a core on an affected die, in one of the states. -/
def Dev.linkSites (d : Dev) (l : Nat) (sts : List Nat) : List Nat :=
  allSites.filter fun s => d.siteIn s sts && (d.siteDies s).any fun n => (d.linkDies l).contains n

/-- DSB_STOP cancels every ARMED or LINKED SITE_START and PD_START of a die's schedule table (R369). -/
def Dev.cancelOnDie (d : Dev) (n : Nat) : Dev :=
  let hubEntries := ((d.sched.links.filter fun p => p.1 / 256 == n + 2).map fun p => p.2).eraseDups
  let d := d.each hubEntries fun d e => d.schedEnd 0 e seCANCELLED 0
  d.each (List.range 256) fun d e =>
    if d.schedState (n + 2) e = seARMED ∧
        (d.get (K.SCHED_ACTION (n + 2) e) = acPD_START ∨ d.get (K.SCHED_ACTION (n + 2) e) = acSITE_START) then
      d.schedMark (n + 2) e seCANCELLED 0
    else d

/-- LINK_LOSS: the hub samples a link DOWN: stop requests of cause LINK_LOSS to every site with a core on an affected die,
their dies' starts cancelled, a class A record LINK_DOWN; recovery is requested when AUTO_RECOVER is set (R369, R370). -/
def execLinkLoss (l : Fin 5) (s : State) : Out :=
  s.doesAs (3, 0x0D, 0) fun d =>
    match (d.link l).down with
    | none => d
    | some (cause, _) =>
      let d := if (l : Nat) < 4 then d.putBit K.NOP_STATUS_CD_UP l false
        else (d.put K.NOP_STATUS_BD_UP false).set K.NOP_STATUS_HUB_CAUSE cause
      let moving := d.linkSites l [stRunning, stCurtaining]
      let bound := moving.foldl (fun m s => max m (d.siteBound s)) 0 + 800
      let auto := if (l : Nat) < 4 then d.on (K.D2D_CTRL_AUTO_RECOVER l) else d.on K.NOP_CTRL_HUB_AUTO_RECOVER
      let d := d.modLink l fun k =>
        { k with down := none, since := some d.clock, bound := bound, wanted := auto, asked := false, attempts := 0 }
      let d := d.stopReqs (d.linkSites l [stAdmitted, stRunning, stCurtaining, stRocking]) 0x0D
      let d := d.each (d.linkDies l) Dev.cancelOnDie
      let inj := (d.link l).inj
      let d := d.modLink l fun k => { k with inj := false }
      if inj then d.asInjected fun d => d.logA 0x006 blkBAS (l + 2 ^ 4 * cause) else d.logA 0x006 blkBAS (l + 2 ^ 4 * cause)

/-! ## Recovery (R370, R371) -/

/-- HOLDER of a link activity (R532). -/
def linkHolder (l : Nat) : Nat := 0x10 + l

/-- Recovery of a link in progress, and the attempts it shows. -/
def Dev.showRecovery (d : Dev) (l : Nat) (on : Bool) : Dev :=
  let d := if l < 4 then d.putBit K.NOP_STATUS_CD_RECOVERING l on else d.put K.NOP_STATUS_HUB_RECOVERING on
  if l = 4 ∧ on then d.set K.NOP_STATUS_HUB_ATTEMPTS (d.link 4).attempts else d

/-- The lease of a link's recovery is held: the first attempt begins. -/
def Dev.recoveryBegins (d : Dev) (l : Nat) : Dev := (d.modLink l fun k => { k with attempts := 1 }).showRecovery l true

/-- Recovery of a link is in progress. -/
def Dev.recovering (d : Dev) (l : Nat) : Bool :=
  if l < 4 then d.bitOf K.NOP_STATUS_CD_RECOVERING l else d.on K.NOP_STATUS_HUB_RECOVERING

/-- RECOVERY_START: the affected sites have stopped, or the wait has passed, and the requested recovery asks for the D2D
lease of the die at the base-die end with QUEUE set (R370; the unit of a wide link's lease is its channel die, R531). -/
def execRecoveryStart (l : Fin 5) (s : State) : Out :=
  s.does fun d =>
    match (d.link l).since with
    | none => d
    | some t =>
      let quiet := (d.linkSites l [stRunning, stCurtaining]).isEmpty
      if !(d.link l).wanted || (d.link l).asked || !(quiet || decide (t + (d.link l).bound ≤ d.clock)) then d
      else
        let d := d.modLink l fun k => { k with asked := true }
        match d.leaseReq l lcD2D (linkHolder l) 0 true with
        | (d, .granted) => d.recoveryBegins l
        | (d, .queued) => d
        | (d, _) => d.modLink l fun k => { k with asked := false }

/-- Recovery of a link ends: its lease is released. -/
def Dev.recoveryEnds (d : Dev) (l : Nat) : Dev :=
  ((d.showRecovery l false).modLink l fun k => { k with wanted := false, asked := false }).leaseDrop l lcD2D (linkHolder l)

/-- A PARK or ABORT that waited for the link is applied to the sites that are not at their pins; one at its Rocker takes
it at the end of the pass (R371). -/
def Dev.linkBack (d : Dev) (l : Nat) : Dev :=
  d.each (d.linkSites l [stAdmitted, stParked]) fun d s => if d.on (K.SITE_ABORT_PEND s) then d.abortSite s else d

/-- The spares that a training mapped, within what a link has: 16 on each port and direction of a wide link, 2 lanes in
each direction of the hub link (R356, R363). -/
def sparesFit (l : Nat) (spares : List (Nat × Nat)) : Bool :=
  if l < 4 then spares.length == 8 && spares.all fun p => decide (p.1 ≤ 16) && decide (p.2 ≤ 16)
  else spares.length == 1 && spares.all fun p => decide (p.1 ≤ 2) && decide (p.2 ≤ 2)

/-- A trained link shows its spares and is UP (R362, R379, R381). -/
def Dev.linkTrained (d : Dev) (l : Nat) (spares : List (Nat × Nat)) : Dev :=
  let d := d.freshDirs l
  let d := if l < 4 then
      let d := d.each ((List.range 8).zip spares) fun d p =>
        ((d.set (K.D2D_PORT_TX_SPARES l p.1) p.2.1).set (K.D2D_PORT_RX_SPARES l p.1) p.2.2).put (K.D2D_PORT_UP l p.1) true
      (d.put (K.D2D_STATUS_UP l) true).putBit K.NOP_STATUS_CD_UP l true
    else
      let d := match spares with
        | (t, r) :: _ => (d.set K.NOP_HUB_LANES_TX_SPARES t).set K.NOP_HUB_LANES_RX_SPARES r
        | [] => d
      d.put K.NOP_STATUS_BD_UP true
  d.modLink l fun k => { k with down := none, since := none }

/-- TRAINING_ATTEMPT_END: an attempt succeeds and the link is UP, with a class A record LINK_RECOVERED; or it fails, and
after the third the device enters Safe as UNRECOVERABLE (R370). SPARES of the record is the sum, at most 31 (log 27). -/
def execTrainingAttemptEnd (l : Fin 5) (ok : Bool) (spares : List (Nat × Nat)) (s : State) : Out :=
  s.does fun d =>
    if !d.recovering l then d
    else if ok && sparesFit l spares then
      let n := spares.foldl (fun n p => n + p.1 + p.2) 0
      (((d.recoveryEnds l).linkTrained l spares).linkBack l).logA 0x007 blkBAS (l + 2 ^ 8 * min n 31)
    else
      let d := if (l : Nat) < 4 then d.set (K.D2D_STATUS_CAUSE l) 3 else d.set K.NOP_STATUS_HUB_CAUSE 3
      if (d.link l).attempts < 3 then (d.modLink l fun k => { k with attempts := k.attempts + 1 }).showRecovery l true
      else (d.recoveryEnds l).unrecoverable 0x07 0x0D

/-- A write of RECOVER, HUB_RECOVER or CD_RECOVER: recovery of a link that is DOWN is requested (R370). -/
def Dev.recoverWrite (d : Dev) (l : Nat) : Dev :=
  if (d.link l).since.isSome then d.modLink l fun k => { k with wanted := true } else d

/-- Recovery is abandoned at a safety trip or the entry into Safe, and its lease released (R372, R536). -/
def Dev.linksSafe (d : Dev) : Dev :=
  d.each (List.range 5) fun d l =>
    if d.recovering l || (d.link l).asked then d.recoveryEnds l
    else d.modLink l fun k => { k with wanted := false }

/-! ## The guest firewall (R373 to R377) -/

/-- Table 5's deny ranges of a device address; fail staging and the solver partition are refused too (R373, R336). -/
def fwlDenied (a : Nat) : Bool :=
  decide (a < 0x1000) || (decide (0x10000 ≤ a) && decide (a < 0x40000)) ||
    (decide (0xA0000 ≤ a) && decide (a < 0x100000)) ||
    (decide (0x40000000 ≤ a) && decide (a < 0x41000000)) ||
    (match regionOf a with
    | .stage _ => true
    | .solver => true
    | _ => false)

/-- First address and length of window `w` (R382). -/
def Dev.fwlWin (d : Dev) (w : Nat) : Nat × Nat :=
  (d.get (K.FWL_WIN_BASE_LO w) * 2 ^ 12 + d.get (K.FWL_WIN_BASE_HI w) * 2 ^ 32, d.get (K.FWL_WIN_SIZE w) * 4096)

/-- Some byte of an access lies in a deny range: the ranges begin and end at multiples of 4 KiB. -/
def fwlTouches (a n : Nat) : Bool := (List.range ((a % 4096 + n + 4095) / 4096)).any fun k => fwlDenied (max a (a / 4096 * 4096 + 4096 * k))

/-- The verdict on a guest request (R373): allowed, refused by a deny range, by a window that does not grant the type, or
for lack of one window that contains it. -/
inductive FwlVerdict where
  | allow | deny | perm (w : Nat) | noWin
  deriving DecidableEq, Repr

/-- The firewall judges `n` bytes at `a` (R373). -/
def Dev.fwlJudge (d : Dev) (write : Bool) (a n : Nat) : FwlVerdict :=
  if fwlTouches a n then .deny
  else
    match (List.range 16).find? fun w =>
        d.on (K.FWL_WIN_ATTR_EN w) && decide ((d.fwlWin w).1 ≤ a) && decide (a + n ≤ (d.fwlWin w).1 + (d.fwlWin w).2) with
    | none => .noWin
    | some w => if (if write then d.on (K.FWL_WIN_ATTR_W w) else d.on (K.FWL_WIN_ATTR_R w)) then .allow else .perm w

/-- A refused guest access: latched when the first since the last clear, counted, recorded; it may isolate (R374, R377). -/
def Dev.fwlViolation (d : Dev) (write : Bool) (a : Nat) (v : FwlVerdict) : Dev :=
  let d := if d.on K.FWL_STATUS_VIOL then d
    else
      let d := (d.put K.FWL_STATUS_VIOL true).set2 K.FWL_VIOL_ADDR_LO K.FWL_VIOL_ADDR_HI a
      let d := (d.put K.FWL_VIOL_INFO_WRITE write).put K.FWL_VIOL_INFO_DENY (v == .deny)
      let d := d.set K.FWL_VIOL_INFO_WIN (match v with
        | .perm w => w
        | _ => 0)
      d.put K.FWL_VIOL_INFO_NO_WIN (v == .noWin)
  let d := d.bump K.FWL_VIOL_CNT
  let d := d.logA 0x010 blkFWL (a + 2 ^ 48 * bit write + 2 ^ 49 * bit (v == .deny))
  if d.on K.FWL_CTRL_AUTO_ISO && decide (d.get K.FWL_CTRL_ISO_COUNT + 1 ≤ d.get K.FWL_VIOL_CNT) then d.isolate 1 else d

/-- A write of FWL_CTRL.ISOLATE: 1 isolates; 0 releases the guest's reset and asks for the retraining of both legs under
the base die's D2D lease (R377). -/
def Dev.isolateWrite (d : Dev) (v : Bool) : Dev :=
  let d := d.put K.FWL_CTRL_ISOLATE v
  if !d.variant.hasGuest then d
  else if v then d.isolate 0
  else if d.on K.FWL_STATUS_ISOLATED && !d.links.gdTraining then
    let d := { d with links := { d.links with gdReset := false, gdTraining := true } }
    match d.leaseReq 4 lcD2D (linkHolder 4) 1 true with
    | (d, .granted) => d
    | (d, .queued) => d
    | (d, _) => { d with links := { d.links with gdTraining := false } }
  else d

/-- A write of one to FWL_STATUS.VIOL (R382). -/
def Dev.violClear (d : Dev) : Dev := (d.put K.FWL_STATUS_VIOL false).set K.FWL_VIOL_CNT 0

/-- GUEST_LEG_TRAINING_DONE: training of the guest legs ends with `a` and `b` spare lanes needed. Each leg has one: with
no more the legs are UP, the guest no longer isolated when the training followed ISOLATE; else a class A record GD_LINK
and the guest stays isolated (R363, R377). -/
def execGuestLegTrainingDone (a b : BitVec 4) (s : State) : Out :=
  s.does fun d =>
    let service := d.links.gdTraining && d.holder 4 lcD2D == linkHolder 4
    if !d.variant.hasGuest || !(service || (d.start.bdReleased && !d.on K.NOP_STATUS_GD_UP && !d.links.gdTraining)) then d
    else
      let d := if service then ({ d with links := { d.links with gdTraining := false } }).leaseDrop 4 lcD2D (linkHolder 4)
        else d
      if a.toNat ≤ 1 ∧ b.toNat ≤ 1 then
        let d := ((d.freshDirs 5).put K.NOP_GD_LANES_LEG_A (a == 1)).put K.NOP_GD_LANES_LEG_B (b == 1)
        let d := d.put K.NOP_STATUS_GD_UP true
        if service then d.put K.FWL_STATUS_ISOLATED false else d
      else
        let d := d.logA 0x012 blkFWL (if a.toNat ≤ 1 then 1 else 0)
        if service then { d with links := { d.links with gdReset := true } }
        else d.isolate 3

end Sys2Proof.Machine
end

