-- ==== Sys2Proof/Machine/RegTable.lean ====
section
/-! DEFINITION. The register map: for every register of the field tables of spec/ its address, its instances, its
fields with access code, width, reset and lock bit (R14, R16, R567, R568, R573). The lists follow the blocks of R567
and the parts of a channel-die window of R568. -/

namespace Sys2Proof.Machine

/-- The access codes of R14. -/
inductive Acc where
  | rw | ro | rs | w1c | w1s | wo | rwl | lck
  deriving DecidableEq, Repr

/-- The reset that restores a field (R16): `none` for a constant, `vbat` for the battery-backed key store. -/
inductive RstBy where
  | por | drst | die | core | vbat | none
  deriving DecidableEq, Repr

/-- One field of a register. -/
structure FieldDesc where
  lo : Nat
  width : Nat
  acc : Acc
  rst : Nat
  by' : RstBy
  deriving DecidableEq, Repr

/-- One register: its address at instance zero, the (count, stride) of each instance number, the lock bit of its RWL
fields as (bit address at instance zero, how many leading instance numbers it shares), and its fields. -/
structure RegDesc where
  base : Nat
  dims : List (Nat × Nat)
  lock : Option (Nat × Nat)
  fields : List FieldDesc
  deriving DecidableEq, Repr

/-- Registers of the block at 0x00_0000. -/
def regs00a : List RegDesc := [
  -- DEV_IDCODE
  ⟨0x0, [], none, [⟨0, 1, .ro, 1, .none⟩, ⟨1, 11, .ro, 1191, .none⟩, ⟨12, 16, .ro, 0, .por⟩, ⟨28, 4, .ro, 0, .por⟩]⟩,
  -- DEV_CAP0
  ⟨0x4, [], none, [⟨0, 4, .ro, 0, .por⟩, ⟨4, 10, .ro, 0, .por⟩, ⟨14, 6, .ro, 0, .por⟩]⟩,
  -- DEV_CAP1
  ⟨0x8, [], none, [⟨0, 2, .ro, 0, .por⟩, ⟨8, 8, .ro, 0, .por⟩, ⟨16, 8, .ro, 0, .por⟩]⟩,
  -- DEV_CAP2
  ⟨0xC, [], none, [⟨0, 1, .ro, 0, .por⟩, ⟨4, 20, .ro, 0, .por⟩, ⟨24, 8, .ro, 0, .por⟩]⟩,
  -- DEV_CAP3
  ⟨0x10, [], none, [⟨0, 1, .ro, 0, .por⟩, ⟨4, 5, .ro, 0, .por⟩]⟩,
  -- DEV_LIFECYCLE
  ⟨0x14, [], none, [⟨0, 3, .ro, 0, .por⟩, ⟨3, 3, .ro, 0, .por⟩, ⟨6, 1, .ro, 0, .por⟩, ⟨7, 1, .w1c, 0, .drst⟩, ⟨31, 1, .lck, 0, .drst⟩]⟩,
  -- DEV_LC_CTRL
  ⟨0x18, [], none, [⟨0, 3, .wo, 0, .drst⟩, ⟨24, 8, .wo, 0, .drst⟩]⟩,
  -- DEV_SERIAL_LO
  ⟨0x20, [], none, [⟨0, 32, .ro, 0, .por⟩]⟩,
  -- DEV_SERIAL_HI
  ⟨0x24, [], none, [⟨0, 32, .ro, 0, .por⟩]⟩,
  -- DEV_START_CTRL
  ⟨0x40, [], some (543, 0), [⟨0, 1, .w1s, 0, .drst⟩, ⟨4, 4, .rwl, 0, .drst⟩, ⟨8, 1, .rwl, 0, .drst⟩, ⟨31, 1, .lck, 0, .drst⟩]⟩,
  -- DEV_START_STATUS
  ⟨0x44, [], none, [⟨0, 4, .ro, 0, .drst⟩, ⟨4, 1, .ro, 0, .drst⟩, ⟨5, 1, .ro, 0, .drst⟩, ⟨6, 1, .ro, 0, .drst⟩, ⟨7, 1, .ro, 0, .drst⟩, ⟨8, 8, .ro, 0, .drst⟩, ⟨16, 4, .ro, 0, .drst⟩, ⟨20, 1, .ro, 0, .drst⟩, ⟨21, 3, .ro, 7, .drst⟩, ⟨24, 4, .ro, 0, .drst⟩]⟩,
  -- DEV_MODE
  ⟨0x48, [], none, [⟨0, 3, .ro, 0, .drst⟩, ⟨8, 8, .ro, 0, .drst⟩, ⟨16, 1, .ro, 0, .drst⟩, ⟨17, 1, .w1c, 0, .drst⟩]⟩,
  -- DEV_MODE_CTRL
  ⟨0x4C, [], none, [⟨0, 1, .wo, 0, .drst⟩]⟩,
  -- DEV_RESET_CTRL
  ⟨0x50, [], none, [⟨0, 1, .wo, 0, .drst⟩, ⟨1, 4, .wo, 0, .drst⟩, ⟨5, 1, .wo, 0, .drst⟩, ⟨6, 1, .wo, 0, .drst⟩, ⟨8, 6, .wo, 0, .drst⟩, ⟨24, 8, .wo, 0, .drst⟩]⟩,
  -- DEV_RESET_CAUSE
  ⟨0x54, [], none, [⟨0, 1, .w1c, 1, .por⟩, ⟨1, 1, .w1c, 0, .por⟩, ⟨2, 1, .w1c, 0, .por⟩, ⟨4, 4, .w1c, 0, .por⟩, ⟨8, 1, .w1c, 0, .por⟩]⟩,
  -- DEV_REG_STATUS
  ⟨0x58, [], none, [⟨0, 1, .w1c, 0, .drst⟩, ⟨1, 1, .w1c, 0, .drst⟩]⟩,
  -- DEV_SITE_STATUS
  ⟨0x100, [], none, [⟨0, 1, .w1c, 0, .drst⟩, ⟨1, 1, .ro, 0, .drst⟩, ⟨2, 6, .ro, 0, .drst⟩]⟩,
  -- DEV_SITE_CMD
  ⟨0x104, [], none, [⟨0, 4, .wo, 0, .drst⟩, ⟨4, 6, .wo, 0, .drst⟩]⟩,
  -- DEV_SITE_RUN_LO
  ⟨0x108, [], none, [⟨0, 32, .ro, 0, .drst⟩]⟩,
  -- DEV_SITE_RUN_HI
  ⟨0x10C, [], none, [⟨0, 32, .ro, 0, .drst⟩]⟩,
  -- DEV_SITE_ROCK_LO
  ⟨0x110, [], none, [⟨0, 32, .ro, 0, .drst⟩]⟩,
  -- DEV_SITE_ROCK_HI
  ⟨0x114, [], none, [⟨0, 32, .ro, 0, .drst⟩]⟩,
  -- DEV_SITE_TOT_PWR
  ⟨0x118, [], none, [⟨0, 13, .ro, 0, .drst⟩]⟩,
  -- DEV_SITE_TOT_VDEM
  ⟨0x11C, [], none, [⟨0, 16, .ro, 0, .drst⟩, ⟨16, 16, .ro, 0, .drst⟩]⟩]

/-- Registers of the block at 0x00_0000. -/
def regs00b : List RegDesc := [
  -- DEV_SITE_TOT_GBW
  ⟨0x120, [], none, [⟨0, 16, .ro, 0, .drst⟩, ⟨16, 16, .ro, 0, .drst⟩]⟩,
  -- DEV_SITE_TOT_EVQ
  ⟨0x124, [], none, [⟨0, 12, .ro, 0, .drst⟩]⟩,
  -- DEV_SITE_BREACH
  ⟨0x128, [], none, [⟨0, 6, .ro, 0, .drst⟩, ⟨6, 1, .ro, 0, .drst⟩, ⟨8, 6, .ro, 0, .drst⟩, ⟨14, 1, .ro, 0, .drst⟩, ⟨16, 2, .ro, 0, .drst⟩, ⟨31, 1, .w1c, 0, .drst⟩]⟩,
  -- SITE
  ⟨0x1000, [(64, 64)], none, [⟨0, 32, .rw, 0, .drst⟩]⟩,
  -- SITE
  ⟨0x1004, [(64, 64)], none, [⟨0, 32, .rw, 0, .drst⟩]⟩,
  -- SITE
  ⟨0x1008, [(64, 64)], none, [⟨0, 6, .rw, 0, .drst⟩]⟩,
  -- SITE
  ⟨0x100C, [(64, 64)], none, [⟨0, 12, .rw, 0, .drst⟩]⟩,
  -- SITE
  ⟨0x1010, [(64, 64)], none, [⟨0, 16, .rw, 0, .drst⟩, ⟨16, 16, .rw, 0, .drst⟩]⟩,
  -- SITE
  ⟨0x1014, [(64, 64)], none, [⟨0, 16, .rw, 0, .drst⟩, ⟨16, 16, .rw, 0, .drst⟩]⟩,
  -- SITE
  ⟨0x1018, [(64, 64)], none, [⟨0, 12, .rw, 0, .drst⟩]⟩,
  -- SITE
  ⟨0x101C, [(64, 64)], none, [⟨0, 3, .ro, 0, .drst⟩, ⟨3, 1, .ro, 0, .drst⟩, ⟨4, 1, .ro, 0, .drst⟩, ⟨5, 1, .ro, 0, .drst⟩, ⟨6, 1, .ro, 0, .drst⟩, ⟨8, 8, .ro, 0, .drst⟩]⟩,
  -- SITE
  ⟨0x1020, [(64, 64)], none, [⟨0, 8, .ro, 0, .drst⟩, ⟨8, 4, .ro, 0, .drst⟩, ⟨12, 3, .ro, 0, .drst⟩]⟩,
  -- SITE
  ⟨0x1024, [(64, 64)], none, [⟨0, 32, .ro, 0, .drst⟩]⟩,
  -- SITE
  ⟨0x1028, [(64, 64)], none, [⟨0, 32, .rs, 0, .drst⟩]⟩,
  -- SITE
  ⟨0x102C, [(64, 64)], none, [⟨0, 16, .ro, 0, .drst⟩]⟩,
  -- SITE
  ⟨0x1030, [(64, 64)], none, [⟨0, 32, .ro, 0, .drst⟩]⟩,
  -- SITE
  ⟨0x1034, [(64, 64)], none, [⟨0, 12, .ro, 0, .drst⟩]⟩]

/-- Registers of the block at 0x01_0000. -/
def regs01 : List RegDesc := [
  -- SNT_STATUS
  ⟨0x10000, [], none, [⟨0, 1, .ro, 0, .drst⟩, ⟨1, 1, .ro, 0, .drst⟩, ⟨2, 1, .ro, 0, .drst⟩, ⟨3, 1, .w1c, 0, .drst⟩, ⟨4, 1, .ro, 0, .drst⟩, ⟨5, 1, .ro, 0, .drst⟩, ⟨6, 1, .w1c, 0, .drst⟩, ⟨7, 1, .w1c, 0, .drst⟩, ⟨8, 1, .ro, 0, .drst⟩, ⟨9, 1, .ro, 0, .drst⟩]⟩,
  -- SNT_ACTIVE_SEQ
  ⟨0x10004, [], none, [⟨0, 32, .ro, 0, .drst⟩]⟩,
  -- SNT_OTHER_SEQ
  ⟨0x10008, [], none, [⟨0, 32, .ro, 0, .drst⟩]⟩,
  -- SNT_SWAP_CTRL
  ⟨0x1000C, [], none, [⟨0, 1, .w1s, 0, .drst⟩, ⟨1, 1, .wo, 0, .drst⟩, ⟨24, 8, .wo, 0, .drst⟩]⟩,
  -- SNT_SWAP_TMO
  ⟨0x10010, [], none, [⟨0, 16, .rw, 1000, .drst⟩]⟩,
  -- SNT_GROUP_STATE
  ⟨0x10014, [], none, [⟨0, 16, .ro, 65535, .drst⟩, ⟨16, 16, .ro, 0, .drst⟩]⟩,
  -- SNT_GROUP_FORCE
  ⟨0x10018, [], none, [⟨0, 16, .rw, 0, .drst⟩]⟩,
  -- SNT_POLICY
  ⟨0x1001C, [], some (524768, 0), [⟨0, 16, .rwl, 0, .drst⟩]⟩,
  -- SNT_PIN_OWN_LO
  ⟨0x10020, [], none, [⟨0, 32, .ro, 0, .drst⟩]⟩,
  -- SNT_PIN_OWN_HI
  ⟨0x10024, [], none, [⟨0, 32, .ro, 0, .drst⟩]⟩,
  -- SNT_PORT_OWN
  ⟨0x10028, [], none, [⟨0, 4, .ro, 0, .drst⟩]⟩,
  -- SNT_MBOX_TO
  ⟨0x10030, [], none, [⟨0, 32, .wo, 0, .drst⟩]⟩,
  -- SNT_MBOX_FROM
  ⟨0x10034, [], none, [⟨0, 32, .ro, 0, .drst⟩]⟩,
  -- SNT_TRIP_CAUSE
  ⟨0x10038, [], none, [⟨0, 8, .ro, 0, .drst⟩, ⟨8, 1, .w1c, 0, .drst⟩, ⟨9, 1, .w1c, 0, .drst⟩, ⟨10, 1, .w1c, 0, .drst⟩]⟩,
  -- SNT_LOCK
  ⟨0x1003C, [], none, [⟨0, 1, .lck, 0, .drst⟩, ⟨1, 1, .lck, 0, .drst⟩, ⟨2, 1, .lck, 0, .drst⟩]⟩,
  -- SNT_SAFECODE
  ⟨0x10100, [(128, 4)], some (524769, 0), [⟨0, 2, .rwl, 0, .drst⟩, ⟨2, 1, .rwl, 0, .drst⟩, ⟨8, 2, .rwl, 0, .drst⟩, ⟨10, 1, .rwl, 0, .drst⟩, ⟨16, 2, .rwl, 0, .drst⟩, ⟨18, 1, .rwl, 0, .drst⟩, ⟨24, 2, .rwl, 0, .drst⟩, ⟨26, 1, .rwl, 0, .drst⟩]⟩]

/-- Registers of the block at 0x02_0000. -/
def regs02 : List RegDesc := [
  -- FLC_STATUS
  ⟨0x20000, [], none, [⟨0, 1, .ro, 0, .drst⟩, ⟨1, 1, .ro, 0, .drst⟩, ⟨2, 8, .ro, 0, .drst⟩, ⟨10, 1, .w1c, 0, .drst⟩, ⟨11, 1, .w1c, 0, .drst⟩, ⟨12, 1, .w1c, 0, .drst⟩, ⟨13, 1, .w1c, 0, .drst⟩, ⟨14, 1, .w1c, 0, .drst⟩, ⟨15, 1, .w1c, 0, .drst⟩]⟩,
  -- FLC_CALL
  ⟨0x20004, [], none, [⟨0, 8, .wo, 0, .drst⟩, ⟨8, 1, .wo, 0, .drst⟩, ⟨24, 8, .wo, 0, .drst⟩]⟩,
  -- FLC_ARG
  ⟨0x20008, [(4, 4)], none, [⟨0, 32, .rw, 0, .drst⟩]⟩,
  -- FLC_RESULT
  ⟨0x20018, [], none, [⟨0, 8, .ro, 0, .drst⟩, ⟨8, 1, .ro, 0, .drst⟩, ⟨9, 3, .ro, 0, .drst⟩, ⟨16, 8, .ro, 0, .drst⟩]⟩,
  -- FLC_OUT
  ⟨0x2001C, [], none, [⟨0, 32, .ro, 0, .drst⟩]⟩,
  -- FLC_OUT2
  ⟨0x20020, [], none, [⟨0, 32, .ro, 0, .drst⟩]⟩,
  -- FLC_PROGRESS
  ⟨0x20024, [], none, [⟨0, 16, .ro, 0, .drst⟩]⟩,
  -- FLC_WP_P
  ⟨0x20028, [], some (1049216, 0), [⟨0, 8, .rwl, 0, .drst⟩]⟩,
  -- FLC_WP_M
  ⟨0x2002C, [(4, 4)], some (1049216, 0), [⟨0, 32, .rwl, 0, .drst⟩]⟩,
  -- FLC_XO
  ⟨0x20040, [(4, 4)], some (1049217, 0), [⟨0, 8, .rwl, 0, .drst⟩, ⟨8, 8, .rwl, 0, .drst⟩, ⟨31, 1, .rwl, 0, .drst⟩]⟩,
  -- FLC_LOCK
  ⟨0x20050, [], none, [⟨0, 1, .lck, 0, .drst⟩, ⟨1, 1, .lck, 0, .drst⟩]⟩,
  -- FLC_CE_LO
  ⟨0x20058, [], none, [⟨0, 32, .rw, 0, .drst⟩]⟩,
  -- FLC_CE_HI
  ⟨0x2005C, [], none, [⟨0, 16, .rs, 0, .drst⟩, ⟨16, 1, .w1c, 0, .drst⟩]⟩,
  -- FLC_UE_ADDR
  ⟨0x20060, [], none, [⟨0, 24, .ro, 0, .drst⟩]⟩]

/-- Registers of the block at 0x03_0000. -/
def regs03 : List RegDesc := [
  -- CFG_STATUS
  ⟨0x30000, [], none, [⟨0, 1, .ro, 0, .drst⟩, ⟨1, 2, .ro, 0, .drst⟩, ⟨3, 1, .ro, 0, .drst⟩, ⟨4, 1, .w1c, 0, .drst⟩, ⟨5, 1, .w1c, 0, .drst⟩, ⟨6, 1, .w1c, 0, .drst⟩, ⟨7, 1, .ro, 0, .drst⟩, ⟨8, 1, .ro, 0, .drst⟩, ⟨16, 16, .ro, 0, .drst⟩]⟩,
  -- CFG_CTRL
  ⟨0x30004, [], none, [⟨0, 1, .wo, 0, .drst⟩, ⟨1, 1, .rw, 0, .drst⟩]⟩,
  -- CFG_TIMEOUT
  ⟨0x30008, [], none, [⟨0, 16, .rw, 100, .drst⟩]⟩,
  -- CFG_REJECT
  ⟨0x3000C, [], none, [⟨0, 8, .ro, 0, .drst⟩, ⟨8, 4, .ro, 0, .drst⟩, ⟨16, 16, .ro, 0, .drst⟩]⟩,
  -- CFG_RX_LO
  ⟨0x30010, [], none, [⟨0, 32, .rw, 0, .drst⟩]⟩,
  -- CFG_RX_HI
  ⟨0x30014, [], none, [⟨0, 16, .rs, 0, .drst⟩, ⟨16, 1, .w1c, 0, .drst⟩]⟩,
  -- CFG_KEY_POLICY
  ⟨0x30018, [], some (1573087, 0), [⟨0, 2, .rwl, 0, .drst⟩, ⟨31, 1, .lck, 0, .drst⟩]⟩,
  -- CFG_KEYB_CTRL
  ⟨0x3001C, [], none, [⟨0, 1, .wo, 0, .drst⟩, ⟨1, 1, .wo, 0, .drst⟩, ⟨24, 8, .wo, 0, .drst⟩]⟩,
  -- CFG_KEYB_STATUS
  ⟨0x30020, [], none, [⟨0, 1, .ro, 0, .vbat⟩, ⟨1, 1, .w1c, 0, .vbat⟩, ⟨2, 2, .ro, 0, .vbat⟩, ⟨4, 1, .w1c, 0, .drst⟩]⟩,
  -- CFG_KEYB_KCV
  ⟨0x30024, [], none, [⟨0, 32, .ro, 0, .vbat⟩]⟩,
  -- CFG_KEYB_DATA
  ⟨0x30040, [(8, 4)], none, [⟨0, 32, .wo, 0, .vbat⟩]⟩,
  -- CFG_DIE_STATUS
  ⟨0x30080, [(4, 4)], none, [⟨0, 1, .ro, 0, .die⟩, ⟨1, 1, .ro, 0, .die⟩, ⟨2, 1, .ro, 1, .die⟩, ⟨3, 1, .ro, 0, .die⟩, ⟨4, 1, .ro, 0, .die⟩, ⟨5, 1, .ro, 0, .die⟩, ⟨6, 1, .wo, 0, .die⟩, ⟨16, 15, .ro, 0, .die⟩]⟩,
  -- CFG_FAB_PWR
  ⟨0x30090, [(4, 4)], none, [⟨0, 11, .ro, 0, .die⟩]⟩]

/-- Registers of the block at 0x04_0000. -/
def regs04 : List RegDesc := [
  -- TIM_STATUS
  ⟨0x40000, [], none, [⟨0, 1, .ro, 0, .drst⟩, ⟨1, 1, .ro, 1, .drst⟩, ⟨2, 1, .ro, 0, .drst⟩, ⟨3, 1, .ro, 0, .drst⟩, ⟨4, 1, .w1c, 0, .drst⟩, ⟨5, 1, .w1c, 0, .drst⟩, ⟨6, 1, .w1c, 0, .drst⟩, ⟨7, 1, .w1c, 0, .drst⟩, ⟨8, 1, .w1c, 0, .drst⟩, ⟨9, 2, .ro, 0, .drst⟩, ⟨11, 1, .w1c, 0, .drst⟩]⟩,
  -- TIM_CTRL
  ⟨0x40004, [], some (2097215, 0), [⟨0, 2, .rwl, 0, .drst⟩, ⟨2, 1, .wo, 0, .drst⟩, ⟨31, 1, .lck, 0, .drst⟩]⟩,
  -- TIM_TTI_LO
  ⟨0x40008, [], none, [⟨0, 32, .ro, 0, .drst⟩]⟩,
  -- TIM_TTI_HI
  ⟨0x4000C, [], none, [⟨0, 32, .rs, 0, .drst⟩]⟩,
  -- TIM_TICK
  ⟨0x40010, [], none, [⟨0, 30, .ro, 0, .drst⟩]⟩,
  -- TIM_SEC_LO
  ⟨0x40014, [], none, [⟨0, 32, .ro, 0, .drst⟩]⟩,
  -- TIM_SEC_HI
  ⟨0x40018, [], none, [⟨0, 8, .rs, 0, .drst⟩]⟩,
  -- TIM_SET_SEC_LO
  ⟨0x4001C, [], none, [⟨0, 32, .rw, 0, .drst⟩]⟩,
  -- TIM_SET_SEC_HI
  ⟨0x40020, [], none, [⟨0, 8, .rw, 0, .drst⟩]⟩,
  -- TIM_SET_GO
  ⟨0x40024, [], none, [⟨0, 1, .wo, 0, .drst⟩]⟩,
  -- TIM_MARK_TTI_LO
  ⟨0x40028, [], none, [⟨0, 32, .ro, 0, .drst⟩]⟩,
  -- TIM_MARK_TTI_HI
  ⟨0x4002C, [], none, [⟨0, 32, .rs, 0, .drst⟩]⟩,
  -- TIM_SCHED_FREE
  ⟨0x40030, [], none, [⟨0, 9, .ro, 0, .drst⟩, ⟨16, 9, .ro, 0, .drst⟩]⟩,
  -- SCHED
  ⟨0x41000, [(6, 4096), (256, 16)], none, [⟨0, 32, .rw, 0, .die⟩]⟩,
  -- SCHED
  ⟨0x41004, [(6, 4096), (256, 16)], none, [⟨0, 32, .rw, 0, .die⟩]⟩,
  -- SCHED
  ⟨0x41008, [(6, 4096), (256, 16)], none, [⟨0, 8, .rw, 0, .die⟩, ⟨8, 8, .rw, 0, .die⟩, ⟨16, 4, .rw, 0, .die⟩, ⟨24, 3, .ro, 0, .die⟩, ⟨27, 1, .w1s, 0, .die⟩, ⟨28, 1, .wo, 0, .die⟩, ⟨29, 3, .ro, 0, .die⟩]⟩,
  -- SCHED
  ⟨0x4100C, [(6, 4096), (256, 16)], none, [⟨0, 32, .rw, 0, .die⟩]⟩]

/-- Registers of the block at 0x05_0000. -/
def regs05 : List RegDesc := [
  -- CAS_STATUS
  ⟨0x50000, [], none, [⟨0, 1, .ro, 0, .drst⟩, ⟨1, 1, .ro, 0, .drst⟩, ⟨2, 4, .ro, 0, .drst⟩, ⟨6, 1, .ro, 0, .drst⟩, ⟨7, 1, .ro, 0, .drst⟩, ⟨8, 1, .ro, 0, .drst⟩, ⟨9, 1, .ro, 0, .drst⟩, ⟨10, 1, .ro, 0, .drst⟩, ⟨11, 1, .w1c, 0, .drst⟩, ⟨12, 1, .w1c, 0, .drst⟩, ⟨13, 1, .w1c, 0, .drst⟩, ⟨14, 1, .w1c, 0, .drst⟩]⟩,
  -- CAS_CTRL
  ⟨0x50004, [], some (2621503, 0), [⟨0, 2, .rwl, 0, .drst⟩, ⟨2, 1, .rwl, 0, .drst⟩, ⟨3, 1, .rwl, 0, .drst⟩, ⟨4, 1, .rwl, 0, .drst⟩, ⟨31, 1, .lck, 0, .drst⟩]⟩,
  -- CAS_POLICY
  ⟨0x50008, [], some (2621503, 0), [⟨0, 1, .rwl, 0, .drst⟩, ⟨1, 1, .w1c, 0, .drst⟩]⟩,
  -- CAS_HOLD_LIM
  ⟨0x5000C, [], some (2621503, 0), [⟨0, 8, .rwl, 200, .drst⟩]⟩,
  -- CAS_HOP
  ⟨0x50010, [], none, [⟨0, 20, .ro, 0, .drst⟩]⟩,
  -- CAS_ASYM
  ⟨0x50014, [], none, [⟨0, 16, .rw, 0, .drst⟩]⟩,
  -- CAS_PRESENT
  ⟨0x50018, [], none, [⟨0, 16, .ro, 0, .drst⟩, ⟨16, 16, .w1c, 0, .drst⟩]⟩,
  -- CAS_CMD
  ⟨0x50020, [], none, [⟨0, 3, .wo, 0, .drst⟩, ⟨24, 8, .wo, 0, .drst⟩]⟩,
  -- CAS_CMD_POS
  ⟨0x50024, [], none, [⟨0, 16, .rw, 0, .drst⟩]⟩,
  -- CAS_CMD_SITES_LO
  ⟨0x50028, [], none, [⟨0, 32, .rw, 0, .drst⟩]⟩,
  -- CAS_CMD_SITES_HI
  ⟨0x5002C, [], none, [⟨0, 32, .rw, 0, .drst⟩]⟩,
  -- CAS_CMD_LEAD
  ⟨0x50030, [], none, [⟨0, 16, .rw, 2000, .drst⟩]⟩,
  -- CAS_CMD_RESULT
  ⟨0x50034, [], none, [⟨0, 3, .ro, 0, .drst⟩]⟩,
  -- CAS_POS_STATUS
  ⟨0x50040, [(16, 4)], none, [⟨0, 1, .ro, 0, .drst⟩, ⟨1, 1, .ro, 0, .drst⟩, ⟨2, 1, .ro, 0, .drst⟩, ⟨3, 1, .ro, 0, .drst⟩]⟩]

/-- Registers of the block at 0x06_0000. -/
def regs06 : List RegDesc := [
  -- PWR_STATUS
  ⟨0x60000, [], none, [⟨0, 1, .ro, 0, .drst⟩, ⟨1, 1, .ro, 0, .drst⟩, ⟨2, 1, .ro, 0, .drst⟩, ⟨3, 1, .w1c, 0, .drst⟩, ⟨4, 1, .ro, 0, .drst⟩, ⟨5, 7, .ro, 0, .drst⟩, ⟨12, 1, .w1c, 0, .drst⟩]⟩,
  -- PWR_CTRL
  ⟨0x60004, [], some (3146016, 0), [⟨0, 3, .rwl, 1, .drst⟩]⟩,
  -- PWR_GUARD
  ⟨0x60008, [], some (3146016, 0), [⟨0, 17, .rwl, 1000, .drst⟩]⟩,
  -- PWR_CAP
  ⟨0x6000C, [], some (3146016, 0), [⟨0, 12, .rwl, 3600, .drst⟩]⟩,
  -- PWR_MARGIN
  ⟨0x60010, [], some (3146016, 0), [⟨0, 12, .rwl, 200, .drst⟩]⟩,
  -- PWR_BREACH_LIM
  ⟨0x60014, [], some (3146016, 0), [⟨0, 12, .rwl, 3500, .drst⟩]⟩,
  -- PWR_SITE_AVAIL
  ⟨0x60018, [], none, [⟨0, 12, .ro, 0, .drst⟩]⟩,
  -- PWR_FIXED
  ⟨0x6001C, [], none, [⟨0, 12, .ro, 0, .drst⟩, ⟨16, 12, .ro, 0, .drst⟩]⟩,
  -- PWR_TEMP_LIM
  ⟨0x60020, [], some (3146016, 0), [⟨0, 8, .rwl, 100, .drst⟩, ⟨8, 8, .rwl, 110, .drst⟩]⟩,
  -- PWR_LOCK
  ⟨0x60024, [], none, [⟨0, 1, .lck, 0, .drst⟩]⟩,
  -- PWR_PKG
  ⟨0x60028, [], none, [⟨0, 12, .ro, 0, .drst⟩]⟩,
  -- PWR_PKG_WM
  ⟨0x6002C, [], none, [⟨0, 12, .rw, 0, .drst⟩, ⟨16, 12, .ro, 0, .drst⟩, ⟨31, 1, .w1c, 0, .drst⟩]⟩,
  -- PWR_TRIP_CAUSE
  ⟨0x60030, [], none, [⟨0, 2, .ro, 0, .drst⟩, ⟨2, 3, .ro, 0, .drst⟩, ⟨5, 4, .ro, 0, .drst⟩, ⟨9, 1, .w1c, 0, .drst⟩]⟩,
  -- PWR_HBM_TEMP
  ⟨0x60034, [], none, [⟨0, 8, .ro, 0, .drst⟩, ⟨8, 8, .ro, 0, .drst⟩]⟩,
  -- PWR_DIE_STATE
  ⟨0x60040, [(4, 4)], some (3146016, 0), [⟨0, 3, .ro, 0, .die⟩, ⟨3, 3, .ro, 0, .die⟩, ⟨6, 3, .rwl, 3, .die⟩, ⟨9, 3, .ro, 4, .die⟩, ⟨12, 1, .ro, 0, .die⟩, ⟨13, 1, .ro, 0, .die⟩]⟩,
  -- PWR_DIE_TELEM
  ⟨0x60060, [(7, 4)], none, [⟨0, 12, .ro, 0, .drst⟩, ⟨12, 8, .ro, 0, .drst⟩]⟩,
  -- PWR_RAIL
  ⟨0x60080, [(13, 4)], none, [⟨0, 14, .ro, 0, .drst⟩, ⟨14, 18, .ro, 0, .drst⟩]⟩,
  -- PWR_WAKE
  ⟨0x60100, [(4, 16), (4, 4)], none, [⟨0, 23, .ro, 0, .die⟩, ⟨23, 5, .ro, 0, .die⟩]⟩]

/-- Registers of the block at 0x07_0000. -/
def regs07 : List RegDesc := [
  -- CLK_STATUS
  ⟨0x70000, [], none, [⟨0, 1, .ro, 0, .drst⟩, ⟨1, 2, .ro, 0, .drst⟩, ⟨3, 1, .w1c, 0, .drst⟩, ⟨4, 1, .ro, 1, .drst⟩, ⟨5, 1, .ro, 1, .drst⟩]⟩,
  -- CLK_OSC
  ⟨0x70004, [], none, [⟨0, 16, .ro, 0, .drst⟩]⟩]

/-- Registers of the block at 0x08_0000. -/
def regs08 : List RegDesc := [
  -- GPI_STATUS
  ⟨0x80000, [], none, [⟨0, 1, .w1c, 0, .drst⟩]⟩,
  -- GPI_IN_LO
  ⟨0x80004, [], none, [⟨0, 32, .ro, 0, .drst⟩]⟩,
  -- GPI_IN_HI
  ⟨0x80008, [], none, [⟨0, 32, .rs, 0, .drst⟩]⟩,
  -- GPI_OUT
  ⟨0x80010, [(4, 4)], none, [⟨0, 16, .rw, 0, .drst⟩, ⟨16, 16, .wo, 0, .drst⟩]⟩,
  -- GPI_OE
  ⟨0x80020, [(4, 4)], none, [⟨0, 16, .rw, 0, .drst⟩, ⟨16, 16, .wo, 0, .drst⟩]⟩,
  -- GPI_FUNC
  ⟨0x80030, [(4, 4)], none, [⟨0, 32, .rw, 0, .drst⟩]⟩,
  -- GPI_OWN_LO
  ⟨0x80040, [], none, [⟨0, 32, .ro, 0, .drst⟩]⟩,
  -- GPI_OWN_HI
  ⟨0x80044, [], none, [⟨0, 32, .ro, 0, .drst⟩]⟩,
  -- GPI_PM_MASK_LO
  ⟨0x80080, [(8, 32)], none, [⟨0, 32, .rw, 0, .drst⟩]⟩,
  -- GPI_PM_MASK_HI
  ⟨0x80084, [(8, 32)], none, [⟨0, 32, .rw, 0, .drst⟩]⟩,
  -- GPI_PM_VAL_LO
  ⟨0x80088, [(8, 32)], none, [⟨0, 32, .rw, 0, .drst⟩]⟩,
  -- GPI_PM_VAL_HI
  ⟨0x8008C, [(8, 32)], none, [⟨0, 32, .rw, 0, .drst⟩]⟩,
  -- GPI_PM_CFG
  ⟨0x80090, [(8, 32)], none, [⟨0, 2, .rw, 0, .drst⟩, ⟨2, 8, .rw, 0, .drst⟩, ⟨10, 1, .w1c, 0, .drst⟩, ⟨16, 16, .ro, 0, .drst⟩]⟩,
  -- GPI_SP_CFG
  ⟨0x80180, [(4, 32)], none, [⟨0, 3, .rw, 0, .drst⟩, ⟨3, 1, .rw, 0, .drst⟩, ⟨4, 1, .rw, 0, .drst⟩, ⟨8, 8, .rw, 0, .drst⟩, ⟨16, 7, .rw, 0, .drst⟩, ⟨24, 4, .rw, 1, .drst⟩, ⟨28, 4, .rw, 0, .drst⟩]⟩,
  -- GPI_SP_STATUS
  ⟨0x80184, [(4, 32)], none, [⟨0, 7, .ro, 0, .drst⟩, ⟨8, 7, .ro, 0, .drst⟩, ⟨15, 1, .ro, 0, .drst⟩, ⟨16, 1, .w1c, 0, .drst⟩, ⟨17, 1, .w1c, 0, .drst⟩, ⟨18, 1, .ro, 0, .drst⟩]⟩,
  -- GPI_SP_TXDATA
  ⟨0x80188, [(4, 32)], none, [⟨0, 8, .wo, 0, .drst⟩, ⟨8, 1, .wo, 0, .drst⟩, ⟨9, 1, .wo, 0, .drst⟩, ⟨10, 1, .wo, 0, .drst⟩]⟩,
  -- GPI_SP_RXDATA
  ⟨0x8018C, [(4, 32)], none, [⟨0, 8, .ro, 0, .drst⟩, ⟨8, 1, .ro, 1, .drst⟩]⟩]

/-- Registers of the block at 0x09_0000. -/
def regs09 : List RegDesc := [
  -- HST_STATUS
  ⟨0x90000, [], none, [⟨0, 1, .ro, 0, .drst⟩, ⟨1, 3, .ro, 0, .drst⟩, ⟨4, 5, .ro, 0, .drst⟩, ⟨9, 2, .ro, 0, .drst⟩, ⟨11, 1, .w1c, 0, .drst⟩]⟩,
  -- HST_VF_BLK
  ⟨0x90010, [(2, 4)], none, [⟨0, 32, .rw, 0, .drst⟩]⟩,
  -- HST_VF_MEM_BASE_LO
  ⟨0x90020, [(2, 16)], none, [⟨16, 16, .rw, 0, .drst⟩]⟩,
  -- HST_VF_MEM_BASE_HI
  ⟨0x90024, [(2, 16)], none, [⟨0, 16, .rw, 0, .drst⟩]⟩,
  -- HST_VF_MEM_SIZE
  ⟨0x90028, [(2, 16)], none, [⟨0, 20, .rw, 0, .drst⟩]⟩,
  -- HST_VF_SITES_LO
  ⟨0x90040, [(2, 8)], none, [⟨0, 32, .rw, 0, .drst⟩]⟩,
  -- HST_VF_SITES_HI
  ⟨0x90044, [(2, 8)], none, [⟨0, 32, .rw, 0, .drst⟩]⟩,
  -- HST_IRQ_MAP
  ⟨0x90080, [(32, 4)], none, [⟨0, 6, .rw, 0, .drst⟩, ⟨6, 1, .rw, 0, .drst⟩]⟩,
  -- HST_IRQ_PEND
  ⟨0x90100, [], none, [⟨0, 32, .w1c, 0, .drst⟩]⟩,
  -- HST_DMA_RING_LO
  ⟨0x91000, [(16, 64)], none, [⟨5, 27, .rw, 0, .drst⟩]⟩,
  -- HST_DMA_RING_HI
  ⟨0x91004, [(16, 64)], none, [⟨0, 32, .rw, 0, .drst⟩]⟩,
  -- HST_DMA_SIZE
  ⟨0x91008, [(16, 64)], none, [⟨0, 5, .rw, 4, .drst⟩]⟩,
  -- HST_DMA_TAIL
  ⟨0x9100C, [(16, 64)], none, [⟨0, 16, .rw, 0, .drst⟩]⟩,
  -- HST_DMA_HEAD
  ⟨0x91010, [(16, 64)], none, [⟨0, 16, .ro, 0, .drst⟩]⟩,
  -- HST_DMA_CTRL
  ⟨0x91014, [(16, 64)], none, [⟨0, 1, .rw, 0, .drst⟩, ⟨1, 2, .rw, 0, .drst⟩, ⟨3, 1, .wo, 0, .drst⟩]⟩,
  -- HST_DMA_STATUS
  ⟨0x91018, [(16, 64)], none, [⟨0, 1, .ro, 1, .drst⟩, ⟨1, 1, .w1c, 0, .drst⟩, ⟨2, 3, .ro, 0, .drst⟩]⟩]

/-- Registers of the block at 0x0A_0000. -/
def regs0A : List RegDesc := [
  -- DBG_STATUS
  ⟨0xA0000, [], none, [⟨0, 1, .ro, 0, .por⟩, ⟨1, 1, .w1c, 0, .por⟩, ⟨2, 1, .w1c, 0, .por⟩, ⟨3, 1, .ro, 0, .por⟩, ⟨4, 2, .w1c, 0, .por⟩]⟩,
  -- DBG_CTRL
  ⟨0xA0004, [], some (5242943, 0), [⟨0, 1, .rwl, 0, .por⟩, ⟨1, 1, .rwl, 0, .por⟩, ⟨31, 1, .lck, 0, .drst⟩]⟩,
  -- DBG_CMD
  ⟨0xA0008, [], none, [⟨0, 3, .wo, 0, .por⟩, ⟨3, 7, .wo, 0, .por⟩]⟩,
  -- DBG_CMD_RESULT
  ⟨0xA000C, [], none, [⟨0, 3, .ro, 0, .por⟩, ⟨3, 7, .ro, 0, .por⟩]⟩,
  -- DBG_HALTED_LO
  ⟨0xA0010, [], none, [⟨0, 32, .ro, 0, .por⟩]⟩,
  -- DBG_HALTED_HI
  ⟨0xA0014, [], none, [⟨0, 32, .ro, 0, .por⟩]⟩,
  -- DBG_ATTACH_LO
  ⟨0xA0020, [], none, [⟨0, 32, .rw, 0, .por⟩]⟩,
  -- DBG_ATTACH_HI
  ⟨0xA0024, [], none, [⟨0, 32, .rw, 0, .por⟩]⟩,
  -- DBG_ACC_SEL
  ⟨0xA0030, [], none, [⟨0, 7, .wo, 0, .por⟩, ⟨7, 1, .wo, 0, .por⟩, ⟨8, 8, .wo, 0, .por⟩]⟩,
  -- DBG_ACC_DATA_LO
  ⟨0xA0034, [], none, [⟨0, 32, .rw, 0, .por⟩]⟩,
  -- DBG_ACC_DATA_HI
  ⟨0xA0038, [], none, [⟨0, 32, .rw, 0, .por⟩]⟩,
  -- DBG_HCMP_CTRL
  ⟨0xA0080, [(2, 32)], none, [⟨0, 2, .rw, 0, .por⟩, ⟨2, 2, .rw, 0, .por⟩, ⟨4, 2, .rw, 0, .por⟩]⟩,
  -- DBG_HCMP_VAL_LO
  ⟨0xA0084, [(2, 32)], none, [⟨0, 32, .rw, 0, .por⟩]⟩,
  -- DBG_HCMP_VAL_HI
  ⟨0xA0088, [(2, 32)], none, [⟨0, 32, .rw, 0, .por⟩]⟩,
  -- DBG_HCMP_LIM_LO
  ⟨0xA008C, [(2, 32)], none, [⟨0, 32, .rw, 0, .por⟩]⟩,
  -- DBG_HCMP_LIM_HI
  ⟨0xA0090, [(2, 32)], none, [⟨0, 32, .rw, 0, .por⟩]⟩,
  -- DBG_STIM_EN
  ⟨0xA0100, [(65, 4)], none, [⟨0, 32, .rw, 0, .por⟩]⟩]

/-- Registers of the block at 0x0B_0000. -/
def regs0B : List RegDesc := [
  -- BST_STATUS
  ⟨0xB0000, [], none, [⟨0, 1, .ro, 0, .drst⟩, ⟨1, 4, .ro, 0, .drst⟩, ⟨5, 4, .ro, 0, .drst⟩, ⟨9, 1, .ro, 0, .drst⟩, ⟨10, 1, .w1c, 0, .drst⟩]⟩,
  -- BST_CTRL
  ⟨0xB0004, [], some (5767231, 0), [⟨0, 1, .rwl, 1, .drst⟩, ⟨16, 11, .rwl, 200, .drst⟩, ⟨31, 1, .lck, 0, .drst⟩]⟩,
  -- BST_CMD
  ⟨0xB0008, [], none, [⟨0, 4, .wo, 0, .drst⟩, ⟨4, 1, .wo, 0, .drst⟩, ⟨5, 1, .wo, 0, .drst⟩, ⟨6, 1, .wo, 0, .drst⟩]⟩,
  -- BST_CMD_RESULT
  ⟨0xB000C, [], none, [⟨0, 3, .ro, 0, .drst⟩, ⟨3, 1, .ro, 0, .drst⟩, ⟨4, 8, .ro, 0, .drst⟩]⟩,
  -- BST_SCHED_CFG
  ⟨0xB0100, [(16, 16)], some (5767231, 0), [⟨0, 5, .rwl, 0, .drst⟩, ⟨5, 3, .rwl, 0, .drst⟩, ⟨8, 1, .rwl, 0, .drst⟩, ⟨16, 16, .rwl, 0, .drst⟩]⟩,
  -- BST_SCHED_ARG
  ⟨0xB0104, [(16, 16)], some (5767231, 0), [⟨0, 32, .rwl, 0, .drst⟩]⟩,
  -- BST_SCHED_PERIOD
  ⟨0xB0108, [(16, 16)], some (5767231, 0), [⟨0, 24, .rwl, 0, .drst⟩]⟩,
  -- BST_SCHED_RES
  ⟨0xB010C, [(16, 16)], none, [⟨0, 4, .ro, 0, .drst⟩, ⟨4, 1, .ro, 0, .drst⟩, ⟨8, 16, .ro, 0, .drst⟩, ⟨24, 8, .ro, 0, .drst⟩]⟩,
  -- BST_FAIL_ADDR_LO
  ⟨0xB0200, [], none, [⟨0, 32, .ro, 0, .drst⟩]⟩,
  -- BST_FAIL_ADDR_HI
  ⟨0xB0204, [], none, [⟨0, 16, .ro, 0, .drst⟩]⟩,
  -- BST_FAIL_INFO
  ⟨0xB0208, [], none, [⟨0, 4, .ro, 0, .drst⟩, ⟨4, 5, .ro, 0, .drst⟩, ⟨16, 9, .ro, 0, .drst⟩, ⟨25, 1, .ro, 0, .drst⟩, ⟨26, 1, .w1c, 0, .drst⟩]⟩,
  -- BST_LEASE
  ⟨0xB0400, [(8, 32), (6, 4)], none, [⟨0, 8, .ro, 0, .drst⟩, ⟨8, 4, .ro, 0, .drst⟩, ⟨16, 16, .ro, 0, .drst⟩]⟩]

/-- Registers of the block at 0x0C_0000. -/
def regs0C : List RegDesc := [
  -- INJ_CTRL
  ⟨0xC0000, [], some (6291487, 0), [⟨0, 1, .rwl, 0, .drst⟩, ⟨1, 1, .rwl, 0, .drst⟩, ⟨31, 1, .lck, 0, .drst⟩]⟩,
  -- INJ_STATUS
  ⟨0xC0004, [], none, [⟨0, 1, .ro, 0, .drst⟩, ⟨1, 1, .w1c, 0, .drst⟩]⟩,
  -- INJ_SEL
  ⟨0xC0100, [(4, 32)], none, [⟨0, 8, .rw, 0, .drst⟩, ⟨8, 7, .rw, 0, .drst⟩]⟩,
  -- INJ_ARG_LO
  ⟨0xC0104, [(4, 32)], none, [⟨0, 32, .rw, 0, .drst⟩]⟩,
  -- INJ_ARG_HI
  ⟨0xC0108, [(4, 32)], none, [⟨0, 32, .rw, 0, .drst⟩]⟩,
  -- INJ_CNT
  ⟨0xC010C, [(4, 32)], none, [⟨0, 16, .rw, 1, .drst⟩]⟩,
  -- INJ_SLOT_CTRL
  ⟨0xC0110, [(4, 32)], none, [⟨0, 1, .w1s, 0, .drst⟩, ⟨1, 1, .wo, 0, .drst⟩, ⟨2, 2, .ro, 0, .drst⟩, ⟨16, 16, .ro, 0, .drst⟩]⟩]

/-- Registers of the block at 0x0D_0000. -/
def regs0D : List RegDesc := [
  -- EVL_STATUS
  ⟨0xD0000, [], none, [⟨0, 1, .ro, 0, .drst⟩, ⟨1, 1, .ro, 0, .drst⟩, ⟨2, 1, .ro, 0, .drst⟩, ⟨3, 1, .w1c, 0, .drst⟩, ⟨4, 1, .w1c, 0, .drst⟩]⟩,
  -- EVL_CTRL
  ⟨0xD0004, [], none, [⟨0, 1, .rw, 1, .drst⟩, ⟨1, 1, .rw, 1, .drst⟩]⟩,
  -- EVL_A_WR
  ⟨0xD0008, [], none, [⟨0, 32, .ro, 0, .drst⟩]⟩,
  -- EVL_A_RD
  ⟨0xD000C, [], none, [⟨0, 32, .rw, 0, .drst⟩]⟩,
  -- EVL_B_WR
  ⟨0xD0010, [], none, [⟨0, 32, .ro, 0, .drst⟩]⟩,
  -- EVL_B_RD
  ⟨0xD0014, [], none, [⟨0, 32, .rw, 0, .drst⟩]⟩,
  -- EVL_C_WR
  ⟨0xD0018, [], none, [⟨0, 32, .ro, 0, .drst⟩]⟩,
  -- EVL_C_RD
  ⟨0xD001C, [], none, [⟨0, 32, .rw, 0, .drst⟩]⟩,
  -- EVL_SEQ
  ⟨0xD0020, [], none, [⟨0, 32, .ro, 0, .drst⟩]⟩,
  -- EVL_B_WM
  ⟨0xD0024, [], none, [⟨0, 17, .rw, 0, .drst⟩]⟩,
  -- EVL_B_PEAK
  ⟨0xD0028, [], none, [⟨0, 17, .ro, 0, .drst⟩, ⟨31, 1, .w1c, 0, .drst⟩]⟩,
  -- EVL_C_WM
  ⟨0xD002C, [], none, [⟨0, 17, .rw, 0, .drst⟩]⟩,
  -- EVL_C_PEAK
  ⟨0xD0030, [], none, [⟨0, 17, .ro, 0, .drst⟩, ⟨31, 1, .w1c, 0, .drst⟩]⟩,
  -- EVL_B_LOST_LO
  ⟨0xD0038, [], none, [⟨0, 32, .rw, 0, .drst⟩]⟩,
  -- EVL_B_LOST_HI
  ⟨0xD003C, [], none, [⟨0, 16, .rs, 0, .drst⟩, ⟨16, 1, .w1c, 0, .drst⟩]⟩,
  -- EVL_C_LOST_LO
  ⟨0xD0040, [], none, [⟨0, 32, .rw, 0, .drst⟩]⟩,
  -- EVL_C_LOST_HI
  ⟨0xD0044, [], none, [⟨0, 16, .rs, 0, .drst⟩, ⟨16, 1, .w1c, 0, .drst⟩]⟩,
  -- EVL_HOLD
  ⟨0xD0048, [], none, [⟨0, 9, .ro, 0, .drst⟩]⟩]

/-- Registers of the block at 0x0E_0000. -/
def regs0E : List RegDesc := [
  -- RGP_STATUS
  ⟨0xE0000, [], none, [⟨0, 1, .ro, 0, .drst⟩, ⟨1, 1, .ro, 0, .drst⟩, ⟨2, 1, .w1c, 0, .drst⟩, ⟨3, 1, .ro, 0, .drst⟩, ⟨4, 1, .w1c, 0, .drst⟩, ⟨5, 1, .ro, 0, .drst⟩]⟩,
  -- RGP_CTRL
  ⟨0xE0004, [], some (7340095, 0), [⟨0, 1, .w1s, 0, .drst⟩, ⟨1, 1, .rwl, 0, .drst⟩, ⟨31, 1, .lck, 0, .drst⟩]⟩,
  -- RGP_COMMIT
  ⟨0xE0008, [], none, [⟨0, 1, .wo, 0, .drst⟩, ⟨24, 8, .wo, 0, .drst⟩]⟩,
  -- RGP_REF
  ⟨0xE000C, [], none, [⟨0, 32, .ro, 0, .drst⟩]⟩,
  -- RGP_CUR
  ⟨0xE0010, [], none, [⟨0, 32, .ro, 0, .drst⟩]⟩,
  -- RGP_PASS
  ⟨0xE0014, [], none, [⟨0, 32, .ro, 0, .drst⟩]⟩]

/-- Registers of the block at 0x0F_0000. -/
def regs0F : List RegDesc := [
  -- FWL_STATUS
  ⟨0xF0000, [], none, [⟨0, 1, .ro, 1, .drst⟩, ⟨1, 1, .w1c, 0, .drst⟩, ⟨2, 1, .w1c, 0, .drst⟩]⟩,
  -- FWL_CTRL
  ⟨0xF0004, [], some (7864383, 0), [⟨0, 1, .rw, 1, .drst⟩, ⟨1, 1, .rwl, 1, .drst⟩, ⟨8, 8, .rwl, 0, .drst⟩, ⟨16, 9, .rwl, 0, .drst⟩, ⟨31, 1, .lck, 0, .drst⟩]⟩,
  -- FWL_VIOL_ADDR_LO
  ⟨0xF0008, [], none, [⟨0, 32, .ro, 0, .drst⟩]⟩,
  -- FWL_VIOL_ADDR_HI
  ⟨0xF000C, [], none, [⟨0, 16, .ro, 0, .drst⟩]⟩,
  -- FWL_VIOL_INFO
  ⟨0xF0010, [], none, [⟨0, 1, .ro, 0, .drst⟩, ⟨1, 1, .ro, 0, .drst⟩, ⟨2, 4, .ro, 0, .drst⟩, ⟨6, 1, .ro, 0, .drst⟩]⟩,
  -- FWL_VIOL_CNT
  ⟨0xF0014, [], none, [⟨0, 32, .ro, 0, .drst⟩]⟩,
  -- FWL_WIN_BASE_LO
  ⟨0xF0100, [(16, 16)], some (7864383, 0), [⟨12, 20, .rwl, 0, .drst⟩]⟩,
  -- FWL_WIN_BASE_HI
  ⟨0xF0104, [(16, 16)], some (7864383, 0), [⟨0, 16, .rwl, 0, .drst⟩]⟩,
  -- FWL_WIN_SIZE
  ⟨0xF0108, [(16, 16)], some (7864383, 0), [⟨0, 24, .rwl, 0, .drst⟩]⟩,
  -- FWL_WIN_ATTR
  ⟨0xF010C, [(16, 16)], some (7864383, 0), [⟨0, 1, .rwl, 0, .drst⟩, ⟨1, 1, .rwl, 0, .drst⟩, ⟨2, 1, .rwl, 0, .drst⟩]⟩]

/-- Registers of the block at 0x10_0000. -/
def regs10a : List RegDesc := [
  -- BAS_MEM_STATUS
  ⟨0x100000, [], none, [⟨0, 1, .ro, 0, .die⟩, ⟨1, 1, .ro, 0, .die⟩, ⟨2, 1, .ro, 0, .die⟩, ⟨3, 1, .w1c, 0, .die⟩, ⟨4, 1, .w1c, 0, .die⟩, ⟨5, 1, .w1c, 0, .die⟩]⟩,
  -- BAS_MEM_CTRL
  ⟨0x100004, [], some (8388671, 0), [⟨0, 1, .rwl, 1, .die⟩, ⟨8, 8, .rwl, 24, .die⟩, ⟨31, 1, .lck, 0, .die⟩]⟩,
  -- BAS_CE_LO
  ⟨0x100010, [], none, [⟨0, 32, .rw, 0, .die⟩]⟩,
  -- BAS_CE_HI
  ⟨0x100014, [], none, [⟨0, 16, .rs, 0, .die⟩, ⟨16, 1, .w1c, 0, .die⟩]⟩,
  -- BAS_UE_LO
  ⟨0x100018, [], none, [⟨0, 32, .rw, 0, .die⟩]⟩,
  -- BAS_UE_HI
  ⟨0x10001C, [], none, [⟨0, 16, .rs, 0, .die⟩, ⟨16, 1, .w1c, 0, .die⟩]⟩,
  -- BAS_UE_ADDR_LO
  ⟨0x100020, [], none, [⟨0, 32, .ro, 0, .die⟩]⟩,
  -- BAS_UE_ADDR_HI
  ⟨0x100024, [], none, [⟨0, 16, .ro, 0, .die⟩]⟩,
  -- BAS_BW
  ⟨0x100030, [(2, 4)], none, [⟨0, 16, .ro, 0, .die⟩, ⟨16, 16, .ro, 0, .die⟩]⟩,
  -- PTU_STATUS
  ⟨0x101000, [], none, [⟨0, 1, .ro, 0, .die⟩, ⟨1, 1, .w1c, 0, .die⟩, ⟨2, 1, .w1c, 0, .die⟩, ⟨3, 1, .w1c, 0, .die⟩]⟩,
  -- PTU_INV
  ⟨0x101004, [], none, [⟨0, 1, .wo, 0, .die⟩, ⟨1, 2, .rw, 0, .die⟩, ⟨8, 6, .rw, 0, .die⟩]⟩,
  -- PTU_INV_VA_LO
  ⟨0x101010, [], none, [⟨16, 16, .rw, 0, .die⟩]⟩,
  -- PTU_INV_VA_HI
  ⟨0x101014, [], none, [⟨0, 8, .rw, 0, .die⟩]⟩,
  -- PTU_INV_PAGES
  ⟨0x101018, [], none, [⟨0, 24, .rw, 0, .die⟩]⟩,
  -- PTU_INV_RESULT
  ⟨0x10101C, [], none, [⟨0, 16, .ro, 0, .die⟩, ⟨31, 1, .ro, 0, .die⟩]⟩,
  -- PTU_ROOT_LO
  ⟨0x101100, [(64, 8)], none, [⟨0, 1, .rw, 0, .die⟩, ⟨13, 19, .rw, 0, .die⟩]⟩,
  -- PTU_ROOT_HI
  ⟨0x101104, [(64, 8)], none, [⟨0, 16, .rw, 0, .die⟩]⟩,
  -- PTU_FLT
  ⟨0x101300, [(64, 4)], none, [⟨0, 3, .ro, 0, .die⟩, ⟨3, 2, .ro, 0, .die⟩, ⟨5, 1, .ro, 0, .die⟩]⟩,
  -- PTU_TLB
  ⟨0x101400, [(16, 4)], none, [⟨0, 9, .ro, 0, .die⟩, ⟨16, 9, .ro, 0, .die⟩]⟩,
  -- PTU_WALK_LO
  ⟨0x101440, [], none, [⟨0, 32, .rw, 0, .die⟩]⟩,
  -- PTU_WALK_HI
  ⟨0x101444, [], none, [⟨0, 16, .rs, 0, .die⟩, ⟨16, 1, .w1c, 0, .die⟩]⟩,
  -- NOP_STATUS
  ⟨0x102000, [], none, [⟨0, 4, .ro, 0, .drst⟩, ⟨4, 1, .ro, 0, .drst⟩, ⟨5, 1, .ro, 0, .drst⟩, ⟨6, 4, .ro, 0, .drst⟩, ⟨10, 1, .ro, 0, .drst⟩, ⟨11, 2, .ro, 0, .drst⟩, ⟨13, 2, .ro, 0, .drst⟩, ⟨15, 1, .w1c, 0, .drst⟩, ⟨16, 1, .ro, 0, .drst⟩]⟩,
  -- NOP_CTRL
  ⟨0x102004, [], some (8454207, 0), [⟨0, 1, .rwl, 1, .drst⟩, ⟨1, 1, .wo, 0, .drst⟩, ⟨2, 4, .wo, 0, .drst⟩, ⟨31, 1, .lck, 0, .drst⟩]⟩,
  -- NOP_HUB_LANES
  ⟨0x102008, [], none, [⟨0, 2, .ro, 0, .drst⟩, ⟨8, 2, .ro, 0, .drst⟩]⟩]

/-- Registers of the block at 0x10_0000. -/
def regs10b : List RegDesc := [
  -- NOP_GD_LANES
  ⟨0x10200C, [], none, [⟨0, 1, .ro, 0, .drst⟩, ⟨1, 1, .ro, 0, .drst⟩]⟩,
  -- NOP_HUB_CRC_LO
  ⟨0x102010, [], none, [⟨0, 32, .rw, 0, .drst⟩]⟩,
  -- NOP_HUB_CRC_HI
  ⟨0x102014, [], none, [⟨0, 16, .rs, 0, .drst⟩, ⟨16, 1, .w1c, 0, .drst⟩]⟩,
  -- NOP_HUB_REPLAY_LO
  ⟨0x102018, [], none, [⟨0, 32, .rw, 0, .drst⟩]⟩,
  -- NOP_HUB_REPLAY_HI
  ⟨0x10201C, [], none, [⟨0, 16, .rs, 0, .drst⟩, ⟨16, 1, .w1c, 0, .drst⟩]⟩,
  -- NOP_BD_ID0
  ⟨0x102020, [], none, [⟨0, 8, .ro, 0, .por⟩, ⟨8, 4, .ro, 0, .por⟩, ⟨12, 4, .ro, 0, .por⟩, ⟨16, 16, .ro, 0, .por⟩]⟩,
  -- NOP_BD_ID1
  ⟨0x102024, [], none, [⟨0, 8, .ro, 0, .por⟩, ⟨8, 8, .ro, 0, .por⟩, ⟨16, 8, .ro, 0, .por⟩]⟩]

/-- Registers of the block at 0x18_0000. -/
def regs18a : List RegDesc := [
  -- RPS_STATUS
  ⟨0x180000, [], none, [⟨0, 1, .ro, 1, .die⟩, ⟨1, 1, .w1c, 0, .die⟩, ⟨2, 1, .w1c, 0, .die⟩, ⟨3, 1, .w1c, 0, .die⟩]⟩,
  -- RPS_CMD
  ⟨0x180004, [], none, [⟨0, 4, .wo, 0, .die⟩, ⟨4, 6, .wo, 0, .die⟩]⟩,
  -- RPS_CMD_RESULT
  ⟨0x180008, [], none, [⟨0, 3, .ro, 0, .die⟩, ⟨4, 6, .ro, 0, .die⟩]⟩,
  -- RPS_POOL
  ⟨0x18000C, [], none, [⟨0, 13, .ro, 4096, .die⟩]⟩,
  -- RPS_SOLVE_Q
  ⟨0x180010, [], none, [⟨0, 7, .ro, 0, .die⟩, ⟨8, 4, .ro, 0, .die⟩]⟩,
  -- RPS_INTAKE_LVL
  ⟨0x180020, [(4, 4)], none, [⟨0, 16, .ro, 0, .die⟩]⟩,
  -- RPS_INTAKE_WM
  ⟨0x180030, [(4, 4)], none, [⟨0, 16, .rw, 0, .die⟩]⟩,
  -- RPS_INTAKE_PEAK
  ⟨0x180040, [(4, 4)], none, [⟨0, 16, .ro, 0, .die⟩, ⟨31, 1, .w1c, 0, .die⟩]⟩,
  -- RPS_DROP_LO
  ⟨0x180050, [], none, [⟨0, 32, .rw, 0, .die⟩]⟩,
  -- RPS_DROP_HI
  ⟨0x180054, [], none, [⟨0, 16, .rs, 0, .die⟩, ⟨16, 1, .w1c, 0, .die⟩]⟩,
  -- RPSE
  ⟨0x181000, [(64, 64)], none, [⟨0, 2, .rw, 0, .die⟩, ⟨2, 1, .rw, 0, .die⟩, ⟨3, 1, .rw, 1, .die⟩, ⟨4, 6, .rw, 0, .die⟩, ⟨10, 4, .rw, 0, .die⟩, ⟨14, 1, .rw, 0, .die⟩, ⟨15, 1, .rw, 0, .die⟩, ⟨16, 16, .rw, 100, .die⟩]⟩,
  -- RPSE
  ⟨0x181004, [(64, 64)], none, [⟨0, 32, .rw, 0, .die⟩]⟩,
  -- RPSE
  ⟨0x181008, [(64, 64)], none, [⟨0, 16, .rw, 0, .die⟩]⟩,
  -- RPSE
  ⟨0x18100C, [(64, 64)], none, [⟨0, 32, .rw, 0, .die⟩]⟩,
  -- RPSE
  ⟨0x181010, [(64, 64)], none, [⟨0, 16, .rw, 0, .die⟩]⟩,
  -- RPSE
  ⟨0x181014, [(64, 64)], none, [⟨0, 24, .rw, 0, .die⟩]⟩,
  -- RPSE
  ⟨0x181018, [(64, 64)], none, [⟨0, 13, .rw, 0, .die⟩]⟩,
  -- RPSE
  ⟨0x18101C, [(64, 64)], none, [⟨0, 3, .ro, 0, .die⟩, ⟨3, 1, .w1c, 0, .die⟩, ⟨4, 1, .ro, 0, .die⟩, ⟨5, 1, .ro, 0, .die⟩, ⟨6, 1, .ro, 0, .die⟩, ⟨7, 1, .ro, 0, .die⟩, ⟨8, 8, .ro, 0, .die⟩]⟩,
  -- RPSE
  ⟨0x181020, [(64, 64)], none, [⟨0, 16, .ro, 0, .die⟩, ⟨16, 16, .ro, 0, .die⟩]⟩,
  -- RPSE
  ⟨0x181024, [(64, 64)], none, [⟨0, 23, .ro, 0, .die⟩]⟩,
  -- RPSE
  ⟨0x181028, [(64, 64)], none, [⟨0, 23, .ro, 0, .die⟩, ⟨31, 1, .w1c, 0, .die⟩]⟩,
  -- RPSE
  ⟨0x18102C, [(64, 64)], none, [⟨0, 23, .rw, 0, .die⟩]⟩,
  -- RPSE
  ⟨0x181030, [(64, 64)], none, [⟨0, 16, .ro, 0, .die⟩, ⟨16, 16, .ro, 0, .die⟩]⟩,
  -- RPSE
  ⟨0x181034, [(64, 64)], none, [⟨0, 32, .ro, 0, .die⟩]⟩]

/-- Registers of the block at 0x18_0000. -/
def regs18b : List RegDesc := [
  -- RPSE
  ⟨0x181038, [(64, 64)], none, [⟨0, 32, .ro, 0, .die⟩]⟩]

/-- Registers of the block at 0x40_0000. -/
def regs40a : List RegDesc := [
  -- SEQ_STATUS
  ⟨0x400000, [(4, 1048576), (16, 4096)], none, [⟨0, 4, .ro, 0, .core⟩, ⟨4, 6, .ro, 0, .core⟩, ⟨10, 1, .ro, 0, .core⟩, ⟨11, 1, .w1c, 0, .core⟩, ⟨12, 1, .ro, 0, .core⟩]⟩,
  -- SEQ_CTRL
  ⟨0x400004, [(4, 1048576), (16, 4096)], none, [⟨0, 1, .rw, 0, .core⟩, ⟨1, 1, .wo, 0, .core⟩, ⟨31, 1, .lck, 0, .die⟩]⟩,
  -- SEQ_PC_LO
  ⟨0x400008, [(4, 1048576), (16, 4096)], none, [⟨0, 32, .rw, 0, .core⟩]⟩,
  -- SEQ_PC_HI
  ⟨0x40000C, [(4, 1048576), (16, 4096)], none, [⟨0, 16, .rw, 0, .core⟩]⟩,
  -- SEQ_VPC_LO
  ⟨0x400010, [(4, 1048576), (16, 4096)], none, [⟨0, 32, .rw, 0, .core⟩]⟩,
  -- SEQ_VPC_HI
  ⟨0x400014, [(4, 1048576), (16, 4096)], none, [⟨0, 16, .rw, 0, .core⟩]⟩,
  -- SEQ_PD
  ⟨0x400018, [(4, 1048576), (16, 4096)], some (33554495, 2), [⟨0, 4, .rwl, 0, .die⟩]⟩,
  -- SEQ_LEAD_CFG
  ⟨0x40001C, [(4, 1048576), (16, 4096)], some (33554495, 2), [⟨0, 14, .rwl, 8192, .die⟩]⟩,
  -- SEQ_LEAD
  ⟨0x400020, [(4, 1048576), (16, 4096)], none, [⟨0, 14, .ro, 0, .core⟩, ⟨16, 12, .ro, 0, .core⟩]⟩,
  -- SEQ_LEAD_WM
  ⟨0x400024, [(4, 1048576), (16, 4096)], none, [⟨0, 14, .rw, 0, .core⟩, ⟨16, 14, .ro, 0, .core⟩, ⟨30, 1, .w1c, 0, .core⟩]⟩,
  -- SEQ_SEGMAX
  ⟨0x400028, [(4, 1048576), (16, 4096)], none, [⟨0, 17, .rw, 0, .core⟩]⟩,
  -- SEQ_CURTAIN_LEN
  ⟨0x40002C, [(4, 1048576), (16, 4096)], none, [⟨0, 13, .rw, 0, .core⟩]⟩,
  -- SEQ_STOPBOUND
  ⟨0x400030, [(4, 1048576), (16, 4096)], none, [⟨0, 32, .ro, 0, .core⟩]⟩,
  -- SEQ_SEG
  ⟨0x400034, [(4, 1048576), (16, 4096)], none, [⟨0, 32, .ro, 0, .core⟩]⟩,
  -- SEQ_FAULT
  ⟨0x400038, [(4, 1048576), (16, 4096)], none, [⟨0, 8, .ro, 0, .core⟩, ⟨8, 1, .w1c, 0, .core⟩, ⟨9, 1, .ro, 0, .core⟩]⟩,
  -- SEQ_FAULT_PC_LO
  ⟨0x40003C, [(4, 1048576), (16, 4096)], none, [⟨0, 32, .ro, 0, .core⟩]⟩,
  -- SEQ_FAULT_PC_HI
  ⟨0x400040, [(4, 1048576), (16, 4096)], none, [⟨0, 16, .ro, 0, .core⟩]⟩,
  -- SEQ_FAULT_ADDR_LO
  ⟨0x400044, [(4, 1048576), (16, 4096)], none, [⟨0, 32, .ro, 0, .core⟩]⟩,
  -- SEQ_FAULT_ADDR_HI
  ⟨0x400048, [(4, 1048576), (16, 4096)], none, [⟨0, 16, .ro, 0, .core⟩]⟩,
  -- SEQ_STOP_CYCLE_LO
  ⟨0x40004C, [(4, 1048576), (16, 4096)], none, [⟨0, 32, .ro, 0, .core⟩]⟩,
  -- SEQ_STOP_CYCLE_HI
  ⟨0x400050, [(4, 1048576), (16, 4096)], none, [⟨0, 16, .ro, 0, .core⟩]⟩,
  -- SEQ_CYCLE_LO
  ⟨0x400054, [(4, 1048576), (16, 4096)], none, [⟨0, 32, .rw, 0, .core⟩]⟩,
  -- SEQ_CYCLE_HI
  ⟨0x400058, [(4, 1048576), (16, 4096)], none, [⟨0, 16, .rs, 0, .core⟩, ⟨16, 1, .w1c, 0, .core⟩]⟩,
  -- SEQ_PINMAP
  ⟨0x400060, [(4, 1048576), (16, 4096), (4, 4)], some (33554495, 2), [⟨0, 32, .rwl, 0, .die⟩]⟩]

/-- Registers of the block at 0x40_0000. -/
def regs40b : List RegDesc := [
  -- SEQ_EVI_STATUS
  ⟨0x400070, [(4, 1048576), (16, 4096)], none, [⟨0, 16, .w1c, 0, .core⟩, ⟨16, 16, .ro, 0, .core⟩]⟩,
  -- SEQ_EVI_CNT
  ⟨0x400080, [(4, 1048576), (16, 4096), (16, 4)], none, [⟨0, 8, .rw, 0, .core⟩]⟩,
  -- SEQ_EVI_ROUTE
  ⟨0x4000C0, [(4, 1048576), (16, 4096), (16, 4)], some (33554495, 2), [⟨0, 3, .rwl, 0, .die⟩, ⟨3, 5, .rwl, 0, .die⟩]⟩,
  -- SEQ_VPQ_STATUS
  ⟨0x400100, [(4, 1048576), (16, 4096)], none, [⟨0, 5, .ro, 0, .core⟩]⟩]

/-- Registers of the block at 0x42_0000. -/
def regs42 : List RegDesc := [
  -- TGN_STATUS
  ⟨0x420000, [(4, 1048576)], none, [⟨0, 1, .w1c, 0, .die⟩, ⟨1, 1, .w1c, 0, .die⟩, ⟨2, 1, .ro, 0, .die⟩, ⟨3, 2, .ro, 0, .die⟩, ⟨5, 1, .ro, 0, .die⟩]⟩,
  -- TGN_DSK_CTRL
  ⟨0x420004, [(4, 1048576)], none, [⟨0, 1, .rw, 1, .die⟩, ⟨1, 1, .wo, 0, .die⟩, ⟨2, 2, .rw, 0, .die⟩, ⟨4, 1, .rw, 0, .die⟩, ⟨8, 16, .rw, 250, .die⟩]⟩,
  -- TGN_DSK_STATUS
  ⟨0x420008, [(4, 1048576)], none, [⟨0, 4, .ro, 15, .die⟩, ⟨4, 4, .ro, 0, .die⟩, ⟨8, 4, .ro, 0, .die⟩, ⟨12, 1, .w1c, 0, .die⟩, ⟨16, 8, .ro, 0, .die⟩, ⟨24, 8, .ro, 0, .die⟩]⟩,
  -- TGN_CROWD
  ⟨0x420010, [(4, 1048576), (4, 4)], none, [⟨0, 32, .w1c, 0, .die⟩]⟩,
  -- TGN_PD_CFG
  ⟨0x420100, [(4, 1048576), (16, 8)], none, [⟨0, 1, .rw, 0, .die⟩, ⟨1, 1, .ro, 0, .die⟩, ⟨2, 1, .wo, 0, .die⟩, ⟨3, 1, .wo, 0, .die⟩, ⟨4, 1, .ro, 0, .die⟩, ⟨5, 1, .w1c, 0, .die⟩]⟩,
  -- TGN_PD_PERIOD
  ⟨0x420104, [(4, 1048576), (16, 8)], none, [⟨0, 32, .rw, 20000, .die⟩]⟩,
  -- TGN_RSU_CFG
  ⟨0x420200, [(4, 1048576), (16, 16)], none, [⟨0, 7, .rw, 0, .die⟩, ⟨8, 2, .rw, 0, .die⟩, ⟨31, 1, .rw, 0, .die⟩]⟩,
  -- TGN_RSU_WIN
  ⟨0x420204, [(4, 1048576), (16, 16)], none, [⟨0, 16, .rw, 0, .die⟩, ⟨16, 16, .rw, 0, .die⟩]⟩,
  -- TGN_RSU_STAT
  ⟨0x420208, [(4, 1048576), (16, 16)], none, [⟨0, 16, .ro, 65535, .die⟩, ⟨16, 15, .ro, 0, .die⟩, ⟨31, 1, .wo, 0, .die⟩]⟩,
  -- TGN_RSU_MISS
  ⟨0x42020C, [(4, 1048576), (16, 16)], none, [⟨0, 32, .ro, 0, .die⟩]⟩]

/-- Registers of the block at 0x43_0000. -/
def regs43 : List RegDesc := [
  -- PED_STATUS
  ⟨0x430000, [(4, 1048576)], none, [⟨0, 1, .ro, 1, .die⟩, ⟨1, 1, .ro, 0, .die⟩]⟩,
  -- PED_TX_CFG
  ⟨0x430004, [(4, 1048576)], some (35127360, 1), [⟨0, 2, .rwl, 1, .die⟩, ⟨2, 2, .rwl, 0, .die⟩]⟩,
  -- PED_LOCK
  ⟨0x430008, [(4, 1048576)], none, [⟨0, 1, .lck, 0, .die⟩]⟩,
  -- PED_PARKED
  ⟨0x430010, [(4, 1048576), (4, 4)], none, [⟨0, 32, .ro, 4294967295, .die⟩]⟩,
  -- PED_CONFLICT
  ⟨0x430020, [(4, 1048576), (4, 4)], none, [⟨0, 32, .w1c, 0, .die⟩]⟩,
  -- PED_QH
  ⟨0x430030, [(4, 1048576), (4, 4)], none, [⟨0, 32, .ro, 0, .die⟩]⟩,
  -- PED_QL
  ⟨0x430040, [(4, 1048576), (4, 4)], none, [⟨0, 32, .ro, 0, .die⟩]⟩,
  -- PED_INV
  ⟨0x430100, [(4, 1048576), (16, 4)], some (35127360, 1), [⟨0, 32, .rwl, 0, .die⟩]⟩]

/-- Registers of the block at 0x44_0000. -/
def regs44 : List RegDesc := [
  -- CMP_STATUS
  ⟨0x440000, [(4, 1048576)], none, [⟨0, 1, .ro, 0, .die⟩, ⟨1, 1, .ro, 0, .die⟩]⟩,
  -- CMP_MASK
  ⟨0x440010, [(4, 1048576), (4, 4)], none, [⟨0, 32, .rw, 0, .die⟩]⟩,
  -- CMP_MASK_ACT
  ⟨0x440020, [(4, 1048576), (4, 4)], none, [⟨0, 32, .ro, 0, .die⟩]⟩,
  -- CMP_RAW
  ⟨0x440030, [(4, 1048576), (4, 4)], none, [⟨0, 32, .w1c, 0, .die⟩]⟩,
  -- FLG_STATUS
  ⟨0x440100, [(4, 1048576)], none, [⟨0, 1, .w1c, 0, .die⟩, ⟨1, 1, .w1c, 0, .die⟩, ⟨2, 1, .ro, 0, .die⟩]⟩,
  -- FLG_STAGE_LVL
  ⟨0x440104, [(4, 1048576)], none, [⟨0, 18, .ro, 0, .die⟩]⟩,
  -- FLG_STAGE_WM
  ⟨0x440108, [(4, 1048576)], none, [⟨0, 18, .rw, 0, .die⟩]⟩,
  -- FLG_STAGE_PEAK
  ⟨0x44010C, [(4, 1048576)], none, [⟨0, 18, .ro, 0, .die⟩, ⟨31, 1, .w1c, 0, .die⟩]⟩,
  -- FLG_REC_LO
  ⟨0x440110, [(4, 1048576)], none, [⟨0, 32, .rw, 0, .die⟩]⟩,
  -- FLG_REC_HI
  ⟨0x440114, [(4, 1048576)], none, [⟨0, 16, .rs, 0, .die⟩, ⟨16, 1, .w1c, 0, .die⟩]⟩,
  -- FLG_LOST_LO
  ⟨0x440118, [(4, 1048576)], none, [⟨0, 32, .rw, 0, .die⟩]⟩,
  -- FLG_LOST_HI
  ⟨0x44011C, [(4, 1048576)], none, [⟨0, 16, .rs, 0, .die⟩, ⟨16, 1, .w1c, 0, .die⟩]⟩,
  -- FLG_SITE_FAIL_LO
  ⟨0x440120, [(4, 1048576)], none, [⟨0, 32, .ro, 0, .die⟩]⟩,
  -- FLG_SITE_FAIL_HI
  ⟨0x440124, [(4, 1048576)], none, [⟨0, 32, .ro, 0, .die⟩]⟩,
  -- FLG_RES_SUM
  ⟨0x440128, [(4, 1048576)], none, [⟨0, 12, .ro, 0, .die⟩, ⟨16, 8, .ro, 0, .die⟩]⟩]

/-- Registers of the block at 0x45_0000. -/
def regs45 : List RegDesc := [
  -- PLL_STATUS
  ⟨0x450000, [(4, 1048576)], none, [⟨0, 1, .ro, 0, .die⟩, ⟨1, 1, .ro, 0, .die⟩, ⟨2, 1, .w1c, 0, .die⟩, ⟨3, 1, .w1c, 0, .die⟩, ⟨4, 1, .w1c, 0, .die⟩, ⟨5, 2, .ro, 0, .die⟩, ⟨8, 5, .ro, 0, .die⟩, ⟨13, 5, .ro, 0, .die⟩]⟩,
  -- PLL_CTRL
  ⟨0x450004, [(4, 1048576)], some (36175935, 1), [⟨0, 1, .wo, 0, .die⟩, ⟨1, 1, .rw, 0, .die⟩, ⟨2, 2, .rw, 2, .die⟩, ⟨4, 8, .rwl, 20, .die⟩, ⟨31, 1, .lck, 0, .die⟩]⟩,
  -- PLL_CFG
  ⟨0x450100, [(4, 1048576), (2, 64)], some (36175935, 1), [⟨0, 14, .rwl, 8000, .die⟩, ⟨14, 1, .rwl, 1, .die⟩]⟩,
  -- PLL_SEED
  ⟨0x450104, [(4, 1048576), (2, 64)], none, [⟨0, 32, .rw, 1, .die⟩]⟩,
  -- PLL_OUT
  ⟨0x450108, [(4, 1048576), (2, 64)], none, [⟨0, 6, .rw, 0, .die⟩, ⟨6, 2, .rw, 0, .die⟩, ⟨8, 2, .rw, 1, .die⟩, ⟨10, 6, .rw, 0, .die⟩, ⟨16, 2, .rw, 0, .die⟩, ⟨18, 2, .rw, 1, .die⟩, ⟨20, 6, .rw, 0, .die⟩, ⟨26, 2, .rw, 0, .die⟩, ⟨28, 2, .rw, 1, .die⟩]⟩,
  -- PLL_OFS
  ⟨0x45010C, [(4, 1048576), (2, 64)], none, [⟨0, 32, .ro, 0, .die⟩]⟩,
  -- PLL_STEP_OFS
  ⟨0x450110, [(4, 1048576), (2, 64)], none, [⟨0, 32, .rw, 0, .die⟩]⟩,
  -- PLL_STEP_TTI_LO
  ⟨0x450114, [(4, 1048576), (2, 64)], none, [⟨0, 32, .rw, 0, .die⟩]⟩,
  -- PLL_STEP_TTI_HI
  ⟨0x450118, [(4, 1048576), (2, 64)], none, [⟨0, 32, .rw, 0, .die⟩]⟩,
  -- PLL_STEP_CTRL
  ⟨0x45011C, [(4, 1048576), (2, 64)], none, [⟨0, 1, .w1s, 0, .die⟩, ⟨1, 1, .wo, 0, .die⟩, ⟨2, 3, .ro, 0, .die⟩, ⟨5, 3, .ro, 0, .die⟩]⟩,
  -- BAND
  ⟨0x450200, [(4, 1048576), (2, 256), (32, 8)], none, [⟨0, 16, .rw, 0, .die⟩, ⟨16, 16, .rw, 0, .die⟩]⟩,
  -- BAND
  ⟨0x450204, [(4, 1048576), (2, 256), (32, 8)], none, [⟨0, 8, .rw, 0, .die⟩, ⟨8, 6, .rw, 0, .die⟩, ⟨14, 4, .rw, 0, .die⟩, ⟨31, 1, .rw, 0, .die⟩]⟩]

/-- Registers of the block at 0x46_0000. -/
def regs46 : List RegDesc := [
  -- D2D_STATUS
  ⟨0x460000, [(4, 1048576)], none, [⟨0, 1, .ro, 0, .die⟩, ⟨1, 2, .ro, 0, .die⟩, ⟨3, 3, .ro, 0, .die⟩, ⟨6, 1, .ro, 0, .die⟩, ⟨7, 1, .w1c, 0, .die⟩]⟩,
  -- D2D_CTRL
  ⟨0x460004, [(4, 1048576)], some (36700223, 1), [⟨0, 1, .rwl, 1, .die⟩, ⟨1, 1, .wo, 0, .die⟩, ⟨31, 1, .lck, 0, .die⟩]⟩,
  -- D2D_ID0
  ⟨0x460008, [(4, 1048576)], none, [⟨0, 8, .ro, 0, .por⟩, ⟨8, 4, .ro, 0, .por⟩, ⟨12, 4, .ro, 0, .por⟩, ⟨16, 16, .ro, 0, .por⟩]⟩,
  -- D2D_ID1
  ⟨0x46000C, [(4, 1048576)], none, [⟨0, 8, .ro, 0, .por⟩, ⟨8, 8, .ro, 0, .por⟩, ⟨16, 8, .ro, 0, .por⟩]⟩,
  -- D2D_PORT
  ⟨0x460010, [(4, 1048576), (8, 4)], none, [⟨0, 5, .ro, 0, .die⟩, ⟨8, 5, .ro, 0, .die⟩, ⟨16, 1, .ro, 0, .die⟩]⟩,
  -- D2D_CRC_LO
  ⟨0x460040, [(4, 1048576)], none, [⟨0, 32, .rw, 0, .die⟩]⟩,
  -- D2D_CRC_HI
  ⟨0x460044, [(4, 1048576)], none, [⟨0, 16, .rs, 0, .die⟩, ⟨16, 1, .w1c, 0, .die⟩]⟩,
  -- D2D_REPLAY_LO
  ⟨0x460048, [(4, 1048576)], none, [⟨0, 32, .rw, 0, .die⟩]⟩,
  -- D2D_REPLAY_HI
  ⟨0x46004C, [(4, 1048576)], none, [⟨0, 16, .rs, 0, .die⟩, ⟨16, 1, .w1c, 0, .die⟩]⟩]

/-- Registers of the block at 0x47_0000. -/
def regs47 : List RegDesc := [
  -- FAB_SCRUB_CTRL
  ⟨0x470000, [(4, 1048576)], none, [⟨0, 1, .rw, 1, .die⟩, ⟨16, 16, .rw, 10, .die⟩]⟩,
  -- FAB_SCRUB_STATUS
  ⟨0x470004, [(4, 1048576)], none, [⟨0, 1, .ro, 0, .die⟩, ⟨1, 1, .ro, 0, .die⟩, ⟨2, 1, .w1c, 0, .die⟩, ⟨8, 8, .ro, 0, .die⟩, ⟨16, 16, .ro, 0, .die⟩]⟩,
  -- FAB_CRIT_BASE_LO
  ⟨0x470008, [(4, 1048576)], none, [⟨0, 1, .rw, 0, .die⟩, ⟨12, 20, .rw, 0, .die⟩]⟩,
  -- FAB_CRIT_BASE_HI
  ⟨0x47000C, [(4, 1048576)], none, [⟨0, 16, .rw, 0, .die⟩]⟩,
  -- FAB_SCRUB_POL
  ⟨0x470010, [(4, 1048576)], some (37224607, 1), [⟨0, 2, .rwl, 0, .die⟩, ⟨31, 1, .lck, 0, .die⟩]⟩,
  -- FAB_SCRUB_SITES_LO
  ⟨0x470014, [(4, 1048576)], some (37224607, 1), [⟨0, 32, .rwl, 0, .die⟩]⟩,
  -- FAB_SCRUB_SITES_HI
  ⟨0x470018, [(4, 1048576)], some (37224607, 1), [⟨0, 32, .rwl, 0, .die⟩]⟩,
  -- FAB_UPSET_LAST
  ⟨0x47001C, [(4, 1048576)], none, [⟨0, 22, .ro, 0, .die⟩, ⟨22, 2, .ro, 0, .die⟩]⟩,
  -- FAB_UPSET_LO
  ⟨0x470020, [(4, 1048576)], none, [⟨0, 32, .rw, 0, .die⟩]⟩,
  -- FAB_UPSET_HI
  ⟨0x470024, [(4, 1048576)], none, [⟨0, 16, .rs, 0, .die⟩, ⟨16, 1, .w1c, 0, .die⟩]⟩,
  -- FAB_PR_REGION
  ⟨0x470040, [(4, 1048576), (8, 4)], none, [⟨0, 8, .ro, 0, .die⟩, ⟨8, 8, .ro, 0, .die⟩, ⟨31, 1, .ro, 0, .die⟩]⟩,
  -- FAB_PR_STATE
  ⟨0x470060, [(4, 1048576), (8, 4)], none, [⟨0, 3, .ro, 0, .die⟩, ⟨4, 4, .ro, 0, .die⟩, ⟨8, 8, .ro, 0, .die⟩, ⟨16, 16, .ro, 0, .die⟩]⟩,
  -- FAB_PR_CTRL
  ⟨0x470080, [(4, 1048576)], none, [⟨0, 8, .wo, 0, .die⟩]⟩,
  -- FAB_DYN
  ⟨0x470090, [(4, 1048576), (3, 4)], none, [⟨0, 32, .ro, 0, .die⟩]⟩]

/-- Registers of the block at 0x48_0000. -/
def regs48 : List RegDesc := [
  -- DDB_STATUS
  ⟨0x480000, [(4, 1048576)], none, [⟨0, 8, .w1c, 0, .die⟩]⟩,
  -- DDB_CMP_CTRL
  ⟨0x480100, [(4, 1048576), (8, 32)], none, [⟨0, 2, .rw, 0, .die⟩, ⟨2, 2, .rw, 0, .die⟩, ⟨4, 2, .rw, 0, .die⟩, ⟨6, 4, .rw, 0, .die⟩, ⟨10, 1, .rw, 0, .die⟩]⟩,
  -- DDB_CMP_VAL_LO
  ⟨0x480104, [(4, 1048576), (8, 32)], none, [⟨0, 32, .rw, 0, .die⟩]⟩,
  -- DDB_CMP_VAL_HI
  ⟨0x480108, [(4, 1048576), (8, 32)], none, [⟨0, 32, .rw, 0, .die⟩]⟩,
  -- DDB_CMP_LIM_LO
  ⟨0x48010C, [(4, 1048576), (8, 32)], none, [⟨0, 32, .rw, 0, .die⟩]⟩,
  -- DDB_CMP_LIM_HI
  ⟨0x480110, [(4, 1048576), (8, 32)], none, [⟨0, 32, .rw, 0, .die⟩]⟩,
  -- DDB_CMP_CNT
  ⟨0x480114, [(4, 1048576), (8, 32)], none, [⟨0, 32, .rw, 0, .die⟩]⟩]

/-- Registers of the block at 0x49_0000. -/
def regs49 : List RegDesc := [
  -- CHAN
  ⟨0x490000, [(4, 1048576), (128, 32)], none, [⟨0, 4, .rw, 0, .die⟩, ⟨8, 1, .ro, 1, .die⟩, ⟨9, 1, .ro, 0, .die⟩, ⟨16, 7, .ro, 0, .die⟩, ⟨24, 2, .ro, 0, .die⟩]⟩,
  -- CHAN
  ⟨0x490004, [(4, 1048576), (128, 32)], none, [⟨0, 16, .rw, 0, .die⟩, ⟨16, 16, .rw, 0, .die⟩]⟩,
  -- CHAN
  ⟨0x490008, [(4, 1048576), (128, 32)], none, [⟨0, 16, .rw, 0, .die⟩, ⟨16, 16, .rw, 0, .die⟩]⟩,
  -- CHAN
  ⟨0x49000C, [(4, 1048576), (128, 32)], none, [⟨0, 16, .ro, 0, .die⟩, ⟨16, 16, .ro, 0, .die⟩]⟩,
  -- CHAN
  ⟨0x490010, [(4, 1048576), (128, 32)], none, [⟨0, 16, .ro, 0, .die⟩, ⟨16, 16, .ro, 0, .die⟩]⟩]

/-- Registers of the block at 0x4A_0000. -/
def regs4A : List RegDesc := [
  -- TS_PER
  ⟨0x4A0000, [(4, 1048576), (128, 2048), (64, 32)], none, [⟨0, 32, .rw, 0, .die⟩]⟩,
  -- TS_FMT
  ⟨0x4A0004, [(4, 1048576), (128, 2048), (64, 32)], none, [⟨0, 3, .rw, 0, .die⟩, ⟨3, 1, .rw, 0, .die⟩, ⟨4, 1, .rw, 0, .die⟩, ⟨5, 2, .rw, 0, .die⟩, ⟨8, 4, .rw, 0, .die⟩, ⟨31, 1, .ro, 0, .die⟩]⟩,
  -- TS_T
  ⟨0x4A0008, [(4, 1048576), (128, 2048), (64, 32), (6, 4)], none, [⟨0, 24, .rw, 0, .die⟩]⟩]

/-- Registers of the block at 0x4E_0000. -/
def regs4E : List RegDesc := [
  -- CHFC
  ⟨0x4E0000, [(4, 1048576), (128, 16)], none, [⟨0, 32, .rw, 0, .die⟩]⟩,
  -- CHFC
  ⟨0x4E0004, [(4, 1048576), (128, 16)], none, [⟨0, 16, .rs, 0, .die⟩, ⟨16, 1, .w1c, 0, .die⟩]⟩,
  -- CHFC
  ⟨0x4E0008, [(4, 1048576), (128, 16)], none, [⟨0, 32, .ro, 0, .die⟩]⟩,
  -- CHFC
  ⟨0x4E000C, [(4, 1048576), (128, 16)], none, [⟨0, 16, .rs, 0, .die⟩, ⟨31, 1, .ro, 0, .die⟩]⟩,
  -- SFT
  ⟨0x4E1000, [(4, 1048576), (64, 64)], none, [⟨0, 2, .rw, 0, .die⟩, ⟨2, 1, .rw, 0, .die⟩, ⟨3, 1, .rw, 0, .die⟩, ⟨4, 1, .rw, 0, .die⟩, ⟨5, 1, .rw, 0, .die⟩, ⟨8, 5, .rw, 0, .die⟩, ⟨13, 5, .rw, 0, .die⟩]⟩,
  -- SFT
  ⟨0x4E1004, [(4, 1048576), (64, 64)], none, [⟨0, 32, .rw, 0, .die⟩]⟩,
  -- SFT
  ⟨0x4E1008, [(4, 1048576), (64, 64)], none, [⟨0, 16, .rw, 0, .die⟩]⟩,
  -- SFT
  ⟨0x4E100C, [(4, 1048576), (64, 64)], none, [⟨0, 24, .rw, 0, .die⟩]⟩,
  -- SFT
  ⟨0x4E1010, [(4, 1048576), (64, 64)], none, [⟨0, 16, .rw, 0, .die⟩, ⟨16, 8, .rw, 0, .die⟩]⟩,
  -- SFT
  ⟨0x4E1014, [(4, 1048576), (64, 64)], none, [⟨0, 32, .rw, 0, .die⟩]⟩,
  -- SFT
  ⟨0x4E1018, [(4, 1048576), (64, 64)], none, [⟨0, 32, .rw, 0, .die⟩]⟩,
  -- SFT
  ⟨0x4E101C, [(4, 1048576), (64, 64)], none, [⟨0, 32, .ro, 0, .die⟩]⟩,
  -- SFT
  ⟨0x4E1020, [(4, 1048576), (64, 64)], none, [⟨0, 32, .rw, 0, .die⟩]⟩,
  -- SFT
  ⟨0x4E1024, [(4, 1048576), (64, 64)], none, [⟨0, 31, .ro, 0, .die⟩, ⟨31, 1, .w1c, 0, .die⟩]⟩,
  -- SFT
  ⟨0x4E1028, [(4, 1048576), (64, 64)], none, [⟨0, 32, .rw, 0, .die⟩]⟩,
  -- SFT
  ⟨0x4E102C, [(4, 1048576), (64, 64)], none, [⟨0, 16, .rs, 0, .die⟩, ⟨16, 1, .w1c, 0, .die⟩]⟩,
  -- SFT
  ⟨0x4E1030, [(4, 1048576), (64, 64)], none, [⟨0, 32, .ro, 0, .die⟩]⟩,
  -- SFT
  ⟨0x4E1034, [(4, 1048576), (64, 64)], none, [⟨0, 16, .rs, 0, .die⟩]⟩,
  -- SFT
  ⟨0x4E1038, [(4, 1048576), (64, 64)], none, [⟨0, 32, .ro, 0, .die⟩]⟩,
  -- SFT
  ⟨0x4E103C, [(4, 1048576), (64, 64)], none, [⟨0, 1, .ro, 0, .die⟩, ⟨1, 1, .ro, 0, .die⟩, ⟨2, 1, .ro, 0, .die⟩, ⟨3, 1, .ro, 0, .die⟩, ⟨4, 1, .ro, 0, .die⟩, ⟨5, 1, .ro, 0, .die⟩, ⟨6, 1, .ro, 0, .die⟩, ⟨7, 1, .ro, 0, .die⟩, ⟨8, 1, .ro, 0, .die⟩, ⟨9, 1, .ro, 0, .die⟩]⟩]

/-- The registers of one 64 KiB block of the register space. The four channel-die windows share one description
(R568): its first instance number is the die. The SITE, schedule and other tables lie in the block of their base. -/
def regsOfBlock (block : Nat) : List RegDesc :=
  match block with
  | 0x00 => regs00a ++ regs00b
  | 0x01 => regs01
  | 0x02 => regs02
  | 0x03 => regs03
  | 0x04 => regs04
  | 0x05 => regs05
  | 0x06 => regs06
  | 0x07 => regs07
  | 0x08 => regs08
  | 0x09 => regs09
  | 0x0A => regs0A
  | 0x0B => regs0B
  | 0x0C => regs0C
  | 0x0D => regs0D
  | 0x0E => regs0E
  | 0x0F => regs0F
  | 0x10 => regs10a ++ regs10b
  | 0x18 => regs18a ++ regs18b
  | _ =>
    if block < 0x40 then []
    else if 0x80 ≤ block then []
    else match block % 16 with
      | 0 => regs40a ++ regs40b
      | 2 => regs42
      | 3 => regs43
      | 4 => regs44
      | 5 => regs45
      | 6 => regs46
      | 7 => regs47
      | 8 => regs48
      | 9 => regs49
      | 10 => regs4A
      | 11 => regs4A
      | 12 => regs4A
      | 13 => regs4A
      | 14 => regs4E
      | _ => []

end Sys2Proof.Machine
end

