-- ==== Sys2Proof/Machine/ResetOps.lean ====
section
/-! DEFINITION. Finding a register by its address, and what a reset restores of the register fields and of a core (R16,
R57, R58, R62). -/

namespace Sys2Proof.Machine

/-! ## Finding a register (R567, R568) -/

/-- Instance numbers of an offset from a register's first instance, outermost first. -/
def instanceOf : List (Nat × Nat) → Nat → Option (List Nat)
  | [], r => if r = 0 then some [] else none
  | (n, stride) :: l, r =>
    let i := r / stride
    if i < n then (instanceOf l (r - i * stride)).map (i :: ·) else none

/-- The register of a list at byte address `a`, with its instance numbers. -/
def findIn (a : Nat) : List RegDesc → Option (RegDesc × List Nat)
  | [] => none
  | r :: l =>
    match if r.base ≤ a then instanceOf r.dims (a - r.base) else none with
    | some i => some (r, i)
    | none => findIn a l

/-- The block whose list describes address `a`: the tables that run past their block's 64 KiB begin in it. -/
def descBlock (a : Nat) : Nat := a / 65536

/-- The register at byte address `a`. -/
def findReg (a : Nat) : Option (RegDesc × List Nat) := findIn a (regsOfBlock (descBlock a))

/-- The reset that restores the field at a bit address (R16). -/
def rstOf (key : Nat) : RstBy :=
  match findReg (key / 32 * 4) with
  | none => .none
  | some (r, _) =>
    match r.fields.find? fun f => f.lo == key % 32 with
    | some f => f.by'
    | none => .none

/-- Bit address of a field of the register at byte address `a`. -/
def keyAt (a lo : Nat) : Nat := 8 * a + lo

/-- Every field of the register at `a` takes its bits of `w`. -/
def Dev.wordPut (d : Dev) (a w : Nat) : Dev :=
  match findReg a with
  | none => d
  | some (r, _) => d.each r.fields fun d f => d.set ⟨keyAt a f.lo, f.width, f.rst⟩ (bitsAt w f.lo f.width)

/-- The fields of the register at `a` as one word. -/
def Dev.wordGet (d : Dev) (a : Nat) : Nat :=
  match findReg a with
  | none => 0
  | some (r, _) => (r.fields.map fun f => d.get ⟨keyAt a f.lo, f.width, f.rst⟩ * 2 ^ f.lo).sum

/-! ## Scopes (R57, R58) -/

/-- The die whose DIE reset restores the DIE fields at byte address `a`: 0 to 3 a channel die, 4 the base die, 5 the hub,
whose DIE is DRST (R114's table note, R480, R423). -/
def regDie (a : Nat) : Nat :=
  if 0x400000 ≤ a ∧ a < 0x800000 then (a - 0x400000) / 0x100000
  else if 0x100000 ≤ a ∧ a < 0x190000 then 4
  else if 0x41000 ≤ a ∧ a < 0x47000 then
    let t := (a - 0x41000) / 0x1000
    if t = 0 then 5 else if t = 1 then 4 else t - 2
  else if 0x60040 ≤ a ∧ a < 0x60050 then (a - 0x60040) / 4
  else if 0x60100 ≤ a ∧ a < 0x60140 then (a - 0x60100) / 16
  else if 0x30080 ≤ a ∧ a < 0x30090 then (a - 0x30080) / 4
  else if 0x30090 ≤ a ∧ a < 0x300A0 then (a - 0x30090) / 4
  else 5

/-- Every listed register field that `p` selects returns to its reset value. -/
def Dev.eraseRegs (d : Dev) (p : Nat → Bool) : Dev := { d with regs := d.regs.filter fun e => !p e.1 }

/-- A DIE reset of die `n` restores its DIE and CORE fields (R58). -/
def Dev.eraseDie (d : Dev) (n : Nat) : Dev :=
  d.eraseRegs fun k => regDie (k / 8) == n && (match rstOf k with
    | .die => true
    | .core => true
    | _ => false)

/-- DRST restores every field but those of POR and the battery-backed key store (R58). -/
def Dev.eraseDrst (d : Dev) : Dev :=
  d.eraseRegs fun k => match rstOf k with
    | .drst => true
    | .die => true
    | .core => true
    | _ => false

/-- POR restores every field but those of the battery-backed key store (R58). -/
def Dev.erasePor (d : Dev) : Dev :=
  d.eraseRegs fun k => match rstOf k with
    | .vbat => false
    | .none => false
    | _ => true

/-! ## One core (R58, R62) -/

/-- First and last byte address of core `q`'s SEQ window (R154). -/
def seqWin (q : Nat) : Nat := 0x400000 + q / 16 * 0x100000 + q % 16 * 0x1000

/-- CORE reset of core `q`: its state, VIQ and pending counters, and its register fields (R58, R62). -/
def Dev.coreReset (d : Dev) (q : Nat) : Dev :=
  let d := (d.unpinAll q).eraseRegs fun k =>
    decide (seqWin q ≤ k / 8) && decide (k / 8 < seqWin q + 0x1000) && (match rstOf k with
      | .core => true
      | _ => false)
  let d := (d.setCore q {}).putHalted q false
  { d with flight := tblKeep d.flight fun k => k / 16 != q }

end Sys2Proof.Machine
end

