-- ==== Sys2Proof/Machine/Judge.lean ====
section
/-! DEFINITION. One tick, one order: the judgement of R118 for a command that an earlier event of its tick has made
unacceptable. -/

namespace Sys2Proof.Machine

/-- The first event of the tick after whose application `ok` no longer holds. -/
def supersededBy (ok : Dev → Bool) : List (Evt × Dev) → Option Evt
  | [] => none
  | (e, d) :: l => if ok d then supersededBy ok l else some e

/-- The record SUPERSEDED: the class of the superseded event, and the class, OP or ACTION and site, entry or core of the
event that superseded it (R118, R552). -/
def Dev.superRecord (d : Dev) (cls : Nat) (by' : Evt) (unit : Nat) (site : Option Nat) : Dev :=
  d.logB 0x101 unit (cls + 2 ^ 4 * by'.1 + 2 ^ 8 * by'.2.1 + 2 ^ 16 * by'.2.2) site

/-- The judgement of R118 for an event of class `cls` whose acceptability is `ok`: applied when it is acceptable;
SUPERSEDED, with its record and `supers`, when it was acceptable at the start of the tick and a sampled event of the tick
has made it unacceptable; else refused under its own rule. -/
def State.judge (s : State) (cls unit : Nat) (site : Option Nat) (ok : Dev → Bool) (apply refuse supers : Dev → Dev) :
    Dev :=
  if ok s.dev then apply s.dev
  else if !ok s.tickStart then refuse s.dev
  else match supersededBy ok s.applied with
    | some e => (supers s.dev).superRecord cls e unit site
    | none => refuse s.dev

end Sys2Proof.Machine
end

