-- ==== Sys2Proof/Machine/Fp.lean ====
section
/-! DEFINITION. Floating-point arithmetic on bit patterns, exactly as IEEE 754-2019 and R185 to R195 state it: operands
are unpacked to exact numbers sign × m × 2^e, the operation is exact (a quotient or a root carries a sticky bit below
every rounding position), and one rounding packs the result. -/

namespace Sys2Proof.Machine

/-- Flags, as the bits of FPSTAT [5:0] (R191). -/
def fNV : Nat := 1
def fDZ : Nat := 2
def fOF : Nat := 4
def fUF : Nat := 8
def fNX : Nat := 16
def fDN : Nat := 32

/-- Rounding-direction attributes (R186). -/
inductive Rm where
  | rne | rtz | rtn | rtp | rna
  deriving DecidableEq, Repr

/-- The attribute a 3-bit code selects; codes 5 to 7 act as RNE (R186: a write of 5, 6 or 7 to FPSTAT.RM stores 0). -/
def rmOf (n : Nat) : Rm :=
  match n with
  | 1 => .rtz
  | 2 => .rtn
  | 3 => .rtp
  | 4 => .rna
  | _ => .rne

/-- A format: exponent bits and stored significand bits. -/
structure Fmt where
  eb : Nat
  mb : Nat
  deriving DecidableEq, Repr

/-- binary32 for P = 0, binary64 for P = 1 (R185). -/
def fmtOf (p : Bool) : Fmt := if p then ⟨11, 52⟩ else ⟨8, 23⟩

/-- Total width in bits. -/
def Fmt.width (f : Fmt) : Nat := 1 + f.eb + f.mb
/-- The exponent bias, and the largest exponent of a finite number. -/
def Fmt.bias (f : Fmt) : Nat := 2 ^ (f.eb - 1) - 1
/-- The exponent of the least normal number. -/
def Fmt.emin (f : Fmt) : Int := 1 - (f.bias : Int)

/-- An unpacked operand. -/
inductive Fv where
  | nan (signalling : Bool)
  | inf (s : Bool)
  /-- (-1)^s × m × 2^e; m = 0 is a signed zero. -/
  | num (s : Bool) (m : Nat) (e : Int)
  deriving DecidableEq, Repr

/-- The sign bit of a pattern. -/
def Fmt.signOf (f : Fmt) (x : Nat) : Bool := bitAt x (f.width - 1)
/-- The biased exponent field. -/
def Fmt.expOf (f : Fmt) (x : Nat) : Nat := bitsAt x f.mb f.eb
/-- The significand field. -/
def Fmt.manOf (f : Fmt) (x : Nat) : Nat := bitsAt x 0 f.mb

/-- A pattern unpacked. -/
def Fmt.unpack (f : Fmt) (x : Nat) : Fv :=
  let s := f.signOf x
  let e := f.expOf x
  let m := f.manOf x
  if e = 2 ^ f.eb - 1 then
    if m = 0 then .inf s else .nan (!bitAt m (f.mb - 1))
  else if e = 0 then .num s m (f.emin - f.mb)
  else .num s (m + 2 ^ f.mb) ((e : Int) - f.bias - f.mb)

/-- The pattern is a subnormal number. -/
def Fmt.isSub (f : Fmt) (x : Nat) : Bool := f.expOf x == 0 && f.manOf x != 0

/-- Sign bit in place. -/
def Fmt.signBit (f : Fmt) (s : Bool) : Nat := if s then 2 ^ (f.width - 1) else 0
/-- The default quiet NaN (R187). -/
def Fmt.qnan (f : Fmt) : Nat := (2 ^ f.eb - 1) * 2 ^ f.mb + 2 ^ (f.mb - 1)
/-- Infinity. -/
def Fmt.infBits (f : Fmt) (s : Bool) : Nat := f.signBit s + (2 ^ f.eb - 1) * 2 ^ f.mb
/-- The largest finite number. -/
def Fmt.maxBits (f : Fmt) (s : Bool) : Nat := f.signBit s + ((2 ^ f.eb - 1) * 2 ^ f.mb - 1)
/-- Zero. -/
def Fmt.zeroBits (f : Fmt) (s : Bool) : Nat := f.signBit s

/-- A result: the pattern and the flags raised. -/
structure FpRes where
  bits : Nat
  flags : Nat
  deriving DecidableEq, Repr

/-- The default NaN with flags. -/
def Fmt.nanRes (f : Fmt) (fl : Nat) : FpRes := ⟨f.qnan, fl⟩

/-- m × 2^e rounded to a multiple of 2^lsb under a mode: the multiple, and whether it is inexact. -/
def roundAt (rm : Rm) (s : Bool) (m : Nat) (e lsb : Int) : Nat × Bool :=
  if lsb ≤ e then (m * 2 ^ (e - lsb).toNat, false)
  else
    let sh := (lsb - e).toNat
    let q := m / 2 ^ sh
    let r := m % 2 ^ sh
    let half := 2 ^ (sh - 1)
    let up : Bool :=
      match rm with
      | .rne => decide (half < r) || (r == half && q % 2 == 1)
      | .rna => decide (half ≤ r)
      | .rtz => false
      | .rtn => s && r != 0
      | .rtp => !s && r != 0
    (if up then q + 1 else q, r != 0)

/-- The overflow result (R188): infinity under RNE and RNA, the largest finite number under RTZ, the sign's choice under
RTN and RTP. -/
def Fmt.overflow (f : Fmt) (rm : Rm) (s : Bool) : FpRes :=
  let big := match rm with
    | .rne => true
    | .rna => true
    | .rtz => false
    | .rtn => s
    | .rtp => !s
  ⟨if big then f.infBits s else f.maxBits s, fOF + fNX⟩

/-- A non-zero exact value rounded and packed (R186, R188, R189): tininess is detected after rounding, and with FTZ a
tiny result is a zero of its sign with UF and NX. -/
def Fmt.roundPack (f : Fmt) (rm : Rm) (ftz : Bool) (s : Bool) (m : Nat) (e : Int) : FpRes :=
  let top : Int := e + Nat.log2 m
  let lsbU := top - f.mb
  let (qU, _) := roundAt rm s m e lsbU
  let topU := if qU = 2 ^ (f.mb + 1) then top + 1 else top
  let tiny := decide (topU < f.emin)
  if tiny && ftz then ⟨f.zeroBits s, fUF + fNX⟩
  else
    let lsb := max lsbU (f.emin - f.mb)
    let (q, inexact) := roundAt rm s m e lsb
    let (q, lsb) := if q = 2 ^ (f.mb + 1) then (2 ^ f.mb, lsb + 1) else (q, lsb)
    let fl := (if inexact then fNX else 0) + (if tiny && inexact then fUF else 0)
    if q < 2 ^ f.mb then ⟨f.signBit s + q, fl⟩
    else
      let ex := lsb + f.mb + f.bias
      if (2 ^ f.eb - 1 : Nat) ≤ ex then f.overflow rm s
      else ⟨f.signBit s + ex.toNat * 2 ^ f.mb + (q - 2 ^ f.mb), fl⟩

/-- An operand after FTZ (R189): a subnormal becomes a zero of its sign with DN. -/
def Fmt.inFtz (f : Fmt) (ftz : Bool) (x : Nat) : Fv × Nat :=
  if ftz && f.isSub x then (.num (f.signOf x) 0 0, fDN) else (f.unpack x, 0)

/-- NV for a signalling NaN. -/
def snanFlag : Fv → Nat
  | .nan true => fNV
  | _ => 0

/-- The value is a NaN. -/
def Fv.isNan : Fv → Bool
  | .nan _ => true
  | _ => false

/-- The value negated. -/
def Fv.neg : Fv → Fv
  | .nan q => .nan q
  | .inf s => .inf (!s)
  | .num s m e => .num (!s) m e

/-- Flags added to a result. -/
def FpRes.orFlags (r : FpRes) (fl : Nat) : FpRes := ⟨r.bits, r.flags ||| fl⟩

/-- The exact sum of two numbers, rounded. An exact zero takes the sign both operands share, else minus under RTN. -/
def Fmt.addNum (f : Fmt) (rm : Rm) (ftz : Bool) (s1 : Bool) (m1 : Nat) (e1 : Int) (s2 : Bool) (m2 : Nat) (e2 : Int) :
    FpRes :=
  let e := min e1 e2
  let a : Int := (m1 * 2 ^ (e1 - e).toNat : Nat)
  let b : Int := (m2 * 2 ^ (e2 - e).toNat : Nat)
  let sum := (if s1 then -a else a) + (if s2 then -b else b)
  if sum = 0 then
    let s := if s1 = s2 then s1 else (match rm with
      | .rtn => true
      | _ => false)
    ⟨f.zeroBits s, 0⟩
  else f.roundPack rm ftz (decide (sum < 0)) sum.natAbs e

/-- x + y (R192). -/
def Fmt.add (f : Fmt) (rm : Rm) (ftz : Bool) (x y : Nat) (negY : Bool := false) : FpRes :=
  let (a, dx) := f.inFtz ftz x
  let (b, dy) := f.inFtz ftz y
  let b := if negY then b.neg else b
  let dn := dx ||| dy
  match a, b with
  | .nan _, _ => f.nanRes (snanFlag a ||| snanFlag b ||| dn)
  | _, .nan _ => f.nanRes (snanFlag b ||| dn)
  | .inf s, .inf t => if s = t then ⟨f.infBits s, dn⟩ else f.nanRes (fNV ||| dn)
  | .inf s, _ => ⟨f.infBits s, dn⟩
  | _, .inf t => ⟨f.infBits t, dn⟩
  | .num s1 m1 e1, .num s2 m2 e2 => (f.addNum rm ftz s1 m1 e1 s2 m2 e2).orFlags dn

/-- x × y (R192). -/
def Fmt.mul (f : Fmt) (rm : Rm) (ftz : Bool) (x y : Nat) : FpRes :=
  let (a, dx) := f.inFtz ftz x
  let (b, dy) := f.inFtz ftz y
  let dn := dx ||| dy
  match a, b with
  | .nan _, _ => f.nanRes (snanFlag a ||| snanFlag b ||| dn)
  | _, .nan _ => f.nanRes (snanFlag b ||| dn)
  | .inf s, .inf t => ⟨f.infBits (s != t), dn⟩
  | .inf s, .num t m _ => if m = 0 then f.nanRes (fNV ||| dn) else ⟨f.infBits (s != t), dn⟩
  | .num s m _, .inf t => if m = 0 then f.nanRes (fNV ||| dn) else ⟨f.infBits (s != t), dn⟩
  | .num s1 m1 e1, .num s2 m2 e2 =>
    let s := s1 != s2
    if m1 * m2 = 0 then ⟨f.zeroBits s, dn⟩ else (f.roundPack rm ftz s (m1 * m2) (e1 + e2)).orFlags dn

/-- m1 ÷ m2 to more bits than any rounding needs, with a sticky bit: the exact quotient lies at or just above it. -/
def divSticky (m1 m2 : Nat) : Nat × Int :=
  let k : Nat := 130
  let q := m1 * 2 ^ k / m2
  let r := m1 * 2 ^ k % m2
  (2 * q + (if r = 0 then 0 else 1), -((k : Int) + 1))

/-- x ÷ y (R192). -/
def Fmt.div (f : Fmt) (rm : Rm) (ftz : Bool) (x y : Nat) : FpRes :=
  let (a, dx) := f.inFtz ftz x
  let (b, dy) := f.inFtz ftz y
  let dn := dx ||| dy
  match a, b with
  | .nan _, _ => f.nanRes (snanFlag a ||| snanFlag b ||| dn)
  | _, .nan _ => f.nanRes (snanFlag b ||| dn)
  | .inf _, .inf _ => f.nanRes (fNV ||| dn)
  | .inf s, .num t _ _ => ⟨f.infBits (s != t), dn⟩
  | .num s _ _, .inf t => ⟨f.zeroBits (s != t), dn⟩
  | .num s1 m1 e1, .num s2 m2 e2 =>
    let s := s1 != s2
    if m2 = 0 then
      if m1 = 0 then f.nanRes (fNV ||| dn) else ⟨f.infBits s, fDZ ||| dn⟩
    else if m1 = 0 then ⟨f.zeroBits s, dn⟩
    else
      let (q, k) := divSticky m1 m2
      (f.roundPack rm ftz s q (e1 - e2 + k)).orFlags dn

/-- The integer square root, one bit per step from bit `n`. -/
def isqrt (m : Nat) : Nat → Nat → Nat
  | 0, r => r
  | n + 1, r => let r' := r + 2 ^ n; isqrt m n (if r' * r' ≤ m then r' else r)

/-- √x (R192). -/
def Fmt.sqrt (f : Fmt) (rm : Rm) (ftz : Bool) (x : Nat) : FpRes :=
  let (a, dn) := f.inFtz ftz x
  match a with
  | .nan _ => f.nanRes (snanFlag a ||| dn)
  | .inf s => if s then f.nanRes (fNV ||| dn) else ⟨f.infBits false, dn⟩
  | .num s m e =>
    if m = 0 then ⟨f.zeroBits s, dn⟩
    else if s then f.nanRes (fNV ||| dn)
    else
      -- an even exponent, and at least 62 bits of root
      let (m, e) := if e % 2 = 0 then (m, e) else (2 * m, e - 1)
      let m' := m * 2 ^ 128
      let r := isqrt m' 96 0
      let q := 2 * r + (if r * r = m' then 0 else 1)
      (f.roundPack rm ftz false q (e / 2 - 64 - 1)).orFlags dn

/-- x × y + z in one rounding, with the product, the addend and the whole negated as asked (R192, R187). The negated sum
is the negation of the exact sum, an exact zero's sign included (log 13). -/
def Fmt.fma (f : Fmt) (rm : Rm) (ftz : Bool) (negP negZ negAll : Bool) (x y z : Nat) : FpRes :=
  let (a, dx) := f.inFtz ftz x
  let (b, dy) := f.inFtz ftz y
  let (c, dz) := f.inFtz ftz z
  let a := if negP then a.neg else a
  let c := if negZ then c.neg else c
  let dn := dx ||| dy ||| dz
  let sn := snanFlag a ||| snanFlag b ||| snanFlag c
  let bad := match a, b with
    | .inf _, .num _ m _ => m == 0
    | .num _ m _, .inf _ => m == 0
    | _, _ => false
  if bad then f.nanRes (fNV ||| dn)
  else if a.isNan || b.isNan || c.isNan then f.nanRes (sn ||| dn)
  else
    let fin (s : Bool) : Bool := s != negAll
    let prodInf (s : Bool) : FpRes := match c with
      | .inf t => if s = t then ⟨f.infBits (fin s), dn⟩ else f.nanRes (fNV ||| dn)
      | _ => ⟨f.infBits (fin s), dn⟩
    match a, b with
    | .inf s, .inf t => prodInf (s != t)
    | .inf s, .num t _ _ => prodInf (s != t)
    | .num s _ _, .inf t => prodInf (s != t)
    | .num s1 m1 e1, .num s2 m2 e2 =>
      match c with
      | .inf t => ⟨f.infBits (fin t), dn⟩
      | .num s3 m3 e3 =>
        let s := s1 != s2
        let m := m1 * m2
        let e := e1 + e2
        let lo := min e e3
        let p : Int := (m * 2 ^ (e - lo).toNat : Nat)
        let q : Int := (m3 * 2 ^ (e3 - lo).toNat : Nat)
        let sum := (if s then -p else p) + (if s3 then -q else q)
        if sum = 0 then
          let zs := if s = s3 then s else (match rm with
            | .rtn => !negAll
            | .rtp => negAll
            | _ => false)
          ⟨f.zeroBits (fin zs), dn⟩
        else (f.roundPack rm ftz (fin (decide (sum < 0))) sum.natAbs lo).orFlags dn
      | .nan _ => f.nanRes dn
    | _, _ => f.nanRes dn

/-- The order of two numbers or infinities, -0 equal to +0: negative, zero or positive. -/
def fvCmp (a b : Fv) : Int :=
  match a, b with
  | .inf s, .inf t => if s = t then 0 else if s then -1 else 1
  | .inf s, _ => if s then -1 else 1
  | _, .inf t => if t then 1 else -1
  | .num s1 m1 e1, .num s2 m2 e2 =>
    let e := min e1 e2
    let x : Int := (m1 * 2 ^ (e1 - e).toNat : Nat)
    let y : Int := (m2 * 2 ^ (e2 - e).toNat : Nat)
    (if s1 then -x else x) - (if s2 then -y else y)
  | _, _ => 0

/-- A comparison: the truth value as 0 or 1, with NV for a signalling NaN, or for any NaN when signalling (R192). -/
def Fmt.cmp (f : Fmt) (signalling : Bool) (test : Int → Bool) (x y : Nat) : FpRes :=
  let a := f.unpack x
  let b := f.unpack y
  if a.isNan || b.isNan then ⟨0, if signalling then fNV else snanFlag a ||| snanFlag b⟩
  else ⟨bit (test (fvCmp a b)), 0⟩

/-- FUN: unordered (R192). -/
def Fmt.unord (f : Fmt) (x y : Nat) : FpRes :=
  let a := f.unpack x
  let b := f.unpack y
  ⟨bit (a.isNan || b.isNan), snanFlag a ||| snanFlag b⟩

/-- x orders below y, with -0 below +0 (R193). -/
def Fmt.below (f : Fmt) (x y : Nat) : Bool :=
  let c := fvCmp (f.unpack x) (f.unpack y)
  if c = 0 then f.signOf x && !f.signOf y else decide (c < 0)

/-- FMIN, FMAX, FMINM and FMAXM (R193): `num` keeps the other operand when exactly one is a NaN. -/
def Fmt.minMax (f : Fmt) (isMax num : Bool) (x y : Nat) : FpRes :=
  let a := f.unpack x
  let b := f.unpack y
  let fl := snanFlag a ||| snanFlag b
  let w := 2 ^ f.width
  if a.isNan && b.isNan then f.nanRes fl
  else if a.isNan then (if num then ⟨y % w, fl⟩ else f.nanRes fl)
  else if b.isNan then (if num then ⟨x % w, fl⟩ else f.nanRes fl)
  else if isMax then ⟨(if f.below x y then y else x) % w, 0⟩
  else ⟨(if f.below y x then y else x) % w, 0⟩

/-- FCLASS (R193). -/
def Fmt.classOf (f : Fmt) (x : Nat) : Nat :=
  let s := f.signOf x
  match f.unpack x with
  | .nan q => if q then 2 ^ 8 else 2 ^ 9
  | .inf _ => if s then 1 else 2 ^ 7
  | .num _ m _ =>
    if m = 0 then (if s then 2 ^ 3 else 2 ^ 4)
    else if f.isSub x then (if s then 2 ^ 2 else 2 ^ 5)
    else if s then 2 else 2 ^ 6

/-- FSGNJ and its variants: the magnitude of x with a sign (R192). -/
def Fmt.withSign (f : Fmt) (x : Nat) (s : Bool) : Nat := x % 2 ^ (f.width - 1) + f.signBit s

/-- FCVT.F.F: x of format `g` converted to format `f` (R192, R189). -/
def Fmt.cvt (f g : Fmt) (rm : Rm) (ftz : Bool) (x : Nat) : FpRes :=
  let (a, dn) := g.inFtz ftz x
  match a with
  | .nan _ => f.nanRes (snanFlag a ||| dn)
  | .inf s => ⟨f.infBits s, dn⟩
  | .num s m e => if m = 0 then ⟨f.zeroBits s, dn⟩ else (f.roundPack rm ftz s m e).orFlags dn

/-- A conversion to an integer of `w` bits (R194): out of range or NaN raises NV and saturates; a NaN gives 0. -/
def Fmt.toInt (f : Fmt) (rm : Rm) (signed : Bool) (w : Nat) (x : Nat) : Int × Nat :=
  let half : Nat := 2 ^ (w - 1)
  let hi : Int := if signed then (half : Int) - 1 else ((2 ^ w : Nat) : Int) - 1
  let lo : Int := if signed then -(half : Int) else 0
  match f.unpack x with
  | .nan _ => (0, fNV)
  | .inf s => (if s then lo else hi, fNV)
  | .num s m e =>
    let (q, inexact) := roundAt rm s m e 0
    let v : Int := if s then -(q : Int) else q
    if v < lo then (lo, fNV)
    else if hi < v then (hi, fNV)
    else (v, if inexact then fNX else 0)

/-- A conversion from an integer (R192): the integer 0 gives +0. -/
def Fmt.ofInt (f : Fmt) (rm : Rm) (v : Int) : FpRes :=
  if v = 0 then ⟨f.zeroBits false, 0⟩ else f.roundPack rm false (decide (v < 0)) v.natAbs 0

/-- FRINTX: x rounded to an integral value in its format, a zero keeping the sign of x (R192, R189). -/
def Fmt.rint (f : Fmt) (rm : Rm) (ftz : Bool) (x : Nat) : FpRes :=
  let (a, dn) := f.inFtz ftz x
  match a with
  | .nan _ => f.nanRes (snanFlag a ||| dn)
  | .inf s => ⟨f.infBits s, dn⟩
  | .num s m e =>
    if m = 0 then ⟨f.zeroBits s, dn⟩
    else if 0 ≤ e then ⟨x % 2 ^ f.width, dn⟩
    else
      let (q, inexact) := roundAt rm s m e 0
      let fl := (if inexact then fNX else 0) ||| dn
      if q = 0 then ⟨f.zeroBits s, fl⟩ else ⟨(f.roundPack rm false s q 0).bits, fl⟩

end Sys2Proof.Machine
end

