-- ==== Sys2Proof/Machine/Flags.lean ====
section
/-! DEFINITION. FPSTAT: its fields, how a floating-point instruction raises flags in it, and the trap (R186, R190,
R191). -/

namespace Sys2Proof.Machine

/-- FPSTAT.RM (R191). -/
def Core.fpRm (c : Core) : Nat := bitsAt c.fpstat 8 3

/-- FPSTAT.FTZ (R191). -/
def Core.fpFtz (c : Core) : Bool := bitAt c.fpstat 11

/-- FPSTAT.TE, NV in bit 0 (R191). -/
def Core.fpTe (c : Core) : Nat := bitsAt c.fpstat 12 6

/-- A value written to FPSTAT: reserved bits read zero, and RM 5, 6 or 7 stores 0 (R186, R191). -/
def fpstatStore (v : Nat) : Nat :=
  let rm := bitsAt v 8 3
  bitsAt v 0 6 + 2 ^ 8 * (if 4 < rm then 0 else rm) + 2 ^ 11 * bitsAt v 11 7

/-- The rounding direction of an instruction: its RM field, or FPSTAT.RM for 0b111 (R186). -/
def Core.rmFor (c : Core) (rm : Nat) : Rm := rmOf (if rm = 7 then c.fpRm else rm)

/-- RM is not reserved for the instruction: 0b101 and 0b110 are reserved, and an instruction that does not round has
RM 0 (R186). -/
def rmLegal (rounds : Bool) (rm : Nat) : Bool := if rounds then rm != 5 && rm != 6 else rm == 0

/-- Flags become sticky (R191). -/
def Core.raiseFlags (c : Core) (fl : Nat) : Core := { c with fpstat := c.fpstat ||| (fl % 64) }

/-- A flag raised has its trap enabled (R190). -/
def Core.trapsOn (c : Core) (fl : Nat) : Bool := (c.fpTe &&& fl) != 0

/-- FP_TRAP taken after the instruction at `pc` has written its result (R190): the fault names the instruction. -/
def Dev.fpTrap (d : Dev) (x pc : Nat) : Dev :=
  let (v, d) := d.freeVal fcFP
  if x = 64 then d.hubFault fcFP pc else d.coreFault x fcFP pc v false

/-- A floating-point instruction: its result written to f[rd] or g[rd], its flags raised, FP_TRAP if a raised flag is
enabled (R186, R190, R192). -/
def Dev.fpInstr (d : Dev) (x : Nat) (rounds : Bool) (rm : Nat) (gs fs : List Nat) (toF : Bool) (rd : Nat)
    (f : Core → Rm → Nat × Nat) : Dev :=
  if !rmLegal rounds rm then d.illegal x
  else d.issue x gs fs false fun d =>
    let c := d.core x
    let (v, fl) := f c (c.rmFor rm)
    let c' := if toF then c.fSet rd (BitVec.ofNat 64 v) else c.gSet rd (BitVec.ofNat 64 v)
    let d := d.setCore x (c'.raiseFlags fl).retire
    if c.trapsOn fl then d.fpTrap x c.pc else d

/-- f[r] as a pattern of format P: the low 32 bits for binary32 (R185). -/
def Core.fBits (c : Core) (p : Bool) (r : Nat) : Nat := (c.fGet r).toNat % 2 ^ (fmtOf p).width

/-- A result as a register value and its flags. -/
def FpRes.pair (r : FpRes) : Nat × Nat := (r.bits, r.flags)

/-- A two-operand arithmetic instruction. -/
def Dev.fp2 (d : Dev) (x : Nat) (p : Bool) (rounds : Bool) (rm rd rs1 rs2 : Nat) (toF : Bool)
    (f : Fmt → Rm → Bool → Nat → Nat → FpRes) : Dev :=
  d.fpInstr x rounds rm [] [rs1, rs2] toF rd fun c m =>
    (f (fmtOf p) m c.fpFtz (c.fBits p rs1) (c.fBits p rs2)).pair

/-- A one-operand arithmetic instruction. -/
def Dev.fp1 (d : Dev) (x : Nat) (p : Bool) (rounds : Bool) (rm rd rs1 : Nat) (toF : Bool)
    (f : Fmt → Rm → Bool → Nat → Nat × Nat) : Dev :=
  d.fpInstr x rounds rm [] [rs1] toF rd fun c m => f (fmtOf p) m c.fpFtz (c.fBits p rs1)

/-- An FMA instruction (R192, Table 15). -/
def Dev.fp3 (d : Dev) (x : Nat) (p : Bool) (rm rd rs1 rs2 rs3 : Nat) (negP negZ negAll : Bool) : Dev :=
  d.fpInstr x true rm [] [rs1, rs2, rs3] true rd fun c m =>
    ((fmtOf p).fma m c.fpFtz negP negZ negAll (c.fBits p rs1) (c.fBits p rs2) (c.fBits p rs3)).pair

/-- A conversion of a g register to format P (R192). -/
def Dev.fpFromInt (d : Dev) (x : Nat) (p : Bool) (rm rd rs1 : Nat) (v : DWord → Int) : Dev :=
  d.fpInstr x true rm [rs1] [] true rd fun c m => ((fmtOf p).ofInt m (v (c.gGet rs1))).pair

end Sys2Proof.Machine
end

