-- ==== Sys2Proof/Machine/CtlEvent.lean ====
section
/-! DEFINITION. The control profile's waits, signals, queries and control state (R169 to R184), and the event inputs
(R119 to R121). -/

namespace Sys2Proof.Machine

/-! ## BRK and FENCE -/

/-- BRK halts a core whose DBG_ATTACH bit is set, with PC at the BRK and TAG passed on; otherwise a core raises
BREAK_UNHANDLED and the hub controller takes the exception with that code (R182; log 15: a request the lifecycle forbids
counts as no attachment). -/
def execBrk (x : CtlId) (tag : BitVec 16) (s : State) : Out :=
  s.does fun d => d.issue x [] [] false fun d =>
    let att := if x.val < 32 then d.bitOf K.DBG_ATTACH_LO x else x.val < 64 && d.bitOf K.DBG_ATTACH_HI (x - 32)
    if att && d.dbgPermit then
      d.modCore x fun c => { c with halted := true, stepping := false, dbgReq := true, atBrk := true, tag := tag.toNat }
    else d.ctlFaultPlain x fcBREAK

/-- FENCE waits until every earlier load and store of its pipeline is complete (R169). -/
def execFence (x : CtlId) (s : State) : Out :=
  s.does fun d => d.issue x [] [] false fun d => d.modCore x fun c =>
    if c.loads = [] ∧ c.stores = [] then c.retire else { c with ctl := .fence }

/-- The accesses before a FENCE have drained: it completes (R169). -/
def execFenceComplete (x : CtlId) (s : State) : Out :=
  s.does fun d =>
    let c := d.core x
    if c.ctl = .fence ∧ c.loads = [] ∧ c.stores = [] ∧ !c.halted then
      d.modCore x fun c => { c.retire with ctl := .run }
    else d

/-! ## Event inputs -/

/-- A pending WAITE or WAITT completes with a value in rd (R170 to R173). -/
def Core.endWait (c : Core) (rd len : Nat) (v : DWord) : Core :=
  { (c.gSet rd v).retireTo (pcWrap (c.pc + len : Nat)) with ctl := .run }

/-- A WAITE pending on input `i` of controller `x` consumes one count if there is one, unless the core is halted
(R121, R170). -/
def Dev.waiteTake (d : Dev) (x i : Nat) : Dev :=
  match (d.core x).ctl with
  | .waitE inp _ rd len =>
    if inp = i ∧ 0 < d.evi x i ∧ !(d.core x).halted then
      (d.setEvi x i (d.evi x i - 1)).modCore x fun c => c.endWait rd len 1
    else d
  | _ => d

/-- `n` arrivals reach the sampler of input `i` of controller `x`: the counter saturates at 255 with EVI_OVF and its
record, then a pending WAITE consumes (R121). -/
def Dev.arrive (d : Dev) (x i n : Nat) : Dev :=
  let sum := d.evi x i + n
  let d :=
    if 255 < sum then
      let d := d.setEvi x i 255
      if x = 64 then d.logB 0x105 blkHUBC i
      else (d.putBit (K.SEQ_EVI_STATUS_EVI_OVF (x / 16) (x % 16)) i true).logBOn (x / 16) 0x105 (x % 16) i (d.coreSite x)
    else d.setEvi x i sum
  d.waiteTake x i

/-- EVENT_ARRIVAL: `n` of the arrivals on their way reach the input's sampler in this tick (R121, R130). Those that
reach a die held in reset are discarded (R120). -/
def execEventArrival (x : CtlId) (inp : Fin 16) (n : Nat) (s : State) : Out :=
  s.does fun d =>
    let k := 16 * x.val + inp.val
    let have' := tblGet 0 d.flight k
    let m := min n have'
    let d := { d with flight := if m = have' then tblErase d.flight k else tblPut d.flight k (have' - m) }
    if m = 0 then d
    else if x.val = 64 ∨ bitAt d.start.cdReleased (x / 16) then d.arrive x inp m
    else d

/-! ## Waits -/

/-- WAITE on an event input, with DL a deadline in g[rs1]: it completes at once by consuming a count, or with rd := 0
when its deadline has passed; otherwise it waits (R170, R171). -/
def execWaite (x : CtlId) (rd : Reg) (inp : Fin 16) (dl : Option Reg) (s : State) : Out :=
  s.does fun d => d.issue x (dl.toList.map Fin.val) [] false fun d =>
    let c := d.core x
    let dead := dl.map fun r => (c.gGet r).toNat
    if 0 < d.evi x inp then
      (d.setEvi x inp (d.evi x inp - 1)).modCore x fun c => c.endWait rd 8 1
    else if (match dead with
      | some t => decide (t ≤ d.tti)
      | none => false) then d.modCore x fun c => c.endWait rd 8 0
    else d.modCore x fun c => { c with ctl := .waitE inp dead rd 8 }

/-- The deadline of a pending WAITE is reached with its counter still zero: rd := 0 (R171). -/
def execWaiteDeadline (x : CtlId) (s : State) : Out :=
  s.does fun d =>
    match (d.core x).ctl with
    | .waitE inp (some t) rd len =>
      if t ≤ d.tti ∧ d.evi x inp = 0 ∧ !(d.core x).halted then d.modCore x fun c => c.endWait rd len 0 else d
    | _ => d

/-- WAITT waits for the TTI target a + imm; a target that has passed completes at once with its lateness (R172). -/
def execWaitt (x : CtlId) (rd rs1 : Reg) (imm : BitVec 43) (s : State) : Out :=
  s.does fun d => d.issue x [rs1] [] true fun d =>
    let c := d.core x
    let t := (c.gGet rs1 + c.imm imm).toNat
    let len := if c.pfx.isSome then 16 else 8
    if t ≤ d.tti then d.modCore x fun c => c.endWait rd len (BitVec.ofNat 64 (d.tti - t))
    else d.modCore x fun c => { c with ctl := .waitT t rd len, pfx := none }

/-- The target of a pending WAITT is reached: rd := TTI − target (R172). -/
def execWaittTarget (x : CtlId) (s : State) : Out :=
  s.does fun d =>
    match (d.core x).ctl with
    | .waitT t rd len =>
      if t ≤ d.tti ∧ !(d.core x).halted then d.modCore x fun c => c.endWait rd len (BitVec.ofNat 64 (d.tti - t)) else d
    | _ => d

/-- A completed acquisition ends every pending WAITT and every WAITE with a deadline with rd all ones (R173). -/
def Core.acquired (c : Core) : Core :=
  match c.ctl with
  | .waitE _ (some _) rd len => c.endWait rd len (BitVec.allOnes 64)
  | .waitT _ rd len => c.endWait rd len (BitVec.allOnes 64)
  | _ => c

/-! ## Signals and the VPQ -/

/-- An arrival is sent to a target of SIG: a present core or the hub controller; else UNIT_ABSENT, nothing sent (R175,
R179). Answers `none` for an absent target. -/
def Dev.signal (d : Dev) (tgt inp : Nat) : Option Dev :=
  if tgt = 64 ∨ (tgt < 64 ∧ d.corePresent tgt) then some (d.send tgt inp) else none

/-- SEQ_FAULT_ADDR of UNIT_ABSENT: the class in [31:16], the index in [15:0] (R179). -/
def absentAddr (cls i : Nat) : Nat := cls * 2 ^ 16 + i

/-- SIG in the control pipeline: it stalls until every earlier store of its pipeline is visible; encoded targets above
64 are reserved; with REG the fields must be zero (R175). -/
def execSig (x : CtlId) (tgt : BitVec 7) (inp : Fin 16) (reg : Option Reg) (s : State) : Out :=
  s.does fun d =>
    let bad := match reg with
      | some _ => tgt != 0 || inp != 0
      | none => decide (64 < tgt.toNat)
    if bad then d.illegal x
    else if (d.core x).stores ≠ [] then d
    else d.issue x (reg.toList.map Fin.val) [] false fun d =>
      let (t, i) := match reg with
        | some r => let a := ((d.core x).gGet r).toNat; (bitsAt a 4 7, bitsAt a 0 4)
        | none => (tgt.toNat, inp.val)
      match d.signal t i with
      | some d => d.modCore x Core.retire
      | none => d.ctlFault x fcABSENT (absentAddr 1 t)

/-- PUSHV appends a to the VPQ, or stalls while the VPQ holds 16 words; not on the hub controller (R176, R129). -/
def execPushv (x : CtlId) (rs1 : Reg) (s : State) : Out :=
  s.does fun d =>
    if x.val = 64 then d.illegal x
    else d.issue x [rs1] [] false fun d => d.modCore x fun c =>
      let w := c.gGet rs1
      if c.v.vpq.length < 16 then { c.retire with v := { c.v with vpq := c.v.vpq ++ [w] } }
      else { c with ctl := .pushV w }

/-- A stalled PUSHV completes when the VPQ has room (R129). -/
def execPushvSpace (q : CoreId) (s : State) : Out :=
  s.does fun d =>
    match (d.core q).ctl with
    | .pushV w =>
      if (d.core q).v.vpq.length < 16 ∧ !(d.core q).halted then
        d.modCore q fun c => { c.retire with ctl := .run, v := { c.v with vpq := c.v.vpq ++ [w] } }
      else d
    | _ => d

/-! ## Queries -/

/-- A vector register by its RDV index: lc0 to lc7, ax0 to ax3, ay0 to ay3, d0 to d3 (R177). -/
def VCore.byIndex (v : VCore) (i : Nat) : DWord :=
  if i < 8 then BitVec.ofNat 64 (tblGet 0 v.lc i)
  else if i < 12 then BitVec.ofNat 64 (tblGet 0 v.ax (i - 8))
  else if i < 16 then BitVec.ofNat 64 (tblGet 0 v.ay (i - 12))
  else tblGet 0 v.dg (i - 16)

/-- RDV reads a loop counter, APG address or data generator; 20 to 31 are reserved; not on the hub controller (R177). -/
def execRdv (x : CtlId) (rd : Reg) (idx : BitVec 5) (s : State) : Out :=
  s.does fun d =>
    if x.val = 64 ∨ 20 ≤ idx.toNat then d.illegal x
    else d.gInstr x rd [] [] false fun c => c.v.byIndex idx.toNat

/-- CAPQ: a capability register, a unit's presence, or the controller's identity (R178, Tables 9 and 10). -/
def execCapq (x : CtlId) (rd rs1 : Reg) (sel : BitVec 8) (s : State) : Out :=
  s.does fun d =>
    let n := sel.toNat
    if n = 0x10 then d.issue x [rs1] [] false fun d => d.modCore x fun c =>
      let a := (c.gGet rs1).toNat
      (c.gSet rd (BitVec.ofNat 64 (bit (d.unitPresent (bitsAt a 16 16) (bitsAt a 0 16))))).retire
    else if rs1.val ≠ 0 then d.illegal x
    else if n < 4 then d.gInstr x rd [] [] false fun _ => BitVec.ofNat 64 (d.capWord n)
    else if n = 0x11 then d.gInstr x rd [] [] false fun _ =>
      if x.val = 64 then 64 else BitVec.ofNat 64 (x.val + 2 ^ 8 * (x.val / 16))
    else d.illegal x

/-- STIM writes a to a stimulus port: one class C packet when the port is enabled, or a drop when the trace buffer is
full (R181, R524). -/
def execStim (x : CtlId) (rs1 : Reg) (port : BitVec 5) (s : State) : Out :=
  s.does fun d => d.issue x [rs1] [] false fun d =>
    let a := ((d.core x).gGet rs1).toNat
    let d := if d.bitOf (K.DBG_STIM_EN x) port.toNat then d.traceOut x 0x201 port.toNat 0 0 a else d
    d.modCore x Core.retire

/-- SEQ_CYCLE of core `q`: cycles emitted since cycle 0 (R154, Table 11). -/
def Dev.seqCycle (d : Dev) (q : Nat) : Nat :=
  d.get2 (K.SEQ_CYCLE_LO_COUNT_LO (q / 16) (q % 16)) (K.SEQ_CYCLE_HI_COUNT_HI (q / 16) (q % 16))

/-- RDT: the TTI, or in a core SEQ_CYCLE (R180). -/
def execRdt (x : CtlId) (rd : Reg) (sel : BitVec 2) (s : State) : Out :=
  s.does fun d =>
    match sel.toNat with
    | 0 => d.issue x [] [] false fun d => d.modCore x fun c => (c.gSet rd (BitVec.ofNat 64 d.tti)).retire
    | 1 =>
      if x.val = 64 then d.illegal x
      else d.issue x [] [] false fun d => d.modCore x fun c => (c.gSet rd (BitVec.ofNat 64 (d.seqCycle x))).retire
    | _ => d.illegal x

/-! ## Control state -/

/-- The control state of a selector (R184, Table 11). -/
def Core.csGet (c : Core) (sel : Nat) : Nat :=
  match sel with
  | 0 => c.fpstat
  | 1 => c.epc
  | 2 => c.ecause
  | _ => c.evecOf

/-- The control state of a selector written: reserved bits stay zero (R184). -/
def Core.csSet (c : Core) (sel v : Nat) : Core :=
  match sel with
  | 0 => { c with fpstat := fpstatStore v }
  | 1 => { c with epc := v % 2 ^ 48 }
  | 2 => { c with ecause := v % 2 ^ 10 }
  | _ => { c with evec := some (v % 2 ^ 48 / 8 * 8) }

/-- The selector exists on the controller: FPSTAT everywhere, 1 to 3 on the hub alone (R184). -/
def csLegal (x sel : Nat) : Bool := sel == 0 || (x == 64 && decide (sel < 4))

/-- RDCS reads FPSTAT or a hub exception register (R184). -/
def execRdcs (x : CtlId) (rd : Reg) (sel : BitVec 4) (s : State) : Out :=
  s.does fun d =>
    if !csLegal x sel.toNat then d.illegal x
    else d.gInstr x rd [] [] false fun c => BitVec.ofNat 64 (c.csGet sel.toNat)

/-- WRCS writes FPSTAT or a hub exception register, without a trap (R184, R190). -/
def execWrcs (x : CtlId) (rs1 : Reg) (sel : BitVec 4) (s : State) : Out :=
  s.does fun d =>
    if !csLegal x sel.toNat then d.illegal x
    else d.issue x [rs1] [] false fun d => d.modCore x fun c => (c.csSet sel.toNat (c.gGet rs1).toNat).retire

end Sys2Proof.Machine
end

