-- ==== Sys2Proof/Machine/CtlInt.lean ====
section
/-! DEFINITION. The integer part of the control profile: SYS instructions without a wait, the ALU and MULDIV groups,
immediates, the prefix and the branches (R157 to R169, R183). -/

namespace Sys2Proof.Machine

/-! ## Values -/

/-- A truth value as a register value (R162). -/
def asG (b : Bool) : DWord := if b then 1 else 0

/-- Leading zeros of a; 64 if a = 0 (R162). -/
def clz64 (a : DWord) : DWord := if a = 0 then 64 else BitVec.ofNat 64 (63 - Nat.log2 a.toNat)

/-- The number of consecutive zero bits of `v` from bit 0, at most `n`. -/
def trailing (v : Nat) : Nat → Nat
  | 0 => 0
  | n + 1 => if v % 2 = 1 then 0 else 1 + trailing (v / 2) n

/-- Trailing zeros of a; 64 if a = 0 (R162). -/
def ctz64 (a : DWord) : DWord := BitVec.ofNat 64 (trailing a.toNat 64)

/-- The ones among the low `n` bits of `v`. -/
def ones (v : Nat) : Nat → Nat
  | 0 => 0
  | n + 1 => v % 2 + ones (v / 2) n

/-- Ones in a (R162). -/
def popc64 (a : DWord) : DWord := BitVec.ofNat 64 (ones a.toNat 64)

/-- A shift or rotate amount: b[5:0] (R162). -/
def amount (b : DWord) : Nat := b.toNat % 64

/-- The high half of a signed product (R163). -/
def mulHigh (a b : DWord) : DWord := BitVec.ofInt 64 (a.toInt * b.toInt / (2 ^ 64 : Nat))

/-- The high half of an unsigned product (R163). -/
def mulHighU (a b : DWord) : DWord := BitVec.ofNat 64 (a.toNat * b.toNat / 2 ^ 64)

/-- Signed quotient toward zero; all ones for a zero divisor (R163). -/
def quotS (a b : DWord) : DWord := if b = 0 then BitVec.allOnes 64 else a.sdiv b

/-- Unsigned quotient; all ones for a zero divisor (R163). -/
def quotU (a b : DWord) : DWord := if b = 0 then BitVec.allOnes 64 else a / b

/-- Signed remainder with the dividend's sign; the dividend for a zero divisor (R163). -/
def remS (a b : DWord) : DWord := if b = 0 then a else a.srem b

/-- Unsigned remainder; the dividend for a zero divisor (R163). -/
def remU (a b : DWord) : DWord := if b = 0 then a else a % b

/-- SHI: kind 0 SHL, 1 SHR, 2 SAR, 3 ROR (R164). -/
def shiftBy (kind amt : Nat) (a : DWord) : DWord :=
  match kind with
  | 0 => a <<< amt
  | 1 => a >>> amt
  | 2 => a.sshiftRight amt
  | _ => a.rotateRight amt

/-! ## The ALU and MULDIV groups -/

/-- ADD: rd := a + b modulo 2^64 (R162). -/
def execAdd (x : CtlId) (rd rs1 rs2 : Reg) (s : State) : Out :=
  s.does fun d => d.tInstr x rd rs1 rs2 (fun a b => a + b)

/-- SUB: rd := a − b modulo 2^64 (R162). -/
def execSub (x : CtlId) (rd rs1 rs2 : Reg) (s : State) : Out :=
  s.does fun d => d.tInstr x rd rs1 rs2 (fun a b => a - b)

/-- AND: rd := a and b (R162). -/
def execAndR (x : CtlId) (rd rs1 rs2 : Reg) (s : State) : Out :=
  s.does fun d => d.tInstr x rd rs1 rs2 (fun a b => a &&& b)

/-- OR: rd := a or b (R162). -/
def execOrR (x : CtlId) (rd rs1 rs2 : Reg) (s : State) : Out :=
  s.does fun d => d.tInstr x rd rs1 rs2 (fun a b => a ||| b)

/-- XOR: rd := a xor b (R162). -/
def execXor (x : CtlId) (rd rs1 rs2 : Reg) (s : State) : Out :=
  s.does fun d => d.tInstr x rd rs1 rs2 (fun a b => a ^^^ b)

/-- ANDN: rd := a and not b (R162). -/
def execAndn (x : CtlId) (rd rs1 rs2 : Reg) (s : State) : Out :=
  s.does fun d => d.tInstr x rd rs1 rs2 (fun a b => a &&& ~~~b)

/-- SHL: rd := a shifted left by b[5:0] (R162). -/
def execShl (x : CtlId) (rd rs1 rs2 : Reg) (s : State) : Out :=
  s.does fun d => d.tInstr x rd rs1 rs2 (fun a b => a <<< amount b)

/-- SHR: rd := a shifted right, zero fill (R162). -/
def execShr (x : CtlId) (rd rs1 rs2 : Reg) (s : State) : Out :=
  s.does fun d => d.tInstr x rd rs1 rs2 (fun a b => a >>> amount b)

/-- SAR: rd := a shifted right, sign fill (R162). -/
def execSar (x : CtlId) (rd rs1 rs2 : Reg) (s : State) : Out :=
  s.does fun d => d.tInstr x rd rs1 rs2 (fun a b => a.sshiftRight (amount b))

/-- ROR: rd := a rotated right (R162). -/
def execRor (x : CtlId) (rd rs1 rs2 : Reg) (s : State) : Out :=
  s.does fun d => d.tInstr x rd rs1 rs2 (fun a b => a.rotateRight (amount b))

/-- CLT: rd := 1 if a < b signed, else 0 (R162). -/
def execClt (x : CtlId) (rd rs1 rs2 : Reg) (s : State) : Out :=
  s.does fun d => d.tInstr x rd rs1 rs2 (fun a b => asG (a.slt b))

/-- CLTU: rd := 1 if a < b unsigned, else 0 (R162). -/
def execCltu (x : CtlId) (rd rs1 rs2 : Reg) (s : State) : Out :=
  s.does fun d => d.tInstr x rd rs1 rs2 (fun a b => asG (a.ult b))

/-- CEQ: rd := 1 if a = b, else 0 (R162). -/
def execCeq (x : CtlId) (rd rs1 rs2 : Reg) (s : State) : Out :=
  s.does fun d => d.tInstr x rd rs1 rs2 (fun a b => asG (a == b))

/-- MIN: rd := the signed minimum (R162). -/
def execMin (x : CtlId) (rd rs1 rs2 : Reg) (s : State) : Out :=
  s.does fun d => d.tInstr x rd rs1 rs2 (fun a b => if a.sle b then a else b)

/-- MAX: rd := the signed maximum (R162). -/
def execMax (x : CtlId) (rd rs1 rs2 : Reg) (s : State) : Out :=
  s.does fun d => d.tInstr x rd rs1 rs2 (fun a b => if a.sle b then b else a)

/-- MINU: rd := the unsigned minimum (R162). -/
def execMinu (x : CtlId) (rd rs1 rs2 : Reg) (s : State) : Out :=
  s.does fun d => d.tInstr x rd rs1 rs2 (fun a b => if a.ule b then a else b)

/-- MAXU: rd := the unsigned maximum (R162). -/
def execMaxu (x : CtlId) (rd rs1 rs2 : Reg) (s : State) : Out :=
  s.does fun d => d.tInstr x rd rs1 rs2 (fun a b => if a.ule b then b else a)

/-- MUL: rd := (a × b)[63:0] (R163). -/
def execMul (x : CtlId) (rd rs1 rs2 : Reg) (s : State) : Out :=
  s.does fun d => d.tInstr x rd rs1 rs2 (fun a b => a * b)

/-- MULH: rd := (a × b)[127:64], signed (R163). -/
def execMulh (x : CtlId) (rd rs1 rs2 : Reg) (s : State) : Out :=
  s.does fun d => d.tInstr x rd rs1 rs2 mulHigh

/-- MULHU: rd := (a × b)[127:64], unsigned (R163). -/
def execMulhu (x : CtlId) (rd rs1 rs2 : Reg) (s : State) : Out :=
  s.does fun d => d.tInstr x rd rs1 rs2 mulHighU

/-- DIV: rd := a ÷ b, signed (R163). -/
def execDiv (x : CtlId) (rd rs1 rs2 : Reg) (s : State) : Out :=
  s.does fun d => d.tInstr x rd rs1 rs2 quotS

/-- DIVU: rd := a ÷ b, unsigned (R163). -/
def execDivu (x : CtlId) (rd rs1 rs2 : Reg) (s : State) : Out :=
  s.does fun d => d.tInstr x rd rs1 rs2 quotU

/-- REM: rd := a rem b, signed (R163). -/
def execRem (x : CtlId) (rd rs1 rs2 : Reg) (s : State) : Out :=
  s.does fun d => d.tInstr x rd rs1 rs2 remS

/-- REMU: rd := a rem b, unsigned (R163). -/
def execRemu (x : CtlId) (rd rs1 rs2 : Reg) (s : State) : Out :=
  s.does fun d => d.tInstr x rd rs1 rs2 remU

/-- CLZ: rd := leading zeros of a (R162). -/
def execClz (x : CtlId) (rd rs1 : Reg) (s : State) : Out :=
  s.does fun d => d.uInstr x rd rs1 clz64

/-- CTZ: rd := trailing zeros of a (R162). -/
def execCtz (x : CtlId) (rd rs1 : Reg) (s : State) : Out :=
  s.does fun d => d.uInstr x rd rs1 ctz64

/-- POPC: rd := ones in a (R162). -/
def execPopc (x : CtlId) (rd rs1 : Reg) (s : State) : Out :=
  s.does fun d => d.uInstr x rd rs1 popc64

/-- SXB: rd := a[7:0] sign-extended (R162). -/
def execSxb (x : CtlId) (rd rs1 : Reg) (s : State) : Out :=
  s.does fun d => d.uInstr x rd rs1 (fun a => (a.setWidth 8).signExtend 64)

/-- SXH: rd := a[15:0] sign-extended (R162). -/
def execSxh (x : CtlId) (rd rs1 : Reg) (s : State) : Out :=
  s.does fun d => d.uInstr x rd rs1 (fun a => (a.setWidth 16).signExtend 64)

/-- SXW: rd := a[31:0] sign-extended (R162). -/
def execSxw (x : CtlId) (rd rs1 : Reg) (s : State) : Out :=
  s.does fun d => d.uInstr x rd rs1 (fun a => (a.setWidth 32).signExtend 64)

/-- ZXW: rd := a[31:0] zero-extended (R162). -/
def execZxw (x : CtlId) (rd rs1 : Reg) (s : State) : Out :=
  s.does fun d => d.uInstr x rd rs1 (fun a => (a.setWidth 32).setWidth 64)

/-! ## Immediates (R164) and the prefix (R159) -/

/-- ADDI: rd := a + imm (R164). -/
def execAddi (x : CtlId) (rd rs1 : Reg) (imm : BitVec 43) (s : State) : Out :=
  s.does fun d => d.iInstr x rd rs1 imm (fun a i => a + i)

/-- ANDI: rd := a and imm (R164). -/
def execAndi (x : CtlId) (rd rs1 : Reg) (imm : BitVec 43) (s : State) : Out :=
  s.does fun d => d.iInstr x rd rs1 imm (fun a i => a &&& i)

/-- ORI: rd := a or imm (R164). -/
def execOri (x : CtlId) (rd rs1 : Reg) (imm : BitVec 43) (s : State) : Out :=
  s.does fun d => d.iInstr x rd rs1 imm (fun a i => a ||| i)

/-- XORI: rd := a xor imm (R164). -/
def execXori (x : CtlId) (rd rs1 : Reg) (imm : BitVec 43) (s : State) : Out :=
  s.does fun d => d.iInstr x rd rs1 imm (fun a i => a ^^^ i)

/-- CLTI: rd := 1 if a < imm signed, else 0 (R164). -/
def execClti (x : CtlId) (rd rs1 : Reg) (imm : BitVec 43) (s : State) : Out :=
  s.does fun d => d.iInstr x rd rs1 imm (fun a i => asG (a.slt i))

/-- CLTUI: rd := 1 if a < imm unsigned, else 0 (R164). -/
def execCltui (x : CtlId) (rd rs1 : Reg) (imm : BitVec 43) (s : State) : Out :=
  s.does fun d => d.iInstr x rd rs1 imm (fun a i => asG (a.ult i))

/-- SHI: rd := a shifted or rotated by an immediate amount; not prefixable (R164). -/
def execShi (x : CtlId) (rd rs1 : Reg) (kind : BitVec 2) (amt : BitVec 6) (s : State) : Out :=
  s.does fun d => d.uInstr x rd rs1 (shiftBy kind.toNat amt.toNat)

/-- LI: rd := imm (R164). -/
def execLi (x : CtlId) (rd : Reg) (imm : BitVec 43) (s : State) : Out :=
  s.does fun d => d.iInstr x rd 0 imm (fun _ i => i)

/-- ADDPC: rd := PC + imm, PC being the prefix's address after a prefix (R164, R156). -/
def execAddpc (x : CtlId) (rd : Reg) (imm : BitVec 43) (s : State) : Out :=
  s.does fun d => d.gInstr x rd [] [] true fun c => BitVec.ofNat 64 c.pc + c.imm imm

/-- PFX: the upper 21 bits of the next instruction's immediate; a second PFX raises ILLEGAL_OPCODE at the first (R159).
The program counter stays at the prefix until the pair has executed, so that nothing falls between its words. -/
def execPfx (x : CtlId) (hi : BitVec 21) (s : State) : Out :=
  s.does fun d =>
    if (d.core x).pfx.isSome then d.illegal x
    else if d.ctlReady x then d.modCore x fun c => { c with pfx := some hi.toNat }
    else d

/-! ## Branches (R165, R166) -/

/-- BEQ: branch to PC + 8 × off43 if a = b (R165). -/
def execBeq (x : CtlId) (rs1 rs2 : Reg) (off : BitVec 43) (s : State) : Out :=
  s.does fun d => d.bInstr x rs1 rs2 off (fun a b => a == b)

/-- BNE: branch to PC + 8 × off43 if a ≠ b (R165). -/
def execBne (x : CtlId) (rs1 rs2 : Reg) (off : BitVec 43) (s : State) : Out :=
  s.does fun d => d.bInstr x rs1 rs2 off (fun a b => a != b)

/-- BLT: branch to PC + 8 × off43 if a < b, signed (R165). -/
def execBlt (x : CtlId) (rs1 rs2 : Reg) (off : BitVec 43) (s : State) : Out :=
  s.does fun d => d.bInstr x rs1 rs2 off (fun a b => a.slt b)

/-- BGE: branch to PC + 8 × off43 if a ≥ b, signed (R165). -/
def execBge (x : CtlId) (rs1 rs2 : Reg) (off : BitVec 43) (s : State) : Out :=
  s.does fun d => d.bInstr x rs1 rs2 off (fun a b => !a.slt b)

/-- BLTU: branch to PC + 8 × off43 if a < b, unsigned (R165). -/
def execBltu (x : CtlId) (rs1 rs2 : Reg) (off : BitVec 43) (s : State) : Out :=
  s.does fun d => d.bInstr x rs1 rs2 off (fun a b => a.ult b)

/-- BGEU: branch to PC + 8 × off43 if a ≥ b, unsigned (R165). -/
def execBgeu (x : CtlId) (rs1 rs2 : Reg) (off : BitVec 43) (s : State) : Out :=
  s.does fun d => d.bInstr x rs1 rs2 off (fun a b => !a.ult b)

/-- BL: rd := PC + 8; PC := PC + 8 × off43 (R165). -/
def execBl (x : CtlId) (rd : Reg) (off : BitVec 43) (s : State) : Out :=
  s.does fun d => d.issue x [] [] false fun d => d.modCore x fun c =>
    (c.gSet rd (BitVec.ofNat 64 c.nextPc)).retireTo (c.target off)

/-- JLR: t := a + imm before rd is written; t[2:0] not zero raises MISALIGNED with t as its address; rd := the address
after the instruction and PC := t[47:0] (R165, R166). -/
def execJlr (x : CtlId) (rd rs1 : Reg) (imm : BitVec 43) (s : State) : Out :=
  s.does fun d => d.issue x [rs1] [] true fun d =>
    let c := d.core x
    let t := (c.gGet rs1 + c.imm imm).toNat
    if t % 8 ≠ 0 then d.ctlFault x fcMISALIGNED t
    else d.modCore x fun c => (c.gSet rd (BitVec.ofNat 64 c.nextPc)).retireTo (t % 2 ^ 48)

/-! ## SYS instructions that never wait (R157, R169, R183) -/

/-- The vector pipeline of core `q` executes instructions: started, not stopped, and its clock not stopped by a halt,
which in a Running site leaves it on until the stop boundary (R137, R516). -/
def Dev.vecReady (d : Dev) (q : Nat) : Bool :=
  d.corePresent q && (d.core q).v.vec == .run &&
    (!(d.core q).halted || (match d.coreSite q with
      | some s => d.siteIn s [stRunning]
      | none => false))

/-- ILLEGAL_OPCODE: a word that R157 or R125 rejects is fetched by the control pipeline of a controller, or by the
vector pipeline of a core; the fault is taken and the instruction has no effect. -/
def execIllegalOpcode (x : CtlId) (vec : Bool) (s : State) : Out :=
  s.does fun d =>
    if vec then
      if x.val < 64 && d.vecReady x then d.vecFaultPlain x fcILLEGAL else d
    else d.illegal x

/-- NOP does nothing (R169). -/
def execNop (x : CtlId) (s : State) : Out :=
  s.does fun d => d.issue x [] [] false fun d => d.modCore x Core.retire

/-- IFLUSH invalidates the pipeline's instruction cache (R169, R148). -/
def execIflush (x : CtlId) (s : State) : Out :=
  s.does fun d => d.issue x [] [] false fun d =>
    d.modCore x fun c => { c.retire with icache := false }

/-- CEND stops the core's control pipeline without a fault; on the hub controller it is an illegal opcode (R183). -/
def execCend (x : CtlId) (s : State) : Out :=
  s.does fun d =>
    if x.val = 64 then d.illegal x
    else d.issue x [] [] false fun d => d.modCore x fun c => { c.retire with ctl := .ended }

/-- ERET on the hub controller returns to HUBC_EPC and clears IN_HANDLER; in a core it is reserved (R169, R183). -/
def execEret (x : CtlId) (s : State) : Out :=
  s.does fun d =>
    if x.val ≠ 64 then d.illegal x
    else d.issue x [] [] false fun d => d.modCore x fun c =>
      { c.retireTo (c.epc / 8 * 8) with ecause := clearBitAt c.ecause 8 }

end Sys2Proof.Machine
end

