-- ==== Sys2Proof/Machine/VecOps.lean ====
section
/-! DEFINITION. The vector pipeline's machinery: symbols, the APG, the VIQ and the lead, emission, boundaries and their
snapshots (R132, R196 to R220). -/

namespace Sys2Proof.Machine

/-! ## The APG (R203 to R205) -/

/-- A 32-bit counter changed by `k` modulo 2^32. -/
def wrap32 (v : Nat) (k : Int) : Nat := narrow ((v : Int) + k) 32

/-- The low `w` bits of `v` changed by one up or down, and whether they wrapped (R205). -/
def countLow (v w : Nat) (up : Bool) : Nat × Bool :=
  let lo := v % 2 ^ w
  let lo' := if up then (lo + 1) % 2 ^ w else (lo + 2 ^ w - 1) % 2 ^ w
  (v - lo + lo', if up then lo' == 0 else lo == 0)

/-- DLFSR: d[62:0] : (d[63] xor d[62] xor d[60] xor d[59]) (R205). -/
def dlfsr (d : DWord) : DWord :=
  let b := ((d.getLsbD 63 ^^ d.getLsbD 62) ^^ d.getLsbD 60) ^^ d.getLsbD 59
  (d <<< 1) ||| (if b then 1 else 0)

/-- One APG operation on X, Y and d (R205, Table 7). -/
def apgOp (aop wid x y : Nat) (d : DWord) : Nat × Nat × DWord :=
  let w := if wid = 0 then 32 else wid
  match aop with
  | 0x1 => (wrap32 x 1, y, d)
  | 0x2 => (wrap32 x (-1), y, d)
  | 0x3 => (x, wrap32 y 1, d)
  | 0x4 => (x, wrap32 y (-1), d)
  | 0x5 => let (x', c) := countLow x w true; (x', if c then wrap32 y 1 else y, d)
  | 0x6 => let (y', c) := countLow y w true; (if c then wrap32 x 1 else x, y', d)
  | 0x7 => let (x', c) := countLow x w false; (x', if c then wrap32 y (-1) else y, d)
  | 0x8 => let (y', c) := countLow y w false; (if c then wrap32 x (-1) else x, y', d)
  | 0x9 => (x, y, ~~~d)
  | 0xA => (x, y, d.rotateLeft 1)
  | 0xB => (x, y, dlfsr d)
  | 0xC => (wrap32 x 1, y, ~~~d)
  | 0xD => let (x', c) := countLow x w true; (x', if c then wrap32 y 1 else y, if c then ~~~d else d)
  | _ => (x, y, d)

/-- The APG operation of an instruction applied to the counters and generator it names. -/
def VCore.apply (v : VCore) (xs ys ds aop wid : Nat) : VCore :=
  let (x, y, d) := apgOp aop wid (tblGet 0 v.ax xs) (tblGet 0 v.ay ys) (tblGet 0 v.dg ds)
  { v with ax := tblPut v.ax xs x, ay := tblPut v.ay ys y, dg := tblPut v.dg ds d }

/-- One scrambled bus bit of a scramble entry from its own and the other counter (R204, Table 6). -/
def scrambleBit (e own other : Nat) : Bool :=
  let src := bitAt (if bitAt e 5 then other else own) (bitsAt e 0 5)
  let xsrc := bitAt (if bitAt e 13 then other else own) (bitsAt e 8 5)
  (src ^^ bitAt e 6) ^^ (bitAt e 7 && xsrc)

/-- 32 scrambled bits from the entries `base` to `base + 31`. -/
def scramble (scr : Tbl Nat) (base own other : Nat) : Nat :=
  (List.range 32).foldl (fun s i => if scrambleBit (tblGet 0 scr (base + i)) own other then s + 2 ^ i else s) 0

/-- The APG bus of a cycle as a 128-bit number (R203, Table 5). -/
def VCore.bus (v : VCore) (em : Emit) : Nat :=
  let x := tblGet 0 v.ax em.xs.toNat
  let y := tblGet 0 v.ay em.ys.toNat
  let bx := if em.scr then scramble v.scr 0 x y else x
  let by' := if em.scr then scramble v.scr 32 y x else y
  let d := tblGet 0 v.dg em.ds.toNat
  let d := if em.chk && (bitAt bx 0 ^^ bitAt by' 0) then ~~~d else d
  bx + 2 ^ 32 * by' + 2 ^ 64 * d.toNat

/-! ## Symbols (R196, R197) -/

/-- Symbol codes the model names. -/
def syK : Nat := 0x7

/-- A symbol with its APG bits `a` (SRC_A) and `b` (SRC_B) resolved (R196, R203). -/
def resolveSym (s : Nat) (a b : Bool) : Nat :=
  match s with
  | 0x8 => if a then 0x1 else 0x0
  | 0x9 => if b then 0x1 else 0x0
  | 0xA => if a then 0x3 else 0x2
  | 0xB => if b then 0x3 else 0x2
  | 0xC => if a then 0x0 else 0x1
  | 0xD => if a then 0x2 else 0x3
  | s => s

/-- A row's symbols by position with every APG symbol resolved: position p is the p-th channel of the pin group, whose
pin source entry gives SRC_A and SRC_B (R197, R206). -/
def resolveRow (psrc : Tbl Nat) (bus : Nat) : List Nat → Nat → Nat → Nat
  | [], _, _ => 0
  | j :: l, p, row =>
    let e := tblGet 0 psrc j
    resolveSym (bitsAt row (4 * p) 4) (bitAt bus (bitsAt e 0 7)) (bitAt bus (bitsAt e 8 7)) * 2 ^ (4 * p)
      + resolveRow psrc bus l (p + 1) row

/-- A row of K at every one of `n` positions (R201). -/
def rowOfK : Nat → Nat
  | 0 => 0
  | n + 1 => syK * 2 ^ (4 * n) + rowOfK n

/-- Words of a row for a group of `p` pins: ceil(p ÷ 16) (R197). -/
def rowWords (p : Nat) : Nat := (p + 15) / 16

/-! ## The VIQ and the lead (R132) -/

/-- Cycles of a list of entries. -/
def cyclesOf (l : List VEnt) : Nat := (l.map fun e => e.cyc.length).sum

/-- The lead: cycles held in the VIQ, a match-loop's block counting as B until its last pass ends (R132, R211). -/
def VCore.lead (v : VCore) : Nat :=
  cyclesOf v.viq + (match v.mloop with
    | some m => cyclesOf m.block
    | none => 0)

/-- A match-loop whose block is open: MLOOP executed and not yet MEND (R210). -/
def VCore.inBlock (v : VCore) : Bool :=
  match v.mloop with
  | some m => !m.closed
  | none => false

/-- LEAD_TARGET in force: values above 8,192 act as 8,192 (R154, Table 8). -/
def Dev.leadTarget (d : Dev) (q : Nat) : Nat := min (d.get (K.SEQ_LEAD_CFG_LEAD_TARGET (q / 16) (q % 16))) 8192

/-! ## Emission -/

/-- Cycles a job has still to emit. -/
def Job.left (j : Job) : Nat := match j.rows with
  | [] => 0
  | _ :: r => j.rep + r.length

/-- The next `n` cycles of a job: their VIQ cycles, the APG state after them and what is left of the job (R201, R203,
R205). -/
def VCore.take (v : VCore) (grp : List Nat) (j : Job) : Nat → List VCyc × VCore × Job
  | 0 => ([], v, j)
  | n + 1 =>
    match j.rows with
    | [] => ([], v, j)
    | (row, ts) :: rest =>
      let em := j.em
      let c : VCyc := { syms := resolveRow v.psrc (v.bus em) grp 0 row, ts := ts
                        x := tblGet 0 v.ax em.xs.toNat, y := tblGet 0 v.ay em.ys.toNat }
      let v' := if em.alast && 1 < j.left then v
        else v.apply em.xs.toNat em.ys.toNat em.ds.toNat em.aop.toNat em.wid.toNat
      let j' := if 1 < j.rep then { j with rep := j.rep - 1 } else { j with rows := rest, rep := 1 }
      let (l, v'', j'') := VCore.take v' grp j' n
      (c :: l, v'', j'')

/-- One VIQ entry of a new list of cycles, with the boundary and the signals that wait for it: into the match buffer
while a block is open, else into the VIQ (R132, R199, R210, R217). -/
def VCore.push (v : VCore) (l : List VCyc) : VCore :=
  match v.mloop with
  | some m =>
    if m.closed then { v with viq := v.viq ++ [⟨l, v.mark, v.pinSigs, false⟩], mark := none, pinSigs := [] }
    else { v with mloop := some { m with block := m.block ++ [⟨l, none, [], false⟩] } }
  | none => { v with viq := v.viq ++ [⟨l, v.mark, v.pinSigs, false⟩], mark := none, pinSigs := [] }

/-- The vector pipeline writes one VIQ entry of the job in progress, at most eight cycles, or `none` when it may not: no
job, stopped, the lead at its target or an entry that would pass 8,192 cycles (log 16), a full VIQ, or a segment that
has reached SEQ_SEGMAX cycles (R132, R220). Comparators of KIND 2 judge each cycle's APG word Y:X (R523). -/
def Dev.pumpOne (d : Dev) (q : Nat) : Option Dev :=
  let v := (d.core q).v
  match v.job with
  | none => none
  | some j =>
    let room := d.get (K.SEQ_SEGMAX_CYCLES (q / 16) (q % 16)) - v.segLen
    let n := min (min 8 j.left) room
    let lead := v.lead
    if v.vec ≠ .run ∨ n = 0 ∨ d.leadTarget q ≤ lead ∨ 8192 < lead + n ∨ (!v.inBlock ∧ 2048 ≤ v.viq.length) then none
    else
      let (l, v, j) := v.take (d.pinGroup q) j n
      let v := v.push l
      let v := { v with segLen := v.segLen + n }
      let v := if j.rows = [] then { v with job := none, vpc := j.next } else { v with job := some j }
      let d := d.modV q fun _ => v
      some (d.each (List.range n) fun d i =>
        match l[i]? with
        | some c => d.compareVec q 2 (c.y * 2 ^ 32 + c.x) (v.cyc + lead + i)
        | none => d)

/-- The vector pipeline writes entries as long as it may. -/
def Dev.pump (d : Dev) (q : Nat) : Nat → Dev
  | 0 => d
  | n + 1 => match d.pumpOne q with
    | some d => Dev.pump d q n
    | none => d

/-- The most entries one command can let the pipeline write: a VIQ full. -/
def pumpFuel : Nat := 2048

/-! ## Issue -/

/-- A vector instruction of `len` bytes with its inline words: executed when the pipeline runs and no earlier instruction
is still emitting; its words must lie on admitted pages, else TRANSLATION_FAULT UNLISTED (R349); comparators of KIND 1
judge VPC (R523); inside a match-loop's block only what R210 names, else ILLEGAL_OPCODE. -/
def Dev.vecIssue (d : Dev) (q len : Nat) (inBlock : Bool) (body : Dev → Dev) : Dev :=
  let v := (d.core q).v
  if !d.vecReady q || v.job.isSome then d
  else
    let bad := if !v.listed v.vpc then some v.vpc
      else if !v.listed (v.vpc + len - 8) then some (v.vpc + len - 8) else none
    match bad with
    | some a => (d.ptuFault q ⟨prUNLISTED, 3, a⟩ false).vecFault q fcTRANS a
    | none =>
      let d := d.compareVec q 1 v.vpc (v.cyc + v.lead)
      if v.inBlock && !inBlock then d.vecFaultPlain q fcILLEGAL else body d

/-- The vector half changed by `f` and VPC moved past one instruction word. -/
def Dev.vecStep (d : Dev) (q : Nat) (f : VCore → VCore) : Dev :=
  d.modV q fun v => { f v with vpc := (v.vpc + 8) % 2 ^ 48 }

/-- A vector instruction of one word that changes the vector half and nothing else; `ok` tells an encoding that is not
reserved. -/
def Dev.vecInstr (d : Dev) (q : Nat) (ok : Bool) (f : VCore → VCore) : Dev :=
  d.vecIssue q 8 false fun d => if ok then d.vecStep q f else d.vecFaultPlain q fcILLEGAL

/-- An emitting instruction: its rows become the job in progress, and the pipeline writes what it may. -/
def Dev.emit (d : Dev) (q : Nat) (em : Emit) (words : Nat) (ok : Bool) (rows : List (Nat × Nat)) (rep : Nat) : Dev :=
  d.vecIssue q (8 * (1 + words)) true fun d =>
    if !ok || 13 < em.aop.toNat then d.vecFaultPlain q fcILLEGAL
    else
      let d := d.modV q fun v =>
        { v with job := some { em := em, rows := rows, rep := rep, next := (v.vpc + 8 * (1 + words)) % 2 ^ 48 } }
      d.pump q pumpFuel

/-! ## Boundaries (R217, R218) -/

/-- The snapshot of the vector state at a boundary whose resume address is `vpc` (R218). -/
def VCore.snapAt (v : VCore) (b : Bnd) (vpc : Nat) : Snap :=
  { bnd := b, vpc := vpc, lc := v.lc, ax := v.ax, ay := v.ay, dg := v.dg }

/-- A boundary is recorded: when the one before it has no cycle yet, the later one takes its place (R217). -/
def VCore.record (v : VCore) (sn : Snap) : VCore :=
  { v with
    snaps := (if v.mark.isSome then v.snaps.dropLast else v.snaps) ++ [sn]
    mark := some sn.bnd
    segLen := 0 }

/-- An END boundary takes its place in the VIQ at once: no cycle follows it (R217). -/
def VCore.placeEnd (v : VCore) (b : Bnd) : VCore :=
  { v with viq := v.viq ++ [⟨[], some b, [], false⟩], mark := none, vec := .stopped }

/-- A snapshot restored, VPC and the snapshot's own registers (R219); what the VIQ, the VPQ and the match buffer held is
discarded (R142). -/
def VCore.restore (v : VCore) (sn : Snap) (vpc : Nat) : VCore :=
  { v with
    vpc := vpc, lc := sn.lc, ax := sn.ax, ay := sn.ay, dg := sn.dg, vpq := [], viq := [], mark := none, pinSigs := []
    snaps := [], mloop := none, job := none, segLen := 0, stopSnap := some sn, vec := .stopped, faulted := false }

/-- The vector pipeline starts, or restarts, at a boundary: it marks the boundary, records its snapshot and requests the
admission of its segment (R137, R320, R347). -/
def VCore.startAt (v : VCore) (b : Bnd) : VCore :=
  let v := { v with viq := [], mark := none, pinSigs := [], snaps := [], mloop := none, job := none, faulted := false }
  { v.record (v.snapAt b v.vpc) with vec := .admitting b.bidx }

end Sys2Proof.Machine
end

