-- ==== Sys2Proof/Machine/Vector.lean ====
section
/-! DEFINITION. The vector instructions and the events of the vector pipeline (R196 to R225, R346 to R351). -/

namespace Sys2Proof.Machine

/-- VDECL reached by execution raises ILLEGAL_OPCODE (R221). -/
def execVdecl (q : CoreId) (s : State) : Out :=
  s.does fun d => d.vecIssue q 8 false fun d => d.vecFaultPlain q fcILLEGAL

/-- ROWS emits its inline rows, 1 to 4,096, each with the instruction's timing set or, with PRT, its own (R201, R202). -/
def execRows (q : CoreId) (em : Emit) (prt : Bool) (rows : List (BitVec 512 × BitVec 6)) (s : State) : Out :=
  s.does fun d =>
    let w := rowWords (d.pinGroup q).length + bit prt
    d.emit q em (rows.length * w) (decide (1 ≤ rows.length) && decide (rows.length ≤ 4096))
      (rows.map fun r => (r.1.toNat, if prt then r.2.toNat else em.ts.toNat)) 1

/-- RPT emits one inline row n times, 1 to 65,536 (R201). -/
def execRpt (q : CoreId) (em : Emit) (row : BitVec 512) (n : BitVec 17) (s : State) : Out :=
  s.does fun d =>
    d.emit q em (rowWords (d.pinGroup q).length) (decide (1 ≤ n.toNat) && decide (n.toNat ≤ 65536))
      [(row.toNat, em.ts.toNat)] n.toNat

/-- IDLE emits n cycles with every pin at K, 1 to 65,536 (R201). -/
def execIdle (q : CoreId) (em : Emit) (n : BitVec 17) (s : State) : Out :=
  s.does fun d =>
    d.emit q em 0 (decide (1 ≤ n.toNat) && decide (n.toNat ≤ 65536))
      [(rowOfK (d.pinGroup q).length, em.ts.toNat)] n.toNat

/-- A vector register written (R207): lc, ax and ay take 32 bits, d takes 64. -/
def VCore.setByIndex (v : VCore) (i : Nat) (w : DWord) : VCore :=
  let lo := w.toNat % 2 ^ 32
  if i < 8 then { v with lc := tblPut v.lc i lo }
  else if i < 12 then { v with ax := tblPut v.ax (i - 8) lo }
  else if i < 16 then { v with ay := tblPut v.ay (i - 12) lo }
  else { v with dg := tblPut v.dg (i - 16) w }

/-- VSET writes an immediate to a loop counter, APG register or scramble entry; PART 1 of a data generator writes its
upper half alone; reserved codes, PART of a 32-bit register and ENTRY outside RSEL 24 are illegal (R207; log 17). -/
def execVset (q : CoreId) (rsel : BitVec 5) (part : BitVec 2) (entry : BitVec 6) (imm : Word) (s : State) : Out :=
  s.does fun d =>
    let r := rsel.toNat
    let p := part.toNat
    let ok := if r < 16 then p == 0 && entry.toNat == 0 else if r < 20 then decide (p < 2) && entry.toNat == 0
      else r == 24 && p == 0
    d.vecInstr q ok fun v =>
      if r = 24 then { v with scr := tblPut v.scr entry.toNat (imm.toNat % 2 ^ 14) }
      else if p = 1 then
        { v with dg := tblMod 0 v.dg (r - 16) fun w => BitVec.ofNat 64 (imm.toNat * 2 ^ 32 + w.toNat % 2 ^ 32) }
      else v.setByIndex r (imm.setWidth 64)

/-- VPOP takes the oldest VPQ word into a vector register, or raises VPQ_EMPTY (R207, R129). -/
def execVpop (q : CoreId) (rsel : BitVec 5) (s : State) : Out :=
  s.does fun d => d.vecIssue q 8 false fun d =>
    if 20 ≤ rsel.toNat then d.vecFaultPlain q fcILLEGAL
    else
      match (d.core q).v.vpq with
      | [] => d.vecFaultPlain q fcVPQ
      | w :: rest => d.vecStep q fun v => { v.setByIndex rsel.toNat w with vpq := rest }

/-- AOPX applies one APG operation with no cycle emitted; codes 14 and 15 are reserved (R205, R207). -/
def execAopx (q : CoreId) (xs ys ds : BitVec 2) (aop : BitVec 4) (wid : BitVec 5) (s : State) : Out :=
  s.does fun d =>
    d.vecInstr q (decide (aop.toNat < 14)) fun v => v.apply xs.toNat ys.toNat ds.toNat aop.toNat wid.toNat

/-- LOOP: lc[n] := count (R208). -/
def execLoop (q : CoreId) (n : Fin 8) (count : Word) (s : State) : Out :=
  s.does fun d => d.vecInstr q true fun v => { v with lc := tblPut v.lc n count.toNat }

/-- A vector branch target: the instruction's own address plus 8 × offset, modulo 2^48 (R198). -/
def VCore.target (v : VCore) (off : Int) : Nat := pcWrap ((v.vpc : Int) + 8 * off)

/-- ENDL: at 1 or 0 the counter becomes 0 and execution falls through; else it counts down and branches (R208). -/
def execEndl (q : CoreId) (n : Fin 8) (off : BitVec 32) (s : State) : Out :=
  s.does fun d => d.vecIssue q 8 false fun d =>
    let c := tblGet 0 (d.core q).v.lc n
    if c ≤ 1 then d.vecStep q fun v => { v with lc := tblPut v.lc n 0 }
    else d.modV q fun v => { v with lc := tblPut v.lc n (c - 1), vpc := v.target off.toInt }

/-- VJMP sets VPC to its target (R209). -/
def execVjmp (q : CoreId) (off : BitVec 43) (s : State) : Out :=
  s.does fun d => d.vecIssue q 8 false fun d =>
    d.modV q fun v => { v with vpc := v.target off.toInt }

/-- VCALL: lc[n] := (VPC + 8)[34:3], and a jump (R209). -/
def execVcall (q : CoreId) (n : Fin 8) (off : BitVec 43) (s : State) : Out :=
  s.does fun d => d.vecIssue q 8 false fun d =>
    d.modV q fun v => { v with lc := tblPut v.lc n (bitsAt (v.vpc + 8) 3 32), vpc := v.target off.toInt }

/-- VRET: VPC := VPC[47:35] : lc[n] : 0b000 (R209). -/
def execVret (q : CoreId) (n : Fin 8) (s : State) : Out :=
  s.does fun d => d.vecIssue q 8 false fun d =>
    d.modV q fun v => { v with vpc := v.vpc / 2 ^ 35 * 2 ^ 35 + 8 * tblGet 0 v.lc n }

/-! ## Match-loops -/

/-- MLOOP opens a match-loop with N = lc[n], 0 counting as 1; it pauses while an earlier match-loop has not ended at the
pins; a second MLOOP in a block and TMO 3 are illegal (R210, R211, R215). The block takes its place in the VIQ. -/
def execMloop (q : CoreId) (n : Fin 8) (cond comb : Bool) (tmo : BitVec 2) (segit : Bool) (mev : Fin 16)
    (mevon : BitVec 2) (bidx : BitVec 20) (s : State) : Out :=
  s.does fun d =>
    let v := (d.core q).v
    if v.mloop.isSome && !v.inBlock then d
    else d.vecIssue q 8 false fun d =>
      if tmo.toNat = 3 then d.vecFaultPlain q fcILLEGAL
      else d.vecStep q fun v =>
        { v with
          mloop := some { lci := n, cond := cond, comb := comb, tmo := tmo.toNat, segit := segit, mev := mev
                          mevon := mevon.toNat, bidx := bidx.toNat, vpc := v.vpc, n := max 1 (tblGet 0 v.lc n)
                          closed := false, block := [], passes := 0, left := [], seen := false, failed := false }
          viq := v.viq ++ [⟨[], v.mark, v.pinSigs, true⟩], mark := none, pinSigs := [] }

/-- MEND closes the block: 1 to 2,048 cycles in at most 256 entries, else ILLEGAL_OPCODE, as is an MEND without an
MLOOP (R210). With SEGIT every pass end is a boundary at the MLOOP, whose segment's admission is requested (R216,
R218, R347); without, N × B cycles count toward the segment's length (R216). -/
def execMend (q : CoreId) (s : State) : Out :=
  s.does fun d => d.vecIssue q 8 true fun d =>
    match (d.core q).v.mloop with
    | none => d.vecFaultPlain q fcILLEGAL
    | some m =>
      let b := cyclesOf m.block
      if m.closed ∨ b = 0 ∨ 2048 < b ∨ 256 < m.block.length then d.vecFaultPlain q fcILLEGAL
      else d.vecStep q fun v =>
        let v := { v with mloop := some { m with closed := true, left := m.block } }
        if m.segit then
          { v.record (v.snapAt ⟨m.bidx, false⟩ m.vpc) with vec := .admitting m.bidx }
        else { v with segLen := v.segLen + (m.n - 1) * b }

/-- SEGB marks a boundary, records its snapshot and requests the admission of the segment that begins there, or with END
ends the program; it pauses while 16 snapshots are held (R217, R218, R347). -/
def execSegb (q : CoreId) (last : Bool) (bidx : BitVec 20) (s : State) : Out :=
  s.does fun d =>
    if 16 ≤ (d.core q).v.snaps.length ∧ (d.core q).v.mark = none then d
    else d.vecIssue q 8 false fun d =>
      d.vecStep q fun v =>
        let b : Bnd := ⟨bidx.toNat, last⟩
        let v := v.record (v.snapAt b ((v.vpc + 8) % 2 ^ 48))
        if last then v.placeEnd b else { v with vec := .admitting bidx.toNat }

/-- SIG in the vector pipeline: sent at execution, or with PIN when the next emitted cycle begins at the pins; in a
match-loop's block PIN must be 0; targets above 64 are reserved, an absent core raises UNIT_ABSENT (R199, R210). -/
def execSigVector (q : CoreId) (tgt : BitVec 7) (inp : Fin 16) (pin : Bool) (s : State) : Out :=
  s.does fun d => d.vecIssue q 8 (!pin) fun d =>
    let t := tgt.toNat
    if 64 < t then d.vecFaultPlain q fcILLEGAL
    else
      match d.signal t inp with
      | none => d.vecFault q fcABSENT (absentAddr 1 t)
      | some d' => if pin then d.vecStep q fun v => { v with pinSigs := v.pinSigs ++ [(t, inp.val)] } else d'.vecStep q id

/-! ## Segment length, admission and reads -/

/-- SEG_OVERRUN: the segment has SEQ_SEGMAX cycles and the program emits another before a boundary (R220). -/
def execSegOverrun (q : CoreId) (s : State) : Out :=
  s.doesAs (3, 0x06, q.val) fun d =>
    let v := (d.core q).v
    if v.vec = .run ∧ v.job.isSome ∧ d.get (K.SEQ_SEGMAX_CYCLES (q / 16) (q % 16)) ≤ v.segLen then
      d.vecFaultPlain q fcSEGOVR
    else d

/-- SEGMENT_ADMISSION_END: the admission the vector pipeline waits for ends; its pages are pinned and the pipeline goes
on, or TRANSLATION_FAULT or WALK_IO is raised at the boundary (R347, R349). `ecc` names the level (0 list, 1 first,
2 second) and the page whose entry's read meets an uncorrectable error. -/
def execSegmentAdmissionEnd (q : CoreId) (ecc : Option (Fin 3 × Nat)) (s : State) : Out :=
  s.doesAs (3, 0x06, q.val) fun d =>
    match (d.core q).v.vec with
    | .admitting bidx =>
      match d.admitSegment q bidx (ecc.map fun p => (p.1.val, p.2)) with
      | (d, none) => d.modV q fun v => { v with vec := .run }
      | (d, some f) =>
        (d.ptuFault q f false).vecFault q (if f.reason = prIO then fcWALKIO else fcTRANS) f.addr
    | _ => d

/-- VECTOR_READ_COMPLETE: a vector read at `va` returns after `errors` uncorrectable errors: up to three retries hide
them, four raise DATA_ECC; a page outside the admitted list raises TRANSLATION_FAULT UNLISTED (R349, R351). -/
def execVectorReadComplete (q : CoreId) (va : BitVec 48) (errors : Fin 5) (s : State) : Out :=
  s.does fun d =>
    let v := (d.core q).v
    if v.vec ≠ .run then d
    else if !v.listed va.toNat then (d.ptuFault q ⟨prUNLISTED, 3, va.toNat⟩ false).vecFault q fcTRANS va.toNat
    else
      let pa := match (d.tlbOf q).find? fun t => t.serves q va.toNat && t.pins.contains q with
        | some t => pteAddr t.big t.pte va.toNat
        | none => va.toNat
      let d := d.each (List.range errors.val) fun d _ => d.memUE pa
      if errors.val = 4 then d.vecFault q fcECC va.toNat else d

end Sys2Proof.Machine
end

