-- ==== Sys2Proof/Machine/Capture.lean ====
section
/-! DEFINITION. Fail capture: what a judgement writes (counts, summaries, events, stop requests), the merging of fail
records, the core FIFOs, the record generator and the losses (R257 to R279). -/

namespace Sys2Proof.Machine

/-! ## Notices -/

/-- First address of the register window of CD n (R14). -/
def dieWin (n : Nat) : Nat := 0x400000 + n * 0x100000

/-- The class B record WM_HIT: the address of the watermark register and its peak (R275, R552). -/
def Dev.wmRecord (d : Dev) (die unit addr peak : Nat) (site : Option Nat) : Dev :=
  d.logBOn die 0x110 unit (addr + 2 ^ 32 * peak) site

/-- The cores of site `s` on die `n`, ascending. -/
def Dev.siteCoresOn (d : Dev) (s n : Nat) : List Nat := (d.siteCores s).filter fun q => q / 16 == n

/-- A fail condition of Table 7 adds one arrival to the inputs of the cores that select it, at most once in a tick for
each core (R278). -/
def Dev.failEvt (d : Dev) (qs : List Nat) (sel : Nat) : Dev :=
  d.each qs fun d q =>
    if tblGet 0 d.tgn.evtAt (8 * q + sel) = d.clock + 1 then d
    else
      let d := { d with tgn := { d.tgn with evtAt := tblPut d.tgn.evtAt (8 * q + sel) (d.clock + 1) } }
      d.route [q] 4 sel

/-- A stop request that fail capture makes once per admission for each cause (R277). -/
def Dev.captureStop (d : Dev) (s cause : Nat) : Dev :=
  if (d.site s).once.contains cause then d
  else (d.modSite s fun r => { r with once := cause :: r.once }).stopReq s cause

/-! ## Losses (R267, R277) -/

/-- A record of core `q` is lost: the core's count toward its LOST record and its END record, the entry's LOST and
LOST_F, FLG_LOST, LOST_ANY, the fail event and, for PHASE 0 with LOSS_STOP, the stop request (R267, R277, R278). -/
def Dev.loseRec (d : Dev) (q : Nat) (r : FRec) : Dev :=
  let n := r.die
  let s := r.site
  let d := d.modCore q fun c => { c with cap := { c.cap with
    lost := (match c.cap.lost with
      | none => some (1, r.cycle, r.bidx)
      | some (k, cy, b) => some (min (k + 1) 0xFFFFFFFF, cy, b))
    lostAll := min (c.cap.lostAll + 1) 0xFFFFFFFF } }
  let d := (d.bump (K.SFT_LOST n s)).put (K.SFT_LOST_F n s) true
  let d := d.count48 (K.FLG_LOST_LO_COUNT_LO n) (K.FLG_LOST_HI_COUNT_HI n) (K.FLG_LOST_HI_OVF n)
  let d := d.put (K.FLG_STATUS_LOST_ANY n) true
  let d := d.failEvt (d.siteCoresOn s n) 5
  if r.phase = 0 ∧ d.on (K.SFT_LOSS_STOP n s) then d.captureStop s 0x0A else d

/-! ## From records to the FIFO (R262 to R265) -/

/-- Record types (Table 2). -/
def ftFAIL : Nat := 1
def ftTIMEOUT : Nat := 2
def ftLOST : Nat := 3
def ftEND : Nat := 4

/-- A record of core `q` with the fields of its place. -/
def Dev.frec (d : Dev) (q s ty phase cycle : Nat) : FRec :=
  { ty := ty, phase := phase, half := 0, smiss := false, cnfl := false, abort := false, site := s, core := q % 16
    die := q / 16, rep := 0, bidx := (d.core q).v.segBidx, cycle := cycle, ts := 0, w2 := 0, w3 := 0 }

/-- Detector 0x15 makes the FIFO of core `q` act as full for ARG[31:8] records (R546). Answers whether it does for this
one. -/
def Dev.fifoStuffed (d : Dev) (q : Nat) : Dev × Bool :=
  let put (d : Dev) (k : Nat) : Dev := d.modCore q fun c => { c with cap := { c.cap with stuffed := k } }
  if (d.core q).cap.stuffed ≠ 0 then (put d ((d.core q).cap.stuffed - 1), true)
  else match d.inject 0x15 fun u a => u == q / 16 && a % 16 == q % 16 && bitsAt a 8 24 != 0 with
    | some (a, d) => (put d (bitsAt a 8 24 - 1), true)
    | none => (d, false)

/-- A record enters the core's FIFO of 512, or is lost when the FIFO is full; an END record is not lost there
(R265, R267). -/
def Dev.fifoPut (d : Dev) (q : Nat) (r : FRec) : Dev :=
  let (d, full) := if r.ty = ftEND then (d, false) else d.fifoStuffed q
  if full then d.asInjected fun d => d.loseRec q r
  else if (d.core q).cap.fifo.length < 512 ∨ r.ty = ftEND then
    d.modCore q fun c => { c with cap := { c.cap with fifo := c.cap.fifo ++ [r] } }
  else d.loseRec q r

/-- The open record of one half leaves the pre-processor (R264). -/
def Dev.flushHalf (d : Dev) (q h : Nat) : Dev :=
  match (d.core q).cap.opened.find? (·.half == h) with
  | none => d
  | some r =>
    (d.modCore q fun c => { c with cap := { c.cap with opened := c.cap.opened.filter (·.half != h) } }).fifoPut q r

/-- Both open records leave the pre-processor, HALF 0 first. -/
def Dev.flushFails (d : Dev) (q : Nat) : Dev := (d.flushHalf q 0).flushHalf q 1

/-- The record of the cycle after `o` may be merged into `o` (R264). -/
def FRec.merges (o r : FRec) : Bool :=
  o.cycle + o.rep + 1 == r.cycle && o.phase == r.phase && o.half == r.half && o.smiss == r.smiss && o.cnfl == r.cnfl &&
    o.w2 == r.w2 && o.w3 == r.w3 && decide (o.rep < 1023)

/-- The judgement of one half of a cycle meets the half's open record: merged, or closed and followed by a record of its
own when the half failed (R263, R264). -/
def Dev.failHalf (d : Dev) (q : Nat) (r : FRec) : Dev :=
  let o := (d.core q).cap.opened.find? (·.half == r.half)
  let merged := match o with
    | some o => r.w3 != 0 && o.merges r
    | none => false
  if merged then
    d.modCore q fun c => { c with cap := { c.cap with
      opened := c.cap.opened.map fun o => if o.half = r.half then { o with rep := o.rep + 1 } else o } }
  else
    let d := d.flushHalf q r.half
    if r.w3 = 0 then d else d.modCore q fun c => { c with cap := { c.cap with opened := c.cap.opened ++ [r] } }

/-! ## The judgement of a cycle (R257, R259, R276 to R279) -/

/-- What a cycle's compares gave, by pin-group position: failed after masking, of these for want of a strobe, of these
with both lanes 1, and failed before masking where masked; and whether any pin was compared. -/
structure Verdict where
  seen : Bool := false
  fail : Nat := 0
  smiss : Nat := 0
  cnfl : Nat := 0
  raw : Nat := 0
  deriving DecidableEq, Repr

/-- The channel fail count of die channel `j` takes one failing cycle (R279). -/
def Dev.chanFail (d : Dev) (n cycle j : Nat) : Dev :=
  let d := d.count48 (K.CHFC_CNT_LO n j) (K.CHFC_CNT_HI n j) (K.CHFC_OVF n j)
  if d.on (K.CHFC_FIRST_VALID n j) then d
  else (d.set2 (K.CHFC_FIRST_LO n j) (K.CHFC_FIRST_HI n j) cycle).put (K.CHFC_FIRST_VALID n j) true

/-- FCNT counts a failing site cycle of the die once; reaching FAIL_LIMIT sets LIMIT, with its event and stop request
(R276 to R278). -/
def Dev.cycleFail (d : Dev) (n s cycle : Nat) : Dev :=
  let k := 64 * n + s
  if tblFind d.tgn.fcLast k = some cycle then d
  else
    let d := { d with tgn := { d.tgn with fcLast := tblPut d.tgn.fcLast k cycle } }
    let d := d.count48 (K.SFT_FCNT_LO n s) (K.SFT_FCNT_HI n s) (K.SFT_OVF n s)
    let lim := d.get (K.SFT_FAIL_LIMIT n s)
    if lim ≠ 0 ∧ lim ≤ d.get2 (K.SFT_FCNT_LO n s) (K.SFT_FCNT_HI n s) ∧ !d.on (K.SFT_LIMIT n s) then
      ((d.put (K.SFT_LIMIT n s) true).failEvt (d.siteCoresOn s n) 3).captureStop s 0x08
    else d

/-- The PHASE 0 fails of a cycle in the counters, the summary and the events (R276, R278, R279). -/
def Dev.patternFail (d : Dev) (q s cycle : Nat) (v : Verdict) : Dev :=
  let n := q / 16
  let pins := d.pinGroup q
  let d := d.each (List.range 128) fun d p => match pins[p]? with
    | some j => if bitAt v.fail p then d.chanFail n cycle j else d
    | none => d
  let d := (d.failEvt [q] 0).failEvt (d.siteCoresOn s n) 1
  let d :=
    if d.on (K.SFT_ANY_FAIL n s) then d
    else
      let d := (d.put (K.SFT_ANY_FAIL n s) true).set2 (K.SFT_FIRST_LO n s) (K.SFT_FIRST_HI n s) cycle
      d.failEvt (d.siteCoresOn s n) 2
  d.cycleFail n s cycle

/-- A judged cycle of core `q` outside a match-loop: the counters, the summary, the events and the records (R257 to
R264). Fails of PHASE 1 and 2 make records with CRK_REC alone. -/
def Dev.judged (d : Dev) (q s phase cycle ts x y : Nat) (v : Verdict) : Dev :=
  let n := q / 16
  let d := d.when (v.smiss != 0) fun d => d.failEvt [q] 6
  let d :=
    if v.fail = 0 then d
    else if phase = 0 then d.patternFail q s cycle v
    else d.put (K.SFT_CRK_FAIL n s) true
  let rec' := phase = 0 ∨ d.on (K.SFT_CRK_REC n s)
  let mk (h : Nat) : FRec :=
    { d.frec q s ftFAIL phase cycle with
      half := h, ts := ts, w2 := x % 2 ^ 32 + 2 ^ 32 * (y % 2 ^ 32)
      smiss := bitsAt v.smiss (64 * h) 64 != 0, cnfl := bitsAt v.cnfl (64 * h) 64 != 0
      w3 := if rec' then bitsAt v.fail (64 * h) 64 else 0 }
  let d := d.when (decide rec' && v.smiss != 0) fun d => d.put (K.SFT_SMISS n s) true
  let d := d.when (decide rec' && v.cnfl != 0) fun d => d.put (K.SFT_CNFL n s) true
  (d.failHalf q (mk 0)).failHalf q (mk 1)

/-- The END record of core `q`, once for each time it has run: its open records first; ABORT for a safety trip (R262,
R273). `last` is the last cycle judged. -/
def Dev.endRec (d : Dev) (q s last : Nat) (abort : Bool) : Dev :=
  if (d.core q).cap.ended then d
  else
    let d := d.flushFails q
    let d := d.fifoPut q { d.frec q s ftEND 0 last with abort := abort }
    d.modCore q fun c => { c with cap := { c.cap with ended := true } }

/-- The last cycle of core `q` that reached the pins. -/
def Dev.lastCycle (d : Dev) (q : Nat) : Nat := (d.core q).v.cyc - 1

/-- Every core of a site writes its END record. -/
def Dev.endRecs (d : Dev) (s : Nat) (abort : Bool) : Dev :=
  d.each (d.siteCores s) fun d q => d.endRec q s (d.lastCycle q) abort

/-! ## The record generator and staging (R265, R267) -/

/-- The table key of a site's share of a die's staging. -/
def stageKey (n s : Nat) : Nat := 64 * n + s

/-- Records held in the die's staging. -/
def Dev.stageLevel (d : Dev) (n : Nat) : Nat :=
  (allSites.map fun s => (tblGet [] d.tgn.staging (stageKey n s)).length).sum

/-- FLG_STAGE_LVL follows the level, and its watermark sees it (R265, R275). -/
def Dev.stageSeen (d : Dev) (n : Nat) : Dev :=
  let lv := d.stageLevel n
  let d := d.set (K.FLG_STAGE_LVL n) lv
  let (d, rose) := d.levelSeen lv (K.FLG_STAGE_WM_MARK n) (K.FLG_STAGE_PEAK_WM_PEAK n) (K.FLG_STAGE_PEAK_WM_HIT n)
  if rose then d.wmRecord n cblkFLG (dieWin n + 0x40108) (d.get (K.FLG_STAGE_PEAK_WM_PEAK n)) none else d

/-- A record reaches staging: held, or lost when the site's share of STAGE × 1,024 records is full; an END record is not
lost there (R266, R267). -/
def Dev.stagePut (d : Dev) (q : Nat) (r : FRec) : Dev :=
  let k := stageKey r.die r.site
  let l := tblGet [] d.tgn.staging k
  if l.length < 1024 * d.get (K.SFT_STAGE r.die r.site) ∨ r.ty = ftEND then
    { d with tgn := { d.tgn with staging := tblPut d.tgn.staging k (l ++ [r]) } }
  else d.loseRec q r

/-- The head of core `q`'s FIFO moves to staging. -/
def Dev.takeOne (d : Dev) (q : Nat) : Dev :=
  match (d.core q).cap.fifo with
  | [] => d
  | r :: l => (d.modCore q fun c => { c with cap := { c.cap with fifo := l } }).stagePut q r

/-- RECORD_GENERATOR_TAKE: one VCLK of the die's record generator: at most four records, at most one of each core, round
robin between the cores that hold records (R265). -/
def execRecordGeneratorTake (n : Die) (s : State) : Out :=
  s.does fun d =>
    let t := tblGet 0 d.tgn.turn n
    let order := (List.range 16).map fun i => 16 * n.val + (t + i) % 16
    let qs := (order.filter fun q => (d.core q).cap.fifo != []).take 4
    match qs.getLast? with
    | none => d
    | some last =>
      let d := d.each qs Dev.takeOne
      { d with tgn := { d.tgn with turn := tblPut d.tgn.turn n ((last % 16 + 1) % 16) } }.stageSeen n

/-! ## The region of a site on a die (R268, R269) -/

/-- C, the record slots of the region. -/
def Dev.slots (d : Dev) (n s : Nat) : Nat := d.get (K.SFT_SIZE n s) * 2048

/-- The region's first address. -/
def Dev.regionBase (d : Dev) (n s : Nat) : Nat :=
  d.get (K.SFT_BASE_LO n s) / 2 ^ 16 * 2 ^ 16 + 2 ^ 32 * d.get (K.SFT_BASE_HI n s)

/-- The level: WR_PTR − RD_PTR modulo 2^32, RD_PTR held at 0 outside RING (R268). -/
def Dev.regionLevel (d : Dev) (n s : Nat) : Nat :=
  let rd := if d.get (K.SFT_MODE n s) = 2 then d.get (K.SFT_RD_PTR n s) else 0
  (d.get (K.SFT_WR_PTR n s) + 2 ^ 32 - rd) % 2 ^ 32

/-- The level of a region seen by its watermark, with the record and the fail event of a rise (R275, R278). -/
def Dev.regionSeen (d : Dev) (n s : Nat) : Dev :=
  let (d, rose) := d.levelSeen (d.regionLevel n s) (K.SFT_WM_MARK n s) (K.SFT_WM_PEAK n s) (K.SFT_WM_HIT n s)
  if rose then
    (d.wmRecord n cblkFLG (dieWin n + 0xE1000 + 64 * s + 32) (d.get (K.SFT_WM_PEAK n s)) (some s)).failEvt
      (d.siteCoresOn s n) 4
  else d

/-- A record's 32 bytes as one little-endian number (R261, Table 1). -/
def FRec.pack (r : FRec) : Nat :=
  let w0 := r.ty + 2 ^ 4 * r.phase + 2 ^ 6 * r.half + 2 ^ 7 * bit r.smiss + 2 ^ 8 * bit r.cnfl + 2 ^ 9 * bit r.abort
    + 2 ^ 10 * r.site + 2 ^ 16 * r.core + 2 ^ 20 * r.die + 2 ^ 22 * r.rep + 2 ^ 32 * r.bidx
  let w1 := r.cycle % 2 ^ 48 + 2 ^ 48 * r.ts
  w0 + 2 ^ 64 * w1 + 2 ^ 128 * r.w2 + 2 ^ 192 * r.w3

/-- Entries a pin group of core `q` has per APG address in BITMAP mode: H (R269). -/
def Dev.planeH (d : Dev) (q : Nat) : Nat := if (d.pinGroup q).length ≤ 64 then 1 else 2

/-- Bytes of core `q`'s plane (R269). -/
def Dev.planeBytes (d : Dev) (n s q : Nat) : Nat :=
  2 ^ (d.get (K.SFT_XW n s) + d.get (K.SFT_YW n s)) * d.planeH q * 8

/-- A FAIL record ORs its PMASK into its plane (R269). -/
def Dev.orPlane (d : Dev) (q : Nat) (r : FRec) : Dev :=
  let n := r.die
  let s := r.site
  let before := (d.siteCoresOn s n).filter fun p => decide (p < q)
  let base := d.regionBase n s + (before.map (d.planeBytes n s)).sum
  let xw := d.get (K.SFT_XW n s)
  let x := r.w2 % 2 ^ 32 % 2 ^ xw
  let y := r.w2 / 2 ^ 32 % 2 ^ d.get (K.SFT_YW n s)
  let a := base + 8 * (d.planeH q * (y * 2 ^ xw + x) + r.half)
  d.pokeNum a 8 (d.peekNum a 8 ||| r.w3)

/-- What became of a record at the region: stored, kept out by the mode, or lost (R268, R269). -/
inductive Stow where
  | stored | none | lost
  deriving DecidableEq, Repr

/-- A record reaches its region (R268, R269). `ahead` counts slots that a LOST record before it would take. -/
def Dev.stow (d : Dev) (q : Nat) (r : FRec) (ahead : Nat) : Dev × Stow :=
  let n := r.die
  let s := r.site
  let d := d.when (r.ty == ftEND && r.abort) fun d => d.put (K.SFT_ABORT n s) true
  let counted (d : Dev) : Dev := d.count48 (K.FLG_REC_LO_COUNT_LO n) (K.FLG_REC_HI_COUNT_HI n) (K.FLG_REC_HI_OVF n)
  match d.get (K.SFT_MODE n s) with
  | 0 => (d, .none)
  | 3 => if r.ty = ftFAIL ∧ r.phase = 0 then (counted (d.orPlane q r), .stored) else (d, .none)
  | _ =>
    let lv := d.regionLevel n s
    let c := d.slots n s
    if r.ty = ftFAIL ∨ r.ty = ftTIMEOUT then
      if c ≤ lv + ahead + 2 then
        let d := d.when (!d.on (K.SFT_FULL n s)) fun d =>
          let d := d.put (K.SFT_FULL n s) true
          if r.phase = 0 ∧ d.on (K.SFT_FULL_STOP n s) then d.captureStop s 0x09 else d
        (d.loseRec q r, .lost)
      else
        let d := d.pokeNum (d.regionBase n s + 32 * (d.get (K.SFT_WR_PTR n s) % c)) 32 r.pack
        (counted ((d.adv (K.SFT_WR_PTR n s)).regionSeen n s), .stored)
    else if c ≤ lv then (if r.ty = ftLOST then d else d.loseRec q r, .lost)
    else
      let d := d.pokeNum (d.regionBase n s + 32 * (d.get (K.SFT_WR_PTR n s) % c)) 32 r.pack
      (counted ((d.adv (K.SFT_WR_PTR n s)).regionSeen n s), .stored)

/-- A record would be stored behind a LOST record (R267, R268). -/
def Dev.stowFits (d : Dev) (r : FRec) : Bool :=
  let m := d.get (K.SFT_MODE r.die r.site)
  if m = 0 ∨ m = 3 then true
  else
    let lv := d.regionLevel r.die r.site
    let c := d.slots r.die r.site
    if r.ty = ftFAIL ∨ r.ty = ftTIMEOUT then decide (lv + 3 < c) else decide (lv + 1 < c)

/-! ## Register writes of the block -/

/-- RD_PTR written (R268, Table 4): in RING mode alone; a write that would make the level exceed C or go negative is
ignored with WR_REFUSED; an accepted one ends FULL (Table 9). -/
def Dev.rdPtrWrite (d : Dev) (n s v : Nat) : Dev :=
  if d.get (K.SFT_MODE n s) ≠ 2 then d
  else if d.slots n s < (d.get (K.SFT_WR_PTR n s) + 2 ^ 32 - v) % 2 ^ 32 then d.put (K.FLG_STATUS_WR_REFUSED n) true
  else
    let moved := d.get (K.SFT_RD_PTR n s) ≠ v
    let d := d.set (K.SFT_RD_PTR n s) v
    (if moved then d.put (K.SFT_FULL n s) false else d).regionSeen n s

end Sys2Proof.Machine
end

