-- ==== Sys2Proof/Machine/Pins.lean ====
section
/-! DEFINITION. One tester cycle at the pins: the VIQ's next cycle or the Curtain store's next row, the formatter's
edges, the recovered-strobe units, the judgement and its capture (R132, R196, R211, R222, R229 to R260). -/

namespace Sys2Proof.Machine

/-! ## Timing sets (R234 to R236) -/

/-- The six edge times of a set: T_D1, T_D2, T_E1, T_E2, T_S1, T_S2 are numbers 0 to 5 (Table 2). -/
def Dev.tsTime (d : Dev) (n j ts i : Nat) : Nat := d.get (K.TS_T n j ts i)

/-- Period of the domain of die channel `j`. -/
def Dev.chanPeriod (d : Dev) (n j : Nat) : Nat := d.get (K.TGN_PD_PERIOD_PERIOD n (d.get (K.CHAN_PD n j)))

/-- Set `ts` of die channel `j` is valid (R236). -/
def Dev.tsValid (d : Dev) (n j ts : Nat) : Bool :=
  let per := d.get (K.TS_PER n j ts)
  let df := d.get (K.TS_FMT_DFMT n j ts)
  let ef := d.get (K.TS_FMT_EFMT n j ts)
  let cf := d.get (K.TS_FMT_CFMT n j ts)
  let t := d.tsTime n j ts
  let r := d.get (K.TS_FMT_RSU n j ts)
  per == d.chanPeriod n j && decide (df ≤ 4) && decide (cf ≤ 2) &&
    (if df ≤ 3 then decide (2000 ≤ per) && decide (t 0 + 500 ≤ t 1)
      else decide (500 ≤ per) && ef == 0 && cf != 1 && t 1 == 0 && t 3 == 0 && t 5 == 0) &&
    (df != 3 || (ef == 0 && decide (t 1 + 500 ≤ t 3))) &&
    (ef == 0 || decide (t 2 + 500 ≤ t 3)) &&
    (if cf = 1 then decide (t 4 + 500 ≤ t 5) else t 5 == 0) &&
    (cf != 2 || (decide (t 4 ≤ 16000) && d.on (K.TGN_RSU_CFG_EN n r) &&
      d.get (K.CHAN_PD n (d.get (K.TGN_RSU_CFG_SRC n r))) == d.get (K.CHAN_PD n j))) &&
    (!(df == 0 && ef == 0) || t 3 == 0) &&
    (List.range 6).all fun i => (i == 4 && cf == 2) || decide (t i < per)

/-! ## The formatter (R235, R238, R250) -/

/-- A lane while its edges are applied: its level, the time of its last edge in tu from the cycle's start (negative
before it), and whether two edges lay closer than 500 tu. -/
structure Wire where
  level : Bool
  last : Option Int
  crowd : Bool
  deriving DecidableEq, Repr

/-- One edge: no transition when the level is the present one; else the distance to the lane's last edge is judged. -/
def Wire.edge (w : Wire) (e : Nat × Bool) : Wire :=
  if w.level = e.2 then w
  else
    let near := match w.last with
      | some t => decide ((e.1 : Int) - t < 500)
      | none => false
    { level := e.2, last := some e.1, crowd := w.crowd || near }

/-- The lane's last edge as seen from the end of a cycle of `p` tu, kept while a next edge could lie within 500 tu. -/
def Wire.rest (w : Wire) (p : Nat) : Option Nat :=
  match w.last with
  | some t => let b := ((p : Int) - t).toNat; if b < 500 then some b else none
  | none => none

/-- PE_D edges, PE_E edges and whether the cycle drives, for a symbol with APG bits resolved (Table 3). `t` are the edge
times, `lane` the lane at the end of the last cycle; in site cycle 0 K drives off. -/
def formatEdges (sym df ef ckf : Nat) (t : Nat → Nat) (lane : Lane) (cycle0 : Bool) :
    List (Nat × Bool) × List (Nat × Bool) × Bool :=
  let on := if ef = 1 then [(t 2, true), (t 3, false)] else [(t 2, true)]
  match sym with
  | 0x0 | 0x1 =>
    let v := sym == 1
    let dd := match df with
      | 1 => [(t 0, v), (t 1, false)]
      | 2 => [(t 0, v), (t 1, true)]
      | 3 => [(t 0, !v), (t 1, v), (t 3, !v)]
      | _ => [(t 0, v)]
    (dd, if df = 3 then [(t 2, true)] else on, true)
  | 0xE =>
    let dd := if df = 4 then [(t 0, !lane.d)] else if ckf = 0 then [(t 0, true), (t 1, false)] else [(t 0, false), (t 1, true)]
    (dd, if df = 3 ∨ df = 4 then [(t 2, true)] else on, true)
  | 0x7 => if cycle0 then ([], [(t 2, false)], false) else ([], [], lane.drove)
  | _ => ([], [(t 2, false)], false)

/-- The cycle's edges on the lanes of one channel; a crowded lane sets its TGN_CROWD bit and writes EDGE_CROWD (R238). An
invalid set turns the driver off at the cycle's start and leaves PE_D (R202). -/
def Dev.formatPin (d : Dev) (n j ts sym p cycle : Nat) (site : Option Nat) (valid cycle0 : Bool) : Dev :=
  let ch := 128 * n + j
  let lane := tblGet {} d.tgn.lanes ch
  let (de, ee, drove) :=
    if valid then
      formatEdges sym (d.get (K.TS_FMT_DFMT n j ts)) (d.get (K.TS_FMT_EFMT n j ts)) (d.get (K.TS_FMT_CKF n j ts))
        (d.tsTime n j ts) lane cycle0
    else ([], [(0, false)], false)
  let back (o : Option Nat) : Option Int := o.map fun b => -(b : Int)
  let wd := de.foldl Wire.edge ⟨lane.d, back lane.lastD, false⟩
  let we := ee.foldl Wire.edge ⟨lane.e, back lane.lastE, false⟩
  let lane' : Lane := { d := wd.level, e := we.level, drove := drove, lastD := wd.rest p, lastE := we.rest p }
  let d := { d with tgn := { d.tgn with lanes := tblPut d.tgn.lanes ch lane' } }
  if wd.crowd || we.crowd then
    (d.putBit (K.TGN_CROWD n (j / 32)) (j % 32) true).logBOn n 0x10D cblkTGN (cycle % 2 ^ 48 + 2 ^ 48 * j) site
  else d

/-! ## Compare (R196, R239 to R242, R257, R259) -/

/-- A symbol compares (R196). -/
def compares (sym : Nat) : Bool := [0x2, 0x3, 0x4, 0xF].contains sym

/-- The levels of PE_QH and PE_QL, not both 1, meet the symbol's pass condition (R196). -/
def meets (sym : Nat) (qh ql : Bool) : Bool :=
  match sym with
  | 0x2 => ql
  | 0x3 => qh
  | 0x4 => !qh && !ql
  | _ => qh || ql

/-- The edge that recovered-strobe unit `r` found in its window, in tu from the cycle's reference instant (R241). -/
def Dev.rsuEdge (d : Dev) (n r : Nat) (obs : PinObs) : Option Nat :=
  match obs.rsu.getD r none with
  | some t =>
    if d.on (K.TGN_RSU_CFG_EN n r) ∧ d.get (K.TGN_RSU_WIN_OPEN n r) ≤ t ∧ t < d.get (K.TGN_RSU_WIN_CLOSE n r) then some t
    else none
  | none => none

/-- The units whose source channel lies in core `q`'s pin group take the cycle: the earliest and latest edge, or a miss
(R241, R242). -/
def Dev.rsuCycle (d : Dev) (q : Nat) (obs : PinObs) : Dev :=
  let n := q / 16
  d.each (List.range 16) fun d r =>
    if !d.on (K.TGN_RSU_CFG_EN n r) || !(d.pinGroup q).contains (d.get (K.TGN_RSU_CFG_SRC n r)) then d
    else match d.rsuEdge n r obs with
      | some t => (d.set (K.TGN_RSU_STAT_MIN n r) (min t (d.get (K.TGN_RSU_STAT_MIN n r)))).set (K.TGN_RSU_STAT_MAX n r)
          (max t (d.get (K.TGN_RSU_STAT_MAX n r)))
      | none => d.bump (K.TGN_RSU_MISS n r)

/-- Channel `j` of die `n` is masked (R259). -/
def Dev.masked (d : Dev) (n j : Nat) : Bool := d.bitOf (K.CMP_MASK_ACT n (j / 32)) (j % 32)

/-- The judgement of position `p`, die channel `j`, added to a verdict; PED_CONFLICT when both lanes read 1 (R239 to
R242, R257, R259). -/
def Dev.judgePin (d : Dev) (n j ts sym p : Nat) (obs : PinObs) (v : Verdict) : Dev × Verdict :=
  if !compares sym then (d, v)
  else
    let cf := d.get (K.TS_FMT_CFMT n j ts)
    let qh := obs.qh.getLsbD p
    let ql := obs.ql.getLsbD p
    let miss := cf == 2 && (d.rsuEdge n (d.get (K.TS_FMT_RSU n j ts)) obs).isNone
    let both := !miss && ((qh && ql) || (cf == 1 && obs.both.getLsbD p))
    let fails := miss || both || (if cf = 1 then obs.contrary.getLsbD p else !meets sym qh ql)
    let d := d.when both fun d => d.putBit (K.PED_CONFLICT n (j / 32)) (j % 32) true
    let v := { v with seen := true }
    if !fails then (d, v)
    else if d.masked n j then (d.putBit (K.CMP_RAW n (j / 32)) (j % 32) true, { v with raw := v.raw + 2 ^ p })
    else (d, { v with fail := v.fail + 2 ^ p, smiss := v.smiss + (if miss then 2 ^ p else 0)
                      cnfl := v.cnfl + (if both then 2 ^ p else 0) })

/-! ## One cycle of one core -/

/-- The cycle of core `q` on its pins: formatter, lane levels and judgement (R235, R256, R257). A parked channel neither
drives nor compares (R78, R258). -/
def Dev.playPins (d : Dev) (q ts syms cycle : Nat) (cycle0 : Bool) (obs : PinObs) : Dev × Verdict :=
  let n := q / 16
  let pins := d.pinGroup q
  let site := d.coreSite q
  let valid := pins.all fun j => d.tsValid n j ts
  let d := d.when (!valid) fun d => d.logBOn n 0x10C cblkTGN (cycle % 2 ^ 48) site
  let d := d.rsuCycle q obs
  (List.range pins.length).foldl (fun (r : Dev × Verdict) p =>
    let j := pins.getD p 0
    let d := r.1
    if d.parked (128 * n + j) then r
    else
      let sym := bitsAt syms (4 * p) 4
      let d := d.formatPin n j ts sym (d.corePeriod q) cycle site valid cycle0
      let d := d.putBit (K.PED_QH n (j / 32)) (j % 32) (obs.qh.getLsbD p)
      let d := d.putBit (K.PED_QL n (j / 32)) (j % 32) (obs.ql.getLsbD p)
      if valid then d.judgePin n j ts sym p obs r.2 else (d, r.2)) (d, {})

/-- The cycle has passed: SEQ_CYCLE and the number of the next cycle. -/
def Dev.cyclePassed (d : Dev) (q : Nat) : Dev :=
  let n := q / 16
  let k := q % 16
  let d := d.count48 (K.SEQ_CYCLE_LO_COUNT_LO n k) (K.SEQ_CYCLE_HI_COUNT_HI n k) (K.SEQ_CYCLE_HI_OVF n k)
  d.modV q fun v => { v with cyc := v.cyc + 1 }

/-- SEQ_LEAD_WM sees the shortfall of the lead, in RUN and STOPPING alone (R154, Table 8). -/
def Dev.leadSeen (d : Dev) (q : Nat) : Dev :=
  let n := q / 16
  let k := q % 16
  if d.coreState q ≠ csRUN ∧ d.coreState q ≠ csSTOPPING then d
  else
    let (d, rose) := d.levelSeen (d.leadTarget q - (d.core q).v.lead) (K.SEQ_LEAD_WM_MARK n k) (K.SEQ_LEAD_WM_WM_PEAK n k)
      (K.SEQ_LEAD_WM_WM_HIT n k)
    if rose then
      d.wmRecord n k (dieWin n + 0x1000 * k + 0x24) (d.get (K.SEQ_LEAD_WM_WM_PEAK n k)) (d.coreSite q)
    else d

/-- The next cycle that the VIQ gives core `q`, the signals its entry sends as it begins, the VIQ and match-loop after
it, and whether it belongs to a match-loop's block: none while a boundary or the end of a pass must be taken first
(R132, R199, R211). -/
def VCore.nextCycle (v : VCore) : Option (VCyc × List (Nat × Nat) × VCore × Bool) :=
  match v.viq with
  | [] => none
  | e :: rest =>
    if e.bnd.isSome then none
    else if e.blk then
      match v.mloop with
      | some m =>
        match m.closed, m.left with
        | true, b :: more =>
          match b.cyc with
          | c :: cs =>
            let left := if cs = [] then more else { b with cyc := cs } :: more
            some (c, e.sigs, { v with viq := { e with sigs := [] } :: rest, mloop := some { m with left := left } }, true)
          | [] => none
        | _, _ => none
      | none => none
    else
      match e.cyc with
      | c :: cs => some (c, e.sigs, { v with viq := if cs = [] then rest else { e with cyc := cs, sigs := [] } :: rest }, false)
      | [] => none

/-- A match-loop of the core whose next cycle would begin a pass after the first: the end of a SEGIT pass (R216). -/
def VCore.atPass (v : VCore) : Bool :=
  match v.viq, v.mloop with
  | e :: _, some m => e.blk && e.bnd.isNone && m.closed && m.segit && m.left == m.block && m.passes != 0
  | _, _ => false

/-- A pattern cycle of core `q` (PHASE 0); none where an applied stop ends the segment at the end of a SEGIT pass (R216).
-/
def Dev.patternCycle (d : Dev) (q s : Nat) (obs : PinObs) : Dev :=
  let v := (d.core q).v
  let cut := match (d.site s).stopCyc with
    | some c => decide (c ≤ v.cyc)
    | none => false
  if cut || ((d.site s).applied && v.atPass) then d
  else
    match v.nextCycle with
    | none => d
    | some (c, sigs, v', inLoop) =>
      let d := d.modV q fun _ => v'
      let d := d.each sigs fun d p => d.send p.1 p.2
      let (d, r) := d.playPins q c.ts c.syms v.cyc (v.cyc == 0) obs
      let d :=
        if inLoop then d.modV q fun v => { v with mloop := v.mloop.map fun m =>
          { m with seen := m.seen || r.seen, failed := m.failed || r.fail != 0 } }
        else d.judged q s 0 v.cyc c.ts c.x c.y r
      ((d.cyclePassed q).pump q pumpFuel).leadSeen q

/-- The next row of a list of Curtain or Rocker records from a place (record, repeat, row), with the place after it
(R222). -/
def storeRow (recs : List CRec) (pos : Nat × Nat × Nat) : Option (Nat × Nat × (Nat × Nat × Nat)) :=
  match recs[pos.1]? with
  | none => none
  | some r =>
    let row := r.rows.getD pos.2.2 0
    let next := if pos.2.2 + 1 < r.rows.length then (pos.1, pos.2.1, pos.2.2 + 1)
      else if pos.2.1 + 1 < r.rep then (pos.1, pos.2.1 + 1, 0)
      else (pos.1 + 1, 0, 0)
    some (row, r.ts, next)

/-- A Curtain (PHASE 1) or Rocker (PHASE 2) cycle of core `q`; none while the last row has been played. -/
def Dev.storeCycle (d : Dev) (q s phase : Nat) (obs : PinObs) : Dev :=
  let v := (d.core q).v
  match storeRow (if phase = 1 then v.curtain else v.rocker) v.pos with
  | none => d
  | some (row, ts, pos) =>
    let d := d.modV q fun v => { v with pos := pos }
    let (d, r) := d.playPins q ts row v.cyc false obs
    (d.judged q s phase v.cyc ts 0 0 r).cyclePassed q

/-- A core of the site is behind core `q`: the cores of a site run in lockstep (R139). -/
def Dev.waitsFor (d : Dev) (q s : Nat) : Bool :=
  (d.siteCores s).any fun p => decide ((d.core p).v.cyc < (d.core q).v.cyc)

/-- Detectors 0x13 and 0x14 change what the pins of core `q` show in this cycle: both lanes of a die channel at 1; no
edge for a recovered-strobe unit whose source lies in the pin group (R546). Answers whether one did. -/
def Dev.injectObs (d : Dev) (q : Nat) (obs : PinObs) : Dev × PinObs × Bool :=
  let n := q / 16
  let pins := d.pinGroup q
  let (d, obs, hit) := match d.inject 0x13 fun u a => u == n && pins.contains a with
    | some (a, d) =>
      let m : BitVec 128 := BitVec.ofNat 128 (2 ^ pins.idxOf a)
      (d, { obs with qh := obs.qh ||| m, ql := obs.ql ||| m, both := obs.both ||| m }, true)
    | none => (d, obs, false)
  match d.inject 0x14 fun u a => u == n && decide (a < 16) && d.on (K.TGN_RSU_CFG_EN n a)
      && pins.contains (d.get (K.TGN_RSU_CFG_SRC n a)) with
  | some (a, d) => (d, { obs with rsu := obs.rsu.set a none }, true)
  | none => (d, obs, hit)

/-- The site's segment ends before cycle `c`, which core `q` lacks: it raises VIQ_UNDERRUN, unless a vector fault came
first (R135, R225). -/
def Dev.viqLacks (d : Dev) (q i c : Nat) : Dev :=
  let cut := match (d.site i).stopCyc with
    | some k => min k c
    | none => c
  let d := d.modSite i fun r => { r with stopCyc := some cut }
  if (d.core q).v.faulted then d else d.vecFaultPlain q fcUNDERRUN

/-- A pattern cycle of core `q`, whose entry detector 0x12 may withhold (R135, R546). -/
def Dev.dueCycle (d : Dev) (q i : Nat) (obs : PinObs) : Dev :=
  match d.inject 0x12 fun u a => u == q / 16 && a == q % 16 && (d.core q).v.viq != [] with
  | some (_, d) => d.asInjected fun d => d.viqLacks q i (d.core q).v.cyc
  | none => d.patternCycle q i obs

/-- The next cycle of core `q` of site `i`: a pattern, Curtain or Rocker cycle. -/
def Dev.anyCycle (d : Dev) (q i : Nat) (obs : PinObs) : Dev :=
  if d.siteIn i [stRunning] then d.dueCycle q i obs
  else if d.siteIn i [stCurtaining] then d.storeCycle q i 1 obs
  else if d.siteIn i [stRocking] then d.storeCycle q i 2 obs
  else d

/-- PIN_CYCLE: the next tester cycle of core `q` at the pins, with what its lanes show at its strobes. `obs.qh` and
`obs.ql` are the lanes by position; `both` and `contrary` tell for a window strobe that both lanes read 1, or that a
contrary state lasted 30 ps or more; `rsu` gives the first edge each recovered-strobe unit of the die saw. Without a
cycle to play the command has no effect. -/
def execPinCycle (q : CoreId) (obs : PinObs) (s : State) : Out :=
  s.does fun d =>
    match d.coreSite q with
    | none => d
    | some i =>
      if d.waitsFor q i || !d.siteIn i [stRunning, stCurtaining, stRocking] then d
      else match d.injectObs q obs with
        | (d, obs, true) => d.asInjected fun d => d.anyCycle q i obs
        | (d, obs, false) => d.anyCycle q i obs

end Sys2Proof.Machine
end

