-- ==== Sys2Proof/Machine/Crc.lean ====
section
/-! DEFINITION. CRC-32C, the Castagnoli CRC (R17, glossary of 00_scope.md). -/

namespace Sys2Proof.Machine

/-- One bit of the reflected CRC-32C register (PRESUMED: the published parameters of CRC-32C, log 18). -/
def crcBit (c : Nat) : Nat := if c % 2 = 1 then (c / 2) ^^^ 0x82F63B78 else c / 2

/-- `n` bits of the register. -/
def crcBits : Nat → Nat → Nat
  | 0, c => c
  | n + 1, c => crcBits n (crcBit c)

/-- One byte into the register. -/
def crcByte (c : Nat) (b : Byte) : Nat := crcBits 8 (c ^^^ b.toNat)

/-- The register after a list of bytes. -/
def crcBytes (c : Nat) : List Byte → Nat
  | [] => c
  | b :: l => crcBytes (crcByte c b) l

/-- The register before the first byte. -/
def crcInit : Nat := 0xFFFFFFFF

/-- The CRC that a register stands for. -/
def crcEnd (c : Nat) : Nat := c ^^^ 0xFFFFFFFF

/-- CRC-32C of a list of bytes. -/
def crc32c (l : List Byte) : Nat := crcEnd (crcBytes crcInit l)

/-- `n` bytes of a number, little-endian. -/
def leBytes : Nat → Nat → List Byte
  | _, 0 => []
  | v, n + 1 => BitVec.ofNat 8 v :: leBytes (v / 256) n

/-- The number that a list of bytes spells, little-endian. -/
def leNum : List Byte → Nat
  | [] => 0
  | b :: l => b.toNat + 256 * leNum l

end Sys2Proof.Machine
end

