-- ==== Sys2Proof/Machine/RpsOps.lean ====
section
/-! DEFINITION. The repair solver's parts: the map, the model of spares and cells, must-repair, unrepairable DUTs, the
search and the solution (R282 to R302). -/

namespace Sys2Proof.Machine

/-! ## Compare masks (R259, R260) -/

/-- CMP_MASK_ACT takes CMP_MASK's bit for each of a list of channels. -/
def Dev.applyMasks (d : Dev) (chans : List Nat) : Dev :=
  d.each chans fun d c =>
    d.putBit (K.CMP_MASK_ACT (c / 128) (c % 128 / 32)) (c % 32) (d.bitOf (K.CMP_MASK (c / 128) (c % 128 / 32)) (c % 32))

/-- The channels of sites that are Admitted, Running, Curtaining or Rocking (R260). -/
def Dev.activeChans (d : Dev) : List Nat := (allSites.filter fun s => d.siteIn s stActive).flatMap d.siteChans

/-- In the tick after a write the mask takes effect on every channel outside such a site (R260). -/
def Dev.masksNextTick (d : Dev) : Dev :=
  let act := d.activeChans
  let differs (n m : Nat) : Bool := d.get (K.CMP_MASK n m) != d.get (K.CMP_MASK_ACT n m)
  if (List.range 4).any fun n => (List.range 4).any fun m => differs n m then
    d.applyMasks ((List.range 512).filter fun c => differs (c / 128) (c % 128 / 32) && !act.contains c)
  else d

/-! ## The map (R284 to R286) -/

/-- The bits of `v` that `m` selects, packed from bit 0 (R285). -/
def gather (v m : Nat) : Nat :=
  ((List.range 64).foldl (fun (p : Nat × Nat) i =>
    if bitAt m i then (p.1 + bit (bitAt v i) * 2 ^ p.2, p.2 + 1) else p) (0, 0)).1

/-- Bits set in the low 64 of `m`. -/
def popcount (m : Nat) : Nat := ((List.range 64).filter (bitAt m)).length

/-- Offset of the region table in a map (R284). -/
def mapRegionOff : Nat := 16448

/-- A map's bytes read as R284 lays them out, when they meet every check of R286 (log 19: NREG outside 1 to 256 or a LEN
too short for the tables fails; DUT fields of VALID entries alone). -/
def parseMap (b : List Byte) : Option RMap :=
  let num (o n : Nat) : Nat := leNum ((b.drop o).take n)
  let w0 := num 0 8
  let ndut := bitsAt w0 48 4 + 1
  let rm := num 8 8
  let cm := num 16 8
  let gm := num 24 8
  let w4 := num 32 8
  let nreg := bitsAt w4 0 9
  let len := num 40 4
  let crc := num 44 4
  let zeroed := (b.take 44) ++ [0, 0, 0, 0] ++ ((b.take len).drop 48)
  let pins : Tbl Nat := (List.range 8192).filterMap fun i =>
    let e := num (64 + 2 * i) 2
    if bitAt e 4 then some (i, e) else none
  let share := (List.range 32).map fun i => num (mapRegionOff + 8 * nreg + i) 1
  let ok := bitsAt w0 0 32 == 0x52504D50 && bitsAt w0 32 16 == 1 && decide (len ≤ 32768) && decide (1 ≤ nreg) &&
    decide (nreg ≤ 256) && decide (mapRegionOff + 8 * nreg + 32 ≤ len) && decide (len ≤ b.length) &&
    crc32c zeroed == crc && decide (popcount rm ≤ 24) && decide (popcount cm ≤ 18) && decide (popcount gm ≤ 8) &&
    (rm &&& cm) == 0 && pins.all (fun e => decide (bitsAt e.2 0 4 < ndut)) && share.all (fun p => decide (p ≤ 16))
  if ok then
    some { ndut := ndut, rowmask := rm, colmask := cm, regmask := gm, nreg := nreg, pref := bitAt w4 12, pins := pins
           regions := (List.range nreg).map fun r => num (mapRegionOff + 8 * r) 8
           rpool := share.take 16, cpool := share.drop 16 }
  else none

/-- The pin table entry of an index, when VALID. -/
def RMap.pin (m : RMap) (i : Nat) : Option Nat := tblFind m.pins i

/-- MAPPED: one bit per DUT with a VALID pin-table entry (Table 13). -/
def RMap.mapped (m : RMap) : Nat := m.pins.foldl (fun a e => setBitAt a (bitsAt e.2 0 4)) 0

/-- Spares of its own of region `g` of a kind, 0 rows, 1 columns. -/
def RMap.ownSpares (m : RMap) (g k : Nat) : Nat := bitsAt (m.regions.getD g 0) (4 * k) 4

/-- The share group of region `g` for a kind, if it belongs to one. -/
def RMap.group (m : RMap) (g k : Nat) : Option Nat :=
  let w := m.regions.getD g 0
  if bitAt w (16 + k) then some (bitsAt w (8 + 4 * k) 4) else none

/-- The size of a pool. -/
def RMap.pool (m : RMap) (k grp : Nat) : Nat := (if k = 0 then m.rpool else m.cpool).getD grp 0

/-- Spares of all regions and pools: the S of R287. -/
def RMap.spares (m : RMap) : Nat :=
  ((List.range m.nreg).map fun g => m.ownSpares g 0 + m.ownSpares g 1).sum + m.rpool.sum + m.cpool.sum

/-! ## Spares and cells of a DUT (R282, R283) -/

/-- Free spares of its own of region `g` of a kind. -/
def Dut.freePriv (x : Dut) (m : RMap) (g k : Nat) : Nat :=
  m.ownSpares g k - (x.lines.filter fun l => l.region == g && l.kind == k && !l.shared).length

/-- Free spares of a pool. -/
def Dut.freePool (x : Dut) (m : RMap) (k grp : Nat) : Nat :=
  m.pool k grp - (x.lines.filter fun l => l.kind == k && l.shared && m.group l.region k == some grp).length

/-- R_max and C_max (R282). -/
def Dut.spareMax (x : Dut) (m : RMap) (g k : Nat) : Nat :=
  x.freePriv m g k + (match m.group g k with
    | some grp => x.freePool m k grp
    | none => 0)

/-- A line of a region has a spare. -/
def Dut.has (x : Dut) (g k v : Nat) : Bool := x.lines.any fun l => l.region == g && l.kind == k && l.line == v

/-- The cell is covered or already stored (R283). -/
def Dut.known (x : Dut) (c : Nat × Nat × Nat) : Bool :=
  x.has c.1 0 c.2.1 || x.has c.1 1 c.2.2 || x.cells.contains c

/-- The line of a cell, by kind. -/
def cellLine (k : Nat) (c : Nat × Nat × Nat) : Nat := if k = 0 then c.2.1 else c.2.2

/-- The least number of a list. -/
def least : List Nat → Option Nat
  | [] => none
  | a :: l => some (l.foldl min a)

/-- The first line of region `g` that must be repaired: a row of more cells than C_max, else a column of more than R_max,
in ascending line order (R290). -/
def Dut.mustLine (x : Dut) (m : RMap) (g : Nat) : Option (Nat × Nat) :=
  let cs := x.cells.filter fun c => c.1 == g
  let excess (k : Nat) : Option Nat :=
    let ls := cs.map (cellLine k)
    least (ls.filter fun v => decide (x.spareMax m g (1 - k) < ls.count v))
  match excess 0 with
  | some v => some (0, v)
  | none => (excess 1).map fun v => (1, v)

/-! ## Contexts in the device -/

/-- A site's context replaced. -/
def Dev.setRps (d : Dev) (s : Nat) (c : RCtx) : Dev := { d with rps := { d.rps with ctx := tblPut d.rps.ctx s c } }

/-- One DUT of a context. -/
def RCtx.dut (c : RCtx) (u : Nat) : Dut := c.duts.getD u {}

/-- One DUT of a context changed. -/
def RCtx.modDut (c : RCtx) (u : Nat) (f : Dut → Dut) : RCtx := { c with duts := c.duts.set u (f (c.dut u)) }

/-- A site's context, if any. -/
def Dev.rctx (d : Dev) (s : Nat) : Option RCtx := tblFind d.rps.ctx s

/-- A site's context changed, if any. -/
def Dev.modRps (d : Dev) (s : Nat) (f : RCtx → RCtx) : Dev :=
  match d.rctx s with
  | some c => d.setRps s (f c)
  | none => d

/-- STATE codes of a context (Table 13). -/
def rsFREE : Nat := 0
def rsCOLLECT : Nat := 1
def rsQUEUED : Nat := 2
def rsSOLVING : Nat := 3
def rsSOLVED : Nat := 4
def rsCANCELLED : Nat := 5

/-- STATE of the site's context. -/
def Dev.rpsState (d : Dev) (s : Nat) : Nat := d.get (K.RPSE_STATE s)

/-- A solver record: class B of the base die. -/
def Dev.rpsLog (d : Dev) (ty data s : Nat) : Dev := d.logBOn dieBD ty blkRPS data (some s)

/-- CELLS_USED set, its watermark seen (R291, R275). -/
def Dev.usedSet (d : Dev) (s v : Nat) : Dev :=
  let d := d.set (K.RPSE_CELLS_USED s) v
  let (d, rose) := d.levelSeen v (K.RPSE_MARK s) (K.RPSE_WM_PEAK s) (K.RPSE_WM_HIT s)
  if rose then d.wmRecord dieBD blkRPS (0x181000 + 64 * s + 44) (d.get (K.RPSE_WM_PEAK s)) (some s) else d

/-- An entry of the site's reservation is left (R291). -/
def Dev.entryLeft (d : Dev) (s : Nat) : Bool := decide (d.get (K.RPSE_CELLS_USED s) < 1024 * d.get (K.RPSE_CELLS s))

/-- The reservation is exhausted: the DUT is OVERFLOW (R291). -/
def Dev.overflow (d : Dev) (s u : Nat) : Dev :=
  match d.rctx s with
  | none => d
  | some c =>
    if (c.dut u).overflow then d
    else
      ((d.modRps s fun c => c.modDut u fun x => { x with overflow := true }).put (K.RPSE_OVERFLOW_ANY s) true).rpsLog 0x121
        (u + 2 ^ 8 * d.get (K.RPSE_CELLS_USED s)) s

/-! ## Unrepairable DUTs (R293 to R295) -/

/-- The channels whose VALID pin-table entry names DUT `u` (R295). -/
def Dev.dutChans (d : Dev) (m : RMap) (u : Nat) : List Nat :=
  m.pins.filterMap fun e =>
    if bitsAt e.2 0 4 = u then
      let q := e.1 / 128
      ((d.pinGroup q)[e.1 % 128]?).map fun j => 128 * (q / 16) + j
    else none

/-- The DUT becomes UNREPAIRABLE, for good: UNREP, reason and region, RPS_UNREP, the stop of STOP_POL and the masks of
MASK_UNREP (R293 to R295). -/
def Dev.unrepair (d : Dev) (s u reason region : Nat) : Dev :=
  match d.rctx s with
  | none => d
  | some c =>
    if (c.dut u).unrep then d
    else
      let d := d.modRps s fun c => c.modDut u fun x =>
        { x with unrep := true, reason := reason, ureg := region % 256, early := reason != 4 }
      let d := d.putBit (K.RPSE_UNREP s) u true
      let d := d.rpsLog 0x111 (u + 2 ^ 4 * reason + 2 ^ 8 * (region % 256)) s
      let pol := d.get (K.RPSE_STOP_POL s)
      let all := (List.range 16).all fun v => !bitAt c.map.mapped v || d.bitOf (K.RPSE_UNREP s) v
      let d :=
        if (pol = 1 ∨ (pol = 2 ∧ all)) ∧ !c.stopAsked then
          (d.modRps s fun c => { c with stopAsked := true }).stopReq s 0x0B
        else d
      if d.on (K.RPSE_MASK_UNREP s) then
        d.each (d.dutChans c.map u) fun d ch => d.putBit (K.CMP_MASK (ch / 128) (ch % 128 / 32)) (ch % 32) true
      else d

/-! ## Must-repair (R290, R291) -/

/-- A spare is assigned to a line and the cells it covers are freed. -/
def Dut.assign (x : Dut) (m : RMap) (g k v : Nat) : Dut :=
  { x with lines := x.lines ++ [⟨g, k, v, x.freePriv m g k == 0⟩]
           cells := x.cells.filter fun c => !(c.1 == g && cellLine k c == v) }

/-- One line at a time, must-repair of the regions `todo` in order; a pool assignment adds the group's other regions in
ascending order; `fuel` bounds the assignments and regions. After a region's closure the bound of R290 is judged. -/
def Dev.closure (d : Dev) (s u : Nat) : Nat → List Nat → Dev
  | 0, _ => d
  | _, [] => d
  | fuel + 1, g :: todo =>
    match d.rctx s with
    | none => d
    | some c =>
      let x := c.dut u
      let m := c.map
      let judge (d : Dev) : Dev :=
        match d.rctx s with
        | none => d
        | some c =>
          let x := c.dut u
          let n := (x.cells.filter fun t => t.1 == g).length
          if 2 * x.spareMax m g 0 * x.spareMax m g 1 < n then d.unrepair s u 2 g else d
      match x.mustLine m g with
      | none => Dev.closure (judge d) s u fuel todo
      | some (k, v) =>
        if x.spareMax m g k = 0 then Dev.closure (judge (d.unrepair s u 1 g)) s u fuel todo
        else if !d.entryLeft s then Dev.closure (judge (d.overflow s u)) s u fuel todo
        else
          let x' := x.assign m g k v
          let gone := x.cells.length - x'.cells.length
          let d := d.modRps s fun c => c.modDut u fun _ => x'
          let d := (d.usedSet s (d.get (K.RPSE_CELLS_USED s) + 1 - gone)).bump (K.RPSE_MUST_LINES s)
          let more := if x.freePriv m g k = 0 then
              (List.range m.nreg).filter fun h => h != g && m.group h k == m.group g k && !todo.contains h
            else []
          Dev.closure d s u fuel (g :: (todo ++ more).mergeSort (fun a b => decide (a ≤ b)))

/-- A bound on the steps of a closure: every spare once, and every region once more for each pool spare. -/
def closureFuel (m : RMap) : Nat := (m.spares + 1) * (m.nreg + 1)

/-- A cell operation: the cell is stored, when it is neither covered nor stored and an entry is left, and must-repair
follows (R283, R290, R291). -/
def Dev.cellOp (d : Dev) (o : CellOp) : Dev :=
  match d.rctx o.site with
  | none => d
  | some c =>
    let x := c.dut o.dut
    if x.overflow || x.known o.cell then d
    else if !d.entryLeft o.site then d.overflow o.site o.dut
    else
      let d := d.modRps o.site fun c => c.modDut o.dut fun x => { x with cells := x.cells ++ [o.cell] }
      let d := d.usedSet o.site (d.get (K.RPSE_CELLS_USED o.site) + 1)
      d.closure o.site o.dut (closureFuel c.map) [o.cell.1]

/-! ## The search (R297, R298) -/

/-- A line chosen by a search: region, kind, line. -/
abbrev SLine := Nat × Nat × Nat

/-- Shared spares that added lines need, or none when the lines do not fit the spares left (R298). -/
def Dut.fit (x : Dut) (m : RMap) (cur : List SLine) : Option Nat :=
  let excess (g k : Nat) : Nat := (cur.filter fun l => l.1 == g && l.2.1 == k).length - x.freePriv m g k
  let alone := (List.range m.nreg).all fun g => [0, 1].all fun k => excess g k == 0 || (m.group g k).isSome
  let need (k grp : Nat) : Nat :=
    ((List.range m.nreg).map fun g => if m.group g k = some grp then excess g k else 0).sum
  let fits := (List.range 16).all fun grp => [0, 1].all fun k => decide (need k grp ≤ x.freePool m k grp)
  if alone && fits then some (((List.range 16).map fun grp => need 0 grp + need 1 grp).sum) else none

/-- Every cover that takes, for the first cell not yet covered, its row or its column: among them is every cover with
the fewest lines. `fuel` is at least the number of cells. -/
def Dut.covers (x : Dut) (m : RMap) : Nat → List (Nat × Nat × Nat) → List SLine → List (List SLine)
  | 0, cells, cur => if cells = [] then [cur] else []
  | fuel + 1, cells, cur =>
    match cells with
    | [] => [cur]
    | c :: _ =>
      [0, 1].flatMap fun k =>
        let l : SLine := (c.1, k, cellLine k c)
        if (x.fit m (l :: cur)).isNone then []
        else Dut.covers x m fuel (cells.filter fun t => !(t.1 == c.1 && cellLine k t == cellLine k c)) (l :: cur)

/-- Region, then rows before columns, then line (R298, R302). -/
def slineLe (a b : SLine) : Bool :=
  if a.1 ≠ b.1 then decide (a.1 < b.1) else if a.2.1 ≠ b.2.1 then decide (a.2.1 < b.2.1) else decide (a.2.2 ≤ b.2.2)

/-- Lexicographic order of two lists of lines. -/
def slinesLt : List SLine → List SLine → Bool
  | [], [] => false
  | [], _ => true
  | _, [] => false
  | a :: l, b :: r => if a = b then slinesLt l r else slineLe a b

/-- `a` comes before `b` under the order of R298. -/
def Dut.better (x : Dut) (m : RMap) (a b : List SLine) : Bool :=
  let k := if m.pref then 1 else 0
  let sh (l : List SLine) : Nat := (x.fit m l).getD 0
  let side (l : List SLine) : Nat := (l.filter fun t => t.2.1 == k).length
  let all (l : List SLine) : List SLine := ((x.lines.map fun t => (t.region, t.kind, t.line)) ++ l).mergeSort slineLe
  if a.length ≠ b.length then decide (a.length < b.length)
  else if sh a ≠ sh b then decide (sh a < sh b)
  else if side a ≠ side b then decide (side a < side b)
  else slinesLt (all a) (all b)

/-- The choice of a search that completes: the first cover under the order of R298, or none. -/
def Dut.search (x : Dut) (m : RMap) : Option (List SLine) :=
  match x.covers m x.cells.length x.cells [] with
  | [] => none
  | a :: l => some (l.foldl (fun best t => if x.better m t best then t else best) a)

/-- The lines cover every stored cell and fit the spares left. -/
def Dut.isCover (x : Dut) (m : RMap) (cur : List SLine) : Bool :=
  (x.fit m cur).isSome && x.cells.all fun c => cur.contains (c.1, 0, c.2.1) || cur.contains (c.1, 1, c.2.2)

/-! ## The solution (R299, R302) -/

/-- The element entries of a DUT: its lines assigned in line and the lines added, in entry order; own spares are
taken first, in that order (log 20), and spares are numbered as R302 states. -/
def Dut.elements (x : Dut) (m : RMap) (added : List SLine) : List Nat :=
  let ls : List (SLine × Option Bool) :=
    ((x.lines.map fun (t : RLine) => (((t.region, t.kind, t.line) : SLine), some t.shared)) ++ added.map fun t => (t, none)).mergeSort
      fun a b => slineLe a.1 b.1
  (ls.foldl (fun (p : List Nat × List (Nat × Nat × Nat) × List (Nat × Nat × Nat)) (e : SLine × Option Bool) =>
    let (out, news, used) := p
    let g := e.1.1
    let k := e.1.2.1
    let taken := (news.filter fun t => t.1 == g && t.2.1 == k).length
    let shared := match e.2 with
      | some b => b
      | none => decide (x.freePriv m g k ≤ taken)
    let news := if e.2.isNone && !shared then (g, k, 0) :: news else news
    let pool : Nat × Nat × Nat := if shared then (1, k, (m.group g k).getD 0) else (0, k, g)
    let n := (used.filter (· == pool)).length
    let w := k + 2 * bit shared + 4 * bit e.2.isSome + 2 ^ 4 * (n % 16) + 2 ^ 8 * (g % 256) + 2 ^ 16 * (e.1.2.2 % 2 ^ 24)
    (out ++ [w], news, pool :: used)) ([], [], [])).1

/-- The DUT section of a solution: its header and elements, as bytes (Tables 2 and 4). `added` is the assignment found,
`opt` whether the search completed, `und` whether it ended undecided; `cells` the stored cells at the start. -/
def Dut.section' (x : Dut) (m : RMap) (u : Nat) (added : List SLine) (opt und : Bool) (steps : Nat) : List Byte :=
  let cells := x.cells.length
  let noFail := x.cells == [] && x.lines == []
  let out := if x.unrep then 5 else if x.overflow then 4 else if und then 3 else if x.lost || x.drop then 2
    else if noFail then 0 else 1
  let els := if out = 0 then [] else if out ≤ 2 then x.elements m added else x.elements m []
  let w0 := u + 2 ^ 4 * out + 2 ^ 8 * bit (opt && (out == 1 || out == 2)) + 2 ^ 9 * bit x.lost + 2 ^ 10 * bit x.drop
    + 2 ^ 11 * bit x.early + 2 ^ 12 * (if x.unrep then x.reason else 0) + 2 ^ 16 * els.length + 2 ^ 32 * x.ureg
  leBytes w0 8 ++ leBytes ((steps + 999) / 1000 + 2 ^ 32 * cells) 8 ++ els.flatMap fun e => leBytes e 8

end Sys2Proof.Machine
end

