-- ==== Sys2Proof/Machine/Rps.lean ====
section
/-! DEFINITION. The repair solver's events and commands, its contexts at admission, release and resume, and the drain of
fail staging that feeds it (R266 to R273, R285 to R306). -/

namespace Sys2Proof.Machine

/-! ## Intake (R272, R289) -/

/-- RPS_INTAKE_LVL follows the level, and its watermark sees it (R289, R275). -/
def Dev.intakeSeen (d : Dev) (n : Nat) : Dev :=
  let lv := (tblGet [] d.rps.intake n).length
  let d := d.set (K.RPS_INTAKE_LVL n) lv
  let (d, rose) := d.levelSeen lv (K.RPS_INTAKE_WM_MARK n) (K.RPS_INTAKE_PEAK_WM_PEAK n) (K.RPS_INTAKE_PEAK_WM_HIT n)
  if rose then d.wmRecord dieBD blkRPS (0x180030 + 4 * n) (d.get (K.RPS_INTAKE_PEAK_WM_PEAK n)) none else d

/-- A record that finds its die's intake full is not analysed (R289). -/
def Dev.intakeDrop (d : Dev) (r : FRec) : Dev :=
  let d := d.count48 K.RPS_DROP_LO_COUNT_LO K.RPS_DROP_HI_COUNT_HI K.RPS_DROP_HI_OVF
  let d := d.put K.RPS_STATUS_DROP_ANY true
  let d := (d.modRps r.site fun c => { c with duts := c.duts.map fun x => { x with drop := true } })
  let d := d.when (d.rctx r.site).isSome fun d =>
    (d.bump (K.RPSE_RDROP r.site)).put (K.RPSE_DROP_ANY r.site) true
  d.rpsLog 0x114 1 r.site

/-- Detector 0x16 makes a die's intake act as full for ARG records (R546). Answers whether it does for this one. -/
def Dev.intakeStuffed (d : Dev) (n : Nat) : Dev × Bool :=
  let put (d : Dev) (k : Nat) : Dev :=
    { d with rps := { d.rps with stuffed := if k = 0 then tblErase d.rps.stuffed n else tblPut d.rps.stuffed n k } }
  let left := tblGet 0 d.rps.stuffed n
  if left ≠ 0 then (put d (left - 1), true)
  else match d.inject 0x16 fun u a => u == n && a != 0 with
    | some (a, d) => (put d (a - 1), true)
    | none => (d, false)

/-- A record enters its die's intake, or is not analysed when 32,768 are held (R289). -/
def Dev.intakePut (d : Dev) (r : FRec) : Dev :=
  match d.intakeStuffed r.die with
  | (d, true) => d.asInjected fun d => d.intakeDrop r
  | (d, false) =>
    let l := tblGet [] d.rps.intake r.die
    if l.length < 32768 then
      { d with rps := { d.rps with intake := tblPut d.rps.intake r.die (l ++ [r]) } }.intakeSeen r.die
    else d.intakeDrop r

/-! ## The drain of staging (R266 to R273) -/

/-- A record that leaves staging is stored, and delivered to the solver with TO_RPS unless its PHASE is 1 or 2 or it is
lost (R267, R268, R272). -/
def Dev.storeRec (d : Dev) (q : Nat) (r : FRec) (ahead : Nat) : Dev × Stow :=
  let r := if r.ty = ftEND then
      let c := (d.core q).cap
      { r with w2 := min c.stored 0xFFFFFFFF + 2 ^ 32 * min c.lostAll 0xFFFFFFFF }
    else r
  let (d, st) := d.stow q r ahead
  if st = .lost then (d, st)
  else
    let d := d.when (st == .stored && r.ty != ftEND) fun d =>
      d.modCore q fun c => { c with cap := { c.cap with stored := min (c.cap.stored + 1) 0xFFFFFFFF } }
    (if d.on (K.SFT_TO_RPS r.die r.site) ∧ r.phase = 0 ∧ d.variant.hasRps then d.intakePut r else d, st)

/-- CLOSED is set when every core of the site on the die has an END record behind it and the share is empty (R273). -/
def Dev.closeShare (d : Dev) (n s : Nat) : Dev :=
  let ended := (d.siteCoresOn s n).all fun q => (d.core q).cap.ended && (d.core q).cap.fifo == []
  if ended && tblGet [] d.tgn.staging (stageKey n s) == [] && d.siteCoresOn s n != [] then
    d.put (K.SFT_CLOSED n s) true
  else d

/-- STAGING_DRAIN: a drain slot of a site on a die: the oldest record of its share leaves staging; a LOST record that
its core owes is stored before it (R266, R267, R271). -/
def execStagingDrain (n : Die) (i : SiteId) (s : State) : Out :=
  s.does fun d =>
    match tblGet [] d.tgn.staging (stageKey n i) with
    | [] => d
    | r :: l =>
      let d := { d with tgn := { d.tgn with staging := tblPut d.tgn.staging (stageKey n i) l } }
      let q := 16 * r.die + r.core
      let d := match (d.core q).cap.lost with
        | none => (d.storeRec q r 0).1
        | some (k, cy, b) =>
          if d.stowFits r then
            let (d, st) := d.storeRec q { d.frec q r.site ftLOST 0 cy with bidx := b, w2 := k } 0
            let d := if st = Stow.lost then d
              else d.modCore q fun c => { c with cap := { c.cap with lost := none } }
            (d.storeRec q r 0).1
          else (d.storeRec q r 1).1
      (d.stageSeen n).closeShare n i

/-! ## The solve queue (R296) -/

/-- The context is queued: served in the order of queueing, sites of one tick in ascending number. -/
def Dev.queueSolve (d : Dev) (s trigger : Nat) : Dev :=
  let d := d.modRps s fun c => { c with trigger := trigger }
  let d := d.set (K.RPSE_STATE s) rsQUEUED
  let e := (d.tti, s)
  let le (a b : Nat × Nat) : Bool := decide (a.1 < b.1) || (a.1 == b.1 && decide (a.2 ≤ b.2))
  { d with rps := { d.rps with queue := (d.rps.queue ++ [e]).mergeSort le } }

/-- Every core of the site has ended for the current stop. -/
def RCtx.allEnded (c : RCtx) : Bool := c.cores.all fun q => c.ended.contains q

/-- A final solve is queued when every core has ended and AUTO_SOLVE with a cause END or RPS_UNREPAIRABLE, or an accepted
SOLVE, asks for it (R296). -/
def Dev.trySolve (d : Dev) (s : Nat) : Dev :=
  match d.rctx s with
  | none => d
  | some c =>
    let busy := d.rpsState s == rsQUEUED || d.rpsState s == rsSOLVING
    let cause := d.get (K.SITE_CAUSE s)
    if busy || !c.allEnded then d
    else if c.solveReq then d.queueSolve s 2
    else if d.on (K.RPSE_AUTO_SOLVE s) ∧ cause = 0x05 then d.queueSolve s 0
    else if d.on (K.RPSE_AUTO_SOLVE s) ∧ cause = 0x0B then d.queueSolve s 1
    else d

/-- A QUEUED or SOLVING solve is cancelled: no solution, STATE CANCELLED, RPS_CANCELLED (R300, R301, R304). -/
def Dev.cancelSolve (d : Dev) (s : Nat) : Dev :=
  if d.rpsState s = rsQUEUED ∨ d.rpsState s = rsSOLVING then
    let d := { d with rps := { d.rps with queue := d.rps.queue.filter (·.2 != s), busy := d.rps.busy.filter (· != s) } }
    (d.set (K.RPSE_STATE s) rsCANCELLED).rpsLog 0x113 0 s
  else d

/-! ## The events -/

/-- A failing bit's place in the map: the DUT and cell, a fail outside the map with its DUT and region, or an ignored
pin (R285). -/
inductive BitMap' where
  | ignored
  | outside (dut region : Nat)
  | cell (dut : Nat) (c : Nat × Nat × Nat)
  deriving DecidableEq, Repr

/-- R285 for bit `i` of a record's PMASK. -/
def RMap.place (m : RMap) (r : FRec) (i : Nat) : BitMap' :=
  match m.pin ((16 * r.die + r.core) * 128 + 64 * r.half + i) with
  | none => .ignored
  | some e =>
    let row := gather r.w2 m.rowmask
    let col := bitsAt e 5 6 * 2 ^ popcount m.colmask + gather r.w2 m.colmask
    let region := bitsAt e 11 5 * 2 ^ popcount m.regmask + gather r.w2 m.regmask
    if m.nreg ≤ region then .outside (bitsAt e 0 4) region else .cell (bitsAt e 0 4) (region, row, col)

/-- The mapping stage takes a FAIL record: its bits in ascending position (R285). -/
def Dev.mapFail (d : Dev) (c : RCtx) (r : FRec) : Dev :=
  d.each ((List.range 64).filter (bitAt r.w3)) fun d i =>
    match c.map.place r i with
    | .ignored => d.bump (K.RPSE_IGNORED r.site)
    | .outside u g => (d.bump (K.RPSE_UNMAPPED r.site)).unrepair r.site u 3 g
    | .cell u t =>
      let x := match d.rctx r.site with
        | some c => c.dut u
        | none => {}
      if x.known t then d
      else
        let l := tblGet [] d.rps.ops r.die
        { d with rps := { d.rps with ops := tblPut d.rps.ops r.die (l ++ [⟨r.site, u, t⟩]) } }

/-- DUTs with a VALID pin-table entry for a die and core (R292). -/
def RMap.dutsOf (m : RMap) (q : Nat) : List Nat :=
  (m.pins.filter fun e => e.1 / 128 == q).map fun e => bitsAt e.2 0 4

/-- RPS_MAPPING: the mapping stage takes the oldest record of a die's intake once every record before it has been applied
(R285, R289, R292). -/
def execRpsMapping (n : Die) (s : State) : Out :=
  s.does fun d =>
    match tblGet [] d.rps.intake n with
    | [] => d
    | r :: l =>
      if tblGet [] d.rps.ops n ≠ [] then d
      else
        let d := { d with rps := { d.rps with intake := tblPut d.rps.intake n l } }.intakeSeen n
        match d.rctx r.site with
        | none => d
        | some c =>
          let q := 16 * r.die + r.core
          if r.ty = ftFAIL then d.mapFail c r
          else if r.ty = ftLOST then
            let us := c.map.dutsOf q
            let d := d.each us fun d u => d.modRps r.site fun c => c.modDut u fun x => { x with lost := true }
            if us = [] then d else d.put (K.RPSE_LOST_ANY r.site) true
          else if r.ty = ftEND then
            let d := d.modRps r.site fun c =>
              { c with ended := q :: c.ended.erase q, ends := tblPut c.ends q (r.w2 % 2 ^ 32, r.w2 / 2 ^ 32) }
            let d := if r.abort then d.put (K.RPSE_ABORTED r.site) true else d
            d.trySolve r.site
          else d

/-- CELL_OPERATION: a die's cell engine takes its oldest cell operation (R290, R291). -/
def execCellOperation (n : Die) (s : State) : Out :=
  s.does fun d =>
    match tblGet [] d.rps.ops n with
    | [] => d
    | o :: l => { d with rps := { d.rps with ops := tblPut d.rps.ops n l } }.cellOp o

/-- SOLVE_ENGINE_TAKE: a free engine of the eight takes the head of the queue (R296). -/
def execSolveEngineTake (s : State) : Out :=
  s.does fun d =>
    match d.rps.queue with
    | [] => d
    | (_, i) :: l =>
      if 8 ≤ d.rps.busy.length then d
      else { d with rps := { d.rps with queue := l, busy := d.rps.busy ++ [i] } }.set (K.RPSE_STATE i) rsSOLVING

/-- First address of the solution of a site: SOL_BASE (R302). -/
def Dev.solBase (d : Dev) (s : Nat) : Nat := d.get (K.RPSE_SOL_LO s) / 4096 * 4096 + 2 ^ 32 * d.get (K.RPSE_SOL_HI s)

/-- The search of DUT `u` ended as `e` says: an UNREPAIRABLE finding when a completed search finds no assignment, whose
region R293 does not name and is free; and the lines added, whether it completed and whether it is undecided. -/
def Dev.solveDut (d : Dev) (s u : Nat) (e : SolveEnd) : Dev × List SLine × Bool × Bool × Nat :=
  match d.rctx s with
  | none => (d, [], false, false, 0)
  | some c =>
    let x := c.dut u
    if x.unrep then (d, [], false, false, 0)
    else
      let steps := if x.cells = [] then 0 else e.steps
      let complete :=
        match x.search c.map with
        | some l => (d, l, true, false, steps)
        | none =>
          let (g, d) := d.freeVal u
          (d.unrepair s u 4 g, [], false, false, steps)
      if x.cells = [] then complete
      else match e.fin with
        | .complete => complete
        | .best l =>
          let cur : List SLine := l.map fun t => (t.1, bit t.2.1, t.2.2)
          if x.isCover c.map cur then (d, cur, false, false, steps) else (d, [], false, true, steps)
        | .cut => (d, [], false, true, steps)

/-- The DUT sections of a solution in ascending DUT number. -/
def Dev.solveAll (d : Dev) (s : Nat) (res : List SolveEnd) : Nat → Nat → Dev × List Byte
  | 0, _ => (d, [])
  | k + 1, u =>
    let (d, added, opt, und, steps) := d.solveDut s u (res.getD u ⟨.complete, 0⟩)
    let sec := match d.rctx s with
      | some c => (c.dut u).section' c.map u added opt und steps
      | none => []
    let (d, rest) := Dev.solveAll d s res k (u + 1)
    (d, sec ++ rest)

/-- The device address is HBM or base SRAM. -/
def isMem (a : Nat) : Bool :=
  match regionOf a with
  | .reg => false
  | .flash => false
  | .user _ => false
  | .unmapped => false
  | _ => true

/-- SOLUTION_WRITTEN: the last word of the solution of a SOLVING site becomes visible: the solution at SOL_BASE, SOLVED,
SOL_READY, SEQ, RPS_SOLVED, the event and the interrupt (R297 to R303). `res` tells how each DUT's search ended. -/
def execSolutionWritten (i : SiteId) (res : List SolveEnd) (s : State) : Out :=
  s.does fun d =>
    match d.rctx i with
    | none => d
    | some c =>
      if d.rpsState i ≠ rsSOLVING then d
      else
        let (d, body) := d.solveAll i res c.map.ndut 0
        let seq := (c.seq + 1) % 2 ^ 32
        let len := 32 + body.length
        let w0 := 1 + 2 ^ 16 * i.val + 2 ^ 24 * c.map.ndut + 2 ^ 32 * seq
        let w2 := len + 2 ^ 32 * d.get (K.RPSE_ABORTED i) + 2 ^ 33 * c.trigger
        let hdr (crc : Nat) : List Byte := leBytes w0 8 ++ leBytes d.tti 8 ++ leBytes w2 8 ++ leBytes crc 8
        let sol := hdr (crc32c (hdr 0 ++ body)) ++ body
        let a := d.solBase i
        let d := if isMem a then d.pokeBytes a sol else d
        let d := d.modRps i fun c => { c with seq := seq }
        let d := { d with rps := { d.rps with busy := d.rps.busy.filter (· != i.val) } }
        let d := ((d.set (K.RPSE_STATE i) rsSOLVED).put (K.RPSE_SOL_READY i) true).set (K.RPSE_SEQ i) seq
        let d := d.rpsLog 0x112 (d.get (K.RPSE_UNREP i) + 2 ^ 16 * (seq % 256)) i
        let d := d.when (d.on (K.RPSE_EVT_EN i)) fun d =>
          let q := d.get (K.RPSE_EVT_CORE i)
          if d.corePresent q then d.send q (d.get (K.RPSE_EVT_IN i)) else d
        d.when (d.on (K.RPSE_IRQ_EN i)) fun d => d.irq 2

/-! ## Admission, release, resume and commands (R287, R288, R300, R301, R304) -/

/-- The map that a site's solver entry names, when it meets R286 (R284). -/
def Dev.readMap (d : Dev) (s : Nat) : Option RMap :=
  let a := d.get (K.RPSE_MAP_LO s) / 64 * 64 + 2 ^ 32 * d.get (K.RPSE_MAP_HI s)
  let len := d.peekNum (a + 40) 4
  if isMem a ∧ isMem (a + len) ∧ len ≤ 32768 then parseMap (d.peekBytes a (max len 64)) else none

/-- The CELLS of the contexts held, beyond that of site `s` (R287). -/
def Dev.cellsHeld (d : Dev) (s : Nat) : Nat :=
  ((d.rps.ctx.filter fun e => e.1 != s).map fun e => d.get (K.RPSE_CELLS e.1)).sum

/-- Admission's check of a site whose dies are `ns` (R272, R286, R287). -/
def Dev.solverOk (d : Dev) (s : Nat) (ns : List Nat) : Bool :=
  let tos := ns.map fun n => d.on (K.SFT_TO_RPS n s)
  if tos.all (!·) then true
  else if !tos.all id || !d.variant.hasRps then false
  else match d.readMap s with
    | none => false
    | some m =>
      let cells := d.get (K.RPSE_CELLS s)
      cells != 0 && decide (d.cellsHeld s + cells ≤ 4096) &&
        decide (32 + 16 * m.ndut + 8 * m.ndut * m.spares ≤ d.get (K.RPSE_SOL_SIZE s)) &&
        d.rpsState s != rsQUEUED && d.rpsState s != rsSOLVING

/-- A context with every DUT empty (R288). -/
def RCtx.fresh (m : RMap) (cores : List Nat) : RCtx := { map := m, cores := cores, duts := List.replicate m.ndut {} }

/-- Words 7 to 14 of the solver entry as a reset context has them (R288). -/
def Dev.rpsWords (d : Dev) (s state mapped : Nat) : Dev :=
  let d := d.each [K.RPSE_SOL_READY s, K.RPSE_ABORTED s, K.RPSE_LOST_ANY s, K.RPSE_DROP_ANY s, K.RPSE_OVERFLOW_ANY s,
    K.RPSE_SEQ s, K.RPSE_UNREP s, K.RPSE_CELLS_USED s, K.RPSE_WM_PEAK s, K.RPSE_WM_HIT s, K.RPSE_MUST_LINES s,
    K.RPSE_UNMAPPED s, K.RPSE_RDROP s, K.RPSE_IGNORED s] fun d f => d.set f 0
  (d.set (K.RPSE_STATE s) state).set (K.RPSE_MAPPED s) mapped

/-- The solver at the admission of a site: its context is reset, or gone without TO_RPS (R288, R301). -/
def Dev.rpsAdmit (d : Dev) (s : Nat) : Dev :=
  let d := { d with rps := { d.rps with ctx := tblErase d.rps.ctx s } }
  match (d.siteDies s).any (fun n => d.on (K.SFT_TO_RPS n s)), d.readMap s with
  | true, some m => (d.setRps s (RCtx.fresh m (d.siteCores s))).rpsWords s rsCOLLECT m.mapped
  | _, _ => d.rpsWords s rsFREE 0

/-- The solver at the release of a site: a solve is cancelled, the entries and CELLS are freed, STATE is FREE (R301). -/
def Dev.rpsRelease (d : Dev) (s : Nat) : Dev :=
  if (d.rctx s).isNone then d
  else
    let d := d.cancelSolve s
    { d with rps := { d.rps with ctx := tblErase d.rps.ctx s } }.set (K.RPSE_STATE s) rsFREE

/-- The solver as a site enters Running: a solve is cancelled, STATE returns to COLLECT, and the cores are to end again
(R296, R300). -/
def Dev.rpsRunning (d : Dev) (s : Nat) : Dev :=
  if (d.rctx s).isNone then d
  else
    let busy := d.rpsState s == rsQUEUED || d.rpsState s == rsSOLVING
    let d := d.cancelSolve s
    let d := if busy then d.set (K.RPSE_STATE s) rsCOLLECT else d
    d.modRps s fun c => { c with ended := [], solveReq := false }

/-- RPS_CMD_RESULT codes (Table 11). -/
def rrACCEPTED : Nat := 1
def rrSTATE : Nat := 2
def rrBUSY : Nat := 3
def rrBADOP : Nat := 4
def rrNOCTX : Nat := 5

/-- The effect of a solver command and its RESULT (R304, Table 8; log 21: a busy context answers REFUSED_BUSY, CLEAR forgets the ended flags). -/
def Dev.rpsCmd (d : Dev) (op s : Nat) : Dev × Nat :=
  let busy := d.rpsState s == rsQUEUED || d.rpsState s == rsSOLVING
  match op with
  | 0 => (d, rrACCEPTED)
  | 1 =>
    if (d.rctx s).isNone then (d, rrNOCTX)
    else if busy then (d, rrBUSY)
    else if d.siteIn s [stRocking, stParked, stAborted] then
      ((d.modRps s fun c => { c with solveReq := true }).trySolve s, rrACCEPTED)
    else (d, rrSTATE)
  | 2 =>
    if (d.rctx s).isNone then (d, rrNOCTX)
    else if busy then (d.cancelSolve s, rrACCEPTED) else (d, rrSTATE)
  | 3 =>
    match d.rctx s with
    | none => (d, rrNOCTX)
    | some c =>
      if busy then (d, rrBUSY)
      else if d.siteIn s [stRunning, stCurtaining] then (d, rrSTATE)
      else ((d.setRps s (RCtx.fresh c.map c.cores)).rpsWords s rsCOLLECT c.map.mapped, rrACCEPTED)
  | _ => (d, rrBADOP)

/-- RPS_CMD written with OP and SITE (R304). -/
def Dev.rpsCommand (d : Dev) (op s : Nat) : Dev :=
  let (d, r) := d.rpsCmd op s
  (d.set K.RPS_CMD_RESULT_RESULT r).set K.RPS_CMD_RESULT_SITE s

end Sys2Proof.Machine
end

