-- ==== Sys2Proof/Machine/SiteRun.lean ====
section
/-! DEFINITION. The life of a site at the pins: cycle 0, segment boundaries, match-loops, stops, the Curtain and the
Rocker, and resuming (R113, R135 to R144, R210 to R225, R308 to R321). -/

namespace Sys2Proof.Machine

/-! ## Boundary-table entries (R219) -/

/-- The resume addresses of a boundary: VPC and PC of its boundary-table entry; where the table has no readable entry,
the snapshot's own vector address and PC 0 (log 22). -/
def Dev.resumeAt (d : Dev) (q : Nat) (sn : Snap) : Dev × Nat × Nat :=
  if (d.core q).v.btab.2 ≤ sn.bnd.bidx then (d, sn.vpc, 0)
  else
    match d.btabEntry q sn.bnd.bidx with
    | (d, .ok w) => (d, bitsAt w 0 48, bitsAt w 64 48)
    | (d, .error _) => (d, sn.vpc, 0)

/-! ## Segments (R217, R218, R260) -/

/-- The boundary at the head of core `q`'s VIQ, which the next cycle opens: carried by the next entry, or marked with no
entry behind it yet. -/
def VCore.headBnd (v : VCore) : Option Bnd :=
  match v.viq with
  | e :: _ => e.bnd
  | [] => v.mark

/-- A core's lc[n] of a snapshot as the pass boundary of a SEGIT loop has it: N − passes completed (R216). -/
def Snap.atPass (sn : Snap) (m : MLoop) (passes : Nat) : Snap := { sn with lc := tblPut sn.lc m.lci (m.n - passes) }

/-- A boundary opens core `q`'s next segment at the pins: its snapshot is released, SEQ_SEG names it, and no fail record
is merged across it (R218, R261, R264). -/
def Dev.openSegment (d : Dev) (q : Nat) (sn : Snap) : Dev :=
  let d := d.flushFails q
  let d := d.set (K.SEQ_SEG (q / 16) (q % 16)) sn.bnd.bidx
  d.modV q fun v => { v with openSnap := some sn, segBidx := sn.bnd.bidx }

/-- The site's compare masks take effect at a boundary, and the number of the cycle that it opens is kept (R260). -/
def Dev.siteBoundary (d : Dev) (s : Nat) : Dev :=
  let d := d.applyMasks (d.siteChans s)
  match d.siteCores s with
  | [] => d
  | q :: _ => d.modSite s fun r => { r with segCyc := (d.core q).v.cyc }

/-- Every core of the site is at the same cycle. -/
def Dev.level (d : Dev) (s : Nat) : Bool :=
  (d.siteCores s).all fun q => (d.siteCores s).all fun p => (d.core q).v.cyc == (d.core p).v.cyc

/-- Every core of the site satisfies `p`. -/
def Dev.allOf (d : Dev) (s : Nat) (p : Core → Bool) : Bool := (d.siteCores s).all fun q => p (d.core q)

/-- Every core of the site has a boundary next, not END, and all are at one cycle. -/
def Dev.atBoundary (d : Dev) (s : Nat) : Bool :=
  d.level s && d.allOf s fun c => match c.v.headBnd with
    | some b => !b.isEnd
    | none => false

/-- SEGMENT_BOUNDARY: the boundary before the next cycle passes the pins, with no stop applied (R217, R218, R260). -/
def execSegmentBoundary (i : SiteId) (s : State) : Out :=
  s.does fun d =>
    if !(d.siteIn i [stRunning] && !(d.site i).applied && (d.siteCores i).all fun q => (d.core q).v.viq != [] ) ||
        !d.atBoundary i then d
    else
      let d := d.each (d.siteCores i) fun d q =>
        match (d.core q).v.snaps with
        | [] => d
        | sn :: rest =>
          (d.modV q fun v => { v with
            snaps := rest
            viq := match v.viq with
              | e :: l => { e with bnd := none } :: l
              | [] => [] }).openSegment q sn
      d.siteBoundary i

/-! ## The Curtain and the Rocker (R136, R142, R222 to R224, R309, R317, R320) -/

/-- Every core of the site has played every row of its Curtain (`phase` 1) or Rocker. -/
def Dev.played (d : Dev) (s phase : Nat) : Bool :=
  d.level s && d.allOf s fun c => (storeRow (if phase = 1 then c.v.curtain else c.v.rocker) c.v.pos).isNone

/-- Core `q` starts filling its VIQ from its last stop boundary, both pipelines (R137, R320); nothing follows an END
boundary. -/
def Dev.prefill (d : Dev) (q : Nat) : Dev :=
  d.modCore q fun c =>
    { c with
      ctl := .run, pfx := none, fetched := 0, refilling := false
      v := match c.v.stopSnap with
        | some sn => if sn.bnd.isEnd then { c.v with vec := .stopped } else c.v.startAt sn.bnd
        | none => c.v.startAt ⟨0, false⟩ }

/-- A parked site: its cores stop and its channels park (R308, R317). -/
def Dev.parkNow (d : Dev) (s : Nat) : Dev :=
  let d := (d.coresParked s).parkSite s
  let d := (d.put (K.SITE_PARK_PEND s) false).put (K.SITE_RESUME_PEND s) false
  d.setSiteState s stParked

/-- The last Curtain cycle ends: END records; then the pending abort or park, which waits while a link of the site is
DOWN (R371), or the Rocker, with the refill from the boundary (R262, R309, R317, R320). -/
def Dev.curtainEnd (d : Dev) (s : Nat) : Dev :=
  let d := d.endRecs s false
  if d.on (K.SITE_ABORT_PEND s) && !d.siteDown s then d.abortSite s
  else if d.on (K.SITE_PARK_PEND s) && !d.siteDown s then d.parkNow s
  else
    let d := d.modSite s fun r => { r with prefillFault := false }
    let d := d.each (d.siteCores s) fun d q =>
      let d := d.prefill q
      (d.modV q fun v => { v with phase := 2, pos := (0, 0, 0) }).setCoreState q csROCKER
    d.setSiteState s stRocking

/-- Core `q` takes the boundary of a stop: the snapshot restored, VPC and PC from the boundary's entry, both pipelines
stopped, pins of the PTU released, the Curtain next (R142, R219, R347). -/
def Dev.takeBoundary (d : Dev) (q : Nat) (sn : Snap) : Dev :=
  let (d, vpc, pc) := d.resumeAt q sn
  let d := d.flushFails q
  let d := d.modCore q fun c =>
    { c with ctl := .stopped, pfx := none, fetched := 0, pc := pc
             v := { c.v.restore sn vpc with phase := 1, pos := (0, 0, 0), openSnap := none } }
  let d := d.unpinAll q
  let d := d.setCoreState q csCURTAIN
  d.set2 (K.SEQ_STOP_CYCLE_LO (q / 16) (q % 16)) (K.SEQ_STOP_CYCLE_HI (q / 16) (q % 16)) (d.core q).v.cyc

/-- The site ends its segment at the snapshots `sn` of its cores and enters its Curtain; a resume numbers its cycles from
`from'`. A Curtain of length 0 ends at once (R142, R309, R320). -/
def Dev.enterCurtain (d : Dev) (s from' : Nat) (sn : Nat → Option Snap) : Dev :=
  let d := d.each (d.siteCores s) fun d q => match sn q with
    | some sn => d.takeBoundary q sn
    | none => d.takeBoundary q ((d.core q).v.snapAt ⟨0, false⟩ (d.core q).v.vpc)
  let d := d.applyMasks (d.siteChans s)
  let d := d.modSite s fun r => { r with req := none, applied := false, stopCyc := none, held := none, startCyc := from' }
  let d := d.setSiteState s stCurtaining
  if d.played s 1 then d.curtainEnd s else d

/-- The present cycle number of a site's cores. -/
def Dev.siteCyc (d : Dev) (s : Nat) : Nat := match d.siteCores s with
  | [] => 0
  | q :: _ => (d.core q).v.cyc

/-- STOP_APPLY: a sampled stop request reaches every core of its site two ticks later (R142, R315). -/
def execStopApply (i : SiteId) (s : State) : Out :=
  s.does fun d =>
    match (d.site i).req with
    | some (_, t) =>
      if d.siteIn i [stRunning] ∧ t + 2 ≤ d.clock then
        let d := d.modSite i fun r => { r with req := none, applied := true }
        d.each (d.siteCores i) fun d q => d.setCoreState q csSTOPPING
      else d
    | none => d

/-- STOP_BOUNDARY: the boundary of an applied stop reaches the pins: the next boundary of every core, or the end of a
SEGIT pass; or the cycle at which an underrun, or a stop beyond the last row held, ends the segment (R135, R142, R216,
R225). The resumed run then starts at the boundary that opened the cut segment (log 23). -/
def execStopBoundary (i : SiteId) (s : State) : Out :=
  s.does fun d =>
    let cyc := d.siteCyc i
    if !d.siteIn i [stRunning] || !d.level i then d
    else if (match (d.site i).stopCyc with
      | some c => c == cyc
      | none => false) then
      d.enterCurtain i (d.site i).segCyc fun q => (d.core q).v.openSnap.or ((d.core q).v.snaps.head?)
    else if !(d.site i).applied then d
    else if d.atBoundary i then d.enterCurtain i cyc fun q => (d.core q).v.snaps.head?
    else if d.allOf i fun c => c.v.atPass then
      d.enterCurtain i cyc fun q =>
        match (d.core q).v.snaps, (d.core q).v.mloop with
        | sn :: _, some m => some (sn.atPass m m.passes)
        | _, _ => none
    else d

/-- END_BOUNDARY: the END boundary reaches the pins of every core: cause END, unless a stop came first, and the Curtain
(R217). A stop request that the closing of the open fail records makes comes after it (R144, R317). -/
def execEndBoundary (i : SiteId) (s : State) : Out :=
  s.does fun d =>
    let ends := d.allOf i fun c => match c.v.headBnd with
      | some b => b.isEnd
      | none => false
    if !d.siteIn i [stRunning] || !d.level i || !ends then d
    else
      let d := if d.stopGiven i then d else (d.stopNoted i 0x05).modSite i fun r => { r with applied := true }
      d.enterCurtain i (d.siteCyc i) fun q => (d.core q).v.snaps.head?

/-- CURTAIN_END: the last Curtain cycle has ended on every core. -/
def execCurtainEnd (i : SiteId) (s : State) : Out :=
  s.does fun d => if d.siteIn i [stCurtaining] && d.played i 1 then d.curtainEnd i else d

/-- VIQ_UNDERRUN: the entry that holds cycle c, the first beyond the VIQ of core `q`, is absent 64 ticks before it is
due: the site's segment ends at c − 1; the core raises VIQ_UNDERRUN, unless a vector fault came first (R135, R225). Not
while the VIQ ends in the END boundary, or a match-loop's length is still open. -/
def execViqUnderrun (q : CoreId) (s : State) : Out :=
  s.doesAs (3, 0x06, q.val) fun d =>
    match d.coreSite q with
    | none => d
    | some i =>
      let v := (d.core q).v
      let open' := v.viq.any fun e => e.blk && !v.inBlock
      let ended := match v.viq.getLast? with
        | some e => (match e.bnd with
          | some b => b.isEnd
          | none => false)
        | none => false
      if !d.siteIn i [stRunning] || open' || ended then d else d.viqLacks q i (v.cyc + cyclesOf v.viq)

/-! ## Match-loops at the pins (R212 to R216) -/

/-- The lag D in passes of a loop of `b` cycles: F is 56 ns on one die and 96 ns otherwise (R214). -/
def Dev.lagOf (d : Dev) (s b : Nat) : Nat :=
  match d.siteCores s with
  | [] => 0
  | q :: _ =>
    let f := (if (d.siteDies s).length ≤ 1 then 56 else 96) * 8000
    let l := b * d.corePeriod q * 1000000000
    (f * (1000000000 + d.coreOfs q).toNat + l - 1) / l

/-- A core's condition of the pass (R212). -/
def MLoop.condition (m : MLoop) : Bool := if m.seen then (if m.cond then m.failed else !m.failed) else !m.comb

/-- The core is at the end of a pass of its match-loop. -/
def VCore.passDone (v : VCore) : Bool :=
  match v.viq, v.mloop with
  | e :: _, some m => e.blk && e.bnd.isNone && m.closed && m.left == []
  | _, _ => false

/-- The site's loop ends on core `q` after `passes` passes: its place leaves the VIQ, and with SEGIT the boundary that
follows holds lc[n] = N − passes (R211, R216). -/
def Dev.loopEnds (d : Dev) (q passes : Nat) : Dev :=
  (d.modV q fun v => match v.mloop with
    | some m => { v with
        viq := v.viq.tail, mloop := none
        snaps := match v.snaps with
          | sn :: l => if m.segit ∧ sn.vpc = m.vpc then sn.atPass m passes :: l else sn :: l
          | [] => [] }
    | none => v).pump q pumpFuel

/-- The site's loop goes on with another pass on core `q`; with SEGIT and no stop applied the end of the pass opens a
segment (R214, R216). -/
def Dev.loopReplays (d : Dev) (q passes : Nat) (opens : Bool) : Dev :=
  match (d.core q).v.mloop with
  | none => d
  | some m =>
    let d := d.modV q fun v => { v with
      mloop := some { m with passes := passes, left := m.block, seen := false, failed := false } }
    match opens && m.segit, (d.core q).v.snaps with
    | true, sn :: _ => d.openSegment q (sn.atPass m passes)
    | _, _ => d

/-- MATCH_LOOP_PASS_END: a pass ends at the pins on every core: the site's condition is combined, and the loop ends after
pass min(i + D, N) of the first pass i whose condition held, or after pass N (R212 to R214). -/
def execMatchLoopPassEnd (i : SiteId) (s : State) : Out :=
  s.does fun d =>
    match d.siteCores i with
    | [] => d
    | q0 :: _ =>
      if !d.siteIn i [stRunning] || !d.level i || !d.allOf i (fun c => c.v.passDone) then d
      else match (d.core q0).v.mloop with
        | none => d
        | some m =>
          let p := m.passes + 1
          let conds := (d.siteCores i).map fun q => match (d.core q).v.mloop with
            | some m => m.condition
            | none => !m.comb
          let holds := if m.comb then conds.any id else conds.all id
          let last := d.siteCyc i - 1
          let note (d : Dev) (ok : Bool) : Dev := d.modSite i fun r =>
            { r with outcomes := r.outcomes ++ [(ok, m.mev, m.mevon, m.tmo, m.n, last)] }
          let d := if holds ∧ (d.site i).held.isNone then (note d true).modSite i fun r => { r with held := some p } else d
          let ends := decide (m.n ≤ p) || (match (d.site i).held with
            | some h => decide (min (h + d.lagOf i (cyclesOf m.block)) m.n ≤ p)
            | none => false)
          if ends then
            let d := if (d.site i).held.isNone then note d false else d
            (d.each (d.siteCores i) fun d q => d.loopEnds q p).modSite i fun r => { r with held := none }
          else
            let opens := !(d.site i).applied
            let d := d.each (d.siteCores i) fun d q => d.loopReplays q p opens
            if m.segit && opens then d.siteBoundary i else d

/-- MATCH_LOOP_OUTCOME: the oldest outcome becomes known: MEV, and on TIMEOUT the action of TMO (R215, R276, R278). -/
def execMatchLoopOutcome (i : SiteId) (s : State) : Out :=
  s.doesAs (3, 0x07, i.val) fun d =>
    match (d.site i).outcomes with
    | [] => d
    | (ok, mev, mevon, tmo, n, last) :: rest =>
      let d := d.modSite i fun r => { r with outcomes := rest }
      let d := if mevon = 3 ∨ (mevon = 1 ∧ ok) ∨ (mevon = 2 ∧ !ok) then
          d.each (d.siteCores i) fun d q => d.arrive q mev 1
        else d
      if ok then d
      else
        let d := d.each (d.siteDies i) fun d c => d.put (K.SFT_TIMEOUT c i) true
        if tmo = 1 then
          d.each (d.siteCores i) fun d q =>
            ((d.flushFails q).fifoPut q { d.frec q i ftTIMEOUT 0 last with w2 := n }).failEvt [q] 7
        else if tmo = 2 then d.stopReq i 0x07
        else d

/-! ## Starting and resuming (R113, R137, R231, R251, R320) -/

/-- The site enters Running with cycle `startCyc`: its cores run, judgement begins, and a solver context goes on
(R231, R300). -/
def Dev.enterRunning (d : Dev) (s : Nat) : Dev :=
  let cy := (d.site s).startCyc
  let d := d.each (d.siteCores s) fun d q =>
    let d := d.modCore q fun c =>
      { c with refilling := false, v := { c.v with phase := 0, cyc := cy }, cap := { c.cap with ended := false } }
    d.setCoreState q csRUN
  let d := d.each (d.siteDies s) fun d n =>
    { d with tgn := { d.tgn with fcLast := tblErase d.tgn.fcLast (64 * n + s) } }
  let d := d.modSite s fun r => { r with req := none, applied := false, stopCyc := none, held := none, segCyc := cy }
  (d.rpsRunning s).setSiteState s stRunning

/-- The VIQ of core `q` holds LEAD_TARGET cycles, or its whole program (R320; log 24). -/
def Dev.leadFull (d : Dev) (q : Nat) : Bool :=
  let v := (d.core q).v
  decide (d.leadTarget q ≤ v.lead) || (match v.viq.getLast? with
    | some e => (match e.bnd with
      | some b => b.isEnd
      | none => false)
    | none => false)

/-- Groups of the site asserted, TIME_UNSURE and the other conditions of RESUME: the REFUSE code of the first that does
not hold, or 0 (R320, R371, R519). `down` tells that a link of the site is DOWN. -/
def Dev.resumeCode (d : Dev) (s : Nat) (down : Bool) : Nat :=
  if d.on (K.SITE_PARK_PEND s) || d.on (K.SITE_ABORT_PEND s) then 0x28
  else if d.get (K.SITE_CAUSE s) = 0x05 then 0x22
  else if d.on K.TIM_STATUS_TIME_UNSURE then 0x20
  else if d.siteGroupsAsserted s ≠ 0 then 0x23
  else if (d.siteDies s).any fun n => d.on (K.TGN_STATUS_BYPASS n) then 0x24
  else if (d.site s).prefillFault then 0x25
  else if down then 0x26
  else if d.allOf s (fun c => !c.halted) && (d.siteCores s).all (fun q => !(d.core q).refilling || d.leadFull q) then 0
  else 0x27

end Sys2Proof.Machine
end

