-- ==== Sys2Proof/Machine/Power.lean ====
section
/-! DEFINITION. Power: the reservation limit, the depth of a channel die's sleep, wakes, telemetry and warnings (R460 to
R478). Trips stand with the entry into Safe. -/

namespace Sys2Proof.Machine

/-! ## Budget (R475, R476) -/

/-- P_FIXED in 0.1 W (R475, Table 5). -/
def fixedPower : Variant → Nat
  | .ul8256 => 600
  | _ => 840

/-- P_FAB in 0.1 W: CFG_FAB_PWR, in 0.01 W, over the present dies, rounded up (R475). -/
def Dev.fabPower (d : Dev) : Nat := ((d.dies.map fun n => d.get (K.CFG_FAB_PWR n)).sum + 9) / 10

/-- PWR_SITE_AVAIL in 0.1 W for a cap and a margin: 50.25 W for each present channel die, at most what the cap leaves
(R475). -/
def Dev.siteAvail (d : Dev) (cap margin : Nat) : Nat :=
  min (d.variant.cdCount * 1005 / 2) (cap - margin - fixedPower d.variant - d.fabPower)

/-- PWR_SITE_AVAIL as it stands. -/
def Dev.availNow (d : Dev) : Nat := d.siteAvail (d.get K.PWR_CAP) (d.get K.PWR_MARGIN)

/-- The sites that hold reservations, ascending (R311). -/
def Dev.holders (d : Dev) : List Nat := allSites.filter fun s => d.siteState s != stIdle

/-- The sum of POWER over the sites that hold reservations. -/
def Dev.sitePower (d : Dev) : Nat := (d.holders.map fun s => d.get (K.SITE_POWER s)).sum

/-- A write to PWR_CAP or PWR_MARGIN: ignored with WR_REFUSED when PWR_SITE_AVAIL would fall below the reserved sum;
ignored when outside its range: a cap above 3,600, on the UL8512G a margin below 8 W (R475, R476, R480). -/
def Dev.capWrite (d : Dev) (margin : Bool) (v : Nat) : Dev :=
  if (if margin then d.variant.hasGuest && decide (v < 80) else decide (3600 < v)) then d
  else
    let cap := if margin then d.get K.PWR_CAP else v
    let mar := if margin then v else d.get K.PWR_MARGIN
    if d.siteAvail cap mar < d.sitePower then d.put K.PWR_STATUS_WR_REFUSED true
    else d.set (if margin then K.PWR_MARGIN else K.PWR_CAP) v

/-! ## Power states (R464 to R474) -/

/-- Published wake times in ns (R464, Table 2): 12.5 ns counts as 13. -/
def wakePublished (st : Nat) : Nat := match st with
  | 0 => 0
  | 1 => 13
  | 2 => 2000
  | 3 => 50000
  | _ => 4000000

/-- W(s), the wake time in use (R470). -/
def Dev.wakeTime (d : Dev) (n st : Nat) : Nat :=
  if st = 0 then 0
  else if d.get (K.PWR_WAKE_COUNT n (st - 1)) < 16 then wakePublished st
  else d.get (K.PWR_WAKE_LEARN_NS n (st - 1))

/-- Core `q` waits, or does nothing, so that its die may rest (R468). -/
def Dev.coreQuiet (d : Dev) (q : Nat) : Bool :=
  let c := d.core q
  let ctl := c.halted || (match c.ctl with
    | .off => true
    | .ended => true
    | .stopped => true
    | .waitE .. => true
    | .waitT .. => true
    | _ => false)
  let vec := match c.v.vec with
    | .run => decide (d.leadTarget q ≤ c.v.lead) || c.v.viq.length == 2048
    | .admitting _ => false
    | _ => true
  ctl && vec

/-- The depth limit of CD `n` (R468, Table 3). -/
def Dev.depthLimit (d : Dev) (n : Nat) : Nat :=
  if !(d.sitesOnDie n [stRunning, stCurtaining, stRocking]).isEmpty || d.dieLeased n || d.on (K.TGN_STATUS_DSK_ACTIVE n) ||
      d.on (K.FAB_SCRUB_STATUS_ACTIVE n) then 0
  else if (d.dieCores n).any fun q => !d.coreQuiet q then 0
  else if !(d.sitesOnDie n [stAdmitted]).isEmpty then 2
  else 4

/-- The group's channels are parked and in no active site (R246). -/
def Dev.groupIdle (d : Dev) (n g : Nat) : Bool :=
  (List.range 32).all (fun i => d.parked (128 * n + 32 * g + i)) &&
    (d.sitesOnDie n stActive).all fun s => (d.siteChans s).all fun c => c / 32 != 4 * n + g

/-- The TTI of each known event of CD `n` (R467). -/
def Dev.knownEvents (d : Dev) (n : Nat) : List Nat :=
  let sched := ((List.range 256).filter fun e =>
    d.schedState (n + 2) e == seARMED || d.schedState (n + 2) e == seLINKED).map fun e => d.schedTti (n + 2) e
  let waits := (d.dieCores n).filterMap fun q => match (d.core q).ctl with
    | .waitT t _ _ => some t
    | .waitE _ dl _ _ => dl
    | _ => none
  let steps := (List.range 2).filterMap fun p => (tblFind d.clk.armed (2 * n + p)).map Prod.snd
  let sweeps := if !d.on (K.TGN_DSK_CTRL_AUTO n) then [] else
    ((List.range 4).filter fun g => d.groupIdle n g).map fun g =>
      d.tti + (tblGet 0 d.tgn.sweepAt (4 * n + g) + 800000 * d.get (K.TGN_DSK_CTRL_INTERVAL n) - d.clock)
  let scrub := if d.on (K.FAB_SCRUB_CTRL_EN n) && d.on (K.CFG_DIE_STATUS_SCRUB_EN n) && d.on (K.CFG_DIE_STATUS_STARTED n)
    then [d.tti + (tblGet 0 d.fab.scrubAt n + 800000 * d.get (K.FAB_SCRUB_CTRL_PERIOD n) - d.clock)] else []
  sched ++ waits ++ steps ++ sweeps ++ scrub

/-- E, the TTI of the earliest known event of CD `n` (R466). -/
def Dev.nextEvent (d : Dev) (n : Nat) : Option Nat := least (d.knownEvents n)

/-- A core of the die waits for an event whose time is not known: a WAITE with DL = 0 (R466). -/
def Dev.unknownWait (d : Dev) (n : Nat) : Bool :=
  (d.dieCores n).any fun q => match (d.core q).ctl with
    | .waitE _ none _ _ => true
    | _ => false

/-- PWR_DEFAULT_STATE: values above 4 act as 1 (R480). -/
def Dev.defaultState (d : Dev) : Nat := if 4 < d.get K.PWR_CTRL_DEFAULT_STATE then 1 else d.get K.PWR_CTRL_DEFAULT_STATE

/-- A wake from state `st` ends PWR_GUARD before the event at `e`: W(s) + PWR_GUARD ≤ (E − TTI) × 1.25 ns (R466). -/
def Dev.wakeFits (d : Dev) (n st e : Nat) : Bool :=
  decide ((d.wakeTime n st + d.get K.PWR_GUARD) * 4 ≤ (e - d.tti) * 5)

/-- The state that the power controller of CD `n` chooses in this tick (R466). -/
def Dev.chosenState (d : Dev) (n : Nat) : Nat :=
  let lim := min (min (d.depthLimit n) (min 4 (d.get (K.PWR_DIE_STATE_MAX_STATE n)))) (d.get (K.PWR_DIE_STATE_DECL_MAX n))
  match d.nextEvent n with
  | none => min d.defaultState lim
  | some e =>
    let st := ((List.range 5).filter fun st => decide (st ≤ lim) && (st == 0 || d.wakeFits n st e)).foldl max 0
    if d.unknownWait n then min st d.defaultState else st

/-- The power controllers choose states: in Ready, Run and Hold, on a released die (R465). -/
def Dev.powerInUse (d : Dev) (n : Nat) : Bool :=
  d.modeIn [mdReady, mdRun, mdHold] && d.cdPresent n && bitAt d.start.cdReleased n

/-- The state an ARM is judged by: the deeper of the die's current and target state (R471). -/
def Dev.deepState (d : Dev) (n : Nat) : Nat :=
  if d.on (K.PWR_DIE_STATE_WAKING n) || !d.powerInUse n then d.get (K.PWR_DIE_STATE_STATE n)
  else max (d.get (K.PWR_DIE_STATE_STATE n)) (d.chosenState n)

/-- An entry with a lead of `lead` ticks finds CD `n` Active at its hit (R471). -/
def Dev.wakeInTime (d : Dev) (n lead : Nat) : Bool := decide (d.wakeTime n (d.deepState n) * 4 ≤ lead * 5)

/-- DIE_STATE_ENTRY: the die moves into the state chosen for it (R466). -/
def execDieStateEntry (n : Die) (s : State) : Out :=
  s.does fun d =>
    let c := d.chosenState n
    if d.powerInUse n && !d.on (K.PWR_DIE_STATE_WAKING n) && c != 0 then
      (d.set (K.PWR_DIE_STATE_STATE n) c).set (K.PWR_DIE_STATE_TARGET n) c
    else d

/-- WAKE_START: a shallower state is chosen, or the last tick to wake for the known event has come (R469). -/
def execWakeStart (n : Die) (s : State) : Out :=
  s.does fun d =>
    let st := d.get (K.PWR_DIE_STATE_STATE n)
    let due := match d.nextEvent n with
      | some e => decide ((e - d.tti) * 5 ≤ (d.wakeTime n st + d.get K.PWR_GUARD) * 4 + 4)
      | none => false
    if d.powerInUse n && (decide (d.chosenState n < st) || due) then d.wakeDie n else d

/-- WAKE_END: the die is Active, `ns` after its wake began; the measurement enters PWR_WAKE (R470). No wake exceeds its
published time (R469). -/
def execWakeEnd (n : Die) (ns : BitVec 23) (s : State) : Out :=
  s.does fun d =>
    let st := tblGet 0 d.power.wakeFrom n
    if !d.on (K.PWR_DIE_STATE_WAKING n) || st = 0 || decide (wakePublished st < ns.toNat) then d
    else
      let l := (ns.toNat :: tblGet [] d.power.wakes (8 * n + st)).take 16
      let d := { d with power := { d.power with
        wakes := tblPut d.power.wakes (8 * n + st) l, wakeFrom := tblErase d.power.wakeFrom n } }
      let d := (d.set (K.PWR_WAKE_LEARN_NS n (st - 1)) (l.foldl max 0)).set (K.PWR_WAKE_COUNT n (st - 1)) l.length
      ((d.put (K.PWR_DIE_STATE_WAKING n) false).set (K.PWR_DIE_STATE_STATE n) 0).set (K.PWR_DIE_STATE_TARGET n) 0

/-! ## Telemetry and warnings (R460 to R462) -/

/-- Rail voltages and currents of a frame (R460). -/
def Dev.railsSeen (d : Dev) (l : List (Fin 13 × BitVec 14 × BitVec 18)) : Dev :=
  d.each l fun d r => (d.set (K.PWR_RAIL_MV r.1) r.2.1.toNat).set (K.PWR_RAIL_CUR r.1) r.2.2.toNat

/-- Sensors of a source read temperatures `l`, warning at `lim` °C: a rise to the warning is a warning event, recorded
unless the source wrote a record within the last 1 ms (R462). Sources: 0 to 3 CDn, 4 BD, 5 HD, 6 and 7 the stacks. -/
def Dev.sensors (d : Dev) (src : Nat) (lim : Int) (l : List (BitVec 8)) : Dev :=
  d.each ((List.range l.length).zip l) fun d p =>
    let k := 16 * src + p.1
    let warm := decide (lim ≤ p.2.toInt)
    let was := d.power.warm.contains k
    let put (l : List Nat) : Dev := { d with power := { d.power with warm := l } }
    let d := if warm && !was then put (k :: d.power.warm) else if was && !warm then put (d.power.warm.filter (· != k)) else d
    let recent := match tblFind d.power.lastWarn src with
      | some t => decide (d.clock < t + 800000)
      | none => false
    let d := d.put K.PWR_STATUS_TEMP_WARN (d.power.warm != [])
    if warm && !was && !recent then
      { d with power := { d.power with lastWarn := tblPut d.power.lastWarn src d.clock } }.logA 0x004 blkPWR
        (src + 2 ^ 8 * p.2.toNat)
    else d

/-- The highest of some temperatures, as 8 bits of two's complement. -/
def hottest (l : List (BitVec 8)) : Nat := match l with
  | [] => 0
  | t :: l => (l.foldl (fun m x => if m.toInt < x.toInt then x else m) t).toNat

/-- STALE of each group of a die whose temperature has moved more than 5 °C since the group's last accepted measurement
(R249). -/
def Dev.staleSeen (d : Dev) (n : Nat) (temp : Int) : Dev :=
  d.each (List.range 4) fun d g => match tblFind d.tgn.tempAt (4 * n + g) with
    | some t => if 5 < (temp - t).natAbs then d.putBit (K.TGN_DSK_STATUS_STALE n) g true else d
    | none => d

/-- TELEMETRY_FRAME: a frame of a channel die or the base die arrives at the power manager, unless an injection
withholds it (R460, R461, R462, R546). -/
def execTelemetryFrame (src : Fin 5) (f : Frame) (s : State) : Out :=
  s.does fun d =>
    if !((src : Nat) == 4 || d.cdPresent src) || decide (d.clock < tblGet 0 d.power.withheld src) then d
    else
      let d := { d with power := { d.power with lastFrame := tblPut d.power.lastFrame src d.clock } }
      let d := d.putBit K.PWR_STATUS_TELEM_STALE src false
      let d := (d.set (K.PWR_DIE_TELEM_POWER src) f.power.toNat).set (K.PWR_DIE_TELEM_TEMP src) (hottest f.temps)
      let d := d.railsSeen f.rails
      let d := d.sensors src (d.get K.PWR_TEMP_LIM_WARN) f.temps
      if (src : Nat) < 4 then d.staleSeen src (signedAt (hottest f.temps) 8)
      else
        let d := (d.set K.PWR_HBM_TEMP_S0 f.hbm0.toNat).set K.PWR_HBM_TEMP_S1 (if d.hbmPresent 1 then f.hbm1.toNat else 0)
        let d := d.sensors 6 85 [f.hbm0]
        let d := if d.hbmPresent 1 then d.sensors 7 85 [f.hbm1] else d
        if d.variant.hasGuest then d.set (K.PWR_DIE_TELEM_POWER 6) f.guest.toNat else d

/-- TELEMETRY_TIMEOUT: no frame from a die for 4 µs (R461). -/
def execTelemetryTimeout (src : Fin 5) (s : State) : Out :=
  s.does fun d =>
    let due := match tblFind d.power.lastFrame src with
      | some t => decide (t + 3200 ≤ d.clock)
      | none => decide (3200 ≤ d.clock)
    if due && ((src : Nat) == 4 || d.cdPresent src) then d.putBit K.PWR_STATUS_TELEM_STALE src true else d

end Sys2Proof.Machine
end

