-- ==== Sys2Proof/Machine/Deskew.lean ====
section
/-! DEFINITION. Self-deskew: measurements, sweeps, and their end at an admission or a trip; the start and stop of period
domains (R229, R230, R243 to R249). -/

namespace Sys2Proof.Machine

/-- One lane of a channel's CAL: 0 D, 1 E, 2 QH, 3 QL (R253). -/
def calField (n j i : Nat) : Fld := match i with
  | 0 => K.CHAN_CAL_D n j
  | 1 => K.CHAN_CAL_E n j
  | 2 => K.CHAN_CAL_QH n j
  | _ => K.CHAN_CAL_QL n j

/-- A channel's factory calibration of lane `i` (R244; zero with NOCAL, R245). -/
def Dev.factoryCal (d : Dev) (c i : Nat) : Int := (tblGet [] d.tgn.factory c).getD i 0

/-- CAL of a channel: the factory value plus the average of its accepted measurements, rounded down (R244; log 28). -/
def Dev.setCal (d : Dev) (n j : Nat) : Dev :=
  let c := 128 * n + j
  let l := tblGet [] d.tgn.avg c
  d.each (List.range 4) fun d i =>
    let sum := (l.map fun m => m.getD i 0).foldl (· + ·) 0
    let avg := if l = [] then 0 else sum / (l.length : Int)
    d.set (calField n j i) (narrow (d.factoryCal c i + avg) 16)

/-- The bits of TGN_DSK_STATUS that follow a group's channels: COLD and BAD. -/
def Dev.groupBits (d : Dev) (n g : Nat) : Dev :=
  let l := (List.range 32).map (32 * g + ·)
  (d.putBit (K.TGN_DSK_STATUS_COLD n) g (l.any fun j => d.on (K.CHAN_DESKEW_COLD n j))).putBit (K.TGN_DSK_STATUS_BAD n) g
    (l.any fun j => d.on (K.CHAN_DSK_BAD n j))

/-- The measurement of one channel: accepted into its average, or rejected when it lies more than 20 ps (160 tu) from
CAL in some lane (R244, R248). Answers whether it was accepted. -/
def Dev.measureLanes (d : Dev) (n j : Nat) (m : List Int) : Dev × Bool :=
  let c := 128 * n + j
  let far := (List.range 4).any fun i =>
    decide (160 < (d.factoryCal c i + m.getD i 0 - signedAt (d.get (calField n j i)) 16).natAbs)
  if far then
    let d := d.logBOn n 0x10F cblkTGN j
    let d := d.bump (K.CHAN_DSK_REJ n j)
    if d.get (K.CHAN_DSK_REJ n j) = 3 ∧ !d.on (K.CHAN_DSK_BAD n j) then
      ((d.put (K.CHAN_DSK_BAD n j) true).logAOn n 0x00B cblkTGN j, false)
    else (d, false)
  else
    let l := (m :: tblGet [] d.tgn.avg c).take 64
    let d := { d with tgn := { d.tgn with avg := tblPut d.tgn.avg c l } }
    let d := ((d.setCal n j).set (K.CHAN_DSK_REJ n j) 0).set (K.CHAN_DSK_COUNT n j) (min 64 (d.get (K.CHAN_DSK_COUNT n j) + 1))
    (d.put (K.CHAN_DESKEW_COLD n j) (decide (d.get (K.CHAN_DSK_COUNT n j) < 64)), true)

/-- The measurement of one channel, to which detector 0x17 adds 25 ps, 200 tu (R546). -/
def Dev.measureChan (d : Dev) (n j : Nat) (m : List Int) : Dev × Bool :=
  match d.inject 0x17 fun u a => u == n && a == j with
  | some (_, d) =>
    let r := { d with injNow := true }.measureLanes n j ((List.range 4).map fun i => m.getD i 0 + 200)
    ({ r.1 with injNow := d.injNow }, r.2)
  | none => d.measureLanes n j m

/-- A measurement of a group ends with the four lane values of its 32 channels, in tu (R244, R248, R249). -/
def Dev.measureGroup (d : Dev) (n g : Nat) (vals : List (List Int)) : Dev :=
  let (d, any) := ((List.range 32).zip vals).foldl (fun (p : Dev × Bool) (v : Nat × List Int) =>
    let r := p.1.measureChan n (32 * g + v.1) v.2
    (r.1, p.2 || r.2)) (d, false)
  let d := d.groupBits n g
  if any then
    let d := { d with tgn := { d.tgn with
      tempAt := tblPut d.tgn.tempAt (4 * n + g) (signedAt (d.get (K.PWR_DIE_TELEM_TEMP n)) 8) } }
    d.putBit (K.TGN_DSK_STATUS_STALE n) g false
  else d

/-- HOLDER of a deskew sweep (R532). -/
def sweepHolder (g : Nat) : Nat := 0x60 + g

/-- The sweep of a group begins: its lease is held (R246). -/
def Dev.sweepBegins (d : Dev) (n g : Nat) : Dev :=
  let d := { d with tgn := { d.tgn with sweep := tblPut d.tgn.sweep n g } }
  (d.put (K.TGN_STATUS_DSK_ACTIVE n) true).set (K.TGN_STATUS_DSK_GROUP n) g

/-- A sweep of group `g` is requested. A refusal is shown in BUSY and HOLDER when `show'` (R246). -/
def Dev.sweepReq (d : Dev) (n g : Nat) (queue show' : Bool) : Dev :=
  let d := { d with tgn := { d.tgn with sweepAt := tblPut d.tgn.sweepAt (4 * n + g) d.clock } }
  let tell (d : Dev) (h : Nat) : Dev :=
    if show' then (d.put (K.TGN_DSK_STATUS_BUSY n) true).set (K.TGN_DSK_STATUS_HOLDER n) h else d
  match d.leaseReq n lcTGRP (sweepHolder g) g queue with
  | (d, .granted) => d.sweepBegins n g
  | (d, .queued) => d
  | (d, .busy h) => tell d h
  | (d, .qfull h) => tell d h

/-- A write of one to TGN_DSK_CTRL.SWEEP (R246): of a group whose channels are in use nothing is measured (log 29). -/
def Dev.sweepWrite (d : Dev) (n : Nat) : Dev :=
  let g := d.get (K.TGN_DSK_CTRL_GROUP n)
  if d.groupIdle n g then d.sweepReq n g (d.on (K.TGN_DSK_CTRL_QUEUE n)) true else d

/-- DESKEW_SWEEP_DUE: the die's own request, without QUEUE, for an idle group that has a cold channel or whose INTERVAL
has passed (R246). -/
def execDeskewSweepDue (n : Die) (grp : Fin 4) (s : State) : Out :=
  s.does fun d =>
    let cold := (List.range 32).any fun i => d.on (K.CHAN_DESKEW_COLD n (32 * grp + i))
    let due := decide (tblGet 0 d.tgn.sweepAt (4 * n + grp) + 800000 * d.get (K.TGN_DSK_CTRL_INTERVAL n) ≤ d.clock)
    if d.cdPresent n && d.modeIn [mdReady, mdRun, mdHold] && d.on (K.TGN_DSK_CTRL_AUTO n) && d.groupIdle n grp &&
        (cold || due) then d.sweepReq n grp false false
    else d

/-- The sweep in progress on a die ends: its lease is released. -/
def Dev.sweepEnds (d : Dev) (n : Nat) : Dev :=
  match tblFind d.tgn.sweep n with
  | none => d
  | some g =>
    let d := { d with tgn := { d.tgn with sweep := tblErase d.tgn.sweep n } }
    (d.put (K.TGN_STATUS_DSK_ACTIVE n) false).leaseDrop n lcTGRP (sweepHolder g)

/-- The sweep in progress on a die is abandoned: its measurement is discarded and ABANDON counts (R247). -/
def Dev.sweepAbandon (d : Dev) (n : Nat) : Dev :=
  if (tblFind d.tgn.sweep n).isSome then (d.bump (K.TGN_DSK_STATUS_ABANDON n)).sweepEnds n else d

/-- An admitted site abandons the sweep of every group that holds one of its channels (R247). -/
def Dev.sweepsYield (d : Dev) (s : Nat) : Dev :=
  d.each (d.siteDies s) fun d n => match tblFind d.tgn.sweep n with
    | some g => if (d.siteChans s).any fun c => c / 32 == 4 * n + g then d.sweepAbandon n else d
    | none => d

/-! ## Period domains (R229, R230, R251) -/

/-- The domain belongs to a core of a site that is Running, Curtaining or Rocking: BUSY (R230). -/
def Dev.pdBusy (d : Dev) (n pd : Nat) : Bool :=
  (d.sitesOnDie n [stRunning, stCurtaining, stRocking]).any fun s =>
    (d.siteCores s).any fun q => q / 16 == n && d.corePd q == pd

/-- The domain starts: RUN, and its cycle count begins at `t` (R230). -/
def Dev.pdStart (d : Dev) (n pd t : Nat) : Dev :=
  let d := d.put (K.TGN_PD_CFG_RUN n pd) true
  { d with tgn := { d.tgn with pdStart := tblPut d.tgn.pdStart (16 * n + pd) t } }

/-- A write of TGN_PD_CFG.START: the domain starts at the next tick; refused for a running domain (R230). -/
def Dev.pdStartWrite (d : Dev) (n pd : Nat) : Dev :=
  if d.on (K.TGN_PD_CFG_RUN n pd) then d.put (K.TGN_PD_CFG_REFUSED n pd) true else d.pdStart n pd (d.clock + 1)

/-- A write of TGN_PD_CFG.STOP: the domain stops; refused while it is BUSY (R230). -/
def Dev.pdStopWrite (d : Dev) (n pd : Nat) : Dev :=
  if d.pdBusy n pd then d.put (K.TGN_PD_CFG_REFUSED n pd) true
  else { d with tgn := { d.tgn with pdStart := tblErase d.tgn.pdStart (16 * n + pd) } }.put (K.TGN_PD_CFG_RUN n pd) false

end Sys2Proof.Machine
end

