-- ==== Sys2Proof/Machine/Sched.lean ====
section
/-! DEFINITION. The schedule tables: arming, disarming, linked copies and the hits (R109 to R115, R230, R471, R473,
R507). -/

namespace Sys2Proof.Machine

/-- Results (Table 4 of 04). -/
def srTOO_LATE : Nat := 1
def srTABLE_FULL : Nat := 2
def srNOT_ADMITTED : Nat := 3
def srBAD_TARGET : Nat := 4
def srTIME_UNSURE : Nat := 5
def srGROUP_SAFE : Nat := 6
def srTIME_RELOAD : Nat := 7

/-- The FAIL_DIE code of a table: 5 HD, 4 BD, 0 to 3 CDn (R552). -/
def tblDie (t : Nat) : Nat := if t = 0 then 5 else if t = 1 then 4 else t - 2

/-- A record about entry `e` of table `t`: SCHED_MISSED or SCHED_REFUSED (R552). -/
def Dev.schedLog (d : Dev) (ty t e res : Nat) (site : Option Nat) : Dev :=
  d.logB ty blkTIM (e + 2 ^ 8 * tblDie t + 2 ^ 16 * res) site

/-- The site an entry concerns. -/
def Dev.schedSite (d : Dev) (t e : Nat) : Option Nat :=
  let a := d.get (K.SCHED_ACTION t e)
  if a = acSITE_START ∨ a = acSITE_STOP then some (d.get (K.SCHED_TARGET t e) % 64) else none

/-- The table exists: HD, BD, or a present channel die (R109, R7). -/
def Dev.tblPresent (d : Dev) (t : Nat) : Bool := t < 2 || d.cdPresent (t - 2)

/-- An HGPIO pin serves TRIG_OUT: GPI_FUNC 2, and the Instant Fabric does not claim it (R507). -/
def Dev.trigPin (d : Dev) (p : Nat) : Bool := bitsAt (d.get (K.GPI_FUNC (p / 16))) (2 * (p % 16)) 2 == 2 && !bitAt d.snt.pinClaim p

/-- The action belongs in the table, its target is present, and TARGET, SUB and ARG lie in range (R111, R112). -/
def Dev.targetOk (d : Dev) (t e : Nat) : Bool :=
  let tg := d.get (K.SCHED_TARGET t e)
  let sub := d.get (K.SCHED_SUB t e)
  let arg := d.get (K.SCHED_ARG t e)
  match d.get (K.SCHED_ACTION t e) with
  | 1 => t == 0 && decide (tg < 64)
  | 2 => t == 0 && decide (tg < 64)
  | 3 => decide (2 ≤ t) && decide (tg < 16)
  | 4 => decide (2 ≤ t) && decide (tg < 16)
  | 5 => t != 1 && decide (1 ≤ arg) && decide (arg ≤ 65535) &&
      (if sub = 0 then t == 0 && decide (tg < 64) && d.trigPin tg else sub == 1 && decide (tg < 8))
  | 6 => decide (sub ≤ 4)
  | _ => false

/-- MIN_LEAD in ticks (R111). -/
def minLead (action : Nat) : Nat := if action = acSITE_START then 3200 else 64

/-- The lowest free entry of a table (R110). -/
def Dev.freeEntry (d : Dev) (t : Nat) : Option Nat := (List.range 256).find? (d.schedFree t)

/-- The dies that must be Active at the hit of an entry (R471). -/
def Dev.wakeDies (d : Dev) (t e : Nat) : List Nat :=
  let a := d.get (K.SCHED_ACTION t e)
  if a = acSITE_START then d.siteDies (d.get (K.SCHED_TARGET t e))
  else if 2 ≤ t ∧ (a = acPD_START ∨ a = acTRIG_OUT ∨ a = acPWR_STATE) then [t - 2] else []

/-- An ARM is judged (R111, R113, R471): BAD_TARGET first, then the lead, then the wake of the dies it needs, which
begins at once (log 30). -/
def Dev.armEntry (d : Dev) (t e : Nat) : Dev :=
  let a := d.get (K.SCHED_ACTION t e)
  let lead := d.schedTti t e - d.tti
  let site := d.schedSite t e
  if !d.targetOk t e then d.schedMark t e seREFUSED srBAD_TARGET
  else if d.schedTti t e < d.tti + minLead a then
    (d.schedMark t e seMISSED srTOO_LATE).schedLog 0x102 t e srTOO_LATE site
  else
    let late := (d.wakeDies t e).any fun n => !d.wakeInTime n lead
    let d := d.each (d.wakeDies t e) fun d n => if d.deepState n = 0 then d else d.wakeDie n
    if late then (d.schedMark t e seMISSED srTOO_LATE).schedLog 0x102 t e srTOO_LATE site
    else
      let d := d.schedMark t e seARMED 0
      if a = acSITE_START then { d with sched := { d.sched with placing := d.sched.placing ++ [e] } } else d

/-- A write of word 2 of entry `e` (R110): ACTION, TARGET and SUB first, on a free entry; then ARM, or DISARM, unless
both are written. A DISARM of an entry that has hit in its tick is SUPERSEDED (R118). -/
def State.schedWrite (s : State) (t e w : Nat) : State :=
  let arm := bitAt w 27
  let dis := bitAt w 28
  let free := s.dev.schedFree t e
  if !s.dev.tblPresent t then s
  else
    let s := if free then
        s.onDev fun d => ((d.set (K.SCHED_ACTION t e) (bitsAt w 0 8)).set (K.SCHED_TARGET t e) (bitsAt w 8 8)).set
          (K.SCHED_SUB t e) (bitsAt w 16 4)
      else s
    if arm && !dis then if free then s.onDevAs (6, 1, e) fun d => d.armEntry t e else s
    else if dis && !arm then
      s.onDevAs (6, 2, e) fun _ =>
        s.judge 6 blkTIM (s.dev.schedSite t e) (fun d => d.schedState t e == seARMED)
          (fun d => d.schedEnd t e seCANCELLED 0) id id
    else s

/-- The hub places the copy of entry `e` on a die: the same index when free, else the lowest free (R113). -/
def Dev.placeCopy (d : Dev) (e n : Nat) : Option Dev :=
  let t := n + 2
  match if d.schedFree t e then some e else d.freeEntry t with
  | none => none
  | some k =>
    let d := (d.set (K.SCHED_TTI_LO t k) (d.get (K.SCHED_TTI_LO 0 e))).set (K.SCHED_TTI_HI t k) (d.get (K.SCHED_TTI_HI 0 e))
    let d := (d.set (K.SCHED_ACTION t k) (d.get (K.SCHED_ACTION 0 e))).set (K.SCHED_TARGET t k) (d.get (K.SCHED_TARGET 0 e))
    let d := (d.set (K.SCHED_SUB t k) (d.get (K.SCHED_SUB 0 e))).set (K.SCHED_ARG t k) (d.get (K.SCHED_ARG 0 e))
    let d := d.schedMark t k seLINKED 0
    some { d with sched := { d.sched with links := tblPut d.sched.links (256 * t + k) e } }

/-- The copies of hub entry `e` on a list of dies, or none when some table is full. -/
def Dev.placeAll (d : Dev) (e : Nat) : List Nat → Option Dev
  | [] => some d
  | n :: l => match d.placeCopy e n with
    | some d => Dev.placeAll d e l
    | none => none

/-- LINKED_COPY_PLACEMENT: the copies of an armed SITE_START are placed on every die of its site; with a table full the
entry is REFUSED; while a link to one of the dies is DOWN it is cancelled (R113, R369). -/
def execLinkedCopyPlacement (e : Fin 256) (s : State) : Out :=
  s.does fun d =>
    if !d.sched.placing.contains e || d.schedState 0 e != seARMED then d
    else
      let st := d.get (K.SCHED_TARGET 0 e)
      let d := { d with sched := { d.sched with placing := d.sched.placing.filter (· != e.val) } }
      if (d.siteDies st).any d.dieDown then d.schedEnd 0 e seCANCELLED 0
      else match d.placeAll e (d.siteDies st) with
        | some d => d
        | none => (d.schedEnd 0 e seREFUSED srTABLE_FULL).schedLog 0x103 0 e srTABLE_FULL (some st)

/-- A START command's SITE_START: armed for TTI + 3,200 in the lowest free hub entry; `none` when a table it needs is
full (R314). -/
def Dev.armStart (d : Dev) (site : Nat) : Option Dev :=
  match d.freeEntry 0 with
  | none => none
  | some e =>
    if (d.siteDies site).any fun n => (d.freeEntry (n + 2)).isNone then none
    else
      let t := d.tti + 3200
      let d := d.set2 (K.SCHED_TTI_LO 0 e) (K.SCHED_TTI_HI 0 e) t
      let d := ((d.set (K.SCHED_ACTION 0 e) acSITE_START).set (K.SCHED_TARGET 0 e) site).set (K.SCHED_SUB 0 e) 0
      some ((d.set (K.SCHED_ARG 0 e) 0).armEntry 0 e)

/-! ## Hits (R112, R114, R115) -/

/-- Entry `e` of table `t` is ARMED with an action and hits in this tick. -/
def Dev.hits (d : Dev) (t e action : Nat) : Bool :=
  d.tblPresent t && d.schedState t e == seARMED && d.get (K.SCHED_ACTION t e) == action && d.schedTti t e == d.tti

/-- Why a SITE_START of site `s` is refused at its hit, or 0 (R114, R76). -/
def Dev.startRefusal (d : Dev) (s : Nat) : Nat :=
  if !d.siteIn s [stAdmitted] then srNOT_ADMITTED
  else if d.on K.TIM_STATUS_TIME_UNSURE then srTIME_UNSURE
  else if d.siteGroupsAsserted s ≠ 0 then srGROUP_SAFE
  else 0

/-- Cycle 0 of a site: its stopped period domains start, its channels are unparked, it enters Running (R114, R230,
R251). -/
def Dev.startSite (d : Dev) (s : Nat) : Dev :=
  let d := d.each (d.siteCores s) fun d q =>
    if d.on (K.TGN_PD_CFG_RUN (q / 16) (d.corePd q)) then d else d.pdStart (q / 16) (d.corePd q) d.clock
  (d.each (d.siteChans s) Dev.unpark).enterRunning s

/-- SITE_START_HIT: the start, its refusal under R114, or its supersession (R114, R118, R318). -/
def execSiteStartHit (e : Fin 256) (s : State) : Out :=
  let st := s.dev.get (K.SCHED_TARGET 0 e)
  if !s.tickStart.hits 0 e acSITE_START then s.does id
  else
    s.doesAs (4, 1, e.val) fun _ =>
      s.judge 4 blkTIM (some st) (fun d => d.hits 0 e acSITE_START && d.startRefusal st == 0)
        (fun d => (d.schedEnd 0 e seFIRED 0).startSite st)
        (fun d =>
          if !d.hits 0 e acSITE_START then d
          else
            let r := d.startRefusal st
            let d := d.schedEnd 0 e seREFUSED r
            if r = srGROUP_SAFE then d.logB 0x10B blkDEV (d.siteGroupsAsserted st) (some st)
            else d.schedLog 0x103 0 e r (some st))
        (fun d => (d.schedEnd 0 e seSUPERSEDED 0).each (s.tickStart.copiesOf e) fun d p =>
          d.schedMark p.1 p.2 seSUPERSEDED 0)

/-- SITE_STOP_HIT: a stop request of cause SCHED_STOP (R112, R315). -/
def execSiteStopHit (e : Fin 256) (s : State) : Out :=
  s.doesAs (4, 2, e.val) fun d =>
    if d.hits 0 e acSITE_STOP then (d.schedEnd 0 e seFIRED 0).stopReq (d.get (K.SCHED_TARGET 0 e)) 0x04 else d

/-- EVENT_HIT: one arrival at the named event input (R112). -/
def execEventHit (n : Die) (e : Fin 256) (s : State) : Out :=
  s.doesAs (4, 3, e.val) fun d =>
    let t := (n : Nat) + 2
    if d.hits t e acEVENT then
      (d.schedEnd t e seFIRED 0).arrive (16 * n + d.get (K.SCHED_TARGET t e)) (d.get (K.SCHED_SUB t e)) 1
    else d

/-- PD_START_HIT: the domain starts, or the entry is refused because it runs (R230). -/
def execPdStartHit (n : Die) (e : Fin 256) (s : State) : Out :=
  s.doesAs (4, 4, e.val) fun d =>
    let t := (n : Nat) + 2
    let pd := d.get (K.SCHED_TARGET t e)
    if !d.hits t e acPD_START then d
    else if d.on (K.TGN_PD_CFG_RUN n pd) then (d.schedEnd t e seREFUSED srBAD_TARGET).logBOn n 0x10E cblkTGN pd
    else (d.schedEnd t e seFIRED 0).pdStart n pd d.clock

/-- TRIG_OUT_HIT: a pulse on the pin or trigger line for ARG ticks; on a pin that no longer serves TRIG_OUT nothing is
driven and TRIG_DROPPED is written (R112, R507). -/
def execTrigOutHit (t : TblId) (e : Fin 256) (s : State) : Out :=
  s.doesAs (4, 5, e.val) fun d =>
    if !d.hits t e acTRIG_OUT then d
    else
      let k := d.get (K.SCHED_SUB t e)
      let l := d.get (K.SCHED_TARGET t e)
      let d := d.schedEnd t e seFIRED 0
      if k = 0 ∧ !d.trigPin l then d.logB 0x11E blkGPI l
      else
        let p : Pulse := ⟨t, k, l, d.clock + d.get (K.SCHED_ARG t e)⟩
        let rest := d.sched.pulses.filter fun x => !(x.die == p.die && x.kind == k && x.line == l)
        { d with sched := { d.sched with pulses := rest ++ [p] } }

/-- PWR_STATE_HIT: DECL_MAX of the channel die; no effect in the hub and base-die tables (R473). -/
def execPwrStateHit (t : TblId) (e : Fin 256) (s : State) : Out :=
  s.doesAs (4, 6, e.val) fun d =>
    if !d.hits t e acPWR_STATE then d
    else
      let d := d.schedEnd t e seFIRED 0
      if (t : Nat) < 2 then d else d.set (K.PWR_DIE_STATE_DECL_MAX (t - 2)) (d.get (K.SCHED_SUB t e))

/-- TRIG_OUT_PULSE_END: a pulse has lasted its ticks: the pin returns to GPI_OUT and GPI_OE, the line to 0 (R112,
R507). -/
def execTrigOutPulseEnd (t : TblId) (kind : Fin 2) (line : Fin 64) (s : State) : Out :=
  s.does fun d =>
    { d with sched := { d.sched with pulses := d.sched.pulses.filter fun p =>
        !(p.die == t.val && p.kind == kind.val && p.line == line.val && decide (p.until' ≤ d.clock)) } }

/-- Every ARMED entry of every table, with its copies, is CANCELLED with TIME_RELOAD: one class B record SCHED_RELOAD for
each table (R115). -/
def Dev.reloadCancel (d : Dev) : Dev :=
  let d0 := d
  let counts := (List.range 6).map fun t => ((List.range 256).filter fun e => !d0.schedFree t e).length
  let d := d.each (List.range 6) fun d t => d.each (List.range 256) fun d e =>
    if d.schedState t e = seARMED then d.schedEnd t e seCANCELLED srTIME_RELOAD else d
  d.each ((List.range 6).zip counts) fun d p =>
    if d.tblPresent p.1 then d.logB 0x123 blkTIM (2 ^ 8 * tblDie p.1 + 2 ^ 16 * p.2) else d

end Sys2Proof.Machine
end

