-- ==== Sys2Proof/Machine/BistOps.lean ====
section
/-! DEFINITION. A BIST slice's place: its entry, its leases, how it ends, and how an admission abandons it (R537 to
R540). -/

namespace Sys2Proof.Machine

/-- TYPE of a schedule entry. -/
def Dev.bistType (d : Dev) (e : Nat) : Nat := d.get (K.BST_SCHED_CFG_TYPE e)
/-- UNIT of a schedule entry. -/
def Dev.bistUnit (d : Dev) (e : Nat) : Nat := d.get (K.BST_SCHED_CFG_UNIT e)
/-- ARG of a schedule entry. -/
def Dev.bistArg (d : Dev) (e : Nat) : Nat := d.get (K.BST_SCHED_ARG e)

/-- Lease classes of a slice type, ascending (R538, Table 4). -/
def sliceLeases (ty : Nat) : List Nat := match ty with
  | 1 => [lcTGRP]
  | 2 => [lcTGRP, lcPLL]
  | 4 => [lcD2D]
  | 5 => [lcFCOL]
  | 7 => [lcHBM]
  | 8 => [lcFLASH]
  | _ => []

/-- HOLDER of a slice (R532). -/
def bistHolder (e : Nat) : Nat := 0x70 + e

/-- Every lease that a slice holds or waits for is given up. -/
def Dev.sliceFree (d : Dev) (x : Slice) : Dev :=
  d.each x.held fun d c => d.leaseDrop (d.bistUnit x.entry) c (bistHolder x.entry)

/-- The slice that runs is over with an OUTCOME: its leases are released (R537). -/
def Dev.sliceOver (d : Dev) (outcome : Nat) : Dev :=
  match d.bist.run with
  | none => d
  | some x =>
    let d := { d with bist := { d.bist with run := none } }
    ((d.sliceFree x).set (K.BST_SCHED_RES_OUTCOME x.entry) outcome).put K.BST_STATUS_ACTIVE false

/-- The global core that a CORE slice of entry `e` tests. -/
def Dev.sliceCore (d : Dev) (e : Nat) : Nat := 16 * d.bistUnit e + d.bistArg e % 16

/-- An admission of site `s` abandons a slice that has isolated one of its cores or channels; the resource is
re-initialised (R540). -/
def Dev.bistYield (d : Dev) (s : Nat) : Dev :=
  match d.bist.run with
  | none => d
  | some x =>
    let ty := d.bistType x.entry
    let g := 4 * d.bistUnit x.entry + d.bistArg x.entry
    if !x.testing then d
    else if (ty = 1 ∨ ty = 2) ∧ (d.siteChans s).any (fun c => c / 32 == g) then d.sliceOver 7
    else if ty = 3 ∧ (d.siteCores s).contains (d.sliceCore x.entry) then (d.coreReset (d.sliceCore x.entry)).sliceOver 7
    else d

end Sys2Proof.Machine
end

