-- ==== Sys2Proof/Machine/Admission.lean ====
section
/-! DEFINITION. Admission: the declarations, the checks of Table 5 of 11 and what an accepted admission loads (R136 to
R143, R219 to R223, R311 to R313). -/

namespace Sys2Proof.Machine

/-! ## Declarations (R221 to R223) -/

/-- What the declarations of a core give (R221). -/
structure Decls where
  /-- Boundary table: address and entries. -/
  btab : Nat × Nat
  /-- Curtain records. -/
  curtain : List CRec
  /-- Rocker records. -/
  rocker : List CRec
  /-- Pin source table by die channel. -/
  psrc : Tbl Nat
  /-- Address of the first instruction executed. -/
  first : Nat
  deriving DecidableEq, Repr

/-- One 64-bit word at a virtual address of core `q`. -/
def Dev.virtWord (d : Dev) (q va : Nat) : Dev × Option Nat :=
  match d.virtRead q va 8 with
  | (d, .ok w) => (d, some w)
  | (d, .error _) => (d, none)

/-- `n` words from a virtual address, as one number. -/
def Dev.virtWords (d : Dev) (q va : Nat) : Nat → Dev × Option Nat
  | 0 => (d, some 0)
  | n + 1 =>
    match d.virtWord q va with
    | (d, none) => (d, none)
    | (d, some w) =>
      match Dev.virtWords d q (va + 8) n with
      | (d, none) => (d, none)
      | (d, some r) => (d, some (w + 2 ^ 64 * r))

/-- `k` rows of `w` words. -/
def Dev.virtRows (d : Dev) (q va w : Nat) : Nat → Dev × Option (List Nat)
  | 0 => (d, some [])
  | k + 1 =>
    match d.virtWords q va w with
    | (d, none) => (d, none)
    | (d, some r) =>
      match Dev.virtRows d q (va + 8 * w) w k with
      | (d, none) => (d, none)
      | (d, some l) => (d, some (r :: l))

/-- `n` Curtain or Rocker records from a virtual address, with rows of `w` words (R222, Table 10). -/
def Dev.virtRecs (d : Dev) (q va w : Nat) : Nat → Dev × Option (List CRec)
  | 0 => (d, some [])
  | n + 1 =>
    match d.virtWord q va with
    | (d, none) => (d, none)
    | (d, some h) =>
      let k := bitsAt h 0 3 + 1
      match d.virtRows q (va + 8) w k with
      | (d, none) => (d, none)
      | (d, some rows) =>
        match Dev.virtRecs d q (va + 8 + 8 * w * k) w n with
        | (d, none) => (d, none)
        | (d, some l) => (d, some (⟨rows, bitsAt h 3 6, bitsAt h 9 16 + 1⟩ :: l))

/-- The pin source table, 16 bits for each die channel (R206). -/
def Dev.virtPmap (d : Dev) (q va : Nat) : Dev × Option (Tbl Nat) :=
  match d.virtWords q va 32 with
  | (d, none) => (d, none)
  | (d, some w) => (d, some ((List.range 128).map fun j => (j, bitsAt w (16 * j) 16)))

/-- Cycles of a list of records (R222). -/
def recCycles (l : List CRec) : Nat := (l.map fun r => r.rows.length * r.rep).sum

/-- A row of `p` positions holds an APG symbol A, B, a, b, N or n (R223). -/
def apgRow (p row : Nat) : Bool := (List.range p).any fun i => decide (0x8 ≤ bitsAt row (4 * i) 4) && decide (bitsAt row (4 * i) 4 ≤ 0xD)

/-- The declaration block from `va`: KIND, COUNT and address of each VDECL, and the address after the block. A KIND given
twice or reserved, or a reserved bit set, makes no block (R221, Table 9; log 31). -/
def Dev.declBlock (d : Dev) (q va : Nat) (seen : List (Nat × Nat × Nat)) : Nat → Dev × Option (List (Nat × Nat × Nat) × Nat)
  | 0 => (d, none)
  | fuel + 1 =>
    match d.virtWord q va with
    | (d, none) => (d, none)
    | (d, some w) =>
      if bitsAt w 58 6 ≠ 0x30 then (d, some (seen, va))
      else
        let kind := bitsAt w 40 3
        if bitsAt w 43 15 ≠ 0 ∨ bitsAt w 20 20 ≠ 0 ∨ 3 < kind ∨ seen.any (fun e => e.1 == kind) then (d, none)
        else match d.virtWord q (va + 8) with
          | (d, none) => (d, none)
          | (d, some a) => Dev.declBlock d q (va + 16) (seen ++ [(kind, bitsAt w 0 20, bitsAt a 0 48)]) fuel

/-- The declarations of core `q`, when they meet R221 and R223. -/
def Dev.readDecls (d : Dev) (q : Nat) : Dev × Option Decls :=
  match d.declBlock q (d.core q).v.vpc [] 5 with
  | (d, none) => (d, none)
  | (d, some (l, first)) =>
    let kind (k : Nat) := (l.find? fun e => e.1 == k).map Prod.snd
    let p := (d.pinGroup q).length
    let w := rowWords p
    match kind 0, kind 1, kind 2 with
    | some (bn, ba), some (cn, ca), some (rn, ra) =>
      if bn < 1 ∨ 1048575 < bn ∨ 4096 < cn ∨ rn < 1 ∨ 512 < rn then (d, none)
      else match d.virtRecs q ca w cn with
        | (d, none) => (d, none)
        | (d, some crt) =>
          match d.virtRecs q ra w rn with
          | (d, none) => (d, none)
          | (d, some rck) =>
            let bad := recCycles crt != d.get (K.SEQ_CURTAIN_LEN_CYCLES (q / 16) (q % 16)) ||
              decide (4096 < recCycles crt) || decide (d.segMax q < recCycles rck) ||
              (crt ++ rck).any fun r => r.rows.any (apgRow p)
            if bad then (d, none)
            else match kind 3 with
              | none => (d, some ⟨(ba, bn), crt, rck, [], first⟩)
              | some (pn, pa) =>
                if pn ≠ 128 then (d, none)
                else match d.virtPmap q pa with
                  | (d, none) => (d, none)
                  | (d, some t) => (d, some ⟨(ba, bn), crt, rck, t, first⟩)
    | _, _, _ => (d, none)

/-- LEN, LOOPB and ENDB of the boundary table's entries from `i`, `n` of them (R219, R140). -/
def Dev.btabSig (d : Dev) (q base : Nat) : Nat → Nat → List (Nat × Bool × Bool) → Dev × Option (List (Nat × Bool × Bool))
  | 0, _, acc => (d, some acc.reverse)
  | n + 1, i, acc =>
    match d.virtWord q (base + 32 * i + 16) with
    | (d, none) => (d, none)
    | (d, some w) => Dev.btabSig d q base n (i + 1) ((bitsAt w 0 17, bitAt w 17, bitAt w 18) :: acc)

/-- The match-loops of a program in address order, up to its END boundary or the first word that is no vector
instruction: B, COND, COMB, TMO and SEGIT of each (R213; log 32). -/
def Dev.loopTable (d : Dev) (q w va : Nat) (blk : Option (Nat × Nat)) (acc : List (Nat × Nat)) : Nat →
    Dev × List (Nat × Nat)
  | 0 => (d, acc.reverse)
  | fuel + 1 =>
    match d.virtWord q va with
    | (d, none) => (d, acc.reverse)
    | (d, some x) =>
      let maj := bitsAt x 58 6
      let count := bitsAt x 0 17
      if maj = 0x31 ∨ maj = 0x32 ∨ maj = 0x33 then
        let words := if maj = 0x31 then count * (w + bitsAt x 18 1) else if maj = 0x32 then w else 0
        Dev.loopTable d q w (va + 8 * (1 + words)) (blk.map fun b => (b.1 + count, b.2)) acc fuel
      else if maj = 0x3C then Dev.loopTable d q w (va + 8) (some (0, bitsAt x 38 5)) acc fuel
      else if maj = 0x3D then
        Dev.loopTable d q w (va + 8) none (match blk with
          | some b => b :: acc
          | none => acc) fuel
      else if maj = 0x3E ∧ bitAt x 42 then (d, acc.reverse)
      else if maj < 0x30 ∨ 0x3E < maj then (d, acc.reverse)
      else Dev.loopTable d q w (va + 8) blk acc fuel

/-- What the cores of a site must share: boundary signatures, match-loops, Curtain and Rocker lengths (R313, LOCKSTEP). -/
def Dev.lockSig (d : Dev) (q : Nat) (x : Decls) : Dev × Option (List (Nat × Bool × Bool) × List (Nat × Nat) × Nat × Nat) :=
  match d.btabSig q x.btab.1 x.btab.2 0 [] with
  | (d, none) => (d, none)
  | (d, some sig) =>
    let (d, loops) := d.loopTable q (rowWords (d.pinGroup q).length) x.first none [] 65536
    (d, some (sig, loops, recCycles x.curtain, recCycles x.rocker))

/-! ## Checks (R313, Table 5) -/

/-- A refusal: REFUSE, and the core or die concerned: 0x7F and 7 for none (R313, R552; log 33). -/
structure Refuse where
  code : Nat
  core : Nat := 0x7F
  die : Nat := 7
  deriving DecidableEq, Repr

/-- The first element of a list that satisfies `p`, as a refusal of a core. -/
def badCore (code : Nat) (p : Nat → Bool) (l : List Nat) : Option Refuse := (l.find? p).map fun q => { code := code, core := q }

/-- The first element of a list that satisfies `p`, as a refusal of a die. -/
def badDie (code : Nat) (p : Nat → Bool) (l : List Nat) : Option Refuse := (l.find? p).map fun n => { code := code, die := n }

/-- The channels of admitted sites other than `s`. -/
def Dev.heldChans (d : Dev) (s : Nat) : List Nat := (d.holders.filter (· != s)).flatMap d.siteChans

/-- PINS (R138): core `q`'s group is empty, meets another core's of the site or an admitted site's, or leaves the core's
period domain. -/
def Dev.badPins (d : Dev) (s q : Nat) : Bool :=
  let g := (d.pinGroup q).map (128 * (q / 16) + ·)
  let others := (d.siteCores s).filter (· != q) |>.flatMap fun p => (d.pinGroup p).map (128 * (p / 16) + ·)
  g.isEmpty || g.any (fun c => others.contains c || (d.heldChans s).contains c ||
    d.get (K.CHAN_PD (c / 128) (c % 128)) != d.corePd q)

/-- PERIOD (R133, R139): core `q`'s domain differs in its period from the first core's, or its LEAD_TARGET is below
ceil(400 ns ÷ period) cycles. -/
def Dev.badPeriod (d : Dev) (q0 q : Nat) : Bool :=
  d.corePeriod q != d.corePeriod q0 || d.coreOfs q != d.coreOfs q0 ||
    d.get (K.PLL_CFG_TB (q / 16) (d.pdPll (q / 16) (d.corePd q))) !=
      d.get (K.PLL_CFG_TB (q0 / 16) (d.pdPll (q0 / 16) (d.corePd q0))) ||
    decide (d.leadTarget q * d.corePeriod q * 1000000000 < 3200000 * (1000000000 + d.coreOfs q).toNat)

/-- Sites that hold reservations on die `n`, with `s` among them. -/
def Dev.dieHolders (d : Dev) (n s : Nat) : List Nat :=
  allSites.filter fun i => (i == s || d.siteState i != stIdle) && (d.siteDies i).contains n

/-- The region of a site on a die, with its size in bytes; none in MODE OFF (R268, R270). -/
def Dev.regionOn (d : Dev) (n s : Nat) : Option (Nat × Nat) :=
  if d.get (K.SFT_MODE n s) = 0 then none else some (d.regionBase n s, d.get (K.SFT_SIZE n s) * 65536)

/-- Two regions share a byte. -/
def overlap (a b : Nat × Nat) : Bool := decide (a.1 < b.1 + b.2) && decide (b.1 < a.1 + a.2)

/-- FAIL_RES on die `n` (R266, R269, R270). -/
def Dev.badFailRes (d : Dev) (s n : Nat) : Bool :=
  let l := d.dieHolders n s
  let k := if d.variant = .ul8256 then 0 else nearStack n
  decide (128 < (l.map fun i => d.get (K.SFT_STAGE n i)).sum) || decide (2000 < (l.map fun i => d.get (K.SFT_RATE n i)).sum) ||
    (match d.regionOn n s with
    | none => false
    | some r =>
      decide (r.1 < hbmBase k) || decide (hbmBase k + hbmSize < r.1 + r.2) ||
        (l.any fun i => i != s && (match d.regionOn n i with
          | some t => overlap r t
          | none => false)) ||
        (d.get (K.SFT_MODE n s) == 3 && (decide (32 < d.get (K.SFT_XW n s) + d.get (K.SFT_YW n s)) ||
          decide (r.2 < ((d.siteCoresOn s n).map (d.planeBytes n s)).sum))))

/-- The sum of a reservation over the sites that hold one and site `s` (R311). -/
def Dev.sumOf (d : Dev) (s : Nat) (f : Nat → Fld) : Nat :=
  ((d.holders.filter (· != s)).map fun i => d.get (f i)).sum + d.get (f s)

/-- The checks before the declarations, in code order. -/
def Dev.admFirst (d : Dev) (s : Nat) : Option Refuse :=
  let qs := d.siteCores s
  let q0 := qs.headD 0
  if !d.modeIn [mdReady, mdRun, mdHold] || d.on K.SNT_STATUS_SWAP_ACTIVE then some { code := 0x01 }
  else if qs.isEmpty then some { code := 0x02 }
  else if !d.hbmPresent 1 && (d.get (K.SITE_VDEM1 s) != 0 || d.get (K.SITE_GBW1 s) != 0) then some { code := 0x03 }
  else (badCore 0x03 (fun q => !d.corePresent q) qs).or <|
    (if !d.variant.hasRps then badDie 0x03 (fun n => d.on (K.SFT_TO_RPS n s)) (d.siteDies s) else none).or <|
    (badCore 0x04 (fun q => d.on (K.SEQ_STATUS_IN_SITE (q / 16) (q % 16)) ||
      !d.on (K.SEQ_CTRL_PROG_VALID (q / 16) (q % 16)) || d.coreState q != csIDLE) qs).or <|
    (badCore 0x05 (d.badPins s) qs).or <|
    (badCore 0x06 (d.badPeriod q0) qs).or <|
    badCore 0x07 (fun q => decide (d.segMax q < d.get (K.SEQ_SEGMAX_CYCLES (q / 16) (q % 16))) ||
      decide (4096 < d.get (K.SEQ_CURTAIN_LEN_CYCLES (q / 16) (q % 16)))) qs

/-- The checks after the declarations and the lockstep, in code order. -/
def Dev.admLast (d : Dev) (s : Nat) : Option Refuse :=
  let ns := d.siteDies s
  (badCore 0x0A (fun q => (d.pinGroup q).any fun j => d.on (K.CHAN_DSK_BAD (q / 16) j)) (d.siteCores s)).or <|
    (badDie 0x0B (d.badFailRes s) ns).or <|
    if !d.solverOk s ns then some { code := 0x0C, die := 4 }
    else if 10240 < d.sumOf s K.SITE_VDEM0 ∨ 10240 < d.sumOf s K.SITE_VDEM1 then some { code := 0x0D }
    else if 7680 < d.sumOf s K.SITE_GBW0 ∨ 7680 < d.sumOf s K.SITE_GBW1 then some { code := 0x0E }
    else if d.availNow < d.sumOf s K.SITE_POWER then some { code := 0x0F }
    else if 3072 < d.sumOf s K.SITE_EVQ then some { code := 0x10 }
    else none

/-- The declarations of every core of a list, or the core whose declarations fail. -/
def Dev.declsOf (d : Dev) : List Nat → Dev × Except Nat (List (Nat × Decls))
  | [] => (d, .ok [])
  | q :: l =>
    match d.readDecls q with
    | (d, none) => (d, .error q)
    | (d, some x) =>
      match Dev.declsOf d l with
      | (d, .error e) => (d, .error e)
      | (d, .ok xs) => (d, .ok ((q, x) :: xs))

/-- The first core whose shared tables differ from `ref`. -/
def Dev.lockstepOf (d : Dev) (ref : Option (List (Nat × Bool × Bool) × List (Nat × Nat) × Nat × Nat)) :
    List (Nat × Decls) → Dev × Option Nat
  | [] => (d, none)
  | (q, x) :: l =>
    match d.lockSig q x with
    | (d, none) => (d, some q)
    | (d, some sg) =>
      match ref with
      | none => Dev.lockstepOf d (some sg) l
      | some r => if r = sg then Dev.lockstepOf d ref l else (d, some q)

/-- Every check of Table 5 in code order: the declarations of the site's cores, or the refusal. -/
def Dev.admJudge (d : Dev) (s : Nat) : Dev × Except Refuse (List (Nat × Decls)) :=
  match d.admFirst s with
  | some r => (d, .error r)
  | none =>
    match d.declsOf (d.siteCores s) with
    | (d, .error q) => (d, .error { code := 0x08, core := q })
    | (d, .ok l) =>
      match d.lockstepOf none l with
      | (d, some q) => (d, .error { code := 0x09, core := q })
      | (d, none) =>
        match d.admLast s with
        | some r => (d, .error r)
        | none => (d, .ok l)

/-! ## What an accepted admission does (R312) -/

/-- A core joins its site: its stores and tables are loaded, and both pipelines start from SEQ_PC and SEQ_VPC, in
PREFILL, its faults cleared as it leaves IDLE (R136, R137, R153, R206, R308). Execution begins after the declaration
block (R221). -/
def Dev.coreJoins (d : Dev) (s q : Nat) (x : Decls) : Dev :=
  let n := q / 16
  let k := q % 16
  let d := d.modCore q fun c =>
    let v := { c.v with curtain := x.curtain, rocker := x.rocker, psrc := x.psrc, btab := x.btab, vpc := x.first
                        vpq := [], stopSnap := none, openSnap := none, pins := [], pos := (0, 0, 0), phase := 3, cyc := 0 }
    { c with ctl := .run, pfx := none, fetched := 0, refilling := false, v := v.startAt ⟨0, false⟩, cap := {} }
  let d := (d.put (K.SEQ_STATUS_IN_SITE n k) true).set (K.SEQ_STATUS_SITE n k) s
  let d := d.put (K.SEQ_STATUS_CRS_LOADED n k) true
  let d := d.each [K.SEQ_FAULT_CODE n k, K.SEQ_FAULT_MULTI n k, K.SEQ_FAULT_STOP_REQ n k, K.PTU_FLT_REASON q,
    K.PTU_FLT_LEVEL q, K.PTU_FLT_CTRL q] fun d f => d.set f 0
  d.setCoreState q csPREFILL

/-- The fail summary of a site on a die is reset, with the channel fail counts of the site's channels (R276, R281). -/
def Dev.failReset (d : Dev) (s n : Nat) : Dev :=
  let d := d.each [K.SFT_WR_PTR n s, K.SFT_RD_PTR n s, K.SFT_WM_PEAK n s, K.SFT_WM_HIT n s, K.SFT_FCNT_LO n s,
    K.SFT_FCNT_HI n s, K.SFT_OVF n s, K.SFT_FIRST_LO n s, K.SFT_FIRST_HI n s, K.SFT_LOST n s, K.SFT_ANY_FAIL n s,
    K.SFT_LOST_F n s, K.SFT_FULL n s, K.SFT_LIMIT n s, K.SFT_CRK_FAIL n s, K.SFT_SMISS n s, K.SFT_CNFL n s,
    K.SFT_TIMEOUT n s, K.SFT_CLOSED n s, K.SFT_ABORT n s] fun d f => d.set f 0
  let d := d.each ((d.siteCoresOn s n).flatMap d.pinGroup) fun d j =>
    d.each [K.CHFC_CNT_LO n j, K.CHFC_CNT_HI n j, K.CHFC_OVF n j, K.CHFC_FIRST_LO n j, K.CHFC_FIRST_HI n j,
      K.CHFC_FIRST_VALID n j] fun d f => d.set f 0
  { d with tgn := { d.tgn with staging := tblErase d.tgn.staging (64 * n + s), fcLast := tblErase d.tgn.fcLast (64 * n + s) } }

/-- The device's count of admissions since DRST: the largest ADM_SEQ given (R328). -/
def Dev.nextAdmSeq (d : Dev) : Nat := allSites.foldl (fun m s => max m (d.get (K.SITE_ADM_SEQ s))) 0 + 1

/-- Site `s` is Admitted (R312, R313). -/
def Dev.admitted (d : Dev) (s : Nat) (l : List (Nat × Decls)) : Dev :=
  let seq := d.nextAdmSeq
  let d := d.each (d.siteDies s) fun d n => d.failReset s n
  let d := (d.rpsAdmit s).each l fun d x => d.coreJoins s x.1 x.2
  let d := (d.setBounds s).set (K.SITE_ADM_SEQ s) seq
  let d := d.each [K.SITE_CAUSE s, K.SITE_STOPS s, K.SITE_EVQ_USED s, K.SITE_PARK_PEND s, K.SITE_ABORT_PEND s,
    K.SITE_RESUME_PEND s] fun d f => d.set f 0
  let d := { d with sites := tblPut d.sites s {} }
  let d := (d.sweepsYield s).setSiteState s stAdmitted
  (d.set (K.SITE_LAST_RESULT s) 1).logB 0x108 blkDEV seq (some s)

/-- The admission in progress is over. -/
def Dev.admOver (d : Dev) (s : Nat) : Dev :=
  (d.put (K.SITE_ADM_BUSY s) false).put K.DEV_SITE_STATUS_ADM_BUSY false

/-- ADMISSION_END: once every die of the site is Active, a slice that has isolated a core or channel of the site is
abandoned, the checks are made, and the site is Admitted, or refused with the first failing check (R312, R313, R472,
R540). -/
def execAdmissionEnd (i : SiteId) (s : State) : Out :=
  s.does fun d =>
    if !d.on (K.SITE_ADM_BUSY i) || !(d.siteDies i).all (fun n => d.dieActive n || !d.cdPresent n) then d
    else
      let d := ((d.admOver i).set (K.SITE_LAST_OP i) 1).bistYield i
      match d.admJudge i with
      | (d, .ok l) => d.admitted i l
      | (d, .error r) =>
        let d := (d.set (K.SITE_REFUSE i) r.code).set (K.SITE_LAST_RESULT i) 3
        d.logB 0x109 blkDEV (r.code + 2 ^ 8 * r.core + 2 ^ 16 * r.die) (some i.val)

end Sys2Proof.Machine
end

