-- ==== Sys2Proof/Machine/Aes.lean ====
section
/-! DEFINITION. AES-256 and AES-256-GCM, by which encrypted blocks are decrypted and checked (R395, R397). The spec names
the algorithms; their tables and steps are PRESUMED from their published standards (log 47). -/

namespace Sys2Proof.Machine

/-- The substitution table: row `x` holds the images of 16x to 16x + 15, the first in the low byte (log 47). -/
def aesRows : List Nat :=
  [0x76ABD7FE2B670130C56F6BF27B777C63, 0xC072A49CAFA2D4ADF04759FA7DC982CA,
    0x1531D871F1E5A534CCF73F362693FDB7, 0x75B227EBE28012079A059618C323C704,
    0x842FE329B3D63B52A05A6E1B1A2C8309, 0xCF584C4A39BECB6A5BB1FC20ED00D153,
    0xA89F3C507F02F94585334D43FBAAEFD0, 0xD2F3FF1021DAB6BCF5389D928F40A351] ++ (
  [0x73195D643D7EA7C41744975FEC130CCD, 0xDB0B5EDE14B8EE4688902A22DC4F8160,
    0x79E4959162ACD3C25C2406490A3A32E0, 0x08AE7A65EAF4566CA94ED58D6D37C8E7,
    0x8A8BBD4B1F74DDE8C6B4A61C2E2578BA, 0x9E1DC186B95735610EF6034866B53E70,
    0xDF2855CEE9871E9B948ED9691198F8E1, 0x16BB54B00F2D99416842E6BF0D89A18C] : List Nat)

/-- SubBytes of one byte. -/
def aesSub (b : Nat) : Nat := bitsAt ((aesRows.drop (b / 16)).headD 0) (8 * (b % 16)) 8

/-- Multiplication by x in the field of AES. -/
def aesX (b : Nat) : Nat := if b < 128 then 2 * b else (2 * b) ^^^ 0x11B

/-- Two lists of bytes added. -/
def xorL (a b : List Nat) : List Nat := List.zipWith (fun x y => x ^^^ y) a b

/-- Element `i` of a list of bytes. -/
def nthB (l : List Nat) (i : Nat) : Nat := (l.drop i).headD 0

/-- The word after the words of `ks`, newest first, which begins word `i` of the key schedule of an 8-word key. -/
def aesNextWord (ks : List (List Nat)) (i : Nat) : List Nat :=
  let t := ks.headD []
  let t := if i % 8 = 0 then xorL ((t.drop 1 ++ t.take 1).map aesSub) [2 ^ (i / 8 - 1), 0, 0, 0]
    else if i % 8 = 4 then t.map aesSub
    else t
  xorL t ((ks.drop 7).headD [])

/-- `n` more words of the key schedule, newest first. -/
def aesExpand : Nat → Nat → List (List Nat) → List (List Nat)
  | 0, _, ks => ks
  | n + 1, i, ks => aesExpand n (i + 1) (aesNextWord ks i :: ks)

/-- Groups of `k` elements. -/
def chunk {α : Type} (k : Nat) : Nat → List α → List (List α)
  | 0, _ => []
  | n + 1, l => l.take k :: chunk k n (l.drop k)

/-- The fifteen round keys of a 32-byte key. -/
def aesKeys (key : List Nat) : List (List Nat) :=
  chunk 16 15 (aesExpand 52 8 (chunk 4 8 key).reverse).reverse.flatten

/-- ShiftRows: the state is held column by column. -/
def aesShift (s : List Nat) : List Nat := (List.range 16).map fun i => nthB s (i % 4 + 4 * ((i / 4 + i % 4) % 4))

/-- MixColumns of one column. -/
def aesMixCol (c : List Nat) : List Nat :=
  (List.range 4).map fun r =>
    let a := nthB c r
    let b := nthB c ((r + 1) % 4)
    aesX a ^^^ (aesX b ^^^ b) ^^^ nthB c ((r + 2) % 4) ^^^ nthB c ((r + 3) % 4)

/-- MixColumns. -/
def aesMix (s : List Nat) : List Nat := (chunk 4 4 s).flatMap aesMixCol

/-- The rounds that the remaining round keys give. -/
def aesRounds : List (List Nat) → List Nat → List Nat
  | [], s => s
  | [k], s => xorL (aesShift (s.map aesSub)) k
  | k :: ks, s => aesRounds ks (xorL (aesMix (aesShift (s.map aesSub))) k)

/-- AES-256 encryption of a 16-byte block. -/
def aesBlock (key s : List Nat) : List Nat :=
  match aesKeys key with
  | [] => s
  | k :: ks => aesRounds ks (xorL s k)

/-- `n` bytes of a number, the highest first. -/
def beBytes (v n : Nat) : List Nat := (List.range n).map fun i => bitsAt v (8 * (n - 1 - i)) 8

/-- The number that bytes spell, the highest first. -/
def beNum (l : List Nat) : Nat := l.foldl (fun v b => 256 * v + b) 0

/-- `n` steps of the product in the field of GCM: the bits of `x` still to come, the running product and the shifted
factor. -/
def gcmSteps : Nat → Nat → Nat → Nat → Nat
  | 0, _, z, _ => z
  | n + 1, x, z, v =>
    gcmSteps n x (if bitAt x n then z ^^^ v else z) (if v % 2 = 1 then (v / 2) ^^^ (0xE1 * 2 ^ 120) else v / 2)

/-- The product of two elements of the field of GCM. -/
def gcmMul (x y : Nat) : Nat := gcmSteps 128 x 0 y

/-- The authentication register after one 16-byte block, padded with zeros. -/
def ghashStep (h y : Nat) (b : List Nat) : Nat := gcmMul (y ^^^ beNum ((b ++ List.replicate 16 0).take 16)) h

/-- The hash key of a key. -/
def gcmH (key : List Nat) : Nat := beNum (aesBlock key (List.replicate 16 0))

/-- The key stream block that covers body bytes 16i to 16i + 15. -/
def gcmStream (key iv : List Nat) (i : Nat) : List Nat := aesBlock key (iv ++ beBytes ((i + 2) % 2 ^ 32) 4)

/-- Bytes of an encrypted body from position `pos` on, decrypted. -/
def gcmDecrypt (key iv : List Nat) (pos : Nat) (c : List Nat) : List Nat :=
  let first := pos / 16
  let ks := (List.range ((pos % 16 + c.length + 15) / 16)).flatMap fun j => gcmStream key iv (first + j)
  xorL c (ks.drop (pos % 16))

/-- The tag of a body of `clen` bytes with `alen` bytes of additional data whose authentication register is `y`. -/
def gcmTag (key iv : List Nat) (y alen clen : Nat) : List Nat :=
  xorL (beBytes (gcmMul (y ^^^ (8 * alen * 2 ^ 64 + 8 * clen)) (gcmH key)) 16) (aesBlock key (iv ++ [0, 0, 0, 1]))

/-- The 32 bytes of a 256-bit key held in words, each word little-endian (log 48). -/
def keyBytes (k : Nat) : List Nat := (List.range 32).map fun i => bitsAt k (8 * i) 8

/-- KCV: the low 32 bits of the encryption of a zero block, the block little-endian (R397, log 48). -/
def kcvOf (k : Nat) : Nat :=
  let c := aesBlock (keyBytes k) (List.replicate 16 0)
  nthB c 0 + 2 ^ 8 * nthB c 1 + 2 ^ 16 * nthB c 2 + 2 ^ 24 * nthB c 3

end Sys2Proof.Machine
end

