-- ==== Sys2Proof/Machine/Breach.lean ====
section
/-! DEFINITION. Guarantee breaches and the 1 µs power update (R323 to R326, R460, R477, R478). -/

namespace Sys2Proof.Machine

/-- The reservation that makes a Running site a candidate for a resource (R323, Table 7). -/
def breachField (res s : Nat) : Fld := match res with
  | 0 => K.SITE_POWER s
  | 1 => K.SITE_GBW0 s
  | _ => K.SITE_GBW1 s

/-- The candidates of a breach: Running sites with the reservation and no stop applied (R323, R324). -/
def Dev.candidates (d : Dev) (res : Nat) : List Nat :=
  allSites.filter fun s => d.siteIn s [stRunning] && d.on (breachField res s) && !(d.site s).applied

/-- Site `a` yields before site `b`: a lower RANK, or the same with a higher ADM_SEQ (R324). -/
def Dev.yieldsFirst (d : Dev) (a b : Nat) : Bool :=
  let ra := d.get (K.SITE_RANK a)
  let rb := d.get (K.SITE_RANK b)
  decide (ra < rb) || (ra == rb && decide (d.get (K.SITE_ADM_SEQ b) < d.get (K.SITE_ADM_SEQ a)))

/-- The first element of a list by an order, if any. -/
def firstBy (p : Nat → Nat → Bool) : List Nat → Option Nat
  | [] => none
  | a :: l => some (l.foldl (fun m x => if p x m then x else m) a)

/-- A site number of a breach register, and its NONE bit: free where no site is named (log 1). -/
def Dev.siteOrFree (d : Dev) (o : Option Nat) : Nat × Dev := match o with
  | some s => (s, d)
  | none => ((d.freeVal 0).1 % 64, (d.freeVal 0).2)

/-- DEV_SITE_BREACH and the class A record GUARANTEE_BREACH, which carries its bits [17:0] (R326). -/
def Dev.breachNoted (d : Dev) (res : Nat) (yield prot : Option Nat) : Dev :=
  let (y, d) := d.siteOrFree yield
  let (p, d) := d.siteOrFree prot
  let d := (d.set K.DEV_SITE_BREACH_YIELD y).put K.DEV_SITE_BREACH_YIELD_NONE yield.isNone
  let d := (d.set K.DEV_SITE_BREACH_PROT p).put K.DEV_SITE_BREACH_PROT_NONE prot.isNone
  let d := (d.set K.DEV_SITE_BREACH_RES res).put K.DEV_SITE_BREACH_BREACH true
  d.logA 0x008 blkDEV (y + 2 ^ 6 * bit yield.isNone + 2 ^ 8 * p + 2 ^ 14 * bit prot.isNone + 2 ^ 16 * res) yield

/-- A wait of R325 for the resource is on. -/
def Dev.breachWaits (d : Dev) (res : Nat) : Bool := d.breach.any fun w => w.res == res

/-- A breach is sampled (R324, R325): the yielding site stops and its wait begins; without a candidate nothing stops. -/
def Dev.breachSampled (d : Dev) (res : Nat) : Dev :=
  let l := d.candidates res
  match firstBy d.yieldsFirst l with
  | none => d.breachNoted res none none
  | some y =>
    let prot := firstBy (fun a b => d.yieldsFirst b a) (l.filter (· != y))
    let d := { d with breach := d.breach ++ [({ res := res, until' := d.clock + d.siteBound y } : BreachWait)] }
    (d.breachNoted res (some y) prot).stopReq y 0x0C

/-- GENERAL_BW_BREACH: the memory controller of a stack declares a breach (R323). -/
def execGeneralBwBreach (stack : Fin 2) (s : State) : Out :=
  s.doesAs (3, 0x0C, 1 + stack.val) fun d =>
    if d.breachWaits (1 + stack) || !d.hbmPresent stack then d else d.breachSampled (1 + stack)

/-- BREACH_WAIT_END: the wait for a resource ends; while its detector still declares the breach, R324 applies again
(R325). For power the detector is PWR_STATUS.BREACH. -/
def execBreachWaitEnd (res : Fin 3) (persists : Bool) (s : State) : Out :=
  s.doesAs (3, 0x0C, res.val) fun d =>
    if !d.breach.any fun w => w.res == res.val && decide (w.until' ≤ d.clock) then d
    else
      let d := { d with breach := d.breach.filter fun w => w.res != res.val }
      if (if (res : Nat) = 0 then d.on K.PWR_STATUS_BREACH else persists) then d.breachSampled res else d

/-- While a power breach lasts and no wait is on, a new candidate yields in its tick (R324, R477). -/
def Dev.breachTick (d : Dev) : Dev :=
  if d.on K.PWR_STATUS_BREACH && !d.breachWaits 0 && d.candidates 0 != [] then d.breachSampled 0 else d

/-! ## The power update (R460, R477, R478) -/

/-- The average of a list, rounded down. -/
def average (l : List Nat) : Nat := l.sum / l.length

/-- POWER_UPDATE: the hub's own rails and sensors, the package power with its 10 µs average and its mark, the power
breach and the guest's limit (R460, R462, R477, R478). A lasting breach without a candidate is recorded at its rise
(log 34); the average is over the updates held, rounded down (log 35). -/
def execPowerUpdate (f : Frame) (s : State) : Out :=
  s.doesAs (3, 0x0C, 0) fun d =>
    let d := (d.set (K.PWR_DIE_TELEM_POWER 5) f.power.toNat).set (K.PWR_DIE_TELEM_TEMP 5) (hottest f.temps)
    let d := (d.railsSeen f.rails).sensors 5 (d.get K.PWR_TEMP_LIM_WARN) f.temps
    let now := ((List.range 7).map fun i => d.get (K.PWR_DIE_TELEM_POWER i)).sum
    let l := (now :: d.power.pkg).take 10
    let g := (d.get (K.PWR_DIE_TELEM_POWER 6) :: d.power.guest).take 10
    let d := { d with power := { d.power with pkg := l, guest := g } }
    let avg := min (average l) 4095
    let d := d.set K.PWR_PKG avg
    let (d, rose) := d.levelSeen avg K.PWR_PKG_WM_MARK K.PWR_PKG_WM_WM_PEAK K.PWR_PKG_WM_WM_HIT
    let d := if rose then d.wmRecord dieHD blkPWR 0x06002C (d.get K.PWR_PKG_WM_WM_PEAK) none else d
    let was := d.on K.PWR_STATUS_BREACH
    let now := decide (d.get K.PWR_BREACH_LIM < avg)
    let d := d.put K.PWR_STATUS_BREACH now
    let d := if now then d.put K.PWR_STATUS_BREACH_SEEN true else d
    let d := if now && !d.breachWaits 0 && (!was || d.candidates 0 != []) then d.breachSampled 0 else d
    if d.variant.hasGuest && decide (80 < average g) && !d.on K.FWL_STATUS_ISOLATED then
      (d.isolate 4).logA 0x013 blkPWR (average g)
    else d

end Sys2Proof.Machine
end

