-- ==== Sys2Proof/Machine/SiteCmd.lean ====
section
/-! DEFINITION. The site commands and the end of a Rocker pass (R309, R310, R312, R314 to R322, R371, R519). -/

namespace Sys2Proof.Machine

/-- LAST_RESULT codes (R328, Table 12). -/
def lrACCEPTED : Nat := 1
def lrSTATE : Nat := 2
def lrBUSY : Nat := 4
def lrSUPERSEDED : Nat := 5
def lrBADOP : Nat := 6
def lrCOND : Nat := 7

/-- A command and its outcome in the site's entry (R310). -/
def Dev.siteAns (d : Dev) (s op res : Nat) : Dev := (d.set (K.SITE_LAST_OP s) op).set (K.SITE_LAST_RESULT s) res

/-- A refusal for a condition, with its REFUSE code. -/
def Dev.siteCond (d : Dev) (s op code : Nat) : Dev := (d.siteAns s op lrCOND).set (K.SITE_REFUSE s) code

/-! ## Effects -/

/-- A park or abort is pending, a resume is not (R317). -/
def Dev.pend (d : Dev) (s : Nat) (abort : Bool) : Dev :=
  (d.put (if abort then K.SITE_ABORT_PEND s else K.SITE_PARK_PEND s) true).put (K.SITE_RESUME_PEND s) false

/-- A PARK with a stop cause, to a Running, Curtaining or Rocking site (R317). -/
def Dev.parkReq (d : Dev) (s cause : Nat) : Dev := (d.stopReq s cause).pend s false

/-- An ABORT with a stop cause: of an Admitted site, or of a Parked one, at once, unless a link of the site is DOWN
(R309, R317, R371). -/
def Dev.abortReq (d : Dev) (s cause : Nat) : Dev :=
  let d := d.stopReq s cause
  if d.siteIn s [stAdmitted, stParked] && !d.siteDown s then d.abortSite s else d.pend s true

/-- ADMIT: the admission begins, and the site's dies wake (R312, R472). -/
def Dev.admitStart (d : Dev) (s : Nat) : Dev :=
  let d := (d.put (K.SITE_ADM_BUSY s) true).put K.DEV_SITE_STATUS_ADM_BUSY true
  let d := (d.set K.DEV_SITE_STATUS_ADM_SITE s).set (K.SITE_LAST_OP s) 1
  d.each ((d.siteDies s).filter d.cdPresent) Dev.wakeDie

/-- Why a START is refused for a condition, or 0 (R314, R371). -/
def Dev.startCode (d : Dev) (s : Nat) : Nat :=
  if d.on K.TIM_STATUS_TIME_UNSURE then 0x20
  else if d.siteDown s then 0x26
  else if (d.armStart s).isNone then 0x21
  else 0

/-- Why a RESTART is refused for a condition, or 0 (R321, R371, R519). -/
def Dev.restartCode (d : Dev) (s : Nat) : Nat :=
  if d.get (K.SITE_CAUSE s) = 0x05 then 0x22
  else if d.siteDown s then 0x26
  else if d.allOf s (fun c => !c.halted) && (d.siteCores s).all (fun q => !(d.core q).refilling || d.leadFull q) then 0
  else 0x27

/-- RESTART: the site is Admitted, each core in PREFILL from its stop boundary (R321). -/
def Dev.restart (d : Dev) (s : Nat) : Dev :=
  let d := d.each (d.siteCores s) fun d q =>
    ((d.prefill q).modV q fun v => { v with phase := 3 }).setCoreState q csPREFILL
  d.setSiteState s stAdmitted

/-- A core leaves its site: IDLE, nothing runs, its FIFO and staged records are dropped (R322; log 36). -/
def Dev.coreLeaves (d : Dev) (q : Nat) : Dev :=
  let n := q / 16
  let k := q % 16
  let d := d.unpinAll q
  let d := d.modCore q fun c =>
    { c with ctl := .off, pfx := none, fetched := 0, refilling := false, haltState := csIDLE, cap := {}
             v := { c.v with vec := .off, viq := [], phase := 3, mark := none, pinSigs := [], mloop := none, job := none
                             snaps := [], stopSnap := none, openSnap := none } }
  let d := (d.put (K.SEQ_STATUS_IN_SITE n k) false).put (K.SEQ_STATUS_CRS_LOADED n k) false
  d.setCoreState q csIDLE

/-- RELEASE: the site is Idle and holds nothing (R322). -/
def Dev.release (d : Dev) (s : Nat) : Dev :=
  let d := (d.cancelStarts s).each (d.siteCores s) Dev.coreLeaves
  let d := d.each (d.siteDies s) fun d n =>
    { d with tgn := { d.tgn with staging := tblErase d.tgn.staging (64 * n + s) } }
  let d := (d.put (K.SITE_PARK_PEND s) false).put (K.SITE_ABORT_PEND s) false
  let d := { d with sites := tblErase d.sites s }
  (d.rpsRelease s).setSiteState s stIdle

/-! ## The judgement (R309, R310, R316, R118) -/

/-- States in which a stop command is accepted; a STOP after a stop is recorded under R144 (R310, Table 3). -/
def stopStates (op : Nat) : List Nat := match op with
  | 3 => [stAdmitted, stRunning, stCurtaining, stRocking]
  | 4 => [stRunning, stCurtaining, stRocking]
  | _ => [stAdmitted, stRunning, stCurtaining, stRocking, stParked]

/-- Effect of STOP, PARK or ABORT. -/
def Dev.stopCmd (d : Dev) (op s : Nat) : Dev := match op with
  | 3 => d.stopReq s 0x01
  | 4 => d.parkReq s 0x02
  | _ => d.abortReq s 0x03

/-- The site command `op` would be accepted. -/
def Dev.cmdOk (d : Dev) (op s : Nat) : Bool := match op with
  | 0 => true
  | 1 => d.siteIn s [stIdle] && !d.on K.DEV_SITE_STATUS_ADM_BUSY
  | 2 => d.siteIn s [stAdmitted] && d.startCode s == 0
  | 3 => d.siteIn s (stopStates 3)
  | 4 => d.siteIn s (stopStates 4)
  | 5 => d.siteIn s (stopStates 5)
  | 6 => d.siteIn s [stRocking] && d.resumeCode s (d.siteDown s) == 0
  | 7 => d.siteIn s [stParked] && d.restartCode s == 0
  | 8 => d.siteIn s [stAdmitted, stParked, stAborted]
  | _ => false

/-- The effect of an accepted site command. -/
def Dev.cmdApply (d : Dev) (op s : Nat) : Dev := match op with
  | 0 => d.siteAns s 0 lrACCEPTED
  | 1 => d.admitStart s
  | 2 => ((d.armStart s).getD d).siteAns s 2 lrACCEPTED
  | 6 => (d.put (K.SITE_RESUME_PEND s) true).siteAns s 6 lrACCEPTED
  | 7 => (d.restart s).siteAns s 7 lrACCEPTED
  | 8 => (d.release s).siteAns s 8 lrACCEPTED
  | _ => (d.stopCmd op s).siteAns s op lrACCEPTED

/-- The refusal of a site command (R310, R312, R314, R320). -/
def Dev.cmdRefuse (d : Dev) (op s : Nat) : Dev := match op with
  | 1 => d.siteAns s 1 (if d.on K.DEV_SITE_STATUS_ADM_BUSY then lrBUSY else lrSTATE)
  | 2 => if d.siteIn s [stAdmitted] then d.siteCond s 2 (d.startCode s) else d.siteAns s 2 lrSTATE
  | 6 => if d.siteIn s [stRocking] then d.siteCond s 6 (d.resumeCode s (d.siteDown s)) else d.siteAns s 6 lrSTATE
  | 7 => if d.siteIn s [stParked] then d.siteCond s 7 (d.restartCode s) else d.siteAns s 7 lrSTATE
  | _ => d.siteAns s op (if op ≤ 8 then lrSTATE else lrBADOP)

/-- The class of a site command: P3 for a stop request, P6 otherwise (R116, R309). -/
def cmdClass (op : Nat) : Nat := if op = 3 ∨ op = 4 ∨ op = 5 then 3 else 6

/-- DEV_SITE_CMD written with OP and SITE (R310, R118). -/
def State.siteCmd (s : State) (op site : Nat) : State :=
  s.onDevAs (cmdClass op, op, site) fun _ =>
    s.judge (cmdClass op) blkDEV (some site) (fun d => d.cmdOk op site) (fun d => d.cmdApply op site)
      (fun d => d.cmdRefuse op site) (fun d => d.siteAns site op lrSUPERSEDED)

/-! ## The end of a Rocker pass (R224, R320) -/

/-- A condition of a RESUME that waits has ceased to hold: the resume is withdrawn with its code (R320). Only the
conditions of R320's list withdraw it; a halt or a link only delays it (log 37). -/
def Dev.resumeCheck (d : Dev) (s : Nat) : Dev :=
  let c := d.resumeCode s false
  if d.on (K.SITE_RESUME_PEND s) && d.siteIn s [stRocking] && c != 0 && c != 0x27 then
    (d.put (K.SITE_RESUME_PEND s) false).siteCond s 6 c
  else d

/-- A waiting RESUME takes effect at the end of this pass: every core holds LEAD_TARGET cycles and its segment is
admitted (R320). -/
def Dev.resumeReady (d : Dev) (s : Nat) : Bool :=
  d.on (K.SITE_RESUME_PEND s) && d.resumeCode s false == 0 && (d.siteCores s).all fun q =>
    d.leadFull q && (match (d.core q).v.vec with
      | .admitting _ => false
      | _ => true)

/-- ROCKER_PASS_END: a Rocker pass ends: the pending abort, or park, takes effect, or the resume; else the Rocker plays
on (R224, R317, R320, R371). -/
def execRockerPassEnd (i : SiteId) (s : State) : Out :=
  s.does fun d =>
    if !(d.siteIn i [stRocking] && d.played i 2) then d
    else if d.on (K.SITE_ABORT_PEND i) && !d.siteDown i then d.abortSite i
    else if d.on (K.SITE_PARK_PEND i) && !d.siteDown i then d.parkNow i
    else if d.resumeReady i then (d.put (K.SITE_RESUME_PEND i) false).enterRunning i
    else d.each (d.siteCores i) fun d q => d.modV q fun v => { v with pos := (0, 0, 0) }

end Sys2Proof.Machine
end

