-- ==== Sys2Proof/Machine/EventLog.lean ====
section
/-! DEFINITION. The event log's buffer: storing, coalescing, quotas, losses, acknowledgement (R553 to R565). -/

namespace Sys2Proof.Machine

/-- Device address of the event-log buffer (R557). -/
def evlBase : Nat := 0x00800B200000

/-- Entries of a region: 0 class A, 1 class B, 2 class C (R557, Table 3). -/
def evlSize (c : Nat) : Nat := match c with
  | 0 => 4096
  | 1 => 131072
  | _ => 126976

/-- Device address of record `i` of a region. -/
def evlAddr (c i : Nat) : Nat :=
  evlBase + (match c with
    | 0 => 0
    | 1 => 0x20000
    | _ => 0x420000) + 32 * (i % evlSize c)

/-- WR of a region. -/
def evlWR (c : Nat) : Fld := match c with
  | 0 => K.EVL_A_WR
  | 1 => K.EVL_B_WR
  | _ => K.EVL_C_WR

/-- RD of a region. -/
def evlRD (c : Nat) : Fld := match c with
  | 0 => K.EVL_A_RD
  | 1 => K.EVL_B_RD
  | _ => K.EVL_C_RD

/-- Records of a region that are not acknowledged: WR − RD modulo 2^32 (R558). -/
def Dev.evlLevel (d : Dev) (c : Nat) : Nat :=
  if d.get (evlRD c) ≤ d.get (evlWR c) then d.get (evlWR c) - d.get (evlRD c)
  else 2 ^ 32 - d.get (evlRD c) + d.get (evlWR c)

/-- A region's table of stored records. -/
def Evl.region (e : Evl) (c : Nat) : Tbl Stored := match c with
  | 0 => e.regionA
  | 1 => e.regionB
  | _ => e.regionC

/-- A region's table replaced. -/
def Evl.setRegion (e : Evl) (c : Nat) (t : Tbl Stored) : Evl := match c with
  | 0 => { e with regionA := t }
  | 1 => { e with regionB := t }
  | _ => { e with regionC := t }

/-- Word 1 of a record (R551, Table 1). -/
def Rec.word1 (r : Rec) : Nat :=
  r.cls + 2 ^ 2 * bit r.inj + 2 ^ 3 * bit r.press + 2 ^ 8 * r.ty + 2 ^ 20 * r.die + 2 ^ 24 * r.unit +
    2 ^ 32 * (r.site.getD 0) + 2 ^ 38 * bit r.site.isSome + 2 ^ 39 * (r.arg % 512) + 2 ^ 48 * (r.count % 65536)

/-- The 32 bytes of a stored record as a number (R551). -/
def Stored.bits (x : Stored) : Nat :=
  x.body.tti % 2 ^ 64 + 2 ^ 64 * x.body.word1 + 2 ^ 128 * (x.body.lastDt % 2 ^ 32 + 2 ^ 32 * (x.seq % 2 ^ 32)) +
    2 ^ 192 * (x.body.data % 2 ^ 64)

/-- Record `i` of a region written, in the region and in the buffer's memory. -/
def Dev.evlPut (d : Dev) (c i : Nat) (x : Stored) : Dev :=
  let d := { d with evl := d.evl.setRegion c (tblPut (d.evl.region c) (i % evlSize c) x) }
  d.memSet (evlAddr c i) 32 x.bits

/-- A record stored as the region's next, with the next SEQ (R558, R559). -/
def Dev.evlAppend (d : Dev) (c : Nat) (r : Rec) : Dev :=
  let d := d.evlPut c (d.get (evlWR c)) ⟨r, d.get K.EVL_SEQ⟩
  (d.adv (evlWR c)).adv K.EVL_SEQ

/-- The indices of the unacknowledged records of a region, newest first. -/
def Dev.evlIndices (d : Dev) (c : Nat) : List Nat :=
  (List.range (d.evlLevel c)).map fun k => (d.get (evlWR c) + 2 ^ 32 - 1 - k) % 2 ^ 32

/-- The newest unacknowledged record of a region that `p` selects, with its index. -/
def Dev.evlFind (d : Dev) (c : Nat) (p : Rec → Bool) : Option (Nat × Stored) :=
  let rec go : List Nat → Option (Nat × Stored)
    | [] => none
    | i :: l => match tblFind (d.evl.region c) (i % evlSize c) with
      | some x => if p x.body then some (i, x) else go l
      | none => go l
  go (d.evlIndices c)

/-- A record merged into a stored one: COUNT and LAST_DT rise to take in its occurrences, DATA stays (R555). -/
def Rec.take (a r : Rec) (press : Bool) : Rec :=
  { a with
    count := min (a.count + r.count) 65535
    lastDt := min (r.tti + r.lastDt - a.tti) (2 ^ 32 - 1)
    press := a.press || r.press || press }

/-- The merge of R555: same TYPE, source, SITE and INJ, and no more than 799 ticks after the stored record. -/
def Rec.near (a r : Rec) : Bool :=
  a.ty == r.ty && a.die == r.die && a.unit == r.unit && a.site == r.site && a.inj == r.inj && decide (a.tti ≤ r.tti) &&
    decide (r.tti ≤ a.tti + 799)

/-- A record merged into record `i` of a region. -/
def Dev.evlMerge (d : Dev) (c : Nat) (x : Nat × Stored) (r : Rec) (press : Bool) : Dev :=
  d.evlPut c x.1 { x.2 with body := x.2.body.take r press }

/-- A QUOTA or SPILL record that opens with record `r` (R560); its source is the event log's block (log 40). -/
def Rec.gather (r : Rec) (ty : Nat) (site : Option Nat) : Rec :=
  { r with ty := ty, die := dieHD, unit := blkEVL, site := site, data := r.ty, press := true }

/-- The record's quota is used up: EVQ_USED of its site, or 1,024 unacknowledged records without a site (R560). -/
def Dev.overQuota (d : Dev) (r : Rec) : Bool := match r.site with
  | some s => d.get (K.SITE_EVQ_USED s) == d.get (K.SITE_EVQ s)
  | none => decide (1024 ≤ ((d.evlIndices 0).filter fun i => match tblFind d.evl.regionA (i % 4096) with
    | some x => x.body.site.isNone
    | none => false).length)

/-- A class A record that meets a full region merges into its newest unacknowledged record (R560). -/
def Dev.mergeAny (d : Dev) (r : Rec) : Dev :=
  match d.evlFind 0 fun _ => true with
  | some x => d.evlMerge 0 x r true
  | none => d

/-- A class A record over its site's quota: it merges into the site's QUOTA record, which it makes where there is none
(R560). -/
def Dev.storeSpill (d : Dev) (r : Rec) : Dev :=
  match d.evlFind 0 fun a => a.ty == 0x019 && a.site == r.site with
  | some x => d.evlMerge 0 x r true
  | none => d.evlAppend 0 (if d.evlLevel 0 < 4095 then r.gather 0x019 r.site else r.gather 0x01A none)

/-- A class A record with an entry of its own; the last entry of the region is SPILL (R560). -/
def Dev.storePlain (d : Dev) (r : Rec) : Dev :=
  if d.evlLevel 0 = 4095 then d.evlAppend 0 (r.gather 0x01A none)
  else
    let d := d.evlAppend 0 r
    match r.site with
    | some s => d.set (K.SITE_EVQ_USED s) (min (d.get (K.SITE_EVQ_USED s) + 1) (d.get (K.SITE_EVQ s)))
    | none => d

/-- A class A record is placed by the first rule of R560 that applies. -/
def Dev.storeA (d : Dev) (r : Rec) : Dev :=
  match d.evlFind 0 (·.near r) with
  | some x => d.evlMerge 0 x r false
  | none =>
    if 4096 ≤ d.evlLevel 0 then d.mergeAny r
    else if d.overQuota r then d.storeSpill r
    else d.storePlain r

/-- The EVL notice: interrupt source 1 while NOTICE_EN = 1 (R562). -/
def Dev.notice (d : Dev) : Dev :=
  if d.on K.EVL_CTRL_NOTICE_EN then (d.put K.EVL_STATUS_NOTICE true).irq 1 else d

/-- The level of the class B or C ring is seen by its watermark (R275, R562). -/
def Dev.ringSeen (d : Dev) (c : Nat) : Dev :=
  let (mark, peak, hit, addr) := if c = 1
    then (K.EVL_B_WM_MARK, K.EVL_B_PEAK_WM_PEAK, K.EVL_B_PEAK_WM_HIT, 0x0D0024)
    else (K.EVL_C_WM_MARK, K.EVL_C_PEAK_WM_PEAK, K.EVL_C_PEAK_WM_HIT, 0x0D002C)
  let (d, rose) := d.levelSeen (d.evlLevel c) mark peak hit
  if rose then (d.wmRecord dieHD blkEVL addr (d.get peak) none).notice else d

/-- The GAP record of a ring that has lost records, when it has room (R561). -/
def Dev.storeGap (d : Dev) (c : Nat) : Dev :=
  match if c = 1 then d.evl.gapB else d.evl.gapC with
  | none => d
  | some (n, a, z) =>
    if evlSize c ≤ d.evlLevel c then d
    else
      let r : Rec := { tti := a, cls := c + 1, inj := false, press := false, ty := if c = 1 then 0x120 else 0x203
                       die := dieHD, unit := blkEVL, site := none, arg := 0, count := 1
                       lastDt := min (z - a) (2 ^ 32 - 1), data := n % 2 ^ 32 }
      let d := { d with evl := if c = 1 then { d.evl with gapB := none } else { d.evl with gapC := none } }
      ((d.evlAppend c r).ringSeen c).notice

/-- A class B (region 1) or C record is merged, stored after a due GAP record, or lost in a full ring (R556, R561). -/
def Dev.storeRing (d : Dev) (c : Nat) (r : Rec) : Dev :=
  match if c = 1 then d.evlFind 1 (fun a => a.near r && a.data == r.data) else none with
  | some x => d.evlMerge 1 x r false
  | none =>
    let d := d.storeGap c
    if evlSize c ≤ d.evlLevel c then d.lose (c + 1) r.tti else (d.evlAppend c r).ringSeen c

/-- A class A record is reported to the hub front end: interrupt source 0, or kept while the hub link is DOWN (R562,
R554). -/
def Dev.reportA (d : Dev) : Dev :=
  if d.on K.NOP_STATUS_BD_UP then d.irq 0 else { d with evl := { d.evl with reports := true } }

/-- The reports that waited for the hub link reach the front end (R554). -/
def Dev.reportsArrive (d : Dev) : Dev :=
  if d.evl.reports && d.on K.NOP_STATUS_BD_UP then { d with evl := { d.evl with reports := false } }.irq 0 else d

/-- The buffer controller stores a record. -/
def Dev.store (d : Dev) (r : Rec) : Dev :=
  if r.cls = 1 then (d.storeA r).reportA else if r.cls = 2 then d.storeRing 1 r else d.storeRing 2 r

/-- The oldest record of a table of class A slots, with its key. -/
def oldestSlot (t : Tbl Rec) : Option (Nat × Rec) := match t with
  | [] => none
  | a :: l => some (l.foldl (fun m x => if x.2.tti < m.2.tti then x else m) a)

/-- The next class B record of a queue, or else its next class C record, and the queue without it. -/
def nextOf (q : List Rec) : Option (Rec × List Rec) :=
  match q.find? (·.cls == 2) with
  | some r => some (r, q.erase r)
  | none => match q with
    | r :: l => some (r, l)
    | [] => none

/-- The controller whose trace buffer a unit is, if it is one (R551). -/
def traceOwner (die unit : Nat) : Option Nat :=
  if die < 4 ∧ unit < 16 then some (16 * die + unit) else if die = dieHD ∧ unit = blkHUBC then some 64 else none

/-- The next record that leaves a unit: class A first, then B, then C, with a controller's trace buffer last (R553,
R559). -/
def Dev.takeRecord (d : Dev) (die unit : Nat) : Option (Rec × Dev) :=
  let u := unitKey die unit
  match oldestSlot (d.evl.slots.filter fun e => e.1 / 4096 == u) with
  | some (k, r) => some (r, { d with evl := { d.evl with slots := tblErase d.evl.slots k } })
  | none => match nextOf (tblGet [] d.evl.queues u) with
    | some (r, l) =>
      let q := if l = [] then tblErase d.evl.queues u else tblPut d.evl.queues u l
      some (r, { d with evl := { d.evl with queues := q } })
    | none => match traceOwner die unit with
      | some x => match (d.core x).trace with
        | r :: l => some (r, d.modCore x fun c => { c with trace := l })
        | [] => none
      | none => none

/-- The hub front end holds a record while the hub link is DOWN: class A in its type's slot, B and C in the queue of 480
(R554). A class A report of a hub-die unit reaches the front end at once (R562). -/
def Dev.holdRecord (d : Dev) (r : Rec) : Dev :=
  if r.cls = 1 then
    let r' := match tblFind d.evl.holdSlots r.ty with
      | some h => (h.absorbSlot r).take { r with count := r.count - 1 } false
      | none => r
    { d with evl := { d.evl with holdSlots := tblPut d.evl.holdSlots r.ty r' } }.irq 0
  else if d.evl.hold.length < 480 then { d with evl := { d.evl with hold := d.evl.hold ++ [r] } }
  else d.lose r.cls r.tti

/-- The next record that the hub front end held, once the link is UP: class A first, then in order. -/
def Dev.takeHeld (d : Dev) : Option (Rec × Dev) :=
  match oldestSlot d.evl.holdSlots with
  | some (k, r) => some (r, { d with evl := { d.evl with holdSlots := tblErase d.evl.holdSlots k } })
  | none => match nextOf d.evl.hold with
    | some (r, l) => some (r, { d with evl := { d.evl with hold := l } })
    | none => none

/-- RECORD_STORE: the collector takes the next record of a unit. A record of a hub-die unit passes through the front end,
which holds it while the hub link is DOWN and sends held records first (R553, R554). -/
def execRecordStore (die : BitVec 3) (unit : BitVec 8) (s : State) : Out :=
  s.does fun d =>
    let hub := die.toNat == dieHD
    if !hub then match d.takeRecord die.toNat unit.toNat with
      | some (r, d) => d.store r
      | none => d
    else if !d.on K.NOP_STATUS_BD_UP then match d.takeRecord die.toNat unit.toNat with
      | some (r, d) => d.holdRecord r
      | none => d
    else match d.takeHeld with
      | some (r, d) => d.store r
      | none => match d.takeRecord die.toNat unit.toNat with
        | some (r, d) => d.store r
        | none => d

/-- The alarm region holds an unacknowledged record, or the front end a class A record (R562). -/
def Dev.alarm (d : Dev) : Bool := d.get K.EVL_A_WR != d.get K.EVL_A_RD || d.evl.holdSlots != []

/-- A write of a region's RD: it advances to at most WR, or is ignored with WR_REFUSED (R558). -/
def Dev.rdWrite (d : Dev) (c v : Nat) : Dev :=
  if (v + 2 ^ 32 - d.get (evlRD c)) % 2 ^ 32 ≤ d.evlLevel c then d.set (evlRD c) v
  else d.put K.EVL_STATUS_WR_REFUSED true

end Sys2Proof.Machine
end

