-- ==== Sys2Proof/Machine/Clocks.lean ====
section
/-! DEFINITION. The channel-die PLLs: locking, frequency steps, loss of lock, RELOCK and the LOCK_A pin (R442 to R459). -/

namespace Sys2Proof.Machine

/-! ## Bands and locking (R445, R446, R448, R450) -/

/-- The post-divider for a base period: 8 when the base frequency is 2 GHz or less, else 4 (R445). -/
def postDiv (tb : Nat) : Nat := if 4000 ≤ tb then 8 else 4

/-- The VCO frequency of base period `tb` at offset `ofs` lies in the band [lo, hi] MHz (R445, R446). -/
def inBand (tb : Nat) (ofs : Int) (lo hi : Nat) : Bool :=
  let f := 8000000 * postDiv tb * (1000000000 + ofs).toNat
  decide (lo * tb * 1000000000 ≤ f) && decide (f ≤ hi * tb * 1000000000)

/-- Entry `e` of a PLL's band table holds the frequency. -/
def Dev.bandHolds (d : Dev) (n p tb : Nat) (ofs : Int) (e : Nat) : Bool :=
  inBand tb ofs (d.get (K.BAND_F_LO n p e)) (d.get (K.BAND_F_HI n p e))

/-- The lowest-numbered valid entry whose range contains the VCO frequency at OFS = 0 (R446). -/
def Dev.bandFor (d : Dev) (n p : Nat) : Option Nat :=
  (List.range 32).find? fun e => d.on (K.BAND_VALID n p e) && d.bandHolds n p (d.get (K.PLL_CFG_TB n p)) 0 e

/-- LOCKED_A or LOCKED_B. -/
def lockedFld (n p : Nat) : Fld := if p = 0 then K.PLL_STATUS_LOCKED_A n else K.PLL_STATUS_LOCKED_B n

/-- BAND_A or BAND_B. -/
def bandFld (n p : Nat) : Fld := if p = 0 then K.PLL_STATUS_BAND_A n else K.PLL_STATUS_BAND_B n

/-- PLL_OUT as one word. -/
def Dev.pllOut (d : Dev) (n p : Nat) : Nat :=
  [K.PLL_OUT_DIV1 n p, K.PLL_OUT_FMT1 n p, K.PLL_OUT_LEVEL1 n p, K.PLL_OUT_DIV2 n p, K.PLL_OUT_FMT2 n p,
    K.PLL_OUT_LEVEL2 n p, K.PLL_OUT_DIV3 n p, K.PLL_OUT_FMT3 n p, K.PLL_OUT_LEVEL3 n p].foldr
    (fun f w => d.get f + 2 ^ f.width * w) 0

/-- A PLL is locked in band entry `e`: its settings are those in force, OFS starts at 0, and the dither LFSR from the
seed, where 0 acts as 1 (R446, R448, R450). -/
def Dev.pllLocks (d : Dev) (n p e : Nat) : Dev :=
  let seed := d.get (K.PLL_SEED_SEED n p)
  let u : PllUse := ⟨d.get (K.PLL_CFG_TB n p), d.on (K.PLL_CFG_DITHER_EN n p), if seed = 0 then 1 else seed, d.pllOut n p⟩
  let d := ((d.put (lockedFld n p) true).set (bandFld n p) e).set (K.PLL_OFS_OFS n p) 0
  { d with clk := { d.clk with use := tblPut d.clk.use (2 * n + p) u } }

/-- Both PLLs of a die lock, or nothing happens when one finds no band entry. -/
def Dev.diePllsLock (d : Dev) (n : Nat) : Option Dev :=
  match d.bandFor n 0, d.bandFor n 1 with
  | some a, some b => some ((d.pllLocks n 0 a).pllLocks n 1 b)
  | _, _ => none

/-! ## Steps (R451 to R453) -/

/-- STATE and RESULT of a step. -/
def Dev.stepMark (d : Dev) (n p st res : Nat) : Dev :=
  (d.set (K.PLL_STEP_CTRL_STATE n p) st).set (K.PLL_STEP_CTRL_RESULT n p) res

/-- The armed step of a PLL. -/
def Dev.armedStep (d : Dev) (n p : Nat) : Option (Int × Nat) := tblFind d.clk.armed (2 * n + p)

/-- The armed step of a PLL is over. -/
def Dev.dropStep (d : Dev) (n p : Nat) : Dev :=
  { d with clk := { d.clk with armed := tblErase d.clk.armed (2 * n + p) } }.put (K.PLL_STEP_CTRL_ARM n p) false

/-- The armed step of a PLL, if any, is CANCELLED (R452). -/
def Dev.cancelStep (d : Dev) (n p : Nat) : Dev :=
  if (d.armedStep n p).isSome then (d.dropStep n p).stepMark n p 5 0 else d

/-- The first refusal of Table 3 that applies to a step, or 0 (R451). -/
def Dev.stepRefusal (d : Dev) (n p : Nat) (v : Int) (t : Nat) : Nat :=
  let far (o : Int) : Bool := decide (2000000 < (v - o).natAbs)
  let tb := match tblFind d.clk.use (2 * n + p) with
    | some u => u.tb
    | none => d.get (K.PLL_CFG_TB n p)
  if far (d.getInt (K.PLL_OFS_OFS n p)) || (match d.armedStep n p with
    | some a => far a.1
    | none => false) then 1
  else if !d.bandHolds n p tb v (d.get (bandFld n p)) then 2
  else if (match tblFind d.clk.lastStep (2 * n + p) with
    | some l => decide (t < l + 8000)
    | none => false) then 3
  else if !d.on (lockedFld n p) || d.on (K.TGN_STATUS_BYPASS n) then 4
  else if (d.armedStep n p).isSome then 5
  else 0

/-- A write of PLL_STEP_CTRL.ARM is judged: MISSED, REFUSED or ARMED (R451). A refused ARM leaves the step that is already
armed (log 42). -/
def Dev.stepArm (d : Dev) (n p : Nat) : Dev :=
  let v := d.getInt (K.PLL_STEP_OFS_NEW n p)
  let t := d.get2 (K.PLL_STEP_TTI_LO_TTI_LO n p) (K.PLL_STEP_TTI_HI_TTI_HI n p)
  if t < d.tti + 64 then d.stepMark n p 3 0
  else
    let r := d.stepRefusal n p v t
    if r ≠ 0 then d.stepMark n p 4 r
    else
      let d := (d.stepMark n p 1 0).put (K.PLL_STEP_CTRL_ARM n p) true
      { d with clk := { d.clk with armed := tblPut d.clk.armed (2 * n + p) (v, t) } }

/-- A write of PLL_STEP_CTRL.DISARM: the armed step is CANCELLED; after the step of its tick it is SUPERSEDED (R452). -/
def State.stepDisarm (s : State) (n p : Nat) : State :=
  s.onDevAs (6, 2, p) fun _ =>
    s.judge 6 cblkPLL none (fun d => (d.armedStep n p).isSome) (fun d => d.cancelStep n p) id id

/-- PLL_STEP: an armed step reaches its TTI: OFS takes the new value, and SEQ_STOPBOUND of the cores that it times is
computed again (R232, R451, R452). -/
def execPllStep (n : Die) (p : Fin 2) (s : State) : Out :=
  s.doesAs (4, 0, p.val) fun d =>
    match d.armedStep n p with
    | some (v, t) =>
      if t ≠ d.tti then d
      else
        let d := ((d.dropStep n p).stepMark n p 2 0).set (K.PLL_OFS_OFS n p) (narrow v 32)
        let d := { d with clk := { d.clk with lastStep := tblPut d.clk.lastStep (2 * n + p) t } }
        d.each ((d.dieCores n).filter fun q => (d.coreSite q).isSome && d.pdPll n (d.corePd q) == p.val) fun d q =>
          d.set (K.SEQ_STOPBOUND_TICKS (q / 16) (q % 16)) (d.stopBound q)
    | none => d

/-! ## Loss of lock (R233, R454) -/

/-- The PLLs of a list lose lock on CD `n`: the bypass clock, LOST, CLOCK stops to the die's sites, a class A record
PLL_LOST for each, their steps cancelled; a deskew measurement is abandoned (R452, R454). -/
def Dev.pllsLost (d : Dev) (n : Nat) (l : List Nat) : Dev :=
  let l := l.filter fun p => d.on (lockedFld n p)
  if l = [] then d
  else
    let d := d.each l fun d p => ((d.put (lockedFld n p) false).cancelStep n p).logAOn n 0x009 cblkPLL p
    let d := (d.put (K.TGN_STATUS_BYPASS n) true).put (K.PLL_STATUS_LOST n) true
    (d.sweepAbandon n).stopReqs (d.sitesOnDie n stActive) 0x0F

/-- PLL_LOSS_OF_LOCK: a PLL's phase error or a cycle slip loses its lock (R454). -/
def execPllLossOfLock (n : Die) (p : Fin 2) (s : State) : Out :=
  s.doesAs (3, 0x0F, n.val) fun d => d.pllsLost n [p.val]

/-! ## RELOCK (R455) -/

/-- HOLDER of a relock (R532). -/
def relockHolder (n : Nat) : Nat := 0x40 + n

/-- The conditions of a RELOCK but for the lease hold (R455). -/
def Dev.relockOk (d : Dev) (n : Nat) : Bool :=
  d.on K.CLK_STATUS_REF_OK && (d.sitesOnDie n [stRunning, stCurtaining, stRocking]).isEmpty &&
    (List.range 16).all (fun pd => !d.on (K.TGN_PD_CFG_RUN n pd)) &&
    (List.range 2).all fun p => (d.armedStep n p).isNone

/-- The PLL lease is held: the relock begins, or is refused and gives the lease back when a condition no longer holds
(log 43). -/
def Dev.relockBegins (d : Dev) (n : Nat) : Dev :=
  if d.relockOk n then
    let d := (d.put (lockedFld n 0) false).put (lockedFld n 1) false
    { d with clk := { d.clk with relocking := d.clk.relocking ++ [n] } }
  else (d.put (K.PLL_STATUS_RELOCK_REFUSED n) true).leaseDrop n lcPLL (relockHolder n)

/-- A write of one to PLL_CTRL.RELOCK; while one is in progress or queued it is refused (R455; log 43). -/
def Dev.relockWrite (d : Dev) (n : Nat) : Dev :=
  let mine := d.holder n lcPLL == relockHolder n || (d.leaseQueue n lcPLL).any fun p => p.1 == relockHolder n
  if mine || !d.relockOk n then d.put (K.PLL_STATUS_RELOCK_REFUSED n) true
  else match d.leaseReq n lcPLL (relockHolder n) 0 (d.on (K.PLL_CTRL_QUEUE n)) with
    | (d, .granted) => d.relockBegins n
    | (d, .queued) => d
    | (d, _) => d.put (K.PLL_STATUS_RELOCK_REFUSED n) true

/-- RELOCK_DONE: a relock ends, with the PLLs that reached lock: success leaves the bypass clock and marks every group
STALE; failure stays on it, with LOCK_FAIL and a class A record (R455). -/
def execRelockDone (n : Die) (a b : Bool) (s : State) : Out :=
  s.does fun d =>
    if !d.clk.relocking.contains n.val then d
    else
      let d := { d with clk := { d.clk with relocking := d.clk.relocking.filter (· != n.val) } }
      let d := d.leaseDrop n lcPLL (relockHolder n)
      match (if a && b then d.diePllsLock n else none) with
      | some d =>
        let d := (d.put (K.TGN_STATUS_BYPASS n) false).put (K.PLL_STATUS_LOST n) false
        d.set (K.TGN_DSK_STATUS_STALE n) 0xF
      | none =>
        let p := if a && (d.bandFor n 0).isSome then 1 else 0
        ((d.put (K.TGN_STATUS_BYPASS n) true).put (K.PLL_STATUS_LOCK_FAIL n) true).logAOn n 0x00A cblkPLL p

/-- LOCK_A[n] as the registers give it: low in reset and in Rest, else whether the PLLs that LSEL selects are locked
(R456). -/
def Dev.lockPin (d : Dev) (n : Nat) : Bool :=
  let a := d.on (K.PLL_STATUS_LOCKED_A n)
  let b := d.on (K.PLL_STATUS_LOCKED_B n)
  bitAt d.start.cdReleased n && d.get (K.PWR_DIE_STATE_STATE n) != 4 && (match d.get (K.PLL_CTRL_LSEL n) with
    | 0 => a
    | 1 => b
    | _ => a && b)

end Sys2Proof.Machine
end

