-- ==== Sys2Proof/Machine/Time.lean ====
section
/-! DEFINITION. Tester time: acquisition, the loss of a source, second marks and the time of day (R94 to R108, R122,
R442 to R444). -/

namespace Sys2Proof.Machine

/-- The time unit's state changed by `f`. -/
def Dev.modTime (d : Dev) (f : TimeU → TimeU) : Dev := { d with time := f d.time }

/-- TIME_UNSURE is set, and LOCKED cleared with it (R123). -/
def Dev.unsure (d : Dev) : Dev := (d.put K.TIM_STATUS_TIME_UNSURE true).put K.TIM_STATUS_LOCKED false

/-! ## Acquisition (R98, R99) -/

/-- An acquisition of the selected source begins (R98). -/
def Dev.acquireBegins (d : Dev) : Dev :=
  (d.modTime fun t => { t with acqPending := true, acqSrc := d.get K.TIM_CTRL_SRC }).unsure

/-- A write of one to TIM_CTRL.ACQUIRE (R98). -/
def Dev.acquireWrite (d : Dev) : Dev :=
  if d.anyActive then d.put K.TIM_STATUS_ACQ_REFUSED true else d.acquireBegins

/-- The source `src` is present, and may be acquired: a follower acquires its upstream port alone (R98, R483). -/
def Dev.canAcquire (d : Dev) (src : Nat) : Bool :=
  bitAt d.time.present src &&
    !(d.on K.CAS_STATUS_ROLE_OK && d.get K.CAS_CTRL_ROLE == 2 && src != 1 + d.get K.CAS_CTRL_UP_PORT)

/-- What an acquisition does at its completion beside loading time: schedule entries, waits, steps and a staged
time-of-day value are cancelled (R98, R106, R115, R173, R452). -/
def Dev.timeReloaded (d : Dev) : Dev :=
  let d := d.reloadCancel
  let d := { d with cores := d.cores.map fun (e : Nat × Core) => (e.1, e.2.acquired) }
  let d := d.each (List.range 4) fun d n => (d.cancelStep n 0).cancelStep n 1
  let d := { d with clk := { d.clk with lastStep := [] } }
  d.put K.TIM_STATUS_SET_PENDING false

/-- ACQUISITION_COMPLETE: TTI and the time of day are loaded, from 0 with REFCLK100 and else as the link carries them;
LOCKED; the reference moves to the source (R97, R98, R99, R102). -/
def execAcquisitionComplete (tti : BitVec 64) (sec : BitVec 40) (tick : BitVec 30) (s : State) : Out :=
  s.does fun d =>
    let src := d.time.acqSrc
    if !d.time.acqPending || !d.canAcquire src then d
    else
      let link := src != 0
      let d := d.modTime fun t => { t with
        tti := if link then tti.toNat else 0
        sec := if link then sec.toNat else 0
        tick := if link then tick.toNat % 800000000 else 0
        acqPending := false, osc := false, markDue := false, markTick := false, linkMark := none }
      let d := (d.put K.TIM_STATUS_LOCKED true).put K.TIM_STATUS_TIME_UNSURE false
      let d := { d.put K.TIM_STATUS_HOLDOVER false with cas := { d.cas with deadline := none } }
      let d := d.set K.TIM_STATUS_SRC_ACTIVE src
      let d := (d.set K.CLK_STATUS_REF_SRC (src + 1)).put K.CLK_STATUS_REF_OK true
      d.timeReloaded

/-! ## Losing and finding the reference (R443, R444, R454, R457) -/

/-- A class A record TIME (R552). -/
def Dev.timeLog (d : Dev) (code : Nat) : Dev := d.logA 0x005 blkTIM code

/-- REFCLK100 is lost. While it is the active source OSC100 is substituted, time is unsure, and every PLL of a released
die loses lock (R444, R454, R122). -/
def Dev.refLost (d : Dev) : Dev :=
  if !bitAt d.time.present 0 then d
  else
    let d := (d.modTime fun t => { t with present := clearBitAt t.present 0 }).put K.CLK_STATUS_REF_LOST true
    if d.get K.CLK_STATUS_REF_SRC ≠ 1 then d
    else
      let d := (d.set K.CLK_STATUS_REF_SRC 0).put K.CLK_STATUS_REF_OK false
      let d := ((d.modTime fun t => { t with osc := true }).put K.TIM_STATUS_SRC_LOST true).unsure
      (d.timeLog 1).each (List.range 4) fun d n => d.pllsLost n [0, 1]

/-- REF_LOST (R444). -/
def execRefLost (s : State) : Out := s.doesAs (3, 0x0F, 0) Dev.refLost

/-- REFERENCE_BACK: REFCLK100 is present again; the package reference stays OSC100 until an acquisition completes (R99,
R457; log 38). -/
def execReferenceBack (s : State) : Out :=
  s.does fun d =>
    let d := d.modTime fun t => { t with present := setBitAt t.present 0 }
    if d.get K.TIM_CTRL_SRC = 0 then d.put K.CLK_STATUS_REF_OK true else d

/-! ## Second marks and the time of day (R102, R103, R106 to R108) -/

/-- The active source is a String link, and its time is in force. -/
def Dev.linkTime (d : Dev) : Bool := d.on K.TIM_STATUS_LOCKED && d.get K.TIM_STATUS_SRC_ACTIVE != 0

/-- TIM_SEC at a mark: the staged value, unless its GO was sampled in this tick; with a String source the seconds that
the link announced; else the next second (R102, R106). -/
def Dev.secAtMark (d : Dev) : Nat × Bool :=
  if d.on K.TIM_STATUS_SET_PENDING && !d.time.goNow then (d.time.staged, true)
  else match d.linkTime, d.time.linkMark with
    | true, some (t, sec) => if t = d.tti then (sec, false) else ((d.time.sec + 1) % 2 ^ 40, false)
    | _, _ => ((d.time.sec + 1) % 2 ^ 40, false)

/-- A second mark is applied in its tick (R102, R103, R106, R107). -/
def Dev.applyMark (d : Dev) : Dev :=
  if !d.time.markDue then d
  else
    let (sec, used) := d.secAtMark
    let d := if used then d.put K.TIM_STATUS_SET_PENDING false else d
    let d := d.set2 K.TIM_MARK_TTI_LO K.TIM_MARK_TTI_HI d.tti
    d.modTime fun t => { t with sec := sec, markDue := false, stagingMark := t.stagingMark || t.staging }

/-- SECOND_MARK. -/
def execSecondMark (s : State) : Out := s.does Dev.applyMark

/-- A mark of the link that does not fall in the tick where the count rolls over, or is missing there: MARK_SLIP, with
the tick in which it was expected (R103). -/
def Dev.markSlip (d : Dev) (expected : Nat) : Dev := (d.put K.TIM_STATUS_MARK_SLIP true).logB 0x104 blkTIM expected

/-- Time moves on by one tick (R94, R102, R103): TIM_TICK rolls over at 800,000,000, and with a String source outside
holdover the link's mark is held against it; detector 0x09 suppresses a mark (R546). -/
def Dev.timeTick (d : Dev) : Dev :=
  let d := d.applyMark
  let rolls := d.time.tick == 799999999
  let d := d.modTime fun t => { t with
    tti := t.tti + 1, clock := t.clock + 1, tick := if rolls then 0 else t.tick + 1
    markDue := rolls, markTick := rolls, goNow := false }
  if !d.linkTime || d.on K.TIM_STATUS_HOLDOVER then d
  else
    let here := match d.time.linkMark with
      | some (t, _) => t == d.tti
      | none => false
    if rolls && !here then d.markSlip d.tti
    else if rolls then match d.inject 0x09 fun _ _ => true with
      | some (_, d) => (d.asInjected fun d => d.markSlip d.tti).modTime fun t => { t with linkMark := none }
      | none => d
    else if here then (d.markSlip (d.tti + 800000000 - d.time.tick)).modTime fun t => { t with linkMark := none }
    else d

/-- A write to TIM_SET_SEC_LO or TIM_SET_SEC_HI begins the staging of a value, if none is being staged (R107). -/
def Dev.stageWrite (d : Dev) : Dev :=
  if d.time.staging then d
  else d.modTime fun t => { t with staging := true, stagingMark := t.markTick }

/-- A write of one to TIM_SET_GO.GO (R106 to R108). Without a staged write since the last GO the registers' present value
is applied, and is not late (log 44). -/
def Dev.goWrite (d : Dev) : Dev :=
  if d.get K.TIM_CTRL_SRC ≠ 0 ∨ d.on K.TIM_CTRL_TIME_LOCK then d.put K.TIM_STATUS_SET_REFUSED true
  else
    let late := d.time.staging && (d.time.stagingMark || d.time.markTick)
    let d := d.put K.TIM_STATUS_SET_PENDING true
    let d := if late then d.put K.TIM_STATUS_SET_LATE true else d
    d.modTime fun t => { t with
      staged := d.get2 K.TIM_SET_SEC_LO K.TIM_SET_SEC_HI, goNow := true, staging := false, stagingMark := false }

end Sys2Proof.Machine
end

