-- ==== Sys2Proof/Machine/Cascade.lean ====
section
/-! DEFINITION. Cascading devices: roles, TIME frames, holdover, String commands and upstream status (R481 to R495). -/

namespace Sys2Proof.Machine

/-- The String endpoints' state changed by `f`. -/
def Dev.modCas (d : Dev) (f : Cas → Cas) : Dev := { d with cas := f d.cas }

/-- The upstream port. -/
def Dev.upPort (d : Dev) : Nat := d.get K.CAS_CTRL_UP_PORT

/-- The role is confirmed and is `r`: 0 NONE, 1 LEAD, 2 FOLLOWER (R482). -/
def Dev.roleIs (d : Dev) (r : Nat) : Bool := d.on K.CAS_STATUS_ROLE_OK && d.get K.CAS_CTRL_ROLE == r

/-- A port is UP or DOWN: UP_OK and DN_OK follow, and the port's presence as a time source (R486, R495). -/
def Dev.portSet (d : Dev) (p : Nat) (up : Bool) : Dev :=
  let d := d.modCas fun c => { c with ports := putBitAt c.ports p up }
  let d := d.modTime fun t => { t with present := putBitAt t.present (p + 1) up }
  let d := d.put K.CAS_STATUS_UP_OK (bitAt d.cas.ports d.upPort)
  d.put K.CAS_STATUS_DN_OK (bitAt d.cas.ports (1 - d.upPort))

/-! ## Roles and ports (R482, R484, R486) -/

/-- A write of CAS_CTRL (R482): the role is confirmed when the strap agrees and the other fields are written; else the write
is ignored and ROLE_REFUSED set. A lead and a stand-alone device have position 0 at once; a follower waits for its upstream's
(R484). -/
def Dev.roleWrite (d : Dev) (w : Nat) : Dev :=
  let r := bitsAt w 0 2
  let strap := d.fuses.leadSel
  if r = 0 ∨ (r = 1 ∧ strap) ∨ (r = 2 ∧ !strap) then
    let d := ((d.set K.CAS_CTRL_UP_PORT (bitsAt w 2 1)).set K.CAS_CTRL_DN_EN (bitsAt w 3 1)).set K.CAS_CTRL_RING (bitsAt w 4 1)
    let d := if bitAt w 31 then d.put K.CAS_CTRL_CAS_LOCK true else d
    let d := d.put K.CAS_STATUS_UP_OK (bitAt d.cas.ports d.upPort)
    let d := d.put K.CAS_STATUS_DN_OK (bitAt d.cas.ports (1 - d.upPort))
    if d.roleIs r then d
    else
      let d := (d.set K.CAS_CTRL_ROLE r).put K.CAS_STATUS_ROLE_OK true
      (d.set K.CAS_STATUS_POSITION 0).put K.CAS_STATUS_POS_VALID (r != 2)
  else d.put K.CAS_STATUS_ROLE_REFUSED true

/-- PORT_UP: a port reaches UP, once the role is confirmed; a follower measures the hop of its upstream port (R486). -/
def execPortUp (port : Fin 2) (hop : BitVec 20) (s : State) : Out :=
  s.does fun d =>
    if !d.on K.CAS_STATUS_ROLE_OK then d
    else
      let d := d.portSet port true
      if d.roleIs 2 && d.upPort == port.val then d.set K.CAS_HOP hop.toNat else d

/-- DOWNSTREAM_PORT_DOWN: DN_OK clears (R495). -/
def execDownstreamPortDown (s : State) : Out := s.does fun d => d.portSet (1 - d.upPort) false

/-! ## Holdover (R491) -/

/-- The upstream is lost: holdover with its deadline, on OSC100 held at the last measured ratio (R491, R100). -/
def Dev.holdoverBegins (d : Dev) (deadline : Nat) : Dev :=
  if !d.linkTime || d.on K.TIM_STATUS_HOLDOVER then d
  else
    let d := (d.put K.TIM_STATUS_HOLDOVER true).put K.CAS_STATUS_UPSTREAM_LOST true
    let d := (d.set K.CLK_STATUS_REF_SRC 0).put K.CLK_STATUS_REF_OK false
    ((d.modTime fun t => { t with osc := true }).modCas fun c => { c with deadline := some deadline }).timeLog 3

/-- The device's own deadline: CAS_HOLD_LIM from now. -/
def Dev.ownDeadline (d : Dev) : Nat := d.tti + 800 * d.get K.CAS_HOLD_LIM

/-- The upstream port that carries the active time. -/
def Dev.timePort (d : Dev) (p : Nat) : Bool := d.get K.TIM_STATUS_SRC_ACTIVE == p + 1

/-- A lane of a port loses block lock: the port is DOWN, and holdover begins when it carries the time (R491; a lead that
takes time from a system master does the same, R122; log 39). -/
def Dev.blockLockLost (d : Dev) (port : Nat) : Dev :=
  if !bitAt d.cas.ports port then d
  else
    let d := d.portSet port false
    if d.timePort port then d.holdoverBegins d.ownDeadline else d

/-- BLOCK_LOCK_LOSS (R491). -/
def execBlockLockLoss (port : Fin 2) (s : State) : Out := s.does fun d => d.blockLockLost port

/-- TIME_FRAME_SILENCE: no TIME frame for 1.5 µs (R491). -/
def execTimeFrameSilence (s : State) : Out :=
  s.does fun d =>
    match d.cas.lastFrame with
    | some t => if t + 1200 ≤ d.clock then d.holdoverBegins d.ownDeadline else d
    | none => d

/-- HOLDOVER_DEADLINE: holdover expires: time is unsure, and every Admitted or Running site gets a stop request of cause
TIME (R491). -/
def execHoldoverDeadline (s : State) : Out :=
  s.doesAs (3, 0x0E, 0) fun d =>
    match d.cas.deadline with
    | some t =>
      if !d.on K.TIM_STATUS_HOLDOVER || decide (d.tti < t) then d
      else
        let d := d.modCas fun c => { c with deadline := none }
        let d := ((d.put K.TIM_STATUS_HOLDOVER false).unsure).timeLog 4
        d.stopReqs (allSites.filter fun s => d.siteIn s [stAdmitted, stRunning]) 0x0E
    | none => d

/-! ## TIME frames (R484 to R486, R491, R493) -/

/-- The position that a follower takes from a frame; position 16 is none (R484). -/
def Dev.positionSeen (d : Dev) (pos : Nat) : Dev :=
  if pos = 15 then (d.put K.CAS_STATUS_OVERFLOW true).put K.CAS_STATUS_POS_VALID false
  else (d.set K.CAS_STATUS_POSITION (pos + 1)).put K.CAS_STATUS_POS_VALID true

/-- A TIME frame of the port that carries the active time is checked against the local count: a mismatch stops every
Running site (R122, R486); a HOLDOVER flag begins holdover with its deadline; else holdover ends (R491). -/
def Dev.timeSeen (d : Dev) (f : TimeFrame) : Dev :=
  let d := d.modCas fun c => { c with lastFrame := some d.clock }
  if !d.linkTime then d
  else if f.tti.toNat ≠ d.tti then
    let d := { d.put K.TIM_STATUS_HOLDOVER false with cas := { d.cas with deadline := none } }
    let d := ((d.put K.TIM_STATUS_TTI_MISMATCH true).unsure).timeLog 2
    d.stopReqs (allSites.filter fun s => d.siteIn s [stRunning]) 0x0E
  else match f.hold with
    | some t => d.holdoverBegins t.toNat
    | none =>
      let d := if d.on K.TIM_STATUS_HOLDOVER then
          let d := d.put K.TIM_STATUS_HOLDOVER false
          let d := (d.set K.CLK_STATUS_REF_SRC (d.get K.TIM_STATUS_SRC_ACTIVE + 1)).put K.CLK_STATUS_REF_OK true
          (d.modTime fun t => { t with osc := false }).modCas fun c => { c with deadline := none }
        else d
      match f.mark with
      | some (t, sec) => d.modTime fun x => { x with linkMark := some (t.toNat, sec.toNat) }
      | none => d

/-- TIME_FRAME: a frame arrives by a port (R484 to R486, R491, R493, R494). A lead whose time comes by another way takes
a frame of position 0 as a second lead's, and on a closed ring compares any other with its own count. Detector 0x08 adds
1 to the TTI that a port receives (R546). -/
def execTimeFrame (port : Fin 2) (f : TimeFrame) (s : State) : Out :=
  s.doesAs (3, 0x0E, port.val) fun d =>
    if !bitAt d.cas.ports port then d
    else if d.roleIs 1 && d.get K.TIM_CTRL_SRC != port.val + 1 then
      if f.pos = 0 then (d.put K.CAS_STATUS_DUAL_LEAD true).logA 0x016 blkCAS port
      else if d.on K.CAS_CTRL_RING then d.put K.CAS_STATUS_RING_OK (f.tti.toNat == d.tti)
      else d
    else if d.roleIs 2 && d.upPort != port.val then d
    else
      let d := if d.roleIs 2 then d.positionSeen f.pos.toNat else d
      if !d.timePort port then d
      else match d.inject 0x08 fun u _ => u == port.val with
        | some (_, d) => d.asInjected fun d => d.timeSeen { f with tti := f.tti + 1 }
        | none => d.timeSeen f

/-- The TIME frame that the device sends downstream in a tick of R485, if it sends one (R482, R484, R485, R491). -/
def Dev.downFrame (d : Dev) : Option (Nat × Nat × Option Nat) :=
  if d.on K.CAS_STATUS_ROLE_OK && d.on K.CAS_STATUS_POS_VALID && d.get K.CAS_CTRL_ROLE != 0 &&
      d.on K.CAS_CTRL_DN_EN && d.tti % 800 == 0 && !d.on K.CAS_STATUS_DUAL_LEAD then
    some (d.tti, d.get K.CAS_STATUS_POSITION, d.cas.deadline)
  else none

/-! ## String commands (R489, R492) -/

/-- A String command names this device: its position is in the mask. -/
def Dev.named (d : Dev) (pos : Nat) : Bool := d.on K.CAS_STATUS_POS_VALID && bitAt pos (d.get K.CAS_STATUS_POSITION)

/-- A String command for this device waits for EXEC_TTI. -/
def Dev.strQueue (d : Dev) (port op pos sites exec : Nat) : Dev :=
  if !d.named pos then d
  else
    let x : StrCmd := ⟨port, op, sites, exec, decide (exec < d.tti)⟩
    d.modCas fun c => { c with cmds := c.cmds ++ [x] }

/-- A command originated here, in flight until its EXEC_TTI (R489). -/
def Dev.originate (d : Dev) (op pos sites : Nat) : Dev :=
  let t := d.tti + d.get K.CAS_CMD_LEAD
  (d.modCas fun c => { c with flight := some t }).strQueue 2 op pos sites t

/-- A write of CAS_CMD with its key: refused on a device that is no lead, for a reserved OP, or while a command is in
flight (R489; the order of the refusals is log 45). -/
def Dev.casCmd (d : Dev) (op : Nat) : Dev :=
  let busy := match d.cas.flight with
    | some t => decide (d.tti < t)
    | none => false
  if !d.roleIs 1 then d.set K.CAS_CMD_RESULT 2
  else if 3 ≤ op then d.set K.CAS_CMD_RESULT 4
  else if busy then d.set K.CAS_CMD_RESULT 3
  else (d.originate op (d.get K.CAS_CMD_POS) (d.get2 K.CAS_CMD_SITES_LO K.CAS_CMD_SITES_HI)).set K.CAS_CMD_RESULT 1

/-- STRING_COMMAND_ARRIVAL: a command arrives by the upstream port of a device with a role (R489). -/
def execStringCommandArrival (port : Fin 2) (op : BitVec 3) (pos : BitVec 16) (sites exec : BitVec 64) (s : State) : Out :=
  s.does fun d =>
    if !bitAt d.cas.ports port || d.upPort != port.val || !d.on K.CAS_STATUS_ROLE_OK then d
    else d.strQueue port op.toNat pos.toNat sites.toNat exec.toNat

/-- States in which a String command makes its stop request (R489, Table 1). -/
def strStates (op : Nat) : List Nat := if op = 1 then [stAdmitted, stRunning] else [stRunning, stCurtaining, stRocking]

/-- A String command on one site: applied, or SUPERSEDED by what the tick has done to the site (R489, R118). -/
def State.strSite (s : State) (op site : Nat) : State :=
  s.onDev fun _ =>
    s.judge 2 blkDEV (some site) (fun d => d.siteIn site (strStates op))
      (fun d => if op = 1 then d.stopReq site 0x10 else d.parkReq site 0x10) id id

/-- STRING_COMMAND_EXEC: the oldest command whose EXEC_TTI has come, STR0 before STR1, is applied at P2 (R116, R489). -/
def execStringCommandExec (s : State) : Out :=
  let due := s.dev.cas.cmds.filter fun c => decide (c.exec ≤ s.dev.tti)
  match firstBy (fun _ _ => false) (List.range 3 |>.filter fun p => due.any fun c => c.port == p) with
  | none => s.does id
  | some p => match due.find? fun c => c.port == p with
    | none => s.does id
    | some x =>
      let s := s.onDev fun d => d.modCas fun c => { c with cmds := c.cmds.erase x, late := x.late }
      let s := if x.op = 1 ∨ x.op = 2 then
          (allSites.filter fun i => bitAt x.sites i).foldl (fun s i => s.strSite x.op i) s
        else s
      s.doesAs (2, x.op, 0) id

/-! ## Status upstream (R490, R492) -/

/-- The status slot of this device: ALARM, SAFE, TIME_UNSURE, HOLDOVER (R490). -/
def Dev.ownSlot (d : Dev) : Nat :=
  bit d.alarm + 2 * bit (d.mode == mdSafe) + 4 * bit (d.on K.TIM_STATUS_TIME_UNSURE) + 8 * bit (d.on K.TIM_STATUS_HOLDOVER)

/-- The lead keeps a slot (R490). -/
def Dev.slotSeen (d : Dev) (p w : Nat) : Dev :=
  let d := ((d.put (K.CAS_POS_STATUS_ALARM p) (bitAt w 0)).put (K.CAS_POS_STATUS_SAFE p) (bitAt w 1))
  let d := (d.put (K.CAS_POS_STATUS_TIME_UNSURE p) (bitAt w 2)).put (K.CAS_POS_STATUS_HOLDOVER p) (bitAt w 3)
  (d.putBit K.CAS_PRESENT_PRESENT p true).modCas fun c => { c with missing := tblErase c.missing p }

/-- ALARM_ANY: some present position reports ALARM; its rise drives interrupt source 0 (R490, R562). -/
def Dev.alarmsSeen (d : Dev) : Dev :=
  let any := (List.range 16).any fun p => d.bitOf K.CAS_PRESENT_PRESENT p && d.on (K.CAS_POS_STATUS_ALARM p)
  let rose := any && !d.on K.CAS_STATUS_ALARM_ANY
  let d := d.put K.CAS_STATUS_ALARM_ANY any
  if rose then d.irq 0 else d

/-- STATUS_SLOT: a device with a position inserts its slot; the lead keeps its own (R490). -/
def execStatusSlot (s : State) : Out :=
  s.does fun d =>
    if !d.on K.CAS_STATUS_ROLE_OK || !d.on K.CAS_STATUS_POS_VALID || d.get K.CAS_CTRL_ROLE == 0 then d
    else
      let d := d.modCas fun c => { c with slot := some d.ownSlot }
      if d.roleIs 1 then (d.slotSeen 0 d.ownSlot).alarmsSeen else d

/-- UPSTREAM_FRAME: the lead receives a frame with the slots of the followers (R490). -/
def execUpstreamFrame (slots : List (Fin 16 × BitVec 4)) (s : State) : Out :=
  s.does fun d =>
    if !d.roleIs 1 then d
    else
      let d := d.each (slots.filter fun x => x.1 != 0) fun d x => d.slotSeen x.1 x.2.toNat
      let gone := (List.range 16).filter fun p =>
        p != 0 && d.bitOf K.CAS_PRESENT_PRESENT p && !(slots.any fun x => x.1.val == p)
      let d := d.modCas fun c => { c with missing := gone.foldl (fun t p => tblMod 0 t p (· + 1)) c.missing }
      d.alarmsSeen

/-- FOLLOWER_ABSENT: a present position's slot is missing from 3 consecutive frames: it is marked absent, and with
STOP_ALL the lead stops every present position, once (R490, R492). -/
def execFollowerAbsent (p : Fin 16) (s : State) : Out :=
  s.does fun d =>
    let due := decide (3 ≤ tblGet 0 d.cas.missing p) || !bitAt d.cas.ports (1 - d.upPort)
    if !d.roleIs 1 || p == 0 || !d.bitOf K.CAS_PRESENT_PRESENT p || !due then d
    else
      let d := (d.putBit K.CAS_PRESENT_PRESENT p false).putBit K.CAS_PRESENT_ABSENT_SEEN p true
      let d := (d.modCas fun c => { c with missing := tblErase c.missing p }).logA 0x015 blkCAS p
      let d := if d.on K.CAS_POLICY_STOP_ALL && !d.on K.CAS_POLICY_STOP_ALL_FIRED then
          (d.originate 1 (d.get K.CAS_PRESENT_PRESENT) (2 ^ 64 - 1)).put K.CAS_POLICY_STOP_ALL_FIRED true
        else d
      d.alarmsSeen

end Sys2Proof.Machine
end

