-- ==== Sys2Proof/Machine/Loader.lean ====
section
/-! DEFINITION. The main fabric's frames, the stream loader, the keys and fabric start-up (R383 to R406). -/

namespace Sys2Proof.Machine

/-! ## Frames (R385 to R388, R400) -/

/-- Fields of a FADDR (R388, Table 4). -/
def faDie (a : Nat) : Nat := a % 4
def faType (a : Nat) : Nat := bitsAt a 2 2
def faCol (a : Nat) : Nat := bitsAt a 4 8
def faFrame (a : Nat) : Nat := bitsAt a 12 10

/-- A FADDR from its fields. -/
def mkFaddr (die ty col frame : Nat) : Nat := die + 2 ^ 2 * ty + 2 ^ 4 * col + 2 ^ 12 * frame

/-- Columns of a type (R386, Table 3). -/
def faCols (ty : Nat) : Nat := if ty = 0 then 192 else if ty = 2 then 1 else 12

/-- Frames per column of a type (R386, Table 3). -/
def faFrames (ty : Nat) : Nat :=
  match ty with
  | 0 => 80
  | 1 => 32
  | 2 => 64
  | _ => 576

/-- The address names a column and frame of Table 3 of a present die of the active die set (R47, R388). -/
def Dev.faddrOk (d : Dev) (a : Nat) : Bool :=
  decide (a < 2 ^ 22) && d.cdPresent (faDie a) && bitAt d.start.active (faDie a)
    && decide (faCol a < faCols (faType a)) && decide (faFrame a < faFrames (faType a))

/-- The address after `a`: frame, column, type, then die; past the last die no address is valid (R388). -/
def faddrNext (a : Nat) : Nat :=
  let t := faType a
  if faFrame a + 1 < faFrames t then mkFaddr (faDie a) t (faCol a) (faFrame a + 1)
  else if faCol a + 1 < faCols t then mkFaddr (faDie a) t (faCol a + 1) 0
  else if t < 3 then mkFaddr (faDie a) (t + 1) 0 0
  else if faDie a < 3 then faDie a + 1
  else 2 ^ 22

/-- The column of a frame: die, type and column. -/
def faColumn (a : Nat) : Nat := a % 2 ^ 12

/-- The present contents of a frame: what was written, with the bits that have upset since inverted (R385, R419). -/
def Dev.frameNow (d : Dev) (a : Nat) : Nat :=
  (tblGet [] d.fab.upsets a).foldl (fun v b => v ^^^ 2 ^ b) (tblGet 0 d.fab.frames a)

/-- The interface-column frames of die `n` that are written, by FRAME. -/
def Dev.ifcFrames (d : Dev) (n : Nat) : List (Nat × Nat) :=
  (List.range 64).filterMap fun i => (tblFind d.fab.frames (mkFaddr n 2 0 i)).map fun v => (i, v)

/-- FAB_PR_REGION and FAB_DYN follow the interface-column frames; blank frames define nothing, a region's columns lie
in the die and regions do not overlap (R385, R407, R417; log 49). -/
def Dev.ifcUpdate (d : Dev) (n : Nat) : Dev :=
  let l := d.ifcFrames n
  let blank := l.all fun p => p.2 == 0
  let d := d.each (List.range 8) fun d r =>
    let w := if blank then 0 else Config.ifcRegion l r
    let a := bitsAt w 0 8
    let b := bitsAt w 8 8
    let free := (List.range r).all fun q =>
      !d.on (K.FAB_PR_REGION_DEFINED n q) || decide (b < d.get (K.FAB_PR_REGION_COL_FIRST n q))
        || decide (d.get (K.FAB_PR_REGION_COL_LAST n q) < a)
    let ok := bitAt w 31 && decide (a ≤ b) && decide (b < 192) && free
    ((d.set (K.FAB_PR_REGION_COL_FIRST n r) (if ok then a else 0)).set (K.FAB_PR_REGION_COL_LAST n r)
      (if ok then b else 0)).put (K.FAB_PR_REGION_DEFINED n r) ok
  d.each (List.range 3) fun d m => d.set (K.FAB_DYN n m) (if blank then 0 else Config.ifcDyn l m)

/-- The PLL settings of the interface-column frames are copied into the PLL registers (R450); a base period outside 2,000
to 8,000 is ignored as a write of it is (R459, Table 6). -/
def Dev.ifcPlls (d : Dev) (n : Nat) : Dev :=
  let l := d.ifcFrames n
  if l.all fun p => p.2 == 0 then d
  else d.each (List.range 2) fun d p =>
    let w := Config.ifcPll l p 0
    let d := if 2000 ≤ bitsAt w 0 14 ∧ bitsAt w 0 14 ≤ 8000 then d.set (K.PLL_CFG_TB n p) (bitsAt w 0 14) else d
    let d := d.put (K.PLL_CFG_DITHER_EN n p) (bitAt w 14)
    let d := d.set (K.PLL_SEED_SEED n p) (Config.ifcPll l p 1)
    let o := Config.ifcPll l p 2
    let d := ((d.set (K.PLL_OUT_DIV1 n p) (bitsAt o 0 6)).set (K.PLL_OUT_FMT1 n p) (bitsAt o 6 2)).set
      (K.PLL_OUT_LEVEL1 n p) (bitsAt o 8 2)
    let d := ((d.set (K.PLL_OUT_DIV2 n p) (bitsAt o 10 6)).set (K.PLL_OUT_FMT2 n p) (bitsAt o 16 2)).set
      (K.PLL_OUT_LEVEL2 n p) (bitsAt o 18 2)
    ((d.set (K.PLL_OUT_DIV3 n p) (bitsAt o 20 6)).set (K.PLL_OUT_FMT3 n p) (bitsAt o 26 2)).set
      (K.PLL_OUT_LEVEL3 n p) (bitsAt o 28 2)

/-- The written frames of die `n`. -/
def Dev.dieFrames (d : Dev) (n : Nat) : List Nat := (d.fab.frames.map fun p => p.1).filter fun a => faDie a == n

/-- COMPLETE and FRAMES of die `n`, and ALL_COMPLETE: every TYPE 0 to 2 frame is written and a DIEPWR is declared
(R400). -/
def Dev.completeUpdate (d : Dev) (n : Nat) : Dev :=
  let l := d.dieFrames n
  let c := (l.filter fun a => faType a != 3).length == 15808 && bitAt d.fab.declared n
  let d := (d.put (K.CFG_DIE_STATUS_COMPLETE n) c).set (K.CFG_DIE_STATUS_FRAMES n) l.length
  d.put K.CFG_STATUS_ALL_COMPLETE ((List.range 4).all fun n =>
    !bitAt d.start.active n || d.on (K.CFG_DIE_STATUS_COMPLETE n))

/-- Frames with no upset bits left; a column with none left is no longer in error (R420). -/
def Dev.dropUpsets (d : Dev) (a : Nat) : Dev :=
  let u := tblErase d.fab.upsets a
  let b := d.fab.bad.filter fun c => c != faColumn a || u.any fun p => faColumn p.1 == c
  let d := { d with fab := { d.fab with upsets := u, bad := b } }
  d.put (K.FAB_SCRUB_STATUS_BAD_COL (faDie a)) (b.any fun c => c % 4 == faDie a)

/-- One frame written (R388, R389, R400). -/
def Dev.frameWrite (d : Dev) (a v : Nat) : Dev :=
  { d with fab := { d.fab with frames := tblPut d.fab.frames a v } }.dropUpsets a

/-- Frames returned to the blank pattern and removed from the written-frame map (R401, R414). -/
def Dev.framesBlank (d : Dev) (l : List Nat) : Dev :=
  let d := { d with fab := { d.fab with frames := tblKeep d.fab.frames fun a => !l.contains a } }
  let d := d.each l Dev.dropUpsets
  (d.each (List.range 4) Dev.ifcUpdate).each (List.range 4) Dev.completeUpdate

/-! ## Keys (R395 to R397) -/

/-- The key that KEYSEL names, when it is present: KEY_F is absent in lifecycle BLANK, KEY_B while VALID is 0 (R396). -/
def Dev.cfgKey (d : Dev) (b : Bool) : Option Nat :=
  if b then (if d.on K.CFG_KEYB_STATUS_VALID then d.fab.keyB else none)
  else if d.fuses.lifecycle = 0 then none
  else d.fuses.keyF

/-- Lifecycle codes (R580, Table 9 of 24): DEPLOYED and RETIRED. -/
def lcDEPLOYED : Nat := 3
def lcRETIRED : Nat := 5

/-- Table 9 permits a block with the key, or none (R396). -/
def Dev.keyPermitted (d : Dev) (k : Option Bool) : Bool :=
  let allow := d.get K.CFG_KEY_POLICY_ALLOW
  match k with
  | none => allow == 0 && d.fuses.lifecycle != lcDEPLOYED
  | some b => d.fuses.lifecycle != lcRETIRED && (if b then allow != 2 else allow != 3)

/-! ## Refusal (R401, R404) -/

/-- DIECTL, declared power and declaration of each die, as the loader keeps them while a stream is received. -/
def Dev.loaderSettings (d : Dev) : List Nat :=
  d.fab.declared :: (List.range 4).flatMap fun n =>
    [d.get (K.CFG_DIE_STATUS_HOLD n), d.get (K.CFG_DIE_STATUS_CFGI_EN n), d.get (K.CFG_DIE_STATUS_SCRUB_EN n),
      d.get (K.CFG_FAB_PWR n)]

/-- The settings put back as they were when the stream began. -/
def Dev.settingsBack (d : Dev) : Dev :=
  let l := d.fab.ldr.saved
  if l = [] then d
  else
    let x (i : Nat) : Nat := (l.drop i).headD 0
    let d := { d with fab := { d.fab with declared := x 0 } }
    d.each (List.range 4) fun d n =>
      (((d.set (K.CFG_DIE_STATUS_HOLD n) (x (4 * n + 1))).set (K.CFG_DIE_STATUS_CFGI_EN n) (x (4 * n + 2))).set
        (K.CFG_DIE_STATUS_SCRUB_EN n) (x (4 * n + 3))).set (K.CFG_FAB_PWR n) (x (4 * n + 4))

/-- LAST_REJECT class of a detail code (R401, Table 11). -/
def rejectClass (detail : Nat) : Nat :=
  if detail = 0x01 then 1 else if detail < 0x20 then 2 else if detail < 0x30 then 3 else 4

/-- A stream is being received and is not refused. -/
def Dev.streaming (d : Dev) : Bool := d.on K.CFG_STATUS_ACTIVE && !d.fab.ldr.refused

/-- The loader changed by `f`. -/
def Dev.modLdr (d : Dev) (f : Ldr → Ldr) : Dev := { d with fab := { d.fab with ldr := f d.fab.ldr } }

/-- A stream refused in STREAM_CHECK that leaves a die incomplete keeps the dies in Load (R401, log 50). -/
def Dev.checkBack (d : Dev) : Dev :=
  if d.get K.DEV_START_STATUS_STAGE == 7 && !d.on K.CFG_STATUS_ALL_COMPLETE then
    (d.set K.DEV_START_STATUS_STAGE 6).put K.CFG_STATUS_CHECK false
  else d

/-- The stream is refused in block `blk` (0xFFFF for the header or trailer); its frames go back to blank unless the
device enters Safe (R401, R404). -/
def Dev.streamRefuse (d : Dev) (detail blk : Nat) (revert : Bool := true) : Dev :=
  let w := d.fab.ldr.wrote
  let d := d.settingsBack.modLdr fun x => { x with refused := true, buf := [], blk := none, wrote := [] }
  let d := d.set K.DEV_START_STATUS_LAST_REJECT (rejectClass detail)
  let d := ((d.set K.CFG_REJECT_DETAIL detail).set K.CFG_REJECT_CLASS (rejectClass detail)).set K.CFG_REJECT_BLOCK blk
  let d := d.logB 0x115 blkCFG (detail + 2 ^ 8 * rejectClass detail + 2 ^ 16 * blk)
  if revert then ((d.framesBlank w).put K.CFG_STATUS_REVERTING true).checkBack
  else d.each (List.range 4) Dev.completeUpdate

/-- BLOCK of a refusal found now. -/
def Dev.blockNow (d : Dev) : Nat :=
  match d.fab.ldr.blk with
  | some b => b.idx
  | none => 0xFFFF

/-! ## Receiving (R398 to R400) -/

/-- Bytes are appended to the stream of the claiming source. -/
def Dev.streamAppend (d : Dev) (l : List Byte) : Dev :=
  (d.modLdr fun x => { x with buf := x.buf ++ l, lastByte := d.clock }).count48 K.CFG_RX_LO_COUNT_LO
    K.CFG_RX_HI_COUNT_HI K.CFG_RX_HI_OVF l.length

/-- The first byte of a stream claims the loader, and CFG_RX starts anew (R398, R406). -/
def Dev.streamClaim (d : Dev) (src : Nat) : Dev :=
  let saved := d.loaderSettings
  let d := d.modLdr fun x => { buf := [], lastByte := x.lastByte, saved := saved }
  let d := ((d.set K.CFG_RX_LO_COUNT_LO 0).set K.CFG_RX_HI_COUNT_HI 0).put K.CFG_RX_HI_OVF false
  (d.put K.CFG_STATUS_ACTIVE true).set K.CFG_STATUS_SOURCE src

/-- Stream bytes reach the loader from a source: 1 hub controller, 2 PCIe physical function, 3 CFGP (R398, R400). -/
def Dev.streamBytes (d : Dev) (src : Nat) (l : List Byte) : Dev :=
  if l = [] then d
  else if !(d.modeIn [mdLoad] && [6, 7].contains (d.get K.DEV_START_STATUS_STAGE)) then
    let d := d.put K.CFG_STATUS_NOT_LOAD true
    -- the silence that releases a refused source's claim starts again (R401)
    if d.on K.CFG_STATUS_ACTIVE && d.get K.CFG_STATUS_SOURCE == src && d.fab.ldr.refused then
      d.modLdr fun x => { x with lastByte := d.clock }
    else d
  else if !d.on K.CFG_STATUS_ACTIVE then (d.streamClaim src).streamAppend l
  else if d.get K.CFG_STATUS_SOURCE ≠ src then d.put K.CFG_STATUS_PORT_CONFLICT true
  else if d.fab.ldr.refused then d.modLdr fun x => { x with lastByte := d.clock }
  else d.streamAppend l

/-- The device is in power-on reset or DEV_RST_N is low: nothing reaches it (R38, R59). -/
def Dev.inReset (d : Dev) : Bool := !d.start.suppliesValid || d.start.inPor || d.start.rstLow

/-- A write to CFG_PORT: bytes from the hub controller or the physical function, dropped with VF_REFUSED from any other
master (R398). -/
def Dev.portWrite (d : Dev) (m : Master) (l : List Byte) : Dev :=
  match m with
  | .hubc => d.streamBytes 1 l
  | .pf => d.streamBytes 2 l
  | _ => d.put K.CFG_STATUS_VF_REFUSED true

/-- CFG_PORT_WRITE: a write to CFG_PORT (R398). -/
def execCfgPortWrite (m : Master) (bytes : List Byte) (s : State) : Out := 
  s.does fun d => if d.inReset then d else d.portWrite m bytes

/-- STREAM: one CFGP transaction that brings stream bytes (R399). -/
def execStream (bytes : List Byte) (s : State) : Out := 
  s.does fun d => if d.inReset then d else d.streamBytes 3 bytes

/-! ## Parsing (R390 to R395) -/

/-- `n` bytes are taken off the received ones and into the stream CRC. -/
def Ldr.take (x : Ldr) (n : Nat) : Ldr :=
  { x with buf := x.buf.drop n, pos := x.pos + n, crc := crcBytes x.crc (x.buf.take n) }

/-- Whole 16-byte blocks of ciphertext enter the authentication register. -/
def ghashAll (h : Nat) : Nat → List Byte → Nat → Nat × List Byte
  | 0, l, y => (y, l)
  | n + 1, l, y =>
    if l.length < 16 then (y, l)
    else ghashAll h n (l.drop 16) (ghashStep h y ((l.take 16).map BitVec.toNat))

/-- The position of this device in the cascade, if it has one; a stand-alone device has position 0 (R391). -/
def Dev.cascadePos (d : Dev) : Option Nat :=
  if d.on K.CAS_STATUS_POS_VALID then some (d.get K.CAS_STATUS_POSITION)
  else if d.get K.CAS_CTRL_ROLE = 0 then some 0
  else none

/-- The next `n` bytes of the body, decrypted, if the block has them and they have arrived. -/
def Dev.bodyPeek (d : Dev) (n : Nat) : Option (List Byte) :=
  match d.fab.ldr.blk with
  | none => none
  | some b =>
    if !b.taken || b.left < n || d.fab.ldr.buf.length < n then none
    else
      let c := d.fab.ldr.buf.take n
      match b.key with
      | none => some c
      | some k =>
        match d.cfgKey k with
        | none => none
        | some key =>
          some ((gcmDecrypt (keyBytes key) (((b.hdr.drop 8).take 12).map BitVec.toNat) b.pos
            (c.map BitVec.toNat)).map (BitVec.ofNat 8))

/-- The next body bytes are taken; a plaintext block ends with its last body byte. -/
def Dev.bodyTake (d : Dev) (n : Nat) : Dev :=
  match d.fab.ldr.blk with
  | none => d
  | some b =>
    let c := d.fab.ldr.buf.take n
    let (y, p) := match b.key with
      | none => (0, [])
      | some k =>
        match d.cfgKey k with
        | none => (b.auth, b.part)
        | some key => ghashAll (gcmH (keyBytes key)) (n / 16 + 1) (b.part ++ c) b.auth
    let b := { b with pos := b.pos + n, left := b.left - n, auth := y, part := p }
    d.modLdr fun x => { x.take n with blk := if b.left = 0 ∧ b.key.isNone then none else some b }

/-- The next word of the body, decrypted. -/
def Dev.bodyWord (d : Dev) : Option Nat := (d.bodyPeek 4).map leNum

/-- KIND of the packet header that comes next, when no packet is in progress. -/
def Dev.nextPacket (d : Dev) : Option Nat :=
  if d.streaming then
    match d.fab.ldr.blk with
    | some b => if b.frames.isSome then none else d.bodyWord
    | none => none
  else none

/-- The block in progress changed by `f`. -/
def Dev.modBlk (d : Dev) (f : LBlk → LBlk) : Dev :=
  d.modLdr fun x => { x with blk := x.blk.map f }

/-- The stream is refused in the block in progress. -/
def Dev.blockRefuse (d : Dev) (detail : Nat) : Dev := d.streamRefuse detail d.blockNow

/-- STREAM_HEADER: the loader takes the stream header (R390). -/
def execStreamHeader (s : State) : Out :=
  s.does fun d =>
    let x := d.fab.ldr
    if d.streaming && x.hdr.isNone && decide (16 ≤ x.buf.length) then
      let w (i : Nat) : Nat := leNum ((x.buf.drop (4 * i)).take 4)
      if w 0 ≠ 0x5354524D ∨ w 1 ≠ 1 ∨ w 3 = 0 ∨ 4096 < w 3 then d.streamRefuse 0x21 0xFFFF
      else d.modLdr fun x => { x.take 16 with hdr := some (w 2, w 3) }
    else d

/-- A block header breaks Table 6, or its block reaches past the place of END (R391, R401). -/
def badBlockHeader (w : Nat → Nat) (pos len : Nat) : Bool :=
  let enc := bitAt (w 0) 16
  (bitsAt (w 0) 18 14 != 0) || (!enc && bitAt (w 0) 17) || w 1 % 4 != 0 || decide (134217728 < w 1)
    || (!enc && (w 2 != 0 || w 3 != 0 || w 4 != 0)) || w 5 != 0 || w 6 != 0 || w 7 != 0
    || decide (len < pos + 32 + w 1 + (if enc then 16 else 0) + 8)

/-- A block header is judged and taken: TMASK, then for an accepted block its key (R391, R396). -/
def Dev.takeBlock (d : Dev) (len : Nat) : Dev :=
  let x := d.fab.ldr
  let w (i : Nat) : Nat := leNum ((x.buf.drop (4 * i)).take 4)
  let i := x.nextBlk
  if badBlockHeader w x.pos len then d.streamRefuse 0x21 i
  else
    let taken := match d.cascadePos with
      | some p => bitAt (bitsAt (w 0) 0 16) p
      | none => false
    let key : Option Bool := if bitAt (w 0) 16 then some (bitAt (w 0) 17) else none
    if taken && !d.keyPermitted key then d.streamRefuse 0x31 i
    else if taken && (match key with
      | some k => (d.cfgKey k).isNone
      | none => false) then d.streamRefuse 0x32 i
    else
      let hdr := x.buf.take 32
      let y := match key with
        | some k => (match d.cfgKey k with
          | some kk => if taken then (ghashAll (gcmH (keyBytes kk)) 3 hdr 0).1 else 0
          | none => 0)
        | none => 0
      -- the tag of a block that is not accepted is skipped with its body
      let left := if taken || key.isNone then w 1 else w 1 + 16
      let key := if taken then key else none
      let b : LBlk :=
        { idx := i, taken := taken, key := key, hdr := hdr, pos := 0, left := left, auth := y, part := [],
          devid := false, ctlmask := 2 ^ 32 - 1, pwr := 0, frames := none }
      d.modLdr fun x => { x.take 32 with nextBlk := i + 1, blk := if left = 0 ∧ key.isNone then none else some b }

/-- The received bytes of a block that this device does not accept go into the stream CRC alone (R391). -/
def Dev.skipBlock (d : Dev) : Dev :=
  match d.fab.ldr.blk with
  | some b =>
    if b.taken || !d.streaming then d
    else
      let n := min b.left d.fab.ldr.buf.length
      d.modLdr fun x => { x.take n with blk := if n = b.left then none else some { b with left := b.left - n } }
  | none => d

/-- BLOCK_HEADER: the loader takes a block header where one is expected (R391). -/
def execBlockHeader (s : State) : Out :=
  s.does fun d =>
    let d := d.skipBlock
    let x := d.fab.ldr
    match x.hdr with
    | none => d
    | some (len, nblk) =>
      if d.streaming && x.blk.isNone && decide (x.nextBlk < nblk) && !x.ended && decide (4 ≤ x.buf.length)
          && leNum (x.buf.take 4) != 0x454E445F && decide (32 ≤ x.buf.length) then d.takeBlock len
      else d

/-- PAD: a packet without effect (R392). -/
def execPad (s : State) : Out :=
  s.does fun d =>
    match d.nextPacket with
    | some h =>
      if h % 16 = 0 then (if h = 0 then d.bodyTake 4 else d.blockRefuse 0x21)
      else d
    | none => d

/-- A SET packet of setting `sel`: its header's zero bits and its length are judged, DEVID must have come first for the
others, and then `f` gets DIE and the value (R392, R393; log 51). -/
def Dev.setPacket (d : Dev) (sel : Nat) (f : Dev → Nat → Nat → Dev) : Dev :=
  match d.nextPacket with
  | some h =>
    if h % 16 = 1 ∧ bitsAt h 8 4 = sel then
      if bitsAt h 4 4 ≠ 0 ∨ bitsAt h 14 18 ≠ 0 ∨ (sel < 2 ∧ bitsAt h 12 2 ≠ 0) then d.blockRefuse 0x21
      else
        match d.fab.ldr.blk with
        | none => d
        | some b =>
          if b.left < 8 then d.blockRefuse 0x21
          else if sel ≠ 0 ∧ ¬ b.devid then d.blockRefuse 0x24
          else
            match d.bodyPeek 8 with
            | some l => f d (bitsAt h 12 2) (leNum (l.drop 4))
            | none => d
    else d
  | none => d

/-- DEV_IDCODE as software reads it (R580). -/
def Dev.idcode (d : Dev) : Nat :=
  1 + 2 * d.get K.DEV_IDCODE_VENDOR + 2 ^ 12 * d.variant.part + 2 ^ 28 * d.fuses.version

/-- SET_DEVID: the value's bits [27:0] are compared with DEV_IDCODE's (R393). -/
def execSetDevid (s : State) : Out :=
  s.does fun d => d.setPacket 0 fun d _ v =>
    if v % 2 ^ 28 = d.idcode % 2 ^ 28 then (d.modBlk fun b => { b with devid := true }).bodyTake 8
    else d.blockRefuse 0x01

/-- SET_CTLMASK: the bits of DIECTL that later SETs of the block may change (R392). -/
def execSetCtlmask (s : State) : Out :=
  s.does fun d => d.setPacket 1 fun d _ v => (d.modBlk fun b => { b with ctlmask := v }).bodyTake 8

/-- A per-die SET names a present die of the active die set (R47, R392). -/
def Dev.setDieOk (d : Dev) (n : Nat) : Bool := d.cdPresent n && bitAt d.start.active n

/-- SET_DIECTL: HOLD, CFGI_EN and SCRUB_EN of the die under CTLMASK (R392). -/
def execSetDiectl (s : State) : Out :=
  s.does fun d => d.setPacket 2 fun d n v =>
    if !d.setDieOk n then d.blockRefuse 0x22
    else if 8 ≤ v then d.blockRefuse 0x23
    else
      let m := match d.fab.ldr.blk with
        | some b => b.ctlmask
        | none => 0
      let putIf (d : Dev) (i : Nat) (f : Fld) : Dev := if bitAt m i then d.put f (bitAt v i) else d
      let d := putIf d 0 (K.CFG_DIE_STATUS_HOLD n)
      let d := putIf d 1 (K.CFG_DIE_STATUS_CFGI_EN n)
      (putIf d 2 (K.CFG_DIE_STATUS_SCRUB_EN n)).bodyTake 8

/-- SET_DIEPWR: the declared fabric power of the die (R392, R394). -/
def execSetDiepwr (s : State) : Out :=
  s.does fun d => d.setPacket 3 fun d n v =>
    if !d.setDieOk n then d.blockRefuse 0x22
    else if 1375 < v then d.blockRefuse 0x23
    else
      let d := d.set (K.CFG_FAB_PWR n) v
      let d := { d with fab := { d.fab with declared := setBitAt d.fab.declared n } }
      let d := d.modBlk fun b => { b with pwr := setBitAt b.pwr n }
      (d.completeUpdate n).bodyTake 8

/-- Why a frame write of the loader is refused, if it is (R388, R394). -/
def Dev.frameRefused (d : Dev) (a : Nat) : Option Nat :=
  if !d.faddrOk a then some 0x22
  else match d.fab.ldr.blk with
    | some b => if faType a = 0 ∧ ¬ bitAt b.pwr (faDie a) then some 0x21 else none
    | none => none

/-- The loader writes one frame. -/
def Dev.streamFrame (d : Dev) (a v : Nat) : Dev :=
  (d.frameWrite a v).modLdr fun x => { x with wrote := a :: x.wrote }

/-- The loader writes one datum to `n` consecutive frames: at the first address that is refused the stream is, with the
detail answered. -/
def Dev.streamFrames (d : Dev) (v : Nat) : Nat → Nat → Dev × Option Nat
  | 0, _ => (d, none)
  | n + 1, a =>
    match d.frameRefused a with
    | some e => (d, some e)
    | none => Dev.streamFrames (d.streamFrame a v) v n (faddrNext a)

/-- What follows once frames are written: the interface column's settings and COMPLETE follow them (R400, R407, R450). -/
def Dev.framesDone (d : Dev) (l : List Nat) : Dev :=
  let ns := (List.range 4).filter fun n => l.any fun a => faDie a == n
  let is := ns.filter fun n => l.any fun a => faDie a == n && faType a == 2
  ((d.each is Dev.ifcUpdate).each is Dev.ifcPlls).each ns Dev.completeUpdate

/-- The header of a FRAMES, REPEAT or CLEAR packet is judged: kind, zero bits, NFR, the bytes that follow, and DEVID
(R392, R393). Answers its NFR when it stands. -/
def Dev.frameHeader (d : Dev) (kind : Nat) : Option (Dev ⊕ Nat) :=
  match d.nextPacket, d.fab.ldr.blk with
  | some h, some b =>
    if h % 16 = kind then
      let n := bitsAt h 8 24
      let len := 8 + (if kind = 2 then 1024 * n else if kind = 3 then 1024 else 0)
      if bitsAt h 4 4 ≠ 0 ∨ n = 0 ∨ b.left < len then some (.inl (d.blockRefuse 0x21))
      else if !b.devid then some (.inl (d.blockRefuse 0x24))
      else some (.inr n)
    else none
  | _, _ => none

/-- The complete frames of a FRAMES packet that have arrived are written, `fuel` at most. -/
def Dev.drainFrames : Nat → Dev → Dev
  | 0, d => d
  | fuel + 1, d =>
    match d.fab.ldr.blk with
    | some b =>
      (match b.frames with
      | some (a, n) =>
        (match d.frameRefused a with
        | some e => d.blockRefuse e
        | none =>
          match d.bodyPeek 1024 with
          | none => d
          | some l =>
            let d := d.streamFrame a (leNum l)
            let d := (d.modBlk fun b => { b with frames := if n = 1 then none else some (faddrNext a, n - 1) }).bodyTake 1024
            Dev.drainFrames fuel d)
      | none => d)
    | none => d

/-- The header and the address of a FRAMES packet are taken (R392). -/
def Dev.framesStart (d : Dev) : Dev :=
  match d.frameHeader 2 with
  | some (.inl r) => r
  | some (.inr n) =>
    (match d.bodyPeek 8 with
    | some l => (d.modBlk fun b => { b with frames := some (leNum (l.drop 4), n) }).bodyTake 8
    | none => d)
  | none => d

/-- Every frame of a FRAMES packet that has arrived is written (R388, R392). -/
def Dev.framesGo (d : Dev) : Dev :=
  if d.streaming then
    let before := d.fab.ldr.wrote.length
    let r := Dev.drainFrames (d.fab.ldr.buf.length / 1024 + 1) d
    if r.streaming then r.framesDone (r.fab.ldr.wrote.take (r.fab.ldr.wrote.length - before)) else r
  else d

/-- FRAMES: the packet's header and address are taken, then every frame that has arrived is written; repeated, the
command goes on with the frames that have arrived since (R388, R392). -/
def execFrames (s : State) : Out := s.does fun d => d.framesStart.framesGo

/-- A packet that writes one datum to consecutive frames. -/
def Dev.fillPacket (d : Dev) (kind len : Nat) : Dev :=
  match d.frameHeader kind with
  | some (.inl r) => r
  | some (.inr n) =>
    (match d.bodyPeek len with
    | some l =>
      let before := d.fab.ldr.wrote.length
      (match d.streamFrames (leNum (l.drop 8)) n (leNum ((l.drop 4).take 4)) with
      | (r, some e) => r.blockRefuse e
      | (r, none) => (r.framesDone (r.fab.ldr.wrote.take (r.fab.ldr.wrote.length - before))).bodyTake len)
    | none => d)
  | none => d

/-- REPEAT: one frame of data to NFR consecutive frames (R392). -/
def execRepeatPacket (s : State) : Out := s.does fun d => d.fillPacket 3 1032

/-- CLEAR_PACKET: the blank pattern to NFR consecutive frames (R392). -/
def execClearPacket (s : State) : Out := s.does fun d => d.fillPacket 4 8

/-- RESERVED_PACKET: a packet of a reserved kind or of a reserved setting refuses the stream (R392). -/
def execReservedPacket (s : State) : Out :=
  s.does fun d =>
    match d.nextPacket with
    | some h =>
      if 5 ≤ h % 16 ∨ (h % 16 = 1 ∧ 4 ≤ bitsAt h 8 4) then d.blockRefuse 0x21 else d
    | none => d

/-- BLOCK_TAG: at the end of an encrypted block its tag is taken and, for an accepted block, checked (R395). -/
def execBlockTag (s : State) : Out :=
  s.does fun d =>
    match d.fab.ldr.blk with
    | some b =>
      if d.streaming && b.taken && b.key.isSome && b.left == 0 && b.frames.isNone
          && decide (16 ≤ d.fab.ldr.buf.length) then
        match b.key.bind d.cfgKey with
        | some key =>
          let h := gcmH (keyBytes key)
          let y := if b.part = [] then b.auth else ghashStep h b.auth (b.part.map BitVec.toNat)
          let t := gcmTag (keyBytes key) (((b.hdr.drop 8).take 12).map BitVec.toNat) y 32 b.pos
          if (d.fab.ldr.buf.take 16).map BitVec.toNat = t then d.modLdr fun x => { x.take 16 with blk := none }
          else d.blockRefuse 0x30
        | none => d
      else d
    | none => d

/-- STREAM_END: where a block header or END is expected and END stands there, it is judged by its place; another word at
the end refuses the stream (R401). -/
def execStreamEnd (s : State) : Out :=
  s.does fun d =>
    let d := d.skipBlock
    let x := d.fab.ldr
    match x.hdr with
    | none => d
    | some (len, nblk) =>
      if d.streaming && x.blk.isNone && !x.ended && decide (4 ≤ x.buf.length) then
        let w := leNum (x.buf.take 4)
        if w = 0x454E445F then
          if x.nextBlk < nblk ∨ x.pos + 8 < len then d.streamRefuse 0x11 0xFFFF
          else if x.pos + 8 ≠ len then d.streamRefuse 0x21 0xFFFF
          else d.modLdr fun x => { x.take 4 with ended := true }
        else if nblk ≤ x.nextBlk then d.streamRefuse 0x21 0xFFFF
        else d
      else d

/-- The dies of the active die set: what a rule calls the dies in CD_MASK (R47). -/
def Dev.maskDies (d : Dev) : List Nat := d.dies.filter (bitAt d.start.active)

/-- A DIE reset or an accepted stream changes protected registers: the committed CRC no longer stands (R579). -/
def Dev.rgpStale (d : Dev) : Dev := (d.put K.RGP_STATUS_COMMITTED false).put K.RGP_STATUS_STALE_REF true

/-- The stream is accepted: the claim ends, and when every die is COMPLETE the device enters STREAM_CHECK (R400,
R402). Bytes that have arrived after the stream begin the next one. -/
def Dev.streamAccept (d : Dev) : Dev :=
  let src := d.get K.CFG_STATUS_SOURCE
  let rest := d.fab.ldr.buf
  let d := (d.put K.CFG_STATUS_ACTIVE false).set K.CFG_STATUS_SOURCE 0
  let d := ((d.modLdr fun x => { lastByte := x.lastByte }).bump K.CFG_STATUS_ACCEPTED).rgpStale
  let d := d.each (List.range 4) Dev.completeUpdate
  let d := if d.on K.CFG_STATUS_ALL_COMPLETE then
      (d.set K.DEV_START_STATUS_STAGE 7).put K.CFG_STATUS_CHECK true
    else d
  d.streamBytes src rest

/-- STREAM_CRC: the CRC word is compared with the CRC of every byte from SYNC to END (R390, R400). -/
def execStreamCrc (s : State) : Out :=
  s.does fun d =>
    let x := d.fab.ldr
    if d.streaming && x.ended && decide (4 ≤ x.buf.length) then
      if leNum (x.buf.take 4) = crcEnd x.crc then (d.modLdr fun x => { x with buf := x.buf.drop 4 }).streamAccept
      else d.streamRefuse 0x20 0xFFFF
    else d

/-! ## Ends of a stream (R401, R404) -/

/-- Bytes of the stream in progress that have arrived. -/
def Ldr.got (x : Ldr) : Nat := x.pos + x.buf.length

/-- CFG_TIMEOUT: no byte for CFG_TIMEOUT ms before LEN bytes (R401); 0 acts as 1. -/
def execCfgTimeout (s : State) : Out :=
  s.does fun d =>
    let x := d.fab.ldr
    let more := match x.hdr with
      | some (len, _) => decide (x.got < len)
      | none => true
    if d.streaming && more && decide (x.lastByte + 800000 * max 1 (d.get K.CFG_TIMEOUT) ≤ d.clock) then d.blockRefuse 0x10
    else d

/-- A write of one to CFG_CTRL.ABORT (R401). -/
def Dev.streamAbort (d : Dev) : Dev := if d.streaming then d.blockRefuse 0x12 else d

/-- REVERT_DONE: the frames of a refused stream are blank again (R401). -/
def execRevertDone (s : State) : Out := s.does fun d => d.put K.CFG_STATUS_REVERTING false

/-- CLAIM_RELEASE: the source of a refused stream has been silent for 10 µs, or CFGP_CS_N has risen (R401). -/
def execClaimRelease (s : State) : Out :=
  s.does fun d =>
    let x := d.fab.ldr
    if d.on K.CFG_STATUS_ACTIVE && x.refused && !d.on K.CFG_STATUS_REVERTING
        && (d.get K.CFG_STATUS_SOURCE == 3 || decide (x.lastByte + 8000 ≤ d.clock)) then
      ((d.put K.CFG_STATUS_ACTIVE false).set K.CFG_STATUS_SOURCE 0).modLdr fun x => { lastByte := x.lastByte }
    else d

/-- On entry into Safe a stream in progress is ABANDONED, its frames left as they are (R404). -/
def Dev.loaderSafe (d : Dev) : Dev := if d.streaming then d.streamRefuse 0x13 d.blockNow false else d

/-! ## Fabric start-up (R398, R402, R403, R417) -/

/-- The fabric's outputs reach the device: started and not held (R384). -/
def Dev.fabRuns (d : Dev) (n : Nat) : Bool :=
  d.cdPresent n && d.on (K.CFG_DIE_STATUS_STARTED n) && !d.on (K.CFG_DIE_STATUS_HELD n)

/-- A write of one to RELEASE: a held interface is released in Ready, Run and Hold (R402, R403). -/
def Dev.releaseWrite (d : Dev) (n : Nat) : Dev :=
  if d.modeIn [mdReady, mdRun, mdHold] then d.put (K.CFG_DIE_STATUS_HELD n) false else d

/-- On entry into Load every interface is held and STARTED clears; frames and COMPLETE stay (R403). -/
def Dev.fabHold (d : Dev) : Dev :=
  d.each (List.range 4) fun d n => (d.put (K.CFG_DIE_STATUS_STARTED n) false).put (K.CFG_DIE_STATUS_HELD n) true

/-- The covered frames of a column of the scrubber: BRAM_DATA has none, and a dynamic even logic column leaves out its
frames 72 to 79 (R417). -/
def Dev.coveredFrames (d : Dev) (n ty col : Nat) : List Nat :=
  let last := if ty = 0 ∧ col % 2 = 0 ∧ bitAt (d.get (K.FAB_DYN n (col / 64))) (col / 2 % 32) then 72 else faFrames ty
  if ty = 3 then [] else (List.range last).map fun f => mkFaddr n ty col f

/-- The signature of a column from its present frames (R417). -/
def Dev.signature (d : Dev) (n ty col : Nat) : Nat :=
  (d.coveredFrames n ty col).foldl (fun v a => v ^^^ crc32c (leBytes a 4 ++ leBytes (d.frameNow a) 1024)) 0

/-- The covered columns of a die as (type, column), ascending (R418). -/
def coveredCols : List (Nat × Nat) :=
  (List.range 192).map (fun c => (0, c)) ++ (List.range 12).map (fun c => (1, c)) ++ [(2, 0)]

/-- The golden signature of a column is computed. -/
def Dev.signGold (d : Dev) (n ty col : Nat) : Dev :=
  { d with fab := { d.fab with golden := tblPut d.fab.golden (mkFaddr n ty col 0) (d.signature n ty col) } }

/-! ## The key store (R397) -/

/-- The bits of the key words, word 0 lowest. -/
def Dev.keyWords (d : Dev) : Nat :=
  (List.range 8).foldr (fun w v => d.get (K.CFG_KEYB_DATA w) + 2 ^ 32 * v) 0

/-- KEY_B is erased for a cause; a stream whose accepted block uses it is refused (R396, R397). -/
def Dev.keyErase (d : Dev) (cause : Nat) : Dev :=
  let used := match d.fab.ldr.blk with
    | some b => b.taken && b.key == some true
    | none => false
  let d := { d with fab := { d.fab with keyB := none } }
  let d := ((d.put K.CFG_KEYB_STATUS_VALID false).put K.CFG_KEYB_STATUS_ERASED true).set K.CFG_KEYB_STATUS_CAUSE cause
  let d := d.set K.CFG_KEYB_KCV 0
  if used && d.streaming then d.blockRefuse 0x32 else d

/-- A write of CFG_KEYB_CTRL: PROGRAM and ZEROIZE take effect only with KEY = 0x3C in the same write (R397). -/
def Dev.keybWrite (d : Dev) (w : Nat) : Dev :=
  if bitsAt w 24 8 ≠ 0x3C then d
  else
    let d := if bitAt w 0 then
        if d.on K.CFG_KEY_POLICY_KEY_LOCK || d.on K.CFG_STATUS_ACTIVE then d.put K.CFG_KEYB_STATUS_PROG_REFUSED true
        else
          let k := d.keyWords
          let d := { d with fab := { d.fab with keyB := some k } }
          let d := d.each (List.range 8) fun d i => d.set (K.CFG_KEYB_DATA i) 0
          (d.put K.CFG_KEYB_STATUS_VALID true).set K.CFG_KEYB_KCV (kcvOf k)
      else d
    if bitAt w 1 then d.keyErase 3 else d

/-- VBAT_RETENTION_LOSS: VBAT falls below its retention limit while the device supplies are off (R397). -/
def execVbatRetentionLoss (s : State) : Out :=
  s.does fun d => if d.start.suppliesValid then d else d.keyErase 1

/-- KEY_STORE_TEMPERATURE: the store's sensor leaves −40 °C to 125 °C (R397). -/
def execKeyStoreTemperature (s : State) : Out := s.does fun d => d.keyErase 2

end Sys2Proof.Machine
end

