-- ==== Sys2Proof/Machine/Reconf.lean ====
section
/-! DEFINITION. Partial reconfiguration through CFGI, and configuration scrubbing (R407 to R423). -/

namespace Sys2Proof.Machine

/-! ## Regions (R407) -/

/-- Column `c` of type `ty` belongs to region `r` of die `n` (R407). -/
def Dev.colOfRegion (d : Dev) (n r ty c : Nat) : Bool :=
  let a := d.get (K.FAB_PR_REGION_COL_FIRST n r)
  let b := d.get (K.FAB_PR_REGION_COL_LAST n r)
  d.on (K.FAB_PR_REGION_DEFINED n r) && decide (c < faCols ty) &&
    (if ty = 0 then decide (a ≤ c) && decide (c ≤ b)
    else if ty = 2 then false
    else decide (a ≤ 16 * c + 7) && decide (16 * c + 8 ≤ b))

/-- A frame address lies in region `r` of die `n`. -/
def Dev.frameOfRegion (d : Dev) (n r a : Nat) : Bool :=
  decide (a < 2 ^ 22) && faDie a == n && decide (faFrame a < faFrames (faType a))
    && d.colOfRegion n r (faType a) (faCol a)

/-- The frames of the region, of the types listed. -/
def Dev.regionFrames (d : Dev) (n r : Nat) (tys : List Nat) : List Nat :=
  tys.flatMap fun ty => ((List.range (faCols ty)).filter fun c => d.colOfRegion n r ty c).flatMap fun c =>
    (List.range (faFrames ty)).map fun f => mkFaddr n ty c f

/-! ## Transactions (R410 to R416) -/

/-- The transaction open on die `n`. -/
def Dev.cfgiOf (d : Dev) (n : Nat) : Option Cfgi := tblFind d.fab.cfgi n

/-- The transaction of die `n` replaced. -/
def Dev.setCfgi (d : Dev) (n : Nat) (c : Cfgi) : Dev :=
  { d with fab := { d.fab with cfgi := tblPut d.fab.cfgi n c } }

/-- No transaction is open on die `n`. -/
def Dev.dropCfgi (d : Dev) (n : Nat) : Dev := { d with fab := { d.fab with cfgi := tblErase d.fab.cfgi n } }

/-- The port of die `n` is usable: CFGI_EN, and a fabric that runs (R384, R409). -/
def Dev.cfgiUsable (d : Dev) (n : Nat) : Bool := d.on (K.CFG_DIE_STATUS_CFGI_EN n) && d.fabRuns n

/-- STATE of region `r`. -/
def Dev.prState (d : Dev) (n r : Nat) : Nat := d.get (K.FAB_PR_STATE_STATE n r)

/-- ERR of a region set. -/
def Dev.prErr (d : Dev) (n r e : Nat) : Dev := d.set (K.FAB_PR_STATE_ERR n r) e

/-- A word out of sequence: SEQUENCE in the region of the open transaction, or of the last one (R410, log 52). -/
def Dev.cfgiSequence (d : Dev) (n : Nat) : Dev :=
  match d.cfgiOf n with
  | some c => d.prErr n c.reg 2
  | none => match tblFind d.fab.lastReg n with
    | some r => d.prErr n r 2
    | none => d

/-- A region's border is engaged or released (R411, R413). -/
def Dev.setBorder (d : Dev) (n r : Nat) (b : Bool) : Dev :=
  { d with fab := { d.fab with border := tblPut d.fab.border n (putBitAt (tblGet 0 d.fab.border n) r b) } }

/-- The lease holder of region `r` (R532, Table 2). -/
def prHolder (r : Nat) : Nat := 0x50 + r

/-- The lease is granted: the border is engaged and DATA words may come (R411). -/
def Dev.cfgiGranted (d : Dev) (n r : Nat) : Dev :=
  (d.set (K.FAB_PR_STATE_STATE n r) 2).setBorder n r true

/-- OPEN (R410): bits of the word other than the region and QUEUE are not looked at (log 52). -/
def Dev.cfgiOpen (d : Dev) (n w : Nat) : Dev :=
  let r := w % 8
  if (d.cfgiOf n).isSome then d.cfgiSequence n
  else
    let a := d.get (K.FAB_PR_REGION_COL_FIRST n r) + 2 ^ 8 * d.get (K.FAB_PR_REGION_COL_LAST n r)
    let c : Cfgi := ⟨r, crcInit, none, none, [], [], none⟩
    let (d', ans) := d.leaseReq n lcFCOL (prHolder r) a (bitAt w 8)
    let d' := { d' with fab := { d'.fab with lastReg := tblPut d'.fab.lastReg n r } }
    match ans with
    | .granted => (d'.setCfgi n c).cfgiGranted n r
    | .queued => (d'.setCfgi n c).set (K.FAB_PR_STATE_STATE n r) 1
    | .busy h => (d'.prErr n r 1).set (K.FAB_PR_STATE_HOLDER n r) h
    | .qfull h => (d'.prErr n r 1).set (K.FAB_PR_STATE_HOLDER n r) h

/-- CFGI_OPEN: the static logic opens a transaction (R410). -/
def execCfgiOpen (n : Die) (data : Word) (s : State) : Out :=
  s.does fun d => if d.cfgiUsable n.val then d.cfgiOpen n.val data.toNat else d

/-- The open transaction fails: its frames are to be blanked; a queued lease request is withdrawn (R414). -/
def Dev.cfgiFail (d : Dev) (n e : Nat) : Dev :=
  match d.cfgiOf n with
  | some c =>
    if c.err.isSome then d
    else ((d.leaseWithdraw n lcFCOL (prHolder c.reg)).setBorder n c.reg true).setCfgi n { c with err := some e }
  | none => d

/-- Frames of the open transaction written from `a` on, `k` of them with the datum `v`: the address reached, or the
failure at the first address outside the region (R412). -/
def Dev.cfgiWrite (d : Dev) (n r v : Nat) : Nat → Nat → Dev × Option Nat
  | 0, a => (d, some a)
  | k + 1, a =>
    if d.frameOfRegion n r a then
      let d := match d.cfgiOf n with
        | some c => d.setCfgi n { c with wrote := if c.wrote.contains a then c.wrote else a :: c.wrote }
        | none => d
      Dev.cfgiWrite (d.frameWrite a v) n r v k (faddrNext a)
    else (d, none)

/-- One DATA word of the open transaction (R412). -/
def Dev.cfgiData (d : Dev) (n w : Nat) : Dev :=
  match d.cfgiOf n with
  | none => d.cfgiSequence n
  | some c =>
    if c.err.isSome ∨ d.prState n c.reg = 4 then d.cfgiSequence n
    else if d.prState n c.reg = 1 then d
    else
      let c := { c with crc := crcBytes c.crc (leBytes w 4) }
      let d := d.setCfgi n c
      match c.pkt, c.addr with
      | none, _ =>
        let kind := w % 16
        if kind = 0 then (if w = 0 then d else d.cfgiFail n 5)
        else if kind = 1 then d.cfgiFail n 4
        else if 5 ≤ kind ∨ bitsAt w 4 4 ≠ 0 ∨ bitsAt w 8 24 = 0 then d.cfgiFail n 5
        else d.setCfgi n { c with pkt := some (kind, bitsAt w 8 24), addr := none, words := [] }
      | some (kind, k), none =>
        if kind = 4 then
          (match d.cfgiWrite n c.reg 0 k w with
          | (d, none) => d.cfgiFail n 3
          | (d, some _) => match d.cfgiOf n with
            | some c => d.setCfgi n { c with pkt := none }
            | none => d)
        else if d.frameOfRegion n c.reg w then d.setCfgi n { c with addr := some w }
        else d.cfgiFail n 3
      | some (kind, k), some a =>
        let ws := c.words ++ [w]
        if ws.length < 256 then d.setCfgi n { c with words := ws }
        else
          let v := ws.foldr (fun w x => w + 2 ^ 32 * x) 0
          let m := if kind = 3 then k else 1
          (match d.cfgiWrite n c.reg v m a with
          | (d, none) => d.cfgiFail n 3
          | (d, some b) =>
            let pkt := if kind = 3 ∨ k = 1 then none else some (kind, k - 1)
            match d.cfgiOf n with
            | some c => d.setCfgi n { c with pkt := pkt, addr := if pkt.isNone then none else some b, words := [] }
            | none => d)

/-- CFGI_DATA: one word of packets (R412). -/
def execCfgiData (n : Die) (w : Word) (s : State) : Out :=
  s.does fun d => if d.cfgiUsable n.val then (d.cfgiData n.val w.toNat).completeUpdate n.val else d

/-- CLOSE: a packet left unfinished, the CRC and completeness are judged; then the unwritten BRAM_DATA frames are zeroed
and the region's signatures stand, and its reload begins (R412, R413, R417; log 52). -/
def Dev.cfgiClose (d : Dev) (n crc : Nat) : Dev :=
  match d.cfgiOf n with
  | none => d.cfgiSequence n
  | some c =>
    if c.err.isSome ∨ d.prState n c.reg = 4 then d.cfgiSequence n
    else if d.prState n c.reg = 1 then d
    else
      let d := d.set (K.FAB_PR_STATE_STATE n c.reg) 3
      if c.pkt.isSome then d.cfgiFail n 5
      else if crcEnd c.crc ≠ crc then d.cfgiFail n 6
      else if !(d.regionFrames n c.reg [0, 1]).all (fun a => c.wrote.contains a) then d.cfgiFail n 7
      else
        let rest := (d.regionFrames n c.reg [3]).filter fun a => !c.wrote.contains a
        let d := d.each (rest.filter fun a => (tblFind d.fab.frames a).isSome) fun d a => d.frameWrite a 0
        let cols := coveredCols.filter fun p => d.colOfRegion n c.reg p.1 p.2
        let d := d.each cols fun d p => d.signGold n p.1 p.2
        d.set (K.FAB_PR_STATE_STATE n c.reg) 4

/-- CFGI_CLOSE: the static logic closes the transaction (R413). -/
def execCfgiClose (n : Die) (crc : Word) (s : State) : Out :=
  s.does fun d => if d.cfgiUsable n.val then d.cfgiClose n.val crc.toNat else d

/-- CFGI_ABORT: the static logic gives the transaction up (R414). -/
def execCfgiAbort (n : Die) (s : State) : Out :=
  s.does fun d =>
    if d.cfgiUsable n.val then
      match d.cfgiOf n.val with
      | none => d.cfgiSequence n.val
      | some c =>
        if c.err.isSome ∨ d.prState n.val c.reg = 4 then d.cfgiSequence n.val
        else if d.prState n.val c.reg = 1 then d
        else d.cfgiFail n.val 8
    else d

/-- A write of one to FAB_PR_CTRL.ABORT[r] (R414). -/
def Dev.prAbort (d : Dev) (n r : Nat) : Dev :=
  match d.cfgiOf n with
  | some c => if c.reg = r ∧ d.prState n r ≠ 4 then d.cfgiFail n 8 else d
  | none => d

/-- PR_RELOAD_DONE: the region runs on its new frames, its border releases, and the lease and the transaction end
(R413). -/
def execPrReloadDone (n : Die) (s : State) : Out :=
  s.does fun d =>
    let n := n.val
    match d.cfgiOf n with
    | some c =>
      if d.prState n c.reg = 4 then
        let d := (d.set (K.FAB_PR_STATE_STATE n c.reg) 0).prErr n c.reg 0
        let d := (d.bump (K.FAB_PR_STATE_DONE n c.reg)).setBorder n c.reg false
        ((d.leaseRelease n lcFCOL (prHolder c.reg)).dropCfgi n).logBOn n 0x116 cblkFAB c.reg
      else d
    | none => d

/-- PR_BLANK_DONE: the failed region's frames are blank and no longer written, the region is FAILED (R414). -/
def execPrBlankDone (n : Die) (s : State) : Out :=
  s.does fun d =>
    let n := n.val
    match d.cfgiOf n with
    | some c =>
      (match c.err with
      | some e =>
        let d := d.framesBlank (d.regionFrames n c.reg [0, 1, 3])
        let d := (d.set (K.FAB_PR_STATE_STATE n c.reg) 5).prErr n c.reg e
        ((d.leaseDrop n lcFCOL (prHolder c.reg)).dropCfgi n).logBOn n 0x117 cblkFAB (c.reg + 2 ^ 4 * e)
      | none => d)
    | none => d

/-- On entry into Load an open transaction fails (R414, log 52). -/
def Dev.cfgiLoad (d : Dev) : Dev := d.each (List.range 4) fun d n => d.cfgiFail n 8

/-- On entry into Safe an open transaction stops as it stands (R415). -/
def Dev.cfgiSafe (d : Dev) : Dev :=
  d.each (List.range 4) fun d n =>
    match d.cfgiOf n with
    | some c =>
      let d := (d.set (K.FAB_PR_STATE_STATE n c.reg) 5).prErr n c.reg 9
      ((d.leaseDrop n lcFCOL (prHolder c.reg)).dropCfgi n).setBorder n c.reg true
    | none => d

/-! ## Scrubbing (R418 to R421) -/

/-- Scrubbing runs on die `n` (R418). -/
def Dev.scrubRuns (d : Dev) (n : Nat) : Bool :=
  d.cdPresent n && d.on (K.CFG_DIE_STATUS_SCRUB_EN n) && d.on (K.FAB_SCRUB_CTRL_EN n)
    && d.on (K.CFG_DIE_STATUS_STARTED n) && d.modeIn [mdReady, mdRun, mdHold]

/-- Lease holder of the scrubber (R532, Table 2). -/
def scrubHolder : Nat := 0x80

/-- A column is skipped: in error, of a FAILED region, or of a region under transaction (R418, R420). -/
def Dev.scrubSkips (d : Dev) (n ty c : Nat) : Bool :=
  d.fab.bad.contains (mkFaddr n ty c 0) || (List.range 8).any fun r =>
    d.colOfRegion n r ty c && (d.prState n r == 5 || (match d.cfgiOf n with
      | some x => x.reg == r
      | none => false))

/-- The pass of die `n` has gone past its last column, or stops. -/
def Dev.scrubEnd (d : Dev) (n : Nat) (done : Bool) : Dev :=
  let d := d.leaseRelease n lcFCOL scrubHolder
  let k := tblGet 0 d.fab.skipped n
  let d := { d with fab := { d.fab with scrub := tblErase d.fab.scrub n, skipped := tblErase d.fab.skipped n } }
  let d := d.put (K.FAB_SCRUB_STATUS_ACTIVE n) false
  if done then (d.set (K.FAB_SCRUB_STATUS_SKIPPED n) (min k 255)).bump (K.FAB_SCRUB_STATUS_PASSES n) else d

/-- The scrubber comes to column `i`, with `fuel` columns left: it skips columns, or gets the lease of one (R418). -/
def Dev.scrubFrom (d : Dev) (n : Nat) : Nat → Nat → Dev
  | 0, _ => d.scrubEnd n true
  | fuel + 1, i =>
    let (ty, c) := (coveredCols.drop i).headD (0, 0)
    let skip (d : Dev) : Dev :=
      { d with fab := { d.fab with skipped := tblPut d.fab.skipped n (tblGet 0 d.fab.skipped n + 1) } }
    if d.scrubSkips n ty c then Dev.scrubFrom (skip d) n fuel (i + 1)
    else
      match d.leaseReq n lcFCOL scrubHolder c false with
      | (d', .granted) => { d' with fab := { d'.fab with scrub := tblPut d'.fab.scrub n i } }
      | _ => Dev.scrubFrom (skip d) n fuel (i + 1)

/-- SCRUB_PASS_START: PERIOD ms after the last pass began, a pass begins (R418). -/
def execScrubPassStart (n : Die) (s : State) : Out :=
  s.does fun d =>
    let n := n.val
    let due := match tblFind d.fab.scrubAt n with
      | some t => decide (t + 800000 * max 1 (d.get (K.FAB_SCRUB_CTRL_PERIOD n)) ≤ d.clock)
      | none => true
    if d.scrubRuns n && !d.on (K.FAB_SCRUB_STATUS_ACTIVE n) && due then
      let d := { d with fab := { d.fab with
        scrubAt := tblPut d.fab.scrubAt n d.clock, skipped := tblPut d.fab.skipped n 0 } }
      (d.put (K.FAB_SCRUB_STATUS_ACTIVE n) true).scrubFrom n 205 0
    else d

/-- The stop policy of a die (R421). -/
def Dev.scrubStop (d : Dev) (n : Nat) : Dev :=
  match d.get (K.FAB_SCRUB_POL_ACTION n) with
  | 1 => d.stopReqs (allSites.filter fun s => (d.siteDies s).contains n) 0x12
  | 2 =>
    let m := d.get (K.FAB_SCRUB_SITES_LO n) + 2 ^ 32 * d.get (K.FAB_SCRUB_SITES_HI n)
    d.stopReqs (allSites.filter fun s => bitAt m s) 0x12
  | _ => d

/-- One more upset of die `n` (R423). -/
def Dev.upsetCount (d : Dev) (n : Nat) : Dev :=
  d.count48 (K.FAB_UPSET_LO_COUNT_LO n) (K.FAB_UPSET_HI_COUNT_HI n) (K.FAB_UPSET_HI_OVF n)

/-- A non-benign upset: 1 CRITICAL, 2 UNCORRECTABLE, 3 UNLOCATED (R420, R421). -/
def Dev.upsetAlarm (d : Dev) (n a cls : Nat) : Dev :=
  let d := (d.set (K.FAB_UPSET_LAST_FADDR n) a).set (K.FAB_UPSET_LAST_CLASS n) cls
  let d := (d.put (K.FAB_SCRUB_STATUS_CRIT_SEEN n) true).logAOn n 0x00C cblkFAB (a + 2 ^ 22 * cls)
  d.scrubStop n

/-- Offset of a frame's 16 bytes in the critical-bit map (R420). -/
def critOffset (a : Nat) : Nat :=
  match faType a with
  | 0 => (faCol a * 80 + faFrame a) * 16
  | 1 => (15360 + faCol a * 32 + faFrame a) * 16
  | _ => (15744 + faFrame a) * 16

/-- A corrected bit of the frame is critical: its group's map bit is 1, CRIT_EN is 0, or the map read fails, as it does
where no memory lies (R420). -/
def Dev.critical (d : Dev) (n a : Nat) (mapFail : Bool) (bits : List Nat) : Bool :=
  let at' := d.get (K.FAB_CRIT_BASE_LO n) * 2 ^ 12 + d.get (K.FAB_CRIT_BASE_HI n) * 2 ^ 32 + critOffset a
  let readable := match regionOf at' with
    | .general => true
    | .placed _ => !d.storeAbsent at'
    | .inter => !d.storeAbsent at'
    | _ => false
  !d.on (K.FAB_CRIT_BASE_LO_CRIT_EN n) || mapFail || !readable
    || bits.any fun b => bitAt (d.peekNum at' 16) (b / 64)

/-- What the 512-bit segment's code shows (R419): nothing, the bit to invert, or two errors; three errors or more are
outside what the code tells, so what it shows then is free (log 1). -/
def Dev.segment (d : Dev) (a g : Nat) : Dev × Option (Option Nat) :=
  let l := (tblGet [] d.fab.upsets a).filter fun b => b / 512 == g
  match l with
  | [] => (d, none)
  | [b] => (d, some (some b))
  | [_, _] => (d, some none)
  | _ =>
    let (v, d) := d.freeVal (a * 16 + g)
    (d, if v % 3 = 0 then none else if v % 3 = 1 then some none else some (some (512 * g + v / 3 % 512)))

/-- A bit of a frame is inverted: an upset, or the correction of one. -/
def Dev.flipBit (d : Dev) (a b : Nat) : Dev :=
  let l := tblGet [] d.fab.upsets a
  let l := if l.contains b then l.filter (· != b) else l ++ [b]
  { d with fab := { d.fab with upsets := if l = [] then tblErase d.fab.upsets a else tblPut d.fab.upsets a l } }

/-- One frame of a column that shows a mismatch: corrected and classified; answers whether a segment is UNCORRECTABLE
(R419, R420). -/
def Dev.scrubFrame (d : Dev) (n a : Nat) (mapFail : Bool) : Dev × Bool :=
  let (d, syn) := (List.range 16).foldl (fun (p : Dev × List (Option Nat)) g =>
    let (d, r) := p.1.segment a g
    (d, match r with
      | some x => p.2 ++ [x]
      | none => p.2)) (d, ([] : List (Option Nat)))
  let bits := syn.filterMap id
  let d := d.each bits fun d b => d.flipBit a b
  let d := if bits = [] then d
    else if d.critical n a mapFail bits then (d.upsetCount n).upsetAlarm n a 1
    else (d.upsetCount n).logBOn n 0x118 cblkFAB a
  if syn.any (fun x => x.isNone) then ((d.upsetCount n).upsetAlarm n a 2, true) else (d, false)

/-- The column is in error (R420). -/
def Dev.scrubBad (d : Dev) (n ty c : Nat) : Dev :=
  { d with fab := { d.fab with bad := mkFaddr n ty c 0 :: d.fab.bad } }.put (K.FAB_SCRUB_STATUS_BAD_COL n) true

/-- The column's signature is checked, and what its frames show is acted on (R419 to R421). -/
def Dev.scrubColumn (d : Dev) (n ty c : Nat) (mapFail : Bool) : Dev :=
  let gold := tblGet 0 d.fab.golden (mkFaddr n ty c 0)
  if d.signature n ty c = gold then d
  else
    let (d, unc) := (d.coveredFrames n ty c).foldl (fun (p : Dev × Bool) a =>
      let (d, b) := p.1.scrubFrame n a mapFail
      (d, p.2 || b)) (d, false)
    if unc then d.scrubBad n ty c
    else if d.signature n ty c = gold then d
    else ((d.upsetCount n).upsetAlarm n (mkFaddr n ty c 0) 3).scrubBad n ty c

/-- SCRUB_COLUMN_DONE: the column under the scrubber has been read with the bits that have upset in it since it was last
read; its lease is released and the scrubber goes on (R418 to R421). -/
def execScrubColumnDone (n : Die) (flips : List (BitVec 10 × BitVec 13)) (mapFail : Bool) (s : State) : Out :=
  s.doesAs (3, 0x12, n.val) fun d =>
    let n := n.val
    match tblFind d.fab.scrub n with
    | none => d
    | some i =>
      if !d.scrubRuns n then d.scrubEnd n false
      else
        let (ty, c) := (coveredCols.drop i).headD (0, 0)
        let cov := d.coveredFrames n ty c
        let d := d.each (flips.filter fun p => cov.contains (mkFaddr n ty c p.1.toNat)) fun d p =>
          d.flipBit (mkFaddr n ty c p.1.toNat) p.2.toNat
        let d := (d.scrubColumn n ty c mapFail).leaseRelease n lcFCOL scrubHolder
        { d with fab := { d.fab with scrub := tblErase d.fab.scrub n } }.scrubFrom n (204 - i) (i + 1)

/-- Scrubbing stops with the modes it runs in (R418). -/
def Dev.scrubsStop (d : Dev) : Dev :=
  d.each (List.range 4) fun d n => if (tblFind d.fab.scrub n).isSome then d.scrubEnd n false else d

/-- A DIE reset of channel die `n`: its frames are blank and its transactions and passes end (R58, R385, R415). -/
def Dev.fabReset (d : Dev) (n : Nat) : Dev :=
  let f := d.fab
  let d := { d with fab := { f with
    frames := tblKeep f.frames fun a => faDie a != n
    declared := putBitAt f.declared n false
    golden := tblKeep f.golden fun a => faDie a != n
    upsets := tblKeep f.upsets fun a => faDie a != n
    bad := f.bad.filter fun a => faDie a != n
    scrubAt := tblErase f.scrubAt n
    scrub := tblErase f.scrub n
    skipped := tblErase f.skipped n
    cfgi := tblErase f.cfgi n
    lastReg := tblErase f.lastReg n
    border := tblErase f.border n } }
  d.completeUpdate n

end Sys2Proof.Machine
end

