-- ==== Sys2Proof/Machine/Flash.lean ====
section
/-! DEFINITION. The hub flash: its sectors and reads, the service calls, and the A/B stores (R424 to R441). -/

namespace Sys2Proof.Machine

/-! ## Sectors and reads (R424, R426, R429, R436) -/

/-- Bytes of the flash. -/
def flashSize : Nat := 0x1000000

/-- The sector that holds an offset (R424). -/
def sectorOf (o : Nat) : Nat := if o < 0x20000 then o / 0x4000 else 8 + (o - 0x20000) / 0x20000

/-- First offset of a sector. -/
def sectorBase (i : Nat) : Nat := if i < 8 then i * 0x4000 else 0x20000 + (i - 8) * 0x20000

/-- Size of a sector. -/
def sectorSize (i : Nat) : Nat := if i < 8 then 0x4000 else 0x20000

/-- The sectors that `n` bytes from an offset touch, ascending. -/
def sectorsOf (o n : Nat) : List Nat :=
  if n = 0 then [] else (List.range 135).filter fun i => decide (sectorOf o ≤ i) && decide (i ≤ sectorOf (o + n - 1))

/-- The byte at an offset; in an undefined sector it may differ on every read (R436). -/
def Dev.flashAt (d : Dev) (o : Nat) : Byte :=
  if d.flc.unsure.contains (sectorOf o) then Config.flashByte d.freeUsed o else tblGet 0xFF d.flash o

/-- A read is over: the next read of undefined bytes gives other ones. -/
def Dev.flashDone (d : Dev) : Dev := { d with freeUsed := d.freeUsed + 1 }

/-- `n` bytes from an offset. -/
def Dev.flashBytes (d : Dev) (o n : Nat) : List Byte := (List.range n).map fun i => d.flashAt (o + i)

/-- A little-endian number of `n` bytes at an offset. -/
def Dev.flashNum (d : Dev) (o n : Nat) : Nat := leNum (d.flashBytes o n)

/-- One byte of flash set. -/
def Dev.flashPut (d : Dev) (o : Nat) (b : Byte) : Dev :=
  { d with flash := if b = 0xFF then tblErase d.flash o else tblPut d.flash o b }

/-- Bytes of flash set from an offset. -/
def Dev.flashPuts (d : Dev) (o : Nat) : List Byte → Dev
  | [] => d
  | b :: l => Dev.flashPuts (d.flashPut o b) (o + 1) l

/-- Every byte of a sector is erased, and its contents are defined. -/
def Dev.sectorErase (d : Dev) (i : Nat) : Dev :=
  { d with
    flash := d.flash.filter fun c => sectorOf c.1 != i
    flc := { d.flc with unsure := d.flc.unsure.filter (· != i) } }

/-- The contents of a sector are undefined. -/
def Dev.sectorLost (d : Dev) (i : Nat) : Dev :=
  { d.sectorErase i with flc := { d.flc with unsure := i :: d.flc.unsure.filter (· != i) } }

/-- A corrected read error: counted (R426). -/
def Dev.flashCE (d : Dev) : Dev :=
  (d.count48 K.FLC_CE_LO_COUNT_LO K.FLC_CE_HI_COUNT_HI K.FLC_CE_HI_OVF).put K.FLC_STATUS_CE_ANY true

/-- An uncorrectable read error of the line at an offset (R426). -/
def Dev.flashUE (d : Dev) (o : Nat) : Dev :=
  (d.put K.FLC_STATUS_UE_ANY true).set K.FLC_UE_ADDR (o / 32 * 32)

/-- An enabled execute-only region holds the sector (R429). -/
def Dev.xoSector (d : Dev) (i : Nat) : Bool :=
  (List.range 4).any fun x => d.on (K.FLC_XO_EN x) && decide (d.get (K.FLC_XO_FIRST x) ≤ i)
    && decide (i < d.get (K.FLC_XO_FIRST x) + d.get (K.FLC_XO_COUNT x))

/-- A data read in an execute-only region by a master other than the hub controller and the cores (R429). -/
def Dev.xoRead (d : Dev) (o : Nat) : Dev := (d.put K.FLC_STATUS_XO_VIOL true).logB 0x11C blkFLC o

/-- What a read of the line at an offset meets: the ECC result that the command brings, 1 corrected and 2 uncorrectable,
unless an injection gives one; an injected one flips ARG[1:0] bits (R426, R546). -/
def Dev.flashEcc (d : Dev) (o ecc : Nat) : Dev × Nat :=
  match d.inject 0x0E fun _ a => bitsAt a 8 24 == o / 32 && a % 4 != 0 with
  | some (a, d) =>
    if a % 4 = 1 then (d.asInjected Dev.flashCE, 1) else (d.asInjected fun d => d.flashUE o, 2)
  | none => if ecc = 1 then (d.flashCE, 1) else if ecc = 2 then (d.flashUE o, 2) else (d, 0)

/-! ## Stores (R437 to R439) -/

/-- Bytes of a copy of a store. -/
def copySize (s : Nat) : Nat := if s = 0 then 0x40000 else if s = 3 then 0x20000 else 0x4000

/-- Longest body of a store: up to the trailer, and for store 0 as R83 says (R437). -/
def bodyLimit (s : Nat) : Nat := if s = 0 then 229376 else copySize s - 0x100 - 16

/-- First offset of copy `c` of a store (R424). -/
def copyBase (s c : Nat) : Nat :=
  match s with
  | 0 => 0x20000 + c * 0x40000
  | 1 => c * 0x4000
  | 2 => 0x8000 + c * 0x4000
  | 3 => 0x120000 + c * 0x20000
  | 4 => 0x10000 + c * 0x4000
  | _ => 0x18000 + c * 0x4000

/-- MAGIC of a store. -/
def storeMagic (s : Nat) : Nat := if s = 0 then 0x534E5449 else 0x46505300 + s

/-- SEQ of a copy is valid (R437). -/
def seqValid (n : Nat) : Bool := n != 0 && n != 0xFFFFFFFF

/-- A copy is valid (R84, R438). -/
def Dev.copyValid (d : Dev) (s c : Nat) : Bool :=
  let b := copyBase s c
  d.flashNum b 4 == storeMagic s && d.flashNum (b + 4) 4 == 1 && seqValid (d.flashNum (b + 8) 4)
    && decide (d.flashNum (b + 12) 4 ≤ bodyLimit s)
    && crc32c (d.flashBytes b (copySize s - 4)) == d.flashNum (b + copySize s - 4) 4

/-- SEQ of a copy. -/
def Dev.copySeq (d : Dev) (s c : Nat) : Nat := d.flashNum (copyBase s c + 8) 4

/-- STAMP of a copy. -/
def Dev.copyStamp (d : Dev) (s c : Nat) : Nat := d.flashNum (copyBase s c + copySize s - 16) 8

/-- The copy that a reader selects: 0 A, 1 B (R85, R438). -/
def Dev.copySelect (d : Dev) (s : Nat) : Option Nat :=
  match d.copyValid s 0, d.copyValid s 1 with
  | false, false => none
  | true, false => some 0
  | false, true => some 1
  | true, true =>
    if d.copySeq s 0 < d.copySeq s 1 then some 1
    else if d.copySeq s 1 < d.copySeq s 0 then some 0
    else if d.copyStamp s 0 < d.copyStamp s 1 then some 1
    else some 0

/-- STAMP of the next copy written: one more than the larger STAMP of the valid copies, 1 with none (R84, R439). -/
def Dev.nextStamp (d : Dev) (s : Nat) : Nat :=
  ([0, 1].filter (d.copyValid s)).foldl (fun m c => max m (d.copyStamp s c + 1)) 1

/-- The slot of the running image: 0 A, 1 B. -/
def Dev.runSlot (d : Dev) : Option Nat :=
  match d.snt.running with
  | .slotA => some 0
  | .slotB => some 1
  | _ => none

/-! ## Calls (R431 to R434) -/

/-- FLC_RESULT and DONE at the end of a call. -/
def Dev.callAnswer (d : Dev) (st caller : Nat) (done : Bool := true) : Dev :=
  let d := (d.set K.FLC_RESULT_STATUS st).set K.FLC_RESULT_CALLER caller
  if done then d.put K.FLC_RESULT_DONE true else d

/-- The lease holder of a caller (R532, Table 2). -/
def flashHolder (caller : Nat) : Nat := 0x30 + caller

/-- SLOT_A_VALID and SLOT_B_VALID follow the bytes of the slots (R93). -/
def Dev.slotsSeen (d : Dev) : Dev :=
  ((d.put K.SNT_STATUS_SLOT_A_VALID (d.copyValid 0 0)).put K.SNT_STATUS_SLOT_B_VALID (d.copyValid 0 1)).flashDone

/-- The running call ends with a status: its lease is released. -/
def Dev.callEnd (d : Dev) (st : Nat) : Dev :=
  match d.flc.call with
  | none => d
  | some c =>
    let d := d.leaseDrop 5 lcFLASH (flashHolder c.caller)
    let d := { d with flc := { d.flc with call := none } }
    let d := if c.func = 1 ∨ c.func = 2 ∨ c.func = 6 then d.slotsSeen else d
    ((d.put K.FLC_STATUS_CALL_ACTIVE false).put K.FLC_STATUS_OP_ACTIVE false).callAnswer st c.caller

/-- The function programs or erases. -/
def funcWrites (f : Nat) : Bool := f == 1 || f == 2 || f == 6

/-- Every byte of a source lies in the base SRAM general partition or in an HBM aperture (R433). -/
def Dev.sourceOk (d : Dev) (a n : Nat) : Bool :=
  let ok (a : Nat) : Bool := match regionOf a with
    | .general => true
    | .placed _ => !d.storeAbsent a
    | .inter => !d.storeAbsent a
    | _ => false
  let last := a + n - 1
  let same : Bool := match regionOf a, regionOf last with
    | .general, .general => true
    | .placed i, .placed j => i == j
    | .inter, .inter => true
    | _, _ => false
  ok a && ok last && same

/-- The range crosses the end of an execute-only region (R434, Table 3). -/
def Dev.xoCrossed (d : Dev) (l : List Nat) : Bool := l.any d.xoSector && !l.all d.xoSector

/-- The copy that STORE_WRITE writes (R439): the one named; else for store 0 the slot that is not running, and otherwise
the copy that is not selected. With the ROM default image running both slots are not running, and the one not selected is
taken; with no valid copy, copy A (log 53). -/
def Dev.targetCopy (d : Dev) (arg0 : Nat) : Nat :=
  let s := arg0 % 8
  let c := bitsAt arg0 4 2
  if c = 1 then 0
  else if c = 2 then 1
  else match (if s = 0 then d.runSlot else none) with
    | some r => 1 - r
    | none => match d.copySelect s with
      | some x => 1 - x
      | none => 0

/-- The sectors that a call reads, programs or erases. -/
def callSectors (c : FCall) : List Nat :=
  match c.func with
  | 1 => [c.arg0]
  | 4 => [c.arg0]
  | 6 => sectorsOf (copyBase (c.arg0 % 8) c.copy.1) (copySize (c.arg0 % 8))
  | 7 => [0, 1].flatMap fun x => sectorsOf (copyBase (c.arg0 % 8) x) (copySize (c.arg0 % 8))
  | _ => sectorsOf c.arg0 c.arg3

/-- BAD_ARG (R434, Table 3). -/
def Dev.callBadArg (d : Dev) (c : FCall) : Bool :=
  match c.func with
  | 1 => decide (135 ≤ c.arg0)
  | 2 => c.arg0 % 32 != 0 || c.arg3 % 32 != 0 || decide (0x40000 < c.arg3) || decide (flashSize < c.arg0 + c.arg3)
      || (c.given == [] && c.arg3 != 0 && !d.sourceOk c.src c.arg3) || d.xoCrossed (sectorsOf c.arg0 c.arg3)
  | 3 => decide (flashSize < c.arg0 + c.arg3) || (c.arg3 != 0 && !d.sourceOk c.src c.arg3)
      || d.xoCrossed (sectorsOf c.arg0 c.arg3)
  | 4 => decide (135 ≤ c.arg0)
  | 5 => decide (flashSize < c.arg0 + c.arg3) || d.xoCrossed (sectorsOf c.arg0 c.arg3)
  | 6 => decide (6 ≤ c.arg0 % 8) || bitsAt c.arg0 4 2 == 3 || decide (c.arg3 < 0x100) || !d.sourceOk c.src c.arg3
  | _ => decide (6 ≤ c.arg0 % 8)

/-- PROTECTED: a sector's write-protection bit is set (R434). -/
def Dev.sectorProtected (d : Dev) (i : Nat) : Bool :=
  if i < 8 then bitAt (d.get K.FLC_WP_P) i else bitAt (d.get (K.FLC_WP_M ((i - 8) / 32))) ((i - 8) % 32)

/-- The first applicable status before a lease is asked for, or 0 (R434, Table 3). -/
def Dev.callStatus (d : Dev) (c : FCall) : Nat :=
  let l := callSectors c
  let w := funcWrites c.func
  let life := d.fuses.lifecycle
  if 8 ≤ c.func ∨ c.func = 0 then 0x02
  else if d.callBadArg c then 0x03
  else if c.caller = 4 ∧ ¬ ((c.func = 1 ∨ (c.func = 2 ∧ c.arg3 = 32)) ∧ l.all fun i => decide (12 ≤ i) && decide (i < 16)) then 0x04
  else if w ∧ (life = lcRETIRED ∨ (l.any (fun i => i == 16 || i == 17) ∧ ¬ [0, 1, 4].contains life)) then 0x05
  else if w ∧ l.any d.sectorProtected then 0x06
  else if d.on K.FLC_LOCK_XO_LOCK ∧ l.any d.xoSector then 0x07
  else if w && (match d.runSlot with
    | some r => l.any fun i => i == 8 + 2 * r || i == 9 + 2 * r
    | none => false) then 0x08
  else 0

/-- Lines 0 to n − 1 of a program of `n` lines. -/
def lineOps (off src n : Nat) : List FOp := (List.range n).map fun i => .line (off + 32 * i) (src + 32 * i)

/-- The operations of a call that programs or erases (R433, R439). -/
def callOps (c : FCall) : List FOp :=
  match c.func with
  | 1 => [.erase c.arg0]
  | 2 => if c.given = [] then lineOps c.arg0 c.src (c.arg3 / 32) else [.data c.arg0 c.given]
  | _ =>
    let s := c.arg0 % 8
    let b := copyBase s c.copy.1
    (sectorsOf b (copySize s)).map .erase
      ++ lineOps b c.src (min ((c.arg3 + 31) / 32) (copySize s / 32 - 1))
      ++ [.trailer b (copySize s) c.copy.2]

/-- The call's record replaced. -/
def Dev.setCall (d : Dev) (c : FCall) : Dev := { d with flc := { d.flc with call := some c } }

/-- The operation at the head of a call begins: a line's source is read (R433), and the sector is shown. -/
def Dev.opBegin (d : Dev) (c : FCall) : Dev :=
  let start (d : Dev) (sector : Nat) (now : List Byte) : Dev :=
    let d := d.setCall { c with now := now }
    ({ d with flc := { d.flc with opAt := d.clock } }.put K.FLC_STATUS_OP_ACTIVE true).set K.FLC_STATUS_SECTOR sector
  match c.todo with
  | [] => d
  | .erase i :: _ => start d i []
  | .line off src :: _ =>
    let first := if c.func = 6 then copyBase (c.arg0 % 8) c.copy.1 else c.arg0
    let k := (off - first) / 32
    if c.srcErr = some k then (d.setCall c).callEnd 0x0B
    else
      let n := min 32 (first + c.arg3 - off)
      start d (sectorOf off) (d.peekBytes src n ++ List.replicate (32 - n) 0xFF)
  | .data off l :: _ => start d (sectorOf off) l
  | .trailer b len stamp :: _ =>
    -- the copy's last line: what the body puts there, STAMP, fill and the CRC of everything before it (R437)
    let o := b + len - 32
    let n := min 16 (b + c.arg3 - o)
    let body := d.peekBytes (c.src + (o - b)) n ++ List.replicate (16 - n) 0xFF
    let line := body ++ leBytes stamp 8 ++ List.replicate 4 (0xFF : Byte)
    let crc := crc32c (d.flashBytes b (len - 32) ++ line)
    start d (sectorOf o) (line ++ leBytes crc 4)

/-- The flash lease is obtained: NOT_ERASED and BAD_IMAGE are judged, and the first operation begins (R432, R434). -/
def Dev.flashBegins (d : Dev) : Dev :=
  match d.flc.call with
  | none => d
  | some c =>
    let c := { c with waits := false, todo := callOps c }
    let d := d.setCall c
    if c.func = 2 ∧ (d.flashBytes c.arg0 c.arg3).any (· != 0xFF) then d.flashDone.callEnd 0x0A
    else if c.func = 6 ∧ c.srcErr = some 0 then d.callEnd 0x0B
    else if c.func = 6 ∧ (!seqValid (d.peekNum (c.src + 8) 4) || decide (bodyLimit (c.arg0 % 8) < d.peekNum (c.src + 12) 4)
        || decide (bodyLimit (c.arg0 % 8) + 0x100 < c.arg3)) then d.callEnd 0x0E
    else if c.todo = [] then d.callEnd 0
    else d.flashDone.opBegin c

/-- First place at which two lists differ. -/
def firstDiff : List Byte → List Byte → Nat → Option Nat
  | a :: l, b :: m, i => if a = b then firstDiff l m (i + 1) else some i
  | _, _, _ => none

/-- The functions that only read, done at once (R433). -/
def Dev.callRead (d : Dev) (c : FCall) : Dev :=
  let lines (n : Nat) : Nat := (n + 31) / 32
  let prog (d : Dev) (n : Nat) : Dev := d.set K.FLC_PROGRESS (min n 65535)
  match c.func with
  | 3 =>
    let good := match c.srcErr with
      | some k => min c.arg3 (32 * k)
      | none => c.arg3
    (match firstDiff (d.flashBytes c.arg0 good) (d.peekBytes c.src good) 0 with
    | some i => (((prog d (i / 32 + 1)).flashDone.set K.FLC_OUT (c.arg0 + i)).callEnd 0x0C)
    | none => if good < c.arg3 then (prog d (good / 32)).flashDone.callEnd 0x0B
      else (prog d (lines c.arg3)).flashDone.callEnd 0)
  | 4 =>
    let b := sectorBase c.arg0
    let n := sectorSize c.arg0
    (match firstDiff (d.flashBytes b n) (List.replicate n 0xFF) 0 with
    | some i => ((prog d (i / 32 + 1)).flashDone.set K.FLC_OUT (b + i)).callEnd 0x0D
    | none => (prog d (lines n)).flashDone.callEnd 0)
  | 5 => ((prog d (lines c.arg3)).flashDone.set K.FLC_OUT (crc32c (d.flashBytes c.arg0 c.arg3))).callEnd 0
  | _ =>
    let s := c.arg0 % 8
    let d := prog d (min 65535 (2 * lines (copySize s)))
    (match d.copySelect s with
    | some x => ((d.set K.FLC_OUT (d.copySeq s x)).set K.FLC_OUT2 x).flashDone.callEnd 0
    | none => (d.flashDone.set K.FLC_OUT2 3).callEnd 0x10)

/-- A call by a permitted caller (R431 to R434). -/
def Dev.flashCall (d : Dev) (c : FCall) (queue : Bool) : Dev :=
  if d.on K.FLC_STATUS_CALL_ACTIVE then d.callAnswer 0x01 c.caller false
  else
    let c := { c with copy := if c.func = 6 ∧ c.arg0 % 8 < 6 then (d.targetCopy c.arg0, d.nextStamp (c.arg0 % 8)) else (0, 0) }
    let st := d.callStatus c
    if st ≠ 0 then d.callAnswer st c.caller
    else
      let accept (d : Dev) : Dev :=
        (((d.setCall c).put K.FLC_STATUS_CALL_ACTIVE true).put K.FLC_RESULT_DONE false).set K.FLC_PROGRESS 0
      if funcWrites c.func then
        match d.leaseReq 5 lcFLASH (flashHolder c.caller) (((callSectors c).headD 0)) queue with
        | (d, .granted) => (accept d).flashBegins
        | (d, .queued) => (accept d).setCall { c with waits := true }
        | (d, .busy h) => (d.callAnswer 0x09 c.caller).set K.FLC_RESULT_HOLDER h
        | (d, .qfull h) => (d.callAnswer 0x09 c.caller).set K.FLC_RESULT_HOLDER h
      else (accept d).callRead c

/-- A call with the operands of FLC_ARG0 to FLC_ARG3. -/
def Dev.regCall (d : Dev) (func caller : Nat) (srcErr : Option Nat) : FCall :=
  ⟨func, caller, d.get (K.FLC_ARG 0), d.get2 (K.FLC_ARG 1) (K.FLC_ARG 2), d.get (K.FLC_ARG 3), [], (0, 0), srcErr, false,
    [], []⟩

/-- A write of FLC_CALL by a master (R431): without KEY = 0xC3 nothing happens; a virtual function and the debug master
are refused. -/
def Dev.flashWrite (d : Dev) (m : Master) (w : Nat) (srcErr : Option Nat := none) : Dev :=
  let go (caller : Nat) : Dev := d.flashCall (d.regCall (w % 256) caller srcErr) (bitAt w 8)
  if bitsAt w 24 8 ≠ 0xC3 then d
  else match m with
    | .hubc => go 1
    | .pf => go 2
    | .cfgp => go 3
    | _ => d.put K.FLC_STATUS_CALL_REFUSED true

/-- A command of the Instant Fabric port (R69, R431): BUSY while an operation is in progress. -/
def Dev.flashFabric (d : Dev) (func arg : Nat) (line : List Byte) (queue : Bool) : Dev :=
  if d.on K.FLC_STATUS_OP_ACTIVE then d.callAnswer 0x01 4 false
  else d.flashCall ⟨func, 4, arg, 0, 32, (line ++ List.replicate 32 0xFF).take 32, (0, 0), none, false, [], []⟩ queue

/-! ## Operations (R433, R435, R436) -/

/-- The operation at the head of a call has its effect on the flash. -/
def Dev.opDone (d : Dev) (c : FCall) : Dev :=
  match c.todo with
  | [] => d
  | .erase i :: _ => d.sectorErase i
  | .line off _ :: _ => (d.flashPuts off c.now).adv K.FLC_PROGRESS
  | .data off _ :: _ => (d.flashPuts off c.now).adv K.FLC_PROGRESS
  | .trailer b len _ :: _ => (d.flashPuts (b + len - 32) c.now).adv K.FLC_PROGRESS

/-- FLASH_OPERATION_END: the operation ends and the next begins, or the call completes; STORE_WRITE reads its copy back
first (R433, R435, R439). -/
def execFlashOperationEnd (s : State) : Out :=
  s.does fun d =>
    match d.flc.call with
    | some c =>
      if d.on K.FLC_STATUS_OP_ACTIVE then
        let d := (d.opDone c).put K.FLC_STATUS_OP_ACTIVE false
        let c := { c with todo := c.todo.drop 1 }
        if c.todo = [] then
          if c.func = 6 then
            let s := c.arg0 % 8
            let b := copyBase s c.copy.1
            let ok := crc32c (d.flashBytes b (copySize s - 4)) == d.flashNum (b + copySize s - 4) 4
            if ok then ((d.set K.FLC_OUT (d.copySeq s c.copy.1)).set K.FLC_OUT2 c.copy.1).callEnd 0 else d.callEnd 0x0C
          else d.callEnd 0
        else (d.setCall c).opBegin c
      else d
    | none => d

/-- The sector of the operation at the head of a call. -/
def opSector (c : FCall) : Nat :=
  match c.todo with
  | .erase i :: _ => i
  | .line off _ :: _ => sectorOf off
  | .data off _ :: _ => sectorOf off
  | .trailer b len _ :: _ => sectorOf (b + len - 32)
  | [] => 0

/-- Maximum time of the operation at the head of a call, in ticks (R433, Table 2). -/
def opLimit (c : FCall) : Nat :=
  match c.todo with
  | .erase i :: _ => if i < 8 then 32000000 else 200000000
  | _ => 16000

/-- OP_TIMEOUT: an operation exceeds twice its maximum time (R436). -/
def execOpTimeout (s : State) : Out :=
  s.does fun d =>
    match d.flc.call with
    | some c =>
      if d.on K.FLC_STATUS_OP_ACTIVE ∧ d.flc.opAt + 2 * opLimit c < d.clock then
        let i := opSector c
        (((d.sectorLost i).put K.FLC_STATUS_OP_TIMEOUT true).logA 0x00E blkFLC i).callEnd 0x0F
      else d
    | none => d

/-- POR and DRST interrupt an operation: its sector is undefined (R435, R436). -/
def Dev.flashInterrupt (d : Dev) : Dev :=
  let d := match d.flc.call with
    | some c => if d.on K.FLC_STATUS_OP_ACTIVE then d.sectorLost (opSector c) else d
    | none => d
  { d with flc := { d.flc with call := none } }

/-- IF_FLASH_READ: the Instant Fabric port reads 32 bits of M4 to M7; no answer stands for BUSY (R69, R426, R428, R429).
After an uncorrectable error the spec gives no value to the port. -/
def execIfFlashRead (off : BitVec 24) (ecc : Fin 3) (s : State) : Out :=
  let d := s.dev
  let o := off.toNat / 4 * 4
  let ok := d.snt.running != .none && decide (12 ≤ sectorOf o) && decide (sectorOf o < 16)
  let (d', a) : Dev × Option Nat :=
    if !ok || d.on K.FLC_STATUS_OP_ACTIVE then (d, none)
    else if d.xoSector (sectorOf o) then (d.xoRead o, some 0)
    else match d.flashEcc o ecc.val with
      | (d, 2) => let (v, d) := d.freeVal o
        (d, some (v % 2 ^ 32))
      | (d, _) => (d.flashDone, some (d.flashNum o 4))
  .next { s with dev := d', answer := a }

end Sys2Proof.Machine
end

