-- ==== Sys2Proof/Machine/HostIf.lean ====
section
/-! DEFINITION. The PCIe endpoint, MSI-X, DMA channels, general pins, pattern matching and serial ports (R496 to R513). -/

namespace Sys2Proof.Machine

/-- The number of a master in the snapshot keys (R104); CFGP uses the set of the physical function (R572). -/
def masterIx : Master → Nat
  | .hubc => 0
  | .pf => 1
  | .vf0 => 2
  | .vf1 => 3
  | .cfgp => 1
  | .dbg => 5
  | .guest => 6
  | .core q => 16 + q.val

/-! ## MSI-X (R501) -/

/-- An enabled source with its bit pending is mapped to vector `v`. -/
def Dev.vecWaits (d : Dev) (v : Nat) : Bool :=
  (List.range 32).any fun s => d.bitOf K.HST_IRQ_PEND s && d.srcEn s && d.srcVec s == v

/-- The Pending Bits of vectors for which no message waits any more are cleared. -/
def Dev.pbaRefresh (d : Dev) : Dev :=
  { d with msix := { d.msix with
    pba := (List.range 64).foldl (fun m v => if bitAt m v && !d.vecWaits v then clearBitAt m v else m) d.msix.pba } }

/-- The MSI-X masks change: a vector that becomes able to send while a message waits for it sends that one. -/
def Dev.msixSet (d : Dev) (f : Msix → Msix) : Dev :=
  let d := ({ d with msix := f d.msix }).pbaRefresh
  d.each (List.range 64) fun d v =>
    if bitAt d.msix.pba v && d.canSend v then
      { d with msix := { d.msix with pba := clearBitAt d.msix.pba v, sent := v :: d.msix.sent } }
    else d

/-- A write of HST_IRQ_MAP[s]: VEC and EN; entry 0 is read-only. EN rising while the bit is pending sends one message, and
so does a new vector while the old one's message waits (R501, log 55). -/
def Dev.irqMapWrite (d : Dev) (s w : Nat) : Dev :=
  if s = 0 then d
  else
    let was := d.srcEn s
    let waited := was && bitAt d.msix.pba (d.srcVec s) && d.srcVec s != w % 64
    let d := (d.set (K.HST_IRQ_MAP_VEC s) (w % 64)).put (K.HST_IRQ_MAP_EN s) (bitAt w 6)
    let d := if d.bitOf K.HST_IRQ_PEND s && bitAt w 6 && (!was || waited) then d.message (w % 64) else d
    d.pbaRefresh

/-- MSIX_UNMASK: the Mask bit of a vector's table entry is cleared (R501). -/
def execMsixUnmask (v : BitVec 6) (s : State) : Out :=
  s.does fun d => if d.inReset then d else d.msixSet fun x => { x with vmask := clearBitAt x.vmask v.toNat }

/-! ## Functions and resets (R497) -/

/-- CONFIG_REQUEST: a configuration request is served in every mode (R497). -/
def execConfigRequest (f : Fin 3) (r : CfgReq) (s : State) : Out :=
  s.does fun d =>
    if d.inReset || !d.on K.HST_STATUS_LINK_UP then d
    else match r with
      | .plain => d
      | .vfEnable m => if f = 0 then d.set K.HST_STATUS_VF_EN m.toNat else d
      | .msix e m => d.msixSet fun x => { x with
          enable := putBitAt x.enable f.val e, fmask := putBitAt x.fmask f.val m }
      | .vector v m => if vecFunction v.toNat = f.val then
          d.msixSet fun x => { x with vmask := putBitAt x.vmask v.toNat m }
        else d

/-- The HST block and the configuration space of the three functions are reset: no DMA channel runs, MSI-X is disabled;
nothing else changes (R497, R512). -/
def Dev.hstReset (d : Dev) : Dev :=
  { d.eraseRegs fun k => decide (0x90000 * 8 ≤ k) && decide (k < 0xA0000 * 8) with msix := { sent := d.msix.sent } }

/-- A reset of the host link: 0 link down, 1 hot reset, 2 PF FLR (R497, R552). -/
def Dev.hostReset (d : Dev) (code : Nat) : Dev := if d.inReset then d else d.hstReset.logA 0x014 blkHST code

/-- PCIE_LINK_DOWN (R497). -/
def execPcieLinkDown (s : State) : Out := s.does fun d => d.hostReset 0

/-- HOT_RESET (R497). -/
def execHotReset (s : State) : Out := s.does fun d => d.hostReset 1

/-- PF_FLR: a Function Level Reset of the PF (R497). -/
def execPfFlr (s : State) : Out := s.does fun d => d.hostReset 2

/-- PCIE_LINK_UP: the data link layer is active (R496, R512); width code w stands for 2^w lanes. -/
def execPcieLinkUp (speed width : Fin 5) (s : State) : Out :=
  s.does fun d =>
    if d.inReset then d
    else ((d.put K.HST_STATUS_LINK_UP true).set K.HST_STATUS_SPEED (speed + 1)).set K.HST_STATUS_WIDTH (2 ^ width.val)

/-- The function that owns a DMA channel: 0 PF, 1 VF0, 2 VF1 (R512, Table 9). -/
def Dev.dmaOwner (d : Dev) (c : Nat) : Nat :=
  let o := d.get (K.HST_DMA_CTRL_OWNER c)
  if o = 3 then 0 else o

/-- VF_FLR: an FLR of a VF halts its DMA channels and clears its time snapshots (R497). -/
def execVfFlr (v : Fin 2) (s : State) : Out :=
  s.does fun d =>
    if d.inReset then d
    else
      let d := d.each ((List.range 16).filter fun c => d.dmaOwner c == v.val + 1) fun d c =>
        d.put (K.HST_DMA_STATUS_HALTED c) true
      let m := v.val + 2
      { d with
        snaps := d.snaps.filter fun p => p.1 / 2 ^ 24 != m || p.1 % 2 ^ 24 / 0x10000 != 4
        time := { d.time with tod := tblErase d.time.tod m } }

/-! ## Reads of flash (R498, R426, R428, R429) -/

/-- FLASH_BAR_READ: the PF reads `n` bytes through BAR4; all ones stands for a completer abort. -/
def execFlashBarRead (off : BitVec 24) (n : BitVec 4) (ecc : Fin 3) (s : State) : Out :=
  let d := s.dev
  let o := off.toNat
  let n := n.toNat
  let ones : Nat := 2 ^ (8 * n) - 1
  let (d', a) : Dev × Nat :=
    if d.inReset || decide (flashSize < o + n) then (d, ones)
    else if d.on K.FLC_STATUS_OP_ACTIVE then (d.put K.FLC_STATUS_RD_REFUSED true, ones)
    else if (sectorsOf o n).any d.xoSector then (d.xoRead o, 0)
    else match d.flashEcc o ecc.val with
      | (d, 2) => (d, ones)
      | (d, _) => (d.flashDone, d.flashNum o n)
  .next { s with dev := d', answer := some a }

/-! ## DMA (R502 to R504) -/

/-- First byte of a VF's memory window, and its size (R498, R512). -/
def Dev.vfWindow (d : Dev) (v : Nat) : Nat × Nat :=
  (2 ^ 16 * d.get (K.HST_VF_MEM_BASE_LO v) + 2 ^ 32 * d.get (K.HST_VF_MEM_BASE_HI v),
    65536 * min 65536 (d.get (K.HST_VF_MEM_SIZE v)))

/-- Table 3 of 12 lets the host read or write the storage at an address. -/
def Dev.hostStorage (d : Dev) (a : Nat) (write : Bool) : Bool :=
  match regionOf a with
  | .reg => false
  | .flash => false
  | .unmapped => false
  | .user _ => false
  | r => !partRefuses .host write r && !d.storeAbsent a

/-- Every byte of a device range may be moved by a channel of function `o` (R503). The ends and the starts of partitions
between them decide, since every partition and aperture is a whole number of 64 KiB. -/
def Dev.dmaRange (d : Dev) (o a n : Nat) (write : Bool) : Bool :=
  let pts := a :: (a + n - 1) :: ((List.range (n / 65536 + 1)).map fun i => (a / 65536 + 1 + i) * 65536).filter fun x =>
    decide (x < a + n)
  let inWin := if o = 0 then true else
    let (b, s) := d.vfWindow (o - 1)
    decide (b ≤ a) && decide (a + n ≤ b + s)
  inWin && pts.all fun x => d.hostStorage x write

/-- ERR of a descriptor that is malformed or not permitted, or 0 (R502, R503; log 56). -/
def Dev.dmaErr (d : Dev) (c : Nat) (w : DmaDesc) : Nat :=
  let x := w.ctl.toNat
  let len := x % 2 ^ 24
  let dir := bitAt x 32
  let cfg := bitAt x 35
  let o := d.dmaOwner c
  if bitsAt x 24 8 ≠ 0 ∨ bitsAt x 36 28 ≠ 0 ∨ w.rest ≠ 0 ∨ len % 4 ≠ 0 ∨ len = 0 ∨ (cfg ∧ dir) then 2
  else if cfg ∧ o ≠ 0 then 6
  else if cfg then 0
  else if d.dmaRange o (if dir then w.src.toNat else w.dst.toNat) len (!dir) then 0
  else 3

/-- Channel `c` halts with an error and raises its source (R504). -/
def Dev.dmaHalt (d : Dev) (c err : Nat) : Dev :=
  ((d.put (K.HST_DMA_STATUS_HALTED c) true).set (K.HST_DMA_STATUS_ERR c) err).irq (16 + c)

/-- The descriptor at HEAD is complete (R502). -/
def Dev.dmaNext (d : Dev) (c : Nat) (irq : Bool) : Dev :=
  let n := 2 ^ d.get (K.HST_DMA_SIZE c)
  let d := d.set (K.HST_DMA_HEAD c) ((d.get (K.HST_DMA_HEAD c) + 1) % n)
  if irq then d.irq (16 + c) else d

/-- A channel has a descriptor to execute. -/
def Dev.dmaBusy (d : Dev) (c : Nat) : Bool :=
  let n := 2 ^ d.get (K.HST_DMA_SIZE c)
  d.on (K.HST_DMA_CTRL_EN c) && !d.on (K.HST_DMA_STATUS_HALTED c)
    && d.get (K.HST_DMA_HEAD c) % n != d.get (K.HST_DMA_TAIL c) % n

/-- DESCRIPTOR_COMPLETE: the descriptor at HEAD has been executed (R502 to R504). The descriptor and the bytes of a host
read come from host memory; no descriptor stands for a failed read of it; `err` is 1 for an error of the host side and 2
for one of the device side, met after the bytes given, or after as many bytes of a device read. -/
def execDescriptorComplete (c : Fin 16) (w : Option DmaDesc) (data : List Byte) (err : Fin 3) (s : State) : Out :=
  let d := s.dev
  if d.inReset || !d.dmaBusy c.val then .next s
  else match w with
    | none => .next (s.onDev fun d => d.dmaHalt c 1)
    | some w =>
      let e := d.dmaErr c w
      let x := w.ctl.toNat
      let len := x % 2 ^ 24
      let fin (d : Dev) : Dev :=
        if err = 1 then d.dmaHalt c 4
        else if err = 2 then (if bitAt x 32 then d.memUE (w.src.toNat + data.length) else d).dmaHalt c 5
        else d.dmaNext c (bitAt x 33)
      if e ≠ 0 then .next (s.onDev fun d => d.dmaHalt c e)
      else if bitAt x 32 then
        .next { s with dev := fin d, answer := some (d.peekNum w.src.toNat (if err = 0 then len else min len data.length)) }
      else
        let l := data.take len
        if bitAt x 35 then .next (s.onDev fun d => fin (d.streamBytes 2 l))
        else .next (s.onDev fun d => fin (d.pokeBytes w.dst.toNat l))

/-- A write of one to HALTED: the channel resumes at HEAD, and ERR with it is over (R504, log 56). -/
def Dev.dmaResume (d : Dev) (c : Nat) : Dev :=
  if d.on (K.HST_DMA_STATUS_HALTED c) then
    (d.put (K.HST_DMA_STATUS_HALTED c) false).set (K.HST_DMA_STATUS_ERR c) 0
  else d

/-- A write of one to ABORT: the channel stops with ABORTED (R504). -/
def Dev.dmaAbort (d : Dev) (c : Nat) : Dev := d.dmaHalt c 7

/-! ## General pins (R505 to R507) -/

/-- MODE of a serial port as it acts: 6 and 7 act as 0 (R513). -/
def Dev.spMode (d : Dev) (p : Nat) : Nat :=
  let m := d.get (K.GPI_SP_CFG_MODE p)
  if 6 ≤ m then 0 else m

/-- The Instant Fabric claims serial port `p`. -/
def Dev.portOwned (d : Dev) (p : Nat) : Bool := bitAt d.snt.portClaim p

/-- The pin belongs to the Instant Fabric or to an active serial port (R505, R513). -/
def Dev.pinOwned (d : Dev) (k : Nat) : Bool :=
  bitAt d.snt.pinClaim k || (decide (k < 16) && (d.portOwned (k / 4) || d.spMode (k / 4) != 0))

/-- GPI_FUNC of a pin. -/
def Dev.pinFunc (d : Dev) (k : Nat) : Nat := bitsAt (d.get (K.GPI_FUNC (k / 16))) (2 * (k % 16)) 2

/-- The pin follows GPI_OUT and GPI_OE: function 0, or 1 or 3, which act as it, and no other owner (R505, R513). -/
def Dev.pinGpio (d : Dev) (k : Nat) : Bool := !d.pinOwned k && d.pinFunc k != 2

/-- A masked write of GPI_OUT or GPI_OE of bank `k`: pins not owned under function 0 keep their bit, and set OWN_REFUSED
(R506). -/
def Dev.gpiWrite (d : Dev) (f : Fld) (k w : Nat) : Dev :=
  d.each (List.range 16) fun d j =>
    if !bitAt w (16 + j) then d
    else if d.pinGpio (16 * k + j) then d.putBit f j (bitAt w j)
    else d.put K.GPI_STATUS_OWN_REFUSED true

/-! ## Pattern matching (R508) -/

/-- A write of a pattern-match unit's MASK, VALUE or CFG restarts its debounce count. -/
def Dev.pmRestart (d : Dev) (u : Nat) : Dev :=
  { d with gpi := { d.gpi with pmFrom := tblPut d.gpi.pmFrom u d.clock } }

/-- PATTERN_MATCH: a unit's condition has held for DEBOUNCE + 1 ticks, with the pins as synchronised in this tick
(R508). -/
def execPatternMatch (u : Fin 8) (pins : BitVec 64) (s : State) : Out :=
  s.doesAs (7, 0, u.val) fun d =>
    let u := u.val
    let mode := d.get (K.GPI_PM_CFG_MODE u)
    let mask := d.get2 (K.GPI_PM_MASK_LO u) (K.GPI_PM_MASK_HI u)
    let val := d.get2 (K.GPI_PM_VAL_LO u) (K.GPI_PM_VAL_HI u)
    let from' := tblGet 0 d.gpi.pmFrom u
    let held := decide (from' + d.get (K.GPI_PM_CFG_DEBOUNCE u) ≤ d.clock)
    let ok := (mode == 1 && (pins.toNat &&& mask) == (val &&& mask)) || (mode == 2 && mask != 0)
    if d.inReset || !ok || !held then d
    else
      let d := (d.put (K.GPI_PM_CFG_HIT u) true).bump (K.GPI_PM_CFG_COUNT u)
      (d.route d.allCores 3 u).irq (4 + u)

/-! ## Serial ports (R509, R510) -/

/-- Receive FIFO of a port. -/
def Dev.spRx (d : Dev) (p : Nat) : List Byte := tblGet [] d.gpi.rx p

/-- Transmit FIFO of a port. -/
def Dev.spTx (d : Dev) (p : Nat) : List Nat := tblGet [] d.gpi.tx p

/-- The receive FIFO replaced. -/
def Dev.setRx (d : Dev) (p : Nat) (l : List Byte) : Dev :=
  { d with gpi := { d.gpi with rx := if l = [] then tblErase d.gpi.rx p else tblPut d.gpi.rx p l } }.set
    (K.GPI_SP_STATUS_RX_LVL p) l.length

/-- The transmit FIFO replaced. -/
def Dev.setTx (d : Dev) (p : Nat) (l : List Nat) : Dev :=
  { d with gpi := { d.gpi with tx := if l = [] then tblErase d.gpi.tx p else tblPut d.gpi.tx p l } }.set
    (K.GPI_SP_STATUS_TX_LVL p) l.length

/-- OVR is set; its source rises when it does (R510). -/
def Dev.spOvr (d : Dev) (p : Nat) : Dev :=
  let d' := d.put (K.GPI_SP_STATUS_OVR p) true
  if d.on (K.GPI_SP_STATUS_OVR p) then d' else d'.irq (12 + p)

/-- A write of GPI_SP_TXDATA: dropped with OVR when the FIFO is full, ignored while the port is claimed (R510). -/
def Dev.txWrite (d : Dev) (p w : Nat) : Dev :=
  if d.portOwned p then d
  else if 64 ≤ (d.spTx p).length then d.spOvr p
  else
    let d := d.setTx p (d.spTx p ++ [w % 2 ^ 11])
    if d.spMode p = 0 then d else d.put (K.GPI_SP_STATUS_BUSY p) true

/-- A read of GPI_SP_RXDATA: the oldest byte, removed, or EMPTY (R513). A claimed port's read removes nothing. -/
def Dev.rxRead (d : Dev) (p : Nat) : Dev × Nat :=
  match d.spRx p with
  | [] => (d, 0x100)
  | b :: l => (if d.portOwned p then d else d.setRx p l, b.toNat)

/-- Bytes at which the receive source rises. -/
def Dev.rxTh (d : Dev) (p : Nat) : Nat := 4 * max 1 (d.get (K.GPI_SP_CFG_RX_TH p))

/-- SERIAL_BYTE_RECEIVED (R510). -/
def execSerialByteReceived (p : Fin 4) (b : Byte) (s : State) : Out :=
  s.does fun d =>
    let p := p.val
    if d.inReset || d.portOwned p || d.spMode p == 0 then d
    else if 64 ≤ (d.spRx p).length then d.spOvr p
    else
      let d := d.setRx p (d.spRx p ++ [b])
      if (d.spRx p).length = d.rxTh p then d.irq (12 + p) else d

/-- SERIAL_TRANSFER_END: a transfer of some entries of the transmit FIFO ends, an I²C one perhaps without acknowledge
(R510). -/
def execSerialTransferEnd (p : Fin 4) (sent : BitVec 7) (nack : Bool) (s : State) : Out :=
  s.does fun d =>
    let p := p.val
    if d.inReset || d.portOwned p || d.spMode p == 0 then d
    else
      let th := 4 * d.get (K.GPI_SP_CFG_TX_TH p)
      let old := (d.spTx p).length
      let d := d.setTx p ((d.spTx p).drop sent.toNat)
      let new := (d.spTx p).length
      let d := d.put (K.GPI_SP_STATUS_BUSY p) (new != 0)
      let d := if th < old ∧ new ≤ th then d.irq (12 + p) else d
      if nack && (d.spMode p == 3 || d.spMode p == 4) then (d.put (K.GPI_SP_STATUS_NACK p) true).irq (12 + p) else d

end Sys2Proof.Machine
end

