-- ==== Sys2Proof/Machine/Debug.lean ====
section
/-! DEFINITION. Debug commands, access to the state of a halted controller, and the TAP (R514 to R530). -/

namespace Sys2Proof.Machine

/-! ## Commands (R514 to R521) -/

/-- DBG_CMD_RESULT. -/
def Dev.dbgAns (d : Dev) (t res : Nat) : Dev :=
  (d.set K.DBG_CMD_RESULT_RESULT res).set K.DBG_CMD_RESULT_TARGET t

/-- A debug command: LOCKED when the lifecycle forbids it, ABSENT for a target that is not there, REFUSED_STATE when `ok`
fails, else DONE with its effect (R515, R528; the order is log 57). -/
def Dev.dbgDo (d : Dev) (t : Nat) (ok : Dev → Bool) (f : Dev → Dev) : Dev :=
  if !d.dbgPermit then d.dbgAns t 4
  else if !(t == 64 || decide (t < 64) && d.corePresent t) then d.dbgAns t 3
  else if !ok d then d.dbgAns t 2
  else (f d).dbgAns t 1

/-- The controller may be stepped: STATE is HALTED (R520). -/
def Dev.canStep (d : Dev) (t : Nat) : Bool :=
  (d.core t).halted && (t == 64 || d.coreState t == csHALTED)

/-- A write of DBG_CMD: HALT, RESUME, STEP, and NOP, as which 4 to 7 act (R529). -/
def Dev.dbgCmd (d : Dev) (op t : Nat) : Dev :=
  match op with
  | 1 => d.dbgDo t (fun d => !(d.core t).halted) fun d => d.halt t
  | 2 => d.dbgDo t (fun d => (d.core t).halted) fun d => d.resume t
  | 3 => d.dbgDo t (fun d => d.canStep t) fun d => d.step t
  | _ => d

/-- DEBUG_REQUEST: the request of a comparator or of a BRK reaches the hub sampler and is a halt at P5 (R514). -/
def execDebugRequest (x : CtlId) (s : State) : Out :=
  s.doesAs (5, 1, x.val) fun d => if (d.core x.val).dbgReq then d.halt x.val else d

/-! ## State access (R522) -/

/-- What a REG value of Table 2 names on a controller. -/
inductive DReg where
  | g (i : Nat) | f (i : Nat) | fpstat | pc | lc (i : Nat) | ax (i : Nat) | ay (i : Nat) | d (i : Nat)
  | cs (i : Nat) | scr (i : Nat)
  deriving DecidableEq, Repr

/-- The state that REG names on controller `x`, if it is not reserved (R522, Table 2). -/
def dregOf (x r : Nat) : Option DReg :=
  if r < 32 then some (.g r)
  else if r < 64 then some (.f (r - 32))
  else if r = 64 then some .fpstat
  else if r = 65 then some .pc
  else if x = 64 then (if 96 ≤ r ∧ r < 99 then some (.cs (r - 95)) else none)
  else if r < 74 then some (.lc (r - 66))
  else if r < 78 then some (.ax (r - 74))
  else if r < 82 then some (.ay (r - 78))
  else if r < 86 then some (.d (r - 82))
  else if 128 ≤ r ∧ r < 192 then some (.scr (r - 128))
  else none

/-- It belongs to the vector state. -/
def DReg.isVec : DReg → Bool
  | .lc _ => true
  | .ax _ => true
  | .ay _ => true
  | .d _ => true
  | .scr _ => true
  | _ => false

/-- The value read. -/
def Core.dread (c : Core) : DReg → Nat
  | .g i => (c.gGet i).toNat
  | .f i => (tblGet 0 c.f i).toNat
  | .fpstat => c.fpstat
  | .pc => c.pc
  | .lc i => tblGet 0 c.v.lc i
  | .ax i => tblGet 0 c.v.ax i
  | .ay i => tblGet 0 c.v.ay i
  | .d i => (tblGet 0 c.v.dg i).toNat
  | .cs i => c.csGet i
  | .scr i => tblGet 0 c.v.scr i

/-- The value written; g0 stays zero (R522). -/
def Core.dwrite (c : Core) (v : Nat) : DReg → Core
  | .g i => c.gSet i (BitVec.ofNat 64 v)
  | .f i => { c with f := tblPut c.f i (BitVec.ofNat 64 v) }
  | .fpstat => c.csSet 0 v
  | .pc => { c with pc := v % 2 ^ 48 / 8 * 8, pfx := none, atBrk := false, fetched := 0 }
  | .lc i => { c with v := { c.v with lc := tblPut c.v.lc i (v % 2 ^ 32) } }
  | .ax i => { c with v := { c.v with ax := tblPut c.v.ax i (v % 2 ^ 32) } }
  | .ay i => { c with v := { c.v with ay := tblPut c.v.ay i (v % 2 ^ 32) } }
  | .d i => { c with v := { c.v with dg := tblPut c.v.dg i (BitVec.ofNat 64 v) } }
  | .cs i => c.csSet i v
  | .scr i => { c with v := { c.v with scr := tblPut c.v.scr i (v % 2 ^ 32) } }

/-- R154 lets PC, VPC, SEQ_SEGMAX and SEQ_CURTAIN_LEN of core `q` be written. -/
def Dev.seqWritable (d : Dev) (q : Nat) : Bool := [csIDLE, csHALTED, csFAULTED].contains (d.coreState q)

/-- A write of DBG_ACC_SEL makes the access, or sets ACC_ERR; a write that the lifecycle forbids is LOCKED (R515,
R522). -/
def Dev.stateAccess (d : Dev) (t : Nat) (write : Bool) (r : Nat) : Dev :=
  if write && !d.dbgPermit then d.dbgAns t 4
  else
    let err := d.put K.DBG_STATUS_ACC_ERR true
    if !(t == 64 || decide (t < 64) && d.corePresent t) || !(d.core t).halted then err
    else match dregOf t r with
      | none => err
      | some x =>
        if write then
          if (x.isVec && d.coreState t != csHALTED) || (x == .pc && t != 64 && !d.seqWritable t) then err
          else d.modCore t fun c => c.dwrite (d.get2 K.DBG_ACC_DATA_LO K.DBG_ACC_DATA_HI) x
        else d.set2 K.DBG_ACC_DATA_LO K.DBG_ACC_DATA_HI ((d.core t).dread x)

/-! ## The TAP (R526, R527) -/

/-- The TAP offers DBGACC, DBGSTAT and EXTEST: not in lifecycle RETIRED (R515). -/
def Dev.tapFull (d : Dev) : Bool := d.fuses.lifecycle != lcRETIRED

/-- An instruction is loaded into the TAP. -/
def Dev.tapLoad (d : Dev) (code : Nat) : Dev := { d with jtag := { d.jtag with ir := code } }

/-- EXTEST: boundary scan, in mode Sentry alone; else it acts as BYPASS. Its cells never drive the PE_SAFE_N lines or
pins that the Instant Fabric claims, so no state of the device changes (R526, R527). -/
def execExtest (s : State) : Out :=
  s.does fun d => d.tapLoad (if d.mode = mdSentry ∧ d.tapFull then 0x00 else 0xFF)

/-- IDCODE: the data register is DEV_IDCODE. -/
def execIdcode (s : State) : Out :=
  .next { s with dev := s.dev.tapLoad 0x01, answer := some s.dev.idcode }

/-- SAMPLE/PRELOAD: boundary scan, which observes alone. -/
def execSamplePreload (s : State) : Out := s.does fun d => d.tapLoad 0x02

/-- DBG_STATUS as it reads (R529, Table 7). -/
def Dev.dbgStatus (d : Dev) : Nat :=
  d.get K.DBG_STATUS_HUB_HALTED + 2 * d.get K.DBG_STATUS_ACC_ERR + 4 * d.get K.DBG_STATUS_STEP_WAIT
    + 8 * bit d.dbgPermit + 16 * d.get K.DBG_STATUS_HCMP_HIT

/-- DBGSTAT: the data register is DBG_STATUS; in RETIRED it acts as BYPASS. -/
def execDbgstat (s : State) : Out :=
  if s.dev.tapFull then .next { s with dev := s.dev.tapLoad 0x09, answer := some s.dev.dbgStatus }
  else s.does fun d => d.tapLoad 0xFF

/-- BYPASS, or any code without an instruction. -/
def execBypass (code : Byte) (s : State) : Out :=
  s.does fun d => if [0, 1, 2, 8, 9].contains code.toNat then d else d.tapLoad 0xFF

/-- TRST_N resets the TAP and loads IDCODE. -/
def execTrstN (s : State) : Out := s.does fun d => { d with jtag := {} }

end Sys2Proof.Machine
end

