-- ==== Sys2Proof/Machine/Bist.lean ====
section
/-! DEFINITION. The BIST engine and the injection slots (R537 to R549). -/

namespace Sys2Proof.Machine

/-! ## Entries (R538, R542) -/

/-- The slice types that may run (R548, Table 8): 0 and 10 to 31 act as disabled. -/
def bistTypeOk (ty : Nat) : Bool := decide (1 ≤ ty) && decide (ty ≤ 9)

/-- UNIT and ARG name a present resource of the type (R538, Table 4). -/
def Dev.bistArgOk (d : Dev) (e : Nat) : Bool :=
  let u := d.bistUnit e
  let a := d.bistArg e
  let cd := decide (u < 4) && d.cdPresent u
  match d.bistType e with
  | 1 => cd && decide (a < 4)
  | 2 => cd && decide (a < 4)
  | 3 => cd && decide (a < 16)
  | 4 => cd || u == 4
  | 5 => cd && decide (bitsAt a 0 8 ≤ bitsAt a 8 8) && decide (bitsAt a 8 8 < 192) && bitsAt a 16 16 == 0
  | 6 => u == 4 && decide (a < 4) && d.cdPresent a
  | 7 => (u == 6 || u == 7) && d.hbmPresent (u - 6) && decide (a < 768)
  | 8 => u == 5 && decide (a < 135)
  | 9 => u == 5 && decide (a < 16)
  | _ => false

/-- The lifecycle lets a type run (R542). -/
def Dev.bistLife (d : Dev) (ty : Nat) : Bool :=
  if d.fuses.lifecycle = lcRETIRED then false
  else if d.fuses.lifecycle = lcDEPLOYED then [1, 2, 3, 4, 8].contains ty
  else true

/-- The sites beyond Idle that satisfy `p`. -/
def Dev.someBeyondIdle (d : Dev) (p : Nat → Bool) : Bool := allSites.any fun s => d.siteState s != stIdle && p s

/-- The idle condition of an entry (R538, Table 4). -/
def Dev.bistIdle (d : Dev) (e : Nat) : Bool :=
  let n := d.bistUnit e
  let a := d.bistArg e
  let group : Bool := (List.range 32).all fun j =>
    let c := 128 * n + 32 * a + j
    d.parked c && !allSites.any fun s => d.siteIn s stActive && (d.siteChans s).contains c
  match d.bistType e with
  | 1 => group
  | 2 => group && (List.range 2).all fun p => (d.armedStep n p).isNone
  | 3 => (d.coreSite (16 * n + a)).isNone && [csIDLE, csFAULTED].contains (d.coreState (16 * n + a))
  | 4 => !d.someBeyondIdle fun s => n == 4 || (d.siteDies s).contains n
  | 5 => !d.on (K.CFG_DIE_STATUS_STARTED n)
  | 6 => !d.someBeyondIdle fun s => (d.siteDies s).contains a
  | 7 => d.mode == mdLoad || (d.mode == mdReady && !d.someBeyondIdle fun _ => true)
  | 8 => !d.on K.FLC_STATUS_CALL_ACTIVE
  | _ => (d.core 64).halted

/-! ## Running a slice (R535, R537) -/

/-- The running slice replaced. -/
def Dev.setSlice (d : Dev) (x : Slice) : Dev := { d with bist := { d.bist with run := some x } }

/-- BST_CMD_RESULT. -/
def Dev.bistAns (d : Dev) (res : Nat) (qfull : Bool := false) (holder : Nat := 0) : Dev :=
  ((d.set K.BST_CMD_RESULT_RESULT res).put K.BST_CMD_RESULT_QFULL qfull).set K.BST_CMD_RESULT_HOLDER holder

/-- The slice goes on: it asks for its next lease, or with every lease granted checks its idle condition and isolates
its resource (R535, R537). Answers what the arbiter said. -/
def Dev.sliceNext (d : Dev) : Dev × LAns :=
  match d.bist.run with
  | none => (d, .granted)
  | some x =>
    match x.more with
    | c :: l =>
      let a := if d.bistType x.entry = 5 ∨ d.bistType x.entry = 7 ∨ d.bistType x.entry = 8 ∨ c = lcTGRP then
        d.bistArg x.entry else 0
      (match d.leaseReq (d.bistUnit x.entry) c (bistHolder x.entry) a x.queue with
      | (d, .granted) =>
        let x := { x with more := l, held := x.held ++ [c] }
        let d := d.setSlice x
        if l = [] then
          (if d.bistIdle x.entry then d.setSlice { x with testing := true } else d.sliceOver 5, .granted)
        else (d, .granted)
      | (d, .queued) => (d.setSlice { x with more := l, held := x.held ++ [c] }, .queued)
      | (d, r) => (d.sliceOver 4, r))
    | [] => (if d.bistIdle x.entry then d.setSlice { x with testing := true } else d.sliceOver 5, .granted)

/-- An attempt of entry `e` begins on the free engine; the lifecycle and the arguments come first (R537, R542). Answers
the result for BST_CMD_RESULT: 1 STARTED, 2 QUEUED, 3 BUSY, 4 REFUSED. -/
def Dev.sliceBegin (d : Dev) (e : Nat) (queue : Bool) : Dev × Nat × Bool × Nat :=
  let d := { d with bist := { d.bist with last := tblPut d.bist.last e d.clock } }
  if !bistTypeOk (d.bistType e) then (d, 4, false, 0)
  else if !d.bistLife (d.bistType e) then (d.set (K.BST_SCHED_RES_OUTCOME e) 6, 4, false, 0)
  else if !d.bistArgOk e then (d.set (K.BST_SCHED_RES_OUTCOME e) 8, 4, false, 0)
  else
    let d := (d.put K.BST_STATUS_ACTIVE true).set K.BST_STATUS_ENTRY e
    let d := d.setSlice ⟨e, queue, sliceLeases (d.bistType e), [], false, false⟩
    match d.sliceNext with
    | (d, .granted) => (d, 1, false, 0)
    | (d, .queued) => (d, 2, false, d.holder (d.bistUnit e) ((sliceLeases (d.bistType e)).headD 0))
    | (d, .busy h) => (d, 3, false, h)
    | (d, .qfull h) => (d, 3, true, h)

/-- GO for entry `e` (R539). -/
def Dev.bistGo (d : Dev) (e : Nat) (queue : Bool) : Dev :=
  if d.bist.run.isSome then
    if queue then { d with bist := { d.bist with waiting := d.bist.waiting ++ [(e, true)] } }.bistAns 2
    else d.bistAns 3
  else
    let (d, r, q, h) := d.sliceBegin e queue
    d.bistAns r q h

/-- CANCEL for entry `e`: a GO that waits for the engine, or for its leases, is withdrawn (R539). -/
def Dev.bistCancel (d : Dev) (e : Nat) : Dev :=
  let d := { d with bist := { d.bist with waiting := d.bist.waiting.filter fun p => p != (e, true) } }
  match d.bist.run with
  | some x =>
    let waits := x.queue && x.entry == e && !x.testing
      && x.held.any fun c => d.holder (d.bistUnit e) c != bistHolder e
    if waits then d.sliceOver (d.get (K.BST_SCHED_RES_OUTCOME e)) else d
  | none => d

/-- A write of BST_CMD. -/
def Dev.bistCmd (d : Dev) (w : Nat) : Dev :=
  let d := if bitAt w 6 then d.bistCancel (w % 16) else d
  if bitAt w 5 then d.bistGo (w % 16) (bitAt w 4) else d

/-- BIST_PERIOD_DUE: an enabled entry's PERIOD has passed since its last attempt began; behind a running slice it waits
its turn (R539). -/
def execBistPeriodDue (e : Fin 16) (s : State) : Out :=
  s.does fun d =>
    let e := e.val
    let p := d.get (K.BST_SCHED_PERIOD e)
    let due := p != 0 && d.on (K.BST_SCHED_CFG_EN e) && d.on K.BST_CTRL_PERIODIC_EN && bistTypeOk (d.bistType e)
      && decide (tblGet 0 d.bist.last e + 800000 * p ≤ d.clock)
    let there := d.bist.waiting.contains (e, false) || (match d.bist.run with
      | some x => x.entry == e
      | none => false)
    if !due || there then d
    else if d.bist.run.isSome then { d with bist := { d.bist with waiting := d.bist.waiting ++ [(e, false)] } }
    else (d.sliceBegin e false).1

/-- What the engine does at a tick: a slice with leases still to ask for, or whose queued lease has come, goes on; a free
engine takes the next attempt (R535, R539). -/
def Dev.bistTick (d : Dev) : Dev :=
  match d.bist.run with
  | some x =>
    if x.testing then d
    else if x.held.all fun c => d.holder (d.bistUnit x.entry) c == bistHolder x.entry then (d.sliceNext).1
    else d
  | none =>
    match d.bist.waiting with
    | [] => d
    | (e, q) :: l => ({ d with bist := { d.bist with waiting := l } }.sliceBegin e q).1

/-! ## Steps and ends (R537 to R543) -/

/-- The resource of the running slice is re-initialised (R538, Table 4). A D2D slice's retraining brings its spares; one
that fits no spares leaves the link DOWN. -/
def Dev.bistReinit (d : Dev) (e : Nat) (spares : List (Nat × Nat)) : Dev :=
  let u := d.bistUnit e
  let a := d.bistArg e
  match d.bistType e with
  | 3 => d.coreReset (16 * u + a)
  | 4 => if sparesFit u spares then d.linkTrained u spares else d.modLink u fun k => { k with down := some (3, 0) }
  | 5 =>
    let cols (f : Nat) : Bool := faDie f == u &&
      (if faType f = 0 then decide (bitsAt a 0 8 ≤ faCol f) && decide (faCol f ≤ bitsAt a 8 8)
      else faType f != 2 && decide (bitsAt a 0 8 ≤ 16 * faCol f + 7) && decide (16 * faCol f + 8 ≤ bitsAt a 8 8))
    d.framesBlank ((d.dieFrames u).filter cols)
  | 6 =>
    let b := sramBase + a * 0x2000000
    { d with mem := d.mem.filter fun c => decide (c.1 < b) || decide (b + 0x2000000 ≤ c.1) }
  | 7 =>
    let b := 768 * (u - 6) + a
    { d with
      mem := d.mem.filter fun c => inSram c.1 || hbmBlock c.1 != b
      zeroed := b :: d.zeroed.filter (· != b) }
  | _ => d

/-- The bank of 64 KiB whose spares a failing address uses, for the types that have spares (R541). -/
def Dev.spareBank (d : Dev) (e a : Nat) : Option Nat :=
  let ty := d.bistType e
  if ty = 3 ∨ ty = 6 ∨ ty = 9 then some (((ty * 8 + d.bistUnit e) * 2 ^ 32 + d.bistArg e) * 2 ^ 48 + a / 65536) else none

/-- BST_FAIL_INFO as one word (R548). -/
def Dev.failInfo (d : Dev) : Nat :=
  d.get K.BST_FAIL_INFO_ENTRY + 2 ^ 4 * d.get K.BST_FAIL_INFO_TYPE + 2 ^ 16 * d.get K.BST_FAIL_INFO_BIT
    + 2 ^ 25 * d.get K.BST_FAIL_INFO_REPAIRED + 2 ^ 26 * d.get K.BST_FAIL_INFO_VALID

/-- A failing bit is latched (R541). -/
def Dev.latchFail (d : Dev) (e a b : Nat) (rep : Bool) : Dev :=
  let d := d.set2 K.BST_FAIL_ADDR_LO K.BST_FAIL_ADDR_HI a
  let d := (d.set K.BST_FAIL_INFO_ENTRY e).set K.BST_FAIL_INFO_TYPE (d.bistType e)
  ((d.set K.BST_FAIL_INFO_BIT b).put K.BST_FAIL_INFO_REPAIRED rep).put K.BST_FAIL_INFO_VALID true

/-- A slice has ended in FAIL (R543). -/
def Dev.bistFailed (d : Dev) (e : Nat) : Dev :=
  let u := d.bistUnit e
  let d := (d.put K.BST_STATUS_FAIL_SEEN true).logA 0x00D blkBST d.failInfo
  if u < 4 then (d.putBit K.BST_STATUS_DIE_FAIL u true).unrecoverable 0x07 0x14
  else if u = 4 then (d.put K.BST_STATUS_BD_FAIL true).unrecoverable 0x07 0x14
  else if d.bistType e = 9 then d.unrecoverable 0x05 0x14
  else d

/-- BIST_STEP_DONE: a test step ends. A failing row with a spare free is repaired and the slice goes on; another failure
ends it in FAIL. Else the cursor advances, and the slice ends with the last step of the resource or at its budget
(R537, R539, R541, R543, R546). -/
def execBistStepDone (fail : Option (BitVec 48 × BitVec 9)) (last stop : Bool) (spares : List (Nat × Nat)) (s : State) :
    Out :=
  s.does fun d =>
    match d.bist.run with
    | none => d
    | some x =>
      if !x.testing then d
      else
        let e := x.entry
        let finish (d : Dev) (out : Nat) : Dev := (d.bistReinit e spares).sliceOver out
        let advance (d : Dev) (rep : Bool) : Dev :=
          let c := d.get (K.BST_SCHED_RES_CURSOR e) + 1
          let d := d.set (K.BST_SCHED_RES_CURSOR e) (if last then 0 else c)
          let d := if last then d.put (K.BST_SCHED_RES_DONE e) true else d
          if last || stop then finish d (if rep then 2 else 1)
          else match d.bist.run with
            | some x => d.setSlice { x with repaired := rep }
            | none => d
        match d.inject 0x1D fun _ a => a % 16 == e with
        | some (_, d) =>
          -- the comparator's injected failure is a failure of no array row, so no spare replaces it
          d.asInjected fun d => (finish (d.latchFail e 0 0 false) 3).bistFailed e
        | none =>
          match fail with
          | none => advance d x.repaired
          | some (a, b) =>
            let used := match d.spareBank e a.toNat with
              | some k => tblGet 0 d.bist.spares k
              | none => 2
            if used < 2 then
              let k := (d.spareBank e a.toNat).getD 0
              let d := { d with bist := { d.bist with spares := tblPut d.bist.spares k (used + 1) } }
              advance ((d.latchFail e a.toNat b.toNat true).bump (K.BST_SCHED_RES_REPAIRS e)) true
            else (finish (d.latchFail e a.toNat b.toNat false) 3).bistFailed e

/-- A safety trip or the entry into Safe abandons the slice that runs, and re-initialises what it tested (R540). -/
def Dev.bistAbandon (d : Dev) : Dev :=
  match d.bist.run with
  | none => d
  | some x =>
    let d := if x.testing && d.bistType x.entry != 4 then d.bistReinit x.entry [] else d
    d.sliceOver 7

/-- A DIE reset of a die (0 to 3 a channel die, 4 the base die) abandons a slice on it; the reset re-initialises the
resource (R540). -/
def Dev.bistDieReset (d : Dev) (die : Nat) : Dev :=
  match d.bist.run with
  | none => d
  | some x =>
    let u := d.bistUnit x.entry
    if u = die ∨ (die = 4 ∧ (u = 6 ∨ u = 7)) then d.sliceOver 7 else d

/-- The resource a slice tests answers no master: the window of core `q` (R538). -/
def Dev.coreIsolated (d : Dev) (q : Nat) : Bool :=
  match d.bist.run with
  | some x => x.testing && d.bistType x.entry == 3 && d.sliceCore x.entry == q
  | none => false

/-- Timing group `g` of die `n` is isolated (R538). -/
def Dev.groupIsolated (d : Dev) (n g : Nat) : Bool :=
  match d.bist.run with
  | some x => x.testing && (d.bistType x.entry == 1 || d.bistType x.entry == 2) && d.bistUnit x.entry == n
      && d.bistArg x.entry == g
  | none => false

/-- The byte at a placed address or in the base SRAM lies in an isolated block (R538). -/
def Dev.memIsolated (d : Dev) (a : Nat) : Bool :=
  match d.bist.run with
  | some x =>
    let e := x.entry
    x.testing &&
      (if d.bistType e = 6 then partOf (a - sramBase) == .vcache (d.bistArg e) && inSram a
      else if d.bistType e = 7 then !inSram a && hbmBlock a == 768 * (d.bistUnit e - 6) + d.bistArg e
      else false)
  | none => false

/-! ## Injection slots (R544, R545) -/

/-- UNIT names a present unit of the detector's kind (R544, R546, Table 5). -/
def Dev.injUnitOk (d : Dev) (id u : Nat) : Bool :=
  let die : Bool := decide (u < 4) && d.cdPresent u
  match id with
  | 0x01 => die || u == 4 || u == 5
  | 0x02 => (u == 6 || u == 7) && d.hbmPresent (u - 6)
  | 0x07 => decide (u < 2)
  | 0x08 => decide (u < 2)
  | 0x0A => die || u == 4
  | 0x0B => die || u == 4
  | 0x0C => (u == 6 || u == 7) && d.hbmPresent (u - 6)
  | 0x0F => die
  | 0x11 => die
  | 0x12 => die
  | 0x13 => die
  | 0x14 => die
  | 0x15 => die
  | 0x16 => die
  | 0x17 => die
  | 0x18 => d.variant.hasGuest
  | 0x19 => die || u == 4
  | 0x1A => die
  | 0x1C => u == 64 || (decide (u < 64) && d.corePresent u)
  | _ => decide (1 ≤ id) && decide (id ≤ 0x1D)

/-- A write of one to ARM of slot `i` (R544). -/
def Dev.injArm (d : Dev) (i : Nat) : Dev :=
  let id := d.get (K.INJ_SEL_ID i)
  let ok := d.on K.INJ_CTRL_ENABLE && d.fuses.lifecycle != lcRETIRED && d.injUnitOk id (d.get (K.INJ_SEL_UNIT i))
    && (decide (6 ≤ id) || !d.anyActive || d.on K.INJ_CTRL_LIVE_SAFETY)
  if ok then (d.set (K.INJ_SLOT_CTRL_STATE i) 1).set (K.INJ_SLOT_CTRL_FIRED i) 0
  else (d.put K.INJ_STATUS_REFUSED true).set (K.INJ_SLOT_CTRL_STATE i) 0

/-- A write of INJ_SLOT_CTRL[i]: ARM, then DISARM (R549). -/
def Dev.injCtrl (d : Dev) (i w : Nat) : Dev :=
  let d := if bitAt w 0 then d.injArm i else d
  if bitAt w 1 then d.set (K.INJ_SLOT_CTRL_STATE i) 0 else d

/-- A DIE reset disarms the slots whose unit is the die, a core, stack or link of it, or both ends of it (R545). -/
def Dev.injDieReset (d : Dev) (die : Nat) : Dev :=
  d.injDisarm fun id u =>
    if id = 0x07 ∨ id = 0x08 then false
    else if id = 0x1C then decide (u < 64) && u / 16 == die
    else if id = 0x02 ∨ id = 0x0C then die == 4
    else if [0x01, 0x0A, 0x0B, 0x0F, 0x11, 0x12, 0x13, 0x14, 0x15, 0x16, 0x17, 0x19, 0x1A].contains id then u == die
    else if id = 0x0D then die == 4
    else false

end Sys2Proof.Machine
end

