-- ==== Sys2Proof/Machine/CtlFp.lean ====
section
/-! DEFINITION. The floating-point instructions of the control profile (R185 to R195). -/

namespace Sys2Proof.Machine

/-- FADD: x + y (R192). -/
def execFadd (x : CtlId) (p : Bool) (rm : BitVec 3) (rd rs1 rs2 : Reg) (s : State) : Out :=
  s.does fun d =>
    d.fp2 x p true rm.toNat rd rs1 rs2 true (fun f m z a b => f.add m z a b)

/-- FSUB: x − y (R192). -/
def execFsub (x : CtlId) (p : Bool) (rm : BitVec 3) (rd rs1 rs2 : Reg) (s : State) : Out :=
  s.does fun d =>
    d.fp2 x p true rm.toNat rd rs1 rs2 true (fun f m z a b => f.add m z a b true)

/-- FMUL: x × y (R192). -/
def execFmul (x : CtlId) (p : Bool) (rm : BitVec 3) (rd rs1 rs2 : Reg) (s : State) : Out :=
  s.does fun d =>
    d.fp2 x p true rm.toNat rd rs1 rs2 true (fun f m z a b => f.mul m z a b)

/-- FDIV: x ÷ y (R192). -/
def execFdiv (x : CtlId) (p : Bool) (rm : BitVec 3) (rd rs1 rs2 : Reg) (s : State) : Out :=
  s.does fun d =>
    d.fp2 x p true rm.toNat rd rs1 rs2 true (fun f m z a b => f.div m z a b)

/-- FSQRT: √x (R192). -/
def execFsqrt (x : CtlId) (p : Bool) (rm : BitVec 3) (rd rs1 : Reg) (s : State) : Out :=
  s.does fun d =>
    d.fp1 x p true rm.toNat rd rs1 true (fun f m z a => (f.sqrt m z a).pair)

/-- FMIN: minimumNumber(x, y) (R193). -/
def execFmin (x : CtlId) (p : Bool) (rm : BitVec 3) (rd rs1 rs2 : Reg) (s : State) : Out :=
  s.does fun d =>
    d.fp2 x p false rm.toNat rd rs1 rs2 true (fun f _ _ a b => f.minMax false true a b)

/-- FMAX: maximumNumber(x, y) (R193). -/
def execFmax (x : CtlId) (p : Bool) (rm : BitVec 3) (rd rs1 rs2 : Reg) (s : State) : Out :=
  s.does fun d =>
    d.fp2 x p false rm.toNat rd rs1 rs2 true (fun f _ _ a b => f.minMax true true a b)

/-- FMINM: minimum(x, y) (R193). -/
def execFminm (x : CtlId) (p : Bool) (rm : BitVec 3) (rd rs1 rs2 : Reg) (s : State) : Out :=
  s.does fun d =>
    d.fp2 x p false rm.toNat rd rs1 rs2 true (fun f _ _ a b => f.minMax false false a b)

/-- FMAXM: maximum(x, y) (R193). -/
def execFmaxm (x : CtlId) (p : Bool) (rm : BitVec 3) (rd rs1 rs2 : Reg) (s : State) : Out :=
  s.does fun d =>
    d.fp2 x p false rm.toNat rd rs1 rs2 true (fun f _ _ a b => f.minMax true false a b)

/-- FEQ: g rd := x = y, quiet (R192). -/
def execFeq (x : CtlId) (p : Bool) (rm : BitVec 3) (rd rs1 rs2 : Reg) (s : State) : Out :=
  s.does fun d =>
    d.fp2 x p false rm.toNat rd rs1 rs2 false (fun f _ _ a b => f.cmp false (fun c => decide (c = 0)) a b)

/-- FLT: g rd := x < y, signalling (R192). -/
def execFlt (x : CtlId) (p : Bool) (rm : BitVec 3) (rd rs1 rs2 : Reg) (s : State) : Out :=
  s.does fun d =>
    d.fp2 x p false rm.toNat rd rs1 rs2 false (fun f _ _ a b => f.cmp true (fun c => decide (c < 0)) a b)

/-- FLE: g rd := x ≤ y, signalling (R192). -/
def execFle (x : CtlId) (p : Bool) (rm : BitVec 3) (rd rs1 rs2 : Reg) (s : State) : Out :=
  s.does fun d =>
    d.fp2 x p false rm.toNat rd rs1 rs2 false (fun f _ _ a b => f.cmp true (fun c => decide (c ≤ 0)) a b)

/-- FLTQ: g rd := x < y, quiet (R192). -/
def execFltq (x : CtlId) (p : Bool) (rm : BitVec 3) (rd rs1 rs2 : Reg) (s : State) : Out :=
  s.does fun d =>
    d.fp2 x p false rm.toNat rd rs1 rs2 false (fun f _ _ a b => f.cmp false (fun c => decide (c < 0)) a b)

/-- FLEQ: g rd := x ≤ y, quiet (R192). -/
def execFleq (x : CtlId) (p : Bool) (rm : BitVec 3) (rd rs1 rs2 : Reg) (s : State) : Out :=
  s.does fun d =>
    d.fp2 x p false rm.toNat rd rs1 rs2 false (fun f _ _ a b => f.cmp false (fun c => decide (c ≤ 0)) a b)

/-- FUN: g rd := unordered(x, y), quiet (R192). -/
def execFun (x : CtlId) (p : Bool) (rm : BitVec 3) (rd rs1 rs2 : Reg) (s : State) : Out :=
  s.does fun d =>
    d.fp2 x p false rm.toNat rd rs1 rs2 false (fun f _ _ a b => f.unord a b)

/-- FCLASS: g rd := class mask of x (R193). -/
def execFclass (x : CtlId) (p : Bool) (rm : BitVec 3) (rd rs1 : Reg) (s : State) : Out :=
  s.does fun d =>
    d.fp1 x p false rm.toNat rd rs1 false (fun f _ _ a => (f.classOf a, 0))

/-- FSGNJ: magnitude of x, sign of y (R192). -/
def execFsgnj (x : CtlId) (p : Bool) (rm : BitVec 3) (rd rs1 rs2 : Reg) (s : State) : Out :=
  s.does fun d =>
    d.fp2 x p false rm.toNat rd rs1 rs2 true (fun f _ _ a b => ⟨f.withSign a (f.signOf b), 0⟩)

/-- FSGNJN: magnitude of x, inverted sign of y (R192). -/
def execFsgnjn (x : CtlId) (p : Bool) (rm : BitVec 3) (rd rs1 rs2 : Reg) (s : State) : Out :=
  s.does fun d =>
    d.fp2 x p false rm.toNat rd rs1 rs2 true (fun f _ _ a b => ⟨f.withSign a (!f.signOf b), 0⟩)

/-- FSGNJX: magnitude of x, sign of x xor sign of y (R192). -/
def execFsgnjx (x : CtlId) (p : Bool) (rm : BitVec 3) (rd rs1 rs2 : Reg) (s : State) : Out :=
  s.does fun d =>
    d.fp2 x p false rm.toNat rd rs1 rs2 true (fun f _ _ a b => ⟨f.withSign a (f.signOf a != f.signOf b), 0⟩)

/-- FCVT.F.F: x converted to the format P from the other format (R192, R189). -/
def execFcvtFF (x : CtlId) (p : Bool) (rm : BitVec 3) (rd rs1 : Reg) (s : State) : Out :=
  s.does fun d =>
    d.fpInstr x true rm.toNat [] [rs1] true rd fun c m =>
      ((fmtOf p).cvt (fmtOf !p) m c.fpFtz (c.fBits (!p) rs1)).pair

/-- FCVT.W: g rd := x as a signed 32-bit integer, sign-extended (R194). -/
def execFcvtW (x : CtlId) (p : Bool) (rm : BitVec 3) (rd rs1 : Reg) (s : State) : Out :=
  s.does fun d =>
    d.fp1 x p true rm.toNat rd rs1 false (fun f m _ a => let (v, fl) := f.toInt m true 32 a; (narrow v 64, fl))

/-- FCVT.WU: g rd := x as an unsigned 32-bit integer, zero-extended (R194). -/
def execFcvtWu (x : CtlId) (p : Bool) (rm : BitVec 3) (rd rs1 : Reg) (s : State) : Out :=
  s.does fun d =>
    d.fp1 x p true rm.toNat rd rs1 false (fun f m _ a => let (v, fl) := f.toInt m false 32 a; (narrow v 64, fl))

/-- FCVT.L: g rd := x as a signed 64-bit integer (R194). -/
def execFcvtL (x : CtlId) (p : Bool) (rm : BitVec 3) (rd rs1 : Reg) (s : State) : Out :=
  s.does fun d =>
    d.fp1 x p true rm.toNat rd rs1 false (fun f m _ a => let (v, fl) := f.toInt m true 64 a; (narrow v 64, fl))

/-- FCVT.LU: g rd := x as an unsigned 64-bit integer (R194). -/
def execFcvtLu (x : CtlId) (p : Bool) (rm : BitVec 3) (rd rs1 : Reg) (s : State) : Out :=
  s.does fun d =>
    d.fp1 x p true rm.toNat rd rs1 false (fun f m _ a => let (v, fl) := f.toInt m false 64 a; (narrow v 64, fl))

/-- FCVT.F.W: g a[31:0], signed, to format P (R192). -/
def execFcvtFW (x : CtlId) (p : Bool) (rm : BitVec 3) (rd rs1 : Reg) (s : State) : Out :=
  s.does fun d =>
    d.fpFromInt x p rm.toNat rd rs1 (fun a => (a.setWidth 32).toInt)

/-- FCVT.F.WU: g a[31:0], unsigned, to format P (R192). -/
def execFcvtFWu (x : CtlId) (p : Bool) (rm : BitVec 3) (rd rs1 : Reg) (s : State) : Out :=
  s.does fun d =>
    d.fpFromInt x p rm.toNat rd rs1 (fun a => ((a.setWidth 32).toNat : Int))

/-- FCVT.F.L: g a, signed, to format P (R192). -/
def execFcvtFL (x : CtlId) (p : Bool) (rm : BitVec 3) (rd rs1 : Reg) (s : State) : Out :=
  s.does fun d =>
    d.fpFromInt x p rm.toNat rd rs1 (fun a => a.toInt)

/-- FCVT.F.LU: g a, unsigned, to format P (R192). -/
def execFcvtFLu (x : CtlId) (p : Bool) (rm : BitVec 3) (rd rs1 : Reg) (s : State) : Out :=
  s.does fun d =>
    d.fpFromInt x p rm.toNat rd rs1 (fun a => (a.toNat : Int))

/-- FMV.G.F: g rd := bits of x, zero-extended for binary32 (R192). -/
def execFmvGF (x : CtlId) (p : Bool) (rm : BitVec 3) (rd rs1 : Reg) (s : State) : Out :=
  s.does fun d =>
    d.fp1 x p false rm.toNat rd rs1 false (fun _ _ _ a => (a, 0))

/-- FMV.F.G: bits of g a, to f rd (R192, R185). -/
def execFmvFG (x : CtlId) (p : Bool) (rm : BitVec 3) (rd rs1 : Reg) (s : State) : Out :=
  s.does fun d =>
    d.fpInstr x false rm.toNat [rs1] [] true rd fun c _ => ((c.gGet rs1).toNat % 2 ^ (fmtOf p).width, 0)

/-- FRINTX: x rounded to an integral value in its format (R192). -/
def execFrintx (x : CtlId) (p : Bool) (rm : BitVec 3) (rd rs1 : Reg) (s : State) : Out :=
  s.does fun d =>
    d.fp1 x p true rm.toNat rd rs1 true (fun f m z a => (f.rint m z a).pair)

/-- FMADD: x × y + z with one rounding (R192, Table 15). -/
def execFmadd (x : CtlId) (p : Bool) (rm : BitVec 3) (rd rs1 rs2 rs3 : Reg) (s : State) : Out :=
  s.does fun d =>
    d.fp3 x p rm.toNat rd rs1 rs2 rs3 false false false

/-- FMSUB: x × y − z with one rounding (R192, Table 15). -/
def execFmsub (x : CtlId) (p : Bool) (rm : BitVec 3) (rd rs1 rs2 rs3 : Reg) (s : State) : Out :=
  s.does fun d =>
    d.fp3 x p rm.toNat rd rs1 rs2 rs3 false true false

/-- FNMADD: −(x × y + z) with one rounding (R192, Table 15). -/
def execFnmadd (x : CtlId) (p : Bool) (rm : BitVec 3) (rd rs1 rs2 rs3 : Reg) (s : State) : Out :=
  s.does fun d =>
    d.fp3 x p rm.toNat rd rs1 rs2 rs3 false false true

/-- FNMSUB: −(x × y) + z with one rounding (R192, Table 15). -/
def execFnmsub (x : CtlId) (p : Bool) (rm : BitVec 3) (rd rs1 rs2 rs3 : Reg) (s : State) : Out :=
  s.does fun d =>
    d.fp3 x p rm.toNat rd rs1 rs2 rs3 true false false

end Sys2Proof.Machine
end

