-- ==== Sys2Proof/Machine/Safe.lean ====
section
/-! DEFINITION. DIE resets, stage failures, safety trips and the entry into Safe (R42 to R46, R52, R58, R73 to R75,
R463). -/

namespace Sys2Proof.Machine

/-- Start-up state changed by `f`. -/
def Dev.modStart (d : Dev) (f : Start → Start) : Dev := { d with start := f d.start }

/-- Sentry's state changed by `f`. -/
def Dev.modSnt (d : Dev) (f : Snt → Snt) : Dev := { d with snt := f d.snt }

/-! ## DIE resets (R58, R61) -/

/-- The timing units, ports and fail staging of CD `n` as its DIE reset leaves them (R58). -/
def Tgn.dieReset (t : Tgn) (n : Nat) : Tgn :=
  { pdStart := tblKeep t.pdStart fun k => k / 16 != n
    lanes := tblKeep t.lanes fun c => c / 128 != n
    parkCode := tblKeep t.parkCode fun c => c / 128 != n
    avg := tblKeep t.avg fun c => c / 128 != n
    factory := tblKeep t.factory fun c => c / 128 != n
    sweep := tblErase t.sweep n
    sweepAt := tblKeep t.sweepAt fun k => k / 4 != n
    tempAt := tblKeep t.tempAt fun k => k / 4 != n
    staging := tblKeep t.staging fun k => k / 64 != n
    turn := tblErase t.turn n
    fcLast := tblKeep t.fcLast fun k => k / 64 != n
    evtAt := tblKeep t.evtAt fun k => k / 8 / 16 != n }

/-- The PLLs of CD `n` as its DIE reset leaves them (R58, R447). -/
def Clk.dieReset (c : Clk) (n : Nat) : Clk :=
  { use := tblKeep c.use fun k => k / 2 != n
    lastStep := tblKeep c.lastStep fun k => k / 2 != n
    relocking := c.relocking.filter (· != n)
    armed := tblKeep c.armed fun k => k / 2 != n
    hostBands := c.hostBands.filter fun k => k / 2 != n }

/-- The links and pulses of schedule table `t` go with the table. -/
def SchedU.dieReset (u : SchedU) (t : Nat) : SchedU :=
  { u with links := tblKeep u.links (fun k => k / 256 != t), pulses := u.pulses.filter fun p => p.die != t }

/-- DIE reset of CD `n`, which holds the die in reset (R58). -/
def Dev.cdReset (d : Dev) (n : Nat) : Dev :=
  let d := (d.eraseDie n).each ((List.range 16).map (16 * n + ·)) Dev.coreReset
  let d := { d with tgn := d.tgn.dieReset n, clk := d.clk.dieReset n, sched := d.sched.dieReset (n + 2) }
  let d := ((d.fabReset n).leaseDieReset n).bistDieReset n
  let d := ((d.injDieReset n).freshDirs n).modLink n fun _ => {}
  let d := { d with power := { d.power with
    wakes := tblKeep d.power.wakes (fun k => k / 8 != n), wakeFrom := tblErase d.power.wakeFrom n } }
  let d := (d.putBit K.DEV_START_STATUS_CD_UP n false).putBit K.NOP_STATUS_CD_UP n false
  d.modStart fun x =>
    { x with cdReleased := putBitAt x.cdReleased n false, cdBist := putBitAt x.cdBist n false
             cdTrained := putBitAt x.cdTrained n false, pllDone := putBitAt x.pllDone n false
             calDone := putBitAt x.calDone n false, dskDone := tblErase x.dskDone n }

/-- A placed address holds a byte of the event log, which a DIE reset keeps (R58, R557). -/
def inEvl (a : Nat) : Bool := decide (evlBase ≤ a) && decide (a < evlBase + 0x420000 + 32 * 126976)

/-- DIE reset of the base die, which holds it in reset: base SRAM is zeroed but for the event log, HBM is undefined,
and the PTU, the solver and the package network are reset (R58). -/
def Dev.bdReset (d : Dev) : Dev :=
  let d := d.eraseDie 4
  let d := { d with mem := d.mem.filter (fun c => inEvl c.1), hbmEpoch := d.hbmEpoch + 1, zeroed := [] }
  let d := { d with rps := {}, ptu := {}, sched := d.sched.dieReset 1 }
  let d := ((d.leaseDieReset 4).bistDieReset 4).injDieReset 4
  let d := ((d.freshDirs 4).modLink 4 fun _ => {}).each (List.range 64) fun d q => d.modV q fun v => { v with pins := [] }
  let d := ((d.put K.DEV_START_STATUS_BD_UP false).put K.NOP_STATUS_BD_UP false).put K.NOP_STATUS_GD_UP false
  let d := ((d.put K.BAS_MEM_STATUS_SRAM_UP false).put K.BAS_MEM_STATUS_HBM0_UP false).put K.BAS_MEM_STATUS_HBM1_UP false
  d.modStart fun x => { x with bdReleased := false, bdBist := false, hbmTrained := false, hubTrained := false }

/-- Every die other than the hub die returns to reset and is held there (R42, R43). -/
def Dev.holdDies (d : Dev) : Dev := ((d.each d.dies Dev.cdReset).bdReset).rgpStale

/-! ## A stage fails (R42) -/

/-- STAGE. -/
def Dev.stage (d : Dev) : Nat := d.get K.DEV_START_STATUS_STAGE

/-- FAIL. -/
def Dev.startFailed (d : Dev) : Bool := d.on K.DEV_START_STATUS_FAIL

/-- What a failure shows: FAIL, FAIL_CODE and FAIL_DIE, and its class A record (R42). -/
def Dev.failShown (d : Dev) (code die : Nat) : Dev :=
  let d := (d.put K.DEV_START_STATUS_FAIL true).set K.DEV_START_STATUS_FAIL_CODE code
  let d := (d.set K.DEV_START_STATUS_FAIL_DIE die).put K.DEV_START_CTRL_START false
  d.logA 0x002 blkDEV (code + 2 ^ 8 * d.stage + 2 ^ 12 * die)

/-- The stage in progress fails with FAIL_CODE `code` and FAIL_DIE `die` (R42). -/
def Dev.startFail (d : Dev) (code die : Nat) : Dev :=
  let d := ((d.failShown code die).loaderSafe).holdDies
  let d := (d.set K.DEV_MODE_MODE mdSentry).put K.DEV_START_STATUS_START_DONE false
  d.refreshLines

/-! ## Entry into Safe (R52) -/

/-- A site that is not Idle, Parked or Aborted becomes Aborted at the entry; a safety trip writes CAUSE 0x80 (R52,
R319). -/
def Dev.safeSite (d : Dev) (trip : Bool) (s : Nat) : Dev :=
  if d.siteIn s stActive then
    let d := if trip then d.set (K.SITE_CAUSE s) 0x80 else d
    let d := if d.siteIn s [stAdmitted] then d else d.endRecs s true
    d.abortSite s
  else d

/-- Every activity that an entry into Safe ends (R372, R404, R415, R418, R465, R536, R540, R545). -/
def Dev.safeUnits (d : Dev) : Dev :=
  let d := (d.linksSafe.leaseSafe).each (List.range 4) fun d n => d.sweepAbandon n
  let d := ((d.bistAbandon.loaderSafe).cfgiSafe).scrubsStop
  let d := d.each [6, 7] fun d u => d.each [0, 1] fun d k => d.leaseDrop u lcHBM (0x90 + k)
  d.injDisarm fun _ _ => true

/-- The entry into Safe with SAFE_CAUSE `cause`, `present` while its cause can persist, on a safety trip or not (R52,
R56). -/
def Dev.enterSafe (d : Dev) (cause : Nat) (trip present : Bool) : Dev :=
  let d := (d.each allSites fun d s => d.safeSite trip s).parkAll
  let d := (d.set K.DEV_MODE_MODE mdSafe).set K.DEV_MODE_SAFE_CAUSE cause
  let d := (d.put K.DEV_START_STATUS_START_DONE false).refreshLines
  let d := d.modStart fun x => { x with safeWait := none, causes := if present then [cause] else [] }
  d.safeUnits.logA 0x001 blkDEV (cause + 2 ^ 8 * d.get K.SNT_TRIP_CAUSE_CODE)

/-- CAUSE_ACTIVE: a cause recorded at the entry or sampled in Safe is still present (R56, Table 9). -/
def Dev.causeActive (d : Dev) : Bool :=
  d.modeIn [mdSafe] && d.start.causes.any fun c => match c with
    | 1 => d.power.hot != []
    | 2 => d.power.badRail != []
    | 3 => d.snt.out.trip
    | 4 => d.snt.out.sysReq
    | _ => c == 5

/-- An unrecoverable fault's entry falls due: no site is Running or Curtaining, or its wait has passed (R52). -/
def Dev.safeDue (d : Dev) : Bool :=
  match d.start.safeWait with
  | none => false
  | some w => !(allSites.any fun s => d.siteIn s [stRunning, stCurtaining]) || decide (w.since + w.bound ≤ d.clock)

/-- The device enters Safe for a fault whose entry falls due; only 0x05 persists (R52, R56). -/
def Dev.safeTick (d : Dev) : Dev :=
  match d.start.safeWait with
  | some w =>
    if !d.safeDue then d
    else if d.modeIn [mdLoad, mdReady, mdRun, mdHold] then d.enterSafe w.cause false (w.cause == 5)
    else d.modStart fun x => { x with safeWait := none }
  | none => d

/-- UNRECOVERABLE_SAFE_ENTRY (R52). -/
def execUnrecoverableSafeEntry (s : State) : Out := s.does Dev.safeTick

/-! ## Safety trips (R44, R52, R463) -/

/-- The trip is recorded as SAFETY_TRIP (R44). -/
def Dev.tripLogged (d : Dev) (cause : Nat) : Dev :=
  d.logA 0x003 blkDEV (cause + 2 ^ 8 * d.get K.PWR_TRIP_CAUSE_DIE + 2 ^ 11 * d.get K.PWR_TRIP_CAUSE_RAIL)

/-- A safety trip is sampled: from Load onward the device enters Safe; in PWR_CHECK, BD_INIT or CD_LINK of a start the
start fails; otherwise it is recorded only, and in Safe its cause counts for CAUSE_ACTIVE (R44, R52). -/
def Dev.safetyTrip (d : Dev) (cause : Nat) (present : Bool) : Dev :=
  if d.modeIn [mdLoad, mdReady, mdRun, mdHold] then d.enterSafe cause true present
  else if d.modeIn [mdSafe] then
    (d.tripLogged cause).modStart fun x =>
      { x with causes := if present && !x.causes.contains cause then cause :: x.causes else x.causes }
  else if !d.startFailed && decide (3 ≤ d.stage) && decide (d.stage ≤ 5) then d.startFail 0x08 7
  else d.tripLogged cause

/-- A trip of the power manager: latched into PWR_TRIP_CAUSE unless one is latched, HARD_TRIP, and the trip (R463). -/
def Dev.powerTrip (d : Dev) (kind die rail : Nat) : Dev :=
  let d :=
    if d.on K.PWR_TRIP_CAUSE_TRIP then d
    else ((d.set K.PWR_TRIP_CAUSE_KIND kind).set K.PWR_TRIP_CAUSE_DIE die).set K.PWR_TRIP_CAUSE_RAIL rail
  let d := (d.put K.PWR_TRIP_CAUSE_TRIP true).put K.PWR_STATUS_HARD_TRIP true
  d.safetyTrip kind true

/-- A die or stack whose sensors run: DIE codes of PWR_TRIP_CAUSE. -/
def Dev.sensed (d : Dev) (code : Nat) : Bool :=
  if code < 4 then bitAt d.start.cdReleased code
  else if code = 5 then !d.inReset
  else if code = 4 then d.start.bdReleased
  else d.start.bdReleased && d.hbmPresent (code - 6)

/-- OVER_TEMPERATURE_TRIP: a die's or stack's trip reaches the hub (R462, R463). -/
def execOverTemperatureTrip (code : Fin 8) (s : State) : Out :=
  s.doesAs (1, 1, code) fun d =>
    if d.sensed code then
      let l := if d.power.hot.contains code.val then d.power.hot else code.val :: d.power.hot
      { d with power := { d.power with hot := l } }.powerTrip 1 code 0
    else d

/-- A rail is drawn by a running unit and monitored by the die of a DIE code (R463, R587). -/
def Dev.railWatched (d : Dev) (code rail : Nat) : Bool :=
  if rail < 3 then code == 5 && !d.inReset
  else if rail < 6 then code == 4 && d.start.bdReleased
  else if rail < 10 then code == rail - 6 && bitAt d.start.cdReleased (rail - 6)
  else decide (code < 4) && bitAt d.start.cdReleased code

/-- SUPPLY_TRIP: a rail outside its trip window or above its trip current for 1 µs (R463, R584, R587). -/
def execSupplyTrip (code : Fin 6) (rail : Fin 13) (s : State) : Out :=
  s.doesAs (1, 2, code) fun d =>
    if d.railWatched code rail then
      let k := 16 * code.val + rail.val
      let l := if d.power.badRail.contains k then d.power.badRail else k :: d.power.badRail
      { d with power := { d.power with badRail := l } }.powerTrip 2 code rail
    else d

/-- TRIP_CAUSE_GONE: an over-temperature or supply cause is no longer present (R56, R463). -/
def execTripCauseGone (code : Fin 8) (rail : Option (Fin 13)) (s : State) : Out :=
  s.does fun d =>
    match rail with
    | none => { d with power := { d.power with hot := d.power.hot.filter (· != code.val) } }
    | some r => { d with power := { d.power with badRail := d.power.badRail.filter (· != 16 * code.val + r.val) } }

/-- A write of one to PWR_TRIP_CAUSE.TRIP: TRIP clears, and HARD_TRIP too once no cause is present (R463). -/
def Dev.tripClear (d : Dev) : Dev :=
  let d := d.put K.PWR_TRIP_CAUSE_TRIP false
  if d.power.hot = [] ∧ d.power.badRail = [] then d.put K.PWR_STATUS_HARD_TRIP false else d

/-! ## Sentry logic trips and the policy (R72 to R75) -/

/-- An image runs. -/
def Dev.imageRuns (d : Dev) : Bool := d.snt.running != .none

/-- TRIP is sampled rising with a code (R72). -/
def Dev.sentryTrip (d : Dev) (code : Nat) : Dev :=
  let d := d.modSnt fun x => { x with out := { x.out with trip := true, tripCode := BitVec.ofNat 8 code } }
  let d := (d.set K.SNT_TRIP_CAUSE_CODE code).put K.SNT_TRIP_CAUSE_TRIP true
  d.safetyTrip 3 true

/-- SYS_REQ is sampled rising (R72). -/
def Dev.sysTrip (d : Dev) : Dev :=
  let d := d.modSnt fun x => { x with out := { x.out with sysReq := true } }
  (d.put K.SNT_TRIP_CAUSE_SYS true).safetyTrip 4 true

/-- SENTRY_LOGIC_TRIP (R72). -/
def execSentryLogicTrip (code : BitVec 8) (s : State) : Out :=
  s.doesAs (1, 3, 0) fun d => if d.imageRuns && !d.snt.out.trip then d.sentryTrip code.toNat else d

/-- PE_SAFE_REQUEST (R72). -/
def execPeSafeRequest (s : State) : Out :=
  s.doesAs (1, 4, 0) fun d => if d.imageRuns && !d.snt.out.sysReq then d.sysTrip else d

/-- TRIP_SYS_REQ_FALL: the image withdraws TRIP, SYS_REQ or both (R56, R72). -/
def execTripSysReqFall (trip sys : Bool) (s : State) : Out :=
  s.does fun d => d.modSnt fun x =>
    { x with out := { x.out with trip := x.out.trip && !trip, sysReq := x.out.sysReq && !sys } }

/-- The lines follow a change of the Sentry policy; a busy group that becomes asserted is a trip, of the image or of
host software (R73, R75). -/
def Dev.policyChanged (d : Dev) (host : Bool) : Dev :=
  let old := d.snt.asserted
  let d := d.refreshLines
  let hit := (List.range 16).any fun g => bitAt d.snt.asserted g && !bitAt old g && d.groupBusy g
  if !hit then d
  else
    let d := d.put K.SNT_TRIP_CAUSE_BUSY_WD true
    if host then (d.put K.SNT_TRIP_CAUSE_SYS true).safetyTrip 4 false
    else (d.put K.SNT_TRIP_CAUSE_TRIP true).safetyTrip 3 false

/-- SAFE_REL_CHANGE: the image changes SAFE_REL (R73, R75). -/
def execSafeRelChange (rel : BitVec 16) (s : State) : Out :=
  s.doesAs (1, 3, 0) fun d =>
    if d.imageRuns && d.snt.running != .romDefault then
      (d.modSnt fun x => { x with out := { x.out with safeRel := rel } }).policyChanged false
    else d

/-- A write of SNT_GROUP_FORCE (R73, R75). -/
def Dev.forceWrite (d : Dev) (v : Nat) : Dev := (d.set K.SNT_GROUP_FORCE_FORCE v).policyChanged true

/-- Bits of SNT_POLICY that exist: the groups with a present channel. -/
def Dev.groupMask (d : Dev) : Nat := (List.range 16).foldl (fun m g => if d.groupPresent g then m + 2 ^ g else m) 0

/-- A write of RELEASE_EN of SNT_POLICY (R73, R75). -/
def Dev.policyWrite (d : Dev) (v : Nat) : Dev := (d.set K.SNT_POLICY_RELEASE_EN (v &&& d.groupMask)).policyChanged true

end Sys2Proof.Machine
end

