-- ==== Sys2Proof/Machine/Start.lean ====
section
/-! DEFINITION. The staged start, its stages' work, mode requests and the resets (R35 to R66, R83 to R86, R586). -/

namespace Sys2Proof.Machine

/-! ## Stages (R36 to R39, Table 2) -/

/-- The dies of the active die set, ascending (R47). -/
def Dev.activeDies (d : Dev) : List Nat := d.dies.filter (bitAt d.start.active)

/-- Every die of the active die set is in a mask. -/
def Dev.allIn (d : Dev) (m : Nat) : Bool := d.activeDies.all (bitAt m)

/-- A start is in progress in stage `st`: the stage has begun, has not failed, and the mode is the stage's. -/
def Dev.inStage (d : Dev) (st : Nat) : Bool :=
  !d.inReset && d.stage == st && !d.startFailed && d.modeIn (if st < 5 then [mdSentry] else if st = 5 then [mdSentry, mdLoad] else [mdLoad])

/-- STAGE set. -/
def Dev.setStage (d : Dev) (st : Nat) : Dev := d.set K.DEV_START_STATUS_STAGE st

/-- CD `n` is released from reset (R36). -/
def Dev.releaseDie (d : Dev) (n : Nat) : Dev := d.modStart fun x => { x with cdReleased := putBitAt x.cdReleased n true }

/-- The next die of the active die set to release, if any. -/
def Dev.nextRelease (d : Dev) : Option Nat := d.activeDies.find? fun n => !bitAt d.start.cdReleased n

/-- The next die is released (R36). -/
def Dev.releaseNext (d : Dev) : Dev := match d.nextRelease with
  | some n => d.releaseDie n
  | none => d

/-- Offset of entry `e` of a PLL's band table in the body of store 1 (R447). -/
def bandOffset (n p e : Nat) : Nat := 256 * (2 * n + p) + 8 * e

/-- Byte address of entry `e` of a PLL's band table. -/
def bandAddr (n p e : Nat) : Nat := (K.BAND_F_LO n p e).key / 32 * 4

/-- The band table of a PLL is loaded from a flash copy, or from ROM (R447). -/
def Dev.bandLoad (d : Dev) (copy : Option Nat) (n p : Nat) : Dev :=
  if d.clk.hostBands.contains (2 * n + p) then d.set (K.PLL_STATUS_BAND_SRC n) 2
  else
    let d := d.each (List.range 32) fun d e =>
      let w := match copy with
        | some c => d.flashNum (copyBase 1 c + 0x100 + bandOffset n p e) 8
        | none => Config.romBand n p e
      (d.wordPut (bandAddr n p e) (w % 2 ^ 32)).wordPut (bandAddr n p e + 4) (w / 2 ^ 32 % 2 ^ 32)
    if d.clk.hostBands.any fun k => k / 2 == n then d
    else d.set (K.PLL_STATUS_BAND_SRC n) (if copy.isSome then 0 else 1)

/-- PLL_LOCK begins: the band tables are loaded (R447). -/
def Dev.bandsLoad (d : Dev) : Dev :=
  let c := d.copySelect 1
  d.each d.activeDies fun d n => (d.bandLoad c n 0).bandLoad c n 1

/-- NOCAL is honoured: in BLANK, FACTORY and RMA (R47). -/
def Dev.nocal (d : Dev) : Bool := d.on K.DEV_START_CTRL_NOCAL && [0, 1, 4].contains d.fuses.lifecycle

/-- READY is reached (R35, R48, R50). -/
def Dev.readyBegins (d : Dev) : Dev :=
  let d := (d.set K.DEV_MODE_MODE mdReady).put K.DEV_START_STATUS_START_DONE true
  d.refreshMode.refreshLines

/-- A die's DESKEW work is over: 16 rounds of its four groups (R245). -/
def Dev.deskewOver (d : Dev) (n : Nat) : Bool := decide (64 ≤ tblGet 0 d.start.dskDone n)

/-- What a stage does as it begins (Table 2). -/
def Dev.stageBegins (d : Dev) (st : Nat) : Dev :=
  let d := d.setStage st
  match st with
  | 3 => d
  | 4 => (d.put K.DEV_START_CTRL_START false).modStart fun x => { x with bdReleased := true }
  | 5 => d.releaseNext
  | 6 => (d.set K.DEV_MODE_MODE mdLoad).put K.DEV_START_STATUS_START_DONE false
  | 8 => d.bandsLoad.modStart fun x => { x with pllDone := 0 }
  | 9 => d.modStart fun x => { x with calDone := 0 }
  | 10 =>
    let d := d.modStart fun x => { x with dskDone := [] }
    if (d.copySelect 3).isSome then d else d.put K.DEV_START_STATUS_NOCAL_USED true
  | 11 => d.readyBegins
  | _ => d

/-- The work of the present stage is complete, but for PWR_CHECK, LOAD and STREAM_CHECK, whose ends are commands. -/
def Dev.stageWorkDone (d : Dev) : Bool :=
  match d.stage with
  | 4 => d.start.bdBist && d.start.hbmTrained && d.start.hubTrained
  | 5 => d.allIn d.start.cdReleased && d.allIn d.start.cdBist && d.allIn d.start.cdTrained
  | 8 => d.allIn d.start.pllDone
  | 9 => d.allIn d.start.calDone
  | 10 => d.activeDies.all d.deskewOver
  | _ => false

/-- The stages whose work is complete end, and the next begin, at most `fuel` of them. -/
def Dev.stageCheck : Nat → Dev → Dev
  | 0, d => d
  | fuel + 1, d => if d.inStage d.stage && d.stageWorkDone then Dev.stageCheck fuel (d.stageBegins (d.stage + 1)) else d

/-- A stage begins, and every stage after it that has no work. -/
def Dev.goStage (d : Dev) (st : Nat) : Dev := Dev.stageCheck 8 (d.stageBegins st)

/-- Some of a stage's work is done: `f`, and the stage ends once all is. -/
def Dev.stageWork (d : Dev) (st : Nat) (f : Dev → Dev) : Dev := if d.inStage st then Dev.stageCheck 8 (f d) else d

/-! ## From hub supplies to SENTRY_WAIT (R35, R38, R42, R83 to R86) -/

/-- HUB_SUPPLIES_VALID: the last hub supply enters its operating range (R35, R585). -/
def execHubSuppliesValid (s : State) : Out :=
  s.does fun d => if d.start.suppliesValid then d else d.modStart fun x => { x with suppliesValid := true }

/-- HUB_POR_RELEASE: IF_LOAD begins (R38). -/
def execHubPorRelease (s : State) : Out :=
  s.does fun d =>
    if d.start.suppliesValid && d.start.inPor then (d.modStart fun x => { x with inPor := false }).setStage 1 else d

/-- The hub self-check fails: HUB_SELFTEST, with the device in Safe (R42). -/
def Dev.selfTestFails (d : Dev) : Dev :=
  let d := d.failShown 0x01 5
  (d.modStart fun x => { x with selfTestFail := true }).enterSafe 5 false true

/-- HUB_SELF_CHECK: the ROM checksum and the SRAM BIST complete (R42, R46). -/
def execHubSelfCheck (pass : Bool) (s : State) : Out :=
  s.does fun d => if d.inStage 1 && !pass then d.selfTestFails else d

/-- The image source of a slot. -/
def slotSrc (c : Nat) : ImgSrc := if c = 0 then .slotA else .slotB

/-- Header and body of the two slots differ (R85). -/
def Dev.slotsDiffer (d : Dev) : Bool :=
  let n (c : Nat) : Nat := 0x100 + d.flashNum (copyBase 0 c + 12) 4
  let img (c : Nat) : List Byte := d.flashBytes (copyBase 0 c) (n c)
  img 0 != img 1

/-- The selection of a slot at boot: SEQ_CONFLICT when both are valid with equal SEQ and other contents (R85). -/
def Dev.slotSelect (d : Dev) : Dev × Option Nat :=
  let a := d.copyValid 0 0
  let b := d.copyValid 0 1
  let sel := d.copySelect 0
  let clash := a && b && d.copySeq 0 0 == d.copySeq 0 1 && d.slotsDiffer
  let seq := d.copySeq 0 0
  let d := (d.put K.SNT_STATUS_SLOT_A_VALID a).put K.SNT_STATUS_SLOT_B_VALID b
  let d := if clash then (d.put K.SNT_STATUS_SEQ_CONFLICT true).logB 0x11A blkSNT seq else d
  (d.flashDone, sel)

/-- A slot is loaded, with the CRC of the bytes that the load reads; a failure is recorded (R86). -/
def Dev.slotLoad (d : Dev) (c : Nat) : Dev × Bool :=
  let ok := d.copyValid 0 c
  let d := d.flashDone
  if ok then (d.modSnt fun x => { x with loaded := slotSrc c }, true) else (d.logB 0x119 blkSNT c, false)

/-- The ROM default image is loaded (R66, R85). -/
def Dev.defaultLoad (d : Dev) : Dev :=
  (d.put K.DEV_START_STATUS_IF_DEFAULT true).modSnt fun x => { x with loaded := .romDefault }

/-- The Instant Fabric image is selected and loaded: the selected slot, else the other one if it is valid, else the ROM
default image (R85, R86). -/
def Dev.imageLoad (d : Dev) : Dev :=
  let (d, sel) := d.slotSelect
  match sel with
  | none => d.defaultLoad
  | some c =>
    let (d, ok) := d.slotLoad c
    if ok then d
    else if d.copyValid 0 (1 - c) then
      let (d, ok) := d.slotLoad (1 - c)
      if ok then d else d.defaultLoad
    else d.defaultLoad

/-- IF_LOAD_COMPLETE: the image has been loaded with its CRC passed (R38, R85, R86). -/
def execIfLoadComplete (s : State) : Out :=
  s.does fun d =>
    if !d.inReset && d.stage == 1 && (!d.startFailed || d.start.selfTestFail) && d.snt.loaded == .none then d.imageLoad
    else d

/-- The flash copy of a slot image. -/
def ImgSrc.slot : ImgSrc → Option Nat
  | .slotA => some 0
  | .slotB => some 1
  | _ => Option.none

/-- The loaded image starts from its initial values, with the ownership of its header (R68, R80, R89). The ROM default
image claims nothing and holds every group (R65). -/
def Dev.imageStarts (d : Dev) (out : ImgOut) : Dev :=
  let src := d.snt.loaded
  let (pins, hold, ports, o) := match src.slot with
    | some c =>
      let b := copyBase 0 c
      (d.flashNum (b + 0x18) 8, d.flashNum (b + 0x20) 8, d.flashNum (b + 0x28) 1 % 16, out)
    | none => (0, 0, 0, ({} : ImgOut))
  let d := d.modSnt fun x =>
    { x with running := src, pinClaim := pins, holdMask := hold, portClaim := ports, held := 0, heldOut := 0, heldOe := 0
             out := { o with trip := false, sysReq := false } }
  let d := match src.slot with
    | some c => (d.put K.SNT_STATUS_ACTIVE_SLOT (c == 1)).put K.DEV_START_STATUS_IF_DEFAULT false
    | none => d.put K.DEV_START_STATUS_IF_DEFAULT true
  let d := d.refreshLines
  let d := if o.trip then d.sentryTrip o.tripCode.toNat else d
  if o.sysReq then d.sysTrip else d

/-- IMAGE_START: the loaded image starts, and stage SENTRY_WAIT begins (R35, R38, R72). -/
def execImageStart (out : ImgOut) (s : State) : Out :=
  s.does fun d =>
    if !d.inReset && d.stage == 1 && d.snt.loaded != .none && d.snt.running == .none then
      let d := if d.startFailed then d else d.setStage 2
      d.imageStarts out
    else d

/-! ## The start (R36, R37, R43, R46) -/

/-- A write of one to DEV_START_CTRL.START (R37, R43, R47, R48). -/
def Dev.startWrite (d : Dev) : Dev :=
  if d.inReset || d.start.selfTestFail || !(d.startFailed || (d.stage == 2 && d.modeIn [mdSentry])) then d
  else
    let d := if d.startFailed then d.holdDies else d
    let d := ((d.put K.DEV_START_STATUS_FAIL false).set K.DEV_START_STATUS_FAIL_CODE 0).set K.DEV_START_STATUS_FAIL_DIE 7
    let d := (d.put K.DEV_START_STATUS_START_DONE false).put K.DEV_START_STATUS_NOCAL_USED false
    let m := d.get K.DEV_START_CTRL_CD_MASK &&& d.variant.cdMask
    ((d.put K.DEV_START_CTRL_START true).modStart fun x => { x with active := m }).stageBegins 3

/-- PWR_CHECK_COMPLETE: the supplies are good, and the base die is released (R36). -/
def execPwrCheckComplete (s : State) : Out := s.does fun d => if d.inStage 3 then d.goStage 4 else d

/-- FAIL_DIE of a rail, and whether PWR_CHECK checks it (R46, Table 2). -/
def railDie (rail : Nat) : Nat := if rail < 6 then 4 else if rail < 10 then rail - 6 else 7

/-- PWR_CHECK checks a rail: those of the base die and the stacks, and those of the active die set. -/
def Dev.railChecked (d : Dev) (rail : Nat) : Bool :=
  if rail < 3 then false
  else if rail < 6 then true
  else if rail < 10 then d.activeDies.contains (rail - 6)
  else d.activeDies != []

/-- PWR_TIMEOUT: a supply is not good in time (R46). -/
def execPwrTimeout (rail : Fin 13) (s : State) : Out :=
  s.does fun d => if d.inStage 3 && d.railChecked rail then d.startFail 0x10 (railDie rail) else d

/-- BD_BIST_DONE: the base die's BIST ends; a wrong identity fails it (R46, R366). -/
def execBdBistDone (pass idOk : Bool) (s : State) : Out :=
  s.does fun d =>
    if !d.inStage 4 then d
    else if !idOk then (d.startFail 0x20 4).put K.NOP_STATUS_BD_ID_MISMATCH true
    else if !pass then d.startFail 0x20 4
    else d.stageWork 4 fun d => d.modStart fun x => { x with bdBist := true }

/-- HBM_PHY_TRAINING_DONE (R46, R332). -/
def execHbmPhyTrainingDone (pass : Bool) (s : State) : Out :=
  s.does fun d =>
    if !d.inStage 4 then d
    else if !pass then d.startFail 0x21 4
    else d.stageWork 4 fun d =>
      let d := (d.put K.BAS_MEM_STATUS_SRAM_UP true).put K.BAS_MEM_STATUS_HBM0_UP (d.hbmPresent 0)
      (d.put K.BAS_MEM_STATUS_HBM1_UP (d.hbmPresent 1)).modStart fun x => { x with hbmTrained := true }

/-- HUB_LINK_TRAINING_DONE with the spare lanes it needs in each direction (R46, R363). -/
def execHubLinkTrainingDone (tx rx : BitVec 4) (s : State) : Out :=
  s.does fun d =>
    if !d.inStage 4 then d
    else if !sparesFit 4 [(tx.toNat, rx.toNat)] then d.startFail 0x22 5
    else d.stageWork 4 fun d =>
      let d := (d.linkTrained 4 [(tx.toNat, rx.toNat)]).put K.DEV_START_STATUS_BD_UP true
      d.modStart fun x => { x with hubTrained := true }

/-- CD_RELEASE: the hub releases the next die of the active die set (R36). -/
def execCdRelease (s : State) : Out := s.does fun d => if d.inStage 5 then d.releaseNext else d

/-- CD_BIST_DONE: a channel die's BIST ends; a wrong identity fails it (R46, R366). -/
def execCdBistDone (n : Die) (pass idOk : Bool) (s : State) : Out :=
  s.does fun d =>
    if !(d.inStage 5 && bitAt d.start.cdReleased n) then d
    else if !idOk then (d.startFail 0x30 n).put (K.D2D_STATUS_ID_MISMATCH n) true
    else if !pass then d.startFail 0x30 n
    else d.stageWork 5 fun d => d.modStart fun x => { x with cdBist := putBitAt x.cdBist n true }

/-- D2D_LINK_TRAINING_DONE with the spare wires it needs on each port and direction (R46, R362, R363). -/
def execD2dLinkTrainingDone (n : Die) (spares : List (Nat × Nat)) (s : State) : Out :=
  s.does fun d =>
    if !(d.inStage 5 && bitAt d.start.cdReleased n) then d
    else if !sparesFit n spares then d.startFail 0x31 n
    else d.stageWork 5 fun d =>
      let d := (d.linkTrained n spares).putBit K.DEV_START_STATUS_CD_UP n true
      d.modStart fun x => { x with cdTrained := putBitAt x.cdTrained n true }

/-- The start of each active die's fabric: initial values and golden signatures; FAILED regions leave FAILED (R402, R414,
R417). -/
def Dev.fabricStarts (d : Dev) (n : Nat) : Dev :=
  let d := d.put (K.CFG_DIE_STATUS_STARTED n) true
  let d := d.each (List.range 8) fun d r =>
    if d.get (K.FAB_PR_STATE_STATE n r) = 5 then d.set (K.FAB_PR_STATE_STATE n r) 0 else d
  let d := { d with fab := { d.fab with border := tblErase d.fab.border n } }
  d.each coveredCols fun d c => d.signGold n c.1 c.2

/-- STREAM_CHECK_COMPLETE: fabric start-up is over, and PLL_LOCK begins (R402, R447). -/
def execStreamCheckComplete (s : State) : Out :=
  s.does fun d =>
    if d.inStage 7 && d.on K.CFG_STATUS_CHECK then
      ((d.each d.maskDies Dev.fabricStarts).put K.CFG_STATUS_CHECK false).goStage 8
    else d

/-- PLL_LOCK_COMPLETE: a die's PLLs lock; one that finds no band entry cannot (R446, R450). -/
def execPllLockComplete (n : Die) (s : State) : Out :=
  s.does fun d =>
    if !(d.inStage 8 && d.activeDies.contains n.val) then d
    else match d.diePllsLock n with
      | some d => d.stageWork 8 fun d => d.modStart fun x => { x with pllDone := putBitAt x.pllDone n true }
      | none => d.startFail 0x40 n

/-- PLL_NO_LOCK (R46, R450). -/
def execPllNoLock (n : Die) (s : State) : Out :=
  s.does fun d => if d.inStage 8 && d.activeDies.contains n.val then d.startFail 0x40 n else d

/-- The factory calibration of a die as the timing generators take it: from a copy of store 3, or zero (R65, R245). -/
def Dev.calLoad (d : Dev) (n : Nat) (copy : Option Nat) : Dev :=
  let body := match copy with
    | some c => d.flashBytes (copyBase 3 c + 0x100) (d.flashNum (copyBase 3 c + 12) 4)
    | none => []
  let lane (c i : Nat) : Int := if copy.isSome then narrow (Config.factoryLane body c i) 16 else 0
  d.each (List.range 128) fun d j =>
    let c := 128 * n + j
    let l := (List.range 4).map (lane c)
    ({ d with tgn := { d.tgn with factory := tblPut d.tgn.factory c l } }).setCal n j

/-- CAL_LOAD_COMPLETE: a die's factory calibration is loaded, or found missing (R46, R65). -/
def execCalLoadComplete (n : Die) (s : State) : Out :=
  s.does fun d =>
    if !(d.inStage 9 && d.activeDies.contains n.val) then d
    else
      let c := d.copySelect 3
      if c.isNone && !d.nocal then d.startFail 0x50 n
      else d.stageWork 9 fun d => (d.calLoad n c).modStart fun x => { x with calDone := putBitAt x.calDone n true }

/-- A measurement of start-up's DESKEW: the groups in turn, 16 rounds; a channel that has not 16 accepted measurements by
then has not converged (R46, R245; log 60). -/
def Dev.startDeskew (d : Dev) (n : Nat) (vals : List (List Int)) : Dev :=
  let k := tblGet 0 d.start.dskDone n
  let d := (d.measureGroup n (k % 4) vals).modStart fun x => { x with dskDone := tblPut x.dskDone n (k + 1) }
  if k + 1 = 64 ∧ (List.range 128).any fun j => decide (d.get (K.CHAN_DSK_COUNT n j) < 16) then d.startFail 0x60 n
  else Dev.stageCheck 8 d

/-- DESKEW_MEASUREMENT_DONE: a measurement of one timing group ends, in start-up or of a sweep (R244 to R246). -/
def execDeskewMeasurementDone (n : Die) (vals : List (List Int)) (s : State) : Out :=
  s.does fun d =>
    if d.inStage 10 then
      if d.activeDies.contains n.val && !d.deskewOver n then d.startDeskew n vals else d
    else match tblFind d.tgn.sweep n with
      | some g => (d.measureGroup n g vals).sweepEnds n
      | none => d

/-- FAIL_DIE of a stage that times out: the lowest of the dies whose work is incomplete (R38). -/
def Dev.lateDie (d : Dev) : Nat :=
  let low (p : Nat → Bool) : Nat := (d.activeDies.find? p).getD 7
  match d.stage with
  | 4 => if d.start.bdBist && d.start.hbmTrained then 5 else 4
  | 5 => low fun n => !(bitAt d.start.cdBist n && bitAt d.start.cdTrained n)
  | 8 => low fun n => !bitAt d.start.pllDone n
  | 9 => low fun n => !bitAt d.start.calDone n
  | 10 => low fun n => !d.deskewOver n
  | _ => 5

/-- A stage with a watchdog is in progress (R38, Table 2). -/
def Dev.watched (d : Dev) : Bool :=
  (d.inStage 1 && d.snt.loaded == .none) || [3, 4, 5, 7, 8, 9, 10].any d.inStage

/-- The watchdog of the stage expires (R38). -/
def Dev.watchdog (d : Dev) : Dev := if d.watched then d.startFail 0x7F d.lateDie else d

/-- STAGE_TIMEOUT (R38). -/
def execStageTimeout (s : State) : Out := s.does Dev.watchdog

/-! ## Mode requests (R51, R53, R54) -/

/-- No site is Admitted, Running, Curtaining or Rocking. -/
def Dev.noneActive (d : Dev) : Bool := !d.anyActive

/-- ENTER_LOAD is accepted (R51, Table 8). -/
def Dev.enterLoadOk (d : Dev) : Bool :=
  (d.modeIn [mdReady] && d.noneActive) || (d.modeIn [mdSafe] && !d.causeActive)

/-- The units that an entry into Load holds or stops; every die is Active (R403, R414, R418, R465). -/
def Dev.loadUnits (d : Dev) : Dev :=
  let d := ((d.fabHold.cfgiLoad).scrubsStop).put K.DEV_START_STATUS_START_DONE false
  let d := d.each d.dies fun d n => (d.set (K.PWR_DIE_STATE_STATE n) 0).put (K.PWR_DIE_STATE_WAKING n) false
  d.refreshLines

/-- ENTER_LOAD from Ready. -/
def Dev.loadFromReady (d : Dev) : Dev := (d.loadUnits.set K.DEV_MODE_MODE mdLoad).setStage 6

/-- DEV_RESET_CAUSE records a DIE reset of a channel die (R64). -/
def Dev.cdReset' (d : Dev) (n : Nat) : Dev := (d.cdReset n).putBit K.DEV_RESET_CAUSE_CD_DIE n true

/-- ENTER_LOAD from Safe: sites are released, the active die set is sampled anew and its dies are reset, and the start
re-enters at CD_LINK (R53). -/
def Dev.loadFromSafe (d : Dev) : Dev :=
  let d := d.each d.holders Dev.release
  let m := d.get K.DEV_START_CTRL_CD_MASK &&& d.start.active
  let d := d.each d.activeDies fun d n => if bitAt m n then d.cdReset' n else d.cdReset n
  let d := (d.rgpStale.loadUnits).modStart fun x => { x with active := m, causes := [], safeWait := none }
  ((d.set K.DEV_MODE_MODE mdLoad).put K.DEV_START_STATUS_NOCAL_USED false).goStage 5

/-- ENTER_LOAD applied. -/
def Dev.enterLoadApply (d : Dev) : Dev := if d.modeIn [mdSafe] then d.loadFromSafe else d.loadFromReady

/-- A mode or reset request is refused (R54, R61, R62). -/
def Dev.reqRefused (d : Dev) : Dev := d.put K.DEV_MODE_REQ_REFUSED true

/-- A write of one to ENTER_LOAD, judged at P6 (R54, R55). -/
def State.enterLoad (s : State) : State :=
  let d := s.judge 6 blkDEV none Dev.enterLoadOk Dev.enterLoadApply Dev.reqRefused id
  s.onDevAs (6, 0, 0) fun _ => d

/-! ## Resets (R58 to R64, R586) -/

/-- What POR and DRST leave alike: everything but fuses, flash and key store at its reset value; the registers are
`regs`, the free-value counter and the sources present at the pins go on (R58). -/
def Dev.fresh (d : Dev) (regs : Tbl Nat) : Dev :=
  let d := d.flashInterrupt
  { regs := regs, flash := d.flash, hbmEpoch := d.hbmEpoch + 1, freeUsed := d.freeUsed, jtag := d.jtag
    slowWr := d.slowWr, slowCp := d.slowCp
    fuses := { d.fuses with lifecycle := d.fuses.target }
    time := { present := d.time.present }
    flc := { unsure := d.flc.unsure }
    fab := { keyB := d.fab.keyB }
    msix := { sent := d.msix.sent }
    start := { suppliesValid := d.start.suppliesValid, inPor := false } }

/-- Register fields whose reset value the straps and the variant give: CD_MASK and CFGP_RD_EN (R47, R399). -/
def Dev.strapped (d : Dev) : Dev :=
  (d.set K.DEV_START_CTRL_CD_MASK d.variant.cdMask).put K.CFG_CTRL_CFGP_RD_EN d.fuses.leadSel

/-- Power-on reset is asserted; a fuse write that it interrupts leaves the previous state (R58, R581, R586). -/
def Dev.porReset (d : Dev) : Dev :=
  let d := d.fresh d.erasePor.regs
  ({ d with slowWr := [], slowCp := [], jtag := {}, fuses := { d.fuses with programming := none }
            start := { suppliesValid := false, inPor := true } }).strapped

/-- DRST, from the pin or from a host command (R58, R59, R60). -/
def Dev.drst (d : Dev) (pin : Bool) : Dev :=
  let d := (d.fresh d.eraseDrst.regs).strapped
  let d := d.put (if pin then K.DEV_RESET_CAUSE_PIN else K.DEV_RESET_CAUSE_HOST) true
  if pin then d.modStart fun x => { x with rstLow := true } else d.setStage 1

/-- The whole device is reset: the events of the tick before it judge nothing after it. -/
def State.resets (s : State) (f : Dev → Dev) : State :=
  { s with dev := f s.dev, tickStart := f s.dev, applied := [] }

/-- POR: a hub rail falls below its POR threshold (R586). -/
def execPor (s : State) : Out := .next (s.resets Dev.porReset)

/-- DEV_RST_N_LOW: the pad filter accepts a low (R59). In POR the pin does nothing more. -/
def execDevRstNLow (s : State) : Out :=
  .next (if s.dev.inReset then s else s.resets fun d => d.drst true)

/-- DEV_RST_N_HIGH: the hub restarts its boot (R59). -/
def execDevRstNHigh (s : State) : Out :=
  s.does fun d => if d.start.rstLow then (d.modStart fun x => { x with rstLow := false }).setStage 1 else d

/-- A keyed write of DRST: Running sites are stopped, and every site parks as it enters its Rocker (R60). -/
def Dev.drstWrite (d : Dev) : Dev :=
  let d := d.each (allSites.filter fun s => d.siteIn s [stRunning]) fun d s => d.parkReq s 0x11
  let d := d.each (allSites.filter fun s => d.siteIn s [stCurtaining, stRocking]) fun d s => d.pend s false
  d.modStart fun x => { x with hostRst := true }

/-- Every present channel is parked. -/
def Dev.allParked (d : Dev) : Bool := ((List.range 512).filter d.chanPresent).all d.parked

/-- HOST_RESET_TAKES_EFFECT: every channel is parked after a host device reset (R60). -/
def execHostResetTakesEffect (s : State) : Out :=
  .next (if s.dev.start.hostRst && s.dev.allParked then s.resets fun d => d.drst false else s)

/-- A host DIE reset is accepted: the mode and the sites permit it (R61). -/
def Dev.dieResetOk (d : Dev) : Bool := d.modeIn [mdLoad, mdReady] && d.noneActive

/-- A keyed DIE reset of CD `n`: the die is reset and released again, CD_LINK runs for it, and the mode becomes Load
(R61). -/
def Dev.cdRstWrite (d : Dev) (n : Nat) : Dev :=
  if d.dieResetOk && d.cdPresent n && bitAt d.start.active n then
    let d := ((d.cdReset' n).rgpStale.loadUnits).releaseDie n
    ((d.set K.DEV_MODE_MODE mdLoad).put K.DEV_START_STATUS_NOCAL_USED false).goStage 5
  else d.reqRefused

/-- A keyed DIE reset of the base die: every channel die is held in reset, and the device returns to SENTRY_WAIT (R61). -/
def Dev.bdRstWrite (d : Dev) : Dev :=
  if d.dieResetOk then
    let d := (d.loadUnits.loaderSafe.holdDies).put K.DEV_RESET_CAUSE_BD_DIE true
    ((d.set K.DEV_MODE_MODE mdSentry).setStage 2).refreshLines
  else d.reqRefused

/-- A keyed CORE reset of core `q` (R62). -/
def Dev.coreRstWrite (d : Dev) (q : Nat) : Dev :=
  let ok := d.corePresent q && bitAt d.start.cdReleased (q / 16) && match d.coreSite q with
    | none => true
    | some s => d.siteIn s [stIdle, stParked, stAborted]
  if ok then d.coreReset q else d.reqRefused

/-- A write to DEV_RESET_CTRL (R63): nothing without its key, DRST alone, else the requests in their order. -/
def Dev.resetWrite (d : Dev) (w : Nat) : Dev :=
  if d.inReset || bitsAt w 24 8 != 0x5A then d
  else if bitAt w 0 then d.drstWrite
  else
    let d := d.each (List.range 4) fun d n => if bitAt w (n + 1) then d.cdRstWrite n else d
    let d := if bitAt w 5 then d.bdRstWrite else d
    if bitAt w 6 then d.coreRstWrite (bitsAt w 8 6) else d

end Sys2Proof.Machine
end

