-- ==== Sys2Proof/Machine/Sentry.lean ====
section
/-! DEFINITION. The Instant Fabric's triggers and mailbox, and SNT_SWAP (R71, R88 to R93, R384). -/

namespace Sys2Proof.Machine

/-! ## Triggers (R71, R131, R384) -/

/-- EVT_TRIGGER: a line of the running image is sampled rising: one arrival at every input that it is routed to (R71,
R131). -/
def execEvtTrigger (line : Fin 8) (s : State) : Out :=
  s.doesAs (7, 2, line) fun d =>
    if d.imageRuns && d.snt.running != .romDefault then d.route d.allCores 2 line else d

/-- TRIG_F_TRIGGER: a trigger line of a die's fabric rises; the lines read 0 while the interface is held (R131, R384). -/
def execTrigFTrigger (n : Die) (line : Fin 8) (s : State) : Out :=
  s.doesAs (7, 1, line) fun d => if d.fabRuns n then d.route (d.dieCores n) 1 line else d

/-! ## The mailbox (R71, R93) -/

/-- MBOX_FROM: the image strobes a word (R71). -/
def execMboxFrom (w : Word) (s : State) : Out :=
  s.does fun d =>
    if d.imageRuns && d.snt.running != .romDefault then
      (d.set K.SNT_MBOX_FROM w.toNat).put K.SNT_STATUS_MBOX_FULL true
    else d

/-- A read of SNT_MBOX_FROM clears MBOX_FULL (R93). -/
def Dev.mboxRead (d : Dev) : Dev := d.put K.SNT_STATUS_MBOX_FULL false

/-- A write of SNT_MBOX_TO presents the word and pulses MBOX_TO_STB (R71, R93). -/
def Dev.mboxWrite (d : Dev) (w : Nat) : Dev :=
  d.modSnt fun x => { x with mboxTo := w % 2 ^ 32, mboxToStb := x.mboxToStb + 1 }

/-! ## SNT_SWAP (R88 to R91) -/

/-- HOLDER of the flash lease for a swap (R532, Table 2). -/
def swapHolder : Nat := 0x20

/-- SEQ of the running image: 0 for the ROM default (R93). -/
def Dev.activeSeq (d : Dev) : Nat := match d.runSlot with
  | some c => d.copySeq 0 c
  | none => 0

/-- The inactive slot: the one that does not run, or with the ROM default image the one that the next boot selects. -/
def Dev.otherSlot (d : Dev) : Nat := match d.runSlot with
  | some c => 1 - c
  | none => (d.copySelect 0).getD 0

/-- The conditions of R88 other than the lease. -/
def Dev.swapOk (d : Dev) : Bool :=
  !d.on K.SNT_LOCK_SWAP_LOCK && d.modeIn [mdSentry, mdLoad, mdReady, mdSafe] && d.noneActive && d.imageRuns
    && d.copyValid 0 d.otherSlot && decide (d.activeSeq < d.copySeq 0 d.otherSlot)

/-- A keyed write of REQ (R88). -/
def Dev.swapReq (d : Dev) : Dev :=
  let refuse (d : Dev) : Dev := d.put K.SNT_STATUS_SWAP_REFUSED true
  if !d.swapOk then refuse d.flashDone
  else match d.flashDone.leaseReq 5 lcFLASH swapHolder 0 false with
    | (d, .granted) => (d.put K.SNT_STATUS_SWAP_PENDING true).put K.SNT_SWAP_CTRL_REQ true
    | (d, _) => refuse d

/-- The swap, or the request, is over: its lease is released. -/
def Dev.swapEnds (d : Dev) : Dev :=
  let d := (d.put K.SNT_STATUS_SWAP_PENDING false).put K.SNT_STATUS_SWAP_ACTIVE false
  let d := d.modSnt fun x => { x with swapLoading := false, swapReload := false, swapOld := .none }
  (d.put K.SNT_SWAP_CTRL_REQ false).leaseDrop 5 lcFLASH swapHolder

/-- A keyed write of CANCEL (R89). -/
def Dev.swapCancel (d : Dev) : Dev := if d.on K.SNT_STATUS_SWAP_PENDING then d.swapEnds else d

/-- A write to SNT_SWAP_CTRL: nothing without its key (R88, R93). -/
def Dev.swapWrite (d : Dev) (w : Nat) : Dev :=
  if bitsAt w 24 8 != 0xA5 then d
  else
    let d := if bitAt w 0 then d.swapReq else d
    if bitAt w 1 then d.swapCancel else d

/-- SWAP_BEGIN: SAFE_POINT is sampled at one (R89). -/
def execSwapBegin (s : State) : Out :=
  s.does fun d =>
    if d.on K.SNT_STATUS_SWAP_PENDING then
      let d := d.modSnt fun x => { x with out := { x.out with safePoint := true }, swapOld := x.running }
      (d.put K.SNT_STATUS_SWAP_PENDING false).put K.SNT_STATUS_SWAP_ACTIVE true
    else d

/-- SWAP_TIMEOUT: SAFE_POINT has not risen within SNT_SWAP_TMO (R89). -/
def execSwapTimeout (s : State) : Out :=
  s.does fun d => if d.on K.SNT_STATUS_SWAP_PENDING then (d.put K.SNT_STATUS_SWAP_REFUSED true).swapEnds else d

/-- The old image stops: its claimed pins in HOLD_MASK keep their values, and every group is asserted (R89, Table 6). -/
def Dev.imageStops (d : Dev) (c : Nat) : Dev :=
  let d := d.modSnt fun x =>
    { x with held := x.holdMask &&& x.pinClaim, heldOut := x.out.pinOut.toNat, heldOe := x.out.pinOe.toNat
             running := .none, loaded := slotSrc c, out := {}, swapLoading := true }
  d.refreshLines

/-- SWAP_CRC_CHECK: the target slot's CRC re-check ends (R89, Table 6). -/
def execSwapCrcCheck (s : State) : Out :=
  s.does fun d =>
    if !d.on K.SNT_STATUS_SWAP_ACTIVE || d.snt.swapLoading || d.snt.swapReload then d
    else
      let c := d.otherSlot
      let ok := d.copyValid 0 c
      let d := d.flashDone
      if ok then d.imageStops c else (d.put K.SNT_STATUS_SWAP_FAIL true).swapEnds

/-- The swap ends with the loaded image started from its initial values. -/
def Dev.swapStarts (d : Dev) (out : ImgOut) : Dev := d.swapEnds.imageStarts out

/-- SWAP_LOAD_DONE: the new image is loaded and starts; or its CRC fails, and the previous slot is reloaded (R89, R90). -/
def execSwapLoadDone (out : ImgOut) (s : State) : Out :=
  s.does fun d =>
    if !d.snt.swapLoading then d
    else
      let ok := match d.snt.loaded.slot with
        | some c => d.copyValid 0 c
        | none => false
      let d := d.flashDone
      if ok then d.swapStarts out
      else (d.put K.SNT_STATUS_SWAP_FAIL true).modSnt fun x =>
        { x with swapLoading := false, swapReload := true, loaded := x.swapOld }

/-- SWAP_RELOAD_DONE: the previous slot is reloaded, or fails and the ROM default image runs; a class A record (R90). -/
def execSwapReloadDone (out : ImgOut) (s : State) : Out :=
  s.does fun d =>
    if !d.snt.swapReload then d
    else
      let ok := match d.snt.loaded.slot with
        | some c => d.copyValid 0 c
        | none => false
      let d := d.flashDone
      if ok then (d.swapStarts out).logA 0x00F blkSNT 1
      else ((d.defaultLoad).swapStarts out).logA 0x00F blkSNT 2

end Sys2Proof.Machine
end

