-- ==== Sys2Proof/Machine/RegView.lean ====
section
/-! DEFINITION. What a register reads as: the units that are absent, the fields that show live state in place of stored
bits, and the word of a register (R7, R8, R569, R570). -/

namespace Sys2Proof.Machine

/-! ## Absent units (R7, R569) -/

/-- The lease at a BST_LEASE address names a unit that exists (R531). -/
def Dev.leaseWordAt (d : Dev) (a : Nat) : Bool :=
  let o := a - 0xB0400
  d.leaseExists (o / 32) (o % 32 / 4)

/-- The register at a byte address belongs to an absent unit: it reads zero and ignores writes (R7, R569). -/
def Dev.regAbsent (d : Dev) (a : Nat) : Bool :=
  if 0x400000 ≤ a ∧ a < 0x800000 then !d.cdPresent ((a - 0x400000) / 0x100000)
  else if 0x10100 ≤ a ∧ a < 0x10300 then !d.cdPresent ((a - 0x10100) / 128)
  else if 0x30080 ≤ a ∧ a < 0x300A0 then !d.cdPresent ((a - 0x30080) % 16 / 4)
  else if 0x43000 ≤ a ∧ a < 0x47000 then !d.cdPresent ((a - 0x43000) / 0x1000)
  else if 0x60040 ≤ a ∧ a < 0x60050 then !d.cdPresent ((a - 0x60040) / 4)
  else if 0x60060 ≤ a ∧ a < 0x60070 then !d.cdPresent ((a - 0x60060) / 4)
  else if a = 0x60078 then !d.variant.hasGuest
  else if 0x60098 ≤ a ∧ a < 0x600A8 then !d.cdPresent ((a - 0x60098) / 4)
  else if 0x60100 ≤ a ∧ a < 0x60140 then !d.cdPresent ((a - 0x60100) / 16)
  else if 0xA0100 ≤ a ∧ a < 0xA0200 then !d.corePresent ((a - 0xA0100) / 4)
  else if 0xB0400 ≤ a ∧ a < 0xB0500 then !d.leaseWordAt a
  else if 0xF0000 ≤ a ∧ a < 0x100000 then !d.variant.hasGuest
  else if 0x101100 ≤ a ∧ a < 0x101300 then !d.corePresent ((a - 0x101100) / 8)
  else if 0x101300 ≤ a ∧ a < 0x101400 then !d.corePresent ((a - 0x101300) / 4)
  else if 0x101400 ≤ a ∧ a < 0x101440 then !d.corePresent ((a - 0x101400) / 4 * 4)
  else if 0x180000 ≤ a ∧ a < 0x200000 then
    !d.variant.hasRps || (decide (0x180020 ≤ a) && decide (a < 0x180050) && !d.cdPresent ((a - 0x180020) % 16 / 4))
  else false

/-! ## Live fields -/

/-- What a register shows in place of stored bits: position, width and value of each live field. -/
abbrev Live := List (Nat × Nat × Nat)

/-- One live field of a whole register. -/
def whole (v : Nat) : Live := [(0, 32, v)]

/-- A mask of the sites that satisfy `p`. -/
def siteMask (p : Nat → Bool) : Nat := (allSites.filter p).foldl setBitAt 0

/-- The sum of a field over the sites that hold reservations (R311; DESIGN CHOICE, log 61). -/
def Dev.heldSum (d : Dev) (f : Nat → Fld) : Nat := (d.holders.map fun s => d.get (f s)).sum

/-- The low or high word of a 64-bit mask. -/
def half (hi : Bool) (v : Nat) : Nat := if hi then v / 2 ^ 32 else v % 2 ^ 32

/-- A free value within a range of `n` values (log 1). -/
def Dev.freeIn (d : Dev) (a n : Nat) : Nat := Config.free d.freeUsed a % n

/-- TARGET and PENDING (R581): a request that is being programmed, or fuses that the next POR or DRST re-reads. -/
def Dev.lcPending (d : Dev) : Bool := d.fuses.programming.isSome || d.fuses.target != d.fuses.lifecycle

/-- Live fields of DEV (R47 to R56, R328, R580). -/
def Dev.liveDev (d : Dev) (a : Nat) : Live :=
  match a with
  | 0x00 => whole d.idcode
  | 0x04 => whole (d.capWord 0)
  | 0x08 => whole (d.capWord 1)
  | 0x0C => whole (d.capWord 2)
  | 0x10 => whole (d.capWord 3)
  | 0x14 => [(0, 3, d.fuses.lifecycle), (3, 3, d.fuses.programming.getD d.fuses.target), (6, 1, bit d.lcPending)]
  | 0x20 => whole (half false d.fuses.serial)
  | 0x24 => whole (half true d.fuses.serial)
  | 0x48 => [(16, 1, bit d.causeActive)]
  | 0x108 => whole (half false (siteMask fun s => d.siteIn s [stRunning, stCurtaining]))
  | 0x10C => whole (half true (siteMask fun s => d.siteIn s [stRunning, stCurtaining]))
  | 0x110 => whole (half false (siteMask fun s => d.siteIn s [stRocking]))
  | 0x114 => whole (half true (siteMask fun s => d.siteIn s [stRocking]))
  | 0x118 => [(0, 13, d.sitePower)]
  | 0x11C => [(0, 16, d.heldSum K.SITE_VDEM0), (16, 16, d.heldSum K.SITE_VDEM1)]
  | 0x120 => [(0, 16, d.heldSum K.SITE_GBW0), (16, 16, d.heldSum K.SITE_GBW1)]
  | 0x124 => [(0, 12, d.heldSum K.SITE_EVQ)]
  | _ => []

/-- Live fields of SNT (R93). -/
def Dev.liveSnt (d : Dev) (a : Nat) : Live :=
  match a with
  | 0x10000 => [(8, 1, bit d.snt.out.safePoint)]
  | 0x10004 => whole d.activeSeq
  | 0x10008 => whole (if d.copyValid 0 d.otherSlot then d.copySeq 0 d.otherSlot else 0)
  | 0x10014 => [(0, 16, d.snt.asserted), (16, 16, d.snt.out.safeRel.toNat)]
  | 0x10020 => whole (half false d.snt.pinClaim)
  | 0x10024 => whole (half true d.snt.pinClaim)
  | 0x10028 => [(0, 4, d.snt.portClaim)]
  | _ => []

/-- Free entries of a schedule table (R123). -/
def Dev.freeEntries (d : Dev) (t : Nat) : Nat := ((List.range 256).filter (d.schedFree t)).length

/-- Live fields of TIM, the schedule tables and CAS (R104, R105, R111, R123, R482). -/
def Dev.liveTim (d : Dev) (a : Nat) : Live :=
  if 0x41000 ≤ a ∧ a < 0x47000 ∧ a % 16 = 8 then
    let t := (a - 0x41000) / 4096
    let e := a % 4096 / 16
    [(27, 1, bit ([seARMED, seLINKED].contains (d.schedState t e)))]
  else match a with
  | 0x40008 => whole (half false d.tti)
  | 0x4000C => whole (half true d.tti)
  | 0x40010 => [(0, 30, d.time.tick)]
  | 0x40014 => whole (half false d.time.sec)
  | 0x40018 => [(0, 8, half true d.time.sec)]
  | 0x40030 => [(0, 9, d.freeEntries 0), (16, 9, d.freeEntries 1)]
  | 0x50000 => [(1, 1, bit d.fuses.leadSel)]
  | _ => []

/-- START_DONE. -/
def Dev.startDone (d : Dev) : Bool := d.on K.DEV_START_STATUS_START_DONE

/-- Live fields of PWR and CLK (R458, R466, R476, R480); PWR_SITE_AVAIL and PWR_FIXED are 0 until START_DONE (DESIGN
CHOICE, log 62). -/
def Dev.livePwr (d : Dev) (a : Nat) : Live :=
  if 0x60040 ≤ a ∧ a < 0x60050 then
    let n := (a - 0x60040) / 4
    let unknown := d.powerInUse n && (d.unknownWait n || d.nextEvent n == none)
    [(3, 3, if d.powerInUse n then d.chosenState n else 0), (12, 1, bit unknown)]
  else match a with
  | 0x60000 => [(4, 1, bit (d.startDone && decide (d.availNow < d.sitePower)))]
  | 0x60018 => [(0, 12, if d.startDone then d.availNow else 0)]
  | 0x6001C => if d.startDone then [(0, 12, fixedPower d.variant), (16, 12, d.fabPower)] else []
  | 0x70004 => [(0, 16, if d.on K.CLK_STATUS_REF_OK then (2 ^ 16 + d.freeIn a 4001 - 2000) % 2 ^ 16 else 0)]
  | _ => []

/-- A mask of the pins that satisfy `p`. -/
def pinMask (p : Nat → Bool) : Nat := ((List.range 64).filter p).foldl setBitAt 0

/-- Live fields of GPI: the pins' own levels come from the board (R505, R510, R513). -/
def Dev.liveGpi (d : Dev) (a : Nat) : Live :=
  if 0x80180 ≤ a ∧ a < 0x80200 then
    let p := (a - 0x80180) / 32
    match a % 32 with
    | 4 => [(0, 7, (d.spRx p).length), (8, 7, (d.spTx p).length), (15, 1, bit (d.spTx p != [])),
        (18, 1, bit (d.portOwned p))]
    | 12 => match d.spRx p with
      | [] => [(0, 8, 0), (8, 1, 1)]
      | b :: _ => [(0, 8, b.toNat), (8, 1, 0)]
    | _ => []
  else match a with
  | 0x80004 => whole (d.freeIn 0x80004 (2 ^ 32))
  | 0x80008 => whole (d.freeIn 0x80008 (2 ^ 32))
  | 0x80040 => whole (half false (pinMask d.pinOwned))
  | 0x80044 => whole (half true (pinMask d.pinOwned))
  | _ => []

/-- HEAD equals TAIL in the channel's ring (R512). -/
def Dev.dmaIdle (d : Dev) (c : Nat) : Bool :=
  let n := 2 ^ d.get (K.HST_DMA_SIZE c)
  d.get (K.HST_DMA_HEAD c) % n == d.get (K.HST_DMA_TAIL c) % n

/-- Live fields of HST, DBG, INJ, EVL (R501, R512, R515, R549, R562, R565). -/
def Dev.liveHst (d : Dev) (a : Nat) : Live :=
  if 0x91000 ≤ a ∧ a < 0x91400 ∧ a % 64 = 0x18 then [(0, 1, bit (d.dmaIdle ((a - 0x91000) / 64)))]
  else if 0xC0100 ≤ a ∧ a < 0xC0180 ∧ a % 32 = 16 then
    [(0, 1, bit (d.get (K.INJ_SLOT_CTRL_STATE ((a - 0xC0100) / 32)) == 1))]
  else match a with
  | 0x90080 => [(0, 6, 0), (6, 1, 1)]
  | 0xA0000 => [(3, 1, bit d.dbgPermit)]
  | 0xC0004 => [(0, 1, bit (d.on K.INJ_CTRL_ENABLE && d.fuses.lifecycle != lcRETIRED))]
  | 0xD0000 =>
    let newest := (tblFind d.evl.regionA ((d.get K.EVL_A_WR + 2 ^ 32 - 1) % 4096)).map fun x => x.body.ty
    [(0, 1, bit d.alarm), (1, 1, bit (d.evl.hold != [] || d.evl.holdSlots != [])),
      (2, 1, bit (d.get K.EVL_A_WR != d.get K.EVL_A_RD && newest == some 0x01A))]
  | 0xD0048 => [(0, 9, d.evl.hold.length)]
  | _ => []

/-- Live fields of BAS, PTU, NoP and RPS (R306, R333, R345, R355, R366, R381). -/
def Dev.liveBas (d : Dev) (a : Nat) : Live :=
  if 0x101400 ≤ a ∧ a < 0x101440 then
    let l := tblGet [] d.ptu.tlb ((a - 0x101400) / 4)
    [(0, 9, l.length), (16, 9, (l.filter fun t => t.pins != []).length)]
  else match a with
  | 0x100030 => whole (d.freeIn a (2 ^ 32))
  | 0x100034 => if d.hbmPresent 1 then whole (d.freeIn a (2 ^ 32)) else []
  | 0x102020 => whole (tblGet 0 d.fuses.id0 4)
  | 0x102024 => [(0, 24, tblGet 0 d.fuses.id1 4)]
  | 0x180000 => [(0, 1, bit d.variant.hasRps)]
  | 0x18000C => [(0, 13, 4096 - (d.rps.ctx.map fun p => d.get (K.RPSE_CELLS p.1)).sum)]
  | 0x180010 => [(0, 7, d.rps.queue.length), (8, 4, d.rps.busy.length)]
  | _ => []

/-- A mask of the event inputs of core `q` whose counters are not zero (R154). -/
def Dev.eviNonzero (d : Dev) (q : Nat) : Nat :=
  ((List.range 16).filter fun i => d.get (K.SEQ_EVI_CNT_CNT (q / 16) (q % 16) i) != 0).foldl setBitAt 0

/-- Live fields of a SEQ window at offset `o` (R127, R134, R154). -/
def Dev.liveSeq (d : Dev) (q o : Nat) : Live :=
  let c := d.core q
  match o with
  | 0x08 => whole (half false c.pc)
  | 0x0C => [(0, 16, half true c.pc)]
  | 0x10 => whole (half false c.v.vpc)
  | 0x14 => [(0, 16, half true c.v.vpc)]
  | 0x20 => [(0, 14, c.v.lead), (16, 12, c.v.viq.length)]
  | 0x70 => [(16, 16, d.eviNonzero q)]
  | 0x100 => [(0, 5, c.v.vpq.length)]
  | _ => []

/-- Some word of a four-word mask is not zero. -/
def Dev.anyWord (d : Dev) (f : Nat → Fld) : Bool := (List.range 4).any fun m => d.on (f m)

/-- Live fields of a channel-die window at offset `o` (R234, R255, R256, R281, R366). -/
def Dev.liveDie (d : Dev) (n o : Nat) : Live :=
  if o < 0x10000 then d.liveSeq (16 * n + o / 0x1000) (o % 0x1000)
  else if 0x20100 ≤ o ∧ o < 0x20180 ∧ o % 8 = 0 then [(4, 1, bit (d.pdBusy n ((o - 0x20100) / 8)))]
  else if 0xA0000 ≤ o ∧ o < 0xE0000 ∧ o % 32 = 4 then
    [(31, 1, bit (d.tsValid n ((o - 0xA0000) / 2048) (o % 2048 / 32)))]
  else match o with
  | 0x30000 => [(0, 1, bit (d.anyWord (K.PED_PARKED n))), (1, 1, bit (d.anyWord (K.PED_CONFLICT n)))]
  | 0x40000 =>
    let pend := (List.range 4).any fun m => d.get (K.CMP_MASK n m) != d.get (K.CMP_MASK_ACT n m)
    [(0, 1, bit pend), (1, 1, bit (d.anyWord (K.CMP_RAW n)))]
  | 0x40100 => [(2, 1, bit (d.stageLevel n != 0))]
  | 0x40120 => whole (half false (siteMask fun s => d.on (K.SFT_ANY_FAIL n s)))
  | 0x40124 => whole (half true (siteMask fun s => d.on (K.SFT_ANY_FAIL n s)))
  | 0x40128 =>
    let l := d.dieHolders n 64
    [(0, 12, (l.map fun s => d.get (K.SFT_RATE n s)).sum), (16, 8, (l.map fun s => d.get (K.SFT_STAGE n s)).sum)]
  | 0x60008 => whole (tblGet 0 d.fuses.id0 n)
  | 0x6000C => [(0, 24, tblGet 0 d.fuses.id1 n)]
  | _ => []

/-- Live fields of the register at byte address `a`. -/
def Dev.live (d : Dev) (a : Nat) : Live :=
  if 0x400000 ≤ a then d.liveDie ((a - 0x400000) / 0x100000) ((a - 0x400000) % 0x100000)
  else match a / 0x10000 with
  | 0 => d.liveDev a
  | 1 => d.liveSnt a
  | 4 => d.liveTim a
  | 5 => d.liveTim a
  | 6 => d.livePwr a
  | 7 => d.livePwr a
  | 8 => d.liveGpi a
  | 9 => d.liveHst a
  | 0xA => d.liveHst a
  | 0xC => d.liveHst a
  | 0xD => d.liveHst a
  | 0x10 => d.liveBas a
  | 0x18 => d.liveBas a
  | _ => []

/-- A word with live fields put over its stored bits. -/
def overlay (w : Nat) (l : Live) : Nat :=
  l.foldl (fun w x => w - bitsAt w x.1 x.2.1 * 2 ^ x.1 + x.2.2 % 2 ^ x.2.1 * 2 ^ x.1) w

/-- A field can be read: it is not write-only. -/
def FieldDesc.shown (f : FieldDesc) : Bool := f.acc != .wo

/-- The present word of the register at `a`: live fields over stored ones; write-only fields, reserved bits, addresses
that name no register and absent units read zero (R14, R569, R570). -/
def Dev.regWord (d : Dev) (a : Nat) : Nat :=
  if d.regAbsent a then 0
  else match findReg a with
  | none => 0
  | some (r, _) =>
    let l := r.fields.filter FieldDesc.shown
    overlay ((l.map fun f => d.get ⟨keyAt a f.lo, f.width, f.rst⟩ * 2 ^ f.lo).sum) (d.live a)

end Sys2Proof.Machine
end

