-- ==== Sys2Proof/Machine/RegBus.lean ====
section
/-! DEFINITION. Reaching a register: holes, the virtual functions' grants, links that are DOWN, the debug master's
permission; reads with their snapshots and side effects (R104, R105, R274, R371, R498, R499, R515, R569 to R572). -/

namespace Sys2Proof.Machine

/-! ## Reaching an address -/

/-- The unmapped ranges of the register space (R567). -/
def regHole (a : Nat) : Bool := (decide (0x200000 ≤ a) && decide (a < 0x400000)) || decide (0x800000 ≤ a)

/-- An access reached an unmapped address (R569). -/
def Dev.unmapped (d : Dev) : Dev := d.put K.DEV_REG_STATUS_UNMAPPED true

/-- The bit of HST_VF_BLK that grants the block at a register address (R513). -/
def vfBlock (a : Nat) : Nat :=
  if a < 0x190000 then a / 0x10000 else if 0x400000 ≤ a ∧ a < 0x800000 then 28 + (a - 0x400000) / 0x100000 else 32

/-- A virtual function's access is refused: VF_REFUSED and its record (R499). -/
def Dev.vfRefused (d : Dev) (v a : Nat) : Dev :=
  (d.put K.HST_STATUS_VF_REFUSED true).logB 0x11D blkHST (v + a / 256 * 256)

/-- The die beyond which an address lies: none the hub, 4 the base die, else a channel die (R566, R567). -/
def sideOf (a : Nat) : Option Nat :=
  if a < 0x100000 then none
  else if a < 0x200000 then if 0x102000 ≤ a ∧ a < 0x103000 then none else some 4
  else if 0x400000 ≤ a ∧ a < 0x800000 then some ((a - 0x400000) / 0x100000)
  else match regionOf a with
    | .user n => some n
    | .flash => none
    | .reg => none
    | .unmapped => none
    | _ => some 4

/-- The base die's hub link is UP. -/
def Dev.bdUp (d : Dev) : Bool := d.on K.NOP_STATUS_BD_UP

/-- The wide link of CD `n` is UP. -/
def Dev.cdUp (d : Dev) (n : Nat) : Bool := d.bitOf K.NOP_STATUS_CD_UP n

/-- The links between a master and a die are UP: a core reaches its own die's registers without a link, the base die over
its wide link and the hub over both; every other master stands at the hub (R371). -/
def Dev.reaches (d : Dev) (m : Master) (side : Option Nat) : Bool :=
  match m, side with
  | .core q, none => d.cdUp (q / 16) && d.bdUp
  | .core q, some n => if n = 4 then d.cdUp (q / 16) else n == q / 16 || (d.cdUp (q / 16) && d.cdUp n)
  | _, none => true
  | _, some n => d.bdUp && (n == 4 || d.cdUp n)

/-- A register of a resource that a BIST slice isolates: a core's window, or a channel's table entry and timing sets
(R538). -/
def Dev.regIsolated (d : Dev) (a : Nat) : Bool :=
  if 0x400000 ≤ a ∧ a < 0x800000 then
    let n := (a - 0x400000) / 0x100000
    let o := (a - 0x400000) % 0x100000
    if o < 0x10000 then d.coreIsolated (16 * n + o / 0x1000)
    else if 0x90000 ≤ o ∧ o < 0x91000 then d.groupIsolated n ((o - 0x90000) / 32 / 32)
    else if 0xA0000 ≤ o ∧ o < 0xE0000 then d.groupIsolated n ((o - 0xA0000) / 2048 / 32)
    else false
  else false

/-- The register reads zero and ignores writes (R7, R538, R569). -/
def Dev.regDark (d : Dev) (a : Nat) : Bool := d.regAbsent a || d.regIsolated a

/-- The debug master may make the access (R515). -/
def Dev.dbgMay (d : Dev) (write : Bool) : Bool := if write then d.dbgPermit else d.fuses.lifecycle != lcRETIRED

/-- A request of the debug master that its lifecycle forbids: LOCKED in DBG_CMD_RESULT (R515; log 69). -/
def Dev.dbgLocked (d : Dev) : Dev := d.set K.DBG_CMD_RESULT_RESULT 4

/-- The virtual function behind a master. -/
def vfOf : Master → Option Nat
  | .vf0 => some 0
  | .vf1 => some 1
  | _ => none

/-- The hub lets the master's 32-bit access through to the register at `a`: a register that is not aligned to 4 bytes
takes no access (R168); the answer tells whether it is made, with what a refusal sets (R371, R373, R499, R515, R569). -/
def Dev.regReach (d : Dev) (m : Master) (a : Nat) (write : Bool) : Dev × Bool :=
  if d.inReset || a % 4 != 0 then (d, false)
  else if m == .dbg && !d.dbgMay write then (d.dbgLocked, false)
  else if m == .guest && d.fwlJudge write a 4 != .allow then (d.fwlViolation write a (d.fwlJudge write a 4), false)
  else if regHole a then (d.unmapped, false)
  else match vfOf m with
    | some v =>
      if !bitAt (d.get (K.HST_VF_BLK v)) (vfBlock a) then (d.vfRefused v a, false)
      else if d.regDark a || d.reaches m (sideOf a) then (d, true) else (d.put K.NOP_STATUS_ACC_REFUSED true, false)
    | none => if d.regDark a || d.reaches m (sideOf a) then (d, true) else (d.put K.NOP_STATUS_ACC_REFUSED true, false)

/-- What a refused access does to its master: the hub controller and a core take BUS_ERROR (R145, R569); the others are
answered. -/
def Dev.refusedTo (d : Dev) (m : Master) : Dev :=
  match m with
  | .hubc => d.ctlFaultPlain 64 fcBUS
  | .core q => d.ctlFaultPlain q fcBUS
  | _ => d

/-! ## Slow-domain copies (R571) -/

/-- The registers of Table 4 (R571). -/
def slowReg (a : Nat) : Bool :=
  a == 0x54 || a == 0x3001C || a == 0x30020 || a == 0x30024 || (decide (0x30040 ≤ a) && decide (a < 0x30060))
    || a == 0x60028 || a == 0x60034 || (decide (0x60060 ≤ a) && decide (a < 0x6007C))
    || (decide (0x60080 ≤ a) && decide (a < 0x600B4))

/-- The registers of Table 4, each once. -/
def slowRegs : List Nat :=
  [0x54, 0x3001C, 0x30020, 0x30024] ++ (List.range 8).map (fun i => 0x30040 + 4 * i) ++ [0x60028, 0x60034]
    ++ (List.range 7).map (fun i => 0x60060 + 4 * i) ++ (List.range 13).map fun i => 0x60080 + 4 * i

/-- The reset values of the fields that the register at `a` shows, as one word. -/
def resetWord (a : Nat) : Nat :=
  match findReg a with
  | none => 0
  | some (r, _) => ((r.fields.filter FieldDesc.shown).map fun f => f.rst * 2 ^ f.lo).sum

/-- The copy of a slow-domain register, refreshed at the last OSC40K edge (R571). -/
def Dev.slowCopy (d : Dev) (a : Nat) : Nat := if d.regDark a then 0 else tblGet (resetWord a) d.slowCp a

/-! ## Snapshots (R104, R105, R274, R572) -/

/-- The master keeps a snapshot set: the hub controller, the PCIe functions and the debug master, and CFGP with the
physical function's; cores and the guest keep none (R104, R572). -/
def keepsSnaps : Master → Bool
  | .core _ => false
  | .guest => false
  | _ => true

/-- Bits of the RS fields of the register at `a`; BAS_UE_ADDR_HI is latched as one (R355). -/
def rsMask (a : Nat) : Nat :=
  if a = 0x100024 then 0xFFFF
  else match findReg a with
  | none => 0
  | some (r, _) => ((r.fields.filter fun f => f.acc == .rs).map fun f => (2 ^ f.width - 1) * 2 ^ f.lo).sum

/-- Key of a master's snapshot of the register at `a`. -/
def snapKey (m : Master) (a : Nat) : Nat := 2 ^ 24 * masterIx m + a

/-- The bits of a word that a mask selects replaced by those of another. -/
def mixBits (w mask v : Nat) : Nat := w - (w &&& mask) + (v &&& mask)

/-- A read of an ordinary register: its word, with the RS fields from the master's snapshot, and the RS fields of the
next register latched from the same tick (R104, R274, R572). -/
def Dev.snapRead (d : Dev) (m : Master) (a : Nat) : Dev × Nat :=
  let w := d.regWord a
  if !keepsSnaps m then (d, w)
  else
    let k := rsMask a
    let w := if k = 0 then w else mixBits w k (tblGet 0 d.snaps (snapKey m a))
    let k' := rsMask (a + 4)
    let d := if k' = 0 then d else { d with snaps := tblPut d.snaps (snapKey m (a + 4)) (d.regWord (a + 4) &&& k') }
    (d, w)

/-- The time-of-day snapshot of a master. -/
def Dev.todOf (d : Dev) (m : Master) : Tod := tblGet {} d.time.tod (masterIx m)

/-- The time-of-day snapshot of a master replaced. -/
def Dev.setTod (d : Dev) (m : Master) (t : Tod) : Dev := d.modTime fun u => { u with tod := tblPut u.tod (masterIx m) t }

/-- A read of TIM_TICK (R105). -/
def Dev.tickRead (d : Dev) (m : Master) : Dev × Nat :=
  let t := d.todOf m
  if t.armed = 2 then (d.setTod m { t with armed := 0 }, t.tick)
  else (d.setTod m { t with armed := 1, sec := d.time.sec }, d.time.tick)

/-- A read of TIM_SEC_LO (R105). -/
def Dev.secLoRead (d : Dev) (m : Master) : Dev × Nat :=
  let t := d.todOf m
  if t.armed = 1 then (d, half false t.sec)
  else (d.setTod m { armed := 2, sec := d.time.sec, tick := d.time.tick }, half false d.time.sec)

/-- A read of TIM_SEC_HI (R105). -/
def Dev.secHiRead (d : Dev) (m : Master) : Dev × Nat :=
  let t := d.todOf m
  (if t.armed = 1 then d.setTod m { t with armed := 0 } else d, half true t.sec % 256)

/-! ## Reads -/

/-- Registers whose contents the spec leaves to the board: each read is another use of the free values (log 1). -/
def freeReg (a : Nat) : Bool := a == 0x70004 || a == 0x80004 || a == 0x80008 || a == 0x100030 || a == 0x100034

/-- A read that the hub let through: the word, and what the read does (R93, R105, R513, R571). -/
def Dev.readWord (d : Dev) (m : Master) (a : Nat) : Dev × Nat :=
  if d.regDark a then (d, 0)
  else if slowReg a then (d, d.slowCopy a)
  else if keepsSnaps m && a == 0x40010 then d.tickRead m
  else if keepsSnaps m && a == 0x40014 then d.secLoRead m
  else if keepsSnaps m && a == 0x40018 then d.secHiRead m
  else
    let (d, w) := d.snapRead m a
    let d := if freeReg a then d.flashDone else d
    let d := if a = 0x10034 then d.mboxRead else d
    let d := if 0x80180 ≤ a ∧ a < 0x80200 ∧ a % 32 = 12 then (d.rxRead ((a - 0x80180) / 32)).1 else d
    (d, w)

/-- A 32-bit register read: `none` when it is refused. -/
def Dev.busRead (d : Dev) (m : Master) (a : Nat) : Dev × Option Nat :=
  match d.regReach m a false with
  | (d, false) => (d, none)
  | (d, true) => let (d, w) := d.readWord m a
                 (d, some w)

/-- A register read as a command: refused reads answer all ones (R498, R569). -/
def State.busRead (s : State) (m : Master) (a : Nat) : State :=
  match s.dev.busRead m a with
  | (d, some w) => { s with dev := d, answer := some w }
  | (d, none) => { s with dev := d.refusedTo m, answer := some (2 ^ 32 - 1) }

end Sys2Proof.Machine
end

