-- ==== Sys2Proof/Machine/RegWrite.lean ====
section
/-! DEFINITION. Writes of register fields: access codes, lock bits, values that a field ignores, and what a write of each
register does beyond its fields (R14, R15, R274, R275, R570, R573, R574 and the register's own rule). -/

namespace Sys2Proof.Machine

/-! ## Values that a field does not take (R570) -/

/-- Bits of HST_VF_BLK that grant a block: the never-grantable blocks of R499 and numbers without a block read zero. -/
def grantable : Nat := 0xF1FF20F1

/-- The value that the field at bit `lo` of the register at `a` takes when `v` is written: `none` when the write of it is
ignored (R570 and the register's field table). -/
def Dev.fieldTake (d : Dev) (a lo v : Nat) : Option Nat :=
  let only (b : Bool) : Option Nat := if b then some v else none
  if a = 0x40 ∧ lo = 4 then some (v &&& d.variant.cdMask)
  else if a = 0x20038 then some (v % 2 ^ 31)
  else if a = 0x40004 ∧ lo = 0 then only (v != 3)
  else if a = 0x5000C then only (decide (1 ≤ v) && decide (v ≤ 200))
  else if a = 0x60008 then only (decide (500 ≤ v) && decide (v ≤ 100000))
  else if a = 0x60020 ∧ lo = 8 then only (decide (v ≤ 115))
  else if a = 0x90010 ∨ a = 0x90014 then some (v &&& grantable)
  else if a = 0xB0004 ∧ lo = 16 then only (decide (20 ≤ v) && decide (v ≤ 2000))
  else if 0x91000 ≤ a ∧ a < 0x91400 ∧ a % 64 = 8 then only (decide (4 ≤ v) && decide (v ≤ 16))
  else if 0x91000 ≤ a ∧ a < 0x91400 ∧ a % 64 = 20 ∧ lo = 1 then only (!d.on (K.HST_DMA_CTRL_EN ((a - 0x91000) / 64)))
  else if 0x181000 ≤ a ∧ a < 0x182000 ∧ a % 64 = 4 then some (v / 64 * 64)
  else if 0x181000 ≤ a ∧ a < 0x182000 ∧ a % 64 = 12 then some (v / 4096 * 4096)
  else if 0x400000 ≤ a then
    let o := (a - 0x400000) % 0x100000
    if (o = 0x50100 ∨ o = 0x50140) ∧ lo = 0 then only (decide (2000 ≤ v) && decide (v ≤ 8000))
    else if 0x20104 ≤ o ∧ o < 0x20180 ∧ o % 8 = 4 then only (decide (500 ≤ v))
    else if 0xE1000 ≤ o ∧ o < 0xE2000 ∧ o % 64 = 4 then some (v / 65536 * 65536)
    else some v
  else some v

/-! ## Plain writes (R14, R573, R574) -/

/-- A write to a locked field was ignored (R573). -/
def Dev.lockedWr (d : Dev) : Dev := d.put K.DEV_REG_STATUS_LOCKED_WR true

/-- The bit offset of the instance that the first `n` of a register's instance numbers select. -/
def lockOffset : Nat → List (Nat × Nat) → List Nat → Nat
  | 0, _, _ => 0
  | n + 1, (_, stride) :: ds, i :: is => 8 * (i * stride) + lockOffset n ds is
  | _, _, _ => 0

/-- The lock bit over a register's RWL fields is set (R573). -/
def Dev.regLocked (d : Dev) (r : RegDesc) (is : List Nat) : Bool :=
  match r.lock with
  | none => false
  | some (key, n) => d.on ⟨key + lockOffset n r.dims is, 1, 0⟩

/-- One field of the register at `a` under a write of `w`: `d` the device before the write, `x` as the fields before this
one have left it (R14, R573, R574). -/
def Dev.fieldWrite (d : Dev) (a w : Nat) (locked : Bool) (x : Dev) (f : FieldDesc) : Dev :=
  let k : Fld := ⟨keyAt a f.lo, f.width, f.rst⟩
  let v := bitsAt w f.lo f.width
  let take : Dev := match d.fieldTake a f.lo v with
    | some v => x.set k v
    | none => x
  match f.acc with
  | .rw => take
  | .rwl =>
    if !locked then take
    else if take.get k = x.get k then x
    else x.lockedWr
  | .lck => if v = 0 then x else x.set k 1
  | .w1c => x.set k (x.get k - (x.get k &&& v))
  | _ => x

/-- The HI bits of the counter whose LO word is at `a` become zero: a write of LO loads the count zero-extended (R274). -/
def Dev.hiClear (d : Dev) (a : Nat) : Dev :=
  match findReg (a + 4) with
  | none => d
  | some (r, _) => d.each (r.fields.filter fun f => f.acc == .rs) fun d f => d.set ⟨keyAt (a + 4) f.lo, f.width, f.rst⟩ 0

/-- The fields of the register at `a` under a write of `w`. -/
def Dev.plainWrite (d : Dev) (a w : Nat) : Dev :=
  match findReg a with
  | none => d
  | some (r, is) =>
    let x := d.each r.fields (d.fieldWrite a w (d.regLocked r is))
    if r.fields.any (fun f => f.acc == .rw) && rsMask (a + 4) != 0 && a != 0x100020 then x.hiClear a else x

/-- A write is ignored, with the note `f`, while `c` holds. -/
def Dev.guarded (d : Dev) (c : Bool) (f : Fld) (g : Dev → Dev) : Dev := if c then d.put f true else g d

/-! ## Watermarks (R275) -/

/-- A write of WM_HIT: a one clears it against the present level. -/
def Dev.wmClear (d : Dev) (one : Bool) (level : Nat) (mark peak hit : Fld) : Dev :=
  if one then d.levelClear level mark peak hit else d

/-- The level that SEQ_LEAD_WM watches: the shortfall, in RUN and STOPPING alone (R154). -/
def Dev.shortfall (d : Dev) (q : Nat) : Nat :=
  if d.coreState q = csRUN ∨ d.coreState q = csSTOPPING then d.leadTarget q - (d.core q).v.lead else 0

/-! ## The hub's registers -/

/-- A SITE_START of site `s` is ARMED in the hub table (R328). -/
def Dev.startArmed (d : Dev) (s : Nat) : Bool :=
  (List.range 256).any fun e =>
    d.schedState 0 e == seARMED && d.get (K.SCHED_ACTION 0 e) == acSITE_START && d.get (K.SCHED_TARGET 0 e) == s

/-- A write of a site entry: words 0 to 6 only while the site is Idle with ADM_BUSY clear, CORES only without an ARMED
SITE_START (R328). -/
def Dev.siteEntryWrite (d : Dev) (a w : Nat) : Dev :=
  let s := (a - 0x1000) / 64
  let k := a % 64 / 4
  let frozen := k < 7 && (!d.siteIn s [stIdle] || d.on (K.SITE_ADM_BUSY s) || (k < 2 && d.startArmed s))
  d.guarded frozen K.DEV_SITE_STATUS_WR_REFUSED fun d => d.plainWrite a w

/-- A write of a schedule entry's words 0, 1 and 3: ignored while it is ARMED or LINKED (R110). -/
def Dev.schedWordWrite (d : Dev) (a w : Nat) : Dev :=
  let t := (a - 0x41000) / 4096
  if d.schedFree t (a % 4096 / 16) then d.plainWrite a w else d

/-- A write of a register of blocks DEV, SNT, FLC and CFG (R37, R63, R73, R75, R88, R93, R397, R401, R402, R431). -/
def Dev.devWrite (d : Dev) (m : Master) (a w : Nat) : Dev :=
  if 0x1000 ≤ a ∧ a < 0x2000 then d.siteEntryWrite a w
  else if 0x30080 ≤ a ∧ a < 0x30090 then
    if bitAt w 6 then d.releaseWrite ((a - 0x30080) / 4) else d
  else if 0x38000 ≤ a ∧ a < 0x40000 then d.portWrite m (leBytes w 4)
  else match a with
  | 0x40 =>
    let d := d.plainWrite a w
    if bitAt w 0 then d.startWrite else d
  | 0x50 => d.resetWrite w
  | 0x1000C => d.swapWrite w
  | 0x10018 => d.forceWrite (w % 2 ^ 16)
  | 0x1001C =>
    if !d.on K.SNT_LOCK_POLICY_LOCK then d.policyWrite (w % 2 ^ 16)
    else if d.get K.SNT_POLICY_RELEASE_EN = (w % 2 ^ 16 &&& d.groupMask) then d
    else d.lockedWr
  | 0x10030 => d.mboxWrite w
  | 0x20004 => d.flashWrite m w
  | 0x30004 =>
    let d := d.plainWrite a w
    if bitAt w 0 then d.streamAbort else d
  | _ => d.plainWrite a w

/-- A write of a register of blocks TIM, CAS, PWR and CLK (R98, R106, R107, R110, R275, R463, R476, R482, R489). -/
def Dev.timWrite (d : Dev) (a w : Nat) : Dev :=
  if 0x41000 ≤ a ∧ a < 0x47000 then d.schedWordWrite a w
  else match a with
  | 0x40004 =>
    let d := d.plainWrite a w
    if bitAt w 2 then d.acquireWrite else d
  | 0x4001C => (d.plainWrite a w).stageWrite
  | 0x40020 => (d.plainWrite a w).stageWrite
  | 0x40024 => if bitAt w 0 then d.goWrite else d
  | 0x50004 => if d.on K.CAS_CTRL_CAS_LOCK then d.plainWrite a w else d.roleWrite w
  | 0x50020 => if bitsAt w 24 8 = 0x96 then d.casCmd (w % 8) else d
  | 0x6000C => if d.on K.PWR_LOCK_CAP_LOCK then d.plainWrite a w else d.capWrite false (w % 2 ^ 12)
  | 0x60010 => if d.on K.PWR_LOCK_CAP_LOCK then d.plainWrite a w else d.capWrite true (w % 2 ^ 12)
  | 0x6002C =>
    (d.set K.PWR_PKG_WM_MARK (w % 2 ^ 12)).wmClear (bitAt w 31) (average d.power.pkg) K.PWR_PKG_WM_MARK K.PWR_PKG_WM_WM_PEAK
      K.PWR_PKG_WM_WM_HIT
  | 0x60030 => if bitAt w 9 then d.tripClear else d
  | _ => d.plainWrite a w

/-- A write of a register of a serial port: ignored while the Instant Fabric claims it (R510). -/
def Dev.portRegWrite (d : Dev) (a w : Nat) : Dev :=
  let p := (a - 0x80180) / 32
  if d.portOwned p then d
  else if a % 32 = 8 then d.txWrite p w
  else d.plainWrite a w

/-- A write of a register of a DMA channel (R502, R504, R512). -/
def Dev.dmaRegWrite (d : Dev) (a w : Nat) : Dev :=
  let c := (a - 0x91000) / 64
  match a % 64 with
  | 20 =>
    let d := d.plainWrite a w
    if bitAt w 3 then d.dmaAbort c else d
  | 24 => if bitAt w 1 then d.dmaResume c else d
  | _ => d.plainWrite a w

/-- A write of a register of blocks GPI and HST (R501, R504, R506, R508, R510). -/
def Dev.hostWrite (d : Dev) (a w : Nat) : Dev :=
  if 0x80010 ≤ a ∧ a < 0x80020 then d.gpiWrite (K.GPI_OUT ((a - 0x80010) / 4)) ((a - 0x80010) / 4) w
  else if 0x80020 ≤ a ∧ a < 0x80030 then d.gpiWrite (K.GPI_OE ((a - 0x80020) / 4)) ((a - 0x80020) / 4) w
  else if 0x80080 ≤ a ∧ a < 0x80180 then (d.plainWrite a w).pmRestart ((a - 0x80080) / 32)
  else if 0x80180 ≤ a ∧ a < 0x80200 then d.portRegWrite a w
  else if 0x90080 ≤ a ∧ a < 0x90100 then d.irqMapWrite ((a - 0x90080) / 4) w
  else if a = 0x90100 then (d.plainWrite a w).pbaRefresh
  else if 0x91000 ≤ a ∧ a < 0x91400 then d.dmaRegWrite a w
  else d.plainWrite a w

/-- A write of INJ_SEL, INJ_ARG and INJ_CNT, ignored while the slot is ARMED, and of INJ_SLOT_CTRL (R549). -/
def Dev.injWrite (d : Dev) (a w : Nat) : Dev :=
  let i := (a - 0xC0100) / 32
  if a % 32 = 16 then d.injCtrl i w
  else if d.get (K.INJ_SLOT_CTRL_STATE i) = 1 then d
  else d.plainWrite a w

/-- RGP_CTRL.OPEN: a commit window opens; under RGP_LOCK the request is ignored with LOCKED_WR (R578). -/
def Dev.rgpOpen (d : Dev) : Dev :=
  if d.on K.RGP_CTRL_RGP_LOCK then d.lockedWr
  else (d.put K.RGP_STATUS_OPEN true).put K.RGP_CTRL_OPEN true

/-- A write of RGP_COMMIT: with its key the result of the next pass to begin is asked for; under RGP_LOCK it is ignored
with LOCKED_WR (R578). -/
def Dev.rgpCommit (d : Dev) (w : Nat) : Dev :=
  if bitsAt w 24 8 ≠ 0x6B ∨ !bitAt w 0 then d
  else if d.on K.RGP_CTRL_RGP_LOCK then d.lockedWr
  else { d with rgp := { d.rgp with commit := 1 } }.put K.RGP_STATUS_COMMIT_BUSY true

/-- A write of RGP_CTRL: its fields against the lock as it was, and OPEN (R574, R578). -/
def Dev.rgpCtrl (d : Dev) (w : Nat) : Dev :=
  let x := if bitAt w 0 then d.rgpOpen else d
  let x := if d.on K.RGP_CTRL_RGP_LOCK then
      if d.on K.RGP_CTRL_SAFE_EN = bitAt w 1 then x else x.lockedWr
    else x.put K.RGP_CTRL_SAFE_EN (bitAt w 1)
  if bitAt w 31 then x.put K.RGP_CTRL_RGP_LOCK true else x

/-- A write of FWL_CTRL: its fields, and ISOLATE (R377, R382). -/
def Dev.fwlCtrl (d : Dev) (w : Nat) : Dev := (d.plainWrite 0xF0004 w).isolateWrite (bitAt w 0)

/-- A write of a register of blocks DBG, BST, INJ, EVL, RGP and FWL (R522, R529, R539, R544, R558, R562, R578, R382). -/
def Dev.dbgWrite (d : Dev) (a w : Nat) : Dev :=
  if 0xC0100 ≤ a ∧ a < 0xC0180 then d.injWrite a w
  else match a with
  | 0xA0008 => d.dbgCmd (w % 8) (bitsAt w 3 7)
  | 0xA0030 => d.stateAccess (w % 128) (bitAt w 7) (bitsAt w 8 8)
  | 0xB0008 => d.bistCmd w
  | 0xD000C => d.rdWrite 0 w
  | 0xD0014 => d.rdWrite 1 w
  | 0xD001C => d.rdWrite 2 w
  | 0xD0024 => (d.plainWrite a w).ringSeen 1
  | 0xD002C => (d.plainWrite a w).ringSeen 2
  | 0xD0028 => d.wmClear (bitAt w 31) (d.evlLevel 1) K.EVL_B_WM_MARK K.EVL_B_PEAK_WM_PEAK K.EVL_B_PEAK_WM_HIT
  | 0xD0030 => d.wmClear (bitAt w 31) (d.evlLevel 2) K.EVL_C_WM_MARK K.EVL_C_PEAK_WM_PEAK K.EVL_C_PEAK_WM_HIT
  | 0xE0004 => d.rgpCtrl w
  | 0xE0008 => d.rgpCommit w
  | 0xF0000 =>
    let d := d.plainWrite a w
    if bitAt w 1 then d.violClear else d
  | 0xF0004 => d.fwlCtrl w
  | _ => d.plainWrite a w

/-! ## The base die's registers -/

/-- A write of a site's solver entry: words 0 to 6 and 11 not while the site is active or its context QUEUED or SOLVING
(R306). -/
def Dev.rpsEntryWrite (d : Dev) (a w : Nat) : Dev :=
  let s := (a - 0x181000) / 64
  let k := a % 64 / 4
  let st := d.get (K.RPSE_STATE s)
  let frozen := (k < 7 || k == 11) && (d.siteIn s stActive || st == rsQUEUED || st == rsSOLVING)
  d.guarded frozen K.RPS_STATUS_WR_REFUSED fun d =>
    match k with
    | 10 => d.wmClear (bitAt w 31) (d.get (K.RPSE_CELLS_USED s)) (K.RPSE_MARK s) (K.RPSE_WM_PEAK s) (K.RPSE_WM_HIT s)
    | 11 => (d.plainWrite a w).usedSet s (d.get (K.RPSE_CELLS_USED s))
    | _ => d.plainWrite a w

/-- A write of NOP_CTRL: its fields, HUB_RECOVER and CD_RECOVER (R370). -/
def Dev.nopCtrl (d : Dev) (w : Nat) : Dev :=
  let d := d.plainWrite 0x102004 w
  let d := if bitAt w 1 then d.recoverWrite 4 else d
  d.each (List.range 4) fun d n => if bitAt w (2 + n) then d.recoverWrite n else d

/-- A write of a register of blocks BAS and RPS (R275, R304, R306, R352, R353, R370). -/
def Dev.basWrite (d : Dev) (a w : Nat) : Dev :=
  if 0x101100 ≤ a ∧ a < 0x101300 then d.rootWrite ((a - 0x101100) / 8) (a % 8 == 4) w
  else if 0x180030 ≤ a ∧ a < 0x180040 then (d.plainWrite a w).intakeSeen ((a - 0x180030) / 4)
  else if 0x180040 ≤ a ∧ a < 0x180050 then
    let n := (a - 0x180040) / 4
    d.wmClear (bitAt w 31) (tblGet [] d.rps.intake n).length (K.RPS_INTAKE_WM_MARK n) (K.RPS_INTAKE_PEAK_WM_PEAK n)
      (K.RPS_INTAKE_PEAK_WM_HIT n)
  else if 0x181000 ≤ a ∧ a < 0x182000 then d.rpsEntryWrite a w
  else match a with
  | 0x101004 => d.invWrite w
  | 0x102004 => d.nopCtrl w
  | 0x180004 => d.rpsCommand (w % 16) (bitsAt w 4 6)
  | _ => d.plainWrite a w

/-! ## A channel die's registers -/

/-- A write of SEQ_PC or SEQ_VPC: half `hi` of the address replaced (R154). -/
def putHalf (hi : Bool) (pc w : Nat) : Nat :=
  if hi then pc % 2 ^ 32 + 2 ^ 32 * (w % 2 ^ 16) else pc / 2 ^ 32 * 2 ^ 32 + w % 2 ^ 32

/-- A write of offset `o` of core `q`'s SEQ window; a loaded event counter that is not zero completes a pending WAITE
(R121, R148, R154, R275). -/
def Dev.seqRegWrite (d : Dev) (q o a w : Nat) : Dev :=
  let n := q / 16
  let k := q % 16
  let held (g : Dev → Dev) : Dev := d.guarded (!d.seqWritable q) (K.SEQ_STATUS_WR_REFUSED n k) g
  match o with
  | 0x04 =>
    let d := d.plainWrite a w
    if bitAt w 1 then d.modCore q fun c => { c with icache := false } else d
  | 0x08 => held fun d => d.modCore q fun c => { c with pc := putHalf false c.pc w }
  | 0x0C => held fun d => d.modCore q fun c => { c with pc := putHalf true c.pc w }
  | 0x10 => held fun d => d.modV q fun v => { v with vpc := putHalf false v.vpc w }
  | 0x14 => held fun d => d.modV q fun v => { v with vpc := putHalf true v.vpc w }
  | 0x24 =>
    let d := d.set (K.SEQ_LEAD_WM_MARK n k) (w % 2 ^ 14)
    let d := d.wmClear (bitAt w 30) (d.shortfall q) (K.SEQ_LEAD_WM_MARK n k) (K.SEQ_LEAD_WM_WM_PEAK n k)
      (K.SEQ_LEAD_WM_WM_HIT n k)
    d.leadSeen q
  | 0x28 => held fun d => d.plainWrite a w
  | 0x2C => held fun d => d.plainWrite a w
  | _ =>
    let d := d.plainWrite a w
    if 0x80 ≤ o ∧ o < 0xC0 then d.waiteTake q ((o - 0x80) / 4) else d

/-- A site of the die that is Running, Curtaining or Rocking satisfies `p` (R230, R237). -/
def Dev.playing (d : Dev) (n : Nat) (p : Nat → Bool) : Bool := (d.sitesOnDie n [stRunning, stCurtaining, stRocking]).any p

/-- Die channel `j` belongs to a site that is Running, Curtaining or Rocking (R237). -/
def Dev.chanPlays (d : Dev) (n j : Nat) : Bool := d.playing n fun s => (d.siteChans s).contains (128 * n + j)

/-- A site that is Running, Curtaining or Rocking depends on recovered-strobe unit `r`: one of its channels has a timing
set with CFMT 2 that names it (R241, Table 12; log 64). -/
def Dev.rsuPlays (d : Dev) (n r : Nat) : Bool :=
  (List.range 128).any fun j => d.chanPlays n j && (List.range 64).any fun t =>
    d.get (K.TS_FMT_CFMT n j t) == 2 && d.get (K.TS_FMT_RSU n j t) == r

/-- A write of TGN_PD_CFG: PLL not while the domain runs; then START and STOP (R230; log 65). -/
def Dev.pdCfgWrite (d : Dev) (n pd a w : Nat) : Dev :=
  let stuck := d.on (K.TGN_PD_CFG_RUN n pd) && d.get (K.TGN_PD_CFG_PLL n pd) != w % 2
  let d := if stuck then (d.plainWrite a (w / 2 * 2 + (1 - w % 2))).put (K.TGN_STATUS_WR_REFUSED n) true else d.plainWrite a w
  let d := if bitAt w 2 then d.pdStartWrite n pd else d
  if bitAt w 3 then d.pdStopWrite n pd else d

/-- A write of offset `o` of the TGN block of CD `n` (R230, R237, R246, R255). -/
def Dev.tgnWrite (d : Dev) (n o a w : Nat) : Dev :=
  if 0x100 ≤ o ∧ o < 0x180 then
    let pd := (o - 0x100) / 8
    if o % 8 = 0 then d.pdCfgWrite n pd a w
    else d.guarded (d.on (K.TGN_PD_CFG_RUN n pd)) (K.TGN_STATUS_WR_REFUSED n) fun d => d.plainWrite a w
  else if 0x200 ≤ o ∧ o < 0x300 then
    let r := (o - 0x200) / 16
    match o % 16 with
    | 0 => d.guarded (d.rsuPlays n r) (K.TGN_STATUS_TS_WR_REFUSED n) fun d => d.plainWrite a w
    | 8 =>
      if bitAt w 31 then
        ((d.set (K.TGN_RSU_STAT_MIN n r) 0xFFFF).set (K.TGN_RSU_STAT_MAX n r) 0).set (K.TGN_RSU_MISS n r) 0
      else d
    | _ => d.plainWrite a w
  else if o = 4 then
    let d := d.plainWrite a w
    if bitAt w 1 then d.sweepWrite n else d
  else d.plainWrite a w

/-- A write of offset `o` of the PLL block of CD `n`: RELOCK, ARM of a step, the band tables (R447, R451, R455). -/
def Dev.pllWrite (d : Dev) (n o a w : Nat) : Dev :=
  if o = 4 then
    let d := d.plainWrite a w
    if bitAt w 0 then d.relockWrite n else d
  else if o = 0x11C ∨ o = 0x15C then
    if bitAt w 0 then d.stepArm n ((o - 0x11C) / 64) else d
  else if 0x200 ≤ o ∧ o < 0x400 then
    let p := (o - 0x200) / 256
    let d := d.plainWrite a w
    { d with clk := { d.clk with hostBands := if d.clk.hostBands.contains (2 * n + p) then d.clk.hostBands
                                              else (2 * n + p) :: d.clk.hostBands } }
  else d.plainWrite a w

/-- A write of word `k` of site `s`'s entry of the fail table of CD `n` (R268, R275, R276). -/
def Dev.sftWrite (d : Dev) (n s k a w : Nat) : Dev :=
  let frozen := (k < 6 || k == 8) && d.siteIn s stActive
  d.guarded frozen (K.FLG_STATUS_WR_REFUSED n) fun d =>
    match k with
    | 6 => d.rdPtrWrite n s (w % 2 ^ 32)
    | 8 => (d.plainWrite a w).regionSeen n s
    | 9 => d.wmClear (bitAt w 31) (d.regionLevel n s) (K.SFT_WM_MARK n s) (K.SFT_WM_PEAK n s) (K.SFT_WM_HIT n s)
    | _ => d.plainWrite a w

/-- A write of FAB_PR_CTRL: ABORT of each region (R414). -/
def Dev.prCtrl (d : Dev) (n w : Nat) : Dev := d.each (List.range 8) fun d r => if bitAt w r then d.prAbort n r else d

/-- A write at offset `o` of the window of CD `n` (R568). -/
def Dev.dieWrite (d : Dev) (m : Master) (n o a w : Nat) : Dev :=
  if o < 0x10000 then d.seqRegWrite (16 * n + o / 0x1000) (o % 0x1000) a w
  else match o / 0x10000 with
  | 2 => d.tgnWrite n (o % 0x10000) a w
  | 4 => match o with
    | 0x40108 => (d.plainWrite a w).stageSeen n
    | 0x4010C => d.wmClear (bitAt w 31) (d.stageLevel n) (K.FLG_STAGE_WM_MARK n) (K.FLG_STAGE_PEAK_WM_PEAK n)
        (K.FLG_STAGE_PEAK_WM_HIT n)
    | _ => d.plainWrite a w
  | 5 => d.pllWrite n (o % 0x10000) a w
  | 6 =>
    let d := d.plainWrite a w
    if o = 0x60004 ∧ bitAt w 1 then match m with
      | .core _ => d
      | _ => d.recoverWrite n
    else d
  | 7 => match o with
    | 0x70000 =>
      let d := d.plainWrite a w
      if d.scrubRuns n then d else d.scrubStop n
    | 0x70080 => d.prCtrl n w
    | _ => d.plainWrite a w
  | 9 => d.guarded (d.chanPlays n ((o - 0x90000) / 32)) (K.TGN_STATUS_TS_WR_REFUSED n) fun d => d.plainWrite a w
  | 14 => if o < 0xE1000 then d.plainWrite a w else d.sftWrite n ((o - 0xE1000) / 64) (o % 64 / 4) a w
  | _ =>
    if 0xA0000 ≤ o ∧ o < 0xE0000 then
      d.guarded (d.chanPlays n ((o - 0xA0000) / 2048)) (K.TGN_STATUS_TS_WR_REFUSED n) fun d => d.plainWrite a w
    else d.plainWrite a w

/-! ## One write -/

/-- A lifecycle transition that Table 10 permits (R581). -/
def lcPermits (from' dest : Nat) : Bool :=
  match from' with
  | 0 => dest == 1 || dest == 5
  | 1 => dest == 2 || dest == 5
  | 2 => dest == 3 || dest == 5
  | 3 => dest == 4 || dest == 5
  | 4 => dest == 5
  | _ => false

/-- A write of DEV_LC_CTRL with its key requests a transition; any other request of it is ignored with LC_REFUSED
(R581). -/
def Dev.lcWrite (d : Dev) (m : Master) (w : Nat) : Dev :=
  if bitsAt w 24 8 ≠ 0xE7 then d
  else
    let who := match m with
      | .hubc => true
      | .pf => true
      | _ => false
    if who && !d.on K.DEV_LIFECYCLE_LC_LOCK && !d.lcPending && lcPermits d.fuses.lifecycle (w % 8) then
      { d with fuses := { d.fuses with programming := some (w % 8) } }
    else d.put K.DEV_LIFECYCLE_LC_REFUSED true

/-- A write that concerns the device alone: everything but the writes that are judged against other events of their
tick. -/
def Dev.regWrite (d : Dev) (m : Master) (a w : Nat) : Dev :=
  if d.regDark a then d
  else if slowReg a then { d with slowWr := d.slowWr ++ [(a, w)] }
  else if a = 0x18 then d.lcWrite m w
  else if a < 0x40000 then d.devWrite m a w
  else if a < 0x80000 then d.timWrite a w
  else if a < 0xA0000 then d.hostWrite a w
  else if a < 0x100000 then d.dbgWrite a w
  else if a < 0x200000 then d.basWrite a w
  else d.dieWrite m ((a - 0x400000) / 0x100000) ((a - 0x400000) % 0x100000) a w

/-- A virtual function may command site `s`; every other master may (R500). -/
def Dev.maySite (d : Dev) (m : Master) (s : Nat) : Bool :=
  match vfOf m with
  | some v => bitAt (d.get2 (K.HST_VF_SITES_LO v) (K.HST_VF_SITES_HI v)) s
  | none => true

/-- A write of DEV_SITE_CMD by a master: a virtual function's command for a site that is not its own answers BAD_OP
(R310, R500). -/
def State.siteCmdBy (s : State) (m : Master) (w : Nat) : State :=
  if s.dev.maySite m (bitsAt w 4 6) then s.siteCmd (w % 16) (bitsAt w 4 6)
  else s.onDev fun d => d.siteAns (bitsAt w 4 6) (w % 16) lrBADOP

/-- The class of a master's writes: P5 for the debug master, P6 for the others (R116, R525). -/
def writeClass (m : Master) : Nat := if m == .dbg then 5 else 6

/-- A register write that the hub let through, at its place in the tick's order (R116, R574). -/
def State.regWrite (s : State) (m : Master) (a w : Nat) : State :=
  let plain := s.onDevAs (writeClass m, 0, 0) fun d => d.regWrite m a w
  if s.dev.regDark a then s
  else if a = 0x4C then if bitAt w 0 then s.enterLoad else s
  else if a = 0x104 then s.siteCmdBy m w
  else if 0x41000 ≤ a ∧ a < 0x47000 ∧ a % 16 = 8 then s.schedWrite ((a - 0x41000) / 4096) (a % 4096 / 16) w
  else if 0x400000 ≤ a then
    let o := (a - 0x400000) % 0x100000
    if (o = 0x5011C ∨ o = 0x5015C) ∧ bitAt w 1 then plain.stepDisarm ((a - 0x400000) / 0x100000) ((o - 0x5011C) / 64)
    else plain
  else plain

/-- The address lies in CFG_PORT (R406). -/
def isPort (a : Nat) : Bool := decide (0x38000 ≤ a) && decide (a < 0x40000)

/-- A refused register write: one to CFG_PORT by a virtual function sets CFG_STATUS.VF_REFUSED too (R398). -/
def Dev.writeDropped (d : Dev) (m : Master) (a : Nat) : Dev :=
  let d := if isPort a && (vfOf m).isSome && !d.inReset then d.put K.CFG_STATUS_VF_REFUSED true else d
  d.refusedTo m

/-- A core's write to CFG_PORT, dropped, raises BUS_ERROR as well (R398). -/
def Dev.portFault (d : Dev) (m : Master) (a : Nat) : Dev :=
  match m with
  | .core _ => if isPort a then d.refusedTo m else d
  | _ => d

/-- A register write as a command: refused writes are dropped (R498, R569). -/
def State.busWrite (s : State) (m : Master) (a w : Nat) : State :=
  match s.dev.regReach m a true with
  | (d, true) => ({ s with dev := d }.regWrite m a w).onDev fun d => d.portFault m a
  | (d, false) => { s with dev := d.writeDropped m a }

end Sys2Proof.Machine
end

