-- ==== Sys2Proof/Machine/Rgp.lean ====
section
/-! DEFINITION. The register CRC, the lifecycle fuses and the edges of OSC40K (R571, R575 to R581). -/

namespace Sys2Proof.Machine

/-! ## The protected set (R575) -/

/-- The protected bits of a register: its RWL fields and LCK bits. -/
def RegDesc.protects (r : RegDesc) : Nat :=
  ((r.fields.filter fun f => f.acc == .rwl || f.acc == .lck).map fun f => (2 ^ f.width - 1) * 2 ^ f.lo).sum

/-- Offsets of a register's instances from its first. -/
def instanceOffsets : List (Nat × Nat) → List Nat
  | [] => [0]
  | (n, stride) :: l => (List.range n).flatMap fun i => (instanceOffsets l).map (i * stride + ·)

/-- The protected registers of a list, by address, with their protected bits. -/
def protectedIn (l : List RegDesc) (t : Tbl Nat) : Tbl Nat :=
  (l.filter fun r => r.protects != 0).foldl
    (fun t r => (instanceOffsets r.dims).foldl (fun t o => tblPut t (r.base + o) r.protects) t) t

/-- The blocks that describe the register space, each once: the hub's and the base die's, and one channel die's (R567,
R568). -/
def descBlocks : List Nat := List.range 0x19 ++ (List.range 0x0F).map (0x40 + ·)

/-- Every protected register of the map, ascending. -/
def protectedRegs : Tbl Nat := descBlocks.foldl (fun t b => protectedIn (regsOfBlock b) t) []

/-! ## A pass (R576) -/

/-- What the register at `a` contributes to a pass: its protected bits, or beyond a DOWN link those of the last pass that
reached it. -/
def Dev.passValue (d : Dev) (a mask : Nat) : Nat :=
  if d.reaches .hubc (sideOf a) then d.regWord a &&& mask
  else match tblFind d.rgp.last a with
    | some v => v
    | none => Config.unread a &&& mask

/-- The protected registers of present units with the values that a pass finds. -/
def Dev.passValues (d : Dev) : List (Nat × Nat) :=
  (protectedRegs.filter fun (p : Nat × Nat) => !d.regAbsent p.1).map fun (p : Nat × Nat) => (p.1, d.passValue p.1 p.2)

/-- The CRC of a pass: address and value of each register, each as 4 bytes, little-endian. -/
def passCrc (l : List (Nat × Nat)) : Nat := crc32c (l.flatMap fun (p : Nat × Nat) => leBytes p.1 4 ++ leBytes p.2 4)

/-- The values that the pass has read of registers beyond a link are kept. -/
def Dev.passKept (d : Dev) (l : List (Nat × Nat)) : Dev :=
  { d with rgp := { d.rgp with
    last := (l.filter fun (p : Nat × Nat) => (sideOf p.1).isSome).foldl (fun t (p : Nat × Nat) => tblPut t p.1 p.2) d.rgp.last } }

/-- A mismatch: the first one sets MISMATCH, writes its record and with SAFE_EN stops the sites and enters Safe (R577). -/
def Dev.rgpMismatch (d : Dev) (cur : Nat) : Dev :=
  if d.on K.RGP_STATUS_MATCH_FAIL_NOW then d
  else
    let d := (d.put K.RGP_STATUS_MATCH_FAIL_NOW true).put K.RGP_STATUS_MISMATCH true
    let d := d.logA 0x017 blkRGP (cur + 2 ^ 32 * d.get K.RGP_REF_REF)
    if d.on K.RGP_CTRL_SAFE_EN then d.unrecoverable 0x06 0x15 else d

/-- A commit takes the result of its pass (R578). -/
def Dev.rgpCommitted (d : Dev) (cur : Nat) : Dev :=
  let d := { d with rgp := { d.rgp with commit := 0 } }
  let d := ((d.set K.RGP_REF_REF cur).put K.RGP_STATUS_COMMITTED true).put K.RGP_STATUS_OPEN false
  let d := ((d.put K.RGP_CTRL_OPEN false).put K.RGP_STATUS_MISMATCH false).put K.RGP_STATUS_COMMIT_BUSY false
  d.put K.RGP_STATUS_MATCH_FAIL_NOW false

/-- A pass that ends with the result `cur` (R576 to R578). -/
def Dev.passEnds (d : Dev) (cur : Nat) : Dev :=
  let d := (d.set K.RGP_CUR_CUR cur).bump K.RGP_PASS_PASSES
  match d.rgp.commit with
  | 0 =>
    if !d.on K.RGP_STATUS_COMMITTED || d.on K.RGP_STATUS_OPEN then d
    else if cur = d.get K.RGP_REF_REF then d.put K.RGP_STATUS_MATCH_FAIL_NOW false
    else d.rgpMismatch cur
  | 1 => { d with rgp := { d.rgp with commit := 2 } }
  | _ => d.rgpCommitted cur

/-- RGP_PASS_END: a pass of the register CRC ends, with the protected values of this tick (R576, R577; log 67). -/
def execRgpPassEnd (s : State) : Out :=
  s.doesAs (3, 0, 0) fun d =>
    if d.inReset then d
    else
      let l := d.passValues
      let d := d.passKept l
      match d.inject 0x10 fun _ _ => true with
      | some (arg, d) => d.asInjected fun d => d.passEnds (passCrc l ^^^ 2 ^ (arg % 32))
      | none => d.passEnds (passCrc l)

/-! ## Lifecycle (R581) -/

/-- LIFECYCLE_FUSES_PROGRAMMED: the fuses hold the target, which the next POR or DRST re-reads (R581). -/
def execLifecycleFusesProgrammed (s : State) : Out :=
  s.does fun d => match d.fuses.programming with
    | some t => { d with fuses := { d.fuses with target := t, programming := none } }
    | none => d

/-! ## Slow domains (R571) -/

/-- A write takes effect in its slow domain (R64, R397, R406, R571): the key words are write-only, the key store holds
them. -/
def Dev.slowApply (d : Dev) (a w : Nat) : Dev :=
  if a = 0x3001C then d.keybWrite w
  else if 0x30040 ≤ a ∧ a < 0x30060 then d.set (K.CFG_KEYB_DATA ((a - 0x30040) / 4)) w
  else d.plainWrite a w

/-- The copy of one slow-domain register is refreshed. -/
def Dev.slowRefresh (d : Dev) (a : Nat) : Dev :=
  let w := d.regWord a
  { d with slowCp := if w = resetWord a then tblErase d.slowCp a else tblPut d.slowCp a w }

/-- OSC40K_EDGE: the writes that wait take effect, those that clear status bits before those that may set them, and every
copy is refreshed (R571). -/
def execOsc40kEdge (s : State) : Out :=
  s.does fun d =>
    if d.start.inPor then d
    else
      let clears (p : Nat × Nat) : Bool := p.1 == 0x54 || p.1 == 0x30020
      let l := d.slowWr.filter clears ++ d.slowWr.filter fun p => !clears p
      let d := { d with slowWr := [] }
      let d := d.each l fun d (p : Nat × Nat) => d.slowApply p.1 p.2
      d.each slowRegs Dev.slowRefresh

end Sys2Proof.Machine
end

