-- ==== Sys2Proof/Machine/MemCmd.lean ====
section
/-! DEFINITION. Memory accesses of the host, the hub, the debug master and the guest: the judgement of a whole access,
errors of the stored data, and the commands that read and write memory (R8, R168, R331, R333 to R336, R371, R373 to R375,
R428, R429, R498, R499, R515, R538, R569). -/

namespace Sys2Proof.Machine

/-! ## Judging an access (R336, R371, R569) -/

/-- The column of Table 3 that a master stands in (R336). -/
def requesterOf : Master → Requester
  | .core _ => .ctl
  | .guest => .guest
  | _ => .host

/-- Points that decide about `n` bytes from `a`: its ends and the multiples of 64 KiB between them, at which every
region and partition begins. -/
def spanPoints (a n : Nat) : List Nat :=
  a :: (a + n - 1) :: ((List.range (n / 65536 + 1)).map fun i => (a / 65536 + 1 + i) * 65536).filter fun x => decide (x < a + n)

/-- The links, isolated blocks and absent stacks that stand between a master and a mapped, permitted access: it is made
or not; an access of an absent stack writes its record (R8, R331, R371, R538). -/
def Dev.memPath (d : Dev) (m : Master) (a n : Nat) : Dev × Bool :=
  let pts := spanPoints a n
  let absent (x : Nat) : Bool := d.storeAbsent x && (match regionOf x with
    | .vcache _ => false
    | _ => true)
  if !pts.all fun x => d.reaches m (sideOf x) then (d.put K.NOP_STATUS_ACC_REFUSED true, false)
  else if pts.any fun x => d.memIsolated (d.placeOf x) then (d, false)
  else if pts.any absent then (d.logBOn dieBD 0x11F blkBAS a, true)
  else (d, true)

/-- An access of `n` bytes at `a` judged as a whole: whether it is made, with what a refusal sets (R336, R569). -/
def Dev.memReach (d : Dev) (m : Master) (write : Bool) (a n : Nat) : Dev × Bool :=
  let pts := spanPoints a n
  let part := pts.any fun x => partRefuses (requesterOf m) write (regionOf x)
  let gap := pts.any fun x => regionOf x == .unmapped || decide (2 ^ 48 ≤ x)
  if part || gap then
    let d := if part then d.put K.BAS_MEM_STATUS_PART_REFUSED true else d
    (if gap then d.unmapped else d, false)
  else d.memPath m a n

/-! ## Errors of stored data (R333, R354, R546) -/

/-- The stored words with flipped bits among `n` bytes at a device address. -/
def Dev.errWords (d : Dev) (a n : Nat) : List (Nat × Nat) :=
  let p := d.placeOf a
  d.memErr.filter fun e => decide (p < e.1 + 4) && decide (e.1 < p + n)

/-- A stored word with `k` flipped bits is uncorrectable: one bit never; two bits of a 64-bit word of base SRAM always;
otherwise the codes' words do not decide it, and it is free (R333; log 1). -/
def Dev.wordBad (d : Dev) (w : Nat × Nat) : Bool :=
  if w.2 = 1 then false
  else if inSram w.1 && w.2 == 2 then true
  else Config.free d.freeUsed w.1 % 2 = 1

/-- A read of `n` bytes at `a` meets the flipped bits: corrected and counted, or uncorrectable, which it answers. `ue`
tells that the read meets an uncorrectable error of its own. -/
def Dev.eccRead (d : Dev) (a n : Nat) (ue : Bool) : Dev × Bool :=
  let l := d.errWords a n
  if ue then (d.memUE a, true)
  else if l = [] then (d, false)
  else
    let bad := l.any d.wordBad
    ((d.flashDone).asInjected fun d => if bad then d.memUE a else d.memCE, bad)

/-- Detectors 0x0C and 0x0D flip bits in the next write that covers their address; every other word that is written is
whole again (R546, Table 5). -/
def Dev.eccWrite (d : Dev) (a n : Nat) : Dev :=
  let hit := d.errWords a n
  let d := { d with memErr := d.memErr.filter fun e => !hit.contains e }
  let p := d.placeOf a
  let covers (x : Nat) : Bool := decide (p ≤ d.placeOf x + 3) && decide (d.placeOf x < p + n)
  let flip (r : Option (Nat × Dev)) (d : Dev) : Dev := match r with
    | some (arg, d) => if arg % 4 = 0 then d else { d with memErr := tblPut d.memErr (d.placeOf (arg / 4 % 2 ^ 46 * 4)) (arg % 4) }
    | none => d
  let addr (arg : Nat) : Nat := arg / 4 % 2 ^ 46 * 4
  let d := flip (d.inject 0x0D fun _ arg => inSram (addr arg) && covers (addr arg)) d
  flip (d.inject 0x0C fun u arg => inPlaced (u - 6) (d.placeOf (addr arg)) && covers (addr arg)) d

/-! ## What lies at a mapped address -/

/-- `n` bytes read from storage or from a user window, whose answers are the design's own (R380). -/
def Dev.loadBytes (d : Dev) (a n : Nat) : Dev × Nat :=
  match regionOf a with
  | .user _ => (d.flashDone, Config.free d.freeUsed a % 2 ^ (8 * n))
  | _ => (d, d.peekNum a n)

/-- Bytes written to storage; what a user window does with them is the design's own (R380). -/
def Dev.storeBytes (d : Dev) (a : Nat) (l : List Byte) : Dev :=
  match regionOf a with
  | .user _ => d
  | _ => (d.eccWrite a l.length).pokeBytes a l

/-- All ones in `n` bytes. -/
def allOnes (n : Nat) : Nat := 2 ^ (8 * n) - 1

/-- A data read of flash by the debug master, or `none` for its error response (R426, R428, R429). -/
def Dev.dbgFlash (d : Dev) (o n : Nat) (ue : Bool) : Dev × Option Nat :=
  if flashSize < o + n then (d.unmapped, none)
  else if d.on K.FLC_STATUS_OP_ACTIVE then (d.put K.FLC_STATUS_RD_REFUSED true, none)
  else if (sectorsOf o n).any d.xoSector then (d.xoRead o, some 0)
  else match d.flashEcc o (if ue then 2 else 0) with
    | (d, 2) => (d, none)
    | (d, _) => (d.flashDone, some (d.flashNum o n))

/-- A virtual function's memory access lies in its window (R498, R499). -/
def Dev.vfInWindow (d : Dev) (v a n : Nat) : Bool :=
  decide ((d.vfWindow v).1 ≤ a) && decide (a + n ≤ (d.vfWindow v).1 + (d.vfWindow v).2)

/-- The master may reach memory at all: not in reset, the debug master when its lifecycle permits, a virtual function in
its window, CFGP never (R399, R498, R499, R515). -/
def Dev.memMay (d : Dev) (m : Master) (write : Bool) (a n : Nat) : Dev × Bool :=
  if d.inReset || n == 0 then (d, false)
  else match m with
    | .cfgp => (d, false)
    | .dbg => if d.dbgMay write then (d, true) else (d.dbgLocked, false)
    | .vf0 => if d.vfInWindow 0 a n then (d, true) else (d.vfRefused 0 a, false)
    | .vf1 => if d.vfInWindow 1 a n then (d, true) else (d.vfRefused 1 a, false)
    | _ => (d, true)

/-! ## Commands -/

/-- A memory read of `n` bytes: the data, or `none` for the response of a refusal or an error (R336, R354). -/
def Dev.memRead (d : Dev) (m : Master) (a n : Nat) (ue : Bool) : Dev × Option Nat :=
  match d.memMay m false a n with
  | (d, false) => (d, none)
  | (d, true) =>
    match d.memReach m false a n with
    | (d, false) => (d, none)
    | (d, true) =>
      match d.eccRead a n ue with
      | (d, true) => (d, none)
      | (d, false) => let r := d.loadBytes a n
                      (r.1, some r.2)

/-- A read of `n` bytes of memory or flash by a master that has no register address before it. -/
def Dev.dataRead (d : Dev) (m : Master) (a n : Nat) (ue : Bool) : Dev × Option Nat :=
  match regionOf a with
  | .flash => match m with
    | .dbg => if d.inReset then (d, none) else if d.dbgMay false then d.dbgFlash (a - 0x40000000) n ue else (d.dbgLocked, none)
    | _ => (d, none)
  | _ => d.memRead m a n ue

/-- A refused read reads as all ones (R336, R354, R569). -/
def answered (n : Nat) (r : Dev × Option Nat) : Dev × Nat := (r.1, r.2.getD (allOnes n))

/-- HOST_MEMORY_READ: a read by the host, the hub controller or the debug master. One of a register address is a 32-bit
register read or refused; one of flash is the debug master's, since the PF reads flash by FLASH_BAR_READ (R168, R336,
R428, R498). -/
def execHostMemoryRead (m : Master) (addr : BitVec 48) (len : BitVec 16) (ue : Bool) (s : State) : Out :=
  let a := addr.toNat
  let n := len.toNat
  let plain (r : Dev × Option Nat) : State := { s with dev := r.1, answer := some (answered n r).2 }
  .next (match regionOf a with
    | .reg => if n = 4 then s.busRead m a else plain ((s.dev.memMay m false a n).1, none)
    | _ => plain (s.dev.dataRead m a n ue))

/-- A memory write: made, or dropped; the answer tells which (R336). -/
def Dev.memWriteOk (d : Dev) (m : Master) (a : Nat) (l : List Byte) : Dev × Bool :=
  match d.memMay m true a l.length with
  | (d, false) => (d, false)
  | (d, true) =>
    match d.memReach m true a l.length with
    | (d, false) => (d, false)
    | (d, true) => (d.storeBytes a l, true)

/-- A memory write: made, or dropped (R336). -/
def Dev.memWrite (d : Dev) (m : Master) (a : Nat) (l : List Byte) : Dev := (d.memWriteOk m a l).1

/-- HOST_MEMORY_WRITE: a write by the host, the hub controller or the debug master (R336); to a register address a
32-bit register write or refused (R168); the flash read window takes none (R498). -/
def execHostMemoryWrite (m : Master) (addr : BitVec 48) (bytes : List Byte) (s : State) : Out :=
  let a := addr.toNat
  .next (match regionOf a with
    | .reg => if bytes.length = 4 then s.busWrite m a (leNum bytes) else s.onDev fun d => (d.memMay m true a bytes.length).1
    | .flash => s
    | _ => s.onDev fun d => d.memWrite m a bytes)

/-- The firewall's verdict on a guest request: its windows as they stood before the tick, since a window written takes
effect in the next; a register access must be 32 bits wide and aligned (R168, R373, R375). -/
def State.guestVerdict (s : State) (write : Bool) (a n : Nat) : FwlVerdict :=
  match s.tickStart.fwlJudge write a n with
  | .allow => if regionOf a = .reg ∧ (n ≠ 4 ∨ a % 4 ≠ 0) then .noWin else .allow
  | v => v

/-- An approved guest access (R373). -/
def State.guestAccess (s : State) (write : Bool) (a n : Nat) (data : List Byte) : State :=
  if regionOf a = .reg then
    let (d, ok) := if regHole a then (s.dev.unmapped, false)
      else if s.dev.regDark a || s.dev.reaches .guest (sideOf a) then (s.dev, true)
      else (s.dev.put K.NOP_STATUS_ACC_REFUSED true, false)
    let s := { s with dev := d }
    if write then if ok then s.regWrite .guest a (leNum data) else s
    else if ok then
      let (d, w) := s.dev.readWord .guest a
      { s with dev := d, answer := some w }
    else { s with answer := some (allOnes 4) }
  else if write then s.onDev fun d => d.memWrite .guest a data
  else
    let (d, v) := answered n (s.dev.memRead .guest a n false)
    { s with dev := d, answer := some v }

/-- GUEST_REQUEST: a request of the guest die at the firewall (R373 to R377): refused without a record while isolated. -/
def execGuestRequest (write : Bool) (addr : BitVec 48) (len : BitVec 16) (data : List Byte) (s : State) : Out :=
  let a := addr.toNat
  let n := if write then data.length else len.toNat
  let refused (s : State) : State := if write then s else { s with answer := some (allOnes n) }
  .next (
    if s.dev.inReset || !s.dev.variant.hasGuest || n == 0 then s
    else if s.dev.on K.FWL_STATUS_ISOLATED then refused s
    else match s.dev.inject 0x18 fun _ _ => true with
      | some (_, d) => refused { s with dev := d.asInjected fun d => d.fwlViolation write a .noWin }
      | none =>
        let v := s.guestVerdict write a n
        if v = .allow then s.guestAccess write a n data else refused (s.onDev fun d => d.fwlViolation write a v))

/-- HOLDER of a patrol read (R532). -/
def patrolHolder (k : Nat) : Nat := 0x90 + k

/-- PATROL_READ: the patrol scrub reads a block of a stack under its HBM-region lease, with the error it meets, if any, at
a byte offset of the block: corrected, or uncorrectable (R333, R334). A lease that is held lets the read pass by. -/
def execPatrolRead (stack : Fin 2) (block : Fin 768) (err : Option (BitVec 26 × Bool)) (s : State) : Out :=
  s.does fun d =>
    let k := stack.val
    let up := if k = 0 then d.on K.BAS_MEM_STATUS_HBM0_UP else d.on K.BAS_MEM_STATUS_HBM1_UP
    if d.inReset || !up || !d.on K.BAS_MEM_CTRL_PATROL_EN then d
    else match d.leaseReq (6 + k) lcHBM (patrolHolder k) block.val false with
      | (d, .granted) =>
        let base := hbmBase k + block.val * 0x4000000
        let d := match err with
          | some (o, true) => d.memUE (base + o.toNat)
          | some (_, false) => d.memCE
          | none => (d.eccRead base 0x4000000 false).1
        d.leaseRelease (6 + k) lcHBM (patrolHolder k)
      | (d, _) => d

end Sys2Proof.Machine
end

