-- ==== Sys2Proof/Machine/CtlMem.lean ====
section
/-! DEFINITION. Loads and stores of the control profile (R145, R146, R160, R161, R167, R168, R350, R354, R426, R428,
R429). An access is judged when its instruction issues, so that a refusal faults that instruction; it is made when the
data arrive or the store buffer drains. -/

namespace Sys2Proof.Machine

/-- The master that a controller is. -/
def ctlMaster (x : Nat) : Master := if h : x < 64 then .core ⟨x, h⟩ else .hubc

/-- The register window and the flash read window, whose accesses keep their order (R146). -/
def isWindow (a : Nat) : Bool :=
  match regionOf a with
  | .reg => true
  | .flash => true
  | _ => false

/-- A write to CFG_PORT by a core is dropped, sets VF_REFUSED and raises BUS_ERROR (R398). -/
def Dev.corePort (d : Dev) (x a : Nat) : Dev × Option Nat :=
  if x ≠ 64 ∧ isPort a then (d.put K.CFG_STATUS_VF_REFUSED true, some fcBUS) else (d, none)

/-- A control access of `n` bytes at device address `a` is made, or refused with a fault code (R145, R168, R336, R371,
R429). -/
def Dev.ctlJudge (d : Dev) (x : Nat) (write : Bool) (a n : Nat) : Dev × Option Nat :=
  let m := ctlMaster x
  match regionOf a with
  | .reg =>
    if n ≠ 4 then (d, some fcBUS)
    else match d.regReach m a write with
      | (d, true) => if write then d.corePort x a else (d, none)
      | (d, false) => (d, some fcBUS)
  | .flash =>
    if write then (d, some fcBUS)
    else if flashSize < a - 0x40000000 + n then (d.unmapped, some fcBUS)
    else if !d.reaches m (sideOf a) then (d.put K.NOP_STATUS_ACC_REFUSED true, some fcBUS)
    else if (sectorsOf (a - 0x40000000) n).any d.xoSector then (d, some fcXO)
    else (d, none)
  | _ =>
    match d.memReach m write a n with
    | (d, true) => (d, none)
    | (d, false) => (d, some fcBUS)

/-- The device address of a control access: a core's through its root, 48 bits wide; the hub controller's as it is
(R145, R340, R350). -/
def Dev.ctlAddr (d : Dev) (x va : Nat) (u : CtlUse) : Dev × Option Nat :=
  if x = 64 then (d, some va)
  else if 2 ^ 48 ≤ va then (d.ptuFault x ⟨prINVALID, 1, va⟩ true, none)
  else d.ctlTranslate x va u

/-- A control access checked as its instruction issues: its alignment, its translation, its target. Answers the device
address, or the device with the fault taken (R145, R168). -/
def Dev.ctlAccess (d : Dev) (x va n : Nat) (u : CtlUse) : Dev × Option Nat :=
  if va % n ≠ 0 then (d.ctlFault x fcMISALIGNED va, none)
  else match d.ctlAddr x va u with
    | (d, none) => (d.ctlFault x fcBUS va, none)
    | (d, some a) =>
      match d.ctlJudge x (u == .store) a n with
      | (d, none) => (d, some a)
      | (d, some code) => (d.ctlFault x code va, none)

/-! ## Issue -/

/-- The address of a memory instruction: a + off39, sign-extended (R167). -/
def Core.memAddr (c : Core) (rs1 : Nat) (off : BitVec 39) : Nat := (c.gGet rs1 + off.signExtend 64).toNat

/-- Bytes of an access (R167). -/
def memSize (sz : BitVec 2) : Nat := 2 ^ sz.toNat

/-- The operand fields of LD are a legal encoding (R167). -/
def ldLegal (sz : BitVec 2) (u f : Bool) : Bool :=
  (!u || sz.toNat != 3) && (!f || (decide (2 ≤ sz.toNat) && !u))

/-- The operand fields of ST are a legal encoding (R167). -/
def stLegal (sz : BitVec 2) (f : Bool) : Bool := !f || decide (2 ≤ sz.toNat)

/-- A load is issued: an earlier load to the same register no longer writes it. -/
def Core.pushLoad (c : Core) (l : Load) : Core :=
  { c with loads := c.loads.map (fun (o : Load) => if l.isF || l.rd != 0 then o.orphan l.isF l.rd else o) ++ [l], accSeq := c.accSeq + 1 }

/-- A store enters the store buffer. -/
def Core.pushStore (c : Core) (b : StoreB) : Core := { c with stores := c.stores ++ [b], accSeq := c.accSeq + 1 }

/-- LD issues a load (R145, R167). -/
def execLd (x : CtlId) (rd rs1 : Reg) (sz : BitVec 2) (u f : Bool) (off : BitVec 39) (s : State) : Out :=
  s.does fun d =>
    if !ldLegal sz u f then d.illegal x
    else d.issue x [rs1] [] false fun d =>
      let va := (d.core x).memAddr rs1 off
      match d.ctlAccess x va (memSize sz) .load with
      | (d, none) => d
      | (d, some a) => d.modCore x fun c =>
        (c.pushLoad { seq := c.accSeq, addr := a, size := memSize sz, uns := u, isF := f, rd := rd, pc := c.pc, va := va }).retire

/-- The register that ST stores (R167). -/
def Core.stData (c : Core) (rs2 : Nat) (f : Bool) : Nat := if f then (c.fGet rs2).toNat else (c.gGet rs2).toNat

/-- ST places a store in the buffer, and stalls while the buffer holds eight (R160, R167). -/
def execSt (x : CtlId) (rs1 rs2 : Reg) (sz : BitVec 2) (f : Bool) (off : BitVec 39) (s : State) : Out :=
  s.does fun d =>
    if !stLegal sz f then d.illegal x
    else if 8 ≤ (d.core x).stores.length then d
    else d.issue x (if f then [rs1.val] else [rs1.val, rs2.val]) (if f then [rs2.val] else []) false fun d =>
      let va := (d.core x).memAddr rs1 off
      match d.ctlAccess x va (memSize sz) .store with
      | (d, none) => d
      | (d, some a) => d.modCore x fun c =>
        (c.pushStore { seq := c.accSeq, addr := a, size := memSize sz, data := c.stData rs2 f % 2 ^ (8 * memSize sz), pc := c.pc
                       va := va }).retire

/-! ## Completion -/

/-- The later of two accesses of a pipeline may not complete before the earlier: they overlap, or both lie in windows
(R146). -/
def tied (a n b k : Nat) : Bool := (decide (a < b + k) && decide (b < a + n)) || (isWindow a && isWindow b)

/-- Every access before number `seq` that is tied to `n` bytes at `a` has completed (R146). -/
def Core.mayComplete (c : Core) (seq a n : Nat) : Bool :=
  c.loads.all (fun (l : Load) => decide (seq ≤ l.seq) || !tied l.addr l.size a n)
    && c.stores.all fun (b : StoreB) => decide (seq ≤ b.seq) || !tied b.addr b.size a n

/-- A fault of an access whose instruction has retired: it names that instruction. -/
def Dev.lateFault (d : Dev) (x code pc va : Nat) : Dev :=
  if x = 64 then d.hubFault code pc else d.coreFault x code pc va false

/-- An uncorrectable memory error in a control load: DATA_ECC in a core (R153), BUS_ERROR in the hub controller (R354;
log 68). -/
def memEccCode (x : Nat) : Nat := if x = 64 then fcBUS else fcECC

/-- The data of a load read at its device address, or the fault code of a late refusal or error. `ue` tells that the read
meets an uncorrectable error (R351, R354, R426). -/
def Dev.ctlRead (d : Dev) (x a n : Nat) (ue : Bool) : Dev × Except Nat Nat :=
  match d.ctlJudge x false a n with
  | (d, some code) => (d, .error code)
  | (d, none) =>
    match regionOf a with
    | .reg => let r := d.readWord (ctlMaster x) a
              (r.1, .ok r.2)
    | .flash =>
      match d.flashEcc (a - 0x40000000) (if ue then 2 else 0) with
      | (d, 2) => (d, .error fcECC)
      | (d, _) => (d.flashDone, .ok (d.flashNum (a - 0x40000000) n))
    | _ =>
      match d.eccRead a n ue with
      | (d, true) => (d, .error (memEccCode x))
      | (d, false) => let r := d.loadBytes a n
                      (r.1, .ok r.2)

/-- Load data extended to a register (R167). -/
def Load.extend (l : Load) (v : Nat) : DWord :=
  let w := v % 2 ^ (8 * l.size)
  if l.uns || l.isF || !bitAt w (8 * l.size - 1) then BitVec.ofNat 64 w else BitVec.ofNat 64 (w + 2 ^ 64 - 2 ^ (8 * l.size))

/-- Load data written to their register (R167). -/
def Core.loadDone (c : Core) (l : Load) (v : Nat) : Core :=
  if l.isF then c.fSet l.rd (l.extend v) else c.gSet l.rd (l.extend v)

/-- LOAD_DATA_ARRIVAL: the data of the pipeline's `k`-th outstanding load arrive, when its order lets it complete; a flash
read waits while an operation is active (R146, R167, R428). -/
def execLoadDataArrival (x : CtlId) (k : Nat) (ue : Bool) (s : State) : Out :=
  s.does fun d =>
    match (d.core x).loads[k]? with
    | none => d
    | some l =>
      if !(d.core x).mayComplete l.seq l.addr l.size then d
      else if regionOf l.addr = .flash ∧ d.on K.FLC_STATUS_OP_ACTIVE then d
      else
        let d := d.modCore x fun c => { c with loads := c.loads.eraseIdx k }
        match d.ctlRead x l.addr l.size ue with
        | (d, .ok v) => d.modCore x fun c => c.loadDone l v
        | (d, .error code) => d.lateFault x code l.pc l.va

/-- A store made at its device address; a register write takes its place in the tick's order (R116, R574). -/
def State.ctlWrite (s : State) (x a n v : Nat) : State :=
  match regionOf a with
  | .reg => s.regWrite (ctlMaster x) a v
  | _ => s.onDev fun d => d.storeBytes a (leBytes v n)

/-- STORE_COMPLETE: the `k`-th store of the buffer becomes visible to every master (R146, R160). -/
def execStoreComplete (x : CtlId) (k : Nat) (s : State) : Out :=
  .next (match (s.dev.core x).stores[k]? with
    | none => s
    | some b =>
      if !(s.dev.core x).mayComplete b.seq b.addr b.size then s
      else
        let s := s.onDev fun d => d.modCore x fun c => { c with stores := c.stores.eraseIdx k }
        match s.dev.ctlJudge x true b.addr b.size with
        | (d, none) => { s with dev := d }.ctlWrite x b.addr b.size b.data
        | (d, some code) => { s with dev := d.lateFault x code b.pc b.va })

end Sys2Proof.Machine
end

