-- ==== Sys2Proof/Machine/RegRows.lean ====
section
/-! DEFINITION. The commands that are one register access: each is the write, or the read, of the register that its rule
names, by the master that the command gives. A write that triggers something beside fields it does not name writes those
fields with their present values. -/

namespace Sys2Proof.Machine

/-- The RW and RWL fields of the register at `a` as one word: what a write that triggers something leaves as it is. -/
def Dev.heldWord (d : Dev) (a : Nat) : Nat :=
  match findReg a with
  | none => 0
  | some (r, _) => ((r.fields.filter fun f => f.acc == .rw || f.acc == .rwl).map fun f =>
      d.get ⟨keyAt a f.lo, f.width, f.rst⟩ % 2 ^ f.width * 2 ^ f.lo).sum

/-- A write of trigger bits, the register's other fields as they are. -/
def State.trigger (s : State) (m : Master) (a bits : Nat) : Out := .next (s.busWrite m a (s.dev.heldWord a ||| bits))

/-- A write of a register as a command. -/
def State.writes (s : State) (m : Master) (a w : Nat) : Out := .next (s.busWrite m a w)

/-- A read of a register as a command. -/
def State.reads (s : State) (m : Master) (a : Nat) : Out := .next (s.busRead m a)

/-- A write with a key in [31:24]. -/
def keyed (key w : Nat) : Nat := key * 2 ^ 24 + w

/-- Address of offset `o` in the window of CD `n` (R567). -/
def dieAddr (n o : Nat) : Nat := 0x400000 + 0x100000 * n + o

/-- Address of word 2 of entry `e` of schedule table `t` (R110). -/
def schedWord2 (t e : Nat) : Nat := 0x41000 + 4096 * t + 16 * e + 8

/-- Address of offset `o` of core `q`'s SEQ window (R154). -/
def seqAddr (q o : Nat) : Nat := dieAddr (q / 16) (0x1000 * (q % 16) + o)

/-- The WM_HIT bit of the watermark register at `a`, if it is one (R275). -/
def wmHitBit (a : Nat) : Option Nat :=
  if a = 0x6002C ∨ a = 0xD0028 ∨ a = 0xD0030 then some 31
  else if 0x180040 ≤ a ∧ a < 0x180050 ∧ a % 4 = 0 then some 31
  else if 0x181000 ≤ a ∧ a < 0x182000 ∧ a % 64 = 40 then some 31
  else if 0x400000 ≤ a ∧ a < 0x800000 then
    let o := (a - 0x400000) % 0x100000
    if o < 0x10000 ∧ o % 0x1000 = 0x24 then some 30
    else if o = 0x4010C then some 31
    else if 0xE1000 ≤ o ∧ o < 0xE2000 ∧ o % 64 = 36 then some 31
    else none
  else none

/-! ## Starting and resetting (R37, R53, R60 to R62) -/

/-- START_REQUEST: a one in DEV_START_CTRL.START (R37). -/
def execStartRequest (m : Master) (s : State) : Out := s.trigger m 0x40 1

/-- ENTER_LOAD: a one in DEV_MODE_CTRL.ENTER_LOAD (R53). -/
def execEnterLoad (m : Master) (s : State) : Out := s.writes m 0x4C 1

/-- DRST: a one in DEV_RESET_CTRL.DRST with its key (R60, R63). -/
def execDrst (m : Master) (s : State) : Out := s.writes m 0x50 (keyed 0x5A 1)

/-- CD_RST: a one in the bit of CD `d` of DEV_RESET_CTRL with the key (R61, R63). -/
def execCdRst (m : Master) (d : Die) (s : State) : Out := s.writes m 0x50 (keyed 0x5A (2 ^ (1 + d.val)))

/-- BD_RST: a one in DEV_RESET_CTRL.BD_RST with its key (R61, R63). -/
def execBdRst (m : Master) (s : State) : Out := s.writes m 0x50 (keyed 0x5A 32)

/-- CORE_RST: a one in DEV_RESET_CTRL.CORE_RST with CORE_SEL and the key (R62, R63). -/
def execCoreRst (m : Master) (q : CoreId) (s : State) : Out := s.writes m 0x50 (keyed 0x5A (64 + 256 * q.val))

/-- LIFECYCLE_REQUEST: a write of DEV_LC_CTRL (R581). -/
def execLifecycleRequest (m : Master) (target : BitVec 3) (key : BitVec 8) (s : State) : Out :=
  s.writes m 0x18 (keyed key.toNat target.toNat)

/-! ## The Sentry domain (R73, R75, R88, R89, R93) -/

/-- SNT_GROUP_FORCE_WRITE (R75). -/
def execSntGroupForceWrite (m : Master) (v : BitVec 16) (s : State) : Out := s.writes m 0x10018 v.toNat

/-- SNT_POLICY_WRITE (R73). -/
def execSntPolicyWrite (m : Master) (v : BitVec 16) (s : State) : Out := s.writes m 0x1001C v.toNat

/-- MBOX_FROM_READ: a read of SNT_MBOX_FROM (R93). -/
def execMboxFromRead (m : Master) (s : State) : Out := s.reads m 0x10034

/-- MBOX_TO_WRITE: a write of SNT_MBOX_TO (R93). -/
def execMboxToWrite (m : Master) (w : Word) (s : State) : Out := s.writes m 0x10030 w.toNat

/-- SWAP_REQUEST: a one in SNT_SWAP_CTRL.REQ (R88). -/
def execSwapRequest (m : Master) (key : BitVec 8) (s : State) : Out := s.writes m 0x1000C (keyed key.toNat 1)

/-- SWAP_CANCEL: a one in SNT_SWAP_CTRL.CANCEL (R89). -/
def execSwapCancel (m : Master) (key : BitVec 8) (s : State) : Out := s.writes m 0x1000C (keyed key.toNat 2)

/-! ## Time and the schedules (R98, R104 to R106, R110, R111, R121, R274) -/

/-- ACQUIRE: a one in TIM_CTRL.ACQUIRE (R98). -/
def execAcquire (m : Master) (s : State) : Out := s.trigger m 0x40004 4

/-- GO: a one in TIM_SET_GO.GO (R106). -/
def execGo (m : Master) (s : State) : Out := s.writes m 0x40024 1

/-- TIM_TTI_LO_READ: the low word, and the high word into the master's snapshot (R104). -/
def execTimTtiLoRead (m : Master) (s : State) : Out := s.reads m 0x40008

/-- TIM_TICK_READ (R105). -/
def execTimTickRead (m : Master) (s : State) : Out := s.reads m 0x40010

/-- TIM_SEC_LO_READ (R105). -/
def execTimSecLoRead (m : Master) (s : State) : Out := s.reads m 0x40014

/-- TIM_SEC_HI_READ (R105). -/
def execTimSecHiRead (m : Master) (s : State) : Out := s.reads m 0x40018

/-- SNAPSHOT_LO_READ: a read of the LO word of a wide counter or value (R274). -/
def execSnapshotLoRead (m : Master) (addr : BitVec 24) (s : State) : Out := s.reads m addr.toNat

/-- ARM: word 2 of entry `e` of a schedule table, its fields from `w`, with ARM (R110, R111). -/
def execArm (m : Master) (t : TblId) (e : Fin 256) (w : Word) (s : State) : Out :=
  s.writes m (schedWord2 t e) (w.toNat % 2 ^ 20 + 2 ^ 27)

/-- DISARM: word 2 of entry `e` with DISARM (R110). -/
def execDisarm (m : Master) (t : TblId) (e : Fin 256) (w : Word) (s : State) : Out :=
  s.writes m (schedWord2 t e) (w.toNat % 2 ^ 20 + 2 ^ 28)

/-- EVI_CNT_LOAD: a write of SEQ_EVI_CNT (R121). -/
def execEviCntLoad (m : Master) (q : CoreId) (inp : Fin 16) (v : BitVec 8) (s : State) : Out :=
  s.writes m (seqAddr q (0x80 + 4 * inp.val)) v.toNat

/-- COUNTER_LO_WRITE: a write of a counter's LO word loads the count zero-extended (R274). -/
def execCounterLoWrite (m : Master) (addr : BitVec 24) (v : Word) (s : State) : Out := s.writes m addr.toNat v.toNat

/-- WM_HIT_CLEAR: a one in the WM_HIT bit of a watermark register (R275); another address holds none. -/
def execWmHitClear (m : Master) (addr : BitVec 24) (s : State) : Out :=
  match wmHitBit addr.toNat with
  | some b => s.trigger m addr.toNat (2 ^ b)
  | none => .next s

/-! ## A channel die's blocks (R148, R230, R246, R255, R260, R268, R379, R414, R451, R452, R455) -/

/-- ICACHE_INV: a one in SEQ_CTRL.ICACHE_INV (R148). -/
def execIcacheInv (m : Master) (q : CoreId) (s : State) : Out := s.trigger m (seqAddr q 4) 2

/-- PD_CFG_START: a one in TGN_PD_CFG.START (R230). -/
def execPdCfgStart (m : Master) (d : Die) (pd : Fin 16) (s : State) : Out :=
  s.trigger m (dieAddr d (0x20100 + 8 * pd.val)) 4

/-- PD_CFG_STOP: a one in TGN_PD_CFG.STOP (R230). -/
def execPdCfgStop (m : Master) (d : Die) (pd : Fin 16) (s : State) : Out :=
  s.trigger m (dieAddr d (0x20100 + 8 * pd.val)) 8

/-- PLL_STEP_ARM: a one in PLL_STEP_CTRL.ARM (R451). -/
def execPllStepArm (m : Master) (d : Die) (p : Fin 2) (s : State) : Out :=
  s.writes m (dieAddr d (0x5011C + 64 * p.val)) 1

/-- PLL_STEP_DISARM: a one in PLL_STEP_CTRL.DISARM (R452). -/
def execPllStepDisarm (m : Master) (d : Die) (p : Fin 2) (s : State) : Out :=
  s.writes m (dieAddr d (0x5011C + 64 * p.val)) 2

/-- RELOCK: a one in PLL_CTRL.RELOCK (R455). -/
def execRelock (m : Master) (d : Die) (s : State) : Out := s.trigger m (dieAddr d 0x50004) 1

/-- SWEEP: a one in TGN_DSK_CTRL.SWEEP (R246). -/
def execSweep (m : Master) (d : Die) (s : State) : Out := s.trigger m (dieAddr d 0x20004) 2

/-- RSU_CLR: a one in TGN_RSU_STAT.CLR (R255). -/
def execRsuClr (m : Master) (d : Die) (r : Fin 16) (s : State) : Out :=
  s.writes m (dieAddr d (0x20208 + 16 * r.val)) (2 ^ 31)

/-- CMP_MASK_WRITE (R260). -/
def execCmpMaskWrite (m : Master) (d : Die) (i : Fin 4) (v : Word) (s : State) : Out :=
  s.writes m (dieAddr d (0x40010 + 4 * i.val)) v.toNat

/-- RD_PTR_WRITE: a write of word 6 of a site's entry of the fail table (R268). -/
def execRdPtrWrite (m : Master) (d : Die) (s' : SiteId) (v : Word) (s : State) : Out :=
  s.writes m (dieAddr d (0xE1018 + 64 * s'.val)) v.toNat

/-- PR_ABORT: a one in FAB_PR_CTRL.ABORT of region `r` (R414). -/
def execPrAbort (m : Master) (d : Die) (r : Fin 8) (s : State) : Out := s.writes m (dieAddr d 0x70080) (2 ^ r.val)

/-- RECOVER: a one in D2D_CTRL.RECOVER (R379). -/
def execRecover (m : Master) (d : Die) (s : State) : Out := s.trigger m (dieAddr d 0x60004) 2

/-! ## The repair solver (R304) -/

/-- RPS_CMD with OP 0 (R304, Table 8). -/
def execRpsNop (m : Master) (s' : SiteId) (s : State) : Out := s.writes m 0x180004 (0 + 16 * s'.val)

/-- RPS_CMD with OP 1 (R304, Table 8). -/
def execSolve (m : Master) (s' : SiteId) (s : State) : Out := s.writes m 0x180004 (1 + 16 * s'.val)

/-- RPS_CMD with OP 2 (R304, Table 8). -/
def execCancel (m : Master) (s' : SiteId) (s : State) : Out := s.writes m 0x180004 (2 + 16 * s'.val)

/-- RPS_CMD with OP 3 (R304, Table 8). -/
def execClear (m : Master) (s' : SiteId) (s : State) : Out := s.writes m 0x180004 (3 + 16 * s'.val)

/-- RPS_BAD_OP: RPS_CMD with a reserved OP (R304). -/
def execRpsBadOp (m : Master) (op : BitVec 4) (s' : SiteId) (s : State) : Out :=
  s.writes m 0x180004 (op.toNat + 16 * s'.val)

/-! ## Site commands (R310, Table 3) -/

/-- DEV_SITE_CMD with OP 0 (R310). -/
def execSiteNop (m : Master) (s' : SiteId) (s : State) : Out := s.writes m 0x104 (0 + 16 * s'.val)

/-- DEV_SITE_CMD with OP 1 (R310). -/
def execAdmit (m : Master) (s' : SiteId) (s : State) : Out := s.writes m 0x104 (1 + 16 * s'.val)

/-- DEV_SITE_CMD with OP 2 (R310). -/
def execStart (m : Master) (s' : SiteId) (s : State) : Out := s.writes m 0x104 (2 + 16 * s'.val)

/-- DEV_SITE_CMD with OP 3 (R310). -/
def execStop (m : Master) (s' : SiteId) (s : State) : Out := s.writes m 0x104 (3 + 16 * s'.val)

/-- DEV_SITE_CMD with OP 4 (R310). -/
def execPark (m : Master) (s' : SiteId) (s : State) : Out := s.writes m 0x104 (4 + 16 * s'.val)

/-- DEV_SITE_CMD with OP 5 (R310). -/
def execAbort (m : Master) (s' : SiteId) (s : State) : Out := s.writes m 0x104 (5 + 16 * s'.val)

/-- DEV_SITE_CMD with OP 6 (R310). -/
def execResume (m : Master) (s' : SiteId) (s : State) : Out := s.writes m 0x104 (6 + 16 * s'.val)

/-- DEV_SITE_CMD with OP 7 (R310). -/
def execRestart (m : Master) (s' : SiteId) (s : State) : Out := s.writes m 0x104 (7 + 16 * s'.val)

/-- DEV_SITE_CMD with OP 8 (R310). -/
def execRelease (m : Master) (s' : SiteId) (s : State) : Out := s.writes m 0x104 (8 + 16 * s'.val)

/-- SITE_BAD_OP: DEV_SITE_CMD with a reserved OP (R310). -/
def execSiteBadOp (m : Master) (op : BitVec 4) (s' : SiteId) (s : State) : Out :=
  s.writes m 0x104 (op.toNat + 16 * s'.val)

/-! ## Translation, links and the firewall (R352, R353, R370, R377, R382) -/

/-- PTU_INVALIDATE: a write of PTU_INV with GO (R352). -/
def execPtuInvalidate (m : Master) (w : Word) (s : State) : Out := s.writes m 0x101004 (w.toNat ||| 1)

/-- INVALIDATION_DONE (R352). -/
def execInvalidationDone (s : State) : Out := s.does Dev.invDone

/-- PTU_ROOT_WRITE: a write of PTU_ROOT_LO or PTU_ROOT_HI of a core (R353). -/
def execPtuRootWrite (m : Master) (q : CoreId) (hi : Bool) (v : Word) (s : State) : Out :=
  s.writes m (0x101100 + 8 * q.val + 4 * bit hi) v.toNat

/-- HUB_RECOVER: a one in NOP_CTRL.HUB_RECOVER (R370). -/
def execHubRecover (m : Master) (s : State) : Out := s.trigger m 0x102004 2

/-- CD_RECOVER: a one in the bit of CD `d` of NOP_CTRL.CD_RECOVER (R370). -/
def execCdRecover (m : Master) (d : Die) (s : State) : Out := s.trigger m 0x102004 (2 ^ (2 + d.val))

/-- ISOLATE: a write of FWL_CTRL.ISOLATE (R377). -/
def execIsolate (m : Master) (v : Bool) (s : State) : Out := s.writes m 0xF0004 (s.dev.heldWord 0xF0004 / 2 * 2 + bit v)

/-- VIOL_CLEAR: a one in FWL_STATUS.VIOL (R382). -/
def execViolClear (m : Master) (s : State) : Out := s.writes m 0xF0000 2

/-! ## The loader, CFGP and the keys (R397, R399, R401, R402) -/

/-- REGW: a register write by CFGP (R399). -/
def execRegw (addr : BitVec 24) (data : Word) (s : State) : Out := s.writes .cfgp addr.toNat data.toNat

/-- REGR: a register read by CFGP, driven while CFG_CTRL.CFGP_RD_EN is set (R399). -/
def execRegr (addr : BitVec 24) (s : State) : Out :=
  let t := s.busRead .cfgp addr.toNat
  .next (if t.dev.on K.CFG_CTRL_CFGP_RD_EN then t else { t with answer := none })

/-- STAT: four bytes of CFG_STATUS, driven while CFG_CTRL.CFGP_RD_EN is set (R399). -/
def execStat (s : State) : Out :=
  .next (if s.dev.inReset || !s.dev.on K.CFG_CTRL_CFGP_RD_EN then { s with answer := none }
    else { s with answer := some (s.dev.regWord 0x30000) })

/-- CFGP_UNKNOWN: any other command byte is ignored until CFGP_CS_N rises (R399). -/
def execCfgpUnknown (_cmd : Byte) (s : State) : Out := .next s

/-- HOST_ABORT: a one in CFG_CTRL.ABORT (R401). -/
def execHostAbort (m : Master) (s : State) : Out := s.trigger m 0x30004 1

/-- INTERFACE_RELEASE: a one in CFG_DIE_STATUS.RELEASE (R402). -/
def execInterfaceRelease (m : Master) (d : Die) (s : State) : Out := s.writes m (0x30080 + 4 * d.val) 64

/-- KEYB_PROGRAM: a one in CFG_KEYB_CTRL.PROGRAM (R397). -/
def execKeybProgram (m : Master) (key : Byte) (s : State) : Out := s.writes m 0x3001C (keyed key.toNat 1)

/-- ZEROIZE: a one in CFG_KEYB_CTRL.ZEROIZE (R397). -/
def execZeroize (m : Master) (key : Byte) (s : State) : Out := s.writes m 0x3001C (keyed key.toNat 2)

/-! ## Flash functions (R431, R433, R434) -/

/-- A flash function called through FLC_CALL by a master, or by the Instant Fabric's flash port while an image runs (R69,
R431). `srcErr` names the line at which a read of the source meets an error, if one does. -/
def State.flashFunc (s : State) (by' : FlashBy) (func : Nat) (queue : Bool) (srcErr : Option Nat) : Out :=
  match by' with
  | .reg m =>
    match s.dev.regReach m 0x20004 true with
    | (d, true) => .next ({ s with dev := d }.onDevAs (writeClass m, 0, 0) fun d =>
        d.flashWrite m (keyed 0xC3 (func + 256 * bit queue)) srcErr)
    | (d, false) => .next { s with dev := d.writeDropped m 0x20004 }
  | .fabric arg line =>
    s.does fun d => if d.inReset || !d.imageRuns then d else d.flashFabric func arg.toNat line queue

/-- FUNC 0x01 (R433, Table 2). -/
def execErase (by' : FlashBy) (queue : Bool) (s : State) : Out := s.flashFunc by' 1 queue none

/-- FUNC 0x02 (R433, Table 2). -/
def execProgram (by' : FlashBy) (queue : Bool) (srcErr : Option (BitVec 13)) (s : State) : Out :=
  s.flashFunc by' 2 queue (srcErr.map BitVec.toNat)

/-- FUNC 0x03 (R433, Table 2). -/
def execVerify (by' : FlashBy) (queue : Bool) (srcErr : Option (BitVec 19)) (s : State) : Out :=
  s.flashFunc by' 3 queue (srcErr.map BitVec.toNat)

/-- FUNC 0x04 (R433, Table 2). -/
def execBlankCheck (by' : FlashBy) (queue : Bool) (s : State) : Out := s.flashFunc by' 4 queue none

/-- FUNC 0x05 (R433, Table 2). -/
def execCrc (by' : FlashBy) (queue : Bool) (s : State) : Out := s.flashFunc by' 5 queue none

/-- FUNC 0x06 (R433, Table 2). -/
def execStoreWrite (by' : FlashBy) (queue : Bool) (srcErr : Option (BitVec 13)) (s : State) : Out :=
  s.flashFunc by' 6 queue (srcErr.map BitVec.toNat)

/-- FUNC 0x07 (R433, Table 2). -/
def execStoreSelect (by' : FlashBy) (queue : Bool) (s : State) : Out := s.flashFunc by' 7 queue none

/-- FLASH_BAD_FUNC: a call with a reserved FUNC (R434). -/
def execFlashBadFunc (by' : FlashBy) (func : Byte) (queue : Bool) (s : State) : Out :=
  s.flashFunc by' func.toNat queue none

/-! ## Power and the String (R463, R476, R482, R489) -/

/-- TRIP_CLEAR: a one in PWR_TRIP_CAUSE.TRIP (R463). -/
def execTripClear (m : Master) (s : State) : Out := s.writes m 0x60030 512

/-- CAP_WRITE: a write of PWR_CAP or PWR_MARGIN (R476). -/
def execCapWrite (m : Master) (margin : Bool) (v : BitVec 12) (s : State) : Out :=
  s.writes m (if margin then 0x60010 else 0x6000C) v.toNat

/-- ROLE_WRITE: a write of CAS_CTRL (R482). -/
def execRoleWrite (m : Master) (v : Word) (s : State) : Out := s.writes m 0x50004 v.toNat

/-- CAS_CMD with OP 0 and its key (R489, Table 1). -/
def execStringNop (m : Master) (s : State) : Out := s.writes m 0x50020 (keyed 0x96 0)

/-- CAS_CMD with OP 1 and its key (R489, Table 1). -/
def execStringStop (m : Master) (s : State) : Out := s.writes m 0x50020 (keyed 0x96 1)

/-- CAS_CMD with OP 2 and its key (R489, Table 1). -/
def execStringPark (m : Master) (s : State) : Out := s.writes m 0x50020 (keyed 0x96 2)

/-- STRING_BAD_OP: CAS_CMD with a reserved OP (R489). -/
def execStringBadOp (m : Master) (op : BitVec 3) (s : State) : Out := s.writes m 0x50020 (keyed 0x96 op.toNat)

/-! ## The host interface and the general pins (R501, R502, R504, R506, R508, R510) -/

/-- IRQ_MAP_ENABLE: a write of HST_IRQ_MAP with EN (R501). -/
def execIrqMapEnable (m : Master) (i : Fin 32) (vec : BitVec 6) (s : State) : Out :=
  s.writes m (0x90080 + 4 * i.val) (vec.toNat + 64)

/-- DMA_TAIL_WRITE (R502). -/
def execDmaTailWrite (m : Master) (c : Fin 16) (v : BitVec 16) (s : State) : Out :=
  s.writes m (0x9100C + 64 * c.val) v.toNat

/-- DMA_RESUME: a one in HST_DMA_STATUS.HALTED (R504). -/
def execDmaResume (m : Master) (c : Fin 16) (s : State) : Out := s.writes m (0x91018 + 64 * c.val) 2

/-- DMA_ABORT: a one in HST_DMA_CTRL.ABORT (R504). -/
def execDmaAbort (m : Master) (c : Fin 16) (s : State) : Out := s.trigger m (0x91014 + 64 * c.val) 8

/-- GPI_OUT_WRITE: a masked write (R506). -/
def execGpiOutWrite (m : Master) (k : Fin 4) (v : Word) (s : State) : Out := s.writes m (0x80010 + 4 * k.val) v.toNat

/-- GPI_OE_WRITE: a masked write (R506). -/
def execGpiOeWrite (m : Master) (k : Fin 4) (v : Word) (s : State) : Out := s.writes m (0x80020 + 4 * k.val) v.toNat

/-- PM_CONFIG_WRITE: a write of MASK, VALUE or CFG of a pattern-match unit (R508). -/
def execPmConfigWrite (m : Master) (u : Fin 8) (r : Fin 5) (v : Word) (s : State) : Out :=
  s.writes m (0x80080 + 32 * u.val + 4 * r.val) v.toNat

/-- TXDATA_WRITE (R510). -/
def execTxdataWrite (m : Master) (p : Fin 4) (v : BitVec 11) (s : State) : Out :=
  s.writes m (0x80188 + 32 * p.val) v.toNat

/-- RXDATA_READ (R510). -/
def execRxdataRead (m : Master) (p : Fin 4) (s : State) : Out := s.reads m (0x8018C + 32 * p.val)

/-! ## Debug (R516, R519, R520, R522, R526, R529) -/

/-- DBG_CMD with OP 1 (R529). -/
def execHalt (m : Master) (t : BitVec 7) (s : State) : Out := s.writes m 0xA0008 (1 + 8 * t.toNat)

/-- DBG_CMD with OP 2 (R529). -/
def execDebugResume (m : Master) (t : BitVec 7) (s : State) : Out := s.writes m 0xA0008 (2 + 8 * t.toNat)

/-- DBG_CMD with OP 3 (R529). -/
def execStep (m : Master) (t : BitVec 7) (s : State) : Out := s.writes m 0xA0008 (3 + 8 * t.toNat)

/-- DBG_NOP: DBG_CMD with an OP that does nothing (R529). -/
def execDbgNop (m : Master) (op : BitVec 3) (t : BitVec 7) (s : State) : Out :=
  s.writes m 0xA0008 (op.toNat + 8 * t.toNat)

/-- STATE_ACCESS: a write of DBG_ACC_SEL (R522). -/
def execStateAccess (m : Master) (t : BitVec 7) (write : Bool) (reg : Byte) (s : State) : Out :=
  s.writes m 0xA0030 (t.toNat + 128 * bit write + 256 * reg.toNat)

/-- What the next Capture-DR of DBGACC returns: DONE, ERR for an access that was refused or met an error, and the data
(R526). -/
def Dev.dbgDone (d : Dev) (r : Option Nat) : Dev :=
  { d with jtag := { d.jtag with dr := match r with
                                       | some v => 1 + 2 ^ 50 * v
                                       | none => 3 + 2 ^ 50 * (2 ^ 32 - 1) } }

/-- A 32-bit read by the debug master (R168, R526). -/
def State.dbgRead (s : State) (a : Nat) : State :=
  let (d, r) := match regionOf a with
    | .reg => s.dev.busRead .dbg a
    | _ => s.dev.dataRead .dbg a 4 false
  { s with dev := d.dbgDone r }

/-- A 32-bit write by the debug master (R168, R525, R526). -/
def State.dbgWrite (s : State) (a w : Nat) : State :=
  match regionOf a with
  | .reg =>
    match s.dev.regReach .dbg a true with
    | (d, true) => ({ s with dev := d }.regWrite .dbg a w).onDev fun d => d.dbgDone (some 0)
    | (d, false) => { s with dev := (d.writeDropped .dbg a).dbgDone none }
  | .flash => s.onDev fun d => d.dbgDone none
  | _ =>
    let (d, ok) := s.dev.memWriteOk .dbg a (leBytes w 4)
    { s with dev := d.dbgDone (if ok then some 0 else none) }

/-- DBGACC: the scan returns the previous access, then OP 1 reads and OP 2 writes 32 bits; 0 and 3 do nothing. In RETIRED it
acts as BYPASS (R515, R526). -/
def execDbgacc (op : BitVec 2) (addr : BitVec 48) (data : Word) (s : State) : Out :=
  if !s.dev.tapFull then s.does fun d => d.tapLoad 0xFF
  else
    let s := { s with dev := s.dev.tapLoad 0x08, answer := some s.dev.jtag.dr }
    .next (match op.toNat with
      | 1 => s.dbgRead addr.toNat
      | 2 => s.dbgWrite addr.toNat data.toNat
      | _ => s)

/-! ## Self-test, injection, the event log and the register CRC (R539, R544, R545, R558, R570, R578) -/

/-- BIST_GO: a one in BST_CMD.GO (R539). -/
def execBistGo (m : Master) (e : Fin 16) (queue : Bool) (s : State) : Out :=
  s.writes m 0xB0008 (e.val + 16 * bit queue + 32)

/-- BIST_CANCEL: a one in BST_CMD.CANCEL (R539). -/
def execBistCancel (m : Master) (e : Fin 16) (s : State) : Out := s.writes m 0xB0008 (e.val + 64)

/-- INJ_ARM: a one in INJ_SLOT_CTRL.ARM (R544). -/
def execInjArm (m : Master) (i : Fin 4) (s : State) : Out := s.writes m (0xC0110 + 32 * i.val) 1

/-- INJ_DISARM: a one in INJ_SLOT_CTRL.DISARM (R545). -/
def execInjDisarm (m : Master) (i : Fin 4) (s : State) : Out := s.writes m (0xC0110 + 32 * i.val) 2

/-- EVL_RD_WRITE: a write of an RD index (R558). -/
def execEvlRdWrite (m : Master) (cls : Fin 3) (v : Word) (s : State) : Out := s.writes m (0xD000C + 8 * cls.val) v.toNat

/-- RGP_OPEN: a one in RGP_CTRL.OPEN (R578). -/
def execRgpOpen (m : Master) (s : State) : Out := s.trigger m 0xE0004 1

/-- RGP_COMMIT: a one in RGP_COMMIT.GO (R578). -/
def execRgpCommit (m : Master) (key : BitVec 8) (s : State) : Out := s.writes m 0xE0008 (keyed key.toNat 1)

/-- REGISTER_WRITE: a write of a register without a row of its own (R570, R573, R574). -/
def execRegisterWrite (m : Master) (addr : BitVec 24) (v : Word) (s : State) : Out := s.writes m addr.toNat v.toNat

end Sys2Proof.Machine
end

