-- ==== Sys2Proof/Machine/Dispatch.lean ====
section
/-! DEFINITION. One arm for each command: its meaning, called directly. -/

namespace Sys2Proof.Machine

def exec (i : Instr) (s : State) : Host.Outcome State Fault Refusal :=
  match i with
  | .hubSuppliesValid => Sys2Proof.Machine.execHubSuppliesValid s
  | .por => Sys2Proof.Machine.execPor s
  | .hubPorRelease => Sys2Proof.Machine.execHubPorRelease s
  | .hubSelfCheck pass => Sys2Proof.Machine.execHubSelfCheck pass s
  | .ifLoadComplete => Sys2Proof.Machine.execIfLoadComplete s
  | .imageStart out => Sys2Proof.Machine.execImageStart out s
  | .startRequest m => Sys2Proof.Machine.execStartRequest m s
  | .pwrCheckComplete => Sys2Proof.Machine.execPwrCheckComplete s
  | .pwrTimeout rail => Sys2Proof.Machine.execPwrTimeout rail s
  | .bdBistDone pass idOk => Sys2Proof.Machine.execBdBistDone pass idOk s
  | .hbmPhyTrainingDone pass => Sys2Proof.Machine.execHbmPhyTrainingDone pass s
  | .hubLinkTrainingDone tx rx => Sys2Proof.Machine.execHubLinkTrainingDone tx rx s
  | .cdRelease => Sys2Proof.Machine.execCdRelease s
  | .cdBistDone d pass idOk => Sys2Proof.Machine.execCdBistDone d pass idOk s
  | .d2dLinkTrainingDone d spares => Sys2Proof.Machine.execD2dLinkTrainingDone d spares s
  | .stageTimeout => Sys2Proof.Machine.execStageTimeout s
  | .streamCheckComplete => Sys2Proof.Machine.execStreamCheckComplete s
  | .pllLockComplete d => Sys2Proof.Machine.execPllLockComplete d s
  | .pllNoLock d => Sys2Proof.Machine.execPllNoLock d s
  | .calLoadComplete d => Sys2Proof.Machine.execCalLoadComplete d s
  | .deskewMeasurementDone d vals => Sys2Proof.Machine.execDeskewMeasurementDone d vals s
  | .overTemperatureTrip code => Sys2Proof.Machine.execOverTemperatureTrip code s
  | .supplyTrip code rail => Sys2Proof.Machine.execSupplyTrip code rail s
  | .sentryLogicTrip code => Sys2Proof.Machine.execSentryLogicTrip code s
  | .peSafeRequest => Sys2Proof.Machine.execPeSafeRequest s
  | .unrecoverableSafeEntry => Sys2Proof.Machine.execUnrecoverableSafeEntry s
  | .enterLoad m => Sys2Proof.Machine.execEnterLoad m s
  | .devRstNLow => Sys2Proof.Machine.execDevRstNLow s
  | .devRstNHigh => Sys2Proof.Machine.execDevRstNHigh s
  | .drst m => Sys2Proof.Machine.execDrst m s
  | .hostResetTakesEffect => Sys2Proof.Machine.execHostResetTakesEffect s
  | .cdRst m d => Sys2Proof.Machine.execCdRst m d s
  | .bdRst m => Sys2Proof.Machine.execBdRst m s
  | .coreRst m q => Sys2Proof.Machine.execCoreRst m q s
  | .safeRelChange rel => Sys2Proof.Machine.execSafeRelChange rel s
  | .sntGroupForceWrite m v => Sys2Proof.Machine.execSntGroupForceWrite m v s
  | .sntPolicyWrite m v => Sys2Proof.Machine.execSntPolicyWrite m v s
  | .evtTrigger line => Sys2Proof.Machine.execEvtTrigger line s
  | .trigFTrigger d line => Sys2Proof.Machine.execTrigFTrigger d line s
  | .mboxFrom w => Sys2Proof.Machine.execMboxFrom w s
  | .mboxFromRead m => Sys2Proof.Machine.execMboxFromRead m s
  | .mboxToWrite m w => Sys2Proof.Machine.execMboxToWrite m w s
  | .swapRequest m key => Sys2Proof.Machine.execSwapRequest m key s
  | .swapCancel m key => Sys2Proof.Machine.execSwapCancel m key s
  | .swapBegin => Sys2Proof.Machine.execSwapBegin s
  | .swapTimeout => Sys2Proof.Machine.execSwapTimeout s
  | .swapCrcCheck => Sys2Proof.Machine.execSwapCrcCheck s
  | .swapLoadDone out => Sys2Proof.Machine.execSwapLoadDone out s
  | .swapReloadDone out => Sys2Proof.Machine.execSwapReloadDone out s
  | .acquire m => Sys2Proof.Machine.execAcquire m s
  | .acquisitionComplete tti sec tick => Sys2Proof.Machine.execAcquisitionComplete tti sec tick s
  | .refLost => Sys2Proof.Machine.execRefLost s
  | .secondMark => Sys2Proof.Machine.execSecondMark s
  | .go m => Sys2Proof.Machine.execGo m s
  | .timTtiLoRead m => Sys2Proof.Machine.execTimTtiLoRead m s
  | .timTickRead m => Sys2Proof.Machine.execTimTickRead m s
  | .timSecLoRead m => Sys2Proof.Machine.execTimSecLoRead m s
  | .timSecHiRead m => Sys2Proof.Machine.execTimSecHiRead m s
  | .snapshotLoRead m addr => Sys2Proof.Machine.execSnapshotLoRead m addr s
  | .arm m t e w => Sys2Proof.Machine.execArm m t e w s
  | .disarm m t e w => Sys2Proof.Machine.execDisarm m t e w s
  | .linkedCopyPlacement e => Sys2Proof.Machine.execLinkedCopyPlacement e s
  | .siteStartHit e => Sys2Proof.Machine.execSiteStartHit e s
  | .siteStopHit e => Sys2Proof.Machine.execSiteStopHit e s
  | .eventHit d e => Sys2Proof.Machine.execEventHit d e s
  | .pdStartHit d e => Sys2Proof.Machine.execPdStartHit d e s
  | .trigOutHit t e => Sys2Proof.Machine.execTrigOutHit t e s
  | .pwrStateHit t e => Sys2Proof.Machine.execPwrStateHit t e s
  | .eventArrival x inp n => Sys2Proof.Machine.execEventArrival x inp n s
  | .eviCntLoad m q inp v => Sys2Proof.Machine.execEviCntLoad m q inp v s
  | .illegalOpcode x vec => Sys2Proof.Machine.execIllegalOpcode x vec s
  | .nop x => Sys2Proof.Machine.execNop x s
  | .brk x tag => Sys2Proof.Machine.execBrk x tag s
  | .fence x => Sys2Proof.Machine.execFence x s
  | .fenceComplete x => Sys2Proof.Machine.execFenceComplete x s
  | .iflush x => Sys2Proof.Machine.execIflush x s
  | .cend x => Sys2Proof.Machine.execCend x s
  | .eret x => Sys2Proof.Machine.execEret x s
  | .add x rd rs1 rs2 => Sys2Proof.Machine.execAdd x rd rs1 rs2 s
  | .sub x rd rs1 rs2 => Sys2Proof.Machine.execSub x rd rs1 rs2 s
  | .andR x rd rs1 rs2 => Sys2Proof.Machine.execAndR x rd rs1 rs2 s
  | .orR x rd rs1 rs2 => Sys2Proof.Machine.execOrR x rd rs1 rs2 s
  | .xor x rd rs1 rs2 => Sys2Proof.Machine.execXor x rd rs1 rs2 s
  | .andn x rd rs1 rs2 => Sys2Proof.Machine.execAndn x rd rs1 rs2 s
  | .shl x rd rs1 rs2 => Sys2Proof.Machine.execShl x rd rs1 rs2 s
  | .shr x rd rs1 rs2 => Sys2Proof.Machine.execShr x rd rs1 rs2 s
  | .sar x rd rs1 rs2 => Sys2Proof.Machine.execSar x rd rs1 rs2 s
  | .ror x rd rs1 rs2 => Sys2Proof.Machine.execRor x rd rs1 rs2 s
  | .clt x rd rs1 rs2 => Sys2Proof.Machine.execClt x rd rs1 rs2 s
  | .cltu x rd rs1 rs2 => Sys2Proof.Machine.execCltu x rd rs1 rs2 s
  | .ceq x rd rs1 rs2 => Sys2Proof.Machine.execCeq x rd rs1 rs2 s
  | .min x rd rs1 rs2 => Sys2Proof.Machine.execMin x rd rs1 rs2 s
  | .max x rd rs1 rs2 => Sys2Proof.Machine.execMax x rd rs1 rs2 s
  | .minu x rd rs1 rs2 => Sys2Proof.Machine.execMinu x rd rs1 rs2 s
  | .maxu x rd rs1 rs2 => Sys2Proof.Machine.execMaxu x rd rs1 rs2 s
  | .clz x rd rs1 => Sys2Proof.Machine.execClz x rd rs1 s
  | .ctz x rd rs1 => Sys2Proof.Machine.execCtz x rd rs1 s
  | .popc x rd rs1 => Sys2Proof.Machine.execPopc x rd rs1 s
  | .sxb x rd rs1 => Sys2Proof.Machine.execSxb x rd rs1 s
  | .sxh x rd rs1 => Sys2Proof.Machine.execSxh x rd rs1 s
  | .sxw x rd rs1 => Sys2Proof.Machine.execSxw x rd rs1 s
  | .zxw x rd rs1 => Sys2Proof.Machine.execZxw x rd rs1 s
  | .mul x rd rs1 rs2 => Sys2Proof.Machine.execMul x rd rs1 rs2 s
  | .mulh x rd rs1 rs2 => Sys2Proof.Machine.execMulh x rd rs1 rs2 s
  | .mulhu x rd rs1 rs2 => Sys2Proof.Machine.execMulhu x rd rs1 rs2 s
  | .div x rd rs1 rs2 => Sys2Proof.Machine.execDiv x rd rs1 rs2 s
  | .divu x rd rs1 rs2 => Sys2Proof.Machine.execDivu x rd rs1 rs2 s
  | .rem x rd rs1 rs2 => Sys2Proof.Machine.execRem x rd rs1 rs2 s
  | .remu x rd rs1 rs2 => Sys2Proof.Machine.execRemu x rd rs1 rs2 s
  | .addi x rd rs1 imm => Sys2Proof.Machine.execAddi x rd rs1 imm s
  | .andi x rd rs1 imm => Sys2Proof.Machine.execAndi x rd rs1 imm s
  | .ori x rd rs1 imm => Sys2Proof.Machine.execOri x rd rs1 imm s
  | .xori x rd rs1 imm => Sys2Proof.Machine.execXori x rd rs1 imm s
  | .shi x rd rs1 kind amt => Sys2Proof.Machine.execShi x rd rs1 kind amt s
  | .clti x rd rs1 imm => Sys2Proof.Machine.execClti x rd rs1 imm s
  | .cltui x rd rs1 imm => Sys2Proof.Machine.execCltui x rd rs1 imm s
  | .li x rd imm => Sys2Proof.Machine.execLi x rd imm s
  | .addpc x rd imm => Sys2Proof.Machine.execAddpc x rd imm s
  | .pfx x hi => Sys2Proof.Machine.execPfx x hi s
  | .beq x rs1 rs2 off => Sys2Proof.Machine.execBeq x rs1 rs2 off s
  | .bne x rs1 rs2 off => Sys2Proof.Machine.execBne x rs1 rs2 off s
  | .blt x rs1 rs2 off => Sys2Proof.Machine.execBlt x rs1 rs2 off s
  | .bge x rs1 rs2 off => Sys2Proof.Machine.execBge x rs1 rs2 off s
  | .bltu x rs1 rs2 off => Sys2Proof.Machine.execBltu x rs1 rs2 off s
  | .bgeu x rs1 rs2 off => Sys2Proof.Machine.execBgeu x rs1 rs2 off s
  | .bl x rd off => Sys2Proof.Machine.execBl x rd off s
  | .jlr x rd rs1 imm => Sys2Proof.Machine.execJlr x rd rs1 imm s
  | .ld x rd rs1 sz u f off => Sys2Proof.Machine.execLd x rd rs1 sz u f off s
  | .loadDataArrival x k ue => Sys2Proof.Machine.execLoadDataArrival x k ue s
  | .st x rs1 rs2 sz f off => Sys2Proof.Machine.execSt x rs1 rs2 sz f off s
  | .waite x rd inp dl => Sys2Proof.Machine.execWaite x rd inp dl s
  | .waiteDeadline x => Sys2Proof.Machine.execWaiteDeadline x s
  | .waitt x rd rs1 imm => Sys2Proof.Machine.execWaitt x rd rs1 imm s
  | .waittTarget x => Sys2Proof.Machine.execWaittTarget x s
  | .sig x tgt inp reg => Sys2Proof.Machine.execSig x tgt inp reg s
  | .sigVector q tgt inp pin => Sys2Proof.Machine.execSigVector q tgt inp pin s
  | .pushv x rs1 => Sys2Proof.Machine.execPushv x rs1 s
  | .pushvSpace q => Sys2Proof.Machine.execPushvSpace q s
  | .rdv x rd idx => Sys2Proof.Machine.execRdv x rd idx s
  | .capq x rd rs1 sel => Sys2Proof.Machine.execCapq x rd rs1 sel s
  | .stim x rs1 port => Sys2Proof.Machine.execStim x rs1 port s
  | .rdt x rd sel => Sys2Proof.Machine.execRdt x rd sel s
  | .rdcs x rd sel => Sys2Proof.Machine.execRdcs x rd sel s
  | .wrcs x rs1 sel => Sys2Proof.Machine.execWrcs x rs1 sel s
  | .fadd x p rm rd rs1 rs2 => Sys2Proof.Machine.execFadd x p rm rd rs1 rs2 s
  | .fsub x p rm rd rs1 rs2 => Sys2Proof.Machine.execFsub x p rm rd rs1 rs2 s
  | .fmul x p rm rd rs1 rs2 => Sys2Proof.Machine.execFmul x p rm rd rs1 rs2 s
  | .fdiv x p rm rd rs1 rs2 => Sys2Proof.Machine.execFdiv x p rm rd rs1 rs2 s
  | .fsqrt x p rm rd rs1 => Sys2Proof.Machine.execFsqrt x p rm rd rs1 s
  | .fmin x p rm rd rs1 rs2 => Sys2Proof.Machine.execFmin x p rm rd rs1 rs2 s
  | .fmax x p rm rd rs1 rs2 => Sys2Proof.Machine.execFmax x p rm rd rs1 rs2 s
  | .fminm x p rm rd rs1 rs2 => Sys2Proof.Machine.execFminm x p rm rd rs1 rs2 s
  | .fmaxm x p rm rd rs1 rs2 => Sys2Proof.Machine.execFmaxm x p rm rd rs1 rs2 s
  | .feq x p rm rd rs1 rs2 => Sys2Proof.Machine.execFeq x p rm rd rs1 rs2 s
  | .flt x p rm rd rs1 rs2 => Sys2Proof.Machine.execFlt x p rm rd rs1 rs2 s
  | .fle x p rm rd rs1 rs2 => Sys2Proof.Machine.execFle x p rm rd rs1 rs2 s
  | .fltq x p rm rd rs1 rs2 => Sys2Proof.Machine.execFltq x p rm rd rs1 rs2 s
  | .fleq x p rm rd rs1 rs2 => Sys2Proof.Machine.execFleq x p rm rd rs1 rs2 s
  | .fun x p rm rd rs1 rs2 => Sys2Proof.Machine.execFun x p rm rd rs1 rs2 s
  | .fclass x p rm rd rs1 => Sys2Proof.Machine.execFclass x p rm rd rs1 s
  | .fsgnj x p rm rd rs1 rs2 => Sys2Proof.Machine.execFsgnj x p rm rd rs1 rs2 s
  | .fsgnjn x p rm rd rs1 rs2 => Sys2Proof.Machine.execFsgnjn x p rm rd rs1 rs2 s
  | .fsgnjx x p rm rd rs1 rs2 => Sys2Proof.Machine.execFsgnjx x p rm rd rs1 rs2 s
  | .fcvtFF x p rm rd rs1 => Sys2Proof.Machine.execFcvtFF x p rm rd rs1 s
  | .fcvtW x p rm rd rs1 => Sys2Proof.Machine.execFcvtW x p rm rd rs1 s
  | .fcvtWu x p rm rd rs1 => Sys2Proof.Machine.execFcvtWu x p rm rd rs1 s
  | .fcvtL x p rm rd rs1 => Sys2Proof.Machine.execFcvtL x p rm rd rs1 s
  | .fcvtLu x p rm rd rs1 => Sys2Proof.Machine.execFcvtLu x p rm rd rs1 s
  | .fcvtFW x p rm rd rs1 => Sys2Proof.Machine.execFcvtFW x p rm rd rs1 s
  | .fcvtFWu x p rm rd rs1 => Sys2Proof.Machine.execFcvtFWu x p rm rd rs1 s
  | .fcvtFL x p rm rd rs1 => Sys2Proof.Machine.execFcvtFL x p rm rd rs1 s
  | .fcvtFLu x p rm rd rs1 => Sys2Proof.Machine.execFcvtFLu x p rm rd rs1 s
  | .fmvGF x p rm rd rs1 => Sys2Proof.Machine.execFmvGF x p rm rd rs1 s
  | .fmvFG x p rm rd rs1 => Sys2Proof.Machine.execFmvFG x p rm rd rs1 s
  | .frintx x p rm rd rs1 => Sys2Proof.Machine.execFrintx x p rm rd rs1 s
  | .fmadd x p rm rd rs1 rs2 rs3 => Sys2Proof.Machine.execFmadd x p rm rd rs1 rs2 rs3 s
  | .fmsub x p rm rd rs1 rs2 rs3 => Sys2Proof.Machine.execFmsub x p rm rd rs1 rs2 rs3 s
  | .fnmadd x p rm rd rs1 rs2 rs3 => Sys2Proof.Machine.execFnmadd x p rm rd rs1 rs2 rs3 s
  | .fnmsub x p rm rd rs1 rs2 rs3 => Sys2Proof.Machine.execFnmsub x p rm rd rs1 rs2 rs3 s
  | .vdecl q => Sys2Proof.Machine.execVdecl q s
  | .rows q em prt rows => Sys2Proof.Machine.execRows q em prt rows s
  | .rpt q em row n => Sys2Proof.Machine.execRpt q em row n s
  | .idle q em n => Sys2Proof.Machine.execIdle q em n s
  | .vset q rsel part entry imm => Sys2Proof.Machine.execVset q rsel part entry imm s
  | .vpop q rsel => Sys2Proof.Machine.execVpop q rsel s
  | .aopx q xs ys ds aop wid => Sys2Proof.Machine.execAopx q xs ys ds aop wid s
  | .loop q n count => Sys2Proof.Machine.execLoop q n count s
  | .endl q n off => Sys2Proof.Machine.execEndl q n off s
  | .vjmp q off => Sys2Proof.Machine.execVjmp q off s
  | .vcall q n off => Sys2Proof.Machine.execVcall q n off s
  | .vret q n => Sys2Proof.Machine.execVret q n s
  | .mloop q n cond comb tmo segit mev mevon bidx => Sys2Proof.Machine.execMloop q n cond comb tmo segit mev mevon bidx s
  | .mend q => Sys2Proof.Machine.execMend q s
  | .segb q last bidx => Sys2Proof.Machine.execSegb q last bidx s
  | .matchLoopPassEnd si => Sys2Proof.Machine.execMatchLoopPassEnd si s
  | .matchLoopOutcome si => Sys2Proof.Machine.execMatchLoopOutcome si s
  | .segOverrun q => Sys2Proof.Machine.execSegOverrun q s
  | .viqUnderrun q => Sys2Proof.Machine.execViqUnderrun q s
  | .stopApply si => Sys2Proof.Machine.execStopApply si s
  | .stopBoundary si => Sys2Proof.Machine.execStopBoundary si s
  | .endBoundary si => Sys2Proof.Machine.execEndBoundary si s
  | .segmentBoundary si => Sys2Proof.Machine.execSegmentBoundary si s
  | .curtainEnd si => Sys2Proof.Machine.execCurtainEnd si s
  | .rockerPassEnd si => Sys2Proof.Machine.execRockerPassEnd si s
  | .segmentAdmissionEnd q ecc => Sys2Proof.Machine.execSegmentAdmissionEnd q ecc s
  | .vectorReadComplete q va errors => Sys2Proof.Machine.execVectorReadComplete q va errors s
  | .pinCycle q obs => Sys2Proof.Machine.execPinCycle q obs s
  | .pdCfgStart m d pd => Sys2Proof.Machine.execPdCfgStart m d pd s
  | .pdCfgStop m d pd => Sys2Proof.Machine.execPdCfgStop m d pd s
  | .pllStepArm m d p => Sys2Proof.Machine.execPllStepArm m d p s
  | .pllStepDisarm m d p => Sys2Proof.Machine.execPllStepDisarm m d p s
  | .pllStep d p => Sys2Proof.Machine.execPllStep d p s
  | .deskewSweepDue d grp => Sys2Proof.Machine.execDeskewSweepDue d grp s
  | .sweep m d => Sys2Proof.Machine.execSweep m d s
  | .rsuClr m d r => Sys2Proof.Machine.execRsuClr m d r s
  | .cmpMaskWrite m d k v => Sys2Proof.Machine.execCmpMaskWrite m d k v s
  | .recordGeneratorTake d => Sys2Proof.Machine.execRecordGeneratorTake d s
  | .stagingDrain d si => Sys2Proof.Machine.execStagingDrain d si s
  | .rdPtrWrite m d si v => Sys2Proof.Machine.execRdPtrWrite m d si v s
  | .wmHitClear m addr => Sys2Proof.Machine.execWmHitClear m addr s
  | .counterLoWrite m addr v => Sys2Proof.Machine.execCounterLoWrite m addr v s
  | .rpsMapping n => Sys2Proof.Machine.execRpsMapping n s
  | .cellOperation n => Sys2Proof.Machine.execCellOperation n s
  | .solveEngineTake => Sys2Proof.Machine.execSolveEngineTake s
  | .solutionWritten si res => Sys2Proof.Machine.execSolutionWritten si res s
  | .solve m si => Sys2Proof.Machine.execSolve m si s
  | .cancel m si => Sys2Proof.Machine.execCancel m si s
  | .clear m si => Sys2Proof.Machine.execClear m si s
  | .rpsNop m si => Sys2Proof.Machine.execRpsNop m si s
  | .rpsBadOp m op si => Sys2Proof.Machine.execRpsBadOp m op si s
  | .siteNop m si => Sys2Proof.Machine.execSiteNop m si s
  | .admitSite m si => Sys2Proof.Machine.execAdmit m si s
  | .admissionEnd k => Sys2Proof.Machine.execAdmissionEnd k s
  | .start m si => Sys2Proof.Machine.execStart m si s
  | .stop m si => Sys2Proof.Machine.execStop m si s
  | .park m si => Sys2Proof.Machine.execPark m si s
  | .abort m si => Sys2Proof.Machine.execAbort m si s
  | .resume m si => Sys2Proof.Machine.execResume m si s
  | .restart m si => Sys2Proof.Machine.execRestart m si s
  | .release m si => Sys2Proof.Machine.execRelease m si s
  | .siteBadOp m op si => Sys2Proof.Machine.execSiteBadOp m op si s
  | .generalBwBreach stack => Sys2Proof.Machine.execGeneralBwBreach stack s
  | .breachWaitEnd res persists => Sys2Proof.Machine.execBreachWaitEnd res persists s
  | .ptuInvalidate m w => Sys2Proof.Machine.execPtuInvalidate m w s
  | .invalidationDone => Sys2Proof.Machine.execInvalidationDone s
  | .ptuRootWrite m q hi v => Sys2Proof.Machine.execPtuRootWrite m q hi v s
  | .patrolRead stack block err => Sys2Proof.Machine.execPatrolRead stack block err s
  | .hostMemoryRead m addr len ue => Sys2Proof.Machine.execHostMemoryRead m addr len ue s
  | .hostMemoryWrite m addr bytes => Sys2Proof.Machine.execHostMemoryWrite m addr bytes s
  | .dataFlit c payload ok => Sys2Proof.Machine.execDataFlit c payload ok s
  | .idleFlit c ok => Sys2Proof.Machine.execIdleFlit c ok s
  | .replayRequest c ok => Sys2Proof.Machine.execReplayRequest c ok s
  | .replayLimit c => Sys2Proof.Machine.execReplayLimit c s
  | .linkSilence c => Sys2Proof.Machine.execLinkSilence c s
  | .linkLoss l => Sys2Proof.Machine.execLinkLoss l s
  | .recoveryStart l => Sys2Proof.Machine.execRecoveryStart l s
  | .trainingAttemptEnd l ok spares => Sys2Proof.Machine.execTrainingAttemptEnd l ok spares s
  | .hubRecover m => Sys2Proof.Machine.execHubRecover m s
  | .cdRecover m d => Sys2Proof.Machine.execCdRecover m d s
  | .recover m d => Sys2Proof.Machine.execRecover m d s
  | .guestRequest write addr len data => Sys2Proof.Machine.execGuestRequest write addr len data s
  | .isolate m v => Sys2Proof.Machine.execIsolate m v s
  | .violClear m => Sys2Proof.Machine.execViolClear m s
  | .cfgPortWrite m bytes => Sys2Proof.Machine.execCfgPortWrite m bytes s
  | .stream bytes => Sys2Proof.Machine.execStream bytes s
  | .regw addr data => Sys2Proof.Machine.execRegw addr data s
  | .regr addr => Sys2Proof.Machine.execRegr addr s
  | .stat => Sys2Proof.Machine.execStat s
  | .cfgpUnknown cmd => Sys2Proof.Machine.execCfgpUnknown cmd s
  | .streamHeader => Sys2Proof.Machine.execStreamHeader s
  | .blockHeader => Sys2Proof.Machine.execBlockHeader s
  | .pad => Sys2Proof.Machine.execPad s
  | .setDevid => Sys2Proof.Machine.execSetDevid s
  | .setCtlmask => Sys2Proof.Machine.execSetCtlmask s
  | .setDiectl => Sys2Proof.Machine.execSetDiectl s
  | .setDiepwr => Sys2Proof.Machine.execSetDiepwr s
  | .frames => Sys2Proof.Machine.execFrames s
  | .repeatPacket => Sys2Proof.Machine.execRepeatPacket s
  | .clearPacket => Sys2Proof.Machine.execClearPacket s
  | .reservedPacket => Sys2Proof.Machine.execReservedPacket s
  | .blockTag => Sys2Proof.Machine.execBlockTag s
  | .streamEnd => Sys2Proof.Machine.execStreamEnd s
  | .streamCrc => Sys2Proof.Machine.execStreamCrc s
  | .cfgTimeout => Sys2Proof.Machine.execCfgTimeout s
  | .hostAbort m => Sys2Proof.Machine.execHostAbort m s
  | .revertDone => Sys2Proof.Machine.execRevertDone s
  | .claimRelease => Sys2Proof.Machine.execClaimRelease s
  | .interfaceRelease m d => Sys2Proof.Machine.execInterfaceRelease m d s
  | .keybProgram m key => Sys2Proof.Machine.execKeybProgram m key s
  | .zeroize m key => Sys2Proof.Machine.execZeroize m key s
  | .vbatRetentionLoss => Sys2Proof.Machine.execVbatRetentionLoss s
  | .keyStoreTemperature => Sys2Proof.Machine.execKeyStoreTemperature s
  | .cfgiOpen d data => Sys2Proof.Machine.execCfgiOpen d data s
  | .cfgiData d w => Sys2Proof.Machine.execCfgiData d w s
  | .cfgiClose d crc => Sys2Proof.Machine.execCfgiClose d crc s
  | .cfgiAbort d => Sys2Proof.Machine.execCfgiAbort d s
  | .prAbort m d r => Sys2Proof.Machine.execPrAbort m d r s
  | .prReloadDone d => Sys2Proof.Machine.execPrReloadDone d s
  | .prBlankDone d => Sys2Proof.Machine.execPrBlankDone d s
  | .scrubPassStart d => Sys2Proof.Machine.execScrubPassStart d s
  | .scrubColumnDone d flips mapFail => Sys2Proof.Machine.execScrubColumnDone d flips mapFail s
  | .erase by' queue => Sys2Proof.Machine.execErase by' queue s
  | .program by' queue srcErr => Sys2Proof.Machine.execProgram by' queue srcErr s
  | .verify by' queue srcErr => Sys2Proof.Machine.execVerify by' queue srcErr s
  | .blankCheck by' queue => Sys2Proof.Machine.execBlankCheck by' queue s
  | .crc by' queue => Sys2Proof.Machine.execCrc by' queue s
  | .storeWrite by' queue srcErr => Sys2Proof.Machine.execStoreWrite by' queue srcErr s
  | .storeSelect by' queue => Sys2Proof.Machine.execStoreSelect by' queue s
  | .flashBadFunc by' func queue => Sys2Proof.Machine.execFlashBadFunc by' func queue s
  | .flashOperationEnd => Sys2Proof.Machine.execFlashOperationEnd s
  | .opTimeout => Sys2Proof.Machine.execOpTimeout s
  | .ifFlashRead off ecc => Sys2Proof.Machine.execIfFlashRead off ecc s
  | .pllLossOfLock d p => Sys2Proof.Machine.execPllLossOfLock d p s
  | .relock m d => Sys2Proof.Machine.execRelock m d s
  | .relockDone d a b => Sys2Proof.Machine.execRelockDone d a b s
  | .telemetryFrame src f => Sys2Proof.Machine.execTelemetryFrame src f s
  | .telemetryTimeout src => Sys2Proof.Machine.execTelemetryTimeout src s
  | .powerUpdate f => Sys2Proof.Machine.execPowerUpdate f s
  | .dieStateEntry n => Sys2Proof.Machine.execDieStateEntry n s
  | .wakeStart n => Sys2Proof.Machine.execWakeStart n s
  | .wakeEnd n ns => Sys2Proof.Machine.execWakeEnd n ns s
  | .tripClear m => Sys2Proof.Machine.execTripClear m s
  | .capWrite m margin v => Sys2Proof.Machine.execCapWrite m margin v s
  | .roleWrite m v => Sys2Proof.Machine.execRoleWrite m v s
  | .portUp port hop => Sys2Proof.Machine.execPortUp port hop s
  | .timeFrame port f => Sys2Proof.Machine.execTimeFrame port f s
  | .stringNop m => Sys2Proof.Machine.execStringNop m s
  | .stringStop m => Sys2Proof.Machine.execStringStop m s
  | .stringPark m => Sys2Proof.Machine.execStringPark m s
  | .stringBadOp m op => Sys2Proof.Machine.execStringBadOp m op s
  | .stringCommandArrival port op pos sites exec => Sys2Proof.Machine.execStringCommandArrival port op pos sites exec s
  | .stringCommandExec => Sys2Proof.Machine.execStringCommandExec s
  | .statusSlot => Sys2Proof.Machine.execStatusSlot s
  | .upstreamFrame slots => Sys2Proof.Machine.execUpstreamFrame slots s
  | .followerAbsent p => Sys2Proof.Machine.execFollowerAbsent p s
  | .blockLockLoss port => Sys2Proof.Machine.execBlockLockLoss port s
  | .timeFrameSilence => Sys2Proof.Machine.execTimeFrameSilence s
  | .holdoverDeadline => Sys2Proof.Machine.execHoldoverDeadline s
  | .configRequest f r => Sys2Proof.Machine.execConfigRequest f r s
  | .pcieLinkDown => Sys2Proof.Machine.execPcieLinkDown s
  | .hotReset => Sys2Proof.Machine.execHotReset s
  | .pfFlr => Sys2Proof.Machine.execPfFlr s
  | .vfFlr v => Sys2Proof.Machine.execVfFlr v s
  | .flashBarRead off n ecc => Sys2Proof.Machine.execFlashBarRead off n ecc s
  | .msixUnmask v => Sys2Proof.Machine.execMsixUnmask v s
  | .irqMapEnable m k vec => Sys2Proof.Machine.execIrqMapEnable m k vec s
  | .dmaTailWrite m c v => Sys2Proof.Machine.execDmaTailWrite m c v s
  | .descriptorComplete c w data err => Sys2Proof.Machine.execDescriptorComplete c w data err s
  | .dmaResume m c => Sys2Proof.Machine.execDmaResume m c s
  | .dmaAbort m c => Sys2Proof.Machine.execDmaAbort m c s
  | .gpiOutWrite m k v => Sys2Proof.Machine.execGpiOutWrite m k v s
  | .gpiOeWrite m k v => Sys2Proof.Machine.execGpiOeWrite m k v s
  | .patternMatch u pins => Sys2Proof.Machine.execPatternMatch u pins s
  | .pmConfigWrite m u r v => Sys2Proof.Machine.execPmConfigWrite m u r v s
  | .txdataWrite m p v => Sys2Proof.Machine.execTxdataWrite m p v s
  | .rxdataRead m p => Sys2Proof.Machine.execRxdataRead m p s
  | .serialByteReceived p b => Sys2Proof.Machine.execSerialByteReceived p b s
  | .serialTransferEnd p sent nack => Sys2Proof.Machine.execSerialTransferEnd p sent nack s
  | .halt m t => Sys2Proof.Machine.execHalt m t s
  | .debugResume m t => Sys2Proof.Machine.execDebugResume m t s
  | .step m t => Sys2Proof.Machine.execStep m t s
  | .dbgNop m op t => Sys2Proof.Machine.execDbgNop m op t s
  | .debugRequest x => Sys2Proof.Machine.execDebugRequest x s
  | .stateAccess m t write reg => Sys2Proof.Machine.execStateAccess m t write reg s
  | .extest => Sys2Proof.Machine.execExtest s
  | .idcode => Sys2Proof.Machine.execIdcode s
  | .samplePreload => Sys2Proof.Machine.execSamplePreload s
  | .dbgacc op addr data => Sys2Proof.Machine.execDbgacc op addr data s
  | .dbgstat => Sys2Proof.Machine.execDbgstat s
  | .bypass code => Sys2Proof.Machine.execBypass code s
  | .trstN => Sys2Proof.Machine.execTrstN s
  | .leaseRequest unit cls holder arg queue => Sys2Proof.Machine.execLeaseRequest unit cls holder arg queue s
  | .leaseRelease unit cls holder => Sys2Proof.Machine.execLeaseRelease unit cls holder s
  | .leaseWithdraw unit cls holder => Sys2Proof.Machine.execLeaseWithdraw unit cls holder s
  | .bistGo m e queue => Sys2Proof.Machine.execBistGo m e queue s
  | .bistCancel m e => Sys2Proof.Machine.execBistCancel m e s
  | .bistPeriodDue e => Sys2Proof.Machine.execBistPeriodDue e s
  | .bistStepDone fail last stop spares => Sys2Proof.Machine.execBistStepDone fail last stop spares s
  | .injArm m k => Sys2Proof.Machine.execInjArm m k s
  | .injDisarm m k => Sys2Proof.Machine.execInjDisarm m k s
  | .recordStore die unit => Sys2Proof.Machine.execRecordStore die unit s
  | .evlRdWrite m cls v => Sys2Proof.Machine.execEvlRdWrite m cls v s
  | .icacheInv m q => Sys2Proof.Machine.execIcacheInv m q s
  | .registerWrite m addr v => Sys2Proof.Machine.execRegisterWrite m addr v s
  | .rgpOpen m => Sys2Proof.Machine.execRgpOpen m s
  | .rgpCommit m key => Sys2Proof.Machine.execRgpCommit m key s
  | .rgpPassEnd => Sys2Proof.Machine.execRgpPassEnd s
  | .lifecycleRequest m target key => Sys2Proof.Machine.execLifecycleRequest m target key s
  | .lifecycleFusesProgrammed => Sys2Proof.Machine.execLifecycleFusesProgrammed s
  | .referenceBack => Sys2Proof.Machine.execReferenceBack s
  | .tripSysReqFall trip sys => Sys2Proof.Machine.execTripSysReqFall trip sys s
  | .tripCauseGone code rail => Sys2Proof.Machine.execTripCauseGone code rail s
  | .pcieLinkUp speed width => Sys2Proof.Machine.execPcieLinkUp speed width s
  | .storeComplete x k => Sys2Proof.Machine.execStoreComplete x k s
  | .trigOutPulseEnd t kind line => Sys2Proof.Machine.execTrigOutPulseEnd t kind line s
  | .osc40kEdge => Sys2Proof.Machine.execOsc40kEdge s
  | .guestLegTrainingDone a b => Sys2Proof.Machine.execGuestLegTrainingDone a b s
  | .downstreamPortDown => Sys2Proof.Machine.execDownstreamPortDown s

end Sys2Proof.Machine
end

