-- ==== Sys2Proof/Machine/Tick.lean ====
section
/-! DEFINITION. What happens at a tick whatever is commanded: activities whose queued lease has come go on, time moves,
waits fall due, and the injections that no command meets fire (R94, R117, R118, R320, R324, R534, R545, R546, R554). -/

namespace Sys2Proof.Machine

/-! ## Queued leases that have come (R534) -/

/-- The activity of `h` goes on with the lease that its queue gave it: `k` is 8 × unit + class. -/
def Dev.leaseGoes (d : Dev) (k h : Nat) : Dev :=
  let u := k / 8
  match k % 8 with
  | 0 => if h / 16 = 6 then d.sweepBegins u (h % 16) else d
  | 1 => if h / 16 = 5 ∧ d.prState u (h % 16) = 1 then d.cfgiGranted u (h % 16) else d
  | 3 => match d.flc.call with
    | some c => if h = flashHolder c.caller ∧ c.waits then d.flashBegins else d
    | none => d
  | 4 => if h = linkHolder u ∧ (d.link u).asked ∧ !(u = 4 ∧ d.get (K.BST_LEASE_ARG 4 lcD2D) = 1) then d.recoveryBegins u else d
  | 5 => if h = relockHolder u then d.relockBegins u else d
  | _ => d

/-- Every activity whose queued lease has come goes on, in the order of the grants; one that ends at once may pass its
lease on. -/
def Dev.leasesGo (d : Dev) : Nat → Dev
  | 0 => d
  | n + 1 =>
    match d.lease.granted with
    | [] => d
    | (k, h) :: l => Dev.leasesGo ({ d with lease := { d.lease with granted := l } }.leaseGoes k h) n

/-! ## Injections (R545, R546, Table 5) -/

/-- Detectors 0x01 and 0x02: a sensor of a die or a stack reads ARG °C (R462, R463). TRIP_CAUSE_GONE tells of its end. -/
def Dev.injTemp (d : Dev) (u arg : Nat) : Dev :=
  let b : BitVec 8 := BitVec.ofNat 8 arg
  let warn := if u < 6 then d.get K.PWR_TEMP_LIM_WARN else 85
  let trip := if u < 6 then d.get K.PWR_TEMP_LIM_TRIP else 95
  let d := d.sensors u warn [b]
  if (trip : Int) ≤ b.toInt then
    let l := if d.power.hot.contains u then d.power.hot else u :: d.power.hot
    { d with power := { d.power with hot := l } }.powerTrip 1 u 0
  else d

/-- The trip window of a rail in mV (R584, Table 1). -/
def railWindow (r : Nat) : Nat × Nat :=
  match r with
  | 0 => (752, 848)
  | 1 => (752, 848)
  | 2 => if Config.bankM33 then (2970, 3630) else (1620, 1980)
  | 3 => (705, 795)
  | 4 => (987, 1113)
  | 5 => (705, 795)
  | 10 => (705, 795)
  | 11 => (940, 1060)
  | 12 => (1140, 1260)
  | _ => (658, 742)

/-- Detector 0x03: a rail reads ARG[31:16] mV for 1 µs, at the monitor of the lowest DIE code that watches it (R462,
R463). -/
def Dev.injRail (d : Dev) (arg : Nat) : Dev :=
  let r := arg % 256
  let mv := bitsAt arg 16 16
  let w := railWindow r
  match (List.range 6).find? fun c => d.railWatched c r with
  | none => d
  | some c =>
    if r < 13 ∧ (mv < w.1 ∨ w.2 < mv) then
      let k := 16 * c + r
      let l := if d.power.badRail.contains k then d.power.badRail else k :: d.power.badRail
      { d with power := { d.power with badRail := l } }.powerTrip 2 c r
    else d

/-- Detector 0x04: TRIP is high for one tick, TRIP_CODE = ARG[7:0] (R72). -/
def Dev.injTrip (d : Dev) (arg : Nat) : Dev :=
  if d.snt.out.trip then d
  else (d.sentryTrip (arg % 256)).modSnt fun x => { x with out := { x.out with trip := false } }

/-- Detector 0x05: SYS_REQ is high for one tick (R72). -/
def Dev.injSys (d : Dev) : Dev :=
  if d.snt.out.sysReq then d else d.sysTrip.modSnt fun x => { x with out := { x.out with sysReq := false } }

/-- What an injected condition with its UNIT and ARG does: the detectors that wait for no command of their own. -/
def Dev.injEffect (d : Dev) (id u arg : Nat) : Dev :=
  match id with
  | 0x01 => d.injTemp u arg
  | 0x02 => d.injTemp u arg
  | 0x03 => d.injRail arg
  | 0x04 => d.injTrip arg
  | 0x05 => d.injSys
  | 0x06 => d.refLost
  | 0x07 => d.blockLockLost u
  | 0x0B => { d with links := { d.links with silent := tblPut d.links.silent u (d.clock + (4 * arg + 4) / 5) } }
  | 0x0F => d.flipBit (arg % 2 ^ 22) (bitsAt arg 32 13)
  | 0x11 => d.pllsLost u [arg % 2]
  | 0x19 => { d with power := { d.power with withheld := tblPut d.power.withheld u (d.clock + 800 * arg) } }
  | 0x1A => d.arrive (16 * u + bitsAt arg 4 4) (arg % 16) 255
  | _ => d.watchdog

/-- The detector has an opportunity in this tick: its unit is in service. -/
def Dev.injOpportunity (d : Dev) (id u arg : Nat) : Bool :=
  match id with
  | 0x01 => d.sensed u
  | 0x02 => d.sensed u
  | 0x03 => (List.range 6).any fun c => d.railWatched c (arg % 256)
  | 0x04 => d.imageRuns
  | 0x05 => d.imageRuns
  | 0x06 => bitAt d.time.present 0
  | 0x07 => bitAt d.cas.ports u
  | 0x0B => if u < 4 then d.cdUp u else d.bdUp
  | 0x0F => d.on (K.CFG_DIE_STATUS_STARTED u)
  | 0x11 => d.on (lockedFld u (arg % 2))
  | 0x19 => u == 4 || bitAt d.start.cdReleased u
  | 0x1A => bitAt d.start.cdReleased u
  | _ => d.watched

/-- The detectors that fire at a tick, with the precedence of what they stand for: P1 first, then P3 (R116, Table 5). -/
def tickDetectors : List (Nat × Evt) :=
  [(0x01, (1, 1, 0)), (0x02, (1, 1, 6)), (0x03, (1, 2, 0)), (0x04, (1, 3, 0)), (0x05, (1, 4, 0)), (0x1B, (1, 0, 0)),
    (0x06, (3, 0x0F, 0)), (0x07, (3, 0x0E, 0)), (0x11, (3, 0x0F, 0)), (0x0B, (3, 0x0D, 0)), (0x0F, (7, 0, 0)), (0x19, (7, 0, 0)),
    (0x1A, (7, 0, 0))]

/-- A detector fires in this tick, if a slot is armed for it and its unit gives the opportunity. -/
def State.injectOne (s : State) (p : Nat × Evt) : State :=
  match s.dev.injSlot p.1 fun u a => s.dev.injOpportunity p.1 u a with
  | none => s
  | some i => s.onDevAs p.2 fun d =>
      (d.injFired i).asInjected fun d => d.injEffect p.1 (d.get (K.INJ_SEL_UNIT i)) (d.injArg i)

/-- The injections of a tick, as its first events. -/
def State.injectTick (s : State) : State := tickDetectors.foldl State.injectOne s

/-! ## The tick -/

/-- What ends a tick: leases that have come, BIST, resumes whose condition has gone, an entry into Safe that falls due, a
lasting power breach, reports that waited for the hub link, masks written in this tick; then time moves. -/
def Dev.endTick (d : Dev) : Dev :=
  let d := (d.leasesGo 96).bistTick
  let d := d.each allSites Dev.resumeCheck
  let d := ((d.safeTick.breachTick).reportsArrive).masksNextTick
  d.timeTick

/-- A tick ends and the next begins: the events of R118 are counted anew. -/
def State.tick (s : State) : State :=
  let d := s.dev.endTick
  { s with dev := d, tickStart := d, applied := [] }.injectTick

end Sys2Proof.Machine
end

