-- ==== Sys2Proof/Machine/Step.lean ====
section
/-! DEFINITION. One step of the block: the command at the front of the queue, or the end of a tick when none waits. -/

namespace Sys2Proof.Machine

/-- One step: the front command is taken from the queue and executed with the queue's rest; on an empty queue the tick
ends (assumption log entry 71). -/
def step (s : State) : Host.Outcome State Fault Refusal :=
  match s.pending with
  | [] => .next s.tick
  | c :: rest => exec c { s with pending := rest }

/-- `s` with the command that a word spells at the front of its queue: the table gives no row any bits, so no word spells
one (assumption log entry 72). -/
def State.withFetchWord (s : State) (nbits w : Nat) : State :=
  match decodeTableWord nbits w with
  | some c => { s with pending := c :: s.pending }
  | none => s

end Sys2Proof.Machine
end

