-- ==== Sys2Proof/Safety.lean ====
section
/-! DEFINITION. What a sound state is, in the terms the statements use: memory and flash in their one canonical form, and
the record of a tick's sampled events legal. -/

namespace Sys2Proof.Machine

/-- The stored bytes and what decides how an unlisted byte reads (R58, R329, R424, R538). -/
structure MemPart where
  /-- Base SRAM and HBM. -/
  mem : List Host.Cell
  /-- The zeroed HBM blocks. -/
  zeroed : List Nat
  /-- Times the HBM contents became undefined. -/
  hbmEpoch : Nat
  /-- Flash. -/
  flash : List Host.Cell
  deriving DecidableEq, Repr

/-- The stored bytes of the device. -/
def Dev.memPart (d : Dev) : MemPart :=
  { mem := d.mem, zeroed := d.zeroed, hbmEpoch := d.hbmEpoch, flash := d.flash }

/-- What an unlisted byte of memory reads as (R58, R538). -/
def MemPart.blank (p : MemPart) (a : Nat) : Byte :=
  if inSram a || p.zeroed.contains (hbmBlock a) then 0 else Config.hbmByte p.hbmEpoch a

/-- The canonical form of memory and flash: addresses strictly rising, and no entry equal to what an unlisted address
reads as (R58, R329, R424). -/
def MemPart.wf (p : MemPart) : Bool :=
  tblWf p.mem && p.mem.all (fun c => c.2 != p.blank c.1) && tblWf p.flash && p.flash.all (fun c => c.2 != 0xFF)

/-- The device's memory and flash are in canonical form. -/
abbrev Memory.wf (d : Dev) : Bool := d.memPart.wf

/-- The sampled events kept of the present tick have a precedence class of R116, P1 to P7. -/
def State.classesWf (s : State) : Bool := s.applied.all fun e => decide (1 ≤ e.1.1) && decide (e.1.1 ≤ 7)

end Sys2Proof.Machine
end

