-- ==== Sys2Proof/Certificates/Slice0/Obligations.lean ====
section
/-! DEFINITION. The statements about the model: what each family of commands does and leaves alone, what the machine
keeps at every step, and what it is after reset. Each names the rules of spec/ that it formalises. -/

open Sys2Proof Sys2Proof.Machine

namespace Sys2Proof.Slice0

/-! ## How the statements speak of an outcome -/

/-- The command completes with a next state that differs from `s` in the device alone, and that `P` holds of. -/
def Gives (c : Instr) (s : State) (P : Dev → Prop) : Prop :=
  ∃ d, exec c s = .next { s with dev := d } ∧ P d

/-- The same for a sampled event (R116), which the state keeps among the events of the tick. -/
def GivesAs (e : Evt) (c : Instr) (s : State) (P : Dev → Prop) : Prop :=
  ∃ d, exec c s = .next { s with dev := d, applied := s.applied ++ [(e, d)] } ∧ P d

/-- The device keeps everything but its register fields. -/
def RegsOnly (d d' : Dev) : Prop := d' = { d with regs := d'.regs }

/-- Every register field keeps its value but those of the list. -/
def FieldsKept (d d' : Dev) (l : List Fld) : Prop := ∀ f : Fld, (∀ g ∈ l, f.key ≠ g.key) → d'.get f = d.get f

/-- Every byte of memory reads as before. -/
def BytesKept (d d' : Dev) : Prop := ∀ a, d'.memGet a = d.memGet a

/-- Every byte of memory outside `n` bytes at `a` reads as before. -/
def BytesKeptBut (d d' : Dev) (a n : Nat) : Prop := ∀ b, b < a ∨ a + n ≤ b → d'.memGet b = d.memGet b

/-! ## Register accesses -/

/-- The hub lets master `m`'s access through to the register at `a`, which is present and not isolated (R371, R499, R515,
R538, R569). -/
def Lets (s : State) (m : Master) (a : Nat) (write : Bool) : Prop :=
  (s.dev.regReach m a write).2 = true ∧ s.dev.regDark a = false

/-- The command completes as a sampled register write of master `m` (R116) with a device that `P` holds of. -/
def GivesBy (m : Master) (c : Instr) (s : State) (P : Dev → Prop) : Prop := GivesAs (writeClass m, 0, 0) c s P

/-- The device keeps everything but its register fields, and of these all but the ones of the list. -/
def FieldsOnly (d d' : Dev) (l : List Fld) : Prop := RegsOnly d d' ∧ FieldsKept d d' l

/-- Every register field keeps its value but those of the list and those of the register at `a`, which a write of a trigger
bit of it writes again with their present values (R570, R574). -/
def FieldsKeptBut (d d' : Dev) (a : Nat) (l : List Fld) : Prop :=
  ∀ f : Fld, f.key / 32 ≠ a / 4 → (∀ g ∈ l, f.key ≠ g.key) → d'.get f = d.get f

/-- The fields of the list, written again with their present values, keep them. -/
def Rewritten (d d' : Dev) (l : List Fld) : Prop := ∀ f ∈ l, d.get f < 2 ^ f.width → d'.get f = d.get f

/-- What a failed stage shows: FAIL with its code and die, mode Sentry, and every other die held in reset (R42). -/
def StartFailed (code die : Nat) (d : Dev) : Prop :=
  d.get K.DEV_START_STATUS_FAIL = 1 ∧ d.get K.DEV_START_STATUS_FAIL_CODE = code ∧ d.get K.DEV_START_STATUS_FAIL_DIE = die ∧
    d.get K.DEV_MODE_MODE = 0 ∧ d.get K.DEV_START_STATUS_START_DONE = 0 ∧ d.start.bdReleased = false ∧
    ∀ n, n < 4 → d.cdPresent n = true → bitAt d.start.cdReleased n = false

/-- What an entry into Safe leaves: the mode, its cause and what of it persists, and every site that was Admitted, Running,
Curtaining or Rocking Aborted (R52, R56). -/
def SafeEntered (d0 : Dev) (cause : Nat) (causes : List Nat) (d : Dev) : Prop :=
  d.get K.DEV_MODE_MODE = 5 ∧ d.get K.DEV_MODE_SAFE_CAUSE = cause ∧ d.get K.DEV_START_STATUS_START_DONE = 0 ∧
    d.start.causes = causes ∧ d.start.safeWait = none ∧ ∀ x, x < 64 → d0.siteIn x [1, 2, 3, 4] = true → d.siteState x = 6

/-- The read completes with the answer `v` and a device that `P` holds of. -/
def Answers (c : Instr) (s : State) (v : Nat) (P : Dev → Prop) : Prop :=
  ∃ d, exec c s = .next { s with dev := d, answer := some v } ∧ P d

/-! ## Prajo instructions -/

/-- A control instruction of controller `x` that reads g registers `gs` and f registers `fs` executes now (R160): the
pipeline runs and is not halted, no source awaits a load, the fetch lets it execute, and no debug step is in progress. -/
def Issues (s : State) (x : CtlId) (gs fs : List Nat) : Prop :=
  s.dev.ctlReady x = true ∧ (s.dev.core x).awaits gs fs = false ∧ (s.dev.fetch x).2 = true ∧
    (s.dev.core x).stepping = false

/-- What an instruction that works on its own controller's registers leaves alone: every other controller, every byte of
memory, every register field but those that its fetch writes, and every unit but the event log and the TLBs, which the
fetch may touch. -/
def OwnRegisters (x : CtlId) (d d' : Dev) : Prop :=
  (∀ y, y ≠ x.val → d'.core y = d.core y) ∧ BytesKept d d' ∧ (∀ f, d'.get f = (d.fetch x).1.get f) ∧
    d' = { d with regs := d'.regs, evl := d'.evl, cores := d'.cores, ptu := d'.ptu }

/-- The instruction at the program counter of `x` writes `v` to g[rd] (nothing where rd is g0), and goes on at `pc'`:
every other register of the controller keeps its value (R127, R155, R159). -/
def WritesGTo (c : Instr) (s : State) (x : CtlId) (rd : Reg) (v : DWord) (pc' : Nat) : Prop :=
  Gives c s fun d =>
    (∀ r, (d.core x).gGet r = if r = rd.val ∧ r ≠ 0 then v else (s.dev.core x).gGet r) ∧
    (d.core x) = { s.dev.core x with
      g := (d.core x).g, loads := (d.core x).loads, trace := (d.core x).trace, pc := pc', pfx := none, fetched := 0
      icache := true } ∧
    OwnRegisters x s.dev d

/-- The same, going on at the next address. -/
def WritesG (c : Instr) (s : State) (x : CtlId) (rd : Reg) (v : DWord) : Prop :=
  WritesGTo c s x rd v (s.dev.core x).nextPc

/-- The instruction changes of its controller only what `f` changes of it, beside the retirement to `pc'`. -/
def RetiresTo (c : Instr) (s : State) (x : CtlId) (pc' : Nat) (f : Core → Core) : Prop :=
  Gives c s fun d =>
    (d.core x) = { f (s.dev.core x) with
      trace := (d.core x).trace, pc := pc', pfx := none, fetched := 0, icache := (f { s.dev.core x with icache := true }).icache } ∧
    OwnRegisters x s.dev d

/-- The value of a g register of `x`. -/
def G (s : State) (x : CtlId) (r : Reg) : DWord := (s.dev.core x).gGet r

/-- 1 where the condition holds, else 0. -/
def oneIf (p : Prop) [Decidable p] : DWord := if p then 1 else 0

end Sys2Proof.Slice0

open Sys2Proof.Slice0

/-- R162: the ALU group on two registers; the result goes to rd modulo 2^64, and nothing else of the machine changes
but the program counter. -/
def Obligations.AluRegisterResults : Prop :=
  ∀ (x : CtlId) (rd rs1 rs2 : Reg) (s : State), Issues s x [rs1, rs2] [] → (s.dev.core x).pfx = none →
    let a := G s x rs1
    let b := G s x rs2
    let n := b.toNat % 64
    WritesG (.add x rd rs1 rs2) s x rd (a + b) ∧
    WritesG (.sub x rd rs1 rs2) s x rd (a - b) ∧
    WritesG (.andR x rd rs1 rs2) s x rd (a &&& b) ∧
    WritesG (.orR x rd rs1 rs2) s x rd (a ||| b) ∧
    WritesG (.xor x rd rs1 rs2) s x rd (a ^^^ b) ∧
    WritesG (.andn x rd rs1 rs2) s x rd (a &&& ~~~b) ∧
    WritesG (.shl x rd rs1 rs2) s x rd (BitVec.ofNat 64 (a.toNat * 2 ^ n)) ∧
    WritesG (.shr x rd rs1 rs2) s x rd (BitVec.ofNat 64 (a.toNat / 2 ^ n)) ∧
    WritesG (.sar x rd rs1 rs2) s x rd (BitVec.ofInt 64 (a.toInt / 2 ^ n)) ∧
    WritesG (.ror x rd rs1 rs2) s x rd (BitVec.ofNat 64 (a.toNat / 2 ^ n + a.toNat * 2 ^ (64 - n))) ∧
    WritesG (.clt x rd rs1 rs2) s x rd (oneIf (a.toInt < b.toInt)) ∧
    WritesG (.cltu x rd rs1 rs2) s x rd (oneIf (a.toNat < b.toNat)) ∧
    WritesG (.ceq x rd rs1 rs2) s x rd (oneIf (a = b)) ∧
    WritesG (.min x rd rs1 rs2) s x rd (BitVec.ofInt 64 (min a.toInt b.toInt)) ∧
    WritesG (.max x rd rs1 rs2) s x rd (BitVec.ofInt 64 (max a.toInt b.toInt)) ∧
    WritesG (.minu x rd rs1 rs2) s x rd (BitVec.ofNat 64 (min a.toNat b.toNat)) ∧
    WritesG (.maxu x rd rs1 rs2) s x rd (BitVec.ofNat 64 (max a.toNat b.toNat))

/-- R163 and the unary rows of R162: products, quotients and remainders with the stated results for a zero divisor and
for −2^63 ÷ −1; counts of zeros and ones; sign and zero extensions. -/
def Obligations.MulDivAndUnaryResults : Prop :=
  ∀ (x : CtlId) (rd rs1 rs2 : Reg) (s : State), Issues s x [rs1, rs2] [] → (s.dev.core x).pfx = none →
    let a := G s x rs1
    let b := G s x rs2
    WritesG (.mul x rd rs1 rs2) s x rd (BitVec.ofNat 64 (a.toNat * b.toNat)) ∧
    WritesG (.mulh x rd rs1 rs2) s x rd (BitVec.ofInt 64 (a.toInt * b.toInt / 2 ^ 64)) ∧
    WritesG (.mulhu x rd rs1 rs2) s x rd (BitVec.ofNat 64 (a.toNat * b.toNat / 2 ^ 64)) ∧
    WritesG (.div x rd rs1 rs2) s x rd (if b = 0 then -1 else BitVec.ofInt 64 (a.toInt.tdiv b.toInt)) ∧
    WritesG (.divu x rd rs1 rs2) s x rd (if b = 0 then -1 else BitVec.ofNat 64 (a.toNat / b.toNat)) ∧
    WritesG (.rem x rd rs1 rs2) s x rd (if b = 0 then a else BitVec.ofInt 64 (a.toInt.tmod b.toInt)) ∧
    WritesG (.remu x rd rs1 rs2) s x rd (if b = 0 then a else BitVec.ofNat 64 (a.toNat % b.toNat)) ∧
    (∃ n, n ≤ 64 ∧ WritesG (.clz x rd rs1) s x rd (BitVec.ofNat 64 n) ∧ a.toNat < 2 ^ (64 - n) ∧
      (n < 64 → 2 ^ (63 - n) ≤ a.toNat)) ∧
    (∃ n, n ≤ 64 ∧ WritesG (.ctz x rd rs1) s x rd (BitVec.ofNat 64 n) ∧ a.toNat % 2 ^ n = 0 ∧
      (n < 64 → a.toNat / 2 ^ n % 2 = 1)) ∧
    WritesG (.popc x rd rs1) s x rd (BitVec.ofNat 64 ((List.range 64).countP fun i => a.getLsbD i)) ∧
    WritesG (.sxb x rd rs1) s x rd (BitVec.ofInt 64 (a.setWidth 8).toInt) ∧
    WritesG (.sxh x rd rs1) s x rd (BitVec.ofInt 64 (a.setWidth 16).toInt) ∧
    WritesG (.sxw x rd rs1) s x rd (BitVec.ofInt 64 (a.setWidth 32).toInt) ∧
    WritesG (.zxw x rd rs1) s x rd (BitVec.ofNat 64 (a.toNat % 2 ^ 32))

/-- The immediate that an instruction takes: imm43 sign-extended, or, after a prefix, HI21 × 2^43 + imm43. -/
def Sys2Proof.Slice0.immOf (s : State) (x : CtlId) (imm : BitVec 43) : DWord :=
  match (s.dev.core x).pfx with
  | none => BitVec.ofInt 64 imm.toInt
  | some hi => BitVec.ofNat 64 (hi * 2 ^ 43 + imm.toNat)

/-- R164, R156, R159: the immediate instructions, each with and without a prefix where it may have one; the next
instruction is 8 bytes on, or 16 from the prefix. A prefix itself changes nothing but the immediate of the word that
follows it. -/
def Obligations.ImmediateResults : Prop :=
  ∀ (x : CtlId) (rd rs1 : Reg) (imm : BitVec 43) (s : State),
    (Issues s x [rs1] [] →
      let a := G s x rs1
      let i := immOf s x imm
      WritesG (.addi x rd rs1 imm) s x rd (a + i) ∧
      WritesG (.andi x rd rs1 imm) s x rd (a &&& i) ∧
      WritesG (.ori x rd rs1 imm) s x rd (a ||| i) ∧
      WritesG (.xori x rd rs1 imm) s x rd (a ^^^ i) ∧
      WritesG (.clti x rd rs1 imm) s x rd (oneIf (a.toInt < i.toInt)) ∧
      WritesG (.cltui x rd rs1 imm) s x rd (oneIf (a.toNat < i.toNat))) ∧
    (Issues s x [] [] →
      let i := immOf s x imm
      WritesG (.li x rd imm) s x rd i ∧
      WritesG (.addpc x rd imm) s x rd (BitVec.ofNat 64 (s.dev.core x).pc + i)) ∧
    (Issues s x [rs1] [] → (s.dev.core x).pfx = none →
      let a := G s x rs1
      ∀ n : BitVec 6,
        WritesG (.shi x rd rs1 0 n) s x rd (BitVec.ofNat 64 (a.toNat * 2 ^ n.toNat)) ∧
        WritesG (.shi x rd rs1 1 n) s x rd (BitVec.ofNat 64 (a.toNat / 2 ^ n.toNat)) ∧
        WritesG (.shi x rd rs1 2 n) s x rd (BitVec.ofInt 64 (a.toInt / 2 ^ n.toNat)) ∧
        WritesG (.shi x rd rs1 3 n) s x rd (BitVec.ofNat 64 (a.toNat / 2 ^ n.toNat + a.toNat * 2 ^ (64 - n.toNat)))) ∧
    (s.dev.ctlReady x = true → (s.dev.core x).pfx = none → ∀ hi : BitVec 21,
      Gives (.pfx x hi) s fun d =>
        d.core x = { s.dev.core x with pfx := some hi.toNat } ∧ d = { s.dev with cores := d.cores } ∧
        ∀ y, y ≠ x.val → d.core y = s.dev.core y)

/-- R165, R166: a branch goes to PC + 8 × off43 modulo 2^48 when its condition holds and to the next instruction
otherwise, writing no register; BL and JLR also write the address after the instruction to rd, JLR's target being read
before rd is written. A JLR whose target is not a multiple of 8 takes the MISALIGNED exception on the hub controller
(R183): HUBC_EPC is its address, IN_HANDLER is set and NESTED if it was, and HUBC_PC is HUBC_EVEC. -/
def Obligations.BranchesAndJumps : Prop :=
  ∀ (x : CtlId) (rd rs1 rs2 : Reg) (off imm : BitVec 43) (s : State),
    let a := G s x rs1
    let b := G s x rs2
    let next := ((s.dev.core x).pc + 8) % 2 ^ 48 / 8 * 8
    let target := ((((s.dev.core x).pc : Int) + 8 * off.toInt) % 2 ^ 48).toNat / 8 * 8
    (Issues s x [rs1, rs2] [] → (s.dev.core x).pfx = none →
      let goes (p : Prop) [Decidable p] : Nat := if p then target else next
      RetiresTo (.beq x rs1 rs2 off) s x (goes (a = b)) id ∧
      RetiresTo (.bne x rs1 rs2 off) s x (goes (a ≠ b)) id ∧
      RetiresTo (.blt x rs1 rs2 off) s x (goes (a.toInt < b.toInt)) id ∧
      RetiresTo (.bge x rs1 rs2 off) s x (goes (b.toInt ≤ a.toInt)) id ∧
      RetiresTo (.bltu x rs1 rs2 off) s x (goes (a.toNat < b.toNat)) id ∧
      RetiresTo (.bgeu x rs1 rs2 off) s x (goes (b.toNat ≤ a.toNat)) id) ∧
    (Issues s x [] [] → (s.dev.core x).pfx = none →
      WritesGTo (.bl x rd off) s x rd (BitVec.ofNat 64 next) target) ∧
    (Issues s x [rs1] [] → (a + immOf s x imm).toNat % 8 = 0 →
      WritesGTo (.jlr x rd rs1 imm) s x rd (BitVec.ofNat 64 (s.dev.core x).nextPc)
        ((a + immOf s x imm).toNat % 2 ^ 48)) ∧
    (x.val = 64 → Issues s x [rs1] [] → (a + immOf s x imm).toNat % 8 ≠ 0 →
      let c := s.dev.core 64
      Gives (.jlr x rd rs1 imm) s fun d =>
        (d.core 64).epc = c.pc ∧ (d.core 64).pc = c.evecOf ∧
        (d.core 64).ecause = 3 + 256 + (if bitAt c.ecause 8 || bitAt c.ecause 9 then 512 else 0) ∧
        (∀ r, (d.core 64).gGet r = c.gGet r) ∧ BytesKept s.dev d)

/-- R157, R169, R183: NOP only goes on; IFLUSH empties the instruction cache; CEND ends a core's control pipeline; ERET on
the hub controller returns to HUBC_EPC with bits [2:0] zero and clears IN_HANDLER; a FENCE completes at once where no
access is outstanding, waits otherwise, and a waiting one completes once its accesses have. A word that no instruction
has takes, on the hub controller, the exception ILLEGAL_OPCODE, and in a core of no site the fault ILLEGAL_OPCODE, which
stops both pipelines. -/
def Obligations.SysInstructions : Prop :=
  ∀ (x : CtlId) (s : State),
    let c := s.dev.core x
    let next := (c.pc + 8) % 2 ^ 48 / 8 * 8
    (Issues s x [] [] → c.pfx = none →
      RetiresTo (.nop x) s x next id ∧
      RetiresTo (.iflush x) s x next (fun c => { c with icache := false }) ∧
      (x.val < 64 → RetiresTo (.cend x) s x next fun c => { c with ctl := .ended }) ∧
      (x.val = 64 → RetiresTo (.eret x) s x (c.epc / 8 * 8) fun c => { c with ecause := clearBitAt c.ecause 8 }) ∧
      (c.loads = [] → c.stores = [] → RetiresTo (.fence x) s x next id) ∧
      (c.loads ≠ [] ∨ c.stores ≠ [] → Gives (.fence x) s fun d =>
        (d.core x).ctl = .fence ∧ (d.core x).pc = c.pc ∧ OwnRegisters x s.dev d)) ∧
    (c.ctl = .fence → c.loads = [] → c.stores = [] → c.halted = false → c.pfx = none →
      Gives (.fenceComplete x) s fun d =>
        d.core x = { c with ctl := .run, pc := next, fetched := 0 } ∧ d = { s.dev with cores := d.cores } ∧
        ∀ y, y ≠ x.val → d.core y = s.dev.core y) ∧
    (x.val = 64 → Issues s x [] [] → Gives (.illegalOpcode x false) s fun d =>
        (d.core 64).epc = c.pc ∧ (d.core 64).pc = c.evecOf ∧
        (d.core 64).ecause = 1 + 256 + (if bitAt c.ecause 8 || bitAt c.ecause 9 then 512 else 0) ∧ BytesKept s.dev d) ∧
    (x.val < 64 → Issues s x [] [] → (s.dev.fetch x).1.coreSite x = none → Gives (.illegalOpcode x false) s fun d =>
        (d.core x).ctl = .stopped ∧ (d.core x).v.vec = .stopped ∧ (d.core x).pc = c.pc ∧ d.coreState x = csFAULTED ∧
        ((s.dev.fetch x).1.faultCode x = 0 → d.faultCode x = fcILLEGAL) ∧ BytesKept s.dev d)

/-- R145, R160, R167: LD issues a load to the device address that its translation gives and goes on; ST places a store in
the buffer while it holds fewer than eight; no register but the program counter is written and no byte of memory changes
until they complete. The address check is the model's own function, applied to the fetched device. -/
def Obligations.LoadAndStoreIssue : Prop :=
  ∀ (x : CtlId) (rd rs1 rs2 : Reg) (sz : BitVec 2) (u f : Bool) (off : BitVec 39) (s : State) (d1 : Dev) (a : Nat),
    let c := s.dev.core x
    let va := (G s x rs1 + BitVec.ofInt 64 off.toInt).toNat
    let n := 2 ^ sz.toNat
    let kept (d : Dev) : Prop :=
      (d.core x).pc = c.nextPc ∧ (d.core x).accSeq = c.accSeq + 1 ∧ (∀ r, (d.core x).gGet r = c.gGet r) ∧
        (∀ r, (d.core x).fGet r = c.fGet r) ∧ (d.core x).ctl = c.ctl ∧
        (∀ y, y ≠ x.val → d.core y = s.dev.core y) ∧ BytesKept s.dev d
    c.pfx = none →
    (((u = true → sz ≠ 3) ∧ (f = true → (sz = 2 ∨ sz = 3) ∧ u = false)) → Issues s x [rs1] [] →
      (s.dev.fetch x).1.ctlAccess x va n .load = (d1, some a) →
      Gives (.ld x rd rs1 sz u f off) s fun d =>
        kept d ∧ (d.core x).stores = c.stores ∧ ∃ l, l.length = c.loads.length ∧
          (d.core x).loads = l ++ [{ seq := c.accSeq, addr := a, size := n, uns := u, isF := f, rd := rd, pc := c.pc, va := va }]) ∧
    ((f = true → sz = 2 ∨ sz = 3) → c.stores.length < 8 →
      Issues s x (if f then [rs1.val] else [rs1.val, rs2.val]) (if f then [rs2.val] else []) →
      (s.dev.fetch x).1.ctlAccess x va n .store = (d1, some a) →
      Gives (.st x rs1 rs2 sz f off) s fun d =>
        kept d ∧ (d.core x).loads = c.loads ∧
          (d.core x).stores = c.stores ++ [{ seq := c.accSeq, addr := a, size := n
                                             data := (if f then c.fGet rs2 else c.gGet rs2).toNat % 2 ^ (8 * n)
                                             pc := c.pc, va := va }])

/-- A device address of memory: base SRAM or an HBM aperture. -/
def Sys2Proof.Slice0.inMemory (a : Nat) : Prop :=
  regionOf a ≠ .reg ∧ regionOf a ≠ .flash ∧ regionOf a ≠ .unmapped ∧ ∀ n, regionOf a ≠ .user n

/-- The bytes at device addresses `a` to `a + n - 1` are those of `v`, little-endian, where their storage is present, and
every other byte of memory reads as before. -/
def Sys2Proof.Slice0.Stored (d d' : Dev) (a n v : Nat) : Prop :=
  (∀ i, i < n → d.storeAbsent (a + i) = false → d'.memGet (d.placeOf (a + i)) = BitVec.ofNat 8 (v / 2 ^ (8 * i))) ∧
    ∀ p, (∀ i, i < n → d.placeOf (a + i) ≠ p) → d'.memGet p = d.memGet p

/-- R146, R160, R167: the data of a load arrive in its register, extended as the instruction says, and the load is no
longer outstanding; a store leaves the buffer and its bytes, and no others, are written. An access completes when no
earlier one to the same bytes is outstanding. -/
def Obligations.LoadAndStoreCompletion : Prop :=
  ∀ (x : CtlId) (k : Nat) (s : State) (d1 : Dev),
    let c := s.dev.core x
    (∀ l : Load, c.loads[k]? = some l → c.mayComplete l.seq l.addr l.size = true → inMemory l.addr →
      (s.dev.modCore x fun c => { c with loads := c.loads.eraseIdx k }).ctlJudge x false l.addr l.size = (d1, none) →
      d1.errWords l.addr l.size = [] →
      Gives (.loadDataArrival x k false) s fun d =>
        let v := s.dev.peekNum l.addr l.size
        let e : DWord := if l.uns || l.isF then BitVec.ofNat 64 v else BitVec.ofInt 64 (BitVec.ofNat (8 * l.size) v).toInt
        (1 ≤ l.size → l.size ≤ 8 →
          (l.isF = false → ∀ r, (d.core x).gGet r = if r = l.rd ∧ r ≠ 0 then e else c.gGet r) ∧
          (l.isF = true → ∀ r, (d.core x).fGet r = if r = l.rd then e else c.fGet r)) ∧
        (d.core x).loads.length = c.loads.length - 1 ∧ (d.core x).pc = c.pc ∧
        (∀ y, y ≠ x.val → d.core y = s.dev.core y) ∧ BytesKept s.dev d) ∧
    (∀ b : StoreB, c.stores[k]? = some b → c.mayComplete b.seq b.addr b.size = true → inMemory b.addr → b.size ≤ 8 →
      Memory.wf s.dev = true →
      (s.dev.modCore x fun c => { c with stores := c.stores.eraseIdx k }).ctlJudge x true b.addr b.size = (d1, none) →
      Gives (.storeComplete x k) s fun d =>
        Stored s.dev d b.addr b.size b.data ∧ (d.core x).stores = c.stores.eraseIdx k ∧
        (∀ y, y ≠ x.val → d.core y = s.dev.core y))

/-- R336, R354, R374: memory accesses of the host, the hub controller, the debug master and the guest. An access that its
partition, its window and the links let through is made whole: a read answers the bytes and leaves memory alone, a write
stores its bytes and no others. -/
def Obligations.MemoryCommands : Prop :=
  ∀ (m : Master) (addr : BitVec 48) (len : BitVec 16) (bytes : List Byte) (s : State) (d1 d2 : Dev),
    let a := addr.toNat
    (inMemory a → s.dev.memMay m false a len.toNat = (d1, true) → d1.memReach m false a len.toNat = (d2, true) →
      d2.errWords a len.toNat = [] →
      ∃ d, exec (.hostMemoryRead m addr len false) s = .next { s with dev := d, answer := some (s.dev.peekNum a len.toNat) } ∧
        BytesKept s.dev d ∧ ∀ y, d.core y = s.dev.core y) ∧
    (inMemory a → bytes.length < 2 ^ 30 → Memory.wf s.dev = true →
      s.dev.memMay m true a bytes.length = (d1, true) → d1.memReach m true a bytes.length = (d2, true) →
      Gives (.hostMemoryWrite m addr bytes) s fun d =>
        Stored s.dev d a bytes.length (leNum bytes) ∧ ∀ y, d.core y = s.dev.core y) ∧
    (inMemory a → s.dev.inReset = false → s.dev.variant.hasGuest = true → s.dev.on K.FWL_STATUS_ISOLATED = false →
      (s.dev.inject 0x18 fun _ _ => true) = none → 0 < len.toNat → s.tickStart.fwlJudge false a len.toNat = .allow →
      s.dev.memReach .guest false a len.toNat = (d2, true) → d2.errWords a len.toNat = [] →
      ∃ d, exec (.guestRequest false addr len []) s
          = .next { s with dev := d, answer := some (s.dev.peekNum a len.toNat) } ∧ BytesKept s.dev d) ∧
    (inMemory a → s.dev.inReset = false → s.dev.variant.hasGuest = true → s.dev.on K.FWL_STATUS_ISOLATED = false →
      (s.dev.inject 0x18 fun _ _ => true) = none → bytes ≠ [] → bytes.length < 2 ^ 30 → Memory.wf s.dev = true →
      s.tickStart.fwlJudge true a bytes.length = .allow → s.dev.memReach .guest true a bytes.length = (d2, true) →
      Gives (.guestRequest true addr len bytes) s fun d => Stored s.dev d a bytes.length (leNum bytes))

/-- R531 to R534: the maintenance arbiter. A free lease is granted at once; a held one answers BUSY without effect, or the
request queues behind at most seven others; a release hands the lease to the head of its queue in the same tick, or frees
it; a withdrawal takes the requester's entries out of the queue and leaves the rest in order. Every other lease keeps its
holder. -/
def Obligations.LeaseRules : Prop :=
  ∀ (u : Fin 8) (c : Fin 6) (h : BitVec 8) (arg : BitVec 16) (queue : Bool) (s : State),
    let hold (d : Dev) : Nat := d.get (K.BST_LEASE_HOLDER u c)
    let q := s.dev.leaseQueue u c
    let others (d : Dev) : Prop := (∀ (v : Fin 8) (e : Fin 6), (v, e) ≠ (u, c) →
        d.get (K.BST_LEASE_HOLDER v e) = s.dev.get (K.BST_LEASE_HOLDER v e) ∧ d.leaseQueue v e = s.dev.leaseQueue v e) ∧
      d = { s.dev with regs := d.regs, lease := d.lease }
    (s.dev.leaseExists u c = true → h ≠ 0 →
      (hold s.dev = 0 → Gives (.leaseRequest u c h arg queue) s fun d =>
        hold d = h.toNat ∧ d.get (K.BST_LEASE_ARG u c) = arg.toNat ∧ d.leaseQueue u c = q ∧ others d) ∧
      (hold s.dev ≠ 0 → queue = true → q.length < 8 → Gives (.leaseRequest u c h arg queue) s fun d =>
        hold d = hold s.dev ∧ d.leaseQueue u c = q ++ [(h.toNat, arg.toNat)] ∧
          d.get (K.BST_LEASE_QUEUED u c) = q.length + 1 ∧ others d) ∧
      (hold s.dev ≠ 0 → queue = false ∨ 8 ≤ q.length → exec (.leaseRequest u c h arg queue) s = .next s)) ∧
    (hold s.dev = h.toNat → h ≠ 0 →
      (q = [] → Gives (.leaseRelease u c h) s fun d => hold d = 0 ∧ others d) ∧
      ∀ g a l, q = (g, a) :: l → Gives (.leaseRelease u c h) s fun d =>
        hold d = g % 2 ^ 8 ∧ d.get (K.BST_LEASE_ARG u c) = a % 2 ^ 16 ∧ d.leaseQueue u c = l ∧ others d) ∧
    (Gives (.leaseWithdraw u c h) s fun d =>
      hold d = hold s.dev ∧ d.leaseQueue u c = (q.filter fun p => p.1 ≠ h.toNat) ∧ others d)

/-- R537, R539, R541: the BIST engine. A GO starts its entry's slice on a free engine, is answered BUSY by a running one,
or waits behind it with QUEUE; a CANCEL withdraws it; an entry whose PERIOD has passed begins its slice or waits its turn.
A test step advances the cursor; a failing row with a spare left is repaired and the slice goes on; the last step ends the
slice with OUTCOME 1, or 2 where a spare was used. -/
def Obligations.BistEngine : Prop :=
  ∀ (m : Master) (e : Fin 16) (s : State),
    let d0 := s.dev
    let plain := (d0.bistType e = 3 ∨ d0.bistType e = 6 ∨ d0.bistType e = 9) ∧ d0.bistLife (d0.bistType e) = true ∧
      d0.bistArgOk e = true ∧ d0.bistIdle e = true
    (Lets s m 0xB0008 true →
      (∀ q, d0.bist.run = none → plain →
        GivesBy m (.bistGo m e q) s fun d =>
          d.get K.BST_CMD_RESULT_RESULT = 1 ∧ d.on K.BST_STATUS_ACTIVE = true ∧ d.get K.BST_STATUS_ENTRY = e ∧
          (∃ x, d.bist.run = some x ∧ x.entry = e ∧ x.testing = true) ∧ BytesKept d0 d) ∧
      (∀ x, d0.bist.run = some x → GivesBy m (.bistGo m e true) s fun d =>
        d.get K.BST_CMD_RESULT_RESULT = 2 ∧ d.bist.waiting = d0.bist.waiting ++ [(e.val, true)] ∧ d.bist.run = some x ∧
        FieldsKept d0 d [K.BST_CMD_RESULT_RESULT, K.BST_CMD_RESULT_QFULL, K.BST_CMD_RESULT_HOLDER]) ∧
      (∀ x, d0.bist.run = some x → GivesBy m (.bistGo m e false) s fun d =>
        d.get K.BST_CMD_RESULT_RESULT = 3 ∧
        FieldsOnly d0 d [K.BST_CMD_RESULT_RESULT, K.BST_CMD_RESULT_QFULL, K.BST_CMD_RESULT_HOLDER]) ∧
      ((∀ x, d0.bist.run = some x → x.entry ≠ e) → GivesBy m (.bistCancel m e) s fun d =>
        d = { d0 with bist := { d0.bist with waiting := d0.bist.waiting.filter fun p => p != (e.val, true) } })) ∧
    (d0.on (K.BST_SCHED_CFG_EN e) = true → d0.on K.BST_CTRL_PERIODIC_EN = true → 0 < d0.get (K.BST_SCHED_PERIOD e) →
      tblGet 0 d0.bist.last e + 800000 * d0.get (K.BST_SCHED_PERIOD e) ≤ d0.clock → (e.val, false) ∉ d0.bist.waiting →
      (d0.bist.run = none → plain → Gives (.bistPeriodDue e) s fun d =>
        (∃ x, d.bist.run = some x ∧ x.entry = e ∧ x.testing = true ∧ x.queue = false) ∧
        tblGet 0 d.bist.last e = d0.clock ∧ BytesKept d0 d) ∧
      (∀ x, d0.bist.run = some x → x.entry ≠ e → 1 ≤ d0.bistType e → d0.bistType e ≤ 9 →
        Gives (.bistPeriodDue e) s fun d =>
          d = { d0 with bist := { d0.bist with waiting := d0.bist.waiting ++ [(e.val, false)] } })) ∧
    (∀ x, d0.bist.run = some x → x.testing = true → x.entry = e → (d0.inject 0x1D fun _ a => a % 16 == e.val) = none →
      let next (d : Dev) (rep : Bool) : Prop :=
        d.get (K.BST_SCHED_RES_CURSOR e) = (d0.get (K.BST_SCHED_RES_CURSOR e) + 1) % 2 ^ 16 ∧
          d.bist.run = some { x with repaired := rep } ∧ BytesKept d0 d
      Gives (.bistStepDone none false false []) s (fun d => next d x.repaired) ∧
      (∀ (a : BitVec 48) (b : BitVec 9) k, d0.spareBank e a.toNat = some k → tblGet 0 d0.bist.spares k < 2 →
        Gives (.bistStepDone (some (a, b)) false false []) s fun d =>
          next d true ∧ tblGet 0 d.bist.spares k = tblGet 0 d0.bist.spares k + 1 ∧ d.get K.BST_FAIL_INFO_BIT = b.toNat ∧
          d.on K.BST_FAIL_INFO_REPAIRED = true ∧ d.get2 K.BST_FAIL_ADDR_LO K.BST_FAIL_ADDR_HI = a.toNat) ∧
      ∀ stop, Gives (.bistStepDone none true stop []) s fun d =>
        d.get (K.BST_SCHED_RES_OUTCOME e) = (if x.repaired then 2 else 1) ∧ d.on K.BST_STATUS_ACTIVE = false ∧
        d.bist.run = none)

/-- R544, R545: arming an injection slot with a permitted detector and a present unit makes it ARMED with FIRED 0, any
other arming sets REFUSED and leaves the slot IDLE; a DISARM returns it to IDLE. No other slot and nothing else changes. -/
def Obligations.InjectionSlots : Prop :=
  ∀ (m : Master) (i : Fin 4) (s : State), Lets s m (0xC0110 + 32 * i.val) true →
    let d0 := s.dev
    let id := d0.get (K.INJ_SEL_ID i)
    let ok : Prop := d0.on K.INJ_CTRL_ENABLE = true ∧ d0.fuses.lifecycle ≠ 5 ∧
      d0.injUnitOk id (d0.get (K.INJ_SEL_UNIT i)) = true ∧
      (6 ≤ id ∨ d0.anyActive = false ∨ d0.on K.INJ_CTRL_LIVE_SAFETY = true)
    (ok → GivesBy m (.injArm m i) s fun d =>
      d.get (K.INJ_SLOT_CTRL_STATE i) = 1 ∧ d.get (K.INJ_SLOT_CTRL_FIRED i) = 0 ∧
        FieldsOnly d0 d [K.INJ_SLOT_CTRL_STATE i, K.INJ_SLOT_CTRL_FIRED i]) ∧
    (¬ok → GivesBy m (.injArm m i) s fun d =>
      d.get (K.INJ_SLOT_CTRL_STATE i) = 0 ∧ d.on K.INJ_STATUS_REFUSED = true ∧
        FieldsOnly d0 d [K.INJ_SLOT_CTRL_STATE i, K.INJ_STATUS_REFUSED]) ∧
    (GivesBy m (.injDisarm m i) s fun d =>
      d.get (K.INJ_SLOT_CTRL_STATE i) = 0 ∧ FieldsOnly d0 d [K.INJ_SLOT_CTRL_STATE i])

/-- R553, R555, R558, R559, R562: a class B record that leaves its unit's queue and merges with no stored one becomes the
next record of its ring, with the next SEQ, in the buffer's memory too, and no other byte of memory changes; a class A
record, when it is stored, raises interrupt source 0 while the hub link is UP. A write of RD within the unacknowledged
records moves it there, any other is ignored with WR_REFUSED. -/
def Obligations.EventLogStoreAndAcknowledge : Prop :=
  ∀ (die : BitVec 3) (unit : BitVec 8) (m : Master) (cls : Fin 3) (v : Word) (s : State),
    let d0 := s.dev
    let u := unitKey die.toNat unit.toNat
    (∀ r l, die ≠ 5 → (d0.evl.slots.filter fun e => e.1 / 4096 == u) = [] → tblGet [] d0.evl.queues u = r :: l →
      r.cls = 2 → d0.evlFind 1 (fun a => a.near r && a.data == r.data) = none → d0.evl.gapB = none →
      d0.evlLevel 1 < 131072 → Memory.wf d0 = true →
      Gives (.recordStore die unit) s fun d =>
        let a := evlAddr 1 (d0.get K.EVL_B_WR)
        let x : Stored := ⟨r, d0.get K.EVL_SEQ⟩
        d.get K.EVL_B_WR = (d0.get K.EVL_B_WR + 1) % 2 ^ 32 ∧ d.get K.EVL_SEQ = (d0.get K.EVL_SEQ + 1) % 2 ^ 32 ∧
        tblFind d.evl.regionB (d0.get K.EVL_B_WR % 131072) = some x ∧ tblGet [] d.evl.queues u = l ∧
        (∀ i, i < 32 → d.memGet (a + i) = BitVec.ofNat 8 (x.bits / 2 ^ (8 * i))) ∧ BytesKeptBut d0 d a 32) ∧
    (∀ k r, die ≠ 5 → oldestSlot (d0.evl.slots.filter fun e => e.1 / 4096 == u) = some (k, r) → r.cls = 1 →
      d0.on K.NOP_STATUS_BD_UP = true →
      Gives (.recordStore die unit) s fun d => d.bitOf K.HST_IRQ_PEND 0 = true) ∧
    (Lets s m (0xD000C + 8 * cls.val) true →
      let rd := d0.get (evlRD cls)
      let wr := d0.get (evlWR cls)
      (rd ≤ v.toNat → v.toNat ≤ wr → GivesBy m (.evlRdWrite m cls v) s fun d =>
        d.get (evlRD cls) = v.toNat ∧ FieldsOnly d0 d [evlRD cls]) ∧
      (rd ≤ wr → wr < 2 ^ 32 → v.toNat < rd ∨ wr < v.toNat → GivesBy m (.evlRdWrite m cls v) s fun d =>
        d.on K.EVL_STATUS_WR_REFUSED = true ∧ FieldsOnly d0 d [K.EVL_STATUS_WR_REFUSED]))

/-- R514 to R522, R529: the debug commands on a controller that is present, in a lifecycle that permits them. HALT stops
the hub controller, or a core of no site, whose STATE becomes HALTED; RESUME restarts a halted one and STEP lets it execute
one instruction; OP 0 and 4 to 7 do nothing; a request of a comparator or a BRK halts as HALT does. A state access reads a
register of a halted controller into DBG_ACC_DATA, or writes it from there. -/
def Obligations.DebugCommands : Prop :=
  ∀ (m : Master) (t : BitVec 7) (x : CtlId) (s : State), x.val = t.toNat →
    let d0 := s.dev
    let c := d0.core x
    let answered (d : Dev) : Prop := d.get K.DBG_CMD_RESULT_RESULT = 1 ∧ d.get K.DBG_CMD_RESULT_TARGET = x.val
    let stopped (d : Dev) : Prop :=
      d.core x = { c with halted := true, stepping := false, dbgReq := false, pfx := none, haltState := (d.core x).haltState } ∧
      (x.val < 64 → d.coreState x = csHALTED) ∧ (x.val = 64 → d.on K.DBG_STATUS_HUB_HALTED = true) ∧
      (∀ y, y ≠ x.val → d.core y = d0.core y) ∧ BytesKept d0 d
    d0.dbgPermit = true → d0.ctlExists x = true →
    (Lets s m 0xA0008 true →
      (c.halted = false → (x.val = 64 ∨ d0.coreSite x = none) →
        GivesBy m (.halt m t) s fun d => answered d ∧ stopped d) ∧
      (c.halted = true → GivesBy m (.debugResume m t) s fun d =>
        answered d ∧ (d.core x).halted = false ∧ (d.core x).stepping = false ∧
        (d.core x).pc = (if c.atBrk then (c.pc + 8) % 2 ^ 48 else c.pc) ∧ (∀ r, (d.core x).gGet r = c.gGet r) ∧
        (∀ y, y ≠ x.val → d.core y = d0.core y) ∧ BytesKept d0 d) ∧
      (c.halted = true → (x.val < 64 → d0.coreState x = csHALTED) → GivesBy m (.step m t) s fun d =>
        answered d ∧ (d.core x).halted = false ∧ (d.core x).stepping = true ∧ (∀ r, (d.core x).gGet r = c.gGet r) ∧
        (∀ y, y ≠ x.val → d.core y = d0.core y) ∧
        FieldsKept d0 d [K.DBG_CMD_RESULT_RESULT, K.DBG_CMD_RESULT_TARGET] ∧ BytesKept d0 d) ∧
      ∀ op : BitVec 3, op = 0 ∨ 4 ≤ op.toNat → GivesBy m (.dbgNop m op t) s fun d => d = d0) ∧
    (c.dbgReq = true → (x.val = 64 ∨ d0.coreSite x = none) → GivesAs (5, 1, x.val) (.debugRequest x) s stopped) ∧
    (c.halted = true → Lets s m 0xA0030 true → ∀ r : Reg,
      let data := d0.get2 K.DBG_ACC_DATA_LO K.DBG_ACC_DATA_HI
      let reads (d : Dev) (v : Nat) : Prop := d.get2 K.DBG_ACC_DATA_LO K.DBG_ACC_DATA_HI = v ∧
        FieldsOnly d0 d [K.DBG_ACC_DATA_LO, K.DBG_ACC_DATA_HI]
      GivesBy m (.stateAccess m t false (BitVec.ofNat 8 r)) s (fun d => reads d (c.gGet r).toNat) ∧
      GivesBy m (.stateAccess m t false (BitVec.ofNat 8 (32 + r))) s (fun d => reads d (c.fGet r).toNat) ∧
      (GivesBy m (.stateAccess m t true (BitVec.ofNat 8 r)) s fun d =>
        (∀ k, (d.core x).gGet k = if k = r.val ∧ k ≠ 0 then BitVec.ofNat 64 data else c.gGet k) ∧ (d.core x).pc = c.pc ∧
        (∀ y, y ≠ x.val → d.core y = d0.core y) ∧ d = { d0 with cores := d.cores }) ∧
      ((x.val < 64 → d0.seqWritable x = true) → GivesBy m (.stateAccess m t true 65) s fun d =>
        (d.core x).pc = data % 2 ^ 48 / 8 * 8 ∧ (∀ k, (d.core x).gGet k = c.gGet k) ∧
        (∀ y, y ≠ x.val → d.core y = d0.core y) ∧ d = { d0 with cores := d.cores }))

/-- R526, R580: the TAP's instructions. IDCODE and DBGSTAT scan their registers out; DBGACC returns the previous access
and makes the next, a read here of a register that the debug master may read, or none for OP 0 and 3; EXTEST works in mode
Sentry alone and is BYPASS elsewhere; TRST_N loads IDCODE. None of them but the access of DBGACC changes the device outside
the TAP. -/
def Obligations.TapInstructions : Prop :=
  ∀ (s : State),
    let d0 := s.dev
    let loaded (ir : Nat) : Dev := { d0 with jtag := { d0.jtag with ir := ir } }
    exec .idcode s = .next { s with
      dev := loaded 1
      answer := some (1 + 2 * d0.get K.DEV_IDCODE_VENDOR + 2 ^ 12 * d0.variant.part + 2 ^ 28 * d0.fuses.version) } ∧
    exec .samplePreload s = .next { s with dev := loaded 2 } ∧
    exec .trstN s = .next { s with dev := { d0 with jtag := { ir := 1, dr := 0 } } } ∧
    (∀ code : Byte, code ∉ [0, 1, 2, 8, 9] → exec (.bypass code) s = .next { s with dev := loaded 0xFF }) ∧
    (d0.fuses.lifecycle ≠ 5 →
      exec .extest s = .next { s with dev := loaded (if d0.get K.DEV_MODE_MODE = 0 then 0 else 0xFF) } ∧
      (∃ v, exec .dbgstat s = .next { s with dev := loaded 9, answer := some v } ∧
        v % 2 = d0.get K.DBG_STATUS_HUB_HALTED % 2 ∧
        (d0.get K.DBG_STATUS_HUB_HALTED < 2 → d0.get K.DBG_STATUS_ACC_ERR < 2 → d0.get K.DBG_STATUS_STEP_WAIT < 2 →
          (v / 8 % 2 = 1 ↔ d0.dbgPermit = true))) ∧
      (∀ (op : BitVec 2) (addr : BitVec 48) (data : Word), op = 0 ∨ op = 3 →
        exec (.dbgacc op addr data) s = .next { s with dev := loaded 8, answer := some d0.jtag.dr }) ∧
      ∀ (addr : BitVec 48) (data : Word), addr.toNat < 2 ^ 24 → Lets s .dbg addr.toNat false → slowReg addr.toNat = true →
        ∃ v, exec (.dbgacc 1 addr data) s = .next { s with
            dev := { d0 with jtag := { ir := 8, dr := 1 + 2 ^ 50 * v } }, answer := some d0.jtag.dr } ∧
          v = d0.slowCopy addr.toNat)

/-- R35, R38, R42, R66, R68, R72, R85: from the hub supplies to SENTRY_WAIT. With its supplies valid the hub leaves its
power-on reset into IF_LOAD; a failed self-check is failure 0x01 of FAIL_DIE 5, in mode Safe with SAFE_CAUSE 5; an image
is loaded from the selected slot, or the ROM default image where neither slot is valid; the loaded image starts with the
pins, the holds and the ports that its header claims, none for the ROM default image, and SENTRY_WAIT begins. -/
def Obligations.BootToSentryWait : Prop :=
  ∀ (s : State) (out : ImgOut),
    let d0 := s.dev
    Gives .hubSuppliesValid s (fun d => d = { d0 with start := { d0.start with suppliesValid := true } }) ∧
    (d0.start.suppliesValid = true → d0.start.inPor = true → Gives .hubPorRelease s fun d =>
      d.get K.DEV_START_STATUS_STAGE = 1 ∧ FieldsKept d0 d [K.DEV_START_STATUS_STAGE] ∧
      d = { d0 with regs := d.regs, start := { d0.start with inPor := false } }) ∧
    Gives (.hubSelfCheck true) s (fun d => d = d0) ∧
    (d0.inReset = false → d0.get K.DEV_START_STATUS_STAGE = 1 → d0.get K.DEV_START_STATUS_FAIL = 0 →
      (d0.get K.DEV_MODE_MODE = 0 → Gives (.hubSelfCheck false) s fun d =>
        d.get K.DEV_START_STATUS_FAIL = 1 ∧ d.get K.DEV_START_STATUS_FAIL_CODE = 1 ∧
        d.get K.DEV_START_STATUS_FAIL_DIE = 5 ∧ d.get K.DEV_MODE_MODE = 5 ∧ d.get K.DEV_MODE_SAFE_CAUSE = 5 ∧
        d.start.selfTestFail = true) ∧
      (d0.snt.loaded = .none → d0.flc.unsure = [] →
        Gives .ifLoadComplete s fun d =>
          d.snt = { d0.snt with loaded := match d0.copySelect 0 with
            | some 0 => .slotA
            | some _ => .slotB
            | none => .romDefault } ∧
          d.on K.SNT_STATUS_SLOT_A_VALID = d0.copyValid 0 0 ∧ d.on K.SNT_STATUS_SLOT_B_VALID = d0.copyValid 0 1 ∧
          (d0.copySelect 0 = none → d.get K.DEV_START_STATUS_IF_DEFAULT = 1) ∧
          FieldsKept d0 d [K.SNT_STATUS_SLOT_A_VALID, K.SNT_STATUS_SLOT_B_VALID, K.SNT_STATUS_SEQ_CONFLICT,
            K.DEV_START_STATUS_IF_DEFAULT, K.EVL_B_LOST_LO_COUNT_LO, K.EVL_B_LOST_HI_COUNT_HI, K.EVL_B_LOST_HI_OVF] ∧
          BytesKept d0 d) ∧
      (d0.snt.running = .none → d0.snt.loaded = .romDefault → Gives (.imageStart out) s fun d =>
        d.snt.running = .romDefault ∧ d.snt.pinClaim = 0 ∧ d.snt.holdMask = 0 ∧ d.snt.portClaim = 0 ∧
        d.get K.DEV_START_STATUS_STAGE = 2 ∧ d.get K.DEV_START_STATUS_IF_DEFAULT = 1 ∧
        FieldsKept d0 d [K.DEV_START_STATUS_STAGE, K.DEV_START_STATUS_IF_DEFAULT] ∧
        d = { d0 with regs := d.regs, snt := d.snt }) ∧
      (d0.snt.running = .none → d0.snt.loaded = .slotB → out.trip = false → out.sysReq = false →
        Gives (.imageStart out) s fun d =>
          d.snt.running = .slotB ∧ d.get K.DEV_START_STATUS_STAGE = 2 ∧ d.get K.DEV_START_STATUS_IF_DEFAULT = 0 ∧
          d.get K.SNT_STATUS_ACTIVE_SLOT = 1 ∧ d.snt.pinClaim = d0.flashNum (copyBase 0 1 + 0x18) 8 ∧
          d.snt.holdMask = d0.flashNum (copyBase 0 1 + 0x20) 8 ∧ d.snt.portClaim = d0.flashNum (copyBase 0 1 + 0x28) 1 % 16 ∧
          FieldsKept d0 d [K.DEV_START_STATUS_STAGE, K.DEV_START_STATUS_IF_DEFAULT, K.SNT_STATUS_ACTIVE_SLOT] ∧
          d = { d0 with regs := d.regs, snt := d.snt }))

/-- R36, R37, R53, R54, R61, R62, R63: the requests that software makes of the start and of the resets. START in
SENTRY_WAIT clears the record of a failure and begins PWR_CHECK for the dies of CD_MASK; ENTER_LOAD from Ready returns to
LOAD; a keyed reset of a channel die returns the mode to Load with CD_LINK in progress, one of the base die to SENTRY_WAIT;
a core reset restores its core alone; a request that the mode or the sites do not permit sets REQ_REFUSED and does nothing
else; a host device reset waits until every channel is parked. -/
def Obligations.StartAndResetRequests : Prop :=
  ∀ (m : Master) (n : Die) (q : CoreId) (s : State),
    let d0 := s.dev
    let refused (d : Dev) : Prop := d.get K.DEV_MODE_REQ_REFUSED = 1 ∧ FieldsOnly d0 d [K.DEV_MODE_REQ_REFUSED]
    (Lets s m 0x40 true → d0.start.selfTestFail = false → d0.get K.DEV_START_STATUS_FAIL = 0 →
      d0.get K.DEV_START_STATUS_STAGE = 2 → d0.get K.DEV_MODE_MODE = 0 → GivesBy m (.startRequest m) s fun d =>
        d.get K.DEV_START_STATUS_STAGE = 3 ∧ d.get K.DEV_START_STATUS_FAIL_CODE = 0 ∧
        d.get K.DEV_START_STATUS_FAIL_DIE = 7 ∧ d.get K.DEV_START_STATUS_START_DONE = 0 ∧
        d.get K.DEV_START_CTRL_START = 1 ∧
        d = { d0 with
          regs := d.regs, start := { d0.start with active := d0.get K.DEV_START_CTRL_CD_MASK &&& d0.variant.cdMask } } ∧
        FieldsKeptBut d0 d 0x40 [K.DEV_START_STATUS_STAGE, K.DEV_START_STATUS_FAIL, K.DEV_START_STATUS_FAIL_CODE,
          K.DEV_START_STATUS_FAIL_DIE, K.DEV_START_STATUS_START_DONE, K.DEV_START_STATUS_NOCAL_USED,
          K.DEV_REG_STATUS_LOCKED_WR]) ∧
    (Lets s m 0x4C true →
      (d0.get K.DEV_MODE_MODE = 2 → d0.noneActive = true → GivesAs (6, 0, 0) (.enterLoad m) s fun d =>
        d.get K.DEV_MODE_MODE = 1 ∧ d.get K.DEV_START_STATUS_STAGE = 6 ∧ d.get K.DEV_START_STATUS_START_DONE = 0) ∧
      (d0.enterLoadOk = false → s.tickStart.enterLoadOk = false → GivesAs (6, 0, 0) (.enterLoad m) s refused)) ∧
    (Lets s m 0x50 true →
      (GivesBy m (.drst m) s fun d => d.start = { d0.start with hostRst := true }) ∧
      (d0.dieResetOk = true → d0.cdPresent n = true → bitAt d0.start.active n = true → GivesBy m (.cdRst m n) s fun d =>
        d.get K.DEV_MODE_MODE = 1 ∧ d.get K.DEV_START_STATUS_STAGE = 5 ∧ d.bitOf K.DEV_RESET_CAUSE_CD_DIE n = true ∧
        bitAt d.start.cdReleased n = true ∧ bitAt d.start.cdTrained n = false) ∧
      ((d0.dieResetOk = false ∨ d0.cdPresent n = false ∨ bitAt d0.start.active n = false) →
        GivesBy m (.cdRst m n) s refused) ∧
      (d0.dieResetOk = true → GivesBy m (.bdRst m) s fun d =>
        d.get K.DEV_MODE_MODE = 0 ∧ d.get K.DEV_START_STATUS_STAGE = 2 ∧ d.get K.DEV_RESET_CAUSE_BD_DIE = 1 ∧
        d.start.bdReleased = false) ∧
      (d0.dieResetOk = false → GivesBy m (.bdRst m) s refused) ∧
      (d0.corePresent q = true → bitAt d0.start.cdReleased (q.val / 16) = true →
        (∀ x, d0.coreSite q = some x → d0.siteIn x [0, 5, 6] = true) → GivesBy m (.coreRst m q) s fun d =>
          d.core q = {} ∧ (∀ y, y ≠ q.val → d.core y = d0.core y) ∧ BytesKept d0 d ∧
          (∀ f : Fld, seqWin q ≤ f.key / 8 → f.key / 8 < seqWin q + 0x1000 → rstOf f.key = .core → d.get f = f.rst) ∧
          ∀ f : Fld, f.key / 8 < seqWin q ∨ seqWin q + 0x1000 ≤ f.key / 8 → f.key ≠ K.DBG_HALTED_LO.key →
            f.key ≠ K.DBG_HALTED_HI.key → d.get f = d0.get f) ∧
      (∀ x, d0.coreSite q = some x → d0.siteIn x [0, 5, 6] = false → GivesBy m (.coreRst m q) s refused))

/-- R57, R58, R59, R60, R586: the resets of the whole device. POR and DRST restore every field of their scopes, empty the
sites, the cores and the memory, and leave the flash to its own rules; the battery-backed fields keep their values; DRST
records its source and the boot begins again in IF_LOAD, with DEV_RST_N held low only as it rises; a host device reset
takes effect once every channel is parked, and in power-on reset the pin does nothing. -/
def Obligations.DeviceResets : Prop :=
  ∀ (s : State),
    let d0 := s.dev
    let resets (c : Instr) (P : Dev → Prop) : Prop :=
      ∃ d, exec c s = .next { s with dev := d, tickStart := d, applied := [] } ∧ P d
    let emptied (d : Dev) : Prop := d.sites = [] ∧ d.cores = [] ∧ d.mem = [] ∧ d.zeroed = [] ∧ d.ptu = {} ∧ d.rps = {} ∧
      d.sched = {} ∧ d.lease = {} ∧ d.links = {} ∧ d.power = {} ∧ d.bist = {} ∧ d.snt = {} ∧ d.fuses.variant = d0.fuses.variant
    let battery (d : Dev) : Prop := ∀ f : Fld, rstOf f.key = .vbat → d.get f = d0.get f
    let strap (f : Fld) : Prop := f.key = K.DEV_START_CTRL_CD_MASK.key ∨ f.key = K.CFG_CTRL_CFGP_RD_EN.key
    let causes : List Fld := [K.DEV_RESET_CAUSE_PIN, K.DEV_RESET_CAUSE_HOST]
    let drst (d : Dev) : Prop :=
      emptied d ∧ battery d ∧
      (∀ f : Fld, rstOf f.key = .drst ∨ rstOf f.key = .die ∨ rstOf f.key = .core → ¬ strap f →
        f.key ≠ K.DEV_START_STATUS_STAGE.key → (∀ g ∈ causes, f.key ≠ g.key) → d.get f = f.rst) ∧
      (∀ f : Fld, rstOf f.key = .por → ¬ strap f → (∀ g ∈ causes, f.key ≠ g.key) → d.get f = d0.get f)
    resets .por (fun d => emptied d ∧ battery d ∧
      (∀ f : Fld, rstOf f.key ≠ .vbat → rstOf f.key ≠ .none → ¬ strap f → d.get f = f.rst) ∧
      d.start = { suppliesValid := false, inPor := true }) ∧
    (d0.inReset = false → resets .devRstNLow fun d =>
      drst d ∧ d.get K.DEV_RESET_CAUSE_PIN = 1 ∧ d.start = { suppliesValid := true, inPor := false, rstLow := true } ∧
      d.get K.DEV_START_STATUS_STAGE = 0) ∧
    (d0.inReset = true → exec .devRstNLow s = .next s) ∧
    (d0.start.rstLow = true → Gives .devRstNHigh s fun d =>
      d.get K.DEV_START_STATUS_STAGE = 1 ∧ FieldsKept d0 d [K.DEV_START_STATUS_STAGE] ∧
      d = { d0 with regs := d.regs, start := { d0.start with rstLow := false } }) ∧
    (d0.start.hostRst = true → d0.allParked = true → resets .hostResetTakesEffect fun d =>
      drst d ∧ d.get K.DEV_RESET_CAUSE_HOST = 1 ∧ d.get K.DEV_START_STATUS_STAGE = 1 ∧
      d.start = { suppliesValid := d0.start.suppliesValid, inPor := false }) ∧
    (d0.start.hostRst = false ∨ d0.allParked = false → exec .hostResetTakesEffect s = .next s)

/-- R36, R38, R42, R46, R366, R450: what fails a stage of the start, with its FAIL_CODE and FAIL_DIE: a supply that is not
good (0x10), the base die's self-test or identity (0x20), the training of the HBM PHYs (0x21) or of the hub link with more
spare lanes than it has (0x22), a channel die's self-test or identity (0x30) or its links (0x31), a PLL that does not lock
(0x40), no factory calibration where it is needed (0x50), and the stage's watchdog (0x7F). -/
def Obligations.StagesThatFail : Prop :=
  ∀ (n : Die) (s : State),
    let d0 := s.dev
    (d0.inStage 3 = true → ∀ r : Fin 13, d0.railChecked r = true →
      Gives (.pwrTimeout r) s (StartFailed 0x10 (railDie r))) ∧
    (d0.inStage 4 = true →
      (∀ ok, Gives (.bdBistDone ok false) s fun d => StartFailed 0x20 4 d ∧ d.get K.NOP_STATUS_BD_ID_MISMATCH = 1) ∧
      Gives (.bdBistDone false true) s (StartFailed 0x20 4) ∧
      Gives (.hbmPhyTrainingDone false) s (StartFailed 0x21 4) ∧
      ∀ tx rx : BitVec 4, 2 < tx.toNat ∨ 2 < rx.toNat → Gives (.hubLinkTrainingDone tx rx) s (StartFailed 0x22 5)) ∧
    (d0.inStage 5 = true → bitAt d0.start.cdReleased n = true →
      (∀ ok, Gives (.cdBistDone n ok false) s fun d => StartFailed 0x30 n d ∧ d.get (K.D2D_STATUS_ID_MISMATCH n) = 1) ∧
      Gives (.cdBistDone n false true) s (StartFailed 0x30 n) ∧
      ∀ l, sparesFit n l = false → Gives (.d2dLinkTrainingDone n l) s (StartFailed 0x31 n)) ∧
    (d0.inStage 8 = true → n.val ∈ d0.activeDies →
      Gives (.pllNoLock n) s (StartFailed 0x40 n) ∧
      (d0.diePllsLock n = none → Gives (.pllLockComplete n) s (StartFailed 0x40 n))) ∧
    (d0.inStage 9 = true → n.val ∈ d0.activeDies → d0.copySelect 3 = none → d0.nocal = false →
      Gives (.calLoadComplete n) s (StartFailed 0x50 n)) ∧
    (d0.watched = true → Gives .stageTimeout s (StartFailed 0x7F d0.lateDie))

/-- R36, R38, R46, R48, R245, R363, R402, R450: what completes the stages of the start. PWR_CHECK releases the base die and
begins BD_INIT; its self-test, the PHY training and the hub link's training are kept until all three are done, and CD_LINK
then releases the channel dies one by one; with each die's self-test and links done the mode becomes Load; the streams'
check ends in PLL_LOCK with the fabrics started; a die's PLLs lock, its calibration is loaded, and its groups are measured
in turn. -/
def Obligations.StagesThatComplete : Prop :=
  ∀ (n : Die) (s : State),
    let d0 := s.dev
    let started (st : Start) (l : List Fld) (d : Dev) : Prop := d.start = st ∧ FieldsKept d0 d l ∧ BytesKept d0 d
    let stage : Fld := K.DEV_START_STATUS_STAGE
    (d0.inStage 3 = true → d0.start.bdBist = false → Gives .pwrCheckComplete s fun d =>
      d.get stage = 4 ∧ d.get K.DEV_START_CTRL_START = 0 ∧
      started { d0.start with bdReleased := true } [stage, K.DEV_START_CTRL_START] d) ∧
    (d0.inStage 4 = true →
      (d0.start.hbmTrained = false → Gives (.bdBistDone true true) s (started { d0.start with bdBist := true } [])) ∧
      (d0.start.bdBist = false → Gives (.hbmPhyTrainingDone true) s fun d =>
        d.get K.BAS_MEM_STATUS_SRAM_UP = 1 ∧ d.get K.BAS_MEM_STATUS_HBM0_UP = bit (d0.hbmPresent 0) ∧
        d.get K.BAS_MEM_STATUS_HBM1_UP = bit (d0.hbmPresent 1) ∧
        started { d0.start with hbmTrained := true }
          [K.BAS_MEM_STATUS_SRAM_UP, K.BAS_MEM_STATUS_HBM0_UP, K.BAS_MEM_STATUS_HBM1_UP] d) ∧
      (d0.start.bdBist = false → ∀ tx rx : BitVec 4, tx.toNat ≤ 2 → rx.toNat ≤ 2 →
        Gives (.hubLinkTrainingDone tx rx) s fun d =>
          d.get K.NOP_HUB_LANES_TX_SPARES = tx.toNat ∧ d.get K.NOP_HUB_LANES_RX_SPARES = rx.toNat ∧
          d.get K.NOP_STATUS_BD_UP = 1 ∧ d.get K.DEV_START_STATUS_BD_UP = 1 ∧
          started { d0.start with hubTrained := true } [K.NOP_HUB_LANES_TX_SPARES, K.NOP_HUB_LANES_RX_SPARES,
            K.NOP_STATUS_BD_UP, K.DEV_START_STATUS_BD_UP] d) ∧
      (d0.start.hbmTrained = true → d0.start.hubTrained = true →
        (∃ k ∈ d0.activeDies, bitAt d0.start.cdBist k = false) → Gives (.bdBistDone true true) s fun d =>
          d.get stage = 5 ∧ (∀ k, d0.nextRelease = some k → bitAt d.start.cdReleased k = true) ∧ FieldsKept d0 d [stage])) ∧
    (d0.inStage 5 = true →
      (∀ k, d0.nextRelease = some k → Gives .cdRelease s
        (started { d0.start with cdReleased := putBitAt d0.start.cdReleased k true } [])) ∧
      (bitAt d0.start.cdReleased n = true →
        ((∃ k ∈ d0.activeDies, bitAt d0.start.cdTrained k = false) → Gives (.cdBistDone n true true) s
          (started { d0.start with cdBist := putBitAt d0.start.cdBist n true } [])) ∧
        ((∀ k ∈ d0.activeDies, bitAt d0.start.cdReleased k = true ∧ bitAt d0.start.cdTrained k = true ∧
            (k = n.val ∨ bitAt d0.start.cdBist k = true)) → Gives (.cdBistDone n true true) s fun d =>
          d.get stage = 6 ∧ d.get K.DEV_MODE_MODE = 1 ∧
          FieldsKept d0 d [stage, K.DEV_MODE_MODE, K.DEV_START_STATUS_START_DONE]) ∧
        ∀ l : List (Nat × Nat), sparesFit n l = true → (∃ k ∈ d0.activeDies, bitAt d0.start.cdBist k = false) →
          Gives (.d2dLinkTrainingDone n l) s fun d =>
            d.get (K.D2D_STATUS_UP n) = 1 ∧ d.bitOf K.NOP_STATUS_CD_UP n = true ∧
            d.bitOf K.DEV_START_STATUS_CD_UP n = true ∧
            (∀ p : Fin 8, d.get (K.D2D_PORT_UP n p) = 1 ∧ d.get (K.D2D_PORT_TX_SPARES n p) = (l.getD p (0, 0)).1 ∧
              d.get (K.D2D_PORT_RX_SPARES n p) = (l.getD p (0, 0)).2) ∧
            d.start = { d0.start with cdTrained := putBitAt d0.start.cdTrained n true } ∧ BytesKept d0 d)) ∧
    (d0.inStage 7 = true → d0.on K.CFG_STATUS_CHECK = true → n.val ∈ d0.activeDies → Gives .streamCheckComplete s fun d =>
      d.get stage = 8 ∧ d.get K.CFG_STATUS_CHECK = 0 ∧ d.get (K.CFG_DIE_STATUS_STARTED n) = 1) ∧
    (d0.inStage 8 = true → n.val ∈ d0.activeDies → ∀ x, d0.diePllsLock n = some x →
      (∃ k ∈ d0.activeDies, k ≠ n.val ∧ bitAt d0.start.pllDone k = false) → Gives (.pllLockComplete n) s fun d =>
        d.on (K.PLL_STATUS_LOCKED_A n) = true ∧ d.on (K.PLL_STATUS_LOCKED_B n) = true ∧
        d.start = { d0.start with pllDone := putBitAt d0.start.pllDone n true } ∧ BytesKept d0 d) ∧
    (d0.inStage 9 = true → n.val ∈ d0.activeDies → (d0.copySelect 3).isSome = true ∨ d0.nocal = true →
      (∃ k ∈ d0.activeDies, k ≠ n.val ∧ bitAt d0.start.calDone k = false) → Gives (.calLoadComplete n) s fun d =>
        d.start = { d0.start with calDone := putBitAt d0.start.calDone n true } ∧ BytesKept d0 d) ∧
    (d0.inStage 10 = true → n.val ∈ d0.activeDies → ∀ vals : List (List Int),
      let k := tblGet 0 d0.start.dskDone n
      k < 63 → Gives (.deskewMeasurementDone n vals) s fun d =>
        tblGet 0 d.start.dskDone n = k + 1 ∧ BytesKept d0 d)

/-- R44, R52, R56, R72, R73, R75, R463: safety trips. From Load onward a trip of a die's or a stack's temperature, of a
supply, of the Sentry image or of host software enters Safe with its cause; in PWR_CHECK, BD_INIT and CD_LINK it fails the
start with code 0x08; elsewhere it is recorded alone. A policy change that asserts the PE_SAFE_N line of a busy group is a
trip, and any other moves the lines alone; an unrecoverable fault enters Safe once no site runs; a cause that is gone is
forgotten, and its latch clears by software. -/
def Obligations.TripsAndSafe : Prop :=
  ∀ (m : Master) (s : State),
    let d0 := s.dev
    let from' : Prop := d0.modeIn [1, 2, 3, 4] = true
    let hits (x : Dev) : Prop := ∃ g, g < 16 ∧ bitAt x.linesWanted g = true ∧ bitAt x.snt.asserted g = false ∧ x.groupBusy g = true
    let moved (out : ImgOut) (d : Dev) : Prop :=
      d.snt = { d0.snt with out := out, asserted := d.linesWanted } ∧ d = { d0 with regs := d.regs, snt := d.snt }
    (∀ code : Fin 8, d0.sensed code = true →
      (from' → GivesAs (1, 1, code) (.overTemperatureTrip code) s fun d => SafeEntered d0 1 [1] d ∧
        d.get K.PWR_TRIP_CAUSE_TRIP = 1 ∧ d.get K.PWR_STATUS_HARD_TRIP = 1 ∧
        (d0.get K.PWR_TRIP_CAUSE_TRIP = 0 → d.get K.PWR_TRIP_CAUSE_KIND = 1 ∧ d.get K.PWR_TRIP_CAUSE_DIE = code)) ∧
      (d0.get K.DEV_MODE_MODE = 0 → d0.get K.DEV_START_STATUS_STAGE = 2 →
        GivesAs (1, 1, code) (.overTemperatureTrip code) s fun d => d.get K.PWR_TRIP_CAUSE_TRIP = 1 ∧
          FieldsKept d0 d [K.PWR_TRIP_CAUSE_TRIP, K.PWR_TRIP_CAUSE_KIND, K.PWR_TRIP_CAUSE_DIE, K.PWR_TRIP_CAUSE_RAIL,
            K.PWR_STATUS_HARD_TRIP] ∧ BytesKept d0 d)) ∧
    (∀ (code : Fin 6) (rail : Fin 13), d0.railWatched code rail = true →
      (from' → GivesAs (1, 2, code) (.supplyTrip code rail) s fun d => SafeEntered d0 2 [2] d ∧
        d.get K.PWR_TRIP_CAUSE_TRIP = 1 ∧ (d0.get K.PWR_TRIP_CAUSE_TRIP = 0 → d.get K.PWR_TRIP_CAUSE_RAIL = rail)) ∧
      (d0.get K.DEV_MODE_MODE = 0 → d0.get K.DEV_START_STATUS_FAIL = 0 → 3 ≤ d0.get K.DEV_START_STATUS_STAGE →
        d0.get K.DEV_START_STATUS_STAGE ≤ 5 → GivesAs (1, 2, code) (.supplyTrip code rail) s (StartFailed 8 7))) ∧
    (∀ code : Fin 8, Gives (.tripCauseGone code none) s (fun d =>
        d = { d0 with power := { d0.power with hot := d0.power.hot.filter (· != code.val) } }) ∧
      ∀ rail : Fin 13, Gives (.tripCauseGone code (some rail)) s fun d =>
        d = { d0 with power := { d0.power with badRail := d0.power.badRail.filter (· != 16 * code.val + rail.val) } }) ∧
    (d0.imageRuns = true → from' →
      (∀ code, d0.snt.out.trip = false → GivesAs (1, 3, 0) (.sentryLogicTrip code) s fun d => SafeEntered d0 3 [3] d ∧
        d.get K.SNT_TRIP_CAUSE_CODE = code.toNat ∧ d.get K.SNT_TRIP_CAUSE_TRIP = 1 ∧ d.snt.out.trip = true) ∧
      (d0.snt.out.sysReq = false → GivesAs (1, 4, 0) .peSafeRequest s fun d => SafeEntered d0 4 [4] d ∧
        d.get K.SNT_TRIP_CAUSE_SYS = 1 ∧ d.snt.out.sysReq = true)) ∧
    (∀ a b, Gives (.tripSysReqFall a b) s fun d => d = { d0 with snt := { d0.snt with
      out := { d0.snt.out with trip := d0.snt.out.trip && !a, sysReq := d0.snt.out.sysReq && !b } } }) ∧
    (∀ rel : BitVec 16, d0.imageRuns = true → d0.snt.running ≠ .romDefault →
      let x : Dev := { d0 with snt := { d0.snt with out := { d0.snt.out with safeRel := rel } } }
      (¬ hits x → GivesAs (1, 3, 0) (.safeRelChange rel) s fun d => moved x.snt.out d ∧ d.regs = d0.regs) ∧
      (hits x → from' → GivesAs (1, 3, 0) (.safeRelChange rel) s fun d => SafeEntered d0 3 [] d ∧
        d.get K.SNT_TRIP_CAUSE_BUSY_WD = 1 ∧ d.get K.SNT_TRIP_CAUSE_TRIP = 1)) ∧
    (∀ v : BitVec 16, Lets s m 0x10018 true →
      let x := d0.set K.SNT_GROUP_FORCE_FORCE v.toNat
      (¬ hits x → GivesBy m (.sntGroupForceWrite m v) s fun d => d.get K.SNT_GROUP_FORCE_FORCE = v.toNat ∧
        FieldsKept d0 d [K.SNT_GROUP_FORCE_FORCE] ∧ moved d0.snt.out d) ∧
      (hits x → from' → GivesBy m (.sntGroupForceWrite m v) s fun d => SafeEntered d0 4 [] d ∧
        d.get K.SNT_TRIP_CAUSE_BUSY_WD = 1 ∧ d.get K.SNT_TRIP_CAUSE_SYS = 1)) ∧
    (∀ v : BitVec 16, Lets s m 0x1001C true →
      let w := v.toNat &&& d0.groupMask
      (d0.get K.SNT_LOCK_POLICY_LOCK = 0 → ¬ hits (d0.set K.SNT_POLICY_RELEASE_EN w) →
        GivesBy m (.sntPolicyWrite m v) s fun d => d.get K.SNT_POLICY_RELEASE_EN = w ∧
          FieldsKept d0 d [K.SNT_POLICY_RELEASE_EN] ∧ moved d0.snt.out d) ∧
      (d0.get K.SNT_LOCK_POLICY_LOCK = 1 → d0.get K.SNT_POLICY_RELEASE_EN ≠ w →
        GivesBy m (.sntPolicyWrite m v) s fun d => d.get K.DEV_REG_STATUS_LOCKED_WR = 1 ∧
          FieldsOnly d0 d [K.DEV_REG_STATUS_LOCKED_WR])) ∧
    (∀ w, d0.start.safeWait = some w → w.cause < 256 → from' → (∀ x, x < 64 → d0.siteIn x [2, 3] = false) →
      Gives .unrecoverableSafeEntry s (SafeEntered d0 w.cause (if w.cause = 5 then [5] else []))) ∧
    (d0.start.safeWait = none → Gives .unrecoverableSafeEntry s fun d => d = d0) ∧
    (Lets s m 0x60030 true → GivesBy m (.tripClear m) s fun d =>
      d.get K.PWR_TRIP_CAUSE_TRIP = 0 ∧ (d0.power.hot = [] → d0.power.badRail = [] → d.get K.PWR_STATUS_HARD_TRIP = 0) ∧
      (d0.power.hot ≠ [] ∨ d0.power.badRail ≠ [] → d.get K.PWR_STATUS_HARD_TRIP = d0.get K.PWR_STATUS_HARD_TRIP) ∧
      FieldsOnly d0 d [K.PWR_TRIP_CAUSE_TRIP, K.PWR_STATUS_HARD_TRIP])

/-- R71, R119, R120, R121, R131, R170, R171, R172, R175: events. A rising line of the Sentry image or of a fabric adds one
arrival on the way to every input routed to it, and SIG one to its target; an arrival adds to its input's counter, which a
waiting WAITE takes from at once, and saturates at 255; a loaded counter does the same. WAITE takes a count, or ends with 0
at its deadline; WAITT ends at its target with its lateness; both wait otherwise. -/
def Obligations.EventsAndWaits : Prop :=
  ∀ (x : CtlId) (inp : Fin 16) (rd rs1 : Reg) (s : State),
    let d0 := s.dev
    let d1 := (d0.fetch x).1
    let c := d0.core x
    let sent (d d' : Dev) (p : Nat → Nat → Prop) : Prop := ∀ y i, y < 65 → i < 16 →
      (p y i → tblGet 0 d'.flight (16 * y + i) = tblGet 0 d.flight (16 * y + i) + 1) ∧
      (¬ p y i → tblGet 0 d'.flight (16 * y + i) = tblGet 0 d.flight (16 * y + i))
    let routed (src line : Nat) (y i : Nat) : Prop := d0.get (K.SEQ_EVI_ROUTE_SRC (y / 16) (y % 16) i) = src ∧
      d0.get (K.SEQ_EVI_ROUTE_SEL (y / 16) (y % 16) i) = line
    let counts (d d' : Dev) (v : Nat) : Prop := d'.evi x inp = v ∧
      ∀ y i, y < 65 → i < 16 → ¬ (y = x.val ∧ i = inp.val) → d'.evi y i = d.evi y i
    let alone (d' : Dev) : Prop := (∀ y, y ≠ x.val → d'.core y = d0.core y) ∧ BytesKept d0 d'
    let ended (d' : Dev) (r len : Nat) (v : DWord) : Prop := (d'.core x).ctl = .run ∧
      (d'.core x).pc = (c.pc + len) % 2 ^ 48 / 8 * 8 ∧
      ∀ k, (d'.core x).gGet k = if k = r ∧ k ≠ 0 then v else c.gGet k
    let idle : Prop := (∀ i dl r len, c.ctl ≠ .waitE i dl r len)
    (∀ line : Fin 8, d0.imageRuns = true → d0.snt.running ≠ .romDefault →
      GivesAs (7, 2, line) (.evtTrigger line) s fun d => d = { d0 with flight := d.flight } ∧
        sent d0 d fun y i => y < 64 ∧ d0.corePresent y = true ∧ routed 2 line y i) ∧
    (∀ (n : Die) (line : Fin 8), d0.fabRuns n = true →
      GivesAs (7, 1, line) (.trigFTrigger n line) s fun d => d = { d0 with flight := d.flight } ∧
        sent d0 d fun y i => y / 16 = n.val ∧ routed 1 line y i) ∧
    (∀ m, 1 ≤ m → m ≤ tblGet 0 d0.flight (16 * x.val + inp) → (x.val = 64 ∨ bitAt d0.start.cdReleased (x.val / 16) = true) →
      (idle → d0.evi x inp + m ≤ 255 → Gives (.eventArrival x inp m) s fun d => counts d0 d (d0.evi x inp + m) ∧ alone d ∧
        tblGet 0 d.flight (16 * x.val + inp) = tblGet 0 d0.flight (16 * x.val + inp) - m) ∧
      (∀ dl r len, c.ctl = .waitE inp dl r len → c.halted = false → d0.evi x inp + m ≤ 255 →
        Gives (.eventArrival x inp m) s fun d => counts d0 d (d0.evi x inp + m - 1) ∧ ended d r len 1 ∧ alone d) ∧
      (idle → 255 < d0.evi x inp + m → Gives (.eventArrival x inp m) s fun d => counts d0 d 255 ∧ alone d ∧
        (x.val < 64 → d.bitOf (K.SEQ_EVI_STATUS_EVI_OVF (x.val / 16) (x.val % 16)) inp = true))) ∧
    (c.pfx = none → ∀ dl : Option Reg, Issues s x (dl.toList.map Fin.val) [] →
      (0 < d1.evi x inp → d1.evi x inp ≤ 255 → Gives (.waite x rd inp dl) s fun d =>
        counts d1 d (d1.evi x inp - 1) ∧ ended d rd 8 1 ∧ alone d) ∧
      (d1.evi x inp = 0 → (∃ r, dl = some r ∧ (G s x r).toNat ≤ d0.tti) → Gives (.waite x rd inp dl) s fun d =>
        ended d rd 8 0 ∧ OwnRegisters x d0 d) ∧
      (d1.evi x inp = 0 → (∀ r, dl = some r → d0.tti < (G s x r).toNat) → Gives (.waite x rd inp dl) s fun d =>
        (d.core x).ctl = .waitE inp (dl.map fun r => (G s x r).toNat) rd 8 ∧ (d.core x).pc = c.pc ∧
        (∀ k, (d.core x).gGet k = c.gGet k) ∧ OwnRegisters x d0 d)) ∧
    (∀ t r len, c.ctl = .waitE inp (some t) r len → t ≤ d0.tti → d0.evi x inp = 0 → c.halted = false →
      Gives (.waiteDeadline x) s fun d => ended d r len 0 ∧ alone d ∧ d = { d0 with cores := d.cores }) ∧
    (c.pfx = none → Issues s x [rs1] [] → ∀ imm : BitVec 43,
      let t := (G s x rs1 + BitVec.ofInt 64 imm.toInt).toNat
      (t ≤ d0.tti → Gives (.waitt x rd rs1 imm) s fun d =>
        ended d rd 8 (BitVec.ofNat 64 (d0.tti - t)) ∧ OwnRegisters x d0 d) ∧
      (d0.tti < t → Gives (.waitt x rd rs1 imm) s fun d => (d.core x).ctl = .waitT t rd 8 ∧ (d.core x).pc = c.pc ∧
        (∀ k, (d.core x).gGet k = c.gGet k) ∧ OwnRegisters x d0 d)) ∧
    (∀ t r len, c.ctl = .waitT t r len → t ≤ d0.tti → c.halted = false → Gives (.waittTarget x) s fun d =>
      ended d r len (BitVec.ofNat 64 (d0.tti - t)) ∧ alone d ∧ d = { d0 with cores := d.cores }) ∧
    (c.pfx = none → c.stores = [] →
      let sends (ins : Instr) (y i : Nat) : Prop := Gives ins s fun d =>
        sent d0 d (fun a b => a = y ∧ b = i) ∧ (d.core x).pc = (c.pc + 8) % 2 ^ 48 / 8 * 8 ∧
          (∀ k, (d.core x).gGet k = c.gGet k) ∧ alone d ∧ ∀ f, d.get f = d1.get f
      (∀ tgt : BitVec 7, Issues s x [] [] → (tgt.toNat = 64 ∨ tgt.toNat < 64 ∧ d0.corePresent tgt.toNat = true) →
        sends (.sig x tgt inp none) tgt.toNat inp) ∧
      (Issues s x [rs1] [] →
        let y := (G s x rs1).toNat / 16 % 128
        (y = 64 ∨ y < 64 ∧ d0.corePresent y = true) →
        sends (.sig x 0 0 (some rs1)) y ((G s x rs1).toNat % 16))) ∧
    (∀ (m : Master) (q : CoreId) (v : BitVec 8), q.val = x.val → Lets s m (seqAddr q (0x80 + 4 * inp.val)) true →
      (idle → GivesBy m (.eviCntLoad m q inp v) s fun d =>
        counts d0 d v.toNat ∧ FieldsOnly d0 d [K.SEQ_EVI_CNT_CNT (q.val / 16) (q.val % 16) inp]) ∧
      (∀ dl r len, c.ctl = .waitE inp dl r len → c.halted = false → 0 < v.toNat →
        GivesBy m (.eviCntLoad m q inp v) s fun d => counts d0 d (v.toNat - 1) ∧ ended d r len 1 ∧ alone d))

/-- R129, R176 to R178, R180, R181, R184, R190, R191: the queries and the control state. PUSHV appends to the vector
parameter queue, or waits until there is room; RDV, CAPQ, RDT and RDCS write what they name to their register; WRCS writes
FPSTAT or, on the hub controller, an exception register, its reserved bits zero and a reserved rounding mode 0; STIM sends
a trace packet where its port is enabled. -/
def Obligations.QueriesAndControlState : Prop :=
  ∀ (x : CtlId) (rd rs1 : Reg) (s : State),
    let d0 := s.dev
    let d1 := (d0.fetch x).1
    let c := d0.core x
    let next := (c.pc + 8) % 2 ^ 48 / 8 * 8
    let a := G s x rs1
    c.pfx = none →
    (Issues s x [rs1] [] → x.val < 64 →
      (c.v.vpq.length < 16 →
        RetiresTo (.pushv x rs1) s x next fun c => { c with v := { c.v with vpq := c.v.vpq ++ [a] } }) ∧
      (16 ≤ c.v.vpq.length → Gives (.pushv x rs1) s fun d =>
        (d.core x).ctl = .pushV a ∧ (d.core x).pc = c.pc ∧ (d.core x).v = c.v ∧ OwnRegisters x d0 d)) ∧
    (∀ (q : CoreId) w, q.val = x.val → c.ctl = .pushV w → c.v.vpq.length < 16 → c.halted = false →
      Gives (.pushvSpace q) s fun d =>
        d.core x = { c with ctl := .run, pc := next, fetched := 0, v := { c.v with vpq := c.v.vpq ++ [w] } } ∧
        (∀ y, y ≠ x.val → d.core y = d0.core y) ∧ d = { d0 with cores := d.cores }) ∧
    (Issues s x [] [] →
      (x.val < 64 → ∀ idx : BitVec 5,
        let i := idx.toNat
        (i < 8 → WritesG (.rdv x rd idx) s x rd (BitVec.ofNat 64 (tblGet 0 c.v.lc i))) ∧
        (8 ≤ i → i < 12 → WritesG (.rdv x rd idx) s x rd (BitVec.ofNat 64 (tblGet 0 c.v.ax (i - 8)))) ∧
        (12 ≤ i → i < 16 → WritesG (.rdv x rd idx) s x rd (BitVec.ofNat 64 (tblGet 0 c.v.ay (i - 12)))) ∧
        (16 ≤ i → i < 20 → WritesG (.rdv x rd idx) s x rd (tblGet 0 c.v.dg (i - 16)))) ∧
      (∀ sel : BitVec 8, sel.toNat < 4 → WritesG (.capq x rd 0 sel) s x rd (BitVec.ofNat 64 (d0.capWord sel.toNat))) ∧
      WritesG (.capq x rd 0 0x11) s x rd (if x.val = 64 then 64 else BitVec.ofNat 64 (x.val + 256 * (x.val / 16))) ∧
      WritesG (.rdt x rd 0) s x rd (BitVec.ofNat 64 d0.tti) ∧
      (x.val < 64 → WritesG (.rdt x rd 1) s x rd (BitVec.ofNat 64 (d1.seqCycle x))) ∧
      WritesG (.rdcs x rd 0) s x rd (BitVec.ofNat 64 c.fpstat) ∧
      (x.val = 64 → WritesG (.rdcs x rd 1) s x rd (BitVec.ofNat 64 c.epc) ∧
        WritesG (.rdcs x rd 2) s x rd (BitVec.ofNat 64 c.ecause) ∧
        WritesG (.rdcs x rd 3) s x rd (BitVec.ofNat 64 c.evecOf))) ∧
    (Issues s x [rs1] [] →
      WritesG (.capq x rd rs1 0x10) s x rd
        (oneIf (d0.unitPresent (a.toNat / 2 ^ 16 % 2 ^ 16) (a.toNat % 2 ^ 16) = true)) ∧
      RetiresTo (.wrcs x rs1 0) s x next (fun c => { c with fpstat :=
        a.toNat % 64 + 256 * (if 4 < a.toNat / 256 % 8 then 0 else a.toNat / 256 % 8) + 2048 * (a.toNat / 2048 % 128) }) ∧
      (x.val = 64 → RetiresTo (.wrcs x rs1 1) s x next (fun c => { c with epc := a.toNat % 2 ^ 48 }) ∧
        RetiresTo (.wrcs x rs1 2) s x next (fun c => { c with ecause := a.toNat % 1024 }) ∧
        RetiresTo (.wrcs x rs1 3) s x next fun c => { c with evec := some (a.toNat % 2 ^ 48 / 8 * 8) }) ∧
      ∀ port : BitVec 5,
        (d1.bitOf (K.DBG_STIM_EN x) port.toNat = false → RetiresTo (.stim x rs1 port) s x next id) ∧
        (d1.bitOf (K.DBG_STIM_EN x) port.toNat = true → d1.on K.EVL_CTRL_C_EN = true →
          d1.inject 0x1C (fun u _ => u == x.val) = none → (d1.core x).trace.length < 8 → RetiresTo (.stim x rs1 port) s x next id ∧
          Gives (.stim x rs1 port) s fun d => ∃ r : Rec, (d.core x).trace = (d1.core x).trace ++ [r] ∧ r.cls = 3 ∧
            r.ty = 0x201 ∧ r.arg = port.toNat ∧ r.data = a.toNat)) ∧
    (Issues s x [] [] → ∀ tag : BitVec 16,
      (x.val < 64 → d1.bitOf (if x.val < 32 then K.DBG_ATTACH_LO else K.DBG_ATTACH_HI) (x.val % 32) = true →
        d1.dbgPermit = true → Gives (.brk x tag) s fun d => (d.core x).halted = true ∧ (d.core x).dbgReq = true ∧
          (d.core x).tag = tag.toNat ∧ (d.core x).pc = c.pc ∧ (∀ k, (d.core x).gGet k = c.gGet k) ∧ OwnRegisters x d0 d) ∧
      (x.val = 64 → Gives (.brk x tag) s fun d => (d.core 64).epc = c.pc ∧ (d.core 64).pc = c.evecOf ∧
        (d.core 64).ecause % 256 = fcBREAK ∧ BytesKept d0 d))

/-- R71, R88, R89, R90, R93: the mailboxes and the swap of the Instant Fabric image. A keyed REQ is pending with the flash
lease where its conditions hold, else refused; CANCEL and the timeout of a pending swap end it; at SAFE_POINT it becomes
active; a target slot that is still valid replaces the image, a bad one is a failure; the new image runs from its initial
values, or the previous one, or the ROM default image. -/
def Obligations.MailboxesAndSwap : Prop :=
  ∀ (m : Master) (key : BitVec 8) (w : Word) (out : ImgOut) (s : State),
    let d0 := s.dev
    let unit (d : Dev) : Prop := d = { d0 with regs := d.regs, snt := d.snt, freeUsed := d.freeUsed, lease := d.lease }
    let ended (d : Dev) : Prop := d.get K.SNT_STATUS_SWAP_PENDING = 0 ∧ d.get K.SNT_STATUS_SWAP_ACTIVE = 0 ∧
      d.get K.SNT_SWAP_CTRL_REQ = 0 ∧ d.snt.swapLoading = false ∧ d.snt.swapReload = false ∧
      (d0.holder 5 3 = 0x20 → d0.leaseQueue 5 3 = [] → d.holder 5 3 = 0)
    (d0.imageRuns = true → d0.snt.running ≠ .romDefault → Gives (.mboxFrom w) s fun d =>
      d.get K.SNT_MBOX_FROM = w.toNat ∧ d.get K.SNT_STATUS_MBOX_FULL = 1 ∧
      FieldsOnly d0 d [K.SNT_MBOX_FROM, K.SNT_STATUS_MBOX_FULL]) ∧
    (Lets s m 0x10034 false → ∃ d, exec (.mboxFromRead m) s = .next { s with
        dev := d, answer := some (d0.get K.SNT_MBOX_FROM) } ∧
      d.get K.SNT_STATUS_MBOX_FULL = 0 ∧ FieldsOnly d0 d [K.SNT_STATUS_MBOX_FULL]) ∧
    (Lets s m 0x10030 true → GivesBy m (.mboxToWrite m w) s fun d =>
      d = { d0 with snt := { d0.snt with mboxTo := w.toNat, mboxToStb := d0.snt.mboxToStb + 1 } }) ∧
    (Lets s m 0x1000C true →
      (key ≠ 0xA5 → GivesBy m (.swapRequest m key) s (fun d => d = d0) ∧ GivesBy m (.swapCancel m key) s fun d => d = d0) ∧
      (d0.swapOk = true → d0.holder 5 3 = 0 → GivesBy m (.swapRequest m 0xA5) s fun d =>
        d.get K.SNT_STATUS_SWAP_PENDING = 1 ∧ d.get K.SNT_SWAP_CTRL_REQ = 1 ∧ d.holder 5 3 = 0x20 ∧
        FieldsKept d0 d [K.SNT_STATUS_SWAP_PENDING, K.SNT_SWAP_CTRL_REQ, K.BST_LEASE_HOLDER 5 3, K.BST_LEASE_ARG 5 3] ∧
        unit d) ∧
      (d0.swapOk = false ∨ d0.holder 5 3 ≠ 0 → GivesBy m (.swapRequest m 0xA5) s fun d =>
        d.get K.SNT_STATUS_SWAP_REFUSED = 1 ∧ FieldsKept d0 d [K.SNT_STATUS_SWAP_REFUSED] ∧ unit d) ∧
      (d0.get K.SNT_STATUS_SWAP_PENDING = 1 → GivesBy m (.swapCancel m 0xA5) s fun d => ended d ∧ unit d) ∧
      (d0.get K.SNT_STATUS_SWAP_PENDING = 0 → GivesBy m (.swapCancel m 0xA5) s fun d => d = d0)) ∧
    (d0.get K.SNT_STATUS_SWAP_PENDING = 1 →
      (Gives .swapBegin s fun d => d.get K.SNT_STATUS_SWAP_PENDING = 0 ∧ d.get K.SNT_STATUS_SWAP_ACTIVE = 1 ∧
        d.snt.swapOld = d0.snt.running ∧ d.snt.out.safePoint = true ∧
        FieldsKept d0 d [K.SNT_STATUS_SWAP_PENDING, K.SNT_STATUS_SWAP_ACTIVE] ∧ unit d) ∧
      Gives .swapTimeout s fun d => d.get K.SNT_STATUS_SWAP_REFUSED = 1 ∧ ended d ∧ unit d) ∧
    (d0.get K.SNT_STATUS_SWAP_ACTIVE = 1 → d0.snt.swapLoading = false → d0.snt.swapReload = false →
      (d0.copyValid 0 d0.otherSlot = true → Gives .swapCrcCheck s fun d =>
        d.snt.running = .none ∧ d.snt.loaded = slotSrc d0.otherSlot ∧ d.snt.swapLoading = true ∧
        d.snt.held = d0.snt.holdMask &&& d0.snt.pinClaim ∧ d.regs = d0.regs ∧ unit d) ∧
      (d0.copyValid 0 d0.otherSlot = false → Gives .swapCrcCheck s fun d =>
        d.get K.SNT_STATUS_SWAP_FAIL = 1 ∧ ended d ∧ d.snt.running = d0.snt.running ∧ unit d)) ∧
    (out.trip = false → out.sysReq = false →
      (d0.snt.swapLoading = true → d0.snt.loaded = .slotA →
        (d0.copyValid 0 0 = true → Gives (.swapLoadDone out) s fun d =>
          d.snt.running = .slotA ∧ ended d ∧ d.get K.SNT_STATUS_ACTIVE_SLOT = 0 ∧ unit d) ∧
        (d0.copyValid 0 0 = false → Gives (.swapLoadDone out) s fun d =>
          d.get K.SNT_STATUS_SWAP_FAIL = 1 ∧ d.snt.swapReload = true ∧ d.snt.loaded = d0.snt.swapOld ∧
          FieldsKept d0 d [K.SNT_STATUS_SWAP_FAIL] ∧ unit d)) ∧
      (d0.snt.swapReload = true → d0.snt.loaded = .slotB →
        (d0.copyValid 0 1 = true → Gives (.swapReloadDone out) s fun d =>
          d.snt.running = .slotB ∧ ended d ∧ d.get K.SNT_STATUS_ACTIVE_SLOT = 1 ∧ BytesKept d0 d) ∧
        (d0.copyValid 0 1 = false → Gives (.swapReloadDone out) s fun d =>
          d.snt.running = .romDefault ∧ ended d ∧ d.get K.DEV_START_STATUS_IF_DEFAULT = 1 ∧ BytesKept d0 d)))

/-- R97, R98, R99, R102, R106, R107, R115, R173, R443, R444: tester time. ACQUIRE begins an acquisition while no site is
active, and time is then unsure; its completion loads TTI and the time of day, from zero with REFCLK100, cancels every
armed entry and ends every wait for a target with all ones; the loss of the reference in use makes time unsure and costs
every PLL its lock; a second mark takes the next second or the staged one; GO stages the registers' value. -/
def Obligations.TesterTime : Prop :=
  ∀ (m : Master) (tti : BitVec 64) (sec : BitVec 40) (tick : BitVec 30) (s : State),
    let d0 := s.dev
    let src := d0.time.acqSrc
    (Lets s m 0x40004 true →
      (d0.anyActive = false → GivesBy m (.acquire m) s fun d =>
        d.time = { d0.time with acqPending := true, acqSrc := d.get K.TIM_CTRL_SRC } ∧
        d.get K.TIM_STATUS_TIME_UNSURE = 1 ∧ d.get K.TIM_STATUS_LOCKED = 0 ∧
        (d0.get K.TIM_CTRL_SRC < 3 → d.get K.TIM_CTRL_SRC = d0.get K.TIM_CTRL_SRC) ∧
        FieldsKeptBut d0 d 0x40004 [K.TIM_STATUS_TIME_UNSURE, K.TIM_STATUS_LOCKED, K.DEV_REG_STATUS_LOCKED_WR] ∧
        d = { d0 with regs := d.regs, time := d.time }) ∧
      (d0.anyActive = true → GivesBy m (.acquire m) s fun d => d.get K.TIM_STATUS_ACQ_REFUSED = 1 ∧
        FieldsKeptBut d0 d 0x40004 [K.TIM_STATUS_ACQ_REFUSED, K.DEV_REG_STATUS_LOCKED_WR] ∧ RegsOnly d0 d)) ∧
    (d0.time.acqPending = true → d0.canAcquire src = true → src ≤ 2 → Gives (.acquisitionComplete tti sec tick) s fun d =>
      d.time.tti = (if src = 0 then 0 else tti.toNat) ∧ d.time.sec = (if src = 0 then 0 else sec.toNat) ∧
      d.time.tick = (if src = 0 then 0 else tick.toNat % 800000000) ∧ d.time.acqPending = false ∧
      d.get K.TIM_STATUS_LOCKED = 1 ∧ d.get K.TIM_STATUS_TIME_UNSURE = 0 ∧ d.get K.TIM_STATUS_HOLDOVER = 0 ∧
      d.get K.TIM_STATUS_SRC_ACTIVE = src ∧ d.get K.CLK_STATUS_REF_SRC = src + 1 ∧ d.get K.TIM_STATUS_SET_PENDING = 0 ∧
      (∀ t e, t < 6 → e < 256 → d0.schedState t e = 1 → d.schedState t e = 4) ∧
      (∀ y t rd len, (d0.core y).ctl = .waitT t rd len → (d.core y).ctl = .run ∧
        (rd ≠ 0 → (d.core y).gGet rd = BitVec.allOnes 64)) ∧ BytesKept d0 d) ∧
    (bitAt d0.time.present 0 = true →
      (d0.get K.CLK_STATUS_REF_SRC = 1 → GivesAs (3, 0x0F, 0) .refLost s fun d =>
        d.get K.CLK_STATUS_REF_LOST = 1 ∧ d.get K.CLK_STATUS_REF_SRC = 0 ∧ d.get K.CLK_STATUS_REF_OK = 0 ∧
        d.get K.TIM_STATUS_SRC_LOST = 1 ∧ d.get K.TIM_STATUS_TIME_UNSURE = 1 ∧ d.get K.TIM_STATUS_LOCKED = 0 ∧
        (∀ n p, n < 4 → p < 2 → d.get (lockedFld n p) = 0) ∧ BytesKept d0 d) ∧
      (d0.get K.CLK_STATUS_REF_SRC ≠ 1 → GivesAs (3, 0x0F, 0) .refLost s fun d =>
        d.get K.CLK_STATUS_REF_LOST = 1 ∧ FieldsKept d0 d [K.CLK_STATUS_REF_LOST] ∧
        d = { d0 with regs := d.regs, time := { d0.time with present := clearBitAt d0.time.present 0 } })) ∧
    (Gives .referenceBack s fun d => (d0.get K.TIM_CTRL_SRC = 0 → d.get K.CLK_STATUS_REF_OK = 1) ∧
      FieldsKept d0 d [K.CLK_STATUS_REF_OK] ∧
      d = { d0 with regs := d.regs, time := { d0.time with present := setBitAt d0.time.present 0 } }) ∧
    (d0.time.markDue = true → d0.tti < 2 ^ 64 →
      (d0.get K.TIM_STATUS_SET_PENDING = 0 → d0.time.linkMark = none → Gives .secondMark s fun d =>
        d.time.sec = (d0.time.sec + 1) % 2 ^ 40 ∧ d.time.tti = d0.time.tti ∧ d.time.markDue = false ∧
        d.get2 K.TIM_MARK_TTI_LO K.TIM_MARK_TTI_HI = d0.tti ∧
        FieldsKept d0 d [K.TIM_MARK_TTI_LO, K.TIM_MARK_TTI_HI] ∧ d = { d0 with regs := d.regs, time := d.time }) ∧
      (d0.get K.TIM_STATUS_SET_PENDING = 1 → d0.time.goNow = false → Gives .secondMark s fun d =>
        d.time.sec = d0.time.staged ∧ d.get K.TIM_STATUS_SET_PENDING = 0 ∧ d.time.markDue = false ∧
        FieldsKept d0 d [K.TIM_STATUS_SET_PENDING, K.TIM_MARK_TTI_LO, K.TIM_MARK_TTI_HI])) ∧
    (d0.time.markDue = false → Gives .secondMark s fun d => d = d0) ∧
    (Lets s m 0x40024 true →
      (d0.get K.TIM_CTRL_SRC = 0 → d0.get K.TIM_CTRL_TIME_LOCK = 0 → GivesBy m (.go m) s fun d =>
        d.get K.TIM_STATUS_SET_PENDING = 1 ∧
        (d0.time.staging = true → d0.time.stagingMark = true ∨ d0.time.markTick = true → d.get K.TIM_STATUS_SET_LATE = 1) ∧
        (d0.time.stagingMark = false → d0.time.markTick = false →
          d.get K.TIM_STATUS_SET_LATE = d0.get K.TIM_STATUS_SET_LATE) ∧
        d.time = { d0.time with staged := d0.get2 K.TIM_SET_SEC_LO K.TIM_SET_SEC_HI, goNow := true, staging := false
                                stagingMark := false } ∧
        FieldsKept d0 d [K.TIM_STATUS_SET_PENDING, K.TIM_STATUS_SET_LATE] ∧ d = { d0 with regs := d.regs, time := d.time }) ∧
      (d0.get K.TIM_CTRL_SRC ≠ 0 ∨ d0.get K.TIM_CTRL_TIME_LOCK ≠ 0 → GivesBy m (.go m) s fun d =>
        d.get K.TIM_STATUS_SET_REFUSED = 1 ∧ FieldsOnly d0 d [K.TIM_STATUS_SET_REFUSED]))

/-- R104, R105, R274, R572: consistent reads of a master that keeps snapshots. A read of TIM_TTI_LO answers the low word and
latches the high one; TIM_TICK and TIM_SEC_LO latch each other's counterpart, so that a second read answers from the same
tick; TIM_SEC_HI answers the high bits of the latched seconds; a read of the LO word of a wide counter answers it and
latches the bits of the next word that are read as one with it. -/
def Obligations.ConsistentReads : Prop :=
  ∀ (m : Master) (s : State), keepsSnaps m = true →
    let d0 := s.dev
    let t := d0.todOf m
    let latched (a v : Nat) (d : Dev) : Prop := tblGet 0 d.snaps (snapKey m a) = v ∧ d = { d0 with snaps := d.snaps }
    let tod (t' : Tod) (d : Dev) : Prop := d.todOf m = t' ∧ d = { d0 with time := { d0.time with tod := d.time.tod } }
    (Lets s m 0x40008 false → ∃ v, v % 2 ^ 32 = d0.tti % 2 ^ 32 ∧
      Answers (.timTtiLoRead m) s v (latched 0x4000C (d0.tti / 2 ^ 32 % 2 ^ 32))) ∧
    (Lets s m 0x40010 false →
      (t.armed = 2 → Answers (.timTickRead m) s t.tick (tod { t with armed := 0 })) ∧
      (t.armed ≠ 2 → Answers (.timTickRead m) s d0.time.tick (tod { t with armed := 1, sec := d0.time.sec }))) ∧
    (Lets s m 0x40014 false →
      (t.armed = 1 → Answers (.timSecLoRead m) s (t.sec % 2 ^ 32) fun d => d = d0) ∧
      (t.armed ≠ 1 → Answers (.timSecLoRead m) s (d0.time.sec % 2 ^ 32)
        (tod { armed := 2, sec := d0.time.sec, tick := d0.time.tick }))) ∧
    (Lets s m 0x40018 false →
      (t.armed = 1 → Answers (.timSecHiRead m) s (t.sec / 2 ^ 32 % 256) (tod { t with armed := 0 })) ∧
      (t.armed ≠ 1 → Answers (.timSecHiRead m) s (t.sec / 2 ^ 32 % 256) fun d => d = d0)) ∧
    ∀ addr : BitVec 24,
      let a := addr.toNat
      Lets s m a false → slowReg a = false → freeReg a = false → a ∉ [0x10034, 0x40010, 0x40014, 0x40018] →
        a < 0x80180 ∨ 0x80200 ≤ a → rsMask a = 0 → rsMask (a + 4) ≠ 0 →
        Answers (.snapshotLoRead m addr) s (d0.regWord a) (latched (a + 4) (d0.regWord (a + 4) &&& rsMask (a + 4)))

/-- R110 to R115, R118, R230, R314, R318, R473, R507: the schedule tables. ARM judges its entry: REFUSED for a bad target,
MISSED for too short a lead, else ARMED; DISARM cancels an armed entry; an entry in use takes no write. An armed start is
copied to its site's dies. At its tick an entry fires: a start enters Running, or is refused where its site is not
Admitted; a stop requests its site's stop; an event arrives; a domain starts; a pulse lasts ARG ticks; a declaration bounds
its die's power state. -/
def Obligations.ScheduleTables : Prop :=
  ∀ (m : Master) (t : TblId) (e : Fin 256) (w : Word) (n : Die) (s : State),
    let d0 := s.dev
    let st (u : Nat) : Fld := K.SCHED_STATE u e
    let res (u : Nat) : Fld := K.SCHED_RESULT u e
    let u := n.val + 2
    let set : Dev := ((d0.set (K.SCHED_ACTION t e) w.toNat).set (K.SCHED_TARGET t e) (w.toNat / 256)).set
      (K.SCHED_SUB t e) (w.toNat / 2 ^ 16)
    let word : List Fld := [K.SCHED_ACTION t e, K.SCHED_TARGET t e, K.SCHED_SUB t e, st t, res t]
    let site := d0.get (K.SCHED_TARGET 0 e)
    (Lets s m (schedWord2 t e) true → d0.tblPresent t = true →
      (d0.schedFree t e = true →
        (set.targetOk t e = false → GivesAs (6, 1, e) (.arm m t e w) s fun d =>
          d.get (st t) = 5 ∧ d.get (res t) = 4 ∧ FieldsOnly d0 d word) ∧
        (set.targetOk t e = true → d0.schedTti t e < d0.tti + minLead (w.toNat % 256) →
          GivesAs (6, 1, e) (.arm m t e w) s fun d => d.get (st t) = 3 ∧ d.get (res t) = 1 ∧ BytesKept d0 d) ∧
        (set.targetOk t e = true → d0.tti + minLead (w.toNat % 256) ≤ d0.schedTti t e →
          (∀ k ∈ set.wakeDies t e, set.deepState k = 0 ∧ set.wakeInTime k (d0.schedTti t e - d0.tti) = true) →
          GivesAs (6, 1, e) (.arm m t e w) s fun d =>
            d.get (st t) = 1 ∧ d.get (res t) = 0 ∧ d.get (K.SCHED_ACTION t e) = w.toNat % 256 ∧
            d.get (K.SCHED_TARGET t e) = w.toNat / 256 % 256 ∧ FieldsKept d0 d word ∧
            d = { d0 with regs := d.regs, sched := d.sched })) ∧
      (d0.schedFree t e = false → Gives (.arm m t e w) s fun d => d = d0) ∧
      (d0.schedState t e = 1 → GivesAs (6, 2, e) (.disarm m t e w) s fun d =>
        d.get (st t) = 4 ∧ d.get (res t) = 0 ∧ BytesKept d0 d)) ∧
    (e.val ∈ d0.sched.placing → d0.schedState 0 e = 1 →
      (d0.siteDies site = [n.val] → d0.dieDown n = false → d0.schedFree u e = true → Gives (.linkedCopyPlacement e) s fun d =>
        d.get (st u) = 7 ∧ d.get (K.SCHED_TTI_LO u e) = d0.get (K.SCHED_TTI_LO 0 e) % 2 ^ 32 ∧
        d.get (K.SCHED_TTI_HI u e) = d0.get (K.SCHED_TTI_HI 0 e) % 2 ^ 32 ∧
        d.get (K.SCHED_TARGET u e) = site % 256 ∧ tblFind d.sched.links (256 * u + e) = some e.val ∧
        e.val ∉ d.sched.placing ∧ d.get (st 0) = 1 ∧ d = { d0 with regs := d.regs, sched := d.sched }) ∧
      ((d0.siteDies site).any d0.dieDown = true → Gives (.linkedCopyPlacement e) s fun d => d.get (st 0) = 4)) ∧
    (s.tickStart.hits 0 e 1 = true → d0.hits 0 e 1 = true →
      (d0.startRefusal site = 0 → GivesAs (4, 1, e) (.siteStartHit e) s fun d =>
        d.get (st 0) = 2 ∧ d.get (res 0) = 0 ∧ d.siteState site = 2 ∧ BytesKept d0 d) ∧
      (d0.siteIn site [1] = false → s.tickStart.siteIn site [1] = false → GivesAs (4, 1, e) (.siteStartHit e) s fun d =>
        d.get (st 0) = 5 ∧ d.get (res 0) = 3 ∧ BytesKept d0 d)) ∧
    (d0.hits 0 e 2 = true → d0.siteIn site [2] = true → d0.stopGiven site = false →
      GivesAs (4, 2, e) (.siteStopHit e) s fun d =>
        d.get (st 0) = 2 ∧ (d.site site).req = some (4, d0.clock) ∧ BytesKept d0 d) ∧
    (d0.hits u e 3 = true →
      let x := 16 * n.val + d0.get (K.SCHED_TARGET u e)
      let i := d0.get (K.SCHED_SUB u e)
      x < 64 → i < 16 → (∀ j dl r len, (d0.core x).ctl ≠ .waitE j dl r len) → d0.evi x i < 255 →
      GivesAs (4, 3, e) (.eventHit n e) s fun d => d.get (st u) = 2 ∧ d.evi x i = d0.evi x i + 1 ∧
        FieldsOnly d0 d [st u, res u, K.SEQ_EVI_CNT_CNT (x / 16) (x % 16) i]) ∧
    (d0.hits u e 4 = true →
      let p := d0.get (K.SCHED_TARGET u e)
      (d0.get (K.TGN_PD_CFG_RUN n p) = 0 → GivesAs (4, 4, e) (.pdStartHit n e) s fun d =>
        d.get (st u) = 2 ∧ d.get (K.TGN_PD_CFG_RUN n p) = 1 ∧ tblFind d.tgn.pdStart (16 * n + p) = some d0.clock ∧
        FieldsKept d0 d [st u, res u, K.TGN_PD_CFG_RUN n p]) ∧
      (d0.get (K.TGN_PD_CFG_RUN n p) = 1 → GivesAs (4, 4, e) (.pdStartHit n e) s fun d =>
        d.get (st u) = 5 ∧ d.get (K.TGN_PD_CFG_RUN n p) = 1 ∧ d.tgn = d0.tgn)) ∧
    (d0.hits t e 5 = true →
      let k := d0.get (K.SCHED_SUB t e)
      let l := d0.get (K.SCHED_TARGET t e)
      (k ≠ 0 ∨ d0.trigPin l = true → GivesAs (4, 5, e) (.trigOutHit t e) s fun d => d.get (st t) = 2 ∧
        (⟨t, k, l, d0.clock + d0.get (K.SCHED_ARG t e)⟩ : Pulse) ∈ d.sched.pulses ∧
        (∀ p ∈ d0.sched.pulses, p.die ≠ t.val ∨ p.kind ≠ k ∨ p.line ≠ l → p ∈ d.sched.pulses) ∧ BytesKept d0 d) ∧
      (k = 0 → d0.trigPin l = false → GivesAs (4, 5, e) (.trigOutHit t e) s fun d => d.get (st t) = 2 ∧
        d.sched.pulses = d0.sched.pulses ∧ BytesKept d0 d)) ∧
    (d0.hits u e 6 = true → d0.get (K.SCHED_SUB u e) ≤ 4 → ∀ t' : TblId, t'.val = u →
      GivesAs (4, 6, e) (.pwrStateHit t' e) s fun d => d.get (st u) = 2 ∧
        d.get (K.PWR_DIE_STATE_DECL_MAX n) = d0.get (K.SCHED_SUB u e) ∧
        FieldsOnly d0 d [st u, res u, K.PWR_DIE_STATE_DECL_MAX n]) ∧
    ∀ (k : Fin 2) (l : Fin 64), Gives (.trigOutPulseEnd t k l) s fun d =>
      (∀ p : Pulse, p ∈ d.sched.pulses ↔ p ∈ d0.sched.pulses ∧
        ¬ (p.die = t.val ∧ p.kind = k.val ∧ p.line = l.val ∧ p.until' ≤ d0.clock)) ∧
      d = { d0 with sched := { d0.sched with pulses := d.sched.pulses } }

/-- R229, R230, R246, R255, R444, R451, R452, R454, R455: the PLLs, the period domains and the deskew sweeps. A step is
MISSED, REFUSED or ARMED, takes its offset at its tick, and is cancelled by DISARM; a lost lock puts the die on the bypass
clock; RELOCK takes the PLL lease and unlocks both PLLs, which lock again or fail; a domain starts unless it runs and stops
unless it is busy; a sweep takes its group's lease and gives it back after its measurement. -/
def Obligations.PllsDomainsAndSweeps : Prop :=
  ∀ (m : Master) (n : Die) (p : Fin 2) (pd r : Fin 16) (s : State),
    let d0 := s.dev
    let v := d0.getInt (K.PLL_STEP_OFS_NEW n p)
    let t := d0.get2 (K.PLL_STEP_TTI_LO_TTI_LO n p) (K.PLL_STEP_TTI_HI_TTI_HI n p)
    let mark : List Fld := [K.PLL_STEP_CTRL_STATE n p, K.PLL_STEP_CTRL_RESULT n p, K.PLL_STEP_CTRL_ARM n p]
    let state (d : Dev) (st res : Nat) : Prop :=
      d.get (K.PLL_STEP_CTRL_STATE n p) = st ∧ d.get (K.PLL_STEP_CTRL_RESULT n p) = res
    let clk (d : Dev) : Prop := d = { d0 with regs := d.regs, clk := d.clk }
    let tgn (d : Dev) : Prop := d = { d0 with regs := d.regs, tgn := d.tgn }
    let begun (d : Dev) (g : Nat) : Prop := d.get (K.TGN_STATUS_DSK_ACTIVE n) = 1 ∧ d.get (K.TGN_STATUS_DSK_GROUP n) = g ∧
      tblFind d.tgn.sweep n = some g ∧ d.holder n 0 = sweepHolder g ∧ d = { d0 with regs := d.regs, tgn := d.tgn }
    (Lets s m (dieAddr n (0x5011C + 64 * p.val)) true →
      (t < d0.tti + 64 → GivesBy m (.pllStepArm m n p) s fun d => state d 3 0 ∧ FieldsOnly d0 d mark) ∧
      (d0.tti + 64 ≤ t → d0.stepRefusal n p v t ≠ 0 → GivesBy m (.pllStepArm m n p) s fun d =>
        state d 4 (d0.stepRefusal n p v t) ∧ FieldsOnly d0 d mark) ∧
      (d0.tti + 64 ≤ t → d0.stepRefusal n p v t = 0 → GivesBy m (.pllStepArm m n p) s fun d =>
        state d 1 0 ∧ d.armedStep n p = some (v, t) ∧ FieldsKept d0 d mark ∧ clk d) ∧
      ((d0.armedStep n p).isSome = true → ∃ d, exec (.pllStepDisarm m n p) s = .next { s with
          dev := d, applied := s.applied ++ [((writeClass m, 0, 0), d0), ((6, 2, p.val), d)] } ∧
        state d 5 0 ∧ d.armedStep n p = none ∧ FieldsKept d0 d mark ∧ clk d)) ∧
    (∀ o, d0.armedStep n p = some (o, d0.tti) → GivesAs (4, 0, p.val) (.pllStep n p) s fun d =>
      state d 2 0 ∧ d.get (K.PLL_OFS_OFS n p) = narrow o 32 ∧ d.armedStep n p = none ∧ clk d) ∧
    (d0.on (lockedFld n p) = true → GivesAs (3, 0x0F, n.val) (.pllLossOfLock n p) s fun d =>
      d.get (lockedFld n p) = 0 ∧ d.get (K.TGN_STATUS_BYPASS n) = 1 ∧ d.get (K.PLL_STATUS_LOST n) = 1 ∧ BytesKept d0 d) ∧
    (d0.on (lockedFld n p) = false → GivesAs (3, 0x0F, n.val) (.pllLossOfLock n p) s fun d => d = d0) ∧
    (Lets s m (dieAddr n 0x50004) true →
      (d0.relockOk n = false → GivesBy m (.relock m n) s fun d => d.get (K.PLL_STATUS_RELOCK_REFUSED n) = 1 ∧
        FieldsKeptBut d0 d (dieAddr n 0x50004) [K.PLL_STATUS_RELOCK_REFUSED n, K.DEV_REG_STATUS_LOCKED_WR] ∧ RegsOnly d0 d) ∧
      (d0.relockOk n = true → d0.holder n 5 = 0 → (∀ q ∈ d0.leaseQueue n 5, q.1 ≠ relockHolder n) →
        GivesBy m (.relock m n) s fun d => d.get (lockedFld n 0) = 0 ∧ d.get (lockedFld n 1) = 0 ∧
          d.holder n 5 = relockHolder n ∧ n.val ∈ d.clk.relocking ∧ clk d)) ∧
    (n.val ∈ d0.clk.relocking → ∀ a b : Bool,
      ((a && b) = true → (d0.bandFor n 0).isSome = true → (d0.bandFor n 1).isSome = true →
        Gives (.relockDone n a b) s fun d => d.get (lockedFld n 0) = 1 ∧ d.get (lockedFld n 1) = 1 ∧
          d.get (K.TGN_STATUS_BYPASS n) = 0 ∧ d.get (K.PLL_STATUS_LOST n) = 0 ∧
          d.get (K.TGN_DSK_STATUS_STALE n) = 0xF ∧ n.val ∉ d.clk.relocking ∧ BytesKept d0 d) ∧
      ((a && b) = false → Gives (.relockDone n a b) s fun d =>
        d.get (K.TGN_STATUS_BYPASS n) = 1 ∧ d.get (K.PLL_STATUS_LOCK_FAIL n) = 1 ∧ n.val ∉ d.clk.relocking ∧
        BytesKept d0 d)) ∧
    (Lets s m (dieAddr n (0x20100 + 8 * pd.val)) true →
      let run := K.TGN_PD_CFG_RUN n pd
      let ref := K.TGN_PD_CFG_REFUSED n pd
      let kept (d : Dev) : Prop := FieldsKeptBut d0 d (dieAddr n (0x20100 + 8 * pd.val)) [K.TGN_STATUS_WR_REFUSED n] ∧ tgn d
      (d0.get run = 0 → GivesBy m (.pdCfgStart m n pd) s fun d =>
        d.get run = 1 ∧ tblFind d.tgn.pdStart (16 * n + pd) = some (d0.clock + 1) ∧ kept d) ∧
      (d0.get run = 1 → GivesBy m (.pdCfgStart m n pd) s fun d => d.get ref = 1 ∧ d.get run = 1 ∧ d.tgn = d0.tgn ∧ kept d) ∧
      (d0.pdBusy n pd = false → GivesBy m (.pdCfgStop m n pd) s fun d =>
        d.get run = 0 ∧ tblFind d.tgn.pdStart (16 * n + pd) = none ∧ kept d) ∧
      (d0.pdBusy n pd = true → GivesBy m (.pdCfgStop m n pd) s fun d =>
        d.get ref = 1 ∧ d.get run = d0.get run ∧ d.tgn = d0.tgn ∧ kept d)) ∧
    ((Lets s m (dieAddr n 0x20004) true → ∀ g, g < 4 → d0.get (K.TGN_DSK_CTRL_GROUP n) = g →
        (d0.groupIdle n g = true → d0.holder n 0 = 0 → GivesBy m (.sweep m n) s fun d => begun d g) ∧
        (d0.groupIdle n g = false → GivesBy m (.sweep m n) s fun d =>
          FieldsKeptBut d0 d (dieAddr n 0x20004) [] ∧ RegsOnly d0 d)) ∧
      (∀ g : Fin 4, d0.cdPresent n = true → d0.modeIn [2, 3, 4] = true → d0.get (K.TGN_DSK_CTRL_AUTO n) = 1 →
        d0.groupIdle n g = true → d0.holder n 0 = 0 →
        (∃ i, i < 32 ∧ d0.get (K.CHAN_DESKEW_COLD n (32 * g + i)) = 1) →
        Gives (.deskewSweepDue n g) s fun d => begun d g.val) ∧
      ∀ g vals, d0.inStage 10 = false → tblFind d0.tgn.sweep n = some g → Gives (.deskewMeasurementDone n vals) s fun d =>
        tblFind d.tgn.sweep n = none ∧ d.get (K.TGN_STATUS_DSK_ACTIVE n) = 0 ∧
        (d0.holder n 0 = sweepHolder g → d0.leaseQueue n 0 = [] → d.holder n 0 = 0) ∧ BytesKept d0 d) ∧
    (Lets s m (dieAddr n (0x20208 + 16 * r.val)) true → GivesBy m (.rsuClr m n r) s fun d =>
      d.get (K.TGN_RSU_STAT_MIN n r) = 0xFFFF ∧ d.get (K.TGN_RSU_STAT_MAX n r) = 0 ∧ d.get (K.TGN_RSU_MISS n r) = 0 ∧
      FieldsOnly d0 d [K.TGN_RSU_STAT_MIN n r, K.TGN_RSU_STAT_MAX n r, K.TGN_RSU_MISS n r])

/-- R148, R257, R260, R265, R266, R268, R274, R275: fail capture and its registers. The record generator moves the head of a
core's FIFO to its site's share of the staging; a mask is taken at the next tick; RD_PTR moves within the level and ends
FULL, a write beyond is refused; clearing WM_HIT sets the peak to the level, and the mark judges it again; a write of a
counter's LO word loads the count; ICACHE_INV empties the core's instruction cache. -/
def Obligations.CaptureRegisters : Prop :=
  ∀ (m : Master) (n : Die) (v : Word) (s : State),
    let d0 := s.dev
    ((∀ k, k < 16 → (d0.core (16 * n + k)).cap.fifo = []) → Gives (.recordGeneratorTake n) s fun d => d = d0) ∧
    (∀ q r l, q / 16 = n.val → (d0.core q).cap.fifo = r :: l → r.die = n.val →
      (∀ k, k < 16 → 16 * n.val + k ≠ q → (d0.core (16 * n + k)).cap.fifo = []) →
      let k := stageKey r.die r.site
      (tblGet [] d0.tgn.staging k).length < 1024 * d0.get (K.SFT_STAGE r.die r.site) →
      Gives (.recordGeneratorTake n) s fun d =>
        (d.core q).cap.fifo = l ∧ tblGet [] d.tgn.staging k = tblGet [] d0.tgn.staging k ++ [r] ∧
        (∀ j, j ≠ k → tblGet [] d.tgn.staging j = tblGet [] d0.tgn.staging j) ∧
        (∀ y, y ≠ q → d.core y = d0.core y) ∧ BytesKept d0 d) ∧
    (∀ i : Fin 4, Lets s m (dieAddr n (0x40010 + 4 * i.val)) true → GivesBy m (.cmpMaskWrite m n i v) s fun d =>
      d.get (K.CMP_MASK n i) = v.toNat ∧ FieldsOnly d0 d [K.CMP_MASK n i]) ∧
    (∀ x : SiteId, Lets s m (dieAddr n (0xE1018 + 64 * x.val)) true →
      let rd := K.SFT_RD_PTR n x
      let level := (d0.get (K.SFT_WR_PTR n x) + 2 ^ 32 - v.toNat) % 2 ^ 32
      (d0.get (K.SFT_MODE n x) = 2 →
        (level ≤ d0.slots n x → d0.get rd ≠ v.toNat → GivesBy m (.rdPtrWrite m n x v) s fun d =>
          d.get rd = v.toNat ∧ d.get (K.SFT_FULL n x) = 0 ∧ d.get (K.SFT_WR_PTR n x) = d0.get (K.SFT_WR_PTR n x) ∧
          BytesKept d0 d) ∧
        (d0.slots n x < level → GivesBy m (.rdPtrWrite m n x v) s fun d =>
          d.get (K.FLG_STATUS_WR_REFUSED n) = 1 ∧ FieldsOnly d0 d [K.FLG_STATUS_WR_REFUSED n])) ∧
      (d0.get (K.SFT_MODE n x) ≠ 2 → GivesBy m (.rdPtrWrite m n x v) s fun d => d = d0)) ∧
    (let cleared (level : Nat) (mark peak hit : Fld) (d : Dev) : Prop := d.get peak = level % 2 ^ peak.width ∧
        d.get hit = bit (decide (d0.get mark ≠ 0) && decide (d0.get mark ≤ level)) ∧ FieldsOnly d0 d [peak, hit];
      (Lets s m 0xD0028 true → GivesBy m (.wmHitClear m 0xD0028) s
        (cleared (d0.evlLevel 1) K.EVL_B_WM_MARK K.EVL_B_PEAK_WM_PEAK K.EVL_B_PEAK_WM_HIT)) ∧
      (∀ i : Fin 4, Lets s m (0x180040 + 4 * i.val) true → GivesBy m (.wmHitClear m (BitVec.ofNat 24 (0x180040 + 4 * i))) s
        (cleared (tblGet [] d0.rps.intake i).length (K.RPS_INTAKE_WM_MARK i) (K.RPS_INTAKE_PEAK_WM_PEAK i)
          (K.RPS_INTAKE_PEAK_WM_HIT i))) ∧
      (∀ x : SiteId, let a := dieAddr n (0xE1024 + 64 * x.val)
        Lets s m a true → GivesBy m (.wmHitClear m (BitVec.ofNat 24 a)) s
          (cleared (d0.regionLevel n x) (K.SFT_WM_MARK n x) (K.SFT_WM_PEAK n x) (K.SFT_WM_HIT n x))) ∧
      ∀ a : BitVec 24, wmHitBit a.toNat = none → Gives (.wmHitClear m a) s fun d => d = d0) ∧
    (Lets s m (dieAddr n 0x40110) true → GivesBy m (.counterLoWrite m (BitVec.ofNat 24 (dieAddr n 0x40110)) v) s fun d =>
      d.get2 (K.FLG_REC_LO_COUNT_LO n) (K.FLG_REC_HI_COUNT_HI n) = v.toNat ∧
      FieldsOnly d0 d [K.FLG_REC_LO_COUNT_LO n, K.FLG_REC_HI_COUNT_HI n]) ∧
    (Lets s m 0xD0038 true → GivesBy m (.counterLoWrite m 0xD0038 v) s fun d =>
      d.get2 K.EVL_B_LOST_LO_COUNT_LO K.EVL_B_LOST_HI_COUNT_HI = v.toNat ∧
      FieldsOnly d0 d [K.EVL_B_LOST_LO_COUNT_LO, K.EVL_B_LOST_HI_COUNT_HI]) ∧
    ∀ q : CoreId, Lets s m (seqAddr q 4) true → GivesBy m (.icacheInv m q) s fun d =>
      d.core q = { d0.core q with icache := false } ∧ (∀ y, y ≠ q.val → d.core y = d0.core y) ∧
      FieldsKeptBut d0 d (seqAddr q 4) [K.DEV_REG_STATUS_LOCKED_WR] ∧ d = { d0 with regs := d.regs, cores := d.cores }

/-- R14, R371, R499, R515, R569 to R574: reaching and writing a register. In reset, at an
unaligned or an unmapped address, beyond a link that is DOWN, in a block that is not granted to the virtual function or
for a debug master whose lifecycle forbids it, a write changes nothing but the status that tells so; an absent unit's
register ignores it. RW takes the value, W1C clears where a one is written, a lock bit once set stays, and a locked field
keeps its value and sets LOCKED_WR. -/
def Obligations.RegisterWrites : Prop :=
  ∀ (m : Master) (a : BitVec 24) (v : Word) (s : State),
    let d0 := s.dev
    let w := v.toNat
    let asked : Prop := m = .pf ∨ m = .cfgp
    let only (f : Fld) (d : Dev) : Prop := d.get f = 1 ∧ FieldsOnly d0 d [f]
    let outside (b : Nat) : Prop := b < 0x38000 ∨ 0x40000 ≤ b
    (outside a.toNat →
      (asked → d0.inReset = true ∨ a.toNat % 4 ≠ 0 → Gives (.registerWrite m a v) s fun d => d = d0) ∧
      (d0.inReset = false → a.toNat % 4 = 0 →
        (asked → regHole a.toNat = true → Gives (.registerWrite m a v) s (only K.DEV_REG_STATUS_UNMAPPED)) ∧
        (regHole a.toNat = false →
          (asked → d0.regDark a.toNat = false → d0.reaches m (sideOf a.toNat) = false →
            Gives (.registerWrite m a v) s (only K.NOP_STATUS_ACC_REFUSED)) ∧
          (asked → d0.regDark a.toNat = true → ∃ d, exec (.registerWrite m a v) s = .next { s with dev := d } ∧ d = d0) ∧
          (m = .vf0 → bitAt (d0.get (K.HST_VF_BLK 0)) (vfBlock a.toNat) = false →
            Gives (.registerWrite m a v) s fun d => d.get K.HST_STATUS_VF_REFUSED = 1 ∧ BytesKept d0 d ∧
              ∀ f, f.key ≠ K.HST_STATUS_VF_REFUSED.key → f.key / 32 ≠ 0xD0038 / 4 → f.key / 32 ≠ 0xD003C / 4 →
                d.get f = d0.get f)) ∧
        (m = .dbg → d0.dbgPermit = false → Gives (.registerWrite m a v) s fun d =>
          d.get K.DBG_CMD_RESULT_RESULT = 4 ∧ FieldsOnly d0 d [K.DBG_CMD_RESULT_RESULT]))) ∧
    (∀ x : CtlId, Lets s m (0xA0100 + 4 * x.val) true →
      GivesBy m (.registerWrite m (BitVec.ofNat 24 (0xA0100 + 4 * x)) v) s fun d =>
        d.get (K.DBG_STIM_EN x) = w ∧ FieldsOnly d0 d [K.DBG_STIM_EN x]) ∧
    (Lets s m 0x10010 true → GivesBy m (.registerWrite m 0x10010 v) s fun d =>
      d.get K.SNT_SWAP_TMO = w % 2 ^ 16 ∧ FieldsOnly d0 d [K.SNT_SWAP_TMO]) ∧
    (Lets s m 0x48 true → d0.get K.DEV_MODE_REQ_REFUSED < 2 → GivesBy m (.registerWrite m 0x48 v) s fun d =>
      d.get K.DEV_MODE_REQ_REFUSED = (if w / 2 ^ 17 % 2 = 1 then 0 else d0.get K.DEV_MODE_REQ_REFUSED) ∧
      FieldsOnly d0 d [K.DEV_MODE_REQ_REFUSED]) ∧
    (Lets s m 0x60024 true → GivesBy m (.registerWrite m 0x60024 v) s fun d =>
      d.get K.PWR_LOCK_CAP_LOCK = (if w % 2 = 1 then 1 else d0.get K.PWR_LOCK_CAP_LOCK) ∧
      FieldsOnly d0 d [K.PWR_LOCK_CAP_LOCK]) ∧
    (Lets s m 0x40004 true → w / 4 % 2 = 0 → w % 4 ≠ 3 →
      (d0.get K.TIM_CTRL_TIME_LOCK = 0 → GivesBy m (.registerWrite m 0x40004 v) s fun d =>
        d.get K.TIM_CTRL_SRC = w % 4 ∧ d.get K.TIM_CTRL_TIME_LOCK = w / 2 ^ 31 ∧
        FieldsOnly d0 d [K.TIM_CTRL_SRC, K.TIM_CTRL_TIME_LOCK]) ∧
      (d0.get K.TIM_CTRL_TIME_LOCK = 1 → d0.get K.TIM_CTRL_SRC ≠ w % 4 → GivesBy m (.registerWrite m 0x40004 v) s fun d =>
        d.get K.DEV_REG_STATUS_LOCKED_WR = 1 ∧ FieldsOnly d0 d [K.DEV_REG_STATUS_LOCKED_WR]))

/-- R323 to R326, R460, R461, R466, R469, R470, R475 to R478: power. A die enters the state chosen for it, begins its wake
and is Active at its end, which is learned from; a frame's power, temperature and rails are shown, and its absence too; a
cap or margin that the reservations exceed is refused; the package power is the average of ten updates, and a breach above
PWR_BREACH_LIM is shown. A breach of a stack's bandwidth stops the site that yields first, or is recorded with none. -/
def Obligations.PowerAndBreaches : Prop :=
  ∀ (m : Master) (n : Die) (f : Frame) (s : State),
    let d0 := s.dev
    let st := K.PWR_DIE_STATE_STATE n
    let tg := K.PWR_DIE_STATE_TARGET n
    let wk := K.PWR_DIE_STATE_WAKING n
    (d0.powerInUse n = true → d0.get wk = 0 →
      (d0.chosenState n ≠ 0 → Gives (.dieStateEntry n) s fun d =>
        d.get st = d0.chosenState n ∧ d.get tg = d0.chosenState n ∧ FieldsOnly d0 d [st, tg]) ∧
      (d0.chosenState n < d0.get st → Gives (.wakeStart n) s fun d => d.get wk = 1 ∧
        tblFind d.power.wakeFrom n = some (d0.get st) ∧ FieldsKept d0 d [wk] ∧
        d = { d0 with regs := d.regs, power := d.power })) ∧
    (∀ (ns : BitVec 23) (x : Nat), d0.get wk = 1 → tblGet 0 d0.power.wakeFrom n = x → 1 ≤ x → x ≤ 4 →
      ns.toNat ≤ wakePublished x → (∀ k ∈ tblGet [] d0.power.wakes (8 * n + x), k < 2 ^ 23) →
      let l := (ns.toNat :: tblGet [] d0.power.wakes (8 * n + x)).take 16
      let lf := K.PWR_WAKE_LEARN_NS n (x - 1)
      let cf := K.PWR_WAKE_COUNT n (x - 1)
      Gives (.wakeEnd n ns) s fun d => d.get wk = 0 ∧ d.get st = 0 ∧ d.get tg = 0 ∧ d.get cf = l.length ∧
        (∀ k ∈ l, k ≤ d.get lf) ∧ d.get lf ∈ l ∧ tblFind d.power.wakeFrom n = none ∧
        FieldsKept d0 d [wk, st, tg, lf, cf] ∧ d = { d0 with regs := d.regs, power := d.power }) ∧
    (∀ src : Fin 5, (src.val = 4 ∨ d0.cdPresent src = true) →
      (tblGet 0 d0.power.withheld src ≤ d0.clock → (f.rails.map fun r => r.1).Nodup →
        Gives (.telemetryFrame src f) s fun d =>
          d.get (K.PWR_DIE_TELEM_POWER src) = f.power.toNat ∧ d.get (K.PWR_DIE_TELEM_TEMP src) = hottest f.temps ∧
          d.bitOf K.PWR_STATUS_TELEM_STALE src = false ∧ tblGet 0 d.power.lastFrame src = d0.clock ∧
          (∀ r ∈ f.rails, d.get (K.PWR_RAIL_MV r.1) = r.2.1.toNat ∧ d.get (K.PWR_RAIL_CUR r.1) = r.2.2.toNat) ∧
          (src.val = 4 → d.get K.PWR_HBM_TEMP_S0 = f.hbm0.toNat) ∧ BytesKept d0 d) ∧
      (tblGet 0 d0.power.lastFrame src + 3200 ≤ d0.clock → Gives (.telemetryTimeout src) s fun d =>
        d.bitOf K.PWR_STATUS_TELEM_STALE src = true ∧ FieldsOnly d0 d [K.PWR_STATUS_TELEM_STALE])) ∧
    (∀ (mg : Bool) (v : BitVec 12), Lets s m (if mg then 0x60010 else 0x6000C) true → d0.get K.PWR_LOCK_CAP_LOCK = 0 →
      let fld := if mg then K.PWR_MARGIN else K.PWR_CAP
      let avail := d0.siteAvail (if mg then d0.get K.PWR_CAP else v.toNat) (if mg then v.toNat else d0.get K.PWR_MARGIN)
      let out : Prop := if mg then d0.variant.hasGuest = true ∧ v.toNat < 80 else 3600 < v.toNat
      (¬ out → d0.sitePower ≤ avail → GivesBy m (.capWrite m mg v) s fun d =>
        d.get fld = v.toNat ∧ FieldsOnly d0 d [fld]) ∧
      (¬ out → avail < d0.sitePower → GivesBy m (.capWrite m mg v) s fun d =>
        d.get K.PWR_STATUS_WR_REFUSED = 1 ∧ FieldsOnly d0 d [K.PWR_STATUS_WR_REFUSED]) ∧
      (out → GivesBy m (.capWrite m mg v) s fun d => d = d0)) ∧
    (let now := (([0, 1, 2, 3, 4, 6].map fun i => d0.get (K.PWR_DIE_TELEM_POWER i)).sum + f.power.toNat)
      let avg := min (average ((now :: d0.power.pkg).take 10)) 4095
      GivesAs (3, 0x0C, 0) (.powerUpdate f) s fun d =>
        d.get (K.PWR_DIE_TELEM_POWER 5) = f.power.toNat ∧ d.power.pkg = (now :: d0.power.pkg).take 10 ∧
        d.get K.PWR_PKG = avg ∧ d.get K.PWR_STATUS_BREACH = bit (decide (d0.get K.PWR_BREACH_LIM < avg)) ∧
        BytesKept d0 d) ∧
    (∀ k : Fin 2, d0.hbmPresent k = true → d0.breachWaits (1 + k) = false →
      let noted (d : Dev) : Prop := d.get K.DEV_SITE_BREACH_BREACH = 1 ∧ d.get K.DEV_SITE_BREACH_RES = 1 + k.val ∧ BytesKept d0 d
      (d0.candidates (1 + k) = [] → GivesAs (3, 0x0C, 1 + k.val) (.generalBwBreach k) s fun d => noted d ∧
        d.get K.DEV_SITE_BREACH_YIELD_NONE = 1 ∧ d.get K.DEV_SITE_BREACH_PROT_NONE = 1 ∧ d.breach = d0.breach) ∧
      (∀ y, firstBy d0.yieldsFirst (d0.candidates (1 + k)) = some y → (d0.site y).req = none →
        GivesAs (3, 0x0C, 1 + k.val) (.generalBwBreach k) s fun d => noted d ∧
          d.get K.DEV_SITE_BREACH_YIELD = y ∧ d.get K.DEV_SITE_BREACH_YIELD_NONE = 0 ∧
          (d.site y).req = some (0x0C, d0.clock) ∧ d.breach = d0.breach ++ [⟨1 + k, d0.clock + d0.siteBound y⟩])) ∧
    ∀ r : Fin 3, (∃ w ∈ d0.breach, w.res = r.val ∧ w.until' ≤ d0.clock) → (r.val = 0 → d0.get K.PWR_STATUS_BREACH = 0) →
      GivesAs (3, 0x0C, r.val) (.breachWaitEnd r false) s fun d =>
        d = { d0 with breach := d0.breach.filter fun w => w.res != r.val }

/-- R357 to R361: flits. A new data flit with a good CRC and the expected SEQ is held by its sender, accepted by its
receiver, and acknowledges the flits of the other direction; one with a bad CRC counts, is discarded, and a replay is asked
for; a good control flit acknowledges and a bad one is counted; a replay request takes the sender back to the flit after
the last one received in order; the eighth failed replay, or 1 µs of silence, puts the link DOWN. -/
def Obligations.FlitsAndReplay : Prop :=
  ∀ (c : FlitChan) (payload : BitVec 256) (s : State),
    let d0 := s.dev
    let f := d0.dir c
    let g := d0.dir c.back
    let acked (d : Dev) : Prop := d.dir c.back = { g with held := g.held.dropWhile fun p => p.1 != g.want }
    let others (d : Dev) : Prop := ∀ e : FlitChan, e ≠ c → e ≠ c.back → d.dir e = d0.dir e
    let links (d : Dev) : Prop := d = { d0 with links := { d0.links with dirs := d.links.dirs } }
    let counts (d : Dev) : Prop := d = { d0 with regs := d.regs, links := { d0.links with dirs := d.links.dirs } }
    d0.chanUp c = true → d0.linkSilent c = false →
    (d0.inject 0x0A (fun u _ => u == chanLink c) = none →
      (f.cursor = f.top → f.held.length < c.limit → payload.toNat % 256 ≠ 0 →
        (f.want = f.cursor → Gives (.dataFlit c payload true) s fun d =>
          d.dir c = { f with cursor := (f.cursor + 1) % 256, top := (f.cursor + 1) % 256
                             held := f.held ++ [(f.cursor, payload)], want := (f.want + 1) % 256, asked := false
                             tries := 0 } ∧ acked d ∧ others d ∧ links d) ∧
        Gives (.dataFlit c payload false) s fun d =>
          d.dir c = { f with cursor := (f.cursor + 1) % 256, top := (f.cursor + 1) % 256
                             held := f.held ++ [(f.cursor, payload)], asked := true } ∧
          d.dir c.back = g ∧ others d ∧ counts d) ∧
      Gives (.idleFlit c true) s (fun d => d.dir c = f ∧ acked d ∧ others d ∧ links d) ∧
      (∀ up, c = .hub up → Gives (.idleFlit c false) s fun d =>
        d.links = d0.links ∧ (d0.get2 K.NOP_HUB_CRC_LO_COUNT_LO K.NOP_HUB_CRC_HI_COUNT_HI + 1 < 2 ^ 48 →
          d.get2 K.NOP_HUB_CRC_LO_COUNT_LO K.NOP_HUB_CRC_HI_COUNT_HI =
            d0.get2 K.NOP_HUB_CRC_LO_COUNT_LO K.NOP_HUB_CRC_HI_COUNT_HI + 1) ∧ counts d)) ∧
    (f.asked = true →
      (Gives (.replayRequest c true) s fun d =>
        d.dir c = { f with held := f.held.dropWhile fun p => p.1 != f.want, cursor := f.want, asked := false
                           tries := f.tries + 1 } ∧ d.dir c.back = g ∧ others d ∧ counts d) ∧
      Gives (.replayRequest c false) s (fun d => d.links = d0.links ∧ counts d) ∧
      (∀ n p h up, c = .wide n p h up → 8 ≤ f.tries → Gives (.replayLimit c) s fun d =>
        d.get (K.D2D_STATUS_UP n) = 0 ∧ d.get (K.D2D_STATUS_CAUSE n) = 1 ∧ d.get (K.D2D_STATUS_PORT n) = p ∧
        d.get (K.D2D_STATUS_DOWN_SEEN n) = 1 ∧ (d.link n).down = some (1, p.val) ∧
        d = { d0 with regs := d.regs, links := d.links })) ∧
    (∀ up, c = .hub up → Gives (.linkSilence c) s fun d =>
      (d.link 4).down = some (2, 0) ∧ d = { d0 with links := d.links }) ∧
    ∀ n p h up, c = .wide n p h up → Gives (.linkSilence c) s fun d =>
      d.get (K.D2D_STATUS_UP n) = 0 ∧ d.get (K.D2D_STATUS_CAUSE n) = 2 ∧ (d.link n).down = some (2, p.val) ∧
      d = { d0 with regs := d.regs, links := d.links }

/-- R361, R363, R369, R370, R377, R382: a link that is DOWN and the guest die. The loss stops the sites of its dies and
notes whether recovery is wanted; a recovery takes the D2D lease once the sites have stopped, trains the link at most three
times, and brings it UP or makes its loss unrecoverable; software may ask for it while the link is DOWN. ISOLATE isolates
the guest die, and its end retrains the guest's legs; clearing VIOL clears the violation count. -/
def Obligations.LinkRecoveryAndGuest : Prop :=
  ∀ (m : Master) (l : Fin 5) (n : Die) (s : State),
    let d0 := s.dev
    let k := d0.link l
    let spared : List (Nat × Nat) := List.replicate (if l.val < 4 then 8 else 1) (1, 2)
    (∀ cause port, k.down = some (cause, port) → GivesAs (3, 0x0D, 0) (.linkLoss l) s fun d =>
      (d.link l).since = some d0.clock ∧ (d.link l).down = none ∧ (d.link l).attempts = 0 ∧
      (d.link l).wanted = (if l.val < 4 then d0.on (K.D2D_CTRL_AUTO_RECOVER l) else d0.on K.NOP_CTRL_HUB_AUTO_RECOVER) ∧
      (l.val < 4 → d.bitOf K.NOP_STATUS_CD_UP l = false) ∧ (l.val = 4 → d.get K.NOP_STATUS_BD_UP = 0) ∧
      (∀ x ∈ d0.linkSites l [2], d0.stopGiven x = false → (d.site x).req = some (0x0D, d0.clock)) ∧ BytesKept d0 d) ∧
    (k.down = none → GivesAs (3, 0x0D, 0) (.linkLoss l) s fun d => d = d0) ∧
    (k.since.isSome = true →
      (k.wanted = true → k.asked = false → d0.linkSites l [2, 3] = [] → d0.holder l 4 = 0 →
        Gives (.recoveryStart l) s fun d => d.recovering l = true ∧ d.link l = { k with asked := true, attempts := 1 } ∧
          d.holder l 4 = linkHolder l ∧ d = { d0 with regs := d.regs, links := d.links }) ∧
      (l.val = 4 → Lets s m 0x102004 true → GivesBy m (.hubRecover m) s fun d => d.link 4 = { k with wanted := true } ∧
        FieldsKeptBut d0 d 0x102004 [K.DEV_REG_STATUS_LOCKED_WR] ∧ d = { d0 with regs := d.regs, links := d.links }) ∧
      (l.val = n.val →
        (Lets s m 0x102004 true → GivesBy m (.cdRecover m n) s fun d => d.link n = { k with wanted := true } ∧
          FieldsKeptBut d0 d 0x102004 [K.DEV_REG_STATUS_LOCKED_WR] ∧ d = { d0 with regs := d.regs, links := d.links }) ∧
        ((∀ q, m ≠ .core q) → Lets s m (dieAddr n 0x60004) true → GivesBy m (.recover m n) s fun d =>
          d.link n = { k with wanted := true } ∧
          FieldsKeptBut d0 d (dieAddr n 0x60004) [K.DEV_REG_STATUS_LOCKED_WR] ∧
          d = { d0 with regs := d.regs, links := d.links }))) ∧
    (d0.recovering l = true →
      (Gives (.trainingAttemptEnd l true spared) s fun d =>
        d.recovering l = false ∧ (d.link l).since = none ∧ (d.link l).wanted = false ∧
        (l.val < 4 → d.get (K.D2D_STATUS_UP l) = 1 ∧ d.bitOf K.NOP_STATUS_CD_UP l = true ∧
          d.get (K.D2D_PORT_RX_SPARES l 7) = 2) ∧
        (l.val = 4 → d.get K.NOP_STATUS_BD_UP = 1 ∧ d.get K.NOP_HUB_LANES_TX_SPARES = 1)) ∧
      (k.attempts < 3 → Gives (.trainingAttemptEnd l false []) s fun d =>
        d.link l = { k with attempts := k.attempts + 1 } ∧ d.recovering l = true ∧
        (l.val = 4 → d.get K.NOP_STATUS_HUB_CAUSE = 3) ∧ d = { d0 with regs := d.regs, links := d.links }) ∧
      (3 ≤ k.attempts → d0.start.safeWait = none → Gives (.trainingAttemptEnd l false []) s fun d =>
        d.recovering l = false ∧ (∃ w, d.start.safeWait = some w ∧ w.cause = 7 ∧ w.since = d0.clock))) ∧
    (d0.variant.hasGuest = true →
      (Lets s m 0xF0004 true →
        (d0.get K.FWL_STATUS_ISOLATED = 0 → GivesBy m (.isolate m true) s fun d =>
          d.get K.FWL_CTRL_ISOLATE = 1 ∧ d.get K.FWL_STATUS_ISOLATED = 1 ∧ d.links.gdReset = true ∧
          d.links.gdTraining = false ∧ BytesKept d0 d ∧
          FieldsKeptBut d0 d 0xF0004 [K.FWL_STATUS_ISOLATED, K.DEV_REG_STATUS_LOCKED_WR]) ∧
        (d0.get K.FWL_STATUS_ISOLATED = 1 → d0.links.gdTraining = false → d0.holder 4 4 = 0 →
          GivesBy m (.isolate m false) s fun d =>
            d.get K.FWL_CTRL_ISOLATE = 0 ∧ d.get K.FWL_STATUS_ISOLATED = 1 ∧ d.links.gdReset = false ∧
            d.links.gdTraining = true ∧ d.holder 4 4 = linkHolder 4 ∧ d.get (K.BST_LEASE_ARG 4 4) = 1)) ∧
      (d0.links.gdTraining = true → d0.holder 4 4 = linkHolder 4 →
        Gives (.guestLegTrainingDone 1 0) s (fun d => d.get K.NOP_STATUS_GD_UP = 1 ∧ d.get K.FWL_STATUS_ISOLATED = 0 ∧
          d.get K.NOP_GD_LANES_LEG_A = 1 ∧ d.get K.NOP_GD_LANES_LEG_B = 0 ∧ d.links.gdTraining = false) ∧
        Gives (.guestLegTrainingDone 2 0) s fun d => d.get K.NOP_STATUS_GD_UP = d0.get K.NOP_STATUS_GD_UP ∧
          d.links.gdReset = true ∧ d.links.gdTraining = false)) ∧
    (Lets s m 0xF0000 true → GivesBy m (.violClear m) s fun d =>
      d.get K.FWL_STATUS_VIOL = 0 ∧ d.get K.FWL_VIOL_CNT = 0 ∧ FieldsKeptBut d0 d 0xF0000 [K.FWL_VIOL_CNT] ∧ RegsOnly d0 d)

/-- The floating-point instruction at the program counter of `x` writes `v` to f[rd] or g[rd] (nothing where that is g0),
sets the flags `fl` beside those already set in FPSTAT, and goes on at the next instruction: nothing else of the
controller changes (R191, R192). -/
def Sys2Proof.Slice0.WritesFp (c : Instr) (s : State) (x : CtlId) (toF : Bool) (rd : Reg) (v fl : Nat) : Prop :=
  Gives c s fun d =>
    (∀ r, (d.core x).fGet r = if toF = true ∧ r = rd.val then BitVec.ofNat 64 v else (s.dev.core x).fGet r) ∧
    (∀ r, (d.core x).gGet r =
      if toF = false ∧ r = rd.val ∧ r ≠ 0 then BitVec.ofNat 64 v else (s.dev.core x).gGet r) ∧
    (d.core x) = { s.dev.core x with
      g := (d.core x).g, f := (d.core x).f, loads := (d.core x).loads, trace := (d.core x).trace
      fpstat := (s.dev.core x).fpstat ||| fl, pc := (s.dev.core x).nextPc, pfx := none, fetched := 0, icache := true } ∧
    OwnRegisters x s.dev d

/-- The same, for a result with its flags none of which has its trap enabled. -/
def Sys2Proof.Slice0.FpResult (c : Instr) (s : State) (x : CtlId) (toF : Bool) (rd : Reg) (r : FpRes) : Prop :=
  (s.dev.core x).fpTe &&& r.flags = 0 → WritesFp c s x toF rd r.bits r.flags

/-- f[r] as a pattern of binary32 (p false) or binary64 (p true): the low 32 bits, or all 64 (R185). -/
def Sys2Proof.Slice0.F (s : State) (x : CtlId) (p : Bool) (r : Reg) : Nat :=
  ((s.dev.core x).fGet r).toNat % (if p then 2 ^ 64 else 2 ^ 32)

/-- R185 to R192: the floating-point operations that round. Each gives the pattern that the IEEE 754 operation gives
under the rounding direction of its RM field, or of FPSTAT.RM for RM 7, with FPSTAT.FTZ where that applies; its flags
become sticky in FPSTAT. A flag whose trap is enabled leaves the result and the flags as before and takes FP_TRAP: on
the hub controller an exception whose HUBC_EPC is the address of the instruction, in a core of no site a stop of both
pipelines. -/
def Obligations.FpArithmeticResults : Prop :=
  ∀ (x : CtlId) (p : Bool) (rm : BitVec 3) (rd rs1 rs2 rs3 : Reg) (s : State), rm ≠ 5 → rm ≠ 6 →
    (s.dev.core x).pfx = none →
    let c := s.dev.core x
    let f := fmtOf p
    let m := c.rmFor rm.toNat
    let z := c.fpFtz
    let a := F s x p rs1
    let b := F s x p rs2
    let e := F s x p rs3
    let n := G s x rs1
    (Issues s x [] [rs1, rs2] →
      FpResult (.fadd x p rm rd rs1 rs2) s x true rd (f.add m z a b) ∧
      FpResult (.fsub x p rm rd rs1 rs2) s x true rd (f.add m z a b true) ∧
      FpResult (.fmul x p rm rd rs1 rs2) s x true rd (f.mul m z a b) ∧
      FpResult (.fdiv x p rm rd rs1 rs2) s x true rd (f.div m z a b)) ∧
    (Issues s x [] [rs1] →
      FpResult (.fsqrt x p rm rd rs1) s x true rd (f.sqrt m z a) ∧
      FpResult (.frintx x p rm rd rs1) s x true rd (f.rint m z a) ∧
      FpResult (.fcvtFF x p rm rd rs1) s x true rd (f.cvt (fmtOf !p) m z (F s x (!p) rs1))) ∧
    (Issues s x [] [rs1, rs2, rs3] →
      FpResult (.fmadd x p rm rd rs1 rs2 rs3) s x true rd (f.fma m z false false false a b e) ∧
      FpResult (.fmsub x p rm rd rs1 rs2 rs3) s x true rd (f.fma m z false true false a b e) ∧
      FpResult (.fnmadd x p rm rd rs1 rs2 rs3) s x true rd (f.fma m z false false true a b e) ∧
      FpResult (.fnmsub x p rm rd rs1 rs2 rs3) s x true rd (f.fma m z true false false a b e)) ∧
    (Issues s x [rs1] [] →
      FpResult (.fcvtFW x p rm rd rs1) s x true rd (f.ofInt m (n.setWidth 32).toInt) ∧
      FpResult (.fcvtFWu x p rm rd rs1) s x true rd (f.ofInt m (n.toNat % 2 ^ 32 : Nat)) ∧
      FpResult (.fcvtFL x p rm rd rs1) s x true rd (f.ofInt m n.toInt) ∧
      FpResult (.fcvtFLu x p rm rd rs1) s x true rd (f.ofInt m n.toNat)) ∧
    (Issues s x [] [rs1, rs2] → c.fpTe &&& (f.add m z a b).flags ≠ 0 →
      (x.val = 64 → Gives (.fadd x p rm rd rs1 rs2) s fun d =>
        (d.core 64).fGet rd = BitVec.ofNat 64 (f.add m z a b).bits ∧
        (d.core 64).fpstat = c.fpstat ||| (f.add m z a b).flags ∧ (d.core 64).epc = c.pc ∧ (d.core 64).pc = c.evecOf ∧
        (∀ r, r ≠ rd.val → (d.core 64).fGet r = c.fGet r) ∧ (∀ r, (d.core 64).gGet r = c.gGet r) ∧ BytesKept s.dev d) ∧
      (x.val < 64 → (s.dev.fetch x).1.coreSite x = none → Gives (.fadd x p rm rd rs1 rs2) s fun d =>
        (d.core x).fGet rd = BitVec.ofNat 64 (f.add m z a b).bits ∧
        (d.core x).fpstat = c.fpstat ||| (f.add m z a b).flags ∧ (d.core x).ctl = .stopped ∧ (d.core x).v.vec = .stopped ∧
        d.coreState x = csFAULTED ∧ ((s.dev.fetch x).1.faultCode x = 0 → d.faultCode x = fcFP) ∧
        (∀ r, r ≠ rd.val → (d.core x).fGet r = c.fGet r) ∧ (∀ r, (d.core x).gGet r = c.gGet r) ∧ BytesKept s.dev d))

/-- The number that a pattern stands for where it is finite; −0 and +0 stand for the same one. -/
def Sys2Proof.Slice0.fpValue (f : Fmt) (a : Nat) : ℚ :=
  match f.unpack a with
  | .num s m e => (if s then -1 else 1) * (m : ℚ) * (2 : ℚ) ^ e
  | _ => 0

/-- The pattern is a NaN: the exponent all ones and a fraction that is not zero; it is signalling where the fraction's
highest bit is 0. -/
def Sys2Proof.Slice0.fpNan (f : Fmt) (a : Nat) : Prop := a / 2 ^ f.mb % 2 ^ f.eb = 2 ^ f.eb - 1 ∧ a % 2 ^ f.mb ≠ 0
def Sys2Proof.Slice0.fpSignalling (f : Fmt) (a : Nat) : Prop := fpNan f a ∧ a / 2 ^ (f.mb - 1) % 2 = 0
/-- The pattern is an infinity. -/
def Sys2Proof.Slice0.fpInf (f : Fmt) (a : Nat) : Prop := a / 2 ^ f.mb % 2 ^ f.eb = 2 ^ f.eb - 1 ∧ a % 2 ^ f.mb = 0
/-- The sign bit is set. -/
def Sys2Proof.Slice0.fpNeg (f : Fmt) (a : Nat) : Prop := a / 2 ^ (f.eb + f.mb) % 2 = 1

/-- Neither is a NaN and a is less than b: −∞ below all else, +∞ above, and finite ones by their values. -/
def Sys2Proof.Slice0.fpLess (f : Fmt) (a b : Nat) : Prop :=
  ¬fpNan f a ∧ ¬fpNan f b ∧
    ((fpInf f a ∧ fpNeg f a ∧ ¬(fpInf f b ∧ fpNeg f b)) ∨ (fpInf f b ∧ ¬fpNeg f b ∧ ¬(fpInf f a ∧ ¬fpNeg f a)) ∨
      (¬fpInf f a ∧ ¬fpInf f b ∧ fpValue f a < fpValue f b))

open Classical in
/-- R185, R187, R192, R193, R194: the floating-point instructions that do not round to a format. Compares of any two
patterns, FUN, the four minimum and maximum instructions with −0 below +0 and their NaN results, FCLASS with exactly one
of its ten bits, the sign and move instructions, which copy bits and raise no flag, and the conversions to integers
toward zero (RM 1), which saturate with NV out of range, give 0 for a NaN and raise NX where the rounding changes the
value. -/
def Obligations.FpComparesMovesAndIntegers : Prop :=
  ∀ (x : CtlId) (p : Bool) (rd rs1 rs2 : Reg) (s : State), (s.dev.core x).pfx = none → (s.dev.core x).fpTe = 0 →
    let f := fmtOf p
    let a := F s x p rs1
    let b := F s x p rs2
    let nan := fpNan f a ∨ fpNan f b
    let sig : Nat := if fpSignalling f a ∨ fpSignalling f b then fNV else 0
    let any : Nat := if nan then fNV else 0
    let one (q : Prop) : Nat := if q then 1 else 0
    let top := 2 ^ (f.eb + f.mb)
    let below := fpLess f a b ∨ (¬nan ∧ ¬fpLess f b a ∧ fpNeg f a ∧ ¬fpNeg f b)
    let above := fpLess f b a ∨ (¬nan ∧ ¬fpLess f a b ∧ fpNeg f b ∧ ¬fpNeg f a)
    let q := (2 ^ f.eb - 1) * 2 ^ f.mb + 2 ^ (f.mb - 1)
    let le := fpLess f a b ∨ (¬nan ∧ ¬fpLess f b a)
    let num (r : Nat) : Nat := if fpNan f a ∧ fpNan f b then q else if fpNan f a then b else if fpNan f b then a else r
    let t : ℤ := if fpValue f a < 0 then ⌈fpValue f a⌉ else ⌊fpValue f a⌋
    let conv (c : Instr) (lo hi : ℤ) : Prop :=
      (fpNan f a → WritesFp c s x false rd 0 fNV) ∧
      (fpInf f a ∨ (¬fpNan f a ∧ (t < lo ∨ hi < t)) →
        WritesFp c s x false rd (BitVec.ofInt 64 (if fpNeg f a then lo else hi)).toNat fNV) ∧
      (¬fpNan f a → ¬fpInf f a → lo ≤ t → t ≤ hi →
        WritesFp c s x false rd (BitVec.ofInt 64 t).toNat (if (t : ℚ) = fpValue f a then 0 else fNX))
    (Issues s x [] [rs1, rs2] →
      WritesFp (.feq x p 0 rd rs1 rs2) s x false rd (one (¬nan ∧ ¬fpLess f a b ∧ ¬fpLess f b a)) sig ∧
      WritesFp (.flt x p 0 rd rs1 rs2) s x false rd (one (fpLess f a b)) any ∧
      WritesFp (.fle x p 0 rd rs1 rs2) s x false rd (one le) any ∧
      WritesFp (.fltq x p 0 rd rs1 rs2) s x false rd (one (fpLess f a b)) sig ∧
      WritesFp (.fleq x p 0 rd rs1 rs2) s x false rd (one le) sig ∧
      WritesFp (.fun x p 0 rd rs1 rs2) s x false rd (one nan) sig ∧
      WritesFp (.fmin x p 0 rd rs1 rs2) s x true rd (num (if above then b else a)) sig ∧
      WritesFp (.fmax x p 0 rd rs1 rs2) s x true rd (num (if below then b else a)) sig ∧
      WritesFp (.fminm x p 0 rd rs1 rs2) s x true rd (if nan then q else if above then b else a) sig ∧
      WritesFp (.fmaxm x p 0 rd rs1 rs2) s x true rd (if nan then q else if below then b else a) sig ∧
      WritesFp (.fsgnj x p 0 rd rs1 rs2) s x true rd (a % top + top * (b / top)) 0 ∧
      WritesFp (.fsgnjn x p 0 rd rs1 rs2) s x true rd (a % top + top * (1 - b / top)) 0 ∧
      WritesFp (.fsgnjx x p 0 rd rs1 rs2) s x true rd (a % top + top * ((a / top + b / top) % 2)) 0) ∧
    (Issues s x [] [rs1] →
      WritesFp (.fmvGF x p 0 rd rs1) s x false rd a 0 ∧
      WritesFp (.fclass x p 0 rd rs1) s x false rd
        (if fpSignalling f a then 0x100 else if fpNan f a then 0x200
         else if fpInf f a then (if fpNeg f a then 0x001 else 0x080)
         else if a % top = 0 then (if fpNeg f a then 0x008 else 0x010)
         else if a / 2 ^ f.mb % 2 ^ f.eb = 0 then (if fpNeg f a then 0x004 else 0x020)
         else if fpNeg f a then 0x002 else 0x040) 0 ∧
      conv (.fcvtW x p 1 rd rs1) (-2 ^ 31) (2 ^ 31 - 1) ∧ conv (.fcvtWu x p 1 rd rs1) 0 (2 ^ 32 - 1) ∧
      conv (.fcvtL x p 1 rd rs1) (-2 ^ 63) (2 ^ 63 - 1) ∧ conv (.fcvtLu x p 1 rd rs1) 0 (2 ^ 64 - 1)) ∧
    (Issues s x [rs1] [] →
      WritesFp (.fmvFG x p 0 rd rs1) s x true rd ((G s x rs1).toNat % (if p then 2 ^ 64 else 2 ^ 32)) 0)

/-- What an instruction gives under each rounding direction, RNE, RTZ, RTN, RTP and RNA in order (RM 0 to 4): its result
and its flags, with FPSTAT.FTZ as `z` and no trap enabled. -/
def Sys2Proof.Slice0.EdgeRow (s : State) (x : CtlId) (toF : Bool) (rd : Reg) (z : Bool) (i : BitVec 3 → Instr)
    (rne rtz rtn rtp rna : Nat × Nat) : Prop :=
  (s.dev.core x).fpFtz = z →
    WritesFp (i 0) s x toF rd rne.1 rne.2 ∧ WritesFp (i 1) s x toF rd rtz.1 rtz.2 ∧ WritesFp (i 2) s x toF rd rtn.1 rtn.2 ∧
    WritesFp (i 3) s x toF rd rtp.1 rtp.2 ∧ WritesFp (i 4) s x toF rd rna.1 rna.2

/-- R195, Table 17: the results and flags of the arithmetic and the conversions on the smallest subnormal s and on the
largest finite value M, in both formats and in every rounding direction, with and without FTZ. -/
def Obligations.FpEdgeResults : Prop :=
  ∀ (x : CtlId) (p : Bool) (rd r1 r2 r3 : Reg) (s : State), (s.dev.core x).pfx = none → (s.dev.core x).fpTe = 0 →
    Issues s x [] [r1, r2, r3] → Issues s x [] [r1, r2] → Issues s x [] [r1] →
    let a := F s x p r1
    let b := F s x p r2
    let c := F s x p r3
    let M := if p then 0x7FEFFFFFFFFFFFFF else 0x7F7FFFFF
    let M' := M - 1
    let inf := M + 1
    let qnan := if p then 0x7FF8000000000000 else 0x7FC00000
    let one := if p then 0x3FF0000000000000 else 0x3F800000
    let half := if p then 0x3FE0000000000000 else 0x3F000000
    let two := if p then 0x4000000000000000 else 0x40000000
    let neg := if p then 2 ^ 63 else 2 ^ 31
    let add := fun rm => Instr.fadd x p rm rd r1 r2
    let sub := fun rm => Instr.fsub x p rm rd r1 r2
    let mul := fun rm => Instr.fmul x p rm rd r1 r2
    let div := fun rm => Instr.fdiv x p rm rd r1 r2
    let sqrt := fun rm => Instr.fsqrt x p rm rd r1
    let fma := fun rm => Instr.fmadd x p rm rd r1 r2 r3
    let rint := fun rm => Instr.frintx x p rm rd r1
    let row (i : BitVec 3 → Instr) (rne rtz rtn rtp rna : Nat × Nat) : Prop := EdgeRow s x true rd false i rne rtz rtn rtp rna
    let all (i : BitVec 3 → Instr) (r : Nat × Nat) : Prop := row i r r r r r
    let ftz (toF : Bool) (i : BitVec 3 → Instr) (r : Nat × Nat) : Prop := EdgeRow s x toF rd true i r r r r r
    (a = 1 → b = 1 →
      all add (2, 0) ∧ row mul (0, 24) (0, 24) (0, 24) (1, 24) (0, 24) ∧ all div (one, 0) ∧
      (c = 0 → row fma (0, 24) (0, 24) (0, 24) (1, 24) (0, 24)) ∧ ftz true add (0, 32) ∧ ftz true div (qnan, 33)) ∧
    (a = 1 → b = neg + 1 → row add (0, 0) (0, 0) (neg, 0) (0, 0) (0, 0)) ∧
    (a = M → b = 1 →
      row add (M, 16) (M, 16) (M, 16) (inf, 20) (M, 16) ∧ row sub (M, 16) (M', 16) (M', 16) (M, 16) (M, 16) ∧
      row div (inf, 20) (M, 20) (M, 20) (inf, 20) (inf, 20) ∧ ftz true div (inf, 34)) ∧
    (a = M → b = M →
      row add (inf, 20) (M, 20) (M, 20) (inf, 20) (inf, 20) ∧ row sub (0, 0) (0, 0) (neg, 0) (0, 0) (0, 0) ∧
      row mul (inf, 20) (M, 20) (M, 20) (inf, 20) (inf, 20) ∧ all div (one, 0) ∧
      (c = neg + inf → all fma (neg + inf, 0))) ∧
    (a = M → b = inf → all add (inf, 0)) ∧
    (a = M → b = two → row mul (inf, 20) (M, 20) (M, 20) (inf, 20) (inf, 20) ∧ (c = neg + M → all fma (M, 0))) ∧
    (a = 1 → b = one → all mul (1, 0)) ∧
    (a = 1 → b = half →
      row mul (0, 24) (0, 24) (0, 24) (1, 24) (1, 24) ∧
      (c = 1 → row fma (2, 24) (1, 24) (1, 24) (2, 24) (2, 24) ∧ ftz true fma (0, 32))) ∧
    (a = 1 → b = M →
      all mul (if p then 0x3CCFFFFFFFFFFFFF else 0x34FFFFFF, 0) ∧ row div (0, 24) (0, 24) (0, 24) (1, 24) (0, 24) ∧
      ftz true mul (0, 32)) ∧
    (a = one → b = 1 → row div (inf, 20) (M, 20) (M, 20) (inf, 20) (inf, 20)) ∧
    (a = one → b = M →
      (let q := if p then 0x0004000000000000 else 0x00200000
       row div (q, 24) (q, 24) (q, 24) (q + 1, 24) (q, 24)) ∧ ftz true div (0, 24)) ∧
    (a = 1 ∨ a = M → b = 0 → all div (inf, 2)) ∧
    (a = 1 →
      (let q := if p then 0x1E60000000000000 else 0x1A3504F3
       let fl := if p then 0 else 16
       row sqrt (q, fl) (q, fl) (q, fl) (if p then q else q + 1, fl) (q, fl)) ∧ ftz true sqrt (0, 32) ∧
      row rint (0, 16) (0, 16) (0, 16) (one, 16) (0, 16) ∧
      EdgeRow s x false rd false (fun rm => .fcvtL x p rm rd r1) (0, 16) (0, 16) (0, 16) (1, 16) (0, 16) ∧
      EdgeRow s x false rd true (fun rm => .fcvtL x p rm rd r1) (0, 16) (0, 16) (0, 16) (1, 16) (0, 16)) ∧
    (a = M →
      (let q := if p then 0x5FEFFFFFFFFFFFFF else 0x5F7FFFFF
       row sqrt (q, 16) (q, 16) (q, 16) (q + 1, 16) (q, 16)) ∧ all rint (M, 0) ∧
      (let r := (0x7FFFFFFFFFFFFFFF, 1)
       EdgeRow s x false rd false (fun rm => .fcvtL x p rm rd r1) r r r r r) ∧
      (let r := (0x7FFFFFFF, 1)
       EdgeRow s x false rd false (fun rm => .fcvtW x p rm rd r1) r r r r r)) ∧
    (a = neg + 1 → all sqrt (qnan, 1) ∧
      EdgeRow s x false rd false (fun rm => .fcvtLu x p rm rd r1) (0, 16) (0, 16) (0, 1) (0, 16) (0, 16)) ∧
    (p = false → a = 1 → all (fun rm => .fcvtFF x true rm rd r1) (0x36A0000000000000, 0) ∧
      ftz true (fun rm => .fcvtFF x true rm rd r1) (0, 32)) ∧
    (p = false → a = M → all (fun rm => .fcvtFF x true rm rd r1) (0x47EFFFFFE0000000, 0)) ∧
    (p = true → a = 1 → row (fun rm => .fcvtFF x false rm rd r1) (0, 24) (0, 24) (0, 24) (1, 24) (0, 24)) ∧
    (p = true → a = M → (let l := (0x7F7FFFFF, 20); let i := (0x7F800000, 20)
      row (fun rm => .fcvtFF x false rm rd r1) i l l i i))

/-- A vector instruction of one word executes now: the vector pipeline of `q` runs, no earlier instruction still emits, its
word lies on an admitted page, and it is not inside a match-loop's block (R198, R210, R347). -/
def Sys2Proof.Slice0.VecIssues (s : State) (q : CoreId) : Prop :=
  s.dev.vecReady q = true ∧ (s.dev.core q).v.job = none ∧ (s.dev.core q).v.listed (s.dev.core q).v.vpc = true ∧
    (s.dev.core q).v.inBlock = false

/-- What execution at VPC leaves alone: of its core all but the vector half and what the comparators of KIND 1 write; the
other cores, memory, and every register field but those that the comparators write (R523). -/
def Sys2Proof.Slice0.VecOnly (s : State) (q : CoreId) (d : Dev) : Prop :=
  let c := s.dev.core q
  let d1 := s.dev.compareVec q 1 c.v.vpc (c.v.cyc + c.v.lead)
  d.core q = { c with v := (d.core q).v, trace := (d1.core q).trace, dbgReq := (d1.core q).dbgReq } ∧
    (∀ y, y ≠ q.val → d.core y = s.dev.core y) ∧ BytesKept s.dev d ∧ (∀ f, d.get f = d1.get f) ∧
    d = { s.dev with regs := d.regs, evl := d.evl, cores := d.cores }

/-- The vector instruction changes the vector half of its core as `P` says, and nothing else. -/
def Sys2Proof.Slice0.WritesV (c : Instr) (s : State) (q : CoreId) (P : VCore → Prop) : Prop :=
  Gives c s fun d => P (d.core q).v ∧ VecOnly s q d

/-- One entry of a table changed. -/
def Sys2Proof.Slice0.PutAt (t t' : Tbl Nat) (n w : Nat) : Prop := ∀ k, tblGet 0 t' k = if k = n then w else tblGet 0 t k

/-- R198, R203 to R209: the vector instructions that emit nothing. VSET writes one vector register, VPOP the oldest VPQ
word, AOPX applies one APG operation, LOOP loads a counter; ENDL counts down and branches, or falls through at 1 or 0;
VJMP, VCALL and VRET go to their targets. Every other vector register keeps its value. -/
def Obligations.VectorRegistersAndBranches : Prop :=
  ∀ (q : CoreId) (s : State), VecIssues s q →
    let v := (s.dev.core q).v
    let next := (v.vpc + 8) % 2 ^ 48
    let at' (o : Int) : Nat := (((v.vpc : Int) + 8 * o) % 2 ^ 48).toNat / 8 * 8
    (∀ (rsel : BitVec 5) (imm : Word),
      let r := rsel.toNat
      (r < 8 → WritesV (.vset q rsel 0 0 imm) s q fun v' =>
        PutAt v.lc v'.lc r imm.toNat ∧ v' = { v with vpc := next, lc := v'.lc }) ∧
      (8 ≤ r → r < 12 → WritesV (.vset q rsel 0 0 imm) s q fun v' =>
        PutAt v.ax v'.ax (r - 8) imm.toNat ∧ v' = { v with vpc := next, ax := v'.ax }) ∧
      (12 ≤ r → r < 16 → WritesV (.vset q rsel 0 0 imm) s q fun v' =>
        PutAt v.ay v'.ay (r - 12) imm.toNat ∧ v' = { v with vpc := next, ay := v'.ay }) ∧
      (16 ≤ r → r < 20 → ∀ half : Bool, WritesV (.vset q rsel (if half then 1 else 0) 0 imm) s q fun v' =>
        (∀ k, tblGet 0 v'.dg k = if k = r - 16 then
            BitVec.ofNat 64 (if half then imm.toNat * 2 ^ 32 + (tblGet 0 v.dg k).toNat % 2 ^ 32 else imm.toNat)
          else tblGet 0 v.dg k) ∧ v' = { v with vpc := next, dg := v'.dg }) ∧
      (r = 24 → ∀ e : BitVec 6, WritesV (.vset q rsel 0 e imm) s q fun v' =>
        PutAt v.scr v'.scr e.toNat (imm.toNat % 2 ^ 14) ∧ v' = { v with vpc := next, scr := v'.scr }) ∧
      (∀ w rest, v.vpq = w :: rest →
        (r < 8 → WritesV (.vpop q rsel) s q fun v' =>
          PutAt v.lc v'.lc r (w.toNat % 2 ^ 32) ∧ v' = { v with vpc := next, lc := v'.lc, vpq := rest }) ∧
        (8 ≤ r → r < 12 → WritesV (.vpop q rsel) s q fun v' =>
          PutAt v.ax v'.ax (r - 8) (w.toNat % 2 ^ 32) ∧ v' = { v with vpc := next, ax := v'.ax, vpq := rest }) ∧
        (12 ≤ r → r < 16 → WritesV (.vpop q rsel) s q fun v' =>
          PutAt v.ay v'.ay (r - 12) (w.toNat % 2 ^ 32) ∧ v' = { v with vpc := next, ay := v'.ay, vpq := rest }) ∧
        (16 ≤ r → r < 20 → WritesV (.vpop q rsel) s q fun v' =>
          (∀ k, tblGet 0 v'.dg k = if k = r - 16 then w else tblGet 0 v.dg k) ∧
          v' = { v with vpc := next, dg := v'.dg, vpq := rest }))) ∧
    (∀ (xs ys ds : BitVec 2) (wid : BitVec 5),
      let w := if wid = 0 then 32 else wid.toNat
      let x := tblGet 0 v.ax xs.toNat
      let y := tblGet 0 v.ay ys.toNat
      let d := tblGet 0 v.dg ds.toNat
      let inc (n : Nat) : Nat := (n + 1) % 2 ^ 32
      let dec (n : Nat) : Nat := (n + (2 ^ 32 - 1)) % 2 ^ 32
      let low (n k : Nat) : Nat := n / 2 ^ w * 2 ^ w + (n + k) % 2 ^ w
      let up (n : Nat) : Nat := low n 1
      let down (n : Nat) : Nat := low n (2 ^ w - 1)
      let full (n : Nat) : Prop := n % 2 ^ w = 2 ^ w - 1
      let empty (n : Nat) : Prop := n % 2 ^ w = 0
      let gives (aop : BitVec 4) (x' y' : Nat) (d' : DWord) : Prop := WritesV (.aopx q xs ys ds aop wid) s q fun v' =>
        PutAt v.ax v'.ax xs.toNat x' ∧ PutAt v.ay v'.ay ys.toNat y' ∧
        (∀ k, tblGet 0 v'.dg k = if k = ds.toNat then d' else tblGet 0 v.dg k) ∧
        v' = { v with vpc := next, ax := v'.ax, ay := v'.ay, dg := v'.dg }
      gives 0 x y d ∧ gives 1 (inc x) y d ∧ gives 2 (dec x) y d ∧ gives 3 x (inc y) d ∧ gives 4 x (dec y) d ∧
      (full x → gives 5 (up x) (inc y) d) ∧ (¬full x → gives 5 (up x) y d) ∧
      (full y → gives 6 (inc x) (up y) d) ∧ (¬full y → gives 6 x (up y) d) ∧
      (empty x → gives 7 (down x) (dec y) d) ∧ (¬empty x → gives 7 (down x) y d) ∧
      (empty y → gives 8 (dec x) (down y) d) ∧ (¬empty y → gives 8 x (down y) d) ∧
      gives 9 x y (~~~d) ∧ gives 10 x y (BitVec.ofNat 64 (2 * d.toNat + d.toNat / 2 ^ 63)) ∧
      gives 11 x y (BitVec.ofNat 64 (2 * d.toNat + (d.toNat / 2 ^ 63 + d.toNat / 2 ^ 62 + d.toNat / 2 ^ 60 + d.toNat / 2 ^ 59) % 2)) ∧
      gives 12 (inc x) y (~~~d) ∧ (full x → gives 13 (up x) (inc y) (~~~d)) ∧ (¬full x → gives 13 (up x) y d)) ∧
    (∀ (n : Fin 8) (count : Word), WritesV (.loop q n count) s q fun v' =>
      PutAt v.lc v'.lc n count.toNat ∧ v' = { v with vpc := next, lc := v'.lc }) ∧
    (∀ (n : Fin 8) (off : BitVec 32) (far : BitVec 43),
      let c := tblGet 0 v.lc n
      (c ≤ 1 → WritesV (.endl q n off) s q fun v' => PutAt v.lc v'.lc n 0 ∧ v' = { v with vpc := next, lc := v'.lc }) ∧
      (1 < c → WritesV (.endl q n off) s q fun v' =>
        PutAt v.lc v'.lc n (c - 1) ∧ v' = { v with vpc := at' off.toInt, lc := v'.lc }) ∧
      WritesV (.vjmp q far) s q (fun v' => v' = { v with vpc := at' far.toInt }) ∧
      WritesV (.vcall q n far) s q (fun v' => PutAt v.lc v'.lc n ((v.vpc + 8) / 8 % 2 ^ 32) ∧
        v' = { v with vpc := at' far.toInt, lc := v'.lc }) ∧
      WritesV (.vret q n) s q fun v' => v' = { v with vpc := v.vpc / 2 ^ 35 * 2 ^ 35 + 8 * c })

/-- The cycles of the VIQ in order. -/
def Sys2Proof.Slice0.viqCycles (v : VCore) : List VCyc := (v.viq.map VEnt.cyc).flatten

/-- R132, R196, R197, R201, R203, R205, R206: the emitting instructions, outside a match-loop and where the lead and the
VIQ have room. ROWS emits its rows with their timing sets, RPT its row n times and IDLE n cycles of K, in entries of at
most eight cycles behind what the VIQ holds; VPC goes past the inline words. Each cycle's APG symbols are resolved against
the bus before its APG operation, which acts after each cycle, or with ALAST after the last alone. -/
def Obligations.VectorEmission : Prop :=
  ∀ (q : CoreId) (em : Emit) (s : State),
    let d0 := s.dev
    let v := (d0.core q).v
    let grp := d0.pinGroup q
    let words := (grp.length + 15) / 16
    let fits (n : Nat) : Prop := v.lead + n ≤ d0.leadTarget q ∧ v.viq.length + n ≤ 2048 ∧
      v.segLen + n ≤ d0.get (K.SEQ_SEGMAX_CYCLES (q / 16) (q % 16))
    let apg (v : VCore) : VCore := v.apply em.xs.toNat em.ys.toNat em.ds.toNat em.aop.toNat em.wid.toNat
    let after (i : Nat) : VCore := if em.alast then v else Nat.rec v (fun _ w => apg w) i
    let final (n : Nat) : VCore := if em.alast then apg v else after n
    let cycle (c : VCyc) (i row ts : Nat) : Prop :=
      let w := after i
      let bus := w.bus em
      c.ts = ts ∧ c.x = tblGet 0 w.ax em.xs.toNat ∧ c.y = tblGet 0 w.ay em.ys.toNat ∧ c.syms < 16 ^ grp.length ∧
      ∀ p ch, grp[p]? = some ch →
        let e := tblGet 0 v.psrc ch
        let a := bus / 2 ^ (e % 128) % 2
        let b := bus / 2 ^ (e / 256 % 128) % 2
        let sym := row / 16 ^ p % 16
        c.syms / 16 ^ p % 16 = if sym = 8 then a else if sym = 9 then b else if sym = 10 then 2 + a else if sym = 11 then 2 + b
          else if sym = 12 then 1 - a else if sym = 13 then 3 - a else sym
    let emits (ins : Instr) (n inline : Nat) (row ts : Nat → Nat) : Prop :=
      fits n → v.listed (v.vpc + 8 * inline) = true →
      Gives ins s fun d =>
        let v' := (d.core q).v
        (∃ l : List VCyc, viqCycles v' = viqCycles v ++ l ∧ l.length = n ∧
          ∀ i c, l[i]? = some c → cycle c i (row i) (ts i)) ∧
        (∀ e ∈ v'.viq.drop v.viq.length, 1 ≤ e.cyc.length ∧ e.cyc.length ≤ 8 ∧ e.blk = false) ∧
        v'.viq.take v.viq.length = v.viq ∧ ((v'.viq[v.viq.length]?).map fun e => (e.bnd, e.sigs)) = some (v.mark, v.pinSigs) ∧
        v' = { final n with viq := v'.viq, vpc := (v.vpc + 8 * (1 + inline)) % 2 ^ 48, segLen := v.segLen + n
                            mark := none, pinSigs := [], job := none } ∧
        d.core q = { d0.core q with v := v', trace := (d.core q).trace, dbgReq := (d.core q).dbgReq } ∧
        (∀ y, y ≠ q.val → d.core y = d0.core y) ∧ BytesKept d0 d ∧
        d = { d0 with regs := d.regs, evl := d.evl, cores := d.cores }
    VecIssues s q → v.mloop = none → em.aop.toNat < 14 →
      (∀ (prt : Bool) (rows : List (BitVec 512 × BitVec 6)), 1 ≤ rows.length → rows.length ≤ 4096 →
        emits (.rows q em prt rows) rows.length (rows.length * (words + (if prt then 1 else 0)))
          (fun i => (rows.getD i (0, 0)).1.toNat) fun i => if prt then (rows.getD i (0, 0)).2.toNat else em.ts.toNat) ∧
      (∀ (row : BitVec 512) (n : BitVec 17), 1 ≤ n.toNat → n.toNat ≤ 65536 →
        emits (.rpt q em row n) n.toNat words (fun _ => row.toNat) fun _ => em.ts.toNat) ∧
      (∀ n : BitVec 17, 1 ≤ n.toNat → n.toNat ≤ 65536 →
        emits (.idle q em n) n.toNat 0 (fun _ => 16 ^ grp.length / 15 * 7) fun _ => em.ts.toNat)

/-- A vector fault of a core of a Running site that no stop has reached: the vector pipeline stops, the first fault's code
is kept, and the site gets a stop request of cause CORE_FAULT (R151, R225). What the VIQ holds still plays. -/
def Sys2Proof.Slice0.VecFaulted (d0 : Dev) (q : CoreId) (i code : Nat) (d : Dev) : Prop :=
  (d.core q).v.vec = .stopped ∧ (d.core q).v.faulted = true ∧ (d.core q).v.job = none ∧
    (d.core q).v.viq = (d0.core q).v.viq ∧ (d.core q).ctl = (d0.core q).ctl ∧
    (d0.faultCode q = 0 → d.faultCode q = code) ∧ (d.site i).req = some (6, d0.clock) ∧
    (∀ y, y ≠ q.val → d.core y = d0.core y) ∧ BytesKept d0 d

/-- R199, R210, R211, R215 to R221, R347, R349, R351: boundaries, match-loop blocks and the vector pipeline's waits. SEGB
records its boundary and snapshot and waits for the admission of the segment, or with END ends the program; it pauses while
16 snapshots are held. MLOOP opens a block with its pass limit, and pauses behind a match-loop that has not ended; MEND
closes it. SIG sends at once or with PIN at the next cycle. An admission ends with the pipeline running or with a fault, a
read of a page outside the list, a VDECL, and a cycle beyond SEQ_SEGMAX fault too. -/
def Obligations.SegmentsAndMatchBlocks : Prop :=
  ∀ (q : CoreId) (s : State) (i : Nat),
    let d0 := s.dev
    let v := (d0.core q).v
    let next := (v.vpc + 8) % 2 ^ 48
    let snap (b : Bnd) (a : Nat) : Snap := { bnd := b, vpc := a, lc := v.lc, ax := v.ax, ay := v.ay, dg := v.dg }
    let kept (sn : Snap) : List Snap := (if v.mark.isSome then v.snaps.dropLast else v.snaps) ++ [sn]
    let faults : Prop := i < 64 ∧ d0.coreSite q = some i ∧ d0.siteState i = 2 ∧ d0.stopGiven i = false
    let sent (d : Dev) (y k : Nat) : Prop := ∀ z n, z < 65 → n < 16 → tblGet 0 d.flight (16 * z + n) =
      tblGet 0 d0.flight (16 * z + n) + if z = y ∧ n = k then 1 else 0
    (VecIssues s q →
      (∀ bidx : BitVec 20,
        (v.snaps.length < 16 ∨ v.mark.isSome = true →
          WritesV (.segb q false bidx) s q (fun v' => v' = { v with
            vpc := next, snaps := kept (snap ⟨bidx.toNat, false⟩ next), mark := some ⟨bidx.toNat, false⟩, segLen := 0
            vec := .admitting bidx.toNat }) ∧
          WritesV (.segb q true bidx) s q (fun v' => v' = { v with
            vpc := next, snaps := kept (snap ⟨bidx.toNat, true⟩ next), segLen := 0, mark := none, vec := .stopped
            viq := v.viq ++ [⟨[], some ⟨bidx.toNat, true⟩, [], false⟩] })) ∧
        (16 ≤ v.snaps.length → v.mark = none → ∀ last, Gives (.segb q last bidx) s fun d => d = d0)) ∧
      (∀ (n : Fin 8) (cond comb segit : Bool) (tmo mevon : BitVec 2) (mev : Fin 16) (bidx : BitVec 20), tmo ≠ 3 →
        (v.mloop = none → WritesV (.mloop q n cond comb tmo segit mev mevon bidx) s q fun v' => v' = { v with
          vpc := next, viq := v.viq ++ [⟨[], v.mark, v.pinSigs, true⟩], mark := none, pinSigs := []
          mloop := some { lci := n, cond := cond, comb := comb, tmo := tmo.toNat, segit := segit, mev := mev
                          mevon := mevon.toNat, bidx := bidx.toNat, vpc := v.vpc
                          n := if tblGet 0 v.lc n = 0 then 1 else tblGet 0 v.lc n
                          closed := false, block := [], passes := 0, left := [], seen := false, failed := false } }) ∧
        (v.mloop.isSome = true → Gives (.mloop q n cond comb tmo segit mev mevon bidx) s fun d => d = d0)) ∧
      (∀ (t : BitVec 7) (inp : Fin 16), t.toNat = 64 ∨ t.toNat < 64 ∧ d0.corePresent t.toNat = true →
        WritesV (.sigVector q t inp true) s q (fun v' =>
          v' = { v with vpc := next, pinSigs := v.pinSigs ++ [(t.toNat, inp.val)] })) ∧
      (faults → Gives (.vdecl q) s fun d => VecFaulted d0 q i fcILLEGAL d)) ∧
    (d0.vecReady q = true → v.job = none → v.listed v.vpc = true →
      (∀ m, v.mloop = some m → m.closed = false → 1 ≤ cyclesOf m.block → cyclesOf m.block ≤ 2048 → m.block.length ≤ 256 →
        (m.segit = false → WritesV (.mend q) s q fun v' => v' = { v with
          vpc := next, mloop := some { m with closed := true, left := m.block }
          segLen := v.segLen + (m.n - 1) * cyclesOf m.block }) ∧
        (m.segit = true → WritesV (.mend q) s q fun v' => v' = { v with
          vpc := next, mloop := some { m with closed := true, left := m.block }, segLen := 0
          snaps := kept (snap ⟨m.bidx, false⟩ m.vpc), mark := some ⟨m.bidx, false⟩, vec := .admitting m.bidx })) ∧
      (∀ (t : BitVec 7) (inp : Fin 16), t.toNat = 64 ∨ t.toNat < 64 ∧ d0.corePresent t.toNat = true →
        Gives (.sigVector q t inp false) s fun d => (d.core q).v = { v with vpc := next } ∧ sent d t.toNat inp ∧
          (∀ y, y ≠ q.val → d.core y = d0.core y) ∧ BytesKept d0 d) ∧
      (faults → v.inBlock = true → Gives (.vdecl q) s fun d => VecFaulted d0 q i fcILLEGAL d)) ∧
    (v.vec = .run → v.job.isSome = true → d0.get (K.SEQ_SEGMAX_CYCLES (q / 16) (q % 16)) ≤ v.segLen → faults →
      GivesAs (3, 0x06, q.val) (.segOverrun q) s fun d => VecFaulted d0 q i fcSEGOVR d) ∧
    (∀ bidx, v.vec = .admitting bidx → ∀ d1 r, d0.admitSegment q bidx none = (d1, r) →
      (r = none → GivesAs (3, 0x06, q.val) (.segmentAdmissionEnd q none) s fun d =>
        (d.core q).v = { (d1.core q).v with vec := .run } ∧ d = { d1 with cores := d.cores } ∧
        ∀ y, y ≠ q.val → d.core y = d1.core y) ∧
      (∀ f, r = some f → faults → GivesAs (3, 0x06, q.val) (.segmentAdmissionEnd q none) s fun d =>
        VecFaulted d0 q i (if f.reason = prIO then fcWALKIO else fcTRANS) d ∧ d.get K.PTU_STATUS_FLT_ANY = 1)) ∧
    (∀ va : BitVec 48, v.vec = .run →
      (v.listed va.toNat = true →
        (Gives (.vectorReadComplete q va 0) s fun d => d = d0) ∧
        (∀ e : Fin 5, 1 ≤ e.val → e.val ≤ 3 → Gives (.vectorReadComplete q va e) s fun d =>
          (∀ y, d.core y = d0.core y) ∧ d.get K.BAS_MEM_STATUS_UE_ANY = 1 ∧ BytesKept d0 d) ∧
        (faults → Gives (.vectorReadComplete q va 4) s fun d => VecFaulted d0 q i fcECC d)) ∧
      (v.listed va.toNat = false → faults → Gives (.vectorReadComplete q va 0) s fun d =>
        VecFaulted d0 q i fcTRANS d ∧ d.get K.PTU_STATUS_FLT_ANY = 1 ∧
        (d0.get (K.PTU_FLT_REASON q) = 0 → d.get (K.PTU_FLT_REASON q) = prUNLISTED)))

/-- R135, R142, R216, R217, R224, R225, R309, R315, R317, R320: a running site's boundaries and its way to the Rocker. A
sampled stop is applied two ticks on; a boundary that passes the pins opens the next segment; a stop takes the first
boundary, restoring its snapshot, and the Curtain begins, as it does at an END boundary, with cause END, and after a VIQ
underrun. After the last Curtain cycle the site is Aborted or Parked where that is pending, else Rocking; the end of a
Rocker pass does the same, resumes, or begins another pass. -/
def Obligations.StopsAtTheSites : Prop :=
  ∀ (i : SiteId) (s : State),
    let d0 := s.dev
    let cores := d0.siteCores i
    let r := d0.site i
    let core (q : Nat) : Core := d0.core q
    let frees (q : Nat) (d : Dev) : Prop := (d.core q).g = (core q).g ∧ (d.core q).f = (core q).f
    let others (d : Dev) : Prop := ∀ y, y ∉ cores → d.core y = core y
    let own : Prop := ∀ q ∈ cores, ∀ rec ∈ (core q).cap.opened, rec.site = i.val ∧ rec.die = q / 16
    let lev : Prop := ∀ q ∈ cores, ∀ p ∈ cores, (core q).v.cyc = (core p).v.cyc
    let ended (q : Nat) : Prop := (if d0.siteState i = 3 then (core q).v.curtain else (core q).v.rocker)[(core q).v.pos.1]? = none
    let parked (d : Dev) : Prop := ∀ q ∈ cores, (d.core q).v.viq = [] ∧ (d.core q).v.phase = 3 ∧ (d.core q).v.vec = .stopped ∧
      d.coreState q = (if d0.faultCode q = 0 then csPARKED else csFAULTED)
    let dark (d : Dev) : Prop := ∀ c ∈ d0.siteChans i, d.parked c = true
    let free : Prop := r.req = none ∧ r.applied = false
    let curtain (d : Dev) (sn : Nat → Snap) : Prop := d.siteState i = 3 ∧ (d.site i).req = none ∧
      (d.site i).applied = false ∧ (d.site i).stopCyc = none ∧ others d ∧ BytesKept d0 d ∧
      ∀ q ∈ cores, frees q d ∧ d.coreState q = csCURTAIN ∧ (d.core q).ctl = .stopped ∧
        (d.core q).v.vec = .stopped ∧ (d.core q).v.viq = [] ∧ (d.core q).v.vpq = [] ∧ (d.core q).v.phase = 1 ∧
        (d.core q).v.pos = (0, 0, 0) ∧ (d.core q).v.lc = (sn q).lc ∧ (d.core q).v.ax = (sn q).ax ∧
        (d.core q).v.ay = (sn q).ay ∧ (d.core q).v.dg = (sn q).dg ∧
        (∀ w, cores = [q] → (sn q).bnd.bidx < (core q).v.btab.2 → (d0.btabEntry q (sn q).bnd.bidx).2 = .ok w →
          (d.core q).v.vpc = w % 2 ^ 48 ∧ (d.core q).pc = w / 2 ^ 64 % 2 ^ 48)
    let plays : Prop := cores ≠ [] ∧ ∀ q ∈ cores, (core q).v.curtain ≠ []
    let outcome (c : Instr) (rest : Dev → Prop) : Prop := cores ≠ [] → own → lev → (∀ q ∈ cores, ended q) →
      (d0.on (K.SITE_ABORT_PEND i) = true → d0.siteDown i = false → Gives c s fun d => d.siteState i = 6 ∧ parked d ∧
        dark d ∧ others d ∧ d.on (K.SITE_ABORT_PEND i) = false ∧ d.on (K.SITE_PARK_PEND i) = false ∧ BytesKept d0 d) ∧
      (d0.on (K.SITE_ABORT_PEND i) = false → d0.on (K.SITE_PARK_PEND i) = true → d0.siteDown i = false →
        Gives c s fun d => d.siteState i = 5 ∧ parked d ∧ dark d ∧ others d ∧ d.on (K.SITE_PARK_PEND i) = false ∧
          BytesKept d0 d) ∧
      (d0.on (K.SITE_ABORT_PEND i) = false → d0.on (K.SITE_PARK_PEND i) = false → Gives c s rest)
    (∀ c t, r.req = some (c, t) → t + 2 ≤ d0.clock → d0.siteState i = 2 → Gives (.stopApply i) s fun d =>
      (d.site i).req = none ∧ (d.site i).applied = true ∧ (∀ q ∈ cores, d.coreState q = csSTOPPING) ∧
      (∀ q, d.core q = core q) ∧ BytesKept d0 d) ∧
    (∀ sn : Nat → Snap, d0.siteState i = 2 → cores ≠ [] → own → lev →
      (∀ q ∈ cores, ∃ e l sns b, (core q).v.viq = e :: l ∧ e.bnd = some b ∧ b.isEnd = false ∧ (core q).v.snaps = sn q :: sns) →
      (free → Gives (.segmentBoundary i) s fun d => d.siteState i = 2 ∧ others d ∧ BytesKept d0 d ∧
        (∀ q, q ∈ cores → (d.site i).segCyc = (core q).v.cyc) ∧
        ∀ q ∈ cores, (d.core q).v = { (core q).v with
            snaps := (core q).v.snaps.tail, openSnap := some (sn q), segBidx := (sn q).bnd.bidx
            viq := match (core q).v.viq with
              | e :: l => { e with bnd := none } :: l
              | [] => [] } ∧
          d.get (K.SEQ_SEG (q / 16) (q % 16)) = (sn q).bnd.bidx % 2 ^ 32 ∧ frees q d) ∧
      (r.applied = true → r.stopCyc = none → plays → Gives (.stopBoundary i) s fun d => curtain d sn ∧
        d.get (K.SITE_CAUSE i) = d0.get (K.SITE_CAUSE i))) ∧
    (∀ sn : Nat → Snap, d0.siteState i = 2 → cores ≠ [] → own → lev → r.stopCyc = none → plays →
      (∀ q ∈ cores, ∃ e l sns b, (core q).v.viq = e :: l ∧ e.bnd = some b ∧ b.isEnd = true ∧ (core q).v.snaps = sn q :: sns) →
      Gives (.endBoundary i) s fun d => curtain d sn ∧ (free → d.get (K.SITE_CAUSE i) = 0x05)) ∧
    (∀ sn : Nat → Snap, ∀ cyc, d0.siteState i = 2 → own → plays → r.stopCyc = some cyc →
      (∀ q ∈ cores, (core q).v.cyc = cyc ∧ (core q).v.openSnap = some (sn q)) →
      Gives (.stopBoundary i) s fun d => curtain d sn) ∧
    (d0.siteState i = 3 → outcome (.curtainEnd i) fun d => d.siteState i = 4 ∧ others d ∧ BytesKept d0 d ∧
      ∀ q ∈ cores, frees q d ∧ d.coreState q = csROCKER ∧ (d.core q).v.phase = 2 ∧ (d.core q).v.pos = (0, 0, 0) ∧
        (d.core q).ctl = .run ∧ ∀ sn, (core q).v.stopSnap = some sn →
          (d.core q).v.vec = if sn.bnd.isEnd then .stopped else .admitting sn.bnd.bidx) ∧
    (d0.siteState i = 4 → outcome (.rockerPassEnd i) fun d =>
      (d0.resumeReady i = true → d.siteState i = 2 ∧ d.on (K.SITE_RESUME_PEND i) = false ∧
        ∀ q ∈ cores, d.coreState q = csRUN ∧ (d.core q).v.phase = 0 ∧ (d.core q).v.cyc = r.startCyc) ∧
      (d0.resumeReady i = false → d.siteState i = 4 ∧ (∀ q ∈ cores, (d.core q) = { core q with
        v := { (core q).v with pos := (0, 0, 0) } }) ∧ others d ∧ BytesKept d0 d)) ∧
    (∀ q : CoreId, d0.coreSite q = some i.val → d0.siteState i = 2 → q.val ∈ cores → (core q).v.viq.all (fun e => !e.blk) = true →
      (∀ e b, (core q).v.viq.getLast? = some e → e.bnd = some b → b.isEnd = false) → r.stopCyc = none →
      GivesAs (3, 0x06, q.val) (.viqUnderrun q) s fun d =>
        (d.site i).stopCyc = some ((core q).v.cyc + cyclesOf (core q).v.viq) ∧
        ((core q).v.faulted = false → free → VecFaulted d0 q i fcUNDERRUN d) ∧
        ((core q).v.faulted = true → d = { d0 with sites := d.sites }))

/-- R196, R211 to R216, R222, R235, R239, R240, R257, R259: tester cycles at the pins and the passes of a match-loop. A
cycle of the VIQ, or of the Curtain or Rocker, drives each unparked channel of the pin group by its symbol and formats,
shows the lanes in PED_QH and PED_QL, and judges the compare symbols: a fail of an unmasked channel sets ANY_FAIL, one of
a masked channel its CMP_RAW bit, and in a match-loop the pass alone sees it. At the end of a pass the site combines its
cores' conditions and the loop replays or ends, at most D passes after the condition first held; its outcome adds the
event MEV and acts as TMO says. -/
def Obligations.PinCyclesAndMatchLoops : Prop :=
  ∀ (i : SiteId) (s : State),
    let d0 := s.dev
    let cores := d0.siteCores i
    let r := d0.site i
    let vc (q : Nat) : VCore := (d0.core q).v
    let own (q : Nat) : Prop := ∀ rec ∈ (d0.core q).cap.opened, rec.site = i.val ∧ rec.die = q / 16
    (∀ (q : CoreId) (obs : PinObs), d0.coreSite q = some i.val → (∀ p ∈ cores, (vc q).cyc ≤ (vc p).cyc) →
      (∀ k, k < 4 → d0.get (K.INJ_SLOT_CTRL_STATE k) ≠ 1) → own q →
      let v := vc q
      let n := q.val / 16
      let grp := d0.pinGroup q
      let fit (ts : Nat) : Prop := ts < 64 ∧ ∀ j ∈ grp, d0.tsValid n j ts = true ∧ d0.get (K.TS_FMT_RSU n j ts) < 16
      let sym (syms p : Nat) : Nat := syms / 16 ^ p % 16
      let fails (ts syms p : Nat) : Prop := ∃ j, grp[p]? = some j ∧ d0.parked (128 * n + j) = false ∧
        (let cf := d0.get (K.TS_FMT_CFMT n j ts)
         let h := obs.qh.getLsbD p
         let l := obs.ql.getLsbD p
         let y := sym syms p
         (y = 2 ∨ y = 3 ∨ y = 4 ∨ y = 15) ∧
         ((h = true ∧ l = true) ∨ (cf = 1 ∧ (obs.both.getLsbD p = true ∨ obs.contrary.getLsbD p = true)) ∨
          (cf = 2 ∧ d0.rsuEdge n (d0.get (K.TS_FMT_RSU n j ts)) obs = none) ∨
          (cf ≠ 1 ∧ ((y = 2 ∧ l = false) ∨ (y = 3 ∧ h = false) ∨ (y = 4 ∧ (h = true ∨ l = true)) ∨
            (y = 15 ∧ h = false ∧ l = false)))))
      let hit (ts syms p : Nat) : Prop := fails ts syms p ∧ ∀ j, grp[p]? = some j → d0.masked n j = false
      let played (d : Dev) (ts syms : Nat) (first : Bool) : Prop := BytesKept d0 d ∧
        d.get (K.SEQ_CYCLE_LO_COUNT_LO n (q.val % 16)) = (d0.get (K.SEQ_CYCLE_LO_COUNT_LO n (q.val % 16)) + 1) % 2 ^ 32 ∧
        (∀ p j, grp[p]? = some j → d0.parked (128 * n + j) = false →
          let a := tblGet {} d0.tgn.lanes (128 * n + j)
          let b := tblGet {} d.tgn.lanes (128 * n + j)
          let df := d0.get (K.TS_FMT_DFMT n j ts)
          let on : Bool := df == 3 || d0.get (K.TS_FMT_EFMT n j ts) != 1
          let y := sym syms p
          d.bitOf (K.PED_QH n (j / 32)) (j % 32) = obs.qh.getLsbD p ∧
          d.bitOf (K.PED_QL n (j / 32)) (j % 32) = obs.ql.getLsbD p ∧
          (y = 0 ∨ y = 1 → b.drove = true ∧ b.e = on ∧
            b.d = if df = 1 then false else if df = 2 then true else if df = 3 then y == 0 else y == 1) ∧
          (y = 14 → b.drove = true ∧ b.e = (on || df == 4) ∧
            b.d = if df = 4 then !a.d else d0.get (K.TS_FMT_CKF n j ts) != 0) ∧
          (y = 7 → (first = true → b.drove = false ∧ b.e = false ∧ b.d = a.d) ∧
            (first = false → b.drove = a.drove ∧ b.e = a.e ∧ b.d = a.d)) ∧
          (y ∉ [0, 1, 7, 14] → b.drove = false ∧ b.e = false ∧ b.d = a.d) ∧
          (fails ts syms p → d0.masked n j = true → d.bitOf (K.CMP_RAW n (j / 32)) (j % 32) = true) ∧
          (y = 2 ∨ y = 3 ∨ y = 4 ∨ y = 15 → obs.qh.getLsbD p = true → obs.ql.getLsbD p = true →
            d0.get (K.TS_FMT_CFMT n j ts) ≠ 2 → d.bitOf (K.PED_CONFLICT n (j / 32)) (j % 32) = true))
      (d0.siteState i = 2 → r.stopCyc = none → r.applied = false → v.job = none →
        (∀ e l c cs, v.viq = e :: l → e.bnd = none → e.blk = false → e.cyc = c :: cs → fit c.ts →
          Gives (.pinCycle q obs) s fun d => played d c.ts c.syms (v.cyc == 0) ∧
            (d.core q).v = { v with cyc := v.cyc + 1, viq := if cs = [] then l else { e with cyc := cs, sigs := [] } :: l } ∧
            ((∃ p, hit c.ts c.syms p) → d.on (K.SFT_ANY_FAIL n i) = true) ∧
            ((∀ p, ¬hit c.ts c.syms p) → d.on (K.SFT_ANY_FAIL n i) = d0.on (K.SFT_ANY_FAIL n i))) ∧
        (∀ e l m b more c cs, v.viq = e :: l → e.bnd = none → e.blk = true → v.mloop = some m → m.closed = true →
          m.left = b :: more → b.cyc = c :: cs → fit c.ts →
          Gives (.pinCycle q obs) s fun d => played d c.ts c.syms (v.cyc == 0) ∧
            d.on (K.SFT_ANY_FAIL n i) = d0.on (K.SFT_ANY_FAIL n i) ∧ ∃ m', (d.core q).v.mloop = some m' ∧
            m'.left = (if cs = [] then more else { b with cyc := cs } :: more) ∧ m'.passes = m.passes ∧
            (m'.failed = true ↔ m.failed = true ∨ ∃ p, hit c.ts c.syms p)) ∧
        (v.viq = [] → Gives (.pinCycle q obs) s fun d => d = d0)) ∧
      (∀ rec, d0.siteState i = 3 ∨ d0.siteState i = 4 →
        (if d0.siteState i = 3 then v.curtain else v.rocker)[v.pos.1]? = some rec → fit rec.ts →
        Gives (.pinCycle q obs) s fun d => played d rec.ts (rec.rows.getD v.pos.2.2 0) false ∧
          d.siteState i = d0.siteState i ∧ (d.core q).v = { v with cyc := v.cyc + 1, pos :=
            if v.pos.2.2 + 1 < rec.rows.length then (v.pos.1, v.pos.2.1, v.pos.2.2 + 1)
            else if v.pos.2.1 + 1 < rec.rep then (v.pos.1, v.pos.2.1 + 1, 0) else (v.pos.1 + 1, 0, 0) })) ∧
    (∀ (m : Nat → MLoop) q0 rest, d0.siteState i = 2 → cores = q0 :: rest →
      (∀ q ∈ cores, (vc q).cyc = (vc q0).cyc ∧ (vc q).mloop = some (m q) ∧ (m q).closed = true ∧ (m q).left = [] ∧
        (vc q).job = none ∧ ∃ e l, (vc q).viq = e :: l ∧ e.blk = true ∧ e.bnd = none) →
      let m0 := m q0
      let p := m0.passes + 1
      let cond (q : Nat) : Prop := if (m q).seen then (m q).failed = (m q).cond else (m q).comb = false
      let holds : Prop := if m0.comb then ∃ q ∈ cores, cond q else ∀ q ∈ cores, cond q
      let b := cyclesOf m0.block
      let f := if (d0.siteDies i).length ≤ 1 then 56 else 96
      let len := b * d0.corePeriod q0 * 1000000000
      let lag := (f * 8000 * (1000000000 + d0.coreOfs q0).toNat + len - 1) / len
      let ends : Prop := m0.n ≤ p ∨ (∃ h, r.held = some h ∧ min (h + lag) m0.n ≤ p) ∨
        (r.held = none ∧ holds ∧ min (p + lag) m0.n ≤ p)
      let noted (ok : Bool) : List (Bool × Nat × Nat × Nat × Nat × Nat) :=
        r.outcomes ++ [(ok, m0.mev, m0.mevon, m0.tmo, m0.n, (vc q0).cyc - 1)]
      (∀ q ∈ cores, (m q).comb = m0.comb ∧ (m q).segit = false) →
        (ends → Gives (.matchLoopPassEnd i) s fun d => (d.site i).held = none ∧ (∀ q ∈ cores,
            (d.core q).v = { vc q with viq := (vc q).viq.tail, mloop := none }) ∧
          (r.held = none → holds → (d.site i).outcomes = noted true) ∧
          (r.held = none → ¬holds → (d.site i).outcomes = noted false) ∧
          (r.held ≠ none → (d.site i).outcomes = r.outcomes) ∧ BytesKept d0 d) ∧
        (¬ends → Gives (.matchLoopPassEnd i) s fun d => (∀ q ∈ cores, (d.core q).v = { vc q with
            mloop := some { m q with passes := p, left := (m q).block, seen := false, failed := false } }) ∧
          (r.held = none → holds → (d.site i).held = some p ∧ (d.site i).outcomes = noted true) ∧
          (r.held ≠ none ∨ ¬holds → (d.site i).held = r.held ∧ (d.site i).outcomes = r.outcomes) ∧ BytesKept d0 d)) ∧
    (∀ ok mev on tmo n last rest, r.outcomes = (ok, mev, on, tmo, n, last) :: rest → mev < 16 → (∀ q ∈ cores, own q) →
      GivesAs (3, 0x07, i.val) (.matchLoopOutcome i) s fun d => (d.site i).outcomes = rest ∧ BytesKept d0 d ∧
        ((on = 3 ∨ (on = 1 ∧ ok = true) ∨ (on = 2 ∧ ok = false)) → ∀ q ∈ cores, d0.evi q mev < 255 →
          (∀ dl rd len, (d0.core q).ctl ≠ .waitE mev dl rd len) → d.evi q mev = d0.evi q mev + 1) ∧
        (¬(on = 3 ∨ (on = 1 ∧ ok = true) ∨ (on = 2 ∧ ok = false)) → ∀ q k, q < 64 → k < 16 → d.evi q k = d0.evi q k) ∧
        (ok = false → tmo = 2 → d0.siteState i = 2 → d0.stopGiven i = false →
          (d.site i).req = some (7, d0.clock) ∧ d.get (K.SITE_CAUSE i) = 0x07) ∧
        (ok = true ∨ tmo = 0 → (d.site i).req = r.req))

/-- R265 to R268, R283, R285, R289 to R293, R296, R300 to R304: the way of fail records to memory and to the repair
solver, and the solver. A drained record is stored at its region's next slot, or lost where the region is full; the mapping
stage turns each failing bit into a cell operation; a cell is stored with one entry of the reservation, or its DUT is
OVERFLOW; a free engine takes the head of the queue; a solution is written and announced; each command answers its
RESULT. -/
def Obligations.FailStagingAndRepairSolver : Prop :=
  ∀ (n : Die) (i : SiteId) (m : Master) (s : State),
    let d0 := s.dev
    let k := stageKey n i
    let rest := tblGet [] d0.tgn.staging k
    let mode := d0.get (K.SFT_MODE n i)
    let wr := d0.get (K.SFT_WR_PTR n i)
    let level := d0.regionLevel n i
    let slots := d0.slots n i
    let untouched (d : Dev) : Prop := (∀ y, d.core y = d0.core y) ∧ BytesKept d0 d
    (rest = [] → Gives (.stagingDrain n i) s fun d => d = d0) ∧
    (∀ r l, rest = r :: l → r.die = n.val → r.site = i.val → r.core < 16 → (d0.core (16 * r.die + r.core)).cap.lost = none →
      (mode = 1 ∨ mode = 2 → r.ty = 1 ∨ r.ty = 2 → level + 2 < slots → r.pack < 2 ^ 256 →
        Gives (.stagingDrain n i) s fun d => tblGet [] d.tgn.staging k = l ∧
          Stored d0 d (d0.regionBase n i + 32 * (wr % slots)) 32 r.pack ∧
          d.get (K.SFT_WR_PTR n i) = (wr + 1) % 2 ^ 32 ∧ ∀ j, j ≠ k → tblGet [] d.tgn.staging j = tblGet [] d0.tgn.staging j) ∧
      (mode = 1 ∨ mode = 2 → r.ty = 1 ∨ r.ty = 2 → slots ≤ level + 2 →
        Gives (.stagingDrain n i) s fun d => tblGet [] d.tgn.staging k = l ∧ d.get (K.SFT_FULL n i) = 1 ∧
          d.get (K.SFT_LOST_F n i) = 1 ∧ d.get (K.SFT_WR_PTR n i) = wr ∧ BytesKept d0 d ∧
          (d.core (16 * r.die + r.core)).cap.lost = some (1, r.cycle, r.bidx)) ∧
      (mode = 0 → r.ty = 1 ∨ r.ty = 2 → Gives (.stagingDrain n i) s fun d =>
        tblGet [] d.tgn.staging k = l ∧ untouched d ∧
        (d0.on (K.SFT_TO_RPS n i) = true → r.phase = 0 → d0.variant.hasRps = true → tblGet 0 d0.rps.stuffed n = 0 →
          (∀ j, j < 4 → d0.get (K.INJ_SLOT_CTRL_STATE j) ≠ 1) → (tblGet [] d0.rps.intake n).length < 32768 →
          tblGet [] d.rps.intake n = tblGet [] d0.rps.intake n ++ [r])) ∧
      (mode = 3 → r.ty = 1 → r.phase = 0 → r.w3 < 2 ^ 64 → Gives (.stagingDrain n i) s fun d =>
        tblGet [] d.tgn.staging k = l ∧ d.get (K.SFT_WR_PTR n i) = wr ∧
        ∃ a, Stored d0 d a 8 (d0.peekNum a 8 ||| r.w3) ∧
          (d0.siteCoresOn i n = [16 * r.die + r.core] → (d0.pinGroup (16 * r.die + r.core)).length ≤ 64 →
            a = d0.regionBase n i + 8 * (r.w2 / 2 ^ 32 % 2 ^ d0.get (K.SFT_YW n i) * 2 ^ d0.get (K.SFT_XW n i) +
              r.w2 % 2 ^ 32 % 2 ^ d0.get (K.SFT_XW n i) + r.half)))) ∧
    (tblGet [] d0.rps.intake n = [] ∨ tblGet [] d0.rps.ops n ≠ [] → Gives (.rpsMapping n) s fun d => d = d0) ∧
    (∀ r l c, tblGet [] d0.rps.intake n = r :: l → tblGet [] d0.rps.ops n = [] → r.site = i.val → r.die = n.val →
      d0.rctx i = some c →
      let taken (d : Dev) : Prop := tblGet [] d.rps.intake n = l ∧ untouched d
      let q := 16 * r.die + r.core
      (r.ty = 2 → Gives (.rpsMapping n) s fun d => taken d ∧ d.rctx i = some c) ∧
      (∀ b, b < 64 → r.ty = 1 → r.w3 = 2 ^ b →
        (c.map.place r b = .ignored → Gives (.rpsMapping n) s fun d => taken d ∧ d.rctx i = some c ∧
          tblGet [] d.rps.ops n = [] ∧ (d0.get (K.RPSE_IGNORED i) < 2 ^ 32 - 1 →
            d.get (K.RPSE_IGNORED i) = d0.get (K.RPSE_IGNORED i) + 1)) ∧
        (∀ u t, c.map.place r b = .cell u t → Gives (.rpsMapping n) s fun d => taken d ∧ d.rctx i = some c ∧
          tblGet [] d.rps.ops n = if (c.dut u).known t then [] else [⟨i.val, u, t⟩]) ∧
        (∀ u g, u < 16 → u < c.duts.length → c.map.place r b = .outside u g → (c.dut u).unrep = false →
          Gives (.rpsMapping n) s fun d => tblGet [] d.rps.intake n = l ∧ d.bitOf (K.RPSE_UNREP i) u = true ∧
            (∃ c', d.rctx i = some c' ∧ (c'.dut u).unrep = true ∧ (c'.dut u).reason = 3 ∧ (c'.dut u).ureg = g % 256) ∧
            BytesKept d0 d)) ∧
      (r.ty = 3 → Gives (.rpsMapping n) s fun d => taken d ∧ ∃ c', d.rctx i = some c' ∧ ∀ u, u < c.duts.length →
        (c'.dut u) = { c.dut u with lost := (c.dut u).lost || (c.map.dutsOf q).contains u }) ∧
      (r.ty = 4 → Gives (.rpsMapping n) s fun d => taken d ∧ ∃ c', d.rctx i = some c' ∧ q ∈ c'.ended ∧
        (∀ p ∈ c.ended, p ∈ c'.ended) ∧ tblGet (0, 0) c'.ends q = (r.w2 % 2 ^ 32, r.w2 / 2 ^ 32) ∧ c'.duts = c.duts)) ∧
    (tblGet [] d0.rps.ops n = [] → Gives (.cellOperation n) s fun d => d = d0) ∧
    (∀ o l c, tblGet [] d0.rps.ops n = o :: l → o.site = i.val → d0.rctx i = some c → o.dut < c.duts.length →
      let x := c.dut o.dut
      let used := d0.get (K.RPSE_CELLS_USED i)
      let x' : Dut := { x with cells := x.cells ++ [o.cell] }
      let taken (d : Dev) : Prop := tblGet [] d.rps.ops n = l ∧ untouched d
      (x.overflow = true ∨ x.known o.cell = true → Gives (.cellOperation n) s fun d => taken d ∧ d.rctx i = some c) ∧
      (x.overflow = false → x.known o.cell = false → 1024 * d0.get (K.RPSE_CELLS i) ≤ used →
        Gives (.cellOperation n) s fun d => taken d ∧ d.rctx i = some (c.modDut o.dut fun x => { x with overflow := true }) ∧
          d.get (K.RPSE_OVERFLOW_ANY i) = 1) ∧
      (x.overflow = false → x.known o.cell = false → used < 1024 * d0.get (K.RPSE_CELLS i) → used + 1 < 2 ^ 23 →
        x'.mustLine c.map o.cell.1 = none →
        (x'.cells.filter fun t => t.1 == o.cell.1).length ≤ 2 * x.spareMax c.map o.cell.1 0 * x.spareMax c.map o.cell.1 1 →
        Gives (.cellOperation n) s fun d => taken d ∧ d.rctx i = some (c.modDut o.dut fun _ => x') ∧
          d.get (K.RPSE_CELLS_USED i) = used + 1)) ∧
    (∀ t j l, d0.rps.queue = (t, j) :: l → d0.rps.busy.length < 8 → Gives .solveEngineTake s fun d =>
      d.get (K.RPSE_STATE j) = 3 ∧ d.rps = { d0.rps with queue := l, busy := d0.rps.busy ++ [j] } ∧
      d = { d0 with regs := d.regs, rps := d.rps } ∧ FieldsKept d0 d [K.RPSE_STATE j]) ∧
    (d0.rps.queue = [] ∨ 8 ≤ d0.rps.busy.length → Gives .solveEngineTake s fun d => d = d0) ∧
    (∀ (c : RCtx) (res : List SolveEnd), d0.rctx i = some c → d0.get (K.RPSE_STATE i) = 3 → c.map.ndut < 256 →
      Gives (.solutionWritten i res) s fun d => d.get (K.RPSE_STATE i) = 4 ∧ d.get (K.RPSE_SOL_READY i) = 1 ∧
        d.get (K.RPSE_SEQ i) = (c.seq + 1) % 2 ^ 8 ∧ (∃ c', d.rctx i = some c' ∧ c'.seq = (c.seq + 1) % 2 ^ 32) ∧
        i.val ∉ d.rps.busy ∧ (d0.on (K.RPSE_IRQ_EN i) = true → d.bitOf K.HST_IRQ_PEND 2 = true) ∧
        (isMem (d0.solBase i) = false → BytesKept d0 d)) ∧
    (∀ op : BitVec 4, Lets s m 0x180004 true →
      let st := d0.get (K.RPSE_STATE i)
      let none' := d0.rctx i = none
      let busy := st = 2 ∨ st = 3
      let answers (ins : Instr) (code : Nat) (P : Dev → Prop) : Prop := GivesBy m ins s fun d =>
        d.get K.RPS_CMD_RESULT_RESULT = code ∧ d.get K.RPS_CMD_RESULT_SITE = i.val ∧ untouched d ∧ P d
      let only (d : Dev) : Prop := FieldsOnly d0 d [K.RPS_CMD_RESULT_RESULT, K.RPS_CMD_RESULT_SITE]
      let stopped := d0.siteState i = 4 ∨ d0.siteState i = 5 ∨ d0.siteState i = 6
      answers (.rpsNop m i) 1 only ∧ (4 ≤ op.toNat → answers (.rpsBadOp m op i) 4 only) ∧
      (none' → answers (.solve m i) 5 only ∧ answers (.cancel m i) 5 only ∧ answers (.clear m i) 5 only) ∧
      (∀ c, d0.rctx i = some c →
        (busy → answers (.solve m i) 3 only ∧ answers (.clear m i) 3 only ∧
          answers (.cancel m i) 1 fun d => d.get (K.RPSE_STATE i) = 5 ∧ i.val ∉ d.rps.busy ∧ ∀ e ∈ d.rps.queue, e.2 ≠ i.val) ∧
        (¬busy → answers (.cancel m i) 2 only ∧ (¬stopped → answers (.solve m i) 2 only) ∧
          (stopped → (∀ q ∈ c.cores, q ∈ c.ended) → answers (.solve m i) 1 fun d =>
            d.get (K.RPSE_STATE i) = 2 ∧ (d0.tti, i.val) ∈ d.rps.queue) ∧
          (stopped → (∃ q ∈ c.cores, q ∉ c.ended) → answers (.solve m i) 1 fun d =>
            d.get (K.RPSE_STATE i) = st ∧ d.rctx i = some { c with solveReq := true }) ∧
          (d0.siteState i = 2 ∨ d0.siteState i = 3 → answers (.clear m i) 2 only) ∧
          (d0.siteState i ≠ 2 → d0.siteState i ≠ 3 → answers (.clear m i) 1 fun d =>
            d.get (K.RPSE_STATE i) = 1 ∧ d.get (K.RPSE_UNREP i) = 0 ∧ d.get (K.RPSE_CELLS_USED i) = 0 ∧
            d.rctx i = some (RCtx.fresh c.map c.cores)))))

/-- R309 to R322: admission and the site commands. An ADMIT begins the one admission and wakes the site's dies; at its end
the site is Admitted with its cores loaded and in PREFILL, or stays Idle with the code of the first failing check. START
arms a SITE_START 3,200 ticks on; STOP, PARK and ABORT make their stop requests with what is pending; RESUME waits for the
end of a Rocker pass; RESTART returns a Parked site to Admitted; RELEASE leaves it Idle and holding nothing. A command in
the wrong state answers REFUSED_STATE, one whose condition fails REFUSED_COND with its code, a reserved OP BAD_OP. -/
def Obligations.AdmissionAndSiteCommands : Prop :=
  ∀ (m : Master) (i : SiteId) (s : State),
    let d0 := s.dev
    let cores := d0.siteCores i
    let st := d0.siteState i
    let r := d0.site i
    let cause := d0.get (K.SITE_CAUSE i)
    let still (d : Dev) : Prop := (∀ y, d.core y = d0.core y) ∧ BytesKept d0 d
    let said (op res : Nat) (d : Dev) : Prop := d.get (K.SITE_LAST_OP i) = op ∧ d.get (K.SITE_LAST_RESULT i) = res
    let alone (op res : Nat) (d : Dev) : Prop := said op res d ∧ FieldsOnly d0 d [K.SITE_LAST_OP i, K.SITE_LAST_RESULT i]
    let low (op : Nat) (c : Instr) (P : Dev → Prop) : Prop := GivesAs (6, op, i.val) c s P
    let high (op : Nat) (c : Instr) (P : Dev → Prop) : Prop := GivesAs (3, op, i.val) c s P
    let failed (op : Nat) : Prop := d0.cmdOk op i = false ∧ s.tickStart.cmdOk op i = false
    let cond (op code : Nat) (d : Dev) : Prop := said op 7 d ∧ d.get (K.SITE_REFUSE i) = code ∧
      FieldsOnly d0 d [K.SITE_LAST_OP i, K.SITE_LAST_RESULT i, K.SITE_REFUSE i]
    let linked : Prop := ∀ p ∈ d0.sched.links, p.1 < 6 * 256
    let running := st = 2 ∧ d0.stopGiven i = false
    let pend (f : Fld) (d : Dev) : Prop := d.on f = true ∧ d.on (K.SITE_RESUME_PEND i) = false
    let asks (c : Nat) (d : Dev) : Prop := d.siteState i = 2 ∧ (d.site i).req = some (c, d0.clock) ∧
      d.get (K.SITE_CAUSE i) = c ∧ still d
    let gone (d : Dev) : Prop := d.siteState i = 6 ∧ d.on (K.SITE_ABORT_PEND i) = false ∧ BytesKept d0 d ∧
      ∀ c ∈ d0.siteChans i, d.parked c = true
    let ready : Prop := ∀ q ∈ cores, (d0.core q).halted = false ∧ (d0.core q).refilling = false
    (Lets s m 0x104 true → d0.maySite m i = true →
      low 0 (.siteNop m i) (alone 0 1) ∧
      (∀ op : BitVec 4, 9 ≤ op.toNat → low op.toNat (.siteBadOp m op i) (alone op.toNat 6)) ∧
      (st = 0 → d0.on K.DEV_SITE_STATUS_ADM_BUSY = false → low 1 (.admitSite m i) fun d => still d ∧
        d.on (K.SITE_ADM_BUSY i) = true ∧ d.on K.DEV_SITE_STATUS_ADM_BUSY = true ∧
        d.get K.DEV_SITE_STATUS_ADM_SITE = i.val ∧ d.get (K.SITE_LAST_OP i) = 1 ∧ d.siteState i = 0 ∧
        ∀ n ∈ d0.siteDies i, d0.cdPresent n = true → d0.get (K.PWR_DIE_STATE_STATE n) ≠ 0 →
          d.on (K.PWR_DIE_STATE_WAKING n) = true) ∧
      (failed 1 → low 1 (.admitSite m i) (alone 1 (if d0.on K.DEV_SITE_STATUS_ADM_BUSY then 4 else 2))) ∧
      (st = 1 → d0.on K.TIM_STATUS_TIME_UNSURE = false → d0.siteDown i = false → (d0.freeEntry 0).isSome = true →
        (∀ n ∈ d0.siteDies i, (d0.freeEntry (n + 2)).isSome = true ∧ d0.deepState n = 0) → d0.tti + 3200 < 2 ^ 64 →
        low 2 (.start m i) fun d => said 2 1 d ∧ still d ∧ ∃ e, e < 256 ∧ d0.schedFree 0 e = true ∧ d.schedState 0 e = 1 ∧
          d.schedTti 0 e = d0.tti + 3200 ∧ d.get (K.SCHED_ACTION 0 e) = 1 ∧ d.get (K.SCHED_TARGET 0 e) = i.val) ∧
      (failed 2 →
        (st ≠ 1 → low 2 (.start m i) (alone 2 2)) ∧
        (st = 1 → d0.on K.TIM_STATUS_TIME_UNSURE = true → low 2 (.start m i) (cond 2 0x20)) ∧
        (st = 1 → d0.on K.TIM_STATUS_TIME_UNSURE = false → d0.siteDown i = false → d0.freeEntry 0 = none →
          low 2 (.start m i) (cond 2 0x21))) ∧
      (st = 1 → linked → high 3 (.stop m i) fun d => said 3 1 d ∧ d.siteState i = 1 ∧ still d ∧ d.get (K.SITE_CAUSE i) = 1 ∧
        ∀ e, e < 256 → d0.schedState 0 e = 1 → d0.get (K.SCHED_ACTION 0 e) = 1 → d0.get (K.SCHED_TARGET 0 e) = i.val →
          d.schedState 0 e = 4) ∧
      (running → high 3 (.stop m i) (fun d => said 3 1 d ∧ asks 1 d) ∧
        high 4 (.park m i) (fun d => said 4 1 d ∧ asks 2 d ∧ pend (K.SITE_PARK_PEND i) d) ∧
        high 5 (.abort m i) (fun d => said 5 1 d ∧ asks 3 d ∧ pend (K.SITE_ABORT_PEND i) d)) ∧
      (st = 3 ∨ st = 4 → high 3 (.stop m i) (fun d => said 3 1 d ∧ d.siteState i = st ∧ d.get (K.SITE_CAUSE i) = cause ∧ still d) ∧
        high 4 (.park m i) (fun d => said 4 1 d ∧ d.siteState i = st ∧ d.get (K.SITE_CAUSE i) = cause ∧ still d ∧
          pend (K.SITE_PARK_PEND i) d) ∧
        high 5 (.abort m i) (fun d => said 5 1 d ∧ d.siteState i = st ∧ d.get (K.SITE_CAUSE i) = cause ∧ still d ∧
          pend (K.SITE_ABORT_PEND i) d)) ∧
      (st = 1 ∨ st = 5 → d0.siteDown i = false → linked → high 5 (.abort m i) fun d => said 5 1 d ∧ gone d) ∧
      (failed 3 → high 3 (.stop m i) (alone 3 2)) ∧ (failed 4 → high 4 (.park m i) (alone 4 2)) ∧
      (failed 5 → high 5 (.abort m i) (alone 5 2)) ∧
      (st = 4 → d0.on (K.SITE_PARK_PEND i) = false → d0.on (K.SITE_ABORT_PEND i) = false → cause ≠ 5 →
        d0.on K.TIM_STATUS_TIME_UNSURE = false → d0.siteGroupsAsserted i = 0 →
        (∀ n ∈ d0.siteDies i, d0.on (K.TGN_STATUS_BYPASS n) = false) → r.prefillFault = false → d0.siteDown i = false →
        ready → low 6 (.resume m i) fun d => said 6 1 d ∧ d.on (K.SITE_RESUME_PEND i) = true ∧
          FieldsOnly d0 d [K.SITE_LAST_OP i, K.SITE_LAST_RESULT i, K.SITE_RESUME_PEND i]) ∧
      (failed 6 →
        (st ≠ 4 → low 6 (.resume m i) (alone 6 2)) ∧
        (st = 4 → d0.on (K.SITE_PARK_PEND i) = true ∨ d0.on (K.SITE_ABORT_PEND i) = true → low 6 (.resume m i) (cond 6 0x28)) ∧
        (st = 4 → d0.on (K.SITE_PARK_PEND i) = false → d0.on (K.SITE_ABORT_PEND i) = false → cause = 5 →
          low 6 (.resume m i) (cond 6 0x22))) ∧
      (st = 5 → cause ≠ 5 → d0.siteDown i = false → ready → low 7 (.restart m i) fun d => said 7 1 d ∧ d.siteState i = 1 ∧
        BytesKept d0 d ∧ (∀ y, y ∉ cores → d.core y = d0.core y) ∧ ∀ q ∈ cores, d.coreState q = csPREFILL ∧
          (d.core q).ctl = .run ∧ (d.core q).v.phase = 3 ∧ ∀ sn, (d0.core q).v.stopSnap = some sn → sn.bnd.isEnd = false →
            (d.core q).v.vec = .admitting sn.bnd.bidx) ∧
      (failed 7 → (st ≠ 5 → low 7 (.restart m i) (alone 7 2)) ∧ (st = 5 → cause = 5 → low 7 (.restart m i) (cond 7 0x22))) ∧
      (st = 1 ∨ st = 5 ∨ st = 6 → linked → low 8 (.release m i) fun d => said 8 1 d ∧ d.siteState i = 0 ∧ BytesKept d0 d ∧
        d.rctx i = none ∧ d.site i = {} ∧ (∀ y, y ∉ cores → d.core y = d0.core y) ∧
        (∀ c, c < 512 → d.parked c = d0.parked c) ∧ ∀ q ∈ cores, d.coreState q = csIDLE ∧
          d.on (K.SEQ_STATUS_IN_SITE (q / 16) (q % 16)) = false ∧ d.on (K.SEQ_STATUS_CRS_LOADED (q / 16) (q % 16)) = false ∧
          (d.core q).ctl = .off ∧ (d.core q).v.vec = .off) ∧
      (failed 8 → low 8 (.release m i) (alone 8 2))) ∧
    (d0.on (K.SITE_ADM_BUSY i) = false → Gives (.admissionEnd i) s fun d => d = d0) ∧
    (d0.on (K.SITE_ADM_BUSY i) = true → (∀ n ∈ d0.siteDies i, d0.dieActive n = true) → d0.bist.run = none → st = 0 →
      let d1 := (d0.admOver i).set (K.SITE_LAST_OP i) 1
      let refused (code : Nat) (d : Dev) : Prop := said 1 3 d ∧ d.get (K.SITE_REFUSE i) = code ∧ d.siteState i = 0 ∧
        d.on (K.SITE_ADM_BUSY i) = false ∧ d.on K.DEV_SITE_STATUS_ADM_BUSY = false ∧ still d
      (∀ e, (d1.admJudge i).2 = .error e → e.code < 256 → Gives (.admissionEnd i) s (refused e.code)) ∧
      (d0.get K.DEV_MODE_MODE ≠ 2 → d0.get K.DEV_MODE_MODE ≠ 3 → d0.get K.DEV_MODE_MODE ≠ 4 →
        Gives (.admissionEnd i) s (refused 1)) ∧
      (d0.get K.DEV_MODE_MODE = 2 → d0.on K.SNT_STATUS_SWAP_ACTIVE = false → cores = [] →
        Gives (.admissionEnd i) s (refused 2)) ∧
      (∀ l, (d1.admJudge i).2 = .ok l → Gives (.admissionEnd i) s fun d => said 1 1 d ∧ d.siteState i = 1 ∧
        d.on (K.SITE_ADM_BUSY i) = false ∧ d.on K.DEV_SITE_STATUS_ADM_BUSY = false ∧ d.get (K.SITE_CAUSE i) = 0 ∧
        d.site i = {} ∧ BytesKept d0 d ∧ (∀ y, y ∉ cores → d.core y = d0.core y) ∧
        ∀ e ∈ l, let q := e.1; let x := e.2; let v := (d.core q).v
          q ∈ cores ∧ (d.core q).ctl = .run ∧ v.vec = .admitting 0 ∧ v.vpc = x.first ∧ v.curtain = x.curtain ∧
          v.rocker = x.rocker ∧ v.psrc = x.psrc ∧ v.btab = x.btab ∧ d.coreState q = csPREFILL ∧ d.faultCode q = 0 ∧
          d.on (K.SEQ_STATUS_IN_SITE (q / 16) (q % 16)) = true ∧ d.get (K.SEQ_STATUS_SITE (q / 16) (q % 16)) = i.val ∧
          d.on (K.SEQ_STATUS_CRS_LOADED (q / 16) (q % 16)) = true))

/-- R334, R352, R353, R531: invalidations, roots and the patrol scrub. A GO drops the unpinned TLB entries that SCOPE
selects and keeps the pinned ones for their segments, which DEFERRED counts at its end; a GO while one runs sets
INV_REFUSED. A root written drops the entries of its root; while its core's site is active the write sets WR_REFUSED and
does nothing else. A patrol read takes its block's lease for the read, reports the error it meets, and passes by where the
lease is held. -/
def Obligations.InvalidationsRootsAndPatrol : Prop :=
  ∀ (m : Master) (q : CoreId) (v : Word) (k : Fin 2) (block : Fin 768) (s : State),
    let d0 := s.dev
    let w := v.toNat
    let tlb (d : Dev) (g : Nat) : List Tlb := tblGet [] d.ptu.tlb g
    let active : Prop := ∃ x, d0.coreSite q = some x ∧ d0.siteIn x [1, 2, 3, 4] = true
    let regsAndPtu (d : Dev) : Prop := d = { d0 with regs := d.regs, ptu := d.ptu }
    (Lets s m 0x101004 true →
      (d0.get K.PTU_STATUS_INV_BUSY = 0 → GivesBy m (.ptuInvalidate m v) s fun d =>
        let scope := w / 2 % 4
        let root := w / 256 % 64
        let p := d0.get K.PTU_INV_VA_LO + 2 ^ 16 * d0.get K.PTU_INV_VA_HI
        let size (t : Tlb) : Nat := if t.big then 2 ^ 21 else 2 ^ 16
        let hit (t : Tlb) : Prop := (scope ≠ 1 ∧ scope ≠ 2) ∨ (t.root = root ∧ (scope = 1 ∨
          (t.va < 2 ^ 16 * (p + d0.get K.PTU_INV_PAGES) ∧ 2 ^ 16 * p < t.va + size t)))
        d.get K.PTU_STATUS_INV_BUSY = 1 ∧ d.get K.PTU_INV_RESULT_DONE = 0 ∧ regsAndPtu d ∧
        FieldsKept d0 d [K.PTU_STATUS_INV_BUSY, K.PTU_INV_RESULT_DONE, K.PTU_INV_SCOPE, K.PTU_INV_ROOT] ∧
        (∀ g, ∀ t ∈ tlb d0 g, ¬hit t → t ∈ tlb d g) ∧
        ∀ g, ∀ t ∈ tlb d g, t ∈ tlb d0 g ∧ ¬hit t ∨ hit t ∧ t.stale = true ∧ t.pins ≠ [] ∧
          ∃ t' ∈ tlb d0 g, t = { t' with stale := true }) ∧
      (d0.get K.PTU_STATUS_INV_BUSY = 1 → GivesBy m (.ptuInvalidate m v) s fun d =>
        d.get K.PTU_STATUS_INV_REFUSED = 1 ∧ d.ptu = d0.ptu ∧ regsAndPtu d ∧
        FieldsKept d0 d [K.PTU_STATUS_INV_REFUSED, K.PTU_INV_SCOPE, K.PTU_INV_ROOT])) ∧
    (d0.ptu.inv = none → Gives .invalidationDone s fun d => d = d0) ∧
    (∀ sc root p n, d0.ptu.inv = some (sc, root, p, n) → Gives .invalidationDone s fun d =>
      d.get K.PTU_STATUS_INV_BUSY = 0 ∧ d.get K.PTU_INV_RESULT_DONE = 1 ∧ d.ptu = { d0.ptu with inv := none } ∧ regsAndPtu d ∧
      d.get K.PTU_INV_RESULT_DEFERRED =
        (d0.ptu.tlb.map fun e => e.2.countP fun t => t.stale && t.selected sc root p n).sum % 2 ^ 16 ∧
      FieldsKept d0 d [K.PTU_STATUS_INV_BUSY, K.PTU_INV_RESULT_DONE, K.PTU_INV_RESULT_DEFERRED]) ∧
    (∀ hi : Bool, Lets s m (0x101100 + 8 * q.val + if hi then 4 else 0) true →
      (active → GivesBy m (.ptuRootWrite m q hi v) s fun d =>
        d.get K.PTU_STATUS_WR_REFUSED = 1 ∧ FieldsOnly d0 d [K.PTU_STATUS_WR_REFUSED]) ∧
      (¬active → GivesBy m (.ptuRootWrite m q hi v) s fun d => regsAndPtu d ∧
        (hi = true → d.get (K.PTU_ROOT_HI q) = w % 2 ^ 16 ∧ FieldsKept d0 d [K.PTU_ROOT_HI q]) ∧
        (hi = false → d.get (K.PTU_ROOT_LO_EN q) = w % 2 ∧ d.get (K.PTU_ROOT_LO_ROOT q) = w / 2 ^ 13 ∧
          FieldsKept d0 d [K.PTU_ROOT_LO_EN q, K.PTU_ROOT_LO_ROOT q]) ∧
        ∀ g, tlb d g = (tlb d0 g).filter fun t => t.root ≠ q.val)) ∧
    (let up := if k = 0 then d0.on K.BAS_MEM_STATUS_HBM0_UP else d0.on K.BAS_MEM_STATUS_HBM1_UP
     let lease := K.BST_LEASE_HOLDER (6 + k.val) 2
     let base := hbmBase k.val + block.val * 0x4000000
     let read (e : Option (BitVec 26 × Bool)) (P : Dev → Prop) : Prop := Gives (.patrolRead k block e) s fun d =>
       d.get lease = 0 ∧ (∀ y, d.core y = d0.core y) ∧ BytesKept d0 d ∧ P d;
     (d0.inReset = true ∨ up = false ∨ d0.on K.BAS_MEM_CTRL_PATROL_EN = false ∨ d0.get lease ≠ 0 →
       ∀ e, Gives (.patrolRead k block e) s fun d => d = d0) ∧
     (d0.inReset = false → up = true → d0.on K.BAS_MEM_CTRL_PATROL_EN = true → d0.get lease = 0 →
       d0.leaseQueue (6 + k.val) 2 = [] →
       (d0.errWords base 0x4000000 = [] → read none fun d => d.get K.BAS_MEM_STATUS_CE_ANY = d0.get K.BAS_MEM_STATUS_CE_ANY ∧
         d.get K.BAS_MEM_STATUS_UE_ANY = d0.get K.BAS_MEM_STATUS_UE_ANY) ∧
       ∀ o : BitVec 26,
         (read (some (o, false)) fun d => d.get K.BAS_MEM_STATUS_CE_ANY = 1) ∧
         (read (some (o, true)) fun d => d.get K.BAS_MEM_STATUS_UE_ANY = 1 ∧
           d.get2 K.BAS_UE_ADDR_LO K.BAS_UE_ADDR_HI = base + o.toNat)))

/-- R407 to R414: CFGI transactions. OPEN gets the lease of the region's columns and engages the border, waits with QUEUE,
or ends with LEASE_BUSY and its holder; a word out of sequence sets SEQUENCE and does nothing else. DATA words are packets:
a header, an address, 256 words a frame, written at its address, each one in the region or the transaction fails with
BAD_FADDR; a SET fails with BAD_REG, a malformed packet with BAD_FORMAT. CLOSE judges the CRC, then completeness, and begins
the reload; ABORT fails the transaction; a port that CFGI_EN does not open takes nothing. -/
def Obligations.CfgiTransactions : Prop :=
  ∀ (n : Die) (w : Word) (m : Master) (s : State),
    let d0 := s.dev
    let r := w.toNat % 8
    let lease := K.BST_LEASE_HOLDER n lcFCOL
    let st (d : Dev) (g : Nat) : Nat := d.get (K.FAB_PR_STATE_STATE n g)
    let err (d : Dev) (g : Nat) : Nat := d.get (K.FAB_PR_STATE_ERR n g)
    let complete : List Fld := [K.CFG_DIE_STATUS_COMPLETE n, K.CFG_DIE_STATUS_FRAMES n, K.CFG_STATUS_ALL_COMPLETE]
    let other (d : Dev) : Prop := d = { d0 with regs := d.regs, fab := d.fab, lease := d.lease }
    let sequence (g : Nat) (d : Dev) : Prop := err d g = 2 ∧ FieldsKept d0 d (K.FAB_PR_STATE_ERR n g :: complete) ∧
      RegsOnly d0 d
    let failed (c : Cfgi) (e : Nat) (d : Dev) : Prop :=
      (∃ c', d.cfgiOf n = some c' ∧ c'.reg = c.reg ∧ c'.err = some e) ∧
      bitAt (tblGet 0 d.fab.border n) c.reg = true ∧ d.fab.frames = d0.fab.frames ∧ other d ∧
      FieldsKept d0 d (K.BST_LEASE_QUEUED n lcFCOL :: K.FAB_PR_STATE_STATE n c.reg :: complete)
    (d0.cfgiUsable n = false → ∀ i ∈ [Instr.cfgiOpen n w, .cfgiData n w, .cfgiClose n w, .cfgiAbort n],
      Gives i s fun d => d = d0) ∧
    (d0.cfgiUsable n = true →
      (d0.cfgiOf n = none →
        (d0.get lease = 0 → Gives (.cfgiOpen n w) s fun d =>
          st d r = 2 ∧ d.get lease = 0x50 + r ∧ bitAt (tblGet 0 d.fab.border n) r = true ∧
          d.cfgiOf n = some ⟨r, crcInit, none, none, [], [], none⟩ ∧ other d ∧
          FieldsKept d0 d [lease, K.BST_LEASE_ARG n lcFCOL, K.FAB_PR_STATE_STATE n r] ∧
          d.get (K.BST_LEASE_ARG n lcFCOL) =
            d0.get (K.FAB_PR_REGION_COL_FIRST n r) + 2 ^ 8 * d0.get (K.FAB_PR_REGION_COL_LAST n r)) ∧
        (d0.get lease ≠ 0 → d0.get lease < 2 ^ 8 →
          (bitAt w.toNat 8 = false → Gives (.cfgiOpen n w) s fun d =>
            err d r = 1 ∧ d.get (K.FAB_PR_STATE_HOLDER n r) = d0.get lease ∧ d.cfgiOf n = none ∧ other d ∧
            FieldsKept d0 d [K.FAB_PR_STATE_ERR n r, K.FAB_PR_STATE_HOLDER n r]) ∧
          (bitAt w.toNat 8 = true → (d0.leaseQueue n lcFCOL).length < 8 → Gives (.cfgiOpen n w) s fun d =>
            st d r = 1 ∧ (d.cfgiOf n).isSome = true ∧ d.fab.border = d0.fab.border ∧ other d ∧
            FieldsKept d0 d [K.BST_LEASE_QUEUED n lcFCOL, K.FAB_PR_STATE_STATE n r] ∧
            (d.leaseQueue n lcFCOL).map (fun p => p.1) =
              (d0.leaseQueue n lcFCOL).map (fun p => p.1) ++ [0x50 + r])) ∧
        ∀ g, tblFind d0.fab.lastReg n = some g → g < 8 →
          Gives (.cfgiData n w) s (sequence g) ∧ Gives (.cfgiClose n w) s (sequence g) ∧ Gives (.cfgiAbort n) s (sequence g)) ∧
      ∀ c, d0.cfgiOf n = some c → c.reg < 8 →
        Gives (.cfgiOpen n w) s (sequence c.reg) ∧
        (c.err = none → st d0 c.reg = 2 →
          Gives (.cfgiAbort n) s (failed c 8) ∧
          (let failsData (e : Nat) : Prop := Gives (.cfgiData n w) s (failed c e)
           let goesOn (f : Cfgi → Cfgi) : Prop := Gives (.cfgiData n w) s fun d =>
             d.cfgiOf n = some (f { c with crc := crcBytes c.crc (leBytes w.toNat 4) }) ∧
             d.fab.frames = d0.fab.frames ∧ other d ∧ FieldsKept d0 d complete
           (c.pkt = none →
             (w = 0 → goesOn id) ∧
             (w.toNat % 16 = 1 → failsData 4) ∧
             (w ≠ 0 ∧ w.toNat % 16 = 0 ∨ 5 ≤ w.toNat % 16 ∨ w.toNat % 16 ∈ [2, 3, 4] ∧
               (bitsAt w.toNat 4 4 ≠ 0 ∨ bitsAt w.toNat 8 24 = 0) → failsData 5) ∧
             (w.toNat % 16 ∈ [2, 3, 4] → bitsAt w.toNat 4 4 = 0 → bitsAt w.toNat 8 24 ≠ 0 →
               goesOn fun c => { c with pkt := some (w.toNat % 16, bitsAt w.toNat 8 24), addr := none, words := [] })) ∧
           ∀ kind k, c.pkt = some (kind, k) →
             (c.addr = none → d0.frameOfRegion n c.reg w.toNat = false → kind = 4 → 1 ≤ k → failsData 3) ∧
             (c.addr = none → kind ≠ 4 →
               (d0.frameOfRegion n c.reg w.toNat = false → failsData 3) ∧
               (d0.frameOfRegion n c.reg w.toNat = true → goesOn fun c => { c with addr := some w.toNat })) ∧
             (∀ a, c.addr = some a →
               (c.words.length < 255 → goesOn fun c => { c with words := c.words ++ [w.toNat] }) ∧
               (c.words.length = 255 → kind = 2 →
                 (d0.frameOfRegion n c.reg a = false → failsData 3) ∧
                 (d0.frameOfRegion n c.reg a = true → Gives (.cfgiData n w) s fun d =>
                   tblFind d.fab.frames a =
                     some ((c.words ++ [w.toNat]).foldr (fun w x => w + 2 ^ 32 * x) 0) ∧
                   (∀ b, b ≠ a → tblFind d.fab.frames b = tblFind d0.fab.frames b) ∧ other d ∧
                   FieldsKept d0 d (K.FAB_SCRUB_STATUS_BAD_COL n :: complete) ∧
                   ∃ c', d.cfgiOf n = some c' ∧ a ∈ c'.wrote ∧ c'.words = [] ∧
                     c'.pkt = (if k = 1 then none else some (kind, k - 1)) ∧
                     c'.addr = if k = 1 then none else some (faddrNext a))))) ∧
          (let whole := (d0.regionFrames n c.reg [0, 1]).all fun a => c.wrote.contains a
           (c.pkt ≠ none → Gives (.cfgiClose n w) s (failed c 5)) ∧
           (c.pkt = none → crcEnd c.crc ≠ w.toNat → Gives (.cfgiClose n w) s (failed c 6)) ∧
           (c.pkt = none → crcEnd c.crc = w.toNat → whole = false → Gives (.cfgiClose n w) s (failed c 7)) ∧
           (c.pkt = none → crcEnd c.crc = w.toNat → whole = true → Gives (.cfgiClose n w) s fun d =>
             st d c.reg = 4 ∧ d.fab.cfgi = d0.fab.cfgi ∧ d.fab.border = d0.fab.border ∧ other d ∧
             (∀ a ∈ d0.regionFrames n c.reg [3], ¬a ∈ c.wrote → tblGet 0 d.fab.frames a = 0) ∧
             ∀ a, (a ∈ d0.regionFrames n c.reg [3] → a ∈ c.wrote) →
               tblFind d.fab.frames a = tblFind d0.fab.frames a)))) ∧
    (Lets s m (0x470080 + 0x100000 * n.val) true → ∀ c, d0.cfgiOf n = some c → c.reg < 8 → c.err = none →
      st d0 c.reg ≠ 4 → ∀ g : Fin 8, g.val = c.reg → GivesBy m (.prAbort m n g) s (failed c 8))

/-- R413, R414, R418 to R421: regions and scrubbing. A reload done makes the region IDLE, counts it, releases its border and
its lease; a blanking done leaves every frame of the region blank, the region FAILED with its ERR and the border engaged. A
pass begins where scrubbing runs, none is in progress and PERIOD has gone by; it takes the lease of the first column it does
not skip. A column that reads as its signature says is left as it is; a single wrong bit is inverted back, and is benign
where the map's bit is 0; otherwise, and where a segment has two, FAB_UPSET_LAST names it, and a column with two wrong bits
in a segment is in error. Each upset counts. -/
def Obligations.RegionsAndScrubbing : Prop :=
  ∀ (n : Die) (flips : List (BitVec 10 × BitVec 13)) (mapFail : Bool) (s : State),
    let d0 := s.dev
    let lease := K.BST_LEASE_HOLDER n lcFCOL
    let other (d : Dev) : Prop := d = { d0 with regs := d.regs, fab := d.fab, lease := d.lease, evl := d.evl }
    let col (i : Nat) : Nat × Nat := (coveredCols.drop i).headD (0, 0)
    let upsets (d : Dev) : Nat := d.get2 (K.FAB_UPSET_LO_COUNT_LO n) (K.FAB_UPSET_HI_COUNT_HI n)
    (d0.cfgiOf n = none → Gives (.prReloadDone n) s (fun d => d = d0) ∧ Gives (.prBlankDone n) s fun d => d = d0) ∧
    (∀ c, d0.cfgiOf n = some c → c.reg < 8 →
      let st := K.FAB_PR_STATE_STATE n c.reg
      let ended (d : Dev) : Prop := d.cfgiOf n = none ∧ d.get (K.FAB_PR_STATE_HOLDER n c.reg) =
          d0.get (K.FAB_PR_STATE_HOLDER n c.reg) ∧
        (d0.get lease = prHolder c.reg → d0.leaseQueue n lcFCOL = [] → d.get lease = 0) ∧ other d
      (d0.get st ≠ 4 → Gives (.prReloadDone n) s fun d => d = d0) ∧
      (d0.get st = 4 → Gives (.prReloadDone n) s fun d =>
        d.get st = 0 ∧ d.get (K.FAB_PR_STATE_ERR n c.reg) = 0 ∧
        d.get (K.FAB_PR_STATE_DONE n c.reg) = min (d0.get (K.FAB_PR_STATE_DONE n c.reg) + 1) 65535 ∧
        bitAt (tblGet 0 d.fab.border n) c.reg = false ∧ d.fab.frames = d0.fab.frames ∧ ended d) ∧
      (c.err = none → Gives (.prBlankDone n) s fun d => d = d0) ∧
      ∀ e, c.err = some e → e < 16 → Gives (.prBlankDone n) s fun d =>
        d.get st = 5 ∧ d.get (K.FAB_PR_STATE_ERR n c.reg) = e ∧ d.fab.border = d0.fab.border ∧ ended d ∧
        (∀ a ∈ d0.regionFrames n c.reg [0, 1, 3], tblFind d.fab.frames a = none) ∧
        ∀ a, ¬a ∈ d0.regionFrames n c.reg [0, 1, 3] → tblFind d.fab.frames a = tblFind d0.fab.frames a) ∧
    (let due := ∀ t, tblFind d0.fab.scrubAt n = some t → t + 800000 * max 1 (d0.get (K.FAB_SCRUB_CTRL_PERIOD n)) ≤ d0.clock
     (d0.scrubRuns n = false ∨ d0.on (K.FAB_SCRUB_STATUS_ACTIVE n) = true ∨ ¬due →
       Gives (.scrubPassStart n) s fun d => d = d0) ∧
     (d0.scrubRuns n = true → d0.on (K.FAB_SCRUB_STATUS_ACTIVE n) = false → due → d0.get lease = 0 →
       ∀ i, i < 205 → d0.scrubSkips n (col i).1 (col i).2 = false →
       (∀ j, j < i → d0.scrubSkips n (col j).1 (col j).2 = true) →
       Gives (.scrubPassStart n) s fun d =>
         d.get (K.FAB_SCRUB_STATUS_ACTIVE n) = 1 ∧ d.get lease = scrubHolder ∧ tblFind d.fab.scrub n = some i ∧
         tblFind d.fab.scrubAt n = some d0.clock ∧ tblGet 0 d.fab.skipped n = i ∧ other d ∧
         FieldsKept d0 d [K.FAB_SCRUB_STATUS_ACTIVE n, lease, K.BST_LEASE_ARG n lcFCOL])) ∧
    (tblFind d0.fab.scrub n = none → GivesAs (3, 0x12, n.val) (.scrubColumnDone n flips mapFail) s fun d => d = d0) ∧
    ∀ i, tblFind d0.fab.scrub n = some i → i < 205 →
      (d0.scrubRuns n = false → GivesAs (3, 0x12, n.val) (.scrubColumnDone n flips mapFail) s fun d =>
        d.get (K.FAB_SCRUB_STATUS_ACTIVE n) = 0 ∧ tblFind d.fab.scrub n = none ∧ other d ∧
        d.get (K.FAB_SCRUB_STATUS_PASSES n) = d0.get (K.FAB_SCRUB_STATUS_PASSES n)) ∧
      (d0.scrubRuns n = true → d0.fab.upsets = [] → d0.fab.frames = [] → i ≤ 203 → d0.get (K.FAB_SCRUB_POL_ACTION n) = 0 →
        upsets d0 < 2 ^ 48 - 1 →
        tblGet 0 d0.fab.golden (mkFaddr n (col i).1 (col i).2 0) = d0.signature n (col i).1 (col i).2 →
        let at' (f : BitVec 10) : Nat := mkFaddr n (col i).1 (col i).2 f.toNat
        let covered (f : BitVec 10) : Prop := at' f ∈ d0.coveredFrames n (col i).1 (col i).2
        let shows (f : BitVec 10) (l : List Nat) : Prop :=
          { d0 with fab := { d0.fab with upsets := [(at' f, l)] } }.signature n (col i).1 (col i).2 ≠
            d0.signature n (col i).1 (col i).2
        (flips = [] → GivesAs (3, 0x12, n.val) (.scrubColumnDone n flips mapFail) s fun d =>
          d.fab.upsets = [] ∧ upsets d = upsets d0 ∧ d.get (K.FAB_UPSET_LAST_CLASS n) = d0.get (K.FAB_UPSET_LAST_CLASS n) ∧
          d.evl = d0.evl ∧ other d) ∧
        (∀ f b, covered f → flips = [(f, b)] → shows f [b.toNat] →
          let crit := d0.critical n (at' f) mapFail [b.toNat]
          GivesAs (3, 0x12, n.val) (.scrubColumnDone n flips mapFail) s fun d =>
            d.fab.upsets = [] ∧ upsets d = upsets d0 + 1 ∧
            (crit = true → d.get (K.FAB_UPSET_LAST_FADDR n) = at' f ∧ d.get (K.FAB_UPSET_LAST_CLASS n) = 1 ∧
              d.get (K.FAB_SCRUB_STATUS_CRIT_SEEN n) = 1) ∧
            (crit = false → d.get (K.FAB_UPSET_LAST_CLASS n) = d0.get (K.FAB_UPSET_LAST_CLASS n) ∧
              d.get (K.FAB_SCRUB_STATUS_CRIT_SEEN n) = d0.get (K.FAB_SCRUB_STATUS_CRIT_SEEN n)) ∧ other d) ∧
        ∀ f b c, covered f → flips = [(f, b), (f, c)] → b ≠ c → b.toNat / 512 = c.toNat / 512 →
          shows f [b.toNat, c.toNat] →
          GivesAs (3, 0x12, n.val) (.scrubColumnDone n flips mapFail) s fun d =>
            upsets d = upsets d0 + 1 ∧ d.get (K.FAB_UPSET_LAST_FADDR n) = at' f ∧ d.get (K.FAB_UPSET_LAST_CLASS n) = 2 ∧
            d.get (K.FAB_SCRUB_STATUS_CRIT_SEEN n) = 1 ∧ d.get (K.FAB_SCRUB_STATUS_BAD_COL n) = 1 ∧
            tblGet [] d.fab.upsets (at' f) = [b.toNat, c.toNat] ∧ mkFaddr n (col i).1 (col i).2 0 ∈ d.fab.bad ∧ other d)

/-- R482, R484, R486, R490, R492, R495: roles, ports and status upstream. A write of CAS_CTRL takes a role that agrees with
the strap, else ROLE_REFUSED is set and the write ignored. A port that comes UP with a confirmed role makes UP_OK or DN_OK,
and a follower's CAS_HOP. A device with a position inserts its status slot; the lead keeps each slot it receives, presents
its position, and raises source 0 when an alarm appears; a position missing from three frames is marked absent. -/
def Obligations.CascadeRolesAndStatus : Prop :=
  ∀ (m : Master) (v : Word) (port : Fin 2) (hop : BitVec 20) (slots : List (Fin 16 × BitVec 4)) (p : Fin 16) (s : State),
    let d0 := s.dev
    let w := v.toNat
    let role := bitsAt w 0 2
    let agrees : Prop := role = 0 ∨ role = 1 ∧ d0.fuses.leadSel = true ∨ role = 2 ∧ d0.fuses.leadSel = false
    let ports (d : Dev) : Prop :=
      (d.on K.CAS_STATUS_UP_OK ↔ bitAt d.cas.ports d.upPort = true) ∧
      (d.on K.CAS_STATUS_DN_OK ↔ bitAt d.cas.ports (1 - d.upPort) = true)
    let still (d : Dev) (l : List Fld) : Prop := FieldsKept d0 d l ∧ d = { d0 with regs := d.regs, cas := d.cas, time := d.time }
    let alarm (d : Dev) : Prop := ∃ q, q < 16 ∧ d.bitOf K.CAS_PRESENT_PRESENT q = true ∧ d.on (K.CAS_POS_STATUS_ALARM q) = true
    let upOk := K.CAS_STATUS_UP_OK
    let dnOk := K.CAS_STATUS_DN_OK
    (Lets s m 0x50004 true → d0.get K.CAS_CTRL_CAS_LOCK = 0 →
      (agrees → GivesBy m (.roleWrite m v) s fun d =>
        d.roleIs role = true ∧ d.get K.CAS_CTRL_UP_PORT = bitsAt w 2 1 ∧ d.get K.CAS_CTRL_DN_EN = bitsAt w 3 1 ∧
        d.get K.CAS_CTRL_RING = bitsAt w 4 1 ∧ d.on K.CAS_CTRL_CAS_LOCK = bitAt w 31 ∧ ports d ∧ RegsOnly d0 d ∧
        (d0.roleIs role = false → d.get K.CAS_STATUS_POSITION = 0 ∧ (d.on K.CAS_STATUS_POS_VALID ↔ role ≠ 2)) ∧
        (d0.roleIs role = true → d.get K.CAS_STATUS_POSITION = d0.get K.CAS_STATUS_POSITION ∧
          d.get K.CAS_STATUS_POS_VALID = d0.get K.CAS_STATUS_POS_VALID) ∧
        FieldsKept d0 d [K.CAS_CTRL_ROLE, K.CAS_CTRL_UP_PORT, K.CAS_CTRL_DN_EN, K.CAS_CTRL_RING, K.CAS_CTRL_CAS_LOCK, upOk, dnOk,
          K.CAS_STATUS_ROLE_OK, K.CAS_STATUS_POSITION, K.CAS_STATUS_POS_VALID]) ∧
      (¬agrees → GivesBy m (.roleWrite m v) s fun d =>
        d.get K.CAS_STATUS_ROLE_REFUSED = 1 ∧ FieldsOnly d0 d [K.CAS_STATUS_ROLE_REFUSED])) ∧
    (d0.get K.CAS_STATUS_ROLE_OK = 0 → Gives (.portUp port hop) s fun d => d = d0) ∧
    (d0.get K.CAS_STATUS_ROLE_OK = 1 → Gives (.portUp port hop) s fun d =>
      (∀ q, bitAt d.cas.ports q = if q = port then true else bitAt d0.cas.ports q) ∧ ports d ∧
      (d0.get K.CAS_CTRL_ROLE = 2 → d0.upPort = port → d.get K.CAS_HOP = hop.toNat) ∧
      (d0.get K.CAS_CTRL_ROLE ≠ 2 ∨ d0.upPort ≠ port → d.get K.CAS_HOP = d0.get K.CAS_HOP) ∧ still d [upOk, dnOk, K.CAS_HOP]) ∧
    (Gives .downstreamPortDown s fun d =>
      d.get dnOk = 0 ∧ (∀ q, bitAt d.cas.ports q = if q = 1 - d0.upPort then false else bitAt d0.cas.ports q) ∧
      still d [upOk, dnOk]) ∧
    (let sends := d0.get K.CAS_STATUS_ROLE_OK = 1 ∧ d0.get K.CAS_STATUS_POS_VALID = 1 ∧ d0.get K.CAS_CTRL_ROLE ≠ 0
     let own (d : Dev) : Prop := d.cas.slot = some (bit d0.alarm + 2 * bit (d0.get K.DEV_MODE_MODE = 5) +
       4 * bit (d0.on K.TIM_STATUS_TIME_UNSURE) + 8 * bit (d0.on K.TIM_STATUS_HOLDOVER));
     (d0.get K.CAS_STATUS_ROLE_OK = 0 ∨ d0.get K.CAS_STATUS_POS_VALID = 0 ∨ d0.get K.CAS_CTRL_ROLE = 0 →
       Gives .statusSlot s fun d => d = d0) ∧
     (sends → d0.get K.CAS_CTRL_ROLE = 2 → Gives .statusSlot s fun d => own d ∧ d = { d0 with cas := d.cas }) ∧
     (sends → d0.get K.CAS_CTRL_ROLE = 1 → Gives .statusSlot s fun d => own d ∧
       d.bitOf K.CAS_PRESENT_PRESENT 0 = true ∧ (d.on (K.CAS_POS_STATUS_ALARM 0) ↔ d0.alarm = true) ∧
       (d.on K.CAS_STATUS_ALARM_ANY ↔ alarm d) ∧ (d0.alarm = true → d0.get K.CAS_STATUS_ALARM_ANY = 0 →
         d.bitOf K.HST_IRQ_PEND 0 = true))) ∧
    (d0.roleIs 1 = false → Gives (.upstreamFrame slots) s (fun d => d = d0) ∧ Gives (.followerAbsent p) s fun d => d = d0) ∧
    (d0.roleIs 1 = true →
      ((slots.map fun x => x.1).Nodup → Gives (.upstreamFrame slots) s fun d =>
        (∀ x ∈ slots, x.1 ≠ 0 → d.bitOf K.CAS_PRESENT_PRESENT x.1 = true ∧ tblGet 0 d.cas.missing x.1 = 0 ∧
          (d.on (K.CAS_POS_STATUS_ALARM x.1) ↔ bitAt x.2.toNat 0 = true) ∧
          (d.on (K.CAS_POS_STATUS_SAFE x.1) ↔ bitAt x.2.toNat 1 = true) ∧
          (d.on (K.CAS_POS_STATUS_TIME_UNSURE x.1) ↔ bitAt x.2.toNat 2 = true) ∧
          (d.on (K.CAS_POS_STATUS_HOLDOVER x.1) ↔ bitAt x.2.toNat 3 = true)) ∧
        (∀ q : Fin 16, q ≠ 0 → (¬∃ x ∈ slots, x.1 = q) →
          d.bitOf K.CAS_PRESENT_PRESENT q = d0.bitOf K.CAS_PRESENT_PRESENT q ∧
          tblGet 0 d.cas.missing q =
            tblGet 0 d0.cas.missing q + if d0.bitOf K.CAS_PRESENT_PRESENT q = true then 1 else 0) ∧
        (d.on K.CAS_STATUS_ALARM_ANY ↔ alarm d) ∧
        (alarm d → d0.get K.CAS_STATUS_ALARM_ANY = 0 → d.bitOf K.HST_IRQ_PEND 0 = true) ∧ BytesKept d0 d) ∧
      (p ≠ 0 → d0.bitOf K.CAS_PRESENT_PRESENT p = true →
        3 ≤ tblGet 0 d0.cas.missing p ∨ bitAt d0.cas.ports (1 - d0.upPort) = false →
        Gives (.followerAbsent p) s fun d =>
          d.bitOf K.CAS_PRESENT_PRESENT p = false ∧ d.bitOf K.CAS_PRESENT_ABSENT_SEEN p = true ∧
          (∀ q : Fin 16, q ≠ p → d.bitOf K.CAS_PRESENT_PRESENT q = d0.bitOf K.CAS_PRESENT_PRESENT q ∧
            d.bitOf K.CAS_PRESENT_ABSENT_SEEN q = d0.bitOf K.CAS_PRESENT_ABSENT_SEEN q) ∧
          (∃ r, tblFind d.evl.slots (unitKey dieHD blkCAS * 4096 + 0x015) = some r) ∧
          (d.on K.CAS_STATUS_ALARM_ANY ↔ alarm d) ∧
          (let fires := d0.get K.CAS_POLICY_STOP_ALL = 1 ∧ d0.get K.CAS_POLICY_STOP_ALL_FIRED = 0
           (fires → d.get K.CAS_POLICY_STOP_ALL_FIRED = 1 ∧ d.cas.flight = some (d0.tti + d0.get K.CAS_CMD_LEAD)) ∧
           (¬fires → d.cas.flight = d0.cas.flight ∧ d.cas.cmds = d0.cas.cmds)) ∧ BytesKept d0 d))

/-- R485, R486, R489, R491, R494, R122: time and commands on the String. A frame by the port that carries the time that
agrees with the local count keeps it, ends a holdover and brings the next second mark; one that disagrees sets TTI_MISMATCH,
makes time unsure and stops every Running site; its HOLDOVER flag, 1.5 µs of silence or a lost block lock begins holdover
with its deadline, at which time is unsure and Admitted and Running sites stop. A write of CAS_CMD sends a command, or says
NOT_LEAD, BAD_OP or BUSY; a command that names this device waits for its EXEC_TTI and is then applied. -/
def Obligations.StringTimeAndCommands : Prop :=
  ∀ (m : Master) (port : Fin 2) (f : TimeFrame) (op : BitVec 3) (pos : BitVec 16) (sites exec : BitVec 64) (s : State),
    let d0 := s.dev
    let up := bitAt d0.cas.ports port
    let frame (P : Dev → Prop) : Prop := GivesAs (3, 0x0E, port.val) (.timeFrame port f) s P
    let still (d : Dev) : Prop := (∀ y, d.core y = d0.core y) ∧ BytesKept d0 d
    let ownDeadline := d0.tti + 800 * d0.get K.CAS_HOLD_LIM
    let begun (t : Nat) (d : Dev) : Prop := d.get K.TIM_STATUS_HOLDOVER = 1 ∧ d.get K.CAS_STATUS_UPSTREAM_LOST = 1 ∧
      d.get K.CLK_STATUS_REF_SRC = 0 ∧ d.get K.CLK_STATUS_REF_OK = 0 ∧ d.cas.deadline = some t ∧ d.time.tti = d0.time.tti ∧
      d.get K.TIM_STATUS_TIME_UNSURE = d0.get K.TIM_STATUS_TIME_UNSURE ∧ d.sites = d0.sites ∧ still d
    let carries := d0.get K.TIM_STATUS_SRC_ACTIVE = port.val + 1 ∧ d0.get K.TIM_STATUS_LOCKED = 1
    let calm := d0.get K.TIM_STATUS_HOLDOVER = 0
    let timeLost (d : Dev) : Prop := d.get K.TIM_STATUS_TIME_UNSURE = 1 ∧ d.get K.TIM_STATUS_LOCKED = 0 ∧
      d.get K.TIM_STATUS_HOLDOVER = 0 ∧ d.cas.deadline = none
    let stops (l : List Nat) (d : Dev) : Prop := ∀ i, i < 64 →
      (d0.siteState i ∈ l → d0.siteState i = 2 → d0.stopGiven i = false →
        d.get (K.SITE_CAUSE i) = 0x0E ∧ (d.site i).req = some (0x0E, d0.clock)) ∧
      (¬d0.siteState i ∈ l → d.get (K.SITE_CAUSE i) = d0.get (K.SITE_CAUSE i) ∧ d.site i = d0.site i)
    let narrow := ∀ p ∈ d0.sched.links, p.1 < 6 * 256
    (up = false → frame fun d => d = d0) ∧
    (up = true → d0.get K.CAS_STATUS_ROLE_OK = 1 → d0.get K.CAS_CTRL_ROLE = 1 → d0.get K.TIM_CTRL_SRC ≠ port.val + 1 →
      (f.pos = 0 → frame fun d => d.get K.CAS_STATUS_DUAL_LEAD = 1 ∧ FieldsKept d0 d [K.CAS_STATUS_DUAL_LEAD] ∧
        (tblFind d.evl.slots (unitKey dieHD blkCAS * 4096 + 0x016)).isSome = true ∧
        d = { d0 with regs := d.regs, evl := d.evl }) ∧
      (f.pos ≠ 0 → d0.get K.CAS_CTRL_RING = 1 → frame fun d =>
        (d.on K.CAS_STATUS_RING_OK ↔ f.tti.toNat = d0.tti) ∧ FieldsOnly d0 d [K.CAS_STATUS_RING_OK]) ∧
      (f.pos ≠ 0 → d0.get K.CAS_CTRL_RING = 0 → frame fun d => d = d0)) ∧
    (up = true → d0.roleIs 2 = true → d0.upPort = port → d0.get K.TIM_STATUS_SRC_ACTIVE ≠ port.val + 1 →
      (f.pos = 15 → frame fun d => d.get K.CAS_STATUS_OVERFLOW = 1 ∧ d.get K.CAS_STATUS_POS_VALID = 0 ∧
        FieldsOnly d0 d [K.CAS_STATUS_OVERFLOW, K.CAS_STATUS_POS_VALID]) ∧
      (f.pos ≠ 15 → frame fun d => d.get K.CAS_STATUS_POSITION = f.pos.toNat + 1 ∧ d.get K.CAS_STATUS_POS_VALID = 1 ∧
        FieldsOnly d0 d [K.CAS_STATUS_POSITION, K.CAS_STATUS_POS_VALID])) ∧
    (up = true → d0.roleIs 2 = true → d0.upPort = port → carries → (d0.inject 0x08 fun u _ => u == port.val) = none → f.pos ≠ 15 →
      (f.tti.toNat = d0.tti → f.hold = none → frame fun d =>
        d.get K.TIM_STATUS_HOLDOVER = 0 ∧ d.cas.lastFrame = some d0.clock ∧ d.get K.CAS_STATUS_POSITION = f.pos.toNat + 1 ∧
        d.get K.TIM_STATUS_TIME_UNSURE = d0.get K.TIM_STATUS_TIME_UNSURE ∧
        (d0.get K.TIM_STATUS_HOLDOVER = 1 → d.get K.CLK_STATUS_REF_SRC = port.val + 2 ∧ d.get K.CLK_STATUS_REF_OK = 1 ∧
          d.cas.deadline = none) ∧
        d.time.linkMark = (match f.mark with
          | some (t, sec) => some (t.toNat, sec.toNat)
          | none => d0.time.linkMark) ∧ d.sites = d0.sites ∧ still d) ∧
      (f.tti.toNat = d0.tti → calm → ∀ t, f.hold = some t → frame (begun t.toNat)) ∧
      (f.tti.toNat ≠ d0.tti → frame fun d => d.get K.TIM_STATUS_TTI_MISMATCH = 1 ∧ timeLost d ∧ stops [2] d ∧
        d.time.tti = d0.time.tti ∧ still d)) ∧
    (up = false → Gives (.blockLockLoss port) s fun d => d = d0) ∧
    (up = true → Gives (.blockLockLoss port) s fun d => bitAt d.cas.ports port = false ∧ still d) ∧
    (up = true → carries → calm → Gives (.blockLockLoss port) s (begun ownDeadline)) ∧
    (carries → calm → (∃ t, d0.cas.lastFrame = some t ∧ t + 1200 ≤ d0.clock) → Gives .timeFrameSilence s (begun ownDeadline)) ∧
    ((∀ t, d0.cas.lastFrame = some t → d0.clock < t + 1200) → Gives .timeFrameSilence s fun d => d = d0) ∧
    ((∀ t, d0.cas.deadline = some t → d0.tti < t) ∨ d0.get K.TIM_STATUS_HOLDOVER = 0 →
      GivesAs (3, 0x0E, 0) .holdoverDeadline s fun d => d = d0) ∧
    (narrow → d0.get K.TIM_STATUS_HOLDOVER = 1 → (∃ t, d0.cas.deadline = some t ∧ t ≤ d0.tti) →
      GivesAs (3, 0x0E, 0) .holdoverDeadline s fun d => timeLost d ∧ stops [1, 2] d ∧ still d) ∧
    (let arrival (P : Dev → Prop) : Prop := Gives (.stringCommandArrival port op pos sites exec) s P
     let named (mask : Nat) : Prop := d0.get K.CAS_STATUS_POS_VALID = 1 ∧ bitAt mask (d0.get K.CAS_STATUS_POSITION) = true
     (up = true → d0.upPort = port → d0.get K.CAS_STATUS_ROLE_OK = 1 →
       (named pos.toNat → arrival fun d => d = { d0 with cas := { d0.cas with cmds := d0.cas.cmds ++
         [⟨port, op.toNat, sites.toNat, exec.toNat, decide (exec.toNat < d0.tti)⟩] } }) ∧
       (¬named pos.toNat → d0.get K.CAS_STATUS_POS_VALID < 2 → arrival fun d => d = d0)) ∧
     (up = false ∨ d0.upPort ≠ port ∨ d0.get K.CAS_STATUS_ROLE_OK = 0 → arrival fun d => d = d0) ∧
     (Lets s m 0x50020 true →
       let result (r : Nat) (d : Dev) : Prop := d.get K.CAS_CMD_RESULT = r ∧ FieldsKept d0 d [K.CAS_CMD_RESULT]
       let at' := d0.tti + d0.get K.CAS_CMD_LEAD
       let sent (o : Nat) (d : Dev) : Prop := result 1 d ∧ d = { d0 with regs := d.regs, cas := d.cas } ∧
         d.cas.flight = some at' ∧ d.cas.cmds = d0.cas.cmds ++
           if d0.named (d0.get K.CAS_CMD_POS) = true then
             [⟨2, o, d0.get2 K.CAS_CMD_SITES_LO K.CAS_CMD_SITES_HI, at', false⟩] else []
       let turned (r : Nat) : Prop := ∀ c ∈ [Instr.stringNop m, .stringStop m, .stringPark m],
         GivesBy m c s fun d => result r d ∧ RegsOnly d0 d
       (d0.roleIs 1 = false → turned 2 ∧ GivesBy m (.stringBadOp m op) s fun d => result 2 d ∧ RegsOnly d0 d) ∧
       (d0.roleIs 1 = true →
         (3 ≤ op.toNat → GivesBy m (.stringBadOp m op) s fun d => result 4 d ∧ RegsOnly d0 d) ∧
         ((∃ t, d0.cas.flight = some t ∧ d0.tti < t) → turned 3) ∧
         ((∀ t, d0.cas.flight = some t → t ≤ d0.tti) →
           GivesBy m (.stringNop m) s (sent 0) ∧ GivesBy m (.stringStop m) s (sent 1) ∧ GivesBy m (.stringPark m) s (sent 2))))) ∧
    ((∀ c ∈ d0.cas.cmds, d0.tti < c.exec) → Gives .stringCommandExec s fun d => d = d0) ∧
    ∀ x l, d0.cas.cmds = x :: l → x.port = 0 → x.exec ≤ d0.tti →
      let run (P : Dev → Prop) : Prop := GivesAs (2, x.op, 0) .stringCommandExec s fun d =>
        d.cas.cmds = l ∧ d.cas.late = x.late ∧ still d ∧ P d
      (x.op = 0 → run fun d => d = { d0 with cas := d.cas }) ∧
      (x.op = 1 ∨ x.op = 2 → narrow → run fun d => ∀ i, i < 64 → bitAt x.sites i = true →
        d0.siteState i = 2 → d0.stopGiven i = false →
          d.get (K.SITE_CAUSE i) = 0x10 ∧ (d.site i).req = some (0x10, d0.clock) ∧
          (x.op = 2 → d.get (K.SITE_PARK_PEND i) = 1 ∧ d.get (K.SITE_RESUME_PEND i) = 0))

/-- R496, R497, R501, R512: the PCIe functions and MSI-X. A configuration request is served while the link is up: VF_EN, the
MSI-X enables and masks, and the Mask bit of a vector of the function; a link-down, a hot reset or a PF FLR resets the HST
block and MSI-X and writes a class A record and changes nothing else; a VF FLR halts its channels and clears its time
snapshots; the link's speed and width show. An unmasked vector sends the one message that waits for it; enabling the map
of a pending source sends one message, or keeps it in the Pending Bits while the vector cannot send. -/
def Obligations.PcieFunctionsAndMessages : Prop :=
  ∀ (m : Master) (f : Fin 3) (r : CfgReq) (v : BitVec 6) (e k : Bool) (i : Fin 32) (x : Fin 2) (speed width : Fin 5) (s : State),
    let d0 := s.dev
    let served := d0.inReset = false ∧ d0.get K.HST_STATUS_LINK_UP = 1
    let msix (d : Dev) : Prop := d = { d0 with msix := d.msix }
    let quiet := d0.msix.pba = 0
    (d0.inReset = true ∨ d0.get K.HST_STATUS_LINK_UP = 0 → Gives (.configRequest f r) s fun d => d = d0) ∧
    (served →
      Gives (.configRequest f .plain) s (fun d => d = d0) ∧
      (∀ w : BitVec 2,
        (f = 0 → Gives (.configRequest f (.vfEnable w)) s fun d =>
          d.get K.HST_STATUS_VF_EN = w.toNat ∧ FieldsOnly d0 d [K.HST_STATUS_VF_EN]) ∧
        (f ≠ 0 → Gives (.configRequest f (.vfEnable w)) s fun d => d = d0)) ∧
      (Gives (.configRequest f (.msix e k)) s fun d => msix d ∧ d.msix.vmask = d0.msix.vmask ∧
        (∀ g : Nat, bitAt d.msix.enable g = (if g = f then e else bitAt d0.msix.enable g) ∧
          bitAt d.msix.fmask g = if g = f then k else bitAt d0.msix.fmask g) ∧ (quiet → d.msix.sent = d0.msix.sent)) ∧
      (vecFunction v.toNat = f.val → Gives (.configRequest f (.vector v k)) s fun d => msix d ∧
        (∀ g : Nat, bitAt d.msix.vmask g = if g = v.toNat then k else bitAt d0.msix.vmask g) ∧
        d.msix.enable = d0.msix.enable ∧ d.msix.fmask = d0.msix.fmask ∧ (quiet → d.msix.sent = d0.msix.sent)) ∧
      (vecFunction v.toNat ≠ f.val → Gives (.configRequest f (.vector v k)) s fun d => d = d0)) ∧
    (∀ p ∈ [(Instr.pcieLinkDown, 0), (.hotReset, 1), (.pfFlr, 2)],
      (d0.inReset = true → Gives p.1 s fun d => d = d0) ∧
      (d0.inReset = false → Gives p.1 s fun d =>
        (∀ g : Fld, 0x90000 * 8 ≤ g.key → g.key < 0xA0000 * 8 → d.get g = g.rst) ∧
        (∀ g : Fld, g.key < 0x90000 * 8 ∨ 0xA0000 * 8 ≤ g.key → d.get g = d0.get g) ∧
        d.msix = { sent := d0.msix.sent } ∧ d = { d0 with regs := d.regs, msix := d.msix, evl := d.evl } ∧
        (tblFind d0.evl.slots (unitKey dieHD blkHST * 4096 + 0x014) = none →
          (tblFind d.evl.slots (unitKey dieHD blkHST * 4096 + 0x014)).map (fun y => y.data) = some p.2))) ∧
    (d0.inReset = false →
      (Gives (.pcieLinkUp speed width) s fun d => d.get K.HST_STATUS_LINK_UP = 1 ∧
        d.get K.HST_STATUS_SPEED = speed.val + 1 ∧ d.get K.HST_STATUS_WIDTH = 2 ^ width.val ∧
        FieldsOnly d0 d [K.HST_STATUS_LINK_UP, K.HST_STATUS_SPEED, K.HST_STATUS_WIDTH]) ∧
      (Gives (.vfFlr x) s fun d =>
        (∀ c, c < 16 → d.get (K.HST_DMA_STATUS_HALTED c) =
          if d0.dmaOwner c = x.val + 1 then 1 else d0.get (K.HST_DMA_STATUS_HALTED c)) ∧
        (∀ a, 0x40000 ≤ a → a < 0x50000 →
          tblGet 0 d.snaps (snapKey (if x = 0 then .vf0 else .vf1) a) = 0) ∧
        (∀ y, masterIx y ≠ x.val + 2 → ∀ a, a < 2 ^ 24 → tblGet 0 d.snaps (snapKey y a) = tblGet 0 d0.snaps (snapKey y a)) ∧
        d = { d0 with regs := d.regs, snaps := d.snaps, time := { d0.time with tod := d.time.tod } } ∧
        FieldsKept d0 d ((List.range 16).map fun c => K.HST_DMA_STATUS_HALTED c)) ∧
      ((∀ u, bitAt d0.msix.pba u = true → u = v.toNat) →
        (bitAt d0.msix.pba v.toNat = true → d0.vecWaits v.toNat = true → bitAt d0.msix.enable (vecFunction v.toNat) = true →
          bitAt d0.msix.fmask (vecFunction v.toNat) = false → Gives (.msixUnmask v) s fun d =>
            d.msix.sent = v.toNat :: d0.msix.sent ∧ bitAt d.msix.pba v.toNat = false ∧ bitAt d.msix.vmask v.toNat = false ∧
            msix d) ∧
        (bitAt d0.msix.pba v.toNat = false → Gives (.msixUnmask v) s fun d =>
          d.msix.sent = d0.msix.sent ∧ msix d ∧
          ∀ u, bitAt d.msix.vmask u = if u = v.toNat then false else bitAt d0.msix.vmask u))) ∧
    (Lets s m (0x90080 + 4 * i.val) true →
      (i = 0 → GivesBy m (.irqMapEnable m i v) s fun d => d = d0) ∧
      (i ≠ 0 →
        let map := [K.HST_IRQ_MAP_VEC i, K.HST_IRQ_MAP_EN i]
        let mapped (d : Dev) : Prop := d.get (K.HST_IRQ_MAP_VEC i) = v.toNat ∧ d.get (K.HST_IRQ_MAP_EN i) = 1 ∧
          FieldsKept d0 d map ∧ d = { d0 with regs := d.regs, msix := d.msix }
        let sends := bitAt d0.msix.enable (vecFunction v.toNat) = true ∧ bitAt d0.msix.vmask v.toNat = false ∧
          bitAt d0.msix.fmask (vecFunction v.toNat) = false
        (d0.bitOf K.HST_IRQ_PEND i = false → GivesBy m (.irqMapEnable m i v) s fun d =>
          mapped d ∧ d.msix.sent = d0.msix.sent) ∧
        (d0.bitOf K.HST_IRQ_PEND i = true → d0.get (K.HST_IRQ_MAP_EN i) = 0 →
          (sends → GivesBy m (.irqMapEnable m i v) s fun d => mapped d ∧ d.msix.sent = v.toNat :: d0.msix.sent) ∧
          (¬sends → GivesBy m (.irqMapEnable m i v) s fun d => mapped d ∧ d.msix.sent = d0.msix.sent ∧
            bitAt d.msix.pba v.toNat = true))))

/-- R426, R428, R498, R502 to R504: DMA and the flash window of the PF. A descriptor at HEAD is judged, malformed BAD_DESC,
CFG of a VF CFG_REFUSED, an address outside what Table 3 and the window grant DEV_ADDR, and the channel halts; a good one
moves its bytes, HEAD advances modulo RING_SIZE, IRQ raises the channel's source; a failed read of it, or an error of either
side, halts the channel with HEAD at it. HALTED clears with a write of one, ABORT halts with ABORTED. -/
def Obligations.DmaAndFlashWindow : Prop :=
  ∀ (m : Master) (c : Fin 16) (v : BitVec 16) (w : DmaDesc) (data : List Byte) (err : Fin 3) (off : BitVec 24) (n : BitVec 4)
    (s : State),
    let d0 := s.dev
    let x := w.ctl.toNat
    let len := x % 2 ^ 24
    let toHost := bitAt x 32
    let head := d0.get (K.HST_DMA_HEAD c)
    let busy := d0.inReset = false ∧ d0.get (K.HST_DMA_CTRL_EN c) = 1 ∧ d0.get (K.HST_DMA_STATUS_HALTED c) = 0 ∧
      head % 2 ^ d0.get (K.HST_DMA_SIZE c) ≠ d0.get (K.HST_DMA_TAIL c) % 2 ^ d0.get (K.HST_DMA_SIZE c)
    let halts (e : Nat) (d : Dev) : Prop := d.get (K.HST_DMA_STATUS_HALTED c) = 1 ∧ d.get (K.HST_DMA_STATUS_ERR c) = e ∧
      d.get (K.HST_DMA_HEAD c) = head ∧ d.bitOf K.HST_IRQ_PEND (16 + c) = true
    let quiet (d : Dev) : Prop := d = { d0 with regs := d.regs, msix := d.msix }
    let next (d : Dev) : Prop := d.get (K.HST_DMA_HEAD c) = (head + 1) % 2 ^ d0.get (K.HST_DMA_SIZE c) ∧
      d.get (K.HST_DMA_STATUS_HALTED c) = 0 ∧ (bitAt x 33 = true → d.bitOf K.HST_IRQ_PEND (16 + c) = true) ∧
      (bitAt x 33 = false → d.get K.HST_IRQ_PEND = d0.get K.HST_IRQ_PEND ∧ d.msix = d0.msix)
    let malformed := bitsAt x 24 8 ≠ 0 ∨ bitsAt x 36 28 ≠ 0 ∨ w.rest ≠ 0 ∨ len % 4 ≠ 0 ∨ len = 0 ∨ bitAt x 35 = true ∧ toHost = true
    let owner := d0.dmaOwner c
    (¬busy → d0.get (K.HST_DMA_CTRL_EN c) < 2 → d0.get (K.HST_DMA_STATUS_HALTED c) < 2 →
      Gives (.descriptorComplete c (some w) data err) s fun d => d = d0) ∧
    (busy → d0.get (K.HST_DMA_SIZE c) ≤ 16 →
      Gives (.descriptorComplete c none data err) s (fun d => halts 1 d ∧ quiet d) ∧
      (malformed → Gives (.descriptorComplete c (some w) data err) s fun d => halts 2 d ∧ quiet d) ∧
      (¬malformed →
        (bitAt x 35 = true → owner ≠ 0 → Gives (.descriptorComplete c (some w) data err) s fun d => halts 6 d ∧ quiet d) ∧
        (bitAt x 35 = false →
          let a := if toHost = true then w.src.toNat else w.dst.toNat
          (d0.dmaRange owner a len (!toHost) = false →
            Gives (.descriptorComplete c (some w) data err) s fun d => halts 3 d ∧ quiet d) ∧
          (d0.dmaRange owner a len (!toHost) = true →
            (toHost = true → err = 0 → Answers (.descriptorComplete c (some w) data err) s (d0.peekNum a len) fun d =>
              next d ∧ quiet d) ∧
            (toHost = false → err = 0 → data.length = len → inMemory a → Memory.wf d0 = true →
              Gives (.descriptorComplete c (some w) data err) s fun d =>
                next d ∧ Stored d0 d a len (leNum data) ∧ ∀ y, d.core y = d0.core y) ∧
            (toHost = false → err ≠ 0 → data.length ≤ len → inMemory a → Memory.wf d0 = true →
              Gives (.descriptorComplete c (some w) data err) s fun d =>
                halts (if err = 1 then 4 else 5) d ∧ Stored d0 d a data.length (leNum data)) ∧
            (toHost = true → err ≠ 0 → ∃ d b, exec (.descriptorComplete c (some w) data err) s =
              .next { s with dev := d, answer := some b } ∧ halts (if err = 1 then 4 else 5) d ∧ BytesKept d0 d))))) ∧
    (Lets s m (0x9100C + 64 * c.val) true → GivesBy m (.dmaTailWrite m c v) s fun d =>
      d.get (K.HST_DMA_TAIL c) = v.toNat ∧ FieldsOnly d0 d [K.HST_DMA_TAIL c]) ∧
    (Lets s m (0x91018 + 64 * c.val) true →
      (d0.get (K.HST_DMA_STATUS_HALTED c) = 1 → GivesBy m (.dmaResume m c) s fun d =>
        d.get (K.HST_DMA_STATUS_HALTED c) = 0 ∧ d.get (K.HST_DMA_STATUS_ERR c) = 0 ∧
        FieldsOnly d0 d [K.HST_DMA_STATUS_HALTED c, K.HST_DMA_STATUS_ERR c]) ∧
      (d0.get (K.HST_DMA_STATUS_HALTED c) = 0 → GivesBy m (.dmaResume m c) s fun d => d = d0)) ∧
    (Lets s m (0x91014 + 64 * c.val) true → GivesBy m (.dmaAbort m c) s fun d => halts 7 d ∧ quiet d ∧
      FieldsKeptBut d0 d (0x91014 + 64 * c.val)
        [K.HST_DMA_STATUS_HALTED c, K.HST_DMA_STATUS_ERR c, K.HST_IRQ_PEND]) ∧
    (let o := off.toNat
     let k := n.toNat
     let ones : Nat := 2 ^ (8 * k) - 1
     let xo : Prop := ∃ i ∈ sectorsOf o k, d0.xoSector i = true
     (d0.inReset = true ∨ flashSize < o + k → ∀ ecc, Answers (.flashBarRead off n ecc) s ones fun d => d = d0) ∧
     (d0.inReset = false → o + k ≤ flashSize →
       (d0.get K.FLC_STATUS_OP_ACTIVE = 1 → ∀ ecc, Answers (.flashBarRead off n ecc) s ones fun d =>
         d.get K.FLC_STATUS_RD_REFUSED = 1 ∧ FieldsOnly d0 d [K.FLC_STATUS_RD_REFUSED]) ∧
       (d0.get K.FLC_STATUS_OP_ACTIVE = 0 → xo → ∀ ecc, Answers (.flashBarRead off n ecc) s 0 fun d =>
         d.get K.FLC_STATUS_XO_VIOL = 1 ∧ (FieldsKept d0 d [K.FLC_STATUS_XO_VIOL, K.EVL_B_LOST_LO_COUNT_LO,
           K.EVL_B_LOST_HI_COUNT_HI, K.EVL_B_LOST_HI_OVF]) ∧ d.flash = d0.flash) ∧
       (d0.get K.FLC_STATUS_OP_ACTIVE = 0 → ¬xo → (∀ g, g < 4 → d0.get (K.INJ_SLOT_CTRL_STATE g) ≠ 1) →
         Answers (.flashBarRead off n 0) s (leNum ((List.range k).map fun i => d0.flashAt (o + i)))
           (fun d => d.regs = d0.regs ∧ d.flash = d0.flash) ∧
         Answers (.flashBarRead off n 2) s ones fun d =>
           d.get K.FLC_STATUS_UE_ANY = 1 ∧ d.get K.FLC_UE_ADDR = o / 32 * 32 ∧
           FieldsOnly d0 d [K.FLC_STATUS_UE_ANY, K.FLC_UE_ADDR])))

/-- R506, R508, R510, R513: general pins, pattern matching and serial ports. A masked write of GPI_OUT or GPI_OE sets the
bits of the pins that GPI_FUNC 0 gives it and keeps the others, and OWN_REFUSED shows a masked pin it does not own. A match
sets HIT, counts, reaches the routed controllers and raises source 4 + u; a write of its registers restarts its count.
TXDATA queues or is dropped with OVR, RXDATA gives the oldest byte and removes it, a received byte is queued or dropped with
OVR, and the thresholds, NACK and OVR raise source 12 + p. A claimed port takes none of these. -/
def Obligations.PinsMatchesAndSerialPorts : Prop :=
  ∀ (m : Master) (k : Fin 4) (v : Word) (u : Fin 8) (r : Fin 5) (pins : BitVec 64) (t : BitVec 11) (b : Byte) (n : BitVec 7)
    (nack : Bool) (s : State),
    let d0 := s.dev
    let w := v.toNat
    let irq (x : Nat) (d : Dev) : Prop := d.bitOf K.HST_IRQ_PEND x = true
    let quiet (d : Dev) : Prop := d.get K.HST_IRQ_PEND = d0.get K.HST_IRQ_PEND ∧ d.msix = d0.msix
    let pin (j : Nat) := 16 * k.val + j
    let mine (j : Nat) : Prop := d0.pinOwned (pin j) = false ∧ d0.pinFunc (pin j) ≠ 2
    let masked (j : Nat) : Prop := j < 16 ∧ bitAt w (16 + j) = true
    let bank (c : Instr) (f : Fld) : Prop := GivesBy m c s fun d =>
      (∀ j, (masked j ∧ mine j → d.bitOf f j = bitAt w j) ∧ (¬(masked j ∧ mine j) → d.bitOf f j = d0.bitOf f j)) ∧
      ((∃ j, masked j ∧ ¬mine j) → d.get K.GPI_STATUS_OWN_REFUSED = 1) ∧
      ((∀ j, masked j → mine j) → d.get K.GPI_STATUS_OWN_REFUSED = d0.get K.GPI_STATUS_OWN_REFUSED) ∧
      FieldsOnly d0 d [f, K.GPI_STATUS_OWN_REFUSED]
    (Lets s m (0x80010 + 4 * k.val) true → d0.get (K.GPI_OUT k) < 2 ^ 16 → bank (.gpiOutWrite m k v) (K.GPI_OUT k)) ∧
    (Lets s m (0x80020 + 4 * k.val) true → d0.get (K.GPI_OE k) < 2 ^ 16 → bank (.gpiOeWrite m k v) (K.GPI_OE k)) ∧
    (let mode := d0.get (K.GPI_PM_CFG_MODE u)
     let mask := d0.get2 (K.GPI_PM_MASK_LO u) (K.GPI_PM_MASK_HI u)
     let val := d0.get2 (K.GPI_PM_VAL_LO u) (K.GPI_PM_VAL_HI u)
     let holds := mode = 1 ∧ (pins.toNat &&& mask) = (val &&& mask) ∨ mode = 2 ∧ mask ≠ 0
     let due := tblGet 0 d0.gpi.pmFrom u + d0.get (K.GPI_PM_CFG_DEBOUNCE u) ≤ d0.clock
     (d0.inReset = true ∨ ¬holds ∨ ¬due → GivesAs (7, 0, u.val) (.patternMatch u pins) s fun d => d = d0) ∧
     (d0.inReset = false → holds → due → GivesAs (7, 0, u.val) (.patternMatch u pins) s fun d =>
       d.get (K.GPI_PM_CFG_HIT u) = 1 ∧ d.get (K.GPI_PM_CFG_COUNT u) = min (d0.get (K.GPI_PM_CFG_COUNT u) + 1) 65535 ∧
       irq (4 + u.val) d ∧ BytesKept d0 d ∧ (∀ y, d.core y = d0.core y) ∧
       d = { d0 with regs := d.regs, msix := d.msix, flight := d.flight } ∧
       ∀ q ∈ d0.allCores, ∀ i, i < 16 → tblGet 0 d.flight (16 * q + i) = tblGet 0 d0.flight (16 * q + i) +
         if d0.get (K.SEQ_EVI_ROUTE_SRC (q / 16) (q % 16) i) = 3 ∧
             d0.get (K.SEQ_EVI_ROUTE_SEL (q / 16) (q % 16) i) = u.val then 1 else 0)) ∧
    (Lets s m (0x80080 + 32 * u.val + 4 * r.val) true → GivesBy m (.pmConfigWrite m u r v) s fun d =>
      tblGet 0 d.gpi.pmFrom u = d0.clock ∧ (∀ x : Fin 8, x ≠ u → tblGet 0 d.gpi.pmFrom x = tblGet 0 d0.gpi.pmFrom x) ∧
      (r = 0 → d.get (K.GPI_PM_MASK_LO u) = w ∧ FieldsKept d0 d [K.GPI_PM_MASK_LO u]) ∧
      (r = 1 → d.get (K.GPI_PM_MASK_HI u) = w ∧ FieldsKept d0 d [K.GPI_PM_MASK_HI u]) ∧
      (r = 2 → d.get (K.GPI_PM_VAL_LO u) = w ∧ FieldsKept d0 d [K.GPI_PM_VAL_LO u]) ∧
      (r = 3 → d.get (K.GPI_PM_VAL_HI u) = w ∧ FieldsKept d0 d [K.GPI_PM_VAL_HI u]) ∧
      (r = 4 → d.get (K.GPI_PM_CFG_MODE u) = w % 4 ∧ d.get (K.GPI_PM_CFG_DEBOUNCE u) = w / 4 % 2 ^ 8 ∧
        d.get (K.GPI_PM_CFG_COUNT u) = d0.get (K.GPI_PM_CFG_COUNT u) ∧
        (bitAt w 10 = true → d.get (K.GPI_PM_CFG_HIT u) = 0) ∧
        (bitAt w 10 = false → d.get (K.GPI_PM_CFG_HIT u) = d0.get (K.GPI_PM_CFG_HIT u))) ∧
      d = { d0 with regs := d.regs, gpi := { d0.gpi with pmFrom := d.gpi.pmFrom } }) ∧
    (let tx := tblGet [] d0.gpi.tx k
     let rx := tblGet [] d0.gpi.rx k
     let claimed := bitAt d0.snt.portClaim k
     let off := d0.get (K.GPI_SP_CFG_MODE k) = 0 ∨ 6 ≤ d0.get (K.GPI_SP_CFG_MODE k)
     let ovr (d : Dev) : Prop := d.get (K.GPI_SP_STATUS_OVR k) = 1 ∧ d.gpi = d0.gpi ∧
       (d0.get (K.GPI_SP_STATUS_OVR k) = 0 → irq (12 + k.val) d)
     let other (d : Dev) : Prop := d = { d0 with regs := d.regs, msix := d.msix, gpi := d.gpi }
     (Lets s m (0x80188 + 32 * k.val) true →
       (claimed = true → GivesBy m (.txdataWrite m k t) s fun d => d = d0) ∧
       (claimed = false →
         (64 ≤ tx.length → GivesBy m (.txdataWrite m k t) s fun d => ovr d ∧ other d) ∧
         (tx.length < 64 → GivesBy m (.txdataWrite m k t) s fun d =>
           tblGet [] d.gpi.tx k = tx ++ [t.toNat] ∧ d.get (K.GPI_SP_STATUS_TX_LVL k) = tx.length + 1 ∧
           (¬off → d.get (K.GPI_SP_STATUS_BUSY k) = 1) ∧ quiet d ∧ other d))) ∧
     (Lets s m (0x8018C + 32 * k.val) false →
       (rx = [] → Answers (.rxdataRead m k) s 0x100 fun d => d.gpi = d0.gpi ∧ d.regs = d0.regs) ∧
       ∀ x l, rx = x :: l → Answers (.rxdataRead m k) s x.toNat fun d =>
         (claimed = true → d.gpi = d0.gpi) ∧ (claimed = false → tblGet [] d.gpi.rx k = l ∧
           (l.length < 128 → d.get (K.GPI_SP_STATUS_RX_LVL k) = l.length)) ∧
         d = { d0 with regs := d.regs, gpi := d.gpi, snaps := d.snaps }) ∧
     (d0.inReset = true ∨ claimed = true ∨ off →
       Gives (.serialByteReceived k b) s (fun d => d = d0) ∧ Gives (.serialTransferEnd k n nack) s fun d => d = d0) ∧
     (d0.inReset = false → claimed = false → ¬off →
       (64 ≤ rx.length → Gives (.serialByteReceived k b) s fun d => ovr d ∧ other d) ∧
       (rx.length < 64 → Gives (.serialByteReceived k b) s fun d =>
         tblGet [] d.gpi.rx k = rx ++ [b] ∧ d.get (K.GPI_SP_STATUS_RX_LVL k) = rx.length + 1 ∧ other d ∧
         let th := 4 * max 1 (d0.get (K.GPI_SP_CFG_RX_TH k))
         (rx.length + 1 = th → irq (12 + k.val) d) ∧ (rx.length + 1 ≠ th → quiet d)) ∧
       (tx.length ≤ 64 → Gives (.serialTransferEnd k n nack) s fun d =>
         let th := 4 * d0.get (K.GPI_SP_CFG_TX_TH k)
         let i2c := d0.get (K.GPI_SP_CFG_MODE k) = 3 ∨ d0.get (K.GPI_SP_CFG_MODE k) = 4
         tblGet [] d.gpi.tx k = tx.drop n.toNat ∧ d.get (K.GPI_SP_STATUS_TX_LVL k) = tx.length - n.toNat ∧
         (d.on (K.GPI_SP_STATUS_BUSY k) ↔ n.toNat < tx.length) ∧ other d ∧
         (th < tx.length → tx.length - n.toNat ≤ th → irq (12 + k.val) d) ∧
         (nack = true → i2c → d.get (K.GPI_SP_STATUS_NACK k) = 1 ∧ irq (12 + k.val) d) ∧
         (nack = false ∨ ¬i2c → d.get (K.GPI_SP_STATUS_NACK k) = d0.get (K.GPI_SP_STATUS_NACK k) ∧
           (tx.length ≤ th ∨ th < tx.length - n.toNat → quiet d)))))

/-- R571, R576 to R578, R580, R581: the register CRC, the lifecycle and the slow domains. A pass leaves its CRC in RGP_CUR and
counts; while a reference is committed and no window open, the first mismatch sets MISMATCH, writes its record and with
SAFE_EN stops the sites on the way into Safe, and a match clears MATCH_FAIL_NOW. OPEN opens a window, a commit takes the
result of the first pass that begins after it; RGP_LOCK turns both away with LOCKED_WR. A lifecycle request that the table
permits is programmed for the next reset, any other sets LC_REFUSED. At an edge of OSC40K the waiting writes take effect
and the copies are refreshed. -/
def Obligations.RegisterCrcLifecycleAndSlowDomains : Prop :=
  ∀ (m : Master) (key : BitVec 8) (t : BitVec 3) (s : State),
    let d0 := s.dev
    let cur := passCrc d0.passValues
    let pass (P : Dev → Prop) : Prop := GivesAs (3, 0, 0) .rgpPassEnd s fun d => d.get K.RGP_CUR_CUR = cur % 2 ^ 32 ∧
      d.get K.RGP_PASS_PASSES = min (d0.get K.RGP_PASS_PASSES + 1) (2 ^ 32 - 1) ∧ (∀ y, d.core y = d0.core y) ∧
      BytesKept d0 d ∧ P d
    let counts : List Fld := [K.RGP_CUR_CUR, K.RGP_PASS_PASSES]
    let only (d : Dev) (l : List Fld) : Prop := FieldsKept d0 d (l ++ counts) ∧ d = { d0 with regs := d.regs, rgp := d.rgp }
    let compares := d0.rgp.commit = 0 ∧ d0.get K.RGP_STATUS_COMMITTED = 1 ∧ d0.get K.RGP_STATUS_OPEN = 0
    (d0.inReset = true → GivesAs (3, 0, 0) .rgpPassEnd s fun d => d = d0) ∧
    (d0.inReset = false → (d0.inject 0x10 fun _ _ => true) = none →
      (d0.rgp.commit = 0 → d0.get K.RGP_STATUS_COMMITTED = 0 ∨ d0.get K.RGP_STATUS_OPEN = 1 → pass fun d => only d []) ∧
      (compares → cur = d0.get K.RGP_REF_REF → pass fun d =>
        d.get K.RGP_STATUS_MATCH_FAIL_NOW = 0 ∧ only d [K.RGP_STATUS_MATCH_FAIL_NOW]) ∧
      (compares → cur ≠ d0.get K.RGP_REF_REF →
        (d0.get K.RGP_STATUS_MATCH_FAIL_NOW = 1 → pass fun d => only d []) ∧
        (d0.get K.RGP_STATUS_MATCH_FAIL_NOW = 0 → pass fun d =>
          d.get K.RGP_STATUS_MISMATCH = 1 ∧ d.get K.RGP_STATUS_MATCH_FAIL_NOW = 1 ∧
          (tblFind d.evl.slots (unitKey dieHD blkRGP * 4096 + 0x017)).isSome = true ∧
          (d0.get K.RGP_CTRL_SAFE_EN = 0 → d.start = d0.start ∧ d.sites = d0.sites) ∧
          (d0.get K.RGP_CTRL_SAFE_EN = 1 →
            (∀ i, i < 64 → d0.siteState i = 2 → d0.stopGiven i = false → d.get (K.SITE_CAUSE i) = 0x15) ∧
            (d0.start.safeWait = none → (d.start.safeWait.map fun x => x.cause) = some 0x06)))) ∧
      (d0.rgp.commit = 1 → pass fun d => d.rgp.commit = 2 ∧ only d []) ∧
      (d0.rgp.commit = 2 → pass fun d => d.rgp.commit = 0 ∧ d.get K.RGP_REF_REF = cur % 2 ^ 32 ∧
        d.get K.RGP_STATUS_COMMITTED = 1 ∧ d.get K.RGP_STATUS_OPEN = 0 ∧ d.get K.RGP_STATUS_MISMATCH = 0 ∧
        d.get K.RGP_STATUS_COMMIT_BUSY = 0 ∧ d.get K.RGP_STATUS_MATCH_FAIL_NOW = 0 ∧
        only d [K.RGP_REF_REF, K.RGP_STATUS_COMMITTED, K.RGP_STATUS_OPEN, K.RGP_CTRL_OPEN, K.RGP_STATUS_MISMATCH,
          K.RGP_STATUS_COMMIT_BUSY, K.RGP_STATUS_MATCH_FAIL_NOW])) ∧
    (let locked := d0.get K.RGP_CTRL_RGP_LOCK = 1
     let refused (d : Dev) : Prop := d.get K.DEV_REG_STATUS_LOCKED_WR = 1 ∧ FieldsOnly d0 d [K.DEV_REG_STATUS_LOCKED_WR]
     (Lets s m 0xE0004 true → d0.get K.RGP_CTRL_SAFE_EN < 2 →
       (locked → GivesBy m (.rgpOpen m) s refused) ∧
       (d0.get K.RGP_CTRL_RGP_LOCK = 0 → GivesBy m (.rgpOpen m) s fun d =>
         d.get K.RGP_STATUS_OPEN = 1 ∧ FieldsOnly d0 d [K.RGP_STATUS_OPEN, K.RGP_CTRL_OPEN])) ∧
     (Lets s m 0xE0008 true →
       (key ≠ 0x6B → GivesBy m (.rgpCommit m key) s fun d => d = d0) ∧
       (key = 0x6B → locked → GivesBy m (.rgpCommit m key) s refused) ∧
       (key = 0x6B → d0.get K.RGP_CTRL_RGP_LOCK = 0 → GivesBy m (.rgpCommit m key) s fun d =>
         d.rgp = { d0.rgp with commit := 1 } ∧ d.get K.RGP_STATUS_COMMIT_BUSY = 1 ∧
         FieldsKept d0 d [K.RGP_STATUS_COMMIT_BUSY] ∧ d = { d0 with regs := d.regs, rgp := d.rgp }))) ∧
    (Lets s m 0x18 true →
      let from' := d0.fuses.lifecycle
      let permitted := (from', t.toNat) ∈ [(0, 1), (0, 5), (1, 2), (1, 5), (2, 3), (2, 5), (3, 4), (3, 5), (4, 5)]
      let accepted := (m = .hubc ∨ m = .pf) ∧ d0.get K.DEV_LIFECYCLE_LC_LOCK = 0 ∧ d0.lcPending = false ∧ permitted
      (key ≠ 0xE7 → GivesBy m (.lifecycleRequest m t key) s fun d => d = d0) ∧
      (key = 0xE7 →
        (accepted → GivesBy m (.lifecycleRequest m t key) s fun d =>
          d = { d0 with fuses := { d0.fuses with programming := some t.toNat } }) ∧
        (¬accepted → GivesBy m (.lifecycleRequest m t key) s fun d =>
          d.get K.DEV_LIFECYCLE_LC_REFUSED = 1 ∧ FieldsOnly d0 d [K.DEV_LIFECYCLE_LC_REFUSED]))) ∧
    (d0.fuses.programming = none → Gives .lifecycleFusesProgrammed s fun d => d = d0) ∧
    (∀ x, d0.fuses.programming = some x → Gives .lifecycleFusesProgrammed s fun d =>
      d = { d0 with fuses := { d0.fuses with target := x, programming := none } }) ∧
    (d0.start.inPor = true → Gives .osc40kEdge s fun d => d = d0) ∧
    (d0.start.inPor = false →
      let edge (P : Dev → Prop) : Prop := Gives .osc40kEdge s fun d =>
        d.slowWr = [] ∧ (∀ a ∈ slowRegs, d.regDark a = false → d.slowCopy a = d.regWord a) ∧ P d
      (d0.slowWr = [] → edge fun d => d = { d0 with slowCp := d.slowCp }) ∧
      ∀ w, w < 2 ^ 32 →
        (d0.slowWr = [(0x54, w)] → d0.get K.DEV_RESET_CAUSE_POR < 2 → edge fun d =>
          d.get K.DEV_RESET_CAUSE_POR = (if bitAt w 0 = true then 0 else d0.get K.DEV_RESET_CAUSE_POR) ∧
          d = { d0 with slowWr := [], slowCp := d.slowCp, regs := d.regs }) ∧
        ∀ i, i < 8 → d0.slowWr = [(0x30040 + 4 * i, w)] → edge fun d =>
          d.get (K.CFG_KEYB_DATA i) = w ∧ FieldsKept d0 d [K.CFG_KEYB_DATA i])

/-- The stream is refused with a detail code in a block: parsing stops, its frames go back to blank, LAST_REJECT and
CFG_REJECT say why (R401). -/
def Sys2Proof.Slice0.Refuses (d0 : Dev) (detail blk : Nat) (d : Dev) : Prop :=
  d.fab.ldr.refused = true ∧ d.fab.ldr.buf = [] ∧ d.fab.ldr.blk = none ∧ d.get K.CFG_STATUS_REVERTING = 1 ∧
    d.get K.CFG_REJECT_DETAIL = detail ∧ d.get K.CFG_REJECT_CLASS = rejectClass detail ∧ d.get K.CFG_REJECT_BLOCK = blk % 2 ^ 16 ∧
    d.get K.DEV_START_STATUS_LAST_REJECT = rejectClass detail ∧
    (∀ a, tblFind d.fab.frames a = if a ∈ d0.fab.ldr.wrote then none else tblFind d0.fab.frames a) ∧
    d = { d0 with regs := d.regs, fab := d.fab, evl := d.evl }

/-- R398 to R402, R572: the sources of a stream. In Load, at the stages that take streams, the first bytes of a source claim
the loader and those that follow are appended and counted; other bytes are discarded with NOT_LOAD, PORT_CONFLICT or, of a
master that may not, VF_REFUSED. ABORT and CFG_TIMEOUT refuse the stream; a refused source's bytes are discarded until its
claim is released. REGW and REGR are register accesses of CFGP, STAT reads CFG_STATUS, any other command is ignored. -/
def Obligations.StreamSources : Prop :=
  ∀ (m : Master) (n : Die) (bytes : List Byte) (a : BitVec 24) (w : Word) (cmd : Byte) (s : State),
    let d0 := s.dev
    let takes := d0.get K.DEV_MODE_MODE = 1 ∧ (d0.get K.DEV_START_STATUS_STAGE = 6 ∨ d0.get K.DEV_START_STATUS_STAGE = 7)
    let rx (d : Dev) : Nat := d.get2 K.CFG_RX_LO_COUNT_LO K.CFG_RX_HI_COUNT_HI
    let count : List Fld := [K.CFG_RX_LO_COUNT_LO, K.CFG_RX_HI_COUNT_HI]
    let active := d0.get K.CFG_STATUS_ACTIVE = 1
    let fab (d : Dev) : Prop := d = { d0 with regs := d.regs, fab := { d0.fab with ldr := d.fab.ldr } }
    let only (f : Fld) (d : Dev) : Prop := d.get f = 1 ∧ FieldsOnly d0 d [f]
    (∀ p ∈ [(Instr.cfgPortWrite .hubc bytes, 1), (.cfgPortWrite .pf bytes, 2), (.stream bytes, 3)],
      let does (P : Dev → Prop) : Prop := Gives p.1 s P
      (d0.inReset = true ∨ bytes = [] → does fun d => d = d0) ∧
      (d0.inReset = false → bytes ≠ [] → bytes.length < 2 ^ 47 →
        (¬takes → d0.get K.CFG_STATUS_ACTIVE = 0 ∨ d0.get K.CFG_STATUS_SOURCE ≠ p.2 ∨ d0.fab.ldr.refused = false →
          does (only K.CFG_STATUS_NOT_LOAD)) ∧
        (takes → d0.get K.CFG_STATUS_ACTIVE = 0 → does fun d =>
          d.get K.CFG_STATUS_ACTIVE = 1 ∧ d.get K.CFG_STATUS_SOURCE = p.2 ∧ rx d = bytes.length ∧ d.fab.ldr.buf = bytes ∧
          d.fab.ldr.hdr = none ∧ d.fab.ldr.pos = 0 ∧ d.fab.ldr.crc = crcInit ∧ d.fab.ldr.refused = false ∧
          d.fab.ldr.lastByte = d0.clock ∧ fab d ∧
          FieldsKept d0 d (count ++ [K.CFG_STATUS_ACTIVE, K.CFG_STATUS_SOURCE, K.CFG_RX_HI_OVF])) ∧
        (takes → active → d0.get K.CFG_STATUS_SOURCE ≠ p.2 → does (only K.CFG_STATUS_PORT_CONFLICT)) ∧
        (takes → active → d0.get K.CFG_STATUS_SOURCE = p.2 →
          (d0.fab.ldr.refused = true → does fun d =>
            d = { d0 with fab := { d0.fab with ldr := { d0.fab.ldr with lastByte := d0.clock } } }) ∧
          (d0.fab.ldr.refused = false → rx d0 < 2 ^ 47 → does fun d => rx d = rx d0 + bytes.length ∧ FieldsKept d0 d count ∧
            d.fab.ldr = { d0.fab.ldr with buf := d0.fab.ldr.buf ++ bytes, lastByte := d0.clock } ∧ fab d)))) ∧
    (m ≠ .hubc → m ≠ .pf → d0.inReset = false → Gives (.cfgPortWrite m bytes) s (only K.CFG_STATUS_VF_REFUSED)) ∧
    (exec (.regw a w) s = exec (.registerWrite .cfgp a w) s) ∧
    (Lets s .cfgp a.toNat false →
      (d0.get K.CFG_CTRL_CFGP_RD_EN = 1 → Answers (.regr a) s (d0.readWord .cfgp a.toNat).2 fun d =>
        d = (d0.readWord .cfgp a.toNat).1) ∧
      (d0.get K.CFG_CTRL_CFGP_RD_EN = 0 → exec (.regr a) s =
        .next { s with dev := (d0.readWord .cfgp a.toNat).1, answer := none })) ∧
    (d0.inReset = false → d0.get K.CFG_CTRL_CFGP_RD_EN = 1 → Answers .stat s (d0.regWord 0x30000) fun d => d = d0) ∧
    (d0.inReset = true ∨ d0.get K.CFG_CTRL_CFGP_RD_EN = 0 → exec .stat s = .next { s with answer := none }) ∧
    (exec (.cfgpUnknown cmd) s = .next s) ∧
    (Lets s m 0x30004 true →
      (d0.streaming = false → GivesBy m (.hostAbort m) s fun d =>
        d = { d0 with regs := d.regs } ∧ (d0.get K.CFG_CTRL_CFGP_RD_EN < 2 → FieldsKept d0 d [])) ∧
      (d0.streaming = true → d0.get K.CFG_CTRL_CFGP_RD_EN < 2 → GivesBy m (.hostAbort m) s (Refuses d0 0x12 d0.blockNow))) ∧
    (let due := d0.streaming = true ∧ (∀ p, d0.fab.ldr.hdr = some p → d0.fab.ldr.got < p.1) ∧
       d0.fab.ldr.lastByte + 800000 * max 1 (d0.get K.CFG_TIMEOUT) ≤ d0.clock
     (due → Gives .cfgTimeout s (Refuses d0 0x10 d0.blockNow)) ∧ (¬due → Gives .cfgTimeout s fun d => d = d0)) ∧
    (Gives .revertDone s fun d => d.get K.CFG_STATUS_REVERTING = 0 ∧ FieldsOnly d0 d [K.CFG_STATUS_REVERTING]) ∧
    (let due := active ∧ d0.fab.ldr.refused = true ∧ d0.get K.CFG_STATUS_REVERTING = 0 ∧
       (d0.get K.CFG_STATUS_SOURCE = 3 ∨ d0.fab.ldr.lastByte + 8000 ≤ d0.clock)
     (due → Gives .claimRelease s fun d => d.get K.CFG_STATUS_ACTIVE = 0 ∧ d.get K.CFG_STATUS_SOURCE = 0 ∧
       d.fab.ldr = { lastByte := d0.fab.ldr.lastByte } ∧ fab d ∧
       FieldsKept d0 d [K.CFG_STATUS_ACTIVE, K.CFG_STATUS_SOURCE]) ∧
     (d0.get K.CFG_STATUS_ACTIVE = 0 ∨ d0.fab.ldr.refused = false ∨ d0.get K.CFG_STATUS_REVERTING = 1 →
       Gives .claimRelease s fun d => d = d0)) ∧
    (Lets s m (0x30080 + 4 * n.val) true →
      (d0.get K.DEV_MODE_MODE ∈ [2, 3, 4] → GivesBy m (.interfaceRelease m n) s fun d =>
        d.get (K.CFG_DIE_STATUS_HELD n) = 0 ∧ FieldsOnly d0 d [K.CFG_DIE_STATUS_HELD n]) ∧
      (¬d0.get K.DEV_MODE_MODE ∈ [2, 3, 4] → GivesBy m (.interfaceRelease m n) s fun d => d = d0))

/-- R388, R390 to R396, R400 to R402: parsing a stream. The header, each block header, each packet, tag, END and CRC word are
judged where they are expected, and the first failure refuses the stream with its detail; a good one is taken: settings are
written, frames stored at their addresses in the order of R388, and the CRC word accepts the stream, which with every die
COMPLETE begins STREAM_CHECK. -/
def Obligations.StreamParsing : Prop :=
  ∀ (s : State),
    let d0 := s.dev
    let x := d0.fab.ldr
    let word (i : Nat) : Nat := leNum ((x.buf.drop (4 * i)).take 4)
    let loader (d : Dev) : Prop := d = { d0 with fab := { d0.fab with ldr := d.fab.ldr } }
    let fab (d : Dev) : Prop := d = { d0 with regs := d.regs, fab := d.fab }
    let took (n : Nat) (d : Dev) : Prop := d.fab.ldr.buf = x.buf.drop n ∧ d.fab.ldr.pos = x.pos + n ∧
      d.fab.ldr.crc = crcBytes x.crc (x.buf.take n)
    d0.streaming = true →
    (x.hdr = none → 16 ≤ x.buf.length →
      let bad := word 0 ≠ 0x5354524D ∨ word 1 ≠ 1 ∨ word 3 = 0 ∨ 4096 < word 3
      (bad → Gives .streamHeader s (Refuses d0 0x21 0xFFFF)) ∧
      (¬bad → Gives .streamHeader s fun d => took 16 d ∧ d.fab.ldr.hdr = some (word 2, word 3) ∧ loader d)) ∧
    (∀ len nblk, x.hdr = some (len, nblk) → x.blk = none → x.ended = false →
      (x.nextBlk < nblk → word 0 ≠ 0x454E445F → 32 ≤ x.buf.length →
        let mine := ∃ p, d0.cascadePos = some p ∧ bitAt (word 0 % 2 ^ 16) p = true
        let key : Option Bool := if bitAt (word 0) 16 = true then some (bitAt (word 0) 17) else none
        let good := badBlockHeader word x.pos len = false
        let absent := ∃ k, key = some k ∧ d0.cfgKey k = none
        (¬good → Gives .blockHeader s (Refuses d0 0x21 x.nextBlk)) ∧
        (good → mine → d0.keyPermitted key = false → Gives .blockHeader s (Refuses d0 0x31 x.nextBlk)) ∧
        (good → mine → d0.keyPermitted key = true → absent → Gives .blockHeader s (Refuses d0 0x32 x.nextBlk)) ∧
        (good → 0 < word 1 → ¬mine ∨ d0.keyPermitted key = true ∧ ¬absent → Gives .blockHeader s fun d =>
          took 32 d ∧ d.fab.ldr.nextBlk = x.nextBlk + 1 ∧ loader d ∧
          ∃ b, d.fab.ldr.blk = some b ∧ b.idx = x.nextBlk ∧ b.pos = 0 ∧ b.frames = none ∧ (b.taken = true ↔ mine) ∧
            (mine → b.key = key ∧ b.left = word 1 ∧ b.devid = false ∧ b.ctlmask = 2 ^ 32 - 1 ∧ b.pwr = 0) ∧
            (¬mine → b.left = word 1 + if key = none then 0 else 16))) ∧
      (4 ≤ x.buf.length → word 0 = 0x454E445F →
        (x.nextBlk < nblk ∨ x.pos + 8 < len → Gives .streamEnd s (Refuses d0 0x11 0xFFFF)) ∧
        (nblk ≤ x.nextBlk → len < x.pos + 8 → Gives .streamEnd s (Refuses d0 0x21 0xFFFF)) ∧
        (nblk ≤ x.nextBlk → x.pos + 8 = len → Gives .streamEnd s fun d => took 4 d ∧ d.fab.ldr.ended = true ∧ loader d)) ∧
      (4 ≤ x.buf.length → word 0 ≠ 0x454E445F → nblk ≤ x.nextBlk → Gives .streamEnd s (Refuses d0 0x21 0xFFFF))) ∧
    (x.ended = true → x.buf.length = 4 →
      (word 0 ≠ crcEnd x.crc → Gives .streamCrc s (Refuses d0 0x20 0xFFFF)) ∧
      (word 0 = crcEnd x.crc → Gives .streamCrc s fun d =>
        d.get K.CFG_STATUS_ACTIVE = 0 ∧ d.get K.CFG_STATUS_SOURCE = 0 ∧
        d.get K.CFG_STATUS_ACCEPTED = min (d0.get K.CFG_STATUS_ACCEPTED + 1) 65535 ∧ d.get K.RGP_STATUS_COMMITTED = 0 ∧
        d.get K.RGP_STATUS_STALE_REF = 1 ∧ d.fab.frames = d0.fab.frames ∧ d.fab.ldr = { lastByte := x.lastByte } ∧ fab d ∧
        (d.get K.CFG_STATUS_ALL_COMPLETE = 1 ↔ ∀ n, n < 4 → bitAt d0.start.active n = true →
          d.get (K.CFG_DIE_STATUS_COMPLETE n) = 1) ∧
        (d.get K.CFG_STATUS_ALL_COMPLETE = 1 → d.get K.DEV_START_STATUS_STAGE = 7 ∧ d.get K.CFG_STATUS_CHECK = 1) ∧
        (d.get K.CFG_STATUS_ALL_COMPLETE = 0 → d.get K.DEV_START_STATUS_STAGE = d0.get K.DEV_START_STATUS_STAGE))) ∧
    (∀ b, x.blk = some b → b.taken = true →
      (∀ k key, b.key = some k → d0.cfgKey k = some key → b.left = 0 → b.frames = none → 16 ≤ x.buf.length →
        let h := gcmH (keyBytes key)
        let y := if b.part = [] then b.auth else ghashStep h b.auth (b.part.map BitVec.toNat)
        let t := gcmTag (keyBytes key) (((b.hdr.drop 8).take 12).map BitVec.toNat) y 32 b.pos
        ((x.buf.take 16).map BitVec.toNat = t → Gives .blockTag s fun d => took 16 d ∧ d.fab.ldr.blk = none ∧ loader d) ∧
        ((x.buf.take 16).map BitVec.toNat ≠ t → Gives .blockTag s (Refuses d0 0x30 b.idx))) ∧
      ∀ h, d0.nextPacket = some h →
        let refuses (c : Instr) (detail : Nat) : Prop := Gives c s (Refuses d0 detail b.idx)
        let kind := h % 16
        let sel := bitsAt h 8 4
        let n := bitsAt h 12 2
        let dieOk := d0.setDieOk n = true
        let goesOn (d : Dev) : Prop := d.fab.ldr.buf.length + 8 = x.buf.length ∧ d.fab.ldr.refused = false ∧ fab d
        let later (d : Dev) (P : LBlk → Prop) : Prop := ∀ c, d.fab.ldr.blk = some c → P c
        (h = 0 → Gives .pad s fun d => took 4 d ∧ loader d) ∧
        (kind = 0 → h ≠ 0 → refuses .pad 0x21) ∧
        (5 ≤ kind ∨ kind = 1 ∧ 4 ≤ sel → refuses .reservedPacket 0x21) ∧
        (kind = 1 → ∀ p ∈ [(0, Instr.setDevid), (1, .setCtlmask), (2, .setDiectl), (3, .setDiepwr)], sel = p.1 →
          (bitsAt h 4 4 ≠ 0 ∨ bitsAt h 14 18 ≠ 0 ∨ sel < 2 ∧ n ≠ 0 ∨ b.left < 8 → refuses p.2 0x21) ∧
          (bitsAt h 4 4 = 0 → bitsAt h 14 18 = 0 → 2 ≤ sel ∨ n = 0 → 8 ≤ b.left → sel ≠ 0 → b.devid = false →
            refuses p.2 0x24)) ∧
        (kind = 1 → bitsAt h 4 4 = 0 → bitsAt h 14 18 = 0 → 8 ≤ b.left → ∀ l, d0.bodyPeek 8 = some l →
          let v := leNum (l.drop 4)
          (sel = 0 → n = 0 →
            (v % 2 ^ 28 ≠ d0.idcode % 2 ^ 28 → refuses .setDevid 0x01) ∧
            (v % 2 ^ 28 = d0.idcode % 2 ^ 28 → Gives .setDevid s fun d => goesOn d ∧ later d fun c => c.devid = true)) ∧
          (b.devid = true →
            (sel = 1 → n = 0 → Gives .setCtlmask s fun d => goesOn d ∧ later d fun c => c.ctlmask = v) ∧
            (sel = 2 → ¬dieOk → refuses .setDiectl 0x22) ∧ (sel = 3 → ¬dieOk → refuses .setDiepwr 0x22) ∧
            (sel = 2 → dieOk → 8 ≤ v → refuses .setDiectl 0x23) ∧ (sel = 3 → dieOk → 1375 < v → refuses .setDiepwr 0x23) ∧
            (sel = 2 → dieOk → v < 8 → Gives .setDiectl s fun d => goesOn d ∧
              let f := [K.CFG_DIE_STATUS_HOLD n, K.CFG_DIE_STATUS_CFGI_EN n, K.CFG_DIE_STATUS_SCRUB_EN n]
              FieldsKept d0 d f ∧ ∀ (i : Nat) (g : Fld), f[i]? = some g →
                d.get g = if bitAt b.ctlmask i = true then bit (bitAt v i) else d0.get g) ∧
            (sel = 3 → dieOk → v ≤ 1375 → Gives .setDiepwr s fun d => goesOn d ∧ d.get (K.CFG_FAB_PWR n) = v ∧
              bitAt d.fab.declared n = true ∧ later d fun c => bitAt c.pwr n = true))) ∧
        (let k := bitsAt h 8 24
         let size : Nat := 8 + if kind = 2 then 1024 * k else if kind = 3 then 1024 else 0
         let packets := [(2, Instr.frames), (3, .repeatPacket), (4, .clearPacket)]
         ∀ p ∈ packets, kind = p.1 →
           (bitsAt h 4 4 ≠ 0 ∨ k = 0 ∨ b.left < size → refuses p.2 0x21) ∧
           (bitsAt h 4 4 = 0 → k ≠ 0 → size ≤ b.left → b.devid = false → refuses p.2 0x24) ∧
           (bitsAt h 4 4 = 0 → k ≠ 0 → size ≤ b.left → b.devid = true → b.key = none →
             (kind = 2 → k = 1) → size ≤ x.buf.length → x.buf.length < size + 1024 →
             let a := word 1
             let v := leNum ((x.buf.take size).drop 8)
             let at' (i : Nat) : Nat := faddrNext^[i] a
             (∀ e, d0.frameRefused a = some e → refuses p.2 e) ∧
             ((∀ i, i < k → d0.frameRefused (at' i) = none) → Gives p.2 s fun d =>
               (∀ i, i < k → tblFind d.fab.frames (at' i) = some v ∧ at' i ∈ d.fab.ldr.wrote) ∧
               (∀ c, (∀ i, i < k → at' i ≠ c) → tblFind d.fab.frames c = tblFind d0.fab.frames c) ∧
               d.fab.ldr.buf = x.buf.drop size ∧ d.fab.ldr.refused = false ∧ fab d))))

/-- R396, R397, R406, R571: the key store. The writes of its registers wait for an edge of OSC40K. PROGRAM with its key takes
the key words as KEY_B, clears them, sets VALID and records KCV, or is refused under KEY_LOCK or while a stream is ACTIVE;
ZEROIZE, a loss of VBAT while the supplies are off and a temperature out of range erase KEY_B with their cause, and refuse a
stream whose block uses it. -/
def Obligations.KeyStore : Prop :=
  ∀ (m : Master) (key : Byte) (s : State),
    let d0 := s.dev
    let waits (c : Instr) (w : Nat) : Prop :=
      GivesBy m c s fun d => d = { d0 with slowWr := d0.slowWr ++ [(0x3001C, key.toNat * 2 ^ 24 + w)] }
    let edge (w : Nat) (P : Dev → Prop) : Prop := d0.slowWr = [(0x3001C, w)] → Gives .osc40kEdge s fun d => d.slowWr = [] ∧ P d
    let uses := d0.streaming = true ∧ ∃ b, d0.fab.ldr.blk = some b ∧ b.taken = true ∧ b.key = some true
    let words := (List.range 8).map fun i => K.CFG_KEYB_DATA i
    let erased (cause : Nat) (d : Dev) : Prop := d.fab.keyB = none ∧ d.get K.CFG_KEYB_STATUS_VALID = 0 ∧
      d.get K.CFG_KEYB_STATUS_ERASED = 1 ∧ d.get K.CFG_KEYB_STATUS_CAUSE = cause ∧ d.get K.CFG_KEYB_KCV = 0 ∧
      (uses → d.fab.ldr.refused = true ∧ d.get K.CFG_REJECT_DETAIL = 0x32) ∧
      (¬uses → d.fab = { d0.fab with keyB := none } ∧ FieldsKept d0 d [K.CFG_KEYB_STATUS_VALID, K.CFG_KEYB_STATUS_ERASED,
        K.CFG_KEYB_STATUS_CAUSE, K.CFG_KEYB_KCV] ∧ d.evl = d0.evl) ∧ ∀ y, d.core y = d0.core y
    (Lets s m 0x3001C true → waits (.keybProgram m key) 1 ∧ waits (.zeroize m key) 2) ∧
    (d0.start.inPor = false →
      (d0.get K.CFG_KEY_POLICY_KEY_LOCK = 0 → d0.get K.CFG_STATUS_ACTIVE = 0 → edge 0x3C000001 fun d =>
        d.fab = { d0.fab with keyB := some ((List.range 8).foldr (fun i v => d0.get (K.CFG_KEYB_DATA i) + 2 ^ 32 * v) 0) } ∧
        (∀ i, i < 8 → d.get (K.CFG_KEYB_DATA i) = 0) ∧ d.get K.CFG_KEYB_STATUS_VALID = 1 ∧
        (∀ k, d.fab.keyB = some k → d.get K.CFG_KEYB_KCV = kcvOf k % 2 ^ 32) ∧
        FieldsKept d0 d (words ++ [K.CFG_KEYB_STATUS_VALID, K.CFG_KEYB_KCV])) ∧
      (d0.get K.CFG_KEY_POLICY_KEY_LOCK = 1 ∨ d0.get K.CFG_STATUS_ACTIVE = 1 → edge 0x3C000001 fun d =>
        d.get K.CFG_KEYB_STATUS_PROG_REFUSED = 1 ∧ d.fab = d0.fab ∧ FieldsKept d0 d [K.CFG_KEYB_STATUS_PROG_REFUSED]) ∧
      (∀ w, w < 2 ^ 32 → w / 2 ^ 24 ≠ 0x3C → edge w fun d => d.regs = d0.regs ∧ d.fab = d0.fab) ∧
      edge 0x3C000002 (erased 3)) ∧
    (d0.start.suppliesValid = true → Gives .vbatRetentionLoss s fun d => d = d0) ∧
    (d0.start.suppliesValid = false → Gives .vbatRetentionLoss s (erased 1)) ∧
    Gives .keyStoreTemperature s (erased 2)

/-- R424, R426, R428, R429, R431 to R439: the hub flash. A call answers BUSY while one runs, the first applicable status of
Table 3 with no change, or LEASE_BUSY with the holder; else ERASE, PROGRAM and STORE_WRITE begin their first operation under
the flash lease, or wait for it, and the reading functions complete: VERIFY with the first difference, BLANK_CHECK with the
first byte that is not erased, CRC with the CRC of the range, STORE_SELECT with the selected copy. An operation erases its
sector or programs its line and nothing else, then the next begins or the call ends; one over twice its time leaves its
sector undefined. The Instant Fabric port reads M4 to M7 as the other masters read lines. -/
def Obligations.HubFlash : Prop :=
  ∀ (m : Master) (caller : Nat) (f : Byte) (queue : Bool) (off : BitVec 24) (s : State),
    let d0 := s.dev
    let by' : FlashBy := .reg m
    let lease := K.BST_LEASE_HOLDER 5 lcFLASH
    let i := d0.get (K.FLC_ARG 0)
    let src := d0.get2 (K.FLC_ARG 1) (K.FLC_ARG 2)
    let len := d0.get (K.FLC_ARG 3)
    let result (st : Nat) (d : Dev) : Prop := d.get K.FLC_RESULT_STATUS = st ∧ d.get K.FLC_RESULT_CALLER = caller
    let refused (st : Nat) (d : Dev) : Prop := result st d ∧ d.get K.FLC_RESULT_DONE = 1 ∧
      FieldsOnly d0 d [K.FLC_RESULT_STATUS, K.FLC_RESULT_CALLER, K.FLC_RESULT_DONE]
    let ended (st : Nat) (d : Dev) : Prop := result st d ∧ d.get K.FLC_RESULT_DONE = 1 ∧ d.get K.FLC_STATUS_CALL_ACTIVE = 0 ∧
      d.get K.FLC_STATUS_OP_ACTIVE = 0 ∧ d.flc.call = none ∧ d.mem = d0.mem ∧ ∀ y, d.core y = d0.core y
    let flash (d : Dev) : Prop := d.flash = d0.flash ∧ d.flc.unsure = d0.flc.unsure
    let writes := [(Instr.erase by' queue, 1), (.program by' queue none, 2), (.storeWrite by' queue none, 6)]
    let reads := [(Instr.verify by' queue none, 3), (.blankCheck by' queue, 4), (.crc by' queue, 5), (.storeSelect by' queue, 7)]
    let call (func : Nat) : FCall := { d0.regCall func caller none with
      copy := if func = 6 ∧ i % 8 < 6 then (d0.targetCopy i, d0.nextStamp (i % 8)) else (0, 0) }
    let idle := d0.get K.FLC_STATUS_CALL_ACTIVE = 0
    let free := d0.get lease = 0
    let begun (sector : Nat) (d : Dev) : Prop := d.get K.FLC_STATUS_CALL_ACTIVE = 1 ∧ d.get K.FLC_STATUS_OP_ACTIVE = 1 ∧
      d.get K.FLC_STATUS_SECTOR = sector ∧ d.get K.FLC_RESULT_DONE = 0 ∧ d.get K.FLC_PROGRESS = 0 ∧ d.get lease = 0x30 + caller ∧
      d.flc.opAt = d0.clock ∧ flash d
    (Lets s m 0x20004 true →
      (m = .vf0 ∨ m = .vf1 ∨ m = .dbg → ∀ p ∈ writes ++ reads, GivesBy m p.1 s fun d =>
        d.get K.FLC_STATUS_CALL_REFUSED = 1 ∧ FieldsOnly d0 d [K.FLC_STATUS_CALL_REFUSED]) ∧
      ((m, caller) ∈ [(.hubc, 1), (.pf, 2), (.cfgp, 3)] →
        (d0.get K.FLC_STATUS_CALL_ACTIVE = 1 → ∀ p ∈ writes ++ reads, GivesBy m p.1 s fun d => result 1 d ∧
          FieldsOnly d0 d [K.FLC_RESULT_STATUS, K.FLC_RESULT_CALLER]) ∧
        (idle →
          (f = 0 ∨ 8 ≤ f.toNat → GivesBy m (.flashBadFunc by' f queue) s (refused 0x02)) ∧
          (∀ p ∈ writes ++ reads, ∀ st, d0.callStatus (call p.2) = st → st ≠ 0 → GivesBy m p.1 s (refused st)) ∧
          (135 ≤ i → d0.callStatus (call 1) = 0x03 ∧ d0.callStatus (call 4) = 0x03) ∧
          (i < 135 → d0.fuses.lifecycle = 5 → d0.callStatus (call 1) = 0x05) ∧
          (i < 135 → d0.fuses.lifecycle ≠ 5 → i ≠ 16 → i ≠ 17 → d0.sectorProtected i = true → d0.callStatus (call 1) = 0x06) ∧
          (∀ p ∈ writes, d0.callStatus (call p.2) = 0 → d0.get lease ≠ 0 → d0.get lease < 2 ^ 8 →
            (queue = false → GivesBy m p.1 s fun d => result 0x09 d ∧ d.get K.FLC_RESULT_HOLDER = d0.get lease ∧ flash d ∧
              RegsOnly d0 d) ∧
            (queue = true → (d0.leaseQueue 5 lcFLASH).length < 8 → GivesBy m p.1 s fun d =>
              d.get K.FLC_STATUS_CALL_ACTIVE = 1 ∧ d.get K.FLC_RESULT_DONE = 0 ∧ d.get lease = d0.get lease ∧ flash d ∧
              d.flc.call = some { call p.2 with waits := true })) ∧
          (free → d0.callStatus (call 1) = 0 → GivesBy m (.erase by' queue) s (begun i)) ∧
          (free → d0.callStatus (call 2) = 0 →
            ((∃ k, k < len ∧ d0.flashAt (i + k) ≠ 0xFF) → GivesBy m (.program by' queue none) s fun d => ended 0x0A d ∧ flash d) ∧
            ((∀ k, k < len → d0.flashAt (i + k) = 0xFF) → 32 ≤ len →
              (GivesBy m (.program by' queue none) s fun d => begun (sectorOf i) d ∧
                ∃ c, d.flc.call = some c ∧ c.now = d0.peekBytes src 32) ∧
              GivesBy m (.program by' queue (some 0)) s fun d => ended 0x0B d ∧ flash d)) ∧
          (free → d0.callStatus (call 6) = 0 →
            let good := seqValid (d0.peekNum (src + 8) 4) = true ∧ d0.peekNum (src + 12) 4 ≤ bodyLimit (i % 8) ∧
              len ≤ bodyLimit (i % 8) + 0x100
            (¬good → GivesBy m (.storeWrite by' queue none) s fun d => ended 0x0E d ∧ flash d) ∧
            (good → GivesBy m (.storeWrite by' queue none) s
              (begun (sectorOf (copyBase (i % 8) (d0.targetCopy i)))))) ∧
          (let done (c : Instr) (st : Nat) (P : Dev → Prop) : Prop := GivesBy m c s fun d => ended st d ∧ flash d ∧ P d
           let diff (a n : Nat) (x : Nat → Byte) (c : Instr) (st : Nat) : Prop :=
             ((∀ k, k < n → d0.flashAt (a + k) = x k) → done c 0 fun _ => True) ∧
             ∀ k, k < n → d0.flashAt (a + k) ≠ x k → (∀ j, j < k → d0.flashAt (a + j) = x j) →
               done c st fun d => d.get K.FLC_OUT = (a + k) % 2 ^ 32
           (d0.callStatus (call 3) = 0 → diff i len (fun k => d0.peek (src + k)) (.verify by' queue none) 0x0C) ∧
           (d0.callStatus (call 4) = 0 →
             diff (sectorBase i) (sectorSize i) (fun _ => 0xFF) (.blankCheck by' queue) 0x0D) ∧
           (d0.callStatus (call 5) = 0 → done (.crc by' queue) 0 fun d =>
             d.get K.FLC_OUT = crc32c ((List.range len).map fun k => d0.flashAt (i + k)) % 2 ^ 32) ∧
           (d0.callStatus (call 7) = 0 →
             (∀ x, d0.copySelect (i % 8) = some x → done (.storeSelect by' queue) 0 fun d =>
               d.get K.FLC_OUT = d0.copySeq (i % 8) x % 2 ^ 32 ∧ d.get K.FLC_OUT2 = x) ∧
             (d0.copySelect (i % 8) = none → done (.storeSelect by' queue) 0x10 fun d => d.get K.FLC_OUT2 = 3)))))) ∧
    (d0.flc.call = none → Gives .flashOperationEnd s (fun d => d = d0) ∧ Gives .opTimeout s fun d => d = d0) ∧
    (∀ c, d0.flc.call = some c → c.caller = caller → caller < 8 → d0.get K.FLC_STATUS_OP_ACTIVE = 1 →
      (∀ k l, c.todo = .erase k :: l → Gives .flashOperationEnd s fun d =>
        (∀ o, tblFind d.flash o = if sectorOf o = k then none else tblFind d0.flash o) ∧
        (∀ x, x ∈ d.flc.unsure ↔ x ∈ d0.flc.unsure ∧ x ≠ k) ∧
        (l = [] → c.func = 1 → ended 0 d) ∧
        (∀ j l', l = .erase j :: l' → d.get K.FLC_STATUS_SECTOR = j % 2 ^ 8 ∧ d.get K.FLC_STATUS_OP_ACTIVE = 1)) ∧
      (∀ o a l, c.todo = .line o a :: l → Gives .flashOperationEnd s fun d =>
        (∀ x, tblGet 0xFF d.flash x = if x < o then tblGet 0xFF d0.flash x else
          (c.now[x - o]?).getD (tblGet 0xFF d0.flash x)) ∧ d.flc.unsure = d0.flc.unsure ∧ (l = [] → c.func = 2 → ended 0 d) ∧
        (d0.get K.FLC_PROGRESS < 65535 → d.get K.FLC_PROGRESS = d0.get K.FLC_PROGRESS + 1)) ∧
      (let due := d0.flc.opAt + 2 * opLimit c < d0.clock
       (¬due → Gives .opTimeout s fun d => d = d0) ∧
       (due → Gives .opTimeout s fun d => ended 0x0F d ∧ opSector c ∈ d.flc.unsure ∧ d.get K.FLC_STATUS_OP_TIMEOUT = 1 ∧
         ∀ o, sectorOf o ≠ opSector c → tblFind d.flash o = tblFind d0.flash o))) ∧
    (let o := off.toNat / 4 * 4
     let ok := d0.snt.running ≠ .none ∧ 12 ≤ sectorOf o ∧ sectorOf o < 16
     let port (e : Fin 3) (a : Option Nat) (P : Dev → Prop) : Prop :=
       ∃ d, exec (.ifFlashRead off e) s = .next { s with dev := d, answer := a } ∧ P d
     (¬ok ∨ d0.get K.FLC_STATUS_OP_ACTIVE = 1 → ∀ e, port e none fun d => d = d0) ∧
     (ok → d0.get K.FLC_STATUS_OP_ACTIVE = 0 →
       (d0.xoSector (sectorOf o) = true → ∀ e, port e (some 0) fun d => d.get K.FLC_STATUS_XO_VIOL = 1 ∧ flash d) ∧
       (d0.xoSector (sectorOf o) = false → (∀ g, g < 4 → d0.get (K.INJ_SLOT_CTRL_STATE g) ≠ 1) →
         port 0 (some (leNum ((List.range 4).map fun k => d0.flashAt (o + k)))) (fun d => d.regs = d0.regs ∧ flash d) ∧
         ∃ v, port 2 (some v) fun d => d.get K.FLC_STATUS_UE_ANY = 1 ∧ d.get K.FLC_UE_ADDR = o / 32 * 32 ∧ flash d)))

/-- The first command of the queue is the next to run, with the queue's rest, whatever the state. -/
def Obligations.StepRunsTheFrontCommand : Prop :=
  ∀ (c : Instr) (rest : List Instr) (s : State),
    step { s with pending := c :: rest } = exec c { s with pending := rest }

/-- Every command of the table completes in every state, and none of them touches the commands that wait: the block never
stops, and its sender's commands keep their order. -/
def Obligations.EveryCommandCompletesAndKeepsTheQueue : Prop :=
  ∀ (c : Instr) (s : State), ∃ t, exec c s = .next t ∧ t.pending = s.pending

/-- R58, R116, R329, R424: what every step keeps. Memory and flash stay in their one canonical form, each address once, in
order, and no entry equal to what an unlisted address reads as, whether the step runs a command or ends a tick; and the
sampled events of a tick keep classes P1 to P7. -/
def Obligations.StepKeepsMemoryAndEventClasses : Prop :=
  ∀ (s t : State), step s = .next t →
    (Memory.wf s.dev = true → Memory.wf t.dev = true) ∧ (s.classesWf = true → t.classesWf = true)

/-- The state right after reset has the form that every step keeps, and no command waits in it. -/
def Obligations.ResetHasTheKeptForm : Prop :=
  Memory.wf State.reset.dev = true ∧ State.reset.classesWf = true ∧ State.reset.pending = []

/-- R16, R35, R58, R64, R441, R495, R512, R580: what reset leaves. Power-on reset is asserted and the hub supplies are not
valid; the mode is Sentry, no stage has begun, every site is Idle and holds nothing; the fields named here have the values
that their tables give; memory lists nothing and flash is erased (the model's choice, log 7). A general register is 0 (the
model's choice, log 63). -/
def Obligations.ResetState : Prop :=
  let d := State.reset.dev
  d.start.suppliesValid = false ∧ d.start.inPor = true ∧ d.get K.DEV_MODE_MODE = 0 ∧ d.get K.DEV_START_STATUS_STAGE = 0 ∧
  d.get K.DEV_START_STATUS_FAIL_DIE = 7 ∧ d.get K.DEV_RESET_CAUSE_POR = 1 ∧ d.get K.DEV_RESET_CAUSE_PIN = 0 ∧
  d.get K.DEV_IDCODE_ONE = 1 ∧ d.get K.DEV_IDCODE_VENDOR = 0x4A7 ∧ d.get K.CAS_HOLD_LIM = 200 ∧ d.get K.CAS_CMD_LEAD = 2000 ∧
  d.get K.CFG_TIMEOUT = 100 ∧ d.get K.FLC_STATUS_OP_ACTIVE = 0 ∧ d.get K.RGP_STATUS_COMMITTED = 0 ∧
  d.get K.NOP_CTRL_HUB_AUTO_RECOVER = 1 ∧
  (∀ c, c < 16 → d.get (K.HST_DMA_SIZE c) = 4 ∧ d.get (K.HST_DMA_CTRL_EN c) = 0) ∧
  (∀ n, n < 4 → d.get (K.FAB_SCRUB_CTRL_EN n) = 1 ∧ d.get (K.FAB_SCRUB_CTRL_PERIOD n) = 10 ∧
    d.get (K.CFG_DIE_STATUS_HELD n) = 1 ∧ d.get (K.CFG_DIE_STATUS_COMPLETE n) = 0) ∧
  (∀ i, i < 64 → d.siteState i = 0 ∧ d.get (K.SITE_CAUSE i) = 0) ∧
  (∀ u c, d.get (K.BST_LEASE_HOLDER u c) = 0) ∧
  (∀ y r, (d.core y).gGet r = 0) ∧ d.mem = [] ∧ d.flash = [] ∧ d.evl.slots = [] ∧ d.evl.queues = []
end

