-- ==== Sys2Proof/Laws/Tbl.lean ====
section
/-! SUPPORT. The laws of a table: a read after a write, and the canonical form kept. -/

namespace Sys2Proof.Machine

@[simp] theorem tblFind_put_same {α : Type} (t : Tbl α) (k : Nat) (a : α) : tblFind (tblPut t k a) k = some a := by
  induction t with
  | nil => simp [tblPut, tblFind]
  | cons e t ih =>
    obtain ⟨j, b⟩ := e
    by_cases h : j = k
    · simp [tblPut, tblFind, h]
    · by_cases h2 : k < j
      · simp [tblPut, tblFind, h, h2]
      · simp [tblPut, tblFind, h, h2, ih]

theorem tblFind_put_ne {α : Type} (t : Tbl α) {k k' : Nat} (a : α) (hk : k' ≠ k) :
    tblFind (tblPut t k a) k' = tblFind t k' := by
  induction t with
  | nil => simp [tblPut, tblFind, Ne.symm hk]
  | cons e t ih =>
    obtain ⟨j, b⟩ := e
    by_cases h : j = k
    · subst h; simp [tblPut, tblFind, Ne.symm hk]
    · by_cases h2 : k < j
      · simp [tblPut, tblFind, h, h2, Ne.symm hk]
      · simp [tblPut, tblFind, h, h2, ih]

@[simp] theorem tblGet_put_same {α : Type} (x : α) (t : Tbl α) (k : Nat) (a : α) : tblGet x (tblPut t k a) k = a := by
  simp [tblGet]

theorem tblGet_put_ne {α : Type} (x : α) (t : Tbl α) {k k' : Nat} (a : α) (hk : k' ≠ k) :
    tblGet x (tblPut t k a) k' = tblGet x t k' := by
  simp [tblGet, tblFind_put_ne t a hk]

/-- A lower bound may be weakened. -/
theorem tblSorted_weaken {α : Type} (t : Tbl α) (b : Option Nat) (c : Nat) (h : tblSorted (some c) t = true)
    (hb : ∀ x, b = some x → x ≤ c) : tblSorted b t = true := by
  cases t with
  | nil => cases b <;> rfl
  | cons e t =>
    obtain ⟨j, x⟩ := e
    simp only [tblSorted, Bool.and_eq_true, decide_eq_true_eq] at h
    cases b with
    | none => simpa [tblSorted] using h.2
    | some y =>
      have := hb y rfl
      simp only [tblSorted, Bool.and_eq_true, decide_eq_true_eq]
      exact ⟨by omega, h.2⟩

theorem tblSorted_put {α : Type} (t : Tbl α) (b : Option Nat) (k : Nat) (a : α) (h : tblSorted b t = true)
    (hb : ∀ x, b = some x → x < k) : tblSorted b (tblPut t k a) = true := by
  induction t generalizing b with
  | nil =>
    cases b with
    | none => rfl
    | some y => simpa [tblPut, tblSorted] using hb y rfl
  | cons e t ih =>
    obtain ⟨j, x⟩ := e
    by_cases h1 : j = k
    · subst h1
      cases b <;> simpa [tblPut, tblSorted] using h
    · by_cases h2 : k < j
      · have h3 : tblSorted (some j) t = true := by
          cases b <;> simp [tblSorted] at h <;> first | exact h | exact h.2
        cases b with
        | none => simp [tblPut, tblSorted, h1, h2, h3]
        | some y => simp [tblPut, tblSorted, h1, h2, h3, hb y rfl]
      · have hj : ∀ x, some j = some x → x < k := by
          intro x hx; cases hx; omega
        cases b with
        | none =>
          simp only [tblSorted] at h
          simpa [tblPut, tblSorted, h1, h2] using ih (some j) h hj
        | some y =>
          simp only [tblSorted, Bool.and_eq_true, decide_eq_true_eq] at h
          simpa [tblPut, tblSorted, h1, h2] using ⟨h.1, ih (some j) h.2 hj⟩

theorem tblSorted_filter {α : Type} (t : Tbl α) (p : Nat × α → Bool) (b : Option Nat) (h : tblSorted b t = true) :
    tblSorted b (t.filter p) = true := by
  induction t generalizing b with
  | nil => cases b <;> rfl
  | cons e t ih =>
    obtain ⟨j, x⟩ := e
    have h3 : tblSorted (some j) t = true := by
      cases b <;> simp [tblSorted] at h <;> first | exact h | exact h.2
    by_cases hp : p (j, x) = true
    · rw [List.filter_cons_of_pos hp]
      cases b with
      | none => simpa [tblSorted] using ih (some j) h3
      | some y =>
        simp only [tblSorted, Bool.and_eq_true, decide_eq_true_eq] at h ⊢
        exact ⟨h.1, ih _ h3⟩
    · rw [List.filter_cons_of_neg hp]
      refine tblSorted_weaken _ b j (ih _ h3) ?_
      intro y hy; subst hy
      simp only [tblSorted, Bool.and_eq_true, decide_eq_true_eq] at h
      omega

theorem tblErase_eq_filter {α : Type} (t : Tbl α) (k : Nat) : tblErase t k = t.filter fun e => e.1 != k := by
  induction t with
  | nil => rfl
  | cons e t ih =>
    obtain ⟨j, x⟩ := e
    by_cases h : j = k <;> simp [tblErase, h, ih]

theorem tblWf_put {α : Type} (t : Tbl α) (k : Nat) (a : α) (h : tblWf t = true) : tblWf (tblPut t k a) = true :=
  tblSorted_put t none k a h (fun _ hx => nomatch hx)

theorem tblWf_erase {α : Type} (t : Tbl α) (k : Nat) (h : tblWf t = true) : tblWf (tblErase t k) = true :=
  tblErase_eq_filter t k ▸ tblSorted_filter t _ none h

theorem tblWf_filter {α : Type} (t : Tbl α) (p : Nat × α → Bool) (h : tblWf t = true) : tblWf (t.filter p) = true :=
  tblSorted_filter t p none h

/-- A table without the entries whose key fails `p` finds what it found at a key that satisfies `p`, and nothing else. -/
theorem tblFind_keep {α : Type} (t : Tbl α) (p : Nat → Bool) (k : Nat) :
    tblFind (t.filter fun e => p e.1) k = if p k then tblFind t k else none := by
  induction t with
  | nil => simp [tblFind]
  | cons e t ih =>
    obtain ⟨j, x⟩ := e
    by_cases hp : p j = true
    · by_cases h : j = k
      · subst h; simp [tblFind, hp]
      · simp [tblFind, hp, h, ih]
    · by_cases h : j = k
      · subst h; simp [hp, ih]
      · simp [tblFind, hp, h, ih]

@[simp] theorem tblFind_erase_same {α : Type} (t : Tbl α) (k : Nat) : tblFind (tblErase t k) k = none := by
  rw [tblErase_eq_filter, tblFind_keep t (fun j => j != k) k]; simp

theorem tblFind_erase_ne {α : Type} (t : Tbl α) {k k' : Nat} (hk : k' ≠ k) :
    tblFind (tblErase t k) k' = tblFind t k' := by
  rw [tblErase_eq_filter, tblFind_keep t (fun j => j != k) k']; simp [hk]

@[simp] theorem tblGet_erase_same {α : Type} (x : α) (t : Tbl α) (k : Nat) : tblGet x (tblErase t k) k = x := by
  simp [tblGet]

theorem tblGet_erase_ne {α : Type} (x : α) (t : Tbl α) {k k' : Nat} (hk : k' ≠ k) :
    tblGet x (tblErase t k) k' = tblGet x t k' := by
  simp [tblGet, tblFind_erase_ne t hk]

theorem tblGet_keep {α : Type} (x : α) (t : Tbl α) (p : Nat → Bool) (k : Nat) :
    tblGet x (t.filter fun e => p e.1) k = if p k then tblGet x t k else x := by
  simp only [tblGet, tblFind_keep]; cases p k <;> rfl

theorem mem_tblPut {α : Type} (t : Tbl α) (k : Nat) (a : α) (e : Nat × α) (h : e ∈ tblPut t k a) :
    e = (k, a) ∨ e ∈ t := by
  induction t with
  | nil => simpa [tblPut] using h
  | cons x t ih =>
    obtain ⟨j, b⟩ := x
    by_cases h1 : j = k
    · simp [tblPut, h1] at h; rcases h with h | h <;> simp [h]
    · by_cases h2 : k < j
      · simp [tblPut, h1, h2] at h; rcases h with h | h | h <;> simp [h]
      · simp [tblPut, h1, h2] at h
        rcases h with h | h
        · simp [h]
        · rcases ih h with h | h <;> simp [h]

theorem mem_tblErase {α : Type} (t : Tbl α) (k : Nat) (e : Nat × α) (h : e ∈ tblErase t k) : e ∈ t := by
  rw [tblErase_eq_filter] at h; exact (List.mem_filter.mp h).1

end Sys2Proof.Machine
end

