-- ==== Sys2Proof/Laws/State.lean ====
section
/-! SUPPORT. Reads after writes: a register field, a core, a site and a link read after each of the operations that
write one, and the parts of the device that those operations leave alone. -/

namespace Sys2Proof.Machine

/-! ## Register fields -/

@[simp] theorem Dev.get_set_same (d : Dev) (f : Fld) (v : Nat) : (d.set f v).get f = v % 2 ^ f.width := by
  simp [Dev.get, Dev.set]

theorem Dev.get_set_ne (d : Dev) {f g : Fld} (v : Nat) (h : f.key ≠ g.key) : (d.set g v).get f = d.get f :=
  tblGet_put_ne _ _ _ h

/-- A field within its width reads as it was set. -/
theorem Dev.get_set_lt (d : Dev) (f : Fld) {v : Nat} (h : v < 2 ^ f.width) : (d.set f v).get f = v := by
  rw [Dev.get_set_same, Nat.mod_eq_of_lt h]

theorem Dev.get_put_same (d : Dev) (f : Fld) (b : Bool) (h : 0 < f.width) : (d.put f b).get f = bit b := by
  have : 1 < 2 ^ f.width := Nat.one_lt_two_pow (by omega)
  cases b <;> simp [Dev.put, bit]
  omega

theorem Dev.on_put_same (d : Dev) (f : Fld) (b : Bool) (h : 0 < f.width) : (d.put f b).on f = b := by
  rw [Dev.on, Dev.get_put_same d f b h]; cases b <;> rfl

theorem Dev.get_put_ne (d : Dev) {f g : Fld} (b : Bool) (h : f.key ≠ g.key) : (d.put g b).get f = d.get f :=
  Dev.get_set_ne d _ h

theorem Dev.get_putBit_ne (d : Dev) {f g : Fld} (n : Nat) (b : Bool) (h : f.key ≠ g.key) :
    (d.putBit g n b).get f = d.get f := Dev.get_set_ne d _ h

theorem Dev.get_bump_ne (d : Dev) {f g : Fld} (n : Nat) (h : f.key ≠ g.key) : (d.bump g n).get f = d.get f :=
  Dev.get_set_ne d _ h

theorem Dev.get_adv_ne (d : Dev) {f g : Fld} (n : Nat) (h : f.key ≠ g.key) : (d.adv g n).get f = d.get f :=
  Dev.get_set_ne d _ h

theorem Dev.get_set2_ne (d : Dev) {f lo hi : Fld} (v : Nat) (h1 : f.key ≠ lo.key) (h2 : f.key ≠ hi.key) :
    (d.set2 lo hi v).get f = d.get f := by
  rw [Dev.set2, Dev.get_set_ne _ _ h2, Dev.get_set_ne _ _ h1]

theorem Dev.on_congr {d d' : Dev} {f : Fld} (h : d'.get f = d.get f) : d'.on f = d.on f := by
  simp [Dev.on, h]

/-- A device whose registers are those of another reads the same fields. -/
theorem Dev.get_congr {d d' : Dev} (h : d'.regs = d.regs) (f : Fld) : d'.get f = d.get f := by
  simp [Dev.get, h]

/-! ## Cores, sites, links -/

@[simp] theorem Dev.core_setCore_same (d : Dev) (x : Nat) (c : Core) : (d.setCore x c).core x = c := by
  simp [Dev.core, Dev.setCore]

theorem Dev.core_setCore_ne (d : Dev) {x y : Nat} (c : Core) (h : y ≠ x) : (d.setCore x c).core y = d.core y :=
  tblGet_put_ne _ _ _ h

@[simp] theorem Dev.core_modCore_same (d : Dev) (x : Nat) (f : Core → Core) : (d.modCore x f).core x = f (d.core x) := by
  simp [Dev.modCore]

theorem Dev.core_modCore_ne (d : Dev) {x y : Nat} (f : Core → Core) (h : y ≠ x) : (d.modCore x f).core y = d.core y :=
  Dev.core_setCore_ne d _ h

@[simp] theorem Dev.core_modV_same (d : Dev) (x : Nat) (f : VCore → VCore) :
    (d.modV x f).core x = { d.core x with v := f (d.core x).v } := by
  simp [Dev.modV]

theorem Dev.core_modV_ne (d : Dev) {x y : Nat} (f : VCore → VCore) (h : y ≠ x) : (d.modV x f).core y = d.core y :=
  Dev.core_modCore_ne d _ h

@[simp] theorem Dev.site_modSite_same (d : Dev) (s : Nat) (f : SiteRt → SiteRt) : (d.modSite s f).site s = f (d.site s) := by
  simp [Dev.site, Dev.modSite]

theorem Dev.site_modSite_ne (d : Dev) {s r : Nat} (f : SiteRt → SiteRt) (h : r ≠ s) : (d.modSite s f).site r = d.site r :=
  tblGet_put_ne _ _ _ h

@[simp] theorem Dev.link_modLink_same (d : Dev) (l : Nat) (f : LinkRt → LinkRt) : (d.modLink l f).link l = f (d.link l) := by
  simp [Dev.link, Dev.modLink]

theorem Dev.link_modLink_ne (d : Dev) {l k : Nat} (f : LinkRt → LinkRt) (h : k ≠ l) : (d.modLink l f).link k = d.link k :=
  tblGet_put_ne _ _ _ h

/-! ## What the register operations leave alone -/

@[simp] theorem Dev.core_set (d : Dev) (f : Fld) (v x : Nat) : (d.set f v).core x = d.core x := rfl
@[simp] theorem Dev.core_put (d : Dev) (f : Fld) (b : Bool) (x : Nat) : (d.put f b).core x = d.core x := rfl
@[simp] theorem Dev.core_putBit (d : Dev) (f : Fld) (n : Nat) (b : Bool) (x : Nat) : (d.putBit f n b).core x = d.core x := rfl
@[simp] theorem Dev.core_bump (d : Dev) (f : Fld) (n x : Nat) : (d.bump f n).core x = d.core x := rfl
@[simp] theorem Dev.core_set2 (d : Dev) (lo hi : Fld) (v x : Nat) : (d.set2 lo hi v).core x = d.core x := rfl
@[simp] theorem Dev.site_set (d : Dev) (f : Fld) (v x : Nat) : (d.set f v).site x = d.site x := rfl
@[simp] theorem Dev.site_put (d : Dev) (f : Fld) (b : Bool) (x : Nat) : (d.put f b).site x = d.site x := rfl
@[simp] theorem Dev.get_setCore (d : Dev) (x : Nat) (c : Core) (f : Fld) : (d.setCore x c).get f = d.get f := rfl
@[simp] theorem Dev.get_modCore (d : Dev) (x : Nat) (g : Core → Core) (f : Fld) : (d.modCore x g).get f = d.get f := rfl
@[simp] theorem Dev.get_modV (d : Dev) (x : Nat) (g : VCore → VCore) (f : Fld) : (d.modV x g).get f = d.get f := rfl
@[simp] theorem Dev.get_modSite (d : Dev) (x : Nat) (g : SiteRt → SiteRt) (f : Fld) : (d.modSite x g).get f = d.get f := rfl
@[simp] theorem Dev.get_modLink (d : Dev) (x : Nat) (g : LinkRt → LinkRt) (f : Fld) : (d.modLink x g).get f = d.get f := rfl

/-! ## Loops -/

/-- What every pass of a loop keeps, the loop keeps. -/
theorem Dev.each_keeps {α β : Type} (p : Dev → β) (d : Dev) (l : List α) (f : Dev → α → Dev)
    (h : ∀ d a, p (f d a) = p d) : p (d.each l f) = p d := by
  unfold Dev.each
  induction l generalizing d with
  | nil => rfl
  | cons a l ih => exact (ih _).trans (h d a)

theorem Dev.when_keeps {β : Type} (p : Dev → β) (d : Dev) (c : Bool) (g : Dev → Dev) (h : ∀ d, p (g d) = p d) :
    p (d.when c g) = p d := by
  unfold Dev.when; split
  · exact h d
  · rfl

/-! ## The outcome of an effect on the device -/

theorem State.does_next (s : State) (f : Dev → Dev) : s.does f = .next { s with dev := f s.dev } := rfl

theorem State.doesAs_next (s : State) (e : Evt) (f : Dev → Dev) :
    s.doesAs e f = .next { s with dev := f s.dev, applied := s.applied ++ [(e, f s.dev)] } := rfl

end Sys2Proof.Machine
end

