-- ==== Sys2Proof/Laws/Issue.lean ====
section
/-! SUPPORT. What the issue of a Prajo control instruction does (R159, R160, R168, R523): a fetch that lets the
instruction execute leaves the controller's registers alone, and an instruction that issues is its body on the fetched
device. -/

namespace Sys2Proof.Machine

/-- The device `d'` comes from `d` by effects of a fetch of controller `x`: trace packets of `x`, register fields, the
event log and the TLBs alone. -/
structure FetchRel (x : Nat) (d d' : Dev) : Prop where
  others : ∀ y, y ≠ x → d'.core y = d.core y
  own : d'.core x = { d.core x with trace := (d'.core x).trace }
  rest : d' = { d with regs := d'.regs, evl := d'.evl, cores := d'.cores, ptu := d'.ptu }

theorem FetchRel.refl (x : Nat) (d : Dev) : FetchRel x d d := ⟨fun _ _ => rfl, rfl, rfl⟩

theorem FetchRel.trans {x : Nat} {a b c : Dev} (h : FetchRel x a b) (k : FetchRel x b c) : FetchRel x a c := by
  refine ⟨fun y hy => (k.others y hy).trans (h.others y hy), ?_, ?_⟩
  · rw [k.own, h.own]
  · rw [k.rest, h.rest]

theorem FetchRel.of_eq {x : Nat} {d d' : Dev} (hc : d'.cores = d.cores)
    (hr : d' = { d with regs := d'.regs, evl := d'.evl, ptu := d'.ptu }) : FetchRel x d d' := by
  have hk (y : Nat) : d'.core y = d.core y := by simp [Dev.core, hc]
  exact ⟨fun y _ => hk y, by rw [hk x], hr.trans (by rw [hc])⟩

theorem Dev.set_fetchRel (d : Dev) (f : Fld) (v x : Nat) : FetchRel x d (d.set f v) := FetchRel.of_eq rfl rfl

theorem Dev.injFired_fetchRel (d : Dev) (i x : Nat) : FetchRel x d (d.injFired i) := by
  unfold Dev.injFired; dsimp only
  split
  · exact (Dev.set_fetchRel _ _ _ _).trans (Dev.set_fetchRel _ _ _ _)
  · exact Dev.set_fetchRel _ _ _ _

theorem Dev.inject_fetchRel (d d' : Dev) (id : Nat) (p : Nat → Nat → Bool) (a x : Nat) (h : d.inject id p = some (a, d')) :
    FetchRel x d d' := by
  unfold Dev.inject at h
  cases hs : d.injSlot id p with
  | none => simp [hs] at h
  | some i => simp [hs] at h; rw [← h.2]; exact Dev.injFired_fetchRel _ _ _

theorem Dev.count48_fetchRel (d : Dev) (lo hi ovf : Fld) (n x : Nat) : FetchRel x d (d.count48 lo hi ovf n) := by
  unfold Dev.count48; dsimp only
  split
  · exact FetchRel.of_eq rfl rfl
  · exact FetchRel.of_eq rfl rfl

theorem Dev.lose_fetchRel (d : Dev) (c t x : Nat) : FetchRel x d (d.lose c t) := by
  unfold Dev.lose; dsimp only
  split
  · exact (Dev.count48_fetchRel _ _ _ _ _ _).trans (FetchRel.of_eq rfl rfl)
  · exact (Dev.count48_fetchRel _ _ _ _ _ _).trans (FetchRel.of_eq rfl rfl)

theorem Dev.traceOut_fetchRel (d : Dev) (x ty arg c l data : Nat) : FetchRel x d (d.traceOut x ty arg c l data) := by
  unfold Dev.traceOut; dsimp only
  split
  · exact .refl x d
  · split
    · rename_i h
      exact (Dev.inject_fetchRel _ _ _ _ _ x h).trans (Dev.lose_fetchRel _ _ _ _)
    · split
      · refine ⟨fun y hy => Dev.core_modCore_ne _ _ hy, ?_, rfl⟩
        simp
      · exact Dev.lose_fetchRel _ _ _ _

theorem Dev.when_fetchRel (x : Nat) (d : Dev) (c : Bool) (g : Dev → Dev) (h : ∀ d, FetchRel x d (g d)) :
    FetchRel x d (d.when c g) := by
  unfold Dev.when; split
  · exact h d
  · exact .refl x d

theorem Dev.compareOne_fetchRel (d : Dev) (q k a c i : Nat) : FetchRel q d (d.compareOne q k a c i).1 := by
  unfold Dev.compareOne; dsimp only
  split
  · exact .refl q d
  · exact ((Dev.set_fetchRel _ _ _ _).trans (Dev.set_fetchRel _ _ _ _)).trans
      (Dev.when_fetchRel _ _ _ _ fun _ => Dev.traceOut_fetchRel _ _ _ _ _ _ _)

theorem Dev.compareHub_fetchRel (d : Dev) (a i : Nat) : FetchRel 64 d (d.compareHub a i).1 := by
  unfold Dev.compareHub; dsimp only
  split
  · exact .refl 64 d
  · exact (Dev.set_fetchRel _ _ _ _).trans
      (Dev.when_fetchRel _ _ _ _ fun _ => Dev.traceOut_fetchRel _ _ _ _ _ _ _)

theorem foldl_fetchRel (x : Nat) (f : Dev × Bool → Nat → Dev × Bool) (h : ∀ p i, FetchRel x p.1 (f p i).1)
    (l : List Nat) (p : Dev × Bool) : FetchRel x p.1 (l.foldl f p).1 := by
  induction l generalizing p with
  | nil => exact .refl x _
  | cons i l ih => exact (h p i).trans (ih _)

theorem Dev.compare_fetchRel (d : Dev) (x k a c : Nat) : FetchRel x d (d.compare x k a c).1 := by
  unfold Dev.compare
  split
  · rename_i h; subst h
    refine foldl_fetchRel 64 _ (fun p i => ?_) _ (d, false)
    exact Dev.compareHub_fetchRel p.1 a i
  · refine foldl_fetchRel x _ (fun p i => ?_) _ (d, false)
    exact Dev.compareOne_fetchRel p.1 x k a c i

theorem Dev.translate_fetchRel (d : Dev) (q va own : Nat) (ecc : Option Nat) (x : Nat) :
    FetchRel x d (d.translate q va own ecc).1 := by
  unfold Dev.translate; dsimp only
  split
  · exact FetchRel.of_eq rfl rfl
  · split
    · exact Dev.count48_fetchRel _ _ _ _ _ _
    · exact (Dev.count48_fetchRel _ _ _ _ _ _).trans (FetchRel.of_eq rfl rfl)

theorem Dev.ptuFault_fetchRel (d : Dev) (q : Nat) (f : TFail) (c : Bool) (x : Nat) : FetchRel x d (d.ptuFault q f c) := by
  unfold Dev.ptuFault; dsimp only
  split
  · exact FetchRel.of_eq rfl rfl
  · exact FetchRel.of_eq rfl rfl

theorem Dev.ctlTranslate_fetchRel (d : Dev) (q va : Nat) (u : CtlUse) (x : Nat) :
    FetchRel x d (d.ctlTranslate q va u).1 := by
  have ht := Dev.translate_fetchRel d q va 64 none x
  unfold Dev.ctlTranslate
  split
  · rename_i h; rw [h] at ht; exact ht.trans (Dev.ptuFault_fetchRel _ _ _ _ _)
  · rename_i h; rw [h] at ht
    split
    · exact ht
    · exact ht.trans (Dev.ptuFault_fetchRel _ _ _ _ _)

/-- A fetch that lets the instruction execute changes of the controller its trace buffer, the word that the comparators
have judged and the instruction cache's state alone; no other controller; and of the device the register fields, the
event log, the cores and the TLBs alone. -/
structure Fetched (x : Nat) (d d' : Dev) : Prop where
  others : ∀ y, y ≠ x → d'.core y = d.core y
  own : d'.core x = { d.core x with trace := (d'.core x).trace, fetched := (d'.core x).fetched, icache := true }
  rest : d' = { d with regs := d'.regs, evl := d'.evl, cores := d'.cores, ptu := d'.ptu }

theorem Dev.fetchMatch_rel (d : Dev) (x : Nat) (h : (d.fetchMatch x).2 = true) :
    (∀ y, y ≠ x → (d.fetchMatch x).1.core y = d.core y) ∧
    (d.fetchMatch x).1.core x = { d.core x with
      trace := ((d.fetchMatch x).1.core x).trace, fetched := ((d.fetchMatch x).1.core x).fetched } ∧
    (d.fetchMatch x).1 = { d with regs := (d.fetchMatch x).1.regs, evl := (d.fetchMatch x).1.evl
                                  cores := (d.fetchMatch x).1.cores, ptu := (d.fetchMatch x).1.ptu } := by
  revert h
  unfold Dev.fetchMatch; dsimp only
  generalize (if (d.core x).pfx.isSome then 1 else 0) = w
  split
  · intro _; exact ⟨fun _ _ => rfl, rfl, rfl⟩
  · have hc := Dev.compare_fetchRel d x 0 (pcWrap ((d.core x).pc + 8 * w : Nat)) 0
    generalize d.compare x 0 (pcWrap ((d.core x).pc + 8 * w : Nat)) 0 = p at hc ⊢
    obtain ⟨e, b⟩ := p
    dsimp only at hc ⊢
    split
    · intro h; simp at h
    · intro _
      refine ⟨fun y hy => ?_, ?_, ?_⟩
      · rw [Dev.core_modCore_ne _ _ hy]; exact hc.others y hy
      · simp only [Dev.core_modCore_same]; rw [hc.own]
      · have := hc.rest
        simp only [Dev.modCore, Dev.setCore]
        rw [this]

theorem Dev.fetch_fetched (d : Dev) (x : Nat) (h : (d.fetch x).2 = true) : Fetched x d (d.fetch x).1 := by
  have hm := Dev.fetchMatch_rel d x
  revert h
  unfold Dev.fetch
  split
  · intro h; simp at h
  · rename_i e he
    rw [he] at hm
    obtain ⟨h1, h2, h3⟩ := hm rfl
    dsimp only at h1 h2 h3 ⊢
    have base : Fetched x d (e.modCore x fun c => { c with icache := true }) := by
      refine ⟨fun y hy => ?_, ?_, ?_⟩
      · rw [Dev.core_modCore_ne _ _ hy]; exact h1 y hy
      · simp only [Dev.core_modCore_same]; rw [h2]
      · simp only [Dev.modCore, Dev.setCore]; rw [h3]
    split
    · intro _; exact base
    · split
      · rename_i e2 _ he2
        intro _
        have ht := congrArg Prod.fst he2 ▸ Dev.ctlTranslate_fetchRel (e.modCore x fun c => { c with icache := true }) x
          (pcWrap (((e.modCore x fun c => { c with icache := true }).core x).pc
            + (if ((e.modCore x fun c => { c with icache := true }).core x).pfx.isSome then 8 else 0) : Nat)) .fetch x
        dsimp only at ht ⊢
        refine ⟨fun y hy => (ht.others y hy).trans (base.others y hy), ?_, ?_⟩
        · rw [ht.own, base.own]
        · rw [ht.rest, base.rest]
      · intro h; simp at h

/-- An instruction that issues is its body on the fetched device. -/
theorem Dev.issue_body (d : Dev) (x : Nat) (gs fs : List Nat) (p : Bool) (body : Dev → Dev) (hr : d.ctlReady x = true)
    (ha : (d.core x).awaits gs fs = false) (hf : (d.fetch x).2 = true) (hp : (d.core x).pfx = none ∨ p = true) :
    d.issue x gs fs p body = (body (d.fetch x).1).afterInstr x := by
  have hx := Dev.fetch_fetched d x hf
  have hq : ((d.fetch x).1.core x).pfx = (d.core x).pfx := by rw [hx.own]
  unfold Dev.issue
  simp only [hr, ha, Bool.not_true, Bool.or_self, Bool.false_eq_true, if_false, hf]
  rcases hp with hp | hp
  · simp [hq, hp]
  · simp [hp]

/-- Without a debug step nothing follows an instruction. -/
theorem Dev.afterInstr_idle (d : Dev) (x : Nat) (h : (d.core x).stepping = false) : d.afterInstr x = d := by
  simp [Dev.afterInstr, h]

/-- A g register read after a write of one: g0 reads zero and keeps nothing (R127). -/
theorem Core.gGet_gSet (c : Core) (rd r : Nat) (v : DWord) :
    (c.gSet rd v).gGet r = if r = rd ∧ r ≠ 0 then v else c.gGet r := by
  unfold Core.gSet Core.gGet
  by_cases h0 : rd = 0
  · subst h0; by_cases h : r = 0 <;> simp [h]
  · by_cases h : r = rd
    · subst h; simp [h0]
    · simp only [h0, if_false, h, false_and]
      rw [tblGet_put_ne _ _ _ h]

/-- An f register read after a write of one. -/
theorem Core.fGet_fSet (c : Core) (rd r : Nat) (v : DWord) : (c.fSet rd v).fGet r = if r = rd then v else c.fGet r := by
  unfold Core.fSet Core.fGet
  by_cases h : r = rd
  · subst h; simp
  · simp only [h, if_false]; rw [tblGet_put_ne _ _ _ h]

/-- An instruction that issues and whose body changes its own controller alone leaves every other controller alone, and of
the device no more than its fetch does. -/
theorem Dev.issue_modCore (d : Dev) (x : Nat) (gs fs : List Nat) (p : Bool) (g : Core → Core) (hr : d.ctlReady x = true)
    (ha : (d.core x).awaits gs fs = false) (hf : (d.fetch x).2 = true) (hp : (d.core x).pfx = none ∨ p = true)
    (hs : (d.core x).stepping = false) (hg : ∀ c, (g c).stepping = c.stepping) :
    d.issue x gs fs p (fun d => d.modCore x g) = (d.fetch x).1.modCore x g := by
  have hF := Dev.fetch_fetched d x hf
  have hs' : ((d.fetch x).1.core x).stepping = false := by rw [hF.own]; exact hs
  rw [Dev.issue_body d x gs fs p _ hr ha hf hp, Dev.afterInstr_idle]
  simp [hg, hs']

end Sys2Proof.Machine
end

