-- ==== Sys2Proof/Laws/Memory.lean ====
section
/-! SUPPORT. Memory and flash: a read after a write, and the canonical form kept by every memory operation. -/

namespace Sys2Proof.Machine

/-- The canonical form depends on the stored bytes and on what an unlisted byte reads as, and on nothing else. -/
theorem memory_wf_congr {d d' : Dev} (h : d'.memPart = d.memPart) : Memory.wf d' = Memory.wf d := by
  simp only [Memory.wf, h]

theorem Dev.memGet_congr {d d' : Dev} (h : d'.memPart = d.memPart) (a : Nat) : d'.memGet a = d.memGet a := by
  simp only [Dev.memPart, MemPart.mk.injEq] at h
  obtain ⟨h1, h2, h3, h4⟩ := h
  simp only [Dev.memGet, Dev.blankByte, h1, h2, h3]

theorem Memory.wf_mem {d : Dev} (h : Memory.wf d = true) : tblWf d.mem = true := by
  simp only [Memory.wf, MemPart.wf, Bool.and_eq_true] at h; exact h.1.1.1

theorem Memory.wf_iff (d : Dev) : Memory.wf d = true ↔
    tblWf d.mem = true ∧ (∀ c ∈ d.mem, c.2 ≠ d.blankByte c.1) ∧ tblWf d.flash = true ∧ ∀ c ∈ d.flash, c.2 ≠ 0xFF := by
  have e : ∀ a, d.memPart.blank a = d.blankByte a := fun _ => rfl
  simp only [Memory.wf, MemPart.wf, Bool.and_eq_true, List.all_eq_true, bne_iff_ne, ne_eq, e]
  exact and_assoc.trans and_assoc

/-- Bytes dropped from memory leave the canonical form when what the bytes that stay would read as unlisted stays. -/
theorem memory_wf_filter (d : Dev) (f : Nat × Byte → Bool) (p : MemPart) (hw : d.memPart.wf = true)
    (hb : ∀ c ∈ d.mem, f c = true → p.blank c.1 = d.memPart.blank c.1) :
    (⟨d.mem.filter f, p.zeroed, p.hbmEpoch, d.flash⟩ : MemPart).wf = true := by
  obtain ⟨h1, h2, h3, h4⟩ := (Memory.wf_iff d).mp hw
  simp only [MemPart.wf, Bool.and_eq_true, List.all_eq_true, bne_iff_ne, ne_eq]
  refine ⟨⟨⟨tblWf_filter _ _ h1, fun c hc => ?_⟩, h3⟩, h4⟩
  have hm := List.mem_filter.mp hc
  have e := hb c hm.1 hm.2
  exact fun h => h2 c hm.1 (h.trans e)

@[simp] theorem Dev.memPut_blank (d : Dev) (a : Nat) (b : Byte) (x : Nat) :
    (d.memPut a b).blankByte x = d.blankByte x := by
  unfold Dev.memPut; split <;> rfl

/-- A byte reads as it was last written. -/
theorem Dev.memGet_memPut_same (d : Dev) (a : Nat) (b : Byte) : (d.memPut a b).memGet a = b := by
  unfold Dev.memGet
  rw [Dev.memPut_blank]
  unfold Dev.memPut
  split
  · next hb => simp [tblGet, tblFind_erase_same, hb]
  · simp

/-- A write leaves every other byte as it was. -/
theorem Dev.memGet_memPut_ne (d : Dev) {a x : Nat} (b : Byte) (hx : x ≠ a) :
    (d.memPut a b).memGet x = d.memGet x := by
  unfold Dev.memGet
  rw [Dev.memPut_blank]
  unfold Dev.memPut
  split
  · simp [tblGet, tblFind_erase_ne _ hx]
  · simp [tblGet_put_ne _ _ _ hx]

theorem Dev.memPut_wf (d : Dev) (a : Nat) (b : Byte) (h : Memory.wf d = true) : Memory.wf (d.memPut a b) = true := by
  rw [Memory.wf_iff] at h ⊢
  obtain ⟨h1, h2, h3, h4⟩ := h
  simp only [Dev.memPut_blank]
  unfold Dev.memPut
  split
  · exact ⟨tblWf_erase _ _ h1, fun c hc => h2 c (mem_tblErase _ _ _ hc), h3, h4⟩
  · next hb =>
    refine ⟨tblWf_put _ _ _ h1, fun c hc => ?_, h3, h4⟩
    rcases mem_tblPut _ _ _ _ hc with rfl | hc
    · exact hb
    · exact h2 c hc

theorem Dev.memSet_wf (n : Nat) (d : Dev) (a v : Nat) (h : Memory.wf d = true) : Memory.wf (d.memSet a n v) = true := by
  induction n generalizing d a v with
  | zero => exact h
  | succ n ih => exact ih _ _ _ (Dev.memPut_wf _ _ _ h)

theorem Dev.poke_wf (d : Dev) (a : Nat) (b : Byte) (h : Memory.wf d = true) : Memory.wf (d.poke a b) = true := by
  unfold Dev.poke; split
  · exact h
  · exact Dev.memPut_wf _ _ _ h

theorem Dev.pokeNum_wf (n : Nat) (d : Dev) (a v : Nat) (h : Memory.wf d = true) :
    Memory.wf (d.pokeNum a n v) = true := by
  induction n generalizing d a v with
  | zero => exact h
  | succ n ih => exact ih _ _ _ (Dev.poke_wf _ _ _ h)

theorem Dev.pokeBytes_wf (l : List Byte) (d : Dev) (a : Nat) (h : Memory.wf d = true) :
    Memory.wf (d.pokeBytes a l) = true := by
  induction l generalizing d a with
  | nil => exact h
  | cons b l ih => exact ih _ _ (Dev.poke_wf _ _ _ h)

theorem Dev.flashPut_wf (d : Dev) (o : Nat) (b : Byte) (h : Memory.wf d = true) : Memory.wf (d.flashPut o b) = true := by
  rw [Memory.wf_iff] at h ⊢
  obtain ⟨h1, h2, h3, h4⟩ := h
  refine ⟨h1, h2, ?_⟩
  unfold Dev.flashPut
  dsimp only
  split
  · exact ⟨tblWf_erase _ _ h3, fun c hc => h4 c (mem_tblErase _ _ _ hc)⟩
  · next hb =>
    refine ⟨tblWf_put _ _ _ h3, fun c hc => ?_⟩
    rcases mem_tblPut _ _ _ _ hc with rfl | hc
    · exact hb
    · exact h4 c hc

theorem Dev.flashPuts_wf (l : List Byte) (d : Dev) (o : Nat) (h : Memory.wf d = true) :
    Memory.wf (d.flashPuts o l) = true := by
  induction l generalizing d o with
  | nil => exact h
  | cons b l ih => exact ih _ _ (Dev.flashPut_wf _ _ _ h)

theorem Dev.sectorErase_wf (d : Dev) (i : Nat) (h : Memory.wf d = true) : Memory.wf (d.sectorErase i) = true := by
  rw [Memory.wf_iff] at h ⊢
  obtain ⟨h1, h2, h3, h4⟩ := h
  exact ⟨h1, h2, tblWf_filter _ _ h3, fun c hc => h4 c (List.mem_of_mem_filter hc)⟩

theorem Dev.sectorLost_wf (d : Dev) (i : Nat) (h : Memory.wf d = true) : Memory.wf (d.sectorLost i) = true :=
  (memory_wf_congr (d := d.sectorErase i) rfl).trans (Dev.sectorErase_wf d i h)

end Sys2Proof.Machine
end

