-- ==== Sys2Proof/Laws/MemFrame0.lean ====
section
/-! SUPPORT. Memory frames, part 1 of 8: for every function of the model that leaves the device's memory part
(`MemPart`: the byte store, its zeroed ranges, the HBM epoch and the flash) alone, the lemma `F_memPart`
that says so. The lemmas follow the order of the model's call graph. -/

set_option linter.all false

namespace Sys2Proof.Machine
theorem memPart_mk x0 x1 x2 x3 x4 x5 x6 x7 x8 x9 x10 x11 x12 x13 x14 x15 x16 x17 x18 x19 x20 x21 x22 x23 x24 x25 x26 x27 x28 x29 x30 x31 x32 x33 x34 x35 :
  Dev.memPart (Dev.mk x0 x1 x2 x3 x4 x5 x6 x7 x8 x9 x10 x11 x12 x13 x14 x15 x16 x17 x18 x19 x20 x21 x22 x23 x24 x25 x26 x27 x28 x29 x30 x31 x32 x33 x34 x35) = ⟨x4, x6, x5, x7⟩ := rfl
theorem memPart_fold (d : Dev) : (⟨d.mem, d.zeroed, d.hbmEpoch, d.flash⟩ : MemPart) = d.memPart := rfl
theorem Dev.set_memPart (d : Dev) (f : Fld) (v : Nat) :
    (Dev.set d f v).memPart = d.memPart := by
  rfl

theorem Dev.put_memPart (d : Dev) (f : Fld) (b : Bool) :
    (Dev.put d f b).memPart = d.memPart := by
  rfl

theorem Dev.bump_memPart (d : Dev) (f : Fld) (n : Nat) :
    (Dev.bump d f n).memPart = d.memPart := by
  rfl

theorem Dev.adv_memPart (d : Dev) (f : Fld) (n : Nat) :
    (Dev.adv d f n).memPart = d.memPart := by
  rfl

theorem Dev.set2_memPart (d : Dev) (lo : Fld) (hi : Fld) (v : Nat) :
    (Dev.set2 d lo hi v).memPart = d.memPart := by
  rfl

theorem Dev.putBit_memPart (d : Dev) (f : Fld) (n : Nat) (b : Bool) :
    (Dev.putBit d f n b).memPart = d.memPart := by
  rfl

theorem Dev.each_memPart {α : Type} (d : Dev) (l : List α) (f : Dev → α → Dev) (hf : ∀ d a, (f d a).memPart = d.memPart) :
    (d.each l f).memPart = d.memPart := by
  unfold Dev.each
  induction l generalizing d with
  | nil => rfl
  | cons a l ih => exact (ih _).trans (hf d a)

theorem Dev.when_memPart (d : Dev) (c : Bool) (g : Dev → Dev) (hg : ∀ d, (g d).memPart = d.memPart) :
    (d.when c g).memPart = d.memPart := by
  unfold Dev.when; split
  · exact hg d
  · rfl

theorem Dev.freeVal_memPart (d : Dev) (a : Nat) :
    (Dev.freeVal d a).2.memPart = d.memPart := by
  rfl

theorem Dev.message_memPart (d : Dev) (v : Nat) :
    (Dev.message d v).memPart = d.memPart := by
  simp only [Dev.message, apply_ite Dev.memPart, memPart_mk, memPart_fold, ite_self, implies_true]

theorem Dev.irq_memPart (d : Dev) (src : Nat) :
    (Dev.irq d src).memPart = d.memPart := by
  simp only [Dev.irq, apply_ite Dev.memPart, memPart_mk, memPart_fold, Dev.message_memPart, Dev.putBit_memPart, ite_self, implies_true]

theorem Dev.count48_memPart (d : Dev) (lo : Fld) (hi : Fld) (ovf : Fld) (n : Nat) :
    (Dev.count48 d lo hi ovf n).memPart = d.memPart := by
  simp only [Dev.count48, apply_ite Dev.memPart, memPart_mk, memPart_fold, Dev.put_memPart, Dev.set2_memPart, ite_self, implies_true]

theorem Dev.lose_memPart (d : Dev) (cls : Nat) (t : Nat) :
    (Dev.lose d cls t).memPart = d.memPart := by
  simp only [Dev.lose, apply_ite Dev.memPart, memPart_mk, memPart_fold, Dev.count48_memPart, ite_self, implies_true]

theorem Dev.post_memPart (d : Dev) (r : Rec) :
    (Dev.post d r).memPart = d.memPart := by
  simp only [Dev.post, apply_ite Dev.memPart, memPart_mk, memPart_fold, Dev.lose_memPart, ite_self, implies_true]

theorem Dev.logA_memPart (d : Dev) (ty : Nat) (unit : Nat) (data : Nat) (site : Option Nat) :
    (Dev.logA d ty unit data site).memPart = d.memPart := by
  rfl

theorem Dev.logB_memPart (d : Dev) (ty : Nat) (unit : Nat) (data : Nat) (site : Option Nat) :
    (Dev.logB d ty unit data site).memPart = d.memPart := by
  simp only [Dev.logB, apply_ite Dev.memPart, memPart_mk, memPart_fold, Dev.post_memPart, ite_self, implies_true]

theorem Dev.logAOn_memPart (d : Dev) (die : Nat) (ty : Nat) (unit : Nat) (data : Nat) (site : Option Nat) :
    (Dev.logAOn d die ty unit data site).memPart = d.memPart := by
  rfl

theorem Dev.logBOn_memPart (d : Dev) (die : Nat) (ty : Nat) (unit : Nat) (data : Nat) (site : Option Nat) :
    (Dev.logBOn d die ty unit data site).memPart = d.memPart := by
  simp only [Dev.logBOn, apply_ite Dev.memPart, memPart_mk, memPart_fold, Dev.post_memPart, ite_self, implies_true]

theorem Dev.levelSeen_memPart (d : Dev) (level : Nat) (mark : Fld) (peak : Fld) (hit : Fld) :
    (Dev.levelSeen d level mark peak hit).1.memPart = d.memPart := by
  simp only [Dev.levelSeen, apply_ite Dev.memPart, apply_ite Prod.fst, memPart_mk, memPart_fold, Dev.put_memPart, Dev.set_memPart, ite_self, implies_true]

theorem Dev.levelClear_memPart (d : Dev) (level : Nat) (mark : Fld) (peak : Fld) (hit : Fld) :
    (Dev.levelClear d level mark peak hit).memPart = d.memPart := by
  rfl

theorem Dev.setCore_memPart (d : Dev) (x : Nat) (c : Core) :
    (Dev.setCore d x c).memPart = d.memPart := by
  rfl

theorem Dev.modCore_memPart (d : Dev) (x : Nat) (f : Core → Core) :
    (Dev.modCore d x f).memPart = d.memPart := by
  rfl

theorem Dev.modV_memPart (d : Dev) (x : Nat) (f : VCore → VCore) :
    (Dev.modV d x f).memPart = d.memPart := by
  rfl

theorem Dev.modSite_memPart (d : Dev) (s : Nat) (f : SiteRt → SiteRt) :
    (Dev.modSite d s f).memPart = d.memPart := by
  rfl

theorem Dev.setCoreState_memPart (d : Dev) (q : Nat) (st : Nat) :
    (Dev.setCoreState d q st).memPart = d.memPart := by
  rfl

theorem Dev.schedMark_memPart (d : Dev) (t : Nat) (e : Nat) (st : Nat) (res : Nat) :
    (Dev.schedMark d t e st res).memPart = d.memPart := by
  rfl

theorem Dev.schedEnd_memPart (d : Dev) (t : Nat) (e : Nat) (st : Nat) (res : Nat) :
    (Dev.schedEnd d t e st res).memPart = d.memPart := by
  simp only [Dev.schedEnd, apply_ite Dev.memPart, memPart_mk, memPart_fold, Dev.each_memPart, Dev.schedMark_memPart, ite_self, implies_true]

theorem Dev.cancelStarts_memPart (d : Dev) (s : Nat) :
    (Dev.cancelStarts d s).memPart = d.memPart := by
  simp only [Dev.cancelStarts, apply_ite Dev.memPart, memPart_mk, memPart_fold, Dev.each_memPart, Dev.schedEnd_memPart, ite_self, implies_true]

theorem Dev.park_memPart (d : Dev) (c : Nat) :
    (Dev.park d c).memPart = d.memPart := by
  simp only [Dev.park, apply_ite Dev.memPart, memPart_mk, memPart_fold, Dev.putBit_memPart, ite_self, implies_true]

theorem Dev.unpark_memPart (d : Dev) (c : Nat) :
    (Dev.unpark d c).memPart = d.memPart := by
  rfl

theorem Dev.parkSite_memPart (d : Dev) (s : Nat) :
    (Dev.parkSite d s).memPart = d.memPart := by
  simp only [Dev.parkSite, apply_ite Dev.memPart, memPart_mk, memPart_fold, Dev.each_memPart, Dev.park_memPart, ite_self, implies_true]

theorem Dev.parkAll_memPart (d : Dev) :
    (Dev.parkAll d).memPart = d.memPart := by
  simp only [Dev.parkAll, apply_ite Dev.memPart, memPart_mk, memPart_fold, Dev.each_memPart, Dev.park_memPart, ite_self, implies_true]

theorem Dev.refreshLines_memPart (d : Dev) :
    (Dev.refreshLines d).memPart = d.memPart := by
  rfl

theorem Dev.refreshMode_memPart (d : Dev) :
    (Dev.refreshMode d).memPart = d.memPart := by
  simp only [Dev.refreshMode, apply_ite Dev.memPart, memPart_mk, memPart_fold, Dev.set_memPart, ite_self, implies_true]

theorem Dev.setSiteState_memPart (d : Dev) (s : Nat) (st : Nat) :
    (Dev.setSiteState d s st).memPart = d.memPart := by
  simp only [Dev.setSiteState, apply_ite Dev.memPart, memPart_mk, memPart_fold, Dev.irq_memPart, Dev.refreshMode_memPart, Dev.set_memPart, ite_self, implies_true]

theorem Dev.unpinAll_memPart (d : Dev) (q : Nat) :
    (Dev.unpinAll d q).memPart = d.memPart := by
  rfl

theorem Dev.stopPipes_memPart (d : Dev) (q : Nat) :
    (Dev.stopPipes d q).memPart = d.memPart := by
  rfl

theorem Dev.coreParked_memPart (d : Dev) (q : Nat) :
    (Dev.coreParked d q).memPart = d.memPart := by
  rfl

theorem Dev.coresParked_memPart (d : Dev) (s : Nat) :
    (Dev.coresParked d s).memPart = d.memPart := by
  simp only [Dev.coresParked, apply_ite Dev.memPart, memPart_mk, memPart_fold, Dev.coreParked_memPart, Dev.each_memPart, ite_self, implies_true]

theorem Dev.abortSite_memPart (d : Dev) (s : Nat) :
    (Dev.abortSite d s).memPart = d.memPart := by
  simp only [Dev.abortSite, apply_ite Dev.memPart, memPart_mk, memPart_fold, Dev.coresParked_memPart, Dev.modSite_memPart, Dev.parkSite_memPart, Dev.put_memPart, Dev.setSiteState_memPart, ite_self, implies_true]

theorem Dev.multiOn_memPart (d : Dev) (s : Nat) (cause : Nat) (code : Nat) (q : Nat) :
    (Dev.multiOn d s cause code q).memPart = d.memPart := by
  simp only [Dev.multiOn, apply_ite Dev.memPart, memPart_mk, memPart_fold, Dev.logBOn_memPart, Dev.put_memPart, ite_self, implies_true]

theorem Dev.stopMulti_memPart (d : Dev) (s : Nat) (cause : Nat) :
    (Dev.stopMulti d s cause).memPart = d.memPart := by
  simp only [Dev.stopMulti, apply_ite Dev.memPart, memPart_mk, memPart_fold, Dev.each_memPart, Dev.multiOn_memPart, ite_self, implies_true]

theorem Dev.stopNoted_memPart (d : Dev) (s : Nat) (cause : Nat) :
    (Dev.stopNoted d s cause).memPart = d.memPart := by
  simp only [Dev.stopNoted, apply_ite Dev.memPart, memPart_mk, memPart_fold, Dev.bump_memPart, Dev.logB_memPart, Dev.set_memPart, Dev.set2_memPart, ite_self, implies_true]

theorem Dev.stopReq_memPart (d : Dev) (s : Nat) (cause : Nat) :
    (Dev.stopReq d s cause).memPart = d.memPart := by
  simp only [Dev.stopReq, apply_ite Dev.memPart, memPart_mk, memPart_fold, Dev.cancelStarts_memPart, Dev.modSite_memPart, Dev.stopMulti_memPart, Dev.stopNoted_memPart, ite_self, implies_true]

theorem Dev.stopReqs_memPart (d : Dev) (l : List Nat) (cause : Nat) :
    (Dev.stopReqs d l cause).memPart = d.memPart := by
  simp only [Dev.stopReqs, apply_ite Dev.memPart, memPart_mk, memPart_fold, Dev.each_memPart, Dev.stopReq_memPart, ite_self, implies_true]

theorem Dev.modLink_memPart (d : Dev) (l : Nat) (f : LinkRt → LinkRt) :
    (Dev.modLink d l f).memPart = d.memPart := by
  rfl

theorem Dev.faultNoted_memPart (d : Dev) (q : Nat) (code : Nat) (pc : Nat) (addr : Nat) :
    (Dev.faultNoted d q code pc addr).memPart = d.memPart := by
  simp only [Dev.faultNoted, apply_ite Dev.memPart, memPart_mk, memPart_fold, Dev.logBOn_memPart, Dev.set_memPart, Dev.set2_memPart, ite_self, implies_true]

theorem Dev.stopPipe_memPart (d : Dev) (q : Nat) (vec : Bool) :
    (Dev.stopPipe d q vec).memPart = d.memPart := by
  simp only [Dev.stopPipe, apply_ite Dev.memPart, memPart_mk, memPart_fold, Dev.modCore_memPart, Dev.modV_memPart, ite_self, implies_true]

theorem Dev.coreFault_memPart (d : Dev) (q : Nat) (code : Nat) (pc : Nat) (addr : Nat) (vec : Bool) :
    (Dev.coreFault d q code pc addr vec).memPart = d.memPart := by
  unfold Dev.coreFault
  dsimp only
  repeat' split
  all_goals first | simp only [apply_ite Dev.memPart, memPart_mk, memPart_fold, Dev.abortSite_memPart, Dev.cancelStarts_memPart, Dev.faultNoted_memPart, Dev.modSite_memPart, Dev.multiOn_memPart, Dev.put_memPart, Dev.setCoreState_memPart, Dev.stopNoted_memPart, Dev.stopPipe_memPart, Dev.stopPipes_memPart, Dev.stopReq_memPart, ite_self, implies_true] | rfl

theorem Dev.hubFault_memPart (d : Dev) (code : Nat) (pc : Nat) :
    (Dev.hubFault d code pc).memPart = d.memPart := by
  simp only [Dev.hubFault, apply_ite Dev.memPart, memPart_mk, memPart_fold, Dev.logB_memPart, Dev.modCore_memPart, ite_self, implies_true]

theorem Dev.ctlFault_memPart (d : Dev) (x : Nat) (code : Nat) (addr : Nat) :
    (Dev.ctlFault d x code addr).memPart = d.memPart := by
  simp only [Dev.ctlFault, apply_ite Dev.memPart, memPart_mk, memPart_fold, Dev.coreFault_memPart, Dev.hubFault_memPart, ite_self, implies_true]

theorem Dev.ctlFaultPlain_memPart (d : Dev) (x : Nat) (code : Nat) :
    (Dev.ctlFaultPlain d x code).memPart = d.memPart := by
  simp only [Dev.ctlFaultPlain, apply_ite Dev.memPart, memPart_mk, memPart_fold, Dev.ctlFault_memPart, Dev.freeVal_memPart, ite_self, implies_true]

theorem Dev.vecFault_memPart (d : Dev) (q : Nat) (code : Nat) (addr : Nat) :
    (Dev.vecFault d q code addr).memPart = d.memPart := by
  simp only [Dev.vecFault, apply_ite Dev.memPart, memPart_mk, memPart_fold, Dev.coreFault_memPart, ite_self, implies_true]

theorem Dev.vecFaultPlain_memPart (d : Dev) (q : Nat) (code : Nat) :
    (Dev.vecFaultPlain d q code).memPart = d.memPart := by
  simp only [Dev.vecFaultPlain, apply_ite Dev.memPart, memPart_mk, memPart_fold, Dev.freeVal_memPart, Dev.vecFault_memPart, ite_self, implies_true]

theorem Dev.setEvi_memPart (d : Dev) (x : Nat) (i : Nat) (v : Nat) :
    (Dev.setEvi d x i v).memPart = d.memPart := by
  simp only [Dev.setEvi, apply_ite Dev.memPart, memPart_mk, memPart_fold, Dev.modCore_memPart, Dev.set_memPart, ite_self, implies_true]

theorem Dev.send_memPart (d : Dev) (x : Nat) (i : Nat) (n : Nat) :
    (Dev.send d x i n).memPart = d.memPart := by
  rfl

theorem Dev.route_memPart (d : Dev) (qs : List Nat) (src : Nat) (sel : Nat) :
    (Dev.route d qs src sel).memPart = d.memPart := by
  simp only [Dev.route, apply_ite Dev.memPart, memPart_mk, memPart_fold, Dev.each_memPart, Dev.send_memPart, ite_self, implies_true]

theorem Dev.setBounds_memPart (d : Dev) (s : Nat) :
    (Dev.setBounds d s).memPart = d.memPart := by
  simp only [Dev.setBounds, apply_ite Dev.memPart, memPart_mk, memPart_fold, Dev.each_memPart, Dev.set_memPart, ite_self, implies_true]

theorem Dev.wakeDie_memPart (d : Dev) (n : Nat) :
    (Dev.wakeDie d n).memPart = d.memPart := by
  simp only [Dev.wakeDie, apply_ite Dev.memPart, memPart_mk, memPart_fold, Dev.put_memPart, ite_self, implies_true]

theorem Dev.unrecoverable_memPart (d : Dev) (cause : Nat) (stop : Nat) :
    (Dev.unrecoverable d cause stop).memPart = d.memPart := by
  simp only [Dev.unrecoverable, apply_ite Dev.memPart, memPart_mk, memPart_fold, Dev.stopReqs_memPart, ite_self, implies_true]

theorem Dev.injFired_memPart (d : Dev) (i : Nat) :
    (Dev.injFired d i).memPart = d.memPart := by
  simp only [Dev.injFired, apply_ite Dev.memPart, memPart_mk, memPart_fold, Dev.bump_memPart, Dev.set_memPart, ite_self, implies_true]

theorem Dev.inject_memPart (d : Dev) (id : Nat) (p : Nat → Nat → Bool) (a : Nat) (d' : Dev)
    (h : d.inject id p = some (a, d')) : d'.memPart = d.memPart := by
  unfold Dev.inject at h
  simp only [Option.map_eq_some_iff, Prod.mk.injEq] at h
  obtain ⟨i, -, -, rfl⟩ := h
  exact Dev.injFired_memPart d i

theorem Dev.asInjected_memPart (d : Dev) (f : Dev → Dev) (hf : ∀ d, (f d).memPart = d.memPart) :
    (Dev.asInjected d f).memPart = d.memPart := by
  simp only [Dev.asInjected, apply_ite Dev.memPart, memPart_mk, memPart_fold, hf, ite_self, implies_true]

theorem Dev.injDisarm_memPart (d : Dev) (p : Nat → Nat → Bool) :
    (Dev.injDisarm d p).memPart = d.memPart := by
  simp only [Dev.injDisarm, apply_ite Dev.memPart, memPart_mk, memPart_fold, Dev.each_memPart, Dev.set_memPart, ite_self, implies_true]

theorem Dev.traceOut_memPart (d : Dev) (x : Nat) (ty : Nat) (arg : Nat) (count : Nat) (lastDt : Nat) (data : Nat) :
    (Dev.traceOut d x ty arg count lastDt data).memPart = d.memPart := by
  unfold Dev.traceOut
  try dsimp only
  repeat' (first | rfl | (simp only [apply_ite Dev.memPart, memPart_mk, memPart_fold, Dev.lose_memPart, Dev.modCore_memPart, ite_self, implies_true]; done) | intro _ | split | fail | simp only [apply_ite Dev.memPart, memPart_mk, memPart_fold, Dev.lose_memPart, Dev.modCore_memPart, ite_self, implies_true])
  all_goals (try have hI0 := Dev.inject_memPart _ _ _ _ _ ‹_›)
  all_goals (try simp only [Prod.ext_iff] at *)
  all_goals (try casesm* _ ∧ _)
  all_goals subst_vars
  all_goals first | assumption | simp only [apply_ite Dev.memPart, memPart_mk, memPart_fold, Dev.lose_memPart, Dev.modCore_memPart, ite_self, implies_true] | simp only [apply_ite Dev.memPart, memPart_mk, memPart_fold, Dev.lose_memPart, Dev.modCore_memPart, ite_self, implies_true, hI0]

theorem Dev.compareOne_memPart (d : Dev) (q : Nat) (kind : Nat) (a : Nat) (cyc : Nat) (i : Nat) :
    (Dev.compareOne d q kind a cyc i).1.memPart = d.memPart := by
  simp only [Dev.compareOne, apply_ite Dev.memPart, apply_ite Prod.fst, memPart_mk, memPart_fold, Dev.bump_memPart, Dev.putBit_memPart, Dev.traceOut_memPart, Dev.when_memPart, ite_self, implies_true]

theorem Dev.compareHub_memPart (d : Dev) (a : Nat) (i : Nat) :
    (Dev.compareHub d a i).1.memPart = d.memPart := by
  simp only [Dev.compareHub, apply_ite Dev.memPart, apply_ite Prod.fst, memPart_mk, memPart_fold, Dev.putBit_memPart, Dev.traceOut_memPart, Dev.when_memPart, ite_self, implies_true]

theorem foldOr_memPart (l : List Nat) (g : Dev → Nat → Dev × Bool) (p : Dev × Bool) (hg : ∀ d i, (g d i).1.memPart = d.memPart) :
    (l.foldl (fun p i => ((g p.1 i).1, p.2 || (g p.1 i).2)) p).1.memPart = p.1.memPart := by
  induction l generalizing p with
  | nil => rfl
  | cons i l ih => exact (ih _).trans (hg _ _)

theorem Dev.compare_memPart (d : Dev) (x kind a cyc : Nat) : (Dev.compare d x kind a cyc).1.memPart = d.memPart := by
  unfold Dev.compare
  split
  · exact foldOr_memPart (List.range 2) (fun d i => d.compareHub a i) (d, false) (fun d i => Dev.compareHub_memPart d a i)
  · exact foldOr_memPart (List.range 8) (fun d i => d.compareOne x kind a cyc i) (d, false)
      (fun d i => Dev.compareOne_memPart d x kind a cyc i)

theorem Dev.compareVec_memPart (d : Dev) (q : Nat) (kind : Nat) (a : Nat) (cyc : Nat) :
    (Dev.compareVec d q kind a cyc).memPart = d.memPart := by
  simp only [Dev.compareVec, apply_ite Dev.memPart, memPart_mk, memPart_fold, Dev.compare_memPart, Dev.modCore_memPart, ite_self, implies_true]

theorem Dev.putHalted_memPart (d : Dev) (x : Nat) (b : Bool) :
    (Dev.putHalted d x b).memPart = d.memPart := by
  simp only [Dev.putHalted, apply_ite Dev.memPart, memPart_mk, memPart_fold, Dev.put_memPart, Dev.putBit_memPart, ite_self, implies_true]

theorem Dev.haltCore_memPart (d : Dev) (q : Nat) :
    (Dev.haltCore d q).memPart = d.memPart := by
  simp only [Dev.haltCore, apply_ite Dev.memPart, memPart_mk, memPart_fold, Dev.modCore_memPart, Dev.putHalted_memPart, Dev.setCoreState_memPart, ite_self, implies_true]

theorem Dev.halt_memPart (d : Dev) (x : Nat) :
    (Dev.halt d x).memPart = d.memPart := by
  unfold Dev.halt
  repeat' split
  all_goals first | simp only [apply_ite Dev.memPart, memPart_mk, memPart_fold, Dev.each_memPart, Dev.haltCore_memPart, Dev.modCore_memPart, Dev.putHalted_memPart, Dev.stopReq_memPart, ite_self, implies_true] | rfl

theorem Dev.resume_memPart (d : Dev) (x : Nat) :
    (Dev.resume d x).memPart = d.memPart := by
  simp only [Dev.resume, apply_ite Dev.memPart, memPart_mk, memPart_fold, Dev.modCore_memPart, Dev.putHalted_memPart, Dev.setCoreState_memPart, ite_self, implies_true]

theorem Dev.step_memPart (d : Dev) (x : Nat) :
    (Dev.step d x).memPart = d.memPart := by
  rfl

end Sys2Proof.Machine
end

