-- ==== Sys2Proof/Laws/MemFrame1.lean ====
section
/-! SUPPORT. Memory frames, part 2 of 8: for every function of the model that leaves the device's memory part
(`MemPart`: the byte store, its zeroed ranges, the HBM epoch and the flash) alone, the lemma `F_memPart`
that says so. The lemmas follow the order of the model's call graph. -/

set_option linter.all false

namespace Sys2Proof.Machine
theorem Dev.memUE_memPart (d : Dev) (a : Nat) :
    (Dev.memUE d a).memPart = d.memPart := by
  simp only [Dev.memUE, apply_ite Dev.memPart, memPart_mk, memPart_fold, Dev.count48_memPart, Dev.logBOn_memPart, Dev.put_memPart, Dev.set2_memPart, ite_self, implies_true]

theorem Dev.memCE_memPart (d : Dev) :
    (Dev.memCE d).memPart = d.memPart := by
  simp only [Dev.memCE, apply_ite Dev.memPart, memPart_mk, memPart_fold, Dev.count48_memPart, Dev.put_memPart, ite_self, implies_true]

theorem Dev.setTlb_memPart (d : Dev) (q : Nat) (l : List Tlb) :
    (Dev.setTlb d q l).memPart = d.memPart := by
  rfl

theorem Dev.translate_memPart (d : Dev) (q : Nat) (va : Nat) (own : Nat) (ecc : Option Nat) :
    (Dev.translate d q va own ecc).1.memPart = d.memPart := by
  unfold Dev.translate
  dsimp only
  repeat' split
  all_goals first | simp only [apply_ite Dev.memPart, apply_ite Prod.fst, memPart_mk, memPart_fold, Dev.count48_memPart, Dev.setTlb_memPart, ite_self, implies_true] | rfl

theorem Dev.ptuFault_memPart (d : Dev) (q : Nat) (f : TFail) (ctrl : Bool) :
    (Dev.ptuFault d q f ctrl).memPart = d.memPart := by
  simp only [Dev.ptuFault, apply_ite Dev.memPart, memPart_mk, memPart_fold, Dev.put_memPart, Dev.set_memPart, ite_self, implies_true]

theorem Dev.ctlTranslate_memPart (d : Dev) (q : Nat) (va : Nat) (u : CtlUse) :
    (Dev.ctlTranslate d q va u).1.memPart = d.memPart := by
  unfold Dev.ctlTranslate
  try dsimp only
  repeat' split
  all_goals (try simp only [Prod.ext_iff] at *)
  all_goals (try casesm* _ ∧ _)
  all_goals subst_vars
  all_goals first | assumption | simp only [apply_ite Dev.memPart, apply_ite Prod.fst, memPart_mk, memPart_fold, Dev.ptuFault_memPart, Dev.translate_memPart, ite_self, implies_true]

theorem Dev.virtRead_memPart (d : Dev) (q : Nat) (va : Nat) (n : Nat) :
    (Dev.virtRead d q va n).1.memPart = d.memPart := by
  unfold Dev.virtRead
  try dsimp only
  repeat' split
  all_goals (try simp only [Prod.ext_iff] at *)
  all_goals (try casesm* _ ∧ _)
  all_goals subst_vars
  all_goals first | assumption | simp only [apply_ite Dev.memPart, apply_ite Prod.fst, memPart_mk, memPart_fold, Dev.translate_memPart, ite_self, implies_true]

theorem Dev.btabEntry_memPart (d : Dev) (q : Nat) (bidx : Nat) :
    (Dev.btabEntry d q bidx).1.memPart = d.memPart := by
  simp only [Dev.btabEntry, apply_ite Dev.memPart, apply_ite Prod.fst, memPart_mk, memPart_fold, Dev.virtRead_memPart, ite_self, implies_true]

theorem Dev.admitPage_memPart (d : Dev) (q : Nat) (entry : Nat) (ecc : Option Nat) :
    (Dev.admitPage d q entry ecc).1.memPart = d.memPart := by
  unfold Dev.admitPage
  try dsimp only
  repeat' split
  all_goals (try simp only [Prod.ext_iff] at *)
  all_goals (try casesm* _ ∧ _)
  all_goals subst_vars
  all_goals first | assumption | simp only [apply_ite Dev.memPart, apply_ite Prod.fst, memPart_mk, memPart_fold, Dev.setTlb_memPart, Dev.translate_memPart, ite_self, implies_true]

theorem Dev.admitPages_memPart (d : Dev) (q : Nat) (ecc : Option (Nat × Nat)) (i : Nat) (l : List Nat) (acc : List (Nat × Nat)) :
    (Dev.admitPages d q ecc i l acc).1.memPart = d.memPart := by
  induction l generalizing d i acc with
  | nil => rfl
  | cons e l ih =>
    unfold Dev.admitPages
    dsimp only
    split
    · next h => rw [← Dev.admitPage_memPart d q e _, h]
    · next h => rw [ih, ← Dev.admitPage_memPart d q e _, h]

theorem Dev.keepPins_memPart (d : Dev) (q : Nat) (pages : List (Nat × Nat)) :
    (Dev.keepPins d q pages).memPart = d.memPart := by
  rfl

theorem Dev.admitSegment_memPart (d : Dev) (q : Nat) (bidx : Nat) (ecc : Option (Nat × Nat)) :
    (Dev.admitSegment d q bidx ecc).1.memPart = d.memPart := by
  unfold Dev.admitSegment
  try dsimp only
  repeat' split
  all_goals (try simp only [Prod.ext_iff] at *)
  all_goals (try casesm* _ ∧ _)
  all_goals subst_vars
  all_goals first | assumption | simp only [apply_ite Dev.memPart, apply_ite Prod.fst, memPart_mk, memPart_fold, Dev.admitPages_memPart, Dev.btabEntry_memPart, Dev.keepPins_memPart, Dev.translate_memPart, ite_self, implies_true]

theorem Dev.eachTlb_memPart (d : Dev) (f : List Tlb → List Tlb) :
    (Dev.eachTlb d f).memPart = d.memPart := by
  rfl

theorem Dev.invWrite_memPart (d : Dev) (w : Nat) :
    (Dev.invWrite d w).memPart = d.memPart := by
  simp only [Dev.invWrite, apply_ite Dev.memPart, memPart_mk, memPart_fold, Dev.eachTlb_memPart, Dev.put_memPart, Dev.set_memPart, ite_self, implies_true]

theorem Dev.invDone_memPart (d : Dev) :
    (Dev.invDone d).memPart = d.memPart := by
  unfold Dev.invDone
  repeat' split
  all_goals first | simp only [apply_ite Dev.memPart, memPart_mk, memPart_fold, Dev.put_memPart, Dev.set_memPart, ite_self, implies_true] | rfl

theorem Dev.rootWrite_memPart (d : Dev) (q : Nat) (hi : Bool) (w : Nat) :
    (Dev.rootWrite d q hi w).memPart = d.memPart := by
  simp only [Dev.rootWrite, apply_ite Dev.memPart, memPart_mk, memPart_fold, Dev.eachTlb_memPart, Dev.put_memPart, Dev.set_memPart, ite_self, implies_true]

theorem Dev.afterInstr_memPart (d : Dev) (x : Nat) :
    (Dev.afterInstr d x).memPart = d.memPart := by
  simp only [Dev.afterInstr, apply_ite Dev.memPart, memPart_mk, memPart_fold, Dev.modCore_memPart, Dev.put_memPart, Dev.setCoreState_memPart, Dev.when_memPart, ite_self, implies_true]

theorem Dev.fetchMatch_memPart (d : Dev) (x : Nat) :
    (Dev.fetchMatch d x).1.memPart = d.memPart := by
  simp only [Dev.fetchMatch, apply_ite Dev.memPart, apply_ite Prod.fst, memPart_mk, memPart_fold, Dev.compare_memPart, Dev.modCore_memPart, ite_self, implies_true]

theorem Dev.fetch_memPart (d : Dev) (x : Nat) :
    (Dev.fetch d x).1.memPart = d.memPart := by
  unfold Dev.fetch
  try dsimp only
  repeat' split
  all_goals (try simp only [Prod.ext_iff] at *)
  all_goals (try casesm* _ ∧ _)
  all_goals subst_vars
  all_goals first | assumption | simp only [apply_ite Dev.memPart, apply_ite Prod.fst, memPart_mk, memPart_fold, Dev.afterInstr_memPart, Dev.ctlFault_memPart, Dev.ctlTranslate_memPart, Dev.fetchMatch_memPart, Dev.modCore_memPart, ite_self, implies_true]

theorem Dev.issue_memPart (d : Dev) (x : Nat) (gs : List Nat) (fs : List Nat) (prefixable : Bool) (body : Dev → Dev) (hbody : ∀ d, (body d).memPart = d.memPart) :
    (Dev.issue d x gs fs prefixable body).memPart = d.memPart := by
  simp only [Dev.issue, apply_ite Dev.memPart, memPart_mk, memPart_fold, Dev.afterInstr_memPart, Dev.ctlFaultPlain_memPart, Dev.fetch_memPart, hbody, ite_self, implies_true]

theorem Dev.gInstr_memPart (d : Dev) (x : Nat) (rd : Nat) (gs : List Nat) (fs : List Nat) (prefixable : Bool) (f : Core → DWord) :
    (Dev.gInstr d x rd gs fs prefixable f).memPart = d.memPart := by
  simp only [Dev.gInstr, apply_ite Dev.memPart, memPart_mk, memPart_fold, Dev.issue_memPart, Dev.modCore_memPart, ite_self, implies_true]

theorem Dev.tInstr_memPart (d : Dev) (x : Nat) (rd : Nat) (rs1 : Nat) (rs2 : Nat) (f : DWord → DWord → DWord) :
    (Dev.tInstr d x rd rs1 rs2 f).memPart = d.memPart := by
  simp only [Dev.tInstr, apply_ite Dev.memPart, memPart_mk, memPart_fold, Dev.gInstr_memPart, ite_self, implies_true]

theorem Dev.uInstr_memPart (d : Dev) (x : Nat) (rd : Nat) (rs1 : Nat) (f : DWord → DWord) :
    (Dev.uInstr d x rd rs1 f).memPart = d.memPart := by
  simp only [Dev.uInstr, apply_ite Dev.memPart, memPart_mk, memPart_fold, Dev.gInstr_memPart, ite_self, implies_true]

theorem Dev.iInstr_memPart (d : Dev) (x : Nat) (rd : Nat) (rs1 : Nat) (imm : BitVec 43) (f : DWord → DWord → DWord) :
    (Dev.iInstr d x rd rs1 imm f).memPart = d.memPart := by
  simp only [Dev.iInstr, apply_ite Dev.memPart, memPart_mk, memPart_fold, Dev.gInstr_memPart, ite_self, implies_true]

theorem Dev.bInstr_memPart (d : Dev) (x : Nat) (rs1 : Nat) (rs2 : Nat) (off : BitVec 43) (p : DWord → DWord → Bool) :
    (Dev.bInstr d x rs1 rs2 off p).memPart = d.memPart := by
  simp only [Dev.bInstr, apply_ite Dev.memPart, memPart_mk, memPart_fold, Dev.issue_memPart, Dev.modCore_memPart, ite_self, implies_true]

theorem Dev.illegal_memPart (d : Dev) (x : Nat) :
    (Dev.illegal d x).memPart = d.memPart := by
  simp only [Dev.illegal, apply_ite Dev.memPart, memPart_mk, memPart_fold, Dev.ctlFaultPlain_memPart, Dev.issue_memPart, ite_self, implies_true]

theorem State.onDev_memPart (s : State) (f : Dev → Dev) (hf : ∀ d, (f d).memPart = d.memPart) :
    (State.onDev s f).dev.memPart = s.dev.memPart := by
  simp only [State.onDev, apply_ite Dev.memPart, apply_ite State.dev, memPart_mk, memPart_fold, hf, ite_self, implies_true]

theorem State.onDevAs_memPart (s : State) (e : Evt) (f : Dev → Dev) (hf : ∀ d, (f d).memPart = d.memPart) :
    (State.onDevAs s e f).dev.memPart = s.dev.memPart := by
  simp only [State.onDevAs, apply_ite Dev.memPart, apply_ite State.dev, memPart_mk, memPart_fold, hf, ite_self, implies_true]

theorem Dev.fpTrap_memPart (d : Dev) (x : Nat) (pc : Nat) :
    (Dev.fpTrap d x pc).memPart = d.memPart := by
  simp only [Dev.fpTrap, apply_ite Dev.memPart, memPart_mk, memPart_fold, Dev.coreFault_memPart, Dev.freeVal_memPart, Dev.hubFault_memPart, ite_self, implies_true]

theorem Dev.fpInstr_memPart (d : Dev) (x : Nat) (rounds : Bool) (rm : Nat) (gs : List Nat) (fs : List Nat) (toF : Bool) (rd : Nat) (f : Core → Rm → Nat × Nat) :
    (Dev.fpInstr d x rounds rm gs fs toF rd f).memPart = d.memPart := by
  simp only [Dev.fpInstr, apply_ite Dev.memPart, memPart_mk, memPart_fold, Dev.fpTrap_memPart, Dev.illegal_memPart, Dev.issue_memPart, Dev.setCore_memPart, ite_self, implies_true]

theorem Dev.fp2_memPart (d : Dev) (x : Nat) (p : Bool) (rounds : Bool) (rm : Nat) (rd : Nat) (rs1 : Nat) (rs2 : Nat) (toF : Bool) (f : Fmt → Rm → Bool → Nat → Nat → FpRes) :
    (Dev.fp2 d x p rounds rm rd rs1 rs2 toF f).memPart = d.memPart := by
  simp only [Dev.fp2, apply_ite Dev.memPart, memPart_mk, memPart_fold, Dev.fpInstr_memPart, ite_self, implies_true]

theorem Dev.fp1_memPart (d : Dev) (x : Nat) (p : Bool) (rounds : Bool) (rm : Nat) (rd : Nat) (rs1 : Nat) (toF : Bool) (f : Fmt → Rm → Bool → Nat → Nat × Nat) :
    (Dev.fp1 d x p rounds rm rd rs1 toF f).memPart = d.memPart := by
  simp only [Dev.fp1, apply_ite Dev.memPart, memPart_mk, memPart_fold, Dev.fpInstr_memPart, ite_self, implies_true]

theorem Dev.fp3_memPart (d : Dev) (x : Nat) (p : Bool) (rm : Nat) (rd : Nat) (rs1 : Nat) (rs2 : Nat) (rs3 : Nat) (negP : Bool) (negZ : Bool) (negAll : Bool) :
    (Dev.fp3 d x p rm rd rs1 rs2 rs3 negP negZ negAll).memPart = d.memPart := by
  simp only [Dev.fp3, apply_ite Dev.memPart, memPart_mk, memPart_fold, Dev.fpInstr_memPart, ite_self, implies_true]

theorem Dev.fpFromInt_memPart (d : Dev) (x : Nat) (p : Bool) (rm : Nat) (rd : Nat) (rs1 : Nat) (v : DWord → Int) :
    (Dev.fpFromInt d x p rm rd rs1 v).memPart = d.memPart := by
  simp only [Dev.fpFromInt, apply_ite Dev.memPart, memPart_mk, memPart_fold, Dev.fpInstr_memPart, ite_self, implies_true]

theorem Dev.waiteTake_memPart (d : Dev) (x : Nat) (i : Nat) :
    (Dev.waiteTake d x i).memPart = d.memPart := by
  unfold Dev.waiteTake
  repeat' split
  all_goals first | simp only [apply_ite Dev.memPart, memPart_mk, memPart_fold, Dev.modCore_memPart, Dev.setEvi_memPart, ite_self, implies_true] | rfl

theorem Dev.arrive_memPart (d : Dev) (x : Nat) (i : Nat) (n : Nat) :
    (Dev.arrive d x i n).memPart = d.memPart := by
  simp only [Dev.arrive, apply_ite Dev.memPart, memPart_mk, memPart_fold, Dev.logB_memPart, Dev.logBOn_memPart, Dev.putBit_memPart, Dev.setEvi_memPart, Dev.waiteTake_memPart, ite_self, implies_true]

theorem Dev.signal_memPart (d : Dev) (tgt inp : Nat) (d' : Dev) (h : d.signal tgt inp = some d') :
    d'.memPart = d.memPart := by
  unfold Dev.signal at h
  split at h
  · cases h; exact Dev.send_memPart d tgt inp _
  · cases h

theorem Dev.pumpOne_memPart (d : Dev) (q : Nat) (d' : Dev) (h : d.pumpOne q = some d') : d'.memPart = d.memPart := by
  unfold Dev.pumpOne at h
  dsimp only at h
  split at h
  · cases h
  · split at h
    · cases h
    · cases h
      refine (Dev.each_memPart _ _ _ fun d i => ?_).trans (Dev.modV_memPart _ _ _)
      split
      · exact Dev.compareVec_memPart _ _ _ _ _
      · rfl

theorem Dev.pump_memPart (d : Dev) (q n : Nat) : (Dev.pump d q n).memPart = d.memPart := by
  induction n generalizing d with
  | zero => rfl
  | succ n ih =>
    unfold Dev.pump
    split
    · next h => exact (ih _).trans (Dev.pumpOne_memPart _ _ _ h)
    · rfl

theorem Dev.vecIssue_memPart (d : Dev) (q : Nat) (len : Nat) (inBlock : Bool) (body : Dev → Dev) (hbody : ∀ d, (body d).memPart = d.memPart) :
    (Dev.vecIssue d q len inBlock body).memPart = d.memPart := by
  unfold Dev.vecIssue
  dsimp only
  repeat' split
  all_goals first | simp only [apply_ite Dev.memPart, memPart_mk, memPart_fold, Dev.compareVec_memPart, Dev.ptuFault_memPart, Dev.vecFault_memPart, Dev.vecFaultPlain_memPart, hbody, ite_self, implies_true] | rfl

theorem Dev.vecStep_memPart (d : Dev) (q : Nat) (f : VCore → VCore) :
    (Dev.vecStep d q f).memPart = d.memPart := by
  rfl

theorem Dev.vecInstr_memPart (d : Dev) (q : Nat) (ok : Bool) (f : VCore → VCore) :
    (Dev.vecInstr d q ok f).memPart = d.memPart := by
  simp only [Dev.vecInstr, apply_ite Dev.memPart, memPart_mk, memPart_fold, Dev.vecFaultPlain_memPart, Dev.vecIssue_memPart, Dev.vecStep_memPart, ite_self, implies_true]

theorem Dev.emit_memPart (d : Dev) (q : Nat) (em : Emit) (words : Nat) (ok : Bool) (rows : List (Nat × Nat)) (rep : Nat) :
    (Dev.emit d q em words ok rows rep).memPart = d.memPart := by
  simp only [Dev.emit, apply_ite Dev.memPart, memPart_mk, memPart_fold, Dev.modV_memPart, Dev.pump_memPart, Dev.vecFaultPlain_memPart, Dev.vecIssue_memPart, ite_self, implies_true]

theorem Dev.wmRecord_memPart (d : Dev) (die : Nat) (unit : Nat) (addr : Nat) (peak : Nat) (site : Option Nat) :
    (Dev.wmRecord d die unit addr peak site).memPart = d.memPart := by
  simp only [Dev.wmRecord, apply_ite Dev.memPart, memPart_mk, memPart_fold, Dev.logBOn_memPart, ite_self, implies_true]

theorem Dev.failEvt_memPart (d : Dev) (qs : List Nat) (sel : Nat) :
    (Dev.failEvt d qs sel).memPart = d.memPart := by
  simp only [Dev.failEvt, apply_ite Dev.memPart, memPart_mk, memPart_fold, Dev.each_memPart, Dev.route_memPart, ite_self, implies_true]

theorem Dev.captureStop_memPart (d : Dev) (s : Nat) (cause : Nat) :
    (Dev.captureStop d s cause).memPart = d.memPart := by
  simp only [Dev.captureStop, apply_ite Dev.memPart, memPart_mk, memPart_fold, Dev.modSite_memPart, Dev.stopReq_memPart, ite_self, implies_true]

theorem Dev.loseRec_memPart (d : Dev) (q : Nat) (r : FRec) :
    (Dev.loseRec d q r).memPart = d.memPart := by
  simp only [Dev.loseRec, apply_ite Dev.memPart, memPart_mk, memPart_fold, Dev.bump_memPart, Dev.captureStop_memPart, Dev.count48_memPart, Dev.failEvt_memPart, Dev.modCore_memPart, Dev.put_memPart, ite_self, implies_true]

theorem Dev.fifoStuffed_memPart (d : Dev) (q : Nat) :
    (Dev.fifoStuffed d q).1.memPart = d.memPart := by
  unfold Dev.fifoStuffed
  try dsimp only
  repeat' split
  all_goals (try have hI0 := Dev.inject_memPart _ _ _ _ _ ‹_›)
  all_goals (try simp only [Prod.ext_iff] at *)
  all_goals (try casesm* _ ∧ _)
  all_goals subst_vars
  all_goals first | assumption | simp only [apply_ite Dev.memPart, apply_ite Prod.fst, memPart_mk, memPart_fold, Dev.modCore_memPart, ite_self, implies_true] | simp only [apply_ite Dev.memPart, apply_ite Prod.fst, memPart_mk, memPart_fold, Dev.modCore_memPart, ite_self, implies_true, hI0]

theorem Dev.fifoPut_memPart (d : Dev) (q : Nat) (r : FRec) :
    (Dev.fifoPut d q r).memPart = d.memPart := by
  unfold Dev.fifoPut
  dsimp only
  repeat' split
  all_goals first | simp only [apply_ite Dev.memPart, memPart_mk, memPart_fold, Dev.asInjected_memPart, Dev.fifoStuffed_memPart, Dev.loseRec_memPart, Dev.modCore_memPart, ite_self, implies_true] | rfl

theorem Dev.flushHalf_memPart (d : Dev) (q : Nat) (h : Nat) :
    (Dev.flushHalf d q h).memPart = d.memPart := by
  unfold Dev.flushHalf
  repeat' split
  all_goals first | simp only [apply_ite Dev.memPart, memPart_mk, memPart_fold, Dev.fifoPut_memPart, Dev.modCore_memPart, ite_self, implies_true] | rfl

theorem Dev.flushFails_memPart (d : Dev) (q : Nat) :
    (Dev.flushFails d q).memPart = d.memPart := by
  simp only [Dev.flushFails, apply_ite Dev.memPart, memPart_mk, memPart_fold, Dev.flushHalf_memPart, ite_self, implies_true]

theorem Dev.failHalf_memPart (d : Dev) (q : Nat) (r : FRec) :
    (Dev.failHalf d q r).memPart = d.memPart := by
  simp only [Dev.failHalf, apply_ite Dev.memPart, memPart_mk, memPart_fold, Dev.flushHalf_memPart, Dev.modCore_memPart, ite_self, implies_true]

theorem Dev.chanFail_memPart (d : Dev) (n : Nat) (cycle : Nat) (j : Nat) :
    (Dev.chanFail d n cycle j).memPart = d.memPart := by
  simp only [Dev.chanFail, apply_ite Dev.memPart, memPart_mk, memPart_fold, Dev.count48_memPart, Dev.put_memPart, Dev.set2_memPart, ite_self, implies_true]

theorem Dev.cycleFail_memPart (d : Dev) (n : Nat) (s : Nat) (cycle : Nat) :
    (Dev.cycleFail d n s cycle).memPart = d.memPart := by
  simp only [Dev.cycleFail, apply_ite Dev.memPart, memPart_mk, memPart_fold, Dev.captureStop_memPart, Dev.count48_memPart, Dev.failEvt_memPart, Dev.put_memPart, ite_self, implies_true]

theorem Dev.patternFail_memPart (d : Dev) (q : Nat) (s : Nat) (cycle : Nat) (v : Verdict) :
    (Dev.patternFail d q s cycle v).memPart = d.memPart := by
  unfold Dev.patternFail
  try dsimp only
  repeat' (first | rfl | (simp only [apply_ite Dev.memPart, memPart_mk, memPart_fold, Dev.chanFail_memPart, Dev.cycleFail_memPart, Dev.each_memPart, Dev.failEvt_memPart, Dev.put_memPart, Dev.set2_memPart, ite_self, implies_true]; done) | intro _ | split | (refine (Dev.each_memPart _ _ _ ?_).trans ?_) | fail | simp only [apply_ite Dev.memPart, memPart_mk, memPart_fold, Dev.chanFail_memPart, Dev.cycleFail_memPart, Dev.each_memPart, Dev.failEvt_memPart, Dev.put_memPart, Dev.set2_memPart, ite_self, implies_true])
  all_goals (try simp only [Prod.ext_iff] at *)
  all_goals (try casesm* _ ∧ _)
  all_goals subst_vars
  all_goals first | assumption | simp only [apply_ite Dev.memPart, memPart_mk, memPart_fold, Dev.chanFail_memPart, Dev.cycleFail_memPart, Dev.each_memPart, Dev.failEvt_memPart, Dev.put_memPart, Dev.set2_memPart, ite_self, implies_true]

theorem Dev.judged_memPart (d : Dev) (q : Nat) (s : Nat) (phase : Nat) (cycle : Nat) (ts : Nat) (x : Nat) (y : Nat) (v : Verdict) :
    (Dev.judged d q s phase cycle ts x y v).memPart = d.memPart := by
  simp only [Dev.judged, apply_ite Dev.memPart, memPart_mk, memPart_fold, Dev.failEvt_memPart, Dev.failHalf_memPart, Dev.patternFail_memPart, Dev.put_memPart, Dev.when_memPart, ite_self, implies_true]

theorem Dev.endRec_memPart (d : Dev) (q : Nat) (s : Nat) (last : Nat) (abort : Bool) :
    (Dev.endRec d q s last abort).memPart = d.memPart := by
  simp only [Dev.endRec, apply_ite Dev.memPart, memPart_mk, memPart_fold, Dev.fifoPut_memPart, Dev.flushFails_memPart, Dev.modCore_memPart, ite_self, implies_true]

theorem Dev.endRecs_memPart (d : Dev) (s : Nat) (abort : Bool) :
    (Dev.endRecs d s abort).memPart = d.memPart := by
  simp only [Dev.endRecs, apply_ite Dev.memPart, memPart_mk, memPart_fold, Dev.each_memPart, Dev.endRec_memPart, ite_self, implies_true]

theorem Dev.stageSeen_memPart (d : Dev) (n : Nat) :
    (Dev.stageSeen d n).memPart = d.memPart := by
  simp only [Dev.stageSeen, apply_ite Dev.memPart, memPart_mk, memPart_fold, Dev.levelSeen_memPart, Dev.set_memPart, Dev.wmRecord_memPart, ite_self, implies_true]

theorem Dev.stagePut_memPart (d : Dev) (q : Nat) (r : FRec) :
    (Dev.stagePut d q r).memPart = d.memPart := by
  simp only [Dev.stagePut, apply_ite Dev.memPart, memPart_mk, memPart_fold, Dev.loseRec_memPart, ite_self, implies_true]

theorem Dev.takeOne_memPart (d : Dev) (q : Nat) :
    (Dev.takeOne d q).memPart = d.memPart := by
  unfold Dev.takeOne
  repeat' split
  all_goals first | simp only [apply_ite Dev.memPart, memPart_mk, memPart_fold, Dev.modCore_memPart, Dev.stagePut_memPart, ite_self, implies_true] | rfl

theorem Dev.regionSeen_memPart (d : Dev) (n : Nat) (s : Nat) :
    (Dev.regionSeen d n s).memPart = d.memPart := by
  simp only [Dev.regionSeen, apply_ite Dev.memPart, memPart_mk, memPart_fold, Dev.failEvt_memPart, Dev.levelSeen_memPart, Dev.wmRecord_memPart, ite_self, implies_true]

theorem Dev.rdPtrWrite_memPart (d : Dev) (n : Nat) (s : Nat) (v : Nat) :
    (Dev.rdPtrWrite d n s v).memPart = d.memPart := by
  simp only [Dev.rdPtrWrite, apply_ite Dev.memPart, memPart_mk, memPart_fold, Dev.put_memPart, Dev.regionSeen_memPart, Dev.set_memPart, ite_self, implies_true]

theorem Dev.formatPin_memPart (d : Dev) (n : Nat) (j : Nat) (ts : Nat) (sym : Nat) (p : Nat) (cycle : Nat) (site : Option Nat) (valid : Bool) (cycle0 : Bool) :
    (Dev.formatPin d n j ts sym p cycle site valid cycle0).memPart = d.memPart := by
  simp only [Dev.formatPin, apply_ite Dev.memPart, memPart_mk, memPart_fold, Dev.logBOn_memPart, Dev.putBit_memPart, ite_self, implies_true]

theorem Dev.rsuCycle_memPart (d : Dev) (q : Nat) (obs : PinObs) : (Dev.rsuCycle d q obs).memPart = d.memPart := by
  unfold Dev.rsuCycle
  refine Dev.each_memPart _ _ _ fun d r => ?_
  split
  · rfl
  · split
    · simp only [Dev.set_memPart]
    · simp only [Dev.bump_memPart]

theorem Dev.judgePin_memPart (d : Dev) (n : Nat) (j : Nat) (ts : Nat) (sym : Nat) (p : Nat) (obs : PinObs) (v : Verdict) :
    (Dev.judgePin d n j ts sym p obs v).1.memPart = d.memPart := by
  simp only [Dev.judgePin, apply_ite Dev.memPart, apply_ite Prod.fst, memPart_mk, memPart_fold, Dev.putBit_memPart, Dev.when_memPart, ite_self, implies_true]

theorem foldFst_memPart {α β : Type} (l : List α) (g : Dev × β → α → Dev × β) (p : Dev × β)
    (hg : ∀ p a, (g p a).1.memPart = p.1.memPart) : (l.foldl g p).1.memPart = p.1.memPart := by
  induction l generalizing p with
  | nil => rfl
  | cons i l ih => exact (ih _).trans (hg _ _)

theorem Dev.playPins_memPart (d : Dev) (q ts syms cycle : Nat) (cycle0 : Bool) (obs : PinObs) :
    (Dev.playPins d q ts syms cycle cycle0 obs).1.memPart = d.memPart := by
  unfold Dev.playPins
  refine (foldFst_memPart _ _ _ fun p a => ?_).trans ?_
  · dsimp only
    split
    · rfl
    · split
      · simp only [Dev.judgePin_memPart, Dev.putBit_memPart, Dev.formatPin_memPart]
      · simp only [Dev.putBit_memPart, Dev.formatPin_memPart]
  · simp only [Dev.rsuCycle_memPart, Dev.when_memPart, Dev.logBOn_memPart, implies_true]

theorem Dev.cyclePassed_memPart (d : Dev) (q : Nat) :
    (Dev.cyclePassed d q).memPart = d.memPart := by
  simp only [Dev.cyclePassed, apply_ite Dev.memPart, memPart_mk, memPart_fold, Dev.count48_memPart, Dev.modV_memPart, ite_self, implies_true]

theorem Dev.leadSeen_memPart (d : Dev) (q : Nat) :
    (Dev.leadSeen d q).memPart = d.memPart := by
  simp only [Dev.leadSeen, apply_ite Dev.memPart, memPart_mk, memPart_fold, Dev.levelSeen_memPart, Dev.wmRecord_memPart, ite_self, implies_true]

theorem Dev.patternCycle_memPart (d : Dev) (q : Nat) (s : Nat) (obs : PinObs) :
    (Dev.patternCycle d q s obs).memPart = d.memPart := by
  unfold Dev.patternCycle
  try dsimp only
  repeat' split
  all_goals (try simp only [Prod.ext_iff] at *)
  all_goals (try casesm* _ ∧ _)
  all_goals subst_vars
  all_goals first | assumption | simp only [apply_ite Dev.memPart, memPart_mk, memPart_fold, Dev.cyclePassed_memPart, Dev.each_memPart, Dev.judged_memPart, Dev.leadSeen_memPart, Dev.modV_memPart, Dev.playPins_memPart, Dev.pump_memPart, Dev.send_memPart, ite_self, implies_true]

theorem Dev.storeCycle_memPart (d : Dev) (q s phase : Nat) (obs : PinObs) :
    (Dev.storeCycle d q s phase obs).memPart = d.memPart := by
  unfold Dev.storeCycle
  dsimp only
  split
  · exact Eq.refl _
  · simp only [Dev.cyclePassed_memPart, Dev.judged_memPart, Dev.playPins_memPart, Dev.modV_memPart]

theorem Dev.injectObs_memPart (d : Dev) (q : Nat) (obs : PinObs) : (Dev.injectObs d q obs).1.memPart = d.memPart := by
  unfold Dev.injectObs
  dsimp only
  have h1 : ∀ (r : Option (Nat × Dev)) (p : Nat → Nat → Bool), r = d.inject 0x13 p →
      (match r with
        | some (a, d) => (d, { obs with
            qh := obs.qh ||| BitVec.ofNat 128 (2 ^ (d.pinGroup q).idxOf a)
            ql := obs.ql ||| BitVec.ofNat 128 (2 ^ (d.pinGroup q).idxOf a)
            both := obs.both ||| BitVec.ofNat 128 (2 ^ (d.pinGroup q).idxOf a) }, true)
        | none => (d, obs, false)).1.memPart = d.memPart := by
    intro r p h
    split
    · exact Dev.inject_memPart _ _ _ _ _ h.symm
    · rfl
  split
  · next h =>
    have h2 := Dev.inject_memPart _ _ _ _ _ h
    refine h2.trans ?_
    split
    · next h3 => exact Dev.inject_memPart _ _ _ _ _ h3
    · rfl
  · split
    · next h3 => exact Dev.inject_memPart _ _ _ _ _ h3
    · rfl

theorem Dev.viqLacks_memPart (d : Dev) (q : Nat) (i : Nat) (c : Nat) :
    (Dev.viqLacks d q i c).memPart = d.memPart := by
  simp only [Dev.viqLacks, apply_ite Dev.memPart, memPart_mk, memPart_fold, Dev.modSite_memPart, Dev.vecFaultPlain_memPart, ite_self, implies_true]

theorem Dev.dueCycle_memPart (d : Dev) (q : Nat) (i : Nat) (obs : PinObs) :
    (Dev.dueCycle d q i obs).memPart = d.memPart := by
  unfold Dev.dueCycle
  try dsimp only
  repeat' (first | rfl | (simp only [apply_ite Dev.memPart, memPart_mk, memPart_fold, Dev.asInjected_memPart, Dev.patternCycle_memPart, Dev.viqLacks_memPart, ite_self, implies_true]; done) | intro _ | split | (refine (Dev.asInjected_memPart _ _ ?_).trans ?_) | fail | simp only [apply_ite Dev.memPart, memPart_mk, memPart_fold, Dev.asInjected_memPart, Dev.patternCycle_memPart, Dev.viqLacks_memPart, ite_self, implies_true])
  all_goals (try have hI0 := Dev.inject_memPart _ _ _ _ _ ‹_›)
  all_goals (try simp only [Prod.ext_iff] at *)
  all_goals (try casesm* _ ∧ _)
  all_goals subst_vars
  all_goals first | assumption | simp only [apply_ite Dev.memPart, memPart_mk, memPart_fold, Dev.asInjected_memPart, Dev.patternCycle_memPart, Dev.viqLacks_memPart, ite_self, implies_true] | simp only [apply_ite Dev.memPart, memPart_mk, memPart_fold, Dev.asInjected_memPart, Dev.patternCycle_memPart, Dev.viqLacks_memPart, ite_self, implies_true, hI0]

theorem Dev.anyCycle_memPart (d : Dev) (q : Nat) (i : Nat) (obs : PinObs) :
    (Dev.anyCycle d q i obs).memPart = d.memPart := by
  simp only [Dev.anyCycle, apply_ite Dev.memPart, memPart_mk, memPart_fold, Dev.dueCycle_memPart, Dev.storeCycle_memPart, ite_self, implies_true]

end Sys2Proof.Machine
end

