-- ==== Sys2Proof/Laws/MemFrame2.lean ====
section
/-! SUPPORT. Memory frames, part 3 of 8: for every function of the model that leaves the device's memory part
(`MemPart`: the byte store, its zeroed ranges, the HBM epoch and the flash) alone, the lemma `F_memPart`
that says so. The lemmas follow the order of the model's call graph. -/

set_option linter.all false

namespace Sys2Proof.Machine
theorem Dev.applyMasks_memPart (d : Dev) (chans : List Nat) :
    (Dev.applyMasks d chans).memPart = d.memPart := by
  simp only [Dev.applyMasks, apply_ite Dev.memPart, memPart_mk, memPart_fold, Dev.each_memPart, Dev.putBit_memPart, ite_self, implies_true]

theorem Dev.masksNextTick_memPart (d : Dev) :
    (Dev.masksNextTick d).memPart = d.memPart := by
  simp only [Dev.masksNextTick, apply_ite Dev.memPart, memPart_mk, memPart_fold, Dev.applyMasks_memPart, ite_self, implies_true]

theorem Dev.setRps_memPart (d : Dev) (s : Nat) (c : RCtx) :
    (Dev.setRps d s c).memPart = d.memPart := by
  rfl

theorem Dev.modRps_memPart (d : Dev) (s : Nat) (f : RCtx → RCtx) :
    (Dev.modRps d s f).memPart = d.memPart := by
  unfold Dev.modRps
  repeat' split
  all_goals first | simp only [apply_ite Dev.memPart, memPart_mk, memPart_fold, Dev.setRps_memPart, ite_self, implies_true] | rfl

theorem Dev.rpsLog_memPart (d : Dev) (ty : Nat) (data : Nat) (s : Nat) :
    (Dev.rpsLog d ty data s).memPart = d.memPart := by
  simp only [Dev.rpsLog, apply_ite Dev.memPart, memPart_mk, memPart_fold, Dev.logBOn_memPart, ite_self, implies_true]

theorem Dev.usedSet_memPart (d : Dev) (s : Nat) (v : Nat) :
    (Dev.usedSet d s v).memPart = d.memPart := by
  simp only [Dev.usedSet, apply_ite Dev.memPart, memPart_mk, memPart_fold, Dev.levelSeen_memPart, Dev.set_memPart, Dev.wmRecord_memPart, ite_self, implies_true]

theorem Dev.overflow_memPart (d : Dev) (s : Nat) (u : Nat) :
    (Dev.overflow d s u).memPart = d.memPart := by
  unfold Dev.overflow
  repeat' split
  all_goals first | simp only [apply_ite Dev.memPart, memPart_mk, memPart_fold, Dev.modRps_memPart, Dev.put_memPart, Dev.rpsLog_memPart, ite_self, implies_true] | rfl

theorem Dev.unrepair_memPart (d : Dev) (s : Nat) (u : Nat) (reason : Nat) (region : Nat) :
    (Dev.unrepair d s u reason region).memPart = d.memPart := by
  unfold Dev.unrepair
  repeat' split
  all_goals first | simp only [apply_ite Dev.memPart, memPart_mk, memPart_fold, Dev.each_memPart, Dev.modRps_memPart, Dev.putBit_memPart, Dev.rpsLog_memPart, Dev.stopReq_memPart, ite_self, implies_true] | rfl

theorem Dev.closure_memPart (d : Dev) (s u n : Nat) (l : List Nat) : (Dev.closure d s u n l).memPart = d.memPart := by
  induction n generalizing d l with
  | zero => cases l <;> rfl
  | succ n ih =>
    cases l with
    | nil => rfl
    | cons g l =>
      unfold Dev.closure
      repeat' split
      all_goals try simp only [ih, Dev.bump_memPart, Dev.usedSet_memPart, Dev.modRps_memPart, Dev.unrepair_memPart, Dev.overflow_memPart]
      all_goals repeat' split
      all_goals try simp only [ih, Dev.bump_memPart, Dev.usedSet_memPart, Dev.modRps_memPart, Dev.unrepair_memPart, Dev.overflow_memPart]

theorem Dev.cellOp_memPart (d : Dev) (o : CellOp) :
    (Dev.cellOp d o).memPart = d.memPart := by
  unfold Dev.cellOp
  repeat' split
  all_goals first | simp only [apply_ite Dev.memPart, memPart_mk, memPart_fold, Dev.closure_memPart, Dev.modRps_memPart, Dev.overflow_memPart, Dev.usedSet_memPart, ite_self, implies_true] | rfl

theorem Dev.intakeSeen_memPart (d : Dev) (n : Nat) :
    (Dev.intakeSeen d n).memPart = d.memPart := by
  simp only [Dev.intakeSeen, apply_ite Dev.memPart, memPart_mk, memPart_fold, Dev.levelSeen_memPart, Dev.set_memPart, Dev.wmRecord_memPart, ite_self, implies_true]

theorem Dev.intakeDrop_memPart (d : Dev) (r : FRec) :
    (Dev.intakeDrop d r).memPart = d.memPart := by
  simp only [Dev.intakeDrop, apply_ite Dev.memPart, memPart_mk, memPart_fold, Dev.bump_memPart, Dev.count48_memPart, Dev.modRps_memPart, Dev.put_memPart, Dev.rpsLog_memPart, Dev.when_memPart, ite_self, implies_true]

theorem Dev.intakeStuffed_memPart (d : Dev) (n : Nat) :
    (Dev.intakeStuffed d n).1.memPart = d.memPart := by
  unfold Dev.intakeStuffed
  try dsimp only
  repeat' split
  all_goals (try have hI0 := Dev.inject_memPart _ _ _ _ _ ‹_›)
  all_goals (try simp only [Prod.ext_iff] at *)
  all_goals (try casesm* _ ∧ _)
  all_goals subst_vars
  all_goals first | assumption | simp only [apply_ite Dev.memPart, apply_ite Prod.fst, memPart_mk, memPart_fold, ite_self, implies_true] | simp only [apply_ite Dev.memPart, apply_ite Prod.fst, memPart_mk, memPart_fold, ite_self, implies_true, hI0]

theorem Dev.intakePut_memPart (d : Dev) (r : FRec) : (Dev.intakePut d r).memPart = d.memPart := by
  unfold Dev.intakePut
  split
  · next h =>
    refine (Dev.asInjected_memPart _ _ fun d => Dev.intakeDrop_memPart d r).trans ?_
    rw [← Dev.intakeStuffed_memPart d r.die, h]
  · next h =>
    have h := congrArg (fun p => p.1.memPart) h
    simp only [Dev.intakeStuffed_memPart] at h
    dsimp only
    split
    · exact (Dev.intakeSeen_memPart _ _).trans h.symm
    · exact (Dev.intakeDrop_memPart _ _).trans h.symm

theorem Dev.closeShare_memPart (d : Dev) (n : Nat) (s : Nat) :
    (Dev.closeShare d n s).memPart = d.memPart := by
  simp only [Dev.closeShare, apply_ite Dev.memPart, memPart_mk, memPart_fold, Dev.put_memPart, ite_self, implies_true]

theorem Dev.queueSolve_memPart (d : Dev) (s : Nat) (trigger : Nat) :
    (Dev.queueSolve d s trigger).memPart = d.memPart := by
  simp only [Dev.queueSolve, apply_ite Dev.memPart, memPart_mk, memPart_fold, Dev.modRps_memPart, Dev.set_memPart, ite_self, implies_true]

theorem Dev.trySolve_memPart (d : Dev) (s : Nat) :
    (Dev.trySolve d s).memPart = d.memPart := by
  unfold Dev.trySolve
  repeat' split
  all_goals first | simp only [apply_ite Dev.memPart, memPart_mk, memPart_fold, Dev.queueSolve_memPart, ite_self, implies_true] | rfl

theorem Dev.cancelSolve_memPart (d : Dev) (s : Nat) :
    (Dev.cancelSolve d s).memPart = d.memPart := by
  simp only [Dev.cancelSolve, apply_ite Dev.memPart, memPart_mk, memPart_fold, Dev.rpsLog_memPart, Dev.set_memPart, ite_self, implies_true]

theorem Dev.mapFail_memPart (d : Dev) (c : RCtx) (r : FRec) :
    (Dev.mapFail d c r).memPart = d.memPart := by
  unfold Dev.mapFail
  try dsimp only
  repeat' (first | rfl | (simp only [apply_ite Dev.memPart, memPart_mk, memPart_fold, Dev.bump_memPart, Dev.each_memPart, Dev.unrepair_memPart, ite_self, implies_true]; done) | intro _ | split | (refine (Dev.each_memPart _ _ _ ?_).trans ?_) | fail | simp only [apply_ite Dev.memPart, memPart_mk, memPart_fold, Dev.bump_memPart, Dev.each_memPart, Dev.unrepair_memPart, ite_self, implies_true])
  all_goals (try simp only [Prod.ext_iff] at *)
  all_goals (try casesm* _ ∧ _)
  all_goals subst_vars
  all_goals first | assumption | simp only [apply_ite Dev.memPart, memPart_mk, memPart_fold, Dev.bump_memPart, Dev.each_memPart, Dev.unrepair_memPart, ite_self, implies_true]

theorem Dev.solveDut_memPart (d : Dev) (s : Nat) (u : Nat) (e : SolveEnd) :
    (Dev.solveDut d s u e).1.memPart = d.memPart := by
  unfold Dev.solveDut
  dsimp only
  repeat' split
  all_goals first | simp only [apply_ite Dev.memPart, apply_ite Prod.fst, memPart_mk, memPart_fold, Dev.freeVal_memPart, Dev.unrepair_memPart, ite_self, implies_true] | rfl

theorem Dev.solveAll_memPart (d : Dev) (s : Nat) (res : List SolveEnd) (k u : Nat) :
    (Dev.solveAll d s res k u).1.memPart = d.memPart := by
  induction k generalizing d u with
  | zero => rfl
  | succ k ih =>
    unfold Dev.solveAll
    exact (ih _ _).trans (Dev.solveDut_memPart _ _ _ _)

theorem Dev.rpsWords_memPart (d : Dev) (s : Nat) (state : Nat) (mapped : Nat) :
    (Dev.rpsWords d s state mapped).memPart = d.memPart := by
  simp only [Dev.rpsWords, apply_ite Dev.memPart, memPart_mk, memPart_fold, Dev.each_memPart, Dev.set_memPart, ite_self, implies_true]

theorem Dev.rpsAdmit_memPart (d : Dev) (s : Nat) :
    (Dev.rpsAdmit d s).memPart = d.memPart := by
  unfold Dev.rpsAdmit
  dsimp only
  repeat' split
  all_goals first | simp only [apply_ite Dev.memPart, memPart_mk, memPart_fold, Dev.rpsWords_memPart, Dev.setRps_memPart, ite_self, implies_true] | rfl

theorem Dev.rpsRelease_memPart (d : Dev) (s : Nat) :
    (Dev.rpsRelease d s).memPart = d.memPart := by
  simp only [Dev.rpsRelease, apply_ite Dev.memPart, memPart_mk, memPart_fold, Dev.cancelSolve_memPart, Dev.set_memPart, ite_self, implies_true]

theorem Dev.rpsRunning_memPart (d : Dev) (s : Nat) :
    (Dev.rpsRunning d s).memPart = d.memPart := by
  simp only [Dev.rpsRunning, apply_ite Dev.memPart, memPart_mk, memPart_fold, Dev.cancelSolve_memPart, Dev.modRps_memPart, Dev.set_memPart, ite_self, implies_true]

theorem Dev.rpsCmd_memPart (d : Dev) (op : Nat) (s : Nat) :
    (Dev.rpsCmd d op s).1.memPart = d.memPart := by
  unfold Dev.rpsCmd
  repeat' split
  all_goals first | simp only [apply_ite Dev.memPart, apply_ite Prod.fst, memPart_mk, memPart_fold, Dev.cancelSolve_memPart, Dev.modRps_memPart, Dev.rpsWords_memPart, Dev.setRps_memPart, Dev.trySolve_memPart, ite_self, implies_true] | rfl

theorem Dev.rpsCommand_memPart (d : Dev) (op : Nat) (s : Nat) :
    (Dev.rpsCommand d op s).memPart = d.memPart := by
  simp only [Dev.rpsCommand, apply_ite Dev.memPart, memPart_mk, memPart_fold, Dev.rpsCmd_memPart, Dev.set_memPart, ite_self, implies_true]

theorem Dev.superRecord_memPart (d : Dev) (cls : Nat) (by' : Evt) (unit : Nat) (site : Option Nat) :
    (Dev.superRecord d cls by' unit site).memPart = d.memPart := by
  simp only [Dev.superRecord, apply_ite Dev.memPart, memPart_mk, memPart_fold, Dev.logB_memPart, ite_self, implies_true]

theorem State.judge_memPart (s : State) (cls : Nat) (unit : Nat) (site : Option Nat) (ok : Dev → Bool) (apply : Dev → Dev) (refuse : Dev → Dev) (supers : Dev → Dev) (happly : ∀ d, (apply d).memPart = d.memPart) (hrefuse : ∀ d, (refuse d).memPart = d.memPart) (hsupers : ∀ d, (supers d).memPart = d.memPart) :
    (State.judge s cls unit site ok apply refuse supers).memPart = s.dev.memPart := by
  unfold State.judge
  repeat' split
  all_goals first | simp only [apply_ite Dev.memPart, memPart_mk, memPart_fold, Dev.superRecord_memPart, happly, hrefuse, hsupers, ite_self, implies_true] | rfl

theorem Dev.resumeAt_memPart (d : Dev) (q : Nat) (sn : Snap) :
    (Dev.resumeAt d q sn).1.memPart = d.memPart := by
  unfold Dev.resumeAt
  try dsimp only
  repeat' split
  all_goals (try simp only [Prod.ext_iff] at *)
  all_goals (try casesm* _ ∧ _)
  all_goals subst_vars
  all_goals first | assumption | simp only [apply_ite Dev.memPart, apply_ite Prod.fst, memPart_mk, memPart_fold, Dev.btabEntry_memPart, ite_self, implies_true]

theorem Dev.openSegment_memPart (d : Dev) (q : Nat) (sn : Snap) :
    (Dev.openSegment d q sn).memPart = d.memPart := by
  simp only [Dev.openSegment, apply_ite Dev.memPart, memPart_mk, memPart_fold, Dev.flushFails_memPart, Dev.modV_memPart, Dev.set_memPart, ite_self, implies_true]

theorem Dev.siteBoundary_memPart (d : Dev) (s : Nat) :
    (Dev.siteBoundary d s).memPart = d.memPart := by
  unfold Dev.siteBoundary
  dsimp only
  repeat' split
  all_goals first | simp only [apply_ite Dev.memPart, memPart_mk, memPart_fold, Dev.applyMasks_memPart, Dev.modSite_memPart, ite_self, implies_true] | rfl

theorem Dev.prefill_memPart (d : Dev) (q : Nat) :
    (Dev.prefill d q).memPart = d.memPart := by
  rfl

theorem Dev.parkNow_memPart (d : Dev) (s : Nat) :
    (Dev.parkNow d s).memPart = d.memPart := by
  simp only [Dev.parkNow, apply_ite Dev.memPart, memPart_mk, memPart_fold, Dev.coresParked_memPart, Dev.parkSite_memPart, Dev.put_memPart, Dev.setSiteState_memPart, ite_self, implies_true]

theorem Dev.curtainEnd_memPart (d : Dev) (s : Nat) :
    (Dev.curtainEnd d s).memPart = d.memPart := by
  simp only [Dev.curtainEnd, apply_ite Dev.memPart, memPart_mk, memPart_fold, Dev.abortSite_memPart, Dev.each_memPart, Dev.endRecs_memPart, Dev.modSite_memPart, Dev.modV_memPart, Dev.parkNow_memPart, Dev.prefill_memPart, Dev.setCoreState_memPart, Dev.setSiteState_memPart, ite_self, implies_true]

theorem Dev.takeBoundary_memPart (d : Dev) (q : Nat) (sn : Snap) :
    (Dev.takeBoundary d q sn).memPart = d.memPart := by
  simp only [Dev.takeBoundary, apply_ite Dev.memPart, memPart_mk, memPart_fold, Dev.flushFails_memPart, Dev.modCore_memPart, Dev.resumeAt_memPart, Dev.set2_memPart, Dev.setCoreState_memPart, Dev.unpinAll_memPart, ite_self, implies_true]

theorem Dev.enterCurtain_memPart (d : Dev) (s from' : Nat) (sn : Nat → Option Snap) :
    (Dev.enterCurtain d s from' sn).memPart = d.memPart := by
  have h : ∀ (d : Dev) (q : Nat), (match sn q with
      | some sn => d.takeBoundary q sn
      | none => d.takeBoundary q ((d.core q).v.snapAt ⟨0, false⟩ (d.core q).v.vpc)).memPart = d.memPart := by
    intro d q
    split <;> exact Dev.takeBoundary_memPart _ _ _
  unfold Dev.enterCurtain
  simp only [apply_ite Dev.memPart, Dev.curtainEnd_memPart, Dev.setSiteState_memPart, Dev.modSite_memPart, Dev.applyMasks_memPart,
    ite_self]
  exact Dev.each_memPart _ _ _ h

theorem Dev.loopEnds_memPart (d : Dev) (q : Nat) (passes : Nat) :
    (Dev.loopEnds d q passes).memPart = d.memPart := by
  simp only [Dev.loopEnds, apply_ite Dev.memPart, memPart_mk, memPart_fold, Dev.modV_memPart, Dev.pump_memPart, ite_self, implies_true]

theorem Dev.loopReplays_memPart (d : Dev) (q : Nat) (passes : Nat) (opens : Bool) :
    (Dev.loopReplays d q passes opens).memPart = d.memPart := by
  unfold Dev.loopReplays
  dsimp only
  repeat' split
  all_goals first | simp only [apply_ite Dev.memPart, memPart_mk, memPart_fold, Dev.modV_memPart, Dev.openSegment_memPart, ite_self, implies_true] | rfl

theorem Dev.enterRunning_memPart (d : Dev) (s : Nat) :
    (Dev.enterRunning d s).memPart = d.memPart := by
  unfold Dev.enterRunning
  try dsimp only
  repeat' (first | rfl | (simp only [apply_ite Dev.memPart, memPart_mk, memPart_fold, Dev.each_memPart, Dev.modCore_memPart, Dev.modSite_memPart, Dev.rpsRunning_memPart, Dev.setCoreState_memPart, Dev.setSiteState_memPart, ite_self, implies_true]; done) | intro _ | split | (refine (Dev.each_memPart _ _ _ ?_).trans ?_) | fail | simp only [apply_ite Dev.memPart, memPart_mk, memPart_fold, Dev.each_memPart, Dev.modCore_memPart, Dev.modSite_memPart, Dev.rpsRunning_memPart, Dev.setCoreState_memPart, Dev.setSiteState_memPart, ite_self, implies_true])
  all_goals (try simp only [Prod.ext_iff] at *)
  all_goals (try casesm* _ ∧ _)
  all_goals subst_vars
  all_goals first | assumption | simp only [apply_ite Dev.memPart, memPart_mk, memPart_fold, Dev.each_memPart, Dev.modCore_memPart, Dev.modSite_memPart, Dev.rpsRunning_memPart, Dev.setCoreState_memPart, Dev.setSiteState_memPart, ite_self, implies_true]

theorem Dev.setLeaseQueue_memPart (d : Dev) (unit : Nat) (cls : Nat) (l : List (Nat × Nat)) :
    (Dev.setLeaseQueue d unit cls l).memPart = d.memPart := by
  rfl

theorem Dev.leaseReq_memPart (d : Dev) (unit : Nat) (cls : Nat) (holder : Nat) (arg : Nat) (queue : Bool) :
    (Dev.leaseReq d unit cls holder arg queue).1.memPart = d.memPart := by
  simp only [Dev.leaseReq, apply_ite Dev.memPart, apply_ite Prod.fst, memPart_mk, memPart_fold, Dev.set_memPart, Dev.setLeaseQueue_memPart, ite_self, implies_true]

theorem Dev.leaseFree_memPart (d : Dev) (unit : Nat) (cls : Nat) :
    (Dev.leaseFree d unit cls).memPart = d.memPart := by
  unfold Dev.leaseFree
  repeat' split
  all_goals first | simp only [apply_ite Dev.memPart, memPart_mk, memPart_fold, Dev.set_memPart, Dev.setLeaseQueue_memPart, ite_self, implies_true] | rfl

theorem Dev.leaseRelease_memPart (d : Dev) (unit : Nat) (cls : Nat) (holder : Nat) :
    (Dev.leaseRelease d unit cls holder).memPart = d.memPart := by
  simp only [Dev.leaseRelease, apply_ite Dev.memPart, memPart_mk, memPart_fold, Dev.leaseFree_memPart, ite_self, implies_true]

theorem Dev.leaseWithdraw_memPart (d : Dev) (unit : Nat) (cls : Nat) (holder : Nat) :
    (Dev.leaseWithdraw d unit cls holder).memPart = d.memPart := by
  rfl

theorem Dev.leaseDrop_memPart (d : Dev) (unit : Nat) (cls : Nat) (holder : Nat) :
    (Dev.leaseDrop d unit cls holder).memPart = d.memPart := by
  simp only [Dev.leaseDrop, apply_ite Dev.memPart, memPart_mk, memPart_fold, Dev.leaseRelease_memPart, Dev.leaseWithdraw_memPart, ite_self, implies_true]

theorem Dev.leaseClear_memPart (d : Dev) (unit : Nat) (cls : Nat) :
    (Dev.leaseClear d unit cls).memPart = d.memPart := by
  rfl

theorem Dev.leaseDieReset_memPart (d : Dev) (die : Nat) :
    (Dev.leaseDieReset d die).memPart = d.memPart := by
  simp only [Dev.leaseDieReset, apply_ite Dev.memPart, memPart_mk, memPart_fold, Dev.each_memPart, Dev.leaseClear_memPart, ite_self, implies_true]

theorem Dev.leaseSafe_memPart (d : Dev) :
    (Dev.leaseSafe d).memPart = d.memPart := by
  simp only [Dev.leaseSafe, apply_ite Dev.memPart, memPart_mk, memPart_fold, Dev.each_memPart, Dev.setLeaseQueue_memPart, ite_self, implies_true]

theorem Dev.modDir_memPart (d : Dev) (c : FlitChan) (f : FlitDir → FlitDir) :
    (Dev.modDir d c f).memPart = d.memPart := by
  rfl

theorem Dev.crcError_memPart (d : Dev) (c : FlitChan) : (Dev.crcError d c).memPart = d.memPart := by
  unfold Dev.crcError
  split <;> first | rfl | exact Dev.count48_memPart _ _ _ _ _

theorem Dev.replayCount_memPart (d : Dev) (c : FlitChan) : (Dev.replayCount d c).memPart = d.memPart := by
  unfold Dev.replayCount
  split <;> first | rfl | exact Dev.count48_memPart _ _ _ _ _

theorem Dev.acked_memPart (d : Dev) (c : FlitChan) :
    (Dev.acked d c).memPart = d.memPart := by
  rfl

theorem Dev.flitOk_memPart (d : Dev) (c : FlitChan) (ok : Bool) :
    (Dev.flitOk d c ok).1.memPart = d.memPart := by
  unfold Dev.flitOk
  try dsimp only
  repeat' split
  all_goals (try have hI0 := Dev.inject_memPart _ _ _ _ _ ‹_›)
  all_goals (try simp only [Prod.ext_iff] at *)
  all_goals (try casesm* _ ∧ _)
  all_goals subst_vars
  all_goals first | assumption | simp only [apply_ite Dev.memPart, apply_ite Prod.fst, memPart_mk, memPart_fold, ite_self, implies_true] | simp only [apply_ite Dev.memPart, apply_ite Prod.fst, memPart_mk, memPart_fold, ite_self, implies_true, hI0]

theorem Dev.freshDirs_memPart (d : Dev) (l : Nat) :
    (Dev.freshDirs d l).memPart = d.memPart := by
  rfl

theorem Dev.isolate_memPart (d : Dev) (code : Nat) :
    (Dev.isolate d code).memPart = d.memPart := by
  simp only [Dev.isolate, apply_ite Dev.memPart, memPart_mk, memPart_fold, Dev.logA_memPart, Dev.put_memPart, ite_self, implies_true]

theorem Dev.declareDown_memPart (d : Dev) (c : FlitChan) (cause : Nat) :
    (Dev.declareDown d c cause).memPart = d.memPart := by
  unfold Dev.declareDown
  repeat' split
  all_goals first | simp only [apply_ite Dev.memPart, memPart_mk, memPart_fold, Dev.each_memPart, Dev.isolate_memPart, Dev.modLink_memPart, Dev.put_memPart, Dev.set_memPart, ite_self, implies_true] | rfl

theorem Dev.cancelOnDie_memPart (d : Dev) (n : Nat) :
    (Dev.cancelOnDie d n).memPart = d.memPart := by
  simp only [Dev.cancelOnDie, apply_ite Dev.memPart, memPart_mk, memPart_fold, Dev.each_memPart, Dev.schedEnd_memPart, Dev.schedMark_memPart, ite_self, implies_true]

theorem Dev.showRecovery_memPart (d : Dev) (l : Nat) (on : Bool) :
    (Dev.showRecovery d l on).memPart = d.memPart := by
  simp only [Dev.showRecovery, apply_ite Dev.memPart, memPart_mk, memPart_fold, Dev.put_memPart, Dev.putBit_memPart, Dev.set_memPart, ite_self, implies_true]

theorem Dev.recoveryBegins_memPart (d : Dev) (l : Nat) :
    (Dev.recoveryBegins d l).memPart = d.memPart := by
  simp only [Dev.recoveryBegins, apply_ite Dev.memPart, memPart_mk, memPart_fold, Dev.modLink_memPart, Dev.showRecovery_memPart, ite_self, implies_true]

theorem Dev.recoveryEnds_memPart (d : Dev) (l : Nat) :
    (Dev.recoveryEnds d l).memPart = d.memPart := by
  simp only [Dev.recoveryEnds, apply_ite Dev.memPart, memPart_mk, memPart_fold, Dev.leaseDrop_memPart, Dev.modLink_memPart, Dev.showRecovery_memPart, ite_self, implies_true]

theorem Dev.linkBack_memPart (d : Dev) (l : Nat) :
    (Dev.linkBack d l).memPart = d.memPart := by
  simp only [Dev.linkBack, apply_ite Dev.memPart, memPart_mk, memPart_fold, Dev.abortSite_memPart, Dev.each_memPart, ite_self, implies_true]

theorem Dev.linkTrained_memPart (d : Dev) (l : Nat) (spares : List (Nat × Nat)) :
    (Dev.linkTrained d l spares).memPart = d.memPart := by
  unfold Dev.linkTrained
  repeat' split
  all_goals first | simp only [apply_ite Dev.memPart, memPart_mk, memPart_fold, Dev.each_memPart, Dev.freshDirs_memPart, Dev.modLink_memPart, Dev.put_memPart, Dev.putBit_memPart, Dev.set_memPart, ite_self, implies_true] | rfl

theorem Dev.recoverWrite_memPart (d : Dev) (l : Nat) :
    (Dev.recoverWrite d l).memPart = d.memPart := by
  simp only [Dev.recoverWrite, apply_ite Dev.memPart, memPart_mk, memPart_fold, Dev.modLink_memPart, ite_self, implies_true]

theorem Dev.linksSafe_memPart (d : Dev) :
    (Dev.linksSafe d).memPart = d.memPart := by
  simp only [Dev.linksSafe, apply_ite Dev.memPart, memPart_mk, memPart_fold, Dev.each_memPart, Dev.modLink_memPart, Dev.recoveryEnds_memPart, ite_self, implies_true]

theorem Dev.fwlViolation_memPart (d : Dev) (write : Bool) (a : Nat) (v : FwlVerdict) :
    (Dev.fwlViolation d write a v).memPart = d.memPart := by
  simp only [Dev.fwlViolation, apply_ite Dev.memPart, memPart_mk, memPart_fold, Dev.bump_memPart, Dev.isolate_memPart, Dev.logA_memPart, Dev.put_memPart, Dev.set_memPart, Dev.set2_memPart, ite_self, implies_true]

theorem Dev.isolateWrite_memPart (d : Dev) (v : Bool) :
    (Dev.isolateWrite d v).memPart = d.memPart := by
  unfold Dev.isolateWrite
  try dsimp only
  repeat' split
  all_goals (try simp only [Prod.ext_iff] at *)
  all_goals (try casesm* _ ∧ _)
  all_goals subst_vars
  all_goals first | assumption | simp only [apply_ite Dev.memPart, memPart_mk, memPart_fold, Dev.isolate_memPart, Dev.leaseReq_memPart, Dev.put_memPart, ite_self, implies_true]

theorem Dev.violClear_memPart (d : Dev) :
    (Dev.violClear d).memPart = d.memPart := by
  rfl

theorem Dev.wordPut_memPart (d : Dev) (a : Nat) (w : Nat) :
    (Dev.wordPut d a w).memPart = d.memPart := by
  unfold Dev.wordPut
  repeat' split
  all_goals first | simp only [apply_ite Dev.memPart, memPart_mk, memPart_fold, Dev.each_memPart, Dev.set_memPart, ite_self, implies_true] | rfl

theorem Dev.eraseRegs_memPart (d : Dev) (p : Nat → Bool) :
    (Dev.eraseRegs d p).memPart = d.memPart := by
  rfl

theorem Dev.eraseDie_memPart (d : Dev) (n : Nat) :
    (Dev.eraseDie d n).memPart = d.memPart := by
  rfl

theorem Dev.eraseDrst_memPart (d : Dev) :
    (Dev.eraseDrst d).memPart = d.memPart := by
  rfl

theorem Dev.erasePor_memPart (d : Dev) :
    (Dev.erasePor d).memPart = d.memPart := by
  rfl

theorem Dev.coreReset_memPart (d : Dev) (q : Nat) :
    (Dev.coreReset d q).memPart = d.memPart := by
  simp only [Dev.coreReset, apply_ite Dev.memPart, memPart_mk, memPart_fold, Dev.eraseRegs_memPart, Dev.putHalted_memPart, Dev.setCore_memPart, Dev.unpinAll_memPart, ite_self, implies_true]

end Sys2Proof.Machine
end

