-- ==== Sys2Proof/Laws/MemFrame3.lean ====
section
/-! SUPPORT. Memory frames, part 4 of 8: for every function of the model that leaves the device's memory part
(`MemPart`: the byte store, its zeroed ranges, the HBM epoch and the flash) alone, the lemma `F_memPart`
that says so. The lemmas follow the order of the model's call graph. -/

set_option linter.all false

namespace Sys2Proof.Machine
theorem Dev.capWrite_memPart (d : Dev) (margin : Bool) (v : Nat) :
    (Dev.capWrite d margin v).memPart = d.memPart := by
  simp only [Dev.capWrite, apply_ite Dev.memPart, memPart_mk, memPart_fold, Dev.put_memPart, Dev.set_memPart, ite_self, implies_true]

theorem Dev.railsSeen_memPart (d : Dev) (l : List (Fin 13 × BitVec 14 × BitVec 18)) :
    (Dev.railsSeen d l).memPart = d.memPart := by
  simp only [Dev.railsSeen, apply_ite Dev.memPart, memPart_mk, memPart_fold, Dev.each_memPart, Dev.set_memPart, ite_self, implies_true]

theorem Dev.sensors_memPart (d : Dev) (src : Nat) (lim : Int) (l : List (BitVec 8)) :
    (Dev.sensors d src lim l).memPart = d.memPart := by
  simp only [Dev.sensors, apply_ite Dev.memPart, memPart_mk, memPart_fold, Dev.each_memPart, Dev.logA_memPart, Dev.put_memPart, ite_self, implies_true]

theorem Dev.staleSeen_memPart (d : Dev) (n : Nat) (temp : Int) :
    (Dev.staleSeen d n temp).memPart = d.memPart := by
  unfold Dev.staleSeen
  try dsimp only
  repeat' (first | rfl | (simp only [apply_ite Dev.memPart, memPart_mk, memPart_fold, Dev.each_memPart, Dev.putBit_memPart, ite_self, implies_true]; done) | intro _ | split | (refine (Dev.each_memPart _ _ _ ?_).trans ?_) | fail | simp only [apply_ite Dev.memPart, memPart_mk, memPart_fold, Dev.each_memPart, Dev.putBit_memPart, ite_self, implies_true])
  all_goals (try simp only [Prod.ext_iff] at *)
  all_goals (try casesm* _ ∧ _)
  all_goals subst_vars
  all_goals first | assumption | simp only [apply_ite Dev.memPart, memPart_mk, memPart_fold, Dev.each_memPart, Dev.putBit_memPart, ite_self, implies_true]

theorem Dev.setCal_memPart (d : Dev) (n : Nat) (j : Nat) :
    (Dev.setCal d n j).memPart = d.memPart := by
  rfl

theorem Dev.groupBits_memPart (d : Dev) (n : Nat) (g : Nat) :
    (Dev.groupBits d n g).memPart = d.memPart := by
  rfl

theorem Dev.measureLanes_memPart (d : Dev) (n : Nat) (j : Nat) (m : List Int) :
    (Dev.measureLanes d n j m).1.memPart = d.memPart := by
  simp only [Dev.measureLanes, apply_ite Dev.memPart, apply_ite Prod.fst, memPart_mk, memPart_fold, Dev.bump_memPart, Dev.logAOn_memPart, Dev.logBOn_memPart, Dev.put_memPart, Dev.set_memPart, Dev.setCal_memPart, ite_self, implies_true]

theorem Dev.measureChan_memPart (d : Dev) (n : Nat) (j : Nat) (m : List Int) :
    (Dev.measureChan d n j m).1.memPart = d.memPart := by
  unfold Dev.measureChan
  try dsimp only
  repeat' (first | rfl | (simp only [apply_ite Dev.memPart, apply_ite Prod.fst, memPart_mk, memPart_fold, Dev.measureLanes_memPart, ite_self, implies_true]; done) | intro _ | split | fail | simp only [apply_ite Dev.memPart, apply_ite Prod.fst, memPart_mk, memPart_fold, Dev.measureLanes_memPart, ite_self, implies_true])
  all_goals (try have hI0 := Dev.inject_memPart _ _ _ _ _ ‹_›)
  all_goals (try simp only [Prod.ext_iff] at *)
  all_goals (try casesm* _ ∧ _)
  all_goals subst_vars
  all_goals first | assumption | simp only [apply_ite Dev.memPart, apply_ite Prod.fst, memPart_mk, memPart_fold, Dev.measureLanes_memPart, ite_self, implies_true] | simp only [apply_ite Dev.memPart, apply_ite Prod.fst, memPart_mk, memPart_fold, Dev.measureLanes_memPart, ite_self, implies_true, hI0]

theorem Dev.measureGroup_memPart (d : Dev) (n g : Nat) (vals : List (List Int)) :
    (Dev.measureGroup d n g vals).memPart = d.memPart := by
  have h : ∀ (l : List (Nat × List Int)) (p : Dev × Bool),
      (l.foldl (fun (p : Dev × Bool) (v : Nat × List Int) =>
        ((p.1.measureChan n (32 * g + v.1) v.2).1, p.2 || (p.1.measureChan n (32 * g + v.1) v.2).2)) p).1.memPart
        = p.1.memPart := by
    intro l p
    exact foldFst_memPart _ _ _ fun p a => Dev.measureChan_memPart _ _ _ _
  unfold Dev.measureGroup
  dsimp only
  rw [apply_ite Dev.memPart]
  simp only [Dev.putBit_memPart, memPart_mk, memPart_fold, Dev.groupBits_memPart, ite_self]
  exact h _ _

theorem Dev.sweepBegins_memPart (d : Dev) (n : Nat) (g : Nat) :
    (Dev.sweepBegins d n g).memPart = d.memPart := by
  rfl

theorem Dev.sweepReq_memPart (d : Dev) (n : Nat) (g : Nat) (queue : Bool) (show' : Bool) :
    (Dev.sweepReq d n g queue show').memPart = d.memPart := by
  unfold Dev.sweepReq
  try dsimp only
  repeat' split
  all_goals (try simp only [Prod.ext_iff] at *)
  all_goals (try casesm* _ ∧ _)
  all_goals subst_vars
  all_goals first | assumption | simp only [apply_ite Dev.memPart, memPart_mk, memPart_fold, Dev.leaseReq_memPart, Dev.put_memPart, Dev.set_memPart, Dev.sweepBegins_memPart, ite_self, implies_true]

theorem Dev.sweepWrite_memPart (d : Dev) (n : Nat) :
    (Dev.sweepWrite d n).memPart = d.memPart := by
  simp only [Dev.sweepWrite, apply_ite Dev.memPart, memPart_mk, memPart_fold, Dev.sweepReq_memPart, ite_self, implies_true]

theorem Dev.sweepEnds_memPart (d : Dev) (n : Nat) :
    (Dev.sweepEnds d n).memPart = d.memPart := by
  unfold Dev.sweepEnds
  repeat' split
  all_goals first | simp only [apply_ite Dev.memPart, memPart_mk, memPart_fold, Dev.leaseDrop_memPart, Dev.put_memPart, ite_self, implies_true] | rfl

theorem Dev.sweepAbandon_memPart (d : Dev) (n : Nat) :
    (Dev.sweepAbandon d n).memPart = d.memPart := by
  simp only [Dev.sweepAbandon, apply_ite Dev.memPart, memPart_mk, memPart_fold, Dev.bump_memPart, Dev.sweepEnds_memPart, ite_self, implies_true]

theorem Dev.sweepsYield_memPart (d : Dev) (s : Nat) :
    (Dev.sweepsYield d s).memPart = d.memPart := by
  unfold Dev.sweepsYield
  try dsimp only
  repeat' (first | rfl | (simp only [apply_ite Dev.memPart, memPart_mk, memPart_fold, Dev.each_memPart, Dev.sweepAbandon_memPart, ite_self, implies_true]; done) | intro _ | split | (refine (Dev.each_memPart _ _ _ ?_).trans ?_) | fail | simp only [apply_ite Dev.memPart, memPart_mk, memPart_fold, Dev.each_memPart, Dev.sweepAbandon_memPart, ite_self, implies_true])
  all_goals (try simp only [Prod.ext_iff] at *)
  all_goals (try casesm* _ ∧ _)
  all_goals subst_vars
  all_goals first | assumption | simp only [apply_ite Dev.memPart, memPart_mk, memPart_fold, Dev.each_memPart, Dev.sweepAbandon_memPart, ite_self, implies_true]

theorem Dev.pdStart_memPart (d : Dev) (n : Nat) (pd : Nat) (t : Nat) :
    (Dev.pdStart d n pd t).memPart = d.memPart := by
  rfl

theorem Dev.pdStartWrite_memPart (d : Dev) (n : Nat) (pd : Nat) :
    (Dev.pdStartWrite d n pd).memPart = d.memPart := by
  simp only [Dev.pdStartWrite, apply_ite Dev.memPart, memPart_mk, memPart_fold, Dev.pdStart_memPart, Dev.put_memPart, ite_self, implies_true]

theorem Dev.pdStopWrite_memPart (d : Dev) (n : Nat) (pd : Nat) :
    (Dev.pdStopWrite d n pd).memPart = d.memPart := by
  simp only [Dev.pdStopWrite, apply_ite Dev.memPart, memPart_mk, memPart_fold, Dev.pdStart_memPart, Dev.put_memPart, ite_self, implies_true]

theorem Dev.schedLog_memPart (d : Dev) (ty : Nat) (t : Nat) (e : Nat) (res : Nat) (site : Option Nat) :
    (Dev.schedLog d ty t e res site).memPart = d.memPart := by
  simp only [Dev.schedLog, apply_ite Dev.memPart, memPart_mk, memPart_fold, Dev.logB_memPart, ite_self, implies_true]

theorem Dev.armEntry_memPart (d : Dev) (t : Nat) (e : Nat) :
    (Dev.armEntry d t e).memPart = d.memPart := by
  simp only [Dev.armEntry, apply_ite Dev.memPart, memPart_mk, memPart_fold, Dev.each_memPart, Dev.schedLog_memPart, Dev.schedMark_memPart, Dev.wakeDie_memPart, ite_self, implies_true]

theorem State.schedWrite_memPart (s : State) (t : Nat) (e : Nat) (w : Nat) :
    (State.schedWrite s t e w).dev.memPart = s.dev.memPart := by
  unfold State.schedWrite
  try dsimp only
  repeat' (first | rfl | (simp only [apply_ite Dev.memPart, apply_ite State.dev, memPart_mk, memPart_fold, Dev.armEntry_memPart, Dev.schedEnd_memPart, Dev.set_memPart, State.judge_memPart, State.onDev_memPart, State.onDevAs_memPart, ite_self, implies_true]; done) | intro _ | split | (refine (State.judge_memPart _ _ _ _ _ _ _ _ ?_ ?_ ?_).trans ?_) | (refine (State.onDev_memPart _ _ ?_).trans ?_) | (refine (State.onDevAs_memPart _ _ _ ?_).trans ?_) | fail | simp only [apply_ite Dev.memPart, apply_ite State.dev, memPart_mk, memPart_fold, Dev.armEntry_memPart, Dev.schedEnd_memPart, Dev.set_memPart, State.judge_memPart, State.onDev_memPart, State.onDevAs_memPart, ite_self, implies_true])
  all_goals (try simp only [Prod.ext_iff] at *)
  all_goals (try casesm* _ ∧ _)
  all_goals subst_vars
  all_goals first | assumption | simp only [apply_ite Dev.memPart, apply_ite State.dev, memPart_mk, memPart_fold, Dev.armEntry_memPart, Dev.schedEnd_memPart, Dev.set_memPart, State.judge_memPart, State.onDev_memPart, State.onDevAs_memPart, ite_self, implies_true]

theorem Dev.placeCopy_memPart (d : Dev) (e n : Nat) (d' : Dev) (h : d.placeCopy e n = some d') :
    d'.memPart = d.memPart := by
  unfold Dev.placeCopy at h
  dsimp only at h
  split at h
  · cases h
  · cases h
    simp only [memPart_mk, memPart_fold, Dev.schedMark_memPart, Dev.set_memPart]

theorem Dev.placeAll_memPart (d : Dev) (e : Nat) (l : List Nat) (d' : Dev) (h : d.placeAll e l = some d') :
    d'.memPart = d.memPart := by
  induction l generalizing d with
  | nil => cases h; rfl
  | cons n l ih =>
    unfold Dev.placeAll at h
    split at h
    · next d1 h1 => exact (ih _ h).trans (Dev.placeCopy_memPart _ _ _ _ h1)
    · cases h

theorem Dev.armStart_memPart (d : Dev) (site : Nat) (d' : Dev) (h : d.armStart site = some d') :
    d'.memPart = d.memPart := by
  unfold Dev.armStart at h
  dsimp only at h
  split at h
  · cases h
  · split at h
    · cases h
    · cases h
      simp only [Dev.armEntry_memPart, Dev.set_memPart, Dev.set2_memPart]

theorem Dev.startSite_memPart (d : Dev) (s : Nat) :
    (Dev.startSite d s).memPart = d.memPart := by
  simp only [Dev.startSite, apply_ite Dev.memPart, memPart_mk, memPart_fold, Dev.each_memPart, Dev.enterRunning_memPart, Dev.pdStart_memPart, Dev.unpark_memPart, ite_self, implies_true]

theorem Dev.reloadCancel_memPart (d : Dev) :
    (Dev.reloadCancel d).memPart = d.memPart := by
  simp only [Dev.reloadCancel, apply_ite Dev.memPart, memPart_mk, memPart_fold, Dev.each_memPart, Dev.logB_memPart, Dev.schedEnd_memPart, ite_self, implies_true]

theorem Dev.sliceFree_memPart (d : Dev) (x : Slice) :
    (Dev.sliceFree d x).memPart = d.memPart := by
  simp only [Dev.sliceFree, apply_ite Dev.memPart, memPart_mk, memPart_fold, Dev.each_memPart, Dev.leaseDrop_memPart, ite_self, implies_true]

theorem Dev.sliceOver_memPart (d : Dev) (outcome : Nat) :
    (Dev.sliceOver d outcome).memPart = d.memPart := by
  unfold Dev.sliceOver
  repeat' split
  all_goals first | simp only [apply_ite Dev.memPart, memPart_mk, memPart_fold, Dev.put_memPart, Dev.set_memPart, Dev.sliceFree_memPart, ite_self, implies_true] | rfl

theorem Dev.bistYield_memPart (d : Dev) (s : Nat) :
    (Dev.bistYield d s).memPart = d.memPart := by
  unfold Dev.bistYield
  repeat' split
  all_goals first | simp only [apply_ite Dev.memPart, memPart_mk, memPart_fold, Dev.coreReset_memPart, Dev.sliceOver_memPart, ite_self, implies_true] | rfl

theorem Dev.virtWord_memPart (d : Dev) (q : Nat) (va : Nat) :
    (Dev.virtWord d q va).1.memPart = d.memPart := by
  unfold Dev.virtWord
  try dsimp only
  repeat' split
  all_goals (try simp only [Prod.ext_iff] at *)
  all_goals (try casesm* _ ∧ _)
  all_goals subst_vars
  all_goals first | assumption | simp only [apply_ite Dev.memPart, apply_ite Prod.fst, memPart_mk, memPart_fold, Dev.virtRead_memPart, ite_self, implies_true]

theorem Dev.virtWords_memPart (d : Dev) (q va n : Nat) : (Dev.virtWords d q va n).1.memPart = d.memPart := by
  induction n generalizing d va with
  | zero => rfl
  | succ n ih =>
    have h0 := Dev.virtWord_memPart d q va
    unfold Dev.virtWords
    split
    · next h => rw [h] at h0; exact h0
    · next d1 w h =>
      rw [h] at h0
      have h1 := ih d1 (va + 8)
      split
      · next h => rw [h] at h1; exact h1.trans h0
      · next h => rw [h] at h1; exact h1.trans h0

theorem Dev.virtRows_memPart (d : Dev) (q va w k : Nat) : (Dev.virtRows d q va w k).1.memPart = d.memPart := by
  induction k generalizing d va with
  | zero => rfl
  | succ n ih =>
    have h0 := Dev.virtWords_memPart d q va w
    unfold Dev.virtRows
    split
    · next h => rw [h] at h0; exact h0
    · next d1 r h =>
      rw [h] at h0
      have h1 := ih d1 (va + 8 * w)
      split
      · next h => rw [h] at h1; exact h1.trans h0
      · next h => rw [h] at h1; exact h1.trans h0

theorem Dev.virtRecs_memPart (d : Dev) (q va w n : Nat) : (Dev.virtRecs d q va w n).1.memPart = d.memPart := by
  induction n generalizing d va with
  | zero => rfl
  | succ n ih =>
    have h0 := Dev.virtWord_memPart d q va
    unfold Dev.virtRecs
    split
    · next h => rw [h] at h0; exact h0
    · next d1 x h =>
      rw [h] at h0
      dsimp only
      have h1 := Dev.virtRows_memPart d1 q (va + 8) w (bitsAt x 0 3 + 1)
      split
      · next h => rw [h] at h1; exact h1.trans h0
      · next d2 rows h =>
        rw [h] at h1
        have h2 := ih d2 (va + 8 + 8 * w * (bitsAt x 0 3 + 1))
        split
        · next h => rw [h] at h2; exact h2.trans (h1.trans h0)
        · next h => rw [h] at h2; exact h2.trans (h1.trans h0)

theorem Dev.virtPmap_memPart (d : Dev) (q va : Nat) : (Dev.virtPmap d q va).1.memPart = d.memPart := by
  have h0 := Dev.virtWords_memPart d q va 32
  unfold Dev.virtPmap
  split
  · next h => rw [h] at h0; exact h0
  · next h => rw [h] at h0; exact h0

theorem Dev.declBlock_memPart (d : Dev) (q va : Nat) (seen : List (Nat × Nat × Nat)) (n : Nat) :
    (Dev.declBlock d q va seen n).1.memPart = d.memPart := by
  induction n generalizing d va seen with
  | zero => rfl
  | succ n ih =>
    have h0 := Dev.virtWord_memPart d q va
    unfold Dev.declBlock
    split
    · next h => rw [h] at h0; exact h0
    · next d1 w h =>
      rw [h] at h0
      split
      · exact h0
      · dsimp only
        have h1 := Dev.virtWord_memPart d1 q (va + 8)
        split
        · exact h0
        · split
          · next h => rw [h] at h1; exact h1.trans h0
          · next h => rw [h] at h1; exact (ih _ _ _).trans (h1.trans h0)

theorem Dev.readDecls_memPart (d : Dev) (q : Nat) : (Dev.readDecls d q).1.memPart = d.memPart := by
  have h0 := Dev.declBlock_memPart d q (d.core q).v.vpc [] 5
  unfold Dev.readDecls
  split
  · next h => rw [h] at h0; exact h0
  · next d1 l first h =>
    rw [h] at h0
    dsimp only at h0 ⊢
    split
    · next bn ba cn ca rn ra _ _ _ =>
      split
      · exact h0
      · have h1 := Dev.virtRecs_memPart d1 q ca (rowWords (d1.pinGroup q).length) cn
        split
        · next h => rw [h] at h1; exact h1.trans h0
        · next d2 crt h =>
          rw [h] at h1
          dsimp only at h1
          have h2 := Dev.virtRecs_memPart d2 q ra (rowWords (d1.pinGroup q).length) rn
          split
          · next h => rw [h] at h2; exact h2.trans (h1.trans h0)
          · next d3 rck h =>
            rw [h] at h2
            dsimp only at h2
            split
            · exact h2.trans (h1.trans h0)
            · split
              · exact h2.trans (h1.trans h0)
              · next pn pa _ =>
                split
                · exact h2.trans (h1.trans h0)
                · have h3 := Dev.virtPmap_memPart d3 q pa
                  split
                  · next h => rw [h] at h3; exact h3.trans (h2.trans (h1.trans h0))
                  · next h => rw [h] at h3; exact h3.trans (h2.trans (h1.trans h0))
    · exact h0

theorem Dev.btabSig_memPart (d : Dev) (q base n i : Nat) (acc : List (Nat × Bool × Bool)) :
    (Dev.btabSig d q base n i acc).1.memPart = d.memPart := by
  induction n generalizing d i acc with
  | zero => rfl
  | succ n ih =>
    have h0 := Dev.virtWord_memPart d q (base + 32 * i + 16)
    unfold Dev.btabSig
    split
    · next h => rw [h] at h0; exact h0
    · next h => rw [h] at h0; exact (ih _ _ _).trans h0

theorem Dev.loopTable_memPart (d : Dev) (q w va : Nat) (blk : Option (Nat × Nat)) (acc : List (Nat × Nat)) (n : Nat) :
    (Dev.loopTable d q w va blk acc n).1.memPart = d.memPart := by
  induction n generalizing d va blk acc with
  | zero => rfl
  | succ n ih =>
    have h0 := Dev.virtWord_memPart d q va
    unfold Dev.loopTable
    split
    · next h => rw [h] at h0; exact h0
    · next h =>
      rw [h] at h0
      dsimp only at h0 ⊢
      split
      · exact (ih _ _ _ _).trans h0
      · split
        · exact (ih _ _ _ _).trans h0
        · split
          · exact (ih _ _ _ _).trans h0
          · split
            · exact h0
            · split
              · exact h0
              · exact (ih _ _ _ _).trans h0

theorem Dev.lockSig_memPart (d : Dev) (q : Nat) (x : Decls) : (Dev.lockSig d q x).1.memPart = d.memPart := by
  have h0 := Dev.btabSig_memPart d q x.btab.1 x.btab.2 0 []
  unfold Dev.lockSig
  split
  · next h => rw [h] at h0; exact h0
  · next h => rw [h] at h0; exact (Dev.loopTable_memPart _ _ _ _ _ _ _).trans h0

theorem Dev.declsOf_memPart (d : Dev) (l : List Nat) : (Dev.declsOf d l).1.memPart = d.memPart := by
  induction l generalizing d with
  | nil => rfl
  | cons q l ih =>
    have h0 := Dev.readDecls_memPart d q
    unfold Dev.declsOf
    split
    · next h => rw [h] at h0; exact h0
    · next d1 x h =>
      rw [h] at h0
      have h1 := ih d1
      split
      · next h => rw [h] at h1; exact h1.trans h0
      · next h => rw [h] at h1; exact h1.trans h0

theorem Dev.lockstepOf_memPart (d : Dev) (ref : Option (List (Nat × Bool × Bool) × List (Nat × Nat) × Nat × Nat))
    (l : List (Nat × Decls)) : (Dev.lockstepOf d ref l).1.memPart = d.memPart := by
  induction l generalizing d ref with
  | nil => rfl
  | cons e l ih =>
    obtain ⟨q, x⟩ := e
    have h0 := Dev.lockSig_memPart d q x
    unfold Dev.lockstepOf
    split
    · next h => rw [h] at h0; exact h0
    · next h =>
      rw [h] at h0
      split
      · exact (ih _ _).trans h0
      · split
        · exact (ih _ _).trans h0
        · exact h0

theorem Dev.admJudge_memPart (d : Dev) (s : Nat) : (Dev.admJudge d s).1.memPart = d.memPart := by
  unfold Dev.admJudge
  split
  · rfl
  · have h0 := Dev.declsOf_memPart d (d.siteCores s)
    split
    · next h => rw [h] at h0; exact h0
    · next d1 l h =>
      rw [h] at h0
      have h1 := Dev.lockstepOf_memPart d1 none l
      split
      · next h => rw [h] at h1; exact h1.trans h0
      · next h =>
        rw [h] at h1
        split
        · exact h1.trans h0
        · exact h1.trans h0

theorem Dev.coreJoins_memPart (d : Dev) (s : Nat) (q : Nat) (x : Decls) :
    (Dev.coreJoins d s q x).memPart = d.memPart := by
  rfl

theorem Dev.failReset_memPart (d : Dev) (s : Nat) (n : Nat) :
    (Dev.failReset d s n).memPart = d.memPart := by
  simp only [Dev.failReset, apply_ite Dev.memPart, memPart_mk, memPart_fold, Dev.each_memPart, Dev.set_memPart, ite_self, implies_true]

theorem Dev.admitted_memPart (d : Dev) (s : Nat) (l : List (Nat × Decls)) :
    (Dev.admitted d s l).memPart = d.memPart := by
  simp only [Dev.admitted, apply_ite Dev.memPart, memPart_mk, memPart_fold, Dev.coreJoins_memPart, Dev.each_memPart, Dev.failReset_memPart, Dev.logB_memPart, Dev.rpsAdmit_memPart, Dev.set_memPart, Dev.setBounds_memPart, Dev.setSiteState_memPart, Dev.sweepsYield_memPart, ite_self, implies_true]

theorem Dev.admOver_memPart (d : Dev) (s : Nat) :
    (Dev.admOver d s).memPart = d.memPart := by
  rfl

theorem Dev.siteOrFree_memPart (d : Dev) (o : Option Nat) :
    (Dev.siteOrFree d o).2.memPart = d.memPart := by
  unfold Dev.siteOrFree
  repeat' split
  all_goals first | simp only [apply_ite Dev.memPart, memPart_mk, memPart_fold, Dev.freeVal_memPart, ite_self, implies_true] | rfl

theorem Dev.breachNoted_memPart (d : Dev) (res : Nat) (yield : Option Nat) (prot : Option Nat) :
    (Dev.breachNoted d res yield prot).memPart = d.memPart := by
  simp only [Dev.breachNoted, apply_ite Dev.memPart, memPart_mk, memPart_fold, Dev.logA_memPart, Dev.put_memPart, Dev.set_memPart, Dev.siteOrFree_memPart, ite_self, implies_true]

theorem Dev.breachSampled_memPart (d : Dev) (res : Nat) :
    (Dev.breachSampled d res).memPart = d.memPart := by
  unfold Dev.breachSampled
  dsimp only
  repeat' split
  all_goals first | simp only [apply_ite Dev.memPart, memPart_mk, memPart_fold, Dev.breachNoted_memPart, Dev.stopReq_memPart, ite_self, implies_true] | rfl

theorem Dev.breachTick_memPart (d : Dev) :
    (Dev.breachTick d).memPart = d.memPart := by
  simp only [Dev.breachTick, apply_ite Dev.memPart, memPart_mk, memPart_fold, Dev.breachSampled_memPart, ite_self, implies_true]

theorem Dev.siteAns_memPart (d : Dev) (s : Nat) (op : Nat) (res : Nat) :
    (Dev.siteAns d s op res).memPart = d.memPart := by
  rfl

theorem Dev.siteCond_memPart (d : Dev) (s : Nat) (op : Nat) (code : Nat) :
    (Dev.siteCond d s op code).memPart = d.memPart := by
  rfl

theorem Dev.pend_memPart (d : Dev) (s : Nat) (abort : Bool) :
    (Dev.pend d s abort).memPart = d.memPart := by
  rfl

theorem Dev.parkReq_memPart (d : Dev) (s : Nat) (cause : Nat) :
    (Dev.parkReq d s cause).memPart = d.memPart := by
  simp only [Dev.parkReq, apply_ite Dev.memPart, memPart_mk, memPart_fold, Dev.pend_memPart, Dev.stopReq_memPart, ite_self, implies_true]

theorem Dev.abortReq_memPart (d : Dev) (s : Nat) (cause : Nat) :
    (Dev.abortReq d s cause).memPart = d.memPart := by
  simp only [Dev.abortReq, apply_ite Dev.memPart, memPart_mk, memPart_fold, Dev.abortSite_memPart, Dev.pend_memPart, Dev.stopReq_memPart, ite_self, implies_true]

theorem Dev.admitStart_memPart (d : Dev) (s : Nat) :
    (Dev.admitStart d s).memPart = d.memPart := by
  simp only [Dev.admitStart, apply_ite Dev.memPart, memPart_mk, memPart_fold, Dev.each_memPart, Dev.put_memPart, Dev.set_memPart, Dev.wakeDie_memPart, ite_self, implies_true]

theorem Dev.restart_memPart (d : Dev) (s : Nat) :
    (Dev.restart d s).memPart = d.memPart := by
  simp only [Dev.restart, apply_ite Dev.memPart, memPart_mk, memPart_fold, Dev.each_memPart, Dev.modV_memPart, Dev.prefill_memPart, Dev.setCoreState_memPart, Dev.setSiteState_memPart, ite_self, implies_true]

theorem Dev.coreLeaves_memPart (d : Dev) (q : Nat) :
    (Dev.coreLeaves d q).memPart = d.memPart := by
  rfl

theorem Dev.release_memPart (d : Dev) (s : Nat) :
    (Dev.release d s).memPart = d.memPart := by
  unfold Dev.release
  try dsimp only
  repeat' (first | rfl | (simp only [apply_ite Dev.memPart, memPart_mk, memPart_fold, Dev.cancelStarts_memPart, Dev.coreLeaves_memPart, Dev.each_memPart, Dev.put_memPart, Dev.rpsRelease_memPart, Dev.setSiteState_memPart, ite_self, implies_true]; done) | intro _ | split | (refine (Dev.each_memPart _ _ _ ?_).trans ?_) | fail | simp only [apply_ite Dev.memPart, memPart_mk, memPart_fold, Dev.cancelStarts_memPart, Dev.coreLeaves_memPart, Dev.each_memPart, Dev.put_memPart, Dev.rpsRelease_memPart, Dev.setSiteState_memPart, ite_self, implies_true])
  all_goals (try simp only [Prod.ext_iff] at *)
  all_goals (try casesm* _ ∧ _)
  all_goals subst_vars
  all_goals first | assumption | simp only [apply_ite Dev.memPart, memPart_mk, memPart_fold, Dev.cancelStarts_memPart, Dev.coreLeaves_memPart, Dev.each_memPart, Dev.put_memPart, Dev.rpsRelease_memPart, Dev.setSiteState_memPart, ite_self, implies_true]

theorem Dev.stopCmd_memPart (d : Dev) (op : Nat) (s : Nat) :
    (Dev.stopCmd d op s).memPart = d.memPart := by
  unfold Dev.stopCmd
  repeat' split
  all_goals first | simp only [apply_ite Dev.memPart, memPart_mk, memPart_fold, Dev.abortReq_memPart, Dev.parkReq_memPart, Dev.stopReq_memPart, ite_self, implies_true] | rfl

theorem Dev.cmdApply_memPart (d : Dev) (op s : Nat) : (Dev.cmdApply d op s).memPart = d.memPart := by
  unfold Dev.cmdApply
  split
  · simp only [Dev.siteAns_memPart]
  · simp only [Dev.admitStart_memPart]
  · rw [Dev.siteAns_memPart]
    cases h : d.armStart s with
    | none => rfl
    | some d' => exact Dev.armStart_memPart _ _ _ h
  · simp only [Dev.siteAns_memPart, Dev.put_memPart]
  · simp only [Dev.siteAns_memPart, Dev.restart_memPart]
  · simp only [Dev.siteAns_memPart, Dev.release_memPart]
  · simp only [Dev.siteAns_memPart, Dev.stopCmd_memPart]

theorem Dev.cmdRefuse_memPart (d : Dev) (op : Nat) (s : Nat) :
    (Dev.cmdRefuse d op s).memPart = d.memPart := by
  unfold Dev.cmdRefuse
  repeat' split
  all_goals first | simp only [apply_ite Dev.memPart, memPart_mk, memPart_fold, Dev.siteAns_memPart, Dev.siteCond_memPart, ite_self, implies_true] | rfl

theorem State.siteCmd_memPart (s : State) (op : Nat) (site : Nat) :
    (State.siteCmd s op site).dev.memPart = s.dev.memPart := by
  unfold State.siteCmd
  try dsimp only
  repeat' (first | rfl | (simp only [apply_ite Dev.memPart, apply_ite State.dev, memPart_mk, memPart_fold, Dev.cmdApply_memPart, Dev.cmdRefuse_memPart, Dev.siteAns_memPart, State.judge_memPart, State.onDevAs_memPart, ite_self, implies_true]; done) | intro _ | split | (refine (State.judge_memPart _ _ _ _ _ _ _ _ ?_ ?_ ?_).trans ?_) | (refine (State.onDevAs_memPart _ _ _ ?_).trans ?_) | fail | simp only [apply_ite Dev.memPart, apply_ite State.dev, memPart_mk, memPart_fold, Dev.cmdApply_memPart, Dev.cmdRefuse_memPart, Dev.siteAns_memPart, State.judge_memPart, State.onDevAs_memPart, ite_self, implies_true])
  all_goals (try simp only [Prod.ext_iff] at *)
  all_goals (try casesm* _ ∧ _)
  all_goals subst_vars
  all_goals first | assumption | simp only [apply_ite Dev.memPart, apply_ite State.dev, memPart_mk, memPart_fold, Dev.cmdApply_memPart, Dev.cmdRefuse_memPart, Dev.siteAns_memPart, State.judge_memPart, State.onDevAs_memPart, ite_self, implies_true]

theorem Dev.resumeCheck_memPart (d : Dev) (s : Nat) :
    (Dev.resumeCheck d s).memPart = d.memPart := by
  simp only [Dev.resumeCheck, apply_ite Dev.memPart, memPart_mk, memPart_fold, Dev.put_memPart, Dev.siteCond_memPart, ite_self, implies_true]

theorem Dev.notice_memPart (d : Dev) :
    (Dev.notice d).memPart = d.memPart := by
  simp only [Dev.notice, apply_ite Dev.memPart, memPart_mk, memPart_fold, Dev.irq_memPart, Dev.put_memPart, ite_self, implies_true]

theorem Dev.ringSeen_memPart (d : Dev) (c : Nat) :
    (Dev.ringSeen d c).memPart = d.memPart := by
  simp only [Dev.ringSeen, apply_ite Dev.memPart, memPart_mk, memPart_fold, Dev.levelSeen_memPart, Dev.notice_memPart, Dev.wmRecord_memPart, ite_self, implies_true]

theorem Dev.reportA_memPart (d : Dev) :
    (Dev.reportA d).memPart = d.memPart := by
  simp only [Dev.reportA, apply_ite Dev.memPart, memPart_mk, memPart_fold, Dev.irq_memPart, ite_self, implies_true]

theorem Dev.reportsArrive_memPart (d : Dev) :
    (Dev.reportsArrive d).memPart = d.memPart := by
  simp only [Dev.reportsArrive, apply_ite Dev.memPart, memPart_mk, memPart_fold, Dev.irq_memPart, ite_self, implies_true]

theorem Dev.takeRecord_memPart (d : Dev) (die unit : Nat) (r : Rec) (d' : Dev) (h : d.takeRecord die unit = some (r, d')) :
    d'.memPart = d.memPart := by
  unfold Dev.takeRecord at h
  dsimp only at h
  split at h
  · cases h; rfl
  · split at h
    · cases h; rfl
    · split at h
      · split at h
        · cases h; rfl
        · cases h
      · cases h

theorem Dev.holdRecord_memPart (d : Dev) (r : Rec) :
    (Dev.holdRecord d r).memPart = d.memPart := by
  simp only [Dev.holdRecord, apply_ite Dev.memPart, memPart_mk, memPart_fold, Dev.irq_memPart, Dev.lose_memPart, ite_self, implies_true]

theorem Dev.takeHeld_memPart (d : Dev) (r : Rec) (d' : Dev) (h : d.takeHeld = some (r, d')) : d'.memPart = d.memPart := by
  unfold Dev.takeHeld at h
  split at h
  · cases h; rfl
  · split at h
    · cases h; rfl
    · cases h

theorem Dev.rdWrite_memPart (d : Dev) (c : Nat) (v : Nat) :
    (Dev.rdWrite d c v).memPart = d.memPart := by
  simp only [Dev.rdWrite, apply_ite Dev.memPart, memPart_mk, memPart_fold, Dev.put_memPart, Dev.set_memPart, ite_self, implies_true]

end Sys2Proof.Machine
end

