-- ==== Sys2Proof/Laws/MemFrame4.lean ====
section
/-! SUPPORT. Memory frames, part 5 of 8: for every function of the model that leaves the device's memory part
(`MemPart`: the byte store, its zeroed ranges, the HBM epoch and the flash) alone, the lemma `F_memPart`
that says so. The lemmas follow the order of the model's call graph. -/

set_option linter.all false

namespace Sys2Proof.Machine
theorem Dev.pllLocks_memPart (d : Dev) (n : Nat) (p : Nat) (e : Nat) :
    (Dev.pllLocks d n p e).memPart = d.memPart := by
  rfl

theorem Dev.diePllsLock_memPart (d : Dev) (n : Nat) (d' : Dev) (h : d.diePllsLock n = some d') :
    d'.memPart = d.memPart := by
  unfold Dev.diePllsLock at h
  split at h
  · cases h; simp only [Dev.pllLocks_memPart]
  · cases h

theorem Dev.stepMark_memPart (d : Dev) (n : Nat) (p : Nat) (st : Nat) (res : Nat) :
    (Dev.stepMark d n p st res).memPart = d.memPart := by
  rfl

theorem Dev.dropStep_memPart (d : Dev) (n : Nat) (p : Nat) :
    (Dev.dropStep d n p).memPart = d.memPart := by
  rfl

theorem Dev.cancelStep_memPart (d : Dev) (n : Nat) (p : Nat) :
    (Dev.cancelStep d n p).memPart = d.memPart := by
  simp only [Dev.cancelStep, apply_ite Dev.memPart, memPart_mk, memPart_fold, Dev.dropStep_memPart, Dev.stepMark_memPart, ite_self, implies_true]

theorem Dev.stepArm_memPart (d : Dev) (n : Nat) (p : Nat) :
    (Dev.stepArm d n p).memPart = d.memPart := by
  simp only [Dev.stepArm, apply_ite Dev.memPart, memPart_mk, memPart_fold, Dev.put_memPart, Dev.stepMark_memPart, ite_self, implies_true]

theorem State.stepDisarm_memPart (s : State) (n : Nat) (p : Nat) :
    (State.stepDisarm s n p).dev.memPart = s.dev.memPart := by
  unfold State.stepDisarm
  try dsimp only
  repeat' (first | rfl | (simp only [apply_ite Dev.memPart, apply_ite State.dev, memPart_mk, memPart_fold, Dev.cancelStep_memPart, State.judge_memPart, State.onDevAs_memPart, ite_self, implies_true]; done) | intro _ | split | (refine (State.judge_memPart _ _ _ _ _ _ _ _ ?_ ?_ ?_).trans ?_) | (refine (State.onDevAs_memPart _ _ _ ?_).trans ?_) | fail | simp only [apply_ite Dev.memPart, apply_ite State.dev, memPart_mk, memPart_fold, Dev.cancelStep_memPart, State.judge_memPart, State.onDevAs_memPart, ite_self, implies_true])
  all_goals (try simp only [Prod.ext_iff] at *)
  all_goals (try casesm* _ ∧ _)
  all_goals subst_vars
  all_goals first | assumption | simp only [apply_ite Dev.memPart, apply_ite State.dev, memPart_mk, memPart_fold, Dev.cancelStep_memPart, State.judge_memPart, State.onDevAs_memPart, ite_self, implies_true]

theorem Dev.pllsLost_memPart (d : Dev) (n : Nat) (l : List Nat) :
    (Dev.pllsLost d n l).memPart = d.memPart := by
  simp only [Dev.pllsLost, apply_ite Dev.memPart, memPart_mk, memPart_fold, Dev.cancelStep_memPart, Dev.each_memPart, Dev.logAOn_memPart, Dev.put_memPart, Dev.stopReqs_memPart, Dev.sweepAbandon_memPart, ite_self, implies_true]

theorem Dev.relockBegins_memPart (d : Dev) (n : Nat) :
    (Dev.relockBegins d n).memPart = d.memPart := by
  simp only [Dev.relockBegins, apply_ite Dev.memPart, memPart_mk, memPart_fold, Dev.leaseDrop_memPart, Dev.put_memPart, ite_self, implies_true]

theorem Dev.relockWrite_memPart (d : Dev) (n : Nat) :
    (Dev.relockWrite d n).memPart = d.memPart := by
  unfold Dev.relockWrite
  try dsimp only
  repeat' split
  all_goals (try simp only [Prod.ext_iff] at *)
  all_goals (try casesm* _ ∧ _)
  all_goals subst_vars
  all_goals first | assumption | simp only [apply_ite Dev.memPart, memPart_mk, memPart_fold, Dev.leaseReq_memPart, Dev.put_memPart, Dev.relockBegins_memPart, ite_self, implies_true]

theorem Dev.modTime_memPart (d : Dev) (f : TimeU → TimeU) :
    (Dev.modTime d f).memPart = d.memPart := by
  rfl

theorem Dev.unsure_memPart (d : Dev) :
    (Dev.unsure d).memPart = d.memPart := by
  rfl

theorem Dev.acquireBegins_memPart (d : Dev) :
    (Dev.acquireBegins d).memPart = d.memPart := by
  rfl

theorem Dev.acquireWrite_memPart (d : Dev) :
    (Dev.acquireWrite d).memPart = d.memPart := by
  simp only [Dev.acquireWrite, apply_ite Dev.memPart, memPart_mk, memPart_fold, Dev.acquireBegins_memPart, Dev.put_memPart, ite_self, implies_true]

theorem Dev.timeReloaded_memPart (d : Dev) : (Dev.timeReloaded d).memPart = d.memPart := by
  have e1 : ∀ (d : Dev) (c : Clk), Dev.memPart { d with clk := c } = d.memPart := fun _ _ => rfl
  have e2 : ∀ (d : Dev) (c : Tbl Core), Dev.memPart { d with cores := c } = d.memPart := fun _ _ => rfl
  unfold Dev.timeReloaded
  refine (Dev.put_memPart _ _ _).trans ((e1 _ _).trans ((Dev.each_memPart _ _ _ ?_).trans ((e2 _ _).trans (Dev.reloadCancel_memPart d))))
  intro d n
  simp only [Dev.cancelStep_memPart]

theorem Dev.timeLog_memPart (d : Dev) (code : Nat) :
    (Dev.timeLog d code).memPart = d.memPart := by
  rfl

theorem Dev.refLost_memPart (d : Dev) :
    (Dev.refLost d).memPart = d.memPart := by
  simp only [Dev.refLost, apply_ite Dev.memPart, memPart_mk, memPart_fold, Dev.each_memPart, Dev.modTime_memPart, Dev.pllsLost_memPart, Dev.put_memPart, Dev.set_memPart, Dev.timeLog_memPart, Dev.unsure_memPart, ite_self, implies_true]

theorem Dev.applyMark_memPart (d : Dev) :
    (Dev.applyMark d).memPart = d.memPart := by
  simp only [Dev.applyMark, apply_ite Dev.memPart, memPart_mk, memPart_fold, Dev.modTime_memPart, Dev.put_memPart, Dev.set2_memPart, ite_self, implies_true]

theorem Dev.markSlip_memPart (d : Dev) (expected : Nat) :
    (Dev.markSlip d expected).memPart = d.memPart := by
  simp only [Dev.markSlip, apply_ite Dev.memPart, memPart_mk, memPart_fold, Dev.logB_memPart, Dev.put_memPart, ite_self, implies_true]

theorem Dev.timeTick_memPart (d : Dev) :
    (Dev.timeTick d).memPart = d.memPart := by
  unfold Dev.timeTick
  try dsimp only
  repeat' (first | rfl | (simp only [apply_ite Dev.memPart, memPart_mk, memPart_fold, Dev.applyMark_memPart, Dev.asInjected_memPart, Dev.markSlip_memPart, Dev.modTime_memPart, ite_self, implies_true]; done) | intro _ | split | (refine (Dev.asInjected_memPart _ _ ?_).trans ?_) | fail | simp only [apply_ite Dev.memPart, memPart_mk, memPart_fold, Dev.applyMark_memPart, Dev.asInjected_memPart, Dev.markSlip_memPart, Dev.modTime_memPart, ite_self, implies_true])
  all_goals (try have hI0 := Dev.inject_memPart _ _ _ _ _ ‹_›)
  all_goals (try simp only [Prod.ext_iff] at *)
  all_goals (try casesm* _ ∧ _)
  all_goals subst_vars
  all_goals first | assumption | simp only [apply_ite Dev.memPart, memPart_mk, memPart_fold, Dev.applyMark_memPart, Dev.asInjected_memPart, Dev.markSlip_memPart, Dev.modTime_memPart, ite_self, implies_true] | simp only [apply_ite Dev.memPart, memPart_mk, memPart_fold, Dev.applyMark_memPart, Dev.asInjected_memPart, Dev.markSlip_memPart, Dev.modTime_memPart, ite_self, implies_true, hI0]

theorem Dev.stageWrite_memPart (d : Dev) :
    (Dev.stageWrite d).memPart = d.memPart := by
  simp only [Dev.stageWrite, apply_ite Dev.memPart, memPart_mk, memPart_fold, Dev.modTime_memPart, ite_self, implies_true]

theorem Dev.goWrite_memPart (d : Dev) :
    (Dev.goWrite d).memPart = d.memPart := by
  simp only [Dev.goWrite, apply_ite Dev.memPart, memPart_mk, memPart_fold, Dev.modTime_memPart, Dev.put_memPart, ite_self, implies_true]

theorem Dev.modCas_memPart (d : Dev) (f : Cas → Cas) :
    (Dev.modCas d f).memPart = d.memPart := by
  rfl

theorem Dev.portSet_memPart (d : Dev) (p : Nat) (up : Bool) :
    (Dev.portSet d p up).memPart = d.memPart := by
  rfl

theorem Dev.roleWrite_memPart (d : Dev) (w : Nat) :
    (Dev.roleWrite d w).memPart = d.memPart := by
  simp only [Dev.roleWrite, apply_ite Dev.memPart, memPart_mk, memPart_fold, Dev.put_memPart, Dev.set_memPart, ite_self, implies_true]

theorem Dev.holdoverBegins_memPart (d : Dev) (deadline : Nat) :
    (Dev.holdoverBegins d deadline).memPart = d.memPart := by
  simp only [Dev.holdoverBegins, apply_ite Dev.memPart, memPart_mk, memPart_fold, Dev.modCas_memPart, Dev.modTime_memPart, Dev.put_memPart, Dev.set_memPart, Dev.timeLog_memPart, ite_self, implies_true]

theorem Dev.blockLockLost_memPart (d : Dev) (port : Nat) :
    (Dev.blockLockLost d port).memPart = d.memPart := by
  simp only [Dev.blockLockLost, apply_ite Dev.memPart, memPart_mk, memPart_fold, Dev.holdoverBegins_memPart, Dev.portSet_memPart, ite_self, implies_true]

theorem Dev.positionSeen_memPart (d : Dev) (pos : Nat) :
    (Dev.positionSeen d pos).memPart = d.memPart := by
  simp only [Dev.positionSeen, apply_ite Dev.memPart, memPart_mk, memPart_fold, Dev.put_memPart, Dev.set_memPart, ite_self, implies_true]

theorem Dev.timeSeen_memPart (d : Dev) (f : TimeFrame) :
    (Dev.timeSeen d f).memPart = d.memPart := by
  unfold Dev.timeSeen
  repeat' split
  all_goals first | simp only [apply_ite Dev.memPart, memPart_mk, memPart_fold, Dev.holdoverBegins_memPart, Dev.modCas_memPart, Dev.modTime_memPart, Dev.put_memPart, Dev.set_memPart, Dev.stopReqs_memPart, Dev.timeLog_memPart, Dev.unsure_memPart, ite_self, implies_true] | rfl

theorem Dev.strQueue_memPart (d : Dev) (port : Nat) (op : Nat) (pos : Nat) (sites : Nat) (exec : Nat) :
    (Dev.strQueue d port op pos sites exec).memPart = d.memPart := by
  simp only [Dev.strQueue, apply_ite Dev.memPart, memPart_mk, memPart_fold, Dev.modCas_memPart, ite_self, implies_true]

theorem Dev.originate_memPart (d : Dev) (op : Nat) (pos : Nat) (sites : Nat) :
    (Dev.originate d op pos sites).memPart = d.memPart := by
  simp only [Dev.originate, apply_ite Dev.memPart, memPart_mk, memPart_fold, Dev.modCas_memPart, Dev.strQueue_memPart, ite_self, implies_true]

theorem Dev.casCmd_memPart (d : Dev) (op : Nat) :
    (Dev.casCmd d op).memPart = d.memPart := by
  simp only [Dev.casCmd, apply_ite Dev.memPart, memPart_mk, memPart_fold, Dev.originate_memPart, Dev.set_memPart, ite_self, implies_true]

theorem State.strSite_memPart (s : State) (op : Nat) (site : Nat) :
    (State.strSite s op site).dev.memPart = s.dev.memPart := by
  unfold State.strSite
  try dsimp only
  repeat' (first | rfl | (simp only [apply_ite Dev.memPart, apply_ite State.dev, memPart_mk, memPart_fold, Dev.parkReq_memPart, Dev.stopReq_memPart, State.judge_memPart, State.onDev_memPart, ite_self, implies_true]; done) | intro _ | split | (refine (State.judge_memPart _ _ _ _ _ _ _ _ ?_ ?_ ?_).trans ?_) | (refine (State.onDev_memPart _ _ ?_).trans ?_) | fail | simp only [apply_ite Dev.memPart, apply_ite State.dev, memPart_mk, memPart_fold, Dev.parkReq_memPart, Dev.stopReq_memPart, State.judge_memPart, State.onDev_memPart, ite_self, implies_true])
  all_goals (try simp only [Prod.ext_iff] at *)
  all_goals (try casesm* _ ∧ _)
  all_goals subst_vars
  all_goals first | assumption | simp only [apply_ite Dev.memPart, apply_ite State.dev, memPart_mk, memPart_fold, Dev.parkReq_memPart, Dev.stopReq_memPart, State.judge_memPart, State.onDev_memPart, ite_self, implies_true]

theorem Dev.slotSeen_memPart (d : Dev) (p : Nat) (w : Nat) :
    (Dev.slotSeen d p w).memPart = d.memPart := by
  rfl

theorem Dev.alarmsSeen_memPart (d : Dev) :
    (Dev.alarmsSeen d).memPart = d.memPart := by
  simp only [Dev.alarmsSeen, apply_ite Dev.memPart, memPart_mk, memPart_fold, Dev.irq_memPart, Dev.put_memPart, ite_self, implies_true]

theorem Dev.ifcUpdate_memPart (d : Dev) (n : Nat) :
    (Dev.ifcUpdate d n).memPart = d.memPart := by
  simp only [Dev.ifcUpdate, apply_ite Dev.memPart, memPart_mk, memPart_fold, Dev.each_memPart, Dev.put_memPart, Dev.set_memPart, ite_self, implies_true]

theorem Dev.ifcPlls_memPart (d : Dev) (n : Nat) :
    (Dev.ifcPlls d n).memPart = d.memPart := by
  simp only [Dev.ifcPlls, apply_ite Dev.memPart, memPart_mk, memPart_fold, Dev.each_memPart, Dev.put_memPart, Dev.set_memPart, ite_self, implies_true]

theorem Dev.completeUpdate_memPart (d : Dev) (n : Nat) :
    (Dev.completeUpdate d n).memPart = d.memPart := by
  rfl

theorem Dev.dropUpsets_memPart (d : Dev) (a : Nat) :
    (Dev.dropUpsets d a).memPart = d.memPart := by
  rfl

theorem Dev.frameWrite_memPart (d : Dev) (a : Nat) (v : Nat) :
    (Dev.frameWrite d a v).memPart = d.memPart := by
  rfl

theorem Dev.framesBlank_memPart (d : Dev) (l : List Nat) :
    (Dev.framesBlank d l).memPart = d.memPart := by
  simp only [Dev.framesBlank, apply_ite Dev.memPart, memPart_mk, memPart_fold, Dev.completeUpdate_memPart, Dev.dropUpsets_memPart, Dev.each_memPart, Dev.ifcUpdate_memPart, ite_self, implies_true]

theorem Dev.settingsBack_memPart (d : Dev) :
    (Dev.settingsBack d).memPart = d.memPart := by
  simp only [Dev.settingsBack, apply_ite Dev.memPart, memPart_mk, memPart_fold, Dev.each_memPart, Dev.set_memPart, ite_self, implies_true]

theorem Dev.modLdr_memPart (d : Dev) (f : Ldr → Ldr) :
    (Dev.modLdr d f).memPart = d.memPart := by
  rfl

theorem Dev.checkBack_memPart (d : Dev) :
    (Dev.checkBack d).memPart = d.memPart := by
  simp only [Dev.checkBack, apply_ite Dev.memPart, memPart_mk, memPart_fold, Dev.put_memPart, Dev.set_memPart, ite_self, implies_true]

theorem Dev.streamRefuse_memPart (d : Dev) (detail : Nat) (blk : Nat) (revert : Bool) :
    (Dev.streamRefuse d detail blk revert).memPart = d.memPart := by
  simp only [Dev.streamRefuse, apply_ite Dev.memPart, memPart_mk, memPart_fold, Dev.checkBack_memPart, Dev.completeUpdate_memPart, Dev.each_memPart, Dev.framesBlank_memPart, Dev.logB_memPart, Dev.modLdr_memPart, Dev.put_memPart, Dev.set_memPart, Dev.settingsBack_memPart, ite_self, implies_true]

theorem Dev.streamAppend_memPart (d : Dev) (l : List Byte) :
    (Dev.streamAppend d l).memPart = d.memPart := by
  simp only [Dev.streamAppend, apply_ite Dev.memPart, memPart_mk, memPart_fold, Dev.count48_memPart, Dev.modLdr_memPart, ite_self, implies_true]

theorem Dev.streamClaim_memPart (d : Dev) (src : Nat) :
    (Dev.streamClaim d src).memPart = d.memPart := by
  rfl

theorem Dev.streamBytes_memPart (d : Dev) (src : Nat) (l : List Byte) :
    (Dev.streamBytes d src l).memPart = d.memPart := by
  simp only [Dev.streamBytes, apply_ite Dev.memPart, memPart_mk, memPart_fold, Dev.modLdr_memPart, Dev.put_memPart, Dev.streamAppend_memPart, Dev.streamClaim_memPart, ite_self, implies_true]

theorem Dev.portWrite_memPart (d : Dev) (m : Master) (l : List Byte) :
    (Dev.portWrite d m l).memPart = d.memPart := by
  unfold Dev.portWrite
  repeat' split
  all_goals first | simp only [apply_ite Dev.memPart, memPart_mk, memPart_fold, Dev.put_memPart, Dev.streamBytes_memPart, ite_self, implies_true] | rfl

theorem Dev.bodyTake_memPart (d : Dev) (n : Nat) :
    (Dev.bodyTake d n).memPart = d.memPart := by
  unfold Dev.bodyTake
  repeat' split
  all_goals first | simp only [apply_ite Dev.memPart, memPart_mk, memPart_fold, Dev.modLdr_memPart, ite_self, implies_true] | rfl

theorem Dev.modBlk_memPart (d : Dev) (f : LBlk → LBlk) :
    (Dev.modBlk d f).memPart = d.memPart := by
  rfl

theorem Dev.blockRefuse_memPart (d : Dev) (detail : Nat) :
    (Dev.blockRefuse d detail).memPart = d.memPart := by
  simp only [Dev.blockRefuse, apply_ite Dev.memPart, memPart_mk, memPart_fold, Dev.streamRefuse_memPart, ite_self, implies_true]

theorem Dev.takeBlock_memPart (d : Dev) (len : Nat) :
    (Dev.takeBlock d len).memPart = d.memPart := by
  simp only [Dev.takeBlock, apply_ite Dev.memPart, memPart_mk, memPart_fold, Dev.modLdr_memPart, Dev.streamRefuse_memPart, ite_self, implies_true]

theorem Dev.skipBlock_memPart (d : Dev) :
    (Dev.skipBlock d).memPart = d.memPart := by
  unfold Dev.skipBlock
  repeat' split
  all_goals first | simp only [apply_ite Dev.memPart, memPart_mk, memPart_fold, Dev.modLdr_memPart, ite_self, implies_true] | rfl

theorem Dev.setPacket_memPart (d : Dev) (sel : Nat) (f : Dev → Nat → Nat → Dev)
    (hf : ∀ d a b, (f d a b).memPart = d.memPart) : (Dev.setPacket d sel f).memPart = d.memPart := by
  unfold Dev.setPacket
  split
  · split
    · split
      · exact Dev.blockRefuse_memPart _ _
      · split
        · exact Eq.refl _
        · split
          · exact Dev.blockRefuse_memPart _ _
          · split
            · exact Dev.blockRefuse_memPart _ _
            · split
              · exact hf _ _ _
              · exact Eq.refl _
    · exact Eq.refl _
  · exact Eq.refl _

theorem Dev.streamFrame_memPart (d : Dev) (a : Nat) (v : Nat) :
    (Dev.streamFrame d a v).memPart = d.memPart := by
  rfl

theorem Dev.streamFrames_memPart (d : Dev) (v n a : Nat) : (Dev.streamFrames d v n a).1.memPart = d.memPart := by
  induction n generalizing d a with
  | zero => rfl
  | succ n ih =>
    unfold Dev.streamFrames
    split
    · rfl
    · exact (ih _ _).trans (Dev.streamFrame_memPart _ _ _)

theorem Dev.framesDone_memPart (d : Dev) (l : List Nat) :
    (Dev.framesDone d l).memPart = d.memPart := by
  simp only [Dev.framesDone, apply_ite Dev.memPart, memPart_mk, memPart_fold, Dev.completeUpdate_memPart, Dev.each_memPart, Dev.ifcPlls_memPart, Dev.ifcUpdate_memPart, ite_self, implies_true]

theorem Dev.frameHeader_memPart (d : Dev) (kind : Nat) (d' : Dev) (h : d.frameHeader kind = some (.inl d')) :
    d'.memPart = d.memPart := by
  unfold Dev.frameHeader at h
  split at h
  · next x b _ _ =>
    dsimp only at h
    generalize 8 + (if kind = 2 then 1024 * bitsAt x 8 24 else if kind = 3 then 1024 else 0) = len at h
    repeat' split at h
    all_goals simp only [Option.some.injEq, Sum.inl.injEq, reduceCtorEq] at h
    all_goals (subst h; exact Dev.blockRefuse_memPart _ _)
  · cases h

theorem Dev.drainFrames_memPart (n : Nat) (d : Dev) : (Dev.drainFrames n d).memPart = d.memPart := by
  induction n generalizing d with
  | zero => rfl
  | succ n ih =>
    unfold Dev.drainFrames
    split
    · split
      · split
        · exact Dev.blockRefuse_memPart _ _
        · split
          · rfl
          · exact (ih _).trans (by simp only [Dev.bodyTake_memPart, Dev.modBlk_memPart, Dev.streamFrame_memPart])
      · rfl
    · rfl

theorem Dev.framesStart_memPart (d : Dev) : d.framesStart.memPart = d.memPart := by
  unfold Dev.framesStart
  split
  · next h => exact Dev.frameHeader_memPart _ _ _ h
  · split
    · simp only [Dev.bodyTake_memPart, Dev.modBlk_memPart]
    · rfl
  · rfl

theorem Dev.framesGo_memPart (d : Dev) :
    (Dev.framesGo d).memPart = d.memPart := by
  simp only [Dev.framesGo, apply_ite Dev.memPart, memPart_mk, memPart_fold, Dev.drainFrames_memPart, Dev.framesDone_memPart, ite_self, implies_true]

theorem Dev.fillPacket_memPart (d : Dev) (kind len : Nat) : (Dev.fillPacket d kind len).memPart = d.memPart := by
  unfold Dev.fillPacket
  split
  · next h => exact Dev.frameHeader_memPart _ _ _ h
  · split
    · next l _ =>
      dsimp only
      have h0 := Dev.streamFrames_memPart d (leNum (l.drop 8))
      split
      · next n _ _ _ h =>
        have h0 := h0 _ _ ▸ congrArg (fun p : Dev × Option Nat => p.1.memPart) h
        exact (Dev.blockRefuse_memPart _ _).trans h0.symm
      · next h =>
        have h0 := h0 _ _ ▸ congrArg (fun p : Dev × Option Nat => p.1.memPart) h
        simp only [Dev.bodyTake_memPart, Dev.framesDone_memPart]
        exact h0.symm
    · rfl
  · rfl

theorem Dev.rgpStale_memPart (d : Dev) :
    (Dev.rgpStale d).memPart = d.memPart := by
  rfl

theorem Dev.streamAccept_memPart (d : Dev) :
    (Dev.streamAccept d).memPart = d.memPart := by
  simp only [Dev.streamAccept, apply_ite Dev.memPart, memPart_mk, memPart_fold, Dev.bump_memPart, Dev.completeUpdate_memPart, Dev.each_memPart, Dev.modLdr_memPart, Dev.put_memPart, Dev.rgpStale_memPart, Dev.set_memPart, Dev.streamBytes_memPart, ite_self, implies_true]

theorem Dev.streamAbort_memPart (d : Dev) :
    (Dev.streamAbort d).memPart = d.memPart := by
  simp only [Dev.streamAbort, apply_ite Dev.memPart, memPart_mk, memPart_fold, Dev.blockRefuse_memPart, ite_self, implies_true]

theorem Dev.loaderSafe_memPart (d : Dev) :
    (Dev.loaderSafe d).memPart = d.memPart := by
  simp only [Dev.loaderSafe, apply_ite Dev.memPart, memPart_mk, memPart_fold, Dev.streamRefuse_memPart, ite_self, implies_true]

theorem Dev.releaseWrite_memPart (d : Dev) (n : Nat) :
    (Dev.releaseWrite d n).memPart = d.memPart := by
  simp only [Dev.releaseWrite, apply_ite Dev.memPart, memPart_mk, memPart_fold, Dev.put_memPart, ite_self, implies_true]

theorem Dev.fabHold_memPart (d : Dev) :
    (Dev.fabHold d).memPart = d.memPart := by
  rfl

theorem Dev.signGold_memPart (d : Dev) (n : Nat) (ty : Nat) (col : Nat) :
    (Dev.signGold d n ty col).memPart = d.memPart := by
  rfl

theorem Dev.keyErase_memPart (d : Dev) (cause : Nat) :
    (Dev.keyErase d cause).memPart = d.memPart := by
  simp only [Dev.keyErase, apply_ite Dev.memPart, memPart_mk, memPart_fold, Dev.blockRefuse_memPart, Dev.put_memPart, Dev.set_memPart, ite_self, implies_true]

theorem Dev.keybWrite_memPart (d : Dev) (w : Nat) :
    (Dev.keybWrite d w).memPart = d.memPart := by
  simp only [Dev.keybWrite, apply_ite Dev.memPart, memPart_mk, memPart_fold, Dev.each_memPart, Dev.keyErase_memPart, Dev.put_memPart, Dev.set_memPart, ite_self, implies_true]

end Sys2Proof.Machine
end

