-- ==== Sys2Proof/Laws/MemFrame5.lean ====
section
/-! SUPPORT. Memory frames, part 6 of 8: for every function of the model that leaves the device's memory part
(`MemPart`: the byte store, its zeroed ranges, the HBM epoch and the flash) alone, the lemma `F_memPart`
that says so. The lemmas follow the order of the model's call graph. -/

set_option linter.all false

namespace Sys2Proof.Machine
theorem Dev.setCfgi_memPart (d : Dev) (n : Nat) (c : Cfgi) :
    (Dev.setCfgi d n c).memPart = d.memPart := by
  rfl

theorem Dev.dropCfgi_memPart (d : Dev) (n : Nat) :
    (Dev.dropCfgi d n).memPart = d.memPart := by
  rfl

theorem Dev.prErr_memPart (d : Dev) (n : Nat) (r : Nat) (e : Nat) :
    (Dev.prErr d n r e).memPart = d.memPart := by
  rfl

theorem Dev.cfgiSequence_memPart (d : Dev) (n : Nat) :
    (Dev.cfgiSequence d n).memPart = d.memPart := by
  unfold Dev.cfgiSequence
  repeat' split
  all_goals first | simp only [apply_ite Dev.memPart, memPart_mk, memPart_fold, Dev.prErr_memPart, ite_self, implies_true] | rfl

theorem Dev.setBorder_memPart (d : Dev) (n : Nat) (r : Nat) (b : Bool) :
    (Dev.setBorder d n r b).memPart = d.memPart := by
  rfl

theorem Dev.cfgiGranted_memPart (d : Dev) (n : Nat) (r : Nat) :
    (Dev.cfgiGranted d n r).memPart = d.memPart := by
  rfl

theorem Dev.cfgiOpen_memPart (d : Dev) (n : Nat) (w : Nat) :
    (Dev.cfgiOpen d n w).memPart = d.memPart := by
  unfold Dev.cfgiOpen
  dsimp only
  repeat' split
  all_goals first | simp only [apply_ite Dev.memPart, memPart_mk, memPart_fold, Dev.cfgiGranted_memPart, Dev.cfgiSequence_memPart, Dev.leaseReq_memPart, Dev.prErr_memPart, Dev.set_memPart, Dev.setCfgi_memPart, ite_self, implies_true] | rfl

theorem Dev.cfgiFail_memPart (d : Dev) (n : Nat) (e : Nat) :
    (Dev.cfgiFail d n e).memPart = d.memPart := by
  unfold Dev.cfgiFail
  repeat' split
  all_goals first | simp only [apply_ite Dev.memPart, memPart_mk, memPart_fold, Dev.leaseWithdraw_memPart, Dev.setBorder_memPart, Dev.setCfgi_memPart, ite_self, implies_true] | rfl

theorem Dev.cfgiWrite_memPart (d : Dev) (n r v k a : Nat) : (Dev.cfgiWrite d n r v k a).1.memPart = d.memPart := by
  induction k generalizing d a with
  | zero => rfl
  | succ k ih =>
    unfold Dev.cfgiWrite
    split
    · dsimp only
      refine (ih _ _).trans ((Dev.frameWrite_memPart _ _ _).trans ?_)
      split
      · exact Dev.setCfgi_memPart _ _ _
      · rfl
    · rfl

theorem Dev.cfgiData_memPart (d : Dev) (n w : Nat) : (Dev.cfgiData d n w).memPart = d.memPart := by
  have wr : ∀ (e : Dev) (r v k a : Nat) (e' : Dev) (x : Option Nat), e.cfgiWrite n r v k a = (e', x) →
      e'.memPart = e.memPart := by
    intro e r v k a e' x h
    rw [← Dev.cfgiWrite_memPart e n r v k a, h]
  unfold Dev.cfgiData
  split
  · exact Dev.cfgiSequence_memPart _ _
  · split
    · exact Dev.cfgiSequence_memPart _ _
    · split
      · exact Eq.refl _
      · dsimp only
        repeat' split
        all_goals first
          | exact Dev.setCfgi_memPart _ _ _
          | (simp only [Dev.cfgiFail_memPart, Dev.setCfgi_memPart]; done)
          | (have hw := wr _ _ _ _ _ _ _ ‹Dev.cfgiWrite _ n _ _ _ _ = (_, _)›
             simp only [Dev.cfgiFail_memPart, Dev.setCfgi_memPart, hw]; done)

theorem Dev.cfgiClose_memPart (d : Dev) (n : Nat) (crc : Nat) :
    (Dev.cfgiClose d n crc).memPart = d.memPart := by
  unfold Dev.cfgiClose
  repeat' split
  all_goals first | simp only [apply_ite Dev.memPart, memPart_mk, memPart_fold, Dev.cfgiFail_memPart, Dev.cfgiSequence_memPart, Dev.each_memPart, Dev.frameWrite_memPart, Dev.set_memPart, Dev.signGold_memPart, ite_self, implies_true] | rfl

theorem Dev.prAbort_memPart (d : Dev) (n : Nat) (r : Nat) :
    (Dev.prAbort d n r).memPart = d.memPart := by
  unfold Dev.prAbort
  repeat' split
  all_goals first | simp only [apply_ite Dev.memPart, memPart_mk, memPart_fold, Dev.cfgiFail_memPart, ite_self, implies_true] | rfl

theorem Dev.cfgiLoad_memPart (d : Dev) :
    (Dev.cfgiLoad d).memPart = d.memPart := by
  simp only [Dev.cfgiLoad, apply_ite Dev.memPart, memPart_mk, memPart_fold, Dev.cfgiFail_memPart, Dev.each_memPart, ite_self, implies_true]

theorem Dev.cfgiSafe_memPart (d : Dev) :
    (Dev.cfgiSafe d).memPart = d.memPart := by
  unfold Dev.cfgiSafe
  try dsimp only
  repeat' (first | rfl | (simp only [apply_ite Dev.memPart, memPart_mk, memPart_fold, Dev.dropCfgi_memPart, Dev.each_memPart, Dev.leaseDrop_memPart, Dev.prErr_memPart, Dev.set_memPart, Dev.setBorder_memPart, ite_self, implies_true]; done) | intro _ | split | (refine (Dev.each_memPart _ _ _ ?_).trans ?_) | fail | simp only [apply_ite Dev.memPart, memPart_mk, memPart_fold, Dev.dropCfgi_memPart, Dev.each_memPart, Dev.leaseDrop_memPart, Dev.prErr_memPart, Dev.set_memPart, Dev.setBorder_memPart, ite_self, implies_true])
  all_goals (try simp only [Prod.ext_iff] at *)
  all_goals (try casesm* _ ∧ _)
  all_goals subst_vars
  all_goals first | assumption | simp only [apply_ite Dev.memPart, memPart_mk, memPart_fold, Dev.dropCfgi_memPart, Dev.each_memPart, Dev.leaseDrop_memPart, Dev.prErr_memPart, Dev.set_memPart, Dev.setBorder_memPart, ite_self, implies_true]

theorem Dev.scrubEnd_memPart (d : Dev) (n : Nat) (done : Bool) :
    (Dev.scrubEnd d n done).memPart = d.memPart := by
  simp only [Dev.scrubEnd, apply_ite Dev.memPart, memPart_mk, memPart_fold, Dev.bump_memPart, Dev.leaseRelease_memPart, Dev.put_memPart, Dev.set_memPart, ite_self, implies_true]

theorem Dev.scrubFrom_memPart (d : Dev) (n k i : Nat) : (Dev.scrubFrom d n k i).memPart = d.memPart := by
  induction k generalizing d i with
  | zero => exact Dev.scrubEnd_memPart _ _ _
  | succ k ih =>
    unfold Dev.scrubFrom
    dsimp only
    split
    · exact (ih _ _).trans rfl
    · split
      · next d' h =>
        have h1 := Dev.leaseReq_memPart d n lcFCOL scrubHolder ((coveredCols.drop i).headD (0, 0)).2 false
        rw [h] at h1
        exact h1
      · exact (ih _ _).trans rfl

theorem Dev.scrubStop_memPart (d : Dev) (n : Nat) :
    (Dev.scrubStop d n).memPart = d.memPart := by
  unfold Dev.scrubStop
  repeat' split
  all_goals first | simp only [apply_ite Dev.memPart, memPart_mk, memPart_fold, Dev.stopReqs_memPart, ite_self, implies_true] | rfl

theorem Dev.upsetCount_memPart (d : Dev) (n : Nat) :
    (Dev.upsetCount d n).memPart = d.memPart := by
  simp only [Dev.upsetCount, apply_ite Dev.memPart, memPart_mk, memPart_fold, Dev.count48_memPart, ite_self, implies_true]

theorem Dev.upsetAlarm_memPart (d : Dev) (n : Nat) (a : Nat) (cls : Nat) :
    (Dev.upsetAlarm d n a cls).memPart = d.memPart := by
  simp only [Dev.upsetAlarm, apply_ite Dev.memPart, memPart_mk, memPart_fold, Dev.logAOn_memPart, Dev.put_memPart, Dev.scrubStop_memPart, Dev.set_memPart, ite_self, implies_true]

theorem Dev.segment_memPart (d : Dev) (a : Nat) (g : Nat) :
    (Dev.segment d a g).1.memPart = d.memPart := by
  unfold Dev.segment
  dsimp only
  repeat' split
  all_goals first | simp only [apply_ite Dev.memPart, apply_ite Prod.fst, memPart_mk, memPart_fold, Dev.freeVal_memPart, ite_self, implies_true] | rfl

theorem Dev.flipBit_memPart (d : Dev) (a : Nat) (b : Nat) :
    (Dev.flipBit d a b).memPart = d.memPart := by
  rfl

theorem Dev.scrubFrame_memPart (d : Dev) (n a : Nat) (mapFail : Bool) :
    (Dev.scrubFrame d n a mapFail).1.memPart = d.memPart := by
  unfold Dev.scrubFrame
  dsimp only
  have h0 : ∀ (l : List Nat) (p : Dev × List (Option Nat)), (l.foldl (fun (p : Dev × List (Option Nat)) g =>
      ((p.1.segment a g).1, match (p.1.segment a g).2 with
        | some x => p.2 ++ [x]
        | none => p.2)) p).1.memPart = p.1.memPart :=
    fun l p => foldFst_memPart _ _ _ fun p g => Dev.segment_memPart _ _ _
  have h1 : ∀ (e : Dev) (l : List Nat), (e.each l fun d b => d.flipBit a b).memPart = e.memPart :=
    fun e l => Dev.each_memPart _ _ _ fun d b => Dev.flipBit_memPart _ _ _
  simp only [apply_ite Prod.fst, apply_ite Dev.memPart, Dev.upsetAlarm_memPart, Dev.upsetCount_memPart, Dev.logBOn_memPart, ite_self, h1]
  exact h0 _ _

theorem Dev.scrubBad_memPart (d : Dev) (n : Nat) (ty : Nat) (c : Nat) :
    (Dev.scrubBad d n ty c).memPart = d.memPart := by
  rfl

theorem Dev.scrubColumn_memPart (d : Dev) (n ty c : Nat) (mapFail : Bool) :
    (Dev.scrubColumn d n ty c mapFail).memPart = d.memPart := by
  unfold Dev.scrubColumn
  dsimp only
  generalize hp : List.foldl _ _ _ = p
  have h0 : p.1.memPart = d.memPart := by
    rw [← hp]
    refine foldFst_memPart _ _ _ fun p g => ?_
    have h := Dev.scrubFrame_memPart p.1 n g mapFail
    revert h
    cases p.1.scrubFrame n g mapFail
    exact id
  repeat' split
  all_goals first
    | exact Eq.refl _
    | simp only [Dev.upsetAlarm_memPart, Dev.upsetCount_memPart, Dev.scrubBad_memPart, h0]

theorem Dev.scrubsStop_memPart (d : Dev) :
    (Dev.scrubsStop d).memPart = d.memPart := by
  simp only [Dev.scrubsStop, apply_ite Dev.memPart, memPart_mk, memPart_fold, Dev.each_memPart, Dev.scrubEnd_memPart, ite_self, implies_true]

theorem Dev.fabReset_memPart (d : Dev) (n : Nat) :
    (Dev.fabReset d n).memPart = d.memPart := by
  rfl

theorem Dev.flashDone_memPart (d : Dev) :
    (Dev.flashDone d).memPart = d.memPart := by
  rfl

theorem Dev.flashCE_memPart (d : Dev) :
    (Dev.flashCE d).memPart = d.memPart := by
  simp only [Dev.flashCE, apply_ite Dev.memPart, memPart_mk, memPart_fold, Dev.count48_memPart, Dev.put_memPart, ite_self, implies_true]

theorem Dev.flashUE_memPart (d : Dev) (o : Nat) :
    (Dev.flashUE d o).memPart = d.memPart := by
  rfl

theorem Dev.xoRead_memPart (d : Dev) (o : Nat) :
    (Dev.xoRead d o).memPart = d.memPart := by
  simp only [Dev.xoRead, apply_ite Dev.memPart, memPart_mk, memPart_fold, Dev.logB_memPart, Dev.put_memPart, ite_self, implies_true]

theorem Dev.flashEcc_memPart (d : Dev) (o : Nat) (ecc : Nat) :
    (Dev.flashEcc d o ecc).1.memPart = d.memPart := by
  unfold Dev.flashEcc
  try dsimp only
  repeat' (first | rfl | (simp only [apply_ite Dev.memPart, apply_ite Prod.fst, memPart_mk, memPart_fold, Dev.asInjected_memPart, Dev.flashCE_memPart, Dev.flashUE_memPart, ite_self, implies_true]; done) | intro _ | split | (refine (Dev.asInjected_memPart _ _ ?_).trans ?_) | fail | simp only [apply_ite Dev.memPart, apply_ite Prod.fst, memPart_mk, memPart_fold, Dev.asInjected_memPart, Dev.flashCE_memPart, Dev.flashUE_memPart, ite_self, implies_true])
  all_goals (try have hI0 := Dev.inject_memPart _ _ _ _ _ ‹_›)
  all_goals (try simp only [Prod.ext_iff] at *)
  all_goals (try casesm* _ ∧ _)
  all_goals subst_vars
  all_goals first | assumption | simp only [apply_ite Dev.memPart, apply_ite Prod.fst, memPart_mk, memPart_fold, Dev.asInjected_memPart, Dev.flashCE_memPart, Dev.flashUE_memPart, ite_self, implies_true] | simp only [apply_ite Dev.memPart, apply_ite Prod.fst, memPart_mk, memPart_fold, Dev.asInjected_memPart, Dev.flashCE_memPart, Dev.flashUE_memPart, ite_self, implies_true, hI0]

theorem Dev.callAnswer_memPart (d : Dev) (st : Nat) (caller : Nat) (done : Bool) :
    (Dev.callAnswer d st caller done).memPart = d.memPart := by
  simp only [Dev.callAnswer, apply_ite Dev.memPart, memPart_mk, memPart_fold, Dev.put_memPart, Dev.set_memPart, ite_self, implies_true]

theorem Dev.slotsSeen_memPart (d : Dev) :
    (Dev.slotsSeen d).memPart = d.memPart := by
  rfl

theorem Dev.callEnd_memPart (d : Dev) (st : Nat) :
    (Dev.callEnd d st).memPart = d.memPart := by
  unfold Dev.callEnd
  repeat' split
  all_goals first | simp only [apply_ite Dev.memPart, memPart_mk, memPart_fold, Dev.callAnswer_memPart, Dev.leaseDrop_memPart, Dev.put_memPart, Dev.slotsSeen_memPart, ite_self, implies_true] | rfl

theorem Dev.setCall_memPart (d : Dev) (c : FCall) :
    (Dev.setCall d c).memPart = d.memPart := by
  rfl

theorem Dev.opBegin_memPart (d : Dev) (c : FCall) :
    (Dev.opBegin d c).memPart = d.memPart := by
  unfold Dev.opBegin
  repeat' split
  all_goals first | simp only [apply_ite Dev.memPart, memPart_mk, memPart_fold, Dev.callEnd_memPart, Dev.put_memPart, Dev.set_memPart, Dev.setCall_memPart, ite_self, implies_true] | rfl

theorem Dev.flashBegins_memPart (d : Dev) :
    (Dev.flashBegins d).memPart = d.memPart := by
  unfold Dev.flashBegins
  repeat' split
  all_goals first | simp only [apply_ite Dev.memPart, memPart_mk, memPart_fold, Dev.callEnd_memPart, Dev.flashDone_memPart, Dev.opBegin_memPart, Dev.setCall_memPart, ite_self, implies_true] | rfl

theorem Dev.callRead_memPart (d : Dev) (c : FCall) :
    (Dev.callRead d c).memPart = d.memPart := by
  unfold Dev.callRead
  dsimp only
  repeat' split
  all_goals first | simp only [apply_ite Dev.memPart, memPart_mk, memPart_fold, Dev.callEnd_memPart, Dev.flashDone_memPart, Dev.set_memPart, ite_self, implies_true] | rfl

theorem Dev.flashCall_memPart (d : Dev) (c : FCall) (queue : Bool) :
    (Dev.flashCall d c queue).memPart = d.memPart := by
  unfold Dev.flashCall
  try dsimp only
  repeat' split
  all_goals (try simp only [Prod.ext_iff] at *)
  all_goals (try casesm* _ ∧ _)
  all_goals subst_vars
  all_goals first | assumption | simp only [apply_ite Dev.memPart, memPart_mk, memPart_fold, Dev.callAnswer_memPart, Dev.callRead_memPart, Dev.flashBegins_memPart, Dev.leaseReq_memPart, Dev.put_memPart, Dev.set_memPart, Dev.setCall_memPart, ite_self, implies_true]

theorem Dev.flashWrite_memPart (d : Dev) (m : Master) (w : Nat) (srcErr : Option Nat) :
    (Dev.flashWrite d m w srcErr).memPart = d.memPart := by
  unfold Dev.flashWrite
  repeat' split
  all_goals first | simp only [apply_ite Dev.memPart, memPart_mk, memPart_fold, Dev.flashCall_memPart, Dev.put_memPart, ite_self, implies_true] | rfl

theorem Dev.flashFabric_memPart (d : Dev) (func : Nat) (arg : Nat) (line : List Byte) (queue : Bool) :
    (Dev.flashFabric d func arg line queue).memPart = d.memPart := by
  simp only [Dev.flashFabric, apply_ite Dev.memPart, memPart_mk, memPart_fold, Dev.callAnswer_memPart, Dev.flashCall_memPart, ite_self, implies_true]

theorem Dev.pbaRefresh_memPart (d : Dev) :
    (Dev.pbaRefresh d).memPart = d.memPart := by
  rfl

theorem Dev.msixSet_memPart (d : Dev) (f : Msix → Msix) :
    (Dev.msixSet d f).memPart = d.memPart := by
  simp only [Dev.msixSet, apply_ite Dev.memPart, memPart_mk, memPart_fold, Dev.each_memPart, Dev.pbaRefresh_memPart, ite_self, implies_true]

theorem Dev.irqMapWrite_memPart (d : Dev) (s : Nat) (w : Nat) :
    (Dev.irqMapWrite d s w).memPart = d.memPart := by
  simp only [Dev.irqMapWrite, apply_ite Dev.memPart, memPart_mk, memPart_fold, Dev.message_memPart, Dev.pbaRefresh_memPart, Dev.put_memPart, Dev.set_memPart, ite_self, implies_true]

theorem Dev.hstReset_memPart (d : Dev) :
    (Dev.hstReset d).memPart = d.memPart := by
  rfl

theorem Dev.hostReset_memPart (d : Dev) (code : Nat) :
    (Dev.hostReset d code).memPart = d.memPart := by
  simp only [Dev.hostReset, apply_ite Dev.memPart, memPart_mk, memPart_fold, Dev.hstReset_memPart, Dev.logA_memPart, ite_self, implies_true]

theorem Dev.dmaHalt_memPart (d : Dev) (c : Nat) (err : Nat) :
    (Dev.dmaHalt d c err).memPart = d.memPart := by
  simp only [Dev.dmaHalt, apply_ite Dev.memPart, memPart_mk, memPart_fold, Dev.irq_memPart, Dev.put_memPart, Dev.set_memPart, ite_self, implies_true]

theorem Dev.dmaNext_memPart (d : Dev) (c : Nat) (irq : Bool) :
    (Dev.dmaNext d c irq).memPart = d.memPart := by
  simp only [Dev.dmaNext, apply_ite Dev.memPart, memPart_mk, memPart_fold, Dev.irq_memPart, Dev.set_memPart, ite_self, implies_true]

theorem Dev.dmaResume_memPart (d : Dev) (c : Nat) :
    (Dev.dmaResume d c).memPart = d.memPart := by
  simp only [Dev.dmaResume, apply_ite Dev.memPart, memPart_mk, memPart_fold, Dev.put_memPart, Dev.set_memPart, ite_self, implies_true]

theorem Dev.dmaAbort_memPart (d : Dev) (c : Nat) :
    (Dev.dmaAbort d c).memPart = d.memPart := by
  simp only [Dev.dmaAbort, apply_ite Dev.memPart, memPart_mk, memPart_fold, Dev.dmaHalt_memPart, ite_self, implies_true]

theorem Dev.gpiWrite_memPart (d : Dev) (f : Fld) (k : Nat) (w : Nat) :
    (Dev.gpiWrite d f k w).memPart = d.memPart := by
  simp only [Dev.gpiWrite, apply_ite Dev.memPart, memPart_mk, memPart_fold, Dev.each_memPart, Dev.put_memPart, Dev.putBit_memPart, ite_self, implies_true]

theorem Dev.pmRestart_memPart (d : Dev) (u : Nat) :
    (Dev.pmRestart d u).memPart = d.memPart := by
  rfl

theorem Dev.setRx_memPart (d : Dev) (p : Nat) (l : List Byte) :
    (Dev.setRx d p l).memPart = d.memPart := by
  rfl

theorem Dev.setTx_memPart (d : Dev) (p : Nat) (l : List Nat) :
    (Dev.setTx d p l).memPart = d.memPart := by
  rfl

theorem Dev.spOvr_memPart (d : Dev) (p : Nat) :
    (Dev.spOvr d p).memPart = d.memPart := by
  simp only [Dev.spOvr, apply_ite Dev.memPart, memPart_mk, memPart_fold, Dev.irq_memPart, Dev.put_memPart, ite_self, implies_true]

theorem Dev.txWrite_memPart (d : Dev) (p : Nat) (w : Nat) :
    (Dev.txWrite d p w).memPart = d.memPart := by
  simp only [Dev.txWrite, apply_ite Dev.memPart, memPart_mk, memPart_fold, Dev.put_memPart, Dev.setTx_memPart, Dev.spOvr_memPart, ite_self, implies_true]

theorem Dev.rxRead_memPart (d : Dev) (p : Nat) :
    (Dev.rxRead d p).1.memPart = d.memPart := by
  unfold Dev.rxRead
  repeat' split
  all_goals first | simp only [apply_ite Dev.memPart, apply_ite Prod.fst, memPart_mk, memPart_fold, Dev.setRx_memPart, ite_self, implies_true] | rfl

theorem Dev.dbgAns_memPart (d : Dev) (t : Nat) (res : Nat) :
    (Dev.dbgAns d t res).memPart = d.memPart := by
  rfl

theorem Dev.dbgDo_memPart (d : Dev) (t : Nat) (ok : Dev → Bool) (f : Dev → Dev) (hf : ∀ d, (f d).memPart = d.memPart) :
    (Dev.dbgDo d t ok f).memPart = d.memPart := by
  simp only [Dev.dbgDo, apply_ite Dev.memPart, memPart_mk, memPart_fold, Dev.dbgAns_memPart, hf, ite_self, implies_true]

theorem Dev.dbgCmd_memPart (d : Dev) (op : Nat) (t : Nat) :
    (Dev.dbgCmd d op t).memPart = d.memPart := by
  unfold Dev.dbgCmd
  repeat' split
  all_goals first | simp only [apply_ite Dev.memPart, memPart_mk, memPart_fold, Dev.dbgDo_memPart, Dev.halt_memPart, Dev.resume_memPart, Dev.step_memPart, ite_self, implies_true] | rfl

theorem Dev.stateAccess_memPart (d : Dev) (t : Nat) (write : Bool) (r : Nat) :
    (Dev.stateAccess d t write r).memPart = d.memPart := by
  unfold Dev.stateAccess
  repeat' split
  all_goals first | simp only [apply_ite Dev.memPart, memPart_mk, memPart_fold, Dev.dbgAns_memPart, Dev.modCore_memPart, Dev.put_memPart, Dev.set2_memPart, ite_self, implies_true] | rfl

theorem Dev.tapLoad_memPart (d : Dev) (code : Nat) :
    (Dev.tapLoad d code).memPart = d.memPart := by
  rfl

theorem Dev.setSlice_memPart (d : Dev) (x : Slice) :
    (Dev.setSlice d x).memPart = d.memPart := by
  rfl

theorem Dev.bistAns_memPart (d : Dev) (res : Nat) (qfull : Bool) (holder : Nat) :
    (Dev.bistAns d res qfull holder).memPart = d.memPart := by
  rfl

theorem Dev.sliceNext_memPart (d : Dev) :
    (Dev.sliceNext d).1.memPart = d.memPart := by
  unfold Dev.sliceNext
  try dsimp only
  repeat' split
  all_goals (try simp only [Prod.ext_iff] at *)
  all_goals (try casesm* _ ∧ _)
  all_goals subst_vars
  all_goals first | assumption | simp only [apply_ite Dev.memPart, apply_ite Prod.fst, memPart_mk, memPart_fold, Dev.leaseReq_memPart, Dev.setSlice_memPart, Dev.sliceOver_memPart, ite_self, implies_true]

theorem Dev.sliceBegin_memPart (d : Dev) (e : Nat) (queue : Bool) :
    (Dev.sliceBegin d e queue).1.memPart = d.memPart := by
  unfold Dev.sliceBegin
  try dsimp only
  repeat' split
  all_goals (try simp only [Prod.ext_iff] at *)
  all_goals (try casesm* _ ∧ _)
  all_goals subst_vars
  all_goals first | assumption | simp only [apply_ite Dev.memPart, apply_ite Prod.fst, memPart_mk, memPart_fold, Dev.put_memPart, Dev.set_memPart, Dev.setSlice_memPart, Dev.sliceNext_memPart, ite_self, implies_true]

theorem Dev.bistGo_memPart (d : Dev) (e : Nat) (queue : Bool) :
    (Dev.bistGo d e queue).memPart = d.memPart := by
  simp only [Dev.bistGo, apply_ite Dev.memPart, memPart_mk, memPart_fold, Dev.bistAns_memPart, Dev.sliceBegin_memPart, ite_self, implies_true]

theorem Dev.bistCancel_memPart (d : Dev) (e : Nat) :
    (Dev.bistCancel d e).memPart = d.memPart := by
  unfold Dev.bistCancel
  dsimp only
  repeat' split
  all_goals first | simp only [apply_ite Dev.memPart, memPart_mk, memPart_fold, Dev.sliceOver_memPart, ite_self, implies_true] | rfl

theorem Dev.bistCmd_memPart (d : Dev) (w : Nat) :
    (Dev.bistCmd d w).memPart = d.memPart := by
  simp only [Dev.bistCmd, apply_ite Dev.memPart, memPart_mk, memPart_fold, Dev.bistCancel_memPart, Dev.bistGo_memPart, ite_self, implies_true]

theorem Dev.bistTick_memPart (d : Dev) :
    (Dev.bistTick d).memPart = d.memPart := by
  unfold Dev.bistTick
  repeat' split
  all_goals first | simp only [apply_ite Dev.memPart, memPart_mk, memPart_fold, Dev.sliceBegin_memPart, Dev.sliceNext_memPart, ite_self, implies_true] | rfl

theorem Dev.latchFail_memPart (d : Dev) (e : Nat) (a : Nat) (b : Nat) (rep : Bool) :
    (Dev.latchFail d e a b rep).memPart = d.memPart := by
  rfl

theorem Dev.bistFailed_memPart (d : Dev) (e : Nat) :
    (Dev.bistFailed d e).memPart = d.memPart := by
  simp only [Dev.bistFailed, apply_ite Dev.memPart, memPart_mk, memPart_fold, Dev.logA_memPart, Dev.put_memPart, Dev.putBit_memPart, Dev.unrecoverable_memPart, ite_self, implies_true]

theorem Dev.bistDieReset_memPart (d : Dev) (die : Nat) :
    (Dev.bistDieReset d die).memPart = d.memPart := by
  unfold Dev.bistDieReset
  repeat' split
  all_goals first | simp only [apply_ite Dev.memPart, memPart_mk, memPart_fold, Dev.sliceOver_memPart, ite_self, implies_true] | rfl

theorem Dev.injArm_memPart (d : Dev) (i : Nat) :
    (Dev.injArm d i).memPart = d.memPart := by
  simp only [Dev.injArm, apply_ite Dev.memPart, memPart_mk, memPart_fold, Dev.put_memPart, Dev.set_memPart, ite_self, implies_true]

theorem Dev.injCtrl_memPart (d : Dev) (i : Nat) (w : Nat) :
    (Dev.injCtrl d i w).memPart = d.memPart := by
  simp only [Dev.injCtrl, apply_ite Dev.memPart, memPart_mk, memPart_fold, Dev.injArm_memPart, Dev.set_memPart, ite_self, implies_true]

theorem Dev.injDieReset_memPart (d : Dev) (die : Nat) :
    (Dev.injDieReset d die).memPart = d.memPart := by
  simp only [Dev.injDieReset, apply_ite Dev.memPart, memPart_mk, memPart_fold, Dev.injDisarm_memPart, ite_self, implies_true]

end Sys2Proof.Machine
end

