-- ==== Sys2Proof/Laws/MemFrame6.lean ====
section
/-! SUPPORT. Memory frames, part 7 of 8: for every function of the model that leaves the device's memory part
(`MemPart`: the byte store, its zeroed ranges, the HBM epoch and the flash) alone, the lemma `F_memPart`
that says so. The lemmas follow the order of the model's call graph. -/

set_option linter.all false

namespace Sys2Proof.Machine
theorem Dev.modStart_memPart (d : Dev) (f : Start → Start) :
    (Dev.modStart d f).memPart = d.memPart := by
  rfl

theorem Dev.modSnt_memPart (d : Dev) (f : Snt → Snt) :
    (Dev.modSnt d f).memPart = d.memPart := by
  rfl

theorem Dev.cdReset_memPart (d : Dev) (n : Nat) :
    (Dev.cdReset d n).memPart = d.memPart := by
  simp only [Dev.cdReset, apply_ite Dev.memPart, memPart_mk, memPart_fold, Dev.bistDieReset_memPart, Dev.coreReset_memPart, Dev.each_memPart, Dev.eraseDie_memPart, Dev.fabReset_memPart, Dev.freshDirs_memPart, Dev.injDieReset_memPart, Dev.leaseDieReset_memPart, Dev.modLink_memPart, Dev.modStart_memPart, Dev.putBit_memPart, ite_self, implies_true]

theorem Dev.failShown_memPart (d : Dev) (code : Nat) (die : Nat) :
    (Dev.failShown d code die).memPart = d.memPart := by
  rfl

theorem Dev.safeSite_memPart (d : Dev) (trip : Bool) (s : Nat) :
    (Dev.safeSite d trip s).memPart = d.memPart := by
  simp only [Dev.safeSite, apply_ite Dev.memPart, memPart_mk, memPart_fold, Dev.abortSite_memPart, Dev.endRecs_memPart, Dev.set_memPart, ite_self, implies_true]

theorem Dev.tripLogged_memPart (d : Dev) (cause : Nat) :
    (Dev.tripLogged d cause).memPart = d.memPart := by
  rfl

theorem Dev.tripClear_memPart (d : Dev) :
    (Dev.tripClear d).memPart = d.memPart := by
  simp only [Dev.tripClear, apply_ite Dev.memPart, memPart_mk, memPart_fold, Dev.put_memPart, ite_self, implies_true]

theorem Dev.setStage_memPart (d : Dev) (st : Nat) :
    (Dev.setStage d st).memPart = d.memPart := by
  rfl

theorem Dev.releaseDie_memPart (d : Dev) (n : Nat) :
    (Dev.releaseDie d n).memPart = d.memPart := by
  rfl

theorem Dev.releaseNext_memPart (d : Dev) :
    (Dev.releaseNext d).memPart = d.memPart := by
  unfold Dev.releaseNext
  repeat' split
  all_goals first | simp only [apply_ite Dev.memPart, memPart_mk, memPart_fold, Dev.releaseDie_memPart, ite_self, implies_true] | rfl

theorem Dev.bandLoad_memPart (d : Dev) (copy : Option Nat) (n : Nat) (p : Nat) :
    (Dev.bandLoad d copy n p).memPart = d.memPart := by
  simp only [Dev.bandLoad, apply_ite Dev.memPart, memPart_mk, memPart_fold, Dev.each_memPart, Dev.set_memPart, Dev.wordPut_memPart, ite_self, implies_true]

theorem Dev.bandsLoad_memPart (d : Dev) :
    (Dev.bandsLoad d).memPart = d.memPart := by
  simp only [Dev.bandsLoad, apply_ite Dev.memPart, memPart_mk, memPart_fold, Dev.bandLoad_memPart, Dev.each_memPart, ite_self, implies_true]

theorem Dev.readyBegins_memPart (d : Dev) :
    (Dev.readyBegins d).memPart = d.memPart := by
  simp only [Dev.readyBegins, apply_ite Dev.memPart, memPart_mk, memPart_fold, Dev.put_memPart, Dev.refreshLines_memPart, Dev.refreshMode_memPart, Dev.set_memPart, ite_self, implies_true]

theorem Dev.stageBegins_memPart (d : Dev) (st : Nat) :
    (Dev.stageBegins d st).memPart = d.memPart := by
  unfold Dev.stageBegins
  repeat' split
  all_goals first | simp only [apply_ite Dev.memPart, memPart_mk, memPart_fold, Dev.bandsLoad_memPart, Dev.modStart_memPart, Dev.put_memPart, Dev.readyBegins_memPart, Dev.releaseNext_memPart, Dev.set_memPart, Dev.setStage_memPart, ite_self, implies_true] | rfl

theorem Dev.stageCheck_memPart (n : Nat) (d : Dev) : (Dev.stageCheck n d).memPart = d.memPart := by
  induction n generalizing d with
  | zero => rfl
  | succ n ih =>
    unfold Dev.stageCheck
    split
    · exact (ih _).trans (Dev.stageBegins_memPart _ _)
    · rfl

theorem Dev.goStage_memPart (d : Dev) (st : Nat) :
    (Dev.goStage d st).memPart = d.memPart := by
  simp only [Dev.goStage, apply_ite Dev.memPart, memPart_mk, memPart_fold, Dev.stageBegins_memPart, Dev.stageCheck_memPart, ite_self, implies_true]

theorem Dev.stageWork_memPart (d : Dev) (st : Nat) (f : Dev → Dev) (hf : ∀ d, (f d).memPart = d.memPart) :
    (Dev.stageWork d st f).memPart = d.memPart := by
  simp only [Dev.stageWork, apply_ite Dev.memPart, memPart_mk, memPart_fold, Dev.stageCheck_memPart, hf, ite_self, implies_true]

theorem Dev.slotSelect_memPart (d : Dev) :
    (Dev.slotSelect d).1.memPart = d.memPart := by
  simp only [Dev.slotSelect, apply_ite Dev.memPart, apply_ite Prod.fst, memPart_mk, memPart_fold, Dev.flashDone_memPart, Dev.logB_memPart, Dev.put_memPart, ite_self, implies_true]

theorem Dev.slotLoad_memPart (d : Dev) (c : Nat) :
    (Dev.slotLoad d c).1.memPart = d.memPart := by
  simp only [Dev.slotLoad, apply_ite Dev.memPart, apply_ite Prod.fst, memPart_mk, memPart_fold, Dev.flashDone_memPart, Dev.logB_memPart, Dev.modSnt_memPart, ite_self, implies_true]

theorem Dev.defaultLoad_memPart (d : Dev) :
    (Dev.defaultLoad d).memPart = d.memPart := by
  rfl

theorem Dev.imageLoad_memPart (d : Dev) : (Dev.imageLoad d).memPart = d.memPart := by
  unfold Dev.imageLoad
  dsimp only
  split
  · simp only [Dev.defaultLoad_memPart, Dev.slotSelect_memPart]
  · simp only [apply_ite Dev.memPart, Dev.slotLoad_memPart, Dev.defaultLoad_memPart, Dev.slotSelect_memPart, ite_self]

theorem Dev.fabricStarts_memPart (d : Dev) (n : Nat) :
    (Dev.fabricStarts d n).memPart = d.memPart := by
  simp only [Dev.fabricStarts, apply_ite Dev.memPart, memPart_mk, memPart_fold, Dev.each_memPart, Dev.put_memPart, Dev.set_memPart, Dev.signGold_memPart, ite_self, implies_true]

theorem Dev.calLoad_memPart (d : Dev) (n : Nat) (copy : Option Nat) :
    (Dev.calLoad d n copy).memPart = d.memPart := by
  simp only [Dev.calLoad, apply_ite Dev.memPart, memPart_mk, memPart_fold, Dev.each_memPart, Dev.setCal_memPart, ite_self, implies_true]

theorem Dev.loadUnits_memPart (d : Dev) :
    (Dev.loadUnits d).memPart = d.memPart := by
  simp only [Dev.loadUnits, apply_ite Dev.memPart, memPart_mk, memPart_fold, Dev.cfgiLoad_memPart, Dev.each_memPart, Dev.fabHold_memPart, Dev.put_memPart, Dev.refreshLines_memPart, Dev.scrubsStop_memPart, Dev.set_memPart, ite_self, implies_true]

theorem Dev.loadFromReady_memPart (d : Dev) :
    (Dev.loadFromReady d).memPart = d.memPart := by
  simp only [Dev.loadFromReady, apply_ite Dev.memPart, memPart_mk, memPart_fold, Dev.loadUnits_memPart, Dev.set_memPart, Dev.setStage_memPart, ite_self, implies_true]

theorem Dev.cdReset'_memPart (d : Dev) (n : Nat) :
    (Dev.cdReset' d n).memPart = d.memPart := by
  simp only [Dev.cdReset', apply_ite Dev.memPart, memPart_mk, memPart_fold, Dev.cdReset_memPart, Dev.putBit_memPart, ite_self, implies_true]

theorem Dev.loadFromSafe_memPart (d : Dev) :
    (Dev.loadFromSafe d).memPart = d.memPart := by
  simp only [Dev.loadFromSafe, apply_ite Dev.memPart, memPart_mk, memPart_fold, Dev.cdReset_memPart, Dev.cdReset'_memPart, Dev.each_memPart, Dev.goStage_memPart, Dev.loadUnits_memPart, Dev.modStart_memPart, Dev.put_memPart, Dev.release_memPart, Dev.rgpStale_memPart, Dev.set_memPart, ite_self, implies_true]

theorem Dev.enterLoadApply_memPart (d : Dev) :
    (Dev.enterLoadApply d).memPart = d.memPart := by
  simp only [Dev.enterLoadApply, apply_ite Dev.memPart, memPart_mk, memPart_fold, Dev.loadFromReady_memPart, Dev.loadFromSafe_memPart, ite_self, implies_true]

theorem Dev.reqRefused_memPart (d : Dev) :
    (Dev.reqRefused d).memPart = d.memPart := by
  rfl

theorem State.enterLoad_memPart (s : State) :
    (State.enterLoad s).dev.memPart = s.dev.memPart := by
  unfold State.enterLoad
  try dsimp only
  repeat' (first | rfl | (simp only [apply_ite Dev.memPart, apply_ite State.dev, memPart_mk, memPart_fold, Dev.enterLoadApply_memPart, Dev.reqRefused_memPart, State.judge_memPart, State.onDevAs_memPart, ite_self, implies_true]; done) | intro _ | split | (refine (State.judge_memPart _ _ _ _ _ _ _ _ ?_ ?_ ?_).trans ?_) | (refine (State.onDevAs_memPart _ _ _ ?_).trans ?_) | fail | simp only [apply_ite Dev.memPart, apply_ite State.dev, memPart_mk, memPart_fold, Dev.enterLoadApply_memPart, Dev.reqRefused_memPart, State.judge_memPart, State.onDevAs_memPart, ite_self, implies_true])
  all_goals (try simp only [Prod.ext_iff] at *)
  all_goals (try casesm* _ ∧ _)
  all_goals subst_vars
  all_goals first | assumption | simp only [apply_ite Dev.memPart, apply_ite State.dev, memPart_mk, memPart_fold, Dev.enterLoadApply_memPart, Dev.reqRefused_memPart, State.judge_memPart, State.onDevAs_memPart, ite_self, implies_true]

theorem Dev.strapped_memPart (d : Dev) :
    (Dev.strapped d).memPart = d.memPart := by
  rfl

theorem State.resets_memPart (s : State) (f : Dev → Dev) (hf : ∀ d, (f d).memPart = d.memPart) :
    (State.resets s f).dev.memPart = s.dev.memPart := by
  simp only [State.resets, apply_ite Dev.memPart, apply_ite State.dev, memPart_mk, memPart_fold, hf, ite_self, implies_true]

theorem Dev.drstWrite_memPart (d : Dev) :
    (Dev.drstWrite d).memPart = d.memPart := by
  simp only [Dev.drstWrite, apply_ite Dev.memPart, memPart_mk, memPart_fold, Dev.each_memPart, Dev.modStart_memPart, Dev.parkReq_memPart, Dev.pend_memPart, ite_self, implies_true]

theorem Dev.cdRstWrite_memPart (d : Dev) (n : Nat) :
    (Dev.cdRstWrite d n).memPart = d.memPart := by
  simp only [Dev.cdRstWrite, apply_ite Dev.memPart, memPart_mk, memPart_fold, Dev.cdReset'_memPart, Dev.goStage_memPart, Dev.loadUnits_memPart, Dev.put_memPart, Dev.releaseDie_memPart, Dev.reqRefused_memPart, Dev.rgpStale_memPart, Dev.set_memPart, ite_self, implies_true]

theorem Dev.coreRstWrite_memPart (d : Dev) (q : Nat) :
    (Dev.coreRstWrite d q).memPart = d.memPart := by
  simp only [Dev.coreRstWrite, apply_ite Dev.memPart, memPart_mk, memPart_fold, Dev.coreReset_memPart, Dev.reqRefused_memPart, ite_self, implies_true]

theorem Dev.mboxRead_memPart (d : Dev) :
    (Dev.mboxRead d).memPart = d.memPart := by
  rfl

theorem Dev.mboxWrite_memPart (d : Dev) (w : Nat) :
    (Dev.mboxWrite d w).memPart = d.memPart := by
  rfl

theorem Dev.swapReq_memPart (d : Dev) :
    (Dev.swapReq d).memPart = d.memPart := by
  unfold Dev.swapReq
  try dsimp only
  repeat' split
  all_goals (try simp only [Prod.ext_iff] at *)
  all_goals (try casesm* _ ∧ _)
  all_goals subst_vars
  all_goals first | assumption | simp only [apply_ite Dev.memPart, memPart_mk, memPart_fold, Dev.flashDone_memPart, Dev.leaseReq_memPart, Dev.put_memPart, ite_self, implies_true]

theorem Dev.swapEnds_memPart (d : Dev) :
    (Dev.swapEnds d).memPart = d.memPart := by
  simp only [Dev.swapEnds, apply_ite Dev.memPart, memPart_mk, memPart_fold, Dev.leaseDrop_memPart, Dev.modSnt_memPart, Dev.put_memPart, ite_self, implies_true]

theorem Dev.swapCancel_memPart (d : Dev) :
    (Dev.swapCancel d).memPart = d.memPart := by
  simp only [Dev.swapCancel, apply_ite Dev.memPart, memPart_mk, memPart_fold, Dev.swapEnds_memPart, ite_self, implies_true]

theorem Dev.swapWrite_memPart (d : Dev) (w : Nat) :
    (Dev.swapWrite d w).memPart = d.memPart := by
  simp only [Dev.swapWrite, apply_ite Dev.memPart, memPart_mk, memPart_fold, Dev.swapCancel_memPart, Dev.swapReq_memPart, ite_self, implies_true]

theorem Dev.imageStops_memPart (d : Dev) (c : Nat) :
    (Dev.imageStops d c).memPart = d.memPart := by
  rfl

theorem Dev.unmapped_memPart (d : Dev) :
    (Dev.unmapped d).memPart = d.memPart := by
  rfl

theorem Dev.vfRefused_memPart (d : Dev) (v : Nat) (a : Nat) :
    (Dev.vfRefused d v a).memPart = d.memPart := by
  simp only [Dev.vfRefused, apply_ite Dev.memPart, memPart_mk, memPart_fold, Dev.logB_memPart, Dev.put_memPart, ite_self, implies_true]

theorem Dev.dbgLocked_memPart (d : Dev) :
    (Dev.dbgLocked d).memPart = d.memPart := by
  rfl

theorem Dev.regReach_memPart (d : Dev) (m : Master) (a : Nat) (write : Bool) :
    (Dev.regReach d m a write).1.memPart = d.memPart := by
  unfold Dev.regReach
  repeat' split
  all_goals first | simp only [apply_ite Dev.memPart, apply_ite Prod.fst, memPart_mk, memPart_fold, Dev.dbgLocked_memPart, Dev.fwlViolation_memPart, Dev.put_memPart, Dev.unmapped_memPart, Dev.vfRefused_memPart, ite_self, implies_true] | rfl

theorem Dev.refusedTo_memPart (d : Dev) (m : Master) :
    (Dev.refusedTo d m).memPart = d.memPart := by
  unfold Dev.refusedTo
  repeat' split
  all_goals first | simp only [apply_ite Dev.memPart, memPart_mk, memPart_fold, Dev.ctlFaultPlain_memPart, ite_self, implies_true] | rfl

theorem Dev.snapRead_memPart (d : Dev) (m : Master) (a : Nat) :
    (Dev.snapRead d m a).1.memPart = d.memPart := by
  simp only [Dev.snapRead, apply_ite Dev.memPart, apply_ite Prod.fst, memPart_mk, memPart_fold, ite_self, implies_true]

theorem Dev.setTod_memPart (d : Dev) (m : Master) (t : Tod) :
    (Dev.setTod d m t).memPart = d.memPart := by
  rfl

theorem Dev.tickRead_memPart (d : Dev) (m : Master) :
    (Dev.tickRead d m).1.memPart = d.memPart := by
  simp only [Dev.tickRead, apply_ite Dev.memPart, apply_ite Prod.fst, memPart_mk, memPart_fold, Dev.setTod_memPart, ite_self, implies_true]

theorem Dev.secLoRead_memPart (d : Dev) (m : Master) :
    (Dev.secLoRead d m).1.memPart = d.memPart := by
  simp only [Dev.secLoRead, apply_ite Dev.memPart, apply_ite Prod.fst, memPart_mk, memPart_fold, Dev.setTod_memPart, ite_self, implies_true]

theorem Dev.secHiRead_memPart (d : Dev) (m : Master) :
    (Dev.secHiRead d m).1.memPart = d.memPart := by
  simp only [Dev.secHiRead, apply_ite Dev.memPart, apply_ite Prod.fst, memPart_mk, memPart_fold, Dev.setTod_memPart, ite_self, implies_true]

theorem Dev.readWord_memPart (d : Dev) (m : Master) (a : Nat) :
    (Dev.readWord d m a).1.memPart = d.memPart := by
  simp only [Dev.readWord, apply_ite Dev.memPart, apply_ite Prod.fst, memPart_mk, memPart_fold, Dev.flashDone_memPart, Dev.mboxRead_memPart, Dev.rxRead_memPart, Dev.secHiRead_memPart, Dev.secLoRead_memPart, Dev.snapRead_memPart, Dev.tickRead_memPart, ite_self, implies_true]

theorem Dev.busRead_memPart (d : Dev) (m : Master) (a : Nat) :
    (Dev.busRead d m a).1.memPart = d.memPart := by
  unfold Dev.busRead
  try dsimp only
  repeat' split
  all_goals (try simp only [Prod.ext_iff] at *)
  all_goals (try casesm* _ ∧ _)
  all_goals subst_vars
  all_goals first | assumption | simp only [apply_ite Dev.memPart, apply_ite Prod.fst, memPart_mk, memPart_fold, Dev.readWord_memPart, Dev.regReach_memPart, ite_self, implies_true]

theorem State.busRead_memPart (s : State) (m : Master) (a : Nat) :
    (State.busRead s m a).dev.memPart = s.dev.memPart := by
  unfold State.busRead
  try dsimp only
  repeat' split
  all_goals (try simp only [Prod.ext_iff] at *)
  all_goals (try casesm* _ ∧ _)
  all_goals subst_vars
  all_goals first | assumption | simp only [apply_ite Dev.memPart, apply_ite State.dev, memPart_mk, memPart_fold, Dev.busRead_memPart, Dev.refusedTo_memPart, ite_self, implies_true]

theorem Dev.lockedWr_memPart (d : Dev) :
    (Dev.lockedWr d).memPart = d.memPart := by
  rfl

theorem Dev.fieldWrite_memPart (d : Dev) (a w : Nat) (locked : Bool) (x : Dev) (f : FieldDesc) :
    (Dev.fieldWrite d a w locked x f).memPart = x.memPart := by
  unfold Dev.fieldWrite
  dsimp only
  repeat' split
  all_goals first
    | exact Dev.set_memPart _ _ _
    | exact Dev.lockedWr_memPart _
    | exact Eq.refl _

theorem Dev.hiClear_memPart (d : Dev) (a : Nat) :
    (Dev.hiClear d a).memPart = d.memPart := by
  unfold Dev.hiClear
  repeat' split
  all_goals first | simp only [apply_ite Dev.memPart, memPart_mk, memPart_fold, Dev.each_memPart, Dev.set_memPart, ite_self, implies_true] | rfl

theorem Dev.plainWrite_memPart (d : Dev) (a : Nat) (w : Nat) :
    (Dev.plainWrite d a w).memPart = d.memPart := by
  unfold Dev.plainWrite
  repeat' split
  all_goals first | simp only [apply_ite Dev.memPart, memPart_mk, memPart_fold, Dev.each_memPart, Dev.fieldWrite_memPart, Dev.hiClear_memPart, ite_self, implies_true] | rfl

theorem Dev.guarded_memPart (d : Dev) (c : Bool) (f : Fld) (g : Dev → Dev) (hg : ∀ d, (g d).memPart = d.memPart) :
    (Dev.guarded d c f g).memPart = d.memPart := by
  simp only [Dev.guarded, apply_ite Dev.memPart, memPart_mk, memPart_fold, Dev.put_memPart, hg, ite_self, implies_true]

theorem Dev.wmClear_memPart (d : Dev) (one : Bool) (level : Nat) (mark : Fld) (peak : Fld) (hit : Fld) :
    (Dev.wmClear d one level mark peak hit).memPart = d.memPart := by
  simp only [Dev.wmClear, apply_ite Dev.memPart, memPart_mk, memPart_fold, Dev.levelClear_memPart, ite_self, implies_true]

theorem Dev.siteEntryWrite_memPart (d : Dev) (a : Nat) (w : Nat) :
    (Dev.siteEntryWrite d a w).memPart = d.memPart := by
  simp only [Dev.siteEntryWrite, apply_ite Dev.memPart, memPart_mk, memPart_fold, Dev.guarded_memPart, Dev.plainWrite_memPart, ite_self, implies_true]

theorem Dev.schedWordWrite_memPart (d : Dev) (a : Nat) (w : Nat) :
    (Dev.schedWordWrite d a w).memPart = d.memPart := by
  simp only [Dev.schedWordWrite, apply_ite Dev.memPart, memPart_mk, memPart_fold, Dev.plainWrite_memPart, ite_self, implies_true]

theorem Dev.timWrite_memPart (d : Dev) (a : Nat) (w : Nat) :
    (Dev.timWrite d a w).memPart = d.memPart := by
  unfold Dev.timWrite
  repeat' split
  all_goals first | simp only [apply_ite Dev.memPart, memPart_mk, memPart_fold, Dev.acquireWrite_memPart, Dev.capWrite_memPart, Dev.casCmd_memPart, Dev.goWrite_memPart, Dev.plainWrite_memPart, Dev.roleWrite_memPart, Dev.schedWordWrite_memPart, Dev.set_memPart, Dev.stageWrite_memPart, Dev.tripClear_memPart, Dev.wmClear_memPart, ite_self, implies_true] | rfl

theorem Dev.portRegWrite_memPart (d : Dev) (a : Nat) (w : Nat) :
    (Dev.portRegWrite d a w).memPart = d.memPart := by
  simp only [Dev.portRegWrite, apply_ite Dev.memPart, memPart_mk, memPart_fold, Dev.plainWrite_memPart, Dev.txWrite_memPart, ite_self, implies_true]

theorem Dev.dmaRegWrite_memPart (d : Dev) (a : Nat) (w : Nat) :
    (Dev.dmaRegWrite d a w).memPart = d.memPart := by
  unfold Dev.dmaRegWrite
  repeat' split
  all_goals first | simp only [apply_ite Dev.memPart, memPart_mk, memPart_fold, Dev.dmaAbort_memPart, Dev.dmaResume_memPart, Dev.plainWrite_memPart, ite_self, implies_true] | rfl

theorem Dev.hostWrite_memPart (d : Dev) (a : Nat) (w : Nat) :
    (Dev.hostWrite d a w).memPart = d.memPart := by
  simp only [Dev.hostWrite, apply_ite Dev.memPart, memPart_mk, memPart_fold, Dev.dmaRegWrite_memPart, Dev.gpiWrite_memPart, Dev.irqMapWrite_memPart, Dev.pbaRefresh_memPart, Dev.plainWrite_memPart, Dev.pmRestart_memPart, Dev.portRegWrite_memPart, ite_self, implies_true]

theorem Dev.injWrite_memPart (d : Dev) (a : Nat) (w : Nat) :
    (Dev.injWrite d a w).memPart = d.memPart := by
  simp only [Dev.injWrite, apply_ite Dev.memPart, memPart_mk, memPart_fold, Dev.injCtrl_memPart, Dev.plainWrite_memPart, ite_self, implies_true]

theorem Dev.rgpOpen_memPart (d : Dev) :
    (Dev.rgpOpen d).memPart = d.memPart := by
  simp only [Dev.rgpOpen, apply_ite Dev.memPart, memPart_mk, memPart_fold, Dev.lockedWr_memPart, Dev.put_memPart, ite_self, implies_true]

theorem Dev.rgpCommit_memPart (d : Dev) (w : Nat) :
    (Dev.rgpCommit d w).memPart = d.memPart := by
  simp only [Dev.rgpCommit, apply_ite Dev.memPart, memPart_mk, memPart_fold, Dev.lockedWr_memPart, Dev.put_memPart, ite_self, implies_true]

theorem Dev.rgpCtrl_memPart (d : Dev) (w : Nat) :
    (Dev.rgpCtrl d w).memPart = d.memPart := by
  simp only [Dev.rgpCtrl, apply_ite Dev.memPart, memPart_mk, memPart_fold, Dev.lockedWr_memPart, Dev.put_memPart, Dev.rgpOpen_memPart, ite_self, implies_true]

theorem Dev.fwlCtrl_memPart (d : Dev) (w : Nat) :
    (Dev.fwlCtrl d w).memPart = d.memPart := by
  simp only [Dev.fwlCtrl, apply_ite Dev.memPart, memPart_mk, memPart_fold, Dev.isolateWrite_memPart, Dev.plainWrite_memPart, ite_self, implies_true]

theorem Dev.dbgWrite_memPart (d : Dev) (a : Nat) (w : Nat) :
    (Dev.dbgWrite d a w).memPart = d.memPart := by
  unfold Dev.dbgWrite
  repeat' split
  all_goals first | simp only [apply_ite Dev.memPart, memPart_mk, memPart_fold, Dev.bistCmd_memPart, Dev.dbgCmd_memPart, Dev.fwlCtrl_memPart, Dev.injWrite_memPart, Dev.plainWrite_memPart, Dev.rdWrite_memPart, Dev.rgpCommit_memPart, Dev.rgpCtrl_memPart, Dev.ringSeen_memPart, Dev.stateAccess_memPart, Dev.violClear_memPart, Dev.wmClear_memPart, ite_self, implies_true] | rfl

theorem Dev.rpsEntryWrite_memPart (d : Dev) (a : Nat) (w : Nat) :
    (Dev.rpsEntryWrite d a w).memPart = d.memPart := by
  unfold Dev.rpsEntryWrite
  dsimp only
  repeat' split
  all_goals first | simp only [apply_ite Dev.memPart, memPart_mk, memPart_fold, Dev.guarded_memPart, Dev.plainWrite_memPart, Dev.usedSet_memPart, Dev.wmClear_memPart, ite_self, implies_true] | rfl

theorem Dev.nopCtrl_memPart (d : Dev) (w : Nat) :
    (Dev.nopCtrl d w).memPart = d.memPart := by
  simp only [Dev.nopCtrl, apply_ite Dev.memPart, memPart_mk, memPart_fold, Dev.each_memPart, Dev.plainWrite_memPart, Dev.recoverWrite_memPart, ite_self, implies_true]

theorem Dev.basWrite_memPart (d : Dev) (a : Nat) (w : Nat) :
    (Dev.basWrite d a w).memPart = d.memPart := by
  unfold Dev.basWrite
  repeat' split
  all_goals first | simp only [apply_ite Dev.memPart, memPart_mk, memPart_fold, Dev.intakeSeen_memPart, Dev.invWrite_memPart, Dev.nopCtrl_memPart, Dev.plainWrite_memPart, Dev.rootWrite_memPart, Dev.rpsCommand_memPart, Dev.rpsEntryWrite_memPart, Dev.wmClear_memPart, ite_self, implies_true] | rfl

theorem Dev.seqRegWrite_memPart (d : Dev) (q : Nat) (o : Nat) (a : Nat) (w : Nat) :
    (Dev.seqRegWrite d q o a w).memPart = d.memPart := by
  unfold Dev.seqRegWrite
  repeat' split
  all_goals first | simp only [apply_ite Dev.memPart, memPart_mk, memPart_fold, Dev.guarded_memPart, Dev.leadSeen_memPart, Dev.modCore_memPart, Dev.modV_memPart, Dev.plainWrite_memPart, Dev.set_memPart, Dev.waiteTake_memPart, Dev.wmClear_memPart, ite_self, implies_true] | rfl

theorem Dev.pdCfgWrite_memPart (d : Dev) (n : Nat) (pd : Nat) (a : Nat) (w : Nat) :
    (Dev.pdCfgWrite d n pd a w).memPart = d.memPart := by
  simp only [Dev.pdCfgWrite, apply_ite Dev.memPart, memPart_mk, memPart_fold, Dev.pdStartWrite_memPart, Dev.pdStopWrite_memPart, Dev.plainWrite_memPart, Dev.put_memPart, ite_self, implies_true]

theorem Dev.tgnWrite_memPart (d : Dev) (n : Nat) (o : Nat) (a : Nat) (w : Nat) :
    (Dev.tgnWrite d n o a w).memPart = d.memPart := by
  unfold Dev.tgnWrite
  repeat' split
  all_goals first | simp only [apply_ite Dev.memPart, memPart_mk, memPart_fold, Dev.guarded_memPart, Dev.pdCfgWrite_memPart, Dev.plainWrite_memPart, Dev.set_memPart, Dev.sweepWrite_memPart, ite_self, implies_true] | rfl

theorem Dev.pllWrite_memPart (d : Dev) (n : Nat) (o : Nat) (a : Nat) (w : Nat) :
    (Dev.pllWrite d n o a w).memPart = d.memPart := by
  simp only [Dev.pllWrite, apply_ite Dev.memPart, memPart_mk, memPart_fold, Dev.plainWrite_memPart, Dev.relockWrite_memPart, Dev.stepArm_memPart, ite_self, implies_true]

theorem Dev.sftWrite_memPart (d : Dev) (n : Nat) (s : Nat) (k : Nat) (a : Nat) (w : Nat) :
    (Dev.sftWrite d n s k a w).memPart = d.memPart := by
  unfold Dev.sftWrite
  repeat' split
  all_goals first | simp only [apply_ite Dev.memPart, memPart_mk, memPart_fold, Dev.guarded_memPart, Dev.plainWrite_memPart, Dev.rdPtrWrite_memPart, Dev.regionSeen_memPart, Dev.wmClear_memPart, ite_self, implies_true] | rfl

theorem Dev.prCtrl_memPart (d : Dev) (n : Nat) (w : Nat) :
    (Dev.prCtrl d n w).memPart = d.memPart := by
  simp only [Dev.prCtrl, apply_ite Dev.memPart, memPart_mk, memPart_fold, Dev.each_memPart, Dev.prAbort_memPart, ite_self, implies_true]

theorem Dev.dieWrite_memPart (d : Dev) (m : Master) (n : Nat) (o : Nat) (a : Nat) (w : Nat) :
    (Dev.dieWrite d m n o a w).memPart = d.memPart := by
  unfold Dev.dieWrite
  repeat' split
  all_goals first | simp only [apply_ite Dev.memPart, memPart_mk, memPart_fold, Dev.guarded_memPart, Dev.plainWrite_memPart, Dev.pllWrite_memPart, Dev.prCtrl_memPart, Dev.recoverWrite_memPart, Dev.scrubStop_memPart, Dev.seqRegWrite_memPart, Dev.sftWrite_memPart, Dev.stageSeen_memPart, Dev.tgnWrite_memPart, Dev.wmClear_memPart, ite_self, implies_true] | rfl

theorem Dev.lcWrite_memPart (d : Dev) (m : Master) (w : Nat) :
    (Dev.lcWrite d m w).memPart = d.memPart := by
  simp only [Dev.lcWrite, apply_ite Dev.memPart, memPart_mk, memPart_fold, Dev.put_memPart, ite_self, implies_true]

theorem State.siteCmdBy_memPart (s : State) (m : Master) (w : Nat) :
    (State.siteCmdBy s m w).dev.memPart = s.dev.memPart := by
  simp only [State.siteCmdBy, apply_ite Dev.memPart, apply_ite State.dev, memPart_mk, memPart_fold, Dev.siteAns_memPart, State.onDev_memPart, State.siteCmd_memPart, ite_self, implies_true]

theorem Dev.writeDropped_memPart (d : Dev) (m : Master) (a : Nat) :
    (Dev.writeDropped d m a).memPart = d.memPart := by
  simp only [Dev.writeDropped, apply_ite Dev.memPart, memPart_mk, memPart_fold, Dev.put_memPart, Dev.refusedTo_memPart, ite_self, implies_true]

theorem Dev.portFault_memPart (d : Dev) (m : Master) (a : Nat) :
    (Dev.portFault d m a).memPart = d.memPart := by
  unfold Dev.portFault
  repeat' split
  all_goals first | simp only [apply_ite Dev.memPart, memPart_mk, memPart_fold, Dev.refusedTo_memPart, ite_self, implies_true] | rfl

end Sys2Proof.Machine
end

