-- ==== Sys2Proof/Laws/MemFrame7.lean ====
section
/-! SUPPORT. Memory frames, part 8 of 8: for every function of the model that leaves the device's memory part
(`MemPart`: the byte store, its zeroed ranges, the HBM epoch and the flash) alone, the lemma `F_memPart`
that says so. The lemmas follow the order of the model's call graph. -/

set_option linter.all false

namespace Sys2Proof.Machine
theorem Dev.passKept_memPart (d : Dev) (l : List (Nat × Nat)) :
    (Dev.passKept d l).memPart = d.memPart := by
  rfl

theorem Dev.rgpMismatch_memPart (d : Dev) (cur : Nat) :
    (Dev.rgpMismatch d cur).memPart = d.memPart := by
  simp only [Dev.rgpMismatch, apply_ite Dev.memPart, memPart_mk, memPart_fold, Dev.logA_memPart, Dev.put_memPart, Dev.unrecoverable_memPart, ite_self, implies_true]

theorem Dev.rgpCommitted_memPart (d : Dev) (cur : Nat) :
    (Dev.rgpCommitted d cur).memPart = d.memPart := by
  rfl

theorem Dev.passEnds_memPart (d : Dev) (cur : Nat) :
    (Dev.passEnds d cur).memPart = d.memPart := by
  unfold Dev.passEnds
  dsimp only
  repeat' split
  all_goals first | simp only [apply_ite Dev.memPart, memPart_mk, memPart_fold, Dev.bump_memPart, Dev.put_memPart, Dev.rgpCommitted_memPart, Dev.rgpMismatch_memPart, Dev.set_memPart, ite_self, implies_true] | rfl

theorem Dev.slowApply_memPart (d : Dev) (a : Nat) (w : Nat) :
    (Dev.slowApply d a w).memPart = d.memPart := by
  simp only [Dev.slowApply, apply_ite Dev.memPart, memPart_mk, memPart_fold, Dev.keybWrite_memPart, Dev.plainWrite_memPart, Dev.set_memPart, ite_self, implies_true]

theorem Dev.slowRefresh_memPart (d : Dev) (a : Nat) :
    (Dev.slowRefresh d a).memPart = d.memPart := by
  rfl

theorem Dev.memPath_memPart (d : Dev) (m : Master) (a : Nat) (n : Nat) :
    (Dev.memPath d m a n).1.memPart = d.memPart := by
  simp only [Dev.memPath, apply_ite Dev.memPart, apply_ite Prod.fst, memPart_mk, memPart_fold, Dev.logBOn_memPart, Dev.put_memPart, ite_self, implies_true]

theorem Dev.memReach_memPart (d : Dev) (m : Master) (write : Bool) (a : Nat) (n : Nat) :
    (Dev.memReach d m write a n).1.memPart = d.memPart := by
  simp only [Dev.memReach, apply_ite Dev.memPart, apply_ite Prod.fst, memPart_mk, memPart_fold, Dev.memPath_memPart, Dev.put_memPart, Dev.unmapped_memPart, ite_self, implies_true]

theorem Dev.eccRead_memPart (d : Dev) (a : Nat) (n : Nat) (ue : Bool) :
    (Dev.eccRead d a n ue).1.memPart = d.memPart := by
  simp only [Dev.eccRead, apply_ite Dev.memPart, apply_ite Prod.fst, memPart_mk, memPart_fold, Dev.asInjected_memPart, Dev.flashDone_memPart, Dev.memCE_memPart, Dev.memUE_memPart, ite_self, implies_true]

theorem Dev.eccWrite_memPart (d : Dev) (a n : Nat) : (Dev.eccWrite d a n).memPart = d.memPart := by
  have flip : ∀ (e : Dev) (id : Nat) (p : Nat → Nat → Bool), (match e.inject id p with
      | some (arg, d) =>
        if arg % 4 = 0 then d else { d with memErr := tblPut d.memErr (d.placeOf (arg / 4 % 2 ^ 46 * 4)) (arg % 4) }
      | none => e).memPart = e.memPart := by
    intro e id p
    split
    · next h =>
      split
      · exact Dev.inject_memPart _ _ _ _ _ h
      · simp only [memPart_mk, memPart_fold]
        exact Dev.inject_memPart _ _ _ _ _ h
    · exact Eq.refl _
  unfold Dev.eccWrite
  dsimp only
  exact (flip _ _ _).trans (flip _ _ _)

theorem Dev.loadBytes_memPart (d : Dev) (a : Nat) (n : Nat) :
    (Dev.loadBytes d a n).1.memPart = d.memPart := by
  unfold Dev.loadBytes
  repeat' split
  all_goals first | simp only [apply_ite Dev.memPart, apply_ite Prod.fst, memPart_mk, memPart_fold, Dev.flashDone_memPart, ite_self, implies_true] | rfl

theorem Dev.dbgFlash_memPart (d : Dev) (o : Nat) (n : Nat) (ue : Bool) :
    (Dev.dbgFlash d o n ue).1.memPart = d.memPart := by
  unfold Dev.dbgFlash
  try dsimp only
  repeat' split
  all_goals (try simp only [Prod.ext_iff] at *)
  all_goals (try casesm* _ ∧ _)
  all_goals subst_vars
  all_goals first | assumption | simp only [apply_ite Dev.memPart, apply_ite Prod.fst, memPart_mk, memPart_fold, Dev.flashDone_memPart, Dev.flashEcc_memPart, Dev.put_memPart, Dev.unmapped_memPart, Dev.xoRead_memPart, ite_self, implies_true]

theorem Dev.memMay_memPart (d : Dev) (m : Master) (write : Bool) (a : Nat) (n : Nat) :
    (Dev.memMay d m write a n).1.memPart = d.memPart := by
  unfold Dev.memMay
  repeat' split
  all_goals first | simp only [apply_ite Dev.memPart, apply_ite Prod.fst, memPart_mk, memPart_fold, Dev.dbgLocked_memPart, Dev.vfRefused_memPart, ite_self, implies_true] | rfl

theorem Dev.memRead_memPart (d : Dev) (m : Master) (a : Nat) (n : Nat) (ue : Bool) :
    (Dev.memRead d m a n ue).1.memPart = d.memPart := by
  unfold Dev.memRead
  try dsimp only
  repeat' split
  all_goals (try simp only [Prod.ext_iff] at *)
  all_goals (try casesm* _ ∧ _)
  all_goals subst_vars
  all_goals first | assumption | simp only [apply_ite Dev.memPart, apply_ite Prod.fst, memPart_mk, memPart_fold, Dev.eccRead_memPart, Dev.loadBytes_memPart, Dev.memMay_memPart, Dev.memReach_memPart, ite_self, implies_true]

theorem Dev.dataRead_memPart (d : Dev) (m : Master) (a : Nat) (n : Nat) (ue : Bool) :
    (Dev.dataRead d m a n ue).1.memPart = d.memPart := by
  unfold Dev.dataRead
  repeat' split
  all_goals first | simp only [apply_ite Dev.memPart, apply_ite Prod.fst, memPart_mk, memPart_fold, Dev.dbgFlash_memPart, Dev.dbgLocked_memPart, Dev.memRead_memPart, ite_self, implies_true] | rfl

theorem Dev.corePort_memPart (d : Dev) (x : Nat) (a : Nat) :
    (Dev.corePort d x a).1.memPart = d.memPart := by
  simp only [Dev.corePort, apply_ite Dev.memPart, apply_ite Prod.fst, memPart_mk, memPart_fold, Dev.put_memPart, ite_self, implies_true]

theorem Dev.ctlJudge_memPart (d : Dev) (x : Nat) (write : Bool) (a : Nat) (n : Nat) :
    (Dev.ctlJudge d x write a n).1.memPart = d.memPart := by
  unfold Dev.ctlJudge
  try dsimp only
  repeat' split
  all_goals (try simp only [Prod.ext_iff] at *)
  all_goals (try casesm* _ ∧ _)
  all_goals subst_vars
  all_goals first | assumption | simp only [apply_ite Dev.memPart, apply_ite Prod.fst, memPart_mk, memPart_fold, Dev.corePort_memPart, Dev.memReach_memPart, Dev.put_memPart, Dev.regReach_memPart, Dev.unmapped_memPart, ite_self, implies_true]

theorem Dev.ctlAddr_memPart (d : Dev) (x : Nat) (va : Nat) (u : CtlUse) :
    (Dev.ctlAddr d x va u).1.memPart = d.memPart := by
  simp only [Dev.ctlAddr, apply_ite Dev.memPart, apply_ite Prod.fst, memPart_mk, memPart_fold, Dev.ctlTranslate_memPart, Dev.ptuFault_memPart, ite_self, implies_true]

theorem Dev.ctlAccess_memPart (d : Dev) (x : Nat) (va : Nat) (n : Nat) (u : CtlUse) :
    (Dev.ctlAccess d x va n u).1.memPart = d.memPart := by
  unfold Dev.ctlAccess
  try dsimp only
  repeat' split
  all_goals (try simp only [Prod.ext_iff] at *)
  all_goals (try casesm* _ ∧ _)
  all_goals subst_vars
  all_goals first | assumption | simp only [apply_ite Dev.memPart, apply_ite Prod.fst, memPart_mk, memPart_fold, Dev.ctlAddr_memPart, Dev.ctlFault_memPart, Dev.ctlJudge_memPart, ite_self, implies_true]

theorem Dev.lateFault_memPart (d : Dev) (x : Nat) (code : Nat) (pc : Nat) (va : Nat) :
    (Dev.lateFault d x code pc va).memPart = d.memPart := by
  simp only [Dev.lateFault, apply_ite Dev.memPart, memPart_mk, memPart_fold, Dev.coreFault_memPart, Dev.hubFault_memPart, ite_self, implies_true]

theorem Dev.ctlRead_memPart (d : Dev) (x : Nat) (a : Nat) (n : Nat) (ue : Bool) :
    (Dev.ctlRead d x a n ue).1.memPart = d.memPart := by
  unfold Dev.ctlRead
  try dsimp only
  repeat' split
  all_goals (try simp only [Prod.ext_iff] at *)
  all_goals (try casesm* _ ∧ _)
  all_goals subst_vars
  all_goals first | assumption | simp only [apply_ite Dev.memPart, apply_ite Prod.fst, memPart_mk, memPart_fold, Dev.ctlJudge_memPart, Dev.eccRead_memPart, Dev.flashDone_memPart, Dev.flashEcc_memPart, Dev.loadBytes_memPart, Dev.readWord_memPart, ite_self, implies_true]

theorem Dev.dbgDone_memPart (d : Dev) (r : Option Nat) :
    (Dev.dbgDone d r).memPart = d.memPart := by
  rfl

theorem State.dbgRead_memPart (s : State) (a : Nat) :
    (State.dbgRead s a).dev.memPart = s.dev.memPart := by
  unfold State.dbgRead
  dsimp only
  repeat' split
  all_goals first | simp only [apply_ite Dev.memPart, apply_ite State.dev, memPart_mk, memPart_fold, Dev.busRead_memPart, Dev.dataRead_memPart, Dev.dbgDone_memPart, State.busRead_memPart, ite_self, implies_true] | rfl

theorem Dev.leaseGoes_memPart (d : Dev) (k : Nat) (h : Nat) :
    (Dev.leaseGoes d k h).memPart = d.memPart := by
  unfold Dev.leaseGoes
  repeat' split
  all_goals first | simp only [apply_ite Dev.memPart, memPart_mk, memPart_fold, Dev.cfgiGranted_memPart, Dev.flashBegins_memPart, Dev.recoveryBegins_memPart, Dev.relockBegins_memPart, Dev.sweepBegins_memPart, ite_self, implies_true] | rfl

theorem Dev.leasesGo_memPart (d : Dev) (n : Nat) : (Dev.leasesGo d n).memPart = d.memPart := by
  induction n generalizing d with
  | zero => rfl
  | succ n ih =>
    unfold Dev.leasesGo
    split
    · rfl
    · exact (ih _).trans ((Dev.leaseGoes_memPart _ _ _).trans rfl)

theorem State.withFetchWord_memPart (s : State) (nbits : Nat) (w : Nat) :
    (State.withFetchWord s nbits w).dev.memPart = s.dev.memPart := by
  rfl

end Sys2Proof.Machine
end

