-- ==== Sys2Proof/Laws/MemWf0.lean ====
section
/-! SUPPORT. The memory's canonical form, part 1 of 5: every function of the model that changes the memory part
keeps `MemPart.wf` (lemma `F_wf`), and every command's meaning answers only states that keep it
(lemma `execX_wf`, stated with `OutWf`). -/

set_option linter.all false

namespace Sys2Proof.Machine

/-- Every next state of the outcome has a memory part in its canonical form. -/
def OutWf (o : Out) : Prop := ∀ t, o = .next t → t.dev.memPart.wf = true
theorem next_wf (s : State) (h : s.dev.memPart.wf = true) : OutWf (.next s) := by
  intro t ht; cases ht; exact h
theorem State.does_wf (s : State) (f : Dev → Dev) (h : (f s.dev).memPart.wf = true) : OutWf (s.does f) := next_wf _ h
theorem State.doesAs_wf (s : State) (e : Evt) (f : Dev → Dev) (h : (f s.dev).memPart.wf = true) : OutWf (s.doesAs e f) := next_wf _ h
theorem Dev.each_wf {α : Type} (d : Dev) (l : List α) (f : Dev → α → Dev) (hf : ∀ d a, d.memPart.wf = true → (f d a).memPart.wf = true)
    (hd : d.memPart.wf = true) : (d.each l f).memPart.wf = true := by
  unfold Dev.each
  induction l generalizing d with
  | nil => exact hd
  | cons a l ih => exact ih _ (hf _ _ hd)
theorem Dev.when_wf (d : Dev) (c : Bool) (g : Dev → Dev) (hf : ∀ d, d.memPart.wf = true → (g d).memPart.wf = true)
    (hd : d.memPart.wf = true) : (d.when c g).memPart.wf = true := by
  unfold Dev.when; split
  · exact hf _ hd
  · exact hd
theorem Dev.asInjected_wf (d : Dev) (g : Dev → Dev) (hf : ∀ d, d.memPart.wf = true → (g d).memPart.wf = true)
    (hd : d.memPart.wf = true) : (d.asInjected g).memPart.wf = true := by
  exact hf { d with injNow := true } hd
theorem execAdd_wf (x : CtlId) (rd : Reg) (rs1 : Reg) (rs2 : Reg) (s : State) (hw : s.dev.memPart.wf = true) :
    OutWf (execAdd x rd rs1 rs2 s) := by
  unfold execAdd
  repeat' first | (with_reducible assumption) | (with_reducible apply State.does_wf) | (with_reducible apply State.doesAs_wf) | (with_reducible apply next_wf) | intro _ | simp only [memPart_mk, memPart_fold, State.onDev, State.onDevAs, implies_true, Dev.tInstr_memPart] | split

theorem execSub_wf (x : CtlId) (rd : Reg) (rs1 : Reg) (rs2 : Reg) (s : State) (hw : s.dev.memPart.wf = true) :
    OutWf (execSub x rd rs1 rs2 s) := by
  unfold execSub
  repeat' first | (with_reducible assumption) | (with_reducible apply State.does_wf) | (with_reducible apply State.doesAs_wf) | (with_reducible apply next_wf) | intro _ | simp only [memPart_mk, memPart_fold, State.onDev, State.onDevAs, implies_true, Dev.tInstr_memPart] | split

theorem execAndR_wf (x : CtlId) (rd : Reg) (rs1 : Reg) (rs2 : Reg) (s : State) (hw : s.dev.memPart.wf = true) :
    OutWf (execAndR x rd rs1 rs2 s) := by
  unfold execAndR
  repeat' first | (with_reducible assumption) | (with_reducible apply State.does_wf) | (with_reducible apply State.doesAs_wf) | (with_reducible apply next_wf) | intro _ | simp only [memPart_mk, memPart_fold, State.onDev, State.onDevAs, implies_true, Dev.tInstr_memPart] | split

theorem execOrR_wf (x : CtlId) (rd : Reg) (rs1 : Reg) (rs2 : Reg) (s : State) (hw : s.dev.memPart.wf = true) :
    OutWf (execOrR x rd rs1 rs2 s) := by
  unfold execOrR
  repeat' first | (with_reducible assumption) | (with_reducible apply State.does_wf) | (with_reducible apply State.doesAs_wf) | (with_reducible apply next_wf) | intro _ | simp only [memPart_mk, memPart_fold, State.onDev, State.onDevAs, implies_true, Dev.tInstr_memPart] | split

theorem execXor_wf (x : CtlId) (rd : Reg) (rs1 : Reg) (rs2 : Reg) (s : State) (hw : s.dev.memPart.wf = true) :
    OutWf (execXor x rd rs1 rs2 s) := by
  unfold execXor
  repeat' first | (with_reducible assumption) | (with_reducible apply State.does_wf) | (with_reducible apply State.doesAs_wf) | (with_reducible apply next_wf) | intro _ | simp only [memPart_mk, memPart_fold, State.onDev, State.onDevAs, implies_true, Dev.tInstr_memPart] | split

theorem execAndn_wf (x : CtlId) (rd : Reg) (rs1 : Reg) (rs2 : Reg) (s : State) (hw : s.dev.memPart.wf = true) :
    OutWf (execAndn x rd rs1 rs2 s) := by
  unfold execAndn
  repeat' first | (with_reducible assumption) | (with_reducible apply State.does_wf) | (with_reducible apply State.doesAs_wf) | (with_reducible apply next_wf) | intro _ | simp only [memPart_mk, memPart_fold, State.onDev, State.onDevAs, implies_true, Dev.tInstr_memPart] | split

theorem execShl_wf (x : CtlId) (rd : Reg) (rs1 : Reg) (rs2 : Reg) (s : State) (hw : s.dev.memPart.wf = true) :
    OutWf (execShl x rd rs1 rs2 s) := by
  unfold execShl
  repeat' first | (with_reducible assumption) | (with_reducible apply State.does_wf) | (with_reducible apply State.doesAs_wf) | (with_reducible apply next_wf) | intro _ | simp only [memPart_mk, memPart_fold, State.onDev, State.onDevAs, implies_true, Dev.tInstr_memPart] | split

theorem execShr_wf (x : CtlId) (rd : Reg) (rs1 : Reg) (rs2 : Reg) (s : State) (hw : s.dev.memPart.wf = true) :
    OutWf (execShr x rd rs1 rs2 s) := by
  unfold execShr
  repeat' first | (with_reducible assumption) | (with_reducible apply State.does_wf) | (with_reducible apply State.doesAs_wf) | (with_reducible apply next_wf) | intro _ | simp only [memPart_mk, memPart_fold, State.onDev, State.onDevAs, implies_true, Dev.tInstr_memPart] | split

theorem execSar_wf (x : CtlId) (rd : Reg) (rs1 : Reg) (rs2 : Reg) (s : State) (hw : s.dev.memPart.wf = true) :
    OutWf (execSar x rd rs1 rs2 s) := by
  unfold execSar
  repeat' first | (with_reducible assumption) | (with_reducible apply State.does_wf) | (with_reducible apply State.doesAs_wf) | (with_reducible apply next_wf) | intro _ | simp only [memPart_mk, memPart_fold, State.onDev, State.onDevAs, implies_true, Dev.tInstr_memPart] | split

theorem execRor_wf (x : CtlId) (rd : Reg) (rs1 : Reg) (rs2 : Reg) (s : State) (hw : s.dev.memPart.wf = true) :
    OutWf (execRor x rd rs1 rs2 s) := by
  unfold execRor
  repeat' first | (with_reducible assumption) | (with_reducible apply State.does_wf) | (with_reducible apply State.doesAs_wf) | (with_reducible apply next_wf) | intro _ | simp only [memPart_mk, memPart_fold, State.onDev, State.onDevAs, implies_true, Dev.tInstr_memPart] | split

theorem execClt_wf (x : CtlId) (rd : Reg) (rs1 : Reg) (rs2 : Reg) (s : State) (hw : s.dev.memPart.wf = true) :
    OutWf (execClt x rd rs1 rs2 s) := by
  unfold execClt
  repeat' first | (with_reducible assumption) | (with_reducible apply State.does_wf) | (with_reducible apply State.doesAs_wf) | (with_reducible apply next_wf) | intro _ | simp only [memPart_mk, memPart_fold, State.onDev, State.onDevAs, implies_true, Dev.tInstr_memPart] | split

theorem execCltu_wf (x : CtlId) (rd : Reg) (rs1 : Reg) (rs2 : Reg) (s : State) (hw : s.dev.memPart.wf = true) :
    OutWf (execCltu x rd rs1 rs2 s) := by
  unfold execCltu
  repeat' first | (with_reducible assumption) | (with_reducible apply State.does_wf) | (with_reducible apply State.doesAs_wf) | (with_reducible apply next_wf) | intro _ | simp only [memPart_mk, memPart_fold, State.onDev, State.onDevAs, implies_true, Dev.tInstr_memPart] | split

theorem execCeq_wf (x : CtlId) (rd : Reg) (rs1 : Reg) (rs2 : Reg) (s : State) (hw : s.dev.memPart.wf = true) :
    OutWf (execCeq x rd rs1 rs2 s) := by
  unfold execCeq
  repeat' first | (with_reducible assumption) | (with_reducible apply State.does_wf) | (with_reducible apply State.doesAs_wf) | (with_reducible apply next_wf) | intro _ | simp only [memPart_mk, memPart_fold, State.onDev, State.onDevAs, implies_true, Dev.tInstr_memPart] | split

theorem execMin_wf (x : CtlId) (rd : Reg) (rs1 : Reg) (rs2 : Reg) (s : State) (hw : s.dev.memPart.wf = true) :
    OutWf (execMin x rd rs1 rs2 s) := by
  unfold execMin
  repeat' first | (with_reducible assumption) | (with_reducible apply State.does_wf) | (with_reducible apply State.doesAs_wf) | (with_reducible apply next_wf) | intro _ | simp only [memPart_mk, memPart_fold, State.onDev, State.onDevAs, implies_true, Dev.tInstr_memPart] | split

theorem execMax_wf (x : CtlId) (rd : Reg) (rs1 : Reg) (rs2 : Reg) (s : State) (hw : s.dev.memPart.wf = true) :
    OutWf (execMax x rd rs1 rs2 s) := by
  unfold execMax
  repeat' first | (with_reducible assumption) | (with_reducible apply State.does_wf) | (with_reducible apply State.doesAs_wf) | (with_reducible apply next_wf) | intro _ | simp only [memPart_mk, memPart_fold, State.onDev, State.onDevAs, implies_true, Dev.tInstr_memPart] | split

theorem execMinu_wf (x : CtlId) (rd : Reg) (rs1 : Reg) (rs2 : Reg) (s : State) (hw : s.dev.memPart.wf = true) :
    OutWf (execMinu x rd rs1 rs2 s) := by
  unfold execMinu
  repeat' first | (with_reducible assumption) | (with_reducible apply State.does_wf) | (with_reducible apply State.doesAs_wf) | (with_reducible apply next_wf) | intro _ | simp only [memPart_mk, memPart_fold, State.onDev, State.onDevAs, implies_true, Dev.tInstr_memPart] | split

theorem execMaxu_wf (x : CtlId) (rd : Reg) (rs1 : Reg) (rs2 : Reg) (s : State) (hw : s.dev.memPart.wf = true) :
    OutWf (execMaxu x rd rs1 rs2 s) := by
  unfold execMaxu
  repeat' first | (with_reducible assumption) | (with_reducible apply State.does_wf) | (with_reducible apply State.doesAs_wf) | (with_reducible apply next_wf) | intro _ | simp only [memPart_mk, memPart_fold, State.onDev, State.onDevAs, implies_true, Dev.tInstr_memPart] | split

theorem execMul_wf (x : CtlId) (rd : Reg) (rs1 : Reg) (rs2 : Reg) (s : State) (hw : s.dev.memPart.wf = true) :
    OutWf (execMul x rd rs1 rs2 s) := by
  unfold execMul
  repeat' first | (with_reducible assumption) | (with_reducible apply State.does_wf) | (with_reducible apply State.doesAs_wf) | (with_reducible apply next_wf) | intro _ | simp only [memPart_mk, memPart_fold, State.onDev, State.onDevAs, implies_true, Dev.tInstr_memPart] | split

theorem execMulh_wf (x : CtlId) (rd : Reg) (rs1 : Reg) (rs2 : Reg) (s : State) (hw : s.dev.memPart.wf = true) :
    OutWf (execMulh x rd rs1 rs2 s) := by
  unfold execMulh
  repeat' first | (with_reducible assumption) | (with_reducible apply State.does_wf) | (with_reducible apply State.doesAs_wf) | (with_reducible apply next_wf) | intro _ | simp only [memPart_mk, memPart_fold, State.onDev, State.onDevAs, implies_true, Dev.tInstr_memPart] | split

theorem execMulhu_wf (x : CtlId) (rd : Reg) (rs1 : Reg) (rs2 : Reg) (s : State) (hw : s.dev.memPart.wf = true) :
    OutWf (execMulhu x rd rs1 rs2 s) := by
  unfold execMulhu
  repeat' first | (with_reducible assumption) | (with_reducible apply State.does_wf) | (with_reducible apply State.doesAs_wf) | (with_reducible apply next_wf) | intro _ | simp only [memPart_mk, memPart_fold, State.onDev, State.onDevAs, implies_true, Dev.tInstr_memPart] | split

theorem execDiv_wf (x : CtlId) (rd : Reg) (rs1 : Reg) (rs2 : Reg) (s : State) (hw : s.dev.memPart.wf = true) :
    OutWf (execDiv x rd rs1 rs2 s) := by
  unfold execDiv
  repeat' first | (with_reducible assumption) | (with_reducible apply State.does_wf) | (with_reducible apply State.doesAs_wf) | (with_reducible apply next_wf) | intro _ | simp only [memPart_mk, memPart_fold, State.onDev, State.onDevAs, implies_true, Dev.tInstr_memPart] | split

theorem execDivu_wf (x : CtlId) (rd : Reg) (rs1 : Reg) (rs2 : Reg) (s : State) (hw : s.dev.memPart.wf = true) :
    OutWf (execDivu x rd rs1 rs2 s) := by
  unfold execDivu
  repeat' first | (with_reducible assumption) | (with_reducible apply State.does_wf) | (with_reducible apply State.doesAs_wf) | (with_reducible apply next_wf) | intro _ | simp only [memPart_mk, memPart_fold, State.onDev, State.onDevAs, implies_true, Dev.tInstr_memPart] | split

theorem execRem_wf (x : CtlId) (rd : Reg) (rs1 : Reg) (rs2 : Reg) (s : State) (hw : s.dev.memPart.wf = true) :
    OutWf (execRem x rd rs1 rs2 s) := by
  unfold execRem
  repeat' first | (with_reducible assumption) | (with_reducible apply State.does_wf) | (with_reducible apply State.doesAs_wf) | (with_reducible apply next_wf) | intro _ | simp only [memPart_mk, memPart_fold, State.onDev, State.onDevAs, implies_true, Dev.tInstr_memPart] | split

theorem execRemu_wf (x : CtlId) (rd : Reg) (rs1 : Reg) (rs2 : Reg) (s : State) (hw : s.dev.memPart.wf = true) :
    OutWf (execRemu x rd rs1 rs2 s) := by
  unfold execRemu
  repeat' first | (with_reducible assumption) | (with_reducible apply State.does_wf) | (with_reducible apply State.doesAs_wf) | (with_reducible apply next_wf) | intro _ | simp only [memPart_mk, memPart_fold, State.onDev, State.onDevAs, implies_true, Dev.tInstr_memPart] | split

theorem execClz_wf (x : CtlId) (rd : Reg) (rs1 : Reg) (s : State) (hw : s.dev.memPart.wf = true) :
    OutWf (execClz x rd rs1 s) := by
  unfold execClz
  repeat' first | (with_reducible assumption) | (with_reducible apply State.does_wf) | (with_reducible apply State.doesAs_wf) | (with_reducible apply next_wf) | intro _ | simp only [memPart_mk, memPart_fold, State.onDev, State.onDevAs, implies_true, Dev.uInstr_memPart] | split

theorem execCtz_wf (x : CtlId) (rd : Reg) (rs1 : Reg) (s : State) (hw : s.dev.memPart.wf = true) :
    OutWf (execCtz x rd rs1 s) := by
  unfold execCtz
  repeat' first | (with_reducible assumption) | (with_reducible apply State.does_wf) | (with_reducible apply State.doesAs_wf) | (with_reducible apply next_wf) | intro _ | simp only [memPart_mk, memPart_fold, State.onDev, State.onDevAs, implies_true, Dev.uInstr_memPart] | split

theorem execPopc_wf (x : CtlId) (rd : Reg) (rs1 : Reg) (s : State) (hw : s.dev.memPart.wf = true) :
    OutWf (execPopc x rd rs1 s) := by
  unfold execPopc
  repeat' first | (with_reducible assumption) | (with_reducible apply State.does_wf) | (with_reducible apply State.doesAs_wf) | (with_reducible apply next_wf) | intro _ | simp only [memPart_mk, memPart_fold, State.onDev, State.onDevAs, implies_true, Dev.uInstr_memPart] | split

theorem execSxb_wf (x : CtlId) (rd : Reg) (rs1 : Reg) (s : State) (hw : s.dev.memPart.wf = true) :
    OutWf (execSxb x rd rs1 s) := by
  unfold execSxb
  repeat' first | (with_reducible assumption) | (with_reducible apply State.does_wf) | (with_reducible apply State.doesAs_wf) | (with_reducible apply next_wf) | intro _ | simp only [memPart_mk, memPart_fold, State.onDev, State.onDevAs, implies_true, Dev.uInstr_memPart] | split

theorem execSxh_wf (x : CtlId) (rd : Reg) (rs1 : Reg) (s : State) (hw : s.dev.memPart.wf = true) :
    OutWf (execSxh x rd rs1 s) := by
  unfold execSxh
  repeat' first | (with_reducible assumption) | (with_reducible apply State.does_wf) | (with_reducible apply State.doesAs_wf) | (with_reducible apply next_wf) | intro _ | simp only [memPart_mk, memPart_fold, State.onDev, State.onDevAs, implies_true, Dev.uInstr_memPart] | split

theorem execSxw_wf (x : CtlId) (rd : Reg) (rs1 : Reg) (s : State) (hw : s.dev.memPart.wf = true) :
    OutWf (execSxw x rd rs1 s) := by
  unfold execSxw
  repeat' first | (with_reducible assumption) | (with_reducible apply State.does_wf) | (with_reducible apply State.doesAs_wf) | (with_reducible apply next_wf) | intro _ | simp only [memPart_mk, memPart_fold, State.onDev, State.onDevAs, implies_true, Dev.uInstr_memPart] | split

theorem execZxw_wf (x : CtlId) (rd : Reg) (rs1 : Reg) (s : State) (hw : s.dev.memPart.wf = true) :
    OutWf (execZxw x rd rs1 s) := by
  unfold execZxw
  repeat' first | (with_reducible assumption) | (with_reducible apply State.does_wf) | (with_reducible apply State.doesAs_wf) | (with_reducible apply next_wf) | intro _ | simp only [memPart_mk, memPart_fold, State.onDev, State.onDevAs, implies_true, Dev.uInstr_memPart] | split

theorem execAddi_wf (x : CtlId) (rd : Reg) (rs1 : Reg) (imm : BitVec 43) (s : State) (hw : s.dev.memPart.wf = true) :
    OutWf (execAddi x rd rs1 imm s) := by
  unfold execAddi
  repeat' first | (with_reducible assumption) | (with_reducible apply State.does_wf) | (with_reducible apply State.doesAs_wf) | (with_reducible apply next_wf) | intro _ | simp only [memPart_mk, memPart_fold, State.onDev, State.onDevAs, implies_true, Dev.iInstr_memPart] | split

theorem execAndi_wf (x : CtlId) (rd : Reg) (rs1 : Reg) (imm : BitVec 43) (s : State) (hw : s.dev.memPart.wf = true) :
    OutWf (execAndi x rd rs1 imm s) := by
  unfold execAndi
  repeat' first | (with_reducible assumption) | (with_reducible apply State.does_wf) | (with_reducible apply State.doesAs_wf) | (with_reducible apply next_wf) | intro _ | simp only [memPart_mk, memPart_fold, State.onDev, State.onDevAs, implies_true, Dev.iInstr_memPart] | split

theorem execOri_wf (x : CtlId) (rd : Reg) (rs1 : Reg) (imm : BitVec 43) (s : State) (hw : s.dev.memPart.wf = true) :
    OutWf (execOri x rd rs1 imm s) := by
  unfold execOri
  repeat' first | (with_reducible assumption) | (with_reducible apply State.does_wf) | (with_reducible apply State.doesAs_wf) | (with_reducible apply next_wf) | intro _ | simp only [memPart_mk, memPart_fold, State.onDev, State.onDevAs, implies_true, Dev.iInstr_memPart] | split

theorem execXori_wf (x : CtlId) (rd : Reg) (rs1 : Reg) (imm : BitVec 43) (s : State) (hw : s.dev.memPart.wf = true) :
    OutWf (execXori x rd rs1 imm s) := by
  unfold execXori
  repeat' first | (with_reducible assumption) | (with_reducible apply State.does_wf) | (with_reducible apply State.doesAs_wf) | (with_reducible apply next_wf) | intro _ | simp only [memPart_mk, memPart_fold, State.onDev, State.onDevAs, implies_true, Dev.iInstr_memPart] | split

theorem execClti_wf (x : CtlId) (rd : Reg) (rs1 : Reg) (imm : BitVec 43) (s : State) (hw : s.dev.memPart.wf = true) :
    OutWf (execClti x rd rs1 imm s) := by
  unfold execClti
  repeat' first | (with_reducible assumption) | (with_reducible apply State.does_wf) | (with_reducible apply State.doesAs_wf) | (with_reducible apply next_wf) | intro _ | simp only [memPart_mk, memPart_fold, State.onDev, State.onDevAs, implies_true, Dev.iInstr_memPart] | split

theorem execCltui_wf (x : CtlId) (rd : Reg) (rs1 : Reg) (imm : BitVec 43) (s : State) (hw : s.dev.memPart.wf = true) :
    OutWf (execCltui x rd rs1 imm s) := by
  unfold execCltui
  repeat' first | (with_reducible assumption) | (with_reducible apply State.does_wf) | (with_reducible apply State.doesAs_wf) | (with_reducible apply next_wf) | intro _ | simp only [memPart_mk, memPart_fold, State.onDev, State.onDevAs, implies_true, Dev.iInstr_memPart] | split

theorem execShi_wf (x : CtlId) (rd : Reg) (rs1 : Reg) (kind : BitVec 2) (amt : BitVec 6) (s : State) (hw : s.dev.memPart.wf = true) :
    OutWf (execShi x rd rs1 kind amt s) := by
  unfold execShi
  repeat' first | (with_reducible assumption) | (with_reducible apply State.does_wf) | (with_reducible apply State.doesAs_wf) | (with_reducible apply next_wf) | intro _ | simp only [memPart_mk, memPart_fold, State.onDev, State.onDevAs, implies_true, Dev.uInstr_memPart] | split

theorem execLi_wf (x : CtlId) (rd : Reg) (imm : BitVec 43) (s : State) (hw : s.dev.memPart.wf = true) :
    OutWf (execLi x rd imm s) := by
  unfold execLi
  repeat' first | (with_reducible assumption) | (with_reducible apply State.does_wf) | (with_reducible apply State.doesAs_wf) | (with_reducible apply next_wf) | intro _ | simp only [memPart_mk, memPart_fold, State.onDev, State.onDevAs, implies_true, Dev.iInstr_memPart] | split

theorem execAddpc_wf (x : CtlId) (rd : Reg) (imm : BitVec 43) (s : State) (hw : s.dev.memPart.wf = true) :
    OutWf (execAddpc x rd imm s) := by
  unfold execAddpc
  repeat' first | (with_reducible assumption) | (with_reducible apply State.does_wf) | (with_reducible apply State.doesAs_wf) | (with_reducible apply next_wf) | intro _ | simp only [memPart_mk, memPart_fold, State.onDev, State.onDevAs, implies_true, Dev.gInstr_memPart] | split

theorem execPfx_wf (x : CtlId) (hi : BitVec 21) (s : State) (hw : s.dev.memPart.wf = true) :
    OutWf (execPfx x hi s) := by
  unfold execPfx
  repeat' first | (with_reducible assumption) | (with_reducible apply State.does_wf) | (with_reducible apply State.doesAs_wf) | (with_reducible apply next_wf) | intro _ | simp only [memPart_mk, memPart_fold, State.onDev, State.onDevAs, implies_true, Dev.illegal_memPart, Dev.modCore_memPart] | split

theorem execBeq_wf (x : CtlId) (rs1 : Reg) (rs2 : Reg) (off : BitVec 43) (s : State) (hw : s.dev.memPart.wf = true) :
    OutWf (execBeq x rs1 rs2 off s) := by
  unfold execBeq
  repeat' first | (with_reducible assumption) | (with_reducible apply State.does_wf) | (with_reducible apply State.doesAs_wf) | (with_reducible apply next_wf) | intro _ | simp only [memPart_mk, memPart_fold, State.onDev, State.onDevAs, implies_true, Dev.bInstr_memPart] | split

theorem execBne_wf (x : CtlId) (rs1 : Reg) (rs2 : Reg) (off : BitVec 43) (s : State) (hw : s.dev.memPart.wf = true) :
    OutWf (execBne x rs1 rs2 off s) := by
  unfold execBne
  repeat' first | (with_reducible assumption) | (with_reducible apply State.does_wf) | (with_reducible apply State.doesAs_wf) | (with_reducible apply next_wf) | intro _ | simp only [memPart_mk, memPart_fold, State.onDev, State.onDevAs, implies_true, Dev.bInstr_memPart] | split

theorem execBlt_wf (x : CtlId) (rs1 : Reg) (rs2 : Reg) (off : BitVec 43) (s : State) (hw : s.dev.memPart.wf = true) :
    OutWf (execBlt x rs1 rs2 off s) := by
  unfold execBlt
  repeat' first | (with_reducible assumption) | (with_reducible apply State.does_wf) | (with_reducible apply State.doesAs_wf) | (with_reducible apply next_wf) | intro _ | simp only [memPart_mk, memPart_fold, State.onDev, State.onDevAs, implies_true, Dev.bInstr_memPart] | split

theorem execBge_wf (x : CtlId) (rs1 : Reg) (rs2 : Reg) (off : BitVec 43) (s : State) (hw : s.dev.memPart.wf = true) :
    OutWf (execBge x rs1 rs2 off s) := by
  unfold execBge
  repeat' first | (with_reducible assumption) | (with_reducible apply State.does_wf) | (with_reducible apply State.doesAs_wf) | (with_reducible apply next_wf) | intro _ | simp only [memPart_mk, memPart_fold, State.onDev, State.onDevAs, implies_true, Dev.bInstr_memPart] | split

theorem execBltu_wf (x : CtlId) (rs1 : Reg) (rs2 : Reg) (off : BitVec 43) (s : State) (hw : s.dev.memPart.wf = true) :
    OutWf (execBltu x rs1 rs2 off s) := by
  unfold execBltu
  repeat' first | (with_reducible assumption) | (with_reducible apply State.does_wf) | (with_reducible apply State.doesAs_wf) | (with_reducible apply next_wf) | intro _ | simp only [memPart_mk, memPart_fold, State.onDev, State.onDevAs, implies_true, Dev.bInstr_memPart] | split

theorem execBgeu_wf (x : CtlId) (rs1 : Reg) (rs2 : Reg) (off : BitVec 43) (s : State) (hw : s.dev.memPart.wf = true) :
    OutWf (execBgeu x rs1 rs2 off s) := by
  unfold execBgeu
  repeat' first | (with_reducible assumption) | (with_reducible apply State.does_wf) | (with_reducible apply State.doesAs_wf) | (with_reducible apply next_wf) | intro _ | simp only [memPart_mk, memPart_fold, State.onDev, State.onDevAs, implies_true, Dev.bInstr_memPart] | split

theorem execBl_wf (x : CtlId) (rd : Reg) (off : BitVec 43) (s : State) (hw : s.dev.memPart.wf = true) :
    OutWf (execBl x rd off s) := by
  unfold execBl
  repeat' first | (with_reducible assumption) | (with_reducible apply State.does_wf) | (with_reducible apply State.doesAs_wf) | (with_reducible apply next_wf) | intro _ | simp only [memPart_mk, memPart_fold, State.onDev, State.onDevAs, implies_true, Dev.issue_memPart, Dev.modCore_memPart] | split

theorem execJlr_wf (x : CtlId) (rd : Reg) (rs1 : Reg) (imm : BitVec 43) (s : State) (hw : s.dev.memPart.wf = true) :
    OutWf (execJlr x rd rs1 imm s) := by
  unfold execJlr
  try dsimp only
  repeat' first | (with_reducible assumption) | (with_reducible apply State.does_wf) | (with_reducible apply State.doesAs_wf) | (with_reducible apply next_wf) | intro _ | simp only [memPart_mk, memPart_fold, State.onDev, State.onDevAs, implies_true, Dev.ctlFault_memPart, Dev.issue_memPart, Dev.modCore_memPart] | split | (refine (congrArg MemPart.wf (Dev.issue_memPart _ _ _ _ _ _ ?_)).trans ?_) | (refine (Dev.issue_memPart _ _ _ _ _ _ ?_).trans ?_) | (show Dev.memPart _ = Dev.memPart _; exact Eq.refl _)
  all_goals (try simp only [Prod.ext_iff] at *)
  all_goals (try casesm* _ ∧ _)
  all_goals subst_vars
  all_goals first | (with_reducible assumption) | (simp only [memPart_mk, memPart_fold, State.onDev, State.onDevAs, implies_true, Dev.ctlFault_memPart, Dev.issue_memPart, Dev.modCore_memPart]; done) | (simp only [memPart_mk, memPart_fold, State.onDev, State.onDevAs, implies_true, Dev.ctlFault_memPart, Dev.issue_memPart, Dev.modCore_memPart]; with_reducible assumption)

theorem execIllegalOpcode_wf (x : CtlId) (vec : Bool) (s : State) (hw : s.dev.memPart.wf = true) :
    OutWf (execIllegalOpcode x vec s) := by
  unfold execIllegalOpcode
  repeat' first | (with_reducible assumption) | (with_reducible apply State.does_wf) | (with_reducible apply State.doesAs_wf) | (with_reducible apply next_wf) | intro _ | simp only [memPart_mk, memPart_fold, State.onDev, State.onDevAs, implies_true, Dev.illegal_memPart, Dev.vecFaultPlain_memPart] | split

theorem execNop_wf (x : CtlId) (s : State) (hw : s.dev.memPart.wf = true) :
    OutWf (execNop x s) := by
  unfold execNop
  repeat' first | (with_reducible assumption) | (with_reducible apply State.does_wf) | (with_reducible apply State.doesAs_wf) | (with_reducible apply next_wf) | intro _ | simp only [memPart_mk, memPart_fold, State.onDev, State.onDevAs, implies_true, Dev.issue_memPart, Dev.modCore_memPart] | split

theorem execIflush_wf (x : CtlId) (s : State) (hw : s.dev.memPart.wf = true) :
    OutWf (execIflush x s) := by
  unfold execIflush
  repeat' first | (with_reducible assumption) | (with_reducible apply State.does_wf) | (with_reducible apply State.doesAs_wf) | (with_reducible apply next_wf) | intro _ | simp only [memPart_mk, memPart_fold, State.onDev, State.onDevAs, implies_true, Dev.issue_memPart, Dev.modCore_memPart] | split

theorem execCend_wf (x : CtlId) (s : State) (hw : s.dev.memPart.wf = true) :
    OutWf (execCend x s) := by
  unfold execCend
  repeat' first | (with_reducible assumption) | (with_reducible apply State.does_wf) | (with_reducible apply State.doesAs_wf) | (with_reducible apply next_wf) | intro _ | simp only [memPart_mk, memPart_fold, State.onDev, State.onDevAs, implies_true, Dev.illegal_memPart, Dev.issue_memPart, Dev.modCore_memPart] | split

theorem execEret_wf (x : CtlId) (s : State) (hw : s.dev.memPart.wf = true) :
    OutWf (execEret x s) := by
  unfold execEret
  repeat' first | (with_reducible assumption) | (with_reducible apply State.does_wf) | (with_reducible apply State.doesAs_wf) | (with_reducible apply next_wf) | intro _ | simp only [memPart_mk, memPart_fold, State.onDev, State.onDevAs, implies_true, Dev.illegal_memPart, Dev.issue_memPart, Dev.modCore_memPart] | split

theorem execBrk_wf (x : CtlId) (tag : BitVec 16) (s : State) (hw : s.dev.memPart.wf = true) :
    OutWf (execBrk x tag s) := by
  unfold execBrk
  try dsimp only
  repeat' first | (with_reducible assumption) | (with_reducible apply State.does_wf) | (with_reducible apply State.doesAs_wf) | (with_reducible apply next_wf) | intro _ | simp only [memPart_mk, memPart_fold, State.onDev, State.onDevAs, implies_true, Dev.ctlFaultPlain_memPart, Dev.issue_memPart, Dev.modCore_memPart] | split | (refine (congrArg MemPart.wf (Dev.issue_memPart _ _ _ _ _ _ ?_)).trans ?_) | (refine (Dev.issue_memPart _ _ _ _ _ _ ?_).trans ?_) | (show Dev.memPart _ = Dev.memPart _; exact Eq.refl _)
  all_goals (try simp only [Prod.ext_iff] at *)
  all_goals (try casesm* _ ∧ _)
  all_goals subst_vars
  all_goals first | (with_reducible assumption) | (simp only [memPart_mk, memPart_fold, State.onDev, State.onDevAs, implies_true, Dev.ctlFaultPlain_memPart, Dev.issue_memPart, Dev.modCore_memPart]; done) | (simp only [memPart_mk, memPart_fold, State.onDev, State.onDevAs, implies_true, Dev.ctlFaultPlain_memPart, Dev.issue_memPart, Dev.modCore_memPart]; with_reducible assumption)

theorem execFence_wf (x : CtlId) (s : State) (hw : s.dev.memPart.wf = true) :
    OutWf (execFence x s) := by
  unfold execFence
  repeat' first | (with_reducible assumption) | (with_reducible apply State.does_wf) | (with_reducible apply State.doesAs_wf) | (with_reducible apply next_wf) | intro _ | simp only [memPart_mk, memPart_fold, State.onDev, State.onDevAs, implies_true, Dev.issue_memPart, Dev.modCore_memPart] | split

theorem execFenceComplete_wf (x : CtlId) (s : State) (hw : s.dev.memPart.wf = true) :
    OutWf (execFenceComplete x s) := by
  unfold execFenceComplete
  repeat' first | (with_reducible assumption) | (with_reducible apply State.does_wf) | (with_reducible apply State.doesAs_wf) | (with_reducible apply next_wf) | intro _ | simp only [memPart_mk, memPart_fold, State.onDev, State.onDevAs, implies_true, Dev.modCore_memPart] | split

theorem execEventArrival_wf (x : CtlId) (inp : Fin 16) (n : Nat) (s : State) (hw : s.dev.memPart.wf = true) :
    OutWf (execEventArrival x inp n s) := by
  unfold execEventArrival
  repeat' first | (with_reducible assumption) | (with_reducible apply State.does_wf) | (with_reducible apply State.doesAs_wf) | (with_reducible apply next_wf) | intro _ | simp only [memPart_mk, memPart_fold, State.onDev, State.onDevAs, implies_true, Dev.arrive_memPart] | split

theorem execWaite_wf (x : CtlId) (rd : Reg) (inp : Fin 16) (dl : Option Reg) (s : State) (hw : s.dev.memPart.wf = true) :
    OutWf (execWaite x rd inp dl s) := by
  unfold execWaite
  try dsimp only
  repeat' first | (with_reducible assumption) | (with_reducible apply State.does_wf) | (with_reducible apply State.doesAs_wf) | (with_reducible apply next_wf) | intro _ | simp only [memPart_mk, memPart_fold, State.onDev, State.onDevAs, implies_true, Dev.issue_memPart, Dev.modCore_memPart, Dev.setEvi_memPart] | split | (refine (congrArg MemPart.wf (Dev.issue_memPart _ _ _ _ _ _ ?_)).trans ?_) | (refine (Dev.issue_memPart _ _ _ _ _ _ ?_).trans ?_) | (show Dev.memPart _ = Dev.memPart _; exact Eq.refl _)
  all_goals (try simp only [Prod.ext_iff] at *)
  all_goals (try casesm* _ ∧ _)
  all_goals subst_vars
  all_goals first | (with_reducible assumption) | (simp only [memPart_mk, memPart_fold, State.onDev, State.onDevAs, implies_true, Dev.issue_memPart, Dev.modCore_memPart, Dev.setEvi_memPart]; done) | (simp only [memPart_mk, memPart_fold, State.onDev, State.onDevAs, implies_true, Dev.issue_memPart, Dev.modCore_memPart, Dev.setEvi_memPart]; with_reducible assumption)

theorem execWaiteDeadline_wf (x : CtlId) (s : State) (hw : s.dev.memPart.wf = true) :
    OutWf (execWaiteDeadline x s) := by
  unfold execWaiteDeadline
  repeat' first | (with_reducible assumption) | (with_reducible apply State.does_wf) | (with_reducible apply State.doesAs_wf) | (with_reducible apply next_wf) | intro _ | simp only [memPart_mk, memPart_fold, State.onDev, State.onDevAs, implies_true, Dev.modCore_memPart] | split

theorem execWaitt_wf (x : CtlId) (rd : Reg) (rs1 : Reg) (imm : BitVec 43) (s : State) (hw : s.dev.memPart.wf = true) :
    OutWf (execWaitt x rd rs1 imm s) := by
  unfold execWaitt
  try dsimp only
  repeat' first | (with_reducible assumption) | (with_reducible apply State.does_wf) | (with_reducible apply State.doesAs_wf) | (with_reducible apply next_wf) | intro _ | simp only [memPart_mk, memPart_fold, State.onDev, State.onDevAs, implies_true, Dev.issue_memPart, Dev.modCore_memPart] | split | (refine (congrArg MemPart.wf (Dev.issue_memPart _ _ _ _ _ _ ?_)).trans ?_) | (refine (Dev.issue_memPart _ _ _ _ _ _ ?_).trans ?_) | (show Dev.memPart _ = Dev.memPart _; exact Eq.refl _)
  all_goals (try simp only [Prod.ext_iff] at *)
  all_goals (try casesm* _ ∧ _)
  all_goals subst_vars
  all_goals first | (with_reducible assumption) | (simp only [memPart_mk, memPart_fold, State.onDev, State.onDevAs, implies_true, Dev.issue_memPart, Dev.modCore_memPart]; done) | (simp only [memPart_mk, memPart_fold, State.onDev, State.onDevAs, implies_true, Dev.issue_memPart, Dev.modCore_memPart]; with_reducible assumption)

theorem execWaittTarget_wf (x : CtlId) (s : State) (hw : s.dev.memPart.wf = true) :
    OutWf (execWaittTarget x s) := by
  unfold execWaittTarget
  repeat' first | (with_reducible assumption) | (with_reducible apply State.does_wf) | (with_reducible apply State.doesAs_wf) | (with_reducible apply next_wf) | intro _ | simp only [memPart_mk, memPart_fold, State.onDev, State.onDevAs, implies_true, Dev.modCore_memPart] | split

theorem execSig_wf (x : CtlId) (tgt : BitVec 7) (inp : Fin 16) (reg : Option Reg) (s : State) (hw : s.dev.memPart.wf = true) :
    OutWf (execSig x tgt inp reg s) := by
  unfold execSig
  try dsimp only
  repeat' first | (with_reducible assumption) | (with_reducible apply State.does_wf) | (with_reducible apply State.doesAs_wf) | (with_reducible apply next_wf) | intro _ | simp only [memPart_mk, memPart_fold, State.onDev, State.onDevAs, implies_true, Dev.ctlFault_memPart, Dev.illegal_memPart, Dev.issue_memPart, Dev.modCore_memPart] | split | (refine (congrArg MemPart.wf (Dev.issue_memPart _ _ _ _ _ _ ?_)).trans ?_) | (refine (Dev.issue_memPart _ _ _ _ _ _ ?_).trans ?_) | (show Dev.memPart _ = Dev.memPart _; exact Eq.refl _)
  all_goals (try have hI0 := Dev.signal_memPart _ _ _ _ ‹_›)
  all_goals (try simp only [Prod.ext_iff] at *)
  all_goals (try casesm* _ ∧ _)
  all_goals subst_vars
  all_goals first | (with_reducible assumption) | (simp only [memPart_mk, memPart_fold, State.onDev, State.onDevAs, implies_true, Dev.ctlFault_memPart, Dev.illegal_memPart, Dev.issue_memPart, Dev.modCore_memPart]; done) | (simp only [memPart_mk, memPart_fold, State.onDev, State.onDevAs, implies_true, Dev.ctlFault_memPart, Dev.illegal_memPart, Dev.issue_memPart, Dev.modCore_memPart]; with_reducible assumption) | (simp only [memPart_mk, memPart_fold, State.onDev, State.onDevAs, implies_true, Dev.ctlFault_memPart, Dev.illegal_memPart, Dev.issue_memPart, Dev.modCore_memPart, hI0]; done) | (simp only [memPart_mk, memPart_fold, State.onDev, State.onDevAs, implies_true, Dev.ctlFault_memPart, Dev.illegal_memPart, Dev.issue_memPart, Dev.modCore_memPart, hI0]; with_reducible assumption)

theorem execPushv_wf (x : CtlId) (rs1 : Reg) (s : State) (hw : s.dev.memPart.wf = true) :
    OutWf (execPushv x rs1 s) := by
  unfold execPushv
  repeat' first | (with_reducible assumption) | (with_reducible apply State.does_wf) | (with_reducible apply State.doesAs_wf) | (with_reducible apply next_wf) | intro _ | simp only [memPart_mk, memPart_fold, State.onDev, State.onDevAs, implies_true, Dev.illegal_memPart, Dev.issue_memPart, Dev.modCore_memPart] | split

theorem execPushvSpace_wf (q : CoreId) (s : State) (hw : s.dev.memPart.wf = true) :
    OutWf (execPushvSpace q s) := by
  unfold execPushvSpace
  repeat' first | (with_reducible assumption) | (with_reducible apply State.does_wf) | (with_reducible apply State.doesAs_wf) | (with_reducible apply next_wf) | intro _ | simp only [memPart_mk, memPart_fold, State.onDev, State.onDevAs, implies_true, Dev.modCore_memPart] | split

theorem execRdv_wf (x : CtlId) (rd : Reg) (idx : BitVec 5) (s : State) (hw : s.dev.memPart.wf = true) :
    OutWf (execRdv x rd idx s) := by
  unfold execRdv
  repeat' first | (with_reducible assumption) | (with_reducible apply State.does_wf) | (with_reducible apply State.doesAs_wf) | (with_reducible apply next_wf) | intro _ | simp only [memPart_mk, memPart_fold, State.onDev, State.onDevAs, implies_true, Dev.gInstr_memPart, Dev.illegal_memPart] | split

theorem execCapq_wf (x : CtlId) (rd : Reg) (rs1 : Reg) (sel : BitVec 8) (s : State) (hw : s.dev.memPart.wf = true) :
    OutWf (execCapq x rd rs1 sel s) := by
  unfold execCapq
  repeat' first | (with_reducible assumption) | (with_reducible apply State.does_wf) | (with_reducible apply State.doesAs_wf) | (with_reducible apply next_wf) | intro _ | simp only [memPart_mk, memPart_fold, State.onDev, State.onDevAs, implies_true, Dev.gInstr_memPart, Dev.illegal_memPart, Dev.issue_memPart, Dev.modCore_memPart] | split

theorem execStim_wf (x : CtlId) (rs1 : Reg) (port : BitVec 5) (s : State) (hw : s.dev.memPart.wf = true) :
    OutWf (execStim x rs1 port s) := by
  unfold execStim
  try dsimp only
  repeat' first | (with_reducible assumption) | (with_reducible apply State.does_wf) | (with_reducible apply State.doesAs_wf) | (with_reducible apply next_wf) | intro _ | simp only [memPart_mk, memPart_fold, State.onDev, State.onDevAs, implies_true, Dev.issue_memPart, Dev.modCore_memPart, Dev.traceOut_memPart] | split | (refine (congrArg MemPart.wf (Dev.issue_memPart _ _ _ _ _ _ ?_)).trans ?_) | (refine (Dev.issue_memPart _ _ _ _ _ _ ?_).trans ?_) | (show Dev.memPart _ = Dev.memPart _; exact Eq.refl _)
  all_goals (try simp only [Prod.ext_iff] at *)
  all_goals (try casesm* _ ∧ _)
  all_goals subst_vars
  all_goals first | (with_reducible assumption) | (simp only [memPart_mk, memPart_fold, State.onDev, State.onDevAs, implies_true, Dev.issue_memPart, Dev.modCore_memPart, Dev.traceOut_memPart]; done) | (simp only [memPart_mk, memPart_fold, State.onDev, State.onDevAs, implies_true, Dev.issue_memPart, Dev.modCore_memPart, Dev.traceOut_memPart]; with_reducible assumption)

theorem execRdt_wf (x : CtlId) (rd : Reg) (sel : BitVec 2) (s : State) (hw : s.dev.memPart.wf = true) :
    OutWf (execRdt x rd sel s) := by
  unfold execRdt
  repeat' first | (with_reducible assumption) | (with_reducible apply State.does_wf) | (with_reducible apply State.doesAs_wf) | (with_reducible apply next_wf) | intro _ | simp only [memPart_mk, memPart_fold, State.onDev, State.onDevAs, implies_true, Dev.illegal_memPart, Dev.issue_memPart, Dev.modCore_memPart] | split

theorem execRdcs_wf (x : CtlId) (rd : Reg) (sel : BitVec 4) (s : State) (hw : s.dev.memPart.wf = true) :
    OutWf (execRdcs x rd sel s) := by
  unfold execRdcs
  repeat' first | (with_reducible assumption) | (with_reducible apply State.does_wf) | (with_reducible apply State.doesAs_wf) | (with_reducible apply next_wf) | intro _ | simp only [memPart_mk, memPart_fold, State.onDev, State.onDevAs, implies_true, Dev.gInstr_memPart, Dev.illegal_memPart] | split

theorem execWrcs_wf (x : CtlId) (rs1 : Reg) (sel : BitVec 4) (s : State) (hw : s.dev.memPart.wf = true) :
    OutWf (execWrcs x rs1 sel s) := by
  unfold execWrcs
  repeat' first | (with_reducible assumption) | (with_reducible apply State.does_wf) | (with_reducible apply State.doesAs_wf) | (with_reducible apply next_wf) | intro _ | simp only [memPart_mk, memPart_fold, State.onDev, State.onDevAs, implies_true, Dev.illegal_memPart, Dev.issue_memPart, Dev.modCore_memPart] | split

theorem execVdecl_wf (q : CoreId) (s : State) (hw : s.dev.memPart.wf = true) :
    OutWf (execVdecl q s) := by
  unfold execVdecl
  repeat' first | (with_reducible assumption) | (with_reducible apply State.does_wf) | (with_reducible apply State.doesAs_wf) | (with_reducible apply next_wf) | intro _ | simp only [memPart_mk, memPart_fold, State.onDev, State.onDevAs, implies_true, Dev.vecFaultPlain_memPart, Dev.vecIssue_memPart] | split

theorem execRows_wf (q : CoreId) (em : Emit) (prt : Bool) (rows : List (BitVec 512 × BitVec 6)) (s : State) (hw : s.dev.memPart.wf = true) :
    OutWf (execRows q em prt rows s) := by
  unfold execRows
  repeat' first | (with_reducible assumption) | (with_reducible apply State.does_wf) | (with_reducible apply State.doesAs_wf) | (with_reducible apply next_wf) | intro _ | simp only [memPart_mk, memPart_fold, State.onDev, State.onDevAs, implies_true, Dev.emit_memPart] | split

theorem execRpt_wf (q : CoreId) (em : Emit) (row : BitVec 512) (n : BitVec 17) (s : State) (hw : s.dev.memPart.wf = true) :
    OutWf (execRpt q em row n s) := by
  unfold execRpt
  repeat' first | (with_reducible assumption) | (with_reducible apply State.does_wf) | (with_reducible apply State.doesAs_wf) | (with_reducible apply next_wf) | intro _ | simp only [memPart_mk, memPart_fold, State.onDev, State.onDevAs, implies_true, Dev.emit_memPart] | split

theorem execIdle_wf (q : CoreId) (em : Emit) (n : BitVec 17) (s : State) (hw : s.dev.memPart.wf = true) :
    OutWf (execIdle q em n s) := by
  unfold execIdle
  repeat' first | (with_reducible assumption) | (with_reducible apply State.does_wf) | (with_reducible apply State.doesAs_wf) | (with_reducible apply next_wf) | intro _ | simp only [memPart_mk, memPart_fold, State.onDev, State.onDevAs, implies_true, Dev.emit_memPart] | split

theorem execVset_wf (q : CoreId) (rsel : BitVec 5) (part : BitVec 2) (entry : BitVec 6) (imm : Word) (s : State) (hw : s.dev.memPart.wf = true) :
    OutWf (execVset q rsel part entry imm s) := by
  unfold execVset
  repeat' first | (with_reducible assumption) | (with_reducible apply State.does_wf) | (with_reducible apply State.doesAs_wf) | (with_reducible apply next_wf) | intro _ | simp only [memPart_mk, memPart_fold, State.onDev, State.onDevAs, implies_true, Dev.vecInstr_memPart] | split

theorem execVpop_wf (q : CoreId) (rsel : BitVec 5) (s : State) (hw : s.dev.memPart.wf = true) :
    OutWf (execVpop q rsel s) := by
  unfold execVpop
  try dsimp only
  repeat' first | (with_reducible assumption) | (with_reducible apply State.does_wf) | (with_reducible apply State.doesAs_wf) | (with_reducible apply next_wf) | intro _ | simp only [memPart_mk, memPart_fold, State.onDev, State.onDevAs, implies_true, Dev.vecFaultPlain_memPart, Dev.vecIssue_memPart, Dev.vecStep_memPart] | split | (refine (congrArg MemPart.wf (Dev.vecIssue_memPart _ _ _ _ _ ?_)).trans ?_) | (refine (Dev.vecIssue_memPart _ _ _ _ _ ?_).trans ?_) | (show Dev.memPart _ = Dev.memPart _; exact Eq.refl _)
  all_goals (try simp only [Prod.ext_iff] at *)
  all_goals (try casesm* _ ∧ _)
  all_goals subst_vars
  all_goals first | (with_reducible assumption) | (simp only [memPart_mk, memPart_fold, State.onDev, State.onDevAs, implies_true, Dev.vecFaultPlain_memPart, Dev.vecIssue_memPart, Dev.vecStep_memPart]; done) | (simp only [memPart_mk, memPart_fold, State.onDev, State.onDevAs, implies_true, Dev.vecFaultPlain_memPart, Dev.vecIssue_memPart, Dev.vecStep_memPart]; with_reducible assumption)

theorem execAopx_wf (q : CoreId) (xs : BitVec 2) (ys : BitVec 2) (ds : BitVec 2) (aop : BitVec 4) (wid : BitVec 5) (s : State) (hw : s.dev.memPart.wf = true) :
    OutWf (execAopx q xs ys ds aop wid s) := by
  unfold execAopx
  repeat' first | (with_reducible assumption) | (with_reducible apply State.does_wf) | (with_reducible apply State.doesAs_wf) | (with_reducible apply next_wf) | intro _ | simp only [memPart_mk, memPart_fold, State.onDev, State.onDevAs, implies_true, Dev.vecInstr_memPart] | split

theorem execLoop_wf (q : CoreId) (n : Fin 8) (count : Word) (s : State) (hw : s.dev.memPart.wf = true) :
    OutWf (execLoop q n count s) := by
  unfold execLoop
  repeat' first | (with_reducible assumption) | (with_reducible apply State.does_wf) | (with_reducible apply State.doesAs_wf) | (with_reducible apply next_wf) | intro _ | simp only [memPart_mk, memPart_fold, State.onDev, State.onDevAs, implies_true, Dev.vecInstr_memPart] | split

theorem execEndl_wf (q : CoreId) (n : Fin 8) (off : BitVec 32) (s : State) (hw : s.dev.memPart.wf = true) :
    OutWf (execEndl q n off s) := by
  unfold execEndl
  try dsimp only
  repeat' first | (with_reducible assumption) | (with_reducible apply State.does_wf) | (with_reducible apply State.doesAs_wf) | (with_reducible apply next_wf) | intro _ | simp only [memPart_mk, memPart_fold, State.onDev, State.onDevAs, implies_true, Dev.modV_memPart, Dev.vecIssue_memPart, Dev.vecStep_memPart] | split | (refine (congrArg MemPart.wf (Dev.vecIssue_memPart _ _ _ _ _ ?_)).trans ?_) | (refine (Dev.vecIssue_memPart _ _ _ _ _ ?_).trans ?_) | (show Dev.memPart _ = Dev.memPart _; exact Eq.refl _)
  all_goals (try simp only [Prod.ext_iff] at *)
  all_goals (try casesm* _ ∧ _)
  all_goals subst_vars
  all_goals first | (with_reducible assumption) | (simp only [memPart_mk, memPart_fold, State.onDev, State.onDevAs, implies_true, Dev.modV_memPart, Dev.vecIssue_memPart, Dev.vecStep_memPart]; done) | (simp only [memPart_mk, memPart_fold, State.onDev, State.onDevAs, implies_true, Dev.modV_memPart, Dev.vecIssue_memPart, Dev.vecStep_memPart]; with_reducible assumption)

theorem execVjmp_wf (q : CoreId) (off : BitVec 43) (s : State) (hw : s.dev.memPart.wf = true) :
    OutWf (execVjmp q off s) := by
  unfold execVjmp
  repeat' first | (with_reducible assumption) | (with_reducible apply State.does_wf) | (with_reducible apply State.doesAs_wf) | (with_reducible apply next_wf) | intro _ | simp only [memPart_mk, memPart_fold, State.onDev, State.onDevAs, implies_true, Dev.modV_memPart, Dev.vecIssue_memPart] | split

theorem execVcall_wf (q : CoreId) (n : Fin 8) (off : BitVec 43) (s : State) (hw : s.dev.memPart.wf = true) :
    OutWf (execVcall q n off s) := by
  unfold execVcall
  repeat' first | (with_reducible assumption) | (with_reducible apply State.does_wf) | (with_reducible apply State.doesAs_wf) | (with_reducible apply next_wf) | intro _ | simp only [memPart_mk, memPart_fold, State.onDev, State.onDevAs, implies_true, Dev.modV_memPart, Dev.vecIssue_memPart] | split

theorem execVret_wf (q : CoreId) (n : Fin 8) (s : State) (hw : s.dev.memPart.wf = true) :
    OutWf (execVret q n s) := by
  unfold execVret
  repeat' first | (with_reducible assumption) | (with_reducible apply State.does_wf) | (with_reducible apply State.doesAs_wf) | (with_reducible apply next_wf) | intro _ | simp only [memPart_mk, memPart_fold, State.onDev, State.onDevAs, implies_true, Dev.modV_memPart, Dev.vecIssue_memPart] | split

theorem execMloop_wf (q : CoreId) (n : Fin 8) (cond : Bool) (comb : Bool) (tmo : BitVec 2) (segit : Bool) (mev : Fin 16) (mevon : BitVec 2) (bidx : BitVec 20) (s : State) (hw : s.dev.memPart.wf = true) :
    OutWf (execMloop q n cond comb tmo segit mev mevon bidx s) := by
  unfold execMloop
  repeat' first | (with_reducible assumption) | (with_reducible apply State.does_wf) | (with_reducible apply State.doesAs_wf) | (with_reducible apply next_wf) | intro _ | simp only [memPart_mk, memPart_fold, State.onDev, State.onDevAs, implies_true, Dev.vecFaultPlain_memPart, Dev.vecIssue_memPart, Dev.vecStep_memPart] | split

theorem execMend_wf (q : CoreId) (s : State) (hw : s.dev.memPart.wf = true) :
    OutWf (execMend q s) := by
  unfold execMend
  try dsimp only
  repeat' first | (with_reducible assumption) | (with_reducible apply State.does_wf) | (with_reducible apply State.doesAs_wf) | (with_reducible apply next_wf) | intro _ | simp only [memPart_mk, memPart_fold, State.onDev, State.onDevAs, implies_true, Dev.vecFaultPlain_memPart, Dev.vecIssue_memPart, Dev.vecStep_memPart] | split | (refine (congrArg MemPart.wf (Dev.vecIssue_memPart _ _ _ _ _ ?_)).trans ?_) | (refine (Dev.vecIssue_memPart _ _ _ _ _ ?_).trans ?_) | (show Dev.memPart _ = Dev.memPart _; exact Eq.refl _)
  all_goals (try simp only [Prod.ext_iff] at *)
  all_goals (try casesm* _ ∧ _)
  all_goals subst_vars
  all_goals first | (with_reducible assumption) | (simp only [memPart_mk, memPart_fold, State.onDev, State.onDevAs, implies_true, Dev.vecFaultPlain_memPart, Dev.vecIssue_memPart, Dev.vecStep_memPart]; done) | (simp only [memPart_mk, memPart_fold, State.onDev, State.onDevAs, implies_true, Dev.vecFaultPlain_memPart, Dev.vecIssue_memPart, Dev.vecStep_memPart]; with_reducible assumption)

theorem execSegb_wf (q : CoreId) (last : Bool) (bidx : BitVec 20) (s : State) (hw : s.dev.memPart.wf = true) :
    OutWf (execSegb q last bidx s) := by
  unfold execSegb
  repeat' first | (with_reducible assumption) | (with_reducible apply State.does_wf) | (with_reducible apply State.doesAs_wf) | (with_reducible apply next_wf) | intro _ | simp only [memPart_mk, memPart_fold, State.onDev, State.onDevAs, implies_true, Dev.vecIssue_memPart, Dev.vecStep_memPart] | split

theorem execSigVector_wf (q : CoreId) (tgt : BitVec 7) (inp : Fin 16) (pin : Bool) (s : State) (hw : s.dev.memPart.wf = true) :
    OutWf (execSigVector q tgt inp pin s) := by
  unfold execSigVector
  try dsimp only
  repeat' first | (with_reducible assumption) | (with_reducible apply State.does_wf) | (with_reducible apply State.doesAs_wf) | (with_reducible apply next_wf) | intro _ | simp only [memPart_mk, memPart_fold, State.onDev, State.onDevAs, implies_true, Dev.vecFault_memPart, Dev.vecFaultPlain_memPart, Dev.vecIssue_memPart, Dev.vecStep_memPart] | split | (refine (congrArg MemPart.wf (Dev.vecIssue_memPart _ _ _ _ _ ?_)).trans ?_) | (refine (Dev.vecIssue_memPart _ _ _ _ _ ?_).trans ?_) | (show Dev.memPart _ = Dev.memPart _; exact Eq.refl _)
  all_goals (try have hI0 := Dev.signal_memPart _ _ _ _ ‹_›)
  all_goals (try simp only [Prod.ext_iff] at *)
  all_goals (try casesm* _ ∧ _)
  all_goals subst_vars
  all_goals first | (with_reducible assumption) | (simp only [memPart_mk, memPart_fold, State.onDev, State.onDevAs, implies_true, Dev.vecFault_memPart, Dev.vecFaultPlain_memPart, Dev.vecIssue_memPart, Dev.vecStep_memPart]; done) | (simp only [memPart_mk, memPart_fold, State.onDev, State.onDevAs, implies_true, Dev.vecFault_memPart, Dev.vecFaultPlain_memPart, Dev.vecIssue_memPart, Dev.vecStep_memPart]; with_reducible assumption) | (simp only [memPart_mk, memPart_fold, State.onDev, State.onDevAs, implies_true, Dev.vecFault_memPart, Dev.vecFaultPlain_memPart, Dev.vecIssue_memPart, Dev.vecStep_memPart, hI0]; done) | (simp only [memPart_mk, memPart_fold, State.onDev, State.onDevAs, implies_true, Dev.vecFault_memPart, Dev.vecFaultPlain_memPart, Dev.vecIssue_memPart, Dev.vecStep_memPart, hI0]; with_reducible assumption)

theorem execSegOverrun_wf (q : CoreId) (s : State) (hw : s.dev.memPart.wf = true) :
    OutWf (execSegOverrun q s) := by
  unfold execSegOverrun
  repeat' first | (with_reducible assumption) | (with_reducible apply State.does_wf) | (with_reducible apply State.doesAs_wf) | (with_reducible apply next_wf) | intro _ | simp only [memPart_mk, memPart_fold, State.onDev, State.onDevAs, implies_true, Dev.vecFaultPlain_memPart] | split

theorem execSegmentAdmissionEnd_wf (q : CoreId) (ecc : Option (Fin 3 × Nat)) (s : State) (hw : s.dev.memPart.wf = true) :
    OutWf (execSegmentAdmissionEnd q ecc s) := by
  unfold execSegmentAdmissionEnd
  try dsimp only
  repeat' first | (with_reducible assumption) | (with_reducible apply State.does_wf) | (with_reducible apply State.doesAs_wf) | (with_reducible apply next_wf) | intro _ | simp only [memPart_mk, memPart_fold, State.onDev, State.onDevAs, implies_true, Dev.admitSegment_memPart, Dev.modV_memPart, Dev.ptuFault_memPart, Dev.vecFault_memPart] | split | (show Dev.memPart _ = Dev.memPart _; exact Eq.refl _)
  all_goals (try simp only [Prod.ext_iff] at *)
  all_goals (try casesm* _ ∧ _)
  all_goals subst_vars
  all_goals first | (with_reducible assumption) | (simp only [memPart_mk, memPart_fold, State.onDev, State.onDevAs, implies_true, Dev.admitSegment_memPart, Dev.modV_memPart, Dev.ptuFault_memPart, Dev.vecFault_memPart]; done) | (simp only [memPart_mk, memPart_fold, State.onDev, State.onDevAs, implies_true, Dev.admitSegment_memPart, Dev.modV_memPart, Dev.ptuFault_memPart, Dev.vecFault_memPart]; with_reducible assumption)

theorem execVectorReadComplete_wf (q : CoreId) (va : BitVec 48) (errors : Fin 5) (s : State) (hw : s.dev.memPart.wf = true) :
    OutWf (execVectorReadComplete q va errors s) := by
  unfold execVectorReadComplete
  repeat' first | (with_reducible assumption) | (with_reducible apply State.does_wf) | (with_reducible apply State.doesAs_wf) | (with_reducible apply next_wf) | (with_reducible apply Dev.each_wf) | intro _ | simp only [memPart_mk, memPart_fold, State.onDev, State.onDevAs, implies_true, Dev.each_memPart, Dev.memUE_memPart, Dev.ptuFault_memPart, Dev.vecFault_memPart] | split

end Sys2Proof.Machine
end

