-- ==== Sys2Proof/Laws/MemWf1.lean ====
section
/-! SUPPORT. The memory's canonical form, part 2 of 5: every function of the model that changes the memory part
keeps `MemPart.wf` (lemma `F_wf`), and every command's meaning answers only states that keep it
(lemma `execX_wf`, stated with `OutWf`). -/

set_option linter.all false

namespace Sys2Proof.Machine
theorem execRecordGeneratorTake_wf (n : Die) (s : State) (hw : s.dev.memPart.wf = true) :
    OutWf (execRecordGeneratorTake n s) := by
  unfold execRecordGeneratorTake
  repeat' first | (with_reducible assumption) | (with_reducible apply State.does_wf) | (with_reducible apply State.doesAs_wf) | (with_reducible apply next_wf) | (with_reducible apply Dev.each_wf) | intro _ | simp only [memPart_mk, memPart_fold, State.onDev, State.onDevAs, implies_true, Dev.each_memPart, Dev.stageSeen_memPart, Dev.takeOne_memPart] | split

theorem Dev.orPlane_wf (d : Dev) (q : Nat) (r : FRec) (hw : d.memPart.wf = true) :
    (Dev.orPlane d q r).memPart.wf = true := by
  unfold Dev.orPlane
  repeat' first | (with_reducible assumption) | (with_reducible apply Dev.pokeNum_wf) | intro _ | simp only [memPart_mk, memPart_fold, State.onDev, State.onDevAs, implies_true] | split

theorem Dev.stow_wf (d : Dev) (q : Nat) (r : FRec) (ahead : Nat) (hw : d.memPart.wf = true) :
    (Dev.stow d q r ahead).1.memPart.wf = true := by
  unfold Dev.stow
  repeat' first | (with_reducible assumption) | (with_reducible apply Dev.orPlane_wf) | (with_reducible apply Dev.pokeNum_wf) | (with_reducible apply Dev.when_wf) | intro _ | simp only [memPart_mk, memPart_fold, State.onDev, State.onDevAs, implies_true, Dev.adv_memPart, Dev.captureStop_memPart, Dev.count48_memPart, Dev.loseRec_memPart, Dev.put_memPart, Dev.regionSeen_memPart, Dev.when_memPart] | split

theorem execPinCycle_wf (q : CoreId) (obs : PinObs) (s : State) (hw : s.dev.memPart.wf = true) :
    OutWf (execPinCycle q obs s) := by
  unfold execPinCycle
  try dsimp only
  repeat' first | (with_reducible assumption) | (with_reducible apply State.does_wf) | (with_reducible apply State.doesAs_wf) | (with_reducible apply next_wf) | (with_reducible apply Dev.asInjected_wf) | intro _ | simp only [memPart_mk, memPart_fold, State.onDev, State.onDevAs, implies_true, Dev.anyCycle_memPart, Dev.asInjected_memPart, Dev.injectObs_memPart] | split | (refine (congrArg MemPart.wf (Dev.asInjected_memPart _ _ ?_)).trans ?_) | (refine (Dev.asInjected_memPart _ _ ?_).trans ?_) | (show Dev.memPart _ = Dev.memPart _; exact Eq.refl _)
  all_goals (try simp only [Prod.ext_iff] at *)
  all_goals (try casesm* _ ∧ _)
  all_goals subst_vars
  all_goals first | (with_reducible assumption) | (simp only [memPart_mk, memPart_fold, State.onDev, State.onDevAs, implies_true, Dev.anyCycle_memPart, Dev.asInjected_memPart, Dev.injectObs_memPart]; done) | (simp only [memPart_mk, memPart_fold, State.onDev, State.onDevAs, implies_true, Dev.anyCycle_memPart, Dev.asInjected_memPart, Dev.injectObs_memPart]; with_reducible assumption)

theorem Dev.storeRec_wf (d : Dev) (q : Nat) (r : FRec) (ahead : Nat) (hw : d.memPart.wf = true) :
    (Dev.storeRec d q r ahead).1.memPart.wf = true := by
  unfold Dev.storeRec
  repeat' first | (with_reducible assumption) | (with_reducible apply Dev.stow_wf) | (with_reducible apply Dev.when_wf) | intro _ | simp only [memPart_mk, memPart_fold, State.onDev, State.onDevAs, implies_true, Dev.intakePut_memPart, Dev.modCore_memPart, Dev.when_memPart] | split

theorem execStagingDrain_wf (n : Die) (i : SiteId) (s : State) (hw : s.dev.memPart.wf = true) :
    OutWf (execStagingDrain n i s) := by
  unfold execStagingDrain
  repeat' first | (with_reducible assumption) | (with_reducible apply State.does_wf) | (with_reducible apply State.doesAs_wf) | (with_reducible apply next_wf) | (with_reducible apply Dev.storeRec_wf) | intro _ | simp only [memPart_mk, memPart_fold, State.onDev, State.onDevAs, implies_true, Dev.closeShare_memPart, Dev.modCore_memPart, Dev.stageSeen_memPart] | split

theorem execRpsMapping_wf (n : Die) (s : State) (hw : s.dev.memPart.wf = true) :
    OutWf (execRpsMapping n s) := by
  unfold execRpsMapping
  repeat' first | (with_reducible assumption) | (with_reducible apply State.does_wf) | (with_reducible apply State.doesAs_wf) | (with_reducible apply next_wf) | (with_reducible apply Dev.each_wf) | intro _ | simp only [memPart_mk, memPart_fold, State.onDev, State.onDevAs, implies_true, Dev.each_memPart, Dev.intakeSeen_memPart, Dev.mapFail_memPart, Dev.modRps_memPart, Dev.put_memPart, Dev.trySolve_memPart] | split

theorem execCellOperation_wf (n : Die) (s : State) (hw : s.dev.memPart.wf = true) :
    OutWf (execCellOperation n s) := by
  unfold execCellOperation
  repeat' first | (with_reducible assumption) | (with_reducible apply State.does_wf) | (with_reducible apply State.doesAs_wf) | (with_reducible apply next_wf) | intro _ | simp only [memPart_mk, memPart_fold, State.onDev, State.onDevAs, implies_true, Dev.cellOp_memPart] | split

theorem execSolveEngineTake_wf (s : State) (hw : s.dev.memPart.wf = true) :
    OutWf (execSolveEngineTake s) := by
  unfold execSolveEngineTake
  repeat' first | (with_reducible assumption) | (with_reducible apply State.does_wf) | (with_reducible apply State.doesAs_wf) | (with_reducible apply next_wf) | intro _ | simp only [memPart_mk, memPart_fold, State.onDev, State.onDevAs, implies_true, Dev.set_memPart] | split

theorem execSolutionWritten_wf (i : SiteId) (res : List SolveEnd) (s : State) (hw : s.dev.memPart.wf = true) :
    OutWf (execSolutionWritten i res s) := by
  have hwhen : ∀ (d : Dev) (b : Bool), (d.when b fun d =>
      if d.corePresent (d.get (K.RPSE_EVT_CORE i)) then d.send (d.get (K.RPSE_EVT_CORE i)) (d.get (K.RPSE_EVT_IN i))
      else d).memPart = d.memPart := by
    intro d b
    refine Dev.when_memPart _ _ _ fun d => ?_
    split
    · exact Dev.send_memPart _ _ _ _
    · rfl
  unfold execSolutionWritten
  apply State.does_wf
  split
  · exact hw
  · split
    · exact hw
    · simp only [Dev.when_memPart, Dev.irq_memPart, implies_true, hwhen, Dev.rpsLog_memPart, Dev.set_memPart, Dev.put_memPart, memPart_mk,
        memPart_fold, Dev.modRps_memPart]
      split
      · exact Dev.pokeBytes_wf _ _ _ (by rw [Memory.wf, Dev.solveAll_memPart]; exact hw)
      · rw [Dev.solveAll_memPart]; exact hw

theorem execSegmentBoundary_wf (i : SiteId) (s : State) (hw : s.dev.memPart.wf = true) :
    OutWf (execSegmentBoundary i s) := by
  unfold execSegmentBoundary
  repeat' first | (with_reducible assumption) | (with_reducible apply State.does_wf) | (with_reducible apply State.doesAs_wf) | (with_reducible apply next_wf) | (with_reducible apply Dev.each_wf) | intro _ | simp only [memPart_mk, memPart_fold, State.onDev, State.onDevAs, implies_true, Dev.each_memPart, Dev.modV_memPart, Dev.openSegment_memPart, Dev.siteBoundary_memPart] | split

theorem execStopApply_wf (i : SiteId) (s : State) (hw : s.dev.memPart.wf = true) :
    OutWf (execStopApply i s) := by
  unfold execStopApply
  repeat' first | (with_reducible assumption) | (with_reducible apply State.does_wf) | (with_reducible apply State.doesAs_wf) | (with_reducible apply next_wf) | (with_reducible apply Dev.each_wf) | intro _ | simp only [memPart_mk, memPart_fold, State.onDev, State.onDevAs, implies_true, Dev.each_memPart, Dev.modSite_memPart, Dev.setCoreState_memPart] | split

theorem execStopBoundary_wf (i : SiteId) (s : State) (hw : s.dev.memPart.wf = true) :
    OutWf (execStopBoundary i s) := by
  unfold execStopBoundary
  repeat' first | (with_reducible assumption) | (with_reducible apply State.does_wf) | (with_reducible apply State.doesAs_wf) | (with_reducible apply next_wf) | intro _ | simp only [memPart_mk, memPart_fold, State.onDev, State.onDevAs, implies_true, Dev.enterCurtain_memPart] | split

theorem execEndBoundary_wf (i : SiteId) (s : State) (hw : s.dev.memPart.wf = true) :
    OutWf (execEndBoundary i s) := by
  unfold execEndBoundary
  repeat' first | (with_reducible assumption) | (with_reducible apply State.does_wf) | (with_reducible apply State.doesAs_wf) | (with_reducible apply next_wf) | intro _ | simp only [memPart_mk, memPart_fold, State.onDev, State.onDevAs, implies_true, Dev.enterCurtain_memPart, Dev.stopNoted_memPart, Dev.modSite_memPart] | split

theorem execCurtainEnd_wf (i : SiteId) (s : State) (hw : s.dev.memPart.wf = true) :
    OutWf (execCurtainEnd i s) := by
  unfold execCurtainEnd
  repeat' first | (with_reducible assumption) | (with_reducible apply State.does_wf) | (with_reducible apply State.doesAs_wf) | (with_reducible apply next_wf) | intro _ | simp only [memPart_mk, memPart_fold, State.onDev, State.onDevAs, implies_true, Dev.curtainEnd_memPart] | split

theorem execViqUnderrun_wf (q : CoreId) (s : State) (hw : s.dev.memPart.wf = true) :
    OutWf (execViqUnderrun q s) := by
  unfold execViqUnderrun
  repeat' first | (with_reducible assumption) | (with_reducible apply State.does_wf) | (with_reducible apply State.doesAs_wf) | (with_reducible apply next_wf) | intro _ | simp only [memPart_mk, memPart_fold, State.onDev, State.onDevAs, implies_true, Dev.viqLacks_memPart] | split

theorem execMatchLoopPassEnd_wf (i : SiteId) (s : State) (hw : s.dev.memPart.wf = true) :
    OutWf (execMatchLoopPassEnd i s) := by
  unfold execMatchLoopPassEnd
  repeat' first | (with_reducible assumption) | (with_reducible apply State.does_wf) | (with_reducible apply State.doesAs_wf) | (with_reducible apply next_wf) | (with_reducible apply Dev.each_wf) | intro _ | simp only [memPart_mk, memPart_fold, State.onDev, State.onDevAs, implies_true, Dev.each_memPart, Dev.loopEnds_memPart, Dev.loopReplays_memPart, Dev.modSite_memPart, Dev.siteBoundary_memPart] | split

theorem execMatchLoopOutcome_wf (i : SiteId) (s : State) (hw : s.dev.memPart.wf = true) :
    OutWf (execMatchLoopOutcome i s) := by
  unfold execMatchLoopOutcome
  repeat' first | (with_reducible assumption) | (with_reducible apply State.does_wf) | (with_reducible apply State.doesAs_wf) | (with_reducible apply next_wf) | (with_reducible apply Dev.each_wf) | intro _ | simp only [memPart_mk, memPart_fold, State.onDev, State.onDevAs, implies_true, Dev.arrive_memPart, Dev.each_memPart, Dev.failEvt_memPart, Dev.fifoPut_memPart, Dev.flushFails_memPart, Dev.modSite_memPart, Dev.put_memPart, Dev.stopReq_memPart] | split

theorem execLeaseRequest_wf (unit : Fin 8) (cls : Fin 6) (holder : BitVec 8) (arg : BitVec 16) (queue : Bool) (s : State) (hw : s.dev.memPart.wf = true) :
    OutWf (execLeaseRequest unit cls holder arg queue s) := by
  unfold execLeaseRequest
  repeat' first | (with_reducible assumption) | (with_reducible apply State.does_wf) | (with_reducible apply State.doesAs_wf) | (with_reducible apply next_wf) | intro _ | simp only [memPart_mk, memPart_fold, State.onDev, State.onDevAs, implies_true, Dev.leaseReq_memPart] | split

theorem execLeaseRelease_wf (unit : Fin 8) (cls : Fin 6) (holder : BitVec 8) (s : State) (hw : s.dev.memPart.wf = true) :
    OutWf (execLeaseRelease unit cls holder s) := by
  unfold execLeaseRelease
  repeat' first | (with_reducible assumption) | (with_reducible apply State.does_wf) | (with_reducible apply State.doesAs_wf) | (with_reducible apply next_wf) | intro _ | simp only [memPart_mk, memPart_fold, State.onDev, State.onDevAs, implies_true, Dev.leaseRelease_memPart] | split

theorem execLeaseWithdraw_wf (unit : Fin 8) (cls : Fin 6) (holder : BitVec 8) (s : State) (hw : s.dev.memPart.wf = true) :
    OutWf (execLeaseWithdraw unit cls holder s) := by
  unfold execLeaseWithdraw
  repeat' first | (with_reducible assumption) | (with_reducible apply State.does_wf) | (with_reducible apply State.doesAs_wf) | (with_reducible apply next_wf) | intro _ | simp only [memPart_mk, memPart_fold, State.onDev, State.onDevAs, implies_true, Dev.leaseWithdraw_memPart] | split

theorem execDataFlit_wf (c : FlitChan) (payload : BitVec 256) (ok : Bool) (s : State) (hw : s.dev.memPart.wf = true) :
    OutWf (execDataFlit c payload ok s) := by
  unfold execDataFlit
  repeat' first | (with_reducible assumption) | (with_reducible apply State.does_wf) | (with_reducible apply State.doesAs_wf) | (with_reducible apply next_wf) | intro _ | simp only [memPart_mk, memPart_fold, State.onDev, State.onDevAs, implies_true, Dev.acked_memPart, Dev.crcError_memPart, Dev.flitOk_memPart, Dev.modDir_memPart] | split

theorem execIdleFlit_wf (c : FlitChan) (ok : Bool) (s : State) (hw : s.dev.memPart.wf = true) :
    OutWf (execIdleFlit c ok s) := by
  unfold execIdleFlit
  try dsimp only
  repeat' first | (with_reducible assumption) | (with_reducible apply State.does_wf) | (with_reducible apply State.doesAs_wf) | (with_reducible apply next_wf) | intro _ | simp only [memPart_mk, memPart_fold, State.onDev, State.onDevAs, implies_true, Dev.acked_memPart, Dev.crcError_memPart, Dev.flitOk_memPart] | split | (show Dev.memPart _ = Dev.memPart _; exact Eq.refl _)
  all_goals (try simp only [Prod.ext_iff] at *)
  all_goals (try casesm* _ ∧ _)
  all_goals subst_vars
  all_goals first | (with_reducible assumption) | (simp only [memPart_mk, memPart_fold, State.onDev, State.onDevAs, implies_true, Dev.acked_memPart, Dev.crcError_memPart, Dev.flitOk_memPart]; done) | (simp only [memPart_mk, memPart_fold, State.onDev, State.onDevAs, implies_true, Dev.acked_memPart, Dev.crcError_memPart, Dev.flitOk_memPart]; with_reducible assumption)

theorem execReplayRequest_wf (c : FlitChan) (ok : Bool) (s : State) (hw : s.dev.memPart.wf = true) :
    OutWf (execReplayRequest c ok s) := by
  unfold execReplayRequest
  repeat' first | (with_reducible assumption) | (with_reducible apply State.does_wf) | (with_reducible apply State.doesAs_wf) | (with_reducible apply next_wf) | intro _ | simp only [memPart_mk, memPart_fold, State.onDev, State.onDevAs, implies_true, Dev.acked_memPart, Dev.crcError_memPart, Dev.modDir_memPart, Dev.release_memPart, Dev.replayCount_memPart] | split

theorem execReplayLimit_wf (c : FlitChan) (s : State) (hw : s.dev.memPart.wf = true) :
    OutWf (execReplayLimit c s) := by
  unfold execReplayLimit
  repeat' first | (with_reducible assumption) | (with_reducible apply State.does_wf) | (with_reducible apply State.doesAs_wf) | (with_reducible apply next_wf) | intro _ | simp only [memPart_mk, memPart_fold, State.onDev, State.onDevAs, implies_true, Dev.declareDown_memPart] | split

theorem execLinkSilence_wf (c : FlitChan) (s : State) (hw : s.dev.memPart.wf = true) :
    OutWf (execLinkSilence c s) := by
  unfold execLinkSilence
  repeat' first | (with_reducible assumption) | (with_reducible apply State.does_wf) | (with_reducible apply State.doesAs_wf) | (with_reducible apply next_wf) | intro _ | simp only [memPart_mk, memPart_fold, State.onDev, State.onDevAs, implies_true, Dev.declareDown_memPart, Dev.modLink_memPart] | split

theorem execLinkLoss_wf (l : Fin 5) (s : State) (hw : s.dev.memPart.wf = true) :
    OutWf (execLinkLoss l s) := by
  unfold execLinkLoss
  repeat' first | (with_reducible assumption) | (with_reducible apply State.does_wf) | (with_reducible apply State.doesAs_wf) | (with_reducible apply next_wf) | (with_reducible apply Dev.each_wf) | (with_reducible apply Dev.asInjected_wf) | intro _ | simp only [memPart_mk, memPart_fold, State.onDev, State.onDevAs, implies_true, Dev.asInjected_memPart, Dev.cancelOnDie_memPart, Dev.each_memPart, Dev.logA_memPart, Dev.modLink_memPart, Dev.put_memPart, Dev.putBit_memPart, Dev.set_memPart, Dev.stopReqs_memPart] | split

theorem execRecoveryStart_wf (l : Fin 5) (s : State) (hw : s.dev.memPart.wf = true) :
    OutWf (execRecoveryStart l s) := by
  unfold execRecoveryStart
  try dsimp only
  repeat' first | (with_reducible assumption) | (with_reducible apply State.does_wf) | (with_reducible apply State.doesAs_wf) | (with_reducible apply next_wf) | intro _ | simp only [memPart_mk, memPart_fold, State.onDev, State.onDevAs, implies_true, Dev.leaseReq_memPart, Dev.modLink_memPart, Dev.recoveryBegins_memPart] | split | (show Dev.memPart _ = Dev.memPart _; exact Eq.refl _)
  all_goals (try simp only [Prod.ext_iff] at *)
  all_goals (try casesm* _ ∧ _)
  all_goals subst_vars
  all_goals first | (with_reducible assumption) | (simp only [memPart_mk, memPart_fold, State.onDev, State.onDevAs, implies_true, Dev.leaseReq_memPart, Dev.modLink_memPart, Dev.recoveryBegins_memPart]; done) | (simp only [memPart_mk, memPart_fold, State.onDev, State.onDevAs, implies_true, Dev.leaseReq_memPart, Dev.modLink_memPart, Dev.recoveryBegins_memPart]; with_reducible assumption)

theorem execTrainingAttemptEnd_wf (l : Fin 5) (ok : Bool) (spares : List (Nat × Nat)) (s : State) (hw : s.dev.memPart.wf = true) :
    OutWf (execTrainingAttemptEnd l ok spares s) := by
  unfold execTrainingAttemptEnd
  repeat' first | (with_reducible assumption) | (with_reducible apply State.does_wf) | (with_reducible apply State.doesAs_wf) | (with_reducible apply next_wf) | intro _ | simp only [memPart_mk, memPart_fold, State.onDev, State.onDevAs, implies_true, Dev.linkBack_memPart, Dev.linkTrained_memPart, Dev.logA_memPart, Dev.modLink_memPart, Dev.recoveryEnds_memPart, Dev.set_memPart, Dev.showRecovery_memPart, Dev.unrecoverable_memPart] | split

theorem execGuestLegTrainingDone_wf (a : BitVec 4) (b : BitVec 4) (s : State) (hw : s.dev.memPart.wf = true) :
    OutWf (execGuestLegTrainingDone a b s) := by
  unfold execGuestLegTrainingDone
  repeat' first | (with_reducible assumption) | (with_reducible apply State.does_wf) | (with_reducible apply State.doesAs_wf) | (with_reducible apply next_wf) | intro _ | simp only [memPart_mk, memPart_fold, State.onDev, State.onDevAs, implies_true, Dev.freshDirs_memPart, Dev.isolate_memPart, Dev.leaseDrop_memPart, Dev.logA_memPart, Dev.put_memPart] | split

theorem execDieStateEntry_wf (n : Die) (s : State) (hw : s.dev.memPart.wf = true) :
    OutWf (execDieStateEntry n s) := by
  unfold execDieStateEntry
  repeat' first | (with_reducible assumption) | (with_reducible apply State.does_wf) | (with_reducible apply State.doesAs_wf) | (with_reducible apply next_wf) | intro _ | simp only [memPart_mk, memPart_fold, State.onDev, State.onDevAs, implies_true, Dev.set_memPart] | split

theorem execWakeStart_wf (n : Die) (s : State) (hw : s.dev.memPart.wf = true) :
    OutWf (execWakeStart n s) := by
  unfold execWakeStart
  repeat' first | (with_reducible assumption) | (with_reducible apply State.does_wf) | (with_reducible apply State.doesAs_wf) | (with_reducible apply next_wf) | intro _ | simp only [memPart_mk, memPart_fold, State.onDev, State.onDevAs, implies_true, Dev.wakeDie_memPart] | split

theorem execWakeEnd_wf (n : Die) (ns : BitVec 23) (s : State) (hw : s.dev.memPart.wf = true) :
    OutWf (execWakeEnd n ns s) := by
  unfold execWakeEnd
  repeat' first | (with_reducible assumption) | (with_reducible apply State.does_wf) | (with_reducible apply State.doesAs_wf) | (with_reducible apply next_wf) | intro _ | simp only [memPart_mk, memPart_fold, State.onDev, State.onDevAs, implies_true, Dev.put_memPart, Dev.set_memPart] | split

theorem execTelemetryFrame_wf (src : Fin 5) (f : Frame) (s : State) (hw : s.dev.memPart.wf = true) :
    OutWf (execTelemetryFrame src f s) := by
  unfold execTelemetryFrame
  repeat' first | (with_reducible assumption) | (with_reducible apply State.does_wf) | (with_reducible apply State.doesAs_wf) | (with_reducible apply next_wf) | intro _ | simp only [memPart_mk, memPart_fold, State.onDev, State.onDevAs, implies_true, Dev.putBit_memPart, Dev.railsSeen_memPart, Dev.sensors_memPart, Dev.set_memPart, Dev.staleSeen_memPart] | split

theorem execTelemetryTimeout_wf (src : Fin 5) (s : State) (hw : s.dev.memPart.wf = true) :
    OutWf (execTelemetryTimeout src s) := by
  unfold execTelemetryTimeout
  repeat' first | (with_reducible assumption) | (with_reducible apply State.does_wf) | (with_reducible apply State.doesAs_wf) | (with_reducible apply next_wf) | intro _ | simp only [memPart_mk, memPart_fold, State.onDev, State.onDevAs, implies_true, Dev.putBit_memPart] | split

theorem execDeskewSweepDue_wf (n : Die) (grp : Fin 4) (s : State) (hw : s.dev.memPart.wf = true) :
    OutWf (execDeskewSweepDue n grp s) := by
  unfold execDeskewSweepDue
  repeat' first | (with_reducible assumption) | (with_reducible apply State.does_wf) | (with_reducible apply State.doesAs_wf) | (with_reducible apply next_wf) | intro _ | simp only [memPart_mk, memPart_fold, State.onDev, State.onDevAs, implies_true, Dev.sweepReq_memPart] | split

theorem execLinkedCopyPlacement_wf (e : Fin 256) (s : State) (hw : s.dev.memPart.wf = true) :
    OutWf (execLinkedCopyPlacement e s) := by
  unfold execLinkedCopyPlacement
  try dsimp only
  repeat' first | (with_reducible assumption) | (with_reducible apply State.does_wf) | (with_reducible apply State.doesAs_wf) | (with_reducible apply next_wf) | intro _ | simp only [memPart_mk, memPart_fold, State.onDev, State.onDevAs, implies_true, Dev.schedEnd_memPart, Dev.schedLog_memPart] | split | (show Dev.memPart _ = Dev.memPart _; exact Eq.refl _)
  all_goals (try have hI0 := Dev.placeAll_memPart _ _ _ _ ‹_›)
  all_goals (try simp only [Prod.ext_iff] at *)
  all_goals (try casesm* _ ∧ _)
  all_goals subst_vars
  all_goals first | (with_reducible assumption) | (simp only [memPart_mk, memPart_fold, State.onDev, State.onDevAs, implies_true, Dev.schedEnd_memPart, Dev.schedLog_memPart]; done) | (simp only [memPart_mk, memPart_fold, State.onDev, State.onDevAs, implies_true, Dev.schedEnd_memPart, Dev.schedLog_memPart]; with_reducible assumption) | (simp only [memPart_mk, memPart_fold, State.onDev, State.onDevAs, implies_true, Dev.schedEnd_memPart, Dev.schedLog_memPart, hI0]; done) | (simp only [memPart_mk, memPart_fold, State.onDev, State.onDevAs, implies_true, Dev.schedEnd_memPart, Dev.schedLog_memPart, hI0]; with_reducible assumption)

theorem execSiteStartHit_wf (e : Fin 256) (s : State) (hw : s.dev.memPart.wf = true) : OutWf (execSiteStartHit e s) := by
  unfold execSiteStartHit
  dsimp only
  split
  · exact State.does_wf _ _ hw
  · apply State.doesAs_wf
    refine (congrArg MemPart.wf (State.judge_memPart _ _ _ _ _ _ _ _ ?_ ?_ ?_)).trans hw
    · intro d; simp only [Dev.startSite_memPart, Dev.schedEnd_memPart]
    · intro d
      repeat' split
      all_goals first
        | rfl
        | simp only [Dev.logB_memPart, Dev.schedLog_memPart, Dev.schedEnd_memPart]
    · intro d
      refine (Dev.each_memPart _ _ _ fun d p => ?_).trans (Dev.schedEnd_memPart _ _ _ _ _)
      exact Dev.schedMark_memPart _ _ _ _ _

theorem execSiteStopHit_wf (e : Fin 256) (s : State) (hw : s.dev.memPart.wf = true) :
    OutWf (execSiteStopHit e s) := by
  unfold execSiteStopHit
  repeat' first | (with_reducible assumption) | (with_reducible apply State.does_wf) | (with_reducible apply State.doesAs_wf) | (with_reducible apply next_wf) | intro _ | simp only [memPart_mk, memPart_fold, State.onDev, State.onDevAs, implies_true, Dev.schedEnd_memPart, Dev.stopReq_memPart] | split

theorem execEventHit_wf (n : Die) (e : Fin 256) (s : State) (hw : s.dev.memPart.wf = true) :
    OutWf (execEventHit n e s) := by
  unfold execEventHit
  repeat' first | (with_reducible assumption) | (with_reducible apply State.does_wf) | (with_reducible apply State.doesAs_wf) | (with_reducible apply next_wf) | intro _ | simp only [memPart_mk, memPart_fold, State.onDev, State.onDevAs, implies_true, Dev.arrive_memPart, Dev.schedEnd_memPart] | split

theorem execPdStartHit_wf (n : Die) (e : Fin 256) (s : State) (hw : s.dev.memPart.wf = true) :
    OutWf (execPdStartHit n e s) := by
  unfold execPdStartHit
  repeat' first | (with_reducible assumption) | (with_reducible apply State.does_wf) | (with_reducible apply State.doesAs_wf) | (with_reducible apply next_wf) | intro _ | simp only [memPart_mk, memPart_fold, State.onDev, State.onDevAs, implies_true, Dev.logBOn_memPart, Dev.pdStart_memPart, Dev.schedEnd_memPart] | split

theorem execTrigOutHit_wf (t : TblId) (e : Fin 256) (s : State) (hw : s.dev.memPart.wf = true) :
    OutWf (execTrigOutHit t e s) := by
  unfold execTrigOutHit
  repeat' first | (with_reducible assumption) | (with_reducible apply State.does_wf) | (with_reducible apply State.doesAs_wf) | (with_reducible apply next_wf) | intro _ | simp only [memPart_mk, memPart_fold, State.onDev, State.onDevAs, implies_true, Dev.logB_memPart, Dev.schedEnd_memPart] | split

theorem execPwrStateHit_wf (t : TblId) (e : Fin 256) (s : State) (hw : s.dev.memPart.wf = true) :
    OutWf (execPwrStateHit t e s) := by
  unfold execPwrStateHit
  repeat' first | (with_reducible assumption) | (with_reducible apply State.does_wf) | (with_reducible apply State.doesAs_wf) | (with_reducible apply next_wf) | intro _ | simp only [memPart_mk, memPart_fold, State.onDev, State.onDevAs, implies_true, Dev.schedEnd_memPart, Dev.set_memPart] | split

theorem execTrigOutPulseEnd_wf (t : TblId) (kind : Fin 2) (line : Fin 64) (s : State) (hw : s.dev.memPart.wf = true) :
    OutWf (execTrigOutPulseEnd t kind line s) := by
  unfold execTrigOutPulseEnd
  repeat' first | (with_reducible assumption) | (with_reducible apply State.does_wf) | (with_reducible apply State.doesAs_wf) | (with_reducible apply next_wf) | intro _ | simp only [memPart_mk, memPart_fold, State.onDev, State.onDevAs, implies_true] | split

theorem execAdmissionEnd_wf (i : SiteId) (s : State) (hw : s.dev.memPart.wf = true) :
    OutWf (execAdmissionEnd i s) := by
  unfold execAdmissionEnd
  try dsimp only
  repeat' first | (with_reducible assumption) | (with_reducible apply State.does_wf) | (with_reducible apply State.doesAs_wf) | (with_reducible apply next_wf) | intro _ | simp only [memPart_mk, memPart_fold, State.onDev, State.onDevAs, implies_true, Dev.admJudge_memPart, Dev.admOver_memPart, Dev.bistYield_memPart, Dev.admitted_memPart, Dev.logB_memPart, Dev.set_memPart] | split | (show Dev.memPart _ = Dev.memPart _; exact Eq.refl _)
  all_goals (try simp only [Prod.ext_iff] at *)
  all_goals (try casesm* _ ∧ _)
  all_goals subst_vars
  all_goals first | (with_reducible assumption) | (simp only [memPart_mk, memPart_fold, State.onDev, State.onDevAs, implies_true, Dev.admJudge_memPart, Dev.admOver_memPart, Dev.bistYield_memPart, Dev.admitted_memPart, Dev.logB_memPart, Dev.set_memPart]; done) | (simp only [memPart_mk, memPart_fold, State.onDev, State.onDevAs, implies_true, Dev.admJudge_memPart, Dev.admOver_memPart, Dev.bistYield_memPart, Dev.admitted_memPart, Dev.logB_memPart, Dev.set_memPart]; with_reducible assumption)

theorem execGeneralBwBreach_wf (stack : Fin 2) (s : State) (hw : s.dev.memPart.wf = true) :
    OutWf (execGeneralBwBreach stack s) := by
  unfold execGeneralBwBreach
  repeat' first | (with_reducible assumption) | (with_reducible apply State.does_wf) | (with_reducible apply State.doesAs_wf) | (with_reducible apply next_wf) | intro _ | simp only [memPart_mk, memPart_fold, State.onDev, State.onDevAs, implies_true, Dev.breachSampled_memPart] | split

theorem execBreachWaitEnd_wf (res : Fin 3) (persists : Bool) (s : State) (hw : s.dev.memPart.wf = true) :
    OutWf (execBreachWaitEnd res persists s) := by
  unfold execBreachWaitEnd
  repeat' first | (with_reducible assumption) | (with_reducible apply State.does_wf) | (with_reducible apply State.doesAs_wf) | (with_reducible apply next_wf) | intro _ | simp only [memPart_mk, memPart_fold, State.onDev, State.onDevAs, implies_true, Dev.breachSampled_memPart] | split

theorem execPowerUpdate_wf (f : Frame) (s : State) (hw : s.dev.memPart.wf = true) :
    OutWf (execPowerUpdate f s) := by
  unfold execPowerUpdate
  repeat' first | (with_reducible assumption) | (with_reducible apply State.does_wf) | (with_reducible apply State.doesAs_wf) | (with_reducible apply next_wf) | intro _ | simp only [memPart_mk, memPart_fold, State.onDev, State.onDevAs, implies_true, Dev.breachSampled_memPart, Dev.isolate_memPart, Dev.levelSeen_memPart, Dev.logA_memPart, Dev.put_memPart, Dev.railsSeen_memPart, Dev.sensors_memPart, Dev.set_memPart, Dev.wmRecord_memPart] | split

theorem execRockerPassEnd_wf (i : SiteId) (s : State) (hw : s.dev.memPart.wf = true) :
    OutWf (execRockerPassEnd i s) := by
  unfold execRockerPassEnd
  repeat' first | (with_reducible assumption) | (with_reducible apply State.does_wf) | (with_reducible apply State.doesAs_wf) | (with_reducible apply next_wf) | (with_reducible apply Dev.each_wf) | intro _ | simp only [memPart_mk, memPart_fold, State.onDev, State.onDevAs, implies_true, Dev.abortSite_memPart, Dev.each_memPart, Dev.enterRunning_memPart, Dev.modV_memPart, Dev.parkNow_memPart, Dev.put_memPart] | split

theorem Dev.evlPut_wf (d : Dev) (c i : Nat) (x : Stored) (hw : d.memPart.wf = true) :
    (Dev.evlPut d c i x).memPart.wf = true :=
  Dev.memSet_wf _ _ _ _ hw

theorem Dev.evlAppend_wf (d : Dev) (c : Nat) (r : Rec) (hw : d.memPart.wf = true) :
    (Dev.evlAppend d c r).memPart.wf = true := by
  unfold Dev.evlAppend
  repeat' first | (with_reducible assumption) | (with_reducible apply Dev.evlPut_wf) | intro _ | simp only [memPart_mk, memPart_fold, State.onDev, State.onDevAs, implies_true, Dev.adv_memPart] | split

theorem Dev.evlMerge_wf (d : Dev) (c : Nat) (x : Nat × Stored) (r : Rec) (press : Bool) (hw : d.memPart.wf = true) :
    (Dev.evlMerge d c x r press).memPart.wf = true := by
  unfold Dev.evlMerge
  repeat' first | (with_reducible assumption) | (with_reducible apply Dev.evlPut_wf) | intro _ | simp only [memPart_mk, memPart_fold, State.onDev, State.onDevAs, implies_true] | split

theorem Dev.mergeAny_wf (d : Dev) (r : Rec) (hw : d.memPart.wf = true) :
    (Dev.mergeAny d r).memPart.wf = true := by
  unfold Dev.mergeAny
  repeat' first | (with_reducible assumption) | (with_reducible apply Dev.evlMerge_wf) | intro _ | simp only [memPart_mk, memPart_fold, State.onDev, State.onDevAs, implies_true] | split

theorem Dev.storeSpill_wf (d : Dev) (r : Rec) (hw : d.memPart.wf = true) :
    (Dev.storeSpill d r).memPart.wf = true := by
  unfold Dev.storeSpill
  repeat' first | (with_reducible assumption) | (with_reducible apply Dev.evlAppend_wf) | (with_reducible apply Dev.evlMerge_wf) | intro _ | simp only [memPart_mk, memPart_fold, State.onDev, State.onDevAs, implies_true] | split

theorem Dev.storePlain_wf (d : Dev) (r : Rec) (hw : d.memPart.wf = true) :
    (Dev.storePlain d r).memPart.wf = true := by
  unfold Dev.storePlain
  repeat' first | (with_reducible assumption) | (with_reducible apply Dev.evlAppend_wf) | intro _ | simp only [memPart_mk, memPart_fold, State.onDev, State.onDevAs, implies_true, Dev.set_memPart] | split

theorem Dev.storeA_wf (d : Dev) (r : Rec) (hw : d.memPart.wf = true) :
    (Dev.storeA d r).memPart.wf = true := by
  unfold Dev.storeA
  repeat' first | (with_reducible assumption) | (with_reducible apply Dev.evlMerge_wf) | (with_reducible apply Dev.mergeAny_wf) | (with_reducible apply Dev.storePlain_wf) | (with_reducible apply Dev.storeSpill_wf) | intro _ | simp only [memPart_mk, memPart_fold, State.onDev, State.onDevAs, implies_true] | split

theorem Dev.storeGap_wf (d : Dev) (c : Nat) (hw : d.memPart.wf = true) :
    (Dev.storeGap d c).memPart.wf = true := by
  unfold Dev.storeGap
  repeat' first | (with_reducible assumption) | (with_reducible apply Dev.evlAppend_wf) | intro _ | simp only [memPart_mk, memPart_fold, State.onDev, State.onDevAs, implies_true, Dev.notice_memPart, Dev.ringSeen_memPart] | split

theorem Dev.storeRing_wf (d : Dev) (c : Nat) (r : Rec) (hw : d.memPart.wf = true) :
    (Dev.storeRing d c r).memPart.wf = true := by
  unfold Dev.storeRing
  repeat' first | (with_reducible assumption) | (with_reducible apply Dev.evlAppend_wf) | (with_reducible apply Dev.evlMerge_wf) | (with_reducible apply Dev.storeGap_wf) | intro _ | simp only [memPart_mk, memPart_fold, State.onDev, State.onDevAs, implies_true, Dev.lose_memPart, Dev.ringSeen_memPart] | split

theorem Dev.store_wf (d : Dev) (r : Rec) (hw : d.memPart.wf = true) :
    (Dev.store d r).memPart.wf = true := by
  unfold Dev.store
  try dsimp only
  repeat' first | (with_reducible assumption) | (with_reducible apply Dev.storeA_wf) | (with_reducible apply Dev.storeRing_wf) | intro _ | simp only [memPart_mk, memPart_fold, State.onDev, State.onDevAs, implies_true, Dev.reportA_memPart] | split | (show Dev.memPart _ = Dev.memPart _; exact Eq.refl _)
  all_goals (try simp only [Prod.ext_iff] at *)
  all_goals (try casesm* _ ∧ _)
  all_goals subst_vars
  all_goals first | (with_reducible assumption) | (simp only [memPart_mk, memPart_fold, State.onDev, State.onDevAs, implies_true, Dev.reportA_memPart]; done) | (simp only [memPart_mk, memPart_fold, State.onDev, State.onDevAs, implies_true, Dev.reportA_memPart]; with_reducible assumption)

theorem execRecordStore_wf (die : BitVec 3) (unit : BitVec 8) (s : State) (hw : s.dev.memPart.wf = true) :
    OutWf (execRecordStore die unit s) := by
  unfold execRecordStore
  apply State.does_wf
  dsimp only
  have h1 : ∀ r d, s.dev.takeRecord die.toNat unit.toNat = some (r, d) → d.memPart.wf = true := by
    intro r d h
    rw [Dev.takeRecord_memPart _ _ _ _ _ h]; exact hw
  split
  · split
    · next h => exact Dev.store_wf _ _ (h1 _ _ h)
    · exact hw
  · split
    · split
      · next h => rw [Dev.holdRecord_memPart]; exact h1 _ _ h
      · exact hw
    · split
      · next h => exact Dev.store_wf _ _ (by rw [Dev.takeHeld_memPart _ _ _ h]; exact hw)
      · split
        · next h => exact Dev.store_wf _ _ (h1 _ _ h)
        · exact hw

theorem execPllStep_wf (n : Die) (p : Fin 2) (s : State) (hw : s.dev.memPart.wf = true) :
    OutWf (execPllStep n p s) := by
  unfold execPllStep
  repeat' first | (with_reducible assumption) | (with_reducible apply State.does_wf) | (with_reducible apply State.doesAs_wf) | (with_reducible apply next_wf) | (with_reducible apply Dev.each_wf) | intro _ | simp only [memPart_mk, memPart_fold, State.onDev, State.onDevAs, implies_true, Dev.dropStep_memPart, Dev.each_memPart, Dev.set_memPart, Dev.stepMark_memPart] | split

theorem execPllLossOfLock_wf (n : Die) (p : Fin 2) (s : State) (hw : s.dev.memPart.wf = true) :
    OutWf (execPllLossOfLock n p s) := by
  unfold execPllLossOfLock
  repeat' first | (with_reducible assumption) | (with_reducible apply State.does_wf) | (with_reducible apply State.doesAs_wf) | (with_reducible apply next_wf) | intro _ | simp only [memPart_mk, memPart_fold, State.onDev, State.onDevAs, implies_true, Dev.pllsLost_memPart] | split

theorem execRelockDone_wf (n : Die) (a b : Bool) (s : State) (hw : s.dev.memPart.wf = true) :
    OutWf (execRelockDone n a b s) := by
  unfold execRelockDone
  apply State.does_wf
  split
  · exact hw
  · dsimp only
    split
    · next h =>
      split at h
      · have h1 := Dev.diePllsLock_memPart _ _ _ h
        simp only [Dev.set_memPart, Dev.put_memPart, h1, Dev.leaseDrop_memPart, memPart_mk, memPart_fold]
        exact hw
      · cases h
    · simp only [Dev.logAOn_memPart, Dev.put_memPart, Dev.leaseDrop_memPart, memPart_mk, memPart_fold]
      exact hw

theorem execAcquisitionComplete_wf (tti : BitVec 64) (sec : BitVec 40) (tick : BitVec 30) (s : State) (hw : s.dev.memPart.wf = true) :
    OutWf (execAcquisitionComplete tti sec tick s) := by
  unfold execAcquisitionComplete
  repeat' first | (with_reducible assumption) | (with_reducible apply State.does_wf) | (with_reducible apply State.doesAs_wf) | (with_reducible apply next_wf) | intro _ | simp only [memPart_mk, memPart_fold, State.onDev, State.onDevAs, implies_true, Dev.modTime_memPart, Dev.put_memPart, Dev.set_memPart, Dev.timeReloaded_memPart] | split

theorem execRefLost_wf (s : State) (hw : s.dev.memPart.wf = true) :
    OutWf (execRefLost s) := by
  unfold execRefLost
  repeat' first | (with_reducible assumption) | (with_reducible apply State.does_wf) | (with_reducible apply State.doesAs_wf) | (with_reducible apply next_wf) | intro _ | simp only [memPart_mk, memPart_fold, State.onDev, State.onDevAs, implies_true, Dev.refLost_memPart] | split

theorem execReferenceBack_wf (s : State) (hw : s.dev.memPart.wf = true) :
    OutWf (execReferenceBack s) := by
  unfold execReferenceBack
  repeat' first | (with_reducible assumption) | (with_reducible apply State.does_wf) | (with_reducible apply State.doesAs_wf) | (with_reducible apply next_wf) | intro _ | simp only [memPart_mk, memPart_fold, State.onDev, State.onDevAs, implies_true, Dev.modTime_memPart, Dev.put_memPart] | split

theorem execSecondMark_wf (s : State) (hw : s.dev.memPart.wf = true) :
    OutWf (execSecondMark s) := by
  unfold execSecondMark
  repeat' first | (with_reducible assumption) | (with_reducible apply State.does_wf) | (with_reducible apply State.doesAs_wf) | (with_reducible apply next_wf) | intro _ | simp only [memPart_mk, memPart_fold, State.onDev, State.onDevAs, implies_true, Dev.applyMark_memPart] | split

theorem execPortUp_wf (port : Fin 2) (hop : BitVec 20) (s : State) (hw : s.dev.memPart.wf = true) :
    OutWf (execPortUp port hop s) := by
  unfold execPortUp
  repeat' first | (with_reducible assumption) | (with_reducible apply State.does_wf) | (with_reducible apply State.doesAs_wf) | (with_reducible apply next_wf) | intro _ | simp only [memPart_mk, memPart_fold, State.onDev, State.onDevAs, implies_true, Dev.portSet_memPart, Dev.set_memPart] | split

theorem execDownstreamPortDown_wf (s : State) (hw : s.dev.memPart.wf = true) :
    OutWf (execDownstreamPortDown s) := by
  unfold execDownstreamPortDown
  repeat' first | (with_reducible assumption) | (with_reducible apply State.does_wf) | (with_reducible apply State.doesAs_wf) | (with_reducible apply next_wf) | intro _ | simp only [memPart_mk, memPart_fold, State.onDev, State.onDevAs, implies_true, Dev.portSet_memPart] | split

theorem execBlockLockLoss_wf (port : Fin 2) (s : State) (hw : s.dev.memPart.wf = true) :
    OutWf (execBlockLockLoss port s) := by
  unfold execBlockLockLoss
  repeat' first | (with_reducible assumption) | (with_reducible apply State.does_wf) | (with_reducible apply State.doesAs_wf) | (with_reducible apply next_wf) | intro _ | simp only [memPart_mk, memPart_fold, State.onDev, State.onDevAs, implies_true, Dev.blockLockLost_memPart] | split

theorem execTimeFrameSilence_wf (s : State) (hw : s.dev.memPart.wf = true) :
    OutWf (execTimeFrameSilence s) := by
  unfold execTimeFrameSilence
  repeat' first | (with_reducible assumption) | (with_reducible apply State.does_wf) | (with_reducible apply State.doesAs_wf) | (with_reducible apply next_wf) | intro _ | simp only [memPart_mk, memPart_fold, State.onDev, State.onDevAs, implies_true, Dev.holdoverBegins_memPart] | split

theorem execHoldoverDeadline_wf (s : State) (hw : s.dev.memPart.wf = true) :
    OutWf (execHoldoverDeadline s) := by
  unfold execHoldoverDeadline
  repeat' first | (with_reducible assumption) | (with_reducible apply State.does_wf) | (with_reducible apply State.doesAs_wf) | (with_reducible apply next_wf) | intro _ | simp only [memPart_mk, memPart_fold, State.onDev, State.onDevAs, implies_true, Dev.modCas_memPart, Dev.put_memPart, Dev.stopReqs_memPart, Dev.timeLog_memPart, Dev.unsure_memPart] | split

theorem execTimeFrame_wf (port : Fin 2) (f : TimeFrame) (s : State) (hw : s.dev.memPart.wf = true) :
    OutWf (execTimeFrame port f s) := by
  unfold execTimeFrame
  try dsimp only
  repeat' first | (with_reducible assumption) | (with_reducible apply State.does_wf) | (with_reducible apply State.doesAs_wf) | (with_reducible apply next_wf) | (with_reducible apply Dev.asInjected_wf) | intro _ | simp only [memPart_mk, memPart_fold, State.onDev, State.onDevAs, implies_true, Dev.asInjected_memPart, Dev.logA_memPart, Dev.positionSeen_memPart, Dev.put_memPart, Dev.timeSeen_memPart] | split | (refine (congrArg MemPart.wf (Dev.asInjected_memPart _ _ ?_)).trans ?_) | (refine (Dev.asInjected_memPart _ _ ?_).trans ?_) | (show Dev.memPart _ = Dev.memPart _; exact Eq.refl _)
  all_goals (try have hI0 := Dev.inject_memPart _ _ _ _ _ ‹_›)
  all_goals (try simp only [Prod.ext_iff] at *)
  all_goals (try casesm* _ ∧ _)
  all_goals subst_vars
  all_goals first | (with_reducible assumption) | (simp only [memPart_mk, memPart_fold, State.onDev, State.onDevAs, implies_true, Dev.asInjected_memPart, Dev.logA_memPart, Dev.positionSeen_memPart, Dev.put_memPart, Dev.timeSeen_memPart]; done) | (simp only [memPart_mk, memPart_fold, State.onDev, State.onDevAs, implies_true, Dev.asInjected_memPart, Dev.logA_memPart, Dev.positionSeen_memPart, Dev.put_memPart, Dev.timeSeen_memPart]; with_reducible assumption) | (simp only [memPart_mk, memPart_fold, State.onDev, State.onDevAs, implies_true, Dev.asInjected_memPart, Dev.logA_memPart, Dev.positionSeen_memPart, Dev.put_memPart, Dev.timeSeen_memPart, hI0]; done) | (simp only [memPart_mk, memPart_fold, State.onDev, State.onDevAs, implies_true, Dev.asInjected_memPart, Dev.logA_memPart, Dev.positionSeen_memPart, Dev.put_memPart, Dev.timeSeen_memPart, hI0]; with_reducible assumption)

theorem execStringCommandArrival_wf (port : Fin 2) (op : BitVec 3) (pos : BitVec 16) (sites : BitVec 64) (exec : BitVec 64) (s : State) (hw : s.dev.memPart.wf = true) :
    OutWf (execStringCommandArrival port op pos sites exec s) := by
  unfold execStringCommandArrival
  repeat' first | (with_reducible assumption) | (with_reducible apply State.does_wf) | (with_reducible apply State.doesAs_wf) | (with_reducible apply next_wf) | intro _ | simp only [memPart_mk, memPart_fold, State.onDev, State.onDevAs, implies_true, Dev.strQueue_memPart] | split

theorem foldState_memPart {α : Type} (l : List α) (s : State) (g : State → α → State)
    (hg : ∀ s a, (g s a).dev.memPart = s.dev.memPart) : (l.foldl g s).dev.memPart = s.dev.memPart := by
  induction l generalizing s with
  | nil => rfl
  | cons a l ih => exact (ih _).trans (hg _ _)

theorem execStringCommandExec_wf (s : State) (hw : s.dev.memPart.wf = true) : OutWf (execStringCommandExec s) := by
  unfold execStringCommandExec
  dsimp only
  split
  · exact State.does_wf _ _ hw
  · split
    · exact State.does_wf _ _ hw
    · apply State.doesAs_wf
      split
      · refine (congrArg MemPart.wf (foldState_memPart _ _ _ fun s i => State.strSite_memPart _ _ _)).trans ?_
        simp only [State.onDev, Dev.modCas_memPart]
        exact hw
      · simp only [State.onDev, Dev.modCas_memPart, id]
        exact hw

theorem execStatusSlot_wf (s : State) (hw : s.dev.memPart.wf = true) :
    OutWf (execStatusSlot s) := by
  unfold execStatusSlot
  repeat' first | (with_reducible assumption) | (with_reducible apply State.does_wf) | (with_reducible apply State.doesAs_wf) | (with_reducible apply next_wf) | intro _ | simp only [memPart_mk, memPart_fold, State.onDev, State.onDevAs, implies_true, Dev.alarmsSeen_memPart, Dev.modCas_memPart, Dev.slotSeen_memPart] | split

theorem execUpstreamFrame_wf (slots : List (Fin 16 × BitVec 4)) (s : State) (hw : s.dev.memPart.wf = true) :
    OutWf (execUpstreamFrame slots s) := by
  unfold execUpstreamFrame
  repeat' first | (with_reducible assumption) | (with_reducible apply State.does_wf) | (with_reducible apply State.doesAs_wf) | (with_reducible apply next_wf) | (with_reducible apply Dev.each_wf) | intro _ | simp only [memPart_mk, memPart_fold, State.onDev, State.onDevAs, implies_true, Dev.alarmsSeen_memPart, Dev.each_memPart, Dev.modCas_memPart, Dev.slotSeen_memPart] | split

theorem execFollowerAbsent_wf (p : Fin 16) (s : State) (hw : s.dev.memPart.wf = true) :
    OutWf (execFollowerAbsent p s) := by
  unfold execFollowerAbsent
  repeat' first | (with_reducible assumption) | (with_reducible apply State.does_wf) | (with_reducible apply State.doesAs_wf) | (with_reducible apply next_wf) | intro _ | simp only [memPart_mk, memPart_fold, State.onDev, State.onDevAs, implies_true, Dev.alarmsSeen_memPart, Dev.logA_memPart, Dev.modCas_memPart, Dev.originate_memPart, Dev.put_memPart, Dev.putBit_memPart] | split

theorem execCfgPortWrite_wf (m : Master) (bytes : List Byte) (s : State) (hw : s.dev.memPart.wf = true) :
    OutWf (execCfgPortWrite m bytes s) := by
  unfold execCfgPortWrite
  repeat' first | (with_reducible assumption) | (with_reducible apply State.does_wf) | (with_reducible apply State.doesAs_wf) | (with_reducible apply next_wf) | intro _ | simp only [memPart_mk, memPart_fold, State.onDev, State.onDevAs, implies_true, Dev.portWrite_memPart] | split

theorem execStream_wf (bytes : List Byte) (s : State) (hw : s.dev.memPart.wf = true) :
    OutWf (execStream bytes s) := by
  unfold execStream
  repeat' first | (with_reducible assumption) | (with_reducible apply State.does_wf) | (with_reducible apply State.doesAs_wf) | (with_reducible apply next_wf) | intro _ | simp only [memPart_mk, memPart_fold, State.onDev, State.onDevAs, implies_true, Dev.streamBytes_memPart] | split

theorem execStreamHeader_wf (s : State) (hw : s.dev.memPart.wf = true) :
    OutWf (execStreamHeader s) := by
  unfold execStreamHeader
  repeat' first | (with_reducible assumption) | (with_reducible apply State.does_wf) | (with_reducible apply State.doesAs_wf) | (with_reducible apply next_wf) | intro _ | simp only [memPart_mk, memPart_fold, State.onDev, State.onDevAs, implies_true, Dev.modLdr_memPart, Dev.streamRefuse_memPart] | split

theorem execBlockHeader_wf (s : State) (hw : s.dev.memPart.wf = true) :
    OutWf (execBlockHeader s) := by
  unfold execBlockHeader
  repeat' first | (with_reducible assumption) | (with_reducible apply State.does_wf) | (with_reducible apply State.doesAs_wf) | (with_reducible apply next_wf) | intro _ | simp only [memPart_mk, memPart_fold, State.onDev, State.onDevAs, implies_true, Dev.skipBlock_memPart, Dev.takeBlock_memPart] | split

theorem execPad_wf (s : State) (hw : s.dev.memPart.wf = true) :
    OutWf (execPad s) := by
  unfold execPad
  repeat' first | (with_reducible assumption) | (with_reducible apply State.does_wf) | (with_reducible apply State.doesAs_wf) | (with_reducible apply next_wf) | intro _ | simp only [memPart_mk, memPart_fold, State.onDev, State.onDevAs, implies_true, Dev.blockRefuse_memPart, Dev.bodyTake_memPart] | split

theorem execSetDevid_wf (s : State) (hw : s.dev.memPart.wf = true) : OutWf (execSetDevid s) := by
  unfold execSetDevid
  apply State.does_wf
  refine (congrArg MemPart.wf (Dev.setPacket_memPart _ _ _ fun d a b => ?_)).trans hw
  try dsimp only
  repeat' split
  all_goals simp only [Dev.bodyTake_memPart, Dev.modBlk_memPart, Dev.blockRefuse_memPart, Dev.set_memPart, Dev.put_memPart, Dev.putBit_memPart, Dev.completeUpdate_memPart, memPart_mk, memPart_fold]

theorem execSetCtlmask_wf (s : State) (hw : s.dev.memPart.wf = true) :
    OutWf (execSetCtlmask s) := by
  unfold execSetCtlmask
  repeat' first | (with_reducible assumption) | (with_reducible apply State.does_wf) | (with_reducible apply State.doesAs_wf) | (with_reducible apply next_wf) | intro _ | simp only [memPart_mk, memPart_fold, State.onDev, State.onDevAs, implies_true, Dev.bodyTake_memPart, Dev.modBlk_memPart, Dev.setPacket_memPart] | split

theorem execSetDiectl_wf (s : State) (hw : s.dev.memPart.wf = true) : OutWf (execSetDiectl s) := by
  unfold execSetDiectl
  apply State.does_wf
  refine (congrArg MemPart.wf (Dev.setPacket_memPart _ _ _ fun d a b => ?_)).trans hw
  try dsimp only
  repeat' split
  all_goals simp only [Dev.bodyTake_memPart, Dev.modBlk_memPart, Dev.blockRefuse_memPart, Dev.set_memPart, Dev.put_memPart, Dev.putBit_memPart, Dev.completeUpdate_memPart, memPart_mk, memPart_fold]

theorem setDiepwr_memPart (d : Dev) (n v : Nat) : ((({ d.set (K.CFG_FAB_PWR n) v with fab := { (d.set (K.CFG_FAB_PWR n) v).fab with
    declared := setBitAt (d.set (K.CFG_FAB_PWR n) v).fab.declared n } } : Dev).modBlk fun b => { b with
    pwr := setBitAt b.pwr n }).completeUpdate n |>.bodyTake 8).memPart = d.memPart := by
  rw [Dev.bodyTake_memPart, Dev.completeUpdate_memPart, Dev.modBlk_memPart, memPart_mk, memPart_fold, Dev.set_memPart]

theorem execSetDiepwr_wf (s : State) (hw : s.dev.memPart.wf = true) : OutWf (execSetDiepwr s) := by
  unfold execSetDiepwr
  apply State.does_wf
  refine (congrArg MemPart.wf (Dev.setPacket_memPart _ _ _ fun d a b => ?_)).trans hw
  split
  · exact Dev.blockRefuse_memPart _ _
  · split
    · exact Dev.blockRefuse_memPart _ _
    · with_reducible exact setDiepwr_memPart d a b

theorem execFrames_wf (s : State) (hw : s.dev.memPart.wf = true) :
    OutWf (execFrames s) := by
  unfold execFrames
  repeat' first | (with_reducible assumption) | (with_reducible apply State.does_wf) | (with_reducible apply State.doesAs_wf) | (with_reducible apply next_wf) | intro _ | simp only [memPart_mk, memPart_fold, State.onDev, State.onDevAs, implies_true, Dev.framesGo_memPart, Dev.framesStart_memPart] | split

theorem execRepeatPacket_wf (s : State) (hw : s.dev.memPart.wf = true) :
    OutWf (execRepeatPacket s) := by
  unfold execRepeatPacket
  repeat' first | (with_reducible assumption) | (with_reducible apply State.does_wf) | (with_reducible apply State.doesAs_wf) | (with_reducible apply next_wf) | intro _ | simp only [memPart_mk, memPart_fold, State.onDev, State.onDevAs, implies_true, Dev.fillPacket_memPart] | split

theorem execClearPacket_wf (s : State) (hw : s.dev.memPart.wf = true) :
    OutWf (execClearPacket s) := by
  unfold execClearPacket
  repeat' first | (with_reducible assumption) | (with_reducible apply State.does_wf) | (with_reducible apply State.doesAs_wf) | (with_reducible apply next_wf) | intro _ | simp only [memPart_mk, memPart_fold, State.onDev, State.onDevAs, implies_true, Dev.fillPacket_memPart] | split

theorem execReservedPacket_wf (s : State) (hw : s.dev.memPart.wf = true) :
    OutWf (execReservedPacket s) := by
  unfold execReservedPacket
  repeat' first | (with_reducible assumption) | (with_reducible apply State.does_wf) | (with_reducible apply State.doesAs_wf) | (with_reducible apply next_wf) | intro _ | simp only [memPart_mk, memPart_fold, State.onDev, State.onDevAs, implies_true, Dev.blockRefuse_memPart] | split

theorem execBlockTag_wf (s : State) (hw : s.dev.memPart.wf = true) :
    OutWf (execBlockTag s) := by
  unfold execBlockTag
  repeat' first | (with_reducible assumption) | (with_reducible apply State.does_wf) | (with_reducible apply State.doesAs_wf) | (with_reducible apply next_wf) | intro _ | simp only [memPart_mk, memPart_fold, State.onDev, State.onDevAs, implies_true, Dev.blockRefuse_memPart, Dev.modLdr_memPart] | split

theorem execStreamEnd_wf (s : State) (hw : s.dev.memPart.wf = true) :
    OutWf (execStreamEnd s) := by
  unfold execStreamEnd
  repeat' first | (with_reducible assumption) | (with_reducible apply State.does_wf) | (with_reducible apply State.doesAs_wf) | (with_reducible apply next_wf) | intro _ | simp only [memPart_mk, memPart_fold, State.onDev, State.onDevAs, implies_true, Dev.modLdr_memPart, Dev.skipBlock_memPart, Dev.streamRefuse_memPart] | split

theorem execStreamCrc_wf (s : State) (hw : s.dev.memPart.wf = true) :
    OutWf (execStreamCrc s) := by
  unfold execStreamCrc
  repeat' first | (with_reducible assumption) | (with_reducible apply State.does_wf) | (with_reducible apply State.doesAs_wf) | (with_reducible apply next_wf) | intro _ | simp only [memPart_mk, memPart_fold, State.onDev, State.onDevAs, implies_true, Dev.modLdr_memPart, Dev.streamAccept_memPart, Dev.streamRefuse_memPart] | split

theorem execCfgTimeout_wf (s : State) (hw : s.dev.memPart.wf = true) :
    OutWf (execCfgTimeout s) := by
  unfold execCfgTimeout
  repeat' first | (with_reducible assumption) | (with_reducible apply State.does_wf) | (with_reducible apply State.doesAs_wf) | (with_reducible apply next_wf) | intro _ | simp only [memPart_mk, memPart_fold, State.onDev, State.onDevAs, implies_true, Dev.blockRefuse_memPart] | split

theorem execRevertDone_wf (s : State) (hw : s.dev.memPart.wf = true) :
    OutWf (execRevertDone s) := by
  unfold execRevertDone
  repeat' first | (with_reducible assumption) | (with_reducible apply State.does_wf) | (with_reducible apply State.doesAs_wf) | (with_reducible apply next_wf) | intro _ | simp only [memPart_mk, memPart_fold, State.onDev, State.onDevAs, implies_true, Dev.put_memPart] | split

theorem execClaimRelease_wf (s : State) (hw : s.dev.memPart.wf = true) :
    OutWf (execClaimRelease s) := by
  unfold execClaimRelease
  repeat' first | (with_reducible assumption) | (with_reducible apply State.does_wf) | (with_reducible apply State.doesAs_wf) | (with_reducible apply next_wf) | intro _ | simp only [memPart_mk, memPart_fold, State.onDev, State.onDevAs, implies_true, Dev.modLdr_memPart, Dev.put_memPart, Dev.set_memPart] | split

theorem execVbatRetentionLoss_wf (s : State) (hw : s.dev.memPart.wf = true) :
    OutWf (execVbatRetentionLoss s) := by
  unfold execVbatRetentionLoss
  repeat' first | (with_reducible assumption) | (with_reducible apply State.does_wf) | (with_reducible apply State.doesAs_wf) | (with_reducible apply next_wf) | intro _ | simp only [memPart_mk, memPart_fold, State.onDev, State.onDevAs, implies_true, Dev.keyErase_memPart] | split

theorem execKeyStoreTemperature_wf (s : State) (hw : s.dev.memPart.wf = true) :
    OutWf (execKeyStoreTemperature s) := by
  unfold execKeyStoreTemperature
  repeat' first | (with_reducible assumption) | (with_reducible apply State.does_wf) | (with_reducible apply State.doesAs_wf) | (with_reducible apply next_wf) | intro _ | simp only [memPart_mk, memPart_fold, State.onDev, State.onDevAs, implies_true, Dev.keyErase_memPart] | split

end Sys2Proof.Machine
end

