-- ==== Sys2Proof/Laws/MemWf2.lean ====
section
/-! SUPPORT. The memory's canonical form, part 3 of 5: every function of the model that changes the memory part
keeps `MemPart.wf` (lemma `F_wf`), and every command's meaning answers only states that keep it
(lemma `execX_wf`, stated with `OutWf`). -/

set_option linter.all false

namespace Sys2Proof.Machine
theorem execCfgiOpen_wf (n : Die) (data : Word) (s : State) (hw : s.dev.memPart.wf = true) :
    OutWf (execCfgiOpen n data s) := by
  unfold execCfgiOpen
  repeat' first | (with_reducible assumption) | (with_reducible apply State.does_wf) | (with_reducible apply State.doesAs_wf) | (with_reducible apply next_wf) | intro _ | simp only [memPart_mk, memPart_fold, State.onDev, State.onDevAs, implies_true, Dev.cfgiOpen_memPart] | split

theorem execCfgiData_wf (n : Die) (w : Word) (s : State) (hw : s.dev.memPart.wf = true) :
    OutWf (execCfgiData n w s) := by
  unfold execCfgiData
  repeat' first | (with_reducible assumption) | (with_reducible apply State.does_wf) | (with_reducible apply State.doesAs_wf) | (with_reducible apply next_wf) | intro _ | simp only [memPart_mk, memPart_fold, State.onDev, State.onDevAs, implies_true, Dev.cfgiData_memPart, Dev.completeUpdate_memPart] | split

theorem execCfgiClose_wf (n : Die) (crc : Word) (s : State) (hw : s.dev.memPart.wf = true) :
    OutWf (execCfgiClose n crc s) := by
  unfold execCfgiClose
  repeat' first | (with_reducible assumption) | (with_reducible apply State.does_wf) | (with_reducible apply State.doesAs_wf) | (with_reducible apply next_wf) | intro _ | simp only [memPart_mk, memPart_fold, State.onDev, State.onDevAs, implies_true, Dev.cfgiClose_memPart] | split

theorem execCfgiAbort_wf (n : Die) (s : State) (hw : s.dev.memPart.wf = true) :
    OutWf (execCfgiAbort n s) := by
  unfold execCfgiAbort
  repeat' first | (with_reducible assumption) | (with_reducible apply State.does_wf) | (with_reducible apply State.doesAs_wf) | (with_reducible apply next_wf) | intro _ | simp only [memPart_mk, memPart_fold, State.onDev, State.onDevAs, implies_true, Dev.cfgiFail_memPart, Dev.cfgiSequence_memPart] | split

theorem execPrReloadDone_wf (n : Die) (s : State) (hw : s.dev.memPart.wf = true) :
    OutWf (execPrReloadDone n s) := by
  unfold execPrReloadDone
  repeat' first | (with_reducible assumption) | (with_reducible apply State.does_wf) | (with_reducible apply State.doesAs_wf) | (with_reducible apply next_wf) | intro _ | simp only [memPart_mk, memPart_fold, State.onDev, State.onDevAs, implies_true, Dev.bump_memPart, Dev.dropCfgi_memPart, Dev.leaseRelease_memPart, Dev.logBOn_memPart, Dev.prErr_memPart, Dev.set_memPart, Dev.setBorder_memPart] | split

theorem execPrBlankDone_wf (n : Die) (s : State) (hw : s.dev.memPart.wf = true) :
    OutWf (execPrBlankDone n s) := by
  unfold execPrBlankDone
  repeat' first | (with_reducible assumption) | (with_reducible apply State.does_wf) | (with_reducible apply State.doesAs_wf) | (with_reducible apply next_wf) | intro _ | simp only [memPart_mk, memPart_fold, State.onDev, State.onDevAs, implies_true, Dev.dropCfgi_memPart, Dev.framesBlank_memPart, Dev.leaseDrop_memPart, Dev.logBOn_memPart, Dev.prErr_memPart, Dev.set_memPart] | split

theorem execScrubPassStart_wf (n : Die) (s : State) (hw : s.dev.memPart.wf = true) :
    OutWf (execScrubPassStart n s) := by
  unfold execScrubPassStart
  repeat' first | (with_reducible assumption) | (with_reducible apply State.does_wf) | (with_reducible apply State.doesAs_wf) | (with_reducible apply next_wf) | intro _ | simp only [memPart_mk, memPart_fold, State.onDev, State.onDevAs, implies_true, Dev.put_memPart, Dev.scrubFrom_memPart] | split

theorem execScrubColumnDone_wf (n : Die) (flips : List (BitVec 10 × BitVec 13)) (mapFail : Bool) (s : State) (hw : s.dev.memPart.wf = true) :
    OutWf (execScrubColumnDone n flips mapFail s) := by
  unfold execScrubColumnDone
  repeat' first | (with_reducible assumption) | (with_reducible apply State.does_wf) | (with_reducible apply State.doesAs_wf) | (with_reducible apply next_wf) | (with_reducible apply Dev.each_wf) | intro _ | simp only [memPart_mk, memPart_fold, State.onDev, State.onDevAs, implies_true, Dev.each_memPart, Dev.flipBit_memPart, Dev.leaseRelease_memPart, Dev.scrubColumn_memPart, Dev.scrubEnd_memPart, Dev.scrubFrom_memPart] | split

theorem Dev.opDone_wf (d : Dev) (c : FCall) (hw : d.memPart.wf = true) :
    (Dev.opDone d c).memPart.wf = true := by
  unfold Dev.opDone
  repeat' first | (with_reducible assumption) | (with_reducible apply Dev.flashPuts_wf) | (with_reducible apply Dev.sectorErase_wf) | intro _ | simp only [memPart_mk, memPart_fold, State.onDev, State.onDevAs, implies_true, Dev.adv_memPart] | split

theorem execFlashOperationEnd_wf (s : State) (hw : s.dev.memPart.wf = true) :
    OutWf (execFlashOperationEnd s) := by
  unfold execFlashOperationEnd
  repeat' first | (with_reducible assumption) | (with_reducible apply State.does_wf) | (with_reducible apply State.doesAs_wf) | (with_reducible apply next_wf) | (with_reducible apply Dev.opDone_wf) | intro _ | simp only [memPart_mk, memPart_fold, State.onDev, State.onDevAs, implies_true, Dev.callEnd_memPart, Dev.opBegin_memPart, Dev.put_memPart, Dev.set_memPart, Dev.setCall_memPart] | split

theorem execOpTimeout_wf (s : State) (hw : s.dev.memPart.wf = true) :
    OutWf (execOpTimeout s) := by
  unfold execOpTimeout
  repeat' first | (with_reducible assumption) | (with_reducible apply State.does_wf) | (with_reducible apply State.doesAs_wf) | (with_reducible apply next_wf) | (with_reducible apply Dev.sectorLost_wf) | intro _ | simp only [memPart_mk, memPart_fold, State.onDev, State.onDevAs, implies_true, Dev.callEnd_memPart, Dev.logA_memPart, Dev.put_memPart] | split

theorem Dev.flashInterrupt_wf (d : Dev) (hw : d.memPart.wf = true) :
    (Dev.flashInterrupt d).memPart.wf = true := by
  unfold Dev.flashInterrupt
  repeat' first | (with_reducible assumption) | (with_reducible apply Dev.sectorLost_wf) | intro _ | simp only [memPart_mk, memPart_fold, State.onDev, State.onDevAs, implies_true] | split

theorem execIfFlashRead_wf (off : BitVec 24) (ecc : Fin 3) (s : State) (hw : s.dev.memPart.wf = true) :
    OutWf (execIfFlashRead off ecc s) := by
  unfold execIfFlashRead
  try dsimp only
  repeat' first | (with_reducible assumption) | (with_reducible apply State.does_wf) | (with_reducible apply State.doesAs_wf) | (with_reducible apply next_wf) | intro _ | simp only [memPart_mk, memPart_fold, State.onDev, State.onDevAs, implies_true, Dev.flashDone_memPart, Dev.flashEcc_memPart, Dev.freeVal_memPart, Dev.xoRead_memPart] | split | (show Dev.memPart _ = Dev.memPart _; exact Eq.refl _)
  all_goals (try simp only [Prod.ext_iff] at *)
  all_goals (try casesm* _ ∧ _)
  all_goals subst_vars
  all_goals first | (with_reducible assumption) | (simp only [memPart_mk, memPart_fold, State.onDev, State.onDevAs, implies_true, Dev.flashDone_memPart, Dev.flashEcc_memPart, Dev.freeVal_memPart, Dev.xoRead_memPart]; done) | (simp only [memPart_mk, memPart_fold, State.onDev, State.onDevAs, implies_true, Dev.flashDone_memPart, Dev.flashEcc_memPart, Dev.freeVal_memPart, Dev.xoRead_memPart]; with_reducible assumption)

theorem execMsixUnmask_wf (v : BitVec 6) (s : State) (hw : s.dev.memPart.wf = true) :
    OutWf (execMsixUnmask v s) := by
  unfold execMsixUnmask
  repeat' first | (with_reducible assumption) | (with_reducible apply State.does_wf) | (with_reducible apply State.doesAs_wf) | (with_reducible apply next_wf) | intro _ | simp only [memPart_mk, memPart_fold, State.onDev, State.onDevAs, implies_true, Dev.msixSet_memPart] | split

theorem execConfigRequest_wf (f : Fin 3) (r : CfgReq) (s : State) (hw : s.dev.memPart.wf = true) :
    OutWf (execConfigRequest f r s) := by
  unfold execConfigRequest
  repeat' first | (with_reducible assumption) | (with_reducible apply State.does_wf) | (with_reducible apply State.doesAs_wf) | (with_reducible apply next_wf) | intro _ | simp only [memPart_mk, memPart_fold, State.onDev, State.onDevAs, implies_true, Dev.msixSet_memPart, Dev.set_memPart] | split

theorem execPcieLinkDown_wf (s : State) (hw : s.dev.memPart.wf = true) :
    OutWf (execPcieLinkDown s) := by
  unfold execPcieLinkDown
  repeat' first | (with_reducible assumption) | (with_reducible apply State.does_wf) | (with_reducible apply State.doesAs_wf) | (with_reducible apply next_wf) | intro _ | simp only [memPart_mk, memPart_fold, State.onDev, State.onDevAs, implies_true, Dev.hostReset_memPart] | split

theorem execHotReset_wf (s : State) (hw : s.dev.memPart.wf = true) :
    OutWf (execHotReset s) := by
  unfold execHotReset
  repeat' first | (with_reducible assumption) | (with_reducible apply State.does_wf) | (with_reducible apply State.doesAs_wf) | (with_reducible apply next_wf) | intro _ | simp only [memPart_mk, memPart_fold, State.onDev, State.onDevAs, implies_true, Dev.hostReset_memPart] | split

theorem execPfFlr_wf (s : State) (hw : s.dev.memPart.wf = true) :
    OutWf (execPfFlr s) := by
  unfold execPfFlr
  repeat' first | (with_reducible assumption) | (with_reducible apply State.does_wf) | (with_reducible apply State.doesAs_wf) | (with_reducible apply next_wf) | intro _ | simp only [memPart_mk, memPart_fold, State.onDev, State.onDevAs, implies_true, Dev.hostReset_memPart] | split

theorem execPcieLinkUp_wf (speed : Fin 5) (width : Fin 5) (s : State) (hw : s.dev.memPart.wf = true) :
    OutWf (execPcieLinkUp speed width s) := by
  unfold execPcieLinkUp
  repeat' first | (with_reducible assumption) | (with_reducible apply State.does_wf) | (with_reducible apply State.doesAs_wf) | (with_reducible apply next_wf) | intro _ | simp only [memPart_mk, memPart_fold, State.onDev, State.onDevAs, implies_true, Dev.put_memPart, Dev.set_memPart] | split

theorem execVfFlr_wf (v : Fin 2) (s : State) (hw : s.dev.memPart.wf = true) :
    OutWf (execVfFlr v s) := by
  unfold execVfFlr
  repeat' first | (with_reducible assumption) | (with_reducible apply State.does_wf) | (with_reducible apply State.doesAs_wf) | (with_reducible apply next_wf) | (with_reducible apply Dev.each_wf) | intro _ | simp only [memPart_mk, memPart_fold, State.onDev, State.onDevAs, implies_true, Dev.each_memPart, Dev.put_memPart] | split

theorem execFlashBarRead_wf (off : BitVec 24) (n : BitVec 4) (ecc : Fin 3) (s : State) (hw : s.dev.memPart.wf = true) :
    OutWf (execFlashBarRead off n ecc s) := by
  unfold execFlashBarRead
  try dsimp only
  repeat' first | (with_reducible assumption) | (with_reducible apply State.does_wf) | (with_reducible apply State.doesAs_wf) | (with_reducible apply next_wf) | intro _ | simp only [memPart_mk, memPart_fold, State.onDev, State.onDevAs, implies_true, Dev.flashDone_memPart, Dev.flashEcc_memPart, Dev.put_memPart, Dev.xoRead_memPart] | split | (show Dev.memPart _ = Dev.memPart _; exact Eq.refl _)
  all_goals (try simp only [Prod.ext_iff] at *)
  all_goals (try casesm* _ ∧ _)
  all_goals subst_vars
  all_goals first | (with_reducible assumption) | (simp only [memPart_mk, memPart_fold, State.onDev, State.onDevAs, implies_true, Dev.flashDone_memPart, Dev.flashEcc_memPart, Dev.put_memPart, Dev.xoRead_memPart]; done) | (simp only [memPart_mk, memPart_fold, State.onDev, State.onDevAs, implies_true, Dev.flashDone_memPart, Dev.flashEcc_memPart, Dev.put_memPart, Dev.xoRead_memPart]; with_reducible assumption)

theorem execDescriptorComplete_wf (c : Fin 16) (w : Option DmaDesc) (data : List Byte) (err : Fin 3) (s : State)
    (hw : s.dev.memPart.wf = true) : OutWf (execDescriptorComplete c w data err s) := by
  unfold execDescriptorComplete
  dsimp only
  repeat' split
  all_goals (with_reducible apply next_wf)
  all_goals (try simp only [State.onDev, Dev.dmaHalt_memPart, Dev.memUE_memPart, Dev.dmaNext_memPart, Dev.streamBytes_memPart])
  all_goals first
    | (with_reducible assumption)
    | (with_reducible exact Dev.pokeBytes_wf _ _ _ hw)

theorem execPatternMatch_wf (u : Fin 8) (pins : BitVec 64) (s : State) (hw : s.dev.memPart.wf = true) :
    OutWf (execPatternMatch u pins s) := by
  unfold execPatternMatch
  repeat' first | (with_reducible assumption) | (with_reducible apply State.does_wf) | (with_reducible apply State.doesAs_wf) | (with_reducible apply next_wf) | intro _ | simp only [memPart_mk, memPart_fold, State.onDev, State.onDevAs, implies_true, Dev.bump_memPart, Dev.irq_memPart, Dev.put_memPart, Dev.route_memPart] | split

theorem execSerialByteReceived_wf (p : Fin 4) (b : Byte) (s : State) (hw : s.dev.memPart.wf = true) :
    OutWf (execSerialByteReceived p b s) := by
  unfold execSerialByteReceived
  repeat' first | (with_reducible assumption) | (with_reducible apply State.does_wf) | (with_reducible apply State.doesAs_wf) | (with_reducible apply next_wf) | intro _ | simp only [memPart_mk, memPart_fold, State.onDev, State.onDevAs, implies_true, Dev.irq_memPart, Dev.setRx_memPart, Dev.spOvr_memPart] | split

theorem execSerialTransferEnd_wf (p : Fin 4) (sent : BitVec 7) (nack : Bool) (s : State) (hw : s.dev.memPart.wf = true) :
    OutWf (execSerialTransferEnd p sent nack s) := by
  unfold execSerialTransferEnd
  repeat' first | (with_reducible assumption) | (with_reducible apply State.does_wf) | (with_reducible apply State.doesAs_wf) | (with_reducible apply next_wf) | intro _ | simp only [memPart_mk, memPart_fold, State.onDev, State.onDevAs, implies_true, Dev.irq_memPart, Dev.put_memPart, Dev.setTx_memPart] | split

theorem execDebugRequest_wf (x : CtlId) (s : State) (hw : s.dev.memPart.wf = true) :
    OutWf (execDebugRequest x s) := by
  unfold execDebugRequest
  repeat' first | (with_reducible assumption) | (with_reducible apply State.does_wf) | (with_reducible apply State.doesAs_wf) | (with_reducible apply next_wf) | intro _ | simp only [memPart_mk, memPart_fold, State.onDev, State.onDevAs, implies_true, Dev.halt_memPart] | split

theorem execExtest_wf (s : State) (hw : s.dev.memPart.wf = true) :
    OutWf (execExtest s) := by
  unfold execExtest
  repeat' first | (with_reducible assumption) | (with_reducible apply State.does_wf) | (with_reducible apply State.doesAs_wf) | (with_reducible apply next_wf) | intro _ | simp only [memPart_mk, memPart_fold, State.onDev, State.onDevAs, implies_true, Dev.tapLoad_memPart] | split

theorem execIdcode_wf (s : State) (hw : s.dev.memPart.wf = true) :
    OutWf (execIdcode s) := by
  unfold execIdcode
  repeat' first | (with_reducible assumption) | (with_reducible apply State.does_wf) | (with_reducible apply State.doesAs_wf) | (with_reducible apply next_wf) | intro _ | simp only [memPart_mk, memPart_fold, State.onDev, State.onDevAs, implies_true, Dev.tapLoad_memPart] | split

theorem execSamplePreload_wf (s : State) (hw : s.dev.memPart.wf = true) :
    OutWf (execSamplePreload s) := by
  unfold execSamplePreload
  repeat' first | (with_reducible assumption) | (with_reducible apply State.does_wf) | (with_reducible apply State.doesAs_wf) | (with_reducible apply next_wf) | intro _ | simp only [memPart_mk, memPart_fold, State.onDev, State.onDevAs, implies_true, Dev.tapLoad_memPart] | split

theorem execDbgstat_wf (s : State) (hw : s.dev.memPart.wf = true) : OutWf (execDbgstat s) := by
  unfold execDbgstat
  split
  · apply next_wf
    simp only [Dev.tapLoad_memPart]
    exact hw
  · apply State.does_wf
    simp only [Dev.tapLoad_memPart]
    exact hw

theorem execBypass_wf (code : Byte) (s : State) (hw : s.dev.memPart.wf = true) :
    OutWf (execBypass code s) := by
  unfold execBypass
  repeat' first | (with_reducible assumption) | (with_reducible apply State.does_wf) | (with_reducible apply State.doesAs_wf) | (with_reducible apply next_wf) | intro _ | simp only [memPart_mk, memPart_fold, State.onDev, State.onDevAs, implies_true, Dev.tapLoad_memPart] | split

theorem execTrstN_wf (s : State) (hw : s.dev.memPart.wf = true) :
    OutWf (execTrstN s) := by
  unfold execTrstN
  repeat' first | (with_reducible assumption) | (with_reducible apply State.does_wf) | (with_reducible apply State.doesAs_wf) | (with_reducible apply next_wf) | intro _ | simp only [memPart_mk, memPart_fold, State.onDev, State.onDevAs, implies_true] | split

theorem execBistPeriodDue_wf (e : Fin 16) (s : State) (hw : s.dev.memPart.wf = true) :
    OutWf (execBistPeriodDue e s) := by
  unfold execBistPeriodDue
  repeat' first | (with_reducible assumption) | (with_reducible apply State.does_wf) | (with_reducible apply State.doesAs_wf) | (with_reducible apply next_wf) | intro _ | simp only [memPart_mk, memPart_fold, State.onDev, State.onDevAs, implies_true, Dev.sliceBegin_memPart] | split

theorem Dev.bistReinit_wf (d : Dev) (e : Nat) (spares : List (Nat × Nat)) (hw : d.memPart.wf = true) :
    (Dev.bistReinit d e spares).memPart.wf = true := by
  unfold Dev.bistReinit
  dsimp only
  split
  · rw [Dev.coreReset_memPart]; exact hw
  · split
    · rw [Dev.linkTrained_memPart]; exact hw
    · rw [Dev.modLink_memPart]; exact hw
  · rw [Dev.framesBlank_memPart]; exact hw
  · exact memory_wf_filter d _ d.memPart hw fun c _ _ => rfl
  · next h =>
    refine memory_wf_filter d _ ⟨[], (768 * (d.bistUnit e - 6) + d.bistArg e) :: d.zeroed.filter (· != 768 * (d.bistUnit e - 6) + d.bistArg e), d.hbmEpoch, []⟩ hw fun c hc h2 => ?_
    simp only [Bool.or_eq_true, bne_iff_ne, ne_eq] at h2
    cases hs : inSram c.1 with
    | true => simp [MemPart.blank, hs]
    | false =>
      rw [hs] at h2
      have h3 : hbmBlock c.1 ≠ 768 * (d.bistUnit e - 6) + d.bistArg e := by simpa using h2
      simp [MemPart.blank, Dev.memPart, hs, h3]
  · exact hw

theorem execBistStepDone_wf (fail : Option (BitVec 48 × BitVec 9)) (last : Bool) (stop : Bool) (spares : List (Nat × Nat)) (s : State) (hw : s.dev.memPart.wf = true) :
    OutWf (execBistStepDone fail last stop spares s) := by
  unfold execBistStepDone
  try dsimp only
  repeat' first | (with_reducible assumption) | (with_reducible apply State.does_wf) | (with_reducible apply State.doesAs_wf) | (with_reducible apply next_wf) | (with_reducible apply Dev.bistReinit_wf) | (with_reducible apply Dev.asInjected_wf) | intro _ | simp only [memPart_mk, memPart_fold, State.onDev, State.onDevAs, implies_true, Dev.asInjected_memPart, Dev.bistFailed_memPart, Dev.bump_memPart, Dev.latchFail_memPart, Dev.put_memPart, Dev.set_memPart, Dev.setSlice_memPart, Dev.sliceOver_memPart] | split | (refine (congrArg MemPart.wf (Dev.asInjected_memPart _ _ ?_)).trans ?_) | (refine (Dev.asInjected_memPart _ _ ?_).trans ?_) | (show Dev.memPart _ = Dev.memPart _; exact Eq.refl _)
  all_goals (try have hI0 := Dev.inject_memPart _ _ _ _ _ ‹_›)
  all_goals (try simp only [Prod.ext_iff] at *)
  all_goals (try casesm* _ ∧ _)
  all_goals subst_vars
  all_goals first | (with_reducible assumption) | (simp only [memPart_mk, memPart_fold, State.onDev, State.onDevAs, implies_true, Dev.asInjected_memPart, Dev.bistFailed_memPart, Dev.bump_memPart, Dev.latchFail_memPart, Dev.put_memPart, Dev.set_memPart, Dev.setSlice_memPart, Dev.sliceOver_memPart]; done) | (simp only [memPart_mk, memPart_fold, State.onDev, State.onDevAs, implies_true, Dev.asInjected_memPart, Dev.bistFailed_memPart, Dev.bump_memPart, Dev.latchFail_memPart, Dev.put_memPart, Dev.set_memPart, Dev.setSlice_memPart, Dev.sliceOver_memPart]; with_reducible assumption) | (simp only [memPart_mk, memPart_fold, State.onDev, State.onDevAs, implies_true, Dev.asInjected_memPart, Dev.bistFailed_memPart, Dev.bump_memPart, Dev.latchFail_memPart, Dev.put_memPart, Dev.set_memPart, Dev.setSlice_memPart, Dev.sliceOver_memPart, hI0]; done) | (simp only [memPart_mk, memPart_fold, State.onDev, State.onDevAs, implies_true, Dev.asInjected_memPart, Dev.bistFailed_memPart, Dev.bump_memPart, Dev.latchFail_memPart, Dev.put_memPart, Dev.set_memPart, Dev.setSlice_memPart, Dev.sliceOver_memPart, hI0]; with_reducible assumption)

theorem Dev.bistAbandon_wf (d : Dev) (hw : d.memPart.wf = true) :
    (Dev.bistAbandon d).memPart.wf = true := by
  unfold Dev.bistAbandon
  repeat' first | (with_reducible assumption) | (with_reducible apply Dev.bistReinit_wf) | intro _ | simp only [memPart_mk, memPart_fold, State.onDev, State.onDevAs, implies_true, Dev.sliceOver_memPart] | split

theorem execFadd_wf (x : CtlId) (p : Bool) (rm : BitVec 3) (rd : Reg) (rs1 : Reg) (rs2 : Reg) (s : State) (hw : s.dev.memPart.wf = true) :
    OutWf (execFadd x p rm rd rs1 rs2 s) := by
  unfold execFadd
  repeat' first | (with_reducible assumption) | (with_reducible apply State.does_wf) | (with_reducible apply State.doesAs_wf) | (with_reducible apply next_wf) | intro _ | simp only [memPart_mk, memPart_fold, State.onDev, State.onDevAs, implies_true, Dev.fp2_memPart] | split

theorem execFsub_wf (x : CtlId) (p : Bool) (rm : BitVec 3) (rd : Reg) (rs1 : Reg) (rs2 : Reg) (s : State) (hw : s.dev.memPart.wf = true) :
    OutWf (execFsub x p rm rd rs1 rs2 s) := by
  unfold execFsub
  repeat' first | (with_reducible assumption) | (with_reducible apply State.does_wf) | (with_reducible apply State.doesAs_wf) | (with_reducible apply next_wf) | intro _ | simp only [memPart_mk, memPart_fold, State.onDev, State.onDevAs, implies_true, Dev.fp2_memPart] | split

theorem execFmul_wf (x : CtlId) (p : Bool) (rm : BitVec 3) (rd : Reg) (rs1 : Reg) (rs2 : Reg) (s : State) (hw : s.dev.memPart.wf = true) :
    OutWf (execFmul x p rm rd rs1 rs2 s) := by
  unfold execFmul
  repeat' first | (with_reducible assumption) | (with_reducible apply State.does_wf) | (with_reducible apply State.doesAs_wf) | (with_reducible apply next_wf) | intro _ | simp only [memPart_mk, memPart_fold, State.onDev, State.onDevAs, implies_true, Dev.fp2_memPart] | split

theorem execFdiv_wf (x : CtlId) (p : Bool) (rm : BitVec 3) (rd : Reg) (rs1 : Reg) (rs2 : Reg) (s : State) (hw : s.dev.memPart.wf = true) :
    OutWf (execFdiv x p rm rd rs1 rs2 s) := by
  unfold execFdiv
  repeat' first | (with_reducible assumption) | (with_reducible apply State.does_wf) | (with_reducible apply State.doesAs_wf) | (with_reducible apply next_wf) | intro _ | simp only [memPart_mk, memPart_fold, State.onDev, State.onDevAs, implies_true, Dev.fp2_memPart] | split

theorem execFsqrt_wf (x : CtlId) (p : Bool) (rm : BitVec 3) (rd : Reg) (rs1 : Reg) (s : State) (hw : s.dev.memPart.wf = true) :
    OutWf (execFsqrt x p rm rd rs1 s) := by
  unfold execFsqrt
  repeat' first | (with_reducible assumption) | (with_reducible apply State.does_wf) | (with_reducible apply State.doesAs_wf) | (with_reducible apply next_wf) | intro _ | simp only [memPart_mk, memPart_fold, State.onDev, State.onDevAs, implies_true, Dev.fp1_memPart] | split

theorem execFmin_wf (x : CtlId) (p : Bool) (rm : BitVec 3) (rd : Reg) (rs1 : Reg) (rs2 : Reg) (s : State) (hw : s.dev.memPart.wf = true) :
    OutWf (execFmin x p rm rd rs1 rs2 s) := by
  unfold execFmin
  repeat' first | (with_reducible assumption) | (with_reducible apply State.does_wf) | (with_reducible apply State.doesAs_wf) | (with_reducible apply next_wf) | intro _ | simp only [memPart_mk, memPart_fold, State.onDev, State.onDevAs, implies_true, Dev.fp2_memPart] | split

theorem execFmax_wf (x : CtlId) (p : Bool) (rm : BitVec 3) (rd : Reg) (rs1 : Reg) (rs2 : Reg) (s : State) (hw : s.dev.memPart.wf = true) :
    OutWf (execFmax x p rm rd rs1 rs2 s) := by
  unfold execFmax
  repeat' first | (with_reducible assumption) | (with_reducible apply State.does_wf) | (with_reducible apply State.doesAs_wf) | (with_reducible apply next_wf) | intro _ | simp only [memPart_mk, memPart_fold, State.onDev, State.onDevAs, implies_true, Dev.fp2_memPart] | split

theorem execFminm_wf (x : CtlId) (p : Bool) (rm : BitVec 3) (rd : Reg) (rs1 : Reg) (rs2 : Reg) (s : State) (hw : s.dev.memPart.wf = true) :
    OutWf (execFminm x p rm rd rs1 rs2 s) := by
  unfold execFminm
  repeat' first | (with_reducible assumption) | (with_reducible apply State.does_wf) | (with_reducible apply State.doesAs_wf) | (with_reducible apply next_wf) | intro _ | simp only [memPart_mk, memPart_fold, State.onDev, State.onDevAs, implies_true, Dev.fp2_memPart] | split

theorem execFmaxm_wf (x : CtlId) (p : Bool) (rm : BitVec 3) (rd : Reg) (rs1 : Reg) (rs2 : Reg) (s : State) (hw : s.dev.memPart.wf = true) :
    OutWf (execFmaxm x p rm rd rs1 rs2 s) := by
  unfold execFmaxm
  repeat' first | (with_reducible assumption) | (with_reducible apply State.does_wf) | (with_reducible apply State.doesAs_wf) | (with_reducible apply next_wf) | intro _ | simp only [memPart_mk, memPart_fold, State.onDev, State.onDevAs, implies_true, Dev.fp2_memPart] | split

theorem execFeq_wf (x : CtlId) (p : Bool) (rm : BitVec 3) (rd : Reg) (rs1 : Reg) (rs2 : Reg) (s : State) (hw : s.dev.memPart.wf = true) :
    OutWf (execFeq x p rm rd rs1 rs2 s) := by
  unfold execFeq
  repeat' first | (with_reducible assumption) | (with_reducible apply State.does_wf) | (with_reducible apply State.doesAs_wf) | (with_reducible apply next_wf) | intro _ | simp only [memPart_mk, memPart_fold, State.onDev, State.onDevAs, implies_true, Dev.fp2_memPart] | split

theorem execFlt_wf (x : CtlId) (p : Bool) (rm : BitVec 3) (rd : Reg) (rs1 : Reg) (rs2 : Reg) (s : State) (hw : s.dev.memPart.wf = true) :
    OutWf (execFlt x p rm rd rs1 rs2 s) := by
  unfold execFlt
  repeat' first | (with_reducible assumption) | (with_reducible apply State.does_wf) | (with_reducible apply State.doesAs_wf) | (with_reducible apply next_wf) | intro _ | simp only [memPart_mk, memPart_fold, State.onDev, State.onDevAs, implies_true, Dev.fp2_memPart] | split

theorem execFle_wf (x : CtlId) (p : Bool) (rm : BitVec 3) (rd : Reg) (rs1 : Reg) (rs2 : Reg) (s : State) (hw : s.dev.memPart.wf = true) :
    OutWf (execFle x p rm rd rs1 rs2 s) := by
  unfold execFle
  repeat' first | (with_reducible assumption) | (with_reducible apply State.does_wf) | (with_reducible apply State.doesAs_wf) | (with_reducible apply next_wf) | intro _ | simp only [memPart_mk, memPart_fold, State.onDev, State.onDevAs, implies_true, Dev.fp2_memPart] | split

theorem execFltq_wf (x : CtlId) (p : Bool) (rm : BitVec 3) (rd : Reg) (rs1 : Reg) (rs2 : Reg) (s : State) (hw : s.dev.memPart.wf = true) :
    OutWf (execFltq x p rm rd rs1 rs2 s) := by
  unfold execFltq
  repeat' first | (with_reducible assumption) | (with_reducible apply State.does_wf) | (with_reducible apply State.doesAs_wf) | (with_reducible apply next_wf) | intro _ | simp only [memPart_mk, memPart_fold, State.onDev, State.onDevAs, implies_true, Dev.fp2_memPart] | split

theorem execFleq_wf (x : CtlId) (p : Bool) (rm : BitVec 3) (rd : Reg) (rs1 : Reg) (rs2 : Reg) (s : State) (hw : s.dev.memPart.wf = true) :
    OutWf (execFleq x p rm rd rs1 rs2 s) := by
  unfold execFleq
  repeat' first | (with_reducible assumption) | (with_reducible apply State.does_wf) | (with_reducible apply State.doesAs_wf) | (with_reducible apply next_wf) | intro _ | simp only [memPart_mk, memPart_fold, State.onDev, State.onDevAs, implies_true, Dev.fp2_memPart] | split

theorem execFun_wf (x : CtlId) (p : Bool) (rm : BitVec 3) (rd : Reg) (rs1 : Reg) (rs2 : Reg) (s : State) (hw : s.dev.memPart.wf = true) :
    OutWf (execFun x p rm rd rs1 rs2 s) := by
  unfold execFun
  repeat' first | (with_reducible assumption) | (with_reducible apply State.does_wf) | (with_reducible apply State.doesAs_wf) | (with_reducible apply next_wf) | intro _ | simp only [memPart_mk, memPart_fold, State.onDev, State.onDevAs, implies_true, Dev.fp2_memPart] | split

theorem execFclass_wf (x : CtlId) (p : Bool) (rm : BitVec 3) (rd : Reg) (rs1 : Reg) (s : State) (hw : s.dev.memPart.wf = true) :
    OutWf (execFclass x p rm rd rs1 s) := by
  unfold execFclass
  repeat' first | (with_reducible assumption) | (with_reducible apply State.does_wf) | (with_reducible apply State.doesAs_wf) | (with_reducible apply next_wf) | intro _ | simp only [memPart_mk, memPart_fold, State.onDev, State.onDevAs, implies_true, Dev.fp1_memPart] | split

theorem execFsgnj_wf (x : CtlId) (p : Bool) (rm : BitVec 3) (rd : Reg) (rs1 : Reg) (rs2 : Reg) (s : State) (hw : s.dev.memPart.wf = true) :
    OutWf (execFsgnj x p rm rd rs1 rs2 s) := by
  unfold execFsgnj
  repeat' first | (with_reducible assumption) | (with_reducible apply State.does_wf) | (with_reducible apply State.doesAs_wf) | (with_reducible apply next_wf) | intro _ | simp only [memPart_mk, memPart_fold, State.onDev, State.onDevAs, implies_true, Dev.fp2_memPart] | split

theorem execFsgnjn_wf (x : CtlId) (p : Bool) (rm : BitVec 3) (rd : Reg) (rs1 : Reg) (rs2 : Reg) (s : State) (hw : s.dev.memPart.wf = true) :
    OutWf (execFsgnjn x p rm rd rs1 rs2 s) := by
  unfold execFsgnjn
  repeat' first | (with_reducible assumption) | (with_reducible apply State.does_wf) | (with_reducible apply State.doesAs_wf) | (with_reducible apply next_wf) | intro _ | simp only [memPart_mk, memPart_fold, State.onDev, State.onDevAs, implies_true, Dev.fp2_memPart] | split

theorem execFsgnjx_wf (x : CtlId) (p : Bool) (rm : BitVec 3) (rd : Reg) (rs1 : Reg) (rs2 : Reg) (s : State) (hw : s.dev.memPart.wf = true) :
    OutWf (execFsgnjx x p rm rd rs1 rs2 s) := by
  unfold execFsgnjx
  repeat' first | (with_reducible assumption) | (with_reducible apply State.does_wf) | (with_reducible apply State.doesAs_wf) | (with_reducible apply next_wf) | intro _ | simp only [memPart_mk, memPart_fold, State.onDev, State.onDevAs, implies_true, Dev.fp2_memPart] | split

theorem execFcvtFF_wf (x : CtlId) (p : Bool) (rm : BitVec 3) (rd : Reg) (rs1 : Reg) (s : State) (hw : s.dev.memPart.wf = true) :
    OutWf (execFcvtFF x p rm rd rs1 s) := by
  unfold execFcvtFF
  repeat' first | (with_reducible assumption) | (with_reducible apply State.does_wf) | (with_reducible apply State.doesAs_wf) | (with_reducible apply next_wf) | intro _ | simp only [memPart_mk, memPart_fold, State.onDev, State.onDevAs, implies_true, Dev.fpInstr_memPart] | split

theorem execFcvtW_wf (x : CtlId) (p : Bool) (rm : BitVec 3) (rd : Reg) (rs1 : Reg) (s : State) (hw : s.dev.memPart.wf = true) :
    OutWf (execFcvtW x p rm rd rs1 s) := by
  unfold execFcvtW
  repeat' first | (with_reducible assumption) | (with_reducible apply State.does_wf) | (with_reducible apply State.doesAs_wf) | (with_reducible apply next_wf) | intro _ | simp only [memPart_mk, memPart_fold, State.onDev, State.onDevAs, implies_true, Dev.fp1_memPart] | split

theorem execFcvtWu_wf (x : CtlId) (p : Bool) (rm : BitVec 3) (rd : Reg) (rs1 : Reg) (s : State) (hw : s.dev.memPart.wf = true) :
    OutWf (execFcvtWu x p rm rd rs1 s) := by
  unfold execFcvtWu
  repeat' first | (with_reducible assumption) | (with_reducible apply State.does_wf) | (with_reducible apply State.doesAs_wf) | (with_reducible apply next_wf) | intro _ | simp only [memPart_mk, memPart_fold, State.onDev, State.onDevAs, implies_true, Dev.fp1_memPart] | split

theorem execFcvtL_wf (x : CtlId) (p : Bool) (rm : BitVec 3) (rd : Reg) (rs1 : Reg) (s : State) (hw : s.dev.memPart.wf = true) :
    OutWf (execFcvtL x p rm rd rs1 s) := by
  unfold execFcvtL
  repeat' first | (with_reducible assumption) | (with_reducible apply State.does_wf) | (with_reducible apply State.doesAs_wf) | (with_reducible apply next_wf) | intro _ | simp only [memPart_mk, memPart_fold, State.onDev, State.onDevAs, implies_true, Dev.fp1_memPart] | split

theorem execFcvtLu_wf (x : CtlId) (p : Bool) (rm : BitVec 3) (rd : Reg) (rs1 : Reg) (s : State) (hw : s.dev.memPart.wf = true) :
    OutWf (execFcvtLu x p rm rd rs1 s) := by
  unfold execFcvtLu
  repeat' first | (with_reducible assumption) | (with_reducible apply State.does_wf) | (with_reducible apply State.doesAs_wf) | (with_reducible apply next_wf) | intro _ | simp only [memPart_mk, memPart_fold, State.onDev, State.onDevAs, implies_true, Dev.fp1_memPart] | split

theorem execFcvtFW_wf (x : CtlId) (p : Bool) (rm : BitVec 3) (rd : Reg) (rs1 : Reg) (s : State) (hw : s.dev.memPart.wf = true) :
    OutWf (execFcvtFW x p rm rd rs1 s) := by
  unfold execFcvtFW
  repeat' first | (with_reducible assumption) | (with_reducible apply State.does_wf) | (with_reducible apply State.doesAs_wf) | (with_reducible apply next_wf) | intro _ | simp only [memPart_mk, memPart_fold, State.onDev, State.onDevAs, implies_true, Dev.fpFromInt_memPart] | split

theorem execFcvtFWu_wf (x : CtlId) (p : Bool) (rm : BitVec 3) (rd : Reg) (rs1 : Reg) (s : State) (hw : s.dev.memPart.wf = true) :
    OutWf (execFcvtFWu x p rm rd rs1 s) := by
  unfold execFcvtFWu
  repeat' first | (with_reducible assumption) | (with_reducible apply State.does_wf) | (with_reducible apply State.doesAs_wf) | (with_reducible apply next_wf) | intro _ | simp only [memPart_mk, memPart_fold, State.onDev, State.onDevAs, implies_true, Dev.fpFromInt_memPart] | split

theorem execFcvtFL_wf (x : CtlId) (p : Bool) (rm : BitVec 3) (rd : Reg) (rs1 : Reg) (s : State) (hw : s.dev.memPart.wf = true) :
    OutWf (execFcvtFL x p rm rd rs1 s) := by
  unfold execFcvtFL
  repeat' first | (with_reducible assumption) | (with_reducible apply State.does_wf) | (with_reducible apply State.doesAs_wf) | (with_reducible apply next_wf) | intro _ | simp only [memPart_mk, memPart_fold, State.onDev, State.onDevAs, implies_true, Dev.fpFromInt_memPart] | split

theorem execFcvtFLu_wf (x : CtlId) (p : Bool) (rm : BitVec 3) (rd : Reg) (rs1 : Reg) (s : State) (hw : s.dev.memPart.wf = true) :
    OutWf (execFcvtFLu x p rm rd rs1 s) := by
  unfold execFcvtFLu
  repeat' first | (with_reducible assumption) | (with_reducible apply State.does_wf) | (with_reducible apply State.doesAs_wf) | (with_reducible apply next_wf) | intro _ | simp only [memPart_mk, memPart_fold, State.onDev, State.onDevAs, implies_true, Dev.fpFromInt_memPart] | split

theorem execFmvGF_wf (x : CtlId) (p : Bool) (rm : BitVec 3) (rd : Reg) (rs1 : Reg) (s : State) (hw : s.dev.memPart.wf = true) :
    OutWf (execFmvGF x p rm rd rs1 s) := by
  unfold execFmvGF
  repeat' first | (with_reducible assumption) | (with_reducible apply State.does_wf) | (with_reducible apply State.doesAs_wf) | (with_reducible apply next_wf) | intro _ | simp only [memPart_mk, memPart_fold, State.onDev, State.onDevAs, implies_true, Dev.fp1_memPart] | split

theorem execFmvFG_wf (x : CtlId) (p : Bool) (rm : BitVec 3) (rd : Reg) (rs1 : Reg) (s : State) (hw : s.dev.memPart.wf = true) :
    OutWf (execFmvFG x p rm rd rs1 s) := by
  unfold execFmvFG
  repeat' first | (with_reducible assumption) | (with_reducible apply State.does_wf) | (with_reducible apply State.doesAs_wf) | (with_reducible apply next_wf) | intro _ | simp only [memPart_mk, memPart_fold, State.onDev, State.onDevAs, implies_true, Dev.fpInstr_memPart] | split

theorem execFrintx_wf (x : CtlId) (p : Bool) (rm : BitVec 3) (rd : Reg) (rs1 : Reg) (s : State) (hw : s.dev.memPart.wf = true) :
    OutWf (execFrintx x p rm rd rs1 s) := by
  unfold execFrintx
  repeat' first | (with_reducible assumption) | (with_reducible apply State.does_wf) | (with_reducible apply State.doesAs_wf) | (with_reducible apply next_wf) | intro _ | simp only [memPart_mk, memPart_fold, State.onDev, State.onDevAs, implies_true, Dev.fp1_memPart] | split

theorem execFmadd_wf (x : CtlId) (p : Bool) (rm : BitVec 3) (rd : Reg) (rs1 : Reg) (rs2 : Reg) (rs3 : Reg) (s : State) (hw : s.dev.memPart.wf = true) :
    OutWf (execFmadd x p rm rd rs1 rs2 rs3 s) := by
  unfold execFmadd
  repeat' first | (with_reducible assumption) | (with_reducible apply State.does_wf) | (with_reducible apply State.doesAs_wf) | (with_reducible apply next_wf) | intro _ | simp only [memPart_mk, memPart_fold, State.onDev, State.onDevAs, implies_true, Dev.fp3_memPart] | split

theorem execFmsub_wf (x : CtlId) (p : Bool) (rm : BitVec 3) (rd : Reg) (rs1 : Reg) (rs2 : Reg) (rs3 : Reg) (s : State) (hw : s.dev.memPart.wf = true) :
    OutWf (execFmsub x p rm rd rs1 rs2 rs3 s) := by
  unfold execFmsub
  repeat' first | (with_reducible assumption) | (with_reducible apply State.does_wf) | (with_reducible apply State.doesAs_wf) | (with_reducible apply next_wf) | intro _ | simp only [memPart_mk, memPart_fold, State.onDev, State.onDevAs, implies_true, Dev.fp3_memPart] | split

theorem execFnmadd_wf (x : CtlId) (p : Bool) (rm : BitVec 3) (rd : Reg) (rs1 : Reg) (rs2 : Reg) (rs3 : Reg) (s : State) (hw : s.dev.memPart.wf = true) :
    OutWf (execFnmadd x p rm rd rs1 rs2 rs3 s) := by
  unfold execFnmadd
  repeat' first | (with_reducible assumption) | (with_reducible apply State.does_wf) | (with_reducible apply State.doesAs_wf) | (with_reducible apply next_wf) | intro _ | simp only [memPart_mk, memPart_fold, State.onDev, State.onDevAs, implies_true, Dev.fp3_memPart] | split

theorem execFnmsub_wf (x : CtlId) (p : Bool) (rm : BitVec 3) (rd : Reg) (rs1 : Reg) (rs2 : Reg) (rs3 : Reg) (s : State) (hw : s.dev.memPart.wf = true) :
    OutWf (execFnmsub x p rm rd rs1 rs2 rs3 s) := by
  unfold execFnmsub
  repeat' first | (with_reducible assumption) | (with_reducible apply State.does_wf) | (with_reducible apply State.doesAs_wf) | (with_reducible apply next_wf) | intro _ | simp only [memPart_mk, memPart_fold, State.onDev, State.onDevAs, implies_true, Dev.fp3_memPart] | split

theorem Dev.bdReset_wf (d : Dev) (hw : d.memPart.wf = true) : (Dev.bdReset d).memPart.wf = true := by
  unfold Dev.bdReset
  have hp : ∀ (d : Dev) (l : List Nat), (d.each l fun d q => d.modV q fun v => { v with pins := [] }).memPart = d.memPart :=
    fun d l => Dev.each_memPart _ _ _ fun d q => Dev.modV_memPart _ _ _
  simp only [Dev.modStart_memPart, Dev.put_memPart, hp, Dev.modLink_memPart, Dev.freshDirs_memPart, Dev.injDieReset_memPart, Dev.bistDieReset_memPart,
    Dev.leaseDieReset_memPart]
  have he : (d.eraseDie 4).memPart.wf = true := by rw [Dev.eraseDie_memPart]; exact hw
  rw [memPart_mk]
  refine memory_wf_filter (d.eraseDie 4) _ ⟨[], [], (d.eraseDie 4).hbmEpoch + 1, []⟩ he fun c _ h2 => ?_
  have h2 : inEvl c.1 = true := h2
  have hs : inSram c.1 = true := by
    unfold inEvl evlBase at h2
    simp only [Bool.and_eq_true, decide_eq_true_eq] at h2
    have h3 : sramBase ≤ c.1 ∧ c.1 < sramBase + sramSize := by unfold sramBase sramSize; omega
    unfold inSram
    rw [decide_eq_true h3.1, decide_eq_true h3.2]
    rfl
  simp [MemPart.blank, hs]

theorem Dev.holdDies_wf (d : Dev) (hw : d.memPart.wf = true) :
    (Dev.holdDies d).memPart.wf = true := by
  unfold Dev.holdDies
  repeat' first | (with_reducible assumption) | (with_reducible apply Dev.bdReset_wf) | (with_reducible apply Dev.each_wf) | intro _ | simp only [memPart_mk, memPart_fold, State.onDev, State.onDevAs, implies_true, Dev.cdReset_memPart, Dev.each_memPart, Dev.rgpStale_memPart] | split

theorem Dev.startFail_wf (d : Dev) (code : Nat) (die : Nat) (hw : d.memPart.wf = true) :
    (Dev.startFail d code die).memPart.wf = true := by
  unfold Dev.startFail
  repeat' first | (with_reducible assumption) | (with_reducible apply Dev.holdDies_wf) | intro _ | simp only [memPart_mk, memPart_fold, State.onDev, State.onDevAs, implies_true, Dev.failShown_memPart, Dev.loaderSafe_memPart, Dev.put_memPart, Dev.refreshLines_memPart, Dev.set_memPart] | split

theorem Dev.safeUnits_wf (d : Dev) (hw : d.memPart.wf = true) :
    (Dev.safeUnits d).memPart.wf = true := by
  unfold Dev.safeUnits
  repeat' first | (with_reducible assumption) | (with_reducible apply Dev.bistAbandon_wf) | (with_reducible apply Dev.each_wf) | intro _ | simp only [memPart_mk, memPart_fold, State.onDev, State.onDevAs, implies_true, Dev.cfgiSafe_memPart, Dev.each_memPart, Dev.injDisarm_memPart, Dev.leaseDrop_memPart, Dev.leaseSafe_memPart, Dev.linksSafe_memPart, Dev.loaderSafe_memPart, Dev.scrubsStop_memPart, Dev.sweepAbandon_memPart] | split

theorem Dev.enterSafe_wf (d : Dev) (cause : Nat) (trip : Bool) (present : Bool) (hw : d.memPart.wf = true) :
    (Dev.enterSafe d cause trip present).memPart.wf = true := by
  unfold Dev.enterSafe
  repeat' first | (with_reducible assumption) | (with_reducible apply Dev.safeUnits_wf) | (with_reducible apply Dev.each_wf) | intro _ | simp only [memPart_mk, memPart_fold, State.onDev, State.onDevAs, implies_true, Dev.each_memPart, Dev.logA_memPart, Dev.modStart_memPart, Dev.parkAll_memPart, Dev.put_memPart, Dev.refreshLines_memPart, Dev.safeSite_memPart, Dev.set_memPart] | split

theorem Dev.safeTick_wf (d : Dev) (hw : d.memPart.wf = true) :
    (Dev.safeTick d).memPart.wf = true := by
  unfold Dev.safeTick
  repeat' first | (with_reducible assumption) | (with_reducible apply Dev.enterSafe_wf) | intro _ | simp only [memPart_mk, memPart_fold, State.onDev, State.onDevAs, implies_true, Dev.modStart_memPart] | split

theorem execUnrecoverableSafeEntry_wf (s : State) (hw : s.dev.memPart.wf = true) :
    OutWf (execUnrecoverableSafeEntry s) := by
  unfold execUnrecoverableSafeEntry
  repeat' first | (with_reducible assumption) | (with_reducible apply State.does_wf) | (with_reducible apply State.doesAs_wf) | (with_reducible apply next_wf) | (with_reducible apply Dev.safeTick_wf) | intro _ | simp only [memPart_mk, memPart_fold, State.onDev, State.onDevAs, implies_true] | split

theorem Dev.safetyTrip_wf (d : Dev) (cause : Nat) (present : Bool) (hw : d.memPart.wf = true) :
    (Dev.safetyTrip d cause present).memPart.wf = true := by
  unfold Dev.safetyTrip
  repeat' first | (with_reducible assumption) | (with_reducible apply Dev.enterSafe_wf) | (with_reducible apply Dev.startFail_wf) | intro _ | simp only [memPart_mk, memPart_fold, State.onDev, State.onDevAs, implies_true, Dev.modStart_memPart, Dev.tripLogged_memPart] | split

theorem Dev.powerTrip_wf (d : Dev) (kind : Nat) (die : Nat) (rail : Nat) (hw : d.memPart.wf = true) :
    (Dev.powerTrip d kind die rail).memPart.wf = true := by
  unfold Dev.powerTrip
  repeat' first | (with_reducible assumption) | (with_reducible apply Dev.safetyTrip_wf) | intro _ | simp only [memPart_mk, memPart_fold, State.onDev, State.onDevAs, implies_true, Dev.put_memPart, Dev.set_memPart] | split

theorem execOverTemperatureTrip_wf (code : Fin 8) (s : State) (hw : s.dev.memPart.wf = true) :
    OutWf (execOverTemperatureTrip code s) := by
  unfold execOverTemperatureTrip
  repeat' first | (with_reducible assumption) | (with_reducible apply State.does_wf) | (with_reducible apply State.doesAs_wf) | (with_reducible apply next_wf) | (with_reducible apply Dev.powerTrip_wf) | intro _ | simp only [memPart_mk, memPart_fold, State.onDev, State.onDevAs, implies_true] | split

theorem execSupplyTrip_wf (code : Fin 6) (rail : Fin 13) (s : State) (hw : s.dev.memPart.wf = true) :
    OutWf (execSupplyTrip code rail s) := by
  unfold execSupplyTrip
  repeat' first | (with_reducible assumption) | (with_reducible apply State.does_wf) | (with_reducible apply State.doesAs_wf) | (with_reducible apply next_wf) | (with_reducible apply Dev.powerTrip_wf) | intro _ | simp only [memPart_mk, memPart_fold, State.onDev, State.onDevAs, implies_true] | split

theorem execTripCauseGone_wf (code : Fin 8) (rail : Option (Fin 13)) (s : State) (hw : s.dev.memPart.wf = true) :
    OutWf (execTripCauseGone code rail s) := by
  unfold execTripCauseGone
  repeat' first | (with_reducible assumption) | (with_reducible apply State.does_wf) | (with_reducible apply State.doesAs_wf) | (with_reducible apply next_wf) | intro _ | simp only [memPart_mk, memPart_fold, State.onDev, State.onDevAs, implies_true] | split

theorem Dev.sentryTrip_wf (d : Dev) (code : Nat) (hw : d.memPart.wf = true) :
    (Dev.sentryTrip d code).memPart.wf = true := by
  unfold Dev.sentryTrip
  repeat' first | (with_reducible assumption) | (with_reducible apply Dev.safetyTrip_wf) | intro _ | simp only [memPart_mk, memPart_fold, State.onDev, State.onDevAs, implies_true, Dev.modSnt_memPart, Dev.put_memPart, Dev.set_memPart] | split

theorem Dev.sysTrip_wf (d : Dev) (hw : d.memPart.wf = true) :
    (Dev.sysTrip d).memPart.wf = true := by
  unfold Dev.sysTrip
  repeat' first | (with_reducible assumption) | (with_reducible apply Dev.safetyTrip_wf) | intro _ | simp only [memPart_mk, memPart_fold, State.onDev, State.onDevAs, implies_true, Dev.modSnt_memPart, Dev.put_memPart] | split

theorem execSentryLogicTrip_wf (code : BitVec 8) (s : State) (hw : s.dev.memPart.wf = true) :
    OutWf (execSentryLogicTrip code s) := by
  unfold execSentryLogicTrip
  repeat' first | (with_reducible assumption) | (with_reducible apply State.does_wf) | (with_reducible apply State.doesAs_wf) | (with_reducible apply next_wf) | (with_reducible apply Dev.sentryTrip_wf) | intro _ | simp only [memPart_mk, memPart_fold, State.onDev, State.onDevAs, implies_true] | split

theorem execPeSafeRequest_wf (s : State) (hw : s.dev.memPart.wf = true) :
    OutWf (execPeSafeRequest s) := by
  unfold execPeSafeRequest
  repeat' first | (with_reducible assumption) | (with_reducible apply State.does_wf) | (with_reducible apply State.doesAs_wf) | (with_reducible apply next_wf) | (with_reducible apply Dev.sysTrip_wf) | intro _ | simp only [memPart_mk, memPart_fold, State.onDev, State.onDevAs, implies_true] | split

theorem execTripSysReqFall_wf (trip : Bool) (sys : Bool) (s : State) (hw : s.dev.memPart.wf = true) :
    OutWf (execTripSysReqFall trip sys s) := by
  unfold execTripSysReqFall
  repeat' first | (with_reducible assumption) | (with_reducible apply State.does_wf) | (with_reducible apply State.doesAs_wf) | (with_reducible apply next_wf) | intro _ | simp only [memPart_mk, memPart_fold, State.onDev, State.onDevAs, implies_true, Dev.modSnt_memPart] | split

theorem Dev.policyChanged_wf (d : Dev) (host : Bool) (hw : d.memPart.wf = true) :
    (Dev.policyChanged d host).memPart.wf = true := by
  unfold Dev.policyChanged
  repeat' first | (with_reducible assumption) | (with_reducible apply Dev.safetyTrip_wf) | intro _ | simp only [memPart_mk, memPart_fold, State.onDev, State.onDevAs, implies_true, Dev.put_memPart, Dev.refreshLines_memPart] | split

theorem execSafeRelChange_wf (rel : BitVec 16) (s : State) (hw : s.dev.memPart.wf = true) :
    OutWf (execSafeRelChange rel s) := by
  unfold execSafeRelChange
  repeat' first | (with_reducible assumption) | (with_reducible apply State.does_wf) | (with_reducible apply State.doesAs_wf) | (with_reducible apply next_wf) | (with_reducible apply Dev.policyChanged_wf) | intro _ | simp only [memPart_mk, memPart_fold, State.onDev, State.onDevAs, implies_true, Dev.modSnt_memPart] | split

theorem Dev.forceWrite_wf (d : Dev) (v : Nat) (hw : d.memPart.wf = true) :
    (Dev.forceWrite d v).memPart.wf = true := by
  unfold Dev.forceWrite
  repeat' first | (with_reducible assumption) | (with_reducible apply Dev.policyChanged_wf) | intro _ | simp only [memPart_mk, memPart_fold, State.onDev, State.onDevAs, implies_true, Dev.set_memPart] | split

theorem Dev.policyWrite_wf (d : Dev) (v : Nat) (hw : d.memPart.wf = true) :
    (Dev.policyWrite d v).memPart.wf = true := by
  unfold Dev.policyWrite
  repeat' first | (with_reducible assumption) | (with_reducible apply Dev.policyChanged_wf) | intro _ | simp only [memPart_mk, memPart_fold, State.onDev, State.onDevAs, implies_true, Dev.set_memPart] | split

end Sys2Proof.Machine
end

