-- ==== Sys2Proof/Laws/MemWf3.lean ====
section
/-! SUPPORT. The memory's canonical form, part 4 of 5: every function of the model that changes the memory part
keeps `MemPart.wf` (lemma `F_wf`), and every command's meaning answers only states that keep it
(lemma `execX_wf`, stated with `OutWf`). -/

set_option linter.all false

namespace Sys2Proof.Machine
theorem execHubSuppliesValid_wf (s : State) (hw : s.dev.memPart.wf = true) :
    OutWf (execHubSuppliesValid s) := by
  unfold execHubSuppliesValid
  repeat' first | (with_reducible assumption) | (with_reducible apply State.does_wf) | (with_reducible apply State.doesAs_wf) | (with_reducible apply next_wf) | intro _ | simp only [memPart_mk, memPart_fold, State.onDev, State.onDevAs, implies_true, Dev.modStart_memPart] | split

theorem execHubPorRelease_wf (s : State) (hw : s.dev.memPart.wf = true) :
    OutWf (execHubPorRelease s) := by
  unfold execHubPorRelease
  repeat' first | (with_reducible assumption) | (with_reducible apply State.does_wf) | (with_reducible apply State.doesAs_wf) | (with_reducible apply next_wf) | intro _ | simp only [memPart_mk, memPart_fold, State.onDev, State.onDevAs, implies_true, Dev.modStart_memPart, Dev.setStage_memPart] | split

theorem Dev.selfTestFails_wf (d : Dev) (hw : d.memPart.wf = true) :
    (Dev.selfTestFails d).memPart.wf = true := by
  unfold Dev.selfTestFails
  repeat' first | (with_reducible assumption) | (with_reducible apply Dev.enterSafe_wf) | intro _ | simp only [memPart_mk, memPart_fold, State.onDev, State.onDevAs, implies_true, Dev.failShown_memPart, Dev.modStart_memPart] | split

theorem execHubSelfCheck_wf (pass : Bool) (s : State) (hw : s.dev.memPart.wf = true) :
    OutWf (execHubSelfCheck pass s) := by
  unfold execHubSelfCheck
  repeat' first | (with_reducible assumption) | (with_reducible apply State.does_wf) | (with_reducible apply State.doesAs_wf) | (with_reducible apply next_wf) | (with_reducible apply Dev.selfTestFails_wf) | intro _ | simp only [memPart_mk, memPart_fold, State.onDev, State.onDevAs, implies_true] | split

theorem execIfLoadComplete_wf (s : State) (hw : s.dev.memPart.wf = true) :
    OutWf (execIfLoadComplete s) := by
  unfold execIfLoadComplete
  repeat' first | (with_reducible assumption) | (with_reducible apply State.does_wf) | (with_reducible apply State.doesAs_wf) | (with_reducible apply next_wf) | intro _ | simp only [memPart_mk, memPart_fold, State.onDev, State.onDevAs, implies_true, Dev.imageLoad_memPart] | split

theorem Dev.imageStarts_wf (d : Dev) (out : ImgOut) (hw : d.memPart.wf = true) :
    (Dev.imageStarts d out).memPart.wf = true := by
  unfold Dev.imageStarts
  repeat' first | (with_reducible assumption) | (with_reducible apply Dev.sentryTrip_wf) | (with_reducible apply Dev.sysTrip_wf) | intro _ | simp only [memPart_mk, memPart_fold, State.onDev, State.onDevAs, implies_true, Dev.modSnt_memPart, Dev.put_memPart, Dev.refreshLines_memPart] | split

theorem execImageStart_wf (out : ImgOut) (s : State) (hw : s.dev.memPart.wf = true) :
    OutWf (execImageStart out s) := by
  unfold execImageStart
  repeat' first | (with_reducible assumption) | (with_reducible apply State.does_wf) | (with_reducible apply State.doesAs_wf) | (with_reducible apply next_wf) | (with_reducible apply Dev.imageStarts_wf) | intro _ | simp only [memPart_mk, memPart_fold, State.onDev, State.onDevAs, implies_true, Dev.setStage_memPart] | split

theorem Dev.startWrite_wf (d : Dev) (hw : d.memPart.wf = true) :
    (Dev.startWrite d).memPart.wf = true := by
  unfold Dev.startWrite
  repeat' first | (with_reducible assumption) | (with_reducible apply Dev.holdDies_wf) | intro _ | simp only [memPart_mk, memPart_fold, State.onDev, State.onDevAs, implies_true, Dev.modStart_memPart, Dev.put_memPart, Dev.set_memPart, Dev.stageBegins_memPart] | split

theorem execPwrCheckComplete_wf (s : State) (hw : s.dev.memPart.wf = true) :
    OutWf (execPwrCheckComplete s) := by
  unfold execPwrCheckComplete
  repeat' first | (with_reducible assumption) | (with_reducible apply State.does_wf) | (with_reducible apply State.doesAs_wf) | (with_reducible apply next_wf) | intro _ | simp only [memPart_mk, memPart_fold, State.onDev, State.onDevAs, implies_true, Dev.goStage_memPart] | split

theorem execPwrTimeout_wf (rail : Fin 13) (s : State) (hw : s.dev.memPart.wf = true) :
    OutWf (execPwrTimeout rail s) := by
  unfold execPwrTimeout
  repeat' first | (with_reducible assumption) | (with_reducible apply State.does_wf) | (with_reducible apply State.doesAs_wf) | (with_reducible apply next_wf) | (with_reducible apply Dev.startFail_wf) | intro _ | simp only [memPart_mk, memPart_fold, State.onDev, State.onDevAs, implies_true] | split

theorem execBdBistDone_wf (pass : Bool) (idOk : Bool) (s : State) (hw : s.dev.memPart.wf = true) :
    OutWf (execBdBistDone pass idOk s) := by
  unfold execBdBistDone
  repeat' first | (with_reducible assumption) | (with_reducible apply State.does_wf) | (with_reducible apply State.doesAs_wf) | (with_reducible apply next_wf) | (with_reducible apply Dev.startFail_wf) | intro _ | simp only [memPart_mk, memPart_fold, State.onDev, State.onDevAs, implies_true, Dev.modStart_memPart, Dev.put_memPart, Dev.stageWork_memPart] | split

theorem execHbmPhyTrainingDone_wf (pass : Bool) (s : State) (hw : s.dev.memPart.wf = true) :
    OutWf (execHbmPhyTrainingDone pass s) := by
  unfold execHbmPhyTrainingDone
  repeat' first | (with_reducible assumption) | (with_reducible apply State.does_wf) | (with_reducible apply State.doesAs_wf) | (with_reducible apply next_wf) | (with_reducible apply Dev.startFail_wf) | intro _ | simp only [memPart_mk, memPart_fold, State.onDev, State.onDevAs, implies_true, Dev.modStart_memPart, Dev.put_memPart, Dev.stageWork_memPart] | split

theorem execHubLinkTrainingDone_wf (tx : BitVec 4) (rx : BitVec 4) (s : State) (hw : s.dev.memPart.wf = true) :
    OutWf (execHubLinkTrainingDone tx rx s) := by
  unfold execHubLinkTrainingDone
  repeat' first | (with_reducible assumption) | (with_reducible apply State.does_wf) | (with_reducible apply State.doesAs_wf) | (with_reducible apply next_wf) | (with_reducible apply Dev.startFail_wf) | intro _ | simp only [memPart_mk, memPart_fold, State.onDev, State.onDevAs, implies_true, Dev.linkTrained_memPart, Dev.modStart_memPart, Dev.put_memPart, Dev.stageWork_memPart] | split

theorem execCdRelease_wf (s : State) (hw : s.dev.memPart.wf = true) :
    OutWf (execCdRelease s) := by
  unfold execCdRelease
  repeat' first | (with_reducible assumption) | (with_reducible apply State.does_wf) | (with_reducible apply State.doesAs_wf) | (with_reducible apply next_wf) | intro _ | simp only [memPart_mk, memPart_fold, State.onDev, State.onDevAs, implies_true, Dev.releaseNext_memPart] | split

theorem execCdBistDone_wf (n : Die) (pass : Bool) (idOk : Bool) (s : State) (hw : s.dev.memPart.wf = true) :
    OutWf (execCdBistDone n pass idOk s) := by
  unfold execCdBistDone
  repeat' first | (with_reducible assumption) | (with_reducible apply State.does_wf) | (with_reducible apply State.doesAs_wf) | (with_reducible apply next_wf) | (with_reducible apply Dev.startFail_wf) | intro _ | simp only [memPart_mk, memPart_fold, State.onDev, State.onDevAs, implies_true, Dev.modStart_memPart, Dev.put_memPart, Dev.stageWork_memPart] | split

theorem execD2dLinkTrainingDone_wf (n : Die) (spares : List (Nat × Nat)) (s : State) (hw : s.dev.memPart.wf = true) :
    OutWf (execD2dLinkTrainingDone n spares s) := by
  unfold execD2dLinkTrainingDone
  repeat' first | (with_reducible assumption) | (with_reducible apply State.does_wf) | (with_reducible apply State.doesAs_wf) | (with_reducible apply next_wf) | (with_reducible apply Dev.startFail_wf) | intro _ | simp only [memPart_mk, memPart_fold, State.onDev, State.onDevAs, implies_true, Dev.linkTrained_memPart, Dev.modStart_memPart, Dev.putBit_memPart, Dev.stageWork_memPart] | split

theorem execStreamCheckComplete_wf (s : State) (hw : s.dev.memPart.wf = true) :
    OutWf (execStreamCheckComplete s) := by
  unfold execStreamCheckComplete
  repeat' first | (with_reducible assumption) | (with_reducible apply State.does_wf) | (with_reducible apply State.doesAs_wf) | (with_reducible apply next_wf) | (with_reducible apply Dev.each_wf) | intro _ | simp only [memPart_mk, memPart_fold, State.onDev, State.onDevAs, implies_true, Dev.each_memPart, Dev.fabricStarts_memPart, Dev.goStage_memPart, Dev.put_memPart] | split

theorem execPllLockComplete_wf (n : Die) (s : State) (hw : s.dev.memPart.wf = true) :
    OutWf (execPllLockComplete n s) := by
  unfold execPllLockComplete
  try dsimp only
  repeat' first | (with_reducible assumption) | (with_reducible apply State.does_wf) | (with_reducible apply State.doesAs_wf) | (with_reducible apply next_wf) | (with_reducible apply Dev.startFail_wf) | intro _ | simp only [memPart_mk, memPart_fold, State.onDev, State.onDevAs, implies_true, Dev.modStart_memPart, Dev.stageWork_memPart] | split | (refine (congrArg MemPart.wf (Dev.stageWork_memPart _ _ _ ?_)).trans ?_) | (refine (Dev.stageWork_memPart _ _ _ ?_).trans ?_) | (show Dev.memPart _ = Dev.memPart _; exact Eq.refl _)
  all_goals (try have hI0 := Dev.diePllsLock_memPart _ _ _ ‹_›)
  all_goals (try simp only [Prod.ext_iff] at *)
  all_goals (try casesm* _ ∧ _)
  all_goals subst_vars
  all_goals first | (with_reducible assumption) | (simp only [memPart_mk, memPart_fold, State.onDev, State.onDevAs, implies_true, Dev.modStart_memPart, Dev.stageWork_memPart]; done) | (simp only [memPart_mk, memPart_fold, State.onDev, State.onDevAs, implies_true, Dev.modStart_memPart, Dev.stageWork_memPart]; with_reducible assumption) | (simp only [memPart_mk, memPart_fold, State.onDev, State.onDevAs, implies_true, Dev.modStart_memPart, Dev.stageWork_memPart, hI0]; done) | (simp only [memPart_mk, memPart_fold, State.onDev, State.onDevAs, implies_true, Dev.modStart_memPart, Dev.stageWork_memPart, hI0]; with_reducible assumption)

theorem execPllNoLock_wf (n : Die) (s : State) (hw : s.dev.memPart.wf = true) :
    OutWf (execPllNoLock n s) := by
  unfold execPllNoLock
  repeat' first | (with_reducible assumption) | (with_reducible apply State.does_wf) | (with_reducible apply State.doesAs_wf) | (with_reducible apply next_wf) | (with_reducible apply Dev.startFail_wf) | intro _ | simp only [memPart_mk, memPart_fold, State.onDev, State.onDevAs, implies_true] | split

theorem execCalLoadComplete_wf (n : Die) (s : State) (hw : s.dev.memPart.wf = true) :
    OutWf (execCalLoadComplete n s) := by
  unfold execCalLoadComplete
  repeat' first | (with_reducible assumption) | (with_reducible apply State.does_wf) | (with_reducible apply State.doesAs_wf) | (with_reducible apply next_wf) | (with_reducible apply Dev.startFail_wf) | intro _ | simp only [memPart_mk, memPart_fold, State.onDev, State.onDevAs, implies_true, Dev.calLoad_memPart, Dev.modStart_memPart, Dev.stageWork_memPart] | split

theorem Dev.startDeskew_wf (d : Dev) (n : Nat) (vals : List (List Int)) (hw : d.memPart.wf = true) :
    (Dev.startDeskew d n vals).memPart.wf = true := by
  unfold Dev.startDeskew
  repeat' first | (with_reducible assumption) | (with_reducible apply Dev.startFail_wf) | intro _ | simp only [memPart_mk, memPart_fold, State.onDev, State.onDevAs, implies_true, Dev.measureGroup_memPart, Dev.modStart_memPart, Dev.stageCheck_memPart] | split

theorem execDeskewMeasurementDone_wf (n : Die) (vals : List (List Int)) (s : State) (hw : s.dev.memPart.wf = true) :
    OutWf (execDeskewMeasurementDone n vals s) := by
  unfold execDeskewMeasurementDone
  repeat' first | (with_reducible assumption) | (with_reducible apply State.does_wf) | (with_reducible apply State.doesAs_wf) | (with_reducible apply next_wf) | (with_reducible apply Dev.startDeskew_wf) | intro _ | simp only [memPart_mk, memPart_fold, State.onDev, State.onDevAs, implies_true, Dev.measureGroup_memPart, Dev.sweepEnds_memPart] | split

theorem Dev.watchdog_wf (d : Dev) (hw : d.memPart.wf = true) :
    (Dev.watchdog d).memPart.wf = true := by
  unfold Dev.watchdog
  repeat' first | (with_reducible assumption) | (with_reducible apply Dev.startFail_wf) | intro _ | simp only [memPart_mk, memPart_fold, State.onDev, State.onDevAs, implies_true] | split

theorem execStageTimeout_wf (s : State) (hw : s.dev.memPart.wf = true) :
    OutWf (execStageTimeout s) := by
  unfold execStageTimeout
  repeat' first | (with_reducible assumption) | (with_reducible apply State.does_wf) | (with_reducible apply State.doesAs_wf) | (with_reducible apply next_wf) | (with_reducible apply Dev.watchdog_wf) | intro _ | simp only [memPart_mk, memPart_fold, State.onDev, State.onDevAs, implies_true] | split

theorem Dev.fresh_wf (d : Dev) (regs : Tbl Nat) (hw : d.memPart.wf = true) : (Dev.fresh d regs).memPart.wf = true := by
  have h : (d.flashInterrupt).memPart.wf = true := Dev.flashInterrupt_wf d hw
  have h2 : ∀ e : Nat, (⟨[], [], e, d.flashInterrupt.flash⟩ : MemPart).wf = true := by
    intro e
    have h3 := (Memory.wf_iff _).mp h
    simp only [MemPart.wf, tblWf, tblSorted, List.all_nil, Bool.true_and, Bool.and_eq_true]
    exact ⟨h3.2.2.1, by simpa using h3.2.2.2⟩
  exact h2 _

theorem Dev.porReset_wf (d : Dev) (hw : d.memPart.wf = true) :
    (Dev.porReset d).memPart.wf = true := by
  unfold Dev.porReset
  repeat' first | (with_reducible assumption) | (with_reducible apply Dev.fresh_wf) | intro _ | simp only [memPart_mk, memPart_fold, State.onDev, State.onDevAs, implies_true, Dev.erasePor_memPart, Dev.strapped_memPart] | split

theorem Dev.drst_wf (d : Dev) (pin : Bool) (hw : d.memPart.wf = true) :
    (Dev.drst d pin).memPart.wf = true := by
  unfold Dev.drst
  repeat' first | (with_reducible assumption) | (with_reducible apply Dev.fresh_wf) | intro _ | simp only [memPart_mk, memPart_fold, State.onDev, State.onDevAs, implies_true, Dev.eraseDrst_memPart, Dev.modStart_memPart, Dev.put_memPart, Dev.setStage_memPart, Dev.strapped_memPart] | split

theorem execPor_wf (s : State) (hw : s.dev.memPart.wf = true) : OutWf (execPor s) := next_wf _ (Dev.porReset_wf _ hw)

theorem execDevRstNLow_wf (s : State) (hw : s.dev.memPart.wf = true) : OutWf (execDevRstNLow s) := by
  unfold execDevRstNLow
  apply next_wf
  split
  · exact hw
  · exact Dev.drst_wf _ _ hw

theorem execDevRstNHigh_wf (s : State) (hw : s.dev.memPart.wf = true) :
    OutWf (execDevRstNHigh s) := by
  unfold execDevRstNHigh
  repeat' first | (with_reducible assumption) | (with_reducible apply State.does_wf) | (with_reducible apply State.doesAs_wf) | (with_reducible apply next_wf) | intro _ | simp only [memPart_mk, memPart_fold, State.onDev, State.onDevAs, implies_true, Dev.modStart_memPart, Dev.setStage_memPart] | split

theorem execHostResetTakesEffect_wf (s : State) (hw : s.dev.memPart.wf = true) : OutWf (execHostResetTakesEffect s) := by
  unfold execHostResetTakesEffect
  apply next_wf
  split
  · exact Dev.drst_wf _ _ hw
  · exact hw

theorem Dev.bdRstWrite_wf (d : Dev) (hw : d.memPart.wf = true) :
    (Dev.bdRstWrite d).memPart.wf = true := by
  unfold Dev.bdRstWrite
  repeat' first | (with_reducible assumption) | (with_reducible apply Dev.holdDies_wf) | intro _ | simp only [memPart_mk, memPart_fold, State.onDev, State.onDevAs, implies_true, Dev.loadUnits_memPart, Dev.loaderSafe_memPart, Dev.put_memPart, Dev.refreshLines_memPart, Dev.reqRefused_memPart, Dev.set_memPart, Dev.setStage_memPart] | split

theorem Dev.resetWrite_wf (d : Dev) (w : Nat) (hw : d.memPart.wf = true) :
    (Dev.resetWrite d w).memPart.wf = true := by
  unfold Dev.resetWrite
  repeat' first | (with_reducible assumption) | (with_reducible apply Dev.bdRstWrite_wf) | (with_reducible apply Dev.each_wf) | intro _ | simp only [memPart_mk, memPart_fold, State.onDev, State.onDevAs, implies_true, Dev.cdRstWrite_memPart, Dev.coreRstWrite_memPart, Dev.drstWrite_memPart, Dev.each_memPart] | split

theorem execEvtTrigger_wf (line : Fin 8) (s : State) (hw : s.dev.memPart.wf = true) :
    OutWf (execEvtTrigger line s) := by
  unfold execEvtTrigger
  repeat' first | (with_reducible assumption) | (with_reducible apply State.does_wf) | (with_reducible apply State.doesAs_wf) | (with_reducible apply next_wf) | intro _ | simp only [memPart_mk, memPart_fold, State.onDev, State.onDevAs, implies_true, Dev.route_memPart] | split

theorem execTrigFTrigger_wf (n : Die) (line : Fin 8) (s : State) (hw : s.dev.memPart.wf = true) :
    OutWf (execTrigFTrigger n line s) := by
  unfold execTrigFTrigger
  repeat' first | (with_reducible assumption) | (with_reducible apply State.does_wf) | (with_reducible apply State.doesAs_wf) | (with_reducible apply next_wf) | intro _ | simp only [memPart_mk, memPart_fold, State.onDev, State.onDevAs, implies_true, Dev.route_memPart] | split

theorem execMboxFrom_wf (w : Word) (s : State) (hw : s.dev.memPart.wf = true) :
    OutWf (execMboxFrom w s) := by
  unfold execMboxFrom
  repeat' first | (with_reducible assumption) | (with_reducible apply State.does_wf) | (with_reducible apply State.doesAs_wf) | (with_reducible apply next_wf) | intro _ | simp only [memPart_mk, memPart_fold, State.onDev, State.onDevAs, implies_true, Dev.put_memPart, Dev.set_memPart] | split

theorem execSwapBegin_wf (s : State) (hw : s.dev.memPart.wf = true) :
    OutWf (execSwapBegin s) := by
  unfold execSwapBegin
  repeat' first | (with_reducible assumption) | (with_reducible apply State.does_wf) | (with_reducible apply State.doesAs_wf) | (with_reducible apply next_wf) | intro _ | simp only [memPart_mk, memPart_fold, State.onDev, State.onDevAs, implies_true, Dev.modSnt_memPart, Dev.put_memPart] | split

theorem execSwapTimeout_wf (s : State) (hw : s.dev.memPart.wf = true) :
    OutWf (execSwapTimeout s) := by
  unfold execSwapTimeout
  repeat' first | (with_reducible assumption) | (with_reducible apply State.does_wf) | (with_reducible apply State.doesAs_wf) | (with_reducible apply next_wf) | intro _ | simp only [memPart_mk, memPart_fold, State.onDev, State.onDevAs, implies_true, Dev.put_memPart, Dev.swapEnds_memPart] | split

theorem execSwapCrcCheck_wf (s : State) (hw : s.dev.memPart.wf = true) :
    OutWf (execSwapCrcCheck s) := by
  unfold execSwapCrcCheck
  repeat' first | (with_reducible assumption) | (with_reducible apply State.does_wf) | (with_reducible apply State.doesAs_wf) | (with_reducible apply next_wf) | intro _ | simp only [memPart_mk, memPart_fold, State.onDev, State.onDevAs, implies_true, Dev.flashDone_memPart, Dev.imageStops_memPart, Dev.put_memPart, Dev.swapEnds_memPart] | split

theorem Dev.swapStarts_wf (d : Dev) (out : ImgOut) (hw : d.memPart.wf = true) :
    (Dev.swapStarts d out).memPart.wf = true := by
  unfold Dev.swapStarts
  repeat' first | (with_reducible assumption) | (with_reducible apply Dev.imageStarts_wf) | intro _ | simp only [memPart_mk, memPart_fold, State.onDev, State.onDevAs, implies_true, Dev.swapEnds_memPart] | split

theorem execSwapLoadDone_wf (out : ImgOut) (s : State) (hw : s.dev.memPart.wf = true) :
    OutWf (execSwapLoadDone out s) := by
  unfold execSwapLoadDone
  repeat' first | (with_reducible assumption) | (with_reducible apply State.does_wf) | (with_reducible apply State.doesAs_wf) | (with_reducible apply next_wf) | (with_reducible apply Dev.swapStarts_wf) | intro _ | simp only [memPart_mk, memPart_fold, State.onDev, State.onDevAs, implies_true, Dev.flashDone_memPart, Dev.modSnt_memPart, Dev.put_memPart] | split

theorem execSwapReloadDone_wf (out : ImgOut) (s : State) (hw : s.dev.memPart.wf = true) :
    OutWf (execSwapReloadDone out s) := by
  unfold execSwapReloadDone
  repeat' first | (with_reducible assumption) | (with_reducible apply State.does_wf) | (with_reducible apply State.doesAs_wf) | (with_reducible apply next_wf) | (with_reducible apply Dev.swapStarts_wf) | intro _ | simp only [memPart_mk, memPart_fold, State.onDev, State.onDevAs, implies_true, Dev.defaultLoad_memPart, Dev.flashDone_memPart, Dev.logA_memPart] | split

theorem Dev.devWrite_wf (d : Dev) (m : Master) (a : Nat) (w : Nat) (hw : d.memPart.wf = true) :
    (Dev.devWrite d m a w).memPart.wf = true := by
  unfold Dev.devWrite
  repeat' first | (with_reducible assumption) | (with_reducible apply Dev.forceWrite_wf) | (with_reducible apply Dev.policyWrite_wf) | (with_reducible apply Dev.resetWrite_wf) | (with_reducible apply Dev.startWrite_wf) | intro _ | simp only [memPart_mk, memPart_fold, State.onDev, State.onDevAs, implies_true, Dev.flashWrite_memPart, Dev.lockedWr_memPart, Dev.mboxWrite_memPart, Dev.plainWrite_memPart, Dev.portWrite_memPart, Dev.releaseWrite_memPart, Dev.siteEntryWrite_memPart, Dev.streamAbort_memPart, Dev.swapWrite_memPart] | split

theorem Dev.regWrite_wf (d : Dev) (m : Master) (a : Nat) (w : Nat) (hw : d.memPart.wf = true) :
    (Dev.regWrite d m a w).memPart.wf = true := by
  unfold Dev.regWrite
  repeat' first | (with_reducible assumption) | (with_reducible apply Dev.devWrite_wf) | intro _ | simp only [memPart_mk, memPart_fold, State.onDev, State.onDevAs, implies_true, Dev.basWrite_memPart, Dev.dbgWrite_memPart, Dev.dieWrite_memPart, Dev.hostWrite_memPart, Dev.lcWrite_memPart, Dev.timWrite_memPart] | split

theorem State.regWrite_wf (s : State) (m : Master) (a : Nat) (w : Nat) (hw : s.dev.memPart.wf = true) :
    (State.regWrite s m a w).dev.memPart.wf = true := by
  unfold State.regWrite
  repeat' first | (with_reducible assumption) | (with_reducible apply Dev.regWrite_wf) | intro _ | simp only [memPart_mk, memPart_fold, State.onDev, State.onDevAs, implies_true, State.enterLoad_memPart, State.onDevAs_memPart, State.schedWrite_memPart, State.siteCmdBy_memPart, State.stepDisarm_memPart] | split

theorem State.busWrite_wf (s : State) (m : Master) (a : Nat) (w : Nat) (hw : s.dev.memPart.wf = true) :
    (State.busWrite s m a w).dev.memPart.wf = true := by
  unfold State.busWrite
  try dsimp only
  repeat' first | (with_reducible assumption) | (with_reducible apply Dev.regWrite_wf) | (with_reducible apply State.regWrite_wf) | intro _ | simp only [memPart_mk, memPart_fold, State.onDev, State.onDevAs, implies_true, Dev.portFault_memPart, Dev.regReach_memPart, Dev.writeDropped_memPart, State.onDev_memPart] | split | (refine (congrArg MemPart.wf (State.onDev_memPart _ _ ?_)).trans ?_) | (refine (State.onDev_memPart _ _ ?_).trans ?_) | (show Dev.memPart _ = Dev.memPart _; exact Eq.refl _)
  all_goals (try simp only [Prod.ext_iff] at *)
  all_goals (try casesm* _ ∧ _)
  all_goals subst_vars
  all_goals first | (with_reducible assumption) | (simp only [memPart_mk, memPart_fold, State.onDev, State.onDevAs, implies_true, Dev.portFault_memPart, Dev.regReach_memPart, Dev.writeDropped_memPart, State.onDev_memPart]; done) | (simp only [memPart_mk, memPart_fold, State.onDev, State.onDevAs, implies_true, Dev.portFault_memPart, Dev.regReach_memPart, Dev.writeDropped_memPart, State.onDev_memPart]; with_reducible assumption)

theorem execRgpPassEnd_wf (s : State) (hw : s.dev.memPart.wf = true) :
    OutWf (execRgpPassEnd s) := by
  unfold execRgpPassEnd
  try dsimp only
  repeat' first | (with_reducible assumption) | (with_reducible apply State.does_wf) | (with_reducible apply State.doesAs_wf) | (with_reducible apply next_wf) | (with_reducible apply Dev.asInjected_wf) | intro _ | simp only [memPart_mk, memPart_fold, State.onDev, State.onDevAs, implies_true, Dev.asInjected_memPart, Dev.passEnds_memPart, Dev.passKept_memPart] | split | (refine (congrArg MemPart.wf (Dev.asInjected_memPart _ _ ?_)).trans ?_) | (refine (Dev.asInjected_memPart _ _ ?_).trans ?_) | (show Dev.memPart _ = Dev.memPart _; exact Eq.refl _)
  all_goals (try have hI0 := Dev.inject_memPart _ _ _ _ _ ‹_›)
  all_goals (try simp only [Prod.ext_iff] at *)
  all_goals (try casesm* _ ∧ _)
  all_goals subst_vars
  all_goals first | (with_reducible assumption) | (simp only [memPart_mk, memPart_fold, State.onDev, State.onDevAs, implies_true, Dev.asInjected_memPart, Dev.passEnds_memPart, Dev.passKept_memPart]; done) | (simp only [memPart_mk, memPart_fold, State.onDev, State.onDevAs, implies_true, Dev.asInjected_memPart, Dev.passEnds_memPart, Dev.passKept_memPart]; with_reducible assumption) | (simp only [memPart_mk, memPart_fold, State.onDev, State.onDevAs, implies_true, Dev.asInjected_memPart, Dev.passEnds_memPart, Dev.passKept_memPart, hI0]; done) | (simp only [memPart_mk, memPart_fold, State.onDev, State.onDevAs, implies_true, Dev.asInjected_memPart, Dev.passEnds_memPart, Dev.passKept_memPart, hI0]; with_reducible assumption)

theorem execLifecycleFusesProgrammed_wf (s : State) (hw : s.dev.memPart.wf = true) :
    OutWf (execLifecycleFusesProgrammed s) := by
  unfold execLifecycleFusesProgrammed
  repeat' first | (with_reducible assumption) | (with_reducible apply State.does_wf) | (with_reducible apply State.doesAs_wf) | (with_reducible apply next_wf) | intro _ | simp only [memPart_mk, memPart_fold, State.onDev, State.onDevAs, implies_true] | split

theorem execOsc40kEdge_wf (s : State) (hw : s.dev.memPart.wf = true) :
    OutWf (execOsc40kEdge s) := by
  unfold execOsc40kEdge
  repeat' first | (with_reducible assumption) | (with_reducible apply State.does_wf) | (with_reducible apply State.doesAs_wf) | (with_reducible apply next_wf) | (with_reducible apply Dev.each_wf) | intro _ | simp only [memPart_mk, memPart_fold, State.onDev, State.onDevAs, implies_true, Dev.each_memPart, Dev.slowApply_memPart, Dev.slowRefresh_memPart] | split

theorem Dev.storeBytes_wf (d : Dev) (a : Nat) (l : List Byte) (hw : d.memPart.wf = true) :
    (Dev.storeBytes d a l).memPart.wf = true := by
  unfold Dev.storeBytes
  split
  · exact hw
  · exact Dev.pokeBytes_wf _ _ _ (by rw [Memory.wf, Dev.eccWrite_memPart]; exact hw)

theorem execHostMemoryRead_wf (m : Master) (addr : BitVec 48) (len : BitVec 16) (ue : Bool) (s : State) (hw : s.dev.memPart.wf = true) :
    OutWf (execHostMemoryRead m addr len ue s) := by
  unfold execHostMemoryRead
  repeat' first | (with_reducible assumption) | (with_reducible apply State.does_wf) | (with_reducible apply State.doesAs_wf) | (with_reducible apply next_wf) | intro _ | simp only [memPart_mk, memPart_fold, State.onDev, State.onDevAs, implies_true, Dev.busRead_memPart, Dev.dataRead_memPart, Dev.memMay_memPart, State.busRead_memPart] | split

theorem Dev.memWriteOk_wf (d : Dev) (m : Master) (a : Nat) (l : List Byte) (hw : d.memPart.wf = true) :
    (Dev.memWriteOk d m a l).1.memPart.wf = true := by
  unfold Dev.memWriteOk
  try dsimp only
  repeat' first | (with_reducible assumption) | (with_reducible apply Dev.storeBytes_wf) | intro _ | simp only [memPart_mk, memPart_fold, State.onDev, State.onDevAs, implies_true, Dev.memMay_memPart, Dev.memReach_memPart] | split | (show Dev.memPart _ = Dev.memPart _; exact Eq.refl _)
  all_goals (try simp only [Prod.ext_iff] at *)
  all_goals (try casesm* _ ∧ _)
  all_goals subst_vars
  all_goals first | (with_reducible assumption) | (simp only [memPart_mk, memPart_fold, State.onDev, State.onDevAs, implies_true, Dev.memMay_memPart, Dev.memReach_memPart]; done) | (simp only [memPart_mk, memPart_fold, State.onDev, State.onDevAs, implies_true, Dev.memMay_memPart, Dev.memReach_memPart]; with_reducible assumption)

theorem Dev.memWrite_wf (d : Dev) (m : Master) (a : Nat) (l : List Byte) (hw : d.memPart.wf = true) :
    (Dev.memWrite d m a l).memPart.wf = true := by
  unfold Dev.memWrite
  repeat' first | (with_reducible assumption) | (with_reducible apply Dev.memWriteOk_wf) | intro _ | simp only [memPart_mk, memPart_fold, State.onDev, State.onDevAs, implies_true] | split

theorem execHostMemoryWrite_wf (m : Master) (addr : BitVec 48) (bytes : List Byte) (s : State) (hw : s.dev.memPart.wf = true) :
    OutWf (execHostMemoryWrite m addr bytes s) := by
  unfold execHostMemoryWrite
  repeat' first | (with_reducible assumption) | (with_reducible apply State.does_wf) | (with_reducible apply State.doesAs_wf) | (with_reducible apply next_wf) | (with_reducible apply Dev.memWrite_wf) | (with_reducible apply State.busWrite_wf) | intro _ | simp only [memPart_mk, memPart_fold, State.onDev, State.onDevAs, implies_true, Dev.memMay_memPart, State.onDev_memPart] | split

theorem State.guestAccess_wf (s : State) (write : Bool) (a n : Nat) (data : List Byte) (hw : s.dev.memPart.wf = true) :
    (State.guestAccess s write a n data).dev.memPart.wf = true := by
  unfold State.guestAccess
  split
  · generalize hp : (if regHole a = true then (s.dev.unmapped, false)
        else if (s.dev.regDark a || s.dev.reaches .guest (sideOf a)) = true then (s.dev, true)
        else (s.dev.put K.NOP_STATUS_ACC_REFUSED true, false)) = p
    have h1 : p.1.memPart.wf = true := by
      rw [← hp]
      repeat' split
      · simp only [Dev.unmapped_memPart]; exact hw
      · exact hw
      · simp only [Dev.put_memPart]; exact hw
    dsimp only
    split
    · split
      · exact State.regWrite_wf _ _ _ _ h1
      · exact h1
    · split
      · simp only [Dev.readWord_memPart]; exact h1
      · exact h1
  · split
    · exact Dev.memWrite_wf _ _ _ _ hw
    · exact (congrArg MemPart.wf (Dev.memRead_memPart s.dev .guest a n false)).trans hw

theorem execGuestRequest_wf (write : Bool) (addr : BitVec 48) (len : BitVec 16) (data : List Byte) (s : State) (hw : s.dev.memPart.wf = true) :
    OutWf (execGuestRequest write addr len data s) := by
  unfold execGuestRequest
  try dsimp only
  repeat' first | (with_reducible assumption) | (with_reducible apply State.does_wf) | (with_reducible apply State.doesAs_wf) | (with_reducible apply next_wf) | (with_reducible apply State.guestAccess_wf) | (with_reducible apply Dev.asInjected_wf) | intro _ | simp only [memPart_mk, memPart_fold, State.onDev, State.onDevAs, implies_true, Dev.asInjected_memPart, Dev.fwlViolation_memPart, State.onDev_memPart] | split | (refine (congrArg MemPart.wf (Dev.asInjected_memPart _ _ ?_)).trans ?_) | (refine (congrArg MemPart.wf (State.onDev_memPart _ _ ?_)).trans ?_) | (refine (Dev.asInjected_memPart _ _ ?_).trans ?_) | (refine (State.onDev_memPart _ _ ?_).trans ?_) | (show Dev.memPart _ = Dev.memPart _; exact Eq.refl _)
  all_goals (try have hI0 := Dev.inject_memPart _ _ _ _ _ ‹_›)
  all_goals (try simp only [Prod.ext_iff] at *)
  all_goals (try casesm* _ ∧ _)
  all_goals subst_vars
  all_goals first | (with_reducible assumption) | (simp only [memPart_mk, memPart_fold, State.onDev, State.onDevAs, implies_true, Dev.asInjected_memPart, Dev.fwlViolation_memPart, State.onDev_memPart]; done) | (simp only [memPart_mk, memPart_fold, State.onDev, State.onDevAs, implies_true, Dev.asInjected_memPart, Dev.fwlViolation_memPart, State.onDev_memPart]; with_reducible assumption) | (simp only [memPart_mk, memPart_fold, State.onDev, State.onDevAs, implies_true, Dev.asInjected_memPart, Dev.fwlViolation_memPart, State.onDev_memPart, hI0]; done) | (simp only [memPart_mk, memPart_fold, State.onDev, State.onDevAs, implies_true, Dev.asInjected_memPart, Dev.fwlViolation_memPart, State.onDev_memPart, hI0]; with_reducible assumption)

theorem execPatrolRead_wf (stack : Fin 2) (block : Fin 768) (err : Option (BitVec 26 × Bool)) (s : State) (hw : s.dev.memPart.wf = true) :
    OutWf (execPatrolRead stack block err s) := by
  unfold execPatrolRead
  try dsimp only
  repeat' first | (with_reducible assumption) | (with_reducible apply State.does_wf) | (with_reducible apply State.doesAs_wf) | (with_reducible apply next_wf) | intro _ | simp only [memPart_mk, memPart_fold, State.onDev, State.onDevAs, implies_true, Dev.eccRead_memPart, Dev.leaseRelease_memPart, Dev.leaseReq_memPart, Dev.memCE_memPart, Dev.memUE_memPart] | split | (show Dev.memPart _ = Dev.memPart _; exact Eq.refl _)
  all_goals (try simp only [Prod.ext_iff] at *)
  all_goals (try casesm* _ ∧ _)
  all_goals subst_vars
  all_goals first | (with_reducible assumption) | (simp only [memPart_mk, memPart_fold, State.onDev, State.onDevAs, implies_true, Dev.eccRead_memPart, Dev.leaseRelease_memPart, Dev.leaseReq_memPart, Dev.memCE_memPart, Dev.memUE_memPart]; done) | (simp only [memPart_mk, memPart_fold, State.onDev, State.onDevAs, implies_true, Dev.eccRead_memPart, Dev.leaseRelease_memPart, Dev.leaseReq_memPart, Dev.memCE_memPart, Dev.memUE_memPart]; with_reducible assumption)

theorem execLd_wf (x : CtlId) (rd : Reg) (rs1 : Reg) (sz : BitVec 2) (u : Bool) (f : Bool) (off : BitVec 39) (s : State) (hw : s.dev.memPart.wf = true) :
    OutWf (execLd x rd rs1 sz u f off s) := by
  unfold execLd
  try dsimp only
  repeat' first | (with_reducible assumption) | (with_reducible apply State.does_wf) | (with_reducible apply State.doesAs_wf) | (with_reducible apply next_wf) | intro _ | simp only [memPart_mk, memPart_fold, State.onDev, State.onDevAs, implies_true, Dev.ctlAccess_memPart, Dev.illegal_memPart, Dev.issue_memPart, Dev.modCore_memPart] | split | (refine (congrArg MemPart.wf (Dev.issue_memPart _ _ _ _ _ _ ?_)).trans ?_) | (refine (Dev.issue_memPart _ _ _ _ _ _ ?_).trans ?_) | (show Dev.memPart _ = Dev.memPart _; exact Eq.refl _)
  all_goals (try simp only [Prod.ext_iff] at *)
  all_goals (try casesm* _ ∧ _)
  all_goals subst_vars
  all_goals first | (with_reducible assumption) | (simp only [memPart_mk, memPart_fold, State.onDev, State.onDevAs, implies_true, Dev.ctlAccess_memPart, Dev.illegal_memPart, Dev.issue_memPart, Dev.modCore_memPart]; done) | (simp only [memPart_mk, memPart_fold, State.onDev, State.onDevAs, implies_true, Dev.ctlAccess_memPart, Dev.illegal_memPart, Dev.issue_memPart, Dev.modCore_memPart]; with_reducible assumption)

theorem execSt_wf (x : CtlId) (rs1 : Reg) (rs2 : Reg) (sz : BitVec 2) (f : Bool) (off : BitVec 39) (s : State) (hw : s.dev.memPart.wf = true) :
    OutWf (execSt x rs1 rs2 sz f off s) := by
  unfold execSt
  try dsimp only
  repeat' first | (with_reducible assumption) | (with_reducible apply State.does_wf) | (with_reducible apply State.doesAs_wf) | (with_reducible apply next_wf) | (with_reducible apply Dev.store_wf) | intro _ | simp only [memPart_mk, memPart_fold, State.onDev, State.onDevAs, implies_true, Dev.ctlAccess_memPart, Dev.illegal_memPart, Dev.issue_memPart, Dev.modCore_memPart] | split | (refine (congrArg MemPart.wf (Dev.issue_memPart _ _ _ _ _ _ ?_)).trans ?_) | (refine (Dev.issue_memPart _ _ _ _ _ _ ?_).trans ?_) | (show Dev.memPart _ = Dev.memPart _; exact Eq.refl _)
  all_goals (try simp only [Prod.ext_iff] at *)
  all_goals (try casesm* _ ∧ _)
  all_goals subst_vars
  all_goals first | (with_reducible assumption) | (simp only [memPart_mk, memPart_fold, State.onDev, State.onDevAs, implies_true, Dev.ctlAccess_memPart, Dev.illegal_memPart, Dev.issue_memPart, Dev.modCore_memPart]; done) | (simp only [memPart_mk, memPart_fold, State.onDev, State.onDevAs, implies_true, Dev.ctlAccess_memPart, Dev.illegal_memPart, Dev.issue_memPart, Dev.modCore_memPart]; with_reducible assumption)

theorem execLoadDataArrival_wf (x : CtlId) (k : Nat) (ue : Bool) (s : State) (hw : s.dev.memPart.wf = true) :
    OutWf (execLoadDataArrival x k ue s) := by
  unfold execLoadDataArrival
  try dsimp only
  repeat' first | (with_reducible assumption) | (with_reducible apply State.does_wf) | (with_reducible apply State.doesAs_wf) | (with_reducible apply next_wf) | intro _ | simp only [memPart_mk, memPart_fold, State.onDev, State.onDevAs, implies_true, Dev.ctlRead_memPart, Dev.lateFault_memPart, Dev.modCore_memPart] | split | (show Dev.memPart _ = Dev.memPart _; exact Eq.refl _)
  all_goals (try simp only [Prod.ext_iff] at *)
  all_goals (try casesm* _ ∧ _)
  all_goals subst_vars
  all_goals first | (with_reducible assumption) | (simp only [memPart_mk, memPart_fold, State.onDev, State.onDevAs, implies_true, Dev.ctlRead_memPart, Dev.lateFault_memPart, Dev.modCore_memPart]; done) | (simp only [memPart_mk, memPart_fold, State.onDev, State.onDevAs, implies_true, Dev.ctlRead_memPart, Dev.lateFault_memPart, Dev.modCore_memPart]; with_reducible assumption)

theorem State.ctlWrite_wf (s : State) (x : Nat) (a : Nat) (n : Nat) (v : Nat) (hw : s.dev.memPart.wf = true) :
    (State.ctlWrite s x a n v).dev.memPart.wf = true := by
  unfold State.ctlWrite
  repeat' first | (with_reducible assumption) | (with_reducible apply Dev.regWrite_wf) | (with_reducible apply Dev.storeBytes_wf) | (with_reducible apply State.regWrite_wf) | intro _ | simp only [memPart_mk, memPart_fold, State.onDev, State.onDevAs, implies_true, State.onDev_memPart] | split

theorem execStoreComplete_wf (x : CtlId) (k : Nat) (s : State) (hw : s.dev.memPart.wf = true) :
    OutWf (execStoreComplete x k s) := by
  unfold execStoreComplete
  try dsimp only
  repeat' first | (with_reducible assumption) | (with_reducible apply State.does_wf) | (with_reducible apply State.doesAs_wf) | (with_reducible apply next_wf) | (with_reducible apply State.ctlWrite_wf) | intro _ | simp only [memPart_mk, memPart_fold, State.onDev, State.onDevAs, implies_true, Dev.ctlJudge_memPart, Dev.lateFault_memPart, Dev.modCore_memPart, State.onDev_memPart] | split | (refine (congrArg MemPart.wf (State.onDev_memPart _ _ ?_)).trans ?_) | (refine (State.onDev_memPart _ _ ?_).trans ?_) | (show Dev.memPart _ = Dev.memPart _; exact Eq.refl _)
  all_goals (try simp only [Prod.ext_iff] at *)
  all_goals (try casesm* _ ∧ _)
  all_goals subst_vars
  all_goals first | (with_reducible assumption) | (simp only [memPart_mk, memPart_fold, State.onDev, State.onDevAs, implies_true, Dev.ctlJudge_memPart, Dev.lateFault_memPart, Dev.modCore_memPart, State.onDev_memPart]; done) | (simp only [memPart_mk, memPart_fold, State.onDev, State.onDevAs, implies_true, Dev.ctlJudge_memPart, Dev.lateFault_memPart, Dev.modCore_memPart, State.onDev_memPart]; with_reducible assumption)

theorem State.trigger_wf (s : State) (m : Master) (a : Nat) (bits : Nat) (hw : s.dev.memPart.wf = true) :
    OutWf (State.trigger s m a bits) := by
  unfold State.trigger
  repeat' first | (with_reducible assumption) | (with_reducible apply State.does_wf) | (with_reducible apply State.doesAs_wf) | (with_reducible apply next_wf) | (with_reducible apply State.busWrite_wf) | intro _ | simp only [memPart_mk, memPart_fold, State.onDev, State.onDevAs, implies_true] | split

theorem State.writes_wf (s : State) (m : Master) (a : Nat) (w : Nat) (hw : s.dev.memPart.wf = true) :
    OutWf (State.writes s m a w) := by
  unfold State.writes
  repeat' first | (with_reducible assumption) | (with_reducible apply State.does_wf) | (with_reducible apply State.doesAs_wf) | (with_reducible apply next_wf) | (with_reducible apply State.busWrite_wf) | intro _ | simp only [memPart_mk, memPart_fold, State.onDev, State.onDevAs, implies_true] | split

theorem State.reads_wf (s : State) (m : Master) (a : Nat) (hw : s.dev.memPart.wf = true) :
    OutWf (State.reads s m a) := by
  unfold State.reads
  repeat' first | (with_reducible assumption) | (with_reducible apply State.does_wf) | (with_reducible apply State.doesAs_wf) | (with_reducible apply next_wf) | intro _ | simp only [memPart_mk, memPart_fold, State.onDev, State.onDevAs, implies_true, Dev.busRead_memPart, State.busRead_memPart] | split

theorem execStartRequest_wf (m : Master) (s : State) (hw : s.dev.memPart.wf = true) :
    OutWf (execStartRequest m s) := by
  unfold execStartRequest
  repeat' first | (with_reducible assumption) | (with_reducible apply State.does_wf) | (with_reducible apply State.doesAs_wf) | (with_reducible apply next_wf) | (with_reducible apply State.trigger_wf) | intro _ | simp only [memPart_mk, memPart_fold, State.onDev, State.onDevAs, implies_true] | split

theorem execEnterLoad_wf (m : Master) (s : State) (hw : s.dev.memPart.wf = true) :
    OutWf (execEnterLoad m s) := by
  unfold execEnterLoad
  repeat' first | (with_reducible assumption) | (with_reducible apply State.does_wf) | (with_reducible apply State.doesAs_wf) | (with_reducible apply next_wf) | (with_reducible apply State.writes_wf) | intro _ | simp only [memPart_mk, memPart_fold, State.onDev, State.onDevAs, implies_true] | split

theorem execDrst_wf (m : Master) (s : State) (hw : s.dev.memPart.wf = true) :
    OutWf (execDrst m s) := by
  unfold execDrst
  repeat' first | (with_reducible assumption) | (with_reducible apply State.does_wf) | (with_reducible apply State.doesAs_wf) | (with_reducible apply next_wf) | (with_reducible apply State.writes_wf) | intro _ | simp only [memPart_mk, memPart_fold, State.onDev, State.onDevAs, implies_true] | split

theorem execCdRst_wf (m : Master) (d : Die) (s : State) (hw : s.dev.memPart.wf = true) :
    OutWf (execCdRst m d s) := by
  unfold execCdRst
  repeat' first | (with_reducible assumption) | (with_reducible apply State.does_wf) | (with_reducible apply State.doesAs_wf) | (with_reducible apply next_wf) | (with_reducible apply State.writes_wf) | intro _ | simp only [memPart_mk, memPart_fold, State.onDev, State.onDevAs, implies_true] | split

theorem execBdRst_wf (m : Master) (s : State) (hw : s.dev.memPart.wf = true) :
    OutWf (execBdRst m s) := by
  unfold execBdRst
  repeat' first | (with_reducible assumption) | (with_reducible apply State.does_wf) | (with_reducible apply State.doesAs_wf) | (with_reducible apply next_wf) | (with_reducible apply State.writes_wf) | intro _ | simp only [memPart_mk, memPart_fold, State.onDev, State.onDevAs, implies_true] | split

theorem execCoreRst_wf (m : Master) (q : CoreId) (s : State) (hw : s.dev.memPart.wf = true) :
    OutWf (execCoreRst m q s) := by
  unfold execCoreRst
  repeat' first | (with_reducible assumption) | (with_reducible apply State.does_wf) | (with_reducible apply State.doesAs_wf) | (with_reducible apply next_wf) | (with_reducible apply State.writes_wf) | intro _ | simp only [memPart_mk, memPart_fold, State.onDev, State.onDevAs, implies_true] | split

theorem execLifecycleRequest_wf (m : Master) (target : BitVec 3) (key : BitVec 8) (s : State) (hw : s.dev.memPart.wf = true) :
    OutWf (execLifecycleRequest m target key s) := by
  unfold execLifecycleRequest
  repeat' first | (with_reducible assumption) | (with_reducible apply State.does_wf) | (with_reducible apply State.doesAs_wf) | (with_reducible apply next_wf) | (with_reducible apply State.writes_wf) | intro _ | simp only [memPart_mk, memPart_fold, State.onDev, State.onDevAs, implies_true] | split

theorem execSntGroupForceWrite_wf (m : Master) (v : BitVec 16) (s : State) (hw : s.dev.memPart.wf = true) :
    OutWf (execSntGroupForceWrite m v s) := by
  unfold execSntGroupForceWrite
  repeat' first | (with_reducible assumption) | (with_reducible apply State.does_wf) | (with_reducible apply State.doesAs_wf) | (with_reducible apply next_wf) | (with_reducible apply State.writes_wf) | intro _ | simp only [memPart_mk, memPart_fold, State.onDev, State.onDevAs, implies_true] | split

theorem execSntPolicyWrite_wf (m : Master) (v : BitVec 16) (s : State) (hw : s.dev.memPart.wf = true) :
    OutWf (execSntPolicyWrite m v s) := by
  unfold execSntPolicyWrite
  repeat' first | (with_reducible assumption) | (with_reducible apply State.does_wf) | (with_reducible apply State.doesAs_wf) | (with_reducible apply next_wf) | (with_reducible apply State.writes_wf) | intro _ | simp only [memPart_mk, memPart_fold, State.onDev, State.onDevAs, implies_true] | split

theorem execMboxFromRead_wf (m : Master) (s : State) (hw : s.dev.memPart.wf = true) :
    OutWf (execMboxFromRead m s) := by
  unfold execMboxFromRead
  repeat' first | (with_reducible assumption) | (with_reducible apply State.does_wf) | (with_reducible apply State.doesAs_wf) | (with_reducible apply next_wf) | (with_reducible apply State.reads_wf) | intro _ | simp only [memPart_mk, memPart_fold, State.onDev, State.onDevAs, implies_true] | split

theorem execMboxToWrite_wf (m : Master) (w : Word) (s : State) (hw : s.dev.memPart.wf = true) :
    OutWf (execMboxToWrite m w s) := by
  unfold execMboxToWrite
  repeat' first | (with_reducible assumption) | (with_reducible apply State.does_wf) | (with_reducible apply State.doesAs_wf) | (with_reducible apply next_wf) | (with_reducible apply State.writes_wf) | intro _ | simp only [memPart_mk, memPart_fold, State.onDev, State.onDevAs, implies_true] | split

theorem execSwapRequest_wf (m : Master) (key : BitVec 8) (s : State) (hw : s.dev.memPart.wf = true) :
    OutWf (execSwapRequest m key s) := by
  unfold execSwapRequest
  repeat' first | (with_reducible assumption) | (with_reducible apply State.does_wf) | (with_reducible apply State.doesAs_wf) | (with_reducible apply next_wf) | (with_reducible apply State.writes_wf) | intro _ | simp only [memPart_mk, memPart_fold, State.onDev, State.onDevAs, implies_true] | split

theorem execSwapCancel_wf (m : Master) (key : BitVec 8) (s : State) (hw : s.dev.memPart.wf = true) :
    OutWf (execSwapCancel m key s) := by
  unfold execSwapCancel
  repeat' first | (with_reducible assumption) | (with_reducible apply State.does_wf) | (with_reducible apply State.doesAs_wf) | (with_reducible apply next_wf) | (with_reducible apply State.writes_wf) | intro _ | simp only [memPart_mk, memPart_fold, State.onDev, State.onDevAs, implies_true] | split

theorem execAcquire_wf (m : Master) (s : State) (hw : s.dev.memPart.wf = true) :
    OutWf (execAcquire m s) := by
  unfold execAcquire
  repeat' first | (with_reducible assumption) | (with_reducible apply State.does_wf) | (with_reducible apply State.doesAs_wf) | (with_reducible apply next_wf) | (with_reducible apply State.trigger_wf) | intro _ | simp only [memPart_mk, memPart_fold, State.onDev, State.onDevAs, implies_true] | split

theorem execGo_wf (m : Master) (s : State) (hw : s.dev.memPart.wf = true) :
    OutWf (execGo m s) := by
  unfold execGo
  repeat' first | (with_reducible assumption) | (with_reducible apply State.does_wf) | (with_reducible apply State.doesAs_wf) | (with_reducible apply next_wf) | (with_reducible apply State.writes_wf) | intro _ | simp only [memPart_mk, memPart_fold, State.onDev, State.onDevAs, implies_true] | split

theorem execTimTtiLoRead_wf (m : Master) (s : State) (hw : s.dev.memPart.wf = true) :
    OutWf (execTimTtiLoRead m s) := by
  unfold execTimTtiLoRead
  repeat' first | (with_reducible assumption) | (with_reducible apply State.does_wf) | (with_reducible apply State.doesAs_wf) | (with_reducible apply next_wf) | (with_reducible apply State.reads_wf) | intro _ | simp only [memPart_mk, memPart_fold, State.onDev, State.onDevAs, implies_true] | split

theorem execTimTickRead_wf (m : Master) (s : State) (hw : s.dev.memPart.wf = true) :
    OutWf (execTimTickRead m s) := by
  unfold execTimTickRead
  repeat' first | (with_reducible assumption) | (with_reducible apply State.does_wf) | (with_reducible apply State.doesAs_wf) | (with_reducible apply next_wf) | (with_reducible apply State.reads_wf) | intro _ | simp only [memPart_mk, memPart_fold, State.onDev, State.onDevAs, implies_true] | split

theorem execTimSecLoRead_wf (m : Master) (s : State) (hw : s.dev.memPart.wf = true) :
    OutWf (execTimSecLoRead m s) := by
  unfold execTimSecLoRead
  repeat' first | (with_reducible assumption) | (with_reducible apply State.does_wf) | (with_reducible apply State.doesAs_wf) | (with_reducible apply next_wf) | (with_reducible apply State.reads_wf) | intro _ | simp only [memPart_mk, memPart_fold, State.onDev, State.onDevAs, implies_true] | split

theorem execTimSecHiRead_wf (m : Master) (s : State) (hw : s.dev.memPart.wf = true) :
    OutWf (execTimSecHiRead m s) := by
  unfold execTimSecHiRead
  repeat' first | (with_reducible assumption) | (with_reducible apply State.does_wf) | (with_reducible apply State.doesAs_wf) | (with_reducible apply next_wf) | (with_reducible apply State.reads_wf) | intro _ | simp only [memPart_mk, memPart_fold, State.onDev, State.onDevAs, implies_true] | split

theorem execSnapshotLoRead_wf (m : Master) (addr : BitVec 24) (s : State) (hw : s.dev.memPart.wf = true) :
    OutWf (execSnapshotLoRead m addr s) := by
  unfold execSnapshotLoRead
  repeat' first | (with_reducible assumption) | (with_reducible apply State.does_wf) | (with_reducible apply State.doesAs_wf) | (with_reducible apply next_wf) | (with_reducible apply State.reads_wf) | intro _ | simp only [memPart_mk, memPart_fold, State.onDev, State.onDevAs, implies_true] | split

theorem execArm_wf (m : Master) (t : TblId) (e : Fin 256) (w : Word) (s : State) (hw : s.dev.memPart.wf = true) :
    OutWf (execArm m t e w s) := by
  unfold execArm
  repeat' first | (with_reducible assumption) | (with_reducible apply State.does_wf) | (with_reducible apply State.doesAs_wf) | (with_reducible apply next_wf) | (with_reducible apply State.writes_wf) | intro _ | simp only [memPart_mk, memPart_fold, State.onDev, State.onDevAs, implies_true] | split

theorem execDisarm_wf (m : Master) (t : TblId) (e : Fin 256) (w : Word) (s : State) (hw : s.dev.memPart.wf = true) :
    OutWf (execDisarm m t e w s) := by
  unfold execDisarm
  repeat' first | (with_reducible assumption) | (with_reducible apply State.does_wf) | (with_reducible apply State.doesAs_wf) | (with_reducible apply next_wf) | (with_reducible apply State.writes_wf) | intro _ | simp only [memPart_mk, memPart_fold, State.onDev, State.onDevAs, implies_true] | split

theorem execEviCntLoad_wf (m : Master) (q : CoreId) (inp : Fin 16) (v : BitVec 8) (s : State) (hw : s.dev.memPart.wf = true) :
    OutWf (execEviCntLoad m q inp v s) := by
  unfold execEviCntLoad
  repeat' first | (with_reducible assumption) | (with_reducible apply State.does_wf) | (with_reducible apply State.doesAs_wf) | (with_reducible apply next_wf) | (with_reducible apply State.writes_wf) | intro _ | simp only [memPart_mk, memPart_fold, State.onDev, State.onDevAs, implies_true] | split

theorem execCounterLoWrite_wf (m : Master) (addr : BitVec 24) (v : Word) (s : State) (hw : s.dev.memPart.wf = true) :
    OutWf (execCounterLoWrite m addr v s) := by
  unfold execCounterLoWrite
  repeat' first | (with_reducible assumption) | (with_reducible apply State.does_wf) | (with_reducible apply State.doesAs_wf) | (with_reducible apply next_wf) | (with_reducible apply State.writes_wf) | intro _ | simp only [memPart_mk, memPart_fold, State.onDev, State.onDevAs, implies_true] | split

theorem execWmHitClear_wf (m : Master) (addr : BitVec 24) (s : State) (hw : s.dev.memPart.wf = true) :
    OutWf (execWmHitClear m addr s) := by
  unfold execWmHitClear
  split
  · exact State.trigger_wf _ _ _ _ hw
  · exact next_wf _ hw

theorem execIcacheInv_wf (m : Master) (q : CoreId) (s : State) (hw : s.dev.memPart.wf = true) :
    OutWf (execIcacheInv m q s) := by
  unfold execIcacheInv
  repeat' first | (with_reducible assumption) | (with_reducible apply State.does_wf) | (with_reducible apply State.doesAs_wf) | (with_reducible apply next_wf) | (with_reducible apply State.trigger_wf) | intro _ | simp only [memPart_mk, memPart_fold, State.onDev, State.onDevAs, implies_true] | split

theorem execPdCfgStart_wf (m : Master) (d : Die) (pd : Fin 16) (s : State) (hw : s.dev.memPart.wf = true) :
    OutWf (execPdCfgStart m d pd s) := by
  unfold execPdCfgStart
  repeat' first | (with_reducible assumption) | (with_reducible apply State.does_wf) | (with_reducible apply State.doesAs_wf) | (with_reducible apply next_wf) | (with_reducible apply State.trigger_wf) | intro _ | simp only [memPart_mk, memPart_fold, State.onDev, State.onDevAs, implies_true] | split

theorem execPdCfgStop_wf (m : Master) (d : Die) (pd : Fin 16) (s : State) (hw : s.dev.memPart.wf = true) :
    OutWf (execPdCfgStop m d pd s) := by
  unfold execPdCfgStop
  repeat' first | (with_reducible assumption) | (with_reducible apply State.does_wf) | (with_reducible apply State.doesAs_wf) | (with_reducible apply next_wf) | (with_reducible apply State.trigger_wf) | intro _ | simp only [memPart_mk, memPart_fold, State.onDev, State.onDevAs, implies_true] | split

theorem execPllStepArm_wf (m : Master) (d : Die) (p : Fin 2) (s : State) (hw : s.dev.memPart.wf = true) :
    OutWf (execPllStepArm m d p s) := by
  unfold execPllStepArm
  repeat' first | (with_reducible assumption) | (with_reducible apply State.does_wf) | (with_reducible apply State.doesAs_wf) | (with_reducible apply next_wf) | (with_reducible apply State.writes_wf) | intro _ | simp only [memPart_mk, memPart_fold, State.onDev, State.onDevAs, implies_true] | split

theorem execPllStepDisarm_wf (m : Master) (d : Die) (p : Fin 2) (s : State) (hw : s.dev.memPart.wf = true) :
    OutWf (execPllStepDisarm m d p s) := by
  unfold execPllStepDisarm
  repeat' first | (with_reducible assumption) | (with_reducible apply State.does_wf) | (with_reducible apply State.doesAs_wf) | (with_reducible apply next_wf) | (with_reducible apply State.writes_wf) | intro _ | simp only [memPart_mk, memPart_fold, State.onDev, State.onDevAs, implies_true] | split

theorem execRelock_wf (m : Master) (d : Die) (s : State) (hw : s.dev.memPart.wf = true) :
    OutWf (execRelock m d s) := by
  unfold execRelock
  repeat' first | (with_reducible assumption) | (with_reducible apply State.does_wf) | (with_reducible apply State.doesAs_wf) | (with_reducible apply next_wf) | (with_reducible apply State.trigger_wf) | intro _ | simp only [memPart_mk, memPart_fold, State.onDev, State.onDevAs, implies_true] | split

theorem execSweep_wf (m : Master) (d : Die) (s : State) (hw : s.dev.memPart.wf = true) :
    OutWf (execSweep m d s) := by
  unfold execSweep
  repeat' first | (with_reducible assumption) | (with_reducible apply State.does_wf) | (with_reducible apply State.doesAs_wf) | (with_reducible apply next_wf) | (with_reducible apply State.trigger_wf) | intro _ | simp only [memPart_mk, memPart_fold, State.onDev, State.onDevAs, implies_true] | split

theorem execRsuClr_wf (m : Master) (d : Die) (r : Fin 16) (s : State) (hw : s.dev.memPart.wf = true) :
    OutWf (execRsuClr m d r s) := by
  unfold execRsuClr
  repeat' first | (with_reducible assumption) | (with_reducible apply State.does_wf) | (with_reducible apply State.doesAs_wf) | (with_reducible apply next_wf) | (with_reducible apply State.writes_wf) | intro _ | simp only [memPart_mk, memPart_fold, State.onDev, State.onDevAs, implies_true] | split

theorem execCmpMaskWrite_wf (m : Master) (d : Die) (i : Fin 4) (v : Word) (s : State) (hw : s.dev.memPart.wf = true) :
    OutWf (execCmpMaskWrite m d i v s) := by
  unfold execCmpMaskWrite
  repeat' first | (with_reducible assumption) | (with_reducible apply State.does_wf) | (with_reducible apply State.doesAs_wf) | (with_reducible apply next_wf) | (with_reducible apply State.writes_wf) | intro _ | simp only [memPart_mk, memPart_fold, State.onDev, State.onDevAs, implies_true] | split

theorem execRdPtrWrite_wf (m : Master) (d : Die) (s' : SiteId) (v : Word) (s : State) (hw : s.dev.memPart.wf = true) :
    OutWf (execRdPtrWrite m d s' v s) := by
  unfold execRdPtrWrite
  repeat' first | (with_reducible assumption) | (with_reducible apply State.does_wf) | (with_reducible apply State.doesAs_wf) | (with_reducible apply next_wf) | (with_reducible apply State.writes_wf) | intro _ | simp only [memPart_mk, memPart_fold, State.onDev, State.onDevAs, implies_true] | split

theorem execPrAbort_wf (m : Master) (d : Die) (r : Fin 8) (s : State) (hw : s.dev.memPart.wf = true) :
    OutWf (execPrAbort m d r s) := by
  unfold execPrAbort
  repeat' first | (with_reducible assumption) | (with_reducible apply State.does_wf) | (with_reducible apply State.doesAs_wf) | (with_reducible apply next_wf) | (with_reducible apply State.writes_wf) | intro _ | simp only [memPart_mk, memPart_fold, State.onDev, State.onDevAs, implies_true] | split

theorem execRecover_wf (m : Master) (d : Die) (s : State) (hw : s.dev.memPart.wf = true) :
    OutWf (execRecover m d s) := by
  unfold execRecover
  repeat' first | (with_reducible assumption) | (with_reducible apply State.does_wf) | (with_reducible apply State.doesAs_wf) | (with_reducible apply next_wf) | (with_reducible apply State.trigger_wf) | intro _ | simp only [memPart_mk, memPart_fold, State.onDev, State.onDevAs, implies_true] | split

theorem execRpsNop_wf (m : Master) (s' : SiteId) (s : State) (hw : s.dev.memPart.wf = true) :
    OutWf (execRpsNop m s' s) := by
  unfold execRpsNop
  repeat' first | (with_reducible assumption) | (with_reducible apply State.does_wf) | (with_reducible apply State.doesAs_wf) | (with_reducible apply next_wf) | (with_reducible apply State.writes_wf) | intro _ | simp only [memPart_mk, memPart_fold, State.onDev, State.onDevAs, implies_true] | split

theorem execSolve_wf (m : Master) (s' : SiteId) (s : State) (hw : s.dev.memPart.wf = true) :
    OutWf (execSolve m s' s) := by
  unfold execSolve
  repeat' first | (with_reducible assumption) | (with_reducible apply State.does_wf) | (with_reducible apply State.doesAs_wf) | (with_reducible apply next_wf) | (with_reducible apply State.writes_wf) | intro _ | simp only [memPart_mk, memPart_fold, State.onDev, State.onDevAs, implies_true] | split

theorem execCancel_wf (m : Master) (s' : SiteId) (s : State) (hw : s.dev.memPart.wf = true) :
    OutWf (execCancel m s' s) := by
  unfold execCancel
  repeat' first | (with_reducible assumption) | (with_reducible apply State.does_wf) | (with_reducible apply State.doesAs_wf) | (with_reducible apply next_wf) | (with_reducible apply State.writes_wf) | intro _ | simp only [memPart_mk, memPart_fold, State.onDev, State.onDevAs, implies_true] | split

theorem execClear_wf (m : Master) (s' : SiteId) (s : State) (hw : s.dev.memPart.wf = true) :
    OutWf (execClear m s' s) := by
  unfold execClear
  repeat' first | (with_reducible assumption) | (with_reducible apply State.does_wf) | (with_reducible apply State.doesAs_wf) | (with_reducible apply next_wf) | (with_reducible apply State.writes_wf) | intro _ | simp only [memPart_mk, memPart_fold, State.onDev, State.onDevAs, implies_true] | split

theorem execRpsBadOp_wf (m : Master) (op : BitVec 4) (s' : SiteId) (s : State) (hw : s.dev.memPart.wf = true) :
    OutWf (execRpsBadOp m op s' s) := by
  unfold execRpsBadOp
  repeat' first | (with_reducible assumption) | (with_reducible apply State.does_wf) | (with_reducible apply State.doesAs_wf) | (with_reducible apply next_wf) | (with_reducible apply State.writes_wf) | intro _ | simp only [memPart_mk, memPart_fold, State.onDev, State.onDevAs, implies_true] | split

theorem execSiteNop_wf (m : Master) (s' : SiteId) (s : State) (hw : s.dev.memPart.wf = true) :
    OutWf (execSiteNop m s' s) := by
  unfold execSiteNop
  repeat' first | (with_reducible assumption) | (with_reducible apply State.does_wf) | (with_reducible apply State.doesAs_wf) | (with_reducible apply next_wf) | (with_reducible apply State.writes_wf) | intro _ | simp only [memPart_mk, memPart_fold, State.onDev, State.onDevAs, implies_true] | split

theorem execAdmit_wf (m : Master) (s' : SiteId) (s : State) (hw : s.dev.memPart.wf = true) :
    OutWf (execAdmit m s' s) := by
  unfold execAdmit
  repeat' first | (with_reducible assumption) | (with_reducible apply State.does_wf) | (with_reducible apply State.doesAs_wf) | (with_reducible apply next_wf) | (with_reducible apply State.writes_wf) | intro _ | simp only [memPart_mk, memPart_fold, State.onDev, State.onDevAs, implies_true] | split

theorem execStart_wf (m : Master) (s' : SiteId) (s : State) (hw : s.dev.memPart.wf = true) :
    OutWf (execStart m s' s) := by
  unfold execStart
  repeat' first | (with_reducible assumption) | (with_reducible apply State.does_wf) | (with_reducible apply State.doesAs_wf) | (with_reducible apply next_wf) | (with_reducible apply State.writes_wf) | intro _ | simp only [memPart_mk, memPart_fold, State.onDev, State.onDevAs, implies_true] | split

theorem execStop_wf (m : Master) (s' : SiteId) (s : State) (hw : s.dev.memPart.wf = true) :
    OutWf (execStop m s' s) := by
  unfold execStop
  repeat' first | (with_reducible assumption) | (with_reducible apply State.does_wf) | (with_reducible apply State.doesAs_wf) | (with_reducible apply next_wf) | (with_reducible apply State.writes_wf) | intro _ | simp only [memPart_mk, memPart_fold, State.onDev, State.onDevAs, implies_true] | split

theorem execPark_wf (m : Master) (s' : SiteId) (s : State) (hw : s.dev.memPart.wf = true) :
    OutWf (execPark m s' s) := by
  unfold execPark
  repeat' first | (with_reducible assumption) | (with_reducible apply State.does_wf) | (with_reducible apply State.doesAs_wf) | (with_reducible apply next_wf) | (with_reducible apply State.writes_wf) | intro _ | simp only [memPart_mk, memPart_fold, State.onDev, State.onDevAs, implies_true] | split

theorem execAbort_wf (m : Master) (s' : SiteId) (s : State) (hw : s.dev.memPart.wf = true) :
    OutWf (execAbort m s' s) := by
  unfold execAbort
  repeat' first | (with_reducible assumption) | (with_reducible apply State.does_wf) | (with_reducible apply State.doesAs_wf) | (with_reducible apply next_wf) | (with_reducible apply State.writes_wf) | intro _ | simp only [memPart_mk, memPart_fold, State.onDev, State.onDevAs, implies_true] | split

theorem execResume_wf (m : Master) (s' : SiteId) (s : State) (hw : s.dev.memPart.wf = true) :
    OutWf (execResume m s' s) := by
  unfold execResume
  repeat' first | (with_reducible assumption) | (with_reducible apply State.does_wf) | (with_reducible apply State.doesAs_wf) | (with_reducible apply next_wf) | (with_reducible apply State.writes_wf) | intro _ | simp only [memPart_mk, memPart_fold, State.onDev, State.onDevAs, implies_true] | split

theorem execRestart_wf (m : Master) (s' : SiteId) (s : State) (hw : s.dev.memPart.wf = true) :
    OutWf (execRestart m s' s) := by
  unfold execRestart
  repeat' first | (with_reducible assumption) | (with_reducible apply State.does_wf) | (with_reducible apply State.doesAs_wf) | (with_reducible apply next_wf) | (with_reducible apply State.writes_wf) | intro _ | simp only [memPart_mk, memPart_fold, State.onDev, State.onDevAs, implies_true] | split

theorem execRelease_wf (m : Master) (s' : SiteId) (s : State) (hw : s.dev.memPart.wf = true) :
    OutWf (execRelease m s' s) := by
  unfold execRelease
  repeat' first | (with_reducible assumption) | (with_reducible apply State.does_wf) | (with_reducible apply State.doesAs_wf) | (with_reducible apply next_wf) | (with_reducible apply State.writes_wf) | intro _ | simp only [memPart_mk, memPart_fold, State.onDev, State.onDevAs, implies_true] | split

theorem execSiteBadOp_wf (m : Master) (op : BitVec 4) (s' : SiteId) (s : State) (hw : s.dev.memPart.wf = true) :
    OutWf (execSiteBadOp m op s' s) := by
  unfold execSiteBadOp
  repeat' first | (with_reducible assumption) | (with_reducible apply State.does_wf) | (with_reducible apply State.doesAs_wf) | (with_reducible apply next_wf) | (with_reducible apply State.writes_wf) | intro _ | simp only [memPart_mk, memPart_fold, State.onDev, State.onDevAs, implies_true] | split

theorem execPtuInvalidate_wf (m : Master) (w : Word) (s : State) (hw : s.dev.memPart.wf = true) :
    OutWf (execPtuInvalidate m w s) := by
  unfold execPtuInvalidate
  repeat' first | (with_reducible assumption) | (with_reducible apply State.does_wf) | (with_reducible apply State.doesAs_wf) | (with_reducible apply next_wf) | (with_reducible apply State.writes_wf) | intro _ | simp only [memPart_mk, memPart_fold, State.onDev, State.onDevAs, implies_true] | split

theorem execInvalidationDone_wf (s : State) (hw : s.dev.memPart.wf = true) :
    OutWf (execInvalidationDone s) := by
  unfold execInvalidationDone
  repeat' first | (with_reducible assumption) | (with_reducible apply State.does_wf) | (with_reducible apply State.doesAs_wf) | (with_reducible apply next_wf) | intro _ | simp only [memPart_mk, memPart_fold, State.onDev, State.onDevAs, implies_true, Dev.invDone_memPart] | split

theorem execPtuRootWrite_wf (m : Master) (q : CoreId) (hi : Bool) (v : Word) (s : State) (hw : s.dev.memPart.wf = true) :
    OutWf (execPtuRootWrite m q hi v s) := by
  unfold execPtuRootWrite
  repeat' first | (with_reducible assumption) | (with_reducible apply State.does_wf) | (with_reducible apply State.doesAs_wf) | (with_reducible apply next_wf) | (with_reducible apply State.writes_wf) | intro _ | simp only [memPart_mk, memPart_fold, State.onDev, State.onDevAs, implies_true] | split

theorem execHubRecover_wf (m : Master) (s : State) (hw : s.dev.memPart.wf = true) :
    OutWf (execHubRecover m s) := by
  unfold execHubRecover
  repeat' first | (with_reducible assumption) | (with_reducible apply State.does_wf) | (with_reducible apply State.doesAs_wf) | (with_reducible apply next_wf) | (with_reducible apply State.trigger_wf) | intro _ | simp only [memPart_mk, memPart_fold, State.onDev, State.onDevAs, implies_true] | split

theorem execCdRecover_wf (m : Master) (d : Die) (s : State) (hw : s.dev.memPart.wf = true) :
    OutWf (execCdRecover m d s) := by
  unfold execCdRecover
  repeat' first | (with_reducible assumption) | (with_reducible apply State.does_wf) | (with_reducible apply State.doesAs_wf) | (with_reducible apply next_wf) | (with_reducible apply State.trigger_wf) | intro _ | simp only [memPart_mk, memPart_fold, State.onDev, State.onDevAs, implies_true] | split

theorem execIsolate_wf (m : Master) (v : Bool) (s : State) (hw : s.dev.memPart.wf = true) :
    OutWf (execIsolate m v s) := by
  unfold execIsolate
  repeat' first | (with_reducible assumption) | (with_reducible apply State.does_wf) | (with_reducible apply State.doesAs_wf) | (with_reducible apply next_wf) | (with_reducible apply State.writes_wf) | intro _ | simp only [memPart_mk, memPart_fold, State.onDev, State.onDevAs, implies_true] | split

theorem execViolClear_wf (m : Master) (s : State) (hw : s.dev.memPart.wf = true) :
    OutWf (execViolClear m s) := by
  unfold execViolClear
  repeat' first | (with_reducible assumption) | (with_reducible apply State.does_wf) | (with_reducible apply State.doesAs_wf) | (with_reducible apply next_wf) | (with_reducible apply State.writes_wf) | intro _ | simp only [memPart_mk, memPart_fold, State.onDev, State.onDevAs, implies_true] | split

theorem execRegw_wf (addr : BitVec 24) (data : Word) (s : State) (hw : s.dev.memPart.wf = true) :
    OutWf (execRegw addr data s) := by
  unfold execRegw
  repeat' first | (with_reducible assumption) | (with_reducible apply State.does_wf) | (with_reducible apply State.doesAs_wf) | (with_reducible apply next_wf) | (with_reducible apply State.writes_wf) | intro _ | simp only [memPart_mk, memPart_fold, State.onDev, State.onDevAs, implies_true] | split

theorem execRegr_wf (addr : BitVec 24) (s : State) (hw : s.dev.memPart.wf = true) :
    OutWf (execRegr addr s) := by
  unfold execRegr
  repeat' first | (with_reducible assumption) | (with_reducible apply State.does_wf) | (with_reducible apply State.doesAs_wf) | (with_reducible apply next_wf) | intro _ | simp only [memPart_mk, memPart_fold, State.onDev, State.onDevAs, implies_true, Dev.busRead_memPart, State.busRead_memPart] | split

theorem execStat_wf (s : State) (hw : s.dev.memPart.wf = true) :
    OutWf (execStat s) := by
  unfold execStat
  repeat' first | (with_reducible assumption) | (with_reducible apply State.does_wf) | (with_reducible apply State.doesAs_wf) | (with_reducible apply next_wf) | intro _ | simp only [memPart_mk, memPart_fold, State.onDev, State.onDevAs, implies_true] | split

theorem execCfgpUnknown_wf (_cmd : Byte) (s : State) (hw : s.dev.memPart.wf = true) :
    OutWf (execCfgpUnknown _cmd s) := by
  unfold execCfgpUnknown
  repeat' first | (with_reducible assumption) | (with_reducible apply State.does_wf) | (with_reducible apply State.doesAs_wf) | (with_reducible apply next_wf) | intro _ | simp only [memPart_mk, memPart_fold, State.onDev, State.onDevAs, implies_true] | split

theorem execHostAbort_wf (m : Master) (s : State) (hw : s.dev.memPart.wf = true) :
    OutWf (execHostAbort m s) := by
  unfold execHostAbort
  repeat' first | (with_reducible assumption) | (with_reducible apply State.does_wf) | (with_reducible apply State.doesAs_wf) | (with_reducible apply next_wf) | (with_reducible apply State.trigger_wf) | intro _ | simp only [memPart_mk, memPart_fold, State.onDev, State.onDevAs, implies_true] | split

theorem execInterfaceRelease_wf (m : Master) (d : Die) (s : State) (hw : s.dev.memPart.wf = true) :
    OutWf (execInterfaceRelease m d s) := by
  unfold execInterfaceRelease
  repeat' first | (with_reducible assumption) | (with_reducible apply State.does_wf) | (with_reducible apply State.doesAs_wf) | (with_reducible apply next_wf) | (with_reducible apply State.writes_wf) | intro _ | simp only [memPart_mk, memPart_fold, State.onDev, State.onDevAs, implies_true] | split

theorem execKeybProgram_wf (m : Master) (key : Byte) (s : State) (hw : s.dev.memPart.wf = true) :
    OutWf (execKeybProgram m key s) := by
  unfold execKeybProgram
  repeat' first | (with_reducible assumption) | (with_reducible apply State.does_wf) | (with_reducible apply State.doesAs_wf) | (with_reducible apply next_wf) | (with_reducible apply State.writes_wf) | intro _ | simp only [memPart_mk, memPart_fold, State.onDev, State.onDevAs, implies_true] | split

theorem execZeroize_wf (m : Master) (key : Byte) (s : State) (hw : s.dev.memPart.wf = true) :
    OutWf (execZeroize m key s) := by
  unfold execZeroize
  repeat' first | (with_reducible assumption) | (with_reducible apply State.does_wf) | (with_reducible apply State.doesAs_wf) | (with_reducible apply next_wf) | (with_reducible apply State.writes_wf) | intro _ | simp only [memPart_mk, memPart_fold, State.onDev, State.onDevAs, implies_true] | split

theorem State.flashFunc_wf (s : State) (by' : FlashBy) (func : Nat) (queue : Bool) (srcErr : Option Nat)
    (hw : s.dev.memPart.wf = true) : OutWf (State.flashFunc s by' func queue srcErr) := by
  unfold State.flashFunc
  split
  · next m =>
    have h := Dev.regReach_memPart s.dev m 0x20004 true
    split
    · next h2 =>
      rw [h2] at h
      apply next_wf
      simp only [State.onDevAs, Dev.flashWrite_memPart, h]
      exact hw
    · next h2 =>
      rw [h2] at h
      apply next_wf
      simp only [Dev.writeDropped_memPart, h]
      exact hw
  · apply State.does_wf
    split
    · exact hw
    · rw [Dev.flashFabric_memPart]; exact hw

theorem execErase_wf (by' : FlashBy) (queue : Bool) (s : State) (hw : s.dev.memPart.wf = true) :
    OutWf (execErase by' queue s) := by
  unfold execErase
  repeat' first | (with_reducible assumption) | (with_reducible apply State.does_wf) | (with_reducible apply State.doesAs_wf) | (with_reducible apply next_wf) | (with_reducible apply State.flashFunc_wf) | intro _ | simp only [memPart_mk, memPart_fold, State.onDev, State.onDevAs, implies_true] | split

theorem execProgram_wf (by' : FlashBy) (queue : Bool) (srcErr : Option (BitVec 13)) (s : State) (hw : s.dev.memPart.wf = true) :
    OutWf (execProgram by' queue srcErr s) := by
  unfold execProgram
  repeat' first | (with_reducible assumption) | (with_reducible apply State.does_wf) | (with_reducible apply State.doesAs_wf) | (with_reducible apply next_wf) | (with_reducible apply State.flashFunc_wf) | intro _ | simp only [memPart_mk, memPart_fold, State.onDev, State.onDevAs, implies_true] | split

theorem execVerify_wf (by' : FlashBy) (queue : Bool) (srcErr : Option (BitVec 19)) (s : State) (hw : s.dev.memPart.wf = true) :
    OutWf (execVerify by' queue srcErr s) := by
  unfold execVerify
  repeat' first | (with_reducible assumption) | (with_reducible apply State.does_wf) | (with_reducible apply State.doesAs_wf) | (with_reducible apply next_wf) | (with_reducible apply State.flashFunc_wf) | intro _ | simp only [memPart_mk, memPart_fold, State.onDev, State.onDevAs, implies_true] | split

theorem execBlankCheck_wf (by' : FlashBy) (queue : Bool) (s : State) (hw : s.dev.memPart.wf = true) :
    OutWf (execBlankCheck by' queue s) := by
  unfold execBlankCheck
  repeat' first | (with_reducible assumption) | (with_reducible apply State.does_wf) | (with_reducible apply State.doesAs_wf) | (with_reducible apply next_wf) | (with_reducible apply State.flashFunc_wf) | intro _ | simp only [memPart_mk, memPart_fold, State.onDev, State.onDevAs, implies_true] | split

theorem execCrc_wf (by' : FlashBy) (queue : Bool) (s : State) (hw : s.dev.memPart.wf = true) :
    OutWf (execCrc by' queue s) := by
  unfold execCrc
  repeat' first | (with_reducible assumption) | (with_reducible apply State.does_wf) | (with_reducible apply State.doesAs_wf) | (with_reducible apply next_wf) | (with_reducible apply State.flashFunc_wf) | intro _ | simp only [memPart_mk, memPart_fold, State.onDev, State.onDevAs, implies_true] | split

theorem execStoreWrite_wf (by' : FlashBy) (queue : Bool) (srcErr : Option (BitVec 13)) (s : State) (hw : s.dev.memPart.wf = true) :
    OutWf (execStoreWrite by' queue srcErr s) := by
  unfold execStoreWrite
  repeat' first | (with_reducible assumption) | (with_reducible apply State.does_wf) | (with_reducible apply State.doesAs_wf) | (with_reducible apply next_wf) | (with_reducible apply State.flashFunc_wf) | intro _ | simp only [memPart_mk, memPart_fold, State.onDev, State.onDevAs, implies_true] | split

theorem execStoreSelect_wf (by' : FlashBy) (queue : Bool) (s : State) (hw : s.dev.memPart.wf = true) :
    OutWf (execStoreSelect by' queue s) := by
  unfold execStoreSelect
  repeat' first | (with_reducible assumption) | (with_reducible apply State.does_wf) | (with_reducible apply State.doesAs_wf) | (with_reducible apply next_wf) | (with_reducible apply State.flashFunc_wf) | intro _ | simp only [memPart_mk, memPart_fold, State.onDev, State.onDevAs, implies_true] | split

theorem execFlashBadFunc_wf (by' : FlashBy) (func : Byte) (queue : Bool) (s : State) (hw : s.dev.memPart.wf = true) :
    OutWf (execFlashBadFunc by' func queue s) := by
  unfold execFlashBadFunc
  repeat' first | (with_reducible assumption) | (with_reducible apply State.does_wf) | (with_reducible apply State.doesAs_wf) | (with_reducible apply next_wf) | (with_reducible apply State.flashFunc_wf) | intro _ | simp only [memPart_mk, memPart_fold, State.onDev, State.onDevAs, implies_true] | split

theorem execTripClear_wf (m : Master) (s : State) (hw : s.dev.memPart.wf = true) :
    OutWf (execTripClear m s) := by
  unfold execTripClear
  repeat' first | (with_reducible assumption) | (with_reducible apply State.does_wf) | (with_reducible apply State.doesAs_wf) | (with_reducible apply next_wf) | (with_reducible apply State.writes_wf) | intro _ | simp only [memPart_mk, memPart_fold, State.onDev, State.onDevAs, implies_true] | split

theorem execCapWrite_wf (m : Master) (margin : Bool) (v : BitVec 12) (s : State) (hw : s.dev.memPart.wf = true) :
    OutWf (execCapWrite m margin v s) := by
  unfold execCapWrite
  repeat' first | (with_reducible assumption) | (with_reducible apply State.does_wf) | (with_reducible apply State.doesAs_wf) | (with_reducible apply next_wf) | (with_reducible apply State.writes_wf) | intro _ | simp only [memPart_mk, memPart_fold, State.onDev, State.onDevAs, implies_true] | split

theorem execRoleWrite_wf (m : Master) (v : Word) (s : State) (hw : s.dev.memPart.wf = true) :
    OutWf (execRoleWrite m v s) := by
  unfold execRoleWrite
  repeat' first | (with_reducible assumption) | (with_reducible apply State.does_wf) | (with_reducible apply State.doesAs_wf) | (with_reducible apply next_wf) | (with_reducible apply State.writes_wf) | intro _ | simp only [memPart_mk, memPart_fold, State.onDev, State.onDevAs, implies_true] | split

theorem execStringNop_wf (m : Master) (s : State) (hw : s.dev.memPart.wf = true) :
    OutWf (execStringNop m s) := by
  unfold execStringNop
  repeat' first | (with_reducible assumption) | (with_reducible apply State.does_wf) | (with_reducible apply State.doesAs_wf) | (with_reducible apply next_wf) | (with_reducible apply State.writes_wf) | intro _ | simp only [memPart_mk, memPart_fold, State.onDev, State.onDevAs, implies_true] | split

theorem execStringStop_wf (m : Master) (s : State) (hw : s.dev.memPart.wf = true) :
    OutWf (execStringStop m s) := by
  unfold execStringStop
  repeat' first | (with_reducible assumption) | (with_reducible apply State.does_wf) | (with_reducible apply State.doesAs_wf) | (with_reducible apply next_wf) | (with_reducible apply State.writes_wf) | intro _ | simp only [memPart_mk, memPart_fold, State.onDev, State.onDevAs, implies_true] | split

theorem execStringPark_wf (m : Master) (s : State) (hw : s.dev.memPart.wf = true) :
    OutWf (execStringPark m s) := by
  unfold execStringPark
  repeat' first | (with_reducible assumption) | (with_reducible apply State.does_wf) | (with_reducible apply State.doesAs_wf) | (with_reducible apply next_wf) | (with_reducible apply State.writes_wf) | intro _ | simp only [memPart_mk, memPart_fold, State.onDev, State.onDevAs, implies_true] | split

theorem execStringBadOp_wf (m : Master) (op : BitVec 3) (s : State) (hw : s.dev.memPart.wf = true) :
    OutWf (execStringBadOp m op s) := by
  unfold execStringBadOp
  repeat' first | (with_reducible assumption) | (with_reducible apply State.does_wf) | (with_reducible apply State.doesAs_wf) | (with_reducible apply next_wf) | (with_reducible apply State.writes_wf) | intro _ | simp only [memPart_mk, memPart_fold, State.onDev, State.onDevAs, implies_true] | split

theorem execIrqMapEnable_wf (m : Master) (i : Fin 32) (vec : BitVec 6) (s : State) (hw : s.dev.memPart.wf = true) :
    OutWf (execIrqMapEnable m i vec s) := by
  unfold execIrqMapEnable
  repeat' first | (with_reducible assumption) | (with_reducible apply State.does_wf) | (with_reducible apply State.doesAs_wf) | (with_reducible apply next_wf) | (with_reducible apply State.writes_wf) | intro _ | simp only [memPart_mk, memPart_fold, State.onDev, State.onDevAs, implies_true] | split

theorem execDmaTailWrite_wf (m : Master) (c : Fin 16) (v : BitVec 16) (s : State) (hw : s.dev.memPart.wf = true) :
    OutWf (execDmaTailWrite m c v s) := by
  unfold execDmaTailWrite
  repeat' first | (with_reducible assumption) | (with_reducible apply State.does_wf) | (with_reducible apply State.doesAs_wf) | (with_reducible apply next_wf) | (with_reducible apply State.writes_wf) | intro _ | simp only [memPart_mk, memPart_fold, State.onDev, State.onDevAs, implies_true] | split

theorem execDmaResume_wf (m : Master) (c : Fin 16) (s : State) (hw : s.dev.memPart.wf = true) :
    OutWf (execDmaResume m c s) := by
  unfold execDmaResume
  repeat' first | (with_reducible assumption) | (with_reducible apply State.does_wf) | (with_reducible apply State.doesAs_wf) | (with_reducible apply next_wf) | (with_reducible apply State.writes_wf) | intro _ | simp only [memPart_mk, memPart_fold, State.onDev, State.onDevAs, implies_true] | split

theorem execDmaAbort_wf (m : Master) (c : Fin 16) (s : State) (hw : s.dev.memPart.wf = true) :
    OutWf (execDmaAbort m c s) := by
  unfold execDmaAbort
  repeat' first | (with_reducible assumption) | (with_reducible apply State.does_wf) | (with_reducible apply State.doesAs_wf) | (with_reducible apply next_wf) | (with_reducible apply State.trigger_wf) | intro _ | simp only [memPart_mk, memPart_fold, State.onDev, State.onDevAs, implies_true] | split

theorem execGpiOutWrite_wf (m : Master) (k : Fin 4) (v : Word) (s : State) (hw : s.dev.memPart.wf = true) :
    OutWf (execGpiOutWrite m k v s) := by
  unfold execGpiOutWrite
  repeat' first | (with_reducible assumption) | (with_reducible apply State.does_wf) | (with_reducible apply State.doesAs_wf) | (with_reducible apply next_wf) | (with_reducible apply State.writes_wf) | intro _ | simp only [memPart_mk, memPart_fold, State.onDev, State.onDevAs, implies_true] | split

theorem execGpiOeWrite_wf (m : Master) (k : Fin 4) (v : Word) (s : State) (hw : s.dev.memPart.wf = true) :
    OutWf (execGpiOeWrite m k v s) := by
  unfold execGpiOeWrite
  repeat' first | (with_reducible assumption) | (with_reducible apply State.does_wf) | (with_reducible apply State.doesAs_wf) | (with_reducible apply next_wf) | (with_reducible apply State.writes_wf) | intro _ | simp only [memPart_mk, memPart_fold, State.onDev, State.onDevAs, implies_true] | split

theorem execPmConfigWrite_wf (m : Master) (u : Fin 8) (r : Fin 5) (v : Word) (s : State) (hw : s.dev.memPart.wf = true) :
    OutWf (execPmConfigWrite m u r v s) := by
  unfold execPmConfigWrite
  repeat' first | (with_reducible assumption) | (with_reducible apply State.does_wf) | (with_reducible apply State.doesAs_wf) | (with_reducible apply next_wf) | (with_reducible apply State.writes_wf) | intro _ | simp only [memPart_mk, memPart_fold, State.onDev, State.onDevAs, implies_true] | split

theorem execTxdataWrite_wf (m : Master) (p : Fin 4) (v : BitVec 11) (s : State) (hw : s.dev.memPart.wf = true) :
    OutWf (execTxdataWrite m p v s) := by
  unfold execTxdataWrite
  repeat' first | (with_reducible assumption) | (with_reducible apply State.does_wf) | (with_reducible apply State.doesAs_wf) | (with_reducible apply next_wf) | (with_reducible apply State.writes_wf) | intro _ | simp only [memPart_mk, memPart_fold, State.onDev, State.onDevAs, implies_true] | split

theorem execRxdataRead_wf (m : Master) (p : Fin 4) (s : State) (hw : s.dev.memPart.wf = true) :
    OutWf (execRxdataRead m p s) := by
  unfold execRxdataRead
  repeat' first | (with_reducible assumption) | (with_reducible apply State.does_wf) | (with_reducible apply State.doesAs_wf) | (with_reducible apply next_wf) | (with_reducible apply State.reads_wf) | intro _ | simp only [memPart_mk, memPart_fold, State.onDev, State.onDevAs, implies_true] | split

theorem execHalt_wf (m : Master) (t : BitVec 7) (s : State) (hw : s.dev.memPart.wf = true) :
    OutWf (execHalt m t s) := by
  unfold execHalt
  repeat' first | (with_reducible assumption) | (with_reducible apply State.does_wf) | (with_reducible apply State.doesAs_wf) | (with_reducible apply next_wf) | (with_reducible apply State.writes_wf) | intro _ | simp only [memPart_mk, memPart_fold, State.onDev, State.onDevAs, implies_true] | split

theorem execDebugResume_wf (m : Master) (t : BitVec 7) (s : State) (hw : s.dev.memPart.wf = true) :
    OutWf (execDebugResume m t s) := by
  unfold execDebugResume
  repeat' first | (with_reducible assumption) | (with_reducible apply State.does_wf) | (with_reducible apply State.doesAs_wf) | (with_reducible apply next_wf) | (with_reducible apply State.writes_wf) | intro _ | simp only [memPart_mk, memPart_fold, State.onDev, State.onDevAs, implies_true] | split

theorem execStep_wf (m : Master) (t : BitVec 7) (s : State) (hw : s.dev.memPart.wf = true) :
    OutWf (execStep m t s) := by
  unfold execStep
  repeat' first | (with_reducible assumption) | (with_reducible apply State.does_wf) | (with_reducible apply State.doesAs_wf) | (with_reducible apply next_wf) | (with_reducible apply State.writes_wf) | intro _ | simp only [memPart_mk, memPart_fold, State.onDev, State.onDevAs, implies_true] | split

theorem execDbgNop_wf (m : Master) (op : BitVec 3) (t : BitVec 7) (s : State) (hw : s.dev.memPart.wf = true) :
    OutWf (execDbgNop m op t s) := by
  unfold execDbgNop
  repeat' first | (with_reducible assumption) | (with_reducible apply State.does_wf) | (with_reducible apply State.doesAs_wf) | (with_reducible apply next_wf) | (with_reducible apply State.writes_wf) | intro _ | simp only [memPart_mk, memPart_fold, State.onDev, State.onDevAs, implies_true] | split

theorem execStateAccess_wf (m : Master) (t : BitVec 7) (write : Bool) (reg : Byte) (s : State) (hw : s.dev.memPart.wf = true) :
    OutWf (execStateAccess m t write reg s) := by
  unfold execStateAccess
  repeat' first | (with_reducible assumption) | (with_reducible apply State.does_wf) | (with_reducible apply State.doesAs_wf) | (with_reducible apply next_wf) | (with_reducible apply State.writes_wf) | intro _ | simp only [memPart_mk, memPart_fold, State.onDev, State.onDevAs, implies_true] | split

theorem State.dbgWrite_wf (s : State) (a : Nat) (w : Nat) (hw : s.dev.memPart.wf = true) :
    (State.dbgWrite s a w).dev.memPart.wf = true := by
  unfold State.dbgWrite
  try dsimp only
  repeat' first | (with_reducible assumption) | (with_reducible apply Dev.memWriteOk_wf) | (with_reducible apply Dev.regWrite_wf) | (with_reducible apply State.regWrite_wf) | intro _ | simp only [memPart_mk, memPart_fold, State.onDev, State.onDevAs, implies_true, Dev.dbgDone_memPart, Dev.regReach_memPart, Dev.writeDropped_memPart, State.onDev_memPart] | split | (refine (congrArg MemPart.wf (State.onDev_memPart _ _ ?_)).trans ?_) | (refine (State.onDev_memPart _ _ ?_).trans ?_) | (show Dev.memPart _ = Dev.memPart _; exact Eq.refl _)
  all_goals (try simp only [Prod.ext_iff] at *)
  all_goals (try casesm* _ ∧ _)
  all_goals subst_vars
  all_goals first | (with_reducible assumption) | (simp only [memPart_mk, memPart_fold, State.onDev, State.onDevAs, implies_true, Dev.dbgDone_memPart, Dev.regReach_memPart, Dev.writeDropped_memPart, State.onDev_memPart]; done) | (simp only [memPart_mk, memPart_fold, State.onDev, State.onDevAs, implies_true, Dev.dbgDone_memPart, Dev.regReach_memPart, Dev.writeDropped_memPart, State.onDev_memPart]; with_reducible assumption)

theorem execDbgacc_wf (op : BitVec 2) (addr : BitVec 48) (data : Word) (s : State) (hw : s.dev.memPart.wf = true) :
    OutWf (execDbgacc op addr data s) := by
  unfold execDbgacc
  have h : (s.dev.tapLoad 0x08).memPart.wf = true := by rw [Dev.tapLoad_memPart]; exact hw
  split
  · apply State.does_wf; rw [Dev.tapLoad_memPart]; exact hw
  · apply next_wf
    split
    · rw [State.dbgRead_memPart]; exact h
    · exact State.dbgWrite_wf _ _ _ h
    · exact h

theorem execBistGo_wf (m : Master) (e : Fin 16) (queue : Bool) (s : State) (hw : s.dev.memPart.wf = true) :
    OutWf (execBistGo m e queue s) := by
  unfold execBistGo
  repeat' first | (with_reducible assumption) | (with_reducible apply State.does_wf) | (with_reducible apply State.doesAs_wf) | (with_reducible apply next_wf) | (with_reducible apply State.writes_wf) | intro _ | simp only [memPart_mk, memPart_fold, State.onDev, State.onDevAs, implies_true] | split

theorem execBistCancel_wf (m : Master) (e : Fin 16) (s : State) (hw : s.dev.memPart.wf = true) :
    OutWf (execBistCancel m e s) := by
  unfold execBistCancel
  repeat' first | (with_reducible assumption) | (with_reducible apply State.does_wf) | (with_reducible apply State.doesAs_wf) | (with_reducible apply next_wf) | (with_reducible apply State.writes_wf) | intro _ | simp only [memPart_mk, memPart_fold, State.onDev, State.onDevAs, implies_true] | split

theorem execInjArm_wf (m : Master) (i : Fin 4) (s : State) (hw : s.dev.memPart.wf = true) :
    OutWf (execInjArm m i s) := by
  unfold execInjArm
  repeat' first | (with_reducible assumption) | (with_reducible apply State.does_wf) | (with_reducible apply State.doesAs_wf) | (with_reducible apply next_wf) | (with_reducible apply State.writes_wf) | intro _ | simp only [memPart_mk, memPart_fold, State.onDev, State.onDevAs, implies_true] | split

theorem execInjDisarm_wf (m : Master) (i : Fin 4) (s : State) (hw : s.dev.memPart.wf = true) :
    OutWf (execInjDisarm m i s) := by
  unfold execInjDisarm
  repeat' first | (with_reducible assumption) | (with_reducible apply State.does_wf) | (with_reducible apply State.doesAs_wf) | (with_reducible apply next_wf) | (with_reducible apply State.writes_wf) | intro _ | simp only [memPart_mk, memPart_fold, State.onDev, State.onDevAs, implies_true] | split

theorem execEvlRdWrite_wf (m : Master) (cls : Fin 3) (v : Word) (s : State) (hw : s.dev.memPart.wf = true) :
    OutWf (execEvlRdWrite m cls v s) := by
  unfold execEvlRdWrite
  repeat' first | (with_reducible assumption) | (with_reducible apply State.does_wf) | (with_reducible apply State.doesAs_wf) | (with_reducible apply next_wf) | (with_reducible apply State.writes_wf) | intro _ | simp only [memPart_mk, memPart_fold, State.onDev, State.onDevAs, implies_true] | split

theorem execRgpOpen_wf (m : Master) (s : State) (hw : s.dev.memPart.wf = true) :
    OutWf (execRgpOpen m s) := by
  unfold execRgpOpen
  repeat' first | (with_reducible assumption) | (with_reducible apply State.does_wf) | (with_reducible apply State.doesAs_wf) | (with_reducible apply next_wf) | (with_reducible apply State.trigger_wf) | intro _ | simp only [memPart_mk, memPart_fold, State.onDev, State.onDevAs, implies_true] | split

theorem execRgpCommit_wf (m : Master) (key : BitVec 8) (s : State) (hw : s.dev.memPart.wf = true) :
    OutWf (execRgpCommit m key s) := by
  unfold execRgpCommit
  repeat' first | (with_reducible assumption) | (with_reducible apply State.does_wf) | (with_reducible apply State.doesAs_wf) | (with_reducible apply next_wf) | (with_reducible apply State.writes_wf) | intro _ | simp only [memPart_mk, memPart_fold, State.onDev, State.onDevAs, implies_true] | split

theorem execRegisterWrite_wf (m : Master) (addr : BitVec 24) (v : Word) (s : State) (hw : s.dev.memPart.wf = true) :
    OutWf (execRegisterWrite m addr v s) := by
  unfold execRegisterWrite
  repeat' first | (with_reducible assumption) | (with_reducible apply State.does_wf) | (with_reducible apply State.doesAs_wf) | (with_reducible apply next_wf) | (with_reducible apply State.writes_wf) | intro _ | simp only [memPart_mk, memPart_fold, State.onDev, State.onDevAs, implies_true] | split

end Sys2Proof.Machine
end

