-- ==== Sys2Proof/Laws/MemWf4.lean ====
section
/-! SUPPORT. The memory's canonical form, part 5 of 5: every function of the model that changes the memory part
keeps `MemPart.wf` (lemma `F_wf`), and every command's meaning answers only states that keep it
(lemma `execX_wf`, stated with `OutWf`). -/

set_option linter.all false

namespace Sys2Proof.Machine
theorem Dev.injTemp_wf (d : Dev) (u : Nat) (arg : Nat) (hw : d.memPart.wf = true) :
    (Dev.injTemp d u arg).memPart.wf = true := by
  unfold Dev.injTemp
  repeat' first | (with_reducible assumption) | (with_reducible apply Dev.powerTrip_wf) | intro _ | simp only [memPart_mk, memPart_fold, State.onDev, State.onDevAs, implies_true, Dev.sensors_memPart] | split

theorem Dev.injRail_wf (d : Dev) (arg : Nat) (hw : d.memPart.wf = true) :
    (Dev.injRail d arg).memPart.wf = true := by
  unfold Dev.injRail
  repeat' first | (with_reducible assumption) | (with_reducible apply Dev.powerTrip_wf) | intro _ | simp only [memPart_mk, memPart_fold, State.onDev, State.onDevAs, implies_true] | split

theorem Dev.injTrip_wf (d : Dev) (arg : Nat) (hw : d.memPart.wf = true) :
    (Dev.injTrip d arg).memPart.wf = true := by
  unfold Dev.injTrip
  repeat' first | (with_reducible assumption) | (with_reducible apply Dev.sentryTrip_wf) | intro _ | simp only [memPart_mk, memPart_fold, State.onDev, State.onDevAs, implies_true, Dev.modSnt_memPart] | split

theorem Dev.injSys_wf (d : Dev) (hw : d.memPart.wf = true) :
    (Dev.injSys d).memPart.wf = true := by
  unfold Dev.injSys
  repeat' first | (with_reducible assumption) | (with_reducible apply Dev.sysTrip_wf) | intro _ | simp only [memPart_mk, memPart_fold, State.onDev, State.onDevAs, implies_true, Dev.modSnt_memPart] | split

theorem Dev.injEffect_wf (d : Dev) (id : Nat) (u : Nat) (arg : Nat) (hw : d.memPart.wf = true) :
    (Dev.injEffect d id u arg).memPart.wf = true := by
  unfold Dev.injEffect
  repeat' first | (with_reducible assumption) | (with_reducible apply Dev.injRail_wf) | (with_reducible apply Dev.injSys_wf) | (with_reducible apply Dev.injTemp_wf) | (with_reducible apply Dev.injTrip_wf) | (with_reducible apply Dev.watchdog_wf) | intro _ | simp only [memPart_mk, memPart_fold, State.onDev, State.onDevAs, implies_true, Dev.arrive_memPart, Dev.blockLockLost_memPart, Dev.flipBit_memPart, Dev.pllsLost_memPart, Dev.refLost_memPart] | split

theorem State.injectOne_wf (s : State) (p : Nat × Evt) (hw : s.dev.memPart.wf = true) :
    (State.injectOne s p).dev.memPart.wf = true := by
  unfold State.injectOne
  repeat' first | (with_reducible assumption) | (with_reducible apply Dev.injEffect_wf) | (with_reducible apply Dev.asInjected_wf) | intro _ | simp only [memPart_mk, memPart_fold, State.onDev, State.onDevAs, implies_true, Dev.asInjected_memPart, Dev.injFired_memPart, State.onDevAs_memPart] | split

theorem foldState_wf {α : Type} (l : List α) (s : State) (g : State → α → State)
    (hg : ∀ s a, s.dev.memPart.wf = true → (g s a).dev.memPart.wf = true) (hw : s.dev.memPart.wf = true) :
    (l.foldl g s).dev.memPart.wf = true := by
  induction l generalizing s with
  | nil => exact hw
  | cons a l ih => exact ih _ (hg _ _ hw)

theorem State.injectTick_wf (s : State) (hw : s.dev.memPart.wf = true) : (State.injectTick s).dev.memPart.wf = true :=
  foldState_wf _ _ _ (fun s p h => State.injectOne_wf s p h) hw

theorem Dev.endTick_wf (d : Dev) (hw : d.memPart.wf = true) :
    (Dev.endTick d).memPart.wf = true := by
  unfold Dev.endTick
  repeat' first | (with_reducible assumption) | (with_reducible apply Dev.safeTick_wf) | (with_reducible apply Dev.each_wf) | intro _ | simp only [memPart_mk, memPart_fold, State.onDev, State.onDevAs, implies_true, Dev.bistTick_memPart, Dev.breachTick_memPart, Dev.each_memPart, Dev.leasesGo_memPart, Dev.masksNextTick_memPart, Dev.reportsArrive_memPart, Dev.resumeCheck_memPart, Dev.timeTick_memPart] | split

theorem State.tick_wf (s : State) (hw : s.dev.memPart.wf = true) :
    (State.tick s).dev.memPart.wf = true := by
  unfold State.tick
  repeat' first | (with_reducible assumption) | (with_reducible apply Dev.endTick_wf) | (with_reducible apply State.injectTick_wf) | intro _ | simp only [memPart_mk, memPart_fold, State.onDev, State.onDevAs, implies_true] | split

end Sys2Proof.Machine
end

