-- ==== Sys2Proof/WellFormed.lean ====
section
/-! DEFINITION. Which commands can occur: the operands that the types of Syntax.lean allow and the rules of spec/ do not.
A command that is not well formed is none of the table's rows as its rule describes it. -/

namespace Sys2Proof

/-- A register address of the register space is a multiple of 4 (R570). -/
def regAligned (addr : BitVec 24) : Bool := addr.toNat % 4 == 0

/-- The command can occur. Constructors without a condition of their own are well formed with every operand. -/
def Instr.wf : Instr → Bool
  | .snapshotLoRead _ addr => regAligned addr
  | .wmHitClear _ addr => regAligned addr
  | .counterLoWrite _ addr _ => regAligned addr
  | .registerWrite _ addr _ => regAligned addr
  | .regw addr _ => regAligned addr
  | .regr addr => regAligned addr
  | .d2dLinkTrainingDone _ spares => spares.length == 8
  | .trainingAttemptEnd l ok spares => !ok || spares.length == (if l.val < 4 then 8 else 1)
  | .deskewMeasurementDone _ vals => vals.length == 32 && vals.all fun l => l.length == 4
  | .acquisitionComplete _ _ tick => decide (tick.toNat < 800000000)
  | .illegalOpcode x vec => !vec || decide (x.val < 64)
  | .rpsBadOp _ op _ => decide (4 ≤ op.toNat)
  | .siteBadOp _ op _ => decide (9 ≤ op.toNat)
  | .stringBadOp _ op => decide (3 ≤ op.toNat)
  | .dbgNop _ op _ => op == 0 || decide (4 ≤ op.toNat)
  | .flashBadFunc _ func _ => func == 0 || decide (8 ≤ func.toNat)
  | .cfgpUnknown cmd => !([0x3A, 0x71, 0x72, 0x05].contains cmd)
  | .bypass code => !([0, 1, 2, 8, 9].contains code)
  | .pinCycle _ obs => obs.rsu.length == 16
  | .rows _ _ _ l => decide (l.length < 2 ^ 17)
  | .hostMemoryWrite _ _ bytes => !bytes.isEmpty
  | .guestRequest write _ len data => !write || data.length == len.toNat
  | .stream bytes => !bytes.isEmpty
  | _ => true

end Sys2Proof
end

section
/-! SUPPORT. What reset leaves (R16, R35, R58, R64, R441, R495, R512, R580). -/

namespace Sys2Proof.Machine

/-- After reset a field holds the reset value of its table, but for the two that the straps and the variant give: CD_MASK
and CFGP_RD_EN (R16, R47, R399). -/
theorem Dev.get_initial (f : Fld) (hm : f.key ≠ 516) (hr : f.key ≠ 1572897) : Dev.initial.get f = f.rst := by
  simp [Dev.get, Dev.initial, tblGet, tblFind, K.DEV_START_CTRL_CD_MASK, K.CFG_CTRL_CFGP_RD_EN, hm.symm, hr.symm]

/-- The register blocks above CFG_CTRL hold their reset values. -/
theorem Dev.get_initial_of_gt (f : Fld) (h : 1572897 < f.key) : Dev.initial.get f = f.rst :=
  Dev.get_initial f (by omega) (by omega)

theorem Dev.siteState_initial (i : Nat) : Dev.initial.siteState i = 0 :=
  Dev.get_initial (K.SITE_SITE_STATE i) (by simp only [K.SITE_SITE_STATE]; omega)
    (by simp only [K.SITE_SITE_STATE]; omega)

theorem Dev.siteCause_initial (i : Nat) : Dev.initial.get (K.SITE_CAUSE i) = 0 :=
  Dev.get_initial (K.SITE_CAUSE i) (by simp only [K.SITE_CAUSE]; omega) (by simp only [K.SITE_CAUSE]; omega)

theorem Dev.dmaChannel_initial (c : Nat) :
    Dev.initial.get (K.HST_DMA_SIZE c) = 4 ∧ Dev.initial.get (K.HST_DMA_CTRL_EN c) = 0 :=
  ⟨Dev.get_initial_of_gt _ (by simp only [K.HST_DMA_SIZE]; omega),
    Dev.get_initial_of_gt _ (by simp only [K.HST_DMA_CTRL_EN]; omega)⟩

/-- Scrubbing of a channel die is on, and its interface is held with no configuration complete. -/
theorem Dev.dieConfig_initial (n : Nat) :
    Dev.initial.get (K.FAB_SCRUB_CTRL_EN n) = 1 ∧ Dev.initial.get (K.FAB_SCRUB_CTRL_PERIOD n) = 10 ∧
      Dev.initial.get (K.CFG_DIE_STATUS_HELD n) = 1 ∧ Dev.initial.get (K.CFG_DIE_STATUS_COMPLETE n) = 0 :=
  ⟨Dev.get_initial_of_gt _ (by simp only [K.FAB_SCRUB_CTRL_EN]; omega),
    Dev.get_initial_of_gt _ (by simp only [K.FAB_SCRUB_CTRL_PERIOD]; omega),
    Dev.get_initial_of_gt _ (by simp only [K.CFG_DIE_STATUS_HELD]; omega),
    Dev.get_initial_of_gt _ (by simp only [K.CFG_DIE_STATUS_COMPLETE]; omega)⟩

theorem Dev.leaseHolder_initial (u c : Nat) : Dev.initial.get (K.BST_LEASE_HOLDER u c) = 0 :=
  Dev.get_initial_of_gt _ (by simp only [K.BST_LEASE_HOLDER]; omega)

/-- Every general register of every controller is 0 after reset (log 63). -/
theorem Core.gGet_initial (y r : Nat) : (Dev.initial.core y).gGet r = 0 := by
  have h : Dev.initial.core y = {} := rfl
  simp [h, Core.gGet, tblGet, tblFind]

/-- Settles O60: the fields that reset names hold the values of their tables, and the units are as they start. -/
theorem resetState : Obligations.ResetState := by
  have named (f : Fld) (hm : f.key ≠ 516) (hr : f.key ≠ 1572897) : State.reset.dev.get f = f.rst :=
    Dev.get_initial f hm hr
  refine ⟨rfl, rfl, ?_, ?_, ?_, ?_, ?_, ?_, ?_, ?_, ?_, ?_, ?_, ?_, ?_, fun c _ => Dev.dmaChannel_initial c,
    fun n _ => Dev.dieConfig_initial n, fun i _ => ⟨Dev.siteState_initial i, Dev.siteCause_initial i⟩,
    Dev.leaseHolder_initial, Core.gGet_initial, rfl, rfl, rfl, rfl⟩
  all_goals exact named _ (by decide) (by decide)

end Sys2Proof.Machine
end

section
/-! SUPPORT. Every command completes and leaves the waiting commands alone (R12, R14): one lemma for each form of a
command's meaning, then the commands by their forms. -/

namespace Sys2Proof.Machine

/-! ## The operations on the state leave the queue of commands alone -/

@[simp] theorem State.pending_onDev (s : State) (f : Dev → Dev) : (s.onDev f).pending = s.pending := rfl

@[simp] theorem State.pending_onDevAs (s : State) (e : Evt) (f : Dev → Dev) : (s.onDevAs e f).pending = s.pending := rfl

/-- Where both branches keep the queue, the choice does. -/
theorem State.pending_ite {a b : State} {q : List Instr} (c : Prop) [Decidable c] (ha : a.pending = q)
    (hb : b.pending = q) : (if c then a else b).pending = q := by
  split
  · exact ha
  · exact hb

@[simp] theorem State.pending_resets (s : State) (f : Dev → Dev) : (s.resets f).pending = s.pending := rfl

@[simp] theorem State.pending_siteCmd (s : State) (op site : Nat) : (s.siteCmd op site).pending = s.pending := rfl

@[simp] theorem State.pending_stepDisarm (s : State) (n p : Nat) : (s.stepDisarm n p).pending = s.pending := rfl

@[simp] theorem State.pending_enterLoad (s : State) : s.enterLoad.pending = s.pending := rfl

@[simp] theorem State.pending_strSite (s : State) (op site : Nat) : (s.strSite op site).pending = s.pending := rfl

@[simp] theorem State.pending_schedWrite (s : State) (t e w : Nat) : (s.schedWrite t e w).pending = s.pending := by
  simp only [State.schedWrite, apply_ite State.pending, State.pending_onDev, State.pending_onDevAs, ite_self]

@[simp] theorem State.pending_siteCmdBy (s : State) (m : Master) (w : Nat) : (s.siteCmdBy m w).pending = s.pending := by
  simp only [State.siteCmdBy, apply_ite State.pending, State.pending_siteCmd, State.pending_onDev, ite_self]

@[simp] theorem State.pending_regWrite (s : State) (m : Master) (a w : Nat) : (s.regWrite m a w).pending = s.pending := by
  simp only [State.regWrite, apply_ite State.pending, State.pending_enterLoad, State.pending_siteCmdBy,
    State.pending_schedWrite, State.pending_stepDisarm, State.pending_onDevAs, ite_self]

@[simp] theorem State.pending_busWrite (s : State) (m : Master) (a w : Nat) : (s.busWrite m a w).pending = s.pending := by
  unfold State.busWrite
  split
  · exact State.pending_regWrite _ m a w
  · rfl

@[simp] theorem State.pending_busRead (s : State) (m : Master) (a : Nat) : (s.busRead m a).pending = s.pending := by
  unfold State.busRead
  split <;> rfl

@[simp] theorem State.pending_guestAccess (s : State) (write : Bool) (a n : Nat) (data : List Byte) :
    (s.guestAccess write a n data).pending = s.pending := by
  simp only [State.guestAccess, apply_ite State.pending, State.pending_regWrite, State.pending_onDev, ite_self]

@[simp] theorem State.pending_ctlWrite (s : State) (x a n v : Nat) : (s.ctlWrite x a n v).pending = s.pending := by
  unfold State.ctlWrite
  split
  · exact State.pending_regWrite s _ a v
  · rfl

@[simp] theorem State.pending_dbgRead (s : State) (a : Nat) : (s.dbgRead a).pending = s.pending := rfl

@[simp] theorem State.pending_dbgWrite (s : State) (a w : Nat) : (s.dbgWrite a w).pending = s.pending := by
  unfold State.dbgWrite
  split
  · split
    · exact State.pending_regWrite _ .dbg a w
    · rfl
  · rfl
  · rfl

/-- The String command of every site of a list leaves the queue alone. -/
theorem State.pending_foldl_strSite (l : List Nat) (s : State) (op : Nat) :
    (l.foldl (fun s i => s.strSite op i) s).pending = s.pending := by
  induction l generalizing s with
  | nil => rfl
  | cons i l ih => exact (ih (s.strSite op i)).trans (s.pending_strSite op i)

/-! ## The forms of a command's meaning -/

/-- The outcome is a next state in which the commands of `s` wait. -/
def CompletesFrom (s : State) (o : Out) : Prop := ∃ t, o = .next t ∧ t.pending = s.pending

theorem completesFrom_next {s t : State} (h : t.pending = s.pending) : CompletesFrom s (.next t) := ⟨t, rfl, h⟩

theorem CompletesFrom.ite {s : State} {a b : Out} (c : Prop) [Decidable c] (ha : CompletesFrom s a)
    (hb : CompletesFrom s b) : CompletesFrom s (if c then a else b) := by
  split
  · exact ha
  · exact hb

theorem State.does_completes (s : State) (f : Dev → Dev) : CompletesFrom s (s.does f) := completesFrom_next rfl

theorem State.doesAs_completes (s : State) (e : Evt) (f : Dev → Dev) : CompletesFrom s (s.doesAs e f) :=
  completesFrom_next rfl

theorem State.writes_completes (s : State) (m : Master) (a w : Nat) : CompletesFrom s (s.writes m a w) :=
  completesFrom_next (s.pending_busWrite m a w)

theorem State.trigger_completes (s : State) (m : Master) (a bits : Nat) : CompletesFrom s (s.trigger m a bits) :=
  completesFrom_next (s.pending_busWrite m a _)

theorem State.reads_completes (s : State) (m : Master) (a : Nat) : CompletesFrom s (s.reads m a) :=
  completesFrom_next (s.pending_busRead m a)

theorem State.flashFunc_completes (s : State) (by' : FlashBy) (func : Nat) (queue : Bool) (srcErr : Option Nat) :
    CompletesFrom s (s.flashFunc by' func queue srcErr) := by
  cases by' with
  | reg m =>
    simp only [State.flashFunc]
    split
    · exact completesFrom_next rfl
    · exact completesFrom_next rfl
  | fabric arg line =>
    exact State.does_completes s _

/-! ## The commands with a meaning of their own form -/

theorem execDevRstNLow_completes (s : State) : CompletesFrom s (execDevRstNLow s) :=
  completesFrom_next (State.pending_ite _ rfl rfl)

theorem execHostResetTakesEffect_completes (s : State) : CompletesFrom s (execHostResetTakesEffect s) :=
  completesFrom_next (State.pending_ite _ rfl rfl)

theorem execStat_completes (s : State) : CompletesFrom s (execStat s) :=
  completesFrom_next (State.pending_ite _ rfl rfl)

theorem execRegr_completes (addr : BitVec 24) (s : State) : CompletesFrom s (execRegr addr s) :=
  completesFrom_next (State.pending_ite _ (s.pending_busRead .cfgp _) (s.pending_busRead .cfgp _))

theorem execWmHitClear_completes (m : Master) (addr : BitVec 24) (s : State) :
    CompletesFrom s (execWmHitClear m addr s) := by
  unfold execWmHitClear
  split
  · exact State.trigger_completes s m _ _
  · exact completesFrom_next rfl

theorem execSiteStartHit_completes (e : Fin 256) (s : State) : CompletesFrom s (execSiteStartHit e s) :=
  .ite _ (State.does_completes s _) (State.doesAs_completes s _ _)

theorem execDbgstat_completes (s : State) : CompletesFrom s (execDbgstat s) :=
  .ite _ (completesFrom_next rfl) (State.does_completes s _)

theorem execDbgacc_completes (op : BitVec 2) (addr : BitVec 48) (data : Word) (s : State) :
    CompletesFrom s (execDbgacc op addr data s) := by
  refine .ite _ (State.does_completes s _) (completesFrom_next ?_)
  split
  · exact State.pending_dbgRead _ _
  · exact State.pending_dbgWrite _ _ _
  · rfl

theorem execStoreComplete_completes (x : CtlId) (k : Nat) (s : State) : CompletesFrom s (execStoreComplete x k s) := by
  refine completesFrom_next ?_
  split
  · rfl
  · dsimp only
    split
    · rfl
    · split
      · exact State.pending_ctlWrite _ _ _ _ _
      · rfl

theorem execHostMemoryRead_completes (m : Master) (addr : BitVec 48) (len : BitVec 16) (ue : Bool) (s : State) :
    CompletesFrom s (execHostMemoryRead m addr len ue s) := by
  refine completesFrom_next ?_
  split
  · split
    · exact State.pending_busRead s m _
    · rfl
  · rfl

theorem execHostMemoryWrite_completes (m : Master) (addr : BitVec 48) (bytes : List Byte) (s : State) :
    CompletesFrom s (execHostMemoryWrite m addr bytes s) := by
  refine completesFrom_next ?_
  split
  · split
    · exact State.pending_busWrite s m _ _
    · rfl
  · rfl
  · rfl

theorem execGuestRequest_completes (write : Bool) (addr : BitVec 48) (len : BitVec 16) (data : List Byte) (s : State) :
    CompletesFrom s (execGuestRequest write addr len data s) := by
  have refused (t : State) (v : Nat) : (if write then t else { t with answer := some v }).pending = t.pending :=
    State.pending_ite _ rfl rfl
  refine completesFrom_next (State.pending_ite _ rfl (State.pending_ite _ (refused s _) ?_))
  split
  · exact refused _ _
  · exact State.pending_ite _ (State.pending_guestAccess s write _ _ data) (refused _ _)

theorem execIfFlashRead_completes (off : BitVec 24) (ecc : Fin 3) (s : State) :
    CompletesFrom s (execIfFlashRead off ecc s) := completesFrom_next rfl

theorem execFlashBarRead_completes (off : BitVec 24) (n : BitVec 4) (ecc : Fin 3) (s : State) :
    CompletesFrom s (execFlashBarRead off n ecc s) := completesFrom_next rfl

theorem execDescriptorComplete_completes (c : Fin 16) (w : Option DmaDesc) (data : List Byte) (err : Fin 3) (s : State) :
    CompletesFrom s (execDescriptorComplete c w data err s) := by
  refine .ite _ (completesFrom_next rfl) ?_
  cases w with
  | none => exact completesFrom_next rfl
  | some w =>
    exact .ite _ (completesFrom_next rfl) (.ite _ (completesFrom_next rfl)
      (.ite _ (completesFrom_next rfl) (completesFrom_next rfl)))

theorem execStringCommandExec_completes (s : State) : CompletesFrom s (execStringCommandExec s) := by
  unfold execStringCommandExec
  dsimp only
  split
  · exact State.does_completes s _
  · split
    · exact State.does_completes s _
    · refine completesFrom_next ?_
      simp only [State.pending_onDevAs, apply_ite State.pending, State.pending_foldl_strSite,
        State.pending_onDev, ite_self]

/-! ## Every command -/

/-- The commands by the form of their meaning. -/
theorem exec_completes (c : Instr) (s : State) : CompletesFrom s (exec c s) := by
  cases c with
  -- a sampled event of R116
  | overTemperatureTrip | supplyTrip | sentryLogicTrip | peSafeRequest | safeRelChange | evtTrigger | trigFTrigger |
    refLost | siteStopHit | eventHit | pdStartHit | trigOutHit | pwrStateHit | matchLoopOutcome | segOverrun |
    viqUnderrun | segmentAdmissionEnd | pllStep | generalBwBreach | breachWaitEnd | linkLoss | scrubColumnDone |
    pllLossOfLock | powerUpdate | timeFrame | holdoverDeadline | patternMatch | debugRequest | rgpPassEnd =>
    exact State.doesAs_completes s _ _
  -- a register access
  | enterLoad | drst | cdRst | bdRst | coreRst | sntGroupForceWrite | sntPolicyWrite | mboxToWrite | swapRequest |
    swapCancel | go | arm | disarm | eviCntLoad | pllStepArm | pllStepDisarm | rsuClr | cmpMaskWrite | rdPtrWrite |
    counterLoWrite | solve | cancel | clear | rpsNop | rpsBadOp | siteNop | admitSite | start | stop | park | abort |
    resume | restart | release | siteBadOp | ptuInvalidate | ptuRootWrite | isolate | violClear | regw |
    interfaceRelease | keybProgram | zeroize | prAbort | tripClear | capWrite | roleWrite | stringNop | stringStop |
    stringPark | stringBadOp | irqMapEnable | dmaTailWrite | dmaResume | gpiOutWrite | gpiOeWrite | pmConfigWrite |
    txdataWrite | halt | debugResume | step | dbgNop | stateAccess | bistGo | bistCancel | injArm | injDisarm |
    evlRdWrite | registerWrite | rgpCommit | lifecycleRequest =>
    exact State.writes_completes s _ _ _
  | startRequest | acquire | pdCfgStart | pdCfgStop | sweep | hubRecover | cdRecover | recover | hostAbort | relock |
    dmaAbort | icacheInv | rgpOpen =>
    exact State.trigger_completes s _ _ _
  | mboxFromRead | timTtiLoRead | timTickRead | timSecLoRead | timSecHiRead | snapshotLoRead | rxdataRead =>
    exact State.reads_completes s _ _
  -- a flash function
  | erase | program | verify | blankCheck | crc | storeWrite | storeSelect | flashBadFunc =>
    exact State.flashFunc_completes s _ _ _ _
  -- forms of their own
  | por | cfgpUnknown | idcode => exact completesFrom_next rfl
  | devRstNLow => exact execDevRstNLow_completes s
  | hostResetTakesEffect => exact execHostResetTakesEffect_completes s
  | stat => exact execStat_completes s
  | storeComplete x k => exact execStoreComplete_completes x k s
  | siteStartHit e => exact execSiteStartHit_completes e s
  | hostMemoryRead m addr len ue => exact execHostMemoryRead_completes m addr len ue s
  | hostMemoryWrite m addr bytes => exact execHostMemoryWrite_completes m addr bytes s
  | guestRequest write addr len data => exact execGuestRequest_completes write addr len data s
  | regr addr => exact execRegr_completes addr s
  | ifFlashRead off ecc => exact execIfFlashRead_completes off ecc s
  | stringCommandExec => exact execStringCommandExec_completes s
  | flashBarRead off n ecc => exact execFlashBarRead_completes off n ecc s
  | descriptorComplete c w data err => exact execDescriptorComplete_completes c w data err s
  | wmHitClear m addr => exact execWmHitClear_completes m addr s
  | dbgacc op addr data => exact execDbgacc_completes op addr data s
  | dbgstat => exact execDbgstat_completes s
  -- every other command is an effect on the device
  | _ => exact State.does_completes s _

/-- Settles O57: every meaning is one of the forms above, and each answers a next state with the same queue. -/
theorem everyCommandCompletesAndKeepsTheQueue : Obligations.EveryCommandCompletesAndKeepsTheQueue := exec_completes

end Sys2Proof.Machine
end

section
/-! SUPPORT. Reaching and writing a register (R14, R371, R499, R515, R569 to R574): what a refused access and one that the
hub lets through come to, what a write does to one field by its access code, and which fields a write leaves. -/

namespace Sys2Proof.Machine

/-- Setting a field to the value that it holds, other than its reset value, leaves what every field reads. -/
theorem Dev.get_set_again {d : Dev} {f : Fld} {v : Nat} (hv : d.get f = v % 2 ^ f.width) (hr : v % 2 ^ f.width ≠ f.rst)
    (e : Fld) : (d.set f v).get e = d.get e := by
  by_cases hk : e.key = f.key
  · have held : tblFind d.regs f.key = some (v % 2 ^ f.width) := by
      unfold Dev.get tblGet at hv
      split at hv
      next a ha => rw [ha, hv]
      next => exact absurd hv.symm hr
    simp [Dev.get, Dev.set, tblGet, hk, held]
  · exact Dev.get_set_ne d v hk

end Sys2Proof.Machine

namespace Sys2Proof.Slice0
open Sys2Proof.Machine

/-! ## Register fields that change and register fields that stay -/

theorem FieldsOnly.refl (d : Dev) (l : List Fld) : FieldsOnly d d l := ⟨rfl, fun _ _ => rfl⟩

/-- A field of the list may be set once more. -/
theorem FieldsOnly.set {d d' : Dev} {l : List Fld} (h : FieldsOnly d d' l) {f : Fld} (v : Nat)
    (hf : ∃ g ∈ l, g.key = f.key) : FieldsOnly d (d'.set f v) l := by
  obtain ⟨hregs, hkept⟩ := h
  obtain ⟨g, hg, hk⟩ := hf
  refine ⟨by rw [hregs]; rfl, fun e he => ?_⟩
  rw [Dev.get_set_ne _ _ (hk ▸ he g hg), hkept e he]

/-- A field that holds a value other than its reset value may be set to it again. -/
theorem FieldsOnly.set_again {d d' : Dev} {l : List Fld} (h : FieldsOnly d d' l) {f : Fld} {v : Nat}
    (hv : d'.get f = v % 2 ^ f.width) (hr : v % 2 ^ f.width ≠ f.rst) : FieldsOnly d (d'.set f v) l := by
  obtain ⟨hregs, hkept⟩ := h
  exact ⟨by rw [hregs]; rfl, fun e he => (Dev.get_set_again hv hr e).trans (hkept e he)⟩

theorem fieldsOnly_set (d : Dev) (f : Fld) (v : Nat) : FieldsOnly d (d.set f v) [f] :=
  (FieldsOnly.refl d [f]).set v ⟨f, List.mem_singleton_self f, rfl⟩

/-- A one-bit field that is set shows 1, and nothing else changes. -/
theorem put_true_only (d : Dev) (f : Fld) (hw : 0 < f.width) :
    (d.put f true).get f = 1 ∧ FieldsOnly d (d.put f true) [f] :=
  ⟨Dev.get_put_same d f true hw, fieldsOnly_set d f _⟩

end Sys2Proof.Slice0

namespace Sys2Proof.Machine
open Sys2Proof.Slice0

/-! ## Reaching an address -/

/-- What the hub lets through it lets through without a note. -/
theorem Dev.regReach_fst {d : Dev} {m : Master} {a : Nat} {write : Bool} (h : (d.regReach m a write).2 = true) :
    (d.regReach m a write).1 = d := by
  revert h
  unfold Dev.regReach
  repeat' split
  all_goals simp

/-- The way of an access of the physical function or of CFGP, which neither the firewall, nor a grant, nor the lifecycle
bars. -/
theorem Dev.regReach_asked {m : Master} (hm : m = .pf ∨ m = .cfgp) (d : Dev) (a : Nat) (write : Bool) :
    d.regReach m a write =
      if d.inReset || a % 4 != 0 then (d, false)
      else if regHole a then (d.unmapped, false)
      else if d.regDark a || d.reaches m (sideOf a) then (d, true)
      else (d.put K.NOP_STATUS_ACC_REFUSED true, false) := by
  rcases hm with rfl | rfl <;> rfl

/-! ## A write that the hub drops -/

/-- A refused write outside CFG_PORT of a master that takes no fault leaves what the refusal sets, and nothing more
(R498, R569). -/
theorem exec_registerWrite_dropped {m : Master} {a : BitVec 24} {v : Word} {s : State} {d : Dev}
    (hr : s.dev.regReach m a.toNat true = (d, false)) (hp : isPort a.toNat = false) (hm : d.refusedTo m = d) :
    exec (.registerWrite m a v) s = .next { s with dev := d } := by
  have hw : s.busWrite m a.toNat v.toNat = { s with dev := d.writeDropped m a.toNat } := by
    simp only [State.busWrite, hr]
  have hd : d.writeDropped m a.toNat = d := by
    simp [Dev.writeDropped, hp, hm]
  change Host.Outcome.next (s.busWrite m a.toNat v.toNat) = _
  rw [hw, hd]

theorem Dev.refusedTo_asked {m : Master} (hm : m = .pf ∨ m = .cfgp) (d : Dev) : d.refusedTo m = d := by
  rcases hm with rfl | rfl <;> rfl

theorem isPort_eq_false {a : Nat} (h : a < 0x38000 ∨ 0x40000 ≤ a) : isPort a = false := by
  simp [isPort]; omega

/-! ## A write that the hub lets through -/

/-- A write to CFG_PORT aside, a write that the hub lets through is the register's own. -/
theorem exec_registerWrite_passed {m : Master} {a : BitVec 24} {v : Word} {s : State}
    (hr : s.dev.regReach m a.toNat true = (s.dev, true)) (hp : isPort a.toNat = false) :
    exec (.registerWrite m a v) s = .next (s.regWrite m a.toNat v.toNat) := by
  have hport (d : Dev) : d.portFault m a.toNat = d := by
    cases m <;> simp [Dev.portFault, hp]
  have hw : s.busWrite m a.toNat v.toNat = (s.regWrite m a.toNat v.toNat).onDev fun d => d.portFault m a.toNat := by
    simp only [State.busWrite, hr]
  change Host.Outcome.next (s.busWrite m a.toNat v.toNat) = _
  rw [hw]
  simp only [State.onDev, hport]

/-- An address whose write the hub neither judges against other events of its tick nor stores for OSC40K, outside
CFG_PORT. -/
structure Ordinary (a : Nat) : Prop where
  below : a < 0x400000
  mode : a ≠ 0x4C
  site : a ≠ 0x104
  sched : a < 0x41000 ∨ 0x47000 ≤ a
  port : a < 0x38000 ∨ 0x40000 ≤ a

/-- A write to an ordinary address that the hub lets through is a sampled event whose effect is the register's own. -/
theorem givesBy_registerWrite {m : Master} {n : Nat} {v : Word} {s : State} {P : Dev → Prop} (hl : Lets s m n true)
    (ho : Ordinary n) (hP : P (s.dev.regWrite m n v.toNat)) :
    GivesBy m (.registerWrite m (BitVec.ofNat 24 n) v) s P := by
  obtain ⟨hreach, hdark⟩ := hl
  obtain ⟨hbelow, hmode, hsite, hsched, hport⟩ := ho
  have hn : (BitVec.ofNat 24 n).toNat = n := by
    rw [BitVec.toNat_ofNat]; omega
  have hr : s.dev.regReach m n true = (s.dev, true) := Prod.ext (Dev.regReach_fst hreach) hreach
  refine ⟨s.dev.regWrite m n v.toNat, ?_, hP⟩
  rw [exec_registerWrite_passed (by rw [hn]; exact hr) (by rw [hn]; exact isPort_eq_false hport), hn]
  have hs : ¬ (0x41000 ≤ n ∧ n < 0x47000 ∧ n % 16 = 8) := by omega
  have hd : ¬ 0x400000 ≤ n := by omega
  simp [State.regWrite, hdark, hmode, hsite, hs, hd, State.onDevAs]

/-! ## The fields of a register (R14, R573) -/

/-- A write of a register without a counter's HI word is the write of each of its fields. -/
theorem Dev.plainWrite_fields {a : Nat} {r : RegDesc} {is : List Nat} (h : findReg a = some (r, is))
    (hc : (r.fields.any (fun f => f.acc == .rw) && rsMask (a + 4) != 0) = false) (d : Dev) (w : Nat) :
    d.plainWrite a w = d.each r.fields (d.fieldWrite a w (d.regLocked r is)) := by
  simp [Dev.plainWrite, h, hc]

section
variable {d x : Dev} {a w lo wd rst : Nat} {by' : RstBy} {l : Bool}

/-- RW takes the value that the field takes. -/
theorem Dev.fieldWrite_rw {v : Nat} (ht : d.fieldTake a lo (bitsAt w lo wd) = some v) :
    d.fieldWrite a w l x ⟨lo, wd, .rw, rst, by'⟩ = x.set ⟨keyAt a lo, wd, rst⟩ v := by
  simp [Dev.fieldWrite, ht]

/-- A lock bit is set by a one, and a zero leaves it. -/
theorem Dev.fieldWrite_lck :
    d.fieldWrite a w l x ⟨lo, wd, .lck, rst, by'⟩ = if bitsAt w lo wd = 0 then x else x.set ⟨keyAt a lo, wd, rst⟩ 1 :=
  rfl

/-- W1C clears where a one is written. -/
theorem Dev.fieldWrite_w1c :
    d.fieldWrite a w l x ⟨lo, wd, .w1c, rst, by'⟩ = x.set ⟨keyAt a lo, wd, rst⟩
      (x.get ⟨keyAt a lo, wd, rst⟩ - (x.get ⟨keyAt a lo, wd, rst⟩ &&& bitsAt w lo wd)) :=
  rfl

/-- RWL takes the value while its lock is clear. -/
theorem Dev.fieldWrite_rwl_open {v : Nat} (ht : d.fieldTake a lo (bitsAt w lo wd) = some v) :
    d.fieldWrite a w false x ⟨lo, wd, .rwl, rst, by'⟩ = x.set ⟨keyAt a lo, wd, rst⟩ v := by
  simp [Dev.fieldWrite, ht]

/-- RWL keeps its value under its lock, and a write of another value sets LOCKED_WR. -/
theorem Dev.fieldWrite_rwl_locked {v : Nat} (ht : d.fieldTake a lo (bitsAt w lo wd) = some v)
    (hne : x.get ⟨keyAt a lo, wd, rst⟩ ≠ v % 2 ^ wd) :
    d.fieldWrite a w true x ⟨lo, wd, .rwl, rst, by'⟩ = x.lockedWr := by
  simp only [Dev.fieldWrite, ht, Dev.get_set_same, hne.symm, if_false, Bool.not_true, Bool.false_eq_true]

/-- RO and WO fields keep nothing of a write. -/
theorem Dev.fieldWrite_ro : d.fieldWrite a w l x ⟨lo, wd, .ro, rst, by'⟩ = x := rfl

theorem Dev.fieldWrite_wo : d.fieldWrite a w l x ⟨lo, wd, .wo, rst, by'⟩ = x := rfl

end

/-! ## Ordinary registers of a block (R567) -/

theorem slowReg_eq_false_of_ge {a : Nat} (h : 0x600B4 ≤ a) : slowReg a = false := by
  simp [slowReg]; omega

/-- A register of DBG whose write is the write of its fields. -/
theorem Dev.regWrite_dbg {d : Dev} {a : Nat} (hd : d.regDark a = false) (hlo : 0xA0034 ≤ a) (hhi : a < 0xB0000)
    (m : Master) (w : Nat) : d.regWrite m a w = d.plainWrite a w := by
  have hb : d.regWrite m a w = d.dbgWrite a w := by
    have below (n : Nat) (hn : n ≤ 0xA0000) : ¬ a < n := by omega
    simp only [Dev.regWrite, hd, slowReg_eq_false_of_ge (show 0x600B4 ≤ a by omega), Bool.false_eq_true, if_false,
      show a ≠ 0x18 by omega, below 0x40000 (by decide), below 0x80000 (by decide), below 0xA0000 (by decide),
      show a < 0x100000 by omega, if_true]
  rw [hb]
  unfold Dev.dbgWrite
  rw [if_neg (by omega)]
  split
  case h_15 => rfl
  all_goals omega

/-- No field of DBG ignores a value (R570). -/
theorem Dev.fieldTake_dbg {a : Nat} (hlo : 0xA0000 ≤ a) (hhi : a < 0xB0000) (d : Dev) (lo v : Nat) :
    d.fieldTake a lo v = some v := by
  unfold Dev.fieldTake
  repeat rw [if_neg (by omega)]

/-! ## The registers of the statement -/

theorem findReg_stimEn (x : CtlId) :
    findReg (0xA0100 + 4 * x.val) = some (⟨0xA0100, [(65, 4)], none, [⟨0, 32, .rw, 0, .por⟩]⟩, [x.val]) := by
  revert x
  decide

theorem rsMask_after_stimEn (x : CtlId) : rsMask (0xA0100 + 4 * x.val + 4) = 0 := by
  revert x
  decide

theorem findReg_swapTmo : findReg 0x10010 = some (⟨0x10010, [], none, [⟨0, 16, .rw, 1000, .drst⟩]⟩, []) := by
  decide

theorem findReg_devMode : findReg 0x48 = some (⟨0x48, [], none,
    [⟨0, 3, .ro, 0, .drst⟩, ⟨8, 8, .ro, 0, .drst⟩, ⟨16, 1, .ro, 0, .drst⟩, ⟨17, 1, .w1c, 0, .drst⟩]⟩, []) := by
  decide

theorem findReg_pwrLock : findReg 0x60024 = some (⟨0x60024, [], none, [⟨0, 1, .lck, 0, .drst⟩]⟩, []) := by
  decide

theorem findReg_timCtrl : findReg 0x40004 = some (⟨0x40004, [], some (2097215, 0),
    [⟨0, 2, .rwl, 0, .drst⟩, ⟨2, 1, .wo, 0, .drst⟩, ⟨31, 1, .lck, 0, .drst⟩]⟩, []) := by
  decide

/-- DBG_STIM_EN, an RW register of each controller (R529). -/
theorem Dev.regWrite_stimEn {d : Dev} {x : CtlId} (hd : d.regDark (0xA0100 + 4 * x.val) = false) (m : Master) (w : Nat) :
    d.regWrite m (0xA0100 + 4 * x.val) w = d.set (K.DBG_STIM_EN x) (bitsAt w 0 32) := by
  have hx := x.isLt
  have hk : keyAt (0xA0100 + 4 * x.val) 0 = 5244928 + 32 * x.val := by
    simp only [keyAt]; omega
  rw [Dev.regWrite_dbg hd (by omega) (by omega),
    Dev.plainWrite_fields (findReg_stimEn x) (by simp [rsMask_after_stimEn])]
  simp only [Dev.each, List.foldl_cons, List.foldl_nil]
  rw [Dev.fieldWrite_rw (Dev.fieldTake_dbg (by omega) (by omega) d _ _), hk]
  rfl

/-- SNT_SWAP_TMO, an RW register (R93). -/
theorem Dev.regWrite_swapTmo {d : Dev} (hd : d.regDark 0x10010 = false) (m : Master) (w : Nat) :
    d.regWrite m 0x10010 w = d.set K.SNT_SWAP_TMO (bitsAt w 0 16) := by
  have hb : d.regWrite m 0x10010 w = d.plainWrite 0x10010 w := by
    simp [Dev.regWrite, Dev.devWrite, hd, slowReg]
  have ht : d.fieldTake 0x10010 0 (bitsAt w 0 16) = some (bitsAt w 0 16) := by simp [Dev.fieldTake]
  rw [hb, Dev.plainWrite_fields findReg_swapTmo (by decide)]
  simp only [Dev.each, List.foldl_cons, List.foldl_nil, Dev.fieldWrite_rw ht]
  rfl

/-- DEV_MODE, whose one field that takes a write is REQ_REFUSED, W1C (R56). -/
theorem Dev.regWrite_devMode {d : Dev} (hd : d.regDark 0x48 = false) (m : Master) (w : Nat) :
    d.regWrite m 0x48 w = d.set K.DEV_MODE_REQ_REFUSED
      (d.get K.DEV_MODE_REQ_REFUSED - (d.get K.DEV_MODE_REQ_REFUSED &&& bitsAt w 17 1)) := by
  have hb : d.regWrite m 0x48 w = d.plainWrite 0x48 w := by
    simp [Dev.regWrite, Dev.devWrite, hd, slowReg]
  rw [hb, Dev.plainWrite_fields findReg_devMode (by decide)]
  simp only [Dev.each, List.foldl_cons, List.foldl_nil, Dev.fieldWrite_ro, Dev.fieldWrite_w1c]
  rfl

/-- PWR_LOCK, a lock bit (R480). -/
theorem Dev.regWrite_pwrLock {d : Dev} (hd : d.regDark 0x60024 = false) (m : Master) (w : Nat) :
    d.regWrite m 0x60024 w = if bitsAt w 0 1 = 0 then d else d.set K.PWR_LOCK_CAP_LOCK 1 := by
  have hb : d.regWrite m 0x60024 w = d.plainWrite 0x60024 w := by
    simp [Dev.regWrite, Dev.timWrite, hd, slowReg]
  rw [hb, Dev.plainWrite_fields findReg_pwrLock (by decide)]
  simp only [Dev.each, List.foldl_cons, List.foldl_nil, Dev.fieldWrite_lck]
  rfl

/-- What a write of TIM_CTRL leaves of SRC under its lock bit (R123, R573). -/
def Dev.srcWrite (d : Dev) (w : Nat) : Dev :=
  d.fieldWrite 0x40004 w (d.on K.TIM_CTRL_TIME_LOCK) d ⟨0, 2, .rwl, 0, .drst⟩

/-- TIM_CTRL without ACQUIRE: SRC, then its lock bit. -/
theorem Dev.regWrite_timCtrl {d : Dev} (hd : d.regDark 0x40004 = false) (m : Master) {w : Nat} (hacq : w / 4 % 2 = 0) :
    d.regWrite m 0x40004 w =
      if bitsAt w 31 1 = 0 then d.srcWrite w else (d.srcWrite w).set K.TIM_CTRL_TIME_LOCK 1 := by
  have hb : d.regWrite m 0x40004 w = d.plainWrite 0x40004 w := by
    simp [Dev.regWrite, Dev.timWrite, hd, slowReg, bitAt, hacq]
  rw [hb, Dev.plainWrite_fields findReg_timCtrl (by decide)]
  simp only [Dev.each, List.foldl_cons, List.foldl_nil, Dev.fieldWrite_wo, Dev.fieldWrite_lck]
  rfl

theorem Dev.fieldTake_timSrc {w : Nat} (hsrc : w % 4 ≠ 3) (d : Dev) :
    d.fieldTake 0x40004 0 (bitsAt w 0 2) = some (bitsAt w 0 2) := by
  simp [Dev.fieldTake, bitsAt, hsrc]

theorem Dev.srcWrite_open {d : Dev} {w : Nat} (hl : d.get K.TIM_CTRL_TIME_LOCK = 0) (hsrc : w % 4 ≠ 3) :
    d.srcWrite w = d.set K.TIM_CTRL_SRC (bitsAt w 0 2) := by
  have ho : d.on K.TIM_CTRL_TIME_LOCK = false := by simp [Dev.on, hl]
  rw [Dev.srcWrite, ho]
  exact Dev.fieldWrite_rwl_open (Dev.fieldTake_timSrc hsrc d)

theorem Dev.srcWrite_locked {d : Dev} {w : Nat} (hl : d.get K.TIM_CTRL_TIME_LOCK = 1) (hsrc : w % 4 ≠ 3)
    (hne : d.get K.TIM_CTRL_SRC ≠ w % 4) : d.srcWrite w = d.lockedWr := by
  have ho : d.on K.TIM_CTRL_TIME_LOCK = true := by simp [Dev.on, hl]
  have hv : bitsAt w 0 2 % 2 ^ 2 = w % 4 := by simp [bitsAt]
  rw [Dev.srcWrite, ho]
  exact Dev.fieldWrite_rwl_locked (Dev.fieldTake_timSrc hsrc d) (hv.symm ▸ hne)

/-! ## The event log under a refused access of a virtual function (R499) -/

/-- A class B record of the hub touches no register field but those of the loss counter of class B (R553, R561). -/
theorem Dev.get_logB (d : Dev) (ty unit data : Nat) (site : Option Nat) {f : Fld} (hlo : f.key / 32 ≠ 0xD0038 / 4)
    (hhi : f.key / 32 ≠ 0xD003C / 4) : (d.logB ty unit data site).get f = d.get f := by
  have keys : f.key ≠ K.EVL_B_LOST_LO_COUNT_LO.key ∧ f.key ≠ K.EVL_B_LOST_HI_COUNT_HI.key ∧
      f.key ≠ K.EVL_B_LOST_HI_OVF.key := by
    simp only [K.EVL_B_LOST_LO_COUNT_LO, K.EVL_B_LOST_HI_COUNT_HI, K.EVL_B_LOST_HI_OVF]; omega
  obtain ⟨hl, hh, ho⟩ := keys
  have lost (t : Nat) : (d.lose 2 t).get f = d.get f := by
    simp only [Dev.lose, if_true, Dev.count48]
    split
    · exact Dev.get_set2_ne d _ hl hh
    · exact (Dev.get_put_ne _ true ho).trans (Dev.get_set2_ne d _ hl hh)
  have posted (r : Rec) (hr : r.cls = 2) : (d.post r).get f = d.get f := by
    simp only [Dev.post, hr, show ¬ 2 = 1 by decide, show ¬ 2 = 3 by decide, if_false, decide_false,
      Bool.false_and, Bool.false_eq_true]
    split
    · rfl
    · exact lost r.tti
  exact posted _ rfl

/-- A refused access of a virtual function sets VF_REFUSED and writes its record. -/
theorem Dev.vfRefused_shows (d : Dev) (v a : Nat) :
    (d.vfRefused v a).get K.HST_STATUS_VF_REFUSED = 1 ∧ BytesKept d (d.vfRefused v a) ∧
      ∀ f : Fld, f.key ≠ K.HST_STATUS_VF_REFUSED.key → f.key / 32 ≠ 0xD0038 / 4 → f.key / 32 ≠ 0xD003C / 4 →
        (d.vfRefused v a).get f = d.get f := by
  refine ⟨?_, fun b => Dev.memGet_congr ?_ b, fun f hf hlo hhi => ?_⟩
  · exact (Dev.get_logB _ _ _ _ _ (by decide) (by decide)).trans (Dev.get_put_same d _ true (by decide))
  · exact (Dev.logB_memPart _ _ _ _ _).trans (Dev.put_memPart _ _ _)
  · exact (Dev.get_logB _ _ _ _ _ hlo hhi).trans (Dev.get_put_ne d true hf)

/-! ## Values of the fields -/

theorem bitsAt_word (v : Word) : bitsAt v.toNat 0 32 % 2 ^ 32 = v.toNat := by
  simp only [bitsAt, pow_zero, Nat.div_one]; omega

/-- Clearing a bit that is 0 or 1 where a one is written (R14). -/
theorem w1c_bit {g : Nat} (hg : g < 2) (w : Nat) :
    (g - (g &&& bitsAt w 17 1)) % 2 ^ 1 = if w / 2 ^ 17 % 2 = 1 then 0 else g := by
  have hb : bitsAt w 17 1 = w / 2 ^ 17 % 2 := rfl
  rw [hb]
  rcases Nat.mod_two_eq_zero_or_one (w / 2 ^ 17) with h | h
  · rw [h, Nat.and_zero, if_neg (by decide)]; omega
  · rw [h, Nat.and_one_is_mod, if_pos rfl]; omega

/-- The lock bit of a 32-bit word is its top bit. -/
theorem bitsAt_top (v : Word) : bitsAt v.toNat 31 1 = v.toNat / 2 ^ 31 := by
  have hv := v.isLt
  simp only [bitsAt]; omega

section
variable {m : Master} {a : BitVec 24} {v : Word} {s : State}

/-! ## What the hub refuses: the status that tells so, and nothing else (R371, R499, R515, R569) -/

theorem registerWrite_barred (ho : a.toNat < 0x38000 ∨ 0x40000 ≤ a.toNat) (hm : m = .pf ∨ m = .cfgp)
    (hb : s.dev.inReset = true ∨ a.toNat % 4 ≠ 0) : Gives (.registerWrite m a v) s fun d => d = s.dev := by
  have hr : s.dev.regReach m a.toNat true = (s.dev, false) := by
    rw [Dev.regReach_asked hm, if_pos (by simpa using hb)]
  exact ⟨_, exec_registerWrite_dropped hr (isPort_eq_false ho) (Dev.refusedTo_asked hm _), rfl⟩

theorem registerWrite_unmapped (ho : a.toNat < 0x38000 ∨ 0x40000 ≤ a.toNat) (hm : m = .pf ∨ m = .cfgp)
    (hrst : s.dev.inReset = false) (hal : a.toNat % 4 = 0) (hh : regHole a.toNat = true) :
    Gives (.registerWrite m a v) s fun d => d.get K.DEV_REG_STATUS_UNMAPPED = 1 ∧
      FieldsOnly s.dev d [K.DEV_REG_STATUS_UNMAPPED] := by
  have hr : s.dev.regReach m a.toNat true = (s.dev.unmapped, false) := by
    simp [Dev.regReach_asked hm, hrst, hal, hh]
  exact ⟨_, exec_registerWrite_dropped hr (isPort_eq_false ho) (Dev.refusedTo_asked hm _),
    put_true_only s.dev K.DEV_REG_STATUS_UNMAPPED (by decide)⟩

theorem registerWrite_linkDown (ho : a.toNat < 0x38000 ∨ 0x40000 ≤ a.toNat) (hm : m = .pf ∨ m = .cfgp)
    (hrst : s.dev.inReset = false) (hal : a.toNat % 4 = 0) (hh : regHole a.toNat = false)
    (hd : s.dev.regDark a.toNat = false) (hl : s.dev.reaches m (sideOf a.toNat) = false) :
    Gives (.registerWrite m a v) s fun d => d.get K.NOP_STATUS_ACC_REFUSED = 1 ∧
      FieldsOnly s.dev d [K.NOP_STATUS_ACC_REFUSED] := by
  have hr : s.dev.regReach m a.toNat true = (s.dev.put K.NOP_STATUS_ACC_REFUSED true, false) := by
    simp [Dev.regReach_asked hm, hrst, hal, hh, hd, hl]
  exact ⟨_, exec_registerWrite_dropped hr (isPort_eq_false ho) (Dev.refusedTo_asked hm _),
    put_true_only s.dev K.NOP_STATUS_ACC_REFUSED (by decide)⟩

theorem registerWrite_absent (ho : a.toNat < 0x38000 ∨ 0x40000 ≤ a.toNat) (hm : m = .pf ∨ m = .cfgp)
    (hrst : s.dev.inReset = false) (hal : a.toNat % 4 = 0) (hh : regHole a.toNat = false)
    (hd : s.dev.regDark a.toNat = true) : Gives (.registerWrite m a v) s fun d => d = s.dev := by
  have hr : s.dev.regReach m a.toNat true = (s.dev, true) := by
    simp [Dev.regReach_asked hm, hrst, hal, hh, hd]
  refine ⟨s.dev, ?_, rfl⟩
  rw [exec_registerWrite_passed hr (isPort_eq_false ho)]
  simp [State.regWrite, hd]

theorem registerWrite_notGranted (ho : a.toNat < 0x38000 ∨ 0x40000 ≤ a.toNat) (hm : m = .vf0)
    (hrst : s.dev.inReset = false) (hal : a.toNat % 4 = 0) (hh : regHole a.toNat = false)
    (hg : bitAt (s.dev.get (K.HST_VF_BLK 0)) (vfBlock a.toNat) = false) :
    Gives (.registerWrite m a v) s fun d => d.get K.HST_STATUS_VF_REFUSED = 1 ∧ BytesKept s.dev d ∧
      ∀ f : Fld, f.key ≠ K.HST_STATUS_VF_REFUSED.key → f.key / 32 ≠ 0xD0038 / 4 → f.key / 32 ≠ 0xD003C / 4 →
        d.get f = s.dev.get f := by
  subst hm
  have hr : s.dev.regReach .vf0 a.toNat true = (s.dev.vfRefused 0 a.toNat, false) := by
    simp [Dev.regReach, hrst, hal, hh, vfOf, hg]
  exact ⟨_, exec_registerWrite_dropped hr (isPort_eq_false ho) rfl, Dev.vfRefused_shows s.dev 0 a.toNat⟩

theorem registerWrite_debugLocked (ho : a.toNat < 0x38000 ∨ 0x40000 ≤ a.toNat) (hm : m = .dbg)
    (hrst : s.dev.inReset = false) (hal : a.toNat % 4 = 0) (hp : s.dev.dbgPermit = false) :
    Gives (.registerWrite m a v) s fun d => d.get K.DBG_CMD_RESULT_RESULT = 4 ∧
      FieldsOnly s.dev d [K.DBG_CMD_RESULT_RESULT] := by
  subst hm
  have hr : s.dev.regReach .dbg a.toNat true = (s.dev.dbgLocked, false) := by
    simp [Dev.regReach, hrst, hal, Dev.dbgMay, hp]
  exact ⟨_, exec_registerWrite_dropped hr (isPort_eq_false ho) rfl,
    Dev.get_set_lt s.dev K.DBG_CMD_RESULT_RESULT (by decide), fieldsOnly_set s.dev _ 4⟩

/-! ## What the hub lets through, by the access code of the field (R14, R573, R574) -/

theorem registerWrite_stimEn (x : CtlId) (hl : Lets s m (0xA0100 + 4 * x.val) true) :
    GivesBy m (.registerWrite m (BitVec.ofNat 24 (0xA0100 + 4 * x.val)) v) s fun d =>
      d.get (K.DBG_STIM_EN x) = v.toNat ∧ FieldsOnly s.dev d [K.DBG_STIM_EN x] := by
  have hx := x.isLt
  refine givesBy_registerWrite hl (by constructor <;> omega) ?_
  rw [Dev.regWrite_stimEn hl.2]
  exact ⟨(Dev.get_set_same _ _ _).trans (bitsAt_word v), fieldsOnly_set _ _ _⟩

theorem registerWrite_swapTmo (hl : Lets s m 0x10010 true) :
    GivesBy m (.registerWrite m 0x10010 v) s fun d =>
      d.get K.SNT_SWAP_TMO = v.toNat % 2 ^ 16 ∧ FieldsOnly s.dev d [K.SNT_SWAP_TMO] := by
  refine givesBy_registerWrite (n := 0x10010) hl (by constructor <;> omega) ?_
  rw [Dev.regWrite_swapTmo hl.2]
  refine ⟨(Dev.get_set_same _ _ _).trans ?_, fieldsOnly_set _ _ _⟩
  simp [bitsAt, K.SNT_SWAP_TMO]

theorem registerWrite_devMode (hl : Lets s m 0x48 true) (hg : s.dev.get K.DEV_MODE_REQ_REFUSED < 2) :
    GivesBy m (.registerWrite m 0x48 v) s fun d =>
      d.get K.DEV_MODE_REQ_REFUSED = (if v.toNat / 2 ^ 17 % 2 = 1 then 0 else s.dev.get K.DEV_MODE_REQ_REFUSED) ∧
        FieldsOnly s.dev d [K.DEV_MODE_REQ_REFUSED] := by
  refine givesBy_registerWrite (n := 0x48) hl (by constructor <;> omega) ?_
  rw [Dev.regWrite_devMode hl.2]
  exact ⟨(Dev.get_set_same _ _ _).trans (w1c_bit hg _), fieldsOnly_set _ _ _⟩

theorem registerWrite_pwrLock (hl : Lets s m 0x60024 true) :
    GivesBy m (.registerWrite m 0x60024 v) s fun d =>
      d.get K.PWR_LOCK_CAP_LOCK = (if v.toNat % 2 = 1 then 1 else s.dev.get K.PWR_LOCK_CAP_LOCK) ∧
        FieldsOnly s.dev d [K.PWR_LOCK_CAP_LOCK] := by
  refine givesBy_registerWrite (n := 0x60024) hl (by constructor <;> omega) ?_
  have hb : bitsAt v.toNat 0 1 = v.toNat % 2 := by simp [bitsAt]
  rw [Dev.regWrite_pwrLock hl.2, hb]
  rcases Nat.mod_two_eq_zero_or_one v.toNat with h | h
  · rw [if_pos h, if_neg (by omega)]
    exact ⟨rfl, FieldsOnly.refl _ _⟩
  · rw [if_neg (by omega), if_pos h]
    exact ⟨Dev.get_set_lt _ _ (by decide), fieldsOnly_set _ _ _⟩

theorem registerWrite_timCtrl_open (hl : Lets s m 0x40004 true) (hacq : v.toNat / 4 % 2 = 0) (hsrc : v.toNat % 4 ≠ 3)
    (hlock : s.dev.get K.TIM_CTRL_TIME_LOCK = 0) :
    GivesBy m (.registerWrite m 0x40004 v) s fun d =>
      d.get K.TIM_CTRL_SRC = v.toNat % 4 ∧ d.get K.TIM_CTRL_TIME_LOCK = v.toNat / 2 ^ 31 ∧
        FieldsOnly s.dev d [K.TIM_CTRL_SRC, K.TIM_CTRL_TIME_LOCK] := by
  refine givesBy_registerWrite (n := 0x40004) hl (by constructor <;> omega) ?_
  have hv := v.isLt
  have hkeys : K.TIM_CTRL_SRC.key ≠ K.TIM_CTRL_TIME_LOCK.key := by decide
  have hget : (s.dev.set K.TIM_CTRL_SRC (bitsAt v.toNat 0 2)).get K.TIM_CTRL_SRC = v.toNat % 4 := by
    rw [Dev.get_set_same]; simp [bitsAt, K.TIM_CTRL_SRC]
  have honly : FieldsOnly s.dev (s.dev.set K.TIM_CTRL_SRC (bitsAt v.toNat 0 2)) [K.TIM_CTRL_SRC, K.TIM_CTRL_TIME_LOCK] :=
    (FieldsOnly.refl _ _).set _ ⟨K.TIM_CTRL_SRC, by simp, rfl⟩
  rw [Dev.regWrite_timCtrl hl.2 m hacq, Dev.srcWrite_open hlock hsrc, bitsAt_top]
  split
  next h => exact ⟨hget, by rw [Dev.get_set_ne _ _ hkeys.symm, hlock, h], honly⟩
  next h =>
    refine ⟨by rw [Dev.get_set_ne _ _ hkeys, hget], ?_, honly.set _ ⟨K.TIM_CTRL_TIME_LOCK, by simp, rfl⟩⟩
    rw [Dev.get_set_lt _ _ (by decide)]; omega

theorem registerWrite_timCtrl_locked (hl : Lets s m 0x40004 true) (hacq : v.toNat / 4 % 2 = 0) (hsrc : v.toNat % 4 ≠ 3)
    (hlock : s.dev.get K.TIM_CTRL_TIME_LOCK = 1) (hne : s.dev.get K.TIM_CTRL_SRC ≠ v.toNat % 4) :
    GivesBy m (.registerWrite m 0x40004 v) s fun d =>
      d.get K.DEV_REG_STATUS_LOCKED_WR = 1 ∧ FieldsOnly s.dev d [K.DEV_REG_STATUS_LOCKED_WR] := by
  refine givesBy_registerWrite (n := 0x40004) hl (by constructor <;> omega) ?_
  have hnote := put_true_only s.dev K.DEV_REG_STATUS_LOCKED_WR (by decide)
  rw [Dev.regWrite_timCtrl hl.2 m hacq, Dev.srcWrite_locked hlock hsrc hne]
  split
  · exact hnote
  · refine ⟨(Dev.get_set_ne _ _ (by decide)).trans hnote.1, hnote.2.set_again ?_ (by decide)⟩
    exact (Dev.get_put_ne s.dev true (by decide)).trans hlock

end

/-- Settles O29: the accesses that the hub refuses by what bars them, and those that it lets through by the field's access
code. -/
theorem registerWrites : Obligations.RegisterWrites := by
  intro m a v s
  refine ⟨fun ho => ⟨fun hm hb => registerWrite_barred ho hm hb, fun hrst hal =>
    ⟨fun hm hh => registerWrite_unmapped ho hm hrst hal hh, fun hh =>
      ⟨fun hm hd hl => registerWrite_linkDown ho hm hrst hal hh hd hl,
        fun hm hd => registerWrite_absent ho hm hrst hal hh hd,
        fun hm hg => registerWrite_notGranted ho hm hrst hal hh hg⟩,
      fun hm hp => registerWrite_debugLocked ho hm hrst hal hp⟩⟩,
    fun x hl => registerWrite_stimEn x hl, fun hl => registerWrite_swapTmo hl, fun hl hg => registerWrite_devMode hl hg,
    fun hl => registerWrite_pwrLock hl, fun hl hacq hsrc =>
      ⟨fun hlock => registerWrite_timCtrl_open hl hacq hsrc hlock,
        fun hlock hne => registerWrite_timCtrl_locked hl hacq hsrc hlock hne⟩⟩

/-! ## A device that the clauses speak of -/

/-- A device out of reset, its links still DOWN, whose lifecycle is RETIRED. -/
def State.outOfReset : State :=
  { State.reset with dev := { Dev.initial with
      start := { suppliesValid := true, inPor := false }, fuses := { lifecycle := lcRETIRED } } }

/-- The hypotheses of O29 are met: the physical function reaches the hub's registers and none of the base die, an address is
unmapped, a unit is absent, and neither VF0 nor the debug master may write. -/
theorem State.outOfReset_meets :
    Lets State.outOfReset .pf 0x10010 true ∧ State.outOfReset.dev.reaches .pf (sideOf 0x100000) = false ∧
      regHole 0x200000 = true ∧ State.outOfReset.dev.regDark 0xB0408 = true ∧
      bitAt (State.outOfReset.dev.get (K.HST_VF_BLK 0)) (vfBlock 0x40000) = false ∧
      State.outOfReset.dev.dbgPermit = false := by
  refine ⟨⟨?_, ?_⟩, ?_, ?_, ?_, ?_, ?_⟩ <;> decide

end Sys2Proof.Machine
end

section
/-! SUPPORT. What every step keeps (R58, R116, R329, R424): the canonical form of memory and flash, and the classes of
the sampled events. -/

namespace Sys2Proof.Machine

/-! ## Memory and flash -/

/-- Every command answers a state whose memory and flash are in canonical form, each by its own lemma. -/
theorem exec_wf : ∀ (c : Instr) (s : State), s.dev.memPart.wf = true → OutWf (exec c s)
  | .hubSuppliesValid, s, h => execHubSuppliesValid_wf s h
  | .por, s, h => execPor_wf s h
  | .hubPorRelease, s, h => execHubPorRelease_wf s h
  | .hubSelfCheck .., s, h => execHubSelfCheck_wf _ s h
  | .ifLoadComplete, s, h => execIfLoadComplete_wf s h
  | .imageStart .., s, h => execImageStart_wf _ s h
  | .startRequest .., s, h => execStartRequest_wf _ s h
  | .pwrCheckComplete, s, h => execPwrCheckComplete_wf s h
  | .pwrTimeout .., s, h => execPwrTimeout_wf _ s h
  | .bdBistDone .., s, h => execBdBistDone_wf _ _ s h
  | .hbmPhyTrainingDone .., s, h => execHbmPhyTrainingDone_wf _ s h
  | .hubLinkTrainingDone .., s, h => execHubLinkTrainingDone_wf _ _ s h
  | .cdRelease, s, h => execCdRelease_wf s h
  | .cdBistDone .., s, h => execCdBistDone_wf _ _ _ s h
  | .d2dLinkTrainingDone .., s, h => execD2dLinkTrainingDone_wf _ _ s h
  | .stageTimeout, s, h => execStageTimeout_wf s h
  | .streamCheckComplete, s, h => execStreamCheckComplete_wf s h
  | .pllLockComplete .., s, h => execPllLockComplete_wf _ s h
  | .pllNoLock .., s, h => execPllNoLock_wf _ s h
  | .calLoadComplete .., s, h => execCalLoadComplete_wf _ s h
  | .deskewMeasurementDone .., s, h => execDeskewMeasurementDone_wf _ _ s h
  | .overTemperatureTrip .., s, h => execOverTemperatureTrip_wf _ s h
  | .supplyTrip .., s, h => execSupplyTrip_wf _ _ s h
  | .sentryLogicTrip .., s, h => execSentryLogicTrip_wf _ s h
  | .peSafeRequest, s, h => execPeSafeRequest_wf s h
  | .unrecoverableSafeEntry, s, h => execUnrecoverableSafeEntry_wf s h
  | .enterLoad .., s, h => execEnterLoad_wf _ s h
  | .devRstNLow, s, h => execDevRstNLow_wf s h
  | .devRstNHigh, s, h => execDevRstNHigh_wf s h
  | .drst .., s, h => execDrst_wf _ s h
  | .hostResetTakesEffect, s, h => execHostResetTakesEffect_wf s h
  | .cdRst .., s, h => execCdRst_wf _ _ s h
  | .bdRst .., s, h => execBdRst_wf _ s h
  | .coreRst .., s, h => execCoreRst_wf _ _ s h
  | .safeRelChange .., s, h => execSafeRelChange_wf _ s h
  | .sntGroupForceWrite .., s, h => execSntGroupForceWrite_wf _ _ s h
  | .sntPolicyWrite .., s, h => execSntPolicyWrite_wf _ _ s h
  | .evtTrigger .., s, h => execEvtTrigger_wf _ s h
  | .trigFTrigger .., s, h => execTrigFTrigger_wf _ _ s h
  | .mboxFrom .., s, h => execMboxFrom_wf _ s h
  | .mboxFromRead .., s, h => execMboxFromRead_wf _ s h
  | .mboxToWrite .., s, h => execMboxToWrite_wf _ _ s h
  | .swapRequest .., s, h => execSwapRequest_wf _ _ s h
  | .swapCancel .., s, h => execSwapCancel_wf _ _ s h
  | .swapBegin, s, h => execSwapBegin_wf s h
  | .swapTimeout, s, h => execSwapTimeout_wf s h
  | .swapCrcCheck, s, h => execSwapCrcCheck_wf s h
  | .swapLoadDone .., s, h => execSwapLoadDone_wf _ s h
  | .swapReloadDone .., s, h => execSwapReloadDone_wf _ s h
  | .acquire .., s, h => execAcquire_wf _ s h
  | .acquisitionComplete .., s, h => execAcquisitionComplete_wf _ _ _ s h
  | .refLost, s, h => execRefLost_wf s h
  | .secondMark, s, h => execSecondMark_wf s h
  | .go .., s, h => execGo_wf _ s h
  | .timTtiLoRead .., s, h => execTimTtiLoRead_wf _ s h
  | .timTickRead .., s, h => execTimTickRead_wf _ s h
  | .timSecLoRead .., s, h => execTimSecLoRead_wf _ s h
  | .timSecHiRead .., s, h => execTimSecHiRead_wf _ s h
  | .snapshotLoRead .., s, h => execSnapshotLoRead_wf _ _ s h
  | .arm .., s, h => execArm_wf _ _ _ _ s h
  | .disarm .., s, h => execDisarm_wf _ _ _ _ s h
  | .linkedCopyPlacement .., s, h => execLinkedCopyPlacement_wf _ s h
  | .siteStartHit .., s, h => execSiteStartHit_wf _ s h
  | .siteStopHit .., s, h => execSiteStopHit_wf _ s h
  | .eventHit .., s, h => execEventHit_wf _ _ s h
  | .pdStartHit .., s, h => execPdStartHit_wf _ _ s h
  | .trigOutHit .., s, h => execTrigOutHit_wf _ _ s h
  | .pwrStateHit .., s, h => execPwrStateHit_wf _ _ s h
  | .eventArrival .., s, h => execEventArrival_wf _ _ _ s h
  | .eviCntLoad .., s, h => execEviCntLoad_wf _ _ _ _ s h
  | .illegalOpcode .., s, h => execIllegalOpcode_wf _ _ s h
  | .nop .., s, h => execNop_wf _ s h
  | .brk .., s, h => execBrk_wf _ _ s h
  | .fence .., s, h => execFence_wf _ s h
  | .fenceComplete .., s, h => execFenceComplete_wf _ s h
  | .iflush .., s, h => execIflush_wf _ s h
  | .cend .., s, h => execCend_wf _ s h
  | .eret .., s, h => execEret_wf _ s h
  | .add .., s, h => execAdd_wf _ _ _ _ s h
  | .sub .., s, h => execSub_wf _ _ _ _ s h
  | .andR .., s, h => execAndR_wf _ _ _ _ s h
  | .orR .., s, h => execOrR_wf _ _ _ _ s h
  | .xor .., s, h => execXor_wf _ _ _ _ s h
  | .andn .., s, h => execAndn_wf _ _ _ _ s h
  | .shl .., s, h => execShl_wf _ _ _ _ s h
  | .shr .., s, h => execShr_wf _ _ _ _ s h
  | .sar .., s, h => execSar_wf _ _ _ _ s h
  | .ror .., s, h => execRor_wf _ _ _ _ s h
  | .clt .., s, h => execClt_wf _ _ _ _ s h
  | .cltu .., s, h => execCltu_wf _ _ _ _ s h
  | .ceq .., s, h => execCeq_wf _ _ _ _ s h
  | .min .., s, h => execMin_wf _ _ _ _ s h
  | .max .., s, h => execMax_wf _ _ _ _ s h
  | .minu .., s, h => execMinu_wf _ _ _ _ s h
  | .maxu .., s, h => execMaxu_wf _ _ _ _ s h
  | .clz .., s, h => execClz_wf _ _ _ s h
  | .ctz .., s, h => execCtz_wf _ _ _ s h
  | .popc .., s, h => execPopc_wf _ _ _ s h
  | .sxb .., s, h => execSxb_wf _ _ _ s h
  | .sxh .., s, h => execSxh_wf _ _ _ s h
  | .sxw .., s, h => execSxw_wf _ _ _ s h
  | .zxw .., s, h => execZxw_wf _ _ _ s h
  | .mul .., s, h => execMul_wf _ _ _ _ s h
  | .mulh .., s, h => execMulh_wf _ _ _ _ s h
  | .mulhu .., s, h => execMulhu_wf _ _ _ _ s h
  | .div .., s, h => execDiv_wf _ _ _ _ s h
  | .divu .., s, h => execDivu_wf _ _ _ _ s h
  | .rem .., s, h => execRem_wf _ _ _ _ s h
  | .remu .., s, h => execRemu_wf _ _ _ _ s h
  | .addi .., s, h => execAddi_wf _ _ _ _ s h
  | .andi .., s, h => execAndi_wf _ _ _ _ s h
  | .ori .., s, h => execOri_wf _ _ _ _ s h
  | .xori .., s, h => execXori_wf _ _ _ _ s h
  | .shi .., s, h => execShi_wf _ _ _ _ _ s h
  | .clti .., s, h => execClti_wf _ _ _ _ s h
  | .cltui .., s, h => execCltui_wf _ _ _ _ s h
  | .li .., s, h => execLi_wf _ _ _ s h
  | .addpc .., s, h => execAddpc_wf _ _ _ s h
  | .pfx .., s, h => execPfx_wf _ _ s h
  | .beq .., s, h => execBeq_wf _ _ _ _ s h
  | .bne .., s, h => execBne_wf _ _ _ _ s h
  | .blt .., s, h => execBlt_wf _ _ _ _ s h
  | .bge .., s, h => execBge_wf _ _ _ _ s h
  | .bltu .., s, h => execBltu_wf _ _ _ _ s h
  | .bgeu .., s, h => execBgeu_wf _ _ _ _ s h
  | .bl .., s, h => execBl_wf _ _ _ s h
  | .jlr .., s, h => execJlr_wf _ _ _ _ s h
  | .ld .., s, h => execLd_wf _ _ _ _ _ _ _ s h
  | .loadDataArrival .., s, h => execLoadDataArrival_wf _ _ _ s h
  | .st .., s, h => execSt_wf _ _ _ _ _ _ s h
  | .waite .., s, h => execWaite_wf _ _ _ _ s h
  | .waiteDeadline .., s, h => execWaiteDeadline_wf _ s h
  | .waitt .., s, h => execWaitt_wf _ _ _ _ s h
  | .waittTarget .., s, h => execWaittTarget_wf _ s h
  | .sig .., s, h => execSig_wf _ _ _ _ s h
  | .sigVector .., s, h => execSigVector_wf _ _ _ _ s h
  | .pushv .., s, h => execPushv_wf _ _ s h
  | .pushvSpace .., s, h => execPushvSpace_wf _ s h
  | .rdv .., s, h => execRdv_wf _ _ _ s h
  | .capq .., s, h => execCapq_wf _ _ _ _ s h
  | .stim .., s, h => execStim_wf _ _ _ s h
  | .rdt .., s, h => execRdt_wf _ _ _ s h
  | .rdcs .., s, h => execRdcs_wf _ _ _ s h
  | .wrcs .., s, h => execWrcs_wf _ _ _ s h
  | .fadd .., s, h => execFadd_wf _ _ _ _ _ _ s h
  | .fsub .., s, h => execFsub_wf _ _ _ _ _ _ s h
  | .fmul .., s, h => execFmul_wf _ _ _ _ _ _ s h
  | .fdiv .., s, h => execFdiv_wf _ _ _ _ _ _ s h
  | .fsqrt .., s, h => execFsqrt_wf _ _ _ _ _ s h
  | .fmin .., s, h => execFmin_wf _ _ _ _ _ _ s h
  | .fmax .., s, h => execFmax_wf _ _ _ _ _ _ s h
  | .fminm .., s, h => execFminm_wf _ _ _ _ _ _ s h
  | .fmaxm .., s, h => execFmaxm_wf _ _ _ _ _ _ s h
  | .feq .., s, h => execFeq_wf _ _ _ _ _ _ s h
  | .flt .., s, h => execFlt_wf _ _ _ _ _ _ s h
  | .fle .., s, h => execFle_wf _ _ _ _ _ _ s h
  | .fltq .., s, h => execFltq_wf _ _ _ _ _ _ s h
  | .fleq .., s, h => execFleq_wf _ _ _ _ _ _ s h
  | .fun .., s, h => execFun_wf _ _ _ _ _ _ s h
  | .fclass .., s, h => execFclass_wf _ _ _ _ _ s h
  | .fsgnj .., s, h => execFsgnj_wf _ _ _ _ _ _ s h
  | .fsgnjn .., s, h => execFsgnjn_wf _ _ _ _ _ _ s h
  | .fsgnjx .., s, h => execFsgnjx_wf _ _ _ _ _ _ s h
  | .fcvtFF .., s, h => execFcvtFF_wf _ _ _ _ _ s h
  | .fcvtW .., s, h => execFcvtW_wf _ _ _ _ _ s h
  | .fcvtWu .., s, h => execFcvtWu_wf _ _ _ _ _ s h
  | .fcvtL .., s, h => execFcvtL_wf _ _ _ _ _ s h
  | .fcvtLu .., s, h => execFcvtLu_wf _ _ _ _ _ s h
  | .fcvtFW .., s, h => execFcvtFW_wf _ _ _ _ _ s h
  | .fcvtFWu .., s, h => execFcvtFWu_wf _ _ _ _ _ s h
  | .fcvtFL .., s, h => execFcvtFL_wf _ _ _ _ _ s h
  | .fcvtFLu .., s, h => execFcvtFLu_wf _ _ _ _ _ s h
  | .fmvGF .., s, h => execFmvGF_wf _ _ _ _ _ s h
  | .fmvFG .., s, h => execFmvFG_wf _ _ _ _ _ s h
  | .frintx .., s, h => execFrintx_wf _ _ _ _ _ s h
  | .fmadd .., s, h => execFmadd_wf _ _ _ _ _ _ _ s h
  | .fmsub .., s, h => execFmsub_wf _ _ _ _ _ _ _ s h
  | .fnmadd .., s, h => execFnmadd_wf _ _ _ _ _ _ _ s h
  | .fnmsub .., s, h => execFnmsub_wf _ _ _ _ _ _ _ s h
  | .vdecl .., s, h => execVdecl_wf _ s h
  | .rows .., s, h => execRows_wf _ _ _ _ s h
  | .rpt .., s, h => execRpt_wf _ _ _ _ s h
  | .idle .., s, h => execIdle_wf _ _ _ s h
  | .vset .., s, h => execVset_wf _ _ _ _ _ s h
  | .vpop .., s, h => execVpop_wf _ _ s h
  | .aopx .., s, h => execAopx_wf _ _ _ _ _ _ s h
  | .loop .., s, h => execLoop_wf _ _ _ s h
  | .endl .., s, h => execEndl_wf _ _ _ s h
  | .vjmp .., s, h => execVjmp_wf _ _ s h
  | .vcall .., s, h => execVcall_wf _ _ _ s h
  | .vret .., s, h => execVret_wf _ _ s h
  | .mloop .., s, h => execMloop_wf _ _ _ _ _ _ _ _ _ s h
  | .mend .., s, h => execMend_wf _ s h
  | .segb .., s, h => execSegb_wf _ _ _ s h
  | .matchLoopPassEnd .., s, h => execMatchLoopPassEnd_wf _ s h
  | .matchLoopOutcome .., s, h => execMatchLoopOutcome_wf _ s h
  | .segOverrun .., s, h => execSegOverrun_wf _ s h
  | .viqUnderrun .., s, h => execViqUnderrun_wf _ s h
  | .stopApply .., s, h => execStopApply_wf _ s h
  | .stopBoundary .., s, h => execStopBoundary_wf _ s h
  | .endBoundary .., s, h => execEndBoundary_wf _ s h
  | .segmentBoundary .., s, h => execSegmentBoundary_wf _ s h
  | .curtainEnd .., s, h => execCurtainEnd_wf _ s h
  | .rockerPassEnd .., s, h => execRockerPassEnd_wf _ s h
  | .segmentAdmissionEnd .., s, h => execSegmentAdmissionEnd_wf _ _ s h
  | .vectorReadComplete .., s, h => execVectorReadComplete_wf _ _ _ s h
  | .pinCycle .., s, h => execPinCycle_wf _ _ s h
  | .pdCfgStart .., s, h => execPdCfgStart_wf _ _ _ s h
  | .pdCfgStop .., s, h => execPdCfgStop_wf _ _ _ s h
  | .pllStepArm .., s, h => execPllStepArm_wf _ _ _ s h
  | .pllStepDisarm .., s, h => execPllStepDisarm_wf _ _ _ s h
  | .pllStep .., s, h => execPllStep_wf _ _ s h
  | .deskewSweepDue .., s, h => execDeskewSweepDue_wf _ _ s h
  | .sweep .., s, h => execSweep_wf _ _ s h
  | .rsuClr .., s, h => execRsuClr_wf _ _ _ s h
  | .cmpMaskWrite .., s, h => execCmpMaskWrite_wf _ _ _ _ s h
  | .recordGeneratorTake .., s, h => execRecordGeneratorTake_wf _ s h
  | .stagingDrain .., s, h => execStagingDrain_wf _ _ s h
  | .rdPtrWrite .., s, h => execRdPtrWrite_wf _ _ _ _ s h
  | .wmHitClear .., s, h => execWmHitClear_wf _ _ s h
  | .counterLoWrite .., s, h => execCounterLoWrite_wf _ _ _ s h
  | .rpsMapping .., s, h => execRpsMapping_wf _ s h
  | .cellOperation .., s, h => execCellOperation_wf _ s h
  | .solveEngineTake, s, h => execSolveEngineTake_wf s h
  | .solutionWritten .., s, h => execSolutionWritten_wf _ _ s h
  | .solve .., s, h => execSolve_wf _ _ s h
  | .cancel .., s, h => execCancel_wf _ _ s h
  | .clear .., s, h => execClear_wf _ _ s h
  | .rpsNop .., s, h => execRpsNop_wf _ _ s h
  | .rpsBadOp .., s, h => execRpsBadOp_wf _ _ _ s h
  | .siteNop .., s, h => execSiteNop_wf _ _ s h
  | .admitSite .., s, h => execAdmit_wf _ _ s h
  | .admissionEnd .., s, h => execAdmissionEnd_wf _ s h
  | .start .., s, h => execStart_wf _ _ s h
  | .stop .., s, h => execStop_wf _ _ s h
  | .park .., s, h => execPark_wf _ _ s h
  | .abort .., s, h => execAbort_wf _ _ s h
  | .resume .., s, h => execResume_wf _ _ s h
  | .restart .., s, h => execRestart_wf _ _ s h
  | .release .., s, h => execRelease_wf _ _ s h
  | .siteBadOp .., s, h => execSiteBadOp_wf _ _ _ s h
  | .generalBwBreach .., s, h => execGeneralBwBreach_wf _ s h
  | .breachWaitEnd .., s, h => execBreachWaitEnd_wf _ _ s h
  | .ptuInvalidate .., s, h => execPtuInvalidate_wf _ _ s h
  | .invalidationDone, s, h => execInvalidationDone_wf s h
  | .ptuRootWrite .., s, h => execPtuRootWrite_wf _ _ _ _ s h
  | .patrolRead .., s, h => execPatrolRead_wf _ _ _ s h
  | .hostMemoryRead .., s, h => execHostMemoryRead_wf _ _ _ _ s h
  | .hostMemoryWrite .., s, h => execHostMemoryWrite_wf _ _ _ s h
  | .dataFlit .., s, h => execDataFlit_wf _ _ _ s h
  | .idleFlit .., s, h => execIdleFlit_wf _ _ s h
  | .replayRequest .., s, h => execReplayRequest_wf _ _ s h
  | .replayLimit .., s, h => execReplayLimit_wf _ s h
  | .linkSilence .., s, h => execLinkSilence_wf _ s h
  | .linkLoss .., s, h => execLinkLoss_wf _ s h
  | .recoveryStart .., s, h => execRecoveryStart_wf _ s h
  | .trainingAttemptEnd .., s, h => execTrainingAttemptEnd_wf _ _ _ s h
  | .hubRecover .., s, h => execHubRecover_wf _ s h
  | .cdRecover .., s, h => execCdRecover_wf _ _ s h
  | .recover .., s, h => execRecover_wf _ _ s h
  | .guestRequest .., s, h => execGuestRequest_wf _ _ _ _ s h
  | .isolate .., s, h => execIsolate_wf _ _ s h
  | .violClear .., s, h => execViolClear_wf _ s h
  | .cfgPortWrite .., s, h => execCfgPortWrite_wf _ _ s h
  | .stream .., s, h => execStream_wf _ s h
  | .regw .., s, h => execRegw_wf _ _ s h
  | .regr .., s, h => execRegr_wf _ s h
  | .stat, s, h => execStat_wf s h
  | .cfgpUnknown cmd, s, h => execCfgpUnknown_wf cmd s h
  | .streamHeader, s, h => execStreamHeader_wf s h
  | .blockHeader, s, h => execBlockHeader_wf s h
  | .pad, s, h => execPad_wf s h
  | .setDevid, s, h => execSetDevid_wf s h
  | .setCtlmask, s, h => execSetCtlmask_wf s h
  | .setDiectl, s, h => execSetDiectl_wf s h
  | .setDiepwr, s, h => execSetDiepwr_wf s h
  | .frames, s, h => execFrames_wf s h
  | .repeatPacket, s, h => execRepeatPacket_wf s h
  | .clearPacket, s, h => execClearPacket_wf s h
  | .reservedPacket, s, h => execReservedPacket_wf s h
  | .blockTag, s, h => execBlockTag_wf s h
  | .streamEnd, s, h => execStreamEnd_wf s h
  | .streamCrc, s, h => execStreamCrc_wf s h
  | .cfgTimeout, s, h => execCfgTimeout_wf s h
  | .hostAbort .., s, h => execHostAbort_wf _ s h
  | .revertDone, s, h => execRevertDone_wf s h
  | .claimRelease, s, h => execClaimRelease_wf s h
  | .interfaceRelease .., s, h => execInterfaceRelease_wf _ _ s h
  | .keybProgram .., s, h => execKeybProgram_wf _ _ s h
  | .zeroize .., s, h => execZeroize_wf _ _ s h
  | .vbatRetentionLoss, s, h => execVbatRetentionLoss_wf s h
  | .keyStoreTemperature, s, h => execKeyStoreTemperature_wf s h
  | .cfgiOpen .., s, h => execCfgiOpen_wf _ _ s h
  | .cfgiData .., s, h => execCfgiData_wf _ _ s h
  | .cfgiClose .., s, h => execCfgiClose_wf _ _ s h
  | .cfgiAbort .., s, h => execCfgiAbort_wf _ s h
  | .prAbort .., s, h => execPrAbort_wf _ _ _ s h
  | .prReloadDone .., s, h => execPrReloadDone_wf _ s h
  | .prBlankDone .., s, h => execPrBlankDone_wf _ s h
  | .scrubPassStart .., s, h => execScrubPassStart_wf _ s h
  | .scrubColumnDone .., s, h => execScrubColumnDone_wf _ _ _ s h
  | .erase .., s, h => execErase_wf _ _ s h
  | .program .., s, h => execProgram_wf _ _ _ s h
  | .verify .., s, h => execVerify_wf _ _ _ s h
  | .blankCheck .., s, h => execBlankCheck_wf _ _ s h
  | .crc .., s, h => execCrc_wf _ _ s h
  | .storeWrite .., s, h => execStoreWrite_wf _ _ _ s h
  | .storeSelect .., s, h => execStoreSelect_wf _ _ s h
  | .flashBadFunc .., s, h => execFlashBadFunc_wf _ _ _ s h
  | .flashOperationEnd, s, h => execFlashOperationEnd_wf s h
  | .opTimeout, s, h => execOpTimeout_wf s h
  | .ifFlashRead .., s, h => execIfFlashRead_wf _ _ s h
  | .pllLossOfLock .., s, h => execPllLossOfLock_wf _ _ s h
  | .relock .., s, h => execRelock_wf _ _ s h
  | .relockDone .., s, h => execRelockDone_wf _ _ _ s h
  | .telemetryFrame .., s, h => execTelemetryFrame_wf _ _ s h
  | .telemetryTimeout .., s, h => execTelemetryTimeout_wf _ s h
  | .powerUpdate .., s, h => execPowerUpdate_wf _ s h
  | .dieStateEntry .., s, h => execDieStateEntry_wf _ s h
  | .wakeStart .., s, h => execWakeStart_wf _ s h
  | .wakeEnd .., s, h => execWakeEnd_wf _ _ s h
  | .tripClear .., s, h => execTripClear_wf _ s h
  | .capWrite .., s, h => execCapWrite_wf _ _ _ s h
  | .roleWrite .., s, h => execRoleWrite_wf _ _ s h
  | .portUp .., s, h => execPortUp_wf _ _ s h
  | .timeFrame .., s, h => execTimeFrame_wf _ _ s h
  | .stringNop .., s, h => execStringNop_wf _ s h
  | .stringStop .., s, h => execStringStop_wf _ s h
  | .stringPark .., s, h => execStringPark_wf _ s h
  | .stringBadOp .., s, h => execStringBadOp_wf _ _ s h
  | .stringCommandArrival .., s, h => execStringCommandArrival_wf _ _ _ _ _ s h
  | .stringCommandExec, s, h => execStringCommandExec_wf s h
  | .statusSlot, s, h => execStatusSlot_wf s h
  | .upstreamFrame .., s, h => execUpstreamFrame_wf _ s h
  | .followerAbsent .., s, h => execFollowerAbsent_wf _ s h
  | .blockLockLoss .., s, h => execBlockLockLoss_wf _ s h
  | .timeFrameSilence, s, h => execTimeFrameSilence_wf s h
  | .holdoverDeadline, s, h => execHoldoverDeadline_wf s h
  | .configRequest .., s, h => execConfigRequest_wf _ _ s h
  | .pcieLinkDown, s, h => execPcieLinkDown_wf s h
  | .hotReset, s, h => execHotReset_wf s h
  | .pfFlr, s, h => execPfFlr_wf s h
  | .vfFlr .., s, h => execVfFlr_wf _ s h
  | .flashBarRead .., s, h => execFlashBarRead_wf _ _ _ s h
  | .msixUnmask .., s, h => execMsixUnmask_wf _ s h
  | .irqMapEnable .., s, h => execIrqMapEnable_wf _ _ _ s h
  | .dmaTailWrite .., s, h => execDmaTailWrite_wf _ _ _ s h
  | .descriptorComplete .., s, h => execDescriptorComplete_wf _ _ _ _ s h
  | .dmaResume .., s, h => execDmaResume_wf _ _ s h
  | .dmaAbort .., s, h => execDmaAbort_wf _ _ s h
  | .gpiOutWrite .., s, h => execGpiOutWrite_wf _ _ _ s h
  | .gpiOeWrite .., s, h => execGpiOeWrite_wf _ _ _ s h
  | .patternMatch .., s, h => execPatternMatch_wf _ _ s h
  | .pmConfigWrite .., s, h => execPmConfigWrite_wf _ _ _ _ s h
  | .txdataWrite .., s, h => execTxdataWrite_wf _ _ _ s h
  | .rxdataRead .., s, h => execRxdataRead_wf _ _ s h
  | .serialByteReceived .., s, h => execSerialByteReceived_wf _ _ s h
  | .serialTransferEnd .., s, h => execSerialTransferEnd_wf _ _ _ s h
  | .halt .., s, h => execHalt_wf _ _ s h
  | .debugResume .., s, h => execDebugResume_wf _ _ s h
  | .step .., s, h => execStep_wf _ _ s h
  | .dbgNop .., s, h => execDbgNop_wf _ _ _ s h
  | .debugRequest .., s, h => execDebugRequest_wf _ s h
  | .stateAccess .., s, h => execStateAccess_wf _ _ _ _ s h
  | .extest, s, h => execExtest_wf s h
  | .idcode, s, h => execIdcode_wf s h
  | .samplePreload, s, h => execSamplePreload_wf s h
  | .dbgacc .., s, h => execDbgacc_wf _ _ _ s h
  | .dbgstat, s, h => execDbgstat_wf s h
  | .bypass .., s, h => execBypass_wf _ s h
  | .trstN, s, h => execTrstN_wf s h
  | .leaseRequest .., s, h => execLeaseRequest_wf _ _ _ _ _ s h
  | .leaseRelease .., s, h => execLeaseRelease_wf _ _ _ s h
  | .leaseWithdraw .., s, h => execLeaseWithdraw_wf _ _ _ s h
  | .bistGo .., s, h => execBistGo_wf _ _ _ s h
  | .bistCancel .., s, h => execBistCancel_wf _ _ s h
  | .bistPeriodDue .., s, h => execBistPeriodDue_wf _ s h
  | .bistStepDone .., s, h => execBistStepDone_wf _ _ _ _ s h
  | .injArm .., s, h => execInjArm_wf _ _ s h
  | .injDisarm .., s, h => execInjDisarm_wf _ _ s h
  | .recordStore .., s, h => execRecordStore_wf _ _ s h
  | .evlRdWrite .., s, h => execEvlRdWrite_wf _ _ _ s h
  | .icacheInv .., s, h => execIcacheInv_wf _ _ s h
  | .registerWrite .., s, h => execRegisterWrite_wf _ _ _ s h
  | .rgpOpen .., s, h => execRgpOpen_wf _ s h
  | .rgpCommit .., s, h => execRgpCommit_wf _ _ s h
  | .rgpPassEnd, s, h => execRgpPassEnd_wf s h
  | .lifecycleRequest .., s, h => execLifecycleRequest_wf _ _ _ s h
  | .lifecycleFusesProgrammed, s, h => execLifecycleFusesProgrammed_wf s h
  | .referenceBack, s, h => execReferenceBack_wf s h
  | .tripSysReqFall .., s, h => execTripSysReqFall_wf _ _ s h
  | .tripCauseGone .., s, h => execTripCauseGone_wf _ _ s h
  | .pcieLinkUp .., s, h => execPcieLinkUp_wf _ _ s h
  | .storeComplete .., s, h => execStoreComplete_wf _ _ s h
  | .trigOutPulseEnd .., s, h => execTrigOutPulseEnd_wf _ _ _ s h
  | .osc40kEdge, s, h => execOsc40kEdge_wf s h
  | .guestLegTrainingDone .., s, h => execGuestLegTrainingDone_wf _ _ s h
  | .downstreamPortDown, s, h => execDownstreamPortDown_wf s h

theorem step_wf (s : State) (h : s.dev.memPart.wf = true) : OutWf (step s) := by
  unfold step
  split
  · exact next_wf _ (State.tick_wf s h)
  · exact exec_wf _ { s with pending := _ } h

/-! ## The classes of the sampled events -/

@[simp] theorem State.classesWf_onDev (s : State) (f : Dev → Dev) : (s.onDev f).classesWf = s.classesWf := rfl

/-- Where both branches keep the classes, the choice does. -/
theorem State.classesWf_ite {a b : State} {x : Bool} (c : Prop) [Decidable c] (ha : a.classesWf = x)
    (hb : b.classesWf = x) : (if c then a else b).classesWf = x := by
  split
  · exact ha
  · exact hb

/-- A sampled event of a class P1 to P7 may be kept. -/
theorem State.classesWf_onDevAs (s : State) {n : Nat} (p : Nat × Nat) (f : Dev → Dev) (h : 1 ≤ n ∧ n ≤ 7) :
    (s.onDevAs (n, p) f).classesWf = s.classesWf := by
  simp [State.classesWf, State.onDevAs, h.1, h.2]

theorem writeClass_legal (m : Master) : 1 ≤ writeClass m ∧ writeClass m ≤ 7 := by
  unfold writeClass; split <;> decide

theorem cmdClass_legal (op : Nat) : 1 ≤ cmdClass op ∧ cmdClass op ≤ 7 := by
  unfold cmdClass; split <;> decide

@[simp] theorem State.classesWf_stepDisarm (s : State) (n p : Nat) : (s.stepDisarm n p).classesWf = s.classesWf :=
  s.classesWf_onDevAs _ _ (by decide)

@[simp] theorem State.classesWf_enterLoad (s : State) : s.enterLoad.classesWf = s.classesWf :=
  s.classesWf_onDevAs _ _ (by decide)

@[simp] theorem State.classesWf_strSite (s : State) (op site : Nat) : (s.strSite op site).classesWf = s.classesWf := rfl

@[simp] theorem State.classesWf_siteCmd (s : State) (op site : Nat) : (s.siteCmd op site).classesWf = s.classesWf :=
  s.classesWf_onDevAs _ _ (cmdClass_legal op)

@[simp] theorem State.classesWf_schedWrite (s : State) (t e w : Nat) :
    (s.schedWrite t e w).classesWf = s.classesWf := by
  have armed (s : State) (f : Dev → Dev) : (s.onDevAs (6, 1, e) f).classesWf = s.classesWf :=
    s.classesWf_onDevAs _ _ (by decide)
  have disarmed (s : State) (f : Dev → Dev) : (s.onDevAs (6, 2, e) f).classesWf = s.classesWf :=
    s.classesWf_onDevAs _ _ (by decide)
  simp only [State.schedWrite, apply_ite State.classesWf, State.classesWf_onDev, armed, disarmed, ite_self]

@[simp] theorem State.classesWf_siteCmdBy (s : State) (m : Master) (w : Nat) :
    (s.siteCmdBy m w).classesWf = s.classesWf := by
  simp only [State.siteCmdBy, apply_ite State.classesWf, State.classesWf_siteCmd, State.classesWf_onDev, ite_self]

@[simp] theorem State.classesWf_regWrite (s : State) (m : Master) (a w : Nat) :
    (s.regWrite m a w).classesWf = s.classesWf := by
  have plain (f : Dev → Dev) : (s.onDevAs (writeClass m, 0, 0) f).classesWf = s.classesWf :=
    s.classesWf_onDevAs _ _ (writeClass_legal m)
  simp only [State.regWrite, apply_ite State.classesWf, State.classesWf_enterLoad, State.classesWf_siteCmdBy,
    State.classesWf_schedWrite, State.classesWf_stepDisarm, plain, ite_self]

@[simp] theorem State.classesWf_busWrite (s : State) (m : Master) (a w : Nat) :
    (s.busWrite m a w).classesWf = s.classesWf := by
  unfold State.busWrite
  split
  · exact State.classesWf_regWrite { s with dev := _ } m a w
  · rfl

@[simp] theorem State.classesWf_busRead (s : State) (m : Master) (a : Nat) : (s.busRead m a).classesWf = s.classesWf := by
  unfold State.busRead
  split <;> rfl

@[simp] theorem State.classesWf_guestAccess (s : State) (write : Bool) (a n : Nat) (data : List Byte) :
    (s.guestAccess write a n data).classesWf = s.classesWf := by
  have written (d : Dev) : ({ s with dev := d }.regWrite .guest a (leNum data)).classesWf = s.classesWf :=
    State.classesWf_regWrite _ _ _ _
  have moved (d : Dev) (v : Option Nat) : ({ s with dev := d, answer := v } : State).classesWf = s.classesWf := rfl
  simp only [State.guestAccess, apply_ite State.classesWf, written, moved, State.classesWf_onDev, ite_self]

@[simp] theorem State.classesWf_ctlWrite (s : State) (x a n v : Nat) : (s.ctlWrite x a n v).classesWf = s.classesWf := by
  unfold State.ctlWrite
  split
  · exact State.classesWf_regWrite s _ a v
  · rfl

@[simp] theorem State.classesWf_dbgWrite (s : State) (a w : Nat) : (s.dbgWrite a w).classesWf = s.classesWf := by
  unfold State.dbgWrite
  split
  · split
    · exact State.classesWf_regWrite { s with dev := _ } .dbg a w
    · rfl
  · rfl
  · rfl

/-- The String command of every site of a list keeps no event of its own. -/
theorem State.classesWf_foldl_strSite (l : List Nat) (s : State) (op : Nat) :
    (l.foldl (fun s i => s.strSite op i) s).classesWf = s.classesWf := by
  induction l generalizing s with
  | nil => rfl
  | cons i l ih => exact (ih (s.strSite op i)).trans (s.classesWf_strSite op i)

/-- The outcome is a next state whose sampled events have a class of R116 when those of `s` do. -/
def ClassesFrom (s : State) (o : Out) : Prop := ∀ t, o = .next t → s.classesWf = true → t.classesWf = true

theorem classesFrom_next {s t : State} (h : t.classesWf = s.classesWf) : ClassesFrom s (.next t) := by
  intro u hu hs; cases hu; exact h.trans hs

theorem ClassesFrom.ite {s : State} {a b : Out} (c : Prop) [Decidable c] (ha : ClassesFrom s a) (hb : ClassesFrom s b) :
    ClassesFrom s (if c then a else b) := by
  split
  · exact ha
  · exact hb

theorem State.does_classes (s : State) (f : Dev → Dev) : ClassesFrom s (s.does f) := classesFrom_next rfl

theorem State.doesAs_classes (s : State) {n : Nat} (p : Nat × Nat) (f : Dev → Dev) (h : 1 ≤ n ∧ n ≤ 7) :
    ClassesFrom s (s.doesAs (n, p) f) := classesFrom_next (s.classesWf_onDevAs p f h)

/-- A reset of the whole device forgets the events of its tick. -/
theorem State.resets_classes (s : State) (f : Dev → Dev) : ClassesFrom s (.next (s.resets f)) := by
  intro t ht _; cases ht; rfl

theorem State.writes_classes (s : State) (m : Master) (a w : Nat) : ClassesFrom s (s.writes m a w) :=
  classesFrom_next (s.classesWf_busWrite m a w)

theorem State.trigger_classes (s : State) (m : Master) (a bits : Nat) : ClassesFrom s (s.trigger m a bits) :=
  classesFrom_next (s.classesWf_busWrite m a _)

theorem State.reads_classes (s : State) (m : Master) (a : Nat) : ClassesFrom s (s.reads m a) :=
  classesFrom_next (s.classesWf_busRead m a)

theorem State.flashFunc_classes (s : State) (by' : FlashBy) (func : Nat) (queue : Bool) (srcErr : Option Nat) :
    ClassesFrom s (s.flashFunc by' func queue srcErr) := by
  cases by' with
  | reg m =>
    simp only [State.flashFunc]
    split
    · exact classesFrom_next (State.classesWf_onDevAs { s with dev := _ } _ _ (writeClass_legal m))
    · exact classesFrom_next rfl
  | fabric arg line =>
    exact State.does_classes s _

/-! ## The commands with a meaning of their own form -/

theorem execDevRstNLow_classes (s : State) : ClassesFrom s (execDevRstNLow s) := by
  unfold execDevRstNLow
  split
  · exact classesFrom_next rfl
  · exact State.resets_classes s _

theorem execHostResetTakesEffect_classes (s : State) : ClassesFrom s (execHostResetTakesEffect s) := by
  unfold execHostResetTakesEffect
  split
  · exact State.resets_classes s _
  · exact classesFrom_next rfl

theorem execStat_classes (s : State) : ClassesFrom s (execStat s) := by
  unfold execStat
  split <;> exact classesFrom_next rfl

theorem execRegr_classes (addr : BitVec 24) (s : State) : ClassesFrom s (execRegr addr s) := by
  have read := s.classesWf_busRead .cfgp addr.toNat
  unfold execRegr
  dsimp only
  split
  · exact classesFrom_next read
  · exact classesFrom_next read

theorem execWmHitClear_classes (m : Master) (addr : BitVec 24) (s : State) :
    ClassesFrom s (execWmHitClear m addr s) := by
  unfold execWmHitClear
  split
  · exact State.trigger_classes s m _ _
  · exact classesFrom_next rfl

theorem execSiteStartHit_classes (e : Fin 256) (s : State) : ClassesFrom s (execSiteStartHit e s) :=
  .ite _ (State.does_classes s _) (State.doesAs_classes s _ _ (by decide))

theorem execDbgstat_classes (s : State) : ClassesFrom s (execDbgstat s) :=
  .ite _ (classesFrom_next rfl) (State.does_classes s _)

theorem execDbgacc_classes (op : BitVec 2) (addr : BitVec 48) (data : Word) (s : State) :
    ClassesFrom s (execDbgacc op addr data s) := by
  refine .ite _ (State.does_classes s _) (classesFrom_next ?_)
  split
  · rfl
  · exact State.classesWf_dbgWrite { s with dev := _, answer := _ } _ _
  · rfl

theorem execStoreComplete_classes (x : CtlId) (k : Nat) (s : State) : ClassesFrom s (execStoreComplete x k s) := by
  refine classesFrom_next ?_
  split
  · rfl
  · dsimp only
    split
    · rfl
    · split
      · exact State.classesWf_ctlWrite { s with dev := _ } _ _ _ _
      · rfl

theorem execHostMemoryRead_classes (m : Master) (addr : BitVec 48) (len : BitVec 16) (ue : Bool) (s : State) :
    ClassesFrom s (execHostMemoryRead m addr len ue s) := by
  refine classesFrom_next ?_
  split
  · split
    · exact State.classesWf_busRead s m _
    · rfl
  · rfl

theorem execHostMemoryWrite_classes (m : Master) (addr : BitVec 48) (bytes : List Byte) (s : State) :
    ClassesFrom s (execHostMemoryWrite m addr bytes s) := by
  refine classesFrom_next ?_
  split
  · split
    · exact State.classesWf_busWrite s m _ _
    · rfl
  · rfl
  · rfl

theorem execGuestRequest_classes (write : Bool) (addr : BitVec 48) (len : BitVec 16) (data : List Byte) (s : State) :
    ClassesFrom s (execGuestRequest write addr len data s) := by
  have refused (t : State) (v : Nat) : (if write then t else { t with answer := some v }).classesWf = t.classesWf :=
    State.classesWf_ite _ rfl rfl
  refine classesFrom_next (State.classesWf_ite _ rfl (State.classesWf_ite _ (refused s _) ?_))
  split
  · exact refused { s with dev := _ } _
  · exact State.classesWf_ite _ (State.classesWf_guestAccess s write _ _ data) (refused (s.onDev _) _)

theorem execDescriptorComplete_classes (c : Fin 16) (w : Option DmaDesc) (data : List Byte) (err : Fin 3) (s : State) :
    ClassesFrom s (execDescriptorComplete c w data err s) := by
  refine .ite _ (classesFrom_next rfl) ?_
  cases w with
  | none => exact classesFrom_next rfl
  | some w =>
    exact .ite _ (classesFrom_next rfl) (.ite _ (classesFrom_next rfl)
      (.ite _ (classesFrom_next rfl) (classesFrom_next rfl)))

theorem execStringCommandExec_classes (s : State) : ClassesFrom s (execStringCommandExec s) := by
  unfold execStringCommandExec
  dsimp only
  split
  · exact State.does_classes s _
  · split
    · exact State.does_classes s _
    · refine classesFrom_next ((State.classesWf_onDevAs _ _ _ (by decide)).trans ?_)
      simp only [apply_ite State.classesWf, State.classesWf_foldl_strSite, State.classesWf_onDev, ite_self]

/-! ## Every command and the end of a tick -/

/-- The commands by the form of their meaning. -/
theorem exec_classes (c : Instr) (s : State) : ClassesFrom s (exec c s) := by
  cases c with
  -- a sampled event of R116
  | overTemperatureTrip | supplyTrip | sentryLogicTrip | peSafeRequest | safeRelChange | evtTrigger | trigFTrigger |
    refLost | siteStopHit | eventHit | pdStartHit | trigOutHit | pwrStateHit | matchLoopOutcome | segOverrun |
    viqUnderrun | segmentAdmissionEnd | pllStep | generalBwBreach | breachWaitEnd | linkLoss | scrubColumnDone |
    pllLossOfLock | powerUpdate | timeFrame | holdoverDeadline | patternMatch | debugRequest | rgpPassEnd =>
    exact State.doesAs_classes s _ _ (by decide)
  -- a register access
  | enterLoad | drst | cdRst | bdRst | coreRst | sntGroupForceWrite | sntPolicyWrite | mboxToWrite | swapRequest |
    swapCancel | go | arm | disarm | eviCntLoad | pllStepArm | pllStepDisarm | rsuClr | cmpMaskWrite | rdPtrWrite |
    counterLoWrite | solve | cancel | clear | rpsNop | rpsBadOp | siteNop | admitSite | start | stop | park | abort |
    resume | restart | release | siteBadOp | ptuInvalidate | ptuRootWrite | isolate | violClear | regw |
    interfaceRelease | keybProgram | zeroize | prAbort | tripClear | capWrite | roleWrite | stringNop | stringStop |
    stringPark | stringBadOp | irqMapEnable | dmaTailWrite | dmaResume | gpiOutWrite | gpiOeWrite | pmConfigWrite |
    txdataWrite | halt | debugResume | step | dbgNop | stateAccess | bistGo | bistCancel | injArm | injDisarm |
    evlRdWrite | registerWrite | rgpCommit | lifecycleRequest =>
    exact State.writes_classes s _ _ _
  | startRequest | acquire | pdCfgStart | pdCfgStop | sweep | hubRecover | cdRecover | recover | hostAbort | relock |
    dmaAbort | icacheInv | rgpOpen =>
    exact State.trigger_classes s _ _ _
  | mboxFromRead | timTtiLoRead | timTickRead | timSecLoRead | timSecHiRead | snapshotLoRead | rxdataRead =>
    exact State.reads_classes s _ _
  -- a flash function
  | erase | program | verify | blankCheck | crc | storeWrite | storeSelect | flashBadFunc =>
    exact State.flashFunc_classes s _ _ _ _
  -- forms of their own
  | por => exact State.resets_classes s _
  | devRstNLow => exact execDevRstNLow_classes s
  | hostResetTakesEffect => exact execHostResetTakesEffect_classes s
  | cfgpUnknown | idcode | ifFlashRead | flashBarRead => exact classesFrom_next rfl
  | stat => exact execStat_classes s
  | storeComplete x k => exact execStoreComplete_classes x k s
  | siteStartHit e => exact execSiteStartHit_classes e s
  | hostMemoryRead m addr len ue => exact execHostMemoryRead_classes m addr len ue s
  | hostMemoryWrite m addr bytes => exact execHostMemoryWrite_classes m addr bytes s
  | guestRequest write addr len data => exact execGuestRequest_classes write addr len data s
  | regr addr => exact execRegr_classes addr s
  | stringCommandExec => exact execStringCommandExec_classes s
  | descriptorComplete c w data err => exact execDescriptorComplete_classes c w data err s
  | wmHitClear m addr => exact execWmHitClear_classes m addr s
  | dbgacc op addr data => exact execDbgacc_classes op addr data s
  | dbgstat => exact execDbgstat_classes s
  -- every other command is an effect on the device
  | _ => exact State.does_classes s _

/-- The injections of a tick have a class of R116. -/
theorem tickDetectors_legal : ∀ p ∈ tickDetectors, 1 ≤ p.2.1 ∧ p.2.1 ≤ 7 := by decide

theorem State.injectOne_classes (s : State) (p : Nat × Evt) (hp : 1 ≤ p.2.1 ∧ p.2.1 ≤ 7) :
    (s.injectOne p).classesWf = s.classesWf := by
  unfold State.injectOne
  split
  · rfl
  · exact State.classesWf_onDevAs s p.2.2 _ hp

theorem State.injectTick_classes (s : State) : s.injectTick.classesWf = s.classesWf := by
  have fold (l : List (Nat × Evt)) (hl : ∀ p ∈ l, 1 ≤ p.2.1 ∧ p.2.1 ≤ 7) (s : State) :
      (l.foldl State.injectOne s).classesWf = s.classesWf := by
    induction l generalizing s with
    | nil => rfl
    | cons p l ih =>
      obtain ⟨hp, hl⟩ := List.forall_mem_cons.mp hl
      exact (ih hl (s.injectOne p)).trans (s.injectOne_classes p hp)
  exact fold tickDetectors tickDetectors_legal s

/-- A tick begins with no event but the injections that fire as its first. -/
theorem State.tick_classes (s : State) : s.tick.classesWf = true := by
  unfold State.tick
  rw [State.injectTick_classes]
  rfl

theorem step_classes (s : State) : ClassesFrom s (step s) := by
  unfold step
  split
  · exact fun t ht _ => Host.Outcome.next.inj ht ▸ s.tick_classes
  · exact exec_classes _ { s with pending := _ }

/-- Settles O58: each half is kept by every command, and by the end of a tick. -/
theorem stepKeepsMemoryAndEventClasses : Obligations.StepKeepsMemoryAndEventClasses :=
  fun s t ht => ⟨fun h => step_wf s h t ht, step_classes s t ht⟩

end Sys2Proof.Machine
end

section
/-! SUPPORT. The control part of the device: what the staged start, the mode and the safety trips rest on, and that the
work of the units (links, leases, fabric, self-test, capture, cores) leaves it alone (R42, R52, R58). -/

namespace Sys2Proof.Machine

/-! ## The control part -/

/-- A register field of blocks DEV, SNT and FLC, of PWR_STATUS or of PWR_TRIP_CAUSE, other than the bits of
DEV_START_STATUS that show the links and the loader, and the stop data of a site entry. -/
def CtrlKey (k : Nat) : Prop :=
  (k < 1572864 ∨ 3145728 ≤ k ∧ k < 3145760 ∨ 3146112 ≤ k ∧ k < 3146144) ∧ k ≠ 560 ∧ k ≠ 564 ∧ k ≠ 568 ∧
    (k % 512 < 228 ∨ 352 < k % 512)

/-- The control part: the control registers' fields, the start-up's state, Sentry's and the fuses. -/
structure Ctrl where
  regs : Nat → Option Nat
  start : Start
  snt : Snt
  fuses : Fuses

open Classical in
/-- The control registers' fields of a table. -/
noncomputable def ctrlRegs (r : Tbl Nat) : Nat → Option Nat := fun k => if CtrlKey k then tblFind r k else none

/-- The control part of the device. -/
noncomputable def Dev.ctrl (d : Dev) : Ctrl := ⟨ctrlRegs d.regs, d.start, d.snt, d.fuses⟩

theorem ctrl_mk x0 x1 x2 x3 x4 x5 x6 x7 x8 x9 x10 x11 x12 x13 x14 x15 x16 x17 x18 x19 x20 x21 x22 x23 x24 x25 x26 x27 x28
    x29 x30 x31 x32 x33 x34 x35 :
    Dev.ctrl (Dev.mk x0 x1 x2 x3 x4 x5 x6 x7 x8 x9 x10 x11 x12 x13 x14 x15 x16 x17 x18 x19 x20 x21 x22 x23 x24 x25 x26 x27
      x28 x29 x30 x31 x32 x33 x34 x35) = ⟨ctrlRegs x0, x9, x10, x8⟩ := rfl

theorem ctrl_fold (d : Dev) : (⟨ctrlRegs d.regs, d.start, d.snt, d.fuses⟩ : Ctrl) = d.ctrl := rfl

section
variable {d d' : Dev}

theorem Dev.get_of_ctrl (h : d'.ctrl = d.ctrl) {f : Fld} (hf : CtrlKey f.key) : d'.get f = d.get f := by
  have hk := congrFun (congrArg Ctrl.regs h) f.key
  simp only [Dev.ctrl, ctrlRegs, hf, if_true] at hk
  simp [Dev.get, tblGet, hk]

theorem Dev.start_of_ctrl (h : d'.ctrl = d.ctrl) : d'.start = d.start := congrArg Ctrl.start h

theorem Dev.snt_of_ctrl (h : d'.ctrl = d.ctrl) : d'.snt = d.snt := congrArg Ctrl.snt h

theorem Dev.fuses_of_ctrl (h : d'.ctrl = d.ctrl) : d'.fuses = d.fuses := congrArg Ctrl.fuses h

end

/-! ## Register fields and loops -/

theorem ctrlRegs_congr {r t : Tbl Nat} (h : ∀ k, CtrlKey k → tblFind t k = tblFind r k) : ctrlRegs t = ctrlRegs r := by
  funext k
  unfold ctrlRegs
  split
  · exact h k ‹_›
  · rfl

theorem Dev.set_ctrl (d : Dev) {f : Fld} (v : Nat) (h : ¬ CtrlKey f.key) : (d.set f v).ctrl = d.ctrl := by
  have hr : ctrlRegs (d.set f v).regs = ctrlRegs d.regs :=
    ctrlRegs_congr fun k hk => tblFind_put_ne _ _ fun e => h (e ▸ hk)
  exact congrArg (fun r => (⟨r, d.start, d.snt, d.fuses⟩ : Ctrl)) hr

theorem Dev.put_ctrl (d : Dev) {f : Fld} (b : Bool) (h : ¬ CtrlKey f.key) : (d.put f b).ctrl = d.ctrl := d.set_ctrl _ h

theorem Dev.putBit_ctrl (d : Dev) {f : Fld} (n : Nat) (b : Bool) (h : ¬ CtrlKey f.key) : (d.putBit f n b).ctrl = d.ctrl :=
  d.set_ctrl _ h

theorem Dev.bump_ctrl (d : Dev) {f : Fld} (n : Nat) (h : ¬ CtrlKey f.key) : (d.bump f n).ctrl = d.ctrl := d.set_ctrl _ h

theorem Dev.set2_ctrl (d : Dev) {lo hi : Fld} (v : Nat) (hl : ¬ CtrlKey lo.key) (hh : ¬ CtrlKey hi.key) :
    (d.set2 lo hi v).ctrl = d.ctrl := (Dev.set_ctrl _ _ hh).trans (d.set_ctrl _ hl)

/-- Fields that are no control registers may be erased. -/
theorem Dev.eraseRegs_ctrl (d : Dev) (p : Nat → Bool) (h : ∀ k, CtrlKey k → p k = false) :
    (d.eraseRegs p).ctrl = d.ctrl := by
  have hr : ctrlRegs (d.eraseRegs p).regs = ctrlRegs d.regs := ctrlRegs_congr fun k hk => by
    simp only [Dev.eraseRegs]
    rw [tblFind_keep d.regs (fun k => !p k) k]
    simp [h k hk]
  exact congrArg (fun r => (⟨r, d.start, d.snt, d.fuses⟩ : Ctrl)) hr

/-- What every pass over a member of the list keeps, the loop keeps. -/
theorem Dev.each_keeps_mem {α β : Type} (p : Dev → β) (d : Dev) (l : List α) (f : Dev → α → Dev)
    (h : ∀ d, ∀ a ∈ l, p (f d a) = p d) : p (d.each l f) = p d := by
  unfold Dev.each
  induction l generalizing d with
  | nil => rfl
  | cons a l ih => exact (ih _ fun d b hb => h d b (List.mem_cons_of_mem a hb)).trans (h d a (by simp))

theorem Dev.setCore_ctrl (d : Dev) (x : Nat) (c : Core) : (d.setCore x c).ctrl = d.ctrl := rfl
theorem Dev.modCore_ctrl (d : Dev) (x : Nat) (g : Core → Core) : (d.modCore x g).ctrl = d.ctrl := rfl
theorem Dev.modV_ctrl (d : Dev) (x : Nat) (g : VCore → VCore) : (d.modV x g).ctrl = d.ctrl := rfl
theorem Dev.modSite_ctrl (d : Dev) (x : Nat) (g : SiteRt → SiteRt) : (d.modSite x g).ctrl = d.ctrl := rfl
theorem Dev.modLink_ctrl (d : Dev) (x : Nat) (g : LinkRt → LinkRt) : (d.modLink x g).ctrl = d.ctrl := rfl
theorem Dev.modLdr_ctrl (d : Dev) (g : Ldr → Ldr) : (d.modLdr g).ctrl = d.ctrl := rfl
theorem Dev.send_ctrl (d : Dev) (x i n : Nat) : (d.send x i n).ctrl = d.ctrl := rfl
theorem Dev.freshDirs_ctrl (d : Dev) (l : Nat) : (d.freshDirs l).ctrl = d.ctrl := rfl
theorem Dev.unpinAll_ctrl (d : Dev) (q : Nat) : (d.unpinAll q).ctrl = d.ctrl := rfl
theorem Dev.stopPipes_ctrl (d : Dev) (q : Nat) : (d.stopPipes q).ctrl = d.ctrl := rfl
theorem Dev.dropCfgi_ctrl (d : Dev) (n : Nat) : (d.dropCfgi n).ctrl = d.ctrl := rfl
theorem Dev.setBorder_ctrl (d : Dev) (n r : Nat) (b : Bool) : (d.setBorder n r b).ctrl = d.ctrl := rfl
theorem Dev.logA_ctrl (d : Dev) (ty unit data : Nat) (site : Option Nat) : (d.logA ty unit data site).ctrl = d.ctrl := rfl

/-! ## The event log, interrupts and injections (R501, R545, R553, R561) -/

theorem Dev.count48_ctrl (d : Dev) {lo hi ovf : Fld} (n : Nat) (hl : ¬ CtrlKey lo.key) (hh : ¬ CtrlKey hi.key)
    (ho : ¬ CtrlKey ovf.key) : (d.count48 lo hi ovf n).ctrl = d.ctrl := by
  simp only [Dev.count48, apply_ite Dev.ctrl, Dev.put_ctrl _ _ ho, Dev.set2_ctrl _ _ hl hh, ite_self]

theorem Dev.lose_ctrl (d : Dev) (cls t : Nat) : (d.lose cls t).ctrl = d.ctrl := by
  simp (disch := (simp only [CtrlKey, K.EVL_B_LOST_LO_COUNT_LO, K.EVL_B_LOST_HI_COUNT_HI, K.EVL_B_LOST_HI_OVF,
    K.EVL_C_LOST_LO_COUNT_LO, K.EVL_C_LOST_HI_COUNT_HI, K.EVL_C_LOST_HI_OVF]; omega)) only
    [Dev.lose, apply_ite Dev.ctrl, ctrl_mk, ctrl_fold, Dev.count48_ctrl, ite_self]

theorem Dev.post_ctrl (d : Dev) (r : Rec) : (d.post r).ctrl = d.ctrl := by
  simp only [Dev.post, apply_ite Dev.ctrl, ctrl_mk, ctrl_fold, Dev.lose_ctrl, ite_self]

theorem Dev.logB_ctrl (d : Dev) (ty unit data : Nat) (site : Option Nat) : (d.logB ty unit data site).ctrl = d.ctrl :=
  d.post_ctrl _

theorem Dev.logAOn_ctrl (d : Dev) (die ty unit data : Nat) (site : Option Nat) :
    (d.logAOn die ty unit data site).ctrl = d.ctrl := d.post_ctrl _

theorem Dev.logBOn_ctrl (d : Dev) (die ty unit data : Nat) (site : Option Nat) :
    (d.logBOn die ty unit data site).ctrl = d.ctrl := d.post_ctrl _

theorem Dev.message_ctrl (d : Dev) (v : Nat) : (d.message v).ctrl = d.ctrl := by
  simp only [Dev.message, apply_ite Dev.ctrl, ctrl_mk, ctrl_fold, ite_self]

theorem Dev.irq_ctrl (d : Dev) (src : Nat) : (d.irq src).ctrl = d.ctrl := by
  simp (disch := (simp only [CtrlKey, K.HST_IRQ_PEND]; omega)) only
    [Dev.irq, apply_ite Dev.ctrl, Dev.message_ctrl, Dev.putBit_ctrl, ite_self]

theorem Dev.injFired_ctrl (d : Dev) (i : Nat) : (d.injFired i).ctrl = d.ctrl := by
  simp (disch := (simp only [CtrlKey, K.INJ_SLOT_CTRL_FIRED, K.INJ_SLOT_CTRL_STATE]; omega)) only
    [Dev.injFired, apply_ite Dev.ctrl, Dev.bump_ctrl, Dev.set_ctrl, ite_self]

theorem Dev.inject_ctrl {d d' : Dev} {id a : Nat} {p : Nat → Nat → Bool} (h : d.inject id p = some (a, d')) :
    d'.ctrl = d.ctrl := by
  unfold Dev.inject at h
  obtain ⟨i, -, hi⟩ := Option.map_eq_some_iff.mp h
  exact (Prod.mk.inj hi).2 ▸ d.injFired_ctrl i

theorem Dev.asInjected_ctrl (d : Dev) (g : Dev → Dev) (h : ∀ d, (g d).ctrl = d.ctrl) : (d.asInjected g).ctrl = d.ctrl :=
  h { d with injNow := true }

theorem Dev.injDisarm_ctrl (d : Dev) (p : Nat → Nat → Bool) : (d.injDisarm p).ctrl = d.ctrl :=
  Dev.each_keeps Dev.ctrl d _ _ fun d i => by
    simp (disch := (simp only [CtrlKey, K.INJ_SLOT_CTRL_STATE]; omega)) only [apply_ite Dev.ctrl, Dev.set_ctrl, ite_self]

theorem Dev.injDieReset_ctrl (d : Dev) (die : Nat) : (d.injDieReset die).ctrl = d.ctrl := d.injDisarm_ctrl _

/-! ## Sites, cores and channels that stop (R78, R144, R308, R315) -/

theorem Dev.schedMark_ctrl (d : Dev) (t e st res : Nat) : (d.schedMark t e st res).ctrl = d.ctrl := by
  simp (disch := (simp only [CtrlKey, K.SCHED_STATE, K.SCHED_RESULT]; omega)) only [Dev.schedMark, Dev.set_ctrl]

theorem Dev.schedEnd_ctrl (d : Dev) (t e st res : Nat) : (d.schedEnd t e st res).ctrl = d.ctrl := by
  have copies (d' : Dev) (l : List (Nat × Nat)) : (d'.each l fun d p => d.schedMark p.1 p.2 st res).ctrl = d'.ctrl :=
    Dev.each_keeps Dev.ctrl d' l _ fun d p => d.schedMark_ctrl _ _ _ _
  simp only [Dev.schedEnd, apply_ite Dev.ctrl, ctrl_mk, ctrl_fold, copies, Dev.schedMark_ctrl, ite_self]

theorem Dev.cancelStarts_ctrl (d : Dev) (s : Nat) : (d.cancelStarts s).ctrl = d.ctrl :=
  Dev.each_keeps Dev.ctrl d _ _ fun d _ => d.schedEnd_ctrl _ _ _ _

theorem Dev.park_ctrl (d : Dev) (c : Nat) : (d.park c).ctrl = d.ctrl := by
  simp (disch := (simp only [CtrlKey, K.PED_PARKED]; omega)) only
    [Dev.park, apply_ite Dev.ctrl, ctrl_mk, ctrl_fold, Dev.putBit_ctrl, ite_self]

theorem Dev.parkSite_ctrl (d : Dev) (s : Nat) : (d.parkSite s).ctrl = d.ctrl :=
  Dev.each_keeps Dev.ctrl d _ _ Dev.park_ctrl

theorem Dev.parkAll_ctrl (d : Dev) : d.parkAll.ctrl = d.ctrl := Dev.each_keeps Dev.ctrl d _ _ Dev.park_ctrl

theorem Dev.setCoreState_ctrl (d : Dev) (q st : Nat) : (d.setCoreState q st).ctrl = d.ctrl := by
  simp (disch := (simp only [CtrlKey, K.SEQ_STATUS_STATE]; omega)) only [Dev.setCoreState, Dev.set_ctrl]

theorem Dev.coresParked_ctrl (d : Dev) (s : Nat) : (d.coresParked s).ctrl = d.ctrl :=
  Dev.each_keeps Dev.ctrl d _ _ fun d q => by
    simp only [Dev.coreParked, Dev.setCoreState_ctrl, Dev.modV_ctrl, Dev.stopPipes_ctrl]

theorem Dev.multiOn_ctrl (d : Dev) (s cause code q : Nat) : (d.multiOn s cause code q).ctrl = d.ctrl := by
  simp (disch := (simp only [CtrlKey, K.SEQ_FAULT_MULTI]; omega)) only [Dev.multiOn, Dev.logBOn_ctrl, Dev.put_ctrl]

theorem Dev.stopMulti_ctrl (d : Dev) (s cause : Nat) : (d.stopMulti s cause).ctrl = d.ctrl :=
  Dev.each_keeps Dev.ctrl d _ _ fun d q => d.multiOn_ctrl _ _ _ q

theorem Dev.stopNoted_ctrl (d : Dev) (s cause : Nat) : (d.stopNoted s cause).ctrl = d.ctrl := by
  simp (disch := (simp only [CtrlKey, K.SITE_CAUSE, K.SITE_STOP_TTI_LO, K.SITE_STOP_TTI_HI, K.SITE_STOPS]; omega)) only
    [Dev.stopNoted, apply_ite Dev.ctrl, Dev.logB_ctrl, Dev.bump_ctrl, Dev.set2_ctrl, Dev.set_ctrl, ite_self]

theorem Dev.stopReq_ctrl (d : Dev) (s cause : Nat) : (d.stopReq s cause).ctrl = d.ctrl := by
  simp only [Dev.stopReq, apply_ite Dev.ctrl, Dev.modSite_ctrl, Dev.cancelStarts_ctrl, Dev.stopNoted_ctrl,
    Dev.stopMulti_ctrl, ite_self]

/-! ## Fail capture at the end of a site's records (R262 to R267) -/

theorem Dev.route_ctrl (d : Dev) (qs : List Nat) (src sel : Nat) : (d.route qs src sel).ctrl = d.ctrl :=
  Dev.each_keeps Dev.ctrl d _ _ fun d q => Dev.each_keeps Dev.ctrl d _ _ fun d i => by
    simp only [apply_ite Dev.ctrl, Dev.send_ctrl, ite_self]

theorem Dev.failEvt_ctrl (d : Dev) (qs : List Nat) (sel : Nat) : (d.failEvt qs sel).ctrl = d.ctrl :=
  Dev.each_keeps Dev.ctrl d _ _ fun d q => by
    simp only [apply_ite Dev.ctrl, Dev.route_ctrl, ctrl_mk, ctrl_fold, ite_self]

theorem Dev.captureStop_ctrl (d : Dev) (s cause : Nat) : (d.captureStop s cause).ctrl = d.ctrl := by
  simp only [Dev.captureStop, apply_ite Dev.ctrl, Dev.stopReq_ctrl, Dev.modSite_ctrl, ite_self]

theorem Dev.loseRec_ctrl (d : Dev) (q : Nat) (r : FRec) : (d.loseRec q r).ctrl = d.ctrl := by
  simp (disch := (simp only [CtrlKey, K.SFT_LOST, K.SFT_LOST_F, K.FLG_LOST_LO_COUNT_LO, K.FLG_LOST_HI_COUNT_HI,
    K.FLG_LOST_HI_OVF, K.FLG_STATUS_LOST_ANY]; omega)) only
    [Dev.loseRec, apply_ite Dev.ctrl, Dev.captureStop_ctrl, Dev.failEvt_ctrl, Dev.put_ctrl, Dev.count48_ctrl,
      Dev.bump_ctrl, Dev.modCore_ctrl, ite_self]

theorem Dev.fifoStuffed_ctrl (d : Dev) (q : Nat) : (d.fifoStuffed q).1.ctrl = d.ctrl := by
  unfold Dev.fifoStuffed
  dsimp only
  split
  · rfl
  · split
    next h => exact (Dev.modCore_ctrl _ _ _).trans (Dev.inject_ctrl h)
    next => rfl

theorem Dev.fifoPut_ctrl (d : Dev) (q : Nat) (r : FRec) : (d.fifoPut q r).ctrl = d.ctrl := by
  have lost (d' : Dev) : (d'.asInjected fun d => d.loseRec q r).ctrl = d'.ctrl :=
    d'.asInjected_ctrl _ fun d => d.loseRec_ctrl q r
  simp only [Dev.fifoPut, apply_ite Dev.ctrl, apply_ite Prod.fst, lost, Dev.modCore_ctrl, Dev.loseRec_ctrl,
    Dev.fifoStuffed_ctrl, ite_self]

theorem Dev.flushHalf_ctrl (d : Dev) (q h : Nat) : (d.flushHalf q h).ctrl = d.ctrl := by
  unfold Dev.flushHalf
  split
  · rfl
  · exact Dev.fifoPut_ctrl _ _ _

theorem Dev.endRec_ctrl (d : Dev) (q s last : Nat) (abort : Bool) : (d.endRec q s last abort).ctrl = d.ctrl := by
  simp only [Dev.endRec, Dev.flushFails, apply_ite Dev.ctrl, Dev.modCore_ctrl, Dev.fifoPut_ctrl, Dev.flushHalf_ctrl,
    ite_self]

theorem Dev.endRecs_ctrl (d : Dev) (s : Nat) (abort : Bool) : (d.endRecs s abort).ctrl = d.ctrl :=
  Dev.each_keeps Dev.ctrl d _ _ fun d _ => d.endRec_ctrl _ _ _ _

/-! ## Leases and links (R361, R370, R531 to R536) -/

theorem Dev.setLeaseQueue_ctrl (d : Dev) (u c : Nat) (l : List (Nat × Nat)) : (d.setLeaseQueue u c l).ctrl = d.ctrl := by
  simp (disch := (simp only [CtrlKey, K.BST_LEASE_QUEUED]; omega)) only
    [Dev.setLeaseQueue, ctrl_mk, ctrl_fold, Dev.set_ctrl]

theorem Dev.leaseFree_ctrl (d : Dev) (u c : Nat) : (d.leaseFree u c).ctrl = d.ctrl := by
  unfold Dev.leaseFree
  split <;> simp (disch := (simp only [CtrlKey, K.BST_LEASE_HOLDER, K.BST_LEASE_ARG]; omega)) only
    [ctrl_mk, ctrl_fold, Dev.setLeaseQueue_ctrl, Dev.set_ctrl]

theorem Dev.leaseRelease_ctrl (d : Dev) (u c h : Nat) : (d.leaseRelease u c h).ctrl = d.ctrl := by
  simp only [Dev.leaseRelease, apply_ite Dev.ctrl, Dev.leaseFree_ctrl, ctrl_mk, ctrl_fold, ite_self]

theorem Dev.leaseDrop_ctrl (d : Dev) (u c h : Nat) : (d.leaseDrop u c h).ctrl = d.ctrl := by
  simp only [Dev.leaseDrop, Dev.leaseWithdraw, Dev.leaseRelease_ctrl, Dev.setLeaseQueue_ctrl]

theorem Dev.leaseSafe_ctrl (d : Dev) : d.leaseSafe.ctrl = d.ctrl :=
  Dev.each_keeps Dev.ctrl d _ _ fun d _ => d.setLeaseQueue_ctrl _ _ _

theorem Dev.leaseDieReset_ctrl (d : Dev) (die : Nat) : (d.leaseDieReset die).ctrl = d.ctrl :=
  Dev.each_keeps Dev.ctrl d _ _ fun d p => by
    simp (disch := (simp only [CtrlKey, K.BST_LEASE_HOLDER, K.BST_LEASE_ARG]; omega)) only
      [Dev.leaseClear, ctrl_mk, ctrl_fold, Dev.set_ctrl, Dev.setLeaseQueue_ctrl]

theorem Dev.showRecovery_ctrl (d : Dev) (l : Nat) (on : Bool) : (d.showRecovery l on).ctrl = d.ctrl := by
  simp (disch := (simp only [CtrlKey, K.NOP_STATUS_CD_RECOVERING, K.NOP_STATUS_HUB_RECOVERING,
    K.NOP_STATUS_HUB_ATTEMPTS]; omega)) only
    [Dev.showRecovery, apply_ite Dev.ctrl, Dev.put_ctrl, Dev.putBit_ctrl, Dev.set_ctrl, ite_self]

theorem Dev.linksSafe_ctrl (d : Dev) : d.linksSafe.ctrl = d.ctrl :=
  Dev.each_keeps Dev.ctrl d _ _ fun d l => by
    simp only [Dev.recoveryEnds, apply_ite Dev.ctrl, Dev.leaseDrop_ctrl, Dev.modLink_ctrl, Dev.showRecovery_ctrl, ite_self]

/-! ## Deskew, self-test and cores (R58, R246, R540) -/

theorem Dev.sweepEnds_ctrl (d : Dev) (n : Nat) : (d.sweepEnds n).ctrl = d.ctrl := by
  unfold Dev.sweepEnds
  split
  · rfl
  · simp (disch := (simp only [CtrlKey, K.TGN_STATUS_DSK_ACTIVE]; omega)) only
      [Dev.leaseDrop_ctrl, Dev.put_ctrl, ctrl_mk, ctrl_fold]

theorem Dev.sweepAbandon_ctrl (d : Dev) (n : Nat) : (d.sweepAbandon n).ctrl = d.ctrl := by
  simp (disch := (simp only [CtrlKey, K.TGN_DSK_STATUS_ABANDON]; omega)) only
    [Dev.sweepAbandon, apply_ite Dev.ctrl, Dev.sweepEnds_ctrl, Dev.bump_ctrl, ite_self]

/-- The DIE reset of a channel die or the base die erases no control register. -/
theorem Dev.eraseDie_ctrl (d : Dev) {n : Nat} (hn : n ≠ 5) : (d.eraseDie n).ctrl = d.ctrl := by
  refine d.eraseRegs_ctrl _ fun k hk => ?_
  have hub : regDie (k / 8) = 5 := by
    unfold CtrlKey at hk
    unfold regDie
    repeat rw [if_neg (by omega)]
  simp [hub, hn.symm]

theorem Dev.putHalted_ctrl (d : Dev) (x : Nat) (b : Bool) : (d.putHalted x b).ctrl = d.ctrl := by
  simp (disch := (simp only [CtrlKey, K.DBG_STATUS_HUB_HALTED, K.DBG_HALTED_LO, K.DBG_HALTED_HI]; omega)) only
    [Dev.putHalted, apply_ite Dev.ctrl, Dev.put_ctrl, Dev.putBit_ctrl, ite_self]

theorem Dev.coreReset_ctrl (d : Dev) (q : Nat) : (d.coreReset q).ctrl = d.ctrl := by
  have erased (d' : Dev) (p : Nat → Bool) : (d'.eraseRegs fun k =>
      decide (seqWin q ≤ k / 8) && decide (k / 8 < seqWin q + 0x1000) && p k).ctrl = d'.ctrl := by
    refine d'.eraseRegs_ctrl _ fun k hk => ?_
    have below : ¬ seqWin q ≤ k / 8 := by
      unfold CtrlKey at hk
      unfold seqWin
      omega
    simp [below]
  simp only [Dev.coreReset, ctrl_mk, ctrl_fold, Dev.putHalted_ctrl, Dev.setCore_ctrl]
  exact (erased _ _).trans (d.unpinAll_ctrl q)

theorem Dev.sliceOver_ctrl (d : Dev) (outcome : Nat) : (d.sliceOver outcome).ctrl = d.ctrl := by
  have freed (d' : Dev) (x : Slice) : (d'.sliceFree x).ctrl = d'.ctrl :=
    Dev.each_keeps Dev.ctrl d' _ _ fun d c => d.leaseDrop_ctrl _ _ _
  unfold Dev.sliceOver
  split
  · rfl
  · simp (disch := (simp only [CtrlKey, K.BST_SCHED_RES_OUTCOME, K.BST_STATUS_ACTIVE]; omega)) only
      [Dev.put_ctrl, Dev.set_ctrl, freed, ctrl_mk, ctrl_fold]

theorem Dev.bistDieReset_ctrl (d : Dev) (die : Nat) : (d.bistDieReset die).ctrl = d.ctrl := by
  unfold Dev.bistDieReset
  split
  · rfl
  · simp only [apply_ite Dev.ctrl, Dev.sliceOver_ctrl, ite_self]

/-! ## The fabric and the loader (R386, R401, R404, R415, R418) -/

theorem Dev.ifcUpdate_ctrl (d : Dev) (n : Nat) : (d.ifcUpdate n).ctrl = d.ctrl := by
  refine (Dev.each_keeps Dev.ctrl _ _ _ fun d m => ?_).trans (Dev.each_keeps Dev.ctrl _ _ _ fun d r => ?_)
  · simp (disch := (simp only [CtrlKey, K.FAB_DYN]; omega)) only [Dev.set_ctrl]
  · simp (disch := (simp only [CtrlKey, K.FAB_PR_REGION_COL_FIRST, K.FAB_PR_REGION_COL_LAST,
      K.FAB_PR_REGION_DEFINED]; omega)) only [Dev.set_ctrl, Dev.put_ctrl]

theorem Dev.completeUpdate_ctrl (d : Dev) {n : Nat} (hn : n < 4) : (d.completeUpdate n).ctrl = d.ctrl := by
  simp (disch := (simp only [CtrlKey, K.CFG_DIE_STATUS_COMPLETE, K.CFG_DIE_STATUS_FRAMES,
    K.CFG_STATUS_ALL_COMPLETE]; omega)) only [Dev.completeUpdate, Dev.set_ctrl, Dev.put_ctrl]

/-- A loop over the four channel dies. -/
theorem Dev.each_dies_ctrl (d : Dev) (f : Dev → Nat → Dev) (h : ∀ d n, n < 4 → (f d n).ctrl = d.ctrl) :
    (d.each (List.range 4) f).ctrl = d.ctrl :=
  Dev.each_keeps_mem Dev.ctrl d _ f fun d n hn => h d n (List.mem_range.mp hn)

theorem Dev.dropUpsets_ctrl (d : Dev) (a : Nat) : (d.dropUpsets a).ctrl = d.ctrl := by
  simp (disch := (simp only [CtrlKey, K.FAB_SCRUB_STATUS_BAD_COL]; omega)) only
    [Dev.dropUpsets, Dev.put_ctrl, ctrl_mk, ctrl_fold]

theorem Dev.framesBlank_ctrl (d : Dev) (l : List Nat) : (d.framesBlank l).ctrl = d.ctrl :=
  ((Dev.each_dies_ctrl _ _ fun d _ hn => d.completeUpdate_ctrl hn).trans
    (Dev.each_keeps Dev.ctrl _ _ _ Dev.ifcUpdate_ctrl)).trans (Dev.each_keeps Dev.ctrl _ _ _ Dev.dropUpsets_ctrl)

theorem Dev.settingsBack_ctrl (d : Dev) : d.settingsBack.ctrl = d.ctrl := by
  unfold Dev.settingsBack
  dsimp only
  split
  · rfl
  · refine Dev.each_dies_ctrl { d with fab := _ } _ fun d n hn => ?_
    simp (disch := (simp only [CtrlKey, K.CFG_DIE_STATUS_HOLD, K.CFG_DIE_STATUS_CFGI_EN, K.CFG_DIE_STATUS_SCRUB_EN,
      K.CFG_FAB_PWR]; omega)) only [Dev.set_ctrl]

/-- A stream that the mode ends is refused without a revert (R404). -/
theorem Dev.loaderSafe_ctrl (d : Dev) : d.loaderSafe.ctrl = d.ctrl := by
  have refused (detail blk : Nat) : (d.streamRefuse detail blk false).ctrl = d.ctrl := by
    simp only [Dev.streamRefuse, Bool.false_eq_true, if_false]
    refine (Dev.each_dies_ctrl _ _ fun d n hn => d.completeUpdate_ctrl hn).trans ?_
    simp (disch := (simp only [CtrlKey, K.DEV_START_STATUS_LAST_REJECT, K.CFG_REJECT_DETAIL, K.CFG_REJECT_CLASS,
      K.CFG_REJECT_BLOCK]; omega)) only [Dev.logB_ctrl, Dev.set_ctrl, Dev.modLdr_ctrl, Dev.settingsBack_ctrl]
  simp only [Dev.loaderSafe, apply_ite Dev.ctrl, refused, ite_self]

theorem Dev.rgpStale_ctrl (d : Dev) : d.rgpStale.ctrl = d.ctrl := by
  simp (disch := (simp only [CtrlKey, K.RGP_STATUS_COMMITTED, K.RGP_STATUS_STALE_REF]; omega)) only
    [Dev.rgpStale, Dev.put_ctrl]

theorem Dev.cfgiSafe_ctrl (d : Dev) : d.cfgiSafe.ctrl = d.ctrl := by
  refine Dev.each_keeps Dev.ctrl d _ _ fun d n => ?_
  split
  · simp (disch := (simp only [CtrlKey, K.FAB_PR_STATE_STATE, K.FAB_PR_STATE_ERR]; omega)) only
      [Dev.prErr, Dev.setBorder_ctrl, Dev.dropCfgi_ctrl, Dev.leaseDrop_ctrl, Dev.set_ctrl]
  · rfl

theorem Dev.scrubsStop_ctrl (d : Dev) : d.scrubsStop.ctrl = d.ctrl :=
  Dev.each_keeps Dev.ctrl d _ _ fun d n => by
    simp (disch := (simp only [CtrlKey, K.FAB_SCRUB_STATUS_ACTIVE]; omega)) only
      [Dev.scrubEnd, Bool.false_eq_true, if_false, apply_ite Dev.ctrl, Dev.put_ctrl, ctrl_mk, ctrl_fold,
        Dev.leaseRelease_ctrl, ite_self]

theorem Dev.fabReset_ctrl (d : Dev) {n : Nat} (hn : n < 4) : (d.fabReset n).ctrl = d.ctrl :=
  Dev.completeUpdate_ctrl _ hn

theorem Dev.linkTrained_ctrl (d : Dev) (l : Nat) (spares : List (Nat × Nat)) : (d.linkTrained l spares).ctrl = d.ctrl := by
  have wide (d' : Dev) : (d'.each ((List.range 8).zip spares) fun d p =>
      ((d.set (K.D2D_PORT_TX_SPARES l p.1) p.2.1).set (K.D2D_PORT_RX_SPARES l p.1) p.2.2).put (K.D2D_PORT_UP l p.1)
        true).ctrl = d'.ctrl :=
    Dev.each_keeps Dev.ctrl d' _ _ fun d p => by
      simp (disch := (simp only [CtrlKey, K.D2D_PORT_TX_SPARES, K.D2D_PORT_RX_SPARES, K.D2D_PORT_UP]; omega)) only
        [Dev.set_ctrl, Dev.put_ctrl]
  unfold Dev.linkTrained
  dsimp only
  rw [Dev.modLink_ctrl]
  split
  · simp (disch := (simp only [CtrlKey, K.D2D_STATUS_UP, K.NOP_STATUS_CD_UP]; omega)) only
      [Dev.putBit_ctrl, Dev.put_ctrl, wide, Dev.freshDirs_ctrl]
  · split <;>
      simp (disch := (simp only [CtrlKey, K.NOP_HUB_LANES_TX_SPARES, K.NOP_HUB_LANES_RX_SPARES,
        K.NOP_STATUS_BD_UP]; omega)) only [Dev.put_ctrl, Dev.set_ctrl, Dev.freshDirs_ctrl]

theorem Dev.bistReinit_ctrl (d : Dev) (e : Nat) (spares : List (Nat × Nat)) : (d.bistReinit e spares).ctrl = d.ctrl := by
  unfold Dev.bistReinit
  dsimp only
  split
  · exact d.coreReset_ctrl _
  · simp only [apply_ite Dev.ctrl, Dev.linkTrained_ctrl, Dev.modLink_ctrl, ite_self]
  · exact d.framesBlank_ctrl _
  · rfl
  · rfl
  · rfl

theorem Dev.bistAbandon_ctrl (d : Dev) : d.bistAbandon.ctrl = d.ctrl := by
  unfold Dev.bistAbandon
  split
  · rfl
  · simp only [Dev.sliceOver_ctrl, apply_ite Dev.ctrl, Dev.bistReinit_ctrl, ite_self]

end Sys2Proof.Machine
end

section
/-! SUPPORT. Bits of a mask (R36, R61). -/

namespace Sys2Proof

/-- A number whose bit `i` is 0, with that bit made 1. -/
theorem bitAt_add_two_pow {x i : Nat} (h : bitAt x i = false) (j : Nat) :
    bitAt (x + 2 ^ i) j = if j = i then true else bitAt x j := by
  have even : x / 2 ^ i % 2 = 0 := by simpa [bitAt] using h
  rcases Nat.lt_trichotomy j i with lt | rfl | gt
  · obtain ⟨k, rfl⟩ := Nat.exists_eq_add_of_lt lt
    have shifted : (x + 2 ^ (j + k + 1)) / 2 ^ j = x / 2 ^ j + 2 * 2 ^ k := by
      rw [show 2 ^ (j + k + 1) = 2 ^ j * (2 * 2 ^ k) by ring, Nat.add_mul_div_left _ _ (by positivity)]
    simp [bitAt, shifted, show j ≠ j + k + 1 by omega]
  · have one : (x + 2 ^ j) / 2 ^ j = x / 2 ^ j + 1 := Nat.add_div_right _ (by positivity)
    simp only [bitAt, one, if_true, beq_iff_eq]; omega
  · obtain ⟨k, rfl⟩ := Nat.exists_eq_add_of_lt gt
    have high (y : Nat) : y / 2 ^ (i + k + 1) = y / 2 ^ i / 2 / 2 ^ k := by
      rw [Nat.div_div_eq_div_mul, Nat.div_div_eq_div_mul]; congr 1; ring
    have same : (x + 2 ^ i) / 2 ^ i / 2 = x / 2 ^ i / 2 := by
      rw [Nat.add_div_right _ (by positivity)]; omega
    simp only [bitAt, high, same, show ¬ i + k + 1 = i by omega, if_false]

/-- A bit of a mask read after one of its bits was written. -/
theorem bitAt_putBitAt (x i j : Nat) (b : Bool) : bitAt (putBitAt x i b) j = if j = i then b else bitAt x j := by
  cases b with
  | true =>
    simp only [putBitAt, setBitAt, if_true]
    split
    next h =>
      split
      next e => rw [e, h]
      next => rfl
    next h => exact bitAt_add_two_pow (by simpa using h) j
  | false =>
    simp only [putBitAt, clearBitAt, Bool.false_eq_true, if_false]
    split
    next h =>
      have odd : x / 2 ^ i % 2 = 1 := by simpa [bitAt] using h
      have le : 2 ^ i ≤ x := by
        by_contra lt
        rw [Nat.div_eq_of_lt (by omega)] at odd
        omega
      have clear : bitAt (x - 2 ^ i) i = false := by
        have down : (x - 2 ^ i) / 2 ^ i = x / 2 ^ i - 1 := by simpa using Nat.sub_mul_div x (2 ^ i) 1
        simp only [bitAt, down, beq_eq_false_iff_ne]; omega
      have back := bitAt_add_two_pow clear j
      rw [Nat.sub_add_cancel le] at back
      split
      next e => rw [e, clear]
      next e => rw [back, if_neg e]
    next h =>
      split
      next e => rw [e]; simpa using h
      next => rfl

/-- A mask cut to a width keeps the bits below it. -/
theorem bitAt_mod_two_pow {x i w : Nat} (h : i < w) : bitAt (x % 2 ^ w) i = bitAt x i := by
  obtain ⟨k, rfl⟩ := Nat.exists_eq_add_of_lt h
  simp only [bitAt, show 2 ^ (i + k + 1) = 2 ^ i * (2 ^ k * 2) by ring, Nat.mod_mul_right_div_self,
    Nat.mod_mul_left_mod]

end Sys2Proof
end
section
/-! SUPPORT. DIE resets and failed stages (R42, R58): what they leave of the control part. -/

namespace Sys2Proof.Machine

/-! ## DIE resets and the control part (R58) -/

theorem Dev.ctrl_start (d : Dev) : d.ctrl.start = d.start := rfl
theorem Dev.ctrl_fuses (d : Dev) : d.ctrl.fuses = d.fuses := rfl

/-- The start-up's state after the DIE reset of CD `n`. -/
def Start.cdHeld (x : Start) (n : Nat) : Start :=
  { x with cdReleased := putBitAt x.cdReleased n false, cdBist := putBitAt x.cdBist n false
           cdTrained := putBitAt x.cdTrained n false, pllDone := putBitAt x.pllDone n false
           calDone := putBitAt x.calDone n false, dskDone := tblErase x.dskDone n }

/-- The start-up's state after the DIE reset of the base die. -/
def Start.bdHeld (x : Start) : Start :=
  { x with bdReleased := false, bdBist := false, hbmTrained := false, hubTrained := false }

theorem Dev.modStart_ctrl {b d : Dev} (f : Start → Start) (h : b.ctrl = d.ctrl) :
    (b.modStart f).ctrl = { d.ctrl with start := f d.start } := by
  rw [← h, ← Dev.start_of_ctrl h]; rfl

theorem Dev.cdReset_ctrl (d : Dev) {n : Nat} (hn : n < 4) :
    (d.cdReset n).ctrl = { d.ctrl with start := d.start.cdHeld n } := by
  have cores (d' : Dev) : (d'.each ((List.range 16).map (16 * n + ·)) Dev.coreReset).ctrl = d'.ctrl :=
    Dev.each_keeps Dev.ctrl d' _ _ Dev.coreReset_ctrl
  refine Dev.modStart_ctrl _ ?_
  simp (disch := (simp only [CtrlKey, K.DEV_START_STATUS_CD_UP, K.NOP_STATUS_CD_UP]; omega)) only
    [Dev.putBit_ctrl, ctrl_mk, ctrl_fold, Dev.modLink_ctrl, Dev.freshDirs_ctrl, Dev.injDieReset_ctrl,
      Dev.bistDieReset_ctrl, Dev.leaseDieReset_ctrl, Dev.fabReset_ctrl _ hn, cores,
      Dev.eraseDie_ctrl _ (show n ≠ 5 by omega)]

theorem Dev.bdReset_ctrl (d : Dev) : d.bdReset.ctrl = { d.ctrl with start := d.start.bdHeld } := by
  have pins (d' : Dev) : (d'.each (List.range 64) fun d q => d.modV q fun v => { v with pins := [] }).ctrl = d'.ctrl :=
    Dev.each_keeps Dev.ctrl d' _ _ fun d q => d.modV_ctrl q _
  unfold Dev.bdReset
  refine Dev.modStart_ctrl Start.bdHeld ?_
  simp (disch := (simp only [CtrlKey, K.DEV_START_STATUS_BD_UP, K.NOP_STATUS_BD_UP, K.NOP_STATUS_GD_UP,
    K.BAS_MEM_STATUS_SRAM_UP, K.BAS_MEM_STATUS_HBM0_UP, K.BAS_MEM_STATUS_HBM1_UP]; omega)) only
    [Dev.put_ctrl, ctrl_mk, ctrl_fold, pins, Dev.modLink_ctrl, Dev.freshDirs_ctrl, Dev.injDieReset_ctrl,
      Dev.bistDieReset_ctrl, Dev.leaseDieReset_ctrl, Dev.eraseDie_ctrl _ (show 4 ≠ 5 by decide)]

/-- The start-up's state after the DIE resets of the channel dies `l` and of the base die. -/
def Start.held (x : Start) (l : List Nat) : Start := (l.foldl Start.cdHeld x).bdHeld

theorem Dev.cdResets_ctrl (d : Dev) (l : List Nat) (h : ∀ n ∈ l, n < 4) :
    (d.each l Dev.cdReset).ctrl = { d.ctrl with start := l.foldl Start.cdHeld d.start } := by
  unfold Dev.each
  induction l generalizing d with
  | nil => rfl
  | cons n l ih =>
    rw [List.foldl_cons, ih _ fun k hk => h k (List.mem_cons_of_mem n hk), d.cdReset_ctrl (h n (by simp))]
    rw [show (d.cdReset n).start = d.start.cdHeld n from congrArg Ctrl.start (d.cdReset_ctrl (h n (by simp)))]
    rfl

theorem Dev.mem_dies {d : Dev} {n : Nat} : n ∈ d.dies ↔ n < 4 ∧ d.cdPresent n = true := by
  simp [Dev.dies, List.mem_filter]

theorem Dev.holdDies_ctrl (d : Dev) : d.holdDies.ctrl = { d.ctrl with start := d.start.held d.dies } := by
  have cds := d.cdResets_ctrl d.dies fun n hn => (Dev.mem_dies.mp hn).1
  rw [Dev.holdDies, Dev.rgpStale_ctrl, Dev.bdReset_ctrl, cds,
    show (d.each d.dies Dev.cdReset).start = d.dies.foldl Start.cdHeld d.start from congrArg Ctrl.start cds]
  rfl

theorem Dev.holdDies_start (d : Dev) : d.holdDies.start = d.start.held d.dies := by
  rw [← Dev.ctrl_start, d.holdDies_ctrl]

theorem Dev.holdDies_fuses (d : Dev) : d.holdDies.fuses = d.fuses := by
  rw [← Dev.ctrl_fuses, d.holdDies_ctrl, Dev.ctrl_fuses]

/-- A die whose DIE reset was done is held, whatever other dies' resets follow. -/
theorem Start.cdHelds_released (x : Start) (l : List Nat) (n : Nat) (h : n ∈ l ∨ bitAt x.cdReleased n = false) :
    bitAt (l.foldl Start.cdHeld x).cdReleased n = false := by
  induction l generalizing x with
  | nil => simpa using h
  | cons k l ih =>
    refine ih _ ?_
    have after : bitAt (x.cdHeld k).cdReleased n = if n = k then false else bitAt x.cdReleased n :=
      bitAt_putBitAt x.cdReleased k n false
    rw [after]
    by_cases e : n = k
    · simp [e]
    · simpa [e] using h

@[simp] theorem Dev.start_set (d : Dev) (f : Fld) (v : Nat) : (d.set f v).start = d.start := rfl
@[simp] theorem Dev.start_put (d : Dev) (f : Fld) (b : Bool) : (d.put f b).start = d.start := rfl
@[simp] theorem Dev.snt_set (d : Dev) (f : Fld) (v : Nat) : (d.set f v).snt = d.snt := rfl
@[simp] theorem Dev.snt_put (d : Dev) (f : Fld) (b : Bool) : (d.put f b).snt = d.snt := rfl
@[simp] theorem Dev.fuses_set (d : Dev) (f : Fld) (v : Nat) : (d.set f v).fuses = d.fuses := rfl
@[simp] theorem Dev.fuses_put (d : Dev) (f : Fld) (b : Bool) : (d.put f b).fuses = d.fuses := rfl
@[simp] theorem Dev.get_refreshLines (d : Dev) (f : Fld) : d.refreshLines.get f = d.get f := rfl
@[simp] theorem Dev.start_refreshLines (d : Dev) : d.refreshLines.start = d.start := rfl
@[simp] theorem Dev.fuses_refreshLines (d : Dev) : d.refreshLines.fuses = d.fuses := rfl

/-- A device of the same product variant has the same dies. -/
theorem Dev.dies_of_fuses {d d' : Dev} (h : d'.fuses = d.fuses) : d'.dies = d.dies := by
  unfold Dev.dies
  congr 1
  funext n
  simp only [Dev.cdPresent, Dev.variant, h]

/-! ## A stage fails (R42) -/

theorem Dev.get_of_regs {d d' : Dev} (h : d'.ctrl.regs = d.ctrl.regs) {f : Fld} (hf : CtrlKey f.key) :
    d'.get f = d.get f := by
  have hk := congrFun h f.key
  simp only [Dev.ctrl, ctrlRegs, hf, if_true] at hk
  simp [Dev.get, tblGet, hk]

/-- The failure's own fields, before the other dies are held. -/
theorem Dev.get_failShown (d : Dev) (code die : Nat) (f : Fld) : (d.failShown code die).get f =
    ((((d.put K.DEV_START_STATUS_FAIL true).set K.DEV_START_STATUS_FAIL_CODE code).set K.DEV_START_STATUS_FAIL_DIE
      die).put K.DEV_START_CTRL_START false).get f := rfl

theorem Dev.failShown_fail (d : Dev) (code die : Nat) : (d.failShown code die).get K.DEV_START_STATUS_FAIL = 1 := by
  rw [Dev.get_failShown, Dev.get_put_ne _ _ (by decide), Dev.get_set_ne _ _ (by decide), Dev.get_set_ne _ _ (by decide),
    Dev.get_put_same _ _ _ (by decide)]
  rfl

theorem Dev.failShown_code (d : Dev) {code : Nat} (die : Nat) (h : code < 256) :
    (d.failShown code die).get K.DEV_START_STATUS_FAIL_CODE = code := by
  rw [Dev.get_failShown, Dev.get_put_ne _ _ (by decide), Dev.get_set_ne _ _ (by decide), Dev.get_set_lt _ _ h]

theorem Dev.failShown_die (d : Dev) (code : Nat) {die : Nat} (h : die < 8) :
    (d.failShown code die).get K.DEV_START_STATUS_FAIL_DIE = die := by
  rw [Dev.get_failShown, Dev.get_put_ne _ _ (by decide), Dev.get_set_lt _ _ h]

theorem Dev.failShown_start (d : Dev) (code die : Nat) : (d.failShown code die).start = d.start := rfl

theorem Dev.fuses_failShown (d : Dev) (code die : Nat) : (d.failShown code die).fuses = d.fuses := rfl

/-- A stage that fails keeps a control register's field that it does not write itself. -/
theorem Dev.get_startFail (d : Dev) (code die : Nat) {f : Fld} (hf : CtrlKey f.key) (hm : f.key ≠ K.DEV_MODE_MODE.key)
    (hs : f.key ≠ K.DEV_START_STATUS_START_DONE.key) :
    (d.startFail code die).get f = (d.failShown code die).get f := by
  have last (x : Dev) : (((x.set K.DEV_MODE_MODE mdSentry).put K.DEV_START_STATUS_START_DONE false).refreshLines).get f =
      x.get f := (Dev.get_put_ne _ _ hs).trans (Dev.get_set_ne _ _ hm)
  refine (last _).trans ((Dev.get_of_regs ?_ hf).trans (Dev.get_of_ctrl (Dev.loaderSafe_ctrl _) hf))
  rw [Dev.holdDies_ctrl]

theorem Dev.startFail_start (d : Dev) (code die : Nat) : (d.startFail code die).start = d.start.held d.dies := by
  have kept := Dev.loaderSafe_ctrl (d.failShown code die)
  rw [Dev.startFail, Dev.start_refreshLines, Dev.start_put, Dev.start_set, Dev.holdDies_start, Dev.start_of_ctrl kept,
    Dev.dies_of_fuses (Dev.fuses_of_ctrl kept), Dev.failShown_start, Dev.dies_of_fuses (d.fuses_failShown code die)]

theorem Dev.startFail_fuses (d : Dev) (code die : Nat) : (d.startFail code die).fuses = d.fuses := by
  rw [Dev.startFail, Dev.fuses_refreshLines, Dev.fuses_put, Dev.fuses_set, Dev.holdDies_fuses,
    Dev.fuses_of_ctrl (Dev.loaderSafe_ctrl _), Dev.fuses_failShown]

/-- What a failure shows is read back, the loader and the DIE resets notwithstanding. -/
theorem Dev.startFail_shown (d : Dev) {code die : Nat} (hc : code < 256) (hd : die < 8) :
    Slice0.StartFailed code die (d.startFail code die) := by
  refine ⟨?_, ?_, ?_, ?_, ?_, ?_, fun n hn hp => ?_⟩
  · rw [Dev.get_startFail _ _ _ (by simp [CtrlKey, K.DEV_START_STATUS_FAIL]) (by decide) (by decide), Dev.failShown_fail]
  · rw [Dev.get_startFail _ _ _ (by simp [CtrlKey, K.DEV_START_STATUS_FAIL_CODE]) (by decide) (by decide),
      Dev.failShown_code _ _ hc]
  · rw [Dev.get_startFail _ _ _ (by simp [CtrlKey, K.DEV_START_STATUS_FAIL_DIE]) (by decide) (by decide),
      Dev.failShown_die _ _ hd]
  · rw [Dev.startFail, Dev.get_refreshLines, Dev.get_put_ne _ _ (by decide), Dev.get_set_same]; rfl
  · rw [Dev.startFail, Dev.get_refreshLines, Dev.get_put_same _ _ _ (by decide)]; rfl
  · rw [Dev.startFail_start]; rfl
  · rw [Dev.startFail_start]
    refine Start.cdHelds_released _ _ _ (.inl (Dev.mem_dies.mpr ⟨hn, ?_⟩))
    rw [← hp, Dev.cdPresent, Dev.cdPresent, Dev.variant, Dev.variant, Dev.startFail_fuses]

end Sys2Proof.Machine
end

section
/-! SUPPORT and CERTIFICATE. What fails a stage of the start (R36, R38, R42, R46, R366, R450). -/

open Sys2Proof Sys2Proof.Machine

namespace Sys2Proof.Slice0

/-! ## How a command of the start is carried out -/

/-- A command that is an operation on the device gives its result. -/
theorem gives_of_does {c : Instr} {s : State} {P : Dev → Prop} {f : Dev → Dev} (h : exec c s = s.does f)
    (hp : P (f s.dev)) : Gives c s P := ⟨f s.dev, h, hp⟩

/-- A failed stage stays shown whatever happens outside the control part. -/
theorem StartFailed.of_ctrl {code die : Nat} {d d' : Dev} (h : StartFailed code die d) (e : d'.ctrl = d.ctrl) :
    StartFailed code die d' := by
  have start := Dev.start_of_ctrl e
  obtain ⟨fail, failCode, failDie, mode, done, bd, cds⟩ := h
  refine ⟨?_, ?_, ?_, ?_, ?_, start ▸ bd, fun n hn hp => start ▸ cds n hn ?_⟩
  · rwa [Dev.get_of_ctrl e (by simp [CtrlKey, K.DEV_START_STATUS_FAIL])]
  · rwa [Dev.get_of_ctrl e (by simp [CtrlKey, K.DEV_START_STATUS_FAIL_CODE])]
  · rwa [Dev.get_of_ctrl e (by simp [CtrlKey, K.DEV_START_STATUS_FAIL_DIE])]
  · rwa [Dev.get_of_ctrl e (by simp [CtrlKey, K.DEV_MODE_MODE])]
  · rwa [Dev.get_of_ctrl e (by simp [CtrlKey, K.DEV_START_STATUS_START_DONE])]
  · simpa only [Dev.cdPresent, Dev.variant, Dev.fuses_of_ctrl e] using hp

theorem mem_activeDies {d : Dev} {n : Nat} :
    n ∈ d.activeDies ↔ (n < 4 ∧ d.cdPresent n = true) ∧ bitAt d.start.active n = true := by
  rw [Dev.activeDies, List.mem_filter, Dev.mem_dies]

/-! ## FAIL_DIE -/

theorem railDie_lt (r : Nat) (h : r < 13) : railDie r < 8 := by
  unfold railDie
  split
  · decide
  · split <;> omega

/-- The lowest late die of a list is a die, and 7 stands for none. -/
theorem lowestDie_lt (d : Dev) (p : Nat → Bool) : (d.activeDies.find? p).getD 7 < 8 := by
  cases h : d.activeDies.find? p with
  | none => decide
  | some n =>
    have := (mem_activeDies.mp (List.mem_of_find?_eq_some h)).1.1
    simp only [Option.getD_some]; omega

theorem lateDie_lt (d : Dev) : d.lateDie < 8 := by
  unfold Dev.lateDie
  dsimp only
  split
  · split <;> decide
  · exact lowestDie_lt d _
  · exact lowestDie_lt d _
  · exact lowestDie_lt d _
  · exact lowestDie_lt d _
  · decide

/-! ## The stages -/

/-- A wrong identity fails the stage and shows ID_MISMATCH, a register outside the control part. -/
theorem startFail_idMismatch (d : Dev) {code die : Nat} (hc : code < 256) (hd : die < 8) {f : Fld} (hf : ¬ CtrlKey f.key)
    (hw : 0 < f.width) :
    StartFailed code die ((d.startFail code die).put f true) ∧ ((d.startFail code die).put f true).get f = 1 :=
  ⟨(d.startFail_shown hc hd).of_ctrl (Dev.put_ctrl _ _ hf), Dev.get_put_same _ _ _ hw⟩

/-- The hub link has two spare lanes in each direction. -/
theorem sparesFit_hub {tx rx : BitVec 4} (h : 2 < tx.toNat ∨ 2 < rx.toNat) :
    sparesFit 4 [(tx.toNat, rx.toNat)] = false := by
  simp only [sparesFit, show ¬ 4 < 4 by decide, if_false, List.length_singleton, beq_self_eq_true, List.all_cons,
    List.all_nil, Bool.and_true, Bool.true_and, Bool.and_eq_false_iff, decide_eq_false_iff_not]
  omega

theorem bdStage_fails (s : State) (h : s.dev.inStage 4 = true) :
    (∀ ok, Gives (.bdBistDone ok false) s fun d => StartFailed 0x20 4 d ∧ d.get K.NOP_STATUS_BD_ID_MISMATCH = 1) ∧
    Gives (.bdBistDone false true) s (StartFailed 0x20 4) ∧
    Gives (.hbmPhyTrainingDone false) s (StartFailed 0x21 4) ∧
    ∀ tx rx : BitVec 4, 2 < tx.toNat ∨ 2 < rx.toNat → Gives (.hubLinkTrainingDone tx rx) s (StartFailed 0x22 5) := by
  refine ⟨fun ok => gives_of_does rfl ?_, gives_of_does rfl ?_, gives_of_does rfl ?_,
    fun tx rx spares => gives_of_does rfl ?_⟩
  · simp only [h, Bool.not_true, Bool.false_eq_true, if_false, Bool.not_false, if_true]
    exact startFail_idMismatch _ (by decide) (by decide) (by simp [CtrlKey, K.NOP_STATUS_BD_ID_MISMATCH]) (by decide)
  · simpa [h] using s.dev.startFail_shown (code := 0x20) (die := 4) (by decide) (by decide)
  · simpa [h] using s.dev.startFail_shown (code := 0x21) (die := 4) (by decide) (by decide)
  · simpa [h, sparesFit_hub spares] using s.dev.startFail_shown (code := 0x22) (die := 5) (by decide) (by decide)

theorem cdStage_fails (n : Die) (s : State) (h : s.dev.inStage 5 = true) (hr : bitAt s.dev.start.cdReleased n = true) :
    (∀ ok, Gives (.cdBistDone n ok false) s fun d => StartFailed 0x30 n d ∧ d.get (K.D2D_STATUS_ID_MISMATCH n) = 1) ∧
    Gives (.cdBistDone n false true) s (StartFailed 0x30 n) ∧
    ∀ l, sparesFit n l = false → Gives (.d2dLinkTrainingDone n l) s (StartFailed 0x31 n) := by
  have die : n.val < 8 := by omega
  refine ⟨fun ok => gives_of_does rfl ?_, gives_of_does rfl ?_, fun l spares => gives_of_does rfl ?_⟩
  · simp only [h, hr, Bool.and_self, Bool.not_true, Bool.false_eq_true, if_false, Bool.not_false, if_true]
    exact startFail_idMismatch _ (by decide) die (by simp only [CtrlKey, K.D2D_STATUS_ID_MISMATCH]; omega)
      (by simp [K.D2D_STATUS_ID_MISMATCH])
  · simpa [h, hr] using s.dev.startFail_shown (code := 0x30) (by decide) die
  · simpa [h, hr, spares] using s.dev.startFail_shown (code := 0x31) (by decide) die

/-- Settles O18: each of these commands is one failure of the stage, whose record the holding of the other dies keeps. -/
theorem stagesThatFail : Obligations.StagesThatFail := by
  intro n s
  have die : n.val < 8 := by omega
  refine ⟨fun h r hr => gives_of_does rfl ?_, bdStage_fails s, cdStage_fails n s, fun h hn => ?_,
    fun h hn copy nocal => gives_of_does rfl ?_, fun h => gives_of_does rfl ?_⟩
  · simpa [h, hr] using s.dev.startFail_shown (code := 0x10) (by decide) (railDie_lt r r.isLt)
  · have lock := s.dev.startFail_shown (code := 0x40) (by decide) die
    refine ⟨gives_of_does rfl ?_, fun none => gives_of_does rfl ?_⟩
    · simpa [h, hn] using lock
    · simpa [h, hn, none] using lock
  · simpa [h, hn, copy, nocal] using s.dev.startFail_shown (code := 0x50) (by decide) die
  · rw [Dev.watchdog, if_pos h]
    exact s.dev.startFail_shown (by decide) (lateDie_lt s.dev)

end Sys2Proof.Slice0
end

section
/-! SUPPORT. The entry into Safe (R52, R56): what it writes, and what of the control part it keeps. -/

namespace Sys2Proof.Machine

/-! ## A site's state (R50, R309) -/

theorem Dev.siteState_of_ctrl {d d' : Dev} (h : d'.ctrl = d.ctrl) {x : Nat} (hx : x < 64) : d'.siteState x = d.siteState x :=
  Dev.get_of_ctrl h (by simp only [CtrlKey, K.SITE_SITE_STATE]; omega)

theorem Dev.siteIn_congr {d d' : Dev} {x : Nat} (h : d'.siteState x = d.siteState x) (l : List Nat) :
    d'.siteIn x l = d.siteIn x l := by simp only [Dev.siteIn, h]

theorem Dev.refreshMode_start (d : Dev) : d.refreshMode.start = d.start := by
  unfold Dev.refreshMode; split <;> rfl

theorem Dev.refreshMode_snt (d : Dev) : d.refreshMode.snt = d.snt := by
  unfold Dev.refreshMode; split <;> rfl

theorem Dev.get_refreshMode (d : Dev) {f : Fld} (h : f.key ≠ K.DEV_MODE_MODE.key) : d.refreshMode.get f = d.get f := by
  unfold Dev.refreshMode
  split
  · exact Dev.get_set_ne _ _ h
  · rfl

/-- What changes with a step of the entry: fields of the control part other than the listed ones, the start-up's state
and Sentry's stay. -/
structure KeptBut (p : Nat → Prop) (d d' : Dev) : Prop where
  get : ∀ f : Fld, CtrlKey f.key → ¬ p f.key → d'.get f = d.get f
  start : d'.start = d.start
  snt : d'.snt = d.snt

theorem KeptBut.of_ctrl {p : Nat → Prop} {d d' : Dev} (h : d'.ctrl = d.ctrl) : KeptBut p d d' :=
  ⟨fun _ hf _ => Dev.get_of_ctrl h hf, Dev.start_of_ctrl h, Dev.snt_of_ctrl h⟩

theorem KeptBut.trans {p : Nat → Prop} {a b c : Dev} (h : KeptBut p a b) (k : KeptBut p b c) : KeptBut p a c :=
  ⟨fun f hf hp => (k.get f hf hp).trans (h.get f hf hp), k.start.trans h.start, k.snt.trans h.snt⟩

/-- MODE, which follows the sites, and the sites' states. -/
def SiteKey (k : Nat) : Prop := k = K.DEV_MODE_MODE.key ∨ ∃ s, s < 64 ∧ k = (K.SITE_SITE_STATE s).key

theorem Dev.setSiteState_kept (d : Dev) {s : Nat} (hs : s < 64) (st : Nat) : KeptBut SiteKey d (d.setSiteState s st) := by
  unfold Dev.setSiteState
  dsimp only
  refine ⟨fun f hf hp => ?_, ?_, ?_⟩
  · rw [Dev.get_refreshMode _ fun e => hp (.inl e)]
    have set : (d.set (K.SITE_SITE_STATE s) st).get f = d.get f := Dev.get_set_ne _ _ fun e => hp (.inr ⟨s, hs, e⟩)
    split
    · exact (Dev.get_of_ctrl (Dev.irq_ctrl _ _) hf).trans set
    · exact set
  · rw [Dev.refreshMode_start]
    split
    · exact (Dev.start_of_ctrl (Dev.irq_ctrl _ _)).trans (Dev.start_set _ _ _)
    · rfl
  · rw [Dev.refreshMode_snt]
    split
    · exact (Dev.snt_of_ctrl (Dev.irq_ctrl _ _)).trans (Dev.snt_set _ _ _)
    · rfl

theorem SITE_SITE_STATE_key_inj {s x : Nat} (h : (K.SITE_SITE_STATE s).key = (K.SITE_SITE_STATE x).key) : s = x := by
  simp only [K.SITE_SITE_STATE] at h; omega

/-- The site takes the state, and no other site does. -/
theorem Dev.siteState_setSiteState (d : Dev) {s x : Nat} (hs : s < 64) (hx : x < 64) {st : Nat} (h : st < 8) :
    (d.setSiteState s st).siteState x = if x = s then st else d.siteState x := by
  have set : (d.set (K.SITE_SITE_STATE s) st).siteState x = if x = s then st else d.siteState x := by
    split
    next e => subst e; exact Dev.get_set_lt _ _ h
    next e => exact Dev.get_set_ne _ _ fun k => e (SITE_SITE_STATE_key_inj k)
  have mode : (K.SITE_SITE_STATE x).key ≠ K.DEV_MODE_MODE.key := by simp only [K.SITE_SITE_STATE, K.DEV_MODE_MODE]; omega
  unfold Dev.setSiteState
  dsimp only
  rw [Dev.siteState, Dev.get_refreshMode _ mode]
  split
  · exact (Dev.siteState_of_ctrl (Dev.irq_ctrl _ _) hx).trans set
  · exact set

/-! ## The sites' stop (R52) -/

/-- What a site's entry does before it becomes Aborted. -/
theorem Dev.abortSite_eq (d : Dev) (s : Nat) : ∃ x : Dev, x.ctrl = d.ctrl ∧ d.abortSite s = x.setSiteState s stAborted := by
  refine ⟨_, ?_, rfl⟩
  simp (disch := (simp only [CtrlKey, K.SITE_PARK_PEND, K.SITE_ABORT_PEND, K.SITE_RESUME_PEND]; omega)) only
    [Dev.modSite_ctrl, Dev.put_ctrl, Dev.parkSite_ctrl, Dev.coresParked_ctrl]

theorem Dev.safeSite_eq (d : Dev) (trip : Bool) (s : Nat) (h : d.siteIn s stActive = true) :
    ∃ x : Dev, x.ctrl = d.ctrl ∧ d.safeSite trip s = x.setSiteState s stAborted := by
  unfold Dev.safeSite
  rw [if_pos h]
  dsimp only
  obtain ⟨x, hx, e⟩ := Dev.abortSite_eq (if (if trip = true then d.set (K.SITE_CAUSE s) 0x80 else d).siteIn s [stAdmitted] =
    true then (if trip = true then d.set (K.SITE_CAUSE s) 0x80 else d) else
      (if trip = true then d.set (K.SITE_CAUSE s) 0x80 else d).endRecs s true) s
  refine ⟨x, hx.trans ?_, e⟩
  simp (disch := (simp only [CtrlKey, K.SITE_CAUSE]; omega)) only
    [apply_ite Dev.ctrl, Dev.endRecs_ctrl, Dev.set_ctrl, ite_self]

theorem Dev.safeSite_kept (d : Dev) (trip : Bool) {s : Nat} (hs : s < 64) : KeptBut SiteKey d (d.safeSite trip s) := by
  by_cases h : d.siteIn s stActive = true
  · obtain ⟨x, hx, e⟩ := d.safeSite_eq trip s h
    exact e ▸ (KeptBut.of_ctrl hx).trans (x.setSiteState_kept hs _)
  · rw [Dev.safeSite, if_neg h]
    exact .of_ctrl rfl

theorem Dev.siteState_safeSite (d : Dev) (trip : Bool) {s x : Nat} (hs : s < 64) (hx : x < 64) :
    (d.safeSite trip s).siteState x = if x = s ∧ d.siteIn s stActive = true then 6 else d.siteState x := by
  by_cases h : d.siteIn s stActive = true
  · obtain ⟨y, hy, e⟩ := d.safeSite_eq trip s h
    rw [e, Dev.siteState_setSiteState _ hs hx (by decide), Dev.siteState_of_ctrl hy hx]
    simp [h, stAborted]
  · rw [Dev.safeSite, if_neg h]
    simp [h]

theorem Dev.safeSites_kept (d : Dev) (trip : Bool) (l : List Nat) (h : ∀ s ∈ l, s < 64) :
    KeptBut SiteKey d (d.each l fun d s => d.safeSite trip s) := by
  unfold Dev.each
  induction l generalizing d with
  | nil => exact .of_ctrl rfl
  | cons s l ih =>
    exact (d.safeSite_kept trip (h s (by simp))).trans (ih _ fun k hk => h k (List.mem_cons_of_mem s hk))

theorem Dev.siteIn_aborted {d : Dev} {x : Nat} (h : d.siteState x = 6) : d.siteIn x stActive = false := by
  rw [Dev.siteIn, h]; rfl

/-- Every site of the list that had work is Aborted. -/
theorem Dev.siteState_safeSites (d : Dev) (trip : Bool) (l : List Nat) (h : ∀ s ∈ l, s < 64) {x : Nat} (hx : x < 64) :
    (d.each l fun d s => d.safeSite trip s).siteState x =
      if x ∈ l ∧ d.siteIn x stActive = true then 6 else d.siteState x := by
  unfold Dev.each
  induction l generalizing d with
  | nil => simp
  | cons s l ih =>
    rw [List.foldl_cons, ih _ fun k hk => h k (List.mem_cons_of_mem s hk)]
    have step := d.siteState_safeSite trip (h s (by simp)) hx
    by_cases now : x = s ∧ d.siteIn s stActive = true
    · obtain ⟨rfl, act⟩ := now
      rw [if_pos ⟨rfl, act⟩] at step
      simp [Dev.siteIn_aborted step, step, act]
    · rw [if_neg now] at step
      rw [Dev.siteIn_congr step, step]
      by_cases act : d.siteIn x stActive = true
      · have ne : x ≠ s := fun e => now ⟨e, e ▸ act⟩
        simp [act, ne]
      · simp [act]

/-! ## The units' stop, and the entry (R52) -/

theorem Dev.safeUnits_ctrl (d : Dev) : d.safeUnits.ctrl = d.ctrl := by
  have sweeps (d' : Dev) : (d'.each (List.range 4) fun d n => d.sweepAbandon n).ctrl = d'.ctrl :=
    Dev.each_keeps Dev.ctrl d' _ _ fun d n => d.sweepAbandon_ctrl n
  have drops (d' : Dev) : (d'.each [6, 7] fun d u => d.each [0, 1] fun d k => d.leaseDrop u lcHBM (0x90 + k)).ctrl =
      d'.ctrl :=
    Dev.each_keeps Dev.ctrl d' _ _ fun d u => Dev.each_keeps Dev.ctrl d _ _ fun d k => d.leaseDrop_ctrl _ _ _
  simp only [Dev.safeUnits, Dev.injDisarm_ctrl, drops, Dev.scrubsStop_ctrl, Dev.cfgiSafe_ctrl, Dev.loaderSafe_ctrl,
    Dev.bistAbandon_ctrl, sweeps, Dev.leaseSafe_ctrl, Dev.linksSafe_ctrl]

/-- Fields that the entry into Safe writes: the mode, its cause, START_DONE and the sites' states. -/
def EntryKey (k : Nat) : Prop :=
  SiteKey k ∨ k = K.DEV_MODE_SAFE_CAUSE.key ∨ k = K.DEV_START_STATUS_START_DONE.key

/-- The start-up's state after the entry. -/
def Start.safe (x : Start) (cause : Nat) (present : Bool) : Start :=
  { x with safeWait := none, causes := if present then [cause] else [] }

/-- The device at the entry, once every site has stopped. -/
def Dev.sitesStopped (d : Dev) (trip : Bool) : Dev := (d.each allSites fun d s => d.safeSite trip s).parkAll

theorem Dev.sitesStopped_kept (d : Dev) (trip : Bool) : KeptBut SiteKey d (d.sitesStopped trip) :=
  (d.safeSites_kept trip allSites fun _ hs => List.mem_range.mp hs).trans (.of_ctrl (Dev.parkAll_ctrl _))

theorem Dev.siteState_sitesStopped (d : Dev) (trip : Bool) {x : Nat} (hx : x < 64) :
    (d.sitesStopped trip).siteState x = if d.siteIn x stActive = true then 6 else d.siteState x := by
  rw [Dev.sitesStopped, Dev.siteState_of_ctrl (Dev.parkAll_ctrl _) hx,
    d.siteState_safeSites trip allSites (fun _ hs => List.mem_range.mp hs) hx]
  simp [allSites, hx]

/-- The device as the entry shows it, before the units stop. -/
def Dev.safeShown (d : Dev) (cause : Nat) (present : Bool) : Dev :=
  (((d.set K.DEV_MODE_MODE mdSafe).set K.DEV_MODE_SAFE_CAUSE cause).put K.DEV_START_STATUS_START_DONE
    false).refreshLines.modStart fun x => x.safe cause present

theorem Dev.enterSafe_ctrl (d : Dev) (cause : Nat) (trip present : Bool) :
    (d.enterSafe cause trip present).ctrl = ((d.sitesStopped trip).safeShown cause present).ctrl := by
  unfold Dev.enterSafe
  rw [Dev.logA_ctrl, Dev.safeUnits_ctrl]
  rfl

theorem Dev.get_safeShown (d : Dev) (cause : Nat) (present : Bool) {f : Fld} (mode : f.key ≠ K.DEV_MODE_MODE.key)
    (why : f.key ≠ K.DEV_MODE_SAFE_CAUSE.key) (done : f.key ≠ K.DEV_START_STATUS_START_DONE.key) :
    (d.safeShown cause present).get f = d.get f :=
  (Dev.get_put_ne _ _ done).trans ((Dev.get_set_ne _ _ why).trans (Dev.get_set_ne _ _ mode))

theorem Dev.safeShown_mode (d : Dev) (cause : Nat) (present : Bool) :
    (d.safeShown cause present).get K.DEV_MODE_MODE = 5 :=
  (Dev.get_put_ne _ _ (by decide)).trans ((Dev.get_set_ne _ _ (by decide)).trans (Dev.get_set_same _ _ _))

theorem Dev.safeShown_cause (d : Dev) {cause : Nat} (present : Bool) (h : cause < 256) :
    (d.safeShown cause present).get K.DEV_MODE_SAFE_CAUSE = cause :=
  (Dev.get_put_ne _ _ (by decide)).trans (Dev.get_set_lt _ _ h)

theorem Dev.safeShown_done (d : Dev) (cause : Nat) (present : Bool) :
    (d.safeShown cause present).get K.DEV_START_STATUS_START_DONE = 0 := Dev.get_put_same _ _ _ (by decide)

theorem Dev.safeShown_start (d : Dev) (cause : Nat) (present : Bool) :
    (d.safeShown cause present).start = d.start.safe cause present := rfl

theorem Dev.safeShown_out (d : Dev) (cause : Nat) (present : Bool) : (d.safeShown cause present).snt.out = d.snt.out := rfl

section
variable (d : Dev) (cause : Nat) (trip present : Bool)

/-- A control register's field that the entry does not write keeps its value. -/
theorem Dev.get_enterSafe {f : Fld} (hf : CtrlKey f.key) (h : ¬ EntryKey f.key) :
    (d.enterSafe cause trip present).get f = d.get f := by
  rw [Dev.get_of_ctrl (d.enterSafe_ctrl cause trip present) hf, Dev.get_safeShown _ _ _ (fun e => h (.inl (.inl e)))
    (fun e => h (.inr (.inl e))) fun e => h (.inr (.inr e))]
  exact (d.sitesStopped_kept trip).get f hf fun e => h (.inl e)

theorem Dev.enterSafe_start : (d.enterSafe cause trip present).start = d.start.safe cause present := by
  rw [Dev.start_of_ctrl (d.enterSafe_ctrl cause trip present), Dev.safeShown_start, (d.sitesStopped_kept trip).start]

theorem Dev.enterSafe_out : (d.enterSafe cause trip present).snt.out = d.snt.out := by
  rw [Dev.snt_of_ctrl (d.enterSafe_ctrl cause trip present), Dev.safeShown_out, (d.sitesStopped_kept trip).snt]

/-- A site that was Admitted, Running, Curtaining or Rocking is Aborted. -/
theorem Dev.siteState_enterSafe {x : Nat} (hx : x < 64) (act : d.siteIn x stActive = true) :
    (d.enterSafe cause trip present).siteState x = 6 := by
  have shown : ((d.sitesStopped trip).safeShown cause present).siteState x = (d.sitesStopped trip).siteState x := by
    apply Dev.get_safeShown <;>
      simp only [K.SITE_SITE_STATE, K.DEV_START_STATUS_START_DONE, K.DEV_MODE_SAFE_CAUSE, K.DEV_MODE_MODE] <;> omega
  rw [Dev.siteState_of_ctrl (d.enterSafe_ctrl cause trip present) hx, shown, d.siteState_sitesStopped trip hx, if_pos act]

end

/-- The entry into Safe shows itself, and aborts every site that had work. -/
theorem Dev.enterSafe_entered (d : Dev) {cause : Nat} (trip present : Bool) (hc : cause < 256) :
    Slice0.SafeEntered d cause (if present then [cause] else []) (d.enterSafe cause trip present) := by
  have shown {f : Fld} (hf : CtrlKey f.key) := Dev.get_of_ctrl (d.enterSafe_ctrl cause trip present) hf
  have start := d.enterSafe_start cause trip present
  refine ⟨?_, ?_, ?_, ?_, ?_, fun x hx act => d.siteState_enterSafe cause trip present hx act⟩
  · rw [shown (by simp [CtrlKey, K.DEV_MODE_MODE]), Dev.safeShown_mode]
  · rw [shown (by simp [CtrlKey, K.DEV_MODE_SAFE_CAUSE]), Dev.safeShown_cause _ _ hc]
  · rw [shown (by simp [CtrlKey, K.DEV_START_STATUS_START_DONE]), Dev.safeShown_done]
  · rw [start]; rfl
  · rw [start]; rfl

end Sys2Proof.Machine
end

section
/-! SUPPORT and CERTIFICATE. Safety trips and the entry into Safe (R44, R52, R56, R72, R73, R75, R463). -/

open Sys2Proof Sys2Proof.Machine

namespace Sys2Proof.Slice0

/-! ## How a command of the trips is carried out -/

/-- A sampled event that is an operation on the device gives its result. -/
theorem givesAs_of_doesAs {c : Instr} {s : State} {e : Evt} {P : Dev → Prop} {f : Dev → Dev}
    {d : Dev} (h : exec c s = s.doesAs e f) (hd : f s.dev = d) (hp : P d) : GivesAs e c s P := ⟨d, hd ▸ h, hp⟩

/-- A command that writes a register at an ordinary address has the register's own effect. -/
theorem givesBy_writes {c : Instr} {m : Master} {s : State} {P : Dev → Prop} {a w : Nat} (h : exec c s = s.writes m a w)
    (hw : w < 2 ^ 32) (hl : Lets s m a true) (ho : Ordinary a) (hp : P (s.dev.regWrite m a w)) : GivesBy m c s P := by
  have value : (BitVec.ofNat 32 w).toNat = w := by rw [BitVec.toNat_ofNat, Nat.mod_eq_of_lt hw]
  have addr : (BitVec.ofNat 24 a).toNat = a := by rw [BitVec.toNat_ofNat]; have := ho.below; omega
  obtain ⟨d, hd, hP⟩ := givesBy_registerWrite (P := P) (v := BitVec.ofNat 32 w) hl ho (by rw [value]; exact hp)
  refine ⟨d, ?_, hP⟩
  have same : exec (.registerWrite m (BitVec.ofNat 24 a) (BitVec.ofNat 32 w)) s =
      s.writes m (BitVec.ofNat 24 a).toNat (BitVec.ofNat 32 w).toNat := rfl
  rw [value, addr] at same
  rw [h, ← same]; exact hd

/-- The entry into Safe speaks of the sites before it alone. -/
theorem SafeEntered.of_sites {x d0 d : Dev} {cause : Nat} {causes : List Nat} (h : SafeEntered x cause causes d)
    (e : ∀ s, s < 64 → x.siteState s = d0.siteState s) : SafeEntered d0 cause causes d := by
  obtain ⟨mode, why, done, causes, wait, sites⟩ := h
  exact ⟨mode, why, done, causes, wait, fun s hs act => sites s hs (by rwa [Dev.siteIn_congr (e s hs)])⟩

/-! ## A safety trip (R44, R52) -/

theorem safetyTrip_enters {d : Dev} (h : d.modeIn [1, 2, 3, 4] = true) (cause : Nat) (present : Bool) :
    d.safetyTrip cause present = d.enterSafe cause true present := if_pos h

theorem modeIn_of_mode {d : Dev} {k : Nat} (h : d.get K.DEV_MODE_MODE = k) (l : List Nat) : d.modeIn l = l.contains k := by
  rw [Dev.modeIn, Dev.mode, h]

/-- In PWR_CHECK, BD_INIT and CD_LINK a trip fails the start. -/
theorem safetyTrip_fails {d : Dev} (hm : d.get K.DEV_MODE_MODE = 0) (hf : d.get K.DEV_START_STATUS_FAIL = 0)
    (lo : 3 ≤ d.get K.DEV_START_STATUS_STAGE) (hi : d.get K.DEV_START_STATUS_STAGE ≤ 5) (cause : Nat) (present : Bool) :
    d.safetyTrip cause present = d.startFail 8 7 := by
  simp [Dev.safetyTrip, modeIn_of_mode hm, mdLoad, mdReady, mdRun, mdHold, mdSafe, Dev.startFailed, Dev.on, hf, Dev.stage,
    lo, hi]

/-- In SENTRY_WAIT a trip is recorded alone. -/
theorem safetyTrip_logged {d : Dev} (hm : d.get K.DEV_MODE_MODE = 0) (hs : d.get K.DEV_START_STATUS_STAGE = 2)
    (cause : Nat) (present : Bool) : d.safetyTrip cause present = d.tripLogged cause := by
  simp [Dev.safetyTrip, modeIn_of_mode hm, mdLoad, mdReady, mdRun, mdHold, mdSafe, Dev.stage, hs]

/-- A trip from Load onward enters Safe with its cause, whatever registers recorded it first. -/
theorem safetyTrip_entered {x d0 : Dev} (h : d0.modeIn [1, 2, 3, 4] = true) (mode : x.mode = d0.mode)
    (sites : ∀ s, s < 64 → x.siteState s = d0.siteState s) {cause : Nat} (present : Bool) (hc : cause < 256) :
    SafeEntered d0 cause (if present then [cause] else []) (x.safetyTrip cause present) := by
  have from' : x.modeIn [1, 2, 3, 4] = true := by rwa [Dev.modeIn, mode]
  rw [safetyTrip_enters from']
  exact (x.enterSafe_entered true present hc).of_sites sites

/-- A trip from Load onward keeps a control register's field that the entry does not write. -/
theorem get_safetyTrip {x d0 : Dev} (h : d0.modeIn [1, 2, 3, 4] = true) (mode : x.mode = d0.mode) (cause : Nat)
    (present : Bool) {f : Fld} (hf : CtrlKey f.key) (he : ¬ EntryKey f.key) :
    (x.safetyTrip cause present).get f = x.get f := by
  rw [safetyTrip_enters (by rwa [Dev.modeIn, mode])]
  exact x.get_enterSafe _ _ _ hf he

/-! ## A trip of the power manager (R463) -/

/-- The power manager's latches with the trip. -/
def tripLatched (d : Dev) (kind die rail : Nat) : Dev :=
  let d :=
    if d.on K.PWR_TRIP_CAUSE_TRIP then d
    else ((d.set K.PWR_TRIP_CAUSE_KIND kind).set K.PWR_TRIP_CAUSE_DIE die).set K.PWR_TRIP_CAUSE_RAIL rail
  (d.put K.PWR_TRIP_CAUSE_TRIP true).put K.PWR_STATUS_HARD_TRIP true

theorem powerTrip_eq (d : Dev) (kind die rail : Nat) :
    d.powerTrip kind die rail = (tripLatched d kind die rail).safetyTrip kind true := rfl

/-- The fields that a trip of the power manager latches. -/
def latchFields : List Fld :=
  [K.PWR_TRIP_CAUSE_TRIP, K.PWR_TRIP_CAUSE_KIND, K.PWR_TRIP_CAUSE_DIE, K.PWR_TRIP_CAUSE_RAIL, K.PWR_STATUS_HARD_TRIP]

section
variable (d : Dev) (kind die rail : Nat)

theorem tripLatched_regs : tripLatched d kind die rail = { d with regs := (tripLatched d kind die rail).regs } := by
  unfold tripLatched
  dsimp only
  split <;> rfl

theorem get_tripLatched {f : Fld} (h : ∀ g ∈ latchFields, f.key ≠ g.key) : (tripLatched d kind die rail).get f = d.get f := by
  simp only [latchFields, List.forall_mem_cons] at h
  obtain ⟨trip, cause, code, which, hard, -⟩ := h
  unfold tripLatched
  dsimp only
  rw [Dev.get_put_ne _ _ hard, Dev.get_put_ne _ _ trip]
  split
  · rfl
  · rw [Dev.get_set_ne _ _ which, Dev.get_set_ne _ _ code, Dev.get_set_ne _ _ cause]

theorem tripLatched_trip : (tripLatched d kind die rail).get K.PWR_TRIP_CAUSE_TRIP = 1 := by
  rw [tripLatched, Dev.get_put_ne _ _ (by decide), Dev.get_put_same _ _ _ (by decide)]; rfl

theorem tripLatched_hard : (tripLatched d kind die rail).get K.PWR_STATUS_HARD_TRIP = 1 := by
  rw [tripLatched, Dev.get_put_same _ _ _ (by decide)]; rfl

/-- The first trip's kind, die and rail are latched. -/
theorem tripLatched_first (h : d.get K.PWR_TRIP_CAUSE_TRIP = 0) (hk : kind < 4) (hd : die < 8) (hr : rail < 16) :
    (tripLatched d kind die rail).get K.PWR_TRIP_CAUSE_KIND = kind ∧
    (tripLatched d kind die rail).get K.PWR_TRIP_CAUSE_DIE = die ∧
    (tripLatched d kind die rail).get K.PWR_TRIP_CAUSE_RAIL = rail := by
  have off : d.on K.PWR_TRIP_CAUSE_TRIP = false := by rw [Dev.on, h]; rfl
  simp only [tripLatched, off, Bool.false_eq_true, if_false]
  refine ⟨?_, ?_, ?_⟩ <;> rw [Dev.get_put_ne _ _ (by decide), Dev.get_put_ne _ _ (by decide)]
  · rw [Dev.get_set_ne _ _ (by decide), Dev.get_set_ne _ _ (by decide), Dev.get_set_lt _ _ hk]
  · rw [Dev.get_set_ne _ _ (by decide), Dev.get_set_lt _ _ hd]
  · rw [Dev.get_set_lt _ _ hr]

theorem mode_tripLatched : (tripLatched d kind die rail).mode = d.mode := get_tripLatched d kind die rail (by decide)

theorem siteState_tripLatched (s : Nat) (hs : s < 64) : (tripLatched d kind die rail).siteState s = d.siteState s := by
  refine get_tripLatched d kind die rail fun g hg => ?_
  simp only [latchFields, List.mem_cons, List.not_mem_nil, or_false] at hg
  rcases hg with rfl | rfl | rfl | rfl | rfl <;>
    simp only [K.SITE_SITE_STATE, K.PWR_TRIP_CAUSE_TRIP, K.PWR_TRIP_CAUSE_KIND, K.PWR_TRIP_CAUSE_DIE, K.PWR_TRIP_CAUSE_RAIL,
      K.PWR_STATUS_HARD_TRIP] <;> omega

end

/-- A trip of the power manager from Load onward. -/
theorem powerTrip_entered {x d0 : Dev} (from' : d0.modeIn [1, 2, 3, 4] = true) (hx : ∀ f, x.get f = d0.get f)
    (kind die rail : Nat) (hk : kind < 4) :
    SafeEntered d0 kind [kind] (x.powerTrip kind die rail) ∧
    (x.powerTrip kind die rail).get K.PWR_TRIP_CAUSE_TRIP = 1 ∧
    (x.powerTrip kind die rail).get K.PWR_STATUS_HARD_TRIP = 1 ∧
    (d0.get K.PWR_TRIP_CAUSE_TRIP = 0 → die < 8 → rail < 16 →
      (x.powerTrip kind die rail).get K.PWR_TRIP_CAUSE_KIND = kind ∧
      (x.powerTrip kind die rail).get K.PWR_TRIP_CAUSE_DIE = die ∧
      (x.powerTrip kind die rail).get K.PWR_TRIP_CAUSE_RAIL = rail) := by
  have mode : (tripLatched x kind die rail).mode = d0.mode := (mode_tripLatched x kind die rail).trans (hx _)
  have latch {f : Fld} (hf : CtrlKey f.key) (he : ¬ EntryKey f.key) :=
    get_safetyTrip (x := tripLatched x kind die rail) from' mode kind true hf he
  have entry {f : Fld} (h : 3145728 ≤ f.key) : ¬ EntryKey f.key := by
    simp only [EntryKey, SiteKey, K.DEV_MODE_MODE, K.SITE_SITE_STATE, K.DEV_MODE_SAFE_CAUSE, K.DEV_START_STATUS_START_DONE]
    omega
  rw [powerTrip_eq]
  refine ⟨safetyTrip_entered from' mode (fun s hs => (siteState_tripLatched x kind die rail s hs).trans (hx _)) true
    (by omega), ?_, ?_, fun h hd hr => ?_⟩
  · rw [latch (by simp [CtrlKey, K.PWR_TRIP_CAUSE_TRIP]) (entry (by decide)), tripLatched_trip]
  · rw [latch (by simp [CtrlKey, K.PWR_STATUS_HARD_TRIP]) (entry (by decide)), tripLatched_hard]
  · rw [latch (by simp [CtrlKey, K.PWR_TRIP_CAUSE_KIND]) (entry (by decide)),
      latch (by simp [CtrlKey, K.PWR_TRIP_CAUSE_DIE]) (entry (by decide)),
      latch (by simp [CtrlKey, K.PWR_TRIP_CAUSE_RAIL]) (entry (by decide))]
    exact tripLatched_first x kind die rail ((hx _).trans h) hk hd hr

/-- In SENTRY_WAIT a trip of the power manager is latched and recorded, and nothing else. -/
theorem powerTrip_logged {d : Dev} (hm : d.get K.DEV_MODE_MODE = 0) (hs : d.get K.DEV_START_STATUS_STAGE = 2)
    (kind die rail : Nat) : d.powerTrip kind die rail = (tripLatched d kind die rail).tripLogged kind := by
  rw [powerTrip_eq]
  exact safetyTrip_logged ((get_tripLatched d kind die rail (by decide)).trans hm)
    ((get_tripLatched d kind die rail (by decide)).trans hs) kind true

/-- In PWR_CHECK, BD_INIT and CD_LINK it fails the start. -/
theorem powerTrip_fails {d : Dev} (hm : d.get K.DEV_MODE_MODE = 0) (hf : d.get K.DEV_START_STATUS_FAIL = 0)
    (lo : 3 ≤ d.get K.DEV_START_STATUS_STAGE) (hi : d.get K.DEV_START_STATUS_STAGE ≤ 5) (kind die rail : Nat) :
    d.powerTrip kind die rail = (tripLatched d kind die rail).startFail 8 7 := by
  have kept {f : Fld} (h : ∀ g ∈ latchFields, f.key ≠ g.key) := get_tripLatched d kind die rail h
  have stage := kept (f := K.DEV_START_STATUS_STAGE) (by decide)
  rw [powerTrip_eq]
  exact safetyTrip_fails ((kept (by decide)).trans hm) ((kept (by decide)).trans hf) (by rwa [stage]) (by rwa [stage])
    kind true

/-- The sources that are hot, with one more. -/
def hotNoted (d : Dev) (code : Nat) : Dev :=
  let l := if d.power.hot.contains code then d.power.hot else code :: d.power.hot
  { d with power := { d.power with hot := l } }

/-- The rails that are out of their windows, with one more. -/
def railNoted (d : Dev) (k : Nat) : Dev :=
  let l := if d.power.badRail.contains k then d.power.badRail else k :: d.power.badRail
  { d with power := { d.power with badRail := l } }

theorem overTemperature (code : Fin 8) (s : State) (h : s.dev.sensed code = true) :
    (s.dev.modeIn [1, 2, 3, 4] = true → GivesAs (1, 1, code) (.overTemperatureTrip code) s fun d =>
      SafeEntered s.dev 1 [1] d ∧ d.get K.PWR_TRIP_CAUSE_TRIP = 1 ∧ d.get K.PWR_STATUS_HARD_TRIP = 1 ∧
      (s.dev.get K.PWR_TRIP_CAUSE_TRIP = 0 → d.get K.PWR_TRIP_CAUSE_KIND = 1 ∧ d.get K.PWR_TRIP_CAUSE_DIE = code)) ∧
    (s.dev.get K.DEV_MODE_MODE = 0 → s.dev.get K.DEV_START_STATUS_STAGE = 2 →
      GivesAs (1, 1, code) (.overTemperatureTrip code) s fun d => d.get K.PWR_TRIP_CAUSE_TRIP = 1 ∧
        FieldsKept s.dev d latchFields ∧ BytesKept s.dev d) := by
  have given {P : Dev → Prop} (hp : P ((hotNoted s.dev code).powerTrip 1 code 0)) :
      GivesAs (1, 1, code) (.overTemperatureTrip code) s P := givesAs_of_doesAs rfl (if_pos h) hp
  refine ⟨fun from' => given ?_, fun hm hs => given ?_⟩
  · obtain ⟨safe, trip, hard, first⟩ :=
      powerTrip_entered (x := hotNoted s.dev code) from' (fun _ => rfl) 1 code 0 (by decide)
    exact ⟨safe, trip, hard, fun h0 => ⟨(first h0 code.isLt (by decide)).1, (first h0 code.isLt (by decide)).2.1⟩⟩
  · rw [powerTrip_logged (d := hotNoted s.dev code) hm hs]
    refine ⟨tripLatched_trip _ _ _ _, fun f hf => get_tripLatched _ _ _ _ hf, fun a => ?_⟩
    rw [tripLatched_regs]
    rfl

theorem supplyTrip (code : Fin 6) (rail : Fin 13) (s : State) (h : s.dev.railWatched code rail = true) :
    (s.dev.modeIn [1, 2, 3, 4] = true → GivesAs (1, 2, code) (.supplyTrip code rail) s fun d =>
      SafeEntered s.dev 2 [2] d ∧ d.get K.PWR_TRIP_CAUSE_TRIP = 1 ∧
      (s.dev.get K.PWR_TRIP_CAUSE_TRIP = 0 → d.get K.PWR_TRIP_CAUSE_RAIL = rail)) ∧
    (s.dev.get K.DEV_MODE_MODE = 0 → s.dev.get K.DEV_START_STATUS_FAIL = 0 → 3 ≤ s.dev.get K.DEV_START_STATUS_STAGE →
      s.dev.get K.DEV_START_STATUS_STAGE ≤ 5 → GivesAs (1, 2, code) (.supplyTrip code rail) s (StartFailed 8 7)) := by
  have given {P : Dev → Prop} (hp : P ((railNoted s.dev (16 * code.val + rail.val)).powerTrip 2 code rail)) :
      GivesAs (1, 2, code) (.supplyTrip code rail) s P := givesAs_of_doesAs rfl (if_pos h) hp
  refine ⟨fun from' => given ?_, fun hm hf lo hi => given ?_⟩
  · obtain ⟨safe, trip, -, first⟩ :=
      powerTrip_entered (x := railNoted s.dev (16 * code.val + rail.val)) from' (fun _ => rfl) 2 code rail (by decide)
    exact ⟨safe, trip, fun h0 => (first h0 (by omega) (by omega)).2.2⟩
  · rw [powerTrip_fails (d := railNoted s.dev (16 * code.val + rail.val)) hm hf lo hi]
    exact Dev.startFail_shown _ (by decide) (by decide)

/-! ## Trips of the Sentry image (R72) -/

/-- No field of a block after the sites' is the entry's own. -/
theorem entryKey_above {f : Fld} (h : 524288 ≤ f.key) : ¬ EntryKey f.key := by
  simp only [EntryKey, SiteKey, K.DEV_MODE_MODE, K.SITE_SITE_STATE, K.DEV_MODE_SAFE_CAUSE, K.DEV_START_STATUS_START_DONE]
  omega

theorem siteState_set_above (d : Dev) {f : Fld} (v : Nat) (h : 524288 ≤ f.key) {s : Nat} (hs : s < 64) :
    (d.set f v).siteState s = d.siteState s :=
  Dev.get_set_ne _ _ (by simp only [K.SITE_SITE_STATE]; omega)

theorem mode_set_above (d : Dev) {f : Fld} (v : Nat) (h : 524288 ≤ f.key) : (d.set f v).mode = d.mode :=
  Dev.get_set_ne _ _ (by simp only [K.DEV_MODE_MODE]; omega)

/-- The image's outputs with the trip of a code. -/
def imageTrip (d : Dev) (code : Nat) : Dev :=
  d.modSnt fun x => { x with out := { x.out with trip := true, tripCode := BitVec.ofNat 8 code } }

theorem sentryLogicTrip (code : BitVec 8) (s : State) (run : s.dev.imageRuns = true)
    (from' : s.dev.modeIn [1, 2, 3, 4] = true) (low : s.dev.snt.out.trip = false) :
    GivesAs (1, 3, 0) (.sentryLogicTrip code) s fun d => SafeEntered s.dev 3 [3] d ∧
      d.get K.SNT_TRIP_CAUSE_CODE = code.toNat ∧ d.get K.SNT_TRIP_CAUSE_TRIP = 1 ∧ d.snt.out.trip = true := by
  have cond : (s.dev.imageRuns && !s.dev.snt.out.trip) = true := by simp [run, low]
  refine givesAs_of_doesAs (d := (((imageTrip s.dev code.toNat).set K.SNT_TRIP_CAUSE_CODE code.toNat).put
    K.SNT_TRIP_CAUSE_TRIP true).safetyTrip 3 true) rfl (if_pos cond) ?_
  have mode : (((imageTrip s.dev code.toNat).set K.SNT_TRIP_CAUSE_CODE code.toNat).put K.SNT_TRIP_CAUSE_TRIP true).mode =
      s.dev.mode := (mode_set_above _ _ (by decide)).trans (mode_set_above _ _ (by decide))
  refine ⟨safetyTrip_entered from' mode (fun s hs => (siteState_set_above _ _ (by decide) hs).trans
    (siteState_set_above _ _ (by decide) hs)) true (by decide), ?_, ?_, ?_⟩
  · rw [get_safetyTrip from' mode 3 true (by simp [CtrlKey, K.SNT_TRIP_CAUSE_CODE]) (entryKey_above (by decide)),
      Dev.get_put_ne _ _ (by decide), Dev.get_set_lt _ _ code.isLt]
  · rw [get_safetyTrip from' mode 3 true (by simp [CtrlKey, K.SNT_TRIP_CAUSE_TRIP]) (entryKey_above (by decide)),
      Dev.get_put_same _ _ _ (by decide)]
    rfl
  · rw [safetyTrip_enters (by rwa [Dev.modeIn, mode]), Dev.enterSafe_out]
    rfl

/-- The image's outputs with SYS_REQ. -/
def imageSysReq (d : Dev) : Dev := d.modSnt fun x => { x with out := { x.out with sysReq := true } }

theorem peSafeRequest (s : State) (run : s.dev.imageRuns = true) (from' : s.dev.modeIn [1, 2, 3, 4] = true)
    (low : s.dev.snt.out.sysReq = false) :
    GivesAs (1, 4, 0) .peSafeRequest s fun d => SafeEntered s.dev 4 [4] d ∧
      d.get K.SNT_TRIP_CAUSE_SYS = 1 ∧ d.snt.out.sysReq = true := by
  have cond : (s.dev.imageRuns && !s.dev.snt.out.sysReq) = true := by simp [run, low]
  refine givesAs_of_doesAs (d := ((imageSysReq s.dev).put K.SNT_TRIP_CAUSE_SYS true).safetyTrip 4 true) rfl
    (if_pos cond) ?_
  have mode : ((imageSysReq s.dev).put K.SNT_TRIP_CAUSE_SYS true).mode = s.dev.mode := mode_set_above _ _ (by decide)
  refine ⟨safetyTrip_entered from' mode (fun s hs => siteState_set_above _ _ (by decide) hs) true (by decide), ?_, ?_⟩
  · rw [get_safetyTrip from' mode 4 true (by simp [CtrlKey, K.SNT_TRIP_CAUSE_SYS]) (entryKey_above (by decide)),
      Dev.get_put_same _ _ _ (by decide)]
    rfl
  · rw [safetyTrip_enters (by rwa [Dev.modeIn, mode]), Dev.enterSafe_out]
    rfl

/-! ## A change of the policy (R73, R75) -/

/-- The policy of `x` asserts the line of a busy group. -/
def HitsBusy (x : Dev) : Prop :=
  ∃ g, g < 16 ∧ bitAt x.linesWanted g = true ∧ bitAt x.snt.asserted g = false ∧ x.groupBusy g = true

theorem hitsBusy_iff (x : Dev) : HitsBusy x ↔ ((List.range 16).any fun g =>
    bitAt x.refreshLines.snt.asserted g && !bitAt x.snt.asserted g && x.refreshLines.groupBusy g) = true := by
  simp only [HitsBusy, List.any_eq_true, List.mem_range, Bool.and_eq_true, Bool.not_eq_true', and_assoc]
  rfl

/-- The policy trip as it is recorded: of host software or of the image. -/
def busyTripped (x : Dev) (host : Bool) : Dev :=
  (x.refreshLines.put K.SNT_TRIP_CAUSE_BUSY_WD true).put
    (if host then K.SNT_TRIP_CAUSE_SYS else K.SNT_TRIP_CAUSE_TRIP) true

/-- A change that hits no busy group moves the lines alone. -/
theorem policyChanged_moves {x : Dev} (h : ¬ HitsBusy x) (host : Bool) : x.policyChanged host = x.refreshLines := by
  rw [hitsBusy_iff] at h
  simp only [Dev.policyChanged, h, Bool.not_false, if_true]

theorem policyChanged_trips {x : Dev} (h : HitsBusy x) (host : Bool) :
    x.policyChanged host = (busyTripped x host).safetyTrip (if host then 4 else 3) false := by
  rw [hitsBusy_iff] at h
  simp only [Dev.policyChanged, h, Bool.not_true, Bool.false_eq_true, if_false]
  cases host <;> rfl

/-- A change that hits a busy group enters Safe, and shows the trip. -/
theorem policyChanged_enters {x d0 : Dev} (h : HitsBusy x) (from' : d0.modeIn [1, 2, 3, 4] = true) (mode : x.mode = d0.mode)
    (sites : ∀ s, s < 64 → x.siteState s = d0.siteState s) (host : Bool) :
    SafeEntered d0 (if host then 4 else 3) [] (x.policyChanged host) ∧
    (x.policyChanged host).get K.SNT_TRIP_CAUSE_BUSY_WD = 1 ∧
    (x.policyChanged host).get (if host then K.SNT_TRIP_CAUSE_SYS else K.SNT_TRIP_CAUSE_TRIP) = 1 := by
  have above : 524288 ≤ (if host then K.SNT_TRIP_CAUSE_SYS else K.SNT_TRIP_CAUSE_TRIP).key := by cases host <;> decide
  have shown : (busyTripped x host).mode = d0.mode :=
    ((mode_set_above _ _ above).trans (mode_set_above _ _ (by decide))).trans mode
  rw [policyChanged_trips h]
  refine ⟨safetyTrip_entered from' shown (fun s hs => ?_) false (by cases host <;> decide), ?_, ?_⟩
  · exact ((siteState_set_above _ _ above hs).trans (siteState_set_above _ _ (by decide) hs)).trans (sites s hs)
  · rw [get_safetyTrip from' shown _ _ (by simp [CtrlKey, K.SNT_TRIP_CAUSE_BUSY_WD]) (entryKey_above (by decide)),
      busyTripped, Dev.get_put_ne _ _ (by cases host <;> decide), Dev.get_put_same _ _ _ (by decide)]
    rfl
  · rw [get_safetyTrip from' shown _ _ (by cases host <;> simp [CtrlKey, K.SNT_TRIP_CAUSE_SYS, K.SNT_TRIP_CAUSE_TRIP])
      (entryKey_above above), busyTripped, Dev.get_put_same _ _ _ (by cases host <;> decide)]
    rfl

/-- The image's outputs with a new SAFE_REL. -/
def imageSafeRel (d : Dev) (rel : BitVec 16) : Dev := d.modSnt fun x => { x with out := { x.out with safeRel := rel } }

/-- The lines alone moved, with the image's outputs `out`: every other unit is as it was. -/
def Moved (d0 : Dev) (out : ImgOut) (d : Dev) : Prop :=
  d.snt = { d0.snt with out := out, asserted := d.linesWanted } ∧ d = { d0 with regs := d.regs, snt := d.snt }

theorem safeRelChange (rel : BitVec 16) (s : State) (run : s.dev.imageRuns = true) (image : s.dev.snt.running ≠ .romDefault) :
    (¬ HitsBusy (imageSafeRel s.dev rel) → GivesAs (1, 3, 0) (.safeRelChange rel) s fun d =>
      Moved s.dev (imageSafeRel s.dev rel).snt.out d ∧ d.regs = s.dev.regs) ∧
    (HitsBusy (imageSafeRel s.dev rel) → s.dev.modeIn [1, 2, 3, 4] = true →
      GivesAs (1, 3, 0) (.safeRelChange rel) s fun d => SafeEntered s.dev 3 [] d ∧
        d.get K.SNT_TRIP_CAUSE_BUSY_WD = 1 ∧ d.get K.SNT_TRIP_CAUSE_TRIP = 1) := by
  have cond : (s.dev.imageRuns && s.dev.snt.running != .romDefault) = true := by simp [run, image]
  have given {P : Dev → Prop} (hp : P ((imageSafeRel s.dev rel).policyChanged false)) :
      GivesAs (1, 3, 0) (.safeRelChange rel) s P := givesAs_of_doesAs rfl (if_pos cond) hp
  refine ⟨fun miss => given ?_, fun hit from' => given ?_⟩
  · rw [policyChanged_moves miss]
    exact ⟨⟨rfl, rfl⟩, rfl⟩
  · exact policyChanged_enters hit from' rfl (fun _ _ => rfl) false

/-- A policy register that hits no busy group: it takes its value and the lines move. -/
theorem registerPolicy_moves {d0 : Dev} {f : Fld} {v : Nat} (hv : v < 2 ^ f.width) (miss : ¬ HitsBusy (d0.set f v)) :
    ((d0.set f v).policyChanged true).get f = v ∧ FieldsKept d0 ((d0.set f v).policyChanged true) [f] ∧
      Moved d0 d0.snt.out ((d0.set f v).policyChanged true) := by
  rw [policyChanged_moves miss]
  exact ⟨Dev.get_set_lt _ _ hv, fun g hg => Dev.get_set_ne _ _ (hg f (by simp)), rfl, rfl⟩

theorem groupForceWrite (m : Master) (v : BitVec 16) (s : State) (hl : Lets s m 0x10018 true) :
    (¬ HitsBusy (s.dev.set K.SNT_GROUP_FORCE_FORCE v.toNat) → GivesBy m (.sntGroupForceWrite m v) s fun d =>
      d.get K.SNT_GROUP_FORCE_FORCE = v.toNat ∧ FieldsKept s.dev d [K.SNT_GROUP_FORCE_FORCE] ∧
      Moved s.dev s.dev.snt.out d) ∧
    (HitsBusy (s.dev.set K.SNT_GROUP_FORCE_FORCE v.toNat) → s.dev.modeIn [1, 2, 3, 4] = true →
      GivesBy m (.sntGroupForceWrite m v) s fun d => SafeEntered s.dev 4 [] d ∧
        d.get K.SNT_TRIP_CAUSE_BUSY_WD = 1 ∧ d.get K.SNT_TRIP_CAUSE_SYS = 1) := by
  have wide : v.toNat < 2 ^ 32 := lt_trans v.isLt (by decide)
  have effect : s.dev.regWrite m 0x10018 v.toNat = (s.dev.set K.SNT_GROUP_FORCE_FORCE v.toNat).policyChanged true := by
    simp [Dev.regWrite, hl.2, slowReg, Dev.devWrite, Dev.forceWrite, Nat.mod_eq_of_lt v.isLt]
  have given {P : Dev → Prop} (hp : P ((s.dev.set K.SNT_GROUP_FORCE_FORCE v.toNat).policyChanged true)) :
      GivesBy m (.sntGroupForceWrite m v) s P :=
    givesBy_writes rfl wide hl ⟨by decide, by decide, by decide, by decide, by decide⟩ (effect ▸ hp)
  refine ⟨fun miss => given (registerPolicy_moves v.isLt miss), fun hit from' => given ?_⟩
  exact policyChanged_enters hit from' (mode_set_above _ _ (by decide))
    (fun s hs => siteState_set_above _ _ (by decide) hs) true

theorem policyWrite (m : Master) (v : BitVec 16) (s : State) (hl : Lets s m 0x1001C true) :
    (s.dev.get K.SNT_LOCK_POLICY_LOCK = 0 → ¬ HitsBusy (s.dev.set K.SNT_POLICY_RELEASE_EN (v.toNat &&& s.dev.groupMask)) →
      GivesBy m (.sntPolicyWrite m v) s fun d => d.get K.SNT_POLICY_RELEASE_EN = v.toNat &&& s.dev.groupMask ∧
        FieldsKept s.dev d [K.SNT_POLICY_RELEASE_EN] ∧ Moved s.dev s.dev.snt.out d) ∧
    (s.dev.get K.SNT_LOCK_POLICY_LOCK = 1 → s.dev.get K.SNT_POLICY_RELEASE_EN ≠ v.toNat &&& s.dev.groupMask →
      GivesBy m (.sntPolicyWrite m v) s fun d => d.get K.DEV_REG_STATUS_LOCKED_WR = 1 ∧
        FieldsOnly s.dev d [K.DEV_REG_STATUS_LOCKED_WR]) := by
  have wide : v.toNat < 2 ^ 32 := lt_trans v.isLt (by decide)
  have ordinary : Ordinary 0x1001C := ⟨by decide, by decide, by decide, by decide, by decide⟩
  refine ⟨fun unlocked miss => givesBy_writes rfl wide hl ordinary ?_,
    fun locked differs => givesBy_writes rfl wide hl ordinary ?_⟩
  · have effect : s.dev.regWrite m 0x1001C v.toNat =
        (s.dev.set K.SNT_POLICY_RELEASE_EN (v.toNat &&& s.dev.groupMask)).policyChanged true := by
      simp [Dev.regWrite, hl.2, slowReg, Dev.devWrite, Dev.policyWrite, Dev.on, unlocked, Nat.mod_eq_of_lt v.isLt]
    rw [effect]
    exact registerPolicy_moves (lt_of_le_of_lt Nat.and_le_left v.isLt) miss
  · have effect : s.dev.regWrite m 0x1001C v.toNat = s.dev.lockedWr := by
      simp [Dev.regWrite, hl.2, slowReg, Dev.devWrite, Dev.on, locked, differs, Nat.mod_eq_of_lt v.isLt]
    rw [effect]
    exact put_true_only s.dev _ (by decide)

/-! ## An unrecoverable fault, and the latches (R52, R56, R463) -/

theorem safeEntry_due {s : State} {w : SafeWait} (h : s.dev.start.safeWait = some w) (hc : w.cause < 256)
    (from' : s.dev.modeIn [1, 2, 3, 4] = true) (idle : ∀ x, x < 64 → s.dev.siteIn x [2, 3] = false) :
    Gives .unrecoverableSafeEntry s (SafeEntered s.dev w.cause (if w.cause = 5 then [5] else [])) := by
  have none : (allSites.any fun x => s.dev.siteIn x [stRunning, stCurtaining]) = false := by
    simp only [List.any_eq_false, allSites, List.mem_range]
    intro x hx
    simp [stRunning, stCurtaining, idle x hx]
  have due : s.dev.safeDue = true := by simp [Dev.safeDue, h, none]
  have effect : s.dev.safeTick = s.dev.enterSafe w.cause false (w.cause == 5) := by
    have from'' : s.dev.modeIn [mdLoad, mdReady, mdRun, mdHold] = true := from'
    simp [Dev.safeTick, h, due, from'']
  refine gives_of_does rfl ?_
  rw [effect]
  have entered := s.dev.enterSafe_entered false (w.cause == 5) hc
  by_cases e : w.cause = 5
  · simpa [e] using entered
  · simpa [e] using entered

theorem tripClear_clears (m : Master) (s : State) (hl : Lets s m 0x60030 true) :
    GivesBy m (.tripClear m) s fun d => d.get K.PWR_TRIP_CAUSE_TRIP = 0 ∧
      (s.dev.power.hot = [] → s.dev.power.badRail = [] → d.get K.PWR_STATUS_HARD_TRIP = 0) ∧
      (s.dev.power.hot ≠ [] ∨ s.dev.power.badRail ≠ [] → d.get K.PWR_STATUS_HARD_TRIP = s.dev.get K.PWR_STATUS_HARD_TRIP) ∧
      FieldsOnly s.dev d [K.PWR_TRIP_CAUSE_TRIP, K.PWR_STATUS_HARD_TRIP] := by
  refine givesBy_writes rfl (by decide) hl ⟨by decide, by decide, by decide, by decide, by decide⟩ ?_
  have effect : s.dev.regWrite m 0x60030 512 = s.dev.tripClear := by
    simp [Dev.regWrite, hl.2, slowReg, Dev.timWrite, bitAt]
  have power : (s.dev.put K.PWR_TRIP_CAUSE_TRIP false).power = s.dev.power := rfl
  rw [effect, Dev.tripClear, power]
  split
  next gone =>
    refine ⟨?_, fun _ _ => Dev.get_put_same _ _ _ (by decide), fun some => ?_, rfl, fun f hf => ?_⟩
    · rw [Dev.get_put_ne _ _ (by decide), Dev.get_put_same _ _ _ (by decide)]; rfl
    · simp [gone] at some
    · rw [Dev.get_put_ne _ _ (hf _ (by simp)), Dev.get_put_ne _ _ (hf _ (by simp))]
  next present =>
    refine ⟨Dev.get_put_same _ _ _ (by decide), fun hot rail => absurd ⟨hot, rail⟩ present,
      fun _ => Dev.get_put_ne _ _ (by decide), rfl, fun f hf => Dev.get_put_ne _ _ (hf _ (by simp))⟩

/-- Settles O20: a trip is latched, then enters Safe, fails the start or is recorded alone as the mode and the stage say. -/
theorem tripsAndSafe : Obligations.TripsAndSafe := by
  intro m s
  refine ⟨fun code h => overTemperature code s h, fun code rail h => supplyTrip code rail s h,
    fun code => ⟨gives_of_does rfl rfl, fun rail => gives_of_does rfl rfl⟩,
    fun run from' => ⟨fun code low => sentryLogicTrip code s run from' low, fun low => peSafeRequest s run from' low⟩,
    fun a b => gives_of_does rfl rfl, fun rel run image => safeRelChange rel s run image,
    fun v hl => groupForceWrite m v s hl, fun v hl => policyWrite m v s hl,
    fun w h hc from' idle => safeEntry_due h hc from' idle, fun h => gives_of_does rfl ?_, tripClear_clears m s⟩
  simp [Dev.safeTick, h]

end Sys2Proof.Slice0
end

section
/-! SUPPORT and CERTIFICATE. The resets of the whole device (R57 to R60, R586). -/

open Sys2Proof Sys2Proof.Machine

namespace Sys2Proof.Slice0

/-! ## What a reset erases (R58) -/

/-- A field after a reset of some of the listed fields. -/
theorem get_eraseRegs (d : Dev) (p : Nat → Bool) (f : Fld) :
    (d.eraseRegs p).get f = if p f.key then f.rst else d.get f := by
  simp only [Dev.get, tblGet, Dev.eraseRegs]
  rw [tblFind_keep d.regs (fun k => !p k) f.key]
  cases p f.key <;> rfl

theorem get_erasePor {d : Dev} {f : Fld} (hv : rstOf f.key ≠ .vbat) (hn : rstOf f.key ≠ .none) :
    d.erasePor.get f = f.rst := by
  rw [Dev.erasePor, get_eraseRegs]
  split <;> simp_all

theorem get_erasePor_vbat {d : Dev} {f : Fld} (h : rstOf f.key = .vbat) : d.erasePor.get f = d.get f := by
  rw [Dev.erasePor, get_eraseRegs, h]
  rfl

/-- DRST restores the fields of the scopes DRST, DIE and CORE. -/
theorem get_eraseDrst {d : Dev} {f : Fld} (h : rstOf f.key = .drst ∨ rstOf f.key = .die ∨ rstOf f.key = .core) :
    d.eraseDrst.get f = f.rst := by
  rw [Dev.eraseDrst, get_eraseRegs]
  rcases h with h | h | h <;> rw [h] <;> rfl

/-- DRST keeps the fields of POR and the battery-backed ones. -/
theorem get_eraseDrst_kept {d : Dev} {f : Fld} (h : rstOf f.key = .por ∨ rstOf f.key = .vbat) :
    d.eraseDrst.get f = d.get f := by
  rw [Dev.eraseDrst, get_eraseRegs]
  rcases h with h | h <;> rw [h] <;> rfl

theorem rstOf_cdMask : rstOf K.DEV_START_CTRL_CD_MASK.key = .drst := by decide
theorem rstOf_cfgpRdEn : rstOf K.CFG_CTRL_CFGP_RD_EN.key = .drst := by decide
theorem rstOf_pin : rstOf K.DEV_RESET_CAUSE_PIN.key = .por := by decide
theorem rstOf_host : rstOf K.DEV_RESET_CAUSE_HOST.key = .por := by decide
theorem rstOf_stage : rstOf K.DEV_START_STATUS_STAGE.key = .drst := by decide

/-- Fields of different scopes are different fields. -/
theorem key_ne_of_rstOf {f g : Fld} {a b : RstBy} (hf : rstOf f.key = a) (hg : rstOf g.key = b) (h : a ≠ b) :
    f.key ≠ g.key := fun e => h (by rw [← hf, ← hg, e])

/-! ## What a reset leaves -/

/-- A field whose reset value the straps and the variant give. -/
def Strap (f : Fld) : Prop := f.key = K.DEV_START_CTRL_CD_MASK.key ∨ f.key = K.CFG_CTRL_CFGP_RD_EN.key

theorem get_strapped (d : Dev) {f : Fld} (h : ¬ Strap f) : d.strapped.get f = d.get f :=
  (Dev.get_put_ne _ _ fun e => h (.inr e)).trans (Dev.get_set_ne _ _ fun e => h (.inl e))

/-- What no reset of the whole device keeps: every unit with its state, of whose fields the statement names these. -/
def Emptied (d0 d : Dev) : Prop :=
  d.sites = [] ∧ d.cores = [] ∧ d.mem = [] ∧ d.zeroed = [] ∧ d.ptu = {} ∧ d.rps = {} ∧ d.sched = {} ∧ d.lease = {} ∧
    d.links = {} ∧ d.power = {} ∧ d.bist = {} ∧ d.snt = {} ∧ d.fuses.variant = d0.fuses.variant

theorem flashInterrupt_start (d : Dev) : d.flashInterrupt.start = d.start := by
  unfold Dev.flashInterrupt
  dsimp only
  split
  · split <;> rfl
  · rfl

theorem flashInterrupt_fuses (d : Dev) : d.flashInterrupt.fuses = d.fuses := by
  unfold Dev.flashInterrupt
  dsimp only
  split
  · split <;> rfl
  · rfl

theorem fresh_start (d : Dev) (regs : Tbl Nat) :
    (d.fresh regs).start = { suppliesValid := d.start.suppliesValid, inPor := false } := by
  rw [← flashInterrupt_start d]; rfl

theorem fresh_emptied (d : Dev) (regs : Tbl Nat) : Emptied d (d.fresh regs) := by
  refine ⟨rfl, rfl, rfl, rfl, rfl, rfl, rfl, rfl, rfl, rfl, rfl, rfl, ?_⟩
  rw [← flashInterrupt_fuses d]; rfl

/-- Register fields and the start-up's state apart, a device is as empty as another. -/
theorem Emptied.of_eq {d0 d d' : Dev} (h : Emptied d0 d) (e : d' = { d with regs := d'.regs, start := d'.start }) :
    Emptied d0 d' := by rw [e]; exact h

/-! ## POR (R58, R586) -/

theorem por_resets (s : State) :
    ∃ d, exec .por s = .next { s with dev := d, tickStart := d, applied := [] } ∧
      Emptied s.dev d ∧ (∀ f : Fld, rstOf f.key = .vbat → d.get f = s.dev.get f) ∧
      (∀ f : Fld, rstOf f.key ≠ .vbat → rstOf f.key ≠ .none → ¬ Strap f → d.get f = f.rst) ∧
      d.start = { suppliesValid := false, inPor := true } := by
  have field {f : Fld} (h : ¬ Strap f) : s.dev.porReset.get f = s.dev.erasePor.get f := get_strapped _ h
  refine ⟨s.dev.porReset, rfl, fresh_emptied s.dev s.dev.erasePor.regs, fun f hf => ?_, fun f hv hn hs => ?_, rfl⟩
  · have free : ¬ Strap f := by
      rintro (e | e)
      · exact key_ne_of_rstOf hf rstOf_cdMask (by decide) e
      · exact key_ne_of_rstOf hf rstOf_cfgpRdEn (by decide) e
    rw [field free, get_erasePor_vbat hf]
  · rw [field hs, get_erasePor hv hn]

/-! ## DRST (R58, R59, R60) -/

/-- What DRST leaves, from the pin or from a host command. -/
def Drst (d0 d : Dev) : Prop :=
  Emptied d0 d ∧ (∀ f : Fld, rstOf f.key = .vbat → d.get f = d0.get f) ∧
    (∀ f : Fld, rstOf f.key = .drst ∨ rstOf f.key = .die ∨ rstOf f.key = .core → ¬ Strap f →
      f.key ≠ K.DEV_START_STATUS_STAGE.key → (∀ g ∈ [K.DEV_RESET_CAUSE_PIN, K.DEV_RESET_CAUSE_HOST], f.key ≠ g.key) →
        d.get f = f.rst) ∧
    (∀ f : Fld, rstOf f.key = .por → ¬ Strap f → (∀ g ∈ [K.DEV_RESET_CAUSE_PIN, K.DEV_RESET_CAUSE_HOST], f.key ≠ g.key) →
      d.get f = d0.get f)

/-- A device whose fields, those of the straps, the cause and STAGE apart, are those that DRST leaves. -/
theorem Drst.of_fields {d0 d : Dev} (empty : Emptied d0 d)
    (field : ∀ f : Fld, ¬ Strap f → f.key ≠ K.DEV_START_STATUS_STAGE.key → f.key ≠ K.DEV_RESET_CAUSE_PIN.key →
      f.key ≠ K.DEV_RESET_CAUSE_HOST.key → d.get f = d0.eraseDrst.get f) : Drst d0 d := by
  have strapFree {f : Fld} {a : RstBy} (hf : rstOf f.key = a) (h : a ≠ .drst) : ¬ Strap f := by
    rintro (e | e)
    · exact key_ne_of_rstOf hf rstOf_cdMask h e
    · exact key_ne_of_rstOf hf rstOf_cfgpRdEn h e
  refine ⟨empty, fun f hf => ?_, fun f hf hs hg hc => ?_, fun f hf hs hc => ?_⟩
  · rw [field f (strapFree hf (by decide)) (key_ne_of_rstOf hf rstOf_stage (by decide))
      (key_ne_of_rstOf hf rstOf_pin (by decide)) (key_ne_of_rstOf hf rstOf_host (by decide)),
      get_eraseDrst_kept (.inr hf)]
  · rw [field f hs hg (hc _ (by simp)) (hc _ (by simp)), get_eraseDrst hf]
  · rw [field f hs (key_ne_of_rstOf hf rstOf_stage (by decide)) (hc _ (by simp)) (hc _ (by simp)),
      get_eraseDrst_kept (.inl hf)]

theorem pinReset_drst (d : Dev) : Drst d (d.drst true) := by
  refine .of_fields ((fresh_emptied d d.eraseDrst.regs).of_eq rfl) fun f hs _ hp _ => ?_
  exact (Dev.get_put_ne _ _ hp).trans (get_strapped _ hs)

theorem hostReset_drst (d : Dev) : Drst d (d.drst false) := by
  refine .of_fields ((fresh_emptied d d.eraseDrst.regs).of_eq rfl) fun f hs hg _ hh => ?_
  exact (Dev.get_set_ne _ _ hg).trans ((Dev.get_put_ne _ _ hh).trans (get_strapped _ hs))

theorem pinReset_stage (d : Dev) : (d.drst true).get K.DEV_START_STATUS_STAGE = 0 := by
  have kept : (d.drst true).get K.DEV_START_STATUS_STAGE = d.eraseDrst.get K.DEV_START_STATUS_STAGE :=
    (Dev.get_put_ne _ _ (by decide)).trans (get_strapped _ (by simp [Strap, K.DEV_START_STATUS_STAGE,
      K.DEV_START_CTRL_CD_MASK, K.CFG_CTRL_CFGP_RD_EN]))
  rw [kept, get_eraseDrst (.inl rstOf_stage)]
  rfl

theorem pinReset_start {d : Dev} (h : d.inReset = false) :
    (d.drst true).start = { suppliesValid := true, inPor := false, rstLow := true } := by
  have valid : d.start.suppliesValid = true := by
    simp only [Dev.inReset, Bool.or_eq_false_iff, Bool.not_eq_false'] at h
    exact h.1.1
  have start : (d.drst true).start = { (d.fresh d.eraseDrst.regs).start with rstLow := true } := rfl
  rw [start, fresh_start, valid]

theorem hostReset_start (d : Dev) :
    (d.drst false).start = { suppliesValid := d.start.suppliesValid, inPor := false } :=
  (show (d.drst false).start = (d.fresh d.eraseDrst.regs).start from rfl).trans (fresh_start d _)

/-- Settles O17: a reset of the whole device erases its scopes' fields and begins every unit anew. -/
theorem deviceResets : Obligations.DeviceResets := by
  intro s
  refine ⟨por_resets s, fun up => ?_, fun down => ?_, fun low => gives_of_does rfl ?_, fun due parked => ?_, fun wait => ?_⟩
  · have run : exec .devRstNLow s = .next (s.resets fun d => d.drst true) := by
      change Host.Outcome.next _ = _
      rw [up]; rfl
    exact ⟨s.dev.drst true, run, pinReset_drst s.dev, Dev.get_put_same _ _ _ (by decide), pinReset_start up,
      pinReset_stage s.dev⟩
  · change Host.Outcome.next _ = _
    rw [down]; rfl
  · rw [if_pos low]
    exact ⟨Dev.get_set_same _ _ _, fun f hf => Dev.get_set_ne _ _ (hf _ (by simp)), rfl⟩
  · have run : exec .hostResetTakesEffect s = .next (s.resets fun d => d.drst false) := by
      change Host.Outcome.next _ = _
      rw [due, parked]; rfl
    exact ⟨s.dev.drst false, run, hostReset_drst s.dev,
      (Dev.get_set_ne _ _ (by decide)).trans (Dev.get_put_same _ _ _ (by decide)), Dev.get_set_same _ _ _,
      hostReset_start s.dev⟩
  · change Host.Outcome.next _ = _
    rcases wait with h | h <;> simp [h]

end Sys2Proof.Slice0
end

section
/-! SUPPORT and CERTIFICATE. From the hub supplies to SENTRY_WAIT (R35, R38, R42, R66, R68, R72, R85). -/

open Sys2Proof Sys2Proof.Machine

namespace Sys2Proof.Machine

/-! ## The flash where no sector is undefined (R436 to R438) -/

/-- Bytes of sectors that are all defined are those of the flash. -/
theorem Dev.flashAt_sure {d : Dev} (h : d.flc.unsure = []) (o : Nat) : d.flashAt o = tblGet 0xFF d.flash o := by
  simp [Dev.flashAt, h]

/-- Two devices with the same flash and no undefined sector. -/
structure SameFlash (d d' : Dev) : Prop where
  sure : d.flc.unsure = []
  sure' : d'.flc.unsure = []
  flash : d'.flash = d.flash

section
variable {d d' : Dev} (h : SameFlash d d')
include h

theorem SameFlash.bytes (o n : Nat) : d'.flashBytes o n = d.flashBytes o n := by
  simp only [Dev.flashBytes, Dev.flashAt_sure h.sure, Dev.flashAt_sure h.sure', h.flash]

theorem SameFlash.num (o n : Nat) : d'.flashNum o n = d.flashNum o n := by
  simp only [Dev.flashNum, h.bytes]

theorem SameFlash.valid (s c : Nat) : d'.copyValid s c = d.copyValid s c := by
  simp only [Dev.copyValid, h.num, h.bytes]

end

/-- The selected copy of a store is a valid one. -/
theorem Dev.copyValid_of_select {d : Dev} {s c : Nat} (h : d.copySelect s = some c) : d.copyValid s c = true := by
  unfold Dev.copySelect at h
  split at h
  next => cases h
  next a _ => cases h; exact a
  next _ b => cases h; exact b
  next a b =>
    split at h
    · cases h; exact b
    · split at h
      · cases h; exact a
      · split at h <;> cases h <;> assumption

/-- A reader selects copy A or copy B. -/
theorem Dev.copySelect_lt {d : Dev} {s c : Nat} (h : d.copySelect s = some c) : c < 2 := by
  unfold Dev.copySelect at h
  repeat' split at h
  all_goals cases h <;> decide

/-! ## A class B record (R553, R561) -/

/-- The loss counter of class B. -/
def lostB : List Fld := [K.EVL_B_LOST_LO_COUNT_LO, K.EVL_B_LOST_HI_COUNT_HI, K.EVL_B_LOST_HI_OVF]

theorem Dev.get_lose_b (d : Dev) (t : Nat) {f : Fld} (h : ∀ g ∈ lostB, f.key ≠ g.key) : (d.lose 2 t).get f = d.get f := by
  have lo := h K.EVL_B_LOST_LO_COUNT_LO (by simp [lostB])
  have hi := h K.EVL_B_LOST_HI_COUNT_HI (by simp [lostB])
  have ovf := h K.EVL_B_LOST_HI_OVF (by simp [lostB])
  simp only [Dev.lose, if_true, Dev.count48]
  split
  · exact Dev.get_set2_ne d _ lo hi
  · exact (Dev.get_put_ne _ true ovf).trans (Dev.get_set2_ne d _ lo hi)

theorem Dev.get_post_b (d : Dev) {r : Rec} (hr : r.cls = 2) {f : Fld} (h : ∀ g ∈ lostB, f.key ≠ g.key) :
    (d.post r).get f = d.get f := by
  simp only [Dev.post, hr, show ¬ 2 = 1 by decide, show ¬ 2 = 3 by decide, if_false, decide_false, Bool.false_and,
    Bool.false_eq_true]
  split
  · rfl
  · exact Dev.get_lose_b d _ h

theorem Dev.get_logB_ne (d : Dev) (ty unit data : Nat) (site : Option Nat) {f : Fld} (h : ∀ g ∈ lostB, f.key ≠ g.key) :
    (d.logB ty unit data site).get f = d.get f := Dev.get_post_b d rfl h

theorem Dev.post_flc (d : Dev) (r : Rec) : (d.post r).flc = d.flc := by
  simp only [Dev.post, Dev.lose, Dev.count48, Dev.set2, apply_ite Dev.flc, Dev.set, Dev.put, ite_self]

theorem Dev.flc_put (d : Dev) (f : Fld) (b : Bool) : (d.put f b).flc = d.flc := rfl

theorem Dev.logB_flc (d : Dev) (ty unit data : Nat) (site : Option Nat) : (d.logB ty unit data site).flc = d.flc :=
  d.post_flc _

end Sys2Proof.Machine

namespace Sys2Proof.Slice0

/-! ## The supplies, power-on reset and the self-check (R35, R38, R42) -/

theorem suppliesValid_set (d : Dev) (h : d.start.suppliesValid = true) :
    d = { d with start := { d.start with suppliesValid := true } } := by rw [← h]

theorem inStage_one {d : Dev} (up : d.inReset = false) (stage : d.get K.DEV_START_STATUS_STAGE = 1)
    (ok : d.get K.DEV_START_STATUS_FAIL = 0) (mode : d.get K.DEV_MODE_MODE = 0) : d.inStage 1 = true := by
  simp [Dev.inStage, up, Dev.stage, stage, Dev.startFailed, Dev.on, ok, modeIn_of_mode mode, mdSentry]

/-- A failed self-check is failure 0x01 of the hub die, in Safe. -/
theorem selfTestFails_shown (d : Dev) :
    d.selfTestFails.get K.DEV_START_STATUS_FAIL = 1 ∧ d.selfTestFails.get K.DEV_START_STATUS_FAIL_CODE = 1 ∧
    d.selfTestFails.get K.DEV_START_STATUS_FAIL_DIE = 5 ∧ d.selfTestFails.get K.DEV_MODE_MODE = 5 ∧
    d.selfTestFails.get K.DEV_MODE_SAFE_CAUSE = 5 ∧ d.selfTestFails.start.selfTestFail = true := by
  let noted : Dev := (d.failShown 0x01 5).modStart fun x => { x with selfTestFail := true }
  have eq : d.selfTestFails = noted.enterSafe 5 false true := rfl
  have field {f : Fld} (hf : CtrlKey f.key) (he : ¬ EntryKey f.key) : d.selfTestFails.get f = (d.failShown 1 5).get f :=
    eq ▸ noted.get_enterSafe 5 false true hf he
  have entry {f : Fld} (h : f.key ≠ K.DEV_MODE_MODE.key) (h' : f.key ≠ K.DEV_MODE_SAFE_CAUSE.key)
      (h'' : f.key ≠ K.DEV_START_STATUS_START_DONE.key) (lo : f.key < 32992) : ¬ EntryKey f.key := by
    simp only [EntryKey, SiteKey, not_or, not_exists, not_and]
    refine ⟨⟨h, fun s _ e => ?_⟩, h', h''⟩
    simp only [K.SITE_SITE_STATE] at e; omega
  obtain ⟨mode, why, -, -, -, -⟩ := noted.enterSafe_entered (cause := 5) false true (by decide)
  refine ⟨?_, ?_, ?_, eq ▸ mode, eq ▸ why, ?_⟩
  · rw [field (by simp [CtrlKey, K.DEV_START_STATUS_FAIL]) (entry (by decide) (by decide) (by decide) (by decide)),
      Dev.failShown_fail]
  · rw [field (by simp [CtrlKey, K.DEV_START_STATUS_FAIL_CODE]) (entry (by decide) (by decide) (by decide) (by decide)),
      Dev.failShown_code _ _ (by decide)]
  · rw [field (by simp [CtrlKey, K.DEV_START_STATUS_FAIL_DIE]) (entry (by decide) (by decide) (by decide) (by decide)),
      Dev.failShown_die _ _ (by decide)]
  · rw [eq, Dev.enterSafe_start]; rfl

/-! ## The image is loaded (R66, R85, R86) -/

/-- The fields that the load of an image may write. -/
def loadFields : List Fld :=
  [K.SNT_STATUS_SLOT_A_VALID, K.SNT_STATUS_SLOT_B_VALID, K.SNT_STATUS_SEQ_CONFLICT, K.DEV_START_STATUS_IF_DEFAULT,
    K.EVL_B_LOST_LO_COUNT_LO, K.EVL_B_LOST_HI_COUNT_HI, K.EVL_B_LOST_HI_OVF]

/-- The two slots' validity, as the selection shows it. -/
def slotsShown (d : Dev) : Dev :=
  (d.put K.SNT_STATUS_SLOT_A_VALID (d.copyValid 0 0)).put K.SNT_STATUS_SLOT_B_VALID (d.copyValid 0 1)

/-- The selection shows both slots' validity; a conflict sets its bit and makes a record besides. -/
theorem slotSelect_eq (d : Dev) : ∃ x : Dev, d.slotSelect = (x.flashDone, d.copySelect 0) ∧
    (x = slotsShown d ∨ ∃ seq, x = ((slotsShown d).put K.SNT_STATUS_SEQ_CONFLICT true).logB 0x11A blkSNT seq) := by
  refine ⟨_, rfl, ?_⟩
  split
  · exact .inr ⟨_, rfl⟩
  · exact .inl rfl

/-- What the selection of a slot leaves. -/
structure Selected (d x : Dev) : Prop where
  valid : x.on K.SNT_STATUS_SLOT_A_VALID = d.copyValid 0 0 ∧ x.on K.SNT_STATUS_SLOT_B_VALID = d.copyValid 0 1
  get : ∀ f : Fld, (∀ g ∈ loadFields, f.key ≠ g.key) → x.get f = d.get f
  snt : x.snt = d.snt
  memPart : x.memPart = d.memPart
  flc : x.flc = d.flc

theorem slotsShown_selected (d : Dev) : Selected d (slotsShown d) := by
  refine ⟨⟨?_, Dev.on_put_same _ _ _ (by decide)⟩, fun f hf => ?_, rfl, rfl, rfl⟩
  · exact (Dev.on_congr (Dev.get_put_ne _ _ (by decide))).trans (Dev.on_put_same _ _ _ (by decide))
  · exact (Dev.get_put_ne _ _ (hf _ (by simp [loadFields]))).trans (Dev.get_put_ne _ _ (hf _ (by simp [loadFields])))

theorem conflict_selected (d : Dev) (seq : Nat) :
    Selected d (((slotsShown d).put K.SNT_STATUS_SEQ_CONFLICT true).logB 0x11A blkSNT seq) := by
  obtain ⟨⟨a, b⟩, get, snt, mem, flc⟩ := slotsShown_selected d
  have kept {f : Fld} (h : ∀ g ∈ lostB, f.key ≠ g.key) (h' : f.key ≠ K.SNT_STATUS_SEQ_CONFLICT.key) :
      (((slotsShown d).put K.SNT_STATUS_SEQ_CONFLICT true).logB 0x11A blkSNT seq).get f = (slotsShown d).get f :=
    (Dev.get_logB_ne _ _ _ _ _ h).trans (Dev.get_put_ne _ _ h')
  refine ⟨⟨(Dev.on_congr (kept (by decide) (by decide))).trans a, (Dev.on_congr (kept (by decide) (by decide))).trans b⟩,
    fun f hf => (kept (fun g hg => hf g ?_) (hf _ (by simp [loadFields]))).trans (get f hf), ?_, ?_, ?_⟩
  · simp only [lostB, List.mem_cons, List.not_mem_nil, or_false] at hg
    rcases hg with rfl | rfl | rfl <;> simp [loadFields]
  · exact (Dev.snt_of_ctrl (Dev.logB_ctrl _ _ _ _ _)).trans ((Dev.snt_put _ _ _).trans snt)
  · exact (Dev.logB_memPart _ _ _ _ _).trans ((Dev.put_memPart _ _ _).trans mem)
  · exact (Dev.logB_flc _ _ _ _ _).trans ((Dev.flc_put _ _ _).trans flc)

/-- The loaded image of a device whose selection is `sel`. -/
def selectedSrc : Option Nat → ImgSrc
  | some 0 => .slotA
  | some _ => .slotB
  | none => .romDefault

/-- The image is that of the selected slot, or the ROM default image. -/
theorem imageLoad_eq (d : Dev) (sure : d.flc.unsure = []) : ∃ x : Dev, Selected d x ∧
    (d.copySelect 0 = none ∧ d.imageLoad = x.flashDone.defaultLoad ∨
      ∃ c, d.copySelect 0 = some c ∧ d.imageLoad = x.flashDone.flashDone.modSnt fun y => { y with loaded := slotSrc c }) := by
  obtain ⟨x, eq, shown⟩ := slotSelect_eq d
  have sel : Selected d x := by
    rcases shown with rfl | ⟨seq, rfl⟩
    · exact slotsShown_selected d
    · exact conflict_selected d seq
  refine ⟨x, sel, ?_⟩
  cases h : d.copySelect 0 with
  | none => exact .inl ⟨rfl, by simp only [Dev.imageLoad, eq, h]⟩
  | some c =>
    have same : SameFlash d x.flashDone := ⟨sure, by rw [← sure, ← sel.flc]; rfl, congrArg MemPart.flash sel.memPart⟩
    have valid : x.flashDone.copyValid 0 c = true := (same.valid 0 c).trans (Dev.copyValid_of_select h)
    exact .inr ⟨c, rfl, by simp only [Dev.imageLoad, eq, h, Dev.slotLoad, valid, if_true]⟩

theorem slotSrc_eq {c : Nat} (h : c < 2) : slotSrc c = selectedSrc (some c) := by
  obtain rfl | rfl : c = 0 ∨ c = 1 := by omega
  · rfl
  · rfl

theorem imageLoad_loads (d : Dev) (sure : d.flc.unsure = []) :
    d.imageLoad.snt = { d.snt with loaded := selectedSrc (d.copySelect 0) } ∧
    d.imageLoad.on K.SNT_STATUS_SLOT_A_VALID = d.copyValid 0 0 ∧
    d.imageLoad.on K.SNT_STATUS_SLOT_B_VALID = d.copyValid 0 1 ∧
    (d.copySelect 0 = none → d.imageLoad.get K.DEV_START_STATUS_IF_DEFAULT = 1) ∧
    FieldsKept d d.imageLoad loadFields ∧ BytesKept d d.imageLoad := by
  obtain ⟨x, ⟨⟨a, b⟩, get, snt, mem, -⟩, ⟨h, eq⟩ | ⟨c, h, eq⟩⟩ := imageLoad_eq d sure
  · have field {f : Fld} (hf : f.key ≠ K.DEV_START_STATUS_IF_DEFAULT.key) : x.flashDone.defaultLoad.get f = x.get f :=
      Dev.get_put_ne x.flashDone true hf
    rw [eq, h]
    refine ⟨by rw [← snt]; rfl, (Dev.on_congr (field (by decide))).trans a, (Dev.on_congr (field (by decide))).trans b,
      fun _ => Dev.get_put_same _ _ true (by decide), fun f hf => (field (hf _ (by simp [loadFields]))).trans (get f hf),
      fun o => (Dev.memGet_congr mem o : x.memGet o = d.memGet o)⟩
  · rw [eq, h]
    exact ⟨by rw [← snt, ← slotSrc_eq (Dev.copySelect_lt h)]; rfl, a, b, nofun, get,
      fun o => (Dev.memGet_congr mem o : x.memGet o = d.memGet o)⟩

/-! ## The image starts (R68, R72) -/

theorem romDefault_starts (d : Dev) (out : ImgOut) (h : d.snt.loaded = .romDefault) :
    (d.imageStarts out).snt.running = .romDefault ∧ (d.imageStarts out).snt.pinClaim = 0 ∧
    (d.imageStarts out).snt.holdMask = 0 ∧ (d.imageStarts out).snt.portClaim = 0 ∧
    (d.imageStarts out).get K.DEV_START_STATUS_IF_DEFAULT = 1 ∧
    FieldsKept d (d.imageStarts out) [K.DEV_START_STATUS_IF_DEFAULT] ∧
    d.imageStarts out = { d with regs := (d.imageStarts out).regs, snt := (d.imageStarts out).snt } := by
  simp only [Dev.imageStarts, h, ImgSrc.slot, Bool.false_eq_true, if_false]
  exact ⟨rfl, rfl, rfl, rfl, Dev.get_put_same _ _ true (by decide), fun f hf => Dev.get_put_ne _ true (hf _ (by simp)), rfl⟩

theorem slotB_starts (d : Dev) (out : ImgOut) (h : d.snt.loaded = .slotB) (trip : out.trip = false)
    (sys : out.sysReq = false) :
    (d.imageStarts out).snt.running = .slotB ∧ (d.imageStarts out).get K.DEV_START_STATUS_IF_DEFAULT = 0 ∧
    (d.imageStarts out).get K.SNT_STATUS_ACTIVE_SLOT = 1 ∧
    (d.imageStarts out).snt.pinClaim = d.flashNum (copyBase 0 1 + 0x18) 8 ∧
    (d.imageStarts out).snt.holdMask = d.flashNum (copyBase 0 1 + 0x20) 8 ∧
    (d.imageStarts out).snt.portClaim = d.flashNum (copyBase 0 1 + 0x28) 1 % 16 ∧
    FieldsKept d (d.imageStarts out) [K.DEV_START_STATUS_IF_DEFAULT, K.SNT_STATUS_ACTIVE_SLOT] ∧
    d.imageStarts out = { d with regs := (d.imageStarts out).regs, snt := (d.imageStarts out).snt } := by
  simp only [Dev.imageStarts, h, ImgSrc.slot, trip, sys, Bool.false_eq_true, if_false]
  exact ⟨rfl, Dev.get_put_same _ _ false (by decide),
    (Dev.get_put_ne _ _ (by decide)).trans (Dev.get_put_same _ _ true (by decide)), rfl, rfl, rfl,
    fun f hf => (Dev.get_put_ne _ _ (hf _ (by simp))).trans (Dev.get_put_ne _ _ (hf _ (by simp))), rfl⟩

/-- The conditions of IMAGE_START at the end of IF_LOAD: SENTRY_WAIT begins and the image starts. -/
theorem imageStart_given {s : State} {out : ImgOut} {P : Dev → Prop} (up : s.dev.inReset = false)
    (stage : s.dev.get K.DEV_START_STATUS_STAGE = 1) (ok : s.dev.get K.DEV_START_STATUS_FAIL = 0)
    (idle : s.dev.snt.running = .none) (loaded : s.dev.snt.loaded ≠ .none)
    (hp : P ((s.dev.setStage 2).imageStarts out)) : Gives (.imageStart out) s P := by
  refine gives_of_does rfl ?_
  simpa [up, Dev.stage, stage, Dev.startFailed, Dev.on, ok, idle, loaded] using hp

/-- Settles O15: the boot's commands in turn, each with the device that it leaves. -/
theorem bootToSentryWait : Obligations.BootToSentryWait := by
  intro s out
  refine ⟨gives_of_does rfl ?_, fun valid por => gives_of_does rfl ?_, gives_of_does rfl ?_, fun up stage ok =>
    ⟨fun mode => gives_of_does rfl ?_, fun none sure => gives_of_does rfl ?_, fun idle rom => ?_,
      fun idle slot trip sys => ?_⟩⟩
  · split
    next h => exact suppliesValid_set s.dev h
    next => rfl
  · rw [if_pos (by simp [valid, por])]
    exact ⟨Dev.get_set_same _ _ _, fun f hf => Dev.get_set_ne _ _ (hf _ (by simp)), rfl⟩
  · simp
  · rw [if_pos (by simp [inStage_one up stage ok mode])]
    exact selfTestFails_shown s.dev
  · rw [if_pos (by simp [up, Dev.stage, stage, Dev.startFailed, Dev.on, ok, none])]
    exact imageLoad_loads s.dev sure
  · refine imageStart_given up stage ok idle (by simp [rom]) ?_
    obtain ⟨run, pins, holds, ports, default', kept, eq⟩ := romDefault_starts (s.dev.setStage 2) out rom
    refine ⟨run, pins, holds, ports, (kept _ (by decide)).trans (Dev.get_set_same _ _ _), default', fun f hf => ?_, eq⟩
    exact (kept f fun g hg => hf g (List.mem_cons_of_mem _ hg)).trans (Dev.get_set_ne _ _ (hf _ (by simp)))
  · refine imageStart_given up stage ok idle (by simp [slot]) ?_
    obtain ⟨run, default', active, pins, holds, ports, kept, eq⟩ := slotB_starts (s.dev.setStage 2) out slot trip sys
    refine ⟨run, (kept _ (by decide)).trans (Dev.get_set_same _ _ _), default', active, pins, holds, ports,
      fun f hf => ?_, eq⟩
    exact (kept f fun g hg => hf g (List.mem_cons_of_mem _ hg)).trans (Dev.get_set_ne _ _ (hf _ (by simp)))

end Sys2Proof.Slice0
end

section
/-! SUPPORT. The work of the stages of the start (R36, R38, R245, R402, R447, R450): where a stage stops, and what its
units' work leaves of the control part. -/

namespace Sys2Proof.Machine

/-! ## Stages (R36, R38) -/

theorem Dev.stage_of_inStage {d : Dev} {st : Nat} (h : d.inStage st = true) : d.stage = st := by
  simp only [Dev.inStage, Bool.and_eq_true, beq_iff_eq] at h
  exact h.1.1.2

/-- A stage goes on while its work is not done. -/
theorem Dev.stageCheck_stops {d : Dev} (h : d.stageWorkDone = false) (fuel : Nat) : Dev.stageCheck fuel d = d := by
  cases fuel with
  | zero => rfl
  | succ n => simp [Dev.stageCheck, h]

/-- A stage whose work is done ends, and the next begins. -/
theorem Dev.stageCheck_ends {d : Dev} {st : Nat} (h : d.inStage st = true) (w : d.stageWorkDone = true) (fuel : Nat) :
    Dev.stageCheck (fuel + 1) d = Dev.stageCheck fuel (d.stageBegins (st + 1)) := by
  have stage := Dev.stage_of_inStage h
  rw [Dev.stageCheck, if_pos (by rw [stage, h, w]; rfl), stage]

/-- Work of a stage that leaves more to do is the stage's new state. -/
theorem Dev.stageWork_stops {d : Dev} {st : Nat} {f : Dev → Dev} (h : d.inStage st = true)
    (w : (f d).stageWorkDone = false) : d.stageWork st f = f d := by
  rw [Dev.stageWork, if_pos h, Dev.stageCheck_stops w]

theorem Dev.inStage_congr {d d' : Dev} (hs : d'.stage = d.stage) (hf : d'.startFailed = d.startFailed)
    (hm : d'.mode = d.mode) (hr : d'.inReset = d.inReset) (st : Nat) : d'.inStage st = d.inStage st := by
  simp only [Dev.inStage, Dev.modeIn, hs, hf, hm, hr]

/-- A stage is shown by the control part. -/
theorem Dev.inStage_of_ctrl {d d' : Dev} (h : d'.ctrl = d.ctrl) (st : Nat) : d'.inStage st = d.inStage st := by
  refine Dev.inStage_congr (Dev.get_of_ctrl h (by simp [CtrlKey, K.DEV_START_STATUS_STAGE]))
    (Dev.on_congr (Dev.get_of_ctrl h (by simp [CtrlKey, K.DEV_START_STATUS_FAIL])))
    (Dev.get_of_ctrl h (by simp [CtrlKey, K.DEV_MODE_MODE])) ?_ st
  rw [Dev.inReset, Dev.start_of_ctrl h]
  rfl

theorem Dev.activeDies_congr {d d' : Dev} (ha : d'.start.active = d.start.active) (hf : d'.fuses = d.fuses) :
    d'.activeDies = d.activeDies := by
  rw [Dev.activeDies, Dev.activeDies, Dev.dies_of_fuses hf, ha]

/-- A die whose work is missing keeps the stage in progress. -/
theorem Dev.allIn_eq_false {d : Dev} {m : Nat} (h : ∃ k ∈ d.activeDies, bitAt m k = false) : d.allIn m = false := by
  obtain ⟨k, hk, hb⟩ := h
  rw [Dev.allIn, List.all_eq_false]
  exact ⟨k, hk, by simp [hb]⟩

section
variable {d : Dev}

theorem Dev.bdWork_undone (h : d.stage = 4) (w : (d.start.bdBist && d.start.hbmTrained && d.start.hubTrained) = false) :
    d.stageWorkDone = false := by rw [Dev.stageWorkDone, h]; exact w

theorem Dev.cdWork_undone (h : d.stage = 5) (w : (∃ k ∈ d.activeDies, bitAt d.start.cdBist k = false) ∨
    ∃ k ∈ d.activeDies, bitAt d.start.cdTrained k = false) : d.stageWorkDone = false := by
  rw [Dev.stageWorkDone, h]
  rcases w with w | w <;> simp [Dev.allIn_eq_false w]

theorem Dev.pllWork_undone (h : d.stage = 8) (w : ∃ k ∈ d.activeDies, bitAt d.start.pllDone k = false) :
    d.stageWorkDone = false := by rw [Dev.stageWorkDone, h]; exact Dev.allIn_eq_false w

theorem Dev.calWork_undone (h : d.stage = 9) (w : ∃ k ∈ d.activeDies, bitAt d.start.calDone k = false) :
    d.stageWorkDone = false := by rw [Dev.stageWorkDone, h]; exact Dev.allIn_eq_false w

theorem Dev.deskew_undone (h : d.stage = 10) (w : ∃ k ∈ d.activeDies, d.deskewOver k = false) :
    d.stageWorkDone = false := by
  obtain ⟨k, hk, hb⟩ := w
  rw [Dev.stageWorkDone, h]
  exact List.all_eq_false.mpr ⟨k, hk, by simp [hb]⟩

/-- LOAD ends by a command. -/
theorem Dev.loadWork_undone (h : d.stage = 6) : d.stageWorkDone = false := by simp only [Dev.stageWorkDone, h]

end

/-- A bit of a mask field of four bits that was written. -/
theorem Dev.bitOf_putBit (d : Dev) {f : Fld} {n : Nat} (b : Bool) (h : n < f.width) : (d.putBit f n b).bitOf f n = b := by
  rw [Dev.bitOf, Dev.putBit, Dev.get_set_same, bitAt_mod_two_pow h, bitAt_putBitAt, if_pos rfl]

/-! ## The links' training (R362, R363, R379) -/

/-- The port of a wide link shows its spares. -/
def Dev.portShown (d : Dev) (l : Nat) (p : Nat × (Nat × Nat)) : Dev :=
  ((d.set (K.D2D_PORT_TX_SPARES l p.1) p.2.1).set (K.D2D_PORT_RX_SPARES l p.1) p.2.2).put (K.D2D_PORT_UP l p.1) true

/-- What a port of a wide link shows. -/
def PortShows (d : Dev) (l p : Nat) (v : Nat × Nat) : Prop :=
  d.get (K.D2D_PORT_UP l p) = 1 ∧ d.get (K.D2D_PORT_TX_SPARES l p) = v.1 ∧ d.get (K.D2D_PORT_RX_SPARES l p) = v.2

theorem Dev.portShown_shows (d : Dev) (l p : Nat) {v : Nat × Nat} (h : v.1 ≤ 16 ∧ v.2 ≤ 16) :
    PortShows (d.portShown l (p, v)) l p v := by
  have tx : v.1 < 2 ^ 5 := by omega
  have rx : v.2 < 2 ^ 5 := by omega
  refine ⟨Dev.get_put_same _ _ _ (by simp [K.D2D_PORT_UP]), ?_, ?_⟩
  · exact (Dev.get_put_ne _ _ (by simp only [K.D2D_PORT_TX_SPARES, K.D2D_PORT_UP]; omega)).trans
      ((Dev.get_set_ne _ _ (by simp only [K.D2D_PORT_TX_SPARES, K.D2D_PORT_RX_SPARES]; omega)).trans
        (Dev.get_set_lt _ _ tx))
  · exact (Dev.get_put_ne _ _ (by simp only [K.D2D_PORT_RX_SPARES, K.D2D_PORT_UP]; omega)).trans (Dev.get_set_lt _ _ rx)

/-- The words of other ports keep their values. -/
theorem Dev.get_portShown (d : Dev) (l : Nat) (p : Nat × (Nat × Nat)) {f : Fld}
    (h : f.key / 32 ≠ (K.D2D_PORT_TX_SPARES l p.1).key / 32) : (d.portShown l p).get f = d.get f := by
  simp only [K.D2D_PORT_TX_SPARES] at h
  unfold Dev.portShown
  rw [Dev.get_put_ne, Dev.get_set_ne, Dev.get_set_ne] <;>
    simp only [K.D2D_PORT_TX_SPARES, K.D2D_PORT_RX_SPARES, K.D2D_PORT_UP] <;> omega

theorem PortShows.portShown {d : Dev} {l p : Nat} {v : Nat × Nat} (h : PortShows d l p v) (q : Nat × (Nat × Nat))
    (ne : q.1 ≠ p) : PortShows (d.portShown l q) l p v := by
  obtain ⟨up, tx, rx⟩ := h
  refine ⟨?_, ?_, ?_⟩
  · rwa [Dev.get_portShown]
    simp only [K.D2D_PORT_TX_SPARES, K.D2D_PORT_UP]; omega
  · rwa [Dev.get_portShown]
    simp only [K.D2D_PORT_TX_SPARES]; omega
  · rwa [Dev.get_portShown]
    simp only [K.D2D_PORT_TX_SPARES, K.D2D_PORT_RX_SPARES]; omega

/-- Every port of the list shows its spares, where no port stands twice. -/
theorem Dev.ports_show (d : Dev) (l : Nat) (ps : List (Nat × (Nat × Nat))) (nodup : (ps.map (·.1)).Nodup)
    (fit : ∀ p ∈ ps, p.2.1 ≤ 16 ∧ p.2.2 ≤ 16) :
    ∀ p ∈ ps, PortShows (d.each ps fun d p => d.portShown l p) l p.1 p.2 := by
  have later (x : Dev) (q : Nat × (Nat × Nat)) (qs : List (Nat × (Nat × Nat))) (hq : q.1 ∉ qs.map (·.1))
      (h : PortShows x l q.1 q.2) : PortShows (x.each qs fun d p => d.portShown l p) l q.1 q.2 := by
    unfold Dev.each
    induction qs generalizing x with
    | nil => exact h
    | cons r qs ih =>
      simp only [List.map_cons, List.mem_cons, not_or] at hq
      exact ih (x.portShown l r) hq.2 (h.portShown r (Ne.symm hq.1))
  induction ps generalizing d with
  | nil => intro p hp; cases hp
  | cons q ps ih =>
    obtain ⟨notin, rest⟩ := List.nodup_cons.mp nodup
    intro p hp
    rcases List.mem_cons.mp hp with rfl | hp
    · exact later _ p ps notin (d.portShown_shows l p.1 (fit p (by simp)))
    · exact ih (d.portShown l q) rest (fun r hr => fit r (List.mem_cons_of_mem q hr)) p hp

/-- The device once the ports of die `l`'s wide link show their spares, link by link. -/
theorem Dev.linkTrained_wide (d : Dev) {l : Nat} (hl : l < 4) (spares : List (Nat × Nat)) :
    d.linkTrained l spares = ((((d.freshDirs l).each ((List.range 8).zip spares) fun d p => d.portShown l p).put
      (K.D2D_STATUS_UP l) true).putBit K.NOP_STATUS_CD_UP l true).modLink l fun k => { k with down := none, since := none } := by
  unfold Dev.linkTrained
  simp only [if_pos hl]
  rfl

theorem Dev.linkTrained_hub (d : Dev) (tx rx : Nat) : d.linkTrained 4 [(tx, rx)] =
    ((((d.freshDirs 4).set K.NOP_HUB_LANES_TX_SPARES tx).set K.NOP_HUB_LANES_RX_SPARES rx).put K.NOP_STATUS_BD_UP
      true).modLink 4 fun k => { k with down := none, since := none } := rfl

/-- A trained wide link shows itself and its ports. -/
theorem Dev.linkTrained_shows (d : Dev) {l : Nat} (hl : l < 4) {spares : List (Nat × Nat)} (h : sparesFit l spares = true) :
    (d.linkTrained l spares).get (K.D2D_STATUS_UP l) = 1 ∧ (d.linkTrained l spares).bitOf K.NOP_STATUS_CD_UP l = true ∧
      ∀ p, p < 8 → PortShows (d.linkTrained l spares) l p (spares.getD p (0, 0)) := by
  simp only [sparesFit, hl, if_true, Bool.and_eq_true, beq_iff_eq, List.all_eq_true, decide_eq_true_eq] at h
  obtain ⟨len, fit⟩ := h
  rw [d.linkTrained_wide hl]
  refine ⟨?_, Dev.bitOf_putBit _ true (by simp only [K.NOP_STATUS_CD_UP]; omega), fun p hp => ?_⟩
  · exact (Dev.get_putBit_ne _ _ _ (by simp only [K.D2D_STATUS_UP, K.NOP_STATUS_CD_UP]; omega)).trans
      (Dev.get_put_same _ _ _ (by simp [K.D2D_STATUS_UP]))
  · have nodup : (((List.range 8).zip spares).map (·.1)).Nodup := by
      rw [List.map_fst_zip (by simp [len])]
      exact List.nodup_range
    have mem : (p, spares.getD p (0, 0)) ∈ (List.range 8).zip spares := by
      refine List.mem_iff_getElem.mpr ⟨p, by simp [len, hp], ?_⟩
      simp [List.getD_eq_getElem?_getD, List.getElem?_eq_getElem (show p < spares.length by omega)]
    obtain ⟨up, tx, rx⟩ := (d.freshDirs l).ports_show l _ nodup
      (fun q hq => fit q.2 (List.of_mem_zip hq).2) _ mem
    have outside (x : Dev) {f : Fld} (h : f.key ≠ (K.D2D_STATUS_UP l).key) (h' : f.key ≠ K.NOP_STATUS_CD_UP.key) :
        (((x.put (K.D2D_STATUS_UP l) true).putBit K.NOP_STATUS_CD_UP l true).modLink l fun k =>
          { k with down := none, since := none }).get f = x.get f :=
      (Dev.get_putBit_ne _ _ _ h').trans (Dev.get_put_ne _ _ h)
    refine ⟨?_, ?_, ?_⟩
    · rw [outside, up] <;> simp only [K.D2D_PORT_UP, K.D2D_STATUS_UP, K.NOP_STATUS_CD_UP] <;> omega
    · rw [outside, tx] <;> simp only [K.D2D_PORT_TX_SPARES, K.D2D_STATUS_UP, K.NOP_STATUS_CD_UP] <;> omega
    · rw [outside, rx] <;> simp only [K.D2D_PORT_RX_SPARES, K.D2D_STATUS_UP, K.NOP_STATUS_CD_UP] <;> omega

/-! ## The bands and the PLLs (R446, R447, R450) -/

theorem Dev.get_wordPut (d : Dev) {a : Nat} (w : Nat) {f : Fld} (h : f.key < 8 * a) : (d.wordPut a w).get f = d.get f := by
  unfold Dev.wordPut
  split
  · rfl
  · exact Dev.each_keeps (fun d : Dev => d.get f) d _ _ fun d g => Dev.get_set_ne _ _ (by simp only [keyAt]; omega)

theorem Dev.wordPut_ctrl (d : Dev) {a : Nat} (w : Nat) (h : 3146144 ≤ 8 * a) : (d.wordPut a w).ctrl = d.ctrl := by
  unfold Dev.wordPut
  split
  · rfl
  · exact Dev.each_keeps Dev.ctrl d _ _ fun d g => Dev.set_ctrl _ _ (by simp only [keyAt, CtrlKey]; omega)

theorem bandAddr_ge (n p e : Nat) : 36179968 ≤ 8 * bandAddr n p e := by
  simp only [bandAddr, K.BAND_F_LO]; omega

/-- What every step of the load of a band table keeps. -/
theorem Dev.bandLoad_keeps {β : Type} (q : Dev → β) (hset : ∀ d n v, q (d.set (K.PLL_STATUS_BAND_SRC n) v) = q d)
    (hword : ∀ (d : Dev) a w, 36179968 ≤ 8 * a → q (d.wordPut a w) = q d) (d : Dev) (copy : Option Nat) (n p : Nat) :
    q (d.bandLoad copy n p) = q d := by
  unfold Dev.bandLoad
  split
  · exact hset _ _ _
  · have words (w : Dev → Nat → Nat) : q (d.each (List.range 32) fun d e =>
        (d.wordPut (bandAddr n p e) (w d e % 2 ^ 32)).wordPut (bandAddr n p e + 4) (w d e / 2 ^ 32 % 2 ^ 32)) = q d :=
      Dev.each_keeps q d _ _ fun d e =>
        (hword _ _ _ (by have := bandAddr_ge n p e; omega)).trans (hword _ _ _ (bandAddr_ge n p e))
    cases copy <;>
    · dsimp only
      split
      · exact words _
      · exact (hset _ _ _).trans (words _)

theorem Dev.bandsLoad_keeps {β : Type} (q : Dev → β) (hset : ∀ d n v, q (d.set (K.PLL_STATUS_BAND_SRC n) v) = q d)
    (hword : ∀ (d : Dev) a w, 36179968 ≤ 8 * a → q (d.wordPut a w) = q d) (d : Dev) : q d.bandsLoad = q d :=
  Dev.each_keeps q d _ _ fun _ n =>
    (Dev.bandLoad_keeps q hset hword _ _ n 1).trans (Dev.bandLoad_keeps q hset hword _ _ n 0)

theorem Dev.bandsLoad_ctrl (d : Dev) : d.bandsLoad.ctrl = d.ctrl :=
  Dev.bandsLoad_keeps Dev.ctrl (fun d _ v => d.set_ctrl v (by simp only [CtrlKey, K.PLL_STATUS_BAND_SRC]; omega))
    (fun d _ w h => d.wordPut_ctrl w (by omega)) d

/-- The load of the bands writes no register below those of the PLLs. -/
theorem Dev.get_bandsLoad (d : Dev) {f : Fld} (h : f.key < 36175872) : d.bandsLoad.get f = d.get f :=
  Dev.bandsLoad_keeps (fun d : Dev => d.get f)
    (fun _ n v => Dev.get_set_ne _ _ (by simp only [K.PLL_STATUS_BAND_SRC]; omega))
    (fun d _ w h' => d.get_wordPut w (by omega)) d

theorem Dev.pllLocks_ctrl (d : Dev) (n p e : Nat) : (d.pllLocks n p e).ctrl = d.ctrl := by
  unfold Dev.pllLocks lockedFld bandFld
  dsimp only
  split <;> simp (disch := (simp only [CtrlKey, K.PLL_STATUS_LOCKED_A, K.PLL_STATUS_LOCKED_B, K.PLL_STATUS_BAND_A,
    K.PLL_STATUS_BAND_B, K.PLL_OFS_OFS]; omega)) only [ctrl_mk, ctrl_fold, Dev.set_ctrl, Dev.put_ctrl]

theorem Dev.get_pllLocks (d : Dev) {n p e : Nat} {f : Fld} (hl : f.key ≠ (lockedFld n p).key)
    (hb : f.key ≠ (bandFld n p).key) (ho : f.key ≠ (K.PLL_OFS_OFS n p).key) : (d.pllLocks n p e).get f = d.get f :=
  (Dev.get_set_ne _ _ ho).trans ((Dev.get_set_ne _ _ hb).trans (Dev.get_put_ne _ _ hl))

theorem Dev.pllLocks_locked (d : Dev) (n p e : Nat) : (d.pllLocks n p e).on (lockedFld n p) = true := by
  have band : (lockedFld n p).key ≠ (bandFld n p).key := by
    unfold lockedFld bandFld
    split <;> simp [K.PLL_STATUS_LOCKED_A, K.PLL_STATUS_LOCKED_B, K.PLL_STATUS_BAND_A, K.PLL_STATUS_BAND_B]
  have ofs : (lockedFld n p).key ≠ (K.PLL_OFS_OFS n p).key := by
    unfold lockedFld
    split <;> simp only [K.PLL_STATUS_LOCKED_A, K.PLL_STATUS_LOCKED_B, K.PLL_OFS_OFS] <;> omega
  have width : 0 < (lockedFld n p).width := by unfold lockedFld; split <;> exact Nat.one_pos
  have kept : (d.pllLocks n p e).get (lockedFld n p) = (d.put (lockedFld n p) true).get (lockedFld n p) :=
    (Dev.get_set_ne _ _ ofs).trans (Dev.get_set_ne _ _ band)
  exact (Dev.on_congr kept).trans (Dev.on_put_same _ _ _ width)

/-- A die's PLLs that lock show it. -/
theorem Dev.diePllsLock_shows {d x : Dev} {n : Nat} (h : d.diePllsLock n = some x) :
    x.on (K.PLL_STATUS_LOCKED_A n) = true ∧ x.on (K.PLL_STATUS_LOCKED_B n) = true ∧ x.ctrl = d.ctrl := by
  unfold Dev.diePllsLock at h
  split at h
  next a b _ _ =>
    cases h
    refine ⟨?_, Dev.pllLocks_locked _ n 1 b, (Dev.pllLocks_ctrl _ _ _ _).trans (Dev.pllLocks_ctrl _ _ _ _)⟩
    have kept : ((d.pllLocks n 0 a).pllLocks n 1 b).get (K.PLL_STATUS_LOCKED_A n) =
        (d.pllLocks n 0 a).get (K.PLL_STATUS_LOCKED_A n) := by
      refine Dev.get_pllLocks _ ?_ ?_ ?_ <;>
        simp only [lockedFld, bandFld, K.PLL_STATUS_LOCKED_A, K.PLL_STATUS_LOCKED_B, K.PLL_STATUS_BAND_B, K.PLL_OFS_OFS,
          Nat.one_ne_zero, if_false] <;> omega
    exact (Dev.on_congr kept).trans (Dev.pllLocks_locked d n 0 a)
  next => cases h

/-! ## Calibration and deskew (R245) -/

theorem calField_notCtrl (n j i : Nat) : ¬ CtrlKey (calField n j i).key := by
  unfold calField
  split <;> simp only [CtrlKey, K.CHAN_CAL_D, K.CHAN_CAL_E, K.CHAN_CAL_QH, K.CHAN_CAL_QL] <;> omega

theorem Dev.setCal_ctrl (d : Dev) (n j : Nat) : (d.setCal n j).ctrl = d.ctrl :=
  Dev.each_keeps Dev.ctrl d _ _ fun d i => d.set_ctrl _ (calField_notCtrl n j i)

theorem Dev.calLoad_ctrl (d : Dev) (n : Nat) (copy : Option Nat) : (d.calLoad n copy).ctrl = d.ctrl :=
  Dev.each_keeps Dev.ctrl d _ _ fun _ j => Dev.setCal_ctrl _ n j

theorem Dev.measureLanes_ctrl (d : Dev) (n j : Nat) (m : List Int) : (d.measureLanes n j m).1.ctrl = d.ctrl := by
  simp (disch := (simp only [CtrlKey, K.CHAN_DSK_REJ, K.CHAN_DSK_BAD, K.CHAN_DSK_COUNT, K.CHAN_DESKEW_COLD]; omega)) only
    [Dev.measureLanes, apply_ite Prod.fst, apply_ite Dev.ctrl, Dev.logAOn_ctrl, Dev.logBOn_ctrl, Dev.put_ctrl,
      Dev.bump_ctrl, Dev.set_ctrl, Dev.setCal_ctrl, ctrl_mk, ctrl_fold, ite_self]

theorem Dev.measureChan_ctrl (d : Dev) (n j : Nat) (m : List Int) : (d.measureChan n j m).1.ctrl = d.ctrl := by
  unfold Dev.measureChan
  split
  next h =>
    simp only [ctrl_mk, ctrl_fold, Dev.measureLanes_ctrl]
    exact Dev.inject_ctrl h
  next => exact d.measureLanes_ctrl n j m

theorem Dev.measureGroup_ctrl (d : Dev) (n g : Nat) (vals : List (List Int)) : (d.measureGroup n g vals).ctrl = d.ctrl := by
  have chans (l : List (Nat × List Int)) (p : Dev × Bool) : (l.foldl (fun (p : Dev × Bool) (v : Nat × List Int) =>
      ((p.1.measureChan n (32 * g + v.1) v.2).1, p.2 || (p.1.measureChan n (32 * g + v.1) v.2).2)) p).1.ctrl =
        p.1.ctrl := by
    induction l generalizing p with
    | nil => rfl
    | cons v l ih => exact (ih _).trans (p.1.measureChan_ctrl _ _ _)
  simp (disch := (simp only [CtrlKey, K.TGN_DSK_STATUS_COLD, K.TGN_DSK_STATUS_BAD, K.TGN_DSK_STATUS_STALE]; omega)) only
    [Dev.measureGroup, Dev.groupBits, apply_ite Dev.ctrl, Dev.putBit_ctrl, ctrl_mk, ctrl_fold, chans, ite_self]

/-! ## The fabrics' start (R402) -/

/-- Of the registers below those of the fabrics the start of a die's fabric writes STARTED alone. -/
theorem Dev.get_fabricStarts (d : Dev) (n : Nat) {f : Fld} (h : f.key < 37225216) :
    (d.fabricStarts n).get f = (d.put (K.CFG_DIE_STATUS_STARTED n) true).get f := by
  have regions (x : Dev) : (x.each (List.range 8) fun d r =>
      if d.get (K.FAB_PR_STATE_STATE n r) = 5 then d.set (K.FAB_PR_STATE_STATE n r) 0 else d).get f = x.get f :=
    Dev.each_keeps (fun d : Dev => d.get f) x _ _ fun d r => by
      split
      · exact Dev.get_set_ne _ _ (by simp only [K.FAB_PR_STATE_STATE]; omega)
      · rfl
  have gold (x : Dev) : (x.each coveredCols fun d c => d.signGold n c.1 c.2).get f = x.get f :=
    Dev.each_keeps (fun d : Dev => d.get f) x _ _ fun _ _ => rfl
  have border (x : Dev) : ({ x with fab := { x.fab with border := tblErase x.fab.border n } } : Dev).get f = x.get f := rfl
  simp only [Dev.fabricStarts, gold, border, regions]

/-- Once a die's fabric has started, the starts of others leave STARTED. -/
theorem Dev.fabricStarts_started (d : Dev) (l : List Nat) {n : Nat} (hn : n < 4)
    (h : n ∈ l ∨ d.get (K.CFG_DIE_STATUS_STARTED n) = 1) :
    (d.each l Dev.fabricStarts).get (K.CFG_DIE_STATUS_STARTED n) = 1 := by
  unfold Dev.each
  induction l generalizing d with
  | nil => simpa using h
  | cons m l ih =>
    rw [List.foldl_cons]
    refine ih (d.fabricStarts m) ?_
    have field := d.get_fabricStarts m (f := K.CFG_DIE_STATUS_STARTED n) (by simp only [K.CFG_DIE_STATUS_STARTED]; omega)
    by_cases e : m = n
    · subst e
      exact .inr (field.trans (Dev.get_put_same _ _ _ (by simp [K.CFG_DIE_STATUS_STARTED])))
    · refine (h.imp (fun mem => ?_) fun one => ?_)
      · exact (List.mem_cons.mp mem).resolve_left (Ne.symm e)
      · rw [field, Dev.get_put_ne _ _ (by simp only [K.CFG_DIE_STATUS_STARTED]; omega), one]

theorem Dev.fabricStarts_ctrl (d : Dev) {n : Nat} (hn : n < 4) : (d.fabricStarts n).ctrl = d.ctrl := by
  have regions (x : Dev) : (x.each (List.range 8) fun d r =>
      if d.get (K.FAB_PR_STATE_STATE n r) = 5 then d.set (K.FAB_PR_STATE_STATE n r) 0 else d).ctrl = x.ctrl :=
    Dev.each_keeps Dev.ctrl x _ _ fun d r => by
      simp (disch := (simp only [CtrlKey, K.FAB_PR_STATE_STATE]; omega)) only [apply_ite Dev.ctrl, Dev.set_ctrl, ite_self]
  have gold (x : Dev) : (x.each coveredCols fun d c => d.signGold n c.1 c.2).ctrl = x.ctrl :=
    Dev.each_keeps Dev.ctrl x _ _ fun _ _ => rfl
  have border (x : Dev) : ({ x with fab := { x.fab with border := tblErase x.fab.border n } } : Dev).ctrl = x.ctrl := rfl
  simp only [Dev.fabricStarts, gold, border, regions]
  refine Dev.put_ctrl _ _ ?_
  simp only [CtrlKey, K.CFG_DIE_STATUS_STARTED]
  omega

end Sys2Proof.Machine
end

section
/-! CERTIFICATE. What completes the stages of the start (R36, R38, R46, R48, R245, R363, R402, R450). -/

open Sys2Proof Sys2Proof.Machine

namespace Sys2Proof.Slice0

/-- Every register field but the listed ones and every byte is kept, and the start-up's state is `st`. -/
def Started (d0 : Dev) (st : Start) (l : List Fld) (d : Dev) : Prop := d.start = st ∧ FieldsKept d0 d l ∧ BytesKept d0 d

/-- A step of the start-up's state alone. -/
theorem started_modStart (d : Dev) (f : Start → Start) : Started d (f d.start) [] (d.modStart f) :=
  ⟨rfl, fun _ _ => rfl, fun _ => rfl⟩

theorem stage_modStart (d : Dev) (f : Start → Start) : (d.modStart f).stage = d.stage := rfl
theorem fuses_modStart (d : Dev) (f : Start → Start) : (d.modStart f).fuses = d.fuses := rfl

theorem bytesKept_modStart {d d' : Dev} (h : BytesKept d d') (f : Start → Start) : BytesKept d (d'.modStart f) := h

/-! ## PWR_CHECK and BD_INIT (R36, R46, R363) -/

/-- BD_INIT as it begins. -/
theorem stageBegins_bdInit (d : Dev) : d.stageBegins 4 =
    ((d.setStage 4).put K.DEV_START_CTRL_START false).modStart fun x => { x with bdReleased := true } := rfl

theorem pwrCheck_completes (s : State) (h : s.dev.inStage 3 = true) (w : s.dev.start.bdBist = false) :
    Gives .pwrCheckComplete s fun d => d.get K.DEV_START_STATUS_STAGE = 4 ∧ d.get K.DEV_START_CTRL_START = 0 ∧
      Started s.dev { s.dev.start with bdReleased := true } [K.DEV_START_STATUS_STAGE, K.DEV_START_CTRL_START] d := by
  have stage : (s.dev.stageBegins 4).get K.DEV_START_STATUS_STAGE = 4 :=
    (Dev.get_put_ne _ _ (by decide)).trans (Dev.get_set_same _ _ _)
  have stops : s.dev.goStage 4 = s.dev.stageBegins 4 :=
    Dev.stageCheck_stops (Dev.bdWork_undone stage (by rw [stageBegins_bdInit]; simp [Dev.modStart, Dev.setStage, w])) 8
  refine gives_of_does rfl ?_
  rw [if_pos h, stops]
  refine ⟨stage, Dev.get_put_same _ _ _ (by decide), rfl, fun f hf => ?_, fun _ => rfl⟩
  exact (Dev.get_put_ne _ _ (hf _ (by simp))).trans (Dev.get_set_ne _ _ (hf _ (by simp)))

theorem bdBist_kept (s : State) (h : s.dev.inStage 4 = true) (w : s.dev.start.hbmTrained = false) :
    Gives (.bdBistDone true true) s (Started s.dev { s.dev.start with bdBist := true } []) := by
  refine gives_of_does rfl ?_
  have stops := Dev.stageWork_stops (f := fun d => d.modStart fun x => { x with bdBist := true }) h
    (Dev.bdWork_undone (Dev.stage_of_inStage h) (by simp [Dev.modStart, w]))
  simp only [h, Bool.not_true, Bool.false_eq_true, if_false, stops]
  exact started_modStart s.dev _

/-- The memories are up. -/
def memoriesUp (d : Dev) : Dev :=
  let d := (d.put K.BAS_MEM_STATUS_SRAM_UP true).put K.BAS_MEM_STATUS_HBM0_UP (d.hbmPresent 0)
  (d.put K.BAS_MEM_STATUS_HBM1_UP (d.hbmPresent 1)).modStart fun x => { x with hbmTrained := true }

theorem hbmTraining_completes (s : State) (h : s.dev.inStage 4 = true) (w : s.dev.start.bdBist = false) :
    Gives (.hbmPhyTrainingDone true) s fun d =>
      d.get K.BAS_MEM_STATUS_SRAM_UP = 1 ∧ d.get K.BAS_MEM_STATUS_HBM0_UP = bit (s.dev.hbmPresent 0) ∧
      d.get K.BAS_MEM_STATUS_HBM1_UP = bit (s.dev.hbmPresent 1) ∧
      Started s.dev { s.dev.start with hbmTrained := true }
        [K.BAS_MEM_STATUS_SRAM_UP, K.BAS_MEM_STATUS_HBM0_UP, K.BAS_MEM_STATUS_HBM1_UP] d := by
  have field {f : Fld} (h0 : f.key ≠ K.BAS_MEM_STATUS_SRAM_UP.key) (h1 : f.key ≠ K.BAS_MEM_STATUS_HBM0_UP.key)
      (h2 : f.key ≠ K.BAS_MEM_STATUS_HBM1_UP.key) : (memoriesUp s.dev).get f = s.dev.get f :=
    (Dev.get_put_ne _ _ h2).trans ((Dev.get_put_ne _ _ h1).trans (Dev.get_put_ne _ _ h0))
  have stops := Dev.stageWork_stops (f := memoriesUp) h (Dev.bdWork_undone
    ((field (by decide) (by decide) (by decide)).trans (Dev.stage_of_inStage h)) (by simp [memoriesUp, Dev.modStart, w]))
  refine gives_of_does (f := fun d => if !d.inStage 4 then d else if !true then d.startFail 0x21 4 else
    d.stageWork 4 memoriesUp) rfl ?_
  simp only [h, Bool.not_true, Bool.false_eq_true, if_false, stops]
  refine ⟨?_, ?_, Dev.get_put_same _ _ _ (by decide), rfl,
    fun f hf => field (hf _ (by simp)) (hf _ (by simp)) (hf _ (by simp)), fun _ => rfl⟩
  · exact (Dev.get_put_ne _ _ (by decide)).trans ((Dev.get_put_ne _ _ (by decide)).trans
      (Dev.get_put_same _ _ true (by decide)))
  · exact (Dev.get_put_ne _ _ (by decide)).trans (Dev.get_put_same _ _ _ (by decide))

/-- The hub link is trained. -/
def hubTrained (tx rx : Nat) (d : Dev) : Dev :=
  let d := (d.linkTrained 4 [(tx, rx)]).put K.DEV_START_STATUS_BD_UP true
  d.modStart fun x => { x with hubTrained := true }

theorem sparesFit_hub_two {tx rx : Nat} (ht : tx ≤ 2) (hr : rx ≤ 2) : sparesFit 4 [(tx, rx)] = true := by
  simp [sparesFit, ht, hr]

theorem hubTraining_completes (s : State) (h : s.dev.inStage 4 = true) (w : s.dev.start.bdBist = false) (tx rx : BitVec 4)
    (ht : tx.toNat ≤ 2) (hr : rx.toNat ≤ 2) :
    Gives (.hubLinkTrainingDone tx rx) s fun d =>
      d.get K.NOP_HUB_LANES_TX_SPARES = tx.toNat ∧ d.get K.NOP_HUB_LANES_RX_SPARES = rx.toNat ∧
      d.get K.NOP_STATUS_BD_UP = 1 ∧ d.get K.DEV_START_STATUS_BD_UP = 1 ∧
      Started s.dev { s.dev.start with hubTrained := true } [K.NOP_HUB_LANES_TX_SPARES, K.NOP_HUB_LANES_RX_SPARES,
        K.NOP_STATUS_BD_UP, K.DEV_START_STATUS_BD_UP] d := by
  have field {f : Fld} (h0 : f.key ≠ K.NOP_HUB_LANES_TX_SPARES.key) (h1 : f.key ≠ K.NOP_HUB_LANES_RX_SPARES.key)
      (h2 : f.key ≠ K.NOP_STATUS_BD_UP.key) (h3 : f.key ≠ K.DEV_START_STATUS_BD_UP.key) :
      (hubTrained tx.toNat rx.toNat s.dev).get f = s.dev.get f :=
    (Dev.get_put_ne _ _ h3).trans ((Dev.get_put_ne _ _ h2).trans ((Dev.get_set_ne _ _ h1).trans (Dev.get_set_ne _ _ h0)))
  have stops := Dev.stageWork_stops (f := hubTrained tx.toNat rx.toNat) h (Dev.bdWork_undone
    ((field (by decide) (by decide) (by decide) (by decide)).trans (Dev.stage_of_inStage h))
    (by simp [hubTrained, Dev.modStart, Dev.linkTrained_hub, Dev.modLink, Dev.freshDirs, w]))
  refine gives_of_does (f := fun d => if !d.inStage 4 then d else if !sparesFit 4 [(tx.toNat, rx.toNat)] then
    d.startFail 0x22 5 else d.stageWork 4 (hubTrained tx.toNat rx.toNat)) rfl ?_
  simp only [h, sparesFit_hub_two ht hr, Bool.not_true, Bool.false_eq_true, if_false, stops]
  refine ⟨?_, ?_, ?_, Dev.get_put_same _ _ _ (by decide), rfl,
    fun f hf => field (hf _ (by simp)) (hf _ (by simp)) (hf _ (by simp)) (hf _ (by simp)), fun _ => rfl⟩
  · exact (Dev.get_put_ne _ _ (by decide)).trans ((Dev.get_put_ne _ _ (by decide)).trans
      ((Dev.get_set_ne _ _ (by decide)).trans (Dev.get_set_lt _ _ (show tx.toNat < 2 ^ 2 by omega))))
  · exact (Dev.get_put_ne _ _ (by decide)).trans ((Dev.get_put_ne _ _ (by decide)).trans
      (Dev.get_set_lt _ _ (show rx.toNat < 2 ^ 2 by omega)))
  · exact (Dev.get_put_ne _ _ (by decide)).trans (Dev.get_put_same _ _ true (by decide))

theorem releaseNext_regs (d : Dev) : d.releaseNext = { d with start := d.releaseNext.start } := by
  unfold Dev.releaseNext
  split <;> rfl

/-- The release of a die changes only which dies are released. -/
theorem releaseNext_start (d : Dev) : d.releaseNext.start = { d.start with cdReleased := d.releaseNext.start.cdReleased } := by
  unfold Dev.releaseNext
  split <;> rfl

theorem releaseNext_releases {d : Dev} {k : Nat} (h : d.nextRelease = some k) :
    d.releaseNext = d.releaseDie k := by rw [Dev.releaseNext, h]

theorem bdInit_completes (s : State) (h : s.dev.inStage 4 = true) (hbm : s.dev.start.hbmTrained = true)
    (hub : s.dev.start.hubTrained = true) (some' : ∃ k ∈ s.dev.activeDies, bitAt s.dev.start.cdBist k = false) :
    Gives (.bdBistDone true true) s fun d => d.get K.DEV_START_STATUS_STAGE = 5 ∧
      (∀ k, s.dev.nextRelease = some k → bitAt d.start.cdReleased k = true) ∧
      FieldsKept s.dev d [K.DEV_START_STATUS_STAGE] := by
  let done : Dev := s.dev.modStart fun x => { x with bdBist := true }
  let begun : Dev := (done.setStage 5).releaseNext
  have field (f : Fld) : begun.get f = (s.dev.setStage 5).get f := by
    show (done.setStage 5).releaseNext.get f = _
    rw [releaseNext_regs]; rfl
  have stage : begun.stage = 5 := (field _).trans (Dev.get_set_same _ _ _)
  have dies : begun.activeDies = s.dev.activeDies := by
    refine Dev.activeDies_congr ?_ ?_
    · show (done.setStage 5).releaseNext.start.active = _
      rw [releaseNext_start]; rfl
    · show (done.setStage 5).releaseNext.fuses = _
      rw [releaseNext_regs]; rfl
  have bist : begun.start.cdBist = s.dev.start.cdBist := by
    show (done.setStage 5).releaseNext.start.cdBist = _
    rw [releaseNext_start]; rfl
  have ends : s.dev.stageWork 4 (fun d => d.modStart fun x => { x with bdBist := true }) = begun := by
    have work : done.stageWorkDone = true := by
      have st : done.stage = 4 := Dev.stage_of_inStage h
      rw [Dev.stageWorkDone, st]
      simp [done, Dev.modStart, hbm, hub]
    have inStage : done.inStage 4 = true := h
    rw [Dev.stageWork, if_pos h]
    refine (Dev.stageCheck_ends inStage work 7).trans (Dev.stageCheck_stops (Dev.cdWork_undone stage (.inl ?_)) 7)
    rw [dies, bist]; exact some'
  refine gives_of_does rfl ?_
  simp only [h, Bool.not_true, Bool.false_eq_true, if_false, ends]
  refine ⟨stage, fun k hk => ?_, fun f hf => (field f).trans (Dev.get_set_ne _ _ (hf _ (by simp)))⟩
  have next : (done.setStage 5).nextRelease = some k := hk
  show bitAt (done.setStage 5).releaseNext.start.cdReleased k = true
  rw [releaseNext_releases next]
  simp [Dev.releaseDie, Dev.modStart, bitAt_putBitAt]

/-! ## CD_LINK (R36, R363) -/

theorem cdRelease_releases (s : State) (h : s.dev.inStage 5 = true) (k : Nat) (hk : s.dev.nextRelease = some k) :
    Gives .cdRelease s (Started s.dev { s.dev.start with cdReleased := putBitAt s.dev.start.cdReleased k true } []) := by
  refine gives_of_does rfl ?_
  rw [if_pos h, releaseNext_releases hk]
  exact started_modStart s.dev _

/-- The start-up's state with the BIST of a channel die passed. -/
def bistPassed (n : Nat) (d : Dev) : Dev := d.modStart fun x => { x with cdBist := putBitAt x.cdBist n true }

theorem cdBist_given {n : Die} {s : State} {P : Dev → Prop} (h : s.dev.inStage 5 = true)
    (r : bitAt s.dev.start.cdReleased n = true) (hp : P (s.dev.stageWork 5 (bistPassed n))) :
    Gives (.cdBistDone n true true) s P := by
  refine gives_of_does (f := fun d => if !(d.inStage 5 && bitAt d.start.cdReleased n) then d
    else if !true then (d.startFail 0x30 n).put (K.D2D_STATUS_ID_MISMATCH n) true
    else if !true then d.startFail 0x30 n else d.stageWork 5 (bistPassed n)) rfl ?_
  simpa [h, r] using hp

theorem cdBist_kept (n : Die) (s : State) (h : s.dev.inStage 5 = true) (r : bitAt s.dev.start.cdReleased n = true)
    (some' : ∃ k ∈ s.dev.activeDies, bitAt s.dev.start.cdTrained k = false) :
    Gives (.cdBistDone n true true) s
      (Started s.dev { s.dev.start with cdBist := putBitAt s.dev.start.cdBist n true } []) := by
  refine cdBist_given h r ?_
  rw [Dev.stageWork_stops (f := bistPassed n) h (Dev.cdWork_undone (Dev.stage_of_inStage h) (.inr some'))]
  exact started_modStart s.dev _

theorem cdLink_completes (n : Die) (s : State) (h : s.dev.inStage 5 = true) (r : bitAt s.dev.start.cdReleased n = true)
    (all : ∀ k ∈ s.dev.activeDies, bitAt s.dev.start.cdReleased k = true ∧ bitAt s.dev.start.cdTrained k = true ∧
      (k = n.val ∨ bitAt s.dev.start.cdBist k = true)) :
    Gives (.cdBistDone n true true) s fun d => d.get K.DEV_START_STATUS_STAGE = 6 ∧ d.get K.DEV_MODE_MODE = 1 ∧
      FieldsKept s.dev d [K.DEV_START_STATUS_STAGE, K.DEV_MODE_MODE, K.DEV_START_STATUS_START_DONE] := by
  let done : Dev := bistPassed n s.dev
  have stage : (done.stageBegins 6).stage = 6 :=
    (Dev.get_put_ne _ _ (by decide)).trans ((Dev.get_set_ne _ _ (by decide)).trans (Dev.get_set_same _ _ _))
  have work : done.stageWorkDone = true := by
    have st : done.stage = 5 := Dev.stage_of_inStage h
    have dies : done.activeDies = s.dev.activeDies := rfl
    rw [Dev.stageWorkDone, st]
    simp only [Dev.allIn, dies, Bool.and_eq_true, List.all_eq_true]
    refine ⟨⟨fun k hk => (all k hk).1, fun k hk => ?_⟩, fun k hk => (all k hk).2.1⟩
    show bitAt (putBitAt s.dev.start.cdBist n true) k = true
    rw [bitAt_putBitAt]
    split
    · rfl
    · exact (all k hk).2.2.resolve_left ‹_›
  have ends : s.dev.stageWork 5 (bistPassed n) = done.stageBegins 6 := by
    rw [Dev.stageWork, if_pos h]
    exact (Dev.stageCheck_ends (d := done) h work 7).trans (Dev.stageCheck_stops (Dev.loadWork_undone stage) 7)
  refine cdBist_given h r ?_
  rw [ends]
  refine ⟨stage, (Dev.get_put_ne _ _ (by decide)).trans (Dev.get_set_same _ _ _), fun f hf => ?_⟩
  exact (Dev.get_put_ne _ _ (hf _ (by simp))).trans ((Dev.get_set_ne _ _ (hf _ (by simp))).trans
    (Dev.get_set_ne _ _ (hf _ (by simp))))

/-- The wide link of a channel die is trained. -/
def linkDone (n : Nat) (l : List (Nat × Nat)) (d : Dev) : Dev :=
  let d := (d.linkTrained n l).putBit K.DEV_START_STATUS_CD_UP n true
  d.modStart fun x => { x with cdTrained := putBitAt x.cdTrained n true }

theorem d2dTraining_completes (n : Die) (s : State) (h : s.dev.inStage 5 = true)
    (r : bitAt s.dev.start.cdReleased n = true) (l : List (Nat × Nat)) (fit : sparesFit n l = true)
    (some' : ∃ k ∈ s.dev.activeDies, bitAt s.dev.start.cdBist k = false) :
    Gives (.d2dLinkTrainingDone n l) s fun d =>
      d.get (K.D2D_STATUS_UP n) = 1 ∧ d.bitOf K.NOP_STATUS_CD_UP n = true ∧ d.bitOf K.DEV_START_STATUS_CD_UP n = true ∧
      (∀ p : Fin 8, d.get (K.D2D_PORT_UP n p) = 1 ∧ d.get (K.D2D_PORT_TX_SPARES n p) = (l.getD p (0, 0)).1 ∧
        d.get (K.D2D_PORT_RX_SPARES n p) = (l.getD p (0, 0)).2) ∧
      d.start = { s.dev.start with cdTrained := putBitAt s.dev.start.cdTrained n true } ∧ BytesKept s.dev d := by
  let shown : Dev := (s.dev.linkTrained n l).putBit K.DEV_START_STATUS_CD_UP n true
  have ctrl : shown.ctrl = s.dev.ctrl :=
    (Dev.putBit_ctrl _ _ _ (by simp [CtrlKey, K.DEV_START_STATUS_CD_UP])).trans (Dev.linkTrained_ctrl _ _ _)
  have start : (linkDone n l s.dev).start = { s.dev.start with cdTrained := putBitAt s.dev.start.cdTrained n true } :=
    congrArg (fun x : Start => { x with cdTrained := putBitAt x.cdTrained n true }) (Dev.start_of_ctrl ctrl)
  have stage : (linkDone n l s.dev).stage = 5 :=
    (Dev.get_of_ctrl ctrl (by simp [CtrlKey, K.DEV_START_STATUS_STAGE])).trans (Dev.stage_of_inStage h)
  have dies : (linkDone n l s.dev).activeDies = s.dev.activeDies :=
    Dev.activeDies_congr (by rw [start]) (Dev.fuses_of_ctrl ctrl : shown.fuses = s.dev.fuses)
  have stops := Dev.stageWork_stops (f := linkDone n l) h (Dev.cdWork_undone stage (.inl (by rw [dies, start]; exact some')))
  refine gives_of_does (f := fun d => if !(d.inStage 5 && bitAt d.start.cdReleased n) then d
    else if !sparesFit n l then d.startFail 0x31 n else d.stageWork 5 (linkDone n l)) rfl ?_
  simp only [h, r, fit, Bool.and_self, Bool.not_true, Bool.false_eq_true, if_false, stops]
  obtain ⟨up, nop, ports⟩ := s.dev.linkTrained_shows n.isLt fit
  have field {f : Fld} (hf : f.key ≠ K.DEV_START_STATUS_CD_UP.key) :
      (linkDone n l s.dev).get f = (s.dev.linkTrained n l).get f := Dev.get_putBit_ne _ _ _ hf
  refine ⟨(field (by simp only [K.D2D_STATUS_UP, K.DEV_START_STATUS_CD_UP]; omega)).trans up, ?_,
    Dev.bitOf_putBit _ true n.isLt, fun p => ?_, start, fun a => ?_⟩
  · exact (congrArg (bitAt · n) (field (f := K.NOP_STATUS_CD_UP) (by decide))).trans nop
  · obtain ⟨pu, tx, rx⟩ := ports p p.isLt
    exact ⟨(field (by simp only [K.D2D_PORT_UP, K.DEV_START_STATUS_CD_UP]; omega)).trans pu,
      (field (by simp only [K.D2D_PORT_TX_SPARES, K.DEV_START_STATUS_CD_UP]; omega)).trans tx,
      (field (by simp only [K.D2D_PORT_RX_SPARES, K.DEV_START_STATUS_CD_UP]; omega)).trans rx⟩
  · exact Dev.memGet_congr (s.dev.linkTrained_memPart n l) a

/-! ## STREAM_CHECK (R402, R447) -/

/-- The streams' check is over: the fabrics have started. -/
def checkOver (d : Dev) : Dev := (d.each d.maskDies Dev.fabricStarts).put K.CFG_STATUS_CHECK false

theorem maskDies_lt {d : Dev} {k : Nat} (h : k ∈ d.maskDies) : k < 4 := by
  rw [Dev.maskDies, List.mem_filter, Dev.mem_dies] at h
  exact h.1.1

theorem checkOver_ctrl (d : Dev) : (checkOver d).ctrl = d.ctrl :=
  (Dev.put_ctrl _ _ (by simp [CtrlKey, K.CFG_STATUS_CHECK])).trans
    (Dev.each_keeps_mem Dev.ctrl d _ _ fun d _ hk => d.fabricStarts_ctrl (maskDies_lt hk))

theorem streamCheck_completes (n : Die) (s : State) (h : s.dev.inStage 7 = true) (c : s.dev.on K.CFG_STATUS_CHECK = true)
    (hn : n.val ∈ s.dev.activeDies) :
    Gives .streamCheckComplete s fun d => d.get K.DEV_START_STATUS_STAGE = 8 ∧ d.get K.CFG_STATUS_CHECK = 0 ∧
      d.get (K.CFG_DIE_STATUS_STARTED n) = 1 := by
  have field {f : Fld} (hf : f.key < 36175872) :
      ((checkOver s.dev).stageBegins 8).get f = ((checkOver s.dev).setStage 8).get f := Dev.get_bandsLoad _ hf
  have stage : ((checkOver s.dev).stageBegins 8).stage = 8 := (field (by decide)).trans (Dev.get_set_same _ _ _)
  have ctrl : ((checkOver s.dev).setStage 8).bandsLoad.ctrl = ((checkOver s.dev).setStage 8).ctrl := Dev.bandsLoad_ctrl _
  have active : ((checkOver s.dev).stageBegins 8).start.active = s.dev.start.active :=
    (congrArg Start.active ((Dev.start_of_ctrl ctrl).trans (Dev.start_set _ _ _))).trans
      (congrArg Start.active (Dev.start_of_ctrl (checkOver_ctrl s.dev)))
  have fuses : ((checkOver s.dev).stageBegins 8).fuses = s.dev.fuses :=
    ((Dev.fuses_of_ctrl ctrl).trans (Dev.fuses_set _ _ _)).trans (Dev.fuses_of_ctrl (checkOver_ctrl s.dev))
  have stops : (checkOver s.dev).goStage 8 = (checkOver s.dev).stageBegins 8 := by
    refine Dev.stageCheck_stops (Dev.pllWork_undone stage ⟨n, ?_, ?_⟩) 8
    · rw [Dev.activeDies_congr active fuses]; exact hn
    · show bitAt 0 n = false
      simp [bitAt]
  refine gives_of_does (f := fun d => if d.inStage 7 && d.on K.CFG_STATUS_CHECK then (checkOver d).goStage 8 else d) rfl ?_
  simp only [h, c, Bool.and_self, if_true, stops]
  refine ⟨stage, ?_, ?_⟩
  · rw [field (by decide), Dev.setStage, Dev.get_set_ne _ _ (by decide)]
    exact Dev.get_put_same _ _ _ (by decide)
  · rw [field (by simp only [K.CFG_DIE_STATUS_STARTED]; omega), Dev.setStage, Dev.get_set_ne _ _
      (by simp only [K.CFG_DIE_STATUS_STARTED, K.DEV_START_STATUS_STAGE]; omega), checkOver, Dev.get_put_ne _ _
      (by simp only [K.CFG_DIE_STATUS_STARTED, K.CFG_STATUS_CHECK]; omega)]
    exact s.dev.fabricStarts_started _ n.isLt (.inl hn)

/-! ## PLL_LOCK, CAL_LOAD and DESKEW (R245, R450) -/

/-- A die whose work is missing stays so when another's is done. -/
theorem undone_put {d : Dev} {m n : Nat} (h : ∃ k ∈ d.activeDies, k ≠ n ∧ bitAt m k = false) :
    ∃ k ∈ d.activeDies, bitAt (putBitAt m n true) k = false := by
  obtain ⟨k, hk, ne, hb⟩ := h
  exact ⟨k, hk, by rw [bitAt_putBitAt, if_neg ne, hb]⟩

/-- The start-up's state with a die's PLLs locked. -/
def locked (n : Nat) (d : Dev) : Dev := d.modStart fun x => { x with pllDone := putBitAt x.pllDone n true }

theorem pllLock_completes (n : Die) (s : State) (h : s.dev.inStage 8 = true) (hn : n.val ∈ s.dev.activeDies) (x : Dev)
    (hx : s.dev.diePllsLock n = some x) (some' : ∃ k ∈ s.dev.activeDies, k ≠ n.val ∧ bitAt s.dev.start.pllDone k = false) :
    Gives (.pllLockComplete n) s fun d => d.on (K.PLL_STATUS_LOCKED_A n) = true ∧ d.on (K.PLL_STATUS_LOCKED_B n) = true ∧
      d.start = { s.dev.start with pllDone := putBitAt s.dev.start.pllDone n true } ∧ BytesKept s.dev d := by
  obtain ⟨a, b, ctrl⟩ := Dev.diePllsLock_shows hx
  have inStage : x.inStage 8 = true := (Dev.inStage_of_ctrl ctrl 8).trans h
  have start : (locked n x).start = { s.dev.start with pllDone := putBitAt s.dev.start.pllDone n true } := by
    rw [← Dev.start_of_ctrl ctrl]; rfl
  have dies : (locked n x).activeDies = s.dev.activeDies :=
    Dev.activeDies_congr (by rw [start]) (Dev.fuses_of_ctrl ctrl : x.fuses = s.dev.fuses)
  have stops : x.stageWork 8 (locked n) = locked n x := by
    refine Dev.stageWork_stops inStage (Dev.pllWork_undone (Dev.stage_of_inStage inStage) ?_)
    rw [dies, start]; exact undone_put some'
  refine ⟨locked n x, ?_, a, b, start, fun o => Dev.memGet_congr (Dev.diePllsLock_memPart _ _ _ hx) o⟩
  have run : exec (.pllLockComplete n) s = s.does fun _ => x.stageWork 8 (locked n) := by
    show s.does _ = s.does _
    simp only [State.does, State.onDev, h, List.contains_iff_mem.mpr hn, Bool.and_self, Bool.not_true,
      Bool.false_eq_true, if_false, hx]
    rfl
  rw [run, stops]; rfl

/-- A calibration is loaded from a copy, or none is needed. -/
theorem copy_found {c : Option Nat} {b : Bool} (h : c.isSome = true ∨ b = true) : (c.isNone && !b) = false := by
  cases c <;> simp_all

/-- The start-up's state and the timing units with a die's calibration loaded. -/
def calibrated (n : Nat) (c : Option Nat) (d : Dev) : Dev :=
  (d.calLoad n c).modStart fun x => { x with calDone := putBitAt x.calDone n true }

theorem calLoad_completes (n : Die) (s : State) (h : s.dev.inStage 9 = true) (hn : n.val ∈ s.dev.activeDies)
    (have' : (s.dev.copySelect 3).isSome = true ∨ s.dev.nocal = true)
    (some' : ∃ k ∈ s.dev.activeDies, k ≠ n.val ∧ bitAt s.dev.start.calDone k = false) :
    Gives (.calLoadComplete n) s fun d =>
      d.start = { s.dev.start with calDone := putBitAt s.dev.start.calDone n true } ∧ BytesKept s.dev d := by
  have ctrl := s.dev.calLoad_ctrl n (s.dev.copySelect 3)
  have start : (calibrated n (s.dev.copySelect 3) s.dev).start =
      { s.dev.start with calDone := putBitAt s.dev.start.calDone n true } :=
    congrArg (fun x : Start => { x with calDone := putBitAt x.calDone n true }) (Dev.start_of_ctrl ctrl)
  have stage : (calibrated n (s.dev.copySelect 3) s.dev).stage = 9 := by
    rw [calibrated, stage_modStart]
    exact (Dev.get_of_ctrl ctrl (by simp [CtrlKey, K.DEV_START_STATUS_STAGE])).trans (Dev.stage_of_inStage h)
  have dies : (calibrated n (s.dev.copySelect 3) s.dev).activeDies = s.dev.activeDies :=
    Dev.activeDies_congr (by rw [start]) (by rw [calibrated, fuses_modStart, Dev.fuses_of_ctrl ctrl])
  have stops := Dev.stageWork_stops (f := calibrated n (s.dev.copySelect 3)) h
    (Dev.calWork_undone stage (by rw [dies, start]; exact undone_put some'))
  have found := copy_found have'
  refine gives_of_does (f := fun d => if !(d.inStage 9 && d.activeDies.contains n.val) then d
    else if (d.copySelect 3).isNone && !d.nocal then d.startFail 0x50 n
    else d.stageWork 9 (calibrated n (d.copySelect 3))) rfl ?_
  simp only [h, List.contains_iff_mem.mpr hn, found, Bool.and_self, Bool.not_true, Bool.false_eq_true, if_false, stops]
  exact ⟨start, bytesKept_modStart (fun a => Dev.memGet_congr (s.dev.calLoad_memPart n _) a) _⟩

/-- A group of a die is measured. -/
def measured (n k : Nat) (vals : List (List Int)) (d : Dev) : Dev :=
  (d.measureGroup n (k % 4) vals).modStart fun x => { x with dskDone := tblPut x.dskDone n (k + 1) }

theorem deskew_goes_on (n : Die) (s : State) (h : s.dev.inStage 10 = true) (hn : n.val ∈ s.dev.activeDies)
    (vals : List (List Int)) (hk : tblGet 0 s.dev.start.dskDone n < 63) :
    Gives (.deskewMeasurementDone n vals) s fun d =>
      tblGet 0 d.start.dskDone n = tblGet 0 s.dev.start.dskDone n + 1 ∧ BytesKept s.dev d := by
  let k := tblGet 0 s.dev.start.dskDone n
  have ctrl := s.dev.measureGroup_ctrl n (k % 4) vals
  have start : (measured n k vals s.dev).start = { s.dev.start with dskDone := tblPut s.dev.start.dskDone n (k + 1) } :=
    congrArg (fun x : Start => { x with dskDone := tblPut x.dskDone n (k + 1) }) (Dev.start_of_ctrl ctrl)
  have count : tblGet 0 (measured n k vals s.dev).start.dskDone n = k + 1 := by rw [start]; exact tblGet_put_same _ _ _ _
  have stage : (measured n k vals s.dev).stage = 10 :=
    (Dev.get_of_ctrl ctrl (by simp [CtrlKey, K.DEV_START_STATUS_STAGE])).trans (Dev.stage_of_inStage h)
  have dies : (measured n k vals s.dev).activeDies = s.dev.activeDies :=
    Dev.activeDies_congr (by rw [start]) (Dev.fuses_of_ctrl ctrl : (s.dev.measureGroup n (k % 4) vals).fuses = _)
  have stops : s.dev.startDeskew n vals = measured n k vals s.dev := by
    have early : ¬ (k + 1 = 64) := by omega
    refine (if_neg fun e => early e.1).trans (Dev.stageCheck_stops (Dev.deskew_undone stage ⟨n, dies ▸ hn, ?_⟩) 8)
    rw [Dev.deskewOver, count, decide_eq_false_iff_not]
    omega
  have more : s.dev.deskewOver n = false := by rw [Dev.deskewOver, decide_eq_false_iff_not]; omega
  refine gives_of_does rfl ?_
  simp only [h, List.contains_iff_mem.mpr hn, more, Bool.not_false, Bool.and_self, if_true, stops]
  exact ⟨count, fun a => Dev.memGet_congr (s.dev.measureGroup_memPart n (k % 4) vals) a⟩

/-- Settles O19: each stage's work is kept, and the last of it begins the next stage. -/
theorem stagesThatComplete : Obligations.StagesThatComplete := by
  intro n s
  refine ⟨pwrCheck_completes s, fun h => ⟨bdBist_kept s h, hbmTraining_completes s h,
      fun w tx rx ht hr => hubTraining_completes s h w tx rx ht hr, bdInit_completes s h⟩,
    fun h => ⟨cdRelease_releases s h, fun r => ⟨cdBist_kept n s h r, cdLink_completes n s h r,
      d2dTraining_completes n s h r⟩⟩, streamCheck_completes n s, ?_, ?_, ?_⟩
  · exact fun h hn x hx some' => pllLock_completes n s h hn x hx some'
  · exact fun h hn have' some' => calLoad_completes n s h hn have' some'
  · exact fun h hn vals hk => deskew_goes_on n s h hn vals hk

end Sys2Proof.Slice0
end

section
/-! SUPPORT and CERTIFICATE. The requests that software makes of the start and of the resets (R36, R37, R53, R54, R61 to
R63). -/

open Sys2Proof Sys2Proof.Machine

namespace Sys2Proof.Machine

/-! ## The units at an entry into Load (R403, R414, R418, R465) -/

theorem Dev.fabHold_ctrl (d : Dev) : d.fabHold.ctrl = d.ctrl :=
  Dev.each_dies_ctrl d _ fun d n hn => by
    simp (disch := (simp only [CtrlKey, K.CFG_DIE_STATUS_STARTED, K.CFG_DIE_STATUS_HELD]; omega)) only [Dev.put_ctrl]

theorem Dev.cfgiLoad_ctrl (d : Dev) : d.cfgiLoad.ctrl = d.ctrl := by
  refine Dev.each_keeps Dev.ctrl d _ _ fun d n => ?_
  unfold Dev.cfgiFail
  split
  · split
    · rfl
    · exact Dev.setLeaseQueue_ctrl _ _ _ _
  · rfl

/-- The dies at an entry into Load: each Active. -/
def Dev.diesActive (d : Dev) : Dev :=
  d.each d.dies fun d n => (d.set (K.PWR_DIE_STATE_STATE n) 0).put (K.PWR_DIE_STATE_WAKING n) false

theorem Dev.diesActive_ctrl (d : Dev) : d.diesActive.ctrl = d.ctrl :=
  Dev.each_keeps_mem Dev.ctrl d _ _ fun d n hn => by
    have := (Dev.mem_dies.mp hn).1
    simp (disch := (simp only [CtrlKey, K.PWR_DIE_STATE_STATE, K.PWR_DIE_STATE_WAKING]; omega)) only
      [Dev.set_ctrl, Dev.put_ctrl]

theorem Dev.loadUnits_eq (d : Dev) : d.loadUnits =
    (((d.fabHold.cfgiLoad).scrubsStop).put K.DEV_START_STATUS_START_DONE false).diesActive.refreshLines := rfl

theorem Dev.loadUnits_held (d : Dev) : ((d.fabHold.cfgiLoad).scrubsStop).ctrl = d.ctrl := by
  rw [Dev.scrubsStop_ctrl, Dev.cfgiLoad_ctrl, Dev.fabHold_ctrl]

theorem Dev.get_loadUnits (d : Dev) {f : Fld} (hf : CtrlKey f.key) (h : f.key ≠ K.DEV_START_STATUS_START_DONE.key) :
    d.loadUnits.get f = d.get f := by
  rw [d.loadUnits_eq, Dev.get_refreshLines, Dev.get_of_ctrl (Dev.diesActive_ctrl _) hf, Dev.get_put_ne _ _ h,
    Dev.get_of_ctrl d.loadUnits_held hf]

theorem Dev.loadUnits_done (d : Dev) : d.loadUnits.get K.DEV_START_STATUS_START_DONE = 0 := by
  rw [d.loadUnits_eq, Dev.get_refreshLines,
    Dev.get_of_ctrl (Dev.diesActive_ctrl _) (by simp [CtrlKey, K.DEV_START_STATUS_START_DONE]),
    Dev.get_put_same _ _ _ (by decide)]
  rfl

theorem Dev.loadUnits_start (d : Dev) : d.loadUnits.start = d.start := by
  rw [d.loadUnits_eq, Dev.start_refreshLines, Dev.start_of_ctrl (Dev.diesActive_ctrl _), Dev.start_put,
    Dev.start_of_ctrl d.loadUnits_held]

theorem Dev.loadUnits_fuses (d : Dev) : d.loadUnits.fuses = d.fuses := by
  rw [d.loadUnits_eq, Dev.fuses_refreshLines, Dev.fuses_of_ctrl (Dev.diesActive_ctrl _), Dev.fuses_put,
    Dev.fuses_of_ctrl d.loadUnits_held]

/-! ## Parking before a device reset (R60) -/

theorem Dev.pend_ctrl (d : Dev) (s : Nat) (abort : Bool) : (d.pend s abort).ctrl = d.ctrl := by
  cases abort <;> simp (disch := (simp only [CtrlKey, K.SITE_ABORT_PEND, K.SITE_PARK_PEND, K.SITE_RESUME_PEND]; omega))
    only [Dev.pend, Bool.false_eq_true, if_true, if_false, Dev.put_ctrl]

theorem Dev.drstWrite_start (d : Dev) : d.drstWrite.start = { d.start with hostRst := true } := by
  have parks (x : Dev) (l : List Nat) : (x.each l fun d s => d.parkReq s 0x11).ctrl = x.ctrl :=
    Dev.each_keeps Dev.ctrl x l _ fun d s => (Dev.pend_ctrl _ _ _).trans (d.stopReq_ctrl s 0x11)
  have pends (x : Dev) (l : List Nat) : (x.each l fun d s => d.pend s false).ctrl = x.ctrl :=
    Dev.each_keeps Dev.ctrl x l _ fun d s => d.pend_ctrl s false
  have kept := (pends (d.each (allSites.filter fun s => d.siteIn s [stRunning]) fun d s => d.parkReq s 0x11)
    (allSites.filter fun s => (d.each (allSites.filter fun s => d.siteIn s [stRunning]) fun d s =>
      d.parkReq s 0x11).siteIn s [stCurtaining, stRocking])).trans (parks d _)
  unfold Dev.drstWrite
  exact congrArg (fun x : Start => { x with hostRst := true }) (Dev.start_of_ctrl kept)

/-! ## The DIE resets that software requests (R61) -/

/-- The start-up's state with CD `n` released. -/
def Start.cdRelease (x : Start) (n : Nat) : Start := { x with cdReleased := putBitAt x.cdReleased n true }

/-- A die is released again at an entry into Load. -/
def Dev.released (d : Dev) (n : Nat) : Dev :=
  ((d.releaseDie n).set K.DEV_MODE_MODE mdLoad).put K.DEV_START_STATUS_NOCAL_USED false

theorem Dev.released_start (d : Dev) (n : Nat) :
    (d.released n).start = d.start.cdRelease n := rfl

theorem Dev.released_fuses (d : Dev) (n : Nat) : (d.released n).fuses = d.fuses := rfl

theorem Dev.get_released (d : Dev) (n : Nat) {f : Fld} (hm : f.key ≠ K.DEV_MODE_MODE.key)
    (hn : f.key ≠ K.DEV_START_STATUS_NOCAL_USED.key) : (d.released n).get f = d.get f :=
  (Dev.get_put_ne _ _ hn).trans (Dev.get_set_ne _ _ hm)

theorem Dev.released_mode (d : Dev) (n : Nat) : (d.released n).get K.DEV_MODE_MODE = 1 :=
  (Dev.get_put_ne _ _ (by decide)).trans (Dev.get_set_same _ _ _)

/-- A die that is held and released again. -/
def Dev.dieRestarted (d : Dev) (n : Nat) : Dev := ((d.cdReset' n).rgpStale.loadUnits).released n

theorem Dev.start_putBit (d : Dev) (f : Fld) (n : Nat) (b : Bool) : (d.putBit f n b).start = d.start := rfl
theorem Dev.fuses_putBit (d : Dev) (f : Fld) (n : Nat) (b : Bool) : (d.putBit f n b).fuses = d.fuses := rfl

theorem Dev.cdReset'_start (d : Dev) {n : Nat} (hn : n < 4) : (d.cdReset' n).start = d.start.cdHeld n := by
  rw [Dev.cdReset', Dev.start_putBit, ← Dev.ctrl_start, d.cdReset_ctrl hn]

theorem Dev.cdReset'_fuses (d : Dev) {n : Nat} (hn : n < 4) : (d.cdReset' n).fuses = d.fuses := by
  rw [Dev.cdReset', Dev.fuses_putBit, ← Dev.ctrl_fuses, d.cdReset_ctrl hn, Dev.ctrl_fuses]

theorem Dev.dieRestarted_start (d : Dev) {n : Nat} (hn : n < 4) : (d.dieRestarted n).start = (d.start.cdHeld n).cdRelease n := by
  rw [Dev.dieRestarted, Dev.released_start, Dev.loadUnits_start, Dev.start_of_ctrl (Dev.rgpStale_ctrl _),
    d.cdReset'_start hn]

theorem Dev.dieRestarted_fuses (d : Dev) {n : Nat} (hn : n < 4) : (d.dieRestarted n).fuses = d.fuses := by
  rw [Dev.dieRestarted, Dev.released_fuses, Dev.loadUnits_fuses, Dev.fuses_of_ctrl (Dev.rgpStale_ctrl _),
    d.cdReset'_fuses hn]

/-- The reset's cause stands. -/
theorem Dev.dieRestarted_cause (d : Dev) {n : Nat} (hn : n < 4) :
    (d.dieRestarted n).bitOf K.DEV_RESET_CAUSE_CD_DIE n = true := by
  have ctrl : CtrlKey K.DEV_RESET_CAUSE_CD_DIE.key := by simp [CtrlKey, K.DEV_RESET_CAUSE_CD_DIE]
  rw [Dev.bitOf, Dev.dieRestarted, Dev.get_released _ _ (by decide) (by decide), Dev.get_loadUnits _ ctrl (by decide),
    Dev.get_of_ctrl (Dev.rgpStale_ctrl _) ctrl]
  exact Dev.bitOf_putBit _ true hn

/-- The link of the die is trained again: CD_LINK goes on. -/
theorem Dev.cdRstWrite_restarts (d : Dev) {n : Nat} (hn : n < 4) (ok : d.dieResetOk = true) (present : d.cdPresent n = true)
    (active : bitAt d.start.active n = true) : d.cdRstWrite n = ((d.dieRestarted n).setStage 5).releaseNext := by
  let e : Dev := ((d.dieRestarted n).setStage 5).releaseNext
  have start : e.start = { (d.dieRestarted n).start with cdReleased := e.start.cdReleased } :=
    Slice0.releaseNext_start ((d.dieRestarted n).setStage 5)
  have regs : e = { ((d.dieRestarted n).setStage 5) with start := e.start } :=
    Slice0.releaseNext_regs ((d.dieRestarted n).setStage 5)
  have stage : e.stage = 5 := by
    rw [regs]; exact Dev.get_set_same _ _ _
  have fuses : e.fuses = d.fuses := by
    rw [regs]; exact d.dieRestarted_fuses hn
  have mask : e.start.active = d.start.active := by
    rw [start, d.dieRestarted_start hn]; rfl
  have untrained : bitAt e.start.cdTrained n = false := by
    rw [start, d.dieRestarted_start hn]
    show bitAt (putBitAt d.start.cdTrained n false) n = false
    rw [bitAt_putBitAt, if_pos rfl]
  have mem : n ∈ e.activeDies := by
    rw [Dev.activeDies_congr mask fuses]
    exact Slice0.mem_activeDies.mpr ⟨⟨hn, present⟩, active⟩
  have stops : (d.dieRestarted n).goStage 5 = e :=
    Dev.stageCheck_stops (Dev.cdWork_undone stage (.inr ⟨n, mem, untrained⟩)) 8
  have cond : (d.dieResetOk && d.cdPresent n && bitAt d.start.active n) = true := by simp [ok, present, active]
  exact (if_pos cond).trans stops

/-- A device whose channel dies and base die are held, back in SENTRY_WAIT. -/
def Dev.baseRestarted (d : Dev) : Dev :=
  (((d.loadUnits.loaderSafe.holdDies).put K.DEV_RESET_CAUSE_BD_DIE true).set K.DEV_MODE_MODE mdSentry).setStage 2

theorem Dev.bdRstWrite_restarts (d : Dev) (ok : d.dieResetOk = true) : d.bdRstWrite = d.baseRestarted.refreshLines :=
  if_pos ok

theorem Dev.baseRestarted_shows (d : Dev) : d.baseRestarted.get K.DEV_MODE_MODE = 0 ∧
    d.baseRestarted.get K.DEV_START_STATUS_STAGE = 2 ∧ d.baseRestarted.get K.DEV_RESET_CAUSE_BD_DIE = 1 ∧
    d.baseRestarted.start.bdReleased = false := by
  refine ⟨(Dev.get_set_ne _ _ (by decide)).trans (Dev.get_set_same _ _ _), Dev.get_set_same _ _ _, ?_, ?_⟩
  · exact (Dev.get_set_ne _ _ (by decide)).trans ((Dev.get_set_ne _ _ (by decide)).trans
      (Dev.get_put_same _ _ true (by decide)))
  · rw [Dev.baseRestarted, Dev.setStage, Dev.start_set, Dev.start_set, Dev.start_put, Dev.holdDies_start]
    rfl

/-! ## One core (R58, R62) -/

theorem Dev.core_unpinAll_ne (d : Dev) {q y : Nat} (h : y ≠ q) : (d.unpinAll q).core y = d.core y :=
  Dev.core_modV_ne _ _ h

theorem Dev.core_putHalted (d : Dev) (x y : Nat) (b : Bool) : (d.putHalted x b).core y = d.core y := by
  unfold Dev.putHalted
  split
  · rfl
  · split <;> rfl

theorem Dev.get_putHalted (d : Dev) {x : Nat} (hx : x ≠ 64) (b : Bool) {f : Fld} (hl : f.key ≠ K.DBG_HALTED_LO.key)
    (hh : f.key ≠ K.DBG_HALTED_HI.key) : (d.putHalted x b).get f = d.get f := by
  unfold Dev.putHalted
  rw [if_neg hx]
  split
  · exact Dev.get_putBit_ne _ _ _ hl
  · exact Dev.get_putBit_ne _ _ _ hh

/-- A CORE reset restores the core. -/
theorem Dev.core_coreReset_same (d : Dev) (q : Nat) : (d.coreReset q).core q = {} :=
  (Dev.core_putHalted _ _ _ _).trans (Dev.core_setCore_same _ _ _)

/-- A CORE reset leaves every other core. -/
theorem Dev.core_coreReset_ne (d : Dev) {q y : Nat} (h : y ≠ q) : (d.coreReset q).core y = d.core y :=
  (Dev.core_putHalted _ _ _ _).trans ((Dev.core_setCore_ne _ _ h).trans (d.core_unpinAll_ne h))

/-- Of the register fields it restores the CORE fields of the core's window, the DBG_HALTED masks aside. -/
theorem Dev.get_coreReset (d : Dev) {q : Nat} (hq : q ≠ 64) {f : Fld} (hl : f.key ≠ K.DBG_HALTED_LO.key)
    (hh : f.key ≠ K.DBG_HALTED_HI.key) : (d.coreReset q).get f =
      if seqWin q ≤ f.key / 8 ∧ f.key / 8 < seqWin q + 0x1000 ∧ rstOf f.key = .core then f.rst else d.get f := by
  have halted (x : Dev) : ((x.setCore q {}).putHalted q false).get f = x.get f := Dev.get_putHalted _ hq false hl hh
  refine (halted _).trans ((Slice0.get_eraseRegs _ _ f).trans ?_)
  have pins : (d.unpinAll q).get f = d.get f := rfl
  rw [pins]
  by_cases hc : rstOf f.key = .core
  · simp [hc]
  · cases e : rstOf f.key <;> simp_all

end Sys2Proof.Machine

namespace Sys2Proof.Slice0

/-! ## How a request reaches its register -/

/-- An access that the hub lets through finds the device out of reset. -/
theorem inReset_of_lets {s : State} {m : Master} {a : Nat} {w : Bool} (h : Lets s m a w) : s.dev.inReset = false := by
  by_contra up
  have held : s.dev.inReset = true := by simpa using up
  have refused : (s.dev.regReach m a w).2 = false := by rw [Dev.regReach, if_pos (by simp [held])]
  exact absurd (h.1.symm.trans refused) (by decide)

theorem refused_only (d : Dev) : d.reqRefused.get K.DEV_MODE_REQ_REFUSED = 1 ∧
    FieldsOnly d d.reqRefused [K.DEV_MODE_REQ_REFUSED] := put_true_only d _ (by decide)

/-- ENTER_LOAD is judged at P6 once the hub lets its write through. -/
theorem enterLoad_given {m : Master} {s : State} {P : Dev → Prop} (hl : Lets s m 0x4C true)
    (hp : P (s.judge 6 blkDEV none Dev.enterLoadOk Dev.enterLoadApply Dev.reqRefused id)) :
    GivesAs (6, 0, 0) (.enterLoad m) s P := by
  have reach : s.dev.regReach m (BitVec.ofNat 24 0x4C).toNat true = (s.dev, true) :=
    Prod.ext (Dev.regReach_fst hl.1) hl.1
  have write : exec (.registerWrite m (BitVec.ofNat 24 0x4C) 1) s = .next (s.regWrite m 0x4C 1) :=
    exec_registerWrite_passed reach (by decide)
  have request : s.regWrite m 0x4C 1 = s.enterLoad := by simp [State.regWrite, hl.2, bitAt]
  rw [request] at write
  exact ⟨_, write, hp⟩

theorem enterLoad_load (m : Master) (s : State) (hl : Lets s m 0x4C true) (mode : s.dev.get K.DEV_MODE_MODE = 2)
    (idle : s.dev.noneActive = true) : GivesAs (6, 0, 0) (.enterLoad m) s fun d => d.get K.DEV_MODE_MODE = 1 ∧
      d.get K.DEV_START_STATUS_STAGE = 6 ∧ d.get K.DEV_START_STATUS_START_DONE = 0 := by
  have ok : s.dev.enterLoadOk = true := by simp [Dev.enterLoadOk, modeIn_of_mode mode, mdReady, idle]
  have ready : s.dev.enterLoadApply = s.dev.loadFromReady := by
    simp [Dev.enterLoadApply, modeIn_of_mode mode, mdSafe]
  refine enterLoad_given hl ?_
  rw [State.judge, if_pos ok, ready]
  refine ⟨(Dev.get_set_ne _ _ (by decide)).trans (Dev.get_set_same _ _ _), Dev.get_set_same _ _ _, ?_⟩
  exact (Dev.get_set_ne _ _ (by decide)).trans ((Dev.get_set_ne _ _ (by decide)).trans s.dev.loadUnits_done)

theorem enterLoad_refused (m : Master) (s : State) (hl : Lets s m 0x4C true) (no : s.dev.enterLoadOk = false)
    (before : s.tickStart.enterLoadOk = false) : GivesAs (6, 0, 0) (.enterLoad m) s fun d =>
      d.get K.DEV_MODE_REQ_REFUSED = 1 ∧ FieldsOnly s.dev d [K.DEV_MODE_REQ_REFUSED] := by
  refine enterLoad_given hl ?_
  have refused : s.judge 6 blkDEV none Dev.enterLoadOk Dev.enterLoadApply Dev.reqRefused id = s.dev.reqRefused := by
    simp [State.judge, no, before]
  rw [refused]
  exact refused_only s.dev

/-! ## The keyed resets (R61 to R63) -/

/-- A keyed write of DEV_RESET_CTRL has the effect of its request bits. -/
theorem reset_given {c : Instr} {m : Master} {s : State} {P : Dev → Prop} {w : Nat}
    (run : exec c s = s.writes m 0x50 (keyed 0x5A w)) (hw : w < 2 ^ 24) (hl : Lets s m 0x50 true)
    (hp : P (s.dev.resetWrite (keyed 0x5A w))) : GivesBy m c s P := by
  refine givesBy_writes run (by unfold keyed; omega) hl ⟨by decide, by decide, by decide, by decide, by decide⟩ ?_
  have effect : s.dev.regWrite m 0x50 (keyed 0x5A w) = s.dev.resetWrite (keyed 0x5A w) := by
    simp [Dev.regWrite, hl.2, slowReg, Dev.devWrite]
  rw [effect]; exact hp

/-- The bits of a keyed word below the key are the request's. -/
theorem bitAt_keyed {w i : Nat} (hi : i < 24) : bitAt (keyed 0x5A w) i = bitAt w i := by
  obtain ⟨k, hk⟩ := Nat.exists_eq_add_of_lt hi
  simp only [bitAt, keyed, show (2 : Nat) ^ 24 = 2 ^ i * (2 ^ k * 2) by rw [hk]; ring]
  rw [show 0x5A * (2 ^ i * (2 ^ k * 2)) + w = w + 2 ^ i * (2 * (0x5A * 2 ^ k)) by ring,
    Nat.add_mul_div_left _ _ (by positivity), Nat.add_mul_mod_self_left]

theorem key_keyed {w : Nat} (hw : w < 2 ^ 24) : (bitsAt (keyed 0x5A w) 24 8 != 0x5A) = false := by
  have : bitsAt (keyed 0x5A w) 24 8 = 0x5A := by simp only [bitsAt, keyed]; omega
  simp [this]

theorem resetWrite_drst {d : Dev} (up : d.inReset = false) : d.resetWrite (keyed 0x5A 1) = d.drstWrite := by
  rw [Dev.resetWrite, if_neg (by rw [up, key_keyed (by decide)]; decide), if_pos (by decide)]

/-- The requests of a keyed word without DRST, in their order. -/
theorem resetWrite_eq {d : Dev} {w : Nat} (up : d.inReset = false) (hw : w < 2 ^ 24) (no : bitAt w 0 = false) :
    d.resetWrite (keyed 0x5A w) =
      (let d := d.each (List.range 4) fun d n => if bitAt w (n + 1) then d.cdRstWrite n else d
       let d := if bitAt w 5 then d.bdRstWrite else d
       if bitAt w 6 then d.coreRstWrite (bitsAt (keyed 0x5A w) 8 6) else d) := by
  rw [Dev.resetWrite, if_neg (by rw [up, key_keyed hw]; decide), if_neg (by rw [bitAt_keyed (by decide), no]; decide)]
  simp only [bitAt_keyed (show 5 < 24 by decide), bitAt_keyed (show 6 < 24 by decide)]
  have loop : ∀ n ∈ List.range 4, bitAt (keyed 0x5A w) (n + 1) = bitAt w (n + 1) := fun n hn =>
    bitAt_keyed (by have := List.mem_range.mp hn; omega)
  have dies : d.each (List.range 4) (fun d n => if bitAt (keyed 0x5A w) (n + 1) then d.cdRstWrite n else d) =
      d.each (List.range 4) fun d n => if bitAt w (n + 1) then d.cdRstWrite n else d := by
    unfold Dev.each
    exact List.foldl_ext _ _ _ fun x n hn => by rw [loop n hn]
  rw [dies]

/-- The loop over the dies where no die's bit is set. -/
theorem resetDies_none {w : Nat} (h : ∀ n, n < 4 → bitAt w (n + 1) = false) (d : Dev) :
    (d.each (List.range 4) fun d n => if bitAt w (n + 1) then d.cdRstWrite n else d) = d := by
  simp [Dev.each, List.range_succ, h]

theorem resetWrite_cd {d : Dev} (up : d.inReset = false) (n : Die) :
    d.resetWrite (keyed 0x5A (2 ^ (1 + n.val))) = d.cdRstWrite n := by
  fin_cases n <;> rw [resetWrite_eq up (by decide) (by decide)] <;> simp [Dev.each, List.range_succ, bitAt]

theorem resetWrite_bd {d : Dev} (up : d.inReset = false) : d.resetWrite (keyed 0x5A 32) = d.bdRstWrite := by
  rw [resetWrite_eq up (by decide) (by decide), resetDies_none (by decide)]
  simp [bitAt]

theorem resetWrite_core {d : Dev} (up : d.inReset = false) (q : CoreId) :
    d.resetWrite (keyed 0x5A (64 + 256 * q.val)) = d.coreRstWrite q := by
  have hq := q.isLt
  have low : bitAt (64 + 256 * q.val) 0 = false := by simp only [bitAt, beq_eq_false_iff_ne]; omega
  have dies (n : Nat) (hn : n < 4) : bitAt (64 + 256 * q.val) (n + 1) = false := by
    obtain rfl | rfl | rfl | rfl : n = 0 ∨ n = 1 ∨ n = 2 ∨ n = 3 := by omega
    all_goals simp only [bitAt, beq_eq_false_iff_ne]; omega
  have base : bitAt (64 + 256 * q.val) 5 = false := by simp only [bitAt, beq_eq_false_iff_ne]; omega
  have core : bitAt (64 + 256 * q.val) 6 = true := by simp only [bitAt, beq_iff_eq]; omega
  have sel : bitsAt (keyed 0x5A (64 + 256 * q.val)) 8 6 = q.val := by simp only [bitsAt, keyed]; omega
  rw [resetWrite_eq up (by omega) low, resetDies_none dies]
  simp only [base, core, sel, Bool.false_eq_true, if_false, if_true]

theorem cdRst_restarts (m : Master) (n : Die) (s : State) (hl : Lets s m 0x50 true) (ok : s.dev.dieResetOk = true)
    (present : s.dev.cdPresent n = true) (active : bitAt s.dev.start.active n = true) :
    GivesBy m (.cdRst m n) s fun d => d.get K.DEV_MODE_MODE = 1 ∧ d.get K.DEV_START_STATUS_STAGE = 5 ∧
      d.bitOf K.DEV_RESET_CAUSE_CD_DIE n = true ∧ bitAt d.start.cdReleased n = true ∧
      bitAt d.start.cdTrained n = false := by
  have width : 2 ^ (1 + n.val) < 2 ^ 24 := Nat.pow_lt_pow_right (by decide) (by omega)
  refine reset_given rfl width hl ?_
  rw [resetWrite_cd (inReset_of_lets hl), s.dev.cdRstWrite_restarts n.isLt ok present active]
  have field (f : Fld) : ((s.dev.dieRestarted n).setStage 5).releaseNext.get f = ((s.dev.dieRestarted n).setStage 5).get f := by
    rw [releaseNext_regs]; rfl
  have released : bitAt (s.dev.dieRestarted n).start.cdReleased n = true := by
    rw [s.dev.dieRestarted_start n.isLt]
    exact (bitAt_putBitAt (s.dev.start.cdHeld n).cdReleased n n true).trans (if_pos rfl)
  refine ⟨?_, (field _).trans (Dev.get_set_same _ _ _), ?_, ?_, ?_⟩
  · rw [field, Dev.setStage, Dev.get_set_ne _ _ (by decide)]
    exact Dev.released_mode _ _
  · rw [Dev.bitOf, field, Dev.setStage, Dev.get_set_ne _ _ (by decide)]
    exact s.dev.dieRestarted_cause n.isLt
  · unfold Dev.releaseNext
    split
    next k _ =>
      refine (bitAt_putBitAt _ k n true).trans ?_
      split
      · rfl
      · exact released
    next => exact released
  · rw [releaseNext_start, Dev.setStage, Dev.start_set, s.dev.dieRestarted_start n.isLt]
    exact (bitAt_putBitAt s.dev.start.cdTrained n n false).trans (if_pos rfl)

theorem cdRst_refused (m : Master) (n : Die) (s : State) (hl : Lets s m 0x50 true) (no : s.dev.dieResetOk = false ∨
    s.dev.cdPresent n = false ∨ bitAt s.dev.start.active n = false) : GivesBy m (.cdRst m n) s fun d =>
      d.get K.DEV_MODE_REQ_REFUSED = 1 ∧ FieldsOnly s.dev d [K.DEV_MODE_REQ_REFUSED] := by
  have width : 2 ^ (1 + n.val) < 2 ^ 24 := Nat.pow_lt_pow_right (by decide) (by omega)
  have cond : (s.dev.dieResetOk && s.dev.cdPresent n && bitAt s.dev.start.active n) = false := by
    rcases no with h | h | h <;> simp [h]
  refine reset_given rfl width hl ?_
  rw [resetWrite_cd (inReset_of_lets hl), Dev.cdRstWrite, cond]
  exact refused_only s.dev

theorem bdRst_restarts (m : Master) (s : State) (hl : Lets s m 0x50 true) (ok : s.dev.dieResetOk = true) :
    GivesBy m (.bdRst m) s fun d => d.get K.DEV_MODE_MODE = 0 ∧ d.get K.DEV_START_STATUS_STAGE = 2 ∧
      d.get K.DEV_RESET_CAUSE_BD_DIE = 1 ∧ d.start.bdReleased = false := by
  refine reset_given rfl (by decide) hl ?_
  rw [resetWrite_bd (inReset_of_lets hl), s.dev.bdRstWrite_restarts ok]
  simp only [Dev.get_refreshLines, Dev.start_refreshLines]
  exact s.dev.baseRestarted_shows

theorem bdRst_refused (m : Master) (s : State) (hl : Lets s m 0x50 true) (no : s.dev.dieResetOk = false) :
    GivesBy m (.bdRst m) s fun d => d.get K.DEV_MODE_REQ_REFUSED = 1 ∧
      FieldsOnly s.dev d [K.DEV_MODE_REQ_REFUSED] := by
  refine reset_given rfl (by decide) hl ?_
  rw [resetWrite_bd (inReset_of_lets hl), Dev.bdRstWrite, no]
  exact refused_only s.dev

theorem drst_waits (m : Master) (s : State) (hl : Lets s m 0x50 true) :
    GivesBy m (.drst m) s fun d => d.start = { s.dev.start with hostRst := true } := by
  have effect : s.dev.resetWrite (keyed 0x5A 1) = s.dev.drstWrite := resetWrite_drst (inReset_of_lets hl)
  exact reset_given (w := 1) rfl (by decide) hl (by rw [effect, s.dev.drstWrite_start])

theorem coreRst_restores (m : Master) (q : CoreId) (s : State) (hl : Lets s m 0x50 true)
    (present : s.dev.corePresent q = true) (up : bitAt s.dev.start.cdReleased (q.val / 16) = true)
    (idle : ∀ x, s.dev.coreSite q = some x → s.dev.siteIn x [0, 5, 6] = true) :
    GivesBy m (.coreRst m q) s fun d => d.core q = {} ∧ (∀ y, y ≠ q.val → d.core y = s.dev.core y) ∧ BytesKept s.dev d ∧
      (∀ f : Fld, seqWin q ≤ f.key / 8 → f.key / 8 < seqWin q + 0x1000 → rstOf f.key = .core → d.get f = f.rst) ∧
      ∀ f : Fld, f.key / 8 < seqWin q ∨ seqWin q + 0x1000 ≤ f.key / 8 → f.key ≠ K.DBG_HALTED_LO.key →
        f.key ≠ K.DBG_HALTED_HI.key → d.get f = s.dev.get f := by
  have hq : q.val ≠ 64 := by omega
  have effect : s.dev.coreRstWrite q = s.dev.coreReset q := by
    unfold Dev.coreRstWrite
    cases e : s.dev.coreSite q with
    | none => simp [present, up]
    | some x => simp [present, up, stIdle, stParked, stAborted, idle x e]
  refine reset_given rfl (by omega) hl ?_
  rw [resetWrite_core (inReset_of_lets hl), effect]
  refine ⟨s.dev.core_coreReset_same q, fun y hy => s.dev.core_coreReset_ne hy,
    fun a => Dev.memGet_congr (s.dev.coreReset_memPart q) a, fun f lo hi hc => ?_, fun f out hl hh => ?_⟩
  · have low : 0x400000 ≤ f.key / 8 := le_trans (by unfold seqWin; omega) lo
    rw [s.dev.get_coreReset hq (by simp only [K.DBG_HALTED_LO]; omega) (by simp only [K.DBG_HALTED_HI]; omega),
      if_pos ⟨lo, hi, hc⟩]
  · rw [s.dev.get_coreReset hq hl hh, if_neg (by omega)]

theorem coreRst_refused (m : Master) (q : CoreId) (s : State) (hl : Lets s m 0x50 true) (x : Nat)
    (site : s.dev.coreSite q = some x) (busy : s.dev.siteIn x [0, 5, 6] = false) : GivesBy m (.coreRst m q) s fun d =>
      d.get K.DEV_MODE_REQ_REFUSED = 1 ∧ FieldsOnly s.dev d [K.DEV_MODE_REQ_REFUSED] := by
  have effect : s.dev.coreRstWrite q = s.dev.reqRefused := by
    simp [Dev.coreRstWrite, site, stIdle, stParked, stAborted, busy]
  refine reset_given rfl (by omega) hl ?_
  rw [resetWrite_core (inReset_of_lets hl), effect]
  exact refused_only s.dev

/-! ## START (R36, R37) -/

/-- What the write of DEV_START_CTRL leaves before the start: other registers but LOCKED_WR, every unit, and the active
die set that CD_MASK gives. -/
structure StartHeld (d x : Dev) : Prop where
  regs : x = { d with regs := x.regs }
  get : ∀ f : Fld, f.key / 32 ≠ 16 → f.key ≠ K.DEV_REG_STATUS_LOCKED_WR.key → x.get f = d.get f
  mask : x.get K.DEV_START_CTRL_CD_MASK &&& d.variant.cdMask = d.get K.DEV_START_CTRL_CD_MASK &&& d.variant.cdMask

theorem cdMask_lt (v : Variant) : v.cdMask < 2 ^ 4 := by cases v <;> decide

/-- A mask within four bits takes no more of a number than its four bits. -/
theorem and_mod_cdMask (a : Nat) (v : Variant) : (a % 2 ^ 4) &&& v.cdMask = a &&& v.cdMask := by
  have cut := Nat.and_mod_two_pow (a := a) (b := v.cdMask) (n := 4)
  rw [Nat.mod_eq_of_lt (cdMask_lt v), Nat.mod_eq_of_lt (lt_of_le_of_lt Nat.and_le_right (cdMask_lt v))] at cut
  exact cut.symm

theorem findReg_startCtrl : findReg 0x40 = some (⟨0x40, [], some (543, 0), [⟨0, 1, .w1s, 0, .drst⟩, ⟨4, 4, .rwl, 0, .drst⟩,
    ⟨8, 1, .rwl, 0, .drst⟩, ⟨31, 1, .lck, 0, .drst⟩]⟩, []) := by decide

/-- The word that START writes: CD_MASK and NOCAL as they are, and START. -/
theorem startWord (d : Dev) : d.heldWord 0x40 ||| 1 =
    2 ^ 4 * (d.get K.DEV_START_CTRL_CD_MASK % 2 ^ 4 + 2 ^ 4 * (d.get K.DEV_START_CTRL_NOCAL % 2 ^ 1)) + 1 := by
  have held : d.heldWord 0x40 =
      2 ^ 4 * (d.get K.DEV_START_CTRL_CD_MASK % 2 ^ 4 + 2 ^ 4 * (d.get K.DEV_START_CTRL_NOCAL % 2 ^ 1)) := by
    have fields : d.heldWord 0x40 = d.get K.DEV_START_CTRL_CD_MASK % 2 ^ 4 * 2 ^ 4 +
        (d.get K.DEV_START_CTRL_NOCAL % 2 ^ 1 * 2 ^ 8 + 0) := by
      rw [Dev.heldWord, findReg_startCtrl]; rfl
    rw [fields]; ring
  rw [held, Nat.two_pow_add_eq_or_of_lt (by decide)]

theorem StartHeld.refl (d : Dev) : StartHeld d d := ⟨rfl, fun _ _ _ => rfl, rfl⟩

section
variable {d x : Dev} (h : StartHeld d x)
include h

/-- A write of another field of DEV_START_CTRL. -/
theorem StartHeld.set {k : Fld} (v : Nat) (own : k.key / 32 = 16) (ne : K.DEV_START_CTRL_CD_MASK.key ≠ k.key) :
    StartHeld d (x.set k v) := by
  refine ⟨by rw [h.regs]; rfl, fun f hf hl => ?_, ?_⟩
  · rw [Dev.get_set_ne _ _ (fun e => hf (by rw [e, own])), h.get f hf hl]
  · rw [Dev.get_set_ne _ _ ne, h.mask]

/-- CD_MASK takes no die that the device does not have. -/
theorem StartHeld.setMask {v : Nat} (hv : v &&& d.variant.cdMask = d.get K.DEV_START_CTRL_CD_MASK &&& d.variant.cdMask) :
    StartHeld d (x.set K.DEV_START_CTRL_CD_MASK v) := by
  refine ⟨by rw [h.regs]; rfl, fun f hf hl => ?_, ?_⟩
  · rw [Dev.get_set_ne _ _ (fun e => hf (by rw [e]; rfl)), h.get f hf hl]
  · rw [Dev.get_set_same, show K.DEV_START_CTRL_CD_MASK.width = 4 from rfl, and_mod_cdMask, hv]

/-- A write under the lock is noted. -/
theorem StartHeld.lockedWr : StartHeld d x.lockedWr := by
  refine ⟨by rw [h.regs]; rfl, fun f hf hl => ?_, ?_⟩
  · rw [Dev.lockedWr, Dev.get_put_ne _ _ hl, h.get f hf hl]
  · rw [Dev.lockedWr, Dev.get_put_ne _ _ (by decide), h.mask]

end

/-- An RWL field takes the value, keeps its own, or notes the lock. -/
theorem fieldWrite_rwl_cases {d x : Dev} {a w lo wd rst v : Nat} {by' : RstBy} (l : Bool)
    (ht : d.fieldTake a lo (bitsAt w lo wd) = some v) :
    d.fieldWrite a w l x ⟨lo, wd, .rwl, rst, by'⟩ = x.set ⟨keyAt a lo, wd, rst⟩ v ∨
    d.fieldWrite a w l x ⟨lo, wd, .rwl, rst, by'⟩ = x ∨
    d.fieldWrite a w l x ⟨lo, wd, .rwl, rst, by'⟩ = x.lockedWr := by
  cases l with
  | false => exact .inl (Dev.fieldWrite_rwl_open ht)
  | true =>
    simp only [Dev.fieldWrite, ht, Bool.not_true, Bool.false_eq_true, if_false]
    split
    · exact .inr (.inl rfl)
    · exact .inr (.inr rfl)

section
variable {d x : Dev} (h : StartHeld d x) (w : Nat) (l : Bool)
include h

theorem StartHeld.writeMask (hw : bitsAt w 4 4 = d.get K.DEV_START_CTRL_CD_MASK % 2 ^ 4) :
    StartHeld d (d.fieldWrite 0x40 w l x ⟨4, 4, .rwl, 0, .drst⟩) := by
  have take : d.fieldTake 0x40 4 (bitsAt w 4 4) = some (bitsAt w 4 4 &&& d.variant.cdMask) := by simp [Dev.fieldTake]
  rcases fieldWrite_rwl_cases (x := x) (rst := 0) (by' := .drst) l take with e | e | e <;> rw [e]
  · exact h.setMask (by rw [Nat.and_assoc, Nat.and_self, hw, and_mod_cdMask])
  · exact h
  · exact h.lockedWr

theorem StartHeld.writeNocal : StartHeld d (d.fieldWrite 0x40 w l x ⟨8, 1, .rwl, 0, .drst⟩) := by
  have take : d.fieldTake 0x40 8 (bitsAt w 8 1) = some (bitsAt w 8 1) := by simp [Dev.fieldTake]
  rcases fieldWrite_rwl_cases (x := x) (rst := 0) (by' := .drst) l take with e | e | e <;> rw [e]
  · exact h.set _ (by decide) (by decide)
  · exact h
  · exact h.lockedWr

end

/-- A write of DEV_START_CTRL with the present CD_MASK, the lock bit 0. -/
theorem plainWrite_startCtrl (d : Dev) {w : Nat} (hw : bitsAt w 4 4 = d.get K.DEV_START_CTRL_CD_MASK % 2 ^ 4)
    (free : bitsAt w 31 1 = 0) : StartHeld d (d.plainWrite 0x40 w) := by
  have held (l : Bool) := (((StartHeld.refl d).writeMask w l hw).writeNocal w l)
  rw [Dev.plainWrite_fields findReg_startCtrl (by decide)]
  generalize d.regLocked _ _ = l
  have eq : d.each [⟨0, 1, .w1s, 0, .drst⟩, ⟨4, 4, .rwl, 0, .drst⟩, ⟨8, 1, .rwl, 0, .drst⟩, ⟨31, 1, .lck, 0, .drst⟩]
      (d.fieldWrite 0x40 w l) = d.fieldWrite 0x40 w l (d.fieldWrite 0x40 w l d ⟨4, 4, .rwl, 0, .drst⟩)
        ⟨8, 1, .rwl, 0, .drst⟩ := (Dev.fieldWrite_lck (d := d) (l := l)).trans (if_pos free)
  rw [eq]
  exact held l

/-- The record of a failure is cleared. -/
def recordCleared (d : Dev) : Dev :=
  let d := ((d.put K.DEV_START_STATUS_FAIL false).set K.DEV_START_STATUS_FAIL_CODE 0).set K.DEV_START_STATUS_FAIL_DIE 7
  (d.put K.DEV_START_STATUS_START_DONE false).put K.DEV_START_STATUS_NOCAL_USED false

/-- PWR_CHECK begins for the dies of a mask. -/
def startBegun (d : Dev) (mask : Nat) : Dev :=
  (((recordCleared d).put K.DEV_START_CTRL_START true).modStart fun x => { x with active := mask }).setStage 3

theorem get_recordCleared (d : Dev) {f : Fld} (h : ∀ g ∈ [K.DEV_START_STATUS_FAIL, K.DEV_START_STATUS_FAIL_CODE,
    K.DEV_START_STATUS_FAIL_DIE, K.DEV_START_STATUS_START_DONE, K.DEV_START_STATUS_NOCAL_USED], f.key ≠ g.key) :
    (recordCleared d).get f = d.get f :=
  (Dev.get_put_ne _ _ (h _ (by simp))).trans ((Dev.get_put_ne _ _ (h _ (by simp))).trans
    ((Dev.get_set_ne _ _ (h _ (by simp))).trans ((Dev.get_set_ne _ _ (h _ (by simp))).trans
      (Dev.get_put_ne _ _ (h _ (by simp))))))

theorem get_startBegun (d : Dev) (mask : Nat) {f : Fld} (hs : f.key ≠ K.DEV_START_STATUS_STAGE.key)
    (hc : f.key ≠ K.DEV_START_CTRL_START.key) : (startBegun d mask).get f = (recordCleared d).get f :=
  (Dev.get_set_ne _ _ hs).trans (Dev.get_put_ne _ _ hc)

theorem startWrite_begins {x : Dev} (up : x.inReset = false) (ok : x.start.selfTestFail = false)
    (clear : x.get K.DEV_START_STATUS_FAIL = 0) (stage : x.get K.DEV_START_STATUS_STAGE = 2)
    (mode : x.get K.DEV_MODE_MODE = 0) :
    x.startWrite = startBegun x (x.get K.DEV_START_CTRL_CD_MASK &&& x.variant.cdMask) := by
  have cond : (x.inReset || x.start.selfTestFail || !(x.startFailed || (x.stage == 2 && x.modeIn [mdSentry]))) = false := by
    simp [up, ok, Dev.stage, stage, modeIn_of_mode mode, mdSentry]
  have clean : x.startFailed = false := by rw [Dev.startFailed, Dev.on, clear]; rfl
  have mask : (recordCleared x).get K.DEV_START_CTRL_CD_MASK = x.get K.DEV_START_CTRL_CD_MASK :=
    get_recordCleared x (by decide)
  rw [← mask, Dev.startWrite, cond, clean]
  rfl

theorem start_begins (m : Master) (s : State) (hl : Lets s m 0x40 true) (ok : s.dev.start.selfTestFail = false)
    (clear : s.dev.get K.DEV_START_STATUS_FAIL = 0) (stage : s.dev.get K.DEV_START_STATUS_STAGE = 2)
    (mode : s.dev.get K.DEV_MODE_MODE = 0) : GivesBy m (.startRequest m) s fun d =>
      d.get K.DEV_START_STATUS_STAGE = 3 ∧ d.get K.DEV_START_STATUS_FAIL_CODE = 0 ∧
      d.get K.DEV_START_STATUS_FAIL_DIE = 7 ∧ d.get K.DEV_START_STATUS_START_DONE = 0 ∧
      d.get K.DEV_START_CTRL_START = 1 ∧
      d = { s.dev with
        regs := d.regs
        start := { s.dev.start with active := s.dev.get K.DEV_START_CTRL_CD_MASK &&& s.dev.variant.cdMask } } ∧
      FieldsKeptBut s.dev d 0x40 [K.DEV_START_STATUS_STAGE, K.DEV_START_STATUS_FAIL, K.DEV_START_STATUS_FAIL_CODE,
        K.DEV_START_STATUS_FAIL_DIE, K.DEV_START_STATUS_START_DONE, K.DEV_START_STATUS_NOCAL_USED,
        K.DEV_REG_STATUS_LOCKED_WR] := by
  have word := startWord s.dev
  have cut : s.dev.get K.DEV_START_CTRL_CD_MASK % 2 ^ 4 < 2 ^ 4 := Nat.mod_lt _ (by decide)
  have nocal : s.dev.get K.DEV_START_CTRL_NOCAL % 2 ^ 1 < 2 ^ 1 := Nat.mod_lt _ (by decide)
  generalize hw : s.dev.heldWord 0x40 ||| 1 = w at word
  have small : w < 2 ^ 32 := by rw [word]; omega
  have bit0 : bitAt w 0 = true := by rw [word]; simp only [bitAt, beq_iff_eq]; omega
  have mask4 : bitsAt w 4 4 = s.dev.get K.DEV_START_CTRL_CD_MASK % 2 ^ 4 := by rw [word]; simp only [bitsAt]; omega
  have free : bitsAt w 31 1 = 0 := by rw [word]; simp only [bitsAt]; omega
  obtain ⟨regs, get, mask⟩ := plainWrite_startCtrl s.dev mask4 free
  have run : exec (.startRequest m) s = s.writes m 0x40 w := by rw [← hw]; rfl
  have effect : s.dev.regWrite m 0x40 w = (s.dev.plainWrite 0x40 w).startWrite := by
    simp [Dev.regWrite, hl.2, slowReg, Dev.devWrite, bit0]
  generalize s.dev.plainWrite 0x40 w = x at regs get mask effect
  have up : x.inReset = false := by rw [regs]; exact inReset_of_lets hl
  have begins : x.startWrite = startBegun x (s.dev.get K.DEV_START_CTRL_CD_MASK &&& s.dev.variant.cdMask) := by
    have variant : x.variant = s.dev.variant := by rw [regs]; rfl
    have field {f : Fld} (h : f.key / 32 ≠ 16) (h' : f.key ≠ K.DEV_REG_STATUS_LOCKED_WR.key) := get f h h'
    rw [← mask, ← variant]
    refine startWrite_begins up (by rw [regs]; exact ok) ?_ ?_ ?_
    · rw [field (by decide) (by decide), clear]
    · rw [field (by decide) (by decide), stage]
    · rw [field (by decide) (by decide), mode]
  refine givesBy_writes run small hl ⟨by decide, by decide, by decide, by decide, by decide⟩ ?_
  rw [effect, begins]
  refine ⟨Dev.get_set_same _ _ _, ?_, ?_, ?_, ?_, ?_, fun f own hf => ?_⟩
  · rw [get_startBegun _ _ (by decide) (by decide)]
    exact (Dev.get_put_ne _ _ (by decide)).trans ((Dev.get_put_ne _ _ (by decide)).trans
      ((Dev.get_set_ne _ _ (by decide)).trans (Dev.get_set_same _ _ _)))
  · rw [get_startBegun _ _ (by decide) (by decide)]
    exact (Dev.get_put_ne _ _ (by decide)).trans ((Dev.get_put_ne _ _ (by decide)).trans (Dev.get_set_same _ _ _))
  · rw [get_startBegun _ _ (by decide) (by decide)]
    exact (Dev.get_put_ne _ _ (by decide)).trans (Dev.get_put_same _ _ false (by decide))
  · exact (Dev.get_set_ne _ _ (by decide)).trans (Dev.get_put_same _ _ true (by decide))
  · rw [regs]; rfl
  · rw [get_startBegun _ _ (hf _ (by simp)) (fun e => own (by rw [e]; rfl)), get_recordCleared x fun g hg => hf g ?_,
      get f own (hf _ (by simp))]
    simp only [List.mem_cons, List.not_mem_nil, or_false] at hg ⊢
    tauto

/-- Settles O16: each request is judged by its register's write, which does what it asks or sets REQ_REFUSED alone. -/
theorem startAndResetRequests : Obligations.StartAndResetRequests := by
  intro m n q s
  refine ⟨fun hl ok clear stage mode => start_begins m s hl ok clear stage mode,
    fun hl => ⟨enterLoad_load m s hl, enterLoad_refused m s hl⟩,
    fun hl => ⟨drst_waits m s hl, cdRst_restarts m n s hl, cdRst_refused m n s hl, bdRst_restarts m s hl,
      bdRst_refused m s hl, coreRst_restores m q s hl, coreRst_refused m q s hl⟩⟩

end Sys2Proof.Slice0
end

section
/-! SUPPORT. A register of a core's SEQ window (R154, R567): its description, and a write that the hub lets through. -/

open Sys2Proof Sys2Proof.Slice0

namespace Sys2Proof.Machine

/-! ## Finding a register of the SEQ windows (R567, R568) -/

/-- A register with a copy in each core's window, at or below offset `o` of it. -/
def seqBelow (o : Nat) (r : RegDesc) : Bool :=
  r.dims.take 2 == [(4, 0x100000), (16, 0x1000)] && decide (0x400000 ≤ r.base) && decide (r.base ≤ 0x400000 + o)

/-- The index numbers of a register found in the first core's window, for core `q`. -/
def inWindow (q : Nat) (p : RegDesc × List Nat) : RegDesc × List Nat := (p.1, q / 16 :: q % 16 :: p.2.drop 2)

theorem seqAddr_eq (q o : Nat) : seqAddr q o = 0x400000 + 0x100000 * (q / 16) + 0x1000 * (q % 16) + o := by
  simp only [seqAddr, dieAddr]; omega

/-- The copy of a SEQ register in the window of core `q` is the first window's, beside the core's own numbers. -/
theorem instanceOf_seq {q o b : Nat} (hq : q < 64) (ho : o < 0x1000) (hb : b ≤ o) (l : List (Nat × Nat)) :
    instanceOf ((4, 0x100000) :: (16, 0x1000) :: l) (seqAddr q o - (0x400000 + b)) =
      (instanceOf l (o - b)).map fun is => q / 16 :: q % 16 :: is := by
  have die : (seqAddr q o - (0x400000 + b)) / 0x100000 = q / 16 := by rw [seqAddr_eq]; omega
  have core : (seqAddr q o - (0x400000 + b) - q / 16 * 0x100000) / 0x1000 = q % 16 := by rw [seqAddr_eq]; omega
  have rest : seqAddr q o - (0x400000 + b) - q / 16 * 0x100000 - q % 16 * 0x1000 = o - b := by rw [seqAddr_eq]; omega
  simp only [instanceOf, die, core, rest, show q / 16 < 4 by omega, show q % 16 < 16 by omega, if_true, Option.map_map]
  rfl

/-- A search among SEQ registers finds in the window of core `q` what it finds in the first. -/
theorem findIn_seq {q o : Nat} (hq : q < 64) (ho : o < 0x1000) (l : List RegDesc) (h : ∀ r ∈ l, seqBelow o r = true) :
    findIn (seqAddr q o) l = (findIn (0x400000 + o) l).map (inWindow q) := by
  induction l with
  | nil => rfl
  | cons r l ih =>
    have shape := h r (by simp)
    simp only [seqBelow, Bool.and_eq_true, beq_iff_eq, decide_eq_true_eq] at shape
    obtain ⟨⟨dims, lo⟩, hi⟩ := shape
    obtain ⟨b, base⟩ : ∃ b, r.base = 0x400000 + b := ⟨r.base - 0x400000, by omega⟩
    have split : r.dims = (4, 0x100000) :: (16, 0x1000) :: r.dims.drop 2 := by
      rw [← List.take_append_drop 2 r.dims, dims]; rfl
    have reached : 0x400000 + b ≤ seqAddr q o := by rw [seqAddr_eq]; omega
    have first : instanceOf r.dims (0x400000 + o - (0x400000 + b)) =
        (instanceOf (r.dims.drop 2) (o - b)).map fun is => 0 :: 0 :: is := by
      rw [split, ← show seqAddr 0 o = 0x400000 + o by rw [seqAddr_eq]]
      exact instanceOf_seq (q := 0) (b := b) (by decide) ho (by omega) _
    have here : instanceOf r.dims (seqAddr q o - (0x400000 + b)) =
        (instanceOf (r.dims.drop 2) (o - b)).map fun is => q / 16 :: q % 16 :: is := by
      rw [split]
      exact instanceOf_seq (b := b) hq ho (by omega) _
    simp only [findIn, base, reached, if_true, here, first, show 0x400000 + b ≤ 0x400000 + o by omega]
    cases instanceOf (r.dims.drop 2) (o - b) with
    | none => exact ih fun r hr => h r (by simp [hr])
    | some is => rfl

theorem findIn_append_of_some {a : Nat} {l : List RegDesc} {p : RegDesc × List Nat} (h : findIn a l = some p)
    (l' : List RegDesc) : findIn a (l ++ l') = some p := by
  induction l with
  | nil => cases h
  | cons r l ih =>
    simp only [findIn, List.cons_append] at h ⊢
    split
    next i e => rwa [e] at h
    next e => rw [e] at h; exact ih h

/-- The registers of the SEQ windows. -/
def seqRegs : List RegDesc := regs40a ++ regs40b

/-- A register that the first `n` descriptions of the SEQ windows show at offset `o` is that of every core. -/
theorem findReg_seq {q o n : Nat} {p : RegDesc × List Nat} (hq : q < 64) (ho : o < 0x1000)
    (below : ∀ r ∈ seqRegs.take n, seqBelow o r = true) (h : findIn (0x400000 + o) (seqRegs.take n) = some p) :
    findReg (seqAddr q o) = some (inWindow q p) := by
  have block : regsOfBlock (descBlock (seqAddr q o)) = seqRegs := by
    have at' : descBlock (seqAddr q o) = 0x40 + 16 * (q / 16) := by rw [descBlock, seqAddr_eq]; omega
    rw [at']
    obtain e | e | e | e : q / 16 = 0 ∨ q / 16 = 1 ∨ q / 16 = 2 ∨ q / 16 = 3 := by omega
    all_goals rw [e]; rfl
  rw [findReg, block, ← List.take_append_drop n seqRegs]
  refine findIn_append_of_some ?_ _
  rw [findIn_seq hq ho _ below, h]; rfl

/-! ## A write to a SEQ window (R154, R574) -/

/-- A write to the window of a core is the core's own. -/
theorem Dev.regWrite_seq {d : Dev} {q o : Nat} (hq : q < 64) (ho : o < 0x1000) (dark : d.regDark (seqAddr q o) = false)
    (m : Master) (w : Nat) : d.regWrite m (seqAddr q o) w = d.seqRegWrite q o (seqAddr q o) w := by
  have eq := seqAddr_eq q o
  have die : (seqAddr q o - 0x400000) / 0x100000 = q / 16 := by omega
  have off : (seqAddr q o - 0x400000) % 0x100000 = 0x1000 * (q % 16) + o := by omega
  have above (n : Nat) (hn : n ≤ 0x400000) : ¬ seqAddr q o < n := by omega
  have core : 16 * (q / 16) + (0x1000 * (q % 16) + o) / 0x1000 = q := by omega
  have win : (0x1000 * (q % 16) + o) % 0x1000 = o := by omega
  simp only [Dev.regWrite, dark, slowReg_eq_false_of_ge (show 0x600B4 ≤ seqAddr q o by omega), Bool.false_eq_true,
    if_false, show seqAddr q o ≠ 0x18 by omega, above 0x40000 (by decide), above 0x80000 (by decide),
    above 0xA0000 (by decide), above 0x100000 (by decide), above 0x200000 (by decide), die, off, Dev.dieWrite,
    show 0x1000 * (q % 16) + o < 0x10000 by omega, if_true, core, win]

/-- A command that writes a register of a core's window has the window's own effect. -/
theorem givesBy_writes_seq {c : Instr} {m : Master} {s : State} {P : Dev → Prop} {q o w : Nat} (hq : q < 64)
    (ho : o < 0x1000) (h : exec c s = s.writes m (seqAddr q o) w) (hl : Lets s m (seqAddr q o) true)
    (hp : P (s.dev.seqRegWrite q o (seqAddr q o) w)) : GivesBy m c s P := by
  obtain ⟨reach, dark⟩ := hl
  have eq := seqAddr_eq q o
  have way : s.dev.regReach m (seqAddr q o) true = (s.dev, true) := Prod.ext (Dev.regReach_fst reach) reach
  have port (d : Dev) : d.portFault m (seqAddr q o) = d := by
    cases m <;> simp [Dev.portFault, isPort_eq_false (.inr (show 0x40000 ≤ seqAddr q o by omega))]
  refine ⟨s.dev.seqRegWrite q o (seqAddr q o) w, ?_, hp⟩
  rw [h, ← Dev.regWrite_seq hq ho dark m w]
  change Host.Outcome.next (s.busWrite m (seqAddr q o) w) = _
  simp [State.busWrite, way, State.regWrite, dark, show seqAddr q o ≠ 0x4C by omega, show seqAddr q o ≠ 0x104 by omega,
    show ¬ seqAddr q o < 0x47000 by omega, show 0x400000 ≤ seqAddr q o by omega,
    show (seqAddr q o - 0x400000) % 0x100000 ≠ 0x5011C by omega,
    show (seqAddr q o - 0x400000) % 0x100000 ≠ 0x5015C by omega, State.onDev, State.onDevAs, port]

/-! ## SEQ_EVI_CNT (R121, R154) -/

theorem seqRegs_eviCnt : ∀ i : Fin 16, (∀ r ∈ seqRegs.take 26, seqBelow (0x80 + 4 * i.val) r = true) ∧
    findIn (0x400000 + (0x80 + 4 * i.val)) (seqRegs.take 26) = some (⟨0x400080, [(4, 1048576), (16, 4096), (16, 4)], none,
      [⟨0, 8, .rw, 0, .core⟩]⟩, [0, 0, i.val]) := by decide

theorem findReg_eviCnt {q : Nat} (hq : q < 64) (i : Fin 16) : findReg (seqAddr q (0x80 + 4 * i.val)) =
    some (⟨0x400080, [(4, 1048576), (16, 4096), (16, 4)], none, [⟨0, 8, .rw, 0, .core⟩]⟩, [q / 16, q % 16, i.val]) := by
  obtain ⟨below, found⟩ := seqRegs_eviCnt i
  exact findReg_seq hq (by omega) below found

/-- SEQ_EVI_ROUTE, which follows the counters. -/
theorem findReg_eviRoute {q : Nat} (hq : q < 64) : findReg (seqAddr q 0xC0) =
    some (⟨0x4000C0, [(4, 1048576), (16, 4096), (16, 4)], some (33554495, 2),
      [⟨0, 3, .rwl, 0, .die⟩, ⟨3, 5, .rwl, 0, .die⟩]⟩,
      [q / 16, q % 16, 0]) := findReg_seq (n := 27) (p := (_, [0, 0, 0])) hq (by decide) (by decide) (by decide)

/-- No counter is the LO word of another register. -/
theorem rsMask_after_eviCnt {q : Nat} (hq : q < 64) (i : Fin 16) : rsMask (seqAddr q (0x80 + 4 * i.val) + 4) = 0 := by
  have next : seqAddr q (0x80 + 4 * i.val) + 4 = seqAddr q (0x80 + 4 * (i.val + 1)) := by
    simp only [seqAddr_eq]; omega
  have other : seqAddr q (0x80 + 4 * (i.val + 1)) ≠ 0x100024 := by rw [seqAddr_eq]; omega
  rw [next, rsMask, if_neg other]
  by_cases last : i.val + 1 < 16
  · rw [findReg_eviCnt hq ⟨i.val + 1, last⟩]; rfl
  · rw [show 0x80 + 4 * (i.val + 1) = 0xC0 by omega, findReg_eviRoute hq]; rfl

/-- A write of SEQ_EVI_CNT loads the counter, which a pending WAITE then takes from (R121). -/
theorem Dev.seqRegWrite_eviCnt (d : Dev) {q : Nat} (hq : q < 64) (i : Fin 16) {w : Nat} (hw : w < 256) :
    d.seqRegWrite q (0x80 + 4 * i.val) (seqAddr q (0x80 + 4 * i.val)) w =
      (d.set (K.SEQ_EVI_CNT_CNT (q / 16) (q % 16) i) w).waiteTake q i := by
  have value : bitsAt w 0 8 = w := by simp only [bitsAt]; omega
  have take : d.fieldTake (seqAddr q (0x80 + 4 * i.val)) 0 (bitsAt w 0 8) = some w := by
    have eq := seqAddr_eq q (0x80 + 4 * i.val)
    rw [value]
    unfold Dev.fieldTake
    repeat rw [if_neg (by omega)]
    rw [if_pos (by omega)]
    dsimp only
    repeat rw [if_neg (by omega)]
  have key : keyAt (seqAddr q (0x80 + 4 * i.val)) 0 = (K.SEQ_EVI_CNT_CNT (q / 16) (q % 16) i).key := by
    simp only [keyAt, K.SEQ_EVI_CNT_CNT, seqAddr_eq]; omega
  have plain : d.plainWrite (seqAddr q (0x80 + 4 * i.val)) w = d.set (K.SEQ_EVI_CNT_CNT (q / 16) (q % 16) i) w := by
    rw [Dev.plainWrite_fields (findReg_eviCnt hq i) (by simp [rsMask_after_eviCnt hq i])]
    simp only [Dev.each, List.foldl_cons, List.foldl_nil, Dev.fieldWrite_rw take, key]
    rfl
  have input : (0x80 + 4 * i.val - 0x80) / 4 = i.val := by omega
  have within : 0x80 ≤ 0x80 + 4 * i.val ∧ 0x80 + 4 * i.val < 0xC0 := by omega
  unfold Dev.seqRegWrite
  split
  case h_9 => rw [plain, if_pos within, input]
  all_goals omega

end Sys2Proof.Machine
end

section
/-! SUPPORT. Event inputs (R119 to R121, R130, R131, R170): the pending counters, the waits that take from them, and the
arrivals on their way. -/

open Sys2Proof Sys2Proof.Slice0

namespace Sys2Proof.Machine

/-! ## The pending counters (R119) -/

theorem eviCnt_key_inj {x y i j : Nat} (hi : i < 16) (hj : j < 16)
    (h : (K.SEQ_EVI_CNT_CNT (y / 16) (y % 16) j).key = (K.SEQ_EVI_CNT_CNT (x / 16) (x % 16) i).key) : y = x ∧ j = i := by
  simp only [K.SEQ_EVI_CNT_CNT] at h; omega

theorem Dev.evi_hub (d : Dev) (i : Nat) : d.evi 64 i = tblGet 0 (d.core 64).evi i := if_pos rfl

theorem Dev.evi_core (d : Dev) {x : Nat} (hx : x ≠ 64) (i : Nat) :
    d.evi x i = d.get (K.SEQ_EVI_CNT_CNT (x / 16) (x % 16) i) := if_neg hx

theorem Dev.setEvi_hub (d : Dev) (i v : Nat) :
    d.setEvi 64 i v = d.modCore 64 fun c => { c with evi := tblPut c.evi i (v % 256) } := if_pos rfl

theorem Dev.setEvi_core (d : Dev) {x : Nat} (hx : x ≠ 64) (i v : Nat) :
    d.setEvi x i v = d.set (K.SEQ_EVI_CNT_CNT (x / 16) (x % 16) i) v := if_neg hx

/-- A counter is read from its register or from the hub controller. -/
theorem Dev.evi_congr {d d' : Dev} {x i : Nat}
    (reg : d'.get (K.SEQ_EVI_CNT_CNT (x / 16) (x % 16) i) = d.get (K.SEQ_EVI_CNT_CNT (x / 16) (x % 16) i))
    (hub : (d'.core 64).evi = (d.core 64).evi) : d'.evi x i = d.evi x i := by
  by_cases hx : x = 64
  · subst hx; rw [Dev.evi_hub, Dev.evi_hub, hub]
  · rw [Dev.evi_core _ hx, Dev.evi_core _ hx, reg]

theorem Dev.evi_modCore (d : Dev) (x : Nat) {g : Core → Core} (hg : ∀ c, (g c).evi = c.evi) (y i : Nat) :
    (d.modCore x g).evi y i = d.evi y i := by
  refine Dev.evi_congr rfl ?_
  by_cases hx : 64 = x
  · subst hx; rw [Dev.core_modCore_same, hg]
  · rw [Dev.core_modCore_ne _ _ hx]

/-- The counter of input `i` of `x` has become `v`, and no other has changed. -/
def Counted (d d' : Dev) (x i v : Nat) : Prop :=
  d'.evi x i = v ∧ ∀ y j, y < 65 → j < 16 → ¬ (y = x ∧ j = i) → d'.evi y j = d.evi y j

theorem Counted.trans {a b c : Dev} {x i u v : Nat} (h : Counted a b x i u) (k : Counted b c x i v) :
    Counted a c x i v :=
  ⟨k.1, fun y j hy hj ne => (k.2 y j hy hj ne).trans (h.2 y j hy hj ne)⟩

/-- A counter stays counted whatever happens to neither the counters' registers nor the hub controller's counters. -/
theorem Counted.of_evi {a b c : Dev} {x i v : Nat} (h : Counted a b x i v) (hi : i < 16)
    (e : ∀ y j, j < 16 → c.evi y j = b.evi y j) : Counted a c x i v :=
  ⟨(e x i hi).trans h.1, fun y j hy hj ne => (e y j hj).trans (h.2 y j hy hj ne)⟩

/-- A counter set counts. -/
theorem Dev.setEvi_counted (d : Dev) {x i v : Nat} (hi : i < 16) (hv : v < 256) : Counted d (d.setEvi x i v) x i v := by
  by_cases hx : x = 64
  · subst hx
    rw [Dev.setEvi_hub]
    refine ⟨by rw [Dev.evi_hub, Dev.core_modCore_same, tblGet_put_same, Nat.mod_eq_of_lt hv], fun y j _ _ ne => ?_⟩
    by_cases hy : y = 64
    · subst hy
      rw [Dev.evi_hub, Dev.evi_hub, Dev.core_modCore_same, tblGet_put_ne _ _ _ (fun e => ne ⟨rfl, e⟩)]
    · rw [Dev.evi_core _ hy, Dev.evi_core _ hy, Dev.get_modCore]
  · rw [Dev.setEvi_core _ hx]
    refine ⟨by rw [Dev.evi_core _ hx, Dev.get_set_lt]; exact hv, fun y j _ hj ne => ?_⟩
    by_cases hy : y = 64
    · subst hy; rw [Dev.evi_hub, Dev.evi_hub, Dev.core_set]
    · rw [Dev.evi_core _ hy, Dev.evi_core _ hy, Dev.get_set_ne _ _ fun e => ne (eviCnt_key_inj hi hj e)]

/-- A counter set changes of the controllers the hub controller's counters alone. -/
theorem Dev.setEvi_own (d : Dev) (x i v y : Nat) :
    (d.setEvi x i v).core y = { d.core y with evi := ((d.setEvi x i v).core y).evi } := by
  by_cases hx : x = 64
  · subst hx
    rw [Dev.setEvi_hub]
    by_cases hy : y = 64
    · subst hy; rw [Dev.core_modCore_same]
    · rw [Dev.core_modCore_ne _ _ hy]
  · rw [Dev.setEvi_core _ hx, Dev.core_set]

theorem Dev.core_setEvi_ne (d : Dev) {x y : Nat} (i v : Nat) (h : y ≠ x) : (d.setEvi x i v).core y = d.core y := by
  by_cases hx : x = 64
  · subst hx; rw [Dev.setEvi_hub, Dev.core_modCore_ne _ _ h]
  · rw [Dev.setEvi_core _ hx, Dev.core_set]

theorem Dev.flight_setEvi (d : Dev) (x i v : Nat) : (d.setEvi x i v).flight = d.flight := by
  unfold Dev.setEvi; split <;> rfl

/-! ## Waits (R170 to R172) -/

/-- Every other controller and every byte of memory is as it was. -/
def OthersKept (x : Nat) (d d' : Dev) : Prop := (∀ y, y ≠ x → d'.core y = d.core y) ∧ BytesKept d d'

theorem OthersKept.trans {x : Nat} {a b c : Dev} (h : OthersKept x a b) (k : OthersKept x b c) : OthersKept x a c :=
  ⟨fun y hy => (k.1 y hy).trans (h.1 y hy), fun o => (k.2 o).trans (h.2 o)⟩

theorem Dev.modCore_others (d : Dev) (x : Nat) (g : Core → Core) : OthersKept x d (d.modCore x g) :=
  ⟨fun _ hy => Dev.core_modCore_ne _ _ hy, fun a => Dev.memGet_congr (Dev.modCore_memPart _ _ _) a⟩

theorem Dev.setEvi_others (d : Dev) (x i v : Nat) : OthersKept x d (d.setEvi x i v) :=
  ⟨fun _ hy => d.core_setEvi_ne _ _ hy, fun a => Dev.memGet_congr (Dev.setEvi_memPart _ _ _ _) a⟩

theorem pcWrap_ofNat (n : Nat) : pcWrap (n : Int) = n % 2 ^ 48 / 8 * 8 := by
  simp only [pcWrap, narrow]; omega

/-- The wait of `c` has ended with `v` in g[r]: the pipeline runs on behind the instruction of `len` bytes. -/
def WaitEnded (c c' : Core) (r len : Nat) (v : DWord) : Prop :=
  c'.ctl = .run ∧ c'.pc = (c.pc + len) % 2 ^ 48 / 8 * 8 ∧ ∀ k, c'.gGet k = if k = r ∧ k ≠ 0 then v else c.gGet k

theorem Core.gSet_kept (c : Core) (r : Nat) (v : DWord) : (c.gSet r v).pc = c.pc ∧ (c.gSet r v).evi = c.evi ∧
    (c.gSet r v).stepping = c.stepping := by
  unfold Core.gSet; split <;> exact ⟨rfl, rfl, rfl⟩

theorem Core.endWait_evi (c : Core) (r len : Nat) (v : DWord) : (c.endWait r len v).evi = c.evi := (c.gSet_kept r v).2.1

theorem Core.endWait_stepping (c : Core) (r len : Nat) (v : DWord) : (c.endWait r len v).stepping = c.stepping :=
  (c.gSet_kept r v).2.2

theorem Core.endWait_ended (c : Core) (r len : Nat) (v : DWord) : WaitEnded c (c.endWait r len v) r len v :=
  ⟨rfl, pcWrap_ofNat _, fun k => c.gGet_gSet r k v⟩

/-- A wait that ends is that of any controller with the same program counter and g registers. -/
theorem WaitEnded.of_eq {c x c' : Core} {r len : Nat} {v : DWord} (h : WaitEnded x c' r len v) (pc : x.pc = c.pc)
    (g : x.g = c.g) : WaitEnded c c' r len v := by
  obtain ⟨run, next, regs⟩ := h
  refine ⟨run, by rw [next, pc], fun k => ?_⟩
  rw [regs, Core.gGet, Core.gGet, g]

/-- A count taken by a wait. -/
def Dev.taken (d : Dev) (x i r len : Nat) : Dev :=
  (d.setEvi x i (d.evi x i - 1)).modCore x fun c => c.endWait r len 1

theorem Dev.taken_counted (d : Dev) {x i : Nat} (r len : Nat) (hi : i < 16) (le : d.evi x i ≤ 255) :
    Counted d (d.taken x i r len) x i (d.evi x i - 1) :=
  (d.setEvi_counted hi (by omega)).of_evi hi fun _ _ _ => Dev.evi_modCore _ _ (fun c => c.endWait_evi _ _ _) _ _

theorem Dev.taken_ended (d : Dev) (x i r len : Nat) : WaitEnded (d.core x) ((d.taken x i r len).core x) r len 1 := by
  rw [Dev.taken, Dev.core_modCore_same]
  exact (Core.endWait_ended _ _ _ _).of_eq (by rw [Dev.setEvi_own]) (by rw [Dev.setEvi_own])

theorem Dev.taken_others (d : Dev) (x i r len : Nat) : OthersKept x d (d.taken x i r len) :=
  (d.setEvi_others _ _ _).trans (Dev.modCore_others _ _ _)

theorem Dev.waiteTake_idle {d : Dev} {x : Nat} (h : ∀ i dl r len, (d.core x).ctl ≠ .waitE i dl r len) (i : Nat) :
    d.waiteTake x i = d := by
  unfold Dev.waiteTake
  split
  next e => exact absurd e (h _ _ _ _)
  next => rfl

theorem Dev.waiteTake_takes {d : Dev} {x i r len : Nat} {dl : Option Nat} (h : (d.core x).ctl = .waitE i dl r len)
    (run : (d.core x).halted = false) (pos : 0 < d.evi x i) : d.waiteTake x i = d.taken x i r len := by
  simp [Dev.waiteTake, h, run, pos, Dev.taken]

/-- A counter set above 0 for a WAITE pending on it: the WAITE takes one count from it at once (R121). -/
theorem Dev.setEvi_taken {d : Dev} {x i v r len : Nat} {dl : Option Nat} (h : (d.core x).ctl = .waitE i dl r len)
    (run : (d.core x).halted = false) (hi : i < 16) (pos : 0 < v) (hv : v < 256) :
    Counted d ((d.setEvi x i v).waiteTake x i) x i (v - 1) ∧
      WaitEnded (d.core x) (((d.setEvi x i v).waiteTake x i).core x) r len 1 ∧
      OthersKept x d ((d.setEvi x i v).waiteTake x i) := by
  have counted := d.setEvi_counted (x := x) hi hv
  have own := d.setEvi_own x i v x
  have takes : (d.setEvi x i v).waiteTake x i = (d.setEvi x i v).taken x i r len :=
    Dev.waiteTake_takes (dl := dl) (by rw [own]; exact h) (by rw [own]; exact run) (by rw [counted.1]; exact pos)
  rw [takes]
  refine ⟨?_, ((d.setEvi x i v).taken_ended x i r len).of_eq (by rw [own]) (by rw [own]),
    (d.setEvi_others _ _ _).trans ((d.setEvi x i v).taken_others x i r len)⟩
  have le : (d.setEvi x i v).evi x i ≤ 255 := by rw [counted.1]; omega
  have took := (d.setEvi x i v).taken_counted r len hi le
  rw [counted.1] at took
  exact counted.trans took

/-! ## Arrivals (R121) -/

/-- A class B record leaves every controller as it was (R553). -/
theorem Dev.core_post_b (d : Dev) {r : Rec} (hr : r.cls = 2) (y : Nat) : (d.post r).core y = d.core y := by
  simp only [Dev.post, hr, show ¬ 2 = 1 by decide, show ¬ 2 = 3 by decide, if_false, decide_false, Bool.false_and,
    Bool.false_eq_true]
  split
  · rfl
  · simp only [Dev.lose, if_true, Dev.count48]
    split <;> rfl

/-- The counters' registers are not those of the loss counter of class B. -/
theorem eviCnt_not_lost (n k i : Nat) : ∀ g ∈ lostB, (K.SEQ_EVI_CNT_CNT n k i).key ≠ g.key := by
  simp [lostB, K.SEQ_EVI_CNT_CNT, K.EVL_B_LOST_LO_COUNT_LO, K.EVL_B_LOST_HI_COUNT_HI, K.EVL_B_LOST_HI_OVF]
  omega

theorem Dev.evi_post_b (d : Dev) {r : Rec} (hr : r.cls = 2) (x i : Nat) : (d.post r).evi x i = d.evi x i :=
  Dev.evi_congr (d.get_post_b hr (eviCnt_not_lost _ _ _)) (by rw [d.core_post_b hr])

theorem Dev.arrive_counts {d : Dev} {x i n : Nat} (le : d.evi x i + n ≤ 255) :
    d.arrive x i n = (d.setEvi x i (d.evi x i + n)).waiteTake x i := by
  rw [Dev.arrive, if_neg (by omega)]

/-- Where no WAITE is pending the arrivals are counted. -/
theorem Dev.arrive_idle {d : Dev} {x i n : Nat} (h : ∀ i dl r len, (d.core x).ctl ≠ .waitE i dl r len)
    (le : d.evi x i + n ≤ 255) : d.arrive x i n = d.setEvi x i (d.evi x i + n) := by
  rw [Dev.arrive_counts le, Dev.waiteTake_idle (by rw [Dev.setEvi_own]; exact h)]

/-- The overflow noted: EVI_OVF with its record for a core, a record for the hub controller. -/
def Dev.overflown (d : Dev) (x i : Nat) : Dev :=
  if x = 64 then d.logB 0x105 blkHUBC i
  else (d.putBit (K.SEQ_EVI_STATUS_EVI_OVF (x / 16) (x % 16)) i true).logBOn (x / 16) 0x105 (x % 16) i (d.coreSite x)

theorem Dev.core_overflown (d : Dev) (x i y : Nat) : (d.overflown x i).core y = d.core y := by
  unfold Dev.overflown
  split
  · exact Dev.core_post_b _ rfl y
  · exact Dev.core_post_b _ rfl y

theorem Dev.evi_overflown (d : Dev) (x i y : Nat) {j : Nat} (hj : j < 16) : (d.overflown x i).evi y j = d.evi y j := by
  unfold Dev.overflown
  split
  · exact Dev.evi_post_b _ rfl y j
  · refine (Dev.evi_post_b _ rfl y j).trans (Dev.evi_congr (Dev.get_putBit_ne _ _ _ ?_) rfl)
    simp only [K.SEQ_EVI_CNT_CNT, K.SEQ_EVI_STATUS_EVI_OVF]; omega

theorem Dev.overflown_memPart (d : Dev) (x i : Nat) : (d.overflown x i).memPart = d.memPart := by
  unfold Dev.overflown
  split
  · exact Dev.logB_memPart _ _ _ _ _
  · exact (Dev.logBOn_memPart _ _ _ _ _ _).trans (Dev.putBit_memPart _ _ _ _)

theorem Dev.overflown_shown (d : Dev) {x i : Nat} (hx : x ≠ 64) (hi : i < 16) :
    (d.overflown x i).bitOf (K.SEQ_EVI_STATUS_EVI_OVF (x / 16) (x % 16)) i = true := by
  have kept : (d.overflown x i).get (K.SEQ_EVI_STATUS_EVI_OVF (x / 16) (x % 16)) =
      (d.putBit (K.SEQ_EVI_STATUS_EVI_OVF (x / 16) (x % 16)) i true).get (K.SEQ_EVI_STATUS_EVI_OVF (x / 16) (x % 16)) := by
    rw [Dev.overflown, if_neg hx]
    refine Dev.get_post_b _ rfl ?_
    simp [lostB, K.SEQ_EVI_STATUS_EVI_OVF, K.EVL_B_LOST_LO_COUNT_LO, K.EVL_B_LOST_HI_COUNT_HI, K.EVL_B_LOST_HI_OVF]
    omega
  rw [Dev.bitOf, kept]
  exact Dev.bitOf_putBit d true hi

/-- Arrivals beyond 255 leave the counter at 255, and the overflow is noted. -/
theorem Dev.arrive_saturates {d : Dev} {x i n : Nat} (h : ∀ i dl r len, (d.core x).ctl ≠ .waitE i dl r len)
    (more : 255 < d.evi x i + n) : d.arrive x i n = (d.setEvi x i 255).overflown x i := by
  have idle : ((d.setEvi x i 255).overflown x i).waiteTake x i = (d.setEvi x i 255).overflown x i :=
    Dev.waiteTake_idle (by rw [Dev.core_overflown, Dev.setEvi_own]; exact h) i
  rw [Dev.arrive, if_pos more]
  exact idle

/-! ## What a fetch leaves (R168) -/

section
variable {d d' : Dev} {x : Nat} (h : Fetched x d d')
include h

theorem Fetched.pc : (d'.core x).pc = (d.core x).pc := by rw [h.own]

theorem Fetched.g : (d'.core x).g = (d.core x).g := by rw [h.own]

theorem Fetched.pfx : (d'.core x).pfx = (d.core x).pfx := by rw [h.own]

theorem Fetched.gGet (r : Nat) : (d'.core x).gGet r = (d.core x).gGet r := by rw [Core.gGet, Core.gGet, h.g]

theorem Fetched.tti : d'.tti = d.tti := by rw [h.rest]; rfl

theorem Fetched.flight : d'.flight = d.flight := by rw [h.rest]

theorem Fetched.corePresent (q : Nat) : d'.corePresent q = d.corePresent q := by rw [h.rest]; rfl

end

/-! ## Arrivals on their way (R130, R131) -/

/-- One arrival more is on the way to each input that `p` names, and to no other. -/
def Sent (d d' : Dev) (p : Nat → Nat → Prop) : Prop := ∀ y i, y < 65 → i < 16 →
  (p y i → tblGet 0 d'.flight (16 * y + i) = tblGet 0 d.flight (16 * y + i) + 1) ∧
  (¬ p y i → tblGet 0 d'.flight (16 * y + i) = tblGet 0 d.flight (16 * y + i))

theorem Dev.flight_send (d : Dev) (x i k : Nat) :
    tblGet 0 (d.send x i).flight k = tblGet 0 d.flight k + if k = 16 * x + i then 1 else 0 := by
  by_cases h : k = 16 * x + i
  · subst h; simp [Dev.send, tblMod]
  · simp [Dev.send, tblMod, tblGet_put_ne _ _ _ h, h]

theorem Dev.send_sent (d : Dev) {x i : Nat} (hi : i < 16) : Sent d (d.send x i) fun a b => a = x ∧ b = i := by
  intro y j _ hj
  rw [Dev.flight_send]
  refine ⟨fun h => by rw [if_pos (by omega)], fun h => ?_⟩
  rw [if_neg (by omega)]; rfl

/-- Line `sel` of source `src` is routed to input `i` of core `q` (R131). -/
abbrev Dev.Routed (d : Dev) (src sel q i : Nat) : Prop :=
  d.get (K.SEQ_EVI_ROUTE_SRC (q / 16) (q % 16) i) = src ∧ d.get (K.SEQ_EVI_ROUTE_SEL (q / 16) (q % 16) i) = sel

/-- One arrival for an input that the line is routed to. -/
def Dev.routeOne (src sel : Nat) (d : Dev) (p : Nat × Nat) : Dev :=
  if d.Routed src sel p.1 p.2 then d.send p.1 p.2 else d

theorem Dev.routeOne_eq (src sel : Nat) (d : Dev) (p : Nat × Nat) :
    d.routeOne src sel p = { d with flight := (d.routeOne src sel p).flight } := by
  unfold Dev.routeOne; split <;> rfl

/-- The routing goes through the inputs of the cores one by one. -/
theorem Dev.route_eq (d : Dev) (qs : List Nat) (src sel : Nat) :
    d.route qs src sel = (qs ×ˢ List.range 16).foldl (Dev.routeOne src sel) d := by
  change _ = (qs.flatMap fun q => (List.range 16).map (Prod.mk q)).foldl (Dev.routeOne src sel) d
  simp only [List.foldl_flatMap, List.foldl_map]
  rfl

/-- A line sends one arrival to each of the listed inputs that it is routed to. -/
theorem Dev.flight_routeOnes (d : Dev) (src sel : Nat) {y i : Nat} (hi : i < 16) (l : List (Nat × Nat)) (nodup : l.Nodup)
    (hl : ∀ p ∈ l, p.2 < 16) (e : Dev) (regs : e.regs = d.regs) :
    tblGet 0 (l.foldl (Dev.routeOne src sel) e).flight (16 * y + i) =
      tblGet 0 e.flight (16 * y + i) + if (y, i) ∈ l ∧ d.Routed src sel y i then 1 else 0 := by
  induction l generalizing e with
  | nil => simp
  | cons p l ih =>
    obtain ⟨new, nodup⟩ := List.nodup_cons.mp nodup
    have small := hl p (by simp)
    have routed : e.Routed src sel p.1 p.2 ↔ d.Routed src sel p.1 p.2 := by
      simp only [Dev.Routed, Dev.get_congr regs]
    have one : tblGet 0 (e.routeOne src sel p).flight (16 * y + i) =
        tblGet 0 e.flight (16 * y + i) + if (y, i) = p ∧ d.Routed src sel y i then 1 else 0 := by
      have same : 16 * y + i = 16 * p.1 + p.2 ↔ (y, i) = p := by
        rw [Prod.ext_iff]; constructor
        · intro h; constructor <;> dsimp only <;> omega
        · rintro ⟨rfl, rfl⟩; rfl
      rw [Dev.routeOne]
      split
      next h =>
        rw [Dev.flight_send]
        congr 1
        refine if_congr (same.trans ⟨fun e => ⟨e, ?_⟩, fun h => h.1⟩) rfl rfl
        subst e; exact routed.mp h
      next h =>
        rw [if_neg]; rfl
        rintro ⟨rfl, r⟩; exact h (routed.mpr r)
    rw [List.foldl_cons, ih nodup (fun q hq => hl q (by simp [hq])) _ (by rw [Dev.routeOne_eq]; exact regs), one]
    by_cases hp : (y, i) = p
    · subst hp; simp [new]
    · simp [hp]

theorem Dev.routeOnes_eq (src sel : Nat) (l : List (Nat × Nat)) (d : Dev) :
    l.foldl (Dev.routeOne src sel) d = { d with flight := (l.foldl (Dev.routeOne src sel) d).flight } := by
  induction l generalizing d with
  | nil => rfl
  | cons p l ih => rw [List.foldl_cons, ih, Dev.routeOne_eq]

/-- A rising line sends one arrival to every input of the cores that it is routed to, and does nothing else (R131). -/
theorem Dev.route_sent (d : Dev) {qs : List Nat} (nodup : qs.Nodup) (src sel : Nat) :
    d.route qs src sel = { d with flight := (d.route qs src sel).flight } ∧
      Sent d (d.route qs src sel) fun y i => y ∈ qs ∧ d.Routed src sel y i := by
  rw [Dev.route_eq]
  refine ⟨Dev.routeOnes_eq src sel _ d, fun y i _ hi => ?_⟩
  have inputs : (y, i) ∈ qs ×ˢ List.range 16 ↔ y ∈ qs := by
    rw [List.mem_product]; simp [hi]
  have count := Dev.flight_routeOnes d src sel (y := y) hi _ (nodup.product List.nodup_range)
    (fun p hp => List.mem_range.mp (List.mem_product.mp hp).2) d rfl
  exact ⟨fun h => count.trans (by rw [if_pos ⟨inputs.mpr h.1, h.2⟩]),
    fun h => count.trans (by rw [if_neg fun k => h ⟨inputs.mp k.1, k.2⟩]; rfl)⟩

end Sys2Proof.Machine
end

section
/-! CERTIFICATE. Events and waits (R71, R119 to R121, R131, R170 to R172, R175). -/

open Sys2Proof Sys2Proof.Machine

namespace Sys2Proof.Slice0

/-- A command whose operation leaves `d` of the device gives `d`. -/
theorem gives_of_effect {c : Instr} {s : State} {P : Dev → Prop} {f : Dev → Dev} {d : Dev} (h : exec c s = s.does f)
    (hd : f s.dev = d) (hp : P d) : Gives c s P := ⟨d, hd ▸ h, hp⟩

/-! ## An instruction that issues (R159, R160) -/

section
variable {s : State} {x : CtlId} {gs fs : List Nat}

theorem Issues.fetched (h : Issues s x gs fs) : Fetched x s.dev (s.dev.fetch x).1 := by
  obtain ⟨-, -, go, -⟩ := h
  exact Dev.fetch_fetched _ _ go

/-- A fetch that lets the instruction execute does not begin a debug step. -/
theorem Issues.quiet (h : Issues s x gs fs) : ((s.dev.fetch x).1.core x).stepping = false := by
  rw [h.fetched.own]
  obtain ⟨-, -, -, still⟩ := h
  exact still

/-- A command that is an unprefixed instruction, which issues, gives what its body leaves of the fetched device. -/
theorem gives_of_issue {c : Instr} {P : Dev → Prop} {f body : Dev → Dev} {p : Bool} {d : Dev} (run : exec c s = s.does f)
    (issue : f s.dev = s.dev.issue x gs fs p body) (h : Issues s x gs fs) (plain : (s.dev.core x).pfx = none)
    (hd : body (s.dev.fetch x).1 = d) (still : (d.core x).stepping = false) (hp : P d) : Gives c s P := by
  obtain ⟨ready, free, go, -⟩ := h
  refine gives_of_effect run ?_ hp
  rw [issue, Dev.issue_body _ _ _ _ _ _ ready free go (.inl plain), hd, Dev.afterInstr_idle _ _ still]

end

theorem fetch_others {s : State} {x : CtlId} {gs fs : List Nat} (h : Issues s x gs fs) :
    OthersKept x s.dev (s.dev.fetch x).1 :=
  ⟨h.fetched.others, fun a => Dev.memGet_congr (Dev.fetch_memPart _ _) a⟩

/-- A body that changes its own controller alone keeps what every such instruction keeps. -/
theorem ownRegisters_modCore {s : State} {x : CtlId} {gs fs : List Nat} (h : Issues s x gs fs) (g : Core → Core) :
    OwnRegisters x s.dev ((s.dev.fetch x).1.modCore x g) := by
  obtain ⟨others, bytes⟩ := (fetch_others h).trans (Dev.modCore_others _ x g)
  refine ⟨others, bytes, fun _ => rfl, ?_⟩
  simp only [Dev.modCore, Dev.setCore]
  rw [h.fetched.rest]

/-! ## Lines that rise (R71, R131) -/

theorem mem_dieCores {d : Dev} {n y : Nat} (present : d.cdPresent n = true) : y ∈ d.dieCores n ↔ y / 16 = n := by
  simp only [Dev.dieCores, present, if_true, List.mem_map, List.mem_range]
  constructor
  · rintro ⟨k, hk, rfl⟩; omega
  · intro h; exact ⟨y % 16, by omega, by omega⟩

theorem dieCores_nodup (d : Dev) (n : Nat) : (d.dieCores n).Nodup := by
  unfold Dev.dieCores
  split
  · exact List.nodup_range.map fun a b e => by omega
  · exact List.nodup_nil

theorem mem_allCores {d : Dev} {y : Nat} : y ∈ d.allCores ↔ y < 64 ∧ d.corePresent y = true := by
  simp [Dev.allCores]

theorem allCores_nodup (d : Dev) : d.allCores.Nodup := List.nodup_range.filter _

theorem Sent.of_iff {d d' : Dev} {p q : Nat → Nat → Prop} (h : Sent d d' p) (e : ∀ y i, p y i ↔ q y i) : Sent d d' q :=
  fun y i hy hi => ⟨fun k => (h y i hy hi).1 ((e y i).mpr k), fun k => (h y i hy hi).2 fun r => k ((e y i).mp r)⟩

theorem evtTrigger_sends (line : Fin 8) (s : State) (run : s.dev.imageRuns = true) (image : s.dev.snt.running ≠ .romDefault) :
    GivesAs (7, 2, line) (.evtTrigger line) s fun d => d = { s.dev with flight := d.flight } ∧
      Sent s.dev d fun y i => y < 64 ∧ s.dev.corePresent y = true ∧ s.dev.Routed 2 line y i := by
  obtain ⟨rest, sent⟩ := s.dev.route_sent (allCores_nodup s.dev) 2 line
  refine givesAs_of_doesAs rfl (if_pos (by simp [run, image])) ⟨rest, Sent.of_iff sent fun y i => ?_⟩
  rw [mem_allCores, and_assoc]

theorem trigFTrigger_sends (n : Die) (line : Fin 8) (s : State) (run : s.dev.fabRuns n = true) :
    GivesAs (7, 1, line) (.trigFTrigger n line) s fun d => d = { s.dev with flight := d.flight } ∧
      Sent s.dev d fun y i => y / 16 = n.val ∧ s.dev.Routed 1 line y i := by
  obtain ⟨rest, sent⟩ := s.dev.route_sent (dieCores_nodup s.dev n) 1 line
  have present : s.dev.cdPresent n = true := by
    simp only [Dev.fabRuns, Bool.and_eq_true] at run
    exact run.1.1
  refine givesAs_of_doesAs rfl (if_pos run) ⟨rest, Sent.of_iff sent fun y i => ?_⟩
  rw [mem_dieCores present]

/-! ## Arrivals at the sampler (R120, R121) -/

/-- `m` arrivals have left the way toward an input. -/
def landed (d : Dev) (k m : Nat) : Dev :=
  { d with flight := if m = tblGet 0 d.flight k then tblErase d.flight k else tblPut d.flight k (tblGet 0 d.flight k - m) }

theorem landed_flight (d : Dev) (k m : Nat) : tblGet 0 (landed d k m).flight k = tblGet 0 d.flight k - m := by
  unfold landed
  split
  next e => rw [e, tblGet_erase_same]; omega
  next => exact tblGet_put_same _ _ _ _

section
variable {x : CtlId} {inp : Fin 16} {s : State} {m : Nat} (pos : 1 ≤ m)
  (way : m ≤ tblGet 0 s.dev.flight (16 * x.val + inp))
  (up : x.val = 64 ∨ bitAt s.dev.start.cdReleased (x.val / 16) = true)
include pos way up

/-- The arrivals of a controller that is not held in reset reach its counter. -/
theorem eventArrival_given {P : Dev → Prop} (hp : P ((landed s.dev (16 * x.val + inp) m).arrive x inp m)) :
    Gives (.eventArrival x inp m) s P := by
  refine gives_of_does rfl ?_
  dsimp only
  rw [Nat.min_eq_left way, if_neg (by omega), if_pos up]
  exact hp

theorem eventArrival_counts (idle : ∀ i dl r len, (s.dev.core x).ctl ≠ .waitE i dl r len)
    (le : s.dev.evi x inp + m ≤ 255) : Gives (.eventArrival x inp m) s fun d =>
      Counted s.dev d x inp (s.dev.evi x inp + m) ∧ OthersKept x s.dev d ∧
      tblGet 0 d.flight (16 * x.val + inp) = tblGet 0 s.dev.flight (16 * x.val + inp) - m := by
  refine eventArrival_given pos way up ?_
  rw [Dev.arrive_idle (d := landed s.dev (16 * x.val + inp) m) idle le]
  refine ⟨Dev.setEvi_counted _ inp.isLt (Nat.lt_succ_of_le le), Dev.setEvi_others _ _ _ _, ?_⟩
  rw [Dev.flight_setEvi, landed_flight]

theorem eventArrival_ends {dl : Option Nat} {r len : Nat} (wait : (s.dev.core x).ctl = .waitE inp dl r len)
    (run : (s.dev.core x).halted = false) (le : s.dev.evi x inp + m ≤ 255) : Gives (.eventArrival x inp m) s fun d =>
      Counted s.dev d x inp (s.dev.evi x inp + m - 1) ∧ WaitEnded (s.dev.core x) (d.core x) r len 1 ∧
      OthersKept x s.dev d := by
  refine eventArrival_given pos way up ?_
  rw [Dev.arrive_counts (d := landed s.dev (16 * x.val + inp) m) le]
  exact Dev.setEvi_taken (d := landed s.dev (16 * x.val + inp) m) wait run inp.isLt (by omega) (Nat.lt_succ_of_le le)

theorem eventArrival_saturates (idle : ∀ i dl r len, (s.dev.core x).ctl ≠ .waitE i dl r len)
    (more : 255 < s.dev.evi x inp + m) : Gives (.eventArrival x inp m) s fun d =>
      Counted s.dev d x inp 255 ∧ OthersKept x s.dev d ∧
      (x.val < 64 → d.bitOf (K.SEQ_EVI_STATUS_EVI_OVF (x.val / 16) (x.val % 16)) inp = true) := by
  refine eventArrival_given pos way up ?_
  rw [Dev.arrive_saturates (d := landed s.dev (16 * x.val + inp) m) idle more]
  have counted : Counted s.dev ((landed s.dev (16 * x.val + inp) m).setEvi x inp 255) x inp 255 :=
    Dev.setEvi_counted (landed s.dev (16 * x.val + inp) m) inp.isLt (by decide)
  refine ⟨counted.of_evi inp.isLt fun y j hj => Dev.evi_overflown _ _ _ _ hj, ?_,
    fun hx => Dev.overflown_shown _ (by omega) inp.isLt⟩
  refine OthersKept.trans (b := (landed s.dev (16 * x.val + inp) m).setEvi x inp 255) (Dev.setEvi_others _ _ _ _)
    ⟨fun y _ => Dev.core_overflown _ _ _ _, fun a => Dev.memGet_congr (Dev.overflown_memPart _ _ _) a⟩

end

/-! ## WAITE and WAITT (R170 to R172) -/

section
variable {x : CtlId} {s : State} {gs fs : List Nat} (h : Issues s x gs fs)
include h

/-- A wait that ends at once changes its own controller alone. -/
theorem endWait_own (r len : Nat) (v : DWord) :
    (((s.dev.fetch x).1.modCore x fun c => c.endWait r len v).core x).stepping = false ∧
      WaitEnded (s.dev.core x) (((s.dev.fetch x).1.modCore x fun c => c.endWait r len v).core x) r len v ∧
      OwnRegisters x s.dev ((s.dev.fetch x).1.modCore x fun c => c.endWait r len v) := by
  refine ⟨?_, ?_, ownRegisters_modCore h _⟩
  · rw [Dev.core_modCore_same, Core.endWait_stepping]; exact h.quiet
  · rw [Dev.core_modCore_same]
    exact (Core.endWait_ended _ _ _ _).of_eq h.fetched.pc h.fetched.g

/-- A wait that begins leaves its controller at the instruction. -/
theorem waits_own {g : Core → Core} {ctl : Ctl}
    (hg : g ((s.dev.fetch x).1.core x) = { (s.dev.fetch x).1.core x with ctl := ctl }) :
    (((s.dev.fetch x).1.modCore x g).core x).stepping = false ∧ (((s.dev.fetch x).1.modCore x g).core x).ctl = ctl ∧
      (((s.dev.fetch x).1.modCore x g).core x).pc = (s.dev.core x).pc ∧
      (∀ k, (((s.dev.fetch x).1.modCore x g).core x).gGet k = (s.dev.core x).gGet k) ∧
      OwnRegisters x s.dev ((s.dev.fetch x).1.modCore x g) := by
  rw [Dev.core_modCore_same, hg]
  exact ⟨h.quiet, rfl, h.fetched.pc, fun k => h.fetched.gGet k, ownRegisters_modCore h g⟩

end

section
variable {x : CtlId} {rd rs1 : Reg} {inp : Fin 16} {s : State} {dl : Option Reg} (plain : (s.dev.core x).pfx = none)
include plain

theorem waite_takes (h : Issues s x (dl.toList.map Fin.val) []) (pos : 0 < (s.dev.fetch x).1.evi x inp)
    (le : (s.dev.fetch x).1.evi x inp ≤ 255) : Gives (.waite x rd inp dl) s fun d =>
      Counted (s.dev.fetch x).1 d x inp ((s.dev.fetch x).1.evi x inp - 1) ∧
      WaitEnded (s.dev.core x) (d.core x) rd 8 1 ∧ OthersKept x s.dev d := by
  refine gives_of_issue (d := (s.dev.fetch x).1.taken x inp rd 8) rfl rfl h plain (if_pos pos) ?_ ⟨?_, ?_, ?_⟩
  · rw [Dev.taken, Dev.core_modCore_same, Core.endWait_stepping, Dev.setEvi_own]
    exact h.quiet
  · exact Dev.taken_counted _ _ _ inp.isLt le
  · exact (Dev.taken_ended _ _ _ _ _).of_eq h.fetched.pc h.fetched.g
  · exact (fetch_others h).trans (Dev.taken_others _ _ _ _ _)

theorem waite_dead (h : Issues s x (dl.toList.map Fin.val) []) (none : (s.dev.fetch x).1.evi x inp = 0)
    (dead : ∃ r, dl = some r ∧ (G s x r).toNat ≤ s.dev.tti) : Gives (.waite x rd inp dl) s fun d =>
      WaitEnded (s.dev.core x) (d.core x) rd 8 0 ∧ OwnRegisters x s.dev d := by
  obtain ⟨r, rfl, due⟩ := dead
  have past : (((s.dev.fetch x).1.core x).gGet r).toNat ≤ (s.dev.fetch x).1.tti := by
    rw [h.fetched.gGet, h.fetched.tti]; exact due
  obtain ⟨still, own⟩ := endWait_own h rd 8 0
  exact gives_of_issue rfl rfl h plain (by simp [none, past]) still own

theorem waite_waits (h : Issues s x (dl.toList.map Fin.val) []) (none : (s.dev.fetch x).1.evi x inp = 0)
    (early : ∀ r, dl = some r → s.dev.tti < (G s x r).toNat) : Gives (.waite x rd inp dl) s fun d =>
      (d.core x).ctl = .waitE inp (dl.map fun r => (G s x r).toNat) rd 8 ∧ (d.core x).pc = (s.dev.core x).pc ∧
      (∀ k, (d.core x).gGet k = (s.dev.core x).gGet k) ∧ OwnRegisters x s.dev d := by
  have regs (r : Nat) := h.fetched.gGet r
  obtain ⟨still, own⟩ := waits_own h
    (g := fun c => { c with ctl := .waitE inp (dl.map fun r => (G s x r).toNat) rd 8 }) rfl
  refine gives_of_issue rfl rfl h plain ?_ still own
  cases dl with
  | none => simp [none]
  | some r =>
    have later := early r rfl
    rw [G] at later
    simp [none, regs, h.fetched.tti, later, G]

theorem waitt_imm (h : Issues s x [rs1] []) (imm : BitVec 43) : ((s.dev.fetch x).1.core x).gGet rs1 +
    ((s.dev.fetch x).1.core x).imm imm = G s x rs1 + BitVec.ofInt 64 imm.toInt := by
  rw [h.fetched.gGet, Core.imm, h.fetched.pfx, plain]; rfl

theorem waitt_late (h : Issues s x [rs1] []) (imm : BitVec 43)
    (late : (G s x rs1 + BitVec.ofInt 64 imm.toInt).toNat ≤ s.dev.tti) : Gives (.waitt x rd rs1 imm) s fun d =>
      WaitEnded (s.dev.core x) (d.core x) rd 8
        (BitVec.ofNat 64 (s.dev.tti - (G s x rs1 + BitVec.ofInt 64 imm.toInt).toNat)) ∧ OwnRegisters x s.dev d := by
  obtain ⟨still, own⟩ := endWait_own h rd 8
    (BitVec.ofNat 64 (s.dev.tti - (G s x rs1 + BitVec.ofInt 64 imm.toInt).toNat))
  refine gives_of_issue rfl rfl h plain ?_ still own
  dsimp only
  rw [waitt_imm plain h, h.fetched.tti, if_pos late, h.fetched.pfx, plain]; rfl

theorem waitt_waits (h : Issues s x [rs1] []) (imm : BitVec 43)
    (early : s.dev.tti < (G s x rs1 + BitVec.ofInt 64 imm.toInt).toNat) : Gives (.waitt x rd rs1 imm) s fun d =>
      (d.core x).ctl = .waitT (G s x rs1 + BitVec.ofInt 64 imm.toInt).toNat rd 8 ∧ (d.core x).pc = (s.dev.core x).pc ∧
      (∀ k, (d.core x).gGet k = (s.dev.core x).gGet k) ∧ OwnRegisters x s.dev d := by
  have pfx : ((s.dev.fetch x).1.core x).pfx = none := h.fetched.pfx.trans plain
  obtain ⟨still, own⟩ := waits_own h (g := fun c => { c with
      ctl := .waitT (G s x rs1 + BitVec.ofInt 64 imm.toInt).toNat rd 8, pfx := none })
    (ctl := .waitT (G s x rs1 + BitVec.ofInt 64 imm.toInt).toNat rd 8) (by rw [← pfx])
  refine gives_of_issue rfl rfl h plain ?_ still own
  dsimp only
  rw [waitt_imm plain h, h.fetched.tti, if_neg (by omega), pfx]; rfl

end

/-- A pending wait that ends changes its own controller alone. -/
theorem endWait_kept (d : Dev) (x r len : Nat) (v : DWord) :
    WaitEnded (d.core x) ((d.modCore x fun c => c.endWait r len v).core x) r len v ∧
    OthersKept x d (d.modCore x fun c => c.endWait r len v) ∧
    (d.modCore x fun c => c.endWait r len v) = { d with cores := (d.modCore x fun c => c.endWait r len v).cores } :=
  ⟨by rw [Dev.core_modCore_same]; exact Core.endWait_ended _ _ _ _, Dev.modCore_others _ _ _, rfl⟩

section
variable {x : CtlId} {s : State} {t r len : Nat} (run : (s.dev.core x).halted = false) (due : t ≤ s.dev.tti)
include run due

theorem waiteDeadline_ends {inp : Nat} (wait : (s.dev.core x).ctl = .waitE inp (some t) r len)
    (none : s.dev.evi x inp = 0) : Gives (.waiteDeadline x) s fun d =>
      WaitEnded (s.dev.core x) (d.core x) r len 0 ∧ OthersKept x s.dev d ∧ d = { s.dev with cores := d.cores } :=
  gives_of_effect rfl (by simp [wait, due, none, run]) (endWait_kept s.dev x r len 0)

theorem waittTarget_ends (wait : (s.dev.core x).ctl = .waitT t r len) : Gives (.waittTarget x) s fun d =>
    WaitEnded (s.dev.core x) (d.core x) r len (BitVec.ofNat 64 (s.dev.tti - t)) ∧ OthersKept x s.dev d ∧
      d = { s.dev with cores := d.cores } :=
  gives_of_effect rfl (by simp [wait, due, run]) (endWait_kept s.dev x r len _)

end

/-! ## SIG (R175) -/

theorem signal_fetched {x : CtlId} {s : State} {gs fs : List Nat} (h : Issues s x gs fs) {y i : Nat}
    (present : y = 64 ∨ y < 64 ∧ s.dev.corePresent y = true) :
    (s.dev.fetch x).1.signal y i = some ((s.dev.fetch x).1.send y i) := by
  rw [Dev.signal, h.fetched.corePresent, if_pos present]

section
variable {x : CtlId} {s : State} {gs : List Nat} (plain : (s.dev.core x).pfx = none) (h : Issues s x gs [])
include plain h

/-- An instruction that sends one arrival and goes on behind itself. -/
theorem sends_given {c : Instr} {f body : Dev → Dev} {p : Bool} {y i : Nat} (run : exec c s = s.does f)
    (issue : f s.dev = s.dev.issue x gs [] p body)
    (hd : body (s.dev.fetch x).1 = ((s.dev.fetch x).1.send y i).modCore x Core.retire) (hi : i < 16) :
    Gives c s fun d => Sent s.dev d (fun a b => a = y ∧ b = i) ∧
      (d.core x).pc = ((s.dev.core x).pc + 8) % 2 ^ 48 / 8 * 8 ∧ (∀ k, (d.core x).gGet k = (s.dev.core x).gGet k) ∧
      OthersKept x s.dev d ∧ ∀ f, d.get f = (s.dev.fetch x).1.get f := by
  have core : (((s.dev.fetch x).1.send y i).modCore x Core.retire).core x = ((s.dev.fetch x).1.core x).retire :=
    Dev.core_modCore_same _ _ _
  refine gives_of_issue run issue h plain hd (by rw [core]; exact h.quiet)
    ⟨fun a b ha hb => ?_, ?_, fun k => ?_, ?_, fun _ => rfl⟩
  · have sent := (s.dev.fetch x).1.send_sent (x := y) hi a b ha hb
    rwa [h.fetched.flight] at sent
  · have next : (((s.dev.fetch x).1.core x).retire).pc = pcWrap (((s.dev.fetch x).1.core x).pc +
      (if ((s.dev.fetch x).1.core x).pfx.isSome then 16 else 8) : Nat) := rfl
    rw [core, next, h.fetched.pfx, plain, h.fetched.pc]; exact pcWrap_ofNat _
  · rw [core]; exact h.fetched.gGet k
  · exact (fetch_others h).trans (OthersKept.trans (b := (s.dev.fetch x).1.send y i) ⟨fun _ _ => rfl, fun _ => rfl⟩
      (Dev.modCore_others _ x Core.retire))

end

section
variable {x : CtlId} {s : State} (plain : (s.dev.core x).pfx = none) (drained : (s.dev.core x).stores = [])
include plain drained

theorem sig_sends (tgt : BitVec 7) (inp : Fin 16) (h : Issues s x [] [])
    (present : tgt.toNat = 64 ∨ tgt.toNat < 64 ∧ s.dev.corePresent tgt.toNat = true) :
    Gives (.sig x tgt inp none) s fun d => Sent s.dev d (fun a b => a = tgt.toNat ∧ b = inp) ∧
      (d.core x).pc = ((s.dev.core x).pc + 8) % 2 ^ 48 / 8 * 8 ∧ (∀ k, (d.core x).gGet k = (s.dev.core x).gGet k) ∧
      OthersKept x s.dev d ∧ ∀ f, d.get f = (s.dev.fetch x).1.get f := by
  refine sends_given plain h rfl ((if_neg ?_).trans (if_neg (not_not_intro drained))) ?_ inp.isLt
  · simp only [decide_eq_true_eq]; omega
  · simp only [signal_fetched h present]

theorem sig_reg_sends (rs1 : Reg) (h : Issues s x [rs1] [])
    (present : (G s x rs1).toNat / 16 % 128 = 64 ∨
      (G s x rs1).toNat / 16 % 128 < 64 ∧ s.dev.corePresent ((G s x rs1).toNat / 16 % 128) = true) :
    Gives (.sig x 0 0 (some rs1)) s fun d =>
      Sent s.dev d (fun a b => a = (G s x rs1).toNat / 16 % 128 ∧ b = (G s x rs1).toNat % 16) ∧
      (d.core x).pc = ((s.dev.core x).pc + 8) % 2 ^ 48 / 8 * 8 ∧ (∀ k, (d.core x).gGet k = (s.dev.core x).gGet k) ∧
      OthersKept x s.dev d ∧ ∀ f, d.get f = (s.dev.fetch x).1.get f := by
  have tgt : bitsAt (G s x rs1).toNat 4 7 = (G s x rs1).toNat / 16 % 128 := rfl
  have inp : bitsAt (G s x rs1).toNat 0 4 = (G s x rs1).toNat % 16 := by simp [bitsAt]
  have value : ((s.dev.fetch x).1.core x).gGet rs1 = G s x rs1 := h.fetched.gGet rs1
  refine sends_given plain h rfl ((if_neg (by simp)).trans (if_neg (not_not_intro drained))) ?_ (by omega)
  simp only [value, tgt, inp, signal_fetched h present]

end

/-! ## SEQ_EVI_CNT (R121) -/

section
variable {x : CtlId} {inp : Fin 16} {s : State} {m : Master} {q : CoreId} {v : BitVec 8} (own : q.val = x.val)
  (hl : Lets s m (seqAddr q (0x80 + 4 * inp.val)) true)
include own hl

/-- A write of a counter sets it, and a WAITE pending on it then takes from it. -/
theorem eviCntLoad_given {P : Dev → Prop} (hp : P ((s.dev.setEvi x inp v.toNat).waiteTake x inp)) :
    GivesBy m (.eviCntLoad m q inp v) s P := by
  refine givesBy_writes_seq q.isLt (by omega) rfl hl ?_
  rw [Dev.seqRegWrite_eviCnt _ q.isLt inp v.isLt, ← Dev.setEvi_core _ (by omega), own]
  exact hp

theorem eviCntLoad_loads (idle : ∀ i dl r len, (s.dev.core x).ctl ≠ .waitE i dl r len) :
    GivesBy m (.eviCntLoad m q inp v) s fun d => Counted s.dev d x inp v.toNat ∧
      FieldsOnly s.dev d [K.SEQ_EVI_CNT_CNT (q.val / 16) (q.val % 16) inp] := by
  refine eviCntLoad_given own hl ?_
  have other : x.val ≠ 64 := by omega
  rw [Dev.waiteTake_idle (by rw [Dev.setEvi_own]; exact idle)]
  refine ⟨Dev.setEvi_counted _ inp.isLt v.isLt, ?_⟩
  rw [Dev.setEvi_core _ other, own]
  exact fieldsOnly_set _ _ _

theorem eviCntLoad_ends {dl : Option Nat} {r len : Nat} (wait : (s.dev.core x).ctl = .waitE inp dl r len)
    (run : (s.dev.core x).halted = false) (pos : 0 < v.toNat) : GivesBy m (.eviCntLoad m q inp v) s fun d =>
      Counted s.dev d x inp (v.toNat - 1) ∧ WaitEnded (s.dev.core x) (d.core x) r len 1 ∧ OthersKept x s.dev d :=
  eviCntLoad_given own hl (Dev.setEvi_taken wait run inp.isLt pos v.isLt)

end

/-- Settles O21: arrivals are sent by what rises and by SIG, counted or taken as the controller waits, and each wait ends by
its own event or begins. -/
theorem eventsAndWaits : Obligations.EventsAndWaits := by
  intro x inp rd rs1 s
  refine ⟨fun line run image => evtTrigger_sends line s run image, fun n line run => trigFTrigger_sends n line s run,
    fun m pos way up => ⟨eventArrival_counts pos way up, fun dl r len => eventArrival_ends pos way up,
      eventArrival_saturates pos way up⟩,
    fun plain dl h => ⟨waite_takes plain h, waite_dead plain h, waite_waits plain h⟩,
    fun t r len wait due none run => waiteDeadline_ends run due wait none,
    fun plain h imm => ⟨waitt_late plain h imm, waitt_waits plain h imm⟩,
    fun t r len wait due run => waittTarget_ends run due wait,
    fun plain drained => ⟨fun tgt h present => sig_sends plain drained tgt inp h present,
      fun h present => sig_reg_sends plain drained rs1 h present⟩,
    fun m q v own hl => ⟨eviCntLoad_loads own hl, fun dl r len => eviCntLoad_ends own hl⟩⟩

/-! ## Devices that the clauses speak of -/

/-- The hub controller waits for input 3, to which two arrivals are on their way. -/
def hubWaiting : State :=
  { State.outOfReset with dev := { State.outOfReset.dev with
      flight := [(16 * 64 + 3, 2)], cores := [(64, { ctl := .waitE 3 none 1 8 })] } }

theorem hubWaiting_ends : Gives (.eventArrival 64 3 2) hubWaiting fun d => Counted hubWaiting.dev d 64 3 1 ∧
    WaitEnded (hubWaiting.dev.core 64) (d.core 64) 1 8 1 ∧ OthersKept 64 hubWaiting.dev d :=
  eventArrival_ends (x := 64) (inp := 3) (s := hubWaiting) (dl := none) (by decide) (by decide) (.inl rfl) rfl rfl (by decide)

/-- The hub controller runs. -/
def hubRunning : State :=
  { State.outOfReset with dev := { State.outOfReset.dev with cores := [(64, { ctl := .run })] } }

theorem hubRunning_issues : Issues hubRunning 64 [] [] := by
  refine ⟨?_, ?_, ?_, ?_⟩ <;> decide

theorem hubRunning_signals : Gives (.sig 64 64 5 none) hubRunning fun d =>
    Sent hubRunning.dev d (fun a b => a = 64 ∧ b = 5) ∧ (d.core 64).pc = 8 ∧
      (∀ k, (d.core 64).gGet k = (hubRunning.dev.core 64).gGet k) ∧ OthersKept 64 hubRunning.dev d ∧
      ∀ f, d.get f = (hubRunning.dev.fetch 64).1.get f :=
  sig_sends (x := 64) rfl rfl 64 5 hubRunning_issues (.inl rfl)

end Sys2Proof.Slice0
end

section
/-! SUPPORT and CERTIFICATE. The mailboxes and the swap of the Instant Fabric image (R71, R88 to R90, R93). -/

open Sys2Proof Sys2Proof.Machine

namespace Sys2Proof.Machine

/-! ## A lease given up (R533, R534) -/

theorem Dev.leaseWithdraw_eq (d : Dev) (u c h : Nat) : d.leaseWithdraw u c h =
    { d with regs := (d.leaseWithdraw u c h).regs, lease := (d.leaseWithdraw u c h).lease } := rfl

theorem Dev.leaseFree_eq (d : Dev) (u c : Nat) : d.leaseFree u c =
    { d with regs := (d.leaseFree u c).regs, lease := (d.leaseFree u c).lease } := by
  unfold Dev.leaseFree
  split <;> rfl

theorem Dev.leaseRelease_eq (d : Dev) (u c h : Nat) : d.leaseRelease u c h =
    { d with regs := (d.leaseRelease u c h).regs, lease := (d.leaseRelease u c h).lease } := by
  unfold Dev.leaseRelease
  split
  · rw [Dev.leaseFree_eq]
  · rfl

/-- Giving up a lease changes register fields and the leases' state alone. -/
theorem Dev.leaseDrop_eq (d : Dev) (u c h : Nat) : d.leaseDrop u c h =
    { d with regs := (d.leaseDrop u c h).regs, lease := (d.leaseDrop u c h).lease } := by
  rw [Dev.leaseDrop, Dev.leaseRelease_eq, Dev.leaseWithdraw_eq]

/-- A lease that nobody waits for is free once its holder gives it up. -/
theorem Dev.leaseDrop_frees {d : Dev} {u c h : Nat} (own : d.holder u c = h) (pos : h ≠ 0)
    (none : d.leaseQueue u c = []) : (d.leaseDrop u c h).holder u c = 0 := by
  have queue : (d.leaseWithdraw u c h).leaseQueue u c = [] := by
    rw [Dev.leaseWithdraw, none]
    simp [Dev.setLeaseQueue, Dev.leaseQueue]
  have held : (d.leaseWithdraw u c h).holder u c = h :=
    (Dev.get_set_ne d _ (by simp [K.BST_LEASE_HOLDER, K.BST_LEASE_QUEUED])).trans own
  have last (x : Dev) (q : x.leaseQueue u c = []) : (x.leaseFree u c).holder u c = 0 := by
    simp only [Dev.leaseFree, q]
    exact (Dev.get_set_ne _ _ (by simp [K.BST_LEASE_HOLDER, K.BST_LEASE_ARG])).trans (Dev.get_set_same _ _ _)
  rw [Dev.leaseDrop, Dev.leaseRelease, if_pos ⟨held, pos⟩]
  exact last _ queue

end Sys2Proof.Machine

namespace Sys2Proof.Slice0

/-! ## The Sentry's unit and the end of a swap (R89, R90) -/

/-- Register fields, the Sentry's state, the flash's free-value counter and the leases apart, the device is as it was. -/
def SentryOnly (d0 d : Dev) : Prop :=
  d = { d0 with regs := d.regs, snt := d.snt, freeUsed := d.freeUsed, lease := d.lease }

theorem SentryOnly.trans {a b c : Dev} (h : SentryOnly a b) (k : SentryOnly b c) : SentryOnly a c := by
  unfold SentryOnly at *
  rw [k, h]

theorem SentryOnly.bytesKept {d0 d : Dev} (h : SentryOnly d0 d) : BytesKept d0 d := fun a => by rw [h]; rfl

/-- The swap that `d0` had requested or begun is over in `d`. -/
def SwapEnded (d0 d : Dev) : Prop :=
  d.get K.SNT_STATUS_SWAP_PENDING = 0 ∧ d.get K.SNT_STATUS_SWAP_ACTIVE = 0 ∧ d.get K.SNT_SWAP_CTRL_REQ = 0 ∧
    d.snt.swapLoading = false ∧ d.snt.swapReload = false ∧
    (d0.holder 5 3 = 0x20 → d0.leaseQueue 5 3 = [] → d.holder 5 3 = 0)

/-- The fields that the end of a swap clears. -/
def swapFields : List Fld :=
  [K.SNT_STATUS_SWAP_PENDING, K.SNT_STATUS_SWAP_ACTIVE, K.SNT_SWAP_CTRL_REQ, K.BST_LEASE_HOLDER 5 3]

/-- A swap stays over whatever happens outside its own state. -/
theorem SwapEnded.of_kept {d0 x d : Dev} (h : SwapEnded d0 x) (get : ∀ f ∈ swapFields, d.get f = x.get f)
    (loading : d.snt.swapLoading = x.snt.swapLoading) (reload : d.snt.swapReload = x.snt.swapReload) :
    SwapEnded d0 d := by
  obtain ⟨pending, active, req, load, again, free⟩ := h
  exact ⟨(get _ (by simp [swapFields])).trans pending, (get _ (by simp [swapFields])).trans active,
    (get _ (by simp [swapFields])).trans req, loading.trans load, reload.trans again,
    fun own none => (get _ (by simp [swapFields])).trans (free own none)⟩

/-- A swap that is over for a device with the same lease. -/
theorem SwapEnded.of_lease {d0 x d : Dev} (h : SwapEnded x d) (holder : x.holder 5 3 = d0.holder 5 3)
    (queue : x.leaseQueue 5 3 = d0.leaseQueue 5 3) : SwapEnded d0 d := by
  obtain ⟨pending, active, req, load, again, free⟩ := h
  exact ⟨pending, active, req, load, again, fun own none => free (holder.trans own) (queue.trans none)⟩

/-- The Sentry's state once a swap is over. -/
def sntIdle (x : Snt) : Snt := { x with swapLoading := false, swapReload := false, swapOld := .none }

/-- The device of a swap that is over, its lease not yet given up. -/
def swapCleared (d : Dev) : Dev :=
  (((d.put K.SNT_STATUS_SWAP_PENDING false).put K.SNT_STATUS_SWAP_ACTIVE false).modSnt sntIdle).put K.SNT_SWAP_CTRL_REQ false

theorem swapEnds_eq (d : Dev) : d.swapEnds = (swapCleared d).leaseDrop 5 lcFLASH 0x20 := rfl

theorem get_swapCleared (d : Dev) {f : Fld} (pending : f.key ≠ K.SNT_STATUS_SWAP_PENDING.key)
    (active : f.key ≠ K.SNT_STATUS_SWAP_ACTIVE.key) (req : f.key ≠ K.SNT_SWAP_CTRL_REQ.key) :
    (swapCleared d).get f = d.get f :=
  (Dev.get_put_ne _ _ req).trans ((Dev.get_put_ne _ _ active).trans (Dev.get_put_ne _ _ pending))

/-- A control register's field reads after the end of a swap as before, those of the swap aside. -/
theorem get_swapEnds (d : Dev) {f : Fld} (hf : CtrlKey f.key) (pending : f.key ≠ K.SNT_STATUS_SWAP_PENDING.key)
    (active : f.key ≠ K.SNT_STATUS_SWAP_ACTIVE.key) (req : f.key ≠ K.SNT_SWAP_CTRL_REQ.key) :
    d.swapEnds.get f = d.get f := by
  rw [swapEnds_eq, Dev.get_of_ctrl (Dev.leaseDrop_ctrl _ _ _ _) hf, get_swapCleared d pending active req]

theorem swapEnds_snt (d : Dev) : d.swapEnds.snt = sntIdle d.snt := by
  rw [swapEnds_eq, Dev.snt_of_ctrl (Dev.leaseDrop_ctrl _ _ _ _)]; rfl

theorem swapEnds_unit (d : Dev) : SentryOnly d d.swapEnds := by
  unfold SentryOnly
  rw [swapEnds_eq, Dev.leaseDrop_eq]; rfl

theorem swapEnds_ended (d : Dev) : SwapEnded d d.swapEnds := by
  have cleared {f : Fld} (hf : CtrlKey f.key) : d.swapEnds.get f = (swapCleared d).get f := by
    rw [swapEnds_eq, Dev.get_of_ctrl (Dev.leaseDrop_ctrl _ _ _ _) hf]
  refine ⟨?_, ?_, ?_, by rw [swapEnds_snt]; rfl, by rw [swapEnds_snt]; rfl, fun own none => ?_⟩
  · rw [cleared (by simp [CtrlKey, K.SNT_STATUS_SWAP_PENDING])]
    exact (Dev.get_put_ne _ _ (by decide)).trans ((Dev.get_put_ne _ _ (by decide)).trans
      (Dev.get_put_same _ _ false (by decide)))
  · rw [cleared (by simp [CtrlKey, K.SNT_STATUS_SWAP_ACTIVE])]
    exact (Dev.get_put_ne _ _ (by decide)).trans (Dev.get_put_same _ _ false (by decide))
  · rw [cleared (by simp [CtrlKey, K.SNT_SWAP_CTRL_REQ])]
    exact Dev.get_put_same _ _ false (by decide)
  · rw [swapEnds_eq]
    exact Dev.leaseDrop_frees ((get_swapCleared d (by decide) (by decide) (by decide)).trans own) (by decide) none

/-- A swap that ends with a note of why. -/
theorem swapEnds_noted (d : Dev) {f : Fld} (hf : CtrlKey f.key) (wide : 0 < f.width) (other : f.key ∉ swapFields.map Fld.key) :
    ((d.put f true).swapEnds).get f = 1 ∧ SwapEnded d (d.put f true).swapEnds ∧
      SentryOnly d (d.put f true).swapEnds := by
  simp only [swapFields, List.map_cons, List.map_nil, List.mem_cons, List.not_mem_nil, or_false, not_or] at other
  obtain ⟨pending, active, req, holder⟩ := other
  refine ⟨?_, (swapEnds_ended _).of_lease (Dev.get_put_ne _ _ (Ne.symm holder)) rfl,
    SentryOnly.trans (b := d.put f true) rfl (swapEnds_unit _)⟩
  rw [get_swapEnds _ hf pending active req]
  exact Dev.get_put_same _ _ true wide

/-! ## The mailbox (R71, R93) -/

theorem mboxFrom_fills (w : Word) (s : State) (run : s.dev.imageRuns = true) (image : s.dev.snt.running ≠ .romDefault) :
    Gives (.mboxFrom w) s fun d => d.get K.SNT_MBOX_FROM = w.toNat ∧ d.get K.SNT_STATUS_MBOX_FULL = 1 ∧
      FieldsOnly s.dev d [K.SNT_MBOX_FROM, K.SNT_STATUS_MBOX_FULL] := by
  refine gives_of_does rfl ?_
  rw [if_pos (by simp [run, image])]
  exact ⟨(Dev.get_put_ne _ _ (by decide)).trans (Dev.get_set_lt _ _ w.isLt), Dev.get_put_same _ _ true (by decide),
    ((FieldsOnly.refl _ _).set _ ⟨K.SNT_MBOX_FROM, by simp, rfl⟩).set _ ⟨K.SNT_STATUS_MBOX_FULL, by simp, rfl⟩⟩

theorem findReg_mboxFrom : findReg 0x10034 = some (⟨0x10034, [], none, [⟨0, 32, .ro, 0, .drst⟩]⟩, []) := by decide

/-- SNT_MBOX_FROM reads as its field. -/
theorem regWord_mboxFrom {d : Dev} (present : d.regDark 0x10034 = false) : d.regWord 0x10034 = d.get K.SNT_MBOX_FROM := by
  have here : d.regAbsent 0x10034 = false := (Bool.or_eq_false_iff.mp present).1
  have shown : [(⟨0, 32, .ro, 0, .drst⟩ : FieldDesc)].filter FieldDesc.shown = [⟨0, 32, .ro, 0, .drst⟩] := rfl
  rw [Dev.regWord, here, findReg_mboxFrom]
  simp [shown, Dev.live, Dev.liveSnt, overlay, keyAt, K.SNT_MBOX_FROM]

theorem mboxFromRead_empties (m : Master) (s : State) (hl : Lets s m 0x10034 false) :
    ∃ d, exec (.mboxFromRead m) s = .next { s with dev := d, answer := some (s.dev.get K.SNT_MBOX_FROM) } ∧
      d.get K.SNT_STATUS_MBOX_FULL = 0 ∧ FieldsOnly s.dev d [K.SNT_STATUS_MBOX_FULL] := by
  obtain ⟨reach, present⟩ := hl
  have way : s.dev.regReach m 0x10034 false = (s.dev, true) := Prod.ext (Dev.regReach_fst reach) reach
  have plain : rsMask 0x10034 = 0 ∧ rsMask (0x10034 + 4) = 0 := by decide
  have snap : s.dev.snapRead m 0x10034 = (s.dev, s.dev.get K.SNT_MBOX_FROM) := by
    rw [Dev.snapRead, regWord_mboxFrom present, plain.1, plain.2]
    split <;> rfl
  have word : s.dev.readWord m 0x10034 = (s.dev.mboxRead, s.dev.get K.SNT_MBOX_FROM) := by
    simp [Dev.readWord, present, slowReg, freeReg, snap]
  refine ⟨s.dev.mboxRead, ?_, Dev.get_put_same _ _ false (by decide), fieldsOnly_set _ _ _⟩
  change Host.Outcome.next (s.busRead m 0x10034) = _
  simp only [State.busRead, Dev.busRead, way, word]

theorem mboxToWrite_presents (m : Master) (w : Word) (s : State) (hl : Lets s m 0x10030 true) :
    GivesBy m (.mboxToWrite m w) s fun d =>
      d = { s.dev with snt := { s.dev.snt with mboxTo := w.toNat, mboxToStb := s.dev.snt.mboxToStb + 1 } } := by
  have effect : s.dev.regWrite m 0x10030 w.toNat = s.dev.mboxWrite w.toNat := by
    simp [Dev.regWrite, hl.2, slowReg, Dev.devWrite]
  refine givesBy_writes rfl w.isLt hl ⟨by decide, by decide, by decide, by decide, by decide⟩ ?_
  rw [effect, Dev.mboxWrite, Nat.mod_eq_of_lt w.isLt]; rfl

/-! ## The requests of a swap (R88, R89) -/

/-- A write of SNT_SWAP_CTRL with a key is the register's own. -/
theorem swapCtrl_given {c : Instr} {m : Master} {s : State} {P : Dev → Prop} {key : BitVec 8} {w : Nat} (hw : w < 2 ^ 24)
    (run : exec c s = s.writes m 0x1000C (keyed key.toNat w)) (hl : Lets s m 0x1000C true)
    (hp : P (s.dev.swapWrite (keyed key.toNat w))) : GivesBy m c s P := by
  have effect : s.dev.regWrite m 0x1000C (keyed key.toNat w) = s.dev.swapWrite (keyed key.toNat w) := by
    simp [Dev.regWrite, hl.2, slowReg, Dev.devWrite]
  have wide : keyed key.toNat w < 2 ^ 32 := by have := key.isLt; unfold keyed; omega
  exact givesBy_writes run wide hl ⟨by decide, by decide, by decide, by decide, by decide⟩ (effect ▸ hp)

/-- Without its key a write of SNT_SWAP_CTRL does nothing. -/
theorem swapWrite_unkeyed {key : BitVec 8} {w : Nat} (hw : w < 2 ^ 24) (h : key ≠ 0xA5) (d : Dev) :
    d.swapWrite (keyed key.toNat w) = d := by
  have top : bitsAt (keyed key.toNat w) 24 8 = key.toNat := by
    have := key.isLt; simp only [bitsAt, keyed]; omega
  have other : key.toNat ≠ 0xA5 := fun e => h (BitVec.eq_of_toNat_eq e)
  rw [Dev.swapWrite, top, if_pos (by simpa using other)]

theorem swapWrite_req (d : Dev) : d.swapWrite (keyed (0xA5 : BitVec 8).toNat 1) = d.swapReq := by
  rw [Dev.swapWrite, if_neg (by decide)]
  exact (if_neg (by decide)).trans (if_pos (by decide))

theorem swapWrite_cancel (d : Dev) : d.swapWrite (keyed (0xA5 : BitVec 8).toNat 2) = d.swapCancel := by
  have none : (if bitAt (keyed (0xA5 : BitVec 8).toNat 2) 0 then d.swapReq else d) = d := if_neg (by decide)
  rw [Dev.swapWrite, if_neg (by decide), none]
  exact if_pos (by decide)

theorem swapReq_pending {d : Dev} (ok : d.swapOk = true) (free : d.holder 5 3 = 0) :
    d.swapReq.get K.SNT_STATUS_SWAP_PENDING = 1 ∧ d.swapReq.get K.SNT_SWAP_CTRL_REQ = 1 ∧ d.swapReq.holder 5 3 = 0x20 ∧
      FieldsKept d d.swapReq
        [K.SNT_STATUS_SWAP_PENDING, K.SNT_SWAP_CTRL_REQ, K.BST_LEASE_HOLDER 5 3, K.BST_LEASE_ARG 5 3] ∧
      SentryOnly d d.swapReq := by
  have eq : d.swapReq = ((((d.flashDone.set (K.BST_LEASE_HOLDER 5 3) 0x20).set (K.BST_LEASE_ARG 5 3) 0).put
      K.SNT_STATUS_SWAP_PENDING true).put K.SNT_SWAP_CTRL_REQ true) := by
    have granted : d.flashDone.leaseReq 5 lcFLASH swapHolder 0 false =
        ((d.flashDone.set (K.BST_LEASE_HOLDER 5 3) 0x20).set (K.BST_LEASE_ARG 5 3) 0, .granted) := if_pos free
    rw [Dev.swapReq, if_neg (by simp [ok]), granted]
  rw [eq]
  refine ⟨?_, Dev.get_put_same _ _ true (by decide), ?_, fun f hf => ?_, rfl⟩
  · exact (Dev.get_put_ne _ _ (by decide)).trans (Dev.get_put_same _ _ true (by decide))
  · exact (Dev.get_put_ne _ _ (by decide)).trans ((Dev.get_put_ne _ _ (by decide)).trans
      ((Dev.get_set_ne _ _ (by decide)).trans (Dev.get_set_same _ _ _)))
  · exact (Dev.get_put_ne _ _ (hf _ (by simp))).trans ((Dev.get_put_ne _ _ (hf _ (by simp))).trans
      ((Dev.get_set_ne _ _ (hf _ (by simp))).trans (Dev.get_set_ne _ _ (hf _ (by simp)))))

theorem swapReq_refused {d : Dev} (no : d.swapOk = false ∨ d.holder 5 3 ≠ 0) :
    d.swapReq.get K.SNT_STATUS_SWAP_REFUSED = 1 ∧ FieldsKept d d.swapReq [K.SNT_STATUS_SWAP_REFUSED] ∧
      SentryOnly d d.swapReq := by
  have eq : d.swapReq = d.flashDone.put K.SNT_STATUS_SWAP_REFUSED true := by
    cases ok : d.swapOk with
    | false => rw [Dev.swapReq, ok]; rfl
    | true =>
      have held : d.flashDone.holder 5 lcFLASH ≠ 0 := no.resolve_left (by simp [ok])
      have busy : d.flashDone.leaseReq 5 lcFLASH swapHolder 0 false = (d.flashDone, .busy (d.flashDone.holder 5 lcFLASH)) :=
        (if_neg held).trans (if_pos rfl)
      rw [Dev.swapReq, if_neg (by simp [ok]), busy]
  rw [eq]
  exact ⟨Dev.get_put_same _ _ true (by decide), fun f hf => Dev.get_put_ne _ _ (hf _ (by simp)), rfl⟩

theorem on_of_get_one {d : Dev} {f : Fld} (h : d.get f = 1) : d.on f = true := by simp [Dev.on, h]

theorem on_of_get_zero {d : Dev} {f : Fld} (h : d.get f = 0) : d.on f = false := by simp [Dev.on, h]

section
variable {m : Master} {s : State} (hl : Lets s m 0x1000C true)
include hl

theorem swapCancel_ends (pending : s.dev.get K.SNT_STATUS_SWAP_PENDING = 1) :
    GivesBy m (.swapCancel m 0xA5) s fun d => SwapEnded s.dev d ∧ SentryOnly s.dev d := by
  refine swapCtrl_given (key := 0xA5) (by decide) rfl hl ?_
  rw [swapWrite_cancel, Dev.swapCancel, if_pos (on_of_get_one pending)]
  exact ⟨swapEnds_ended s.dev, swapEnds_unit s.dev⟩

theorem swapCancel_idle (none : s.dev.get K.SNT_STATUS_SWAP_PENDING = 0) :
    GivesBy m (.swapCancel m 0xA5) s fun d => d = s.dev := by
  refine swapCtrl_given (key := 0xA5) (by decide) rfl hl ?_
  rw [swapWrite_cancel, Dev.swapCancel, if_neg (by simp [on_of_get_zero none])]

end

/-! ## The swap (R89, R90) -/

theorem swapBegin_activates (s : State) (pending : s.dev.get K.SNT_STATUS_SWAP_PENDING = 1) :
    Gives .swapBegin s fun d => d.get K.SNT_STATUS_SWAP_PENDING = 0 ∧ d.get K.SNT_STATUS_SWAP_ACTIVE = 1 ∧
      d.snt.swapOld = s.dev.snt.running ∧ d.snt.out.safePoint = true ∧
      FieldsKept s.dev d [K.SNT_STATUS_SWAP_PENDING, K.SNT_STATUS_SWAP_ACTIVE] ∧ SentryOnly s.dev d := by
  refine gives_of_does rfl ?_
  rw [if_pos (on_of_get_one pending)]
  exact ⟨(Dev.get_put_ne _ _ (by decide)).trans (Dev.get_put_same _ _ false (by decide)),
    Dev.get_put_same _ _ true (by decide), rfl, rfl,
    fun f hf => (Dev.get_put_ne _ _ (hf _ (by simp))).trans (Dev.get_put_ne _ _ (hf _ (by simp))), rfl⟩

theorem swapTimeout_refuses (s : State) (pending : s.dev.get K.SNT_STATUS_SWAP_PENDING = 1) :
    Gives .swapTimeout s fun d => d.get K.SNT_STATUS_SWAP_REFUSED = 1 ∧ SwapEnded s.dev d ∧ SentryOnly s.dev d := by
  refine gives_of_does rfl ?_
  rw [if_pos (on_of_get_one pending)]
  exact swapEnds_noted s.dev (by simp [CtrlKey, K.SNT_STATUS_SWAP_REFUSED]) (by decide) (by decide)

section
variable (s : State) (active : s.dev.get K.SNT_STATUS_SWAP_ACTIVE = 1) (idle : s.dev.snt.swapLoading = false)
  (first : s.dev.snt.swapReload = false)
include active idle first

theorem swapCrcCheck_stops (valid : s.dev.copyValid 0 s.dev.otherSlot = true) : Gives .swapCrcCheck s fun d =>
    d.snt.running = .none ∧ d.snt.loaded = slotSrc s.dev.otherSlot ∧ d.snt.swapLoading = true ∧
      d.snt.held = s.dev.snt.holdMask &&& s.dev.snt.pinClaim ∧ d.regs = s.dev.regs ∧ SentryOnly s.dev d := by
  refine gives_of_does rfl ?_
  rw [if_neg (by simp [on_of_get_one active, idle, first]), if_pos valid]
  exact ⟨rfl, rfl, rfl, rfl, rfl, rfl⟩

theorem swapCrcCheck_fails (bad : s.dev.copyValid 0 s.dev.otherSlot = false) : Gives .swapCrcCheck s fun d =>
    d.get K.SNT_STATUS_SWAP_FAIL = 1 ∧ SwapEnded s.dev d ∧ d.snt.running = s.dev.snt.running ∧ SentryOnly s.dev d := by
  refine gives_of_does rfl ?_
  rw [if_neg (by simp [on_of_get_one active, idle, first]), if_neg (by simp [bad])]
  obtain ⟨note, ended, unit⟩ := swapEnds_noted s.dev.flashDone (f := K.SNT_STATUS_SWAP_FAIL)
    (by simp [CtrlKey, K.SNT_STATUS_SWAP_FAIL]) (by decide) (by decide)
  refine ⟨note, ended.of_lease rfl rfl, by rw [swapEnds_snt]; rfl, SentryOnly.trans (b := s.dev.flashDone) rfl unit⟩

end

/-- An image of a flash slot that starts without a trip shows its slot; the swap's state is as it was. -/
theorem slot_starts {x : Dev} {out : ImgOut} {c : Nat} (slot : x.snt.loaded.slot = some c) (trip : out.trip = false)
    (sys : out.sysReq = false) :
    (x.imageStarts out).snt.running = x.snt.loaded ∧ (x.imageStarts out).get K.SNT_STATUS_ACTIVE_SLOT = bit (c == 1) ∧
      (x.imageStarts out).snt.swapLoading = x.snt.swapLoading ∧ (x.imageStarts out).snt.swapReload = x.snt.swapReload ∧
      FieldsKept x (x.imageStarts out) [K.SNT_STATUS_ACTIVE_SLOT, K.DEV_START_STATUS_IF_DEFAULT] ∧
      SentryOnly x (x.imageStarts out) := by
  simp only [Dev.imageStarts, slot, trip, sys, Bool.false_eq_true, if_false]
  exact ⟨rfl, (Dev.get_put_ne _ _ (by decide)).trans (Dev.get_put_same _ _ _ (by decide)), rfl, rfl,
    fun f hf => (Dev.get_put_ne _ _ (hf _ (by simp))).trans (Dev.get_put_ne _ _ (hf _ (by simp))), rfl⟩

/-- A swap that ends with an image of a flash slot. -/
theorem swapStarts_slot {x : Dev} {out : ImgOut} {c : Nat} (slot : x.snt.loaded.slot = some c) (trip : out.trip = false)
    (sys : out.sysReq = false) :
    (x.swapStarts out).snt.running = x.snt.loaded ∧ SwapEnded x (x.swapStarts out) ∧
      (x.swapStarts out).get K.SNT_STATUS_ACTIVE_SLOT = bit (c == 1) ∧ SentryOnly x (x.swapStarts out) := by
  have loaded : x.swapEnds.snt.loaded = x.snt.loaded := by rw [swapEnds_snt]; rfl
  obtain ⟨run, active, loading, reload, kept, unit⟩ := slot_starts (x := x.swapEnds) (loaded ▸ slot) trip sys
  refine ⟨run.trans loaded, (swapEnds_ended x).of_kept (fun f hf => kept f ?_) loading reload, active,
    (swapEnds_unit x).trans unit⟩
  revert f
  decide

/-- A swap that ends with the ROM default image. -/
theorem swapStarts_default {x : Dev} {out : ImgOut} (rom : x.snt.loaded = .romDefault) :
    (x.swapStarts out).snt.running = .romDefault ∧ SwapEnded x (x.swapStarts out) ∧
      (x.swapStarts out).get K.DEV_START_STATUS_IF_DEFAULT = 1 ∧ SentryOnly x (x.swapStarts out) := by
  have loaded : x.swapEnds.snt.loaded = .romDefault := by rw [swapEnds_snt]; exact rom
  obtain ⟨run, -, -, -, default', kept, eq⟩ := romDefault_starts x.swapEnds out loaded
  have swap : (x.swapEnds.imageStarts out).snt.swapLoading = x.swapEnds.snt.swapLoading ∧
      (x.swapEnds.imageStarts out).snt.swapReload = x.swapEnds.snt.swapReload := by
    simp only [Dev.imageStarts, loaded, ImgSrc.slot, Bool.false_eq_true, if_false]
    exact ⟨rfl, rfl⟩
  have unit : SentryOnly x.swapEnds (x.swapEnds.imageStarts out) := by
    unfold SentryOnly
    rw [eq]
  refine ⟨run, (swapEnds_ended x).of_kept (fun f hf => kept f ?_) swap.1 swap.2, default', (swapEnds_unit x).trans unit⟩
  revert f
  decide

section
variable {s : State} {out : ImgOut}

theorem swapLoadDone_starts (trip : out.trip = false) (sys : out.sysReq = false)
    (loading : s.dev.snt.swapLoading = true) (slot : s.dev.snt.loaded = .slotA) (valid : s.dev.copyValid 0 0 = true) :
    Gives (.swapLoadDone out) s fun d =>
      d.snt.running = .slotA ∧ SwapEnded s.dev d ∧ d.get K.SNT_STATUS_ACTIVE_SLOT = 0 ∧ SentryOnly s.dev d := by
  obtain ⟨run, ended, active, unit⟩ := swapStarts_slot (x := s.dev.flashDone) (c := 0) (congrArg ImgSrc.slot slot) trip sys
  refine gives_of_effect (d := s.dev.flashDone.swapStarts out) rfl ?_ ⟨run.trans slot, ended.of_lease rfl rfl, active,
    SentryOnly.trans (b := s.dev.flashDone) rfl unit⟩
  simp [loading, slot, ImgSrc.slot, valid]

theorem swapLoadDone_reloads (loading : s.dev.snt.swapLoading = true) (slot : s.dev.snt.loaded = .slotA)
    (bad : s.dev.copyValid 0 0 = false) : Gives (.swapLoadDone out) s fun d =>
      d.get K.SNT_STATUS_SWAP_FAIL = 1 ∧ d.snt.swapReload = true ∧ d.snt.loaded = s.dev.snt.swapOld ∧
      FieldsKept s.dev d [K.SNT_STATUS_SWAP_FAIL] ∧ SentryOnly s.dev d := by
  let d : Dev := (s.dev.flashDone.put K.SNT_STATUS_SWAP_FAIL true).modSnt fun x =>
    { x with swapLoading := false, swapReload := true, loaded := x.swapOld }
  refine gives_of_effect (d := d) rfl ?_ ⟨Dev.get_put_same s.dev.flashDone _ true (by decide), rfl, rfl,
    fun f hf => Dev.get_put_ne s.dev.flashDone _ (hf _ (by simp)), rfl⟩
  simp [loading, slot, ImgSrc.slot, bad, d]

/-- The record that a reload leaves touches the event log alone (R90, R553). -/
theorem SwapEnded.logA {d0 d : Dev} (h : SwapEnded d0 d) (ty unit data : Nat) : SwapEnded d0 (d.logA ty unit data) :=
  h.of_kept (fun _ _ => rfl) rfl rfl

theorem swapReloadDone_starts (trip : out.trip = false) (sys : out.sysReq = false)
    (reload : s.dev.snt.swapReload = true) (slot : s.dev.snt.loaded = .slotB) (valid : s.dev.copyValid 0 1 = true) :
    Gives (.swapReloadDone out) s fun d =>
      d.snt.running = .slotB ∧ SwapEnded s.dev d ∧ d.get K.SNT_STATUS_ACTIVE_SLOT = 1 ∧ BytesKept s.dev d := by
  obtain ⟨run, ended, active, unit⟩ := swapStarts_slot (x := s.dev.flashDone) (c := 1) (congrArg ImgSrc.slot slot) trip sys
  refine gives_of_effect (d := (s.dev.flashDone.swapStarts out).logA 0x00F blkSNT 1) rfl ?_
    ⟨run.trans slot, (ended.of_lease rfl rfl).logA _ _ _, active, unit.bytesKept⟩
  simp [reload, slot, ImgSrc.slot, valid]

theorem swapReloadDone_default (reload : s.dev.snt.swapReload = true) (slot : s.dev.snt.loaded = .slotB)
    (bad : s.dev.copyValid 0 1 = false) : Gives (.swapReloadDone out) s fun d =>
      d.snt.running = .romDefault ∧ SwapEnded s.dev d ∧ d.get K.DEV_START_STATUS_IF_DEFAULT = 1 ∧ BytesKept s.dev d := by
  obtain ⟨run, ended, shown, unit⟩ := swapStarts_default (x := s.dev.flashDone.defaultLoad) (out := out) rfl
  refine gives_of_effect (d := (s.dev.flashDone.defaultLoad.swapStarts out).logA 0x00F blkSNT 2) rfl ?_
    ⟨run, (ended.of_lease (Dev.get_put_ne _ _ (by decide)) rfl).logA _ _ _, shown, unit.bytesKept⟩
  simp [reload, slot, ImgSrc.slot, bad]

end

/-- Settles O23: each step of the mailboxes and of the swap, with what it leaves of the Sentry, its registers and its
lease. -/
theorem mailboxesAndSwap : Obligations.MailboxesAndSwap := by
  intro m key w out s
  refine ⟨mboxFrom_fills w s, mboxFromRead_empties m s, mboxToWrite_presents m w s, fun hl => ⟨fun other => ⟨?_, ?_⟩,
    fun ok free => ?_, fun no => ?_, swapCancel_ends hl, swapCancel_idle hl⟩,
    fun pending => ⟨swapBegin_activates s pending, swapTimeout_refuses s pending⟩,
    fun active idle first => ⟨swapCrcCheck_stops s active idle first, swapCrcCheck_fails s active idle first⟩,
    fun trip sys => ⟨fun loading slot => ⟨swapLoadDone_starts trip sys loading slot, swapLoadDone_reloads loading slot⟩,
      fun reload slot => ⟨swapReloadDone_starts trip sys reload slot, swapReloadDone_default reload slot⟩⟩⟩
  · exact swapCtrl_given (by decide) rfl hl (swapWrite_unkeyed (by decide) other _)
  · exact swapCtrl_given (by decide) rfl hl (swapWrite_unkeyed (by decide) other _)
  · exact swapCtrl_given (key := 0xA5) (by decide) rfl hl (swapWrite_req s.dev ▸ swapReq_pending ok free)
  · exact swapCtrl_given (key := 0xA5) (by decide) rfl hl (swapWrite_req s.dev ▸ swapReq_refused no)

/-! ## A device that the clauses speak of -/

/-- A device out of reset whose image runs from slot A, with a swap pending that holds the flash lease. -/
def swapRequested : State :=
  { State.outOfReset with dev := { State.outOfReset.dev with
      snt := { running := .slotA, loaded := .slotA }
      regs := ((State.outOfReset.dev.put K.SNT_STATUS_SWAP_PENDING true).set (K.BST_LEASE_HOLDER 5 3) 0x20).regs } }

theorem swapRequested_cancels : GivesBy .pf (.swapCancel .pf 0xA5) swapRequested fun d =>
    SwapEnded swapRequested.dev d ∧ SentryOnly swapRequested.dev d :=
  swapCancel_ends (m := .pf) ⟨by decide, by decide⟩ (by decide)

/-- The same device loading slot B again, whose flash is blank: the new image did not load. -/
def swapReloading : State :=
  { swapRequested with dev := { swapRequested.dev with snt := { loaded := .slotB, swapReload := true, swapOld := .slotB } } }

theorem swapReloading_defaults : Gives (.swapReloadDone {}) swapReloading fun d => d.snt.running = .romDefault ∧
    SwapEnded swapReloading.dev d ∧ d.get K.DEV_START_STATUS_IF_DEFAULT = 1 ∧ BytesKept swapReloading.dev d :=
  swapReloadDone_default rfl rfl (by decide)

end Sys2Proof.Slice0
end

section
/-! CERTIFICATE. Consistent reads of a master that keeps snapshots (R104, R105, R274, R572). -/

open Sys2Proof Sys2Proof.Machine

namespace Sys2Proof.Slice0

/-! ## A read that the hub lets through (R569, R572) -/

/-- A read that the hub lets through answers the word that its register gives. -/
theorem answers_of_reads {c : Instr} {m : Master} {s : State} {a v : Nat} {d : Dev} {P : Dev → Prop}
    (run : exec c s = s.reads m a) (hl : Lets s m a false) (word : s.dev.readWord m a = (d, v)) (hp : P d) :
    Answers c s v P := by
  have way : s.dev.regReach m a false = (s.dev, true) := Prod.ext (Dev.regReach_fst hl.1) hl.1
  refine ⟨d, run.trans ?_, hp⟩
  simp only [State.reads, State.busRead, Dev.busRead, way, word]

/-- An ordinary register is read with the master's snapshots, and the read does nothing more. -/
theorem readWord_ordinary {d : Dev} {a : Nat} (dark : d.regDark a = false) (slow : slowReg a = false)
    (free : freeReg a = false) (own : a ∉ [0x10034, 0x40010, 0x40014, 0x40018]) (port : a < 0x80180 ∨ 0x80200 ≤ a)
    (m : Master) : d.readWord m a = d.snapRead m a := by
  simp only [List.mem_cons, List.not_mem_nil, or_false, not_or] at own
  obtain ⟨mbox, tick, lo, hi⟩ := own
  have rx : ¬(0x80180 ≤ a ∧ a < 0x80200 ∧ a % 32 = 12) := by omega
  simp [Dev.readWord, dark, slow, free, mbox, tick, lo, hi, rx]

/-- A read of a register without RS bits gives its word, and latches the RS bits of the next one. -/
theorem snapRead_latches {d : Dev} {m : Master} {a : Nat} (keeps : keepsSnaps m = true) (own : rsMask a = 0)
    (next : rsMask (a + 4) ≠ 0) : d.snapRead m a =
      ({ d with snaps := tblPut d.snaps (snapKey m (a + 4)) (d.regWord (a + 4) &&& rsMask (a + 4)) }, d.regWord a) := by
  simp only [Dev.snapRead, keeps, own, next, Bool.not_true, Bool.false_eq_true, if_false, if_true]

section

variable {m : Master} {s : State} (keeps : keepsSnaps m = true)
include keeps

theorem loRead_latches {c : Instr} {a : Nat} (run : exec c s = s.reads m a) (hl : Lets s m a false)
    (slow : slowReg a = false) (free : freeReg a = false) (own : a ∉ [0x10034, 0x40010, 0x40014, 0x40018])
    (port : a < 0x80180 ∨ 0x80200 ≤ a) (plain : rsMask a = 0) (next : rsMask (a + 4) ≠ 0) :
    Answers c s (s.dev.regWord a) fun d =>
      tblGet 0 d.snaps (snapKey m (a + 4)) = s.dev.regWord (a + 4) &&& rsMask (a + 4) ∧
        d = { s.dev with snaps := d.snaps } :=
  answers_of_reads run hl ((readWord_ordinary hl.2 slow free own port m).trans (snapRead_latches keeps plain next))
    ⟨tblGet_put_same _ _ _ _, rfl⟩

end

/-! ## TIM_TTI (R104) -/

theorem overlay_whole (w v : Nat) : overlay w (whole v) % 2 ^ 32 = v % 2 ^ 32 := by
  simp only [overlay, whole, List.foldl_cons, List.foldl_nil, bitsAt]
  omega

theorem regWord_whole {d : Dev} {a v : Nat} {p : RegDesc × List Nat} (here : d.regAbsent a = false)
    (found : findReg a = some p) (live : d.live a = whole v) : d.regWord a % 2 ^ 32 = v % 2 ^ 32 := by
  simp only [Dev.regWord, here, found, live, Bool.false_eq_true, if_false]
  exact overlay_whole _ _

theorem regWord_ttiLo (d : Dev) : d.regWord 0x40008 % 2 ^ 32 = d.tti % 2 ^ 32 := by
  have found : findReg 0x40008 = some (⟨0x40008, [], none, [⟨0, 32, .ro, 0, .drst⟩]⟩, []) := by decide
  rw [regWord_whole (by simp [Dev.regAbsent]) found (v := half false d.tti) (by simp [Dev.live, Dev.liveTim])]
  simp [half]

theorem regWord_ttiHi (d : Dev) : d.regWord 0x4000C &&& rsMask 0x4000C = d.tti / 2 ^ 32 % 2 ^ 32 := by
  have found : findReg 0x4000C = some (⟨0x4000C, [], none, [⟨0, 32, .rs, 0, .drst⟩]⟩, []) := by decide
  have mask : rsMask 0x4000C = 2 ^ 32 - 1 := by decide
  rw [mask, Nat.and_two_pow_sub_one_eq_mod, regWord_whole (by simp [Dev.regAbsent]) found (v := half true d.tti)
    (by simp [Dev.live, Dev.liveTim])]
  simp [half]

/-! ## The time of day (R105) -/

/-- The time-of-day snapshot of the master is `t`, and nothing else of the device changes. -/
def TodOnly (m : Master) (d0 : Dev) (t : Tod) (d : Dev) : Prop :=
  d.todOf m = t ∧ d = { d0 with time := { d0.time with tod := d.time.tod } }

theorem setTod_only (m : Master) (d : Dev) (t : Tod) : TodOnly m d t (d.setTod m t) := ⟨tblGet_put_same _ _ _ _, rfl⟩

section

variable {m : Master} {s : State} (keeps : keepsSnaps m = true)
include keeps

theorem timTickRead_answers (hl : Lets s m 0x40010 false) :
    ((s.dev.todOf m).armed = 2 → Answers (.timTickRead m) s (s.dev.todOf m).tick
      (TodOnly m s.dev { s.dev.todOf m with armed := 0 })) ∧
    ((s.dev.todOf m).armed ≠ 2 → Answers (.timTickRead m) s s.dev.time.tick
      (TodOnly m s.dev { s.dev.todOf m with armed := 1, sec := s.dev.time.sec })) := by
  have word : s.dev.readWord m 0x40010 = s.dev.tickRead m := by simp [Dev.readWord, hl.2, slowReg, keeps]
  refine ⟨fun second => ?_, fun first => ?_⟩
  · exact answers_of_reads rfl hl (word.trans (if_pos second)) (setTod_only m _ _)
  · exact answers_of_reads rfl hl (word.trans (if_neg first)) (setTod_only m _ _)

theorem timSecLoRead_answers (hl : Lets s m 0x40014 false) :
    ((s.dev.todOf m).armed = 1 → Answers (.timSecLoRead m) s ((s.dev.todOf m).sec % 2 ^ 32) fun d => d = s.dev) ∧
    ((s.dev.todOf m).armed ≠ 1 → Answers (.timSecLoRead m) s (s.dev.time.sec % 2 ^ 32)
      (TodOnly m s.dev { armed := 2, sec := s.dev.time.sec, tick := s.dev.time.tick })) := by
  have word : s.dev.readWord m 0x40014 = s.dev.secLoRead m := by simp [Dev.readWord, hl.2, slowReg, keeps]
  refine ⟨fun second => ?_, fun first => ?_⟩
  · exact answers_of_reads rfl hl (word.trans (if_pos second)) rfl
  · exact answers_of_reads rfl hl (word.trans (if_neg first)) (setTod_only m _ _)

theorem timSecHiRead_answers (hl : Lets s m 0x40018 false) :
    ((s.dev.todOf m).armed = 1 → Answers (.timSecHiRead m) s ((s.dev.todOf m).sec / 2 ^ 32 % 256)
      (TodOnly m s.dev { s.dev.todOf m with armed := 0 })) ∧
    ((s.dev.todOf m).armed ≠ 1 → Answers (.timSecHiRead m) s ((s.dev.todOf m).sec / 2 ^ 32 % 256) fun d => d = s.dev) := by
  have word : s.dev.readWord m 0x40018 = s.dev.secHiRead m := by simp [Dev.readWord, hl.2, slowReg, keeps]
  refine ⟨fun second => ?_, fun first => ?_⟩
  · exact answers_of_reads rfl hl (word.trans (by rw [Dev.secHiRead, if_pos second]; rfl)) (setTod_only m _ _)
  · exact answers_of_reads rfl hl (word.trans (by rw [Dev.secHiRead, if_neg first]; rfl)) rfl

theorem timTtiLoRead_answers (hl : Lets s m 0x40008 false) : ∃ v, v % 2 ^ 32 = s.dev.tti % 2 ^ 32 ∧
    Answers (.timTtiLoRead m) s v fun d => tblGet 0 d.snaps (snapKey m 0x4000C) = s.dev.tti / 2 ^ 32 % 2 ^ 32 ∧
      d = { s.dev with snaps := d.snaps } := by
  refine ⟨s.dev.regWord 0x40008, regWord_ttiLo s.dev, ?_⟩
  rw [← regWord_ttiHi]
  exact loRead_latches keeps rfl hl (by decide) (by decide) (by decide) (by decide) (by decide) (by decide)

end

/-- Settles O25: a LO word is answered from the tick in which the rest of its value is latched, and the time of day from
the master's snapshot. -/
theorem consistentReads : Obligations.ConsistentReads := fun _ _ keeps =>
  ⟨timTtiLoRead_answers keeps, timTickRead_answers keeps, timSecLoRead_answers keeps, timSecHiRead_answers keeps,
    fun _ hl slow free own port plain next => loRead_latches keeps rfl hl slow free own port plain next⟩

/-! ## A device that the clauses speak of -/

/-- A device out of reset at tick 2^32 + 7, whose physical function has read the tick first. -/
def timeRunning : State :=
  { State.outOfReset with dev := { State.outOfReset.dev with
      time := { tti := 2 ^ 32 + 7, tick := 5, sec := 9, tod := [(masterIx .pf, { armed := 1, sec := 8 })] } } }

theorem timeRunning_answers : (Answers (.timTickRead .pf) timeRunning 5
      (TodOnly .pf timeRunning.dev { armed := 1, sec := 9 })) ∧
    (Answers (.timSecLoRead .pf) timeRunning 8 fun d => d = timeRunning.dev) ∧
    Answers (.timSecHiRead .pf) timeRunning 0 (TodOnly .pf timeRunning.dev { sec := 8 }) :=
  ⟨(timTickRead_answers (m := .pf) rfl ⟨by decide, by decide⟩).2 (by decide),
    (timSecLoRead_answers (m := .pf) rfl ⟨by decide, by decide⟩).1 (by decide),
    (timSecHiRead_answers (m := .pf) rfl ⟨by decide, by decide⟩).1 (by decide)⟩

/-- The high word of TTI is latched with a read of the low one. -/
theorem timeRunning_latches : ∃ v, v % 2 ^ 32 = 7 ∧ Answers (.timTtiLoRead .pf) timeRunning v fun d =>
    tblGet 0 d.snaps (snapKey .pf 0x4000C) = 1 ∧ d = { timeRunning.dev with snaps := d.snaps } :=
  timTtiLoRead_answers (m := .pf) (s := timeRunning) rfl ⟨by decide, by decide⟩

end Sys2Proof.Slice0
end

section
/-! SUPPORT. Stop requests and the marks of schedule entries (R113, R115, R144, R315, R318): which part of the device
they change, which register fields, and what a loop of them leaves of each site. -/

open Sys2Proof Sys2Proof.Slice0

namespace Sys2Proof.Machine

/-! ## Loops -/

/-- A relation that every pass keeps, the loop keeps. -/
theorem Dev.each_rel {α : Type} {R : Dev → Dev → Prop} (refl : ∀ d, R d d) (trans : ∀ {a b c}, R a b → R b c → R a c)
    {f : Dev → α → Dev} (l : List α) (step : ∀ d, ∀ a ∈ l, R d (f d a)) (d : Dev) : R d (d.each l f) := by
  unfold Dev.each
  induction l generalizing d with
  | nil => exact refl d
  | cons a l ih =>
    exact trans (step d a (by simp)) (ih (fun d b hb => step d b (List.mem_cons_of_mem a hb)) (f d a))

/-- A loop whose other passes keep a relation is its one pass `a` between two steps of the relation. -/
theorem Dev.each_pass {α : Type} {R : Dev → Dev → Prop} (refl : ∀ d, R d d) (trans : ∀ {a b c}, R a b → R b c → R a c)
    {f : Dev → α → Dev} {l : List α} {a : α} (mem : a ∈ l) (nodup : l.Nodup)
    (others : ∀ d, ∀ b ∈ l, b ≠ a → R d (f d b)) (d : Dev) : ∃ x, R d x ∧ R (f x a) (d.each l f) := by
  obtain ⟨l₁, l₂, rfl⟩ := List.append_of_mem mem
  have distinct := List.nodup_append.mp nodup
  obtain ⟨-, second, apart⟩ := distinct
  refine ⟨d.each l₁ f, Dev.each_rel refl trans l₁ (fun d b hb => others d b (by simp [hb]) (apart b hb a (by simp))) d, ?_⟩
  have rest : d.each (l₁ ++ a :: l₂) f = (f (d.each l₁ f) a).each l₂ f := by
    simp only [Dev.each, List.foldl_append, List.foldl_cons]
  rw [rest]
  exact Dev.each_rel refl trans l₂ (fun d b hb => others d b (by simp [hb])
    fun e => (List.nodup_cons.mp second).1 (e ▸ hb)) _

/-- The field `f` keeps its value or takes the value `v`. -/
def Takes (f : Fld) (v : Nat) (d d' : Dev) : Prop := d'.get f = d.get f ∨ d'.get f = v

theorem Takes.refl (f : Fld) (v : Nat) (d : Dev) : Takes f v d d := .inl rfl

theorem Takes.trans {f : Fld} {v : Nat} {a b c : Dev} (h : Takes f v a b) (k : Takes f v b c) : Takes f v a c := by
  rcases k with k | k
  · rcases h with h | h
    · exact .inl (k.trans h)
    · exact .inr (k.trans h)
  · exact .inr k

/-- A field that held `v` or has taken it holds `v`. -/
theorem Takes.eq {f : Fld} {v : Nat} {d d' : Dev} (h : Takes f v d d') (hv : d.get f = v) : d'.get f = v :=
  h.elim (fun h => h.trans hv) id

/-- Setting any field to what it may take leaves the others. -/
theorem Dev.set_takes (d : Dev) {f g : Fld} {u v : Nat} (h : f.key = g.key → u % 2 ^ g.width = v) :
    Takes f v d (d.set g u) := by
  by_cases e : f.key = g.key
  · exact .inr (by simp [Dev.get, Dev.set, e, h e])
  · exact .inl (Dev.get_set_ne d u e)

/-! ## The part of the device that a stop request changes -/

/-- Nothing changes but register fields, the event log, the schedule tables and the site controllers. -/
def StopUnit (d d' : Dev) : Prop := d' = { d with regs := d'.regs, evl := d'.evl, sched := d'.sched, sites := d'.sites }

theorem StopUnit.refl (d : Dev) : StopUnit d d := rfl

theorem StopUnit.trans {a b c : Dev} (h : StopUnit a b) (k : StopUnit b c) : StopUnit a c := by
  unfold StopUnit at *
  rw [k, h]

section

variable {d d' : Dev} (h : StopUnit d d')
include h

theorem StopUnit.time : d'.time = d.time := by rw [h]
theorem StopUnit.cas : d'.cas = d.cas := by rw [h]
theorem StopUnit.tgn : d'.tgn = d.tgn := by rw [h]
theorem StopUnit.core (y : Nat) : d'.core y = d.core y := by rw [h]; rfl
theorem StopUnit.clock : d'.clock = d.clock := by rw [h]; rfl
theorem StopUnit.bytes : BytesKept d d' := fun a => by rw [h]; rfl

end

theorem Dev.set_stopUnit (d : Dev) (f : Fld) (v : Nat) : StopUnit d (d.set f v) := rfl

/-- A record changes register fields and the event log alone. -/
theorem Dev.post_part (d : Dev) (r : Rec) : d.post r = { d with regs := (d.post r).regs, evl := (d.post r).evl } := by
  have lost (c t : Nat) : d.lose c t = { d with regs := (d.lose c t).regs, evl := (d.lose c t).evl } := by
    simp only [Dev.lose, Dev.count48]
    repeat' split
    all_goals rfl
  simp only [Dev.post]
  repeat' split
  all_goals first | exact lost _ _ | rfl

theorem Dev.post_stopUnit (d : Dev) (r : Rec) : StopUnit d (d.post r) := by
  unfold StopUnit
  rw [d.post_part]

theorem Dev.logB_stopUnit (d : Dev) (ty unit data : Nat) (site : Option Nat) : StopUnit d (d.logB ty unit data site) :=
  d.post_stopUnit _

theorem Dev.logBOn_stopUnit (d : Dev) (die ty unit data : Nat) (site : Option Nat) :
    StopUnit d (d.logBOn die ty unit data site) := d.post_stopUnit _

theorem Dev.each_stopUnit {α : Type} {f : Dev → α → Dev} (step : ∀ d a, StopUnit d (f d a)) (l : List α) (d : Dev) :
    StopUnit d (d.each l f) := Dev.each_rel StopUnit.refl StopUnit.trans l (fun d a _ => step d a) d

theorem Dev.schedMark_stopUnit (d : Dev) (t e st res : Nat) : StopUnit d (d.schedMark t e st res) := rfl

theorem Dev.schedEnd_stopUnit (d : Dev) (t e st res : Nat) : StopUnit d (d.schedEnd t e st res) := by
  have copies := (d.schedMark_stopUnit t e st res).trans (Dev.each_stopUnit
    (fun d (p : Nat × Nat) => d.schedMark_stopUnit p.1 p.2 st res) (d.copiesOf e) (d.schedMark t e st res))
  simp only [Dev.schedEnd]
  split
  · exact copies.trans rfl
  · rfl

theorem Dev.schedLog_stopUnit (d : Dev) (ty t e res : Nat) (site : Option Nat) : StopUnit d (d.schedLog ty t e res site) :=
  d.logB_stopUnit _ _ _ _

theorem Dev.stopMulti_stopUnit (d : Dev) (s cause : Nat) : StopUnit d (d.stopMulti s cause) :=
  Dev.each_stopUnit (fun d _ => (d.set_stopUnit _ _).trans (Dev.logBOn_stopUnit _ _ _ _ _ _)) _ d

theorem Dev.stopNoted_stopUnit (d : Dev) (s cause : Nat) : StopUnit d (d.stopNoted s cause) := by
  have noted : StopUnit d (((d.set (K.SITE_CAUSE s) cause).set2 (K.SITE_STOP_TTI_LO s) (K.SITE_STOP_TTI_HI s) d.tti).bump
    (K.SITE_STOPS s)) := rfl
  simp only [Dev.stopNoted]
  split
  · rfl
  · exact noted.trans (Dev.logB_stopUnit _ _ _ _ _)

theorem Dev.cancelStarts_stopUnit (d : Dev) (s : Nat) : StopUnit d (d.cancelStarts s) :=
  Dev.each_stopUnit (fun d _ => d.schedEnd_stopUnit _ _ _ _) _ d

theorem Dev.stopReq_stopUnit (d : Dev) (s cause : Nat) : StopUnit d (d.stopReq s cause) := by
  have noted := d.stopNoted_stopUnit s cause
  have multi := d.stopMulti_stopUnit s cause
  simp only [Dev.stopReq]
  repeat' split
  · exact noted.trans (Dev.cancelStarts_stopUnit _ s)
  · exact multi
  · exact noted.trans rfl
  · exact multi
  · rfl

/-! ## The register fields that a stop request changes -/

/-- Where STATE and RESULT of a schedule entry lie in word 2 (R110), whatever the entry. -/
def MarkKey (k : Nat) : Prop := k % 128 = 88 ∨ k % 128 = 93

theorem markKey_state (t e : Nat) : MarkKey (K.SCHED_STATE t e).key := by
  simp only [MarkKey, K.SCHED_STATE]; omega

theorem markKey_result (t e : Nat) : MarkKey (K.SCHED_RESULT t e).key := by
  simp only [MarkKey, K.SCHED_RESULT]; omega

/-- A key that lies elsewhere than those of a class differs from each of them. -/
theorem key_ne_of {p : Nat → Prop} {f g : Fld} (h : ¬ p f.key) (k : p g.key) : f.key ≠ g.key := fun e => h (e ▸ k)

section

variable {f : Fld} (h : ¬ MarkKey f.key) (d : Dev)
include h

theorem Dev.get_schedMark (t e st res : Nat) : (d.schedMark t e st res).get f = d.get f :=
  (Dev.get_set_ne _ _ (key_ne_of h (markKey_result t e))).trans (Dev.get_set_ne _ _ (key_ne_of h (markKey_state t e)))

theorem Dev.get_schedEnd (t e st res : Nat) : (d.schedEnd t e st res).get f = d.get f := by
  simp only [Dev.schedEnd]
  split
  · exact (Dev.each_keeps (fun d => d.get f) _ _ _ fun d _ => d.get_schedMark h _ _ _ _).trans (d.get_schedMark h _ _ _ _)
  · exact d.get_schedMark h _ _ _ _

theorem Dev.get_cancelStarts (s : Nat) : (d.cancelStarts s).get f = d.get f :=
  Dev.each_keeps (fun d => d.get f) d _ _ fun d _ => d.get_schedEnd h _ _ _ _

end

/-- CAUSE, STOP_TTI and STOPS of a site (R315). -/
def stopFields (s : Nat) : List Fld := [K.SITE_CAUSE s, K.SITE_STOP_TTI_LO s, K.SITE_STOP_TTI_HI s, K.SITE_STOPS s]

/-- The fields that a stop request to site `s` may write: those of the site, the schedule entries' marks, MULTI of a core's
SEQ_FAULT, whatever the core, and the loss counter of class B. -/
def StopKey (s k : Nat) : Prop :=
  k ∈ (stopFields s).map Fld.key ∨ MarkKey k ∨ 33554432 ≤ k ∧ k % 128 = 72 ∨ k ∈ lostB.map Fld.key

/-- A field apart from the keys of a list differs from each field of it. -/
theorem keys_ne_of {f : Fld} {l : List Fld} (h : f.key ∉ l.map Fld.key) : ∀ g ∈ l, f.key ≠ g.key :=
  fun _ hg e => h (e ▸ List.mem_map_of_mem hg)

theorem Dev.get_stopNoted {f : Fld} {s : Nat} (own : f.key ∉ (stopFields s).map Fld.key) (lost : f.key ∉ lostB.map Fld.key)
    (d : Dev) (cause : Nat) : (d.stopNoted s cause).get f = d.get f := by
  have own := keys_ne_of own
  have cause' := own (K.SITE_CAUSE s) (by simp [stopFields])
  have lo := own (K.SITE_STOP_TTI_LO s) (by simp [stopFields])
  have hi := own (K.SITE_STOP_TTI_HI s) (by simp [stopFields])
  have stops := own (K.SITE_STOPS s) (by simp [stopFields])
  simp only [Dev.stopNoted]
  split
  · rw [Dev.get_bump_ne _ _ stops, Dev.get_set2_ne _ _ lo hi, Dev.get_set_ne _ _ cause']
  · rw [Dev.get_logB_ne _ _ _ _ _ (keys_ne_of lost), Dev.get_bump_ne _ _ stops, Dev.get_set2_ne _ _ lo hi,
      Dev.get_set_ne _ _ cause']

section

variable {f : Fld} {s : Nat} (h : ¬ StopKey s f.key) (d : Dev)
include h

theorem Dev.get_stopMulti (cause : Nat) : (d.stopMulti s cause).get f = d.get f := by
  simp only [StopKey, not_or] at h
  obtain ⟨-, -, multi, lost⟩ := h
  refine Dev.each_keeps (fun d => d.get f) d _ _ fun d q => ?_
  refine (Dev.get_post_b _ rfl (keys_ne_of lost)).trans (Dev.get_put_ne _ _ ?_)
  refine key_ne_of (p := fun k => 33554432 ≤ k ∧ k % 128 = 72) multi ?_
  simp only [K.SEQ_FAULT_MULTI]; omega

theorem Dev.get_stopReq (cause : Nat) : (d.stopReq s cause).get f = d.get f := by
  have apart := h
  simp only [StopKey, not_or] at apart
  obtain ⟨own, mark, -, lost⟩ := apart
  have noted := Dev.get_stopNoted own lost d cause
  have multi := d.get_stopMulti h cause
  simp only [Dev.stopReq]
  repeat' split
  · exact (Dev.get_cancelStarts mark _ s).trans noted
  · exact multi
  · exact noted
  · exact multi
  · rfl

end

/-! ## A site under stop requests -/

/-- Site `i` keeps its state, its cause and its controller's state, and the clock stands. -/
structure SiteKept (i : Nat) (d d' : Dev) : Prop where
  state : d'.siteState i = d.siteState i
  cause : d'.get (K.SITE_CAUSE i) = d.get (K.SITE_CAUSE i)
  site : d'.site i = d.site i
  clock : d'.clock = d.clock

theorem SiteKept.refl (i : Nat) (d : Dev) : SiteKept i d d := ⟨rfl, rfl, rfl, rfl⟩

theorem SiteKept.trans {i : Nat} {a b c : Dev} (h : SiteKept i a b) (k : SiteKept i b c) : SiteKept i a c :=
  ⟨k.state.trans h.state, k.cause.trans h.cause, k.site.trans h.site, k.clock.trans h.clock⟩

theorem SiteKept.siteIn {i : Nat} {d d' : Dev} (h : SiteKept i d d') (l : List Nat) : d'.siteIn i l = d.siteIn i l :=
  Dev.siteIn_congr h.state l

theorem SiteKept.stopGiven {i : Nat} {d d' : Dev} (h : SiteKept i d d') : d'.stopGiven i = d.stopGiven i := by
  simp only [Dev.stopGiven, h.site, h.siteIn]

theorem Dev.post_sites (d : Dev) (r : Rec) : (d.post r).sites = d.sites := by rw [d.post_part]

theorem Dev.sites_schedEnd (d : Dev) (t e st res : Nat) : (d.schedEnd t e st res).sites = d.sites := by
  simp only [Dev.schedEnd]
  split
  · refine (Dev.each_keeps (fun d : Dev => d.sites) _ _ _ fun d p => ?_).trans ?_
    · rfl
    · rfl
  · rfl

theorem Dev.sites_stopMulti (d : Dev) (s cause : Nat) : (d.stopMulti s cause).sites = d.sites :=
  Dev.each_keeps (fun d : Dev => d.sites) d _ _ fun _ _ => Dev.post_sites _ _

theorem Dev.sites_stopNoted (d : Dev) (s cause : Nat) : (d.stopNoted s cause).sites = d.sites := by
  simp only [Dev.stopNoted]
  split
  · rfl
  · exact Dev.post_sites _ _

theorem Dev.sites_cancelStarts (d : Dev) (s : Nat) : (d.cancelStarts s).sites = d.sites :=
  Dev.each_keeps (fun d : Dev => d.sites) d _ _ fun _ _ => Dev.sites_schedEnd _ _ _ _ _

theorem Dev.site_stopReq_ne (d : Dev) {s i : Nat} (cause : Nat) (ne : i ≠ s) : (d.stopReq s cause).site i = d.site i := by
  have noted : (d.stopNoted s cause).site i = d.site i := by simp only [Dev.site, Dev.sites_stopNoted]
  have multi : (d.stopMulti s cause).site i = d.site i := by simp only [Dev.site, Dev.sites_stopMulti]
  simp only [Dev.stopReq]
  repeat' split
  · exact Eq.trans (by simp only [Dev.site, Dev.sites_cancelStarts]) noted
  · exact multi
  · exact (Dev.site_modSite_ne _ _ ne).trans noted
  · exact multi
  · rfl

/-- SITE_STATE is none of the fields that a stop request writes. -/
theorem stopKey_state (s i : Nat) : ¬StopKey s (K.SITE_SITE_STATE i).key := by
  simp only [StopKey, MarkKey, stopFields, lostB, K.SITE_CAUSE, K.SITE_STOP_TTI_LO, K.SITE_STOP_TTI_HI, K.SITE_STOPS,
    K.SITE_SITE_STATE, K.EVL_B_LOST_LO_COUNT_LO, K.EVL_B_LOST_HI_COUNT_HI, K.EVL_B_LOST_HI_OVF, List.map_cons, List.map_nil,
    List.mem_cons, List.not_mem_nil, or_false]
  omega

/-- CAUSE of another site is none of the fields that a stop request writes. -/
theorem stopKey_cause {s i : Nat} (ne : i ≠ s) : ¬StopKey s (K.SITE_CAUSE i).key := by
  simp only [StopKey, MarkKey, stopFields, lostB, K.SITE_CAUSE, K.SITE_STOP_TTI_LO, K.SITE_STOP_TTI_HI, K.SITE_STOPS,
    K.EVL_B_LOST_LO_COUNT_LO, K.EVL_B_LOST_HI_COUNT_HI, K.EVL_B_LOST_HI_OVF, List.map_cons, List.map_nil,
    List.mem_cons, List.not_mem_nil, or_false]
  omega

theorem Dev.siteState_stopReq (d : Dev) (s cause i : Nat) : (d.stopReq s cause).siteState i = d.siteState i :=
  d.get_stopReq (stopKey_state s i) cause

/-- A stop request to another site leaves a site alone. -/
theorem Dev.stopReq_siteKept (d : Dev) {s i : Nat} (cause : Nat) (ne : i ≠ s) : SiteKept i d (d.stopReq s cause) :=
  ⟨d.siteState_stopReq s cause i, d.get_stopReq (stopKey_cause ne) cause, d.site_stopReq_ne cause ne,
    (d.stopReq_stopUnit s cause).clock⟩

/-- A first stop request to a Running site is sampled now, with its cause (R315). -/
structure StopSampled (i c t : Nat) (d : Dev) : Prop where
  cause : d.get (K.SITE_CAUSE i) = c
  req : (d.site i).req = some (c, t)

theorem StopSampled.kept {i c t : Nat} {d d' : Dev} (h : StopSampled i c t d) (k : SiteKept i d d') :
    StopSampled i c t d' := ⟨k.cause.trans h.cause, k.site ▸ h.req⟩

theorem Dev.siteIn_of_state {d : Dev} {i st : Nat} (h : d.siteState i = st) (l : List Nat) : d.siteIn i l = l.contains st :=
  congrArg l.contains h

theorem Dev.cause_stopNoted (d : Dev) (i : Nat) {cause : Nat} (small : cause < 256) :
    (d.stopNoted i cause).get (K.SITE_CAUSE i) = cause := by
  have cause' : (d.set (K.SITE_CAUSE i) cause).get (K.SITE_CAUSE i) = cause := Dev.get_set_lt _ _ small
  have lost : ∀ g ∈ lostB, (K.SITE_CAUSE i).key ≠ g.key := keys_ne_of (by
    simp only [lostB, List.map_cons, List.map_nil, List.mem_cons, List.not_mem_nil, or_false, K.SITE_CAUSE,
      K.EVL_B_LOST_LO_COUNT_LO, K.EVL_B_LOST_HI_COUNT_HI, K.EVL_B_LOST_HI_OVF]
    omega)
  have stops : (K.SITE_CAUSE i).key ≠ (K.SITE_STOPS i).key := by simp [K.SITE_CAUSE, K.SITE_STOPS]
  have lo : (K.SITE_CAUSE i).key ≠ (K.SITE_STOP_TTI_LO i).key := by simp [K.SITE_CAUSE, K.SITE_STOP_TTI_LO]
  have hi : (K.SITE_CAUSE i).key ≠ (K.SITE_STOP_TTI_HI i).key := by simp [K.SITE_CAUSE, K.SITE_STOP_TTI_HI]
  simp only [Dev.stopNoted]
  split
  · rw [Dev.get_bump_ne _ _ stops, Dev.get_set2_ne _ _ lo hi, cause']
  · rw [Dev.get_logB_ne _ _ _ _ _ lost, Dev.get_bump_ne _ _ stops, Dev.get_set2_ne _ _ lo hi, cause']

theorem Dev.stopReq_running {d : Dev} {i : Nat} (cause : Nat) (running : d.siteState i = 2) (first : d.stopGiven i = false) :
    d.stopReq i cause = (d.stopNoted i cause).modSite i fun r => { r with req := some (cause, d.clock) } := by
  have here (l : List Nat) := Dev.siteIn_of_state running l
  simp only [Dev.stopReq, here, first, Bool.false_eq_true, if_false]
  rfl

theorem Dev.stopReq_sampled {d : Dev} {i cause : Nat} (small : cause < 256) (running : d.siteState i = 2)
    (first : d.stopGiven i = false) : StopSampled i cause d.clock (d.stopReq i cause) := by
  rw [Dev.stopReq_running cause running first]
  refine ⟨d.cause_stopNoted i small, ?_⟩
  rw [Dev.site_modSite_same]

/-- Stop requests to a list of sites: each Running site of the list without a stop is sampled, each site outside it is
left alone. -/
theorem Dev.stopReqs_sampled {d : Dev} {i cause : Nat} (small : cause < 256) {l : List Nat} (mem : i ∈ l) (nodup : l.Nodup)
    (running : d.siteState i = 2) (first : d.stopGiven i = false) : StopSampled i cause d.clock (d.stopReqs l cause) := by
  obtain ⟨x, before, after⟩ := Dev.each_pass (SiteKept.refl i) SiteKept.trans mem nodup
    (fun d b _ ne => d.stopReq_siteKept cause (Ne.symm ne)) d
  have sampled := Dev.stopReq_sampled small (before.state.trans running) (before.stopGiven.trans first)
  exact before.clock ▸ sampled.kept after

theorem Dev.stopReqs_siteKept {i : Nat} {l : List Nat} (out : i ∉ l) (d : Dev) (cause : Nat) :
    SiteKept i d (d.stopReqs l cause) :=
  Dev.each_rel (SiteKept.refl i) SiteKept.trans l (fun d _ hb => d.stopReq_siteKept cause fun e => out (e ▸ hb)) d

theorem Dev.stopReqs_stopUnit (d : Dev) (l : List Nat) (cause : Nat) : StopUnit d (d.stopReqs l cause) :=
  Dev.each_stopUnit (fun d s => d.stopReq_stopUnit s cause) l d

/-- What no stop request writes, a list of them leaves. -/
theorem Dev.get_stopReqs {f : Fld} (d : Dev) {l : List Nat} (h : ∀ s ∈ l, ¬StopKey s f.key) (cause : Nat) :
    (d.stopReqs l cause).get f = d.get f :=
  Dev.each_keeps_mem (fun d => d.get f) d _ _ fun d s hs => d.get_stopReq (h s hs) cause


end Sys2Proof.Machine
end

section
/-! CERTIFICATE. Tester time (R97 to R99, R102, R106, R107, R115, R173, R443, R444). -/

open Sys2Proof Sys2Proof.Machine

namespace Sys2Proof.Slice0

/-! ## ACQUIRE (R98) -/

/-- The word that ACQUIRE writes: SRC as it is, and ACQUIRE. -/
theorem acquireWord (d : Dev) : d.heldWord 0x40004 ||| 4 = 4 + d.get K.TIM_CTRL_SRC % 4 := by
  have held : d.heldWord 0x40004 = d.get K.TIM_CTRL_SRC % 4 := by
    have field : d.heldWord 0x40004 = d.get K.TIM_CTRL_SRC % 2 ^ 2 * 2 ^ 0 + 0 := by
      rw [Dev.heldWord, findReg_timCtrl]; rfl
    omega
  have small : d.get K.TIM_CTRL_SRC % 4 < 2 ^ 2 := Nat.mod_lt _ (by decide)
  rw [held, Nat.or_comm]
  exact (Nat.two_pow_add_eq_or_of_lt small 1).symm

/-- What a write of TIM_CTRL that repeats SRC leaves: every register field but those of TIM_CTRL and LOCKED_WR, a SRC that
the register can hold, and every unit. -/
structure SrcHeld (d x : Dev) : Prop where
  regs : x = { d with regs := x.regs }
  get : ∀ f : Fld, f.key / 32 ≠ 0x40004 / 4 → f.key ≠ K.DEV_REG_STATUS_LOCKED_WR.key → x.get f = d.get f
  src : d.get K.TIM_CTRL_SRC < 3 → x.get K.TIM_CTRL_SRC = d.get K.TIM_CTRL_SRC

theorem SrcHeld.refl (d : Dev) : SrcHeld d d := ⟨rfl, fun _ _ _ => rfl, fun _ => rfl⟩

theorem SrcHeld.lockedWr (d : Dev) : SrcHeld d d.lockedWr :=
  ⟨rfl, fun _ _ h => Dev.get_put_ne d true h, fun _ => Dev.get_put_ne d true (by decide)⟩

theorem SrcHeld.set (d : Dev) {v : Nat} (same : v % 4 = d.get K.TIM_CTRL_SRC % 4) : SrcHeld d (d.set K.TIM_CTRL_SRC v) := by
  refine ⟨rfl, fun f h _ => Dev.get_set_ne d v fun e => h (by rw [e]; rfl), fun small => ?_⟩
  rw [Dev.get_set_same, show K.TIM_CTRL_SRC.width = 2 from rfl]
  omega

/-- SRC = 3 names no source and is ignored (R98, R570). -/
theorem srcWrite_none {d : Dev} {w : Nat} (none : w % 4 = 3) : d.srcWrite w = d := by
  have take : d.fieldTake 0x40004 0 (bitsAt w 0 2) = .none := by simp [Dev.fieldTake, bitsAt, none]
  simp [Dev.srcWrite, Dev.fieldWrite, take]

theorem srcWrite_held (d : Dev) {w : Nat} (same : w % 4 = d.get K.TIM_CTRL_SRC % 4) : SrcHeld d (d.srcWrite w) := by
  by_cases none : w % 4 = 3
  · rw [srcWrite_none none]; exact SrcHeld.refl d
  · have value : bitsAt w 0 2 % 4 = d.get K.TIM_CTRL_SRC % 4 := by simp only [bitsAt]; omega
    rcases fieldWrite_rwl_cases (x := d) (rst := 0) (by' := .drst) (d.on K.TIM_CTRL_TIME_LOCK)
      (Dev.fieldTake_timSrc none d) with e | e | e <;> rw [Dev.srcWrite, e]
    · exact SrcHeld.set d value
    · exact SrcHeld.refl d
    · exact SrcHeld.lockedWr d

/-- Activity is the sites' states alone. -/
theorem anyActive_congr {d x : Dev} (h : ∀ i, x.siteState i = d.siteState i) : x.anyActive = d.anyActive := by
  simp only [Dev.anyActive, Dev.siteIn, h]

theorem SrcHeld.anyActive {d x : Dev} (h : SrcHeld d x) : x.anyActive = d.anyActive :=
  anyActive_congr fun i => h.get _ (by simp only [K.SITE_SITE_STATE]; omega)
    (by simp only [K.SITE_SITE_STATE, K.DEV_REG_STATUS_LOCKED_WR]; omega)

section

variable {m : Master} {s : State} (hl : Lets s m 0x40004 true)
include hl

/-- ACQUIRE writes TIM_CTRL with its present SRC and then acts. -/
theorem acquire_given {P : Dev → Prop} (given : ∀ x, SrcHeld s.dev x → P x.acquireWrite) : GivesBy m (.acquire m) s P := by
  have word := acquireWord s.dev
  generalize hw : s.dev.heldWord 0x40004 ||| 4 = w at word
  have run : exec (.acquire m) s = s.writes m 0x40004 w := by rw [← hw]; rfl
  have bit2 : bitAt w 2 = true := by rw [word]; simp only [bitAt, beq_iff_eq]; omega
  have free : bitsAt w 31 1 = 0 := by rw [word]; simp only [bitsAt]; omega
  have plain : s.dev.plainWrite 0x40004 w = s.dev.srcWrite w := by
    rw [Dev.plainWrite_fields findReg_timCtrl (by decide)]
    simp only [Dev.each, List.foldl_cons, List.foldl_nil, Dev.fieldWrite_wo, Dev.fieldWrite_lck, free, if_true]
    rfl
  have effect : s.dev.regWrite m 0x40004 w = (s.dev.srcWrite w).acquireWrite := by
    simp [Dev.regWrite, Dev.timWrite, hl.2, slowReg, bit2, plain]
  refine givesBy_writes run (by omega) hl ⟨by decide, by decide, by decide, by decide, by decide⟩ ?_
  rw [effect]
  exact given _ (srcWrite_held s.dev (by omega))

theorem acquire_begins (idle : s.dev.anyActive = false) : GivesBy m (.acquire m) s fun d =>
    d.time = { s.dev.time with acqPending := true, acqSrc := d.get K.TIM_CTRL_SRC } ∧
    d.get K.TIM_STATUS_TIME_UNSURE = 1 ∧ d.get K.TIM_STATUS_LOCKED = 0 ∧
    (s.dev.get K.TIM_CTRL_SRC < 3 → d.get K.TIM_CTRL_SRC = s.dev.get K.TIM_CTRL_SRC) ∧
    FieldsKeptBut s.dev d 0x40004 [K.TIM_STATUS_TIME_UNSURE, K.TIM_STATUS_LOCKED, K.DEV_REG_STATUS_LOCKED_WR] ∧
    d = { s.dev with regs := d.regs, time := d.time } := by
  refine acquire_given hl fun x held => ?_
  have run : x.acquireWrite = x.acquireBegins := by
    rw [Dev.acquireWrite, held.anyActive, idle]; rfl
  have kept {f : Fld} (unsure : f.key ≠ K.TIM_STATUS_TIME_UNSURE.key) (locked : f.key ≠ K.TIM_STATUS_LOCKED.key) :
      x.acquireBegins.get f = x.get f := (Dev.get_put_ne _ _ locked).trans (Dev.get_put_ne _ _ unsure)
  have src := kept (f := K.TIM_CTRL_SRC) (by decide) (by decide)
  rw [run]
  refine ⟨?_, ?_, Dev.get_put_same _ _ false (by decide), fun small => src.trans (held.src small), fun f own hf => ?_, ?_⟩
  · rw [src, ← show x.time = s.dev.time by rw [held.regs]]; rfl
  · exact (Dev.get_put_ne _ _ (by decide)).trans (Dev.get_put_same _ _ true (by decide))
  · exact (kept (hf _ (by simp)) (hf _ (by simp))).trans (held.get f own (hf _ (by simp)))
  · rw [Dev.acquireBegins, held.regs]; rfl

theorem acquire_refused (active : s.dev.anyActive = true) : GivesBy m (.acquire m) s fun d =>
    d.get K.TIM_STATUS_ACQ_REFUSED = 1 ∧
    FieldsKeptBut s.dev d 0x40004 [K.TIM_STATUS_ACQ_REFUSED, K.DEV_REG_STATUS_LOCKED_WR] ∧ RegsOnly s.dev d := by
  refine acquire_given hl fun x held => ?_
  have run : x.acquireWrite = x.put K.TIM_STATUS_ACQ_REFUSED true := by
    rw [Dev.acquireWrite, held.anyActive, active]; rfl
  rw [run]
  refine ⟨Dev.get_put_same _ _ true (by decide), fun f own hf => ?_, ?_⟩
  · exact (Dev.get_put_ne _ _ (hf _ (by simp))).trans (held.get f own (hf _ (by simp)))
  · unfold RegsOnly
    rw [held.regs]; rfl

end

/-! ## GO (R106 to R108) -/

section

variable {m : Master} {s : State} (hl : Lets s m 0x40024 true)
include hl

theorem go_given {P : Dev → Prop} (given : P s.dev.goWrite) : GivesBy m (.go m) s P := by
  refine givesBy_writes rfl (by decide) hl ⟨by decide, by decide, by decide, by decide, by decide⟩ ?_
  have effect : s.dev.regWrite m 0x40024 1 = s.dev.goWrite := by
    simp [Dev.regWrite, Dev.timWrite, hl.2, slowReg, bitAt]
  rw [effect]
  exact given

theorem go_refused (h : s.dev.get K.TIM_CTRL_SRC ≠ 0 ∨ s.dev.get K.TIM_CTRL_TIME_LOCK ≠ 0) : GivesBy m (.go m) s fun d =>
    d.get K.TIM_STATUS_SET_REFUSED = 1 ∧ FieldsOnly s.dev d [K.TIM_STATUS_SET_REFUSED] := by
  refine go_given hl ?_
  rw [Dev.goWrite, if_pos (by simpa [Dev.on] using h)]
  exact put_true_only _ _ (by decide)

end

/-- A pair of fields is read as before another field was set. -/
theorem get2_put_ne (d : Dev) {lo hi g : Fld} (b : Bool) (hl : lo.key ≠ g.key) (hh : hi.key ≠ g.key) :
    (d.put g b).get2 lo hi = d.get2 lo hi := by
  simp only [Dev.get2, Dev.get_put_ne d b hl, Dev.get_put_ne d b hh]

/-- What a GO with REFCLK100 leaves of device `d`: the registers' value is staged, and is late when a mark has come since
the first staged write. -/
structure Staged (d x : Dev) : Prop where
  pending : x.get K.TIM_STATUS_SET_PENDING = 1
  late : d.time.staging = true → d.time.stagingMark = true ∨ d.time.markTick = true → x.get K.TIM_STATUS_SET_LATE = 1
  early : d.time.stagingMark = false → d.time.markTick = false → x.get K.TIM_STATUS_SET_LATE = d.get K.TIM_STATUS_SET_LATE
  time : x.time = { d.time with
    staged := d.get2 K.TIM_SET_SEC_LO K.TIM_SET_SEC_HI, goNow := true, staging := false, stagingMark := false }
  kept : FieldsKept d x [K.TIM_STATUS_SET_PENDING, K.TIM_STATUS_SET_LATE]
  unit : x = { d with regs := x.regs, time := x.time }

theorem goWrite_stages {d : Dev} (src : d.get K.TIM_CTRL_SRC = 0) (open' : d.get K.TIM_CTRL_TIME_LOCK = 0) :
    Staged d d.goWrite := by
  rw [Dev.goWrite, if_neg (by simp [src, Dev.on, open'])]
  have stage {u v : Nat} (h : u = v) : ({ d.time with staged := u, goNow := true, staging := false, stagingMark := false } :
      TimeU) = { d.time with staged := v, goNow := true, staging := false, stagingMark := false } := by rw [h]
  cases mark : d.time.staging && (d.time.stagingMark || d.time.markTick)
  · refine ⟨Dev.get_put_same d _ true (by decide), fun staging marked => ?_, fun _ _ => Dev.get_put_ne d _ (by decide), ?_,
      fun f hf => Dev.get_put_ne d _ (hf _ (by simp)), rfl⟩
    · rcases marked with marked | marked <;> simp [staging, marked] at mark
    · exact stage (get2_put_ne d true (by decide) (by decide))
  · refine ⟨(Dev.get_put_ne _ _ (by decide)).trans (Dev.get_put_same d _ true (by decide)),
      fun _ _ => Dev.get_put_same _ _ true (by decide), fun first second => ?_, ?_,
      fun f hf => (Dev.get_put_ne _ _ (hf _ (by simp))).trans (Dev.get_put_ne d _ (hf _ (by simp))), rfl⟩
    · simp [first, second] at mark
    · exact stage ((get2_put_ne _ true (by decide) (by decide)).trans
        (get2_put_ne d true (by decide) (by decide)))

/-! ## REFERENCE_BACK (R443, R457) -/

theorem referenceBack_shows (s : State) : Gives .referenceBack s fun d =>
    (s.dev.get K.TIM_CTRL_SRC = 0 → d.get K.CLK_STATUS_REF_OK = 1) ∧ FieldsKept s.dev d [K.CLK_STATUS_REF_OK] ∧
    d = { s.dev with regs := d.regs, time := { s.dev.time with present := setBitAt s.dev.time.present 0 } } := by
  by_cases src : s.dev.get K.TIM_CTRL_SRC = 0
  · refine gives_of_effect rfl (if_pos src) ?_
    exact ⟨fun _ => Dev.get_put_same _ _ true (by decide), fun f hf => Dev.get_put_ne _ _ (hf _ (by simp)), rfl⟩
  · refine gives_of_effect rfl (if_neg src) ?_
    exact ⟨fun h => absurd h src, fun f _ => rfl, rfl⟩

/-! ## Second marks (R102, R106, R107) -/

theorem get2_set2 (d : Dev) {v : Nat} (h : v < 2 ^ 64) :
    (d.set2 K.TIM_MARK_TTI_LO K.TIM_MARK_TTI_HI v).get2 K.TIM_MARK_TTI_LO K.TIM_MARK_TTI_HI = v := by
  have lo : (d.set2 K.TIM_MARK_TTI_LO K.TIM_MARK_TTI_HI v).get K.TIM_MARK_TTI_LO = v % 2 ^ 32 :=
    (Dev.get_set_ne _ _ (by decide)).trans (Dev.get_set_lt _ _ (Nat.mod_lt _ (by decide)))
  have hi : (d.set2 K.TIM_MARK_TTI_LO K.TIM_MARK_TTI_HI v).get K.TIM_MARK_TTI_HI = v / 2 ^ 32 :=
    Dev.get_set_lt _ _ (show v / 2 ^ 32 < 2 ^ 32 by omega)
  rw [Dev.get2, lo, hi]
  omega

section

variable {s : State}

theorem secondMark_idle (none : s.dev.time.markDue = false) : Gives .secondMark s fun d => d = s.dev := by
  refine gives_of_does rfl ?_
  rw [Dev.applyMark, none]; rfl

variable (due : s.dev.time.markDue = true)
include due

/-- Without a staged value and a link's announcement the mark begins the next second. -/
theorem secondMark_next (range : s.dev.tti < 2 ^ 64) (none : s.dev.get K.TIM_STATUS_SET_PENDING = 0)
    (link : s.dev.time.linkMark = .none) : Gives .secondMark s fun d =>
      d.time.sec = (s.dev.time.sec + 1) % 2 ^ 40 ∧ d.time.tti = s.dev.time.tti ∧ d.time.markDue = false ∧
      d.get2 K.TIM_MARK_TTI_LO K.TIM_MARK_TTI_HI = s.dev.tti ∧
      FieldsKept s.dev d [K.TIM_MARK_TTI_LO, K.TIM_MARK_TTI_HI] ∧ d = { s.dev with regs := d.regs, time := d.time } := by
  have second : s.dev.secAtMark = ((s.dev.time.sec + 1) % 2 ^ 40, false) := by
    rw [Dev.secAtMark, on_of_get_zero none, link]
    cases s.dev.linkTime <;> rfl
  refine gives_of_does rfl ?_
  rw [Dev.applyMark, due, second]
  exact ⟨rfl, rfl, rfl, get2_set2 _ range, fun f hf => Dev.get_set2_ne _ _ (hf _ (by simp)) (hf _ (by simp)), rfl⟩

theorem secondMark_staged (pending : s.dev.get K.TIM_STATUS_SET_PENDING = 1) (earlier : s.dev.time.goNow = false) :
    Gives .secondMark s fun d => d.time.sec = s.dev.time.staged ∧ d.get K.TIM_STATUS_SET_PENDING = 0 ∧
      d.time.markDue = false ∧
      FieldsKept s.dev d [K.TIM_STATUS_SET_PENDING, K.TIM_MARK_TTI_LO, K.TIM_MARK_TTI_HI] := by
  have second : s.dev.secAtMark = (s.dev.time.staged, true) := by
    rw [Dev.secAtMark, on_of_get_one pending, earlier]; rfl
  refine gives_of_does rfl ?_
  rw [Dev.applyMark, due, second]
  refine ⟨rfl, ?_, rfl, fun f hf => ?_⟩
  · exact (Dev.get_set2_ne _ _ (by decide) (by decide)).trans (Dev.get_put_same _ _ false (by decide))
  · exact (Dev.get_set2_ne _ _ (hf _ (by simp)) (hf _ (by simp))).trans (Dev.get_put_ne _ _ (hf _ (by simp)))

end

end Sys2Proof.Slice0
end

section
/-! CERTIFICATE. Tester time: the end of an acquisition, and the loss of the reference (R97 to R99, R115, R173, R443,
R444). -/

open Sys2Proof Sys2Proof.Machine

namespace Sys2Proof.Machine

/-! ## An armed step cancelled (R452) -/

/-- ARM, STATE and RESULT of a PLL's step. -/
def stepFields (n p : Nat) : List Fld := [K.PLL_STEP_CTRL_ARM n p, K.PLL_STEP_CTRL_STATE n p, K.PLL_STEP_CTRL_RESULT n p]

theorem Dev.get_cancelStep (d : Dev) {n p : Nat} {f : Fld} (h : f.key ∉ (stepFields n p).map Fld.key) :
    (d.cancelStep n p).get f = d.get f := by
  have apart := keys_ne_of h
  have arm := apart (K.PLL_STEP_CTRL_ARM n p) (by simp [stepFields])
  have state := apart (K.PLL_STEP_CTRL_STATE n p) (by simp [stepFields])
  have result := apart (K.PLL_STEP_CTRL_RESULT n p) (by simp [stepFields])
  simp only [Dev.cancelStep]
  split
  · exact (Dev.get_set_ne _ _ result).trans ((Dev.get_set_ne _ _ state).trans (Dev.get_put_ne _ _ arm))
  · rfl

theorem Dev.cores_cancelStep (d : Dev) (n p : Nat) : (d.cancelStep n p).cores = d.cores := by
  simp only [Dev.cancelStep]
  split <;> rfl

theorem Dev.time_cancelStep (d : Dev) (n p : Nat) : (d.cancelStep n p).time = d.time := by
  simp only [Dev.cancelStep]
  split <;> rfl

/-! ## The schedule tables at a reload of time (R115) -/

/-- One entry at a reload: CANCELLED if it is ARMED. -/
def Dev.reloadEntry (d : Dev) (t e : Nat) : Dev :=
  if d.schedState t e = seARMED then d.schedEnd t e seCANCELLED srTIME_RELOAD else d

theorem Dev.reloadEntry_stopUnit (d : Dev) (t e : Nat) : StopUnit d (d.reloadEntry t e) := by
  unfold Dev.reloadEntry
  split
  · exact d.schedEnd_stopUnit _ _ _ _
  · rfl

/-- The entries of the tables at a reload, in order. -/
def Dev.reloadEntries (d : Dev) : Dev := d.each (List.range 6) fun d t => d.each (List.range 256) fun d e => d.reloadEntry t e

/-- The record of each table present follows its entries. -/
theorem Dev.reloadCancel_records (d : Dev) : ∃ l : List (Nat × Nat), d.reloadCancel =
    d.reloadEntries.each l fun d p =>
      if d.tblPresent p.1 then d.logB 0x123 blkTIM (2 ^ 8 * tblDie p.1 + 2 ^ 16 * p.2) else d :=
  ⟨_, rfl⟩

/-- A mark leaves STATE of any entry, or gives it the mark's. -/
theorem Dev.schedMark_state (d : Dev) (t e t' e' st res : Nat) :
    Takes (K.SCHED_STATE t e) (st % 8) d (d.schedMark t' e' st res) :=
  (d.set_takes fun _ => rfl).trans (Dev.set_takes _ fun same => by simp only [K.SCHED_STATE, K.SCHED_RESULT] at same; omega)

theorem Dev.schedMark_result (d : Dev) (t e t' e' st res : Nat) :
    Takes (K.SCHED_RESULT t e) (res % 8) d (d.schedMark t' e' st res) :=
  (Dev.set_takes d fun same => by simp only [K.SCHED_STATE, K.SCHED_RESULT] at same; omega).trans (Dev.set_takes _ fun _ => rfl)

/-- Whatever relation the marks of an entry's end keep, the end keeps after its own mark. -/
theorem Dev.schedEnd_rel {R : Dev → Dev → Prop} (refl : ∀ d, R d d) (trans : ∀ {a b c}, R a b → R b c → R a c)
    {st res : Nat} (mark : ∀ (d : Dev) (t e : Nat), R d (d.schedMark t e st res)) (sched : ∀ (d : Dev) u, R d { d with sched := u })
    (d : Dev) (t e : Nat) : R (d.schedMark t e st res) (d.schedEnd t e st res) := by
  have loop := Dev.each_rel refl trans (f := fun d (p : Nat × Nat) => d.schedMark p.1 p.2 st res) (d.copiesOf e)
    (fun d p _ => mark d p.1 p.2) (d.schedMark t e st res)
  simp only [Dev.schedEnd]
  split
  · exact trans loop (sched _ _)
  · exact refl _

/-- An entry that ends has its state and its result. -/
theorem Dev.state_schedEnd (d : Dev) (t e st res : Nat) : (d.schedEnd t e st res).schedState t e = st % 8 := by
  have own : (d.schedMark t e st res).get (K.SCHED_STATE t e) = st % 8 :=
    (Dev.get_set_ne _ _ (by simp [K.SCHED_STATE, K.SCHED_RESULT])).trans (Dev.get_set_same _ _ _)
  exact Takes.eq (Dev.schedEnd_rel (Takes.refl _ _) Takes.trans (fun d _ _ => d.schedMark_state _ _ _ _ _ _)
    (fun _ _ => .inl rfl) d t e) own

theorem Dev.result_schedEnd (d : Dev) (t e st res : Nat) : (d.schedEnd t e st res).get (K.SCHED_RESULT t e) = res % 8 := by
  have own : (d.schedMark t e st res).get (K.SCHED_RESULT t e) = res % 8 := Dev.get_set_same _ _ _
  exact Takes.eq (Dev.schedEnd_rel (Takes.refl _ _) Takes.trans (fun d _ _ => d.schedMark_result _ _ _ _ _ _)
    (fun _ _ => .inl rfl) d t e) own

/-- An entry's CANCELLED leaves STATE of any entry, or sets it to CANCELLED. -/
theorem Dev.schedEnd_takes (d : Dev) (t e t' e' res : Nat) :
    Takes (K.SCHED_STATE t e) 4 d (d.schedEnd t' e' seCANCELLED res) :=
  (d.schedMark_state t e t' e' seCANCELLED res).trans (Dev.schedEnd_rel (Takes.refl _ _) Takes.trans
    (fun d _ _ => d.schedMark_state t e _ _ seCANCELLED res) (fun _ _ => .inl rfl) d t' e')

theorem Dev.cancelled_schedEnd (d : Dev) (t e res : Nat) : (d.schedEnd t e seCANCELLED res).schedState t e = 4 :=
  d.state_schedEnd t e _ res

theorem Dev.reloadEntry_takes (d : Dev) (t e t' e' : Nat) : Takes (K.SCHED_STATE t e) 4 d (d.reloadEntry t' e') := by
  unfold Dev.reloadEntry
  split
  · exact d.schedEnd_takes _ _ _ _ _
  · exact Takes.refl _ _ d

/-- An entry that is ARMED, or already CANCELLED, is CANCELLED after its turn. -/
theorem Dev.reloadEntry_cancels {d : Dev} {t e : Nat} (h : d.schedState t e = 1 ∨ d.schedState t e = 4) :
    (d.reloadEntry t e).schedState t e = 4 := by
  unfold Dev.reloadEntry
  rcases h with armed | cancelled
  · rw [if_pos (show d.schedState t e = seARMED from armed)]; exact d.cancelled_schedEnd _ _ _
  · rw [if_neg (by rw [cancelled]; decide)]; exact cancelled

theorem Dev.reloadEntries_cancels {d : Dev} {t e : Nat} (ht : t < 6) (he : e < 256) (armed : d.schedState t e = 1) :
    d.reloadEntries.schedState t e = 4 := by
  let R := Takes (K.SCHED_STATE t e) 4
  have refl : ∀ d, R d d := Takes.refl _ _
  have row (d : Dev) (t' : Nat) : R d (d.each (List.range 256) fun d e => d.reloadEntry t' e) :=
    Dev.each_rel refl Takes.trans _ (fun d _ _ => d.reloadEntry_takes _ _ _ _) d
  obtain ⟨x, before, after⟩ := Dev.each_pass refl Takes.trans (List.mem_range.mpr ht) List.nodup_range
    (fun d t' _ _ => row d t') d
  obtain ⟨y, before', after'⟩ := Dev.each_pass refl Takes.trans (List.mem_range.mpr he) List.nodup_range
    (f := fun d e => d.reloadEntry t e) (fun d e' _ _ => d.reloadEntry_takes t e t e') x
  have turn : y.schedState t e = 1 ∨ y.schedState t e = 4 := (before.trans before').imp_left fun h => h.trans armed
  exact after.eq (after'.eq (Dev.reloadEntry_cancels turn))

/-- What a reload of the schedule tables leaves of a field that is neither a mark of an entry nor the loss counter. -/
theorem Dev.get_reloadCancel (d : Dev) {f : Fld} (mark : ¬MarkKey f.key) (lost : f.key ∉ lostB.map Fld.key) :
    d.reloadCancel.get f = d.get f := by
  have entry (d : Dev) (t e : Nat) : (d.reloadEntry t e).get f = d.get f := by
    unfold Dev.reloadEntry
    split
    · exact d.get_schedEnd mark _ _ _ _
    · rfl
  have entries : d.reloadEntries.get f = d.get f :=
    Dev.each_keeps (fun d => d.get f) _ _ _ fun d t => Dev.each_keeps (fun d => d.get f) _ _ _ fun d e => entry d t e
  obtain ⟨l, records⟩ := d.reloadCancel_records
  rw [records]
  refine (Dev.each_keeps (fun d => d.get f) _ _ _ fun d p => ?_).trans entries
  split
  · exact d.get_logB_ne _ _ _ _ (keys_ne_of lost)
  · rfl

theorem Dev.reloadCancel_stopUnit (d : Dev) : StopUnit d d.reloadCancel := by
  have entries : StopUnit d d.reloadEntries :=
    Dev.each_stopUnit (fun d t => Dev.each_stopUnit (fun d e => d.reloadEntry_stopUnit t e) _ d) _ d
  obtain ⟨l, records⟩ := d.reloadCancel_records
  rw [records]
  refine entries.trans (Dev.each_stopUnit (fun d p => ?_) _ _)
  split
  · exact d.logB_stopUnit _ _ _ _
  · rfl

theorem Dev.reloadCancel_cancels {d : Dev} {t e : Nat} (ht : t < 6) (he : e < 256) (armed : d.schedState t e = 1) :
    d.reloadCancel.schedState t e = 4 := by
  obtain ⟨l, records⟩ := d.reloadCancel_records
  have lost : (K.SCHED_STATE t e).key ∉ lostB.map Fld.key := by
    simp only [lostB, List.map_cons, List.map_nil, List.mem_cons, List.not_mem_nil, or_false, K.SCHED_STATE,
      K.EVL_B_LOST_LO_COUNT_LO, K.EVL_B_LOST_HI_COUNT_HI, K.EVL_B_LOST_HI_OVF]
    omega
  rw [records]
  refine (Dev.each_keeps (fun d => d.get (K.SCHED_STATE t e)) _ _ _ fun d p => ?_).trans
    (Dev.reloadEntries_cancels ht he armed)
  split
  · exact d.get_logB_ne _ _ _ _ (keys_ne_of lost)
  · rfl

/-! ## What an acquisition does beside loading time (R98, R106, R115, R173, R452) -/

/-- The cores with their waits ended. -/
def Dev.coresAcquired (d : Dev) : Dev := { d with cores := d.cores.map fun (e : Nat × Core) => (e.1, e.2.acquired) }

theorem tblFind_map_acquired (t : Tbl Core) (y : Nat) :
    tblFind (t.map fun (e : Nat × Core) => (e.1, e.2.acquired)) y = (tblFind t y).map Core.acquired := by
  induction t with
  | nil => rfl
  | cons p t ih =>
    obtain ⟨j, c⟩ := p
    simp only [List.map_cons, tblFind]
    split
    · rfl
    · exact ih

theorem Dev.core_coresAcquired (d : Dev) (y : Nat) : d.coresAcquired.core y = (d.core y).acquired := by
  simp only [Dev.core, Dev.coresAcquired, tblGet, tblFind_map_acquired]
  cases tblFind d.cores y <;> rfl

/-- The steps of every PLL cancelled. -/
def Dev.stepsCancelled (d : Dev) : Dev := d.each (List.range 4) fun d n => (d.cancelStep n 0).cancelStep n 1

theorem Dev.get_stepsCancelled (d : Dev) {f : Fld} (h : f.key < (K.PLL_STEP_CTRL_ARM 0 0).key) :
    d.stepsCancelled.get f = d.get f := by
  simp only [K.PLL_STEP_CTRL_ARM] at h
  refine Dev.each_keeps (fun d => d.get f) _ _ _ fun d n => ?_
  refine (Dev.get_cancelStep _ ?_).trans (Dev.get_cancelStep _ ?_) <;>
  · simp only [stepFields, List.map_cons, List.map_nil, List.mem_cons, List.not_mem_nil, or_false, K.PLL_STEP_CTRL_ARM,
      K.PLL_STEP_CTRL_STATE, K.PLL_STEP_CTRL_RESULT]
    omega

theorem Dev.cores_stepsCancelled (d : Dev) : d.stepsCancelled.cores = d.cores :=
  Dev.each_keeps (fun d : Dev => d.cores) _ _ _ fun _ _ => (Dev.cores_cancelStep _ _ _).trans (Dev.cores_cancelStep _ _ _)

theorem Dev.time_stepsCancelled (d : Dev) : d.stepsCancelled.time = d.time :=
  Dev.each_keeps (fun d : Dev => d.time) _ _ _ fun _ _ => (Dev.time_cancelStep _ _ _).trans (Dev.time_cancelStep _ _ _)

/-- The last part of a reload: no PLL has made a step in this time, and no time-of-day value is staged. -/
def Dev.clocksFresh (d : Dev) : Dev := { d with clk := { d.clk with lastStep := [] } }.put K.TIM_STATUS_SET_PENDING false

theorem Dev.get_clocksFresh (d : Dev) {f : Fld} (h : f.key ≠ K.TIM_STATUS_SET_PENDING.key) : d.clocksFresh.get f = d.get f :=
  Dev.get_put_ne _ _ h

theorem Dev.time_clocksFresh (d : Dev) : d.clocksFresh.time = d.time := rfl

theorem Dev.cores_clocksFresh (d : Dev) : d.clocksFresh.cores = d.cores := rfl

theorem Dev.get_coresAcquired (d : Dev) (f : Fld) : d.coresAcquired.get f = d.get f := rfl

theorem Dev.time_coresAcquired (d : Dev) : d.coresAcquired.time = d.time := rfl

theorem Dev.timeReloaded_eq (d : Dev) : d.timeReloaded = d.reloadCancel.coresAcquired.stepsCancelled.clocksFresh := by
  simp only [Dev.timeReloaded, Dev.clocksFresh, Dev.stepsCancelled, Dev.coresAcquired]

/-- A field of the hub that is neither a mark of an entry nor the loss counter, nor SET_PENDING, is kept. -/
theorem Dev.get_timeReloaded (d : Dev) {f : Fld} (mark : ¬MarkKey f.key) (lost : f.key ∉ lostB.map Fld.key)
    (hub : f.key < (K.PLL_STEP_CTRL_ARM 0 0).key) (pending : f.key ≠ K.TIM_STATUS_SET_PENDING.key) :
    d.timeReloaded.get f = d.get f := by
  rw [d.timeReloaded_eq, Dev.get_clocksFresh _ pending, Dev.get_stepsCancelled _ hub, Dev.get_coresAcquired,
    d.get_reloadCancel mark lost]

theorem Dev.time_timeReloaded (d : Dev) : d.timeReloaded.time = d.time := by
  rw [d.timeReloaded_eq, Dev.time_clocksFresh, Dev.time_stepsCancelled, Dev.time_coresAcquired,
    d.reloadCancel_stopUnit.time]

theorem Dev.core_timeReloaded (d : Dev) (y : Nat) : d.timeReloaded.core y = (d.core y).acquired := by
  have cores : d.timeReloaded.cores = d.reloadCancel.coresAcquired.cores := by
    rw [d.timeReloaded_eq, Dev.cores_clocksFresh, Dev.cores_stepsCancelled]
  rw [← d.reloadCancel_stopUnit.core y, ← Dev.core_coresAcquired, Dev.core, cores, Dev.core]

theorem Dev.timeReloaded_cancels {d : Dev} {t e : Nat} (ht : t < 6) (he : e < 256) (armed : d.schedState t e = 1) :
    d.timeReloaded.schedState t e = 4 := by
  have pending : (K.SCHED_STATE t e).key ≠ K.TIM_STATUS_SET_PENDING.key := by
    simp only [K.SCHED_STATE, K.TIM_STATUS_SET_PENDING]; omega
  have hub : (K.SCHED_STATE t e).key < (K.PLL_STEP_CTRL_ARM 0 0).key := by
    simp only [K.SCHED_STATE, K.PLL_STEP_CTRL_ARM]; omega
  rw [d.timeReloaded_eq, Dev.schedState, Dev.get_clocksFresh _ pending, Dev.get_stepsCancelled _ hub,
    Dev.get_coresAcquired]
  exact Dev.reloadCancel_cancels ht he armed

/-- A wait for a target ends with all ones (R173). -/
theorem Core.acquired_waitT {c : Core} {t rd len : Nat} (wait : c.ctl = .waitT t rd len) :
    WaitEnded c c.acquired rd len (BitVec.allOnes 64) := by
  rw [Core.acquired, wait]
  exact c.endWait_ended rd len _

end Sys2Proof.Machine
end

section
open Sys2Proof Sys2Proof.Machine

namespace Sys2Proof.Slice0

/-! ## ACQUISITION_COMPLETE (R97 to R99) -/

/-- The time unit's state with TTI and the time of day loaded: from 0 with REFCLK100, else as the link carries them. -/
def timeLoaded (x : TimeU) (tti sec tick : Nat) : TimeU :=
  { x with
    tti := if x.acqSrc != 0 then tti else 0
    sec := if x.acqSrc != 0 then sec else 0
    tick := if x.acqSrc != 0 then tick % 800000000 else 0
    acqPending := false, osc := false, markDue := false, markTick := false, linkMark := none }

/-- The device with time loaded, before the reload of what depends on time. -/
def acquiredDev (d : Dev) (tti sec tick : Nat) : Dev :=
  let x := ((d.modTime fun t => timeLoaded t tti sec tick).put K.TIM_STATUS_LOCKED true).put K.TIM_STATUS_TIME_UNSURE false
  let x := { x.put K.TIM_STATUS_HOLDOVER false with cas := { x.cas with deadline := none } }
  let x := x.set K.TIM_STATUS_SRC_ACTIVE d.time.acqSrc
  (x.set K.CLK_STATUS_REF_SRC (d.time.acqSrc + 1)).put K.CLK_STATUS_REF_OK true

section

variable (d : Dev) (tti sec tick : Nat)

theorem acquiredDev_shows (small : d.time.acqSrc ≤ 2) :
    let x := acquiredDev d tti sec tick
    x.get K.TIM_STATUS_LOCKED = 1 ∧ x.get K.TIM_STATUS_TIME_UNSURE = 0 ∧ x.get K.TIM_STATUS_HOLDOVER = 0 ∧
    x.get K.TIM_STATUS_SRC_ACTIVE = d.time.acqSrc ∧ x.get K.CLK_STATUS_REF_SRC = d.time.acqSrc + 1 := by
  have clock {f : Fld} (x : Dev) (ok : f.key ≠ K.CLK_STATUS_REF_OK.key) (src : f.key ≠ K.CLK_STATUS_REF_SRC.key) :
      ((x.set K.CLK_STATUS_REF_SRC (d.time.acqSrc + 1)).put K.CLK_STATUS_REF_OK true).get f = x.get f :=
    (Dev.get_put_ne _ _ ok).trans (Dev.get_set_ne _ _ src)
  refine ⟨(clock _ (by decide) (by decide)).trans ?_, (clock _ (by decide) (by decide)).trans ?_,
    (clock _ (by decide) (by decide)).trans ?_, (clock _ (by decide) (by decide)).trans ?_, ?_⟩
  · exact (Dev.get_set_ne _ _ (by decide)).trans ((Dev.get_put_ne _ _ (by decide)).trans
      ((Dev.get_put_ne _ _ (by decide)).trans (Dev.get_put_same _ _ true (by decide))))
  · exact (Dev.get_set_ne _ _ (by decide)).trans ((Dev.get_put_ne _ _ (by decide)).trans
      (Dev.get_put_same _ _ false (by decide)))
  · exact (Dev.get_set_ne _ _ (by decide)).trans (Dev.get_put_same _ _ false (by decide))
  · exact Dev.get_set_lt _ _ (show d.time.acqSrc < 2 ^ 2 by omega)
  · exact (Dev.get_put_ne _ _ (by decide)).trans (Dev.get_set_lt _ _ (show d.time.acqSrc + 1 < 2 ^ 2 by omega))

theorem acquiredDev_time : (acquiredDev d tti sec tick).time = timeLoaded d.time tti sec tick := rfl

theorem acquiredDev_core (y : Nat) : (acquiredDev d tti sec tick).core y = d.core y := rfl

theorem acquiredDev_memPart : (acquiredDev d tti sec tick).memPart = d.memPart := rfl

theorem acquiredDev_schedState (t e : Nat) : (acquiredDev d tti sec tick).schedState t e = d.schedState t e := by
  have apart (g : Fld) (h : g.key % 128 ≠ 88) : (K.SCHED_STATE t e).key ≠ g.key := by simp only [K.SCHED_STATE]; omega
  refine (Dev.get_put_ne _ _ (apart _ (by decide))).trans ((Dev.get_set_ne _ _ (apart _ (by decide))).trans
    ((Dev.get_set_ne _ _ (apart _ (by decide))).trans ((Dev.get_put_ne _ _ (apart _ (by decide))).trans
      ((Dev.get_put_ne _ _ (apart _ (by decide))).trans (Dev.get_put_ne _ _ (apart _ (by decide))))))) 

end

theorem acquisition_loads (tti : BitVec 64) (sec : BitVec 40) (tick : BitVec 30) (s : State)
    (pending : s.dev.time.acqPending = true) (can : s.dev.canAcquire s.dev.time.acqSrc = true)
    (small : s.dev.time.acqSrc ≤ 2) : Gives (.acquisitionComplete tti sec tick) s fun d =>
      d.time.tti = (if s.dev.time.acqSrc = 0 then 0 else tti.toNat) ∧
      d.time.sec = (if s.dev.time.acqSrc = 0 then 0 else sec.toNat) ∧
      d.time.tick = (if s.dev.time.acqSrc = 0 then 0 else tick.toNat % 800000000) ∧ d.time.acqPending = false ∧
      d.get K.TIM_STATUS_LOCKED = 1 ∧ d.get K.TIM_STATUS_TIME_UNSURE = 0 ∧ d.get K.TIM_STATUS_HOLDOVER = 0 ∧
      d.get K.TIM_STATUS_SRC_ACTIVE = s.dev.time.acqSrc ∧ d.get K.CLK_STATUS_REF_SRC = s.dev.time.acqSrc + 1 ∧
      d.get K.TIM_STATUS_SET_PENDING = 0 ∧
      (∀ t e, t < 6 → e < 256 → s.dev.schedState t e = 1 → d.schedState t e = 4) ∧
      (∀ y t rd len, (s.dev.core y).ctl = .waitT t rd len → (d.core y).ctl = .run ∧
        (rd ≠ 0 → (d.core y).gGet rd = BitVec.allOnes 64)) ∧ BytesKept s.dev d := by
  refine gives_of_effect (d := (acquiredDev s.dev tti.toNat sec.toNat tick.toNat).timeReloaded) rfl ?_ ?_
  · rw [if_neg (by simp [pending, can])]; rfl
  · have shows := acquiredDev_shows s.dev tti.toNat sec.toNat tick.toNat small
    have state := acquiredDev_schedState s.dev tti.toNat sec.toNat tick.toNat
    have core := acquiredDev_core s.dev tti.toNat sec.toNat tick.toNat
    have loaded := acquiredDev_time s.dev tti.toNat sec.toNat tick.toNat
    have mem := acquiredDev_memPart s.dev tti.toNat sec.toNat tick.toNat
    generalize acquiredDev s.dev tti.toNat sec.toNat tick.toNat = x at *
    obtain ⟨locked, sure, held, src, ref⟩ := shows
    have kept {f : Fld} (mark : ¬MarkKey f.key) (lost : f.key ∉ lostB.map Fld.key)
        (hub : f.key < (K.PLL_STEP_CTRL_ARM 0 0).key) (p : f.key ≠ K.TIM_STATUS_SET_PENDING.key) :=
      x.get_timeReloaded mark lost hub p
    have time := x.time_timeReloaded.trans loaded
    refine ⟨?_, ?_, ?_, ?_, ?_, ?_, ?_, ?_, ?_, ?_, fun t e ht he armed => ?_, fun y t rd len wait => ?_, fun a => ?_⟩
    · rw [time]; simp [timeLoaded]
    · rw [time]; simp [timeLoaded]
    · rw [time]; simp [timeLoaded]
    · rw [time]; rfl
    · exact (kept (by unfold MarkKey; decide) (by decide) (by decide) (by decide)).trans locked
    · exact (kept (by unfold MarkKey; decide) (by decide) (by decide) (by decide)).trans sure
    · exact (kept (by unfold MarkKey; decide) (by decide) (by decide) (by decide)).trans held
    · exact (kept (by unfold MarkKey; decide) (by decide) (by decide) (by decide)).trans src
    · exact (kept (by unfold MarkKey; decide) (by decide) (by decide) (by decide)).trans ref
    · exact Dev.get_put_same _ _ false (by decide)
    · exact Dev.timeReloaded_cancels ht he ((state t e).trans armed)
    · obtain ⟨run, -, regs⟩ := Core.acquired_waitT ((congrArg Core.ctl (core y)).trans wait)
      rw [x.core_timeReloaded]
      exact ⟨run, fun nonzero => (regs rd).trans (if_pos ⟨rfl, nonzero⟩)⟩
    · exact Dev.memGet_congr (x.timeReloaded_memPart.trans mem) a

end Sys2Proof.Slice0
end

section
/-! CERTIFICATE. Tester time: the loss of the reference in use (R443, R444, R454). -/

open Sys2Proof Sys2Proof.Slice0

namespace Sys2Proof.Machine

/-! ## A lease and a sweep given up (R247, R534) -/

/-- HOLDER, QUEUED and ARG of a lease. -/
def leaseFields (u c : Nat) : List Fld := [K.BST_LEASE_HOLDER u c, K.BST_LEASE_QUEUED u c, K.BST_LEASE_ARG u c]

theorem Dev.get_setLeaseQueue (d : Dev) {u c : Nat} (l : List (Nat × Nat)) {f : Fld}
    (h : f.key ≠ (K.BST_LEASE_QUEUED u c).key) : (d.setLeaseQueue u c l).get f = d.get f := Dev.get_set_ne d _ h

theorem Dev.get_leaseDrop (d : Dev) {u c : Nat} (holder : Nat) {f : Fld} (h : f.key ∉ (leaseFields u c).map Fld.key) :
    (d.leaseDrop u c holder).get f = d.get f := by
  have apart := keys_ne_of h
  have holds := apart (K.BST_LEASE_HOLDER u c) (by simp [leaseFields])
  have queued := apart (K.BST_LEASE_QUEUED u c) (by simp [leaseFields])
  have arg := apart (K.BST_LEASE_ARG u c) (by simp [leaseFields])
  have free (d : Dev) : (d.leaseFree u c).get f = d.get f := by
    unfold Dev.leaseFree
    split
    · exact (Dev.get_set_ne _ _ arg).trans (Dev.get_set_ne _ _ holds)
    · exact (Dev.get_setLeaseQueue _ _ queued).trans ((Dev.get_set_ne _ _ arg).trans (Dev.get_set_ne _ _ holds))
  have withdrawn : (d.leaseWithdraw u c holder).get f = d.get f := d.get_setLeaseQueue _ queued
  unfold Dev.leaseDrop Dev.leaseRelease
  split
  · exact (free _).trans withdrawn
  · exact withdrawn

/-- The fields that a sweep's end on die `n` writes. -/
def sweepFields (n : Nat) : List Fld := [K.TGN_DSK_STATUS_ABANDON n, K.TGN_STATUS_DSK_ACTIVE n] ++ leaseFields n lcTGRP

theorem Dev.get_sweepAbandon (d : Dev) {n : Nat} {f : Fld} (h : f.key ∉ (sweepFields n).map Fld.key) :
    (d.sweepAbandon n).get f = d.get f := by
  have apart := keys_ne_of h
  have count := apart (K.TGN_DSK_STATUS_ABANDON n) (by simp [sweepFields])
  have active := apart (K.TGN_STATUS_DSK_ACTIVE n) (by simp [sweepFields])
  have lease : f.key ∉ (leaseFields n lcTGRP).map Fld.key := fun e => h (by
    rw [sweepFields, List.map_append]; exact List.mem_append_right _ e)
  have ends (d : Dev) : (d.sweepEnds n).get f = d.get f := by
    unfold Dev.sweepEnds
    split
    · rfl
    · exact (Dev.get_leaseDrop _ _ lease).trans (Dev.get_put_ne _ _ active)
  unfold Dev.sweepAbandon
  split
  · exact (ends _).trans (Dev.get_bump_ne _ _ count)
  · rfl

/-! ## The PLLs of a die lost (R454) -/

/-- The keys that the loss of die `n`'s PLLs may write, LOCKED apart. -/
def LossKey (n k : Nat) : Prop :=
  k ∈ ([K.TGN_STATUS_BYPASS n, K.PLL_STATUS_LOST n] ++ sweepFields n ++ stepFields n 0 ++ stepFields n 1).map Fld.key ∨
    ∃ s, s < 64 ∧ StopKey s k

theorem Dev.get_logAOn (d : Dev) (die ty unit data : Nat) (site : Option Nat) (f : Fld) :
    (d.logAOn die ty unit data site).get f = d.get f := rfl

/-- One PLL loses its lock. -/
def Dev.pllUnlocks (d : Dev) (n p : Nat) : Dev := ((d.put (lockedFld n p) false).cancelStep n p).logAOn n 0x009 cblkPLL p

/-- What follows the loss of a PLL on its die: the bypass clock, LOST, the sweep abandoned and the sites' stops. -/
def Dev.dieUnclocked (d : Dev) (n : Nat) : Dev :=
  let d := (d.put (K.TGN_STATUS_BYPASS n) true).put (K.PLL_STATUS_LOST n) true
  (d.sweepAbandon n).stopReqs (d.sitesOnDie n stActive) 0x0F

theorem Dev.pllsLost_eq (d : Dev) (n : Nat) (l : List Nat) : d.pllsLost n l =
    if l.filter (fun p => d.on (lockedFld n p)) = [] then d
    else (d.each (l.filter fun p => d.on (lockedFld n p)) fun d p => d.pllUnlocks n p).dieUnclocked n := rfl

section

variable {n : Nat} {f : Fld} (h : ¬LossKey n f.key) (d : Dev)
include h

theorem Dev.get_dieUnclocked : (d.dieUnclocked n).get f = d.get f := by
  simp only [LossKey, not_or, not_exists, not_and] at h
  obtain ⟨own, stops⟩ := h
  have apart := keys_ne_of own
  have bypass := apart (K.TGN_STATUS_BYPASS n) (by simp)
  have lost := apart (K.PLL_STATUS_LOST n) (by simp)
  have sweep : f.key ∉ (sweepFields n).map Fld.key := fun e =>
    own (by simp only [List.map_append, List.mem_append, e, true_or, or_true])
  unfold Dev.dieUnclocked
  exact (Dev.get_stopReqs _ (fun s hs => stops s (List.mem_range.mp (List.mem_of_mem_filter hs))) _).trans
    ((Dev.get_sweepAbandon _ sweep).trans ((Dev.get_put_ne _ _ lost).trans (Dev.get_put_ne _ _ bypass)))

theorem Dev.get_pllUnlocks {p : Nat} (hp : p < 2) : (d.pllUnlocks n p).get f = (d.put (lockedFld n p) false).get f := by
  simp only [LossKey, not_or] at h
  obtain ⟨own, -⟩ := h
  have step : f.key ∉ (stepFields n p).map Fld.key := fun e => own (by
    have cases : p = 0 ∨ p = 1 := by omega
    rcases cases with rfl | rfl <;> simp only [List.map_append, List.mem_append, e, true_or, or_true])
  exact (Dev.get_logAOn _ _ _ _ _ _ f).trans (Dev.get_cancelStep _ step)

/-- Whatever relation holds where the field keeps its value and where a lock bit clears holds over the loss. -/
theorem Dev.pllsLost_rel {R : Dev → Dev → Prop} (refl : ∀ d, R d d) (trans : ∀ {a b c}, R a b → R b c → R a c)
    (kept : ∀ d d', d'.get f = d.get f → R d d')
    (unlock : ∀ d d' p, p < 2 → d'.get f = (d.put (lockedFld n p) false).get f → R d d') {l : List Nat}
    (pair : ∀ p ∈ l, p < 2) : R d (d.pllsLost n l) := by
  have loop := Dev.each_rel refl trans (f := fun d p => d.pllUnlocks n p) (l.filter fun p => d.on (lockedFld n p))
    (fun d p hp => unlock d _ p (pair p (List.mem_of_mem_filter hp))
      (d.get_pllUnlocks h (pair p (List.mem_of_mem_filter hp)))) d
  rw [d.pllsLost_eq]
  split
  · exact refl d
  · exact trans loop (kept _ _ (Dev.get_dieUnclocked h _))

/-- A field that is not LOCKED either is kept. -/
theorem Dev.get_pllsLost {l : List Nat} (pair : ∀ p ∈ l, p < 2) (other : ∀ p, p < 2 → f.key ≠ (lockedFld n p).key) :
    (d.pllsLost n l).get f = d.get f :=
  Dev.pllsLost_rel h d (R := fun d d' => d'.get f = d.get f) (fun _ => rfl) (fun h k => k.trans h) (fun _ _ e => e)
    (fun d _ p hp e => e.trans (Dev.get_put_ne d false (other p hp))) pair

/-- A field is kept or cleared. -/
theorem Dev.pllsLost_takes {l : List Nat} (pair : ∀ p ∈ l, p < 2) : Takes f 0 d (d.pllsLost n l) :=
  Dev.pllsLost_rel h d (Takes.refl f 0) Takes.trans (fun _ _ e => .inl e)
    (fun d _ _ _ e => (Dev.set_takes d fun _ => Nat.zero_mod _).imp e.trans e.trans) pair

end

/-- LOCKED is none of the other fields that a loss writes, on its own die or on another. -/
theorem lossKey_locked {n n' p : Nat} (hn : n < 4) : ¬LossKey n (lockedFld n' p).key := by
  have key : (lockedFld n' p).key = 36175872 + 8388608 * n' ∨ (lockedFld n' p).key = 36175873 + 8388608 * n' := by
    unfold lockedFld
    split <;> simp [K.PLL_STATUS_LOCKED_A, K.PLL_STATUS_LOCKED_B]
  generalize (lockedFld n' p).key = k at key
  have stops (s : Nat) (hs : s < 64) : ¬StopKey s k := by
    simp only [StopKey, MarkKey, stopFields, lostB, List.map_cons, List.map_nil, List.mem_cons, List.not_mem_nil, or_false,
      K.SITE_CAUSE, K.SITE_STOP_TTI_LO, K.SITE_STOP_TTI_HI, K.SITE_STOPS, K.EVL_B_LOST_LO_COUNT_LO,
      K.EVL_B_LOST_HI_COUNT_HI, K.EVL_B_LOST_HI_OVF]
    omega
  simp only [LossKey, not_or, not_exists, not_and]
  refine ⟨?_, stops⟩
  simp only [sweepFields, leaseFields, stepFields, lcTGRP, List.map_append, List.map_cons, List.map_nil, List.mem_append,
    List.mem_cons, List.not_mem_nil, or_false, K.TGN_STATUS_BYPASS, K.PLL_STATUS_LOST, K.TGN_DSK_STATUS_ABANDON,
    K.TGN_STATUS_DSK_ACTIVE, K.BST_LEASE_HOLDER, K.BST_LEASE_QUEUED, K.BST_LEASE_ARG, K.PLL_STEP_CTRL_ARM,
    K.PLL_STEP_CTRL_STATE, K.PLL_STEP_CTRL_RESULT]
  omega

/-- A field of blocks TIM and CLK but the entries' marks is kept by the loss of any die's PLLs. -/
theorem Dev.pllsLost_clockStatus {f : Fld} (h : 2097152 ≤ f.key ∧ f.key < 2097280 ∨ 3670016 ≤ f.key ∧ f.key < 3670144)
    (mark : ¬MarkKey f.key) (d : Dev) {n : Nat} : (d.pllsLost n [0, 1]).get f = d.get f := by
  have stops (s : Nat) (hs : s < 64) : ¬StopKey s f.key := by
    simp only [StopKey, mark, false_or, stopFields, lostB, List.map_cons, List.map_nil, List.mem_cons, List.not_mem_nil, or_false,
      K.SITE_CAUSE, K.SITE_STOP_TTI_LO, K.SITE_STOP_TTI_HI, K.SITE_STOPS, K.EVL_B_LOST_LO_COUNT_LO,
      K.EVL_B_LOST_HI_COUNT_HI, K.EVL_B_LOST_HI_OVF]
    omega
  have out : ¬LossKey n f.key := by
    simp only [LossKey, not_or, not_exists, not_and]
    refine ⟨?_, stops⟩
    simp only [sweepFields, leaseFields, stepFields, lcTGRP, List.map_append, List.map_cons, List.map_nil, List.mem_append,
      List.mem_cons, List.not_mem_nil, or_false, K.TGN_STATUS_BYPASS, K.PLL_STATUS_LOST, K.TGN_DSK_STATUS_ABANDON,
      K.TGN_STATUS_DSK_ACTIVE, K.BST_LEASE_HOLDER, K.BST_LEASE_QUEUED, K.BST_LEASE_ARG, K.PLL_STEP_CTRL_ARM,
      K.PLL_STEP_CTRL_STATE, K.PLL_STEP_CTRL_RESULT]
    omega
  refine Dev.get_pllsLost out d (by simp) fun p _ => ?_
  unfold lockedFld
  split <;> simp only [K.PLL_STATUS_LOCKED_A, K.PLL_STATUS_LOCKED_B] <;> omega

/-- A die that loses both PLLs shows neither locked. -/
theorem Dev.pllsLost_unlocks (d : Dev) {n p : Nat} (hn : n < 4) (hp : p < 2) :
    (d.pllsLost n [0, 1]).get (lockedFld n p) = 0 := by
  have out : ¬LossKey n (lockedFld n p).key := lossKey_locked hn
  have wide : 0 < (lockedFld n p).width := by unfold lockedFld; split <;> exact Nat.one_pos
  have clear (x : Dev) : (x.pllUnlocks n p).get (lockedFld n p) = 0 :=
    (Dev.get_pllUnlocks out x hp).trans (Dev.get_put_same x _ false wide)
  have step (x : Dev) (q : Nat) (hq : q < 2) : Takes (lockedFld n p) 0 x (x.pllUnlocks n q) :=
    (Dev.set_takes x fun _ => Nat.zero_mod _).imp (Dev.get_pllUnlocks out x hq).trans (Dev.get_pllUnlocks out x hq).trans
  have pair : ∀ q ∈ [0, 1], q < 2 := by decide
  by_cases zero : d.get (lockedFld n p) = 0
  · exact (Dev.pllsLost_takes out d pair).eq zero
  · have mem : p ∈ [0, 1].filter fun q => d.on (lockedFld n q) := by
      refine List.mem_filter.mpr ⟨?_, by simpa [Dev.on] using zero⟩
      have cases : p = 0 ∨ p = 1 := by omega
      rcases cases with rfl | rfl <;> simp
    obtain ⟨x, -, after⟩ := Dev.each_pass (f := fun d q => d.pllUnlocks n q) (Takes.refl (lockedFld n p) 0) Takes.trans mem
      (List.Nodup.filter _ (by decide)) (fun x q hq _ => step x q (pair q (List.mem_of_mem_filter hq))) d
    rw [d.pllsLost_eq, if_neg (List.ne_nil_of_mem mem), Dev.get_dieUnclocked out]
    exact after.eq (clear x)

end Sys2Proof.Machine
end

section
open Sys2Proof Sys2Proof.Machine

namespace Sys2Proof.Slice0

/-! ## REF_LOST (R443, R444) -/

/-- The device as REFCLK100 is found lost. -/
def refGone (d : Dev) : Dev :=
  (d.modTime fun t => { t with present := clearBitAt t.present 0 }).put K.CLK_STATUS_REF_LOST true

/-- The device with OSC100 in place of REFCLK100 and its time unsure, before the PLLs lose lock. -/
def oscillatorTaken (d : Dev) : Dev :=
  let d := ((refGone d).set K.CLK_STATUS_REF_SRC 0).put K.CLK_STATUS_REF_OK false
  (((d.modTime fun t => { t with osc := true }).put K.TIM_STATUS_SRC_LOST true).unsure).timeLog 1

theorem get_refGone (d : Dev) {f : Fld} (h : f.key ≠ K.CLK_STATUS_REF_LOST.key) : (refGone d).get f = d.get f :=
  Dev.get_put_ne _ _ h

theorem oscillatorTaken_shows (d : Dev) :
    let x := oscillatorTaken d
    x.get K.CLK_STATUS_REF_LOST = 1 ∧ x.get K.CLK_STATUS_REF_SRC = 0 ∧ x.get K.CLK_STATUS_REF_OK = 0 ∧
      x.get K.TIM_STATUS_SRC_LOST = 1 ∧ x.get K.TIM_STATUS_TIME_UNSURE = 1 ∧ x.get K.TIM_STATUS_LOCKED = 0 := by
  have clock {f : Fld} (locked : f.key ≠ K.TIM_STATUS_LOCKED.key) (unsure : f.key ≠ K.TIM_STATUS_TIME_UNSURE.key)
      (lost : f.key ≠ K.TIM_STATUS_SRC_LOST.key) : (oscillatorTaken d).get f =
        (((refGone d).set K.CLK_STATUS_REF_SRC 0).put K.CLK_STATUS_REF_OK false).get f :=
    (Dev.get_put_ne _ _ locked).trans ((Dev.get_put_ne _ _ unsure).trans (Dev.get_put_ne _ _ lost))
  refine ⟨(clock (by decide) (by decide) (by decide)).trans ?_, (clock (by decide) (by decide) (by decide)).trans ?_,
    (clock (by decide) (by decide) (by decide)).trans (Dev.get_put_same _ _ false (by decide)), ?_, ?_,
    Dev.get_put_same _ _ false (by decide)⟩
  · exact (Dev.get_put_ne _ _ (by decide)).trans ((Dev.get_set_ne _ _ (by decide)).trans
      (Dev.get_put_same _ _ true (by decide)))
  · exact (Dev.get_put_ne _ _ (by decide)).trans (Dev.get_set_same _ _ _)
  · exact (Dev.get_put_ne _ _ (by decide)).trans ((Dev.get_put_ne _ _ (by decide)).trans
      (Dev.get_put_same _ _ true (by decide)))
  · exact (Dev.get_put_ne _ _ (by decide)).trans (Dev.get_put_same _ _ true (by decide))

/-- The loss of every die's PLLs. -/
def allPllsLost (d : Dev) : Dev := d.each (List.range 4) fun d n => d.pllsLost n [0, 1]

theorem refLost_eq {d : Dev} (present : bitAt d.time.present 0 = true) :
    d.refLost = if d.get K.CLK_STATUS_REF_SRC ≠ 1 then refGone d else allPllsLost (oscillatorTaken d) := by
  rw [Dev.refLost, present, ← get_refGone d (f := K.CLK_STATUS_REF_SRC) (by decide)]
  rfl

theorem get_allPllsLost {f : Fld} (h : 2097152 ≤ f.key ∧ f.key < 2097280 ∨ 3670016 ≤ f.key ∧ f.key < 3670144)
    (mark : ¬MarkKey f.key) (d : Dev) : (allPllsLost d).get f = d.get f :=
  Dev.each_keeps (fun d => d.get f) _ _ _ fun d _ => Dev.pllsLost_clockStatus h mark d

theorem allPllsLost_unlocks (d : Dev) {n p : Nat} (hn : n < 4) (hp : p < 2) : (allPllsLost d).get (lockedFld n p) = 0 := by
  obtain ⟨x, -, after⟩ := Dev.each_pass (f := fun d n => d.pllsLost n [0, 1]) (Takes.refl (lockedFld n p) 0) Takes.trans
    (List.mem_range.mpr hn) List.nodup_range
    (fun d b hb _ => Dev.pllsLost_takes (lossKey_locked (List.mem_range.mp hb)) d (by decide)) d
  exact after.eq (x.pllsLost_unlocks hn hp)

theorem refLost_inUse (s : State) (present : bitAt s.dev.time.present 0 = true) (used : s.dev.get K.CLK_STATUS_REF_SRC = 1) :
    GivesAs (3, 0x0F, 0) .refLost s fun d =>
      d.get K.CLK_STATUS_REF_LOST = 1 ∧ d.get K.CLK_STATUS_REF_SRC = 0 ∧ d.get K.CLK_STATUS_REF_OK = 0 ∧
      d.get K.TIM_STATUS_SRC_LOST = 1 ∧ d.get K.TIM_STATUS_TIME_UNSURE = 1 ∧ d.get K.TIM_STATUS_LOCKED = 0 ∧
      (∀ n p, n < 4 → p < 2 → d.get (lockedFld n p) = 0) ∧ BytesKept s.dev d := by
  have run : s.dev.refLost = allPllsLost (oscillatorTaken s.dev) := by
    rw [refLost_eq present, if_neg (by simp [used])]
  obtain ⟨lost, src, ok, noted, unsure, locked⟩ := oscillatorTaken_shows s.dev
  refine givesAs_of_doesAs rfl run ⟨?_, ?_, ?_, ?_, ?_, ?_, fun n p hn hp => allPllsLost_unlocks _ hn hp, fun a => ?_⟩
  · exact (get_allPllsLost (by decide) (by unfold MarkKey; decide) _).trans lost
  · exact (get_allPllsLost (by decide) (by unfold MarkKey; decide) _).trans src
  · exact (get_allPllsLost (by decide) (by unfold MarkKey; decide) _).trans ok
  · exact (get_allPllsLost (by decide) (by unfold MarkKey; decide) _).trans noted
  · exact (get_allPllsLost (by decide) (by unfold MarkKey; decide) _).trans unsure
  · exact (get_allPllsLost (by decide) (by unfold MarkKey; decide) _).trans locked
  · rw [← run]
    exact Dev.memGet_congr s.dev.refLost_memPart a

theorem refLost_unused (s : State) (present : bitAt s.dev.time.present 0 = true)
    (unused : s.dev.get K.CLK_STATUS_REF_SRC ≠ 1) : GivesAs (3, 0x0F, 0) .refLost s fun d =>
      d.get K.CLK_STATUS_REF_LOST = 1 ∧ FieldsKept s.dev d [K.CLK_STATUS_REF_LOST] ∧
      d = { s.dev with regs := d.regs, time := { s.dev.time with present := clearBitAt s.dev.time.present 0 } } :=
  givesAs_of_doesAs rfl ((refLost_eq present).trans (if_pos unused))
    ⟨Dev.get_put_same _ _ true (by decide), fun _ hf => get_refGone _ (hf _ (by simp)), rfl⟩

/-- Settles O24: an acquisition begins and completes, the reference is lost and found, and second marks and GO carry the
time of day. -/
theorem testerTime : Obligations.TesterTime := by
  intro m tti sec tick s
  refine ⟨fun hl => ⟨acquire_begins hl, acquire_refused hl⟩, acquisition_loads tti sec tick s,
    fun present => ⟨refLost_inUse s present, refLost_unused s present⟩, referenceBack_shows s,
    fun due range => ⟨secondMark_next due range, secondMark_staged due⟩, secondMark_idle, fun hl => ⟨fun src open' => ?_,
      go_refused hl⟩⟩
  obtain ⟨pending, late, early, time, kept, unit⟩ := goWrite_stages src open'
  exact go_given hl ⟨pending, late, early, time, kept, unit⟩

/-! ## Devices that the clauses speak of -/

/-- An acquisition from REFCLK100 is on its way, an entry of the hub table is ARMED and core 3 waits for a target. -/
def acquiring : State :=
  { State.outOfReset with dev := { (State.outOfReset.dev.set (K.SCHED_STATE 0 7) 1) with
      time := { State.outOfReset.dev.time with acqPending := true, acqSrc := 0, present := 1 }
      cores := [(3, { ctl := .waitT 500 4 8 })] } }

theorem acquiring_loads : Gives (.acquisitionComplete 77 5 9) acquiring fun d =>
    d.time.tti = 0 ∧ d.schedState 0 7 = 4 ∧ (d.core 3).ctl = .run ∧ (d.core 3).gGet 4 = BitVec.allOnes 64 := by
  obtain ⟨d, run, tti, -, -, -, -, -, -, -, -, -, cancels, ends, -⟩ :=
    acquisition_loads 77 5 9 acquiring (by decide) (by decide) (by decide)
  obtain ⟨ctl, value⟩ := ends 3 500 4 8 rfl
  exact ⟨d, run, tti, cancels 0 7 (by decide) (by decide) (by decide), ctl, value (by decide)⟩

/-- REFCLK100 is present and in use, and PLL A of die 1 is locked. -/
def referenceUsed : State :=
  { State.outOfReset with dev := { ((State.outOfReset.dev.set K.CLK_STATUS_REF_SRC 1).set (K.PLL_STATUS_LOCKED_A 1) 1) with
      time := { State.outOfReset.dev.time with present := 1 } } }

theorem referenceUsed_lost : GivesAs (3, 0x0F, 0) .refLost referenceUsed fun d =>
    d.get K.TIM_STATUS_TIME_UNSURE = 1 ∧ d.get (lockedFld 1 0) = 0 := by
  obtain ⟨d, run, -, -, -, -, unsure, -, unlocks, -⟩ := refLost_inUse referenceUsed (by decide) (by decide)
  exact ⟨d, run, unsure, unlocks 1 0 (by decide) (by decide)⟩

/-- A staged time of day waits for a second mark that is due. -/
def markDue : State :=
  { State.outOfReset with dev := { (State.outOfReset.dev.set K.TIM_STATUS_SET_PENDING 1) with
      time := { State.outOfReset.dev.time with markDue := true, staged := 1234 } } }

theorem markDue_takes : Gives .secondMark markDue fun d => d.time.sec = 1234 := by
  obtain ⟨d, run, sec, -⟩ := secondMark_staged (s := markDue) rfl (by decide) rfl
  exact ⟨d, run, sec⟩

end Sys2Proof.Slice0
end

section
/-! CERTIFICATE. Time on the String: TIME frames, holdover and its deadline (R122, R485, R486, R491, R494). -/

open Sys2Proof Sys2Proof.Machine Sys2Proof.Slice0

namespace Sys2Proof.Machine

/-! ## What the String's events change -/

/-- Nothing changes but register fields, the event log, the schedule tables, the site controllers, time and the String. -/
def StringUnit (d d' : Dev) : Prop :=
  d' = { d with regs := d'.regs, evl := d'.evl, sched := d'.sched, sites := d'.sites, cas := d'.cas, time := d'.time }

theorem StringUnit.trans {a b c : Dev} (h : StringUnit a b) (k : StringUnit b c) : StringUnit a c := by
  unfold StringUnit at *
  rw [k, h]

theorem StopUnit.string {d d' : Dev} (h : StopUnit d d') : StringUnit d d' := by
  unfold StopUnit at h
  unfold StringUnit
  rw [h]

/-- Cores and memory are kept. -/
def Still (d d' : Dev) : Prop := (∀ y, d'.core y = d.core y) ∧ BytesKept d d'

theorem StringUnit.still {d d' : Dev} (h : StringUnit d d') : Still d d' :=
  ⟨fun y => by rw [h]; rfl, fun a => by rw [h]; rfl⟩

/-- A field of the blocks TIM, CLK and CAS that no stop request writes: in the first nine bytes of its 64. -/
def StatusKey (k : Nat) : Prop := 2097152 ≤ k ∧ k < 3670144 ∧ k % 512 < 72

theorem StatusKey.stop {k : Nat} (h : StatusKey k) (s : Nat) : ¬StopKey s k := by
  simp only [StatusKey] at h
  simp only [StopKey, MarkKey, stopFields, lostB, List.map_cons, List.map_nil, List.mem_cons, List.not_mem_nil, or_false,
    K.SITE_CAUSE, K.SITE_STOP_TTI_LO, K.SITE_STOP_TTI_HI, K.SITE_STOPS, K.EVL_B_LOST_LO_COUNT_LO,
    K.EVL_B_LOST_HI_COUNT_HI, K.EVL_B_LOST_HI_OVF]
  omega

/-- A status field that is set leaves every site. -/
theorem Dev.set_siteKept (d : Dev) {f : Fld} (h : StatusKey f.key) (v i : Nat) : SiteKept i d (d.set f v) := by
  simp only [StatusKey] at h
  refine ⟨Dev.get_set_ne d v ?_, Dev.get_set_ne d v ?_, rfl, rfl⟩
  · simp only [K.SITE_SITE_STATE]; omega
  · simp only [K.SITE_CAUSE]; omega

/-! ## Stop requests to the sites in some states -/

/-- Stop requests to every site in one of the states of a list. -/
def Dev.stopsIn (d : Dev) (l : List Nat) (cause : Nat) : Dev := d.stopReqs (allSites.filter fun s => d.siteIn s l) cause

theorem Dev.stopsIn_stopUnit (d : Dev) (l : List Nat) (cause : Nat) : StopUnit d (d.stopsIn l cause) :=
  d.stopReqs_stopUnit _ cause

theorem Dev.get_stopsIn (d : Dev) (l : List Nat) (cause : Nat) {f : Fld} (h : StatusKey f.key) :
    (d.stopsIn l cause).get f = d.get f :=
  d.get_stopReqs (fun s _ => h.stop s) cause

/-- Stop requests of a cause to the sites in the states `l`: each Running one without a stop is sampled, each site in
another state is left alone. -/
def StopsGiven (l : List Nat) (cause : Nat) (d0 d : Dev) : Prop := ∀ i, i < 64 →
  (d0.siteState i ∈ l → d0.siteState i = 2 → d0.stopGiven i = false →
    d.get (K.SITE_CAUSE i) = cause ∧ (d.site i).req = some (cause, d0.clock)) ∧
  (¬d0.siteState i ∈ l → d.get (K.SITE_CAUSE i) = d0.get (K.SITE_CAUSE i) ∧ d.site i = d0.site i)

theorem Dev.stopsIn_given {d0 x : Dev} (kept : ∀ i, SiteKept i d0 x) (l : List Nat) {cause : Nat} (small : cause < 256) :
    StopsGiven l cause d0 (x.stopsIn l cause) := by
  intro i hi
  have listed : i ∈ allSites.filter (fun s => x.siteIn s l) ↔ d0.siteState i ∈ l := by
    simp only [List.mem_filter, allSites, List.mem_range, hi, true_and, Dev.siteIn, (kept i).state, List.contains_eq_mem,
      decide_eq_true_eq]
  refine ⟨fun mem running first => ?_, fun out => ?_⟩
  · obtain ⟨cause', req⟩ := Dev.stopReqs_sampled small (listed.mpr mem) (List.nodup_range.filter _)
      ((kept i).state.trans running) ((kept i).stopGiven.trans first)
    exact ⟨cause', (kept i).clock ▸ req⟩
  · have away := (kept i).trans (Dev.stopReqs_siteKept (fun h => out (listed.mp h)) x cause)
    exact ⟨away.cause, away.site⟩

/-! ## Injection (R545) -/

/-- Whether a slot matches a detector is told by block INJ alone. -/
theorem Dev.inject_none {d d' : Dev} {id : Nat} {p : Nat → Nat → Bool}
    (same : ∀ f : Fld, 6293504 ≤ f.key → d'.get f = d.get f)
    (none : d.inject id p = .none) : d'.inject id p = .none := by
  have slot : d'.injSlot id p = d.injSlot id p := by
    have state (i : Nat) := same (K.INJ_SLOT_CTRL_STATE i) (by simp only [K.INJ_SLOT_CTRL_STATE]; omega)
    have sel (i : Nat) := same (K.INJ_SEL_ID i) (by simp only [K.INJ_SEL_ID]; omega)
    have unit (i : Nat) := same (K.INJ_SEL_UNIT i) (by simp only [K.INJ_SEL_UNIT]; omega)
    have lo (i : Nat) := same (K.INJ_ARG_LO_ARG_LO i) (by simp only [K.INJ_ARG_LO_ARG_LO]; omega)
    have hi (i : Nat) := same (K.INJ_ARG_HI_ARG_HI i) (by simp only [K.INJ_ARG_HI_ARG_HI]; omega)
    simp only [Dev.injSlot, Dev.injArg, Dev.get2, state, sel, unit, lo, hi]
  rw [Dev.inject, Option.map_eq_none_iff] at none ⊢
  exact slot.trans none

/-! ## Holdover (R491) -/

theorem Dev.linkTime_of {d : Dev} {p : Nat} (src : d.get K.TIM_STATUS_SRC_ACTIVE = p + 1)
    (locked : d.get K.TIM_STATUS_LOCKED = 1) : d.linkTime = true := by
  simp [Dev.linkTime, Dev.on, src, locked]

/-- The device in holdover until `deadline`, on the oscillator. -/
def heldOver (d : Dev) (deadline : Nat) : Dev :=
  let d := (d.put K.TIM_STATUS_HOLDOVER true).put K.CAS_STATUS_UPSTREAM_LOST true
  let d := (d.set K.CLK_STATUS_REF_SRC 0).put K.CLK_STATUS_REF_OK false
  ((d.modTime fun t => { t with osc := true }).modCas fun c => { c with deadline := some deadline }).timeLog 3

theorem Dev.holdoverBegins_eq {d : Dev} (link : d.linkTime = true) (calm : d.get K.TIM_STATUS_HOLDOVER = 0) (t : Nat) :
    d.holdoverBegins t = heldOver d t := by
  rw [Dev.holdoverBegins, link, on_of_get_zero calm]; rfl

/-- Holdover has begun with its deadline; time counts on and is sure. -/
def HoldoverBegun (t : Nat) (d0 d : Dev) : Prop :=
  d.get K.TIM_STATUS_HOLDOVER = 1 ∧ d.get K.CAS_STATUS_UPSTREAM_LOST = 1 ∧ d.get K.CLK_STATUS_REF_SRC = 0 ∧
    d.get K.CLK_STATUS_REF_OK = 0 ∧ d.cas.deadline = some t ∧ d.time.tti = d0.time.tti ∧
    d.get K.TIM_STATUS_TIME_UNSURE = d0.get K.TIM_STATUS_TIME_UNSURE ∧ d.sites = d0.sites ∧ Still d0 d

theorem heldOver_begun {d0 d : Dev} (t : Nat) (tti : d.time.tti = d0.time.tti)
    (sure : d.get K.TIM_STATUS_TIME_UNSURE = d0.get K.TIM_STATUS_TIME_UNSURE) (sites : d.sites = d0.sites)
    (unit : StringUnit d0 d) : HoldoverBegun t d0 (heldOver d t) := by
  have own : StringUnit d (heldOver d t) := rfl
  refine ⟨?_, ?_, ?_, Dev.get_put_same _ _ false (by decide), rfl, tti, ?_, sites, (unit.trans own).still⟩
  · exact (Dev.get_put_ne _ _ (by decide)).trans ((Dev.get_set_ne _ _ (by decide)).trans
      ((Dev.get_put_ne _ _ (by decide)).trans (Dev.get_put_same _ _ true (by decide))))
  · exact (Dev.get_put_ne _ _ (by decide)).trans ((Dev.get_set_ne _ _ (by decide)).trans
      (Dev.get_put_same _ _ true (by decide)))
  · exact (Dev.get_put_ne _ _ (by decide)).trans (Dev.get_set_same _ _ _)
  · exact ((Dev.get_put_ne _ _ (by decide)).trans ((Dev.get_set_ne _ _ (by decide)).trans
      ((Dev.get_put_ne _ _ (by decide)).trans (Dev.get_put_ne _ _ (by decide))))).trans sure

/-- Holdover, where time is in force, changes the unit's own part. -/
theorem Dev.holdoverBegins_unit (d : Dev) (t : Nat) :
    StringUnit d (d.holdoverBegins t) ∧ (d.holdoverBegins t).cas.ports = d.cas.ports := by
  unfold Dev.holdoverBegins
  split
  · exact ⟨rfl, rfl⟩
  · exact ⟨rfl, rfl⟩

/-! ## Time that is no longer sure (R123, R486, R491) -/

/-- Time is unsure, without holdover and deadline. -/
def TimeLost (d : Dev) : Prop := d.get K.TIM_STATUS_TIME_UNSURE = 1 ∧ d.get K.TIM_STATUS_LOCKED = 0 ∧
  d.get K.TIM_STATUS_HOLDOVER = 0 ∧ d.cas.deadline = none

theorem TimeLost.stopsIn {d : Dev} (h : TimeLost d) (l : List Nat) (cause : Nat) : TimeLost (d.stopsIn l cause) := by
  have kept (f : Fld) (hf : StatusKey f.key) := d.get_stopsIn l cause hf
  obtain ⟨unsure, locked, holdover, deadline⟩ := h
  refine ⟨(kept _ ?_).trans unsure, (kept _ ?_).trans locked, (kept _ ?_).trans holdover, ?_⟩
  · simp only [StatusKey]; decide
  · simp only [StatusKey]; decide
  · simp only [StatusKey]; decide
  · rw [(d.stopsIn_stopUnit l cause).cas, deadline]

end Sys2Proof.Machine

namespace Sys2Proof.Slice0

/-! ## TIME frames of the port that carries the time (R486, R491) -/

/-- Time agrees again: holdover ends, and the link is the reference. -/
def heldOverEnds (d : Dev) : Dev :=
  let d := d.put K.TIM_STATUS_HOLDOVER false
  let d := (d.set K.CLK_STATUS_REF_SRC (d.get K.TIM_STATUS_SRC_ACTIVE + 1)).put K.CLK_STATUS_REF_OK true
  (d.modTime fun t => { t with osc := false }).modCas fun c => { c with deadline := none }

/-- The device as the local count is found wrong, before the stops. -/
def countWrong (d : Dev) : Dev :=
  let d := { d.put K.TIM_STATUS_HOLDOVER false with cas := { d.cas with deadline := none } }
  ((d.put K.TIM_STATUS_TTI_MISMATCH true).unsure).timeLog 2

/-- A frame that agrees: holdover ends if it was on, and the announced mark is kept. -/
def frameAgrees (d : Dev) (mark : Option (BitVec 64 × BitVec 40)) : Dev :=
  let d := if d.on K.TIM_STATUS_HOLDOVER then heldOverEnds d else d
  match mark with
  | some (t, sec) => d.modTime fun x => { x with linkMark := some (t.toNat, sec.toNat) }
  | none => d

/-- The frame has been seen now. -/
def frameNoted (d : Dev) : Dev := d.modCas fun c => { c with lastFrame := some d.clock }

theorem timeSeen_wrong {d : Dev} (link : d.linkTime = true) {f : TimeFrame} (wrong : f.tti.toNat ≠ d.tti) :
    d.timeSeen f = (countWrong (frameNoted d)).stopsIn [2] 0x0E := by
  have link' : (frameNoted d).linkTime = true := link
  have wrong' : f.tti.toNat ≠ (frameNoted d).tti := wrong
  rw [Dev.timeSeen]
  simp only [show (d.modCas fun c => { c with lastFrame := some d.clock }) = frameNoted d from rfl, link', wrong', ne_eq,
    not_false_eq_true, if_true, Bool.not_true, Bool.false_eq_true, if_false]
  rfl

theorem timeSeen_held {d : Dev} (link : d.linkTime = true) {f : TimeFrame} (same : f.tti.toNat = d.tti) {t : BitVec 64}
    (hold : f.hold = some t) : d.timeSeen f = (frameNoted d).holdoverBegins t.toNat := by
  have link' : (frameNoted d).linkTime = true := link
  have same' : f.tti.toNat = (frameNoted d).tti := same
  rw [Dev.timeSeen]
  simp only [show (d.modCas fun c => { c with lastFrame := some d.clock }) = frameNoted d from rfl, link', same', ne_eq,
    not_true_eq_false, if_false, Bool.not_true, Bool.false_eq_true, hold]

theorem timeSeen_agrees {d : Dev} (link : d.linkTime = true) {f : TimeFrame} (same : f.tti.toNat = d.tti)
    (hold : f.hold = none) : d.timeSeen f = frameAgrees (frameNoted d) f.mark := by
  have link' : (frameNoted d).linkTime = true := link
  have same' : f.tti.toNat = (frameNoted d).tti := same
  rw [Dev.timeSeen]
  simp only [show (d.modCas fun c => { c with lastFrame := some d.clock }) = frameNoted d from rfl, link', same', ne_eq,
    not_true_eq_false, if_false, Bool.not_true, Bool.false_eq_true, hold]
  rfl

/-- What a frame that agrees leaves of a device. -/
structure FrameAgreed (mark : Option (BitVec 64 × BitVec 40)) (d d' : Dev) : Prop where
  holdover : d'.get K.TIM_STATUS_HOLDOVER = 0
  ends : d.get K.TIM_STATUS_HOLDOVER = 1 → d.get K.TIM_STATUS_SRC_ACTIVE < 3 →
    d'.get K.CLK_STATUS_REF_SRC = d.get K.TIM_STATUS_SRC_ACTIVE + 1 ∧ d'.get K.CLK_STATUS_REF_OK = 1 ∧ d'.cas.deadline = none
  kept : ∀ f : Fld, f.key ∉ [K.TIM_STATUS_HOLDOVER, K.CLK_STATUS_REF_SRC, K.CLK_STATUS_REF_OK].map Fld.key →
    d'.get f = d.get f
  last : d'.cas.lastFrame = d.cas.lastFrame
  link : d'.time.linkMark = (match mark with
    | some (t, sec) => some (t.toNat, sec.toNat)
    | none => d.time.linkMark)
  sites : d'.sites = d.sites
  unit : StringUnit d d'

/-- The mark that a frame announces is kept with the time alone. -/
theorem FrameAgreed.marked {d x : Dev} (h : FrameAgreed none d x) (mark : Option (BitVec 64 × BitVec 40)) :
    FrameAgreed mark d (match mark with
      | some (t, sec) => x.modTime fun x => { x with linkMark := some (t.toNat, sec.toNat) }
      | none => x) := by
  obtain ⟨holdover, ends, kept, last, link, sites, unit⟩ := h
  cases mark with
  | none => exact ⟨holdover, ends, kept, last, link, sites, unit⟩
  | some p => exact ⟨holdover, ends, kept, last, rfl, sites, unit.trans (c := x.modTime _) rfl⟩

theorem heldOverEnds_agreed (d : Dev) : FrameAgreed none d (heldOverEnds d) := by
  have src : (d.put K.TIM_STATUS_HOLDOVER false).get K.TIM_STATUS_SRC_ACTIVE = d.get K.TIM_STATUS_SRC_ACTIVE :=
    Dev.get_put_ne d _ (by decide)
  refine ⟨?_, fun _ small => ⟨?_, Dev.get_put_same _ _ true (by decide), rfl⟩, fun f hf => ?_, rfl, rfl, rfl, rfl⟩
  · exact (Dev.get_put_ne _ _ (by decide)).trans ((Dev.get_set_ne _ _ (by decide)).trans
      (Dev.get_put_same _ _ false (by decide)))
  · refine (Dev.get_put_ne _ _ (by decide)).trans ?_
    rw [src]
    exact Dev.get_set_lt _ _ (show d.get K.TIM_STATUS_SRC_ACTIVE + 1 < 2 ^ 2 by omega)
  · have apart := keys_ne_of hf
    exact (Dev.get_put_ne _ _ (apart _ (by simp))).trans ((Dev.get_set_ne _ _ (apart _ (by simp))).trans
      (Dev.get_put_ne _ _ (apart _ (by simp))))

theorem frameAgrees_agreed (d : Dev) (mark : Option (BitVec 64 × BitVec 40)) : FrameAgreed mark d (frameAgrees d mark) := by
  refine FrameAgreed.marked ?_ mark
  cases held : d.on K.TIM_STATUS_HOLDOVER
  · have calm : d.get K.TIM_STATUS_HOLDOVER = 0 := by simpa [Dev.on] using held
    exact ⟨calm, fun one => absurd (one.symm.trans calm) (by decide), fun _ _ => rfl, rfl, rfl, rfl, rfl⟩
  · exact heldOverEnds_agreed d

theorem countWrong_lost (d : Dev) : TimeLost (countWrong d) ∧ (countWrong d).get K.TIM_STATUS_TTI_MISMATCH = 1 := by
  refine ⟨⟨?_, Dev.get_put_same _ _ false (by decide), ?_, rfl⟩, ?_⟩
  · exact (Dev.get_put_ne _ _ (by decide)).trans (Dev.get_put_same _ _ true (by decide))
  · exact (Dev.get_put_ne _ _ (by decide)).trans ((Dev.get_put_ne _ _ (by decide)).trans
      ((Dev.get_put_ne _ _ (by decide)).trans (Dev.get_put_same _ _ false (by decide))))
  · exact (Dev.get_put_ne _ _ (by decide)).trans ((Dev.get_put_ne _ _ (by decide)).trans
      (Dev.get_put_same _ _ true (by decide)))

theorem countWrong_siteKept (d : Dev) (i : Nat) : SiteKept i d (countWrong d) := by
  have key : StatusKey K.TIM_STATUS_HOLDOVER.key ∧ StatusKey K.TIM_STATUS_TTI_MISMATCH.key ∧
      StatusKey K.TIM_STATUS_TIME_UNSURE.key ∧ StatusKey K.TIM_STATUS_LOCKED.key := by
    simp only [StatusKey]; decide
  obtain ⟨holdover, mismatch, unsure, locked⟩ := key
  have ends : SiteKept i d { d.put K.TIM_STATUS_HOLDOVER false with cas := { d.cas with deadline := none } } :=
    (d.set_siteKept holdover _ i).trans ⟨rfl, rfl, rfl, rfl⟩
  have noted := (ends.trans (Dev.set_siteKept _ mismatch 1 i)).trans ((Dev.set_siteKept _ unsure 1 i).trans
    (Dev.set_siteKept _ locked 0 i))
  exact noted.trans ⟨rfl, rfl, rfl, rfl⟩

/-- A follower takes its position from the frame before it judges the time. -/
def positioned (d : Dev) (pos : Nat) : Dev := (d.set K.CAS_STATUS_POSITION (pos + 1)).put K.CAS_STATUS_POS_VALID true

theorem get_positioned (d : Dev) (pos : Nat) {f : Fld} (h : f.key ∉ [K.CAS_STATUS_POSITION, K.CAS_STATUS_POS_VALID].map Fld.key) :
    (positioned d pos).get f = d.get f :=
  (Dev.get_put_ne _ _ (keys_ne_of h _ (by simp))).trans (Dev.get_set_ne _ _ (keys_ne_of h _ (by simp)))

theorem positioned_siteKept (d : Dev) (pos i : Nat) : SiteKept i d (positioned d pos) :=
  (d.set_siteKept (by simp only [StatusKey]; decide) _ i).trans (Dev.set_siteKept _ (by simp only [StatusKey]; decide) _ i)

theorem positionSeen_below {d : Dev} {pos : Nat} (below : pos ≠ 15) : d.positionSeen pos = positioned d pos := if_neg below

theorem roleIs_two {d : Dev} (h : d.roleIs 2 = true) : d.roleIs 1 = false := by
  simp only [Dev.roleIs, Bool.and_eq_true, beq_iff_eq] at h
  simp [Dev.roleIs, h]

theorem pos_ne {pos : BitVec 4} (h : pos ≠ 15) : pos.toNat ≠ 15 := fun e => h (BitVec.eq_of_toNat_eq e)

/-- What a follower does with a frame by its upstream port. -/
def frameFollowed (d : Dev) (port : Fin 2) (f : TimeFrame) : Dev :=
  let d := d.positionSeen f.pos.toNat
  if !d.timePort port then d
  else match d.inject 0x08 fun u _ => u == port.val with
    | some (_, d) => d.asInjected fun d => d.timeSeen { f with tti := f.tti + 1 }
    | none => d.timeSeen f

section

variable {port : Fin 2} {f : TimeFrame} {s : State} (up : bitAt s.dev.cas.ports port = true)

theorem timeFrame_down {port : Fin 2} (f : TimeFrame) {s : State} (down : bitAt s.dev.cas.ports port = false) :
    GivesAs (3, 0x0E, port.val) (.timeFrame port f) s fun d => d = s.dev :=
  givesAs_of_doesAs rfl (if_pos (by simp [down])) rfl

include up

/-- A follower's frame by its upstream port gives its position, and its time where the port carries it. -/
theorem timeFrame_followed {P : Dev → Prop} (role : s.dev.roleIs 2 = true) (way : s.dev.upPort = port)
    (given : P (frameFollowed s.dev port f)) : GivesAs (3, 0x0E, port.val) (.timeFrame port f) s P := by
  refine givesAs_of_doesAs rfl ?_ given
  simp only [up, roleIs_two role, role, way, Bool.not_true, Bool.false_and, Bool.true_and, bne_self_eq_false,
    Bool.false_eq_true, if_false, if_true]
  rfl

/-! ## A lead's frames, and a follower's position (R484, R493) -/

section

variable (role : s.dev.get K.CAS_STATUS_ROLE_OK = 1) (lead : s.dev.get K.CAS_CTRL_ROLE = 1)
  (other : s.dev.get K.TIM_CTRL_SRC ≠ port.val + 1)
include role lead other

/-- A lead whose time comes by another way compares the frame and does no more. -/
theorem timeFrame_led {P : Dev → Prop}
    (given : P (if f.pos = 0 then (s.dev.put K.CAS_STATUS_DUAL_LEAD true).logA 0x016 blkCAS port
      else if s.dev.on K.CAS_CTRL_RING then s.dev.put K.CAS_STATUS_RING_OK (f.tti.toNat == s.dev.tti) else s.dev)) :
    GivesAs (3, 0x0E, port.val) (.timeFrame port f) s P := by
  have leads : s.dev.roleIs 1 = true := by simp [Dev.roleIs, on_of_get_one role, lead]
  have away : (s.dev.get K.TIM_CTRL_SRC != port.val + 1) = true := by simpa using other
  refine givesAs_of_doesAs rfl ?_ given
  simp only [up, leads, away, Bool.not_true, Bool.and_self, Bool.false_eq_true, if_false, if_true]

theorem timeFrame_dualLead (first : f.pos = 0) : GivesAs (3, 0x0E, port.val) (.timeFrame port f) s fun d =>
    d.get K.CAS_STATUS_DUAL_LEAD = 1 ∧ FieldsKept s.dev d [K.CAS_STATUS_DUAL_LEAD] ∧
    (tblFind d.evl.slots (unitKey dieHD blkCAS * 4096 + 0x016)).isSome = true ∧
    d = { s.dev with regs := d.regs, evl := d.evl } := by
  refine timeFrame_led up role lead other ?_
  rw [if_pos first]
  refine ⟨Dev.get_put_same s.dev _ true (by decide), fun g hg => Dev.get_put_ne s.dev _ (hg _ (by simp)), ?_, rfl⟩
  exact (congrArg Option.isSome (tblFind_put_same _ _ _)).trans rfl

theorem timeFrame_ring (later : f.pos ≠ 0) (ring : s.dev.get K.CAS_CTRL_RING = 1) :
    GivesAs (3, 0x0E, port.val) (.timeFrame port f) s fun d =>
      (d.on K.CAS_STATUS_RING_OK ↔ f.tti.toNat = s.dev.tti) ∧ FieldsOnly s.dev d [K.CAS_STATUS_RING_OK] := by
  refine timeFrame_led up role lead other ?_
  rw [if_neg later, on_of_get_one ring, if_pos rfl]
  exact ⟨by rw [Dev.on_put_same _ _ _ (by decide)]; exact beq_iff_eq, fieldsOnly_set _ _ _⟩

theorem timeFrame_chain (later : f.pos ≠ 0) (chain : s.dev.get K.CAS_CTRL_RING = 0) :
    GivesAs (3, 0x0E, port.val) (.timeFrame port f) s fun d => d = s.dev := by
  refine timeFrame_led up role lead other ?_
  rw [if_neg later, on_of_get_zero chain]
  rfl

end

section

variable (role : s.dev.roleIs 2 = true) (way : s.dev.upPort = port)
include role way

section

variable (other : s.dev.get K.TIM_STATUS_SRC_ACTIVE ≠ port.val + 1)
include other

theorem timeFrame_overflow (full : f.pos = 15) : GivesAs (3, 0x0E, port.val) (.timeFrame port f) s fun d =>
    d.get K.CAS_STATUS_OVERFLOW = 1 ∧ d.get K.CAS_STATUS_POS_VALID = 0 ∧
    FieldsOnly s.dev d [K.CAS_STATUS_OVERFLOW, K.CAS_STATUS_POS_VALID] := by
  refine timeFrame_followed up role way ?_
  have seen : s.dev.positionSeen f.pos.toNat =
      (s.dev.put K.CAS_STATUS_OVERFLOW true).put K.CAS_STATUS_POS_VALID false := if_pos (by rw [full]; rfl)
  have src : ((s.dev.put K.CAS_STATUS_OVERFLOW true).put K.CAS_STATUS_POS_VALID false).get K.TIM_STATUS_SRC_ACTIVE =
      s.dev.get K.TIM_STATUS_SRC_ACTIVE := (Dev.get_put_ne _ _ (by decide)).trans (Dev.get_put_ne _ _ (by decide))
  rw [frameFollowed, seen]
  rw [if_pos (by rw [Dev.timePort, src]; simpa using other)]
  exact ⟨(Dev.get_put_ne _ _ (by decide)).trans (Dev.get_put_same _ _ true (by decide)),
    Dev.get_put_same _ _ false (by decide),
    ((FieldsOnly.refl _ _).set _ ⟨K.CAS_STATUS_OVERFLOW, by simp, rfl⟩).set _ ⟨K.CAS_STATUS_POS_VALID, by simp, rfl⟩⟩

theorem timeFrame_position (room : f.pos ≠ 15) : GivesAs (3, 0x0E, port.val) (.timeFrame port f) s fun d =>
    d.get K.CAS_STATUS_POSITION = f.pos.toNat + 1 ∧ d.get K.CAS_STATUS_POS_VALID = 1 ∧
    FieldsOnly s.dev d [K.CAS_STATUS_POSITION, K.CAS_STATUS_POS_VALID] := by
  refine timeFrame_followed up role way ?_
  have small : f.pos.toNat + 1 < 2 ^ 4 := by have := f.pos.isLt; have := pos_ne room; omega
  have src : (positioned s.dev f.pos.toNat).get K.TIM_STATUS_SRC_ACTIVE = s.dev.get K.TIM_STATUS_SRC_ACTIVE :=
    get_positioned _ _ (by decide)
  rw [frameFollowed, positionSeen_below (pos_ne room)]
  rw [if_pos (by rw [Dev.timePort, src]; simpa using other)]
  exact ⟨(Dev.get_put_ne _ _ (by decide)).trans (Dev.get_set_lt _ _ small), Dev.get_put_same _ _ true (by decide),
    ((FieldsOnly.refl _ _).set _ ⟨K.CAS_STATUS_POSITION, by simp, rfl⟩).set _ ⟨K.CAS_STATUS_POS_VALID, by simp, rfl⟩⟩

end

/-! ## The frame of the port that carries the time -/

section

variable (src : s.dev.get K.TIM_STATUS_SRC_ACTIVE = port.val + 1) (locked : s.dev.get K.TIM_STATUS_LOCKED = 1)
  (none : (s.dev.inject 0x08 fun u _ => u == port.val) = .none) (room : f.pos ≠ 15)
include src locked none room

/-- A frame that no injection alters is judged as it is, after the position. -/
theorem timeFrame_carried {P : Dev → Prop} (given : (positioned s.dev f.pos.toNat).linkTime = true →
    P ((positioned s.dev f.pos.toNat).timeSeen f)) : GivesAs (3, 0x0E, port.val) (.timeFrame port f) s P := by
  refine timeFrame_followed up role way ?_
  have src' := (get_positioned s.dev f.pos.toNat (f := K.TIM_STATUS_SRC_ACTIVE) (by decide)).trans src
  have locked' := (get_positioned s.dev f.pos.toNat (f := K.TIM_STATUS_LOCKED) (by decide)).trans locked
  have none' : (positioned s.dev f.pos.toNat).inject 0x08 (fun u _ => u == port.val) = .none :=
    Dev.inject_none (fun g hg => get_positioned _ _ (by
      simp only [List.map_cons, List.map_nil, List.mem_cons, List.not_mem_nil, or_false, K.CAS_STATUS_POSITION,
        K.CAS_STATUS_POS_VALID]
      omega)) none
  rw [frameFollowed, positionSeen_below (pos_ne room)]
  rw [if_neg (by simp [Dev.timePort, src']), none']
  exact given (Dev.linkTime_of src' locked')

theorem timeFrame_agrees (same : f.tti.toNat = s.dev.tti) (hold : f.hold = .none) :
    GivesAs (3, 0x0E, port.val) (.timeFrame port f) s fun d =>
      d.get K.TIM_STATUS_HOLDOVER = 0 ∧ d.cas.lastFrame = some s.dev.clock ∧ d.get K.CAS_STATUS_POSITION = f.pos.toNat + 1 ∧
      d.get K.TIM_STATUS_TIME_UNSURE = s.dev.get K.TIM_STATUS_TIME_UNSURE ∧
      (s.dev.get K.TIM_STATUS_HOLDOVER = 1 → d.get K.CLK_STATUS_REF_SRC = port.val + 2 ∧ d.get K.CLK_STATUS_REF_OK = 1 ∧
        d.cas.deadline = .none) ∧
      d.time.linkMark = (match f.mark with
        | some (t, sec) => some (t.toNat, sec.toNat)
        | .none => s.dev.time.linkMark) ∧ d.sites = s.dev.sites ∧ Still s.dev d := by
  refine timeFrame_carried up role way src locked none room fun link => ?_
  rw [timeSeen_agrees link (show f.tti.toNat = (positioned s.dev f.pos.toNat).tti from same) hold]
  have kept {g : Fld} (h : g.key ∉ [K.CAS_STATUS_POSITION, K.CAS_STATUS_POS_VALID].map Fld.key) :
      (frameNoted (positioned s.dev f.pos.toNat)).get g = s.dev.get g := get_positioned s.dev f.pos.toNat h
  have small : f.pos.toNat + 1 < 2 ^ 4 := by have := f.pos.isLt; have := pos_ne room; omega
  have position : (frameNoted (positioned s.dev f.pos.toNat)).get K.CAS_STATUS_POSITION = f.pos.toNat + 1 :=
    (Dev.get_put_ne _ _ (by decide)).trans (Dev.get_set_lt _ _ small)
  have before : StringUnit s.dev (frameNoted (positioned s.dev f.pos.toNat)) := rfl
  have active := (kept (g := K.TIM_STATUS_SRC_ACTIVE) (by decide)).trans src
  obtain ⟨holdover, ends, fields, last, mark, sites, unit⟩ :=
    frameAgrees_agreed (frameNoted (positioned s.dev f.pos.toNat)) f.mark
  refine ⟨holdover, last, (fields _ (by decide)).trans position, (fields _ (by decide)).trans (kept (by decide)),
    fun held => ?_, mark, sites, (before.trans unit).still⟩
  obtain ⟨ref, ok, deadline⟩ := ends ((kept (by decide)).trans held) (by rw [active]; omega)
  exact ⟨by rw [ref, active], ok, deadline⟩

theorem timeFrame_holds (same : f.tti.toNat = s.dev.tti) (calm : s.dev.get K.TIM_STATUS_HOLDOVER = 0) {t : BitVec 64}
    (hold : f.hold = some t) : GivesAs (3, 0x0E, port.val) (.timeFrame port f) s (HoldoverBegun t.toNat s.dev) := by
  refine timeFrame_carried up role way src locked none room fun link => ?_
  have calm' : (frameNoted (positioned s.dev f.pos.toNat)).get K.TIM_STATUS_HOLDOVER = 0 :=
    (get_positioned _ _ (by decide)).trans calm
  have sure : (frameNoted (positioned s.dev f.pos.toNat)).get K.TIM_STATUS_TIME_UNSURE =
      s.dev.get K.TIM_STATUS_TIME_UNSURE := get_positioned _ _ (by decide)
  rw [timeSeen_held link (show f.tti.toNat = (positioned s.dev f.pos.toNat).tti from same) hold,
    Dev.holdoverBegins_eq (show (frameNoted (positioned s.dev f.pos.toNat)).linkTime = true from link) calm']
  exact heldOver_begun t.toNat rfl sure rfl rfl

theorem timeFrame_disagrees (wrong : f.tti.toNat ≠ s.dev.tti) : GivesAs (3, 0x0E, port.val) (.timeFrame port f) s fun d =>
    d.get K.TIM_STATUS_TTI_MISMATCH = 1 ∧ TimeLost d ∧ StopsGiven [2] 0x0E s.dev d ∧ d.time.tti = s.dev.time.tti ∧
    Still s.dev d := by
  refine timeFrame_carried up role way src locked none room fun link => ?_
  rw [timeSeen_wrong link (show f.tti.toNat ≠ (positioned s.dev f.pos.toNat).tti from wrong)]
  have noted (i : Nat) : SiteKept i s.dev (frameNoted (positioned s.dev f.pos.toNat)) :=
    (positioned_siteKept s.dev f.pos.toNat i).trans ⟨rfl, rfl, rfl, rfl⟩
  have unit : StringUnit s.dev (countWrong (frameNoted (positioned s.dev f.pos.toNat))) := rfl
  have tti : (countWrong (frameNoted (positioned s.dev f.pos.toNat))).time.tti = s.dev.time.tti := rfl
  obtain ⟨lost, mismatch⟩ := countWrong_lost (frameNoted (positioned s.dev f.pos.toNat))
  have sites (i : Nat) := (noted i).trans (countWrong_siteKept (frameNoted (positioned s.dev f.pos.toNat)) i)
  generalize countWrong (frameNoted (positioned s.dev f.pos.toNat)) = x at *
  have stops := x.stopsIn_stopUnit [2] 0x0E
  exact ⟨(x.get_stopsIn _ _ (by simp only [StatusKey]; decide)).trans mismatch, lost.stopsIn _ _,
    Dev.stopsIn_given sites [2] (by decide), by rw [stops.time, tti], (unit.trans stops.string).still⟩

end

end

end

end Sys2Proof.Slice0
end

section
/-! CERTIFICATE. Holdover on the String and its commands (R485, R489, R491, R492). -/

open Sys2Proof Sys2Proof.Machine

namespace Sys2Proof.Slice0

/-! ## A lost port, silence, and the deadline (R491) -/

/-- The part of a port's state that the registers do not show is set, and UP_OK and DN_OK follow. -/
theorem get_portSet (d : Dev) (p : Nat) (up : Bool) {f : Fld} (h : f.key ∉ [K.CAS_STATUS_UP_OK, K.CAS_STATUS_DN_OK].map Fld.key) :
    (d.portSet p up).get f = d.get f :=
  (Dev.get_put_ne _ _ (keys_ne_of h _ (by simp))).trans (Dev.get_put_ne _ _ (keys_ne_of h _ (by simp)))

theorem linkTime_portSet (d : Dev) (p : Nat) (up : Bool) : (d.portSet p up).linkTime = d.linkTime := by
  simp only [Dev.linkTime, Dev.on, get_portSet d p up (f := K.TIM_STATUS_LOCKED) (by decide),
    get_portSet d p up (f := K.TIM_STATUS_SRC_ACTIVE) (by decide)]

theorem ownDeadline_portSet (d : Dev) (p : Nat) (up : Bool) : (d.portSet p up).ownDeadline = d.ownDeadline := by
  rw [Dev.ownDeadline, get_portSet d p up (f := K.CAS_HOLD_LIM) (by decide)]
  rfl

theorem blockLockLoss_down (port : Fin 2) (s : State) (down : bitAt s.dev.cas.ports port = false) :
    Gives (.blockLockLoss port) s fun d => d = s.dev := by
  refine gives_of_does rfl ?_
  rw [Dev.blockLockLost, down]
  rfl

section

variable {port : Fin 2} {s : State} (up : bitAt s.dev.cas.ports port = true)
include up

theorem blockLockLost_eq : s.dev.blockLockLost port =
    if (s.dev.portSet port false).timePort port then
      (s.dev.portSet port false).holdoverBegins (s.dev.portSet port false).ownDeadline
    else s.dev.portSet port false := by
  rw [Dev.blockLockLost, up]
  rfl

theorem blockLockLoss_drops : Gives (.blockLockLoss port) s fun d => bitAt d.cas.ports port = false ∧ Still s.dev d := by
  have closed : bitAt (s.dev.portSet port false).cas.ports port = false :=
    (bitAt_putBitAt s.dev.cas.ports port port false).trans (if_pos rfl)
  have unit : StringUnit s.dev (s.dev.portSet port false) := rfl
  have begins := (s.dev.portSet port false).holdoverBegins_unit (s.dev.portSet port false).ownDeadline
  obtain ⟨own, ports⟩ := begins
  refine gives_of_does rfl ?_
  rw [blockLockLost_eq up]
  split
  · exact ⟨by rw [ports, closed], (unit.trans own).still⟩
  · exact ⟨closed, unit.still⟩

variable (src : s.dev.get K.TIM_STATUS_SRC_ACTIVE = port.val + 1) (locked : s.dev.get K.TIM_STATUS_LOCKED = 1)
  (calm : s.dev.get K.TIM_STATUS_HOLDOVER = 0)
include src locked calm

theorem blockLockLoss_holds : Gives (.blockLockLoss port) s (HoldoverBegun s.dev.ownDeadline s.dev) := by
  have kept {f : Fld} (h : f.key ∉ [K.CAS_STATUS_UP_OK, K.CAS_STATUS_DN_OK].map Fld.key) :=
    get_portSet s.dev port false h
  have carries : (s.dev.portSet port false).timePort port = true := by
    rw [Dev.timePort, kept (f := K.TIM_STATUS_SRC_ACTIVE) (by decide), src, beq_self_eq_true]
  have link : (s.dev.portSet port false).linkTime = true := (linkTime_portSet _ _ _).trans (Dev.linkTime_of src locked)
  refine gives_of_does rfl ?_
  rw [blockLockLost_eq up, if_pos carries, Dev.holdoverBegins_eq link ((kept (by decide)).trans calm), ownDeadline_portSet]
  exact heldOver_begun _ rfl (kept (by decide)) rfl rfl

end

theorem silence_holds {port : Fin 2} (s : State) (src : s.dev.get K.TIM_STATUS_SRC_ACTIVE = port.val + 1)
    (locked : s.dev.get K.TIM_STATUS_LOCKED = 1) (calm : s.dev.get K.TIM_STATUS_HOLDOVER = 0)
    (silent : ∃ t, s.dev.cas.lastFrame = some t ∧ t + 1200 ≤ s.dev.clock) :
    Gives .timeFrameSilence s (HoldoverBegun s.dev.ownDeadline s.dev) := by
  obtain ⟨t, last, late⟩ := silent
  refine gives_of_effect (d := heldOver s.dev s.dev.ownDeadline) rfl ?_ (heldOver_begun _ rfl rfl rfl rfl)
  rw [last, ← Dev.holdoverBegins_eq (Dev.linkTime_of src locked) calm]
  exact if_pos late

theorem silence_none (s : State) (recent : ∀ t, s.dev.cas.lastFrame = some t → s.dev.clock < t + 1200) :
    Gives .timeFrameSilence s fun d => d = s.dev := by
  refine gives_of_does rfl ?_
  cases last : s.dev.cas.lastFrame with
  | none => rfl
  | some t => exact if_neg (by have := recent t last; omega)

/-- The device as holdover expires, before the stops. -/
def heldOverExpired (d : Dev) : Dev :=
  let d := d.modCas fun c => { c with deadline := none }
  ((d.put K.TIM_STATUS_HOLDOVER false).unsure).timeLog 4

theorem heldOverExpired_lost (d : Dev) : TimeLost (heldOverExpired d) :=
  ⟨(Dev.get_put_ne _ _ (by decide)).trans (Dev.get_put_same _ _ true (by decide)), Dev.get_put_same _ _ false (by decide),
    (Dev.get_put_ne _ _ (by decide)).trans ((Dev.get_put_ne _ _ (by decide)).trans
      (Dev.get_put_same _ _ false (by decide))), rfl⟩

theorem heldOverExpired_siteKept (d : Dev) (i : Nat) : SiteKept i d (heldOverExpired d) := by
  have key : StatusKey K.TIM_STATUS_HOLDOVER.key ∧ StatusKey K.TIM_STATUS_TIME_UNSURE.key ∧
      StatusKey K.TIM_STATUS_LOCKED.key := by
    simp only [StatusKey]; decide
  obtain ⟨holdover, unsure, locked⟩ := key
  have open' : SiteKept i d (d.modCas fun c => { c with deadline := none }) := ⟨rfl, rfl, rfl, rfl⟩
  have noted := (open'.trans (Dev.set_siteKept _ holdover 0 i)).trans ((Dev.set_siteKept _ unsure 1 i).trans
    (Dev.set_siteKept _ locked 0 i))
  exact noted.trans ⟨rfl, rfl, rfl, rfl⟩

theorem holdoverDeadline_none (s : State) (early : (∀ t, s.dev.cas.deadline = some t → s.dev.tti < t) ∨
    s.dev.get K.TIM_STATUS_HOLDOVER = 0) : GivesAs (3, 0x0E, 0) .holdoverDeadline s fun d => d = s.dev := by
  refine givesAs_of_doesAs rfl ?_ rfl
  cases due : s.dev.cas.deadline with
  | none => rfl
  | some t =>
    refine if_pos ?_
    rcases early with early | calm
    · simp [early t due]
    · simp [on_of_get_zero calm]

theorem holdoverDeadline_stops (s : State) (held : s.dev.get K.TIM_STATUS_HOLDOVER = 1)
    (due : ∃ t, s.dev.cas.deadline = some t ∧ t ≤ s.dev.tti) : GivesAs (3, 0x0E, 0) .holdoverDeadline s fun d =>
      TimeLost d ∧ StopsGiven [1, 2] 0x0E s.dev d ∧ Still s.dev d := by
  obtain ⟨t, deadline, late⟩ := due
  have run : (if !s.dev.on K.TIM_STATUS_HOLDOVER || decide (s.dev.tti < t) then s.dev
      else (heldOverExpired s.dev).stopsIn [1, 2] 0x0E) = (heldOverExpired s.dev).stopsIn [1, 2] 0x0E :=
    if_neg (by simp [on_of_get_one held]; omega)
  refine givesAs_of_doesAs (d := (heldOverExpired s.dev).stopsIn [1, 2] 0x0E) rfl ?_ ?_
  · rw [deadline]; exact run
  · have unit : StringUnit s.dev (heldOverExpired s.dev) := rfl
    exact ⟨(heldOverExpired_lost _).stopsIn _ _, Dev.stopsIn_given (heldOverExpired_siteKept s.dev) [1, 2] (by decide),
      (unit.trans (Dev.stopsIn_stopUnit _ _ _).string).still⟩

/-! ## String commands that arrive (R489) -/

section

variable {port : Fin 2} (op : BitVec 3) (pos : BitVec 16) (sites exec : BitVec 64) {s : State}

theorem named_iff (d : Dev) (small : d.get K.CAS_STATUS_POS_VALID < 2) (mask : Nat) : d.named mask = true ↔
    d.get K.CAS_STATUS_POS_VALID = 1 ∧ bitAt mask (d.get K.CAS_STATUS_POSITION) = true := by
  have valid : d.on K.CAS_STATUS_POS_VALID = true ↔ d.get K.CAS_STATUS_POS_VALID = 1 := by
    simp only [Dev.on, bne_iff_ne]; omega
  rw [Dev.named, Bool.and_eq_true, valid]

theorem arrival_refused (away : bitAt s.dev.cas.ports port = false ∨ s.dev.upPort ≠ port ∨
    s.dev.get K.CAS_STATUS_ROLE_OK = 0) :
    Gives (.stringCommandArrival port op pos sites exec) s fun d => d = s.dev := by
  refine gives_of_effect rfl (if_pos ?_) rfl
  rcases away with down | other | none
  · simp [down]
  · simp [other]
  · simp [on_of_get_zero none]

section

variable (up : bitAt s.dev.cas.ports port = true) (way : s.dev.upPort = port) (role : s.dev.get K.CAS_STATUS_ROLE_OK = 1)
include up way role

theorem arrival_given {P : Dev → Prop} (given : P (s.dev.strQueue port op.toNat pos.toNat sites.toNat exec.toNat)) :
    Gives (.stringCommandArrival port op pos sites exec) s P :=
  gives_of_effect rfl (if_neg (by simp [up, way, on_of_get_one role])) given

theorem arrival_queues (valid : s.dev.get K.CAS_STATUS_POS_VALID = 1)
    (mine : bitAt pos.toNat (s.dev.get K.CAS_STATUS_POSITION) = true) :
    Gives (.stringCommandArrival port op pos sites exec) s fun d =>
      d = { s.dev with cas := { s.dev.cas with cmds := s.dev.cas.cmds ++
        [⟨port, op.toNat, sites.toNat, exec.toNat, decide (exec.toNat < s.dev.tti)⟩] } } := by
  refine arrival_given op pos sites exec up way role ?_
  rw [Dev.strQueue, (named_iff s.dev (by omega) _).mpr ⟨valid, mine⟩]
  rfl

theorem arrival_passes (other : ¬(s.dev.get K.CAS_STATUS_POS_VALID = 1 ∧
    bitAt pos.toNat (s.dev.get K.CAS_STATUS_POSITION) = true)) (small : s.dev.get K.CAS_STATUS_POS_VALID < 2) :
    Gives (.stringCommandArrival port op pos sites exec) s fun d => d = s.dev := by
  refine arrival_given op pos sites exec up way role ?_
  have out : s.dev.named pos.toNat = false := by
    rw [← Bool.not_eq_true]; exact fun h => other ((named_iff s.dev small _).mp h)
  rw [Dev.strQueue, out]
  rfl

end

end

end Sys2Proof.Slice0
end

section
/-! CERTIFICATE. String commands: sending them, and applying them at EXEC_TTI (R489, R492). -/

open Sys2Proof Sys2Proof.Machine

namespace Sys2Proof.Slice0

/-! ## CAS_CMD (R489) -/

section

variable {m : Master} {s : State} (hl : Lets s m 0x50020 true)
include hl

/-- A write of CAS_CMD with its key judges its OP. -/
theorem casCmd_given {c : Instr} {o : Nat} (run : exec c s = s.writes m 0x50020 (keyed 0x96 o)) (small : o < 8) {P : Dev → Prop}
    (given : P (s.dev.casCmd o)) : GivesBy m c s P := by
  have word : keyed 0x96 o = 0x96 * 2 ^ 24 + o := rfl
  have key : bitsAt (keyed 0x96 o) 24 8 = 0x96 := by rw [word]; simp only [bitsAt]; omega
  have op : keyed 0x96 o % 8 = o := by rw [word]; omega
  refine givesBy_writes run (by rw [word]; omega) hl ⟨by decide, by decide, by decide, by decide, by decide⟩ ?_
  have effect : s.dev.regWrite m 0x50020 (keyed 0x96 o) = s.dev.casCmd o := by
    simp [Dev.regWrite, Dev.timWrite, hl.2, slowReg, key, op]
  rw [effect]
  exact given

end

/-- RESULT alone is written. -/
def ResultOnly (r : Nat) (d0 d : Dev) : Prop :=
  (d.get K.CAS_CMD_RESULT = r ∧ FieldsKept d0 d [K.CAS_CMD_RESULT]) ∧ RegsOnly d0 d

theorem set_resultOnly (d : Dev) {r : Nat} (small : r < 8) : ResultOnly r d (d.set K.CAS_CMD_RESULT r) :=
  ⟨⟨Dev.get_set_lt _ _ small, fun _ hf => Dev.get_set_ne _ _ (hf _ (by simp))⟩, rfl⟩

section

variable {d : Dev} {o : Nat}

theorem casCmd_notLead (other : d.roleIs 1 = false) : d.casCmd o = d.set K.CAS_CMD_RESULT 2 := by
  rw [Dev.casCmd, other]
  rfl

variable (lead : d.roleIs 1 = true)
include lead

theorem casCmd_badOp (bad : 3 ≤ o) : d.casCmd o = d.set K.CAS_CMD_RESULT 4 := by
  rw [Dev.casCmd, lead, if_pos bad]
  rfl

variable (known : o < 3)
include known

theorem casCmd_busy (flight : ∃ t, d.cas.flight = some t ∧ d.tti < t) : d.casCmd o = d.set K.CAS_CMD_RESULT 3 := by
  obtain ⟨t, sent, early⟩ := flight
  rw [Dev.casCmd, lead, if_neg (show ¬3 ≤ o by omega), sent]
  exact if_pos (decide_eq_true early)

/-- The command of OP `o` that the registers describe, sent now. -/
def commandSent (d : Dev) (o : Nat) : Dev :=
  (d.originate o (d.get K.CAS_CMD_POS) (d.get2 K.CAS_CMD_SITES_LO K.CAS_CMD_SITES_HI)).set K.CAS_CMD_RESULT 1

theorem casCmd_free (free : ∀ t, d.cas.flight = some t → t ≤ d.tti) : d.casCmd o = commandSent d o := by
  rw [Dev.casCmd, lead, if_neg (show ¬3 ≤ o by omega)]
  cases sent : d.cas.flight with
  | none => rfl
  | some t => exact if_neg (decide_eq_false (show ¬d.tti < t by have := free t sent; omega) ▸ Bool.false_ne_true)

end

/-- What a command that is sent leaves: RESULT 1, the flight, and its own copy where it names this device. -/
def CommandSent (o : Nat) (d0 d : Dev) : Prop :=
  (d.get K.CAS_CMD_RESULT = 1 ∧ FieldsKept d0 d [K.CAS_CMD_RESULT]) ∧ d = { d0 with regs := d.regs, cas := d.cas } ∧
    d.cas.flight = some (d0.tti + d0.get K.CAS_CMD_LEAD) ∧ d.cas.cmds = d0.cas.cmds ++
      if d0.named (d0.get K.CAS_CMD_POS) = true then
        [⟨2, o, d0.get2 K.CAS_CMD_SITES_LO K.CAS_CMD_SITES_HI, d0.tti + d0.get K.CAS_CMD_LEAD, false⟩] else []

theorem commandSent_sent (d : Dev) (o : Nat) : CommandSent o d (commandSent d o) := by
  have early : decide (d.tti + d.get K.CAS_CMD_LEAD < d.tti) = false := decide_eq_false (by omega)
  rcases Bool.eq_false_or_eq_true (d.named (d.get K.CAS_CMD_POS)) with mine | other
  · have sent : commandSent d o = ((d.modCas fun c => { c with flight := some (d.tti + d.get K.CAS_CMD_LEAD) }).modCas fun c =>
        { c with cmds := c.cmds ++ [⟨2, o, d.get2 K.CAS_CMD_SITES_LO K.CAS_CMD_SITES_HI, d.tti + d.get K.CAS_CMD_LEAD,
          false⟩] }).set K.CAS_CMD_RESULT 1 := by
      rw [← early]
      exact congrArg (Dev.set · K.CAS_CMD_RESULT 1) (if_neg (by
        rw [show Dev.named (d.modCas _) (d.get K.CAS_CMD_POS) = true from mine]; decide))
    rw [sent]
    exact ⟨⟨Dev.get_set_lt _ _ (by decide), fun _ hf => Dev.get_set_ne _ _ (hf _ (by simp))⟩, rfl, rfl,
      by rw [if_pos mine]; rfl⟩
  · have sent : commandSent d o =
        (d.modCas fun c => { c with flight := some (d.tti + d.get K.CAS_CMD_LEAD) }).set K.CAS_CMD_RESULT 1 :=
      congrArg (Dev.set · K.CAS_CMD_RESULT 1) (if_pos (by
        rw [show Dev.named (d.modCas _) (d.get K.CAS_CMD_POS) = false from other]; rfl))
    rw [sent]
    exact ⟨⟨Dev.get_set_lt _ _ (by decide), fun _ hf => Dev.get_set_ne _ _ (hf _ (by simp))⟩, rfl, rfl,
      by rw [if_neg (by rw [other]; decide), List.append_nil]; rfl⟩

/-! ## Commands at their EXEC_TTI (R118, R489) -/

/-- A command on one site, on a device within the tick of `s`. -/
def strOn (s : State) (op : Nat) (d : Dev) (i : Nat) : Dev := (State.strSite { s with dev := d } op i).dev

theorem strSite_eq (s : State) (op : Nat) (d : Dev) (i : Nat) :
    State.strSite { s with dev := d } op i = { s with dev := strOn s op d i } := rfl

/-- A command on a list of sites acts on the device alone. -/
theorem foldl_strSite (s : State) (op : Nat) (l : List Nat) (d : Dev) :
    l.foldl (fun s i => s.strSite op i) { s with dev := d } = { s with dev := d.each l (strOn s op) } := by
  induction l generalizing d with
  | nil => rfl
  | cons i l ih =>
    rw [List.foldl_cons, strSite_eq, ih]
    rfl

/-- A command's effect on a site that takes it. -/
def strApply (d : Dev) (op i : Nat) : Dev := if op = 1 then d.stopReq i 0x10 else d.parkReq i 0x10

/-- A command on a site is applied, or leaves nothing but a record. -/
theorem strOn_cases (s : State) (op : Nat) (d : Dev) (i : Nat) :
    (d.siteIn i (strStates op) = true ∧ strOn s op d i = strApply d op i) ∨ strOn s op d i = d ∨
      ∃ ty unit data, strOn s op d i = d.logB ty unit data (some i) := by
  unfold strOn State.strSite State.onDev State.judge
  dsimp only
  split
  next takes => exact .inl ⟨takes, rfl⟩
  next =>
    split
    · exact .inr (.inl rfl)
    · split
      · exact .inr (.inr ⟨_, _, _, rfl⟩)
      · exact .inr (.inl rfl)

theorem strOn_takes (s : State) {op : Nat} {d : Dev} {i : Nat} (takes : d.siteIn i (strStates op) = true) :
    strOn s op d i = strApply d op i := if_pos takes

theorem strOn_stopUnit (s : State) (op : Nat) (d : Dev) (i : Nat) : StopUnit d (strOn s op d i) := by
  have pended (d : Dev) : StopUnit d (d.pend i false) := rfl
  rcases strOn_cases s op d i with ⟨-, e⟩ | e | ⟨ty, unit, data, e⟩ <;> rw [e]
  · unfold strApply Dev.parkReq
    split
    · exact d.stopReq_stopUnit i 0x10
    · exact (d.stopReq_stopUnit i 0x10).trans (pended _)
  · exact StopUnit.refl d
  · exact d.logB_stopUnit _ _ _ _

/-- A site keeps its stop's state, and its pending PARK and RESUME. -/
structure SiteUntouched (i : Nat) (d d' : Dev) : Prop where
  site : SiteKept i d d'
  park : d'.get (K.SITE_PARK_PEND i) = d.get (K.SITE_PARK_PEND i)
  resume : d'.get (K.SITE_RESUME_PEND i) = d.get (K.SITE_RESUME_PEND i)

theorem SiteUntouched.refl (i : Nat) (d : Dev) : SiteUntouched i d d := ⟨SiteKept.refl i d, rfl, rfl⟩

theorem SiteUntouched.trans {i : Nat} {a b c : Dev} (h : SiteUntouched i a b) (k : SiteUntouched i b c) : SiteUntouched i a c :=
  ⟨h.site.trans k.site, k.park.trans h.park, k.resume.trans h.resume⟩

/-- PARK_PEND and RESUME_PEND are none of the fields that a stop request writes. -/
theorem stopKey_pend (s i : Nat) : ¬StopKey s (K.SITE_PARK_PEND i).key ∧ ¬StopKey s (K.SITE_RESUME_PEND i).key := by
  simp only [StopKey, MarkKey, stopFields, lostB, K.SITE_CAUSE, K.SITE_STOP_TTI_LO, K.SITE_STOP_TTI_HI, K.SITE_STOPS,
    K.SITE_PARK_PEND, K.SITE_RESUME_PEND, K.EVL_B_LOST_LO_COUNT_LO, K.EVL_B_LOST_HI_COUNT_HI, K.EVL_B_LOST_HI_OVF,
    List.map_cons, List.map_nil, List.mem_cons, List.not_mem_nil, or_false]
  omega

theorem stopReq_untouched (d : Dev) {b i : Nat} (cause : Nat) (ne : i ≠ b) : SiteUntouched i d (d.stopReq b cause) :=
  ⟨d.stopReq_siteKept cause ne, d.get_stopReq (stopKey_pend b i).1 cause, d.get_stopReq (stopKey_pend b i).2 cause⟩

theorem pend_untouched (d : Dev) {b i : Nat} (ne : i ≠ b) : SiteUntouched i d (d.pend b false) := by
  have kept {f : Fld} (park : f.key ≠ (K.SITE_PARK_PEND b).key) (resume : f.key ≠ (K.SITE_RESUME_PEND b).key) :
      (d.pend b false).get f = d.get f := (Dev.get_put_ne _ _ resume).trans (Dev.get_put_ne _ _ park)
  refine ⟨⟨kept ?_ ?_, kept ?_ ?_, rfl, rfl⟩, kept ?_ ?_, kept ?_ ?_⟩ <;>
  · simp only [K.SITE_SITE_STATE, K.SITE_CAUSE, K.SITE_PARK_PEND, K.SITE_RESUME_PEND]
    omega

theorem logB_untouched (d : Dev) (ty unit data : Nat) (site : Option Nat) (i : Nat) :
    SiteUntouched i d (d.logB ty unit data site) := by
  have kept {f : Fld} (low : f.key % 512 < 240) (small : f.key % 512 ≠ 0) : (d.logB ty unit data site).get f = d.get f :=
    d.get_logB_ne _ _ _ _ (keys_ne_of (by
      simp only [lostB, List.map_cons, List.map_nil, List.mem_cons, List.not_mem_nil, or_false, K.EVL_B_LOST_LO_COUNT_LO,
        K.EVL_B_LOST_HI_COUNT_HI, K.EVL_B_LOST_HI_OVF]
      omega))
  have sites : (d.logB ty unit data site).sites = d.sites := Dev.post_sites _ _
  refine ⟨⟨kept ?_ ?_, kept ?_ ?_, by simp only [Dev.site, sites], (d.logB_stopUnit _ _ _ _).clock⟩,
    kept ?_ ?_, kept ?_ ?_⟩ <;>
  · simp only [K.SITE_SITE_STATE, K.SITE_CAUSE, K.SITE_PARK_PEND, K.SITE_RESUME_PEND]
    omega

/-- A command on another site leaves a site alone. -/
theorem strOn_untouched (s : State) (op : Nat) (d : Dev) {b i : Nat} (ne : i ≠ b) : SiteUntouched i d (strOn s op d b) := by
  rcases strOn_cases s op d b with ⟨-, e⟩ | e | ⟨ty, unit, data, e⟩ <;> rw [e]
  · unfold strApply Dev.parkReq
    split
    · exact stopReq_untouched d 0x10 ne
    · exact (stopReq_untouched d 0x10 ne).trans (pend_untouched _ ne)
  · exact SiteUntouched.refl i d
  · exact logB_untouched d _ _ _ _ i

/-- A STOP or a PARK that a Running site has taken. -/
structure CommandTaken (op i t : Nat) (d : Dev) : Prop where
  stop : StopSampled i 0x10 t d
  park : op = 2 → d.get (K.SITE_PARK_PEND i) = 1 ∧ d.get (K.SITE_RESUME_PEND i) = 0

theorem CommandTaken.kept {op i t : Nat} {d d' : Dev} (h : CommandTaken op i t d) (k : SiteUntouched i d d') :
    CommandTaken op i t d' := by
  obtain ⟨stop, park⟩ := h
  refine ⟨stop.kept k.site, fun two => ?_⟩
  obtain ⟨pend, resume⟩ := park two
  exact ⟨k.park.trans pend, k.resume.trans resume⟩

theorem strApply_taken {op : Nat} {d : Dev} {i : Nat} (running : d.siteState i = 2) (first : d.stopGiven i = false) :
    CommandTaken op i d.clock (strApply d op i) := by
  have sampled : StopSampled i 0x10 d.clock (d.stopReq i 0x10) := Dev.stopReq_sampled (by decide) running first
  by_cases one : op = 1
  · rw [strApply, if_pos one]
    exact ⟨sampled, fun two => by omega⟩
  · rw [strApply, if_neg one]
    obtain ⟨cause, req⟩ := sampled
    have apart : (K.SITE_CAUSE i).key ≠ (K.SITE_PARK_PEND i).key ∧ (K.SITE_CAUSE i).key ≠ (K.SITE_RESUME_PEND i).key ∧
        (K.SITE_PARK_PEND i).key ≠ (K.SITE_RESUME_PEND i).key := by
      simp only [K.SITE_CAUSE, K.SITE_PARK_PEND, K.SITE_RESUME_PEND]; omega
    obtain ⟨park, resume, two⟩ := apart
    refine ⟨⟨?_, req⟩, fun _ => ⟨?_, Dev.get_put_same _ _ false (show 0 < 1 by decide)⟩⟩
    · exact (Dev.get_put_ne _ _ resume).trans ((Dev.get_put_ne _ _ park).trans cause)
    · exact (Dev.get_put_ne _ _ two).trans (Dev.get_put_same _ _ true (show 0 < 1 by decide))

/-- Both commands act on Running sites (R489, Table 1). -/
theorem running_takes {op : Nat} {d : Dev} {i : Nat} (running : d.siteState i = 2) : d.siteIn i (strStates op) = true := by
  rw [Dev.siteIn_of_state running, strStates]
  split <;> rfl

/-- Every Running site of the mask without a stop takes the command. -/
theorem strOn_each_taken (s : State) {op : Nat} {d : Dev} {l : List Nat} (nodup : l.Nodup) {i : Nat} (mem : i ∈ l)
    (running : d.siteState i = 2) (first : d.stopGiven i = false) : CommandTaken op i d.clock (d.each l (strOn s op)) := by
  obtain ⟨x, before, after⟩ := Dev.each_pass (SiteUntouched.refl i) SiteUntouched.trans mem nodup
    (fun d b _ ne => strOn_untouched s op d (Ne.symm ne)) d
  have kept := before.site
  have running' := kept.state.trans running
  rw [strOn_takes s (running_takes running')] at after
  exact kept.clock ▸ (strApply_taken running' (kept.stopGiven.trans first)).kept after

/-! ## STRING_COMMAND_EXEC -/

section

variable {s : State}

theorem stringCommandExec_early (early : ∀ c ∈ s.dev.cas.cmds, s.dev.tti < c.exec) :
    Gives .stringCommandExec s fun d => d = s.dev := by
  have none : (s.dev.cas.cmds.filter fun c => decide (c.exec ≤ s.dev.tti)) = [] :=
    List.filter_eq_nil_iff.mpr fun c hc => by have := early c hc; simp only [decide_eq_true_eq]; omega
  have idle : exec .stringCommandExec s = s.does id := by
    simp only [exec, execStringCommandExec, none, List.any_nil, List.filter_false, firstBy]
  exact gives_of_does idle rfl

variable {x : StrCmd} {l : List StrCmd} (queue : s.dev.cas.cmds = x :: l)

/-- The device with its oldest command taken out. -/
def commandTaken (d : Dev) (x : StrCmd) : Dev := d.modCas fun c => { c with cmds := c.cmds.erase x, late := x.late }

include queue

theorem commandTaken_cas : (commandTaken s.dev x).cas = { s.dev.cas with cmds := l, late := x.late } := by
  rw [commandTaken, Dev.modCas, queue, List.erase_cons_head]

variable (port : x.port = 0) (due : x.exec ≤ s.dev.tti)
include port due

/-- The oldest command is by STR0 and due: it is the one applied, on each site of its mask. -/
theorem stringCommandExec_due : exec .stringCommandExec s = State.doesAs (if x.op = 1 ∨ x.op = 2 then
      (allSites.filter fun i => bitAt x.sites i).foldl (fun s i => s.strSite x.op i) { s with dev := commandTaken s.dev x }
    else { s with dev := commandTaken s.dev x }) (2, x.op, 0) id := by
  have head : (s.dev.cas.cmds.filter fun c => decide (c.exec ≤ s.dev.tti)) =
      x :: l.filter fun c => decide (c.exec ≤ s.dev.tti) := by
    rw [queue]
    exact List.filter_cons_of_pos (decide_eq_true due)
  have first (q : List StrCmd) : firstBy (fun _ _ => false)
      ((List.range 3).filter fun p => (x :: q).any fun c => c.port == p) = some 0 := by
    have range : List.range 3 = [0, 1, 2] := rfl
    have step (r : List Nat) : r.foldl (fun m _ => m) 0 = 0 := by induction r <;> simp_all
    rw [range, List.filter_cons_of_pos (by simp [port])]
    exact congrArg some (step _)
  simp only [exec, execStringCommandExec, head, first, List.find?_cons_of_pos, port, beq_self_eq_true]
  rfl

/-- What STRING_COMMAND_EXEC leaves, by the OP. -/
theorem stringCommandExec_given {P : Dev → Prop} (given : P (if x.op = 1 ∨ x.op = 2 then
      (commandTaken s.dev x).each (allSites.filter fun i => bitAt x.sites i) (strOn s x.op)
    else commandTaken s.dev x)) : GivesAs (2, x.op, 0) .stringCommandExec s P := by
  refine ⟨_, (stringCommandExec_due queue port due).trans ?_, given⟩
  split
  · rw [foldl_strSite]; rfl
  · rfl

theorem stringCommandExec_nop (nop : x.op = 0) : GivesAs (2, x.op, 0) .stringCommandExec s fun d =>
    d.cas.cmds = l ∧ d.cas.late = x.late ∧ Still s.dev d ∧ d = { s.dev with cas := d.cas } := by
  refine stringCommandExec_given queue port due ?_
  have cas := commandTaken_cas queue
  rw [if_neg (by omega)]
  exact ⟨by rw [cas], by rw [cas], ⟨fun _ => rfl, fun _ => rfl⟩, rfl⟩

theorem stringCommandExec_stops (stops : x.op = 1 ∨ x.op = 2) : GivesAs (2, x.op, 0) .stringCommandExec s fun d =>
    d.cas.cmds = l ∧ d.cas.late = x.late ∧ Still s.dev d ∧ ∀ i, i < 64 → bitAt x.sites i = true →
      s.dev.siteState i = 2 → s.dev.stopGiven i = false →
        d.get (K.SITE_CAUSE i) = 0x10 ∧ (d.site i).req = some (0x10, s.dev.clock) ∧
        (x.op = 2 → d.get (K.SITE_PARK_PEND i) = 1 ∧ d.get (K.SITE_RESUME_PEND i) = 0) := by
  refine stringCommandExec_given queue port due ?_
  have cas := commandTaken_cas queue
  have taken : StringUnit s.dev (commandTaken s.dev x) := rfl
  have unit : StopUnit (commandTaken s.dev x)
      ((commandTaken s.dev x).each (allSites.filter fun i => bitAt x.sites i) (strOn s x.op)) :=
    Dev.each_stopUnit (strOn_stopUnit s x.op) _ _
  rw [if_pos stops]
  refine ⟨by rw [unit.cas, cas], by rw [unit.cas, cas], (taken.trans unit.string).still, fun i hi mine running first => ?_⟩
  obtain ⟨⟨cause, req⟩, park⟩ := strOn_each_taken s (op := x.op) (d := commandTaken s.dev x)
    (List.nodup_range.filter fun i => bitAt x.sites i) (List.mem_filter.mpr ⟨List.mem_range.mpr hi, mine⟩) running first
  exact ⟨cause, req, park⟩

end

section

variable {m : Master} {s : State} (hl : Lets s m 0x50020 true)
include hl

theorem casCmd_each {P : Dev → Prop} (given : ∀ o, o < 3 → P (s.dev.casCmd o)) :
    ∀ c ∈ [Instr.stringNop m, .stringStop m, .stringPark m], GivesBy m c s P := by
  intro c hc
  simp only [List.mem_cons, List.not_mem_nil, or_false] at hc
  rcases hc with rfl | rfl | rfl
  · exact casCmd_given hl (o := 0) rfl (by decide) (given 0 (by decide))
  · exact casCmd_given hl (o := 1) rfl (by decide) (given 1 (by decide))
  · exact casCmd_given hl (o := 2) rfl (by decide) (given 2 (by decide))

/-- A write of CAS_CMD on a device that is no lead. -/
theorem casCmd_refused (op : BitVec 3) (other : s.dev.roleIs 1 = false) :
    (∀ c ∈ [Instr.stringNop m, .stringStop m, .stringPark m], GivesBy m c s (ResultOnly 2 s.dev)) ∧
      GivesBy m (.stringBadOp m op) s (ResultOnly 2 s.dev) := by
  have refused (o : Nat) : ResultOnly 2 s.dev (s.dev.casCmd o) := by
    rw [casCmd_notLead other]; exact set_resultOnly _ (by decide)
  exact ⟨casCmd_each hl fun o _ => refused o, casCmd_given hl (o := op.toNat) rfl op.isLt (refused _)⟩

variable (lead : s.dev.roleIs 1 = true)
include lead

theorem stringBadOp_refused (op : BitVec 3) (bad : 3 ≤ op.toNat) : GivesBy m (.stringBadOp m op) s (ResultOnly 4 s.dev) := by
  refine casCmd_given hl (o := op.toNat) rfl op.isLt ?_
  rw [casCmd_badOp lead bad]
  exact set_resultOnly _ (by decide)

theorem casCmd_turned (flight : ∃ t, s.dev.cas.flight = some t ∧ s.dev.tti < t) :
    ∀ c ∈ [Instr.stringNop m, .stringStop m, .stringPark m], GivesBy m c s (ResultOnly 3 s.dev) :=
  casCmd_each hl fun o known => by
    rw [casCmd_busy lead known flight]
    exact set_resultOnly _ (by decide)

theorem casCmd_sends (free : ∀ t, s.dev.cas.flight = some t → t ≤ s.dev.tti) :
    GivesBy m (.stringNop m) s (CommandSent 0 s.dev) ∧ GivesBy m (.stringStop m) s (CommandSent 1 s.dev) ∧
      GivesBy m (.stringPark m) s (CommandSent 2 s.dev) := by
  have sent (o : Nat) (known : o < 3) : CommandSent o s.dev (s.dev.casCmd o) := by
    rw [casCmd_free lead known free]; exact commandSent_sent _ _
  exact ⟨casCmd_given hl (o := 0) rfl (by decide) (sent 0 (by decide)),
    casCmd_given hl (o := 1) rfl (by decide) (sent 1 (by decide)),
    casCmd_given hl (o := 2) rfl (by decide) (sent 2 (by decide))⟩

end

/-- Settles O47: frames keep, correct or end the time of the String, holdover has its deadline, and commands are sent, kept
and applied. -/
theorem stringTimeAndCommands : Obligations.StringTimeAndCommands := by
  intro m port f op pos sites exec s
  refine ⟨timeFrame_down f, fun up role lead other => ⟨timeFrame_dualLead up role lead other,
      timeFrame_ring up role lead other, timeFrame_chain up role lead other⟩,
    fun up role way other => ⟨timeFrame_overflow up role way other, timeFrame_position up role way other⟩,
    fun up role way carries none room => ?_, blockLockLoss_down port s, blockLockLoss_drops,
    fun up carries calm => blockLockLoss_holds up carries.1 carries.2 calm,
    fun carries calm silent => silence_holds s carries.1 carries.2 calm silent, silence_none s, holdoverDeadline_none s,
    fun _ held due => holdoverDeadline_stops s held due, ⟨fun up way role =>
      ⟨fun mine => arrival_queues op pos sites exec up way role mine.1 mine.2, arrival_passes op pos sites exec up way role⟩,
      arrival_refused op pos sites exec, fun hl => ⟨casCmd_refused hl op, fun lead => ⟨stringBadOp_refused hl lead op,
        casCmd_turned hl lead, casCmd_sends hl lead⟩⟩⟩, stringCommandExec_early,
    fun x l queue first due => ⟨stringCommandExec_nop queue first due,
      fun stops _ => stringCommandExec_stops queue first due stops⟩⟩
  obtain ⟨src, locked⟩ := carries
  exact ⟨timeFrame_agrees up role way src locked none room,
    fun same calm t hold => timeFrame_holds up role way src locked none room same calm hold,
    timeFrame_disagrees up role way src locked none room⟩

/-! ## Devices that the clauses speak of -/

/-- A follower takes its time by port 0 and site 5 runs. -/
def following : State :=
  { State.outOfReset with dev := { (((((State.outOfReset.dev.set K.CAS_STATUS_ROLE_OK 1).set K.CAS_CTRL_ROLE 2).set
      K.TIM_STATUS_SRC_ACTIVE 1).set K.TIM_STATUS_LOCKED 1).set (K.SITE_SITE_STATE 5) 2) with
      time := { State.outOfReset.dev.time with tti := 800 }
      cas := { State.outOfReset.dev.cas with ports := 1 } } }

theorem following_stops : GivesAs (3, 0x0E, 0) (.timeFrame 0 ⟨801, none, 3, none⟩) following fun d =>
    d.get K.TIM_STATUS_TTI_MISMATCH = 1 ∧ d.get (K.SITE_CAUSE 5) = 0x0E := by
  obtain ⟨d, run, mismatch, -, stops, -⟩ := timeFrame_disagrees (port := 0) (f := ⟨801, none, 3, none⟩) (s := following)
    (by decide) (by decide) (by decide) (by decide) (by decide) (by decide) (by decide) (by decide)
  obtain ⟨given, -⟩ := stops 5 (by decide)
  exact ⟨d, run, mismatch, (given (by decide) (by decide) (by decide)).1⟩

/-- A STOP by STR0 is due and names site 5, which runs. -/
def commanded : State :=
  { following with dev := { following.dev with cas := { following.dev.cas with cmds := [⟨0, 1, 32, 700, false⟩] } } }

theorem commanded_stops : GivesAs (2, 1, 0) .stringCommandExec commanded fun d =>
    d.cas.cmds = [] ∧ (d.site 5).req = some (0x10, commanded.dev.clock) := by
  obtain ⟨d, run, cmds, -, -, taken⟩ := stringCommandExec_stops (s := commanded) (x := ⟨0, 1, 32, 700, false⟩) (l := [])
    rfl rfl (by decide) (.inl rfl)
  exact ⟨d, run, cmds, (taken 5 (by decide) (by decide) (by decide) (by decide)).2.1⟩

end Sys2Proof.Slice0
end

section
/-! CERTIFICATE. The schedule tables: ARM, DISARM and the copies of a start (R110, R111, R113). -/

open Sys2Proof Sys2Proof.Machine

namespace Sys2Proof.Slice0

/-! ## Word 2 of an entry (R110) -/

section

variable {m : Master} {t : TblId} {e : Fin 256} {s : State} (hl : Lets s m (schedWord2 t e) true)
include hl

/-- A write of word 2 of an entry that the hub lets through is judged by the schedule unit. -/
theorem busWrite_schedWord2 (w : Nat) : s.busWrite m (schedWord2 t e) w = s.schedWrite t e w := by
  obtain ⟨reach, dark⟩ := hl
  have ht := t.isLt
  have he := e.isLt
  have addr : schedWord2 t e = 0x41000 + 4096 * t.val + 16 * e.val + 8 := rfl
  have way : s.dev.regReach m (schedWord2 t e) true = (s.dev, true) := Prod.ext (Dev.regReach_fst reach) reach
  have port (d : Dev) : d.portFault m (schedWord2 t e) = d := by
    cases m <;> simp [Dev.portFault, isPort_eq_false (.inr (show 0x40000 ≤ schedWord2 t e by omega))]
  have tbl : (schedWord2 t e - 0x41000) / 4096 = t.val := by omega
  have entry : schedWord2 t e % 4096 / 16 = e.val := by omega
  have word : 0x41000 ≤ schedWord2 t e ∧ schedWord2 t e < 0x47000 ∧ schedWord2 t e % 16 = 8 := by omega
  simp only [State.busWrite, way, State.regWrite, dark, Bool.false_eq_true, if_false, show schedWord2 t e ≠ 0x4C by omega,
    show schedWord2 t e ≠ 0x104 by omega, word, and_self, if_true, tbl, entry, State.onDev, port]

variable (w : Word) (present : s.dev.tblPresent t = true)
include present

/-- An entry in use takes no write (R110). -/
theorem arm_inUse (used : s.dev.schedFree t e = false) : Gives (.arm m t e w) s fun d => d = s.dev := by
  have arm : bitAt (w.toNat % 2 ^ 20 + 2 ^ 27) 27 = true := by simp only [bitAt, beq_iff_eq]; omega
  have dis : bitAt (w.toNat % 2 ^ 20 + 2 ^ 27) 28 = false := by simp only [bitAt, beq_eq_false_iff_ne]; omega
  refine ⟨s.dev, congrArg Host.Outcome.next ((busWrite_schedWord2 hl _).trans ?_), rfl⟩
  simp only [State.schedWrite, present, arm, dis, used, Bool.not_true, Bool.false_eq_true, Bool.not_false, Bool.and_self,
    if_false, if_true]

/-- The entry as a write of word 2 leaves it before it is judged. -/
def wordSet (d : Dev) (t e w : Nat) : Dev :=
  ((d.set (K.SCHED_ACTION t e) w).set (K.SCHED_TARGET t e) (w / 256)).set (K.SCHED_SUB t e) (w / 2 ^ 16)

theorem arm_judges (free : s.dev.schedFree t e = true) {P : Dev → Prop} (given : P ((wordSet s.dev t e w.toNat).armEntry t e)) :
    GivesAs (6, 1, e) (.arm m t e w) s P := by
  have arm : bitAt (w.toNat % 2 ^ 20 + 2 ^ 27) 27 = true := by simp only [bitAt, beq_iff_eq]; omega
  have dis : bitAt (w.toNat % 2 ^ 20 + 2 ^ 27) 28 = false := by simp only [bitAt, beq_eq_false_iff_ne]; omega
  have same {f : Fld} {u v : Nat} (d : Dev) (h : u % 2 ^ f.width = v % 2 ^ f.width) : d.set f u = d.set f v := by
    rw [Dev.set, h, Dev.set]
  have action (d : Dev) : d.set (K.SCHED_ACTION t e) (bitsAt (w.toNat % 2 ^ 20 + 2 ^ 27) 0 8) =
      d.set (K.SCHED_ACTION t e) w.toNat :=
    same d (by simp only [K.SCHED_ACTION, bitsAt]; omega)
  have target (d : Dev) : d.set (K.SCHED_TARGET t e) (bitsAt (w.toNat % 2 ^ 20 + 2 ^ 27) 8 8) =
      d.set (K.SCHED_TARGET t e) (w.toNat / 256) :=
    same d (by simp only [K.SCHED_TARGET, bitsAt]; omega)
  have sub (d : Dev) : d.set (K.SCHED_SUB t e) (bitsAt (w.toNat % 2 ^ 20 + 2 ^ 27) 16 4) =
      d.set (K.SCHED_SUB t e) (w.toNat / 2 ^ 16) :=
    same d (by simp only [K.SCHED_SUB, bitsAt]; omega)
  refine ⟨(wordSet s.dev t e w.toNat).armEntry t e, congrArg Host.Outcome.next ((busWrite_schedWord2 hl _).trans ?_), given⟩
  simp only [State.schedWrite, present, arm, dis, free, Bool.not_true, Bool.false_eq_true, Bool.not_false, Bool.and_self,
    if_false, if_true, State.onDev, action, target, sub]
  rfl

theorem disarm_cancels (armed : s.dev.schedState t e = 1) : GivesAs (6, 2, e) (.disarm m t e w) s fun d =>
    d.get (K.SCHED_STATE t e) = 4 ∧ d.get (K.SCHED_RESULT t e) = 0 ∧ BytesKept s.dev d := by
  have arm : bitAt (w.toNat % 2 ^ 20 + 2 ^ 28) 27 = false := by simp only [bitAt, beq_eq_false_iff_ne]; omega
  have dis : bitAt (w.toNat % 2 ^ 20 + 2 ^ 28) 28 = true := by simp only [bitAt, beq_iff_eq]; omega
  have used : s.dev.schedFree t e = false := by simp [Dev.schedFree, armed, seARMED]
  refine ⟨s.dev.schedEnd t e seCANCELLED 0, congrArg Host.Outcome.next ((busWrite_schedWord2 hl _).trans ?_),
    s.dev.cancelled_schedEnd t e 0, s.dev.result_schedEnd t e _ 0, (s.dev.schedEnd_stopUnit t e _ _).bytes⟩
  simp only [State.schedWrite, present, arm, dis, used, Bool.not_true, Bool.false_eq_true, Bool.not_false, Bool.and_self,
    if_false, if_true, State.judge, armed, seARMED, beq_self_eq_true]
  rfl

end

/-! ## The judgement of an ARM (R111, R113, R471) -/

/-- The fields of word 2 of an entry. -/
def wordFields (t e : Nat) : List Fld :=
  [K.SCHED_ACTION t e, K.SCHED_TARGET t e, K.SCHED_SUB t e, K.SCHED_STATE t e, K.SCHED_RESULT t e]

section

variable (d : Dev) (t e w : Nat)

theorem wordSet_only : FieldsOnly d (wordSet d t e w) (wordFields t e) :=
  (((FieldsOnly.refl d _).set w ⟨K.SCHED_ACTION t e, by simp [wordFields], rfl⟩).set _
    ⟨K.SCHED_TARGET t e, by simp [wordFields], rfl⟩).set _ ⟨K.SCHED_SUB t e, by simp [wordFields], rfl⟩

theorem schedMark_only {x : Dev} (h : FieldsOnly d x (wordFields t e)) (st res : Nat) :
    FieldsOnly d (x.schedMark t e st res) (wordFields t e) :=
  (h.set st ⟨K.SCHED_STATE t e, by simp [wordFields], rfl⟩).set res ⟨K.SCHED_RESULT t e, by simp [wordFields], rfl⟩

theorem wordSet_action : (wordSet d t e w).get (K.SCHED_ACTION t e) = w % 256 :=
  (Dev.get_set_ne _ _ (by simp [K.SCHED_ACTION, K.SCHED_SUB])).trans
    ((Dev.get_set_ne _ _ (by simp [K.SCHED_ACTION, K.SCHED_TARGET])).trans (Dev.get_set_same _ _ _))

theorem wordSet_target : (wordSet d t e w).get (K.SCHED_TARGET t e) = w / 256 % 256 :=
  (Dev.get_set_ne _ _ (by simp [K.SCHED_TARGET, K.SCHED_SUB])).trans (Dev.get_set_same _ _ _)

theorem wordSet_schedTti : (wordSet d t e w).schedTti t e = d.schedTti t e := by
  have kept := (wordSet_only d t e w).2
  have lo : (wordSet d t e w).get (K.SCHED_TTI_LO t e) = d.get (K.SCHED_TTI_LO t e) :=
    kept _ (by simp [wordFields, K.SCHED_TTI_LO, K.SCHED_ACTION, K.SCHED_TARGET, K.SCHED_SUB, K.SCHED_STATE, K.SCHED_RESULT])
  have hi : (wordSet d t e w).get (K.SCHED_TTI_HI t e) = d.get (K.SCHED_TTI_HI t e) :=
    kept _ (by simp [wordFields, K.SCHED_TTI_HI, K.SCHED_ACTION, K.SCHED_TARGET, K.SCHED_SUB, K.SCHED_STATE, K.SCHED_RESULT])
  simp only [Dev.schedTti, Dev.get2, lo, hi]

theorem state_schedMark (x : Dev) (st res : Nat) : (x.schedMark t e st res).get (K.SCHED_STATE t e) = st % 8 :=
  (Dev.get_set_ne _ _ (by simp [K.SCHED_STATE, K.SCHED_RESULT])).trans (Dev.get_set_same _ _ _)

theorem result_schedMark (x : Dev) (st res : Nat) : (x.schedMark t e st res).get (K.SCHED_RESULT t e) = res % 8 :=
  Dev.get_set_same _ _ _

end

/-- The marks of an entry are read through a class B record. -/
theorem get_logB_mark (d : Dev) (ty unit data : Nat) (site : Option Nat) {f : Fld} (mark : MarkKey f.key) :
    (d.logB ty unit data site).get f = d.get f :=
  d.get_logB_ne _ _ _ _ (keys_ne_of (by
    simp only [MarkKey] at mark
    simp only [lostB, List.map_cons, List.map_nil, List.mem_cons, List.not_mem_nil, or_false, K.EVL_B_LOST_LO_COUNT_LO,
      K.EVL_B_LOST_HI_COUNT_HI, K.EVL_B_LOST_HI_OVF]
    omega))

/-- The dies that an ARM wakes: a loop that leaves a device alone when every die is Active. -/
theorem each_awake {d : Dev} {l : List Nat} (awake : ∀ k ∈ l, d.deepState k = 0) :
    d.each l (fun d n => if d.deepState n = 0 then d else d.wakeDie n) = d := by
  unfold Dev.each
  induction l with
  | nil => rfl
  | cons n l ih =>
    rw [List.foldl_cons, if_pos (awake n (List.mem_cons_self ..))]
    exact ih fun k hk => awake k (List.mem_cons_of_mem n hk)

section

variable {x : Dev} {t e : Nat}

theorem armEntry_refused (bad : x.targetOk t e = false) : x.armEntry t e = x.schedMark t e seREFUSED srBAD_TARGET := by
  rw [Dev.armEntry, bad]
  rfl

variable (ok : x.targetOk t e = true)
include ok

theorem armEntry_missed (late : x.schedTti t e < x.tti + minLead (x.get (K.SCHED_ACTION t e))) :
    x.armEntry t e = (x.schedMark t e seMISSED srTOO_LATE).schedLog 0x102 t e srTOO_LATE (x.schedSite t e) := by
  rw [Dev.armEntry, ok]
  exact if_pos late

/-- An ARMED entry: a start is to be placed on its dies too. -/
def entryArmed (x : Dev) (t e : Nat) : Dev :=
  if x.get (K.SCHED_ACTION t e) = acSITE_START then
    { x.schedMark t e seARMED 0 with sched := { x.sched with placing := x.sched.placing ++ [e] } }
  else x.schedMark t e seARMED 0

theorem armEntry_armed (early : x.tti + minLead (x.get (K.SCHED_ACTION t e)) ≤ x.schedTti t e)
    (awake : ∀ k ∈ x.wakeDies t e, x.deepState k = 0 ∧ x.wakeInTime k (x.schedTti t e - x.tti) = true) :
    x.armEntry t e = entryArmed x t e := by
  have late : ((x.wakeDies t e).any fun n => !x.wakeInTime n (x.schedTti t e - x.tti)) = false :=
    List.any_eq_false.mpr fun k hk => by simp [(awake k hk).2]
  have wakes := each_awake fun k hk => (awake k hk).1
  simp only [Dev.armEntry, ok, Bool.not_true, Bool.false_eq_true, if_false, show ¬x.schedTti t e < x.tti +
    minLead (x.get (K.SCHED_ACTION t e)) by omega, late, wakes]
  rfl

end

section

variable {m : Master} {t : TblId} {e : Fin 256} {w : Word} {s : State} (hl : Lets s m (schedWord2 t e) true)
  (present : s.dev.tblPresent t = true) (free : s.dev.schedFree t e = true)
include hl present free

theorem arm_refused (bad : (wordSet s.dev t e w.toNat).targetOk t e = false) : GivesAs (6, 1, e) (.arm m t e w) s fun d =>
    d.get (K.SCHED_STATE t e) = 5 ∧ d.get (K.SCHED_RESULT t e) = 4 ∧ FieldsOnly s.dev d (wordFields t e) := by
  refine arm_judges hl w present free ?_
  rw [armEntry_refused bad]
  exact ⟨state_schedMark _ _ _ _ _, result_schedMark _ _ _ _ _, schedMark_only _ _ _ (wordSet_only _ _ _ _) _ _⟩

variable (ok : (wordSet s.dev t e w.toNat).targetOk t e = true)
include ok

theorem arm_missed (late : s.dev.schedTti t e < s.dev.tti + minLead (w.toNat % 256)) :
    GivesAs (6, 1, e) (.arm m t e w) s fun d =>
      d.get (K.SCHED_STATE t e) = 3 ∧ d.get (K.SCHED_RESULT t e) = 1 ∧ BytesKept s.dev d := by
  refine arm_judges hl w present free ?_
  have tti : (wordSet s.dev t e w.toNat).tti = s.dev.tti := rfl
  rw [armEntry_missed ok (by rw [wordSet_schedTti, wordSet_action, tti]; exact late)]
  refine ⟨(get_logB_mark _ _ _ _ _ (markKey_state t e)).trans (state_schedMark _ _ _ _ _),
    (get_logB_mark _ _ _ _ _ (markKey_result t e)).trans (result_schedMark _ _ _ _ _), ?_⟩
  have set : StopUnit s.dev ((wordSet s.dev t e w.toNat).schedMark t e seMISSED srTOO_LATE) := rfl
  exact (set.trans (Dev.schedLog_stopUnit _ _ _ _ _ _)).bytes

theorem arm_arms (early : s.dev.tti + minLead (w.toNat % 256) ≤ s.dev.schedTti t e)
    (awake : ∀ k ∈ (wordSet s.dev t e w.toNat).wakeDies t e, (wordSet s.dev t e w.toNat).deepState k = 0 ∧
      (wordSet s.dev t e w.toNat).wakeInTime k (s.dev.schedTti t e - s.dev.tti) = true) :
    GivesAs (6, 1, e) (.arm m t e w) s fun d =>
      d.get (K.SCHED_STATE t e) = 1 ∧ d.get (K.SCHED_RESULT t e) = 0 ∧ d.get (K.SCHED_ACTION t e) = w.toNat % 256 ∧
      d.get (K.SCHED_TARGET t e) = w.toNat / 256 % 256 ∧ FieldsKept s.dev d (wordFields t e) ∧
      d = { s.dev with regs := d.regs, sched := d.sched } := by
  refine arm_judges hl w present free ?_
  have tti : (wordSet s.dev t e w.toNat).tti = s.dev.tti := rfl
  have regs : (entryArmed (wordSet s.dev t e w.toNat) t e).regs =
      ((wordSet s.dev t e w.toNat).schedMark t e seARMED 0).regs := by
    unfold entryArmed; split <;> rfl
  have get (f : Fld) : (entryArmed (wordSet s.dev t e w.toNat) t e).get f =
      ((wordSet s.dev t e w.toNat).schedMark t e seARMED 0).get f := by simp only [Dev.get, regs]
  have unmarked {f : Fld} (state : f.key ≠ (K.SCHED_STATE t e).key) (result : f.key ≠ (K.SCHED_RESULT t e).key) :
      ((wordSet s.dev t e w.toNat).schedMark t e seARMED 0).get f = (wordSet s.dev t e w.toNat).get f :=
    (Dev.get_set_ne _ _ result).trans (Dev.get_set_ne _ _ state)
  rw [armEntry_armed ok (by rw [wordSet_schedTti, wordSet_action, tti]; exact early)
    (by rw [wordSet_schedTti, tti]; exact awake)]
  refine ⟨(get _).trans (state_schedMark _ _ _ _ _), (get _).trans (result_schedMark _ _ _ _ _), (get _).trans ?_,
    (get _).trans ?_, fun f hf => (get f).trans ?_, ?_⟩
  · rw [unmarked (by simp [K.SCHED_ACTION, K.SCHED_STATE]) (by simp [K.SCHED_ACTION, K.SCHED_RESULT]), wordSet_action]
  · rw [unmarked (by simp [K.SCHED_TARGET, K.SCHED_STATE]) (by simp [K.SCHED_TARGET, K.SCHED_RESULT]), wordSet_target]
  · exact (schedMark_only _ _ _ (wordSet_only s.dev t e w.toNat) seARMED 0).2 f hf
  · unfold entryArmed; split <;> rfl

end

end Sys2Proof.Slice0
end

section
/-! CERTIFICATE. The schedule tables: copies and hits (R112 to R115, R118, R230, R473, R507). -/

open Sys2Proof Sys2Proof.Machine

namespace Sys2Proof.Slice0

/-! ## The copies of an armed start (R113) -/

/-- The copy of hub entry `e` at the same index of die `n`'s table. -/
def copyFields (d : Dev) (e n : Nat) : Dev :=
  let t := n + 2
  let d := (d.set (K.SCHED_TTI_LO t e) (d.get (K.SCHED_TTI_LO 0 e))).set (K.SCHED_TTI_HI t e) (d.get (K.SCHED_TTI_HI 0 e))
  let d := (d.set (K.SCHED_ACTION t e) (d.get (K.SCHED_ACTION 0 e))).set (K.SCHED_TARGET t e) (d.get (K.SCHED_TARGET 0 e))
  let d := (d.set (K.SCHED_SUB t e) (d.get (K.SCHED_SUB 0 e))).set (K.SCHED_ARG t e) (d.get (K.SCHED_ARG 0 e))
  d.schedMark t e seLINKED 0

/-- The copy with its link to the hub entry. -/
def copyPlaced (d : Dev) (e n : Nat) : Dev :=
  let d := copyFields d e n
  { d with sched := { d.sched with links := tblPut d.sched.links (256 * (n + 2) + e) e } }

theorem placeAll_one {d : Dev} {e n : Nat} (free : d.schedFree (n + 2) e = true) :
    d.placeAll e [n] = some (copyPlaced d e n) := by
  have copy : d.placeCopy e n = some (copyPlaced d e n) := by
    rw [Dev.placeCopy, if_pos free]
    rfl
  rw [Dev.placeAll, copy]
  rfl

/-- The fields of entry `e` of die `n`'s table that a copy is written to. -/
def copyTargets (e n : Nat) : List Fld := [K.SCHED_TTI_LO (n + 2) e, K.SCHED_TTI_HI (n + 2) e, K.SCHED_ACTION (n + 2) e,
  K.SCHED_TARGET (n + 2) e, K.SCHED_SUB (n + 2) e, K.SCHED_ARG (n + 2) e, K.SCHED_STATE (n + 2) e, K.SCHED_RESULT (n + 2) e]

section

variable (d : Dev) (e n : Nat)

theorem copyFields_kept : FieldsKept d (copyFields d e n) (copyTargets e n) := by
  intro f hf
  have apart (g : Fld) (hg : g ∈ copyTargets e n) : f.key ≠ g.key := hf g hg
  simp only [copyTargets, List.forall_mem_cons] at apart
  obtain ⟨lo, hi, action, target, sub, arg, state, result, -⟩ := apart
  simp only [copyFields, Dev.schedMark, Dev.get_set_ne _ _ lo, Dev.get_set_ne _ _ hi, Dev.get_set_ne _ _ action,
    Dev.get_set_ne _ _ target, Dev.get_set_ne _ _ sub, Dev.get_set_ne _ _ arg, Dev.get_set_ne _ _ state,
    Dev.get_set_ne _ _ result]

/-- The copy names the time and the site of the hub entry, and is LINKED. -/
theorem copyFields_copies :
    (copyFields d e n).get (K.SCHED_STATE (n + 2) e) = 7 ∧
    (copyFields d e n).get (K.SCHED_TTI_LO (n + 2) e) = d.get (K.SCHED_TTI_LO 0 e) % 2 ^ 32 ∧
    (copyFields d e n).get (K.SCHED_TTI_HI (n + 2) e) = d.get (K.SCHED_TTI_HI 0 e) % 2 ^ 32 ∧
    (copyFields d e n).get (K.SCHED_TARGET (n + 2) e) = d.get (K.SCHED_TARGET 0 e) % 256 := by
  refine ⟨?_, ?_, ?_, ?_⟩ <;>
  · simp (disch := (simp only [K.SCHED_TTI_LO, K.SCHED_TTI_HI, K.SCHED_ACTION, K.SCHED_TARGET, K.SCHED_SUB, K.SCHED_ARG,
      K.SCHED_STATE, K.SCHED_RESULT]; omega)) only [copyFields, Dev.schedMark, Dev.get_set_ne, Dev.get_set_same]
    rfl

theorem copyPlaced_unit : copyPlaced d e n = { d with regs := (copyPlaced d e n).regs, sched := (copyPlaced d e n).sched } := rfl

end

section

variable {e : Fin 256} {s : State} (placing : e.val ∈ s.dev.sched.placing) (armed : s.dev.schedState 0 e = 1)

/-- The device once the entry is no longer to be placed. -/
def placingTaken (d : Dev) (e : Nat) : Dev := { d with sched := { d.sched with placing := d.sched.placing.filter (· != e) } }

include placing armed

theorem placement_given {P : Dev → Prop} (given : P (if (s.dev.siteDies (s.dev.get (K.SCHED_TARGET 0 e))).any s.dev.dieDown then
      (placingTaken s.dev e).schedEnd 0 e seCANCELLED 0
    else match (placingTaken s.dev e).placeAll e (s.dev.siteDies (s.dev.get (K.SCHED_TARGET 0 e))) with
      | some d => d
      | none => ((placingTaken s.dev e).schedEnd 0 e seREFUSED srTABLE_FULL).schedLog 0x103 0 e srTABLE_FULL
          (some (s.dev.get (K.SCHED_TARGET 0 e))))) : Gives (.linkedCopyPlacement e) s P :=
  gives_of_effect rfl (if_neg (by simp [placing, armed, seARMED])) given

theorem placement_cancels (down : (s.dev.siteDies (s.dev.get (K.SCHED_TARGET 0 e))).any s.dev.dieDown = true) :
    Gives (.linkedCopyPlacement e) s fun d => d.get (K.SCHED_STATE 0 e) = 4 := by
  refine placement_given placing armed ?_
  rw [if_pos down]
  exact Dev.cancelled_schedEnd _ 0 e 0

theorem placement_places {n : Die} (dies : s.dev.siteDies (s.dev.get (K.SCHED_TARGET 0 e)) = [n.val])
    (up : s.dev.dieDown n = false) (free : s.dev.schedFree (n.val + 2) e = true) :
    Gives (.linkedCopyPlacement e) s fun d =>
      d.get (K.SCHED_STATE (n.val + 2) e) = 7 ∧
      d.get (K.SCHED_TTI_LO (n.val + 2) e) = s.dev.get (K.SCHED_TTI_LO 0 e) % 2 ^ 32 ∧
      d.get (K.SCHED_TTI_HI (n.val + 2) e) = s.dev.get (K.SCHED_TTI_HI 0 e) % 2 ^ 32 ∧
      d.get (K.SCHED_TARGET (n.val + 2) e) = s.dev.get (K.SCHED_TARGET 0 e) % 256 ∧
      tblFind d.sched.links (256 * (n.val + 2) + e) = some e.val ∧ e.val ∉ d.sched.placing ∧
      d.get (K.SCHED_STATE 0 e) = 1 ∧ d = { s.dev with regs := d.regs, sched := d.sched } := by
  refine placement_given placing armed ?_
  have placed : (placingTaken s.dev e).placeAll e [n.val] = some (copyPlaced (placingTaken s.dev e) e n) := placeAll_one free
  obtain ⟨state, lo, hi, target⟩ := copyFields_copies (placingTaken s.dev e) e n
  have own : (copyFields (placingTaken s.dev e) e n).get (K.SCHED_STATE 0 e) = s.dev.get (K.SCHED_STATE 0 e) := by
    refine copyFields_kept (placingTaken s.dev e) e n _ ?_
    simp only [copyTargets, List.forall_mem_cons, K.SCHED_TTI_LO, K.SCHED_TTI_HI, K.SCHED_ACTION, K.SCHED_TARGET,
      K.SCHED_SUB, K.SCHED_ARG, K.SCHED_STATE, K.SCHED_RESULT]
    refine ⟨?_, ?_, ?_, ?_, ?_, ?_, ?_, ?_, fun _ h => absurd h List.not_mem_nil⟩ <;> omega
  rw [dies, if_neg (by simp [up]), placed]
  exact ⟨state, lo, hi, target, tblFind_put_same _ _ _, by simp [copyPlaced, copyFields, Dev.schedMark, Dev.set, placingTaken],
    own.trans armed, rfl⟩

end

/-! ## A start at its tick (R114, R118) -/

/-- A site that enters Running raises no interrupt (R309, R501). -/
theorem setSiteState_running (d : Dev) (i : Nat) :
    d.setSiteState i stRunning = (d.set (K.SITE_SITE_STATE i) stRunning).refreshMode := by
  have quiet : ¬(d.siteState i ≠ stRunning ∧ (stRunning = stRocking ∨ stRunning = stParked ∨ stRunning = stAborted)) := by
    simp [stRunning, stRocking, stParked, stAborted]
  simp only [Dev.setSiteState, if_neg quiet]

/-- An entry's marks lie in no field that a start of a site writes. -/
theorem get_startSite (d : Dev) (i : Nat) {f : Fld} (mark : MarkKey f.key) : (d.startSite i).get f = d.get f := by
  have apart {g : Fld} (h : g.key % 32 ≠ 24 ∧ g.key % 32 ≠ 29) : f.key ≠ g.key := by
    simp only [MarkKey] at mark; omega
  have domain (d : Dev) (n p t : Nat) : (d.pdStart n p t).get f = d.get f :=
    Dev.get_put_ne d true (apart (by simp only [K.TGN_PD_CFG_RUN]; omega))
  have channel (d : Dev) (c : Nat) : (d.unpark c).get f = d.get f :=
    Dev.get_set_ne d _ (apart (by simp only [K.PED_PARKED]; omega))
  have running (d : Dev) (q : Nat) : (d.setCoreState q csRUN).get f = d.get f :=
    Dev.get_set_ne d _ (apart (by simp only [K.SEQ_STATUS_STATE]; omega))
  have solver (d : Dev) (v : Nat) : (d.set (K.RPSE_STATE i) v).get f = d.get f :=
    Dev.get_set_ne d _ (apart (by simp only [K.RPSE_STATE]; omega))
  have record (d : Dev) (ty data : Nat) : (d.rpsLog ty data i).get f = d.get f :=
    Dev.get_post_b d rfl (keys_ne_of (by
      simp only [MarkKey] at mark
      simp only [lostB, List.map_cons, List.map_nil, List.mem_cons, List.not_mem_nil, or_false, K.EVL_B_LOST_LO_COUNT_LO,
        K.EVL_B_LOST_HI_COUNT_HI, K.EVL_B_LOST_HI_OVF]
      omega))
  have cancelled (d : Dev) : (d.cancelSolve i).get f = d.get f := by
    unfold Dev.cancelSolve
    split
    · exact (record _ _ _).trans (solver _ _)
    · rfl
  have context (d : Dev) (g : RCtx → RCtx) : (d.modRps i g).get f = d.get f := by
    unfold Dev.modRps; split <;> rfl
  have collects (d : Dev) : (d.rpsRunning i).get f = d.get f := by
    unfold Dev.rpsRunning
    dsimp only
    split
    · rfl
    · split
      · exact (context _ _).trans ((solver _ _).trans (cancelled d))
      · exact (context _ _).trans (cancelled d)
  have state (d : Dev) : (d.setSiteState i stRunning).get f = d.get f := by
    rw [setSiteState_running]
    exact (Dev.get_refreshMode _ (apart (by decide))).trans
      (Dev.get_set_ne d _ (apart (by simp only [K.SITE_SITE_STATE]; omega)))
  have runs (d : Dev) : (d.enterRunning i).get f = d.get f := by
    unfold Dev.enterRunning
    dsimp only
    rw [state, collects, Dev.get_modSite]
    refine (Dev.each_keeps (fun d => d.get f) _ _ _ fun d n => ?_).trans
      (Dev.each_keeps (fun d => d.get f) _ _ _ fun d q => ?_)
    · rfl
    · exact (running _ q).trans rfl
  unfold Dev.startSite
  refine (runs _).trans ((Dev.each_keeps (fun d => d.get f) _ _ _ channel).trans
    (Dev.each_keeps (fun d => d.get f) _ _ _ fun d q => ?_))
  split
  · rfl
  · exact domain _ _ _ _

/-- A site that starts is Running. -/
theorem siteState_startSite (d : Dev) (i : Nat) : (d.startSite i).siteState i = 2 := by
  have state (d : Dev) : (d.setSiteState i stRunning).siteState i = 2 := by
    rw [setSiteState_running]
    exact (Dev.get_refreshMode _ (by simp only [K.SITE_SITE_STATE, K.DEV_MODE_MODE]; omega)).trans
      (Dev.get_set_same _ _ _)
  unfold Dev.startSite Dev.enterRunning
  exact state _

section

variable {e : Fin 256} {s : State} (was : s.tickStart.hits 0 e 1 = true) (hit : s.dev.hits 0 e 1 = true)
include was hit

theorem siteStart_fires (ready : s.dev.startRefusal (s.dev.get (K.SCHED_TARGET 0 e)) = 0) :
    GivesAs (4, 1, e) (.siteStartHit e) s fun d => d.get (K.SCHED_STATE 0 e) = 2 ∧ d.get (K.SCHED_RESULT 0 e) = 0 ∧
      d.siteState (s.dev.get (K.SCHED_TARGET 0 e)) = 2 ∧ BytesKept s.dev d := by
  refine givesAs_of_doesAs (d := (s.dev.schedEnd 0 e seFIRED 0).startSite (s.dev.get (K.SCHED_TARGET 0 e)))
    (if_neg (by simp [acSITE_START, was])) (if_pos (by simp [acSITE_START, hit, ready])) ?_
  refine ⟨(get_startSite _ _ (markKey_state 0 e)).trans (s.dev.state_schedEnd 0 e _ 0),
    (get_startSite _ _ (markKey_result 0 e)).trans (s.dev.result_schedEnd 0 e _ 0), siteState_startSite _ _, fun a => ?_⟩
  exact Dev.memGet_congr ((Dev.startSite_memPart _ _).trans (s.dev.schedEnd_memPart _ _ _ _)) a

/-- A start of a site that is not Admitted, nor was at the start of the tick, is refused. -/
theorem siteStart_refused (out : s.dev.siteIn (s.dev.get (K.SCHED_TARGET 0 e)) [1] = false)
    (before : s.tickStart.siteIn (s.dev.get (K.SCHED_TARGET 0 e)) [1] = false) :
    GivesAs (4, 1, e) (.siteStartHit e) s fun d => d.get (K.SCHED_STATE 0 e) = 5 ∧ d.get (K.SCHED_RESULT 0 e) = 3 ∧
      BytesKept s.dev d := by
  have why {d : Dev} {i : Nat} (h : d.siteIn i [1] = false) : d.startRefusal i = srNOT_ADMITTED := by
    rw [Dev.startRefusal, show d.siteIn i [stAdmitted] = false from h]; rfl
  refine givesAs_of_doesAs (d := (s.dev.schedEnd 0 e seREFUSED srNOT_ADMITTED).schedLog 0x103 0 e srNOT_ADMITTED
      (some (s.dev.get (K.SCHED_TARGET 0 e)))) (if_neg (by simp [acSITE_START, was])) ?_ ?_
  · refine (if_neg (by simp [why out, srNOT_ADMITTED])).trans ((if_pos (by simp [why before, srNOT_ADMITTED])).trans ?_)
    refine (if_neg (by simp [acSITE_START, hit])).trans ?_
    rw [why out]
    rfl
  · exact ⟨(get_logB_mark _ _ _ _ _ (markKey_state 0 e)).trans (s.dev.state_schedEnd 0 e _ _),
      (get_logB_mark _ _ _ _ _ (markKey_result 0 e)).trans (s.dev.result_schedEnd 0 e _ _),
      ((s.dev.schedEnd_stopUnit _ _ _ _).trans (Dev.schedLog_stopUnit _ _ _ _ _ _)).bytes⟩

end

/-! ## A stop at its tick (R112, R315) -/

theorem siteStop_fires {e : Fin 256} {s : State} (hit : s.dev.hits 0 e 2 = true)
    (running : s.dev.siteIn (s.dev.get (K.SCHED_TARGET 0 e)) [2] = true)
    (first : s.dev.stopGiven (s.dev.get (K.SCHED_TARGET 0 e)) = false) :
    GivesAs (4, 2, e) (.siteStopHit e) s fun d => d.get (K.SCHED_STATE 0 e) = 2 ∧
      (d.site (s.dev.get (K.SCHED_TARGET 0 e))).req = some (4, s.dev.clock) ∧ BytesKept s.dev d := by
  refine givesAs_of_doesAs (d := (s.dev.schedEnd 0 e seFIRED 0).stopReq (s.dev.get (K.SCHED_TARGET 0 e)) 0x04) rfl
    (if_pos hit) ?_
  generalize s.dev.get (K.SCHED_TARGET 0 e) = i at *
  have ended : SiteKept i s.dev (s.dev.schedEnd 0 e seFIRED 0) :=
    ⟨s.dev.get_schedEnd (by simp only [MarkKey, K.SITE_SITE_STATE]; omega) _ _ _ _,
      s.dev.get_schedEnd (by simp only [MarkKey, K.SITE_CAUSE]; omega) _ _ _ _,
      by simp only [Dev.site, Dev.sites_schedEnd], (s.dev.schedEnd_stopUnit _ _ _ _).clock⟩
  have state : s.dev.siteState i = 2 := by simpa [Dev.siteIn] using running
  have state' := ended.state.trans state
  have first' := ended.stopGiven.trans first
  have unit := (s.dev.schedEnd_stopUnit 0 e seFIRED 0).trans (Dev.stopReq_stopUnit _ i 0x04)
  obtain ⟨-, req⟩ := Dev.stopReq_sampled (cause := 4) (by decide) state' first'
  refine ⟨?_, by rw [req, ended.clock], unit.bytes⟩
  rw [Dev.stopReq_running _ state' first', Dev.get_modSite, Dev.get_stopNoted]
  · exact s.dev.state_schedEnd 0 e _ 0
  · simp only [stopFields, List.map_cons, List.map_nil, List.mem_cons, List.not_mem_nil, or_false, K.SITE_CAUSE,
      K.SITE_STOP_TTI_LO, K.SITE_STOP_TTI_HI, K.SITE_STOPS, K.SCHED_STATE]
    omega
  · simp only [lostB, List.map_cons, List.map_nil, List.mem_cons, List.not_mem_nil, or_false, K.EVL_B_LOST_LO_COUNT_LO,
      K.EVL_B_LOST_HI_COUNT_HI, K.EVL_B_LOST_HI_OVF, K.SCHED_STATE]
    omega

/-! ## Entries of the dies' tables at their tick (R112, R230, R473) -/

/-- An entry of a die's table ends with its own mark alone. -/
theorem schedEnd_die (d : Dev) (n e st res : Nat) : d.schedEnd (n + 2) e st res = d.schedMark (n + 2) e st res := by
  simp only [Dev.schedEnd, show ¬n + 2 = 0 by omega, if_false]

theorem get_marked (d : Dev) (t e st res : Nat) {f : Fld} (h : ¬MarkKey f.key) : (d.schedMark t e st res).get f = d.get f :=
  d.get_schedMark h t e st res

section

variable {n : Die} {e : Fin 256} {s : State}

theorem event_fires (hit : s.dev.hits (n.val + 2) e 3 = true) {x i : Nat}
    (core : 16 * n.val + s.dev.get (K.SCHED_TARGET (n.val + 2) e) = x) (input : s.dev.get (K.SCHED_SUB (n.val + 2) e) = i)
    (small : x < 64) (idle : ∀ j dl r len, (s.dev.core x).ctl ≠ .waitE j dl r len) (below : s.dev.evi x i < 255) :
    GivesAs (4, 3, e) (.eventHit n e) s fun d => d.get (K.SCHED_STATE (n.val + 2) e) = 2 ∧ d.evi x i = s.dev.evi x i + 1 ∧
      FieldsOnly s.dev d [K.SCHED_STATE (n.val + 2) e, K.SCHED_RESULT (n.val + 2) e, K.SEQ_EVI_CNT_CNT (x / 16) (x % 16) i] := by
  have counter : ¬MarkKey (K.SEQ_EVI_CNT_CNT (x / 16) (x % 16) i).key := by simp only [MarkKey, K.SEQ_EVI_CNT_CNT]; omega
  have other : x ≠ 64 := by omega
  have count : (s.dev.schedMark (n.val + 2) e seFIRED 0).evi x i = s.dev.evi x i := by
    rw [Dev.evi_core _ other, Dev.evi_core _ other, get_marked _ _ _ _ _ counter]
  have arrives : (s.dev.schedMark (n.val + 2) e seFIRED 0).arrive x i 1 =
      (s.dev.schedMark (n.val + 2) e seFIRED 0).set (K.SEQ_EVI_CNT_CNT (x / 16) (x % 16) i) (s.dev.evi x i + 1) := by
    rw [Dev.arrive_idle (show ∀ i dl r len, ((s.dev.schedMark (n.val + 2) e seFIRED 0).core x).ctl ≠ .waitE i dl r len from
      idle) (by omega), count, Dev.setEvi_core _ other]
  refine givesAs_of_doesAs (d := (s.dev.schedMark (n.val + 2) e seFIRED 0).set (K.SEQ_EVI_CNT_CNT (x / 16) (x % 16) i)
    (s.dev.evi x i + 1)) rfl ((if_pos hit).trans ?_) ?_
  · rw [core, input, schedEnd_die, arrives]
  · refine ⟨(Dev.get_set_ne _ _ ?_).trans (state_schedMark _ _ _ _ _), ?_, ?_⟩
    · exact (key_ne_of counter (markKey_state _ _)).symm
    · rw [Dev.evi_core _ other]
      exact Dev.get_set_lt _ _ (show s.dev.evi x i + 1 < 2 ^ 8 by omega)
    · exact (((FieldsOnly.refl _ _).set _ ⟨K.SCHED_STATE (n.val + 2) e, by simp, rfl⟩).set _
        ⟨K.SCHED_RESULT (n.val + 2) e, by simp, rfl⟩).set _ ⟨K.SEQ_EVI_CNT_CNT (x / 16) (x % 16) i, by simp, rfl⟩

section

variable (hit : s.dev.hits (n.val + 2) e 4 = true)
include hit

theorem pdStart_fires (stopped : s.dev.get (K.TGN_PD_CFG_RUN n (s.dev.get (K.SCHED_TARGET (n.val + 2) e))) = 0) :
    let p := s.dev.get (K.SCHED_TARGET (n.val + 2) e)
    GivesAs (4, 4, e) (.pdStartHit n e) s fun d => d.get (K.SCHED_STATE (n.val + 2) e) = 2 ∧
      d.get (K.TGN_PD_CFG_RUN n p) = 1 ∧ tblFind d.tgn.pdStart (16 * n + p) = some s.dev.clock ∧
      FieldsKept s.dev d [K.SCHED_STATE (n.val + 2) e, K.SCHED_RESULT (n.val + 2) e, K.TGN_PD_CFG_RUN n p] := by
  intro p
  have run : ¬MarkKey (K.TGN_PD_CFG_RUN n p).key := by simp only [MarkKey, K.TGN_PD_CFG_RUN]; omega
  refine givesAs_of_doesAs (d := (s.dev.schedMark (n.val + 2) e seFIRED 0).pdStart n p s.dev.clock) rfl ?_ ?_
  · refine (if_neg (by simp [acPD_START, hit])).trans ((if_neg (by simp [Dev.on, stopped])).trans ?_)
    rw [schedEnd_die]
  · refine ⟨?_, Dev.get_put_same _ _ true (show 0 < 1 by decide), tblFind_put_same _ _ _, fun f hf => ?_⟩
    · exact (Dev.get_put_ne _ true (key_ne_of run (markKey_state _ _)).symm).trans (state_schedMark _ _ _ _ _)
    · exact (Dev.get_put_ne _ true (hf _ (by simp))).trans ((Dev.get_set_ne _ _ (hf _ (by simp))).trans
        (Dev.get_set_ne _ _ (hf _ (by simp))))

theorem pdStart_refused (runs : s.dev.get (K.TGN_PD_CFG_RUN n (s.dev.get (K.SCHED_TARGET (n.val + 2) e))) = 1) :
    let p := s.dev.get (K.SCHED_TARGET (n.val + 2) e)
    GivesAs (4, 4, e) (.pdStartHit n e) s fun d => d.get (K.SCHED_STATE (n.val + 2) e) = 5 ∧
      d.get (K.TGN_PD_CFG_RUN n p) = 1 ∧ d.tgn = s.dev.tgn := by
  intro p
  have run : ¬MarkKey (K.TGN_PD_CFG_RUN n p).key := by simp only [MarkKey, K.TGN_PD_CFG_RUN]; omega
  have record (d : Dev) {f : Fld} (h : f.key % 64 = 24 ∨ f.key % 64 = 1) :
      (d.logBOn n 0x10E cblkTGN p).get f = d.get f := Dev.get_post_b d rfl (keys_ne_of (by
    simp only [lostB, List.map_cons, List.map_nil, List.mem_cons, List.not_mem_nil, or_false, K.EVL_B_LOST_LO_COUNT_LO,
      K.EVL_B_LOST_HI_COUNT_HI, K.EVL_B_LOST_HI_OVF]
    omega))
  refine givesAs_of_doesAs (d := (s.dev.schedMark (n.val + 2) e seREFUSED srBAD_TARGET).logBOn n 0x10E cblkTGN p) rfl ?_ ?_
  · refine (if_neg (by simp [acPD_START, hit])).trans ((if_pos (by simp [Dev.on, runs])).trans ?_)
    rw [schedEnd_die]
  · refine ⟨(record _ (by simp only [K.SCHED_STATE]; omega)).trans (state_schedMark _ _ _ _ _),
      (record _ (by simp only [K.TGN_PD_CFG_RUN]; omega)).trans ((get_marked _ _ _ _ _ run).trans runs), ?_⟩
    exact (Dev.logBOn_stopUnit _ _ _ _ _ _).tgn

end

theorem pwrState_fires (hit : s.dev.hits (n.val + 2) e 6 = true) (small : s.dev.get (K.SCHED_SUB (n.val + 2) e) ≤ 4)
    (t : TblId) (table : t.val = n.val + 2) : GivesAs (4, 6, e) (.pwrStateHit t e) s fun d =>
      d.get (K.SCHED_STATE (n.val + 2) e) = 2 ∧
      d.get (K.PWR_DIE_STATE_DECL_MAX n) = s.dev.get (K.SCHED_SUB (n.val + 2) e) ∧
      FieldsOnly s.dev d [K.SCHED_STATE (n.val + 2) e, K.SCHED_RESULT (n.val + 2) e, K.PWR_DIE_STATE_DECL_MAX n] := by
  have sub : (s.dev.schedMark (n.val + 2) e seFIRED 0).get (K.SCHED_SUB (n.val + 2) e) =
      s.dev.get (K.SCHED_SUB (n.val + 2) e) := get_marked _ _ _ _ _ (by simp only [MarkKey, K.SCHED_SUB]; omega)
  have apart : (K.SCHED_STATE (n.val + 2) e).key ≠ (K.PWR_DIE_STATE_DECL_MAX n).key := by
    simp only [K.SCHED_STATE, K.PWR_DIE_STATE_DECL_MAX]; omega
  refine givesAs_of_doesAs (d := (s.dev.schedMark (n.val + 2) e seFIRED 0).set (K.PWR_DIE_STATE_DECL_MAX n)
    (s.dev.get (K.SCHED_SUB (n.val + 2) e))) rfl ?_ ?_
  · have channel : ¬t.val < 2 := by omega
    rw [table] at channel ⊢
    refine (if_neg (by simp [acPWR_STATE, hit])).trans ((if_neg channel).trans ?_)
    rw [schedEnd_die, sub, Nat.add_sub_cancel]
  · exact ⟨(Dev.get_set_ne _ _ apart).trans (state_schedMark _ _ _ _ _),
      Dev.get_set_lt _ _ (show s.dev.get (K.SCHED_SUB (n.val + 2) e) < 2 ^ 3 by omega),
      (((FieldsOnly.refl _ _).set _ ⟨K.SCHED_STATE (n.val + 2) e, by simp, rfl⟩).set _
        ⟨K.SCHED_RESULT (n.val + 2) e, by simp, rfl⟩).set _ ⟨K.PWR_DIE_STATE_DECL_MAX n, by simp, rfl⟩⟩

end

/-! ## Pulses (R112, R507) -/

section

variable {t : TblId} {e : Fin 256} {s : State} (hit : s.dev.hits t e 5 = true)

theorem trigPin_schedEnd (d : Dev) (t e st res p : Nat) : (d.schedEnd t e st res).trigPin p = d.trigPin p := by
  have func : (d.schedEnd t e st res).get (K.GPI_FUNC (p / 16)) = d.get (K.GPI_FUNC (p / 16)) :=
    d.get_schedEnd (by simp only [MarkKey, K.GPI_FUNC]; omega) _ _ _ _
  have claim : (d.schedEnd t e st res).snt = d.snt := by rw [d.schedEnd_stopUnit t e st res]
  simp only [Dev.trigPin, func, claim]

/-- An entry's end keeps the pulses. -/
theorem pulses_schedEnd (d : Dev) (t e st res : Nat) : (d.schedEnd t e st res).sched.pulses = d.sched.pulses := by
  simp only [Dev.schedEnd]
  split
  · refine (Dev.each_keeps (fun d : Dev => d.sched.pulses) _ _ _ fun d p => ?_).trans ?_
    · rfl
    · rfl
  · rfl

/-- A record leaves the schedule unit. -/
theorem sched_post (d : Dev) (r : Rec) : (d.post r).sched = d.sched := by rw [d.post_part]

/-- A pulse begins, in place of one on the same pin or line. -/
def pulsed (d : Dev) (p : Pulse) : Dev :=
  { d with sched := { d.sched with pulses :=
      (d.sched.pulses.filter fun x => !(x.die == p.die && x.kind == p.kind && x.line == p.line)) ++ [p] } }

include hit

theorem trigOut_pulses (served : s.dev.get (K.SCHED_SUB t e) ≠ 0 ∨ s.dev.trigPin (s.dev.get (K.SCHED_TARGET t e)) = true) :
    let k := s.dev.get (K.SCHED_SUB t e)
    let l := s.dev.get (K.SCHED_TARGET t e)
    GivesAs (4, 5, e) (.trigOutHit t e) s fun d => d.get (K.SCHED_STATE t e) = 2 ∧
      (⟨t, k, l, s.dev.clock + s.dev.get (K.SCHED_ARG t e)⟩ : Pulse) ∈ d.sched.pulses ∧
      (∀ p ∈ s.dev.sched.pulses, p.die ≠ t.val ∨ p.kind ≠ k ∨ p.line ≠ l → p ∈ d.sched.pulses) ∧ BytesKept s.dev d := by
  intro k l
  have ended := s.dev.schedEnd_stopUnit t e seFIRED 0
  have arg : (s.dev.schedEnd t e seFIRED 0).get (K.SCHED_ARG t e) = s.dev.get (K.SCHED_ARG t e) :=
    s.dev.get_schedEnd (by simp only [MarkKey, K.SCHED_ARG]; omega) _ _ _ _
  have drive : ¬(s.dev.get (K.SCHED_SUB t e) = 0 ∧
      (!(s.dev.schedEnd t e seFIRED 0).trigPin (s.dev.get (K.SCHED_TARGET t e))) = true) := by
    rw [trigPin_schedEnd]
    rcases served with line | pin
    · exact fun h => line h.1
    · simp [pin]
  refine givesAs_of_doesAs (d := pulsed (s.dev.schedEnd t e seFIRED 0) ⟨t, k, l, s.dev.clock + s.dev.get (K.SCHED_ARG t e)⟩)
    rfl ?_ ?_
  · refine (if_neg (by simp [acTRIG_OUT, hit])).trans ((if_neg drive).trans ?_)
    rw [arg, ended.clock]
    rfl
  · refine ⟨s.dev.state_schedEnd t e _ 0, List.mem_append_right _ (List.mem_singleton_self _), fun p hp other => ?_,
      fun a => ?_⟩
    · refine List.mem_append_left _ (List.mem_filter.mpr ⟨by rw [pulses_schedEnd]; exact hp, ?_⟩)
      simp only [Bool.not_eq_true', Bool.and_eq_false_iff, beq_eq_false_iff_ne]
      tauto
    · exact (ended.bytes a).symm ▸ rfl

theorem trigOut_drops (pin : s.dev.get (K.SCHED_SUB t e) = 0)
    (other : s.dev.trigPin (s.dev.get (K.SCHED_TARGET t e)) = false) :
    GivesAs (4, 5, e) (.trigOutHit t e) s fun d => d.get (K.SCHED_STATE t e) = 2 ∧
      d.sched.pulses = s.dev.sched.pulses ∧ BytesKept s.dev d := by
  have ended := s.dev.schedEnd_stopUnit t e seFIRED 0
  have logged := Dev.logB_stopUnit (s.dev.schedEnd t e seFIRED 0) 0x11E blkGPI (s.dev.get (K.SCHED_TARGET t e)) none
  have dropped : s.dev.get (K.SCHED_SUB t e) = 0 ∧
      (!(s.dev.schedEnd t e seFIRED 0).trigPin (s.dev.get (K.SCHED_TARGET t e))) = true := by
    rw [trigPin_schedEnd]
    exact ⟨pin, by simp [other]⟩
  refine givesAs_of_doesAs (d := (s.dev.schedEnd t e seFIRED 0).logB 0x11E blkGPI (s.dev.get (K.SCHED_TARGET t e))) rfl
    ((if_neg (by simp [acTRIG_OUT, hit])).trans (if_pos dropped)) ?_
  exact ⟨(get_logB_mark _ _ _ _ _ (markKey_state t e)).trans (s.dev.state_schedEnd t e _ 0),
    by rw [Dev.logB, sched_post, pulses_schedEnd], (ended.trans logged).bytes⟩

end

theorem pulseEnd_filters (t : TblId) (k : Fin 2) (l : Fin 64) (s : State) : Gives (.trigOutPulseEnd t k l) s fun d =>
    (∀ p : Pulse, p ∈ d.sched.pulses ↔ p ∈ s.dev.sched.pulses ∧
      ¬ (p.die = t.val ∧ p.kind = k.val ∧ p.line = l.val ∧ p.until' ≤ s.dev.clock)) ∧
    d = { s.dev with sched := { s.dev.sched with pulses := d.sched.pulses } } := by
  refine gives_of_does rfl ⟨fun p => ?_, rfl⟩
  simp only [List.mem_filter, Bool.not_eq_true', Bool.and_eq_false_iff, beq_eq_false_iff_ne, decide_eq_false_iff_not, not_and]
  tauto

/-- Settles O26: an entry is judged at its ARM, copied to the dies of its start, and does its action at its tick. -/
theorem scheduleTables : Obligations.ScheduleTables := by
  intro m t e w n s
  refine ⟨fun hl present => ⟨fun free => ⟨arm_refused hl present free, arm_missed hl present free,
      arm_arms hl present free⟩, arm_inUse hl w present, disarm_cancels hl w present⟩,
    fun placing armed => ⟨placement_places placing armed, placement_cancels placing armed⟩,
    fun was hit => ⟨siteStart_fires was hit, siteStart_refused was hit⟩, siteStop_fires, ?_,
    fun hit => ⟨pdStart_fires hit, pdStart_refused hit⟩, fun hit => ⟨trigOut_pulses hit, trigOut_drops hit⟩,
    fun hit small t' table => pwrState_fires hit small t' table, fun k l => pulseEnd_filters t k l s⟩
  intro hit x i small _ idle below
  exact event_fires hit rfl rfl small idle below

/-! ## Devices that the clauses speak of -/

/-- Time 0, and entry 7 of the hub table names tick 100. -/
def entryTimed : State :=
  { State.outOfReset with dev := State.outOfReset.dev.set (K.SCHED_TTI_LO 0 7) 100 }

theorem entryTimed_arms : GivesAs (6, 1, 7) (.arm .pf 0 7 0x502) entryTimed fun d =>
    d.get (K.SCHED_STATE 0 7) = 1 ∧ d.get (K.SCHED_ACTION 0 7) = 2 ∧ d.get (K.SCHED_TARGET 0 7) = 5 := by
  have lets : Lets entryTimed .pf (schedWord2 0 7) true := by unfold Lets; decide
  obtain ⟨d, run, state, -, action, target, -⟩ := arm_arms (m := .pf) (t := 0) (e := 7) (w := 0x502) lets (by decide)
    (by decide) (by decide) (by decide) (by decide)
  exact ⟨d, run, state, action, target⟩

theorem entryTimed_misses : GivesAs (6, 1, 7) (.arm .pf 0 7 0x501) entryTimed fun d => d.get (K.SCHED_STATE 0 7) = 3 := by
  have lets : Lets entryTimed .pf (schedWord2 0 7) true := by unfold Lets; decide
  obtain ⟨d, run, state, -⟩ := arm_missed (m := .pf) (t := 0) (e := 7) (w := 0x501) lets (by decide) (by decide) (by decide)
    (by decide)
  exact ⟨d, run, state⟩

/-- Entry 9 of die 1's table sends an event to input 6 of core 20 in this tick. -/
def eventDue : State :=
  { State.outOfReset with dev := (((State.outOfReset.dev.set (K.SCHED_STATE 3 9) 1).set (K.SCHED_ACTION 3 9) 3).set
      (K.SCHED_TARGET 3 9) 4).set (K.SCHED_SUB 3 9) 6 }

theorem eventDue_fires : GivesAs (4, 3, 9) (.eventHit 1 9) eventDue fun d =>
    d.get (K.SCHED_STATE 3 9) = 2 ∧ d.evi 20 6 = 1 := by
  obtain ⟨d, run, state, count, -⟩ := event_fires (n := 1) (e := 9) (s := eventDue) (by decide) (x := 20) (i := 6) (by decide)
    (by decide) (by decide) (fun _ _ _ _ h => by cases h) (by decide)
  exact ⟨d, run, state, count⟩

/-- Entry 3 of the hub table stops site 5, which runs, in this tick. -/
def stopDue : State :=
  { State.outOfReset with dev := (((State.outOfReset.dev.set (K.SCHED_STATE 0 3) 1).set (K.SCHED_ACTION 0 3) 2).set
      (K.SCHED_TARGET 0 3) 5).set (K.SITE_SITE_STATE 5) 2 }

theorem stopDue_fires : GivesAs (4, 2, 3) (.siteStopHit 3) stopDue fun d =>
    d.get (K.SCHED_STATE 0 3) = 2 ∧ (d.site 5).req = some (4, stopDue.dev.clock) := by
  obtain ⟨d, run, state, req, -⟩ := siteStop_fires (e := 3) (s := stopDue) (by decide) (by decide) (by decide)
  exact ⟨d, run, state, req⟩

end Sys2Proof.Slice0
end
